-- ==== Sys2Proof/Word.lean ====
section
/-! DEFINITION. The word types of the QB-9416 (00_scope.md R8, R9). -/

namespace Sys2Proof

/-- A byte of a frame, a record or HBM. -/
abbrev Byte := BitVec 8

/-- A 32-bit register value (R9). -/
abbrev Word := BitVec 32

/-- A 24-bit endpoint coordinate (R15). -/
abbrev Coord := BitVec 24

end Sys2Proof
end

