-- ==== Sys2Proof/Syntax.lean ====
section
/-! DEFINITION. The commands of the block: one constructor per row of spec/opcode_table.json. A row that
the spec gives a frame or a command takes its bytes; a register write takes the requester and the 32-bit
value; a physical happening (a bit error, a sensor value, a pin) is an operand (log 11). -/

namespace Sys2Proof

/-- The two requesters of a register access (R513). -/
inductive Req where
  | host
  | mgmt
deriving DecidableEq, Repr

/-- How a command reached the management station (R495). -/
inductive Via where
  | port (p : BitVec 7)
  | host
  | self
deriving DecidableEq, Repr

/-- The header of a whole command (R484): requester, world bit, arrival, virtual channel, sequence tag. -/
structure CmdHdr where
  src   : Coord
  world : Bool
  via   : Via
  vc    : BitVec 3
  tag   : BitVec 32
deriving DecidableEq, Repr

/-- A bucket is named by context, epoch and tag (R133). -/
structure BKey where
  ctx   : BitVec 12
  epoch : BitVec 16
  tag   : BitVec 16
deriving DecidableEq, Repr

/-- A chunk of a bucket (R136). -/
structure CKey where
  b     : BKey
  chunk : BitVec 18
deriving DecidableEq, Repr

/-- A fault of the silicon met by one arithmetic operation: none, bits of the two's-complement sum of an element of the
row that change (R81), bits of one class copy that change (R82), an uncorrectable SRAM word (R82), or a corrected one (R82). -/
inductive Upset where
  | none
  | flip (i : BitVec 8) (x : BitVec 128)
  | cls (x : BitVec 2)
  | sram
  | corrected
deriving DecidableEq, Repr

/-- A chunk that the metro stage narrows, and whether the two datapaths of its egress converter disagree (R97, R116, R183). -/
structure CloseOf where
  chunk : CKey
  dup   : Bool
deriving DecidableEq, Repr

/-- An instance of a huddle group by its start, and what its sums meet at a deadline (R236). -/
structure InstAt where
  start : BitVec 32
  upset : Upset
deriving DecidableEq, Repr

/-- The 272 bytes of a codeword and its number, which they do not hold (R397, R400). -/
structure CodewordIn where
  bytes : List Byte
  seq   : BitVec 32
deriving DecidableEq, Repr

/-- A 64 B line of an HBM stack (R366). -/
structure HLine where
  stack : BitVec 4
  line  : Fin 1342177280
deriving DecidableEq, Repr

/-- A symbol error of the memory code (R357): position among the 36 symbols, and the bits changed. -/
structure SymErr where
  pos : Fin 36
  x   : BitVec 16
deriving DecidableEq, Repr

/-- What bring-up found at a step: lane order, polarity, the peer's IDENT (R407, R409), and the measured
delays of step 7 being 16 valid values (R257). -/
structure BringInfo where
  lanes    : Vector (BitVec 3) 8
  polarity : BitVec 8
  peer     : Coord
  peerLink : BitVec 8
  serial   : BitVec 64
deriving DecidableEq, Repr

/-- The kinds of field test (R437, R505). -/
inductive FtKind where
  | desk | iconv | econv | engine | huddle | adders | region
deriving DecidableEq, Repr

/-- An egress: links 0 to 127, then the second halves of G-links 96 to 127 as 128 to 159 (R323, R395). -/
abbrev Eg := Fin 160

inductive Instr where
  -- bell ticks, frames, routing, traffic manager
  | tickBoundary
  | frameReceive (e : Eg) (bytes : List Byte) (colour : BitVec 2)
  | frameTransmit (e : Eg)
  | ecnEchoSend (src : Coord) (vc : BitVec 3)
  | ecnRecover (port : BitVec 7) (vc : BitVec 3)
  | reorderGapTimeout (sw : BitVec 13) (vc : BitVec 3)
  | corridorSlotEnter (corr : Fin 16) (station : Fin 53)
  | shaperRefill
  | policerRefill
  | gateEntryChange (port : BitVec 7)
  | gateListActivate (port : BitVec 7)
  | gateDisable (who : Req) (port : BitVec 7) (v : Word)
  | gateDisableTakeEffect (port : BitVec 7)
  -- reduction desks
  | convertBlock (l : Fin 128) (dup : Bool)
  | chunkAdmit
  | admitNoteTimeout (k : CKey)
  | deskAdd (p : Fin 272) (u : Upset)
  | chunkBind (p : Fin 272)
  | deskClose (k : CKey)
  | rowRelease (p : Fin 272) (k : CKey)
  | helperReturn (p : Fin 272) (k : CKey)
  | helperRowMerge (p : Fin 272) (k : CKey) (u : Upset)
  | twinRowCompare (p : Fin 272) (k : CKey)
  | econvRow (l : Fin 128) (u : Upset) (dup : Bool)
  | stealRound
  | rfabBenchGo (who : Req) (v : Word)
  | deskDrainComplete (p : Fin 272)
  | deskDrainTimeout (p : Fin 272)
  | spareKatStart
  | spareKatEnd (pass : Bool)
  | spareMapTake
  -- groups and buckets
  | bucketOpen (h : CmdHdr) (p : List Byte)
  | parentOpenReply (h : CmdHdr) (status : BitVec 16) (p : List Byte)
  | bucketPendingTimeout (k : BKey)
  | bucketAbort (h : CmdHdr) (p : List Byte)
  | lateLimit (k : BKey)
  | bucketChecksComplete (k : BKey)
  | commitPoint (k : BKey)
  | groupCreate (h : CmdHdr) (p : List Byte)
  | groupModify (h : CmdHdr) (p : List Byte)
  | groupQuery (h : CmdHdr) (p : List Byte)
  | groupDestroy (h : CmdHdr) (p : List Byte)
  | groupExport (h : CmdHdr) (p : List Byte)
  | groupImport (h : CmdHdr) (p : List Byte)
  | huddleCreate (h : CmdHdr) (p : List Byte)
  | huddleModify (h : CmdHdr) (p : List Byte)
  | huddleQuery (h : CmdHdr) (p : List Byte)
  | huddleDestroy (h : CmdHdr) (p : List Byte)
  -- notices
  | ink (h : CmdHdr) (p : List Byte)
  | inkPortRelease (k : BKey) (port : BitVec 7)
  | erase (h : CmdHdr) (p : List Byte)
  | aborted (h : CmdHdr) (p : List Byte)
  | checkReport (h : CmdHdr) (p : List Byte)
  | metroJoin (h : CmdHdr) (p : List Byte)
  | metroResend (h : CmdHdr) (p : List Byte)
  | eraseRequest (h : CmdHdr) (p : List Byte)
  | metroGathered (h : CmdHdr) (p : List Byte)
  | noticeAck (h : CmdHdr) (p : List Byte)
  | noticeRetryTimeout (n : Nat)
  | metroHoldTimeout (k : BKey)
  | metroLateLimit (k : BKey)
  | metroChunkClose (x : CloseOf)
  | metroGatherReceive
  | metroGatherLapse (k : BKey)
  -- shards and lessons
  | shardBind (h : CmdHdr) (p : List Byte)
  | shardUnbind (h : CmdHdr) (p : List Byte)
  | shardQuery (h : CmdHdr) (p : List Byte)
  | shardScalars (h : CmdHdr) (p : List Byte)
  | shardRepublish (h : CmdHdr) (p : List Byte)
  | lessonLoad (h : CmdHdr) (p : List Byte)
  | lessonQuery (h : CmdHdr) (p : List Byte)
  | normBind (h : CmdHdr) (p : List Byte)
  | normPassDone (shard : BitVec 10)
  | runStart (shard : BitVec 10)
  | engineRowStart (e : Fin 64)
  | engineRowComplete (e : Fin 64) (u : Upset)
  | engineKatEnd (e : Fin 64) (pass : Bool)
  | runStallTimeout (shard : BitVec 10)
  -- huddle
  | huddleFrameReceive (u : Upset)
  | huddleMemberDeadline (g : BitVec 8) (x : InstAt)
  | huddleChildDeadline (g : BitVec 8) (x : InstAt)
  | huddleFenceGo (who : Req) (v : Word)
  | huddleGroupMove (unit : BitVec 4)
  -- bell and record
  | bellWordSend (l : Fin 128)
  | bellWordReceive (l : Fin 128) (word : List Byte)
  | bellEnable (who : Req) (v : Word)
  | bellSetGo (who : Req) (v : Word)
  | ppsEdge
  | ppsMiss
  | ppsOutEdge
  | bellTickGo (who : Req) (v : Word)
  | tickChangeEffect
  | bellStepArm (who : Req) (v : Word)
  | bellStepOriginWrite (who : Req) (v : Word)
  | stepTick
  | replayStart (h : CmdHdr) (p : List Byte)
  | replayStop (h : CmdHdr) (p : List Byte)
  -- ports, gates, mirrors
  | portEnable (who : Req) (port : BitVec 7) (v : Word)
  | portModeChange (port : BitVec 7)
  | linkPortWrite (who : Req) (l : Fin 128) (v : Word)
  | rteResync (who : Req) (v : Word)
  | gateLoad (h : CmdHdr) (p : List Byte)
  | mirrorEnable (who : Req) (m : BitVec 2) (v : Word)
  -- memory
  | rollCall
  | poolBankFetch (hbm : Bool) (bank : BitVec 4)
  | read (a : HLine) (errs : List SymErr)
  | write (a : HLine) (mask : BitVec 64) (data : List Byte)
  | initZero (a : HLine) (mask : BitVec 16) (wide : Bool)
  | addKz64 (a : HLine) (mask : BitVec 8) (data : List Byte) (number : BitVec 10) (differ : Bool)
  | addKf32 (a : HLine) (mask : BitVec 16) (data : List Byte) (differ : Bool)
  | addKi32 (a : HLine) (mask : BitVec 16) (data : List Byte) (differ : Bool)
  | addKi64 (a : HLine) (mask : BitVec 8) (data : List Byte) (differ : Bool)
  | readCheck (a : HLine) (errs : List SymErr)
  | scrubPass (stack : BitVec 4) (errs : List (Fin 1342177280 × List SymErr))
  | hbmTempSample (stack : BitVec 4) (temp : BitVec 8)
  | evacShareDone (region : BitVec 12) (way : BitVec 4)
  | evacRetry
  | hbmFence (who : Req) (stack : BitVec 4) (v : Word)
  | hbmUnfence (who : Req) (stack : BitVec 4) (v : Word)
  | memQuotaWrite (who : Req) (k : BitVec 2) (v : Word)
  | memThermCfgWrite (who : Req) (v : Word)
  | regionCreate (h : CmdHdr) (p : List Byte)
  | regionDestroy (h : CmdHdr) (p : List Byte)
  | regionQuery (h : CmdHdr) (p : List Byte)
  | regionWrite (h : CmdHdr) (p : List Byte) (last : Bool)
  | regionRead (h : CmdHdr) (p : List Byte)
  | regionAdd (h : CmdHdr) (p : List Byte)
  -- links and modules
  | linkMessageReceive (l : Fin 128) (msg : List Byte)
  | codewordReceive (l : Fin 128) (cw : CodewordIn)
  | bringupStepComplete (l : Fin 128) (i : BringInfo)
  | bringupStepTimeout (l : Fin 128)
  | bringupRestart (l : Fin 128)
  | linkAdmit (l : Fin 128)
  | laneLockLost (l : Fin 128)
  | marginMeasure (l : Fin 128) (margins : Vector (BitVec 8) 8)
  | linkEnable (who : Req) (l : Fin 128) (v : Word)
  | linkRetrain (who : Req) (l : Fin 128) (v : Word)
  | linkLoopbackSelect (who : Req) (l : Fin 128) (v : Word)
  | linkPrbsEnable (who : Req) (l : Fin 128) (v : Word)
  | linkExpectWrite (who : Req) (l : Fin 128) (v : Word)
  | sidebandScan (present latch intr : BitVec 128) (chainOk : Bool)
  | moduleInsert (l : Fin 128)
  | moduleLatchOpen (l : Fin 128)
  | linkDrainEnd (l : Fin 128)
  | moduleRemoved (l : Fin 128)
  | ledRefresh (chainOk : Bool)
  | encapFrameReceive (l : Fin 128) (mac : List Byte) (fcsOk : Bool)
  -- flash
  | roceAckTimeout (conn : BitVec 6)
  | flashKeepaliveLapse (conn : BitVec 6)
  | roceCnpReceive (conn : BitVec 6)
  | pfcPauseReceive (l : Fin 128) (prio : BitVec 3) (ns : BitVec 32)
  | rdmaAccess (conn : BitVec 6) (isWrite : Bool) (region : Word) (off : BitVec 64) (len : BitVec 32) (data : List Byte)
  | flashTransferComplete (conn : BitVec 6) (ok : Bool)
  | flashConnect (h : CmdHdr) (p : List Byte) (blockSize : BitVec 32) (capacity : BitVec 64) (ok : Bool)
  | flashDisconnect (h : CmdHdr) (p : List Byte)
  | flashRead (h : CmdHdr) (p : List Byte)
  | flashWrite (h : CmdHdr) (p : List Byte)
  -- referee and field tests
  | faultRaise (n : BitVec 10)
  | refWindowEnd (n : BitVec 10)
  | refAck (who : Req) (v : Word)
  | refClear (who : Req) (v : Word)
  | refRaise (who : Req) (v : Word)
  | refQuietExpire (n : BitVec 10)
  | fieldTest (h : CmdHdr) (p : List Byte)
  | fieldTestStart
  | fieldTestEnd (kind : FtKind) (pass : Bool)
  | fieldTestRequeue
  | unitDrainTimeout (kind : FtKind) (unit : BitVec 9)
  -- surviving failures
  | mirrorFrameReceive
  | mirrorBeat
  | mirrorResendTimeout
  | partnerLost
  | ckpMirrorDisable (who : Req) (v : Word)
  | lineRebuildDone (a : HLine) (data : Option (List Byte))
  | partnerBind (h : CmdHdr) (p : List Byte)
  | partnerUnbind (h : CmdHdr) (p : List Byte)
  | partnerTakeover (h : CmdHdr) (p : List Byte)
  | checkpointWrite (h : CmdHdr) (p : List Byte)
  | checkpointShardCopy (shard : BitVec 10)
  | checkpointConfirm (h : CmdHdr) (p : List Byte)
  | checkpointRead (h : CmdHdr) (p : List Byte)
  -- commands and the host
  | hostSubmit (slot : BitVec 8) (bytes : List Byte) (len : Word)
  | hostRxDeliver
  | cmdRxEnable (who : Req) (v : Word)
  | cmdAssemblyTimeout (src : Coord) (vc : BitVec 3)
  | cmdUnknownOpcode (h : CmdHdr) (opcode : BitVec 16) (p : List Byte)
  | deviceQuery (h : CmdHdr) (p : List Byte)
  | eventRead (h : CmdHdr) (p : List Byte)
  | sensorRead (h : CmdHdr) (p : List Byte)
  | attestQuote (h : CmdHdr) (p : List Byte)
  | attestBatchClose (writesOk : Bool)
  | fwLoad (h : CmdHdr) (p : List Byte)
  | fwActivate (h : CmdHdr) (p : List Byte) (signatureOk : Bool)
  | fwConfirm
  | fwRevert
  | serviceDrain (h : CmdHdr) (p : List Byte)
  | serviceDrainComplete
  | attnPress (ms : BitVec 32)
  | locateTimeout
  | lockstepMismatch
  | sitonelRestartDone (ok : Bool)
  | sensorSample (readings : List (BitVec 7 × BitVec 2 × BitVec 32))
  | functionLevelReset
  | pcieLinkDown
  | sitBlkWorldWrite (who : Req) (v : Word)
  -- registers
  | setAliasWrite (who : Req) (addr : BitVec 28) (v : Word) (be : BitVec 4)
  | clearAliasWrite (who : Req) (addr : BitVec 28) (v : Word) (be : BitVec 4)
  | toggleAliasWrite (who : Req) (addr : BitVec 28) (v : Word) (be : BitVec 4)
  | blkUnlock (who : Req) (addr : BitVec 28) (v : Word)
  | cntClear (who : Req) (addr : BitVec 28) (v : Word)
  | postedWriteDone (addr : BitVec 28)
  | multiwordLatchRead (who : Req) (addr : BitVec 28)
  | voteSweep (upsets : List (BitVec 28 × Fin 3 × Word))
  | registerWrite (who : Req) (addr : BitVec 28) (v : Word) (be : BitVec 4)
  -- resets, supplies, clocks
  | fabricReset (who : Req) (v : Word)
  | fabricResetDone
  | haltGo (who : Req) (v : Word)
  | railRise (rail : Fin 10) (mV : BitVec 16)
  | powerLoss (rail : Fin 10) (stuckMs : BitVec 16)
  | powerOnReset (aOk bOk : Bool)
  | deviceReady
  | managementReset
  | pciePerst
  | refclkLoss (input : Fin 10)
  | refclkReturn (input : Fin 10)
  | thermtrip (mC : BitVec 32)
  | groupImportInstalled (ctx : BitVec 12)
  | pcieLinkUp
  | busMasteringChange (on : Bool)
  | refRecordCopy
  | porstNLow
deriving DecidableEq, Repr

end Sys2Proof
end

