-- ==== Sys2Proof/Config.lean ====
section
/-! DEFINITION. What one implementation fixes, and the free values: constants without a body, of which no
proof can see the value. -/

namespace Sys2Proof

/-- Device serial number, from the fuses (R526). Free. -/
opaque Config.serial : BitVec 64

/-- Silicon stepping, from the fuses (R527). Free. -/
opaque Config.stepping : BitVec 8

/-- Byte of a firmware slot before anything has been written to it: the image shipped in it (R545). Free. -/
opaque Config.flashByte : Nat → Nat → Byte

/-- Code within its class of an event record, by class and kind of happening (R536). Free (log 35). -/
opaque Config.eventCode : Nat → Nat → Nat

/-- Data of an event record of another class than 0, by class, kind of happening, its particulars and event index (R536). Free (log 35). -/
opaque Config.eventData : Nat → Nat → List Nat → Nat → Nat → Byte

/-- RSQRT of R204 is given to within 2 ulp: a free value, taken only where it lies within the bound (log 12). -/
opaque Config.rsqrtFree : BitVec 32 → BitVec 32

/-- RCP of R204 is given to within 2 ulp: a free value, taken only where it lies within the bound (log 12). -/
opaque Config.rcpFree : BitVec 32 → BitVec 32

/-- Byte i of the XMSS signature of a key's leaf over a message (R545, R550): the key is secret. Free (log 13). -/
opaque Config.xmssByte : BitVec 1 → Nat → List Byte → Nat → Byte

/-- The bell increment that steering takes within the 200 ppm of R258, as a function of the offset and the
count of free values taken: the law is not given. Free (log 14). -/
opaque Config.steerFree : Int → Nat → Nat

/-- Management coordinate of the METRO_OWNER of a context and rank: no field of R118 holds it. Free (log 21). -/
opaque Config.metroOwner : Nat → Nat → Coord

/-- SHARD_BIND fields and world of a shard of the partner, by its number: how they reach this switch is not stated (R462). Free (log 33). -/
opaque Config.peerShard : Nat → List Byte × Bool

/-- A free natural number, by the count of free values taken. -/
opaque Config.freeNat : Nat → Nat

/-- A free byte, by the count of free values taken and its place. -/
opaque Config.freeByte : Nat → Nat → Byte

/-- Fused state of a physical desk (R111): 0 ENABLED, 1 SPARE, 2 DEAD. PRESUMED: 256 to 263 SPARE and 264 to
271 DEAD, one fusing that R111 allows (log 5). -/
def Config.fuse (p : Nat) : Nat :=
  if p < 256 then 0 else if p < 264 then 1 else 2

/-- Log region size in 2 MiB granules at reset (R458, CKP_LOG_SIZE of R481). -/
def Config.logGranules : Nat := 8192

/-- What an HBM byte that nothing has written reads as. DESIGN CHOICE (log 1). -/
def Config.hbmFill : Byte := 0

end Sys2Proof
end

