-- ==== Sys2Proof/Machine/Bits.lean ====
section
/-! DEFINITION. Bit fields, big-endian bytes (R9), two's complement, and the canonical sparse table: a list of
(key, value) pairs with keys strictly rising and no entry equal to what an unlisted key reads as. -/

namespace Sys2Proof.Machine

/-- Bits [hi:lo] of a number (R8). -/
def bits (n hi lo : Nat) : Nat := (n >>> lo) % 2 ^ (hi + 1 - lo)

/-- Bit i of a number. -/
def bit (n i : Nat) : Bool := n.testBit i

/-- n with bits [hi:lo] replaced by v. -/
def putBits (n hi lo v : Nat) : Nat :=
  n - (bits n hi lo <<< lo) + ((v % 2 ^ (hi + 1 - lo)) <<< lo)

/-- n with bit i set or cleared. -/
def putBit (n i : Nat) (b : Bool) : Nat := putBits n i i b.toNat

/-- The big-endian number of a byte list (R9). -/
def beNat (bs : List Byte) : Nat := bs.foldl (fun a b => a * 256 + b.toNat) 0

/-- A number as `w` big-endian bytes (R9). -/
def beBytes : Nat → Nat → List Byte
  | 0, _ => []
  | w + 1, n => beBytes w (n / 256) ++ [BitVec.ofNat 8 n]

/-- `w` bytes at offset `off`, as a big-endian number; bytes beyond the end read 0. -/
def field (bs : List Byte) (off w : Nat) : Nat :=
  beNat ((bs.drop off).take w) * 256 ^ (w - ((bs.drop off).take w).length)

/-- Two's complement of `w` bits, read as an integer. -/
def signed (w n : Nat) : Int :=
  if n % 2 ^ w < 2 ^ (w - 1) then (n % 2 ^ w : Nat) else ((n % 2 ^ w : Nat) : Int) - (2 ^ w : Nat)

/-- An integer as its `w`-bit two's-complement pattern. -/
def unsigned (w : Nat) (i : Int) : Nat := (i % ((2 ^ w : Nat) : Int)).toNat

/-- Index of the highest set bit of m; 0 for 0. -/
def msb (m : Nat) : Nat := Nat.log2 m

def ceilDiv (a b : Nat) : Nat := (a + b - 1) / b

/-- Number of set bits among the low `w` bits. -/
def popcount (w n : Nat) : Nat := ((List.range w).filter (fun i => n.testBit i)).length

/-- The number whose low `w` bits are all set. -/
def ones (w : Nat) : Nat := 2 ^ w - 1

/-- Indices below `w` of the set bits, ascending. -/
def setBits (w n : Nat) : List Nat := (List.range w).filter (fun i => n.testBit i)

/-- Pad a byte list with zeros to a multiple of `k` bytes. -/
def padTo (k : Nat) (bs : List Byte) : List Byte :=
  bs ++ List.replicate ((k - bs.length % k) % k) 0

/-- Pad a byte list with zeros to at least `n` bytes. -/
def padMin (n : Nat) (bs : List Byte) : List Byte := bs ++ List.replicate (n - bs.length) 0

/-- Split a byte list into pieces of `k` bytes; `fuel` bounds their number. -/
def chunksOf (k : Nat) : Nat → List Byte → List (List Byte)
  | 0, _ => []
  | fuel + 1, bs => if bs.isEmpty then [] else bs.take k :: chunksOf k fuel (bs.drop k)

/-- Saturating 32-bit count (R515). -/
def satInc (n k : Nat) : Nat := min (n + k) 0xFFFF_FFFF

/-- The scramble of R90, R293, R308 and R323: key × 0x9E37_79B9_7F4A_7C15 modulo 2^64. -/
def scramble (key : Nat) : Nat := (key * 0x9E37_79B9_7F4A_7C15) % 2 ^ 64

/-! The sparse table. -/

/-- Value under key k; `d` is what an unlisted key reads as. -/
def tget {α : Type} (d : α) : List (Nat × α) → Nat → α
  | [], _ => d
  | (j, v) :: m, k => if k = j then v else tget d m k

/-- Remove key k. -/
def tdel {α : Type} : List (Nat × α) → Nat → List (Nat × α)
  | [], _ => []
  | (j, v) :: m, k => if k = j then tdel m k else (j, v) :: tdel m k

/-- Insert or replace at key k, keeping the keys rising. -/
def tput {α : Type} : List (Nat × α) → Nat → α → List (Nat × α)
  | [], k, v => [(k, v)]
  | (j, w) :: m, k, v =>
    if k < j then (k, v) :: (j, w) :: m
    else if k = j then (k, v) :: m
    else (j, w) :: tput m k v

/-- Write v under key k; the value that an unlisted key reads as removes the entry. -/
def tset {α : Type} [DecidableEq α] (d : α) (m : List (Nat × α)) (k : Nat) (v : α) : List (Nat × α) :=
  if v = d then tdel m k else tput m k v

/-- Apply f to the value under key k. -/
def tmod {α : Type} [DecidableEq α] (d : α) (m : List (Nat × α)) (k : Nat) (f : α → α) : List (Nat × α) :=
  tset d m k (f (tget d m k))

/-- Keys strictly rising. -/
def rising {α : Type} : List (Nat × α) → Bool
  | (a, _) :: (b, w) :: m => decide (a < b) && rising ((b, w) :: m)
  | _ => true

/-- The canonical form: keys strictly rising, no entry equal to the default. -/
def twf {α : Type} [DecidableEq α] (d : α) (m : List (Nat × α)) : Bool :=
  rising m && m.all (fun e => decide (e.2 ≠ d))

/-- Replace the first element that satisfies p. -/
def lmodFirst {α : Type} (p : α → Bool) (f : α → α) : List α → List α
  | [] => []
  | a :: as => if p a then f a :: as else a :: lmodFirst p f as

/-- Take out the first element that satisfies p. -/
def ltake {α : Type} (p : α → Bool) : List α → Option (α × List α)
  | [] => none
  | a :: as =>
    if p a then some (a, as)
    else match ltake p as with
      | some (b, bs) => some (b, a :: bs)
      | none => none

end Sys2Proof.Machine
end

