-- ==== Sys2Proof/Machine/Check.lean ====
section
/-! DEFINITION. The checks on data: CRC-32C (R430), the residue modulo 65,535 (R79, R80), the Reed-Solomon
codes of memory (R357) and of T-links (R397), and SHAKE256 (R552). -/

namespace Sys2Proof.Machine

/-! CRC-32C: Castagnoli polynomial 0x1EDC_6F41 reflected (0x82F6_3B78), initial value and final exclusive-or
0xFFFF_FFFF (R430). -/

def crcBit (c : Nat) : Nat := if c % 2 = 1 then (c / 2) ^^^ 0x82F6_3B78 else c / 2

def crcByte (c : Nat) (b : Byte) : Nat :=
  let x := c ^^^ b.toNat
  crcBit (crcBit (crcBit (crcBit (crcBit (crcBit (crcBit (crcBit x)))))))

def crc32c (bs : List Byte) : Nat := (bs.foldl crcByte 0xFFFF_FFFF) ^^^ 0xFFFF_FFFF

/-! Residues. -/

/-- The tag residue of R79: the sum modulo 65,535 of the payload's big-endian 16-bit words. -/
def tagResidue : List Byte → Nat
  | a :: b :: bs => (a.toNat * 256 + b.toNat + tagResidue bs) % 65535
  | _ => 0

/-- res(A) of R80: A modulo 65,535, from 0 to 65,534. -/
def res (a : Int) : Nat := (a % 65535).toNat

/-! Reed-Solomon decoding over GF(2^m), by its parameters: field polynomial, alpha = x, generator roots
alpha^0 ... alpha^(2t-1). -/

/-- Product in GF(2^m), `poly` with its leading bit. -/
def gfMul (m poly a b : Nat) : Nat :=
  (List.range m).foldr
    (fun i acc =>
      let acc2 := acc <<< 1
      let acc3 := if acc2.testBit m then acc2 ^^^ poly else acc2
      if b.testBit i then acc3 ^^^ a else acc3) 0

/-- a^n by repeated squaring over the bits of n. -/
def gfPow (m poly a n : Nat) : Nat :=
  (List.range 32).foldr
    (fun i acc =>
      let sq := gfMul m poly acc acc
      if n.testBit i then gfMul m poly sq a else sq) 1

/-- Inverse of a non-zero element: a^(2^m - 2). -/
def gfInv (m poly a : Nat) : Nat := gfPow m poly a (2 ^ m - 2)

/-- Value of the word (highest degree first) at x. -/
def gfEval (m poly : Nat) (w : List Nat) (x : Nat) : Nat :=
  w.foldl (fun acc s => gfMul m poly acc x ^^^ s) 0

/-- The syndromes at alpha^0 ... alpha^(n-1). -/
def syndromes (m poly : Nat) (w : List Nat) (n : Nat) : List Nat :=
  (List.range n).map (fun i => gfEval m poly w (gfPow m poly 2 i))

/-- XOR the value e into the symbol of degree d of a word of length n. -/
def putErr (w : List Nat) (d e : Nat) : List Nat :=
  w.modify (w.length - 1 - d) (fun s => s ^^^ e)

/-- A single error that explains the syndromes s0 s1 ...: value s0 at the place where s1 = s0 · alpha^d. -/
def oneError (m poly : Nat) (w : List Nat) (n : Nat) : Option (List Nat) :=
  let s0 := gfEval m poly w 1
  (List.range w.length).findSome? (fun d =>
    let w' := putErr w d s0
    if (syndromes m poly w' n).all (· = 0) then some w' else none)

/-- Two errors: for each first place d1 the two syndromes S0, S1 fix both values for each second place. -/
def twoErrors (m poly : Nat) (w : List Nat) (n : Nat) : Option (List Nat) :=
  let s0 := gfEval m poly w 1
  let s1 := gfEval m poly w 2
  (List.range w.length).findSome? (fun d1 =>
    (List.range d1).findSome? (fun d2 =>
      let x1 := gfPow m poly 2 d1
      let x2 := gfPow m poly 2 d2
      -- e1 + e2 = s0, e1 x1 + e2 x2 = s1
      let e1 := gfMul m poly (s1 ^^^ gfMul m poly s0 x2) (gfInv m poly (x1 ^^^ x2))
      let w' := putErr (putErr w d1 e1) d2 (s0 ^^^ e1)
      if (syndromes m poly w' n).all (· = 0) then some w' else none))

/-- Three errors, for the light FEC: the third value is tried through a third place, the first two solved. -/
def threeErrors (m poly : Nat) (w : List Nat) (n : Nat) : Option (List Nat) :=
  let s0 := gfEval m poly w 1
  let s1 := gfEval m poly w 2
  let s2 := gfEval m poly w 4
  (List.range w.length).findSome? (fun d1 =>
    (List.range d1).findSome? (fun d2 =>
      (List.range d2).findSome? (fun d3 =>
        let x1 := gfPow m poly 2 d1
        let x2 := gfPow m poly 2 d2
        let x3 := gfPow m poly 2 d3
        -- eliminate x1 from (S0, S1, S2): a = S1 + x1 S0, b = S2 + x1 S1
        let a := s1 ^^^ gfMul m poly x1 s0
        let b := s2 ^^^ gfMul m poly x1 s1
        let u := x1 ^^^ x2
        let v := x1 ^^^ x3
        -- e2 u + e3 v = a, e2 u x2 + e3 v x3 = b
        let e3 := gfMul m poly (b ^^^ gfMul m poly a x2)
          (gfInv m poly (gfMul m poly v (x2 ^^^ x3)))
        let e2 := gfMul m poly (a ^^^ gfMul m poly e3 v) (gfInv m poly u)
        let e1 := s0 ^^^ e2 ^^^ e3
        let w' := putErr (putErr (putErr w d1 e1) d2 e2) d3 e3
        if (syndromes m poly w' n).all (· = 0) then some w' else none)))

/-- What the decoder of a memory word or codeword delivers: clean, corrected with the number of symbols
corrected, or uncorrectable. -/
inductive Decoded where
  | clean
  | corrected (w : List Nat) (n : Nat)
  | bad
deriving DecidableEq, Repr

/-- Symbols in which two words differ. -/
def diffCount (a b : List Nat) : Nat := ((a.zip b).filter (fun p => p.1 ≠ p.2)).length

/-- The memory code of R357, R358: GF(2^16) with x^16+x^12+x^3+x+1, four check symbols, two symbols corrected. -/
def memPoly : Nat := 0x1100B

def memDecode (w : List Nat) : Decoded :=
  if (syndromes 16 memPoly w 4).all (· = 0) then .clean
  else match oneError 16 memPoly w 4 with
    | some w' => .corrected w' 1
    | none => match twoErrors 16 memPoly w 4 with
      | some w' => .corrected w' 2
      | none => .bad

/-- A line as 32 big-endian 16-bit symbols (R357). -/
def lineSymbols : List Byte → List Nat
  | a :: b :: bs => (a.toNat * 256 + b.toNat) :: lineSymbols bs
  | _ => []

/-- The light FEC of R397: GF(2^8) with x^8+x^4+x^3+x^2+1, six check symbols, three corrected. -/
def fecPoly : Nat := 0x11D

def fecDecode (w : List Nat) : Decoded :=
  if (syndromes 8 fecPoly w 6).all (· = 0) then .clean
  else match oneError 8 fecPoly w 6 with
    | some w' => .corrected w' 1
    | none => match twoErrors 8 fecPoly w 6 with
      | some w' => .corrected w' 2
      | none => match threeErrors 8 fecPoly w 6 with
        | some w' => .corrected w' 3
        | none => .bad

/-- Interleave e of a 272 B codeword: the even or odd bytes of 0 to 259, then its six check bytes (R397). -/
def interleave (cw : List Byte) (e : Nat) : List Nat :=
  ((List.range 130).map (fun i => (cw.getD (2 * i + e) 0).toNat))
    ++ ((List.range 6).map (fun i => (cw.getD (260 + 6 * e + i) 0).toNat))

/-- The 260 data and control bytes from the two decoded interleaves. -/
def deinterleave (w0 w1 : List Nat) : List Byte :=
  (List.range 260).map (fun i => BitVec.ofNat 8 (if i % 2 = 0 then w0.getD (i / 2) 0 else w1.getD (i / 2) 0))

/-! SHAKE256 for the quote digests of R552: the sponge over the 1,600-bit permutation of FIPS 202, 136 B a block, the first 32 B taken. The state is five
sheets of five lanes. Rotations and round constants are not tabled: the lanes' walk and the 8-bit shift register of the standard give them. -/

/-- Lane y of sheet x, both counted round. -/
def laneAt (a : List (List (BitVec 64))) (x y : Nat) : BitVec 64 := (a.getD (x % 5) []).getD (y % 5) 0

/-- Every lane of a sheet takes the parities of the sheet before it and, turned by one bit, of the sheet after it. -/
def mixSheets (a : List (List (BitVec 64))) : List (List (BitVec 64)) :=
  let parity := a.map (List.foldl (· ^^^ ·) 0)
  a.mapIdx (fun x sheet =>
    let turned := (parity.getD ((x + 1) % 5) 0).rotateLeft 1
    sheet.map (· ^^^ (parity.getD ((x + 4) % 5) 0 ^^^ turned)))

/-- The walk of the 24 lanes other than lane 0 of sheet 0: lane y of sheet x moves to lane 2x + 3y of sheet y, the t-th of them turned by the t-th
triangular number. -/
def walkLanes (a : List (List (BitVec 64))) : Nat → Nat → Nat → Nat → List (List (BitVec 64)) → List (List (BitVec 64))
  | 0, _, _, _, out => out
  | n + 1, turn, x, y, out =>
    let t := 24 - n
    let y' := (2 * x + 3 * y) % 5
    walkLanes a n (turn + t + 1) y y' (out.modify y (fun sheet => sheet.set y' ((laneAt a x y).rotateLeft (turn % 64))))

/-- A lane is changed where the next sheet's bit is 0 and the one after has a 1. -/
def bendSheets (a : List (List (BitVec 64))) : List (List (BitVec 64)) :=
  a.mapIdx (fun x sheet => sheet.mapIdx (fun y v => v ^^^ (laneAt a (x + 2) y &&& ~~~ laneAt a (x + 1) y)))

/-- The shift register of the round constants, x^8 + x^6 + x^5 + x^4 + 1. -/
def shiftReg (r : Nat) : Nat := if 128 ≤ r then (2 * r) ^^^ 0x171 else 2 * r

/-- The constant that the register gives from r on, bit by bit at the places 2^j − 1, and the register after it. -/
def roundConst : Nat → Nat → BitVec 64 × Nat
  | 0, r => (0, r)
  | n + 1, r =>
    let c := roundConst n r
    (c.1 ||| (if c.2 % 2 = 1 then 1 <<< (2 ^ n - 1) else 0), shiftReg c.2)

/-- n rounds of the permutation, the register at r. -/
def permute : Nat → Nat → List (List (BitVec 64)) → List (List (BitVec 64))
  | 0, _, a => a
  | n + 1, r, a =>
    let mixed := mixSheets a
    let bent := bendSheets (walkLanes mixed 24 1 1 0 mixed)
    let c := roundConst 7 r
    permute n c.2 (bent.modify 0 (fun sheet => sheet.modify 0 (· ^^^ c.1)))

/-- Take n blocks of 136 B: byte i of a block lies in byte i mod 8 of lane (i / 8) / 5 of sheet (i / 8) mod 5. -/
def spongeIn : Nat → List Byte → List (List (BitVec 64)) → List (List (BitVec 64))
  | 0, _, a => a
  | n + 1, m, a =>
    let blk := m.take 136
    let word := fun k => beNat ((blk.drop (8 * k)).take 8).reverse
    spongeIn n (m.drop 136) (permute 24 1 (a.mapIdx (fun x sheet => sheet.mapIdx (fun y v => v ^^^ BitVec.ofNat 64 (word (x + 5 * y))))))

/-- What ends the message: the domain bits 1111, a 1, zeros, and a 1 as the block's last bit. -/
def shakeTail (len : Nat) : List Byte :=
  match 135 - len % 136 with
  | 0 => [0x9F]
  | k + 1 => [0x1F] ++ List.replicate k 0 ++ [0x80]

/-- The 32 B SHAKE256 digest. -/
def shake256 (msg : List Byte) : List Byte :=
  let a := spongeIn (msg.length / 136 + 1) (msg ++ shakeTail msg.length) (List.replicate 5 (List.replicate 5 0))
  (List.range 4).flatMap (fun x => (beBytes 8 (laneAt a x 0).toNat).reverse)

end Sys2Proof.Machine
end

