-- ==== Sys2Proof/Machine/Flags.lean ====
section
/-! DEFINITION. The status flags of a block (R47, R48), as bit masks of the 16-bit status field. -/

namespace Sys2Proof.Machine

namespace Fl
def result : Nat := 0x8000
def pencil : Nat := 0x4000
def short : Nat := 0x2000
def pair : Nat := 0x1000
def stoch : Nat := 0x0800
def headroom : Nat := 0x80
def inv : Nat := 0x40
def ovf : Nat := 0x20
def nanin : Nat := 0x10
def infin : Nat := 0x08
def flush : Nat := 0x04
def inexact : Nat := 0x02
end Fl

/-- The sticky part of a status (R48): bits [7:1]. -/
def sticky (st : Nat) : Nat := st &&& 0xFE

/-- A status as the device writes it: reserved bits 0 (R48). -/
def outStatus (st : Nat) : Nat := st &&& 0xF8FE

def hasFlag (st f : Nat) : Bool := decide (st &&& f ≠ 0)

end Sys2Proof.Machine
end

