-- ==== Sys2Proof/Machine/Kel.lean ====
section
/-! DEFINITION. The Kel number formats (02): decoding, conversion into KZ, narrowing, KB8 groups, toss values, products and KZ64 words. A flag
word is a status of R47. -/

namespace Sys2Proof.Machine

/-! ## Format codes (R37) -/

namespace Fmt
def kf32 : Nat := 1
def kf16 : Nat := 2
def kb8 : Nat := 3
def scales : Nat := 4
def ki32 : Nat := 5
def ki8 : Nat := 6
def pair : Nat := 7
def kz64 : Nat := 8
def ki64 : Nat := 9
end Fmt

/-- Elements of a 256 B payload and bytes of each (R37); 0 for a reserved code. -/
def fmtElems (f : Nat) : Nat := [0, 64, 128, 256, 256, 64, 256, 32, 32, 32].getD f 0
def fmtSize (f : Nat) : Nat := [0, 4, 2, 1, 1, 4, 1, 8, 8, 8].getD f 0

def isInt (f : Nat) : Bool := f == 5 || f == 6 || f == 9

/-! ## Numbers -/

inductive NKind where
  | zero
  | fin
  | inf
  | nan
deriving DecidableEq, Repr

/-- A decoded number: value m × 2^e0 with its sign. -/
structure Num where
  kind : NKind
  neg  : Bool
  m    : Nat
  e0   : Int
deriving DecidableEq, Repr

def Num.zero : Num := ⟨.zero, false, 0, 0⟩
def Num.nan : Num := ⟨.nan, false, 0, 0⟩
def Num.inf (neg : Bool) : Num := ⟨.inf, neg, 0, 0⟩

/-- Unbiased exponent of a finite number. -/
def numExp (x : Num) : Int := x.e0 + (msb x.m : Nat)

/-- Class code of a sum (R49): 0 finite, 1 +∞, 2 −∞, 3 NaN. -/
def numCls (x : Num) : Nat :=
  match x.kind with
  | .nan => 3
  | .inf => if x.neg then 2 else 1
  | _ => 0

/-- KF32 and KF16 by R40 and R41: `ew` exponent bits, `fw` fraction bits. -/
def decodeKf (ew fw w : Nat) : Num × Nat :=
  let e := bits w (fw + ew - 1) fw
  let f := bits w (fw - 1) 0
  let neg := bit w (fw + ew)
  if e = 0 then (Num.zero, if f = 0 then 0 else Fl.flush)
  else if e = 2 ^ ew - 1 then (if f = 0 then (Num.inf neg, Fl.infin) else (Num.nan, Fl.nanin))
  else (⟨.fin, neg, 2 ^ fw + f, (e : Int) - (2 ^ (ew - 1) - 1 : Nat) - (fw : Nat)⟩, 0)

def decodeKf32 (w : Nat) : Num × Nat := decodeKf 8 23 w
def decodeKf16 (w : Nat) : Num × Nat := decodeKf 7 8 w

/-- A KB8 element with its group's scale (R43, R44). -/
def decodeKb8 (c w : Nat) : Num × Nat :=
  if c = 0 then (Num.zero, 0)
  else if c = 255 then (Num.nan, Fl.nanin)
  else
    let e := bits w 6 4
    let f := bits w 3 0
    if e = 0 then (Num.zero, if f = 0 then 0 else Fl.flush)
    else (⟨.fin, bit w 7, 16 + f, ((e : Int) - 3) + ((c : Int) - 127) - 4⟩, 0)

/-- An integer as a number. -/
def ofInt (a : Int) : Num := if a = 0 then Num.zero else ⟨.fin, decide (a < 0), a.natAbs, 0⟩

/-! ## KZ elements -/

/-- A KZ element (R49, R51): integer and class; `a` is 0 where the class is not finite. -/
structure Kz where
  a   : Int
  cls : Nat
deriving DecidableEq, Repr

def Kz.zero : Kz := ⟨0, 0⟩

/-- Class of a sum (R50). Code 4 is the model's: a NaN whose inputs held both infinities and no NaN, which is a NaN that sets INV. -/
def addCls (c d : Nat) : Nat :=
  if c = 3 ∨ d = 3 then 3
  else if c = 0 then d
  else if d = 0 ∨ c = d then c
  else 4

/-- Sum of two elements (R50). -/
def kzAdd (x y : Kz) : Kz :=
  if addCls x.cls y.cls = 0 then ⟨x.a + y.a, 0⟩ else ⟨0, addCls x.cls y.cls⟩

/-- INV of an element whose class is the NaN of both infinities (R50). -/
def Kz.inv (k : Kz) : Nat := if k.cls = 4 then Fl.inv else 0

def invOf (ks : List Kz) : Nat := ks.foldl (fun a k => a ||| k.inv) 0

/-- RM16 of a finite number (R54): upper half of its magnitude's KF32 encoding, clamped to the normal range. -/
def rm16Of (x : Num) : Nat :=
  match x.kind with
  | .fin =>
    let ue := numExp x
    if ue < -126 then 0x0080
    else if ue ≥ 128 then 0x7F7F
    else
      let k := msb x.m
      let f := if k ≥ 7 then x.m >>> (k - 7) else x.m <<< (7 - k)
      (ue + 127).toNat * 128 + f % 128
  | _ => 0

/-- Round m / 2^d to nearest, ties to even (d > 0), with the discarded bits. -/
def rne (m d : Nat) : Nat × Nat :=
  let q := m >>> d
  let r := m - (q <<< d)
  (if r > 2 ^ (d - 1) ∨ (r = 2 ^ (d - 1) ∧ q % 2 = 1) then q + 1 else q, r)

/-- Conversion into KZ with exponent s and bound lim (R57). -/
def toKz (x : Num) (s : Int) (lim : Nat) : Kz × Nat :=
  match x.kind with
  | .zero => (Kz.zero, 0)
  | .fin =>
    let sg := fun (a : Nat) => if x.neg then -(a : Int) else (a : Int)
    if numExp x ≥ s + (lim : Nat) then (⟨sg (2 ^ lim - 1), 0⟩, Fl.headroom)
    else if x.e0 ≥ s then (⟨sg (x.m * 2 ^ (x.e0 - s).toNat), 0⟩, 0)
    else
      let r := rne x.m (s - x.e0).toNat
      (⟨sg r.1, 0⟩, if r.2 = 0 then 0 else Fl.inexact)
  | _ => (⟨0, numCls x⟩, 0)

/-- Exponent S of KZ128 and KZ64 (R49, R51). -/
def s128 (eref : Int) : Int := eref - 88
def s64 (eref : Int) : Int := eref - 32

/-! ## Narrowing (R58) -/

/-- Result of a narrowing: +0, infinity, or exponent and fraction, with its flags. -/
inductive NOut where
  | zero
  | inf
  | val (ue : Int) (f : Nat)
deriving DecidableEq, Repr

/-- One narrowing; `t` is the toss value in toss mode and none to nearest. -/
def narrow (m : Nat) (e0 : Int) (w : Nat) (emin emax : Int) (t : Option Nat) : NOut × Nat :=
  let k := msb m
  let r := if k > w then
      let d := k - w
      let q := m >>> d
      let r := m - (q <<< d)
      let up := match t with
        | none => decide (r > 2 ^ (d - 1) ∨ (r = 2 ^ (d - 1) ∧ q % 2 = 1))
        | some t => decide ((if d ≤ 32 then r <<< (32 - d) else r >>> (d - 32)) + t ≥ 2 ^ 32)
      let q := q + up.toNat
      let x := if r = 0 then 0 else Fl.inexact
      if q = 2 ^ (w + 1) then (2 ^ w, (d : Int) + 1, x) else (q, (d : Int), x)
    else (m <<< (w - k), (k : Int) - (w : Nat), 0)
  let ue := e0 + r.2.1 + (w : Nat)
  if ue > emax then (.inf, r.2.2 ||| Fl.ovf)
  else if ue < emin then (.zero, r.2.2 ||| Fl.flush)
  else (.val ue (r.1 - 2 ^ w), r.2.2)

/-- Encode a number in KF32 or KF16 (R42): w fraction bits, exponent bias `b`, NaN and infinity patterns. -/
def encodeKf (w b nanW infW : Nat) (x : Num) (t : Option Nat) : Nat × Nat :=
  let sg := if x.neg then (infW + 2 ^ w) else 0
  match x.kind with
  | .nan => (nanW, 0)
  | .inf => (sg + infW, 0)
  | .zero => (0, 0)
  | .fin => match narrow x.m x.e0 w (1 - (b : Int)) b t with
    | (.zero, f) => (0, f)
    | (.inf, f) => (sg + infW, f)
    | (.val ue q, f) => (sg + (ue + (b : Nat)).toNat * 2 ^ w + q, f)

def encodeKf32 (x : Num) : Nat × Nat := encodeKf 23 127 0x7FC0_0000 0x7F80_0000 x none
def encodeKf16 (x : Num) (t : Option Nat) : Nat × Nat := encodeKf 8 63 0x7F80 0x7F00 x t

/-- A KZ element as a number. -/
def kzNum (k : Kz) (s : Int) : Num :=
  match k.cls with
  | 0 => if k.a = 0 then Num.zero else ⟨.fin, decide (k.a < 0), k.a.natAbs, s⟩
  | 1 => Num.inf false
  | 2 => Num.inf true
  | _ => Num.nan

/-- A number times num / den, as R145 and R131 need it: exact for den = 1; otherwise 66 bits or more of the quotient with one more
bit that says whether anything is left over, which every rounding of R58 reads as it reads the exact value. -/
def scaleNum (x : Num) (num den : Nat) : Num :=
  match x.kind with
  | .fin =>
    if den ≤ 1 then { x with m := x.m * num }
    else
      let n := x.m * num
      let k := 66 + msb den - msb n
      let q := n * 2 ^ k / den
      { x with m := 2 * q + (if n * 2 ^ k % den = 0 then 0 else 1), e0 := x.e0 - (k : Nat) - 1 }
  | _ => x

/-- Pair form of a sum times num / den (R70, R145). -/
def encodePair (k : Kz) (s : Int) (num den : Nat) : (Nat × Nat) × Nat :=
  let h := encodeKf32 (scaleNum (kzNum k s) num den)
  if k.cls ≠ 0 ∨ bits h.1 30 23 = 255 then ((h.1, 0), h.2)
  else
    let x := (decodeKf32 h.1).1
    let e := match x.kind with | .fin => min s x.e0 | _ => s
    let hi : Int := match x.kind with
      | .fin => (if x.neg then -1 else 1) * ((x.m * 2 ^ (x.e0 - e).toNat : Nat) : Int)
      | _ => 0
    let rem := k.a * ((num * 2 ^ (s - e).toNat : Nat) : Int) - hi * ((max 1 den : Nat) : Int)
    let l := encodeKf32 (scaleNum (kzNum ⟨rem, 0⟩ e) 1 den)
    ((h.1, l.1), h.2 ||| l.2)

/-- Quotient of an integer and a natural number to nearest, ties to even, and whether it was inexact (R145). -/
def rneDiv (a : Int) (den : Nat) : Int × Bool :=
  if den ≤ 1 then (a, false)
  else
    let q := a.natAbs / den
    let r := a.natAbs % den
    let q := if 2 * r > den ∨ (2 * r = den ∧ q % 2 = 1) then q + 1 else q
    (if a < 0 then -(q : Int) else (q : Int), decide (r ≠ 0))

/-- Saturation of an integer to w bits (R46). -/
def satInt (w : Nat) (a : Int) : Nat × Nat :=
  let hi : Int := (2 ^ (w - 1) : Nat) - 1
  let lo : Int := -((2 ^ (w - 1) : Nat) : Int)
  if a > hi then (unsigned w hi, Fl.ovf) else if a < lo then (unsigned w lo, Fl.ovf) else (unsigned w a, 0)

/-- An integer sum times num / den in w bits (R46, R145). -/
def encodeInt (w : Nat) (a : Int) (num den : Nat) : Nat × Nat :=
  let q := rneDiv (a * (num : Int)) den
  let r := satInt w q.1
  (r.1, r.2 ||| (if q.2 then Fl.inexact else 0))

/-! ## KB8 groups (R60) -/

/-- Elements of a group narrowed with scale c: bytes, flags, and whether a rounding carried an exponent above 4. -/
def kb8Elems (c : Nat) : List (Num × Option Nat) → List Nat × Nat × Bool
  | [] => ([], 0, false)
  | (x, t) :: xs =>
    let r := kb8Elems c xs
    match x.kind with
    | .fin => match narrow x.m (x.e0 - ((c : Int) - 127)) 4 (-2) 4 t with
      | (.zero, f) => (0 :: r.1, f ||| r.2.1, r.2.2)
      | (.inf, f) => (0 :: r.1, (f &&& Fl.inexact) ||| r.2.1, true)
      | (.val ue q, f) => (((if x.neg then 128 else 0) + (ue + 3).toNat * 16 + q) :: r.1, f ||| r.2.1, r.2.2)
    | _ => (0 :: r.1, r.2.1, r.2.2)

/-- Steps 4 to 6 of R60; `fuel` bounds the raises of the scale. -/
def kb8Try : Nat → Nat → List (Num × Option Nat) → (Nat × List Nat) × Nat
  | fuel, c, xs =>
    let r := kb8Elems c xs
    if !r.2.2 then ((c, r.1), r.2.1)
    else if c ≥ 254 then ((255, xs.map (fun _ => 0)), (r.2.1 &&& Fl.inexact) ||| Fl.ovf ||| Fl.inv)
    else match fuel with
      | 0 => ((c, r.1), r.2.1)
      | fuel + 1 => kb8Try fuel (c + 1) xs

/-- A group of source values with their toss values: scale, element bytes, flags (R60). -/
def kb8Group (xs : List (Num × Option Nat)) : (Nat × List Nat) × Nat :=
  let zeros := xs.map (fun _ => 0)
  if xs.any (fun x => decide (x.1.kind = .nan ∨ x.1.kind = .inf)) then
    ((255, zeros), if xs.any (fun x => decide (x.1.kind = .nan)) then 0 else Fl.inv)
  else
    let es := xs.filterMap (fun x => match x.1.kind with | .fin => some (numExp x.1) | _ => none)
    match es with
    | [] => ((0, zeros), 0)
    | e :: es =>
      let em := es.foldl max e
      kb8Try 2 (min 254 (max 1 (em - 4 + 127))).toNat xs

/-! ## The toss generator (R61 to R63) -/

def rotl32 (x n : Nat) : Nat := ((x <<< n) ||| (x >>> (32 - n))) % 2 ^ 32

def tossRound (k0 k1 r : Nat) (x : Nat × Nat × Nat × Nat) : Nat × Nat × Nat × Nat :=
  let x0 := (x.1 + x.2.1) % 2 ^ 32
  let x3 := rotl32 (x.2.2.2 ^^^ x0) 8
  let x2 := (x.2.2.1 + x3) % 2 ^ 32
  let x1 := rotl32 (x.2.1 ^^^ x2) 20
  let y0 := x0 ^^^ k0
  let y2 := x2 ^^^ ((k1 + r) % 2 ^ 32)
  (x1, y2, x3, y0)

/-- The toss value of an element (R61 to R63). -/
def toss (seed tag step index use : Nat) : Nat :=
  let k0 := seed / 2 ^ 32 % 2 ^ 32
  let k1 := seed % 2 ^ 32
  ((List.range 10).foldl (fun x r => tossRound k0 k1 (r + 1) x)
    (index % 2 ^ 32, step % 2 ^ 32, tag % 65536 * 65536 + use, 0x4B45_4C00)).1

/-! ## The reference exponent (R53) -/

/-- E_ref that a running maximum gives. -/
def erefOf (rm : Nat) : Int := if rm = 0 then -118 else (bits rm 14 7 : Int) - 127 + 8

def erefOk (e : Int) : Bool := decide (-118 ≤ e ∧ e ≤ 135)

/-! ## Products (R65 to R67) -/

/-- Flags and value of a product with a special operand, or none for finite non-zero operands (R67). -/
def mulSpecial (x y : Num) : Option (Num × Nat) :=
  let infin := if x.kind = .inf ∨ y.kind = .inf then Fl.infin else 0
  if x.kind = .nan ∨ y.kind = .nan then some (Num.nan, Fl.nanin)
  else if x.kind = .inf ∨ y.kind = .inf then
    if x.kind = .zero ∨ y.kind = .zero then some (Num.nan, Fl.inv ||| infin) else some (Num.inf (x.neg != y.neg), infin)
  else if x.kind = .zero ∨ y.kind = .zero then some (Num.zero, 0)
  else none

/-- Significand product with the partial products that FAST keeps (R66): hi×hi, hi×mid, mid×hi, hi×lo, lo×hi, mid×mid. -/
def fastProduct (a b : Nat) : Nat :=
  let h := fun (n : Nat) => n / 2 ^ 15 * 2 ^ 15
  let m := fun (n : Nat) => n / 64 % 512 * 64
  let l := fun (n : Nat) => n % 64
  h a * h b + h a * m b + m a * h b + h a * l b + l a * h b + m a * m b

/-- Product rounded once to KF32 (R65 to R67); both operands KF32 for FAST. -/
def mulKf32 (fast : Bool) (x y : Num) : Nat × Nat :=
  match mulSpecial x y with
  | some (n, f) => ((encodeKf32 n).1, f)
  | none => encodeKf32 ⟨.fin, x.neg != y.neg, if fast then fastProduct x.m y.m else x.m * y.m, x.e0 + y.e0⟩

/-! ## KZ64 words (R51) -/

def kz64Word (k : Kz) : Nat := match k.cls with
  | 0 => unsigned 64 k.a
  | 1 => 0x7FFF_FFFF_FFFF_FFFF
  | 2 => 0x8000_0000_0000_0001
  | _ => 0x8000_0000_0000_0000

def kz64Of (w : Nat) : Kz :=
  if w = 0x7FFF_FFFF_FFFF_FFFF then ⟨0, 1⟩
  else if w = 0x8000_0000_0000_0001 then ⟨0, 2⟩
  else if w = 0x8000_0000_0000_0000 then ⟨0, 3⟩
  else ⟨signed 64 w, 0⟩

end Sys2Proof.Machine
end

