-- ==== Sys2Proof/Machine/LaneWord.lean ====
section
/-! DEFINITION. The 64-bit lane word that carries a converted element to a desk or to a memory-side adder (03 R77), and its residue on the
converter's own path (R80). -/

namespace Sys2Proof.Machine

/-- lane_res of R80: the residue of A from q and shift, on a path apart from the one that forms the value. -/
def laneRes (sign sat : Bool) (q shift lim : Nat) : Nat :=
  let r := if sat then (2 ^ (lim % 16) + 65534) % 65535 else (q % 65535) * 2 ^ (shift % 16) % 65535
  if sign ∧ r ≠ 0 then 65535 - r else r

/-- The fields of a lane word in their places (R77); bits [52:48] are 0. -/
def laneWord (cls : Nat) (sign sat : Bool) (shift q lim : Nat) : BitVec 64 :=
  BitVec.ofNat 64 (cls * 2 ^ 62 + sign.toNat * 2 ^ 61 + sat.toNat * 2 ^ 60 + shift * 2 ^ 53 + q * 2 ^ 16 + laneRes sign sat q shift lim)

/-- An element converted into a lane word by R57 and R77, with the flags of its conversion. A KI64 magnitude above the 32 bits of q goes into
two lane words of one element, the upper half first with shift 32 (`wide`; R77 does not say how, log 156). -/
def laneOf (x : Num) (s : Int) (lim : Nat) (wide : Bool) : List (BitVec 64) × Nat :=
  let pair := fun (w : BitVec 64) (fl : Nat) => (if wide then [w, laneWord 0 false false 0 0 lim] else [w], fl)
  match x.kind with
  | .zero => pair (laneWord 0 false false 0 0 lim) 0
  | .fin =>
    if numExp x ≥ s + (lim : Nat) then pair (laneWord 0 x.neg true 0 0 lim) Fl.headroom
    else if x.e0 ≥ s then
      if wide then ([laneWord 0 x.neg false 32 (x.m / 2 ^ 32) lim, laneWord 0 x.neg false 0 (x.m % 2 ^ 32) lim], 0)
      else ([laneWord 0 x.neg false (x.e0 - s).toNat x.m lim], 0)
    else
      let r := rne x.m (s - x.e0).toNat
      pair (laneWord 0 x.neg false 0 r.1 lim) (if r.2 = 0 then 0 else Fl.inexact)
  | _ => pair (laneWord (numCls x) false false 0 0 lim) 0

/-- The element that a lane word rebuilds (R77, R81). -/
def laneKz (lim : Nat) (w : BitVec 64) : Kz :=
  let n := w.toNat
  if bits n 63 62 ≠ 0 then ⟨0, bits n 63 62⟩
  else
    let a := if bit n 60 then 2 ^ lim - 1 else bits n 47 16 * 2 ^ bits n 59 53
    ⟨if bit n 61 then -(a : Int) else (a : Int), 0⟩

/-- The residue field of a lane word (R77). -/
def laneResOf (w : BitVec 64) : Nat := w.toNat % 65536

/-- Corridor slots of lane words: 8 B each behind a 64 B header in slots of 576 B (R77). -/
def laneSlots (n : Nat) : Nat := ceilDiv (8 * n + 64) 576

end Sys2Proof.Machine
end

