-- ==== Sys2Proof/Machine/RegMap.lean ====
section
/-! DEFINITION. The register map: the blocks of R511, every register with its fields, access codes and reset
values, as the tables of 00 to 18 give them. Register addresses are BAR0 byte offsets of the normal range. -/

namespace Sys2Proof.Machine

/-- What a write does to a field (R14): read only, stored, write-1-to-clear, a trigger that acts when written 1 and
reads 0, or a field that acts on every write and reads 0. -/
inductive Acc where
  | ro
  | rw
  | w1c
  | trig
  | cmd
deriving DecidableEq, Repr

/-- A field of a register: bits [hi:lo], access, whether it is RWL (R517), whether only a secure requester may
change it (R518), and its reset value. -/
structure Fld where
  hi   : Nat
  lo   : Nat
  acc  : Acc
  lock : Bool
  sec  : Bool
  rst  : Nat
deriving DecidableEq, Repr

/-- A register of a block kind: offset of its first instance, distance between instances, their number, fields. -/
structure RegRow where
  off    : Nat
  stride : Nat
  count  : Nat
  flds   : List Fld
deriving DecidableEq, Repr

/-- A block kind of R511: kind code, first base, number of instances, posted. -/
structure BlkRow where
  kind   : Nat
  base   : Nat
  count  : Nat
  posted : Bool
deriving DecidableEq, Repr

/-- The block map of R511. -/
def blkRows : List BlkRow := [
  ⟨0x01, 0x000000, 1, true⟩,
  ⟨0x02, 0x004000, 1, true⟩,
  ⟨0x03, 0x008000, 1, true⟩,
  ⟨0x04, 0x00C000, 1, true⟩,
  ⟨0x05, 0x010000, 1, false⟩,
  ⟨0x06, 0x014000, 1, false⟩,
  ⟨0x07, 0x018000, 1, false⟩,
  ⟨0x08, 0x01C000, 1, false⟩,
  ⟨0x09, 0x020000, 1, false⟩,
  ⟨0x0A, 0x024000, 1, false⟩,
  ⟨0x0B, 0x028000, 1, false⟩,
  ⟨0x0C, 0x02C000, 1, false⟩,
  ⟨0x0D, 0x030000, 1, false⟩,
  ⟨0x0E, 0x034000, 1, false⟩,
  ⟨0x0F, 0x038000, 1, false⟩,
  ⟨0x10, 0x03C000, 1, false⟩,
  ⟨0x11, 0x040000, 1, true⟩,
  ⟨0x12, 0x080000, 16, true⟩,
  ⟨0x13, 0x0C0000, 16, false⟩,
  ⟨0x14, 0x100000, 16, false⟩,
  ⟨0x15, 0x140000, 8, false⟩,
  ⟨0x16, 0x180000, 16, false⟩,
  ⟨0x17, 0x1C0000, 16, true⟩]

/-! Register addresses. -/

namespace Reg

def BLK_ID (b : Nat) : Nat := b + 0x000
def BLK_STATUS (b : Nat) : Nat := b + 0x004
def BLK_UNLOCK (b : Nat) : Nat := b + 0x008
def BLK_CTRL (b : Nat) : Nat := b + 0x00C
def VOTE_MISMATCH_CNT (b : Nat) : Nat := b + 0x010
def BLK_LOCK_FAIL_CNT (b : Nat) : Nat := b + 0x014
def BLK_WORLD_DENY_CNT (b : Nat) : Nat := b + 0x018
def TOP_ID : Nat := 0x000100
def TOP_SERIAL_0 : Nat := 0x000104
def TOP_SERIAL_1 : Nat := 0x000108
def TOP_CTRL : Nat := 0x00010C
def TOP_STATUS : Nat := 0x000110
def TOP_RESET_CAUSE : Nat := 0x000114
def TOP_SCRATCH : Nat := 0x000118
def TOP_BAD_ADDR : Nat := 0x00011C
def TOP_BAD_ADDR_CNT : Nat := 0x000800
def SIT_CTRL : Nat := 0x004100
def SIT_STATUS : Nat := 0x004104
def SIT_BLK_WORLD : Nat := 0x004108
def SIT_FW_STATUS : Nat := 0x00410C
def SIT_ATTEST_LEFT : Nat := 0x004110
def SIT_EVT_OVERWRITE_CNT : Nat := 0x004800
def SIT_LOCKSTEP_CNT : Nat := 0x004804
def SIT_QUOTE_CNT : Nat := 0x004808
def PWR_SEQ_STATUS : Nat := 0x00C100
def CLK_STATUS : Nat := 0x00C104
def REF_STATUS : Nat := 0x010100
def REF_QUIET : Nat := 0x010104
def REF_ACK : Nat := 0x010108
def REF_CLEAR : Nat := 0x01010C
def REF_RAISE : Nat := 0x010110
def REF_SRC_SEL : Nat := 0x010114
def REF_SRC_INFO0 : Nat := 0x010118
def REF_SRC_INFO1 : Nat := 0x01011C
def REF_WINDOW (i : Nat) : Nat := 0x010120 + 0x4 * i
def REF_RING_HEAD : Nat := 0x010130
def REF_RING_TAIL : Nat := 0x010134
def INT_CTRL : Nat := 0x010180
def INT_FT_STATUS : Nat := 0x010184
def REF_SEV (i : Nat) : Nat := 0x010200 + 0x4 * i
def REF_STATE (i : Nat) : Nat := 0x010400 + 0x4 * i
def REF_PEND (i : Nat) : Nat := 0x010500 + 0x4 * i
def REF_RAISE_CNT : Nat := 0x010800
def REF_ACTION_CNT : Nat := 0x010804
def REF_LATE_ACK_CNT : Nat := 0x010808
def REF_STRAY_ACK_CNT : Nat := 0x01080C
def REF_RECOVERY_CNT : Nat := 0x010810
def REF_STICKY_CNT : Nat := 0x010814
def REF_RING_DROP_CNT : Nat := 0x010818
def INT_BLOCK_FAIL_CNT : Nat := 0x01081C
def INT_FRAME_FAIL_CNT : Nat := 0x010820
def INT_STOMP_CNT : Nat := 0x010824
def INT_FT_RUN_CNT : Nat := 0x010828
def INT_FT_FAIL_CNT : Nat := 0x01082C
def INT_FT_DROP_CNT : Nat := 0x010830
def CMD_CTRL : Nat := 0x014100
def CMD_QUEUED : Nat := 0x014104
def CMD_RX_BASE_0 : Nat := 0x014110
def CMD_RX_BASE_1 : Nat := 0x014114
def CMD_RX_SLOTS : Nat := 0x014118
def CMD_RX_HEAD : Nat := 0x01411C
def CMD_RX_TAIL : Nat := 0x014120
def CMD_SECURE_PORT (i : Nat) : Nat := 0x014200 + 0x4 * i
def CMD_ACCEPT_CNT : Nat := 0x014800
def CMD_REJECT_CNT : Nat := 0x014804
def CMD_QFULL_CNT : Nat := 0x014808
def CMD_DROP_CNT : Nat := 0x01480C
def CMD_RX_DROP_CNT : Nat := 0x014810
def CMD_SUBMIT_ERR_CNT : Nat := 0x014814
def CKP_CTRL : Nat := 0x018100
def CKP_STATUS : Nat := 0x018104
def CKP_PARTNER : Nat := 0x018108
def CKP_LOG_SIZE : Nat := 0x01810C
def LOG_MIRRORED_0 : Nat := 0x018110
def LOG_MIRRORED_1 : Nat := 0x018114
def LOG_DURABLE_0 : Nat := 0x018118
def LOG_DURABLE_1 : Nat := 0x01811C
def LOG_FILL : Nat := 0x018120
def LOG_REFUSE_CNT : Nat := 0x018800
def LOG_DROP_CNT : Nat := 0x018804
def CKP_REBUILD_CNT : Nat := 0x018808
def CKP_UNMIRRORED_CNT : Nat := 0x01880C
def CKP_WRITE_CNT : Nat := 0x018810
def BELL_CTRL : Nat := 0x01C100
def BELL_STATUS : Nat := 0x01C104
def BELL_NOW_0 : Nat := 0x01C108
def BELL_NOW_1 : Nat := 0x01C10C
def BELL_NOW_2 : Nat := 0x01C110
def BELL_SET_0 : Nat := 0x01C114
def BELL_SET_1 : Nat := 0x01C118
def BELL_INC : Nat := 0x01C11C
def BELL_OFFSET : Nat := 0x01C120
def BELL_PPS_SEC : Nat := 0x01C124
def BELL_PPS_ERR : Nat := 0x01C128
def BELL_TICK : Nat := 0x01C12C
def BELL_TICK_AT_0 : Nat := 0x01C130
def BELL_TICK_AT_1 : Nat := 0x01C134
def BELL_STEP_CTRL : Nat := 0x01C138
def BELL_STEP_ORIGIN_0 : Nat := 0x01C13C
def BELL_STEP_ORIGIN_1 : Nat := 0x01C140
def BELL_STEP_CNT : Nat := 0x01C144
def BELL_TT_ID : Nat := 0x01C148
def BELL_FAULT : Nat := 0x01C14C
def BELL_PARENT (i : Nat) : Nat := 0x01C150 + 0x4 * i
def BELL_LINK_ASYM (i : Nat) : Nat := 0x01C200 + 0x4 * i
def BELL_LINK_DELAY (i : Nat) : Nat := 0x01C400 + 0x4 * i
def REPLAY_CTRL : Nat := 0x01C600
def REPLAY_DIFF_SEQ_0 : Nat := 0x01C604
def REPLAY_DIFF_SEQ_1 : Nat := 0x01C608
def RECORD_SEQ_0 : Nat := 0x01C60C
def RECORD_SEQ_1 : Nat := 0x01C610
def BELL_XCHG_CNT : Nat := 0x01C800
def BELL_PARENT_SWITCH_CNT : Nat := 0x01C804
def BELL_HOLDOVER_CNT : Nat := 0x01C808
def BELL_PPS_MISS_CNT : Nat := 0x01C80C
def RECORD_ENTRY_CNT : Nat := 0x01C810
def REPLAY_DIFF_CNT : Nat := 0x01C814
def SEQ_CTRL : Nat := 0x020100
def SEQ_CTX_USED : Nat := 0x020104
def SEQ_BUCKET_USED : Nat := 0x020108
def SEQ_ACC_RESERVED : Nat := 0x02010C
def SEQ_ADMIT_WAIT : Nat := 0x020110
def SEQ_ROLL_FREE : Nat := 0x020114
def SEQ_SLOT_FREE : Nat := 0x020118
def SEQ_LEDGER_FREE : Nat := 0x02011C
def SEQ_FOREIGN_CNT : Nat := 0x020800
def SEQ_DUP_CNT : Nat := 0x020804
def SEQ_LATE_CNT : Nat := 0x020808
def SEQ_STALE_CNT : Nat := 0x02080C
def SEQ_UNKNOWN_CNT : Nat := 0x020810
def SEQ_CONFLICT_CNT : Nat := 0x020814
def SEQ_LOST_CNT : Nat := 0x020818
def SEQ_XCHK_INCOMPLETE_CNT : Nat := 0x02081C
def SEQ_XCHK_SKIP_CNT : Nat := 0x020820
def SEQ_SHORT_CNT : Nat := 0x020824
def SEQ_ERASE_CNT : Nat := 0x020828
def MTR_CTRL : Nat := 0x024100
def MTR_TIMERS : Nat := 0x024104
def MTR_METRO_OPEN : Nat := 0x024108
def MTR_HELD : Nat := 0x02410C
def MTR_INK_CNT : Nat := 0x024800
def MTR_ERASE_CNT : Nat := 0x024804
def MTR_ABORT_CNT : Nat := 0x024808
def MTR_NOTICE_RETRY_CNT : Nat := 0x02480C
def MTR_NOTICE_DUP_CNT : Nat := 0x024810
def MTR_RESEND_CNT : Nat := 0x024814
def MTR_LATE_ERASE_REQ_CNT : Nat := 0x024818
def MTR_SKIP_CNT : Nat := 0x02481C
def MTR_HOLD_DROP_CNT : Nat := 0x024820
def MTR_OUTCOME_OVERWRITE_CNT : Nat := 0x024824
def MTR_GATHER_LAPSE_CNT : Nat := 0x024828
def LSN_CTRL : Nat := 0x028100
def LSN_SHARD_USED : Nat := 0x028104
def LSN_STAGING_FREE : Nat := 0x028108
def LSN_RUN_READY : Nat := 0x02810C
def LSN_ENG_STATUS (i : Nat) : Nat := 0x028200 + 0x8 * i
def LSN_ENG_FAULT (i : Nat) : Nat := 0x028204 + 0x8 * i
def LSN_RUN_CNT : Nat := 0x028800
def LSN_ROW_RETRY_CNT : Nat := 0x028804
def LSN_SKIP_CNT : Nat := 0x028808
def LSN_PUB_BLOCK_CNT : Nat := 0x02880C
def LSN_REPUBLISH_CNT : Nat := 0x028810
def LSN_NORM_REDO_CNT : Nat := 0x028814
def HUD_CTRL : Nat := 0x02C100
def HUD_GROUP_USED : Nat := 0x02C104
def HUD_SPILL_USED : Nat := 0x02C108
def HUD_UNIT_STATUS (i : Nat) : Nat := 0x02C200 + 0x8 * i
def HUD_UNIT_FAULT (i : Nat) : Nat := 0x02C204 + 0x8 * i
def HUD_INST_CNT : Nat := 0x02C800
def HUD_SHORT_CNT : Nat := 0x02C804
def HUD_CARRY_CNT : Nat := 0x02C808
def HUD_LATE_CNT : Nat := 0x02C80C
def HUD_EARLY_CNT : Nat := 0x02C810
def HUD_DUP_CNT : Nat := 0x02C814
def HUD_CONFLICT_CNT : Nat := 0x02C818
def HUD_DROP_CNT : Nat := 0x02C81C
def RFAB_CTRL : Nat := 0x030100
def RFAB_STEAL : Nat := 0x030104
def RFAB_SPARE_STATUS : Nat := 0x030108
def RFAB_BENCH : Nat := 0x03010C
def RFAB_FUSE_MAP (i : Nat) : Nat := 0x030120 + 0x4 * i
def RFAB_DESK_MAP (i : Nat) : Nat := 0x030400 + 0x4 * i
def RFAB_STEAL_CNT : Nat := 0x030800
def RFAB_SPLIT_CNT : Nat := 0x030804
def RFAB_DUAL_CMP_CNT : Nat := 0x030808
def RFAB_DUAL_MISMATCH_CNT : Nat := 0x03080C
def RFAB_DUAL_LOST_CNT : Nat := 0x030810
def RFAB_REFILL_CNT : Nat := 0x030814
def RTE_CTRL : Nat := 0x034100
def RTE_SELF : Nat := 0x034104
def RTE_REBOUND : Nat := 0x034108
def RTE_ECN : Nat := 0x03410C
def RTE_REORDER_USED : Nat := 0x034110
def RTE_REORDER_GRAN_FREE : Nat := 0x034114
def RTE_OVF_FREE : Nat := 0x034118
def RTE_SW (i : Nat) : Nat := 0x034200 + 0x4 * i
def RTE_GRP (i : Nat) : Nat := 0x034300 + 0x4 * i
def PORT_CFG (i : Nat) : Nat := 0x034500 + 0x4 * i
def LINK_PORT (i : Nat) : Nat := 0x034A00 + 0x4 * i
def RTE_REBOUND_CNT : Nat := 0x034800
def RTE_EARLY_CNT : Nat := 0x034804
def RTE_PARK_CNT : Nat := 0x034808
def RTE_LATE_CNT : Nat := 0x03480C
def RTE_GAP_CNT : Nat := 0x034810
def RTE_UNREACH_CNT : Nat := 0x034814
def RTE_SPOOF_CNT : Nat := 0x034818
def RTE_LOOP_CNT : Nat := 0x03481C
def RTE_STOMP_CNT : Nat := 0x034820
def RTE_ECHO_CNT : Nat := 0x034824
def RTE_OVF_DROP_CNT : Nat := 0x034828
def TM_CTRL : Nat := 0x038100
def TM_GATE_STATUS (i : Nat) : Nat := 0x038200 + 0x4 * i
def TM_MIRROR_CTRL (i : Nat) : Nat := 0x038400 + 0x10 * i
def TM_MIRROR_MATCH (i : Nat) : Nat := 0x038404 + 0x10 * i
def TM_MIRROR_MASK (i : Nat) : Nat := 0x038408 + 0x10 * i
def TM_CAP_CTRL : Nat := 0x038500
def TM_CAP_REGION : Nat := 0x038504
def TM_CAP_HEAD : Nat := 0x038508
def TM_CAP_TAIL : Nat := 0x03850C
def TM_QDROP_CNT : Nat := 0x038800
def TM_RED_DROP_CNT : Nat := 0x038804
def TM_YELLOW_CNT : Nat := 0x038808
def TM_MARK_CNT : Nat := 0x03880C
def TM_MIRROR_DROP_CNT : Nat := 0x038810
def TM_CAP_CNT : Nat := 0x038814
def TM_CAP_DROP_CNT : Nat := 0x038818
def TM_FLUSH_CNT : Nat := 0x03881C
def TM_WFQ (l v : Nat) : Nat := 0x100100 + 0x4000 * (l / 8) + 0x20 * (l % 8) + 4 * v
def TM_SHAPE (l v : Nat) : Nat := 0x100200 + 0x4000 * (l / 8) + 0x20 * (l % 8) + 4 * v
def TM_QCFG (l v : Nat) : Nat := 0x100300 + 0x4000 * (l / 8) + 0x20 * (l % 8) + 4 * v
def TM_QDEPTH (l v : Nat) : Nat := 0x100400 + 0x4000 * (l / 8) + 0x20 * (l % 8) + 4 * v
def TM_WFQ_B (l v : Nat) : Nat := 0x100500 + 0x4000 * (l / 8) + 0x20 * (l % 8) + 4 * v
def TM_SHAPE_B (l v : Nat) : Nat := 0x100600 + 0x4000 * (l / 8) + 0x20 * (l % 8) + 4 * v
def TM_QCFG_B (l v : Nat) : Nat := 0x100700 + 0x4000 * (l / 8) + 0x20 * (l % 8) + 4 * v
def TM_QDEPTH_B (l v : Nat) : Nat := 0x100900 + 0x4000 * (l / 8) + 0x20 * (l % 8) + 4 * v
def TMP_CFG (p v : Nat) : Nat := 0x140100 + 0x4000 * (p / 16) + 0x20 * (p % 16) + 4 * v
def TMP_RATE (p v : Nat) : Nat := 0x140300 + 0x4000 * (p / 16) + 0x20 * (p % 16) + 4 * v
def MEM_CTRL : Nat := 0x03C100
def MEM_ROLLCALL : Nat := 0x03C104
def MEM_ROLLCALL_DIFF : Nat := 0x03C108
def MEM_HROLLCALL_DIFF : Nat := 0x03C10C
def MEM_QUOTA (i : Nat) : Nat := 0x03C110 + 0x4 * i
def MEM_POOL_USED (i : Nat) : Nat := 0x03C120 + 0x4 * i
def MEM_POOL_FREE : Nat := 0x03C130
def MEM_POOL_RETIRED : Nat := 0x03C134
def MEM_HPOOL_FREE : Nat := 0x03C138
def MEM_THERM_CFG : Nat := 0x03C13C
def MEM_SCRUB : Nat := 0x03C140
def MEM_REGION_USED : Nat := 0x03C144
def MEM_QUOTA_REFUSE_CNT : Nat := 0x03C800
def MEM_SRAM_CE_CNT : Nat := 0x03C804
def MEM_SRAM_UE_CNT : Nat := 0x03C808
def MEM_ROLLCALL_CNT : Nat := 0x03C80C
def MEM_EXTRA_FREE_CNT : Nat := 0x03C810
def MEM_EVAC_CNT : Nat := 0x03C814
def RSV_CFG (i : Nat) : Nat := 0x040100 + 0x20 * i
def RSV_FAULT (i : Nat) : Nat := 0x040104 + 0x20 * i
def RSV_OWN_MAC_0 (i : Nat) : Nat := 0x040108 + 0x20 * i
def RSV_OWN_MAC_1 (i : Nat) : Nat := 0x04010C + 0x20 * i
def RSV_PEER_MAC_0 (i : Nat) : Nat := 0x040110 + 0x20 * i
def RSV_PEER_MAC_1 (i : Nat) : Nat := 0x040114 + 0x20 * i
def RSV_ETYPE : Nat := 0x040180
def FLASH_CONN_USED : Nat := 0x040184
def PRT_SB_STATUS : Nat := 0x040188
def PORT_LED (i : Nat) : Nat := 0x040200 + 0x4 * i
def RSV_DROP_CNT : Nat := 0x040800
def LINK_CTRL (l : Nat) : Nat := 0x080100 + 0x4000 * (l / 8) + 0x40 * (l % 8)
def LINK_STATUS (l : Nat) : Nat := 0x080104 + 0x4000 * (l / 8) + 0x40 * (l % 8)
def LINK_FAULT (l : Nat) : Nat := 0x080108 + 0x4000 * (l / 8) + 0x40 * (l % 8)
def LINK_LANES (l : Nat) : Nat := 0x08010C + 0x4000 * (l / 8) + 0x40 * (l % 8)
def LINK_PEER (l : Nat) : Nat := 0x080110 + 0x4000 * (l / 8) + 0x40 * (l % 8)
def LINK_PEER_SERIAL_0 (l : Nat) : Nat := 0x080114 + 0x4000 * (l / 8) + 0x40 * (l % 8)
def LINK_PEER_SERIAL_1 (l : Nat) : Nat := 0x080118 + 0x4000 * (l / 8) + 0x40 * (l % 8)
def LINK_EXPECT (l : Nat) : Nat := 0x08011C + 0x4000 * (l / 8) + 0x40 * (l % 8)
def LINK_FEC_CORR_CNT (l : Nat) : Nat := 0x080800 + 0x4000 * (l / 8) + 0x20 * (l % 8)
def LINK_FEC_UNCORR_CNT (l : Nat) : Nat := 0x080804 + 0x4000 * (l / 8) + 0x20 * (l % 8)
def LINK_REPLAY_CNT (l : Nat) : Nat := 0x080808 + 0x4000 * (l / 8) + 0x20 * (l % 8)
def LINK_RETRAIN_CNT (l : Nat) : Nat := 0x08080C + 0x4000 * (l / 8) + 0x20 * (l % 8)
def LINK_PRBS_ERR_CNT (l : Nat) : Nat := 0x080810 + 0x4000 * (l / 8) + 0x20 * (l % 8)
def LINK_FCS_DROP_CNT (l : Nat) : Nat := 0x080814 + 0x4000 * (l / 8) + 0x20 * (l % 8)
def ICONV_FAULT (l : Nat) : Nat := 0x0C0100 + 0x4000 * (l / 8) + 0x20 * (l % 8)
def ICONV_REFUSE_CNT (l : Nat) : Nat := 0x0C0104 + 0x4000 * (l / 8) + 0x20 * (l % 8)
def ECONV_FAULT (l : Nat) : Nat := 0x0C0200 + 0x4000 * (l / 8) + 0x20 * (l % 8)
def DESK_STATUS (p : Nat) : Nat := 0x180100 + 0x4000 * (p / 17) + 0x20 * (p % 17)
def DESK_FAULT (p : Nat) : Nat := 0x180104 + 0x4000 * (p / 17) + 0x20 * (p % 17)
def DESK_RES_FAIL_CNT (p : Nat) : Nat := 0x180108 + 0x4000 * (p / 17) + 0x20 * (p % 17)
def DESK_ADD_CNT_0 (p : Nat) : Nat := 0x18010C + 0x4000 * (p / 17) + 0x20 * (p % 17)
def DESK_ADD_CNT_1 (p : Nat) : Nat := 0x180110 + 0x4000 * (p / 17) + 0x20 * (p % 17)
def HBM_STK_CTRL (k : Nat) : Nat := 0x1C0100 + 0x4000 * k
def HBM_STK_STATUS (k : Nat) : Nat := 0x1C0104 + 0x4000 * k
def HBM_STK_FAULT (k : Nat) : Nat := 0x1C0108 + 0x4000 * k
def HBM_STK_RETIRED (k : Nat) : Nat := 0x1C010C + 0x4000 * k
def HBM_STK_SPARE (k : Nat) : Nat := 0x1C0110 + 0x4000 * k
def HBM_CE_CNT (k : Nat) : Nat := 0x1C0800 + 0x4000 * k
def HBM_UE_CNT (k : Nat) : Nat := 0x1C0804 + 0x4000 * k
def HBM_REPAIR_CNT (k : Nat) : Nat := 0x1C0808 + 0x4000 * k
def HBM_ADD_CNT (k : Nat) : Nat := 0x1C080C + 0x4000 * k

end Reg

/-! Named fields, (high bit, low bit). -/

namespace Fd

def TOP_ID_part : Nat × Nat := (31, 16)
def TOP_ID_stepping : Nat × Nat := (15, 8)
def TOP_ID_spares : Nat × Nat := (7, 3)
def TOP_CTRL_fabric_reset : Nat × Nat := (31, 31)
def TOP_CTRL_halt_go : Nat × Nat := (30, 30)
def TOP_STATUS_ready : Nat × Nat := (31, 31)
def TOP_STATUS_halted : Nat × Nat := (30, 30)
def TOP_STATUS_degraded : Nat × Nat := (29, 29)
def TOP_STATUS_reset_busy : Nat × Nat := (28, 28)
def TOP_RESET_CAUSE_mgmt : Nat × Nat := (2, 2)
def TOP_RESET_CAUSE_fabric : Nat × Nat := (1, 1)
def TOP_RESET_CAUSE_power_on : Nat × Nat := (0, 0)
def TOP_BAD_ADDR_write : Nat × Nat := (31, 31)
def TOP_BAD_ADDR_partial : Nat × Nat := (30, 30)
def TOP_BAD_ADDR_sitonel : Nat × Nat := (29, 29)
def TOP_BAD_ADDR_offset : Nat × Nat := (27, 0)
def SIT_CTRL_host_reg_secure : Nat × Nat := (31, 31)
def SIT_CTRL_batch_ms : Nat × Nat := (15, 0)
def SIT_STATUS_draining : Nat × Nat := (31, 31)
def SIT_STATUS_drained : Nat × Nat := (30, 30)
def SIT_STATUS_locate : Nat × Nat := (29, 29)
def SIT_STATUS_restarting : Nat × Nat := (28, 28)
def SIT_FW_STATUS_running : Nat × Nat := (31, 31)
def SIT_FW_STATUS_confirmed : Nat × Nat := (30, 30)
def SIT_FW_STATUS_a_valid : Nat × Nat := (29, 29)
def SIT_FW_STATUS_b_valid : Nat × Nat := (28, 28)
def SIT_FW_STATUS_reverted : Nat × Nat := (27, 27)
def SIT_FW_STATUS_min_sec : Nat × Nat := (15, 0)
def PWR_SEQ_STATUS_order_err : Nat × Nat := (31, 31)
def PWR_SEQ_STATUS_err_rail : Nat × Nat := (9, 0)
def CLK_STATUS_mgmt_ref_lost : Nat × Nat := (31, 31)
def CLK_STATUS_pcie_ref_lost : Nat × Nat := (30, 30)
def CLK_STATUS_mgmt_on_osc : Nat × Nat := (29, 29)
def CLK_STATUS_lane_ref_lost : Nat × Nat := (7, 0)
def REF_STATUS_halted : Nat × Nat := (31, 31)
def REF_STATUS_degraded : Nat × Nat := (30, 30)
def REF_STATUS_ring_full : Nat × Nat := (29, 29)
def REF_STATUS_raise_err : Nat × Nat := (28, 28)
def REF_STATUS_in_fault : Nat × Nat := (10, 0)
def REF_QUIET_sticky_count : Nat × Nat := (31, 24)
def REF_QUIET_sticky_hours : Nat × Nat := (23, 16)
def REF_QUIET_quiet : Nat × Nat := (15, 0)
def REF_ACK_source : Nat × Nat := (9, 0)
def REF_CLEAR_source : Nat × Nat := (9, 0)
def REF_RAISE_source : Nat × Nat := (9, 0)
def REF_SRC_SEL_source : Nat × Nat := (9, 0)
def REF_SRC_INFO1_state : Nat × Nat := (31, 30)
def REF_SRC_INFO1_severity : Nat × Nat := (29, 26)
def REF_SRC_INFO1_sampled : Nat × Nat := (25, 25)
def REF_SRC_INFO1_recoveries : Nat × Nat := (24, 21)
def REF_WINDOW_act_en : Nat × Nat := (31, 31)
def REF_WINDOW_window : Nat × Nat := (19, 0)
def REF_RING_HEAD_head : Nat × Nat := (11, 0)
def REF_RING_TAIL_tail : Nat × Nat := (11, 0)
def INT_CTRL_drain_us : Nat × Nat := (31, 16)
def INT_CTRL_ft_share : Nat × Nat := (15, 8)
def INT_CTRL_ft_en : Nat × Nat := (0, 0)
def INT_FT_STATUS_queued : Nat × Nat := (31, 25)
def INT_FT_STATUS_busy : Nat × Nat := (6, 0)
def CMD_CTRL_rx_en : Nat × Nat := (31, 31)
def CMD_CTRL_host_secure : Nat × Nat := (30, 30)
def CMD_CTRL_part_ticks : Nat × Nat := (15, 0)
def CMD_QUEUED_assemblies : Nat × Nat := (20, 16)
def CMD_QUEUED_queued : Nat × Nat := (12, 0)
def CMD_RX_BASE_0_base : Nat × Nat := (31, 12)
def CMD_RX_SLOTS_slots : Nat × Nat := (15, 0)
def CMD_RX_HEAD_head : Nat × Nat := (15, 0)
def CMD_RX_TAIL_tail : Nat × Nat := (15, 0)
def CKP_CTRL_lost_ms : Nat × Nat := (31, 24)
def CKP_CTRL_lag_ms : Nat × Nat := (23, 16)
def CKP_CTRL_warn : Nat × Nat := (15, 8)
def CKP_CTRL_gate_en : Nat × Nat := (1, 1)
def CKP_CTRL_mirror_en : Nat × Nat := (0, 0)
def CKP_STATUS_partner_state : Nat × Nat := (31, 28)
def CKP_STATUS_log_gap : Nat × Nat := (27, 27)
def CKP_STATUS_log_full : Nat × Nat := (26, 26)
def CKP_STATUS_ckpt_busy : Nat × Nat := (25, 25)
def CKP_PARTNER_coord : Nat × Nat := (23, 0)
def BELL_CTRL_xchg : Nat × Nat := (15, 8)
def BELL_CTRL_pps_out_en : Nat × Nat := (7, 7)
def BELL_CTRL_pps_en : Nat × Nat := (6, 6)
def BELL_CTRL_set_go : Nat × Nat := (5, 5)
def BELL_CTRL_enable : Nat × Nat := (4, 4)
def BELL_CTRL_role : Nat × Nat := (1, 0)
def BELL_STATUS_state : Nat × Nat := (31, 28)
def BELL_STATUS_pps_seen : Nat × Nat := (27, 27)
def BELL_STATUS_set_err : Nat × Nat := (26, 26)
def BELL_STATUS_parent_idx : Nat × Nat := (9, 8)
def BELL_STATUS_parent_link : Nat × Nat := (6, 0)
def BELL_TICK_pend : Nat × Nat := (31, 31)
def BELL_TICK_err : Nat × Nat := (30, 30)
def BELL_TICK_next_sel : Nat × Nat := (6, 4)
def BELL_TICK_go : Nat × Nat := (3, 3)
def BELL_TICK_sel : Nat × Nat := (2, 0)
def BELL_STEP_CTRL_arm : Nat × Nat := (31, 31)
def BELL_STEP_CTRL_err : Nat × Nat := (30, 30)
def BELL_STEP_CTRL_period : Nat × Nat := (19, 0)
def BELL_FAULT_tick_refused : Nat × Nat := (5, 5)
def BELL_FAULT_replay_diff : Nat × Nat := (4, 4)
def BELL_FAULT_pps_missing : Nat × Nat := (3, 3)
def BELL_FAULT_offset_far : Nat × Nat := (2, 2)
def BELL_FAULT_offset_wide : Nat × Nat := (1, 1)
def BELL_FAULT_holdover : Nat × Nat := (0, 0)
def BELL_PARENT_valid : Nat × Nat := (8, 8)
def BELL_PARENT_link : Nat × Nat := (6, 0)
def REPLAY_CTRL_active : Nat × Nat := (31, 31)
def REPLAY_CTRL_diff : Nat × Nat := (30, 30)
def REPLAY_CTRL_cmp_time : Nat × Nat := (29, 29)
def SEQ_CTRL_admit_note_ticks : Nat × Nat := (15, 8)
def SEQ_CTRL_xchk_force : Nat × Nat := (7, 7)
def MTR_CTRL_metro_late_ticks : Nat × Nat := (31, 16)
def MTR_CTRL_notice_tries : Nat × Nat := (15, 12)
def MTR_TIMERS_notice_retry_ticks : Nat × Nat := (31, 16)
def MTR_TIMERS_hold_ticks : Nat × Nat := (15, 0)
def LSN_CTRL_run_en : Nat × Nat := (16, 16)
def LSN_CTRL_stall_ticks : Nat × Nat := (15, 0)
def LSN_ENG_STATUS_state : Nat × Nat := (31, 28)
def LSN_ENG_STATUS_busy : Nat × Nat := (11, 11)
def LSN_ENG_STATUS_shard : Nat × Nat := (9, 0)
def LSN_ENG_FAULT_kat_fail : Nat × Nat := (2, 2)
def LSN_ENG_FAULT_class_mismatch : Nat × Nat := (1, 1)
def LSN_ENG_FAULT_residue_fail : Nat × Nat := (0, 0)
def HUD_CTRL_spill_en : Nat × Nat := (8, 8)
def HUD_CTRL_fence_go : Nat × Nat := (4, 4)
def HUD_CTRL_fence_unit : Nat × Nat := (3, 0)
def HUD_UNIT_STATUS_state : Nat × Nat := (31, 28)
def HUD_UNIT_STATUS_open : Nat × Nat := (11, 0)
def HUD_UNIT_FAULT_sram_ue : Nat × Nat := (2, 2)
def HUD_UNIT_FAULT_class_mismatch : Nat × Nat := (1, 1)
def HUD_UNIT_FAULT_residue_fail : Nat × Nat := (0, 0)
def RFAB_CTRL_force_dual : Nat × Nat := (8, 8)
def RFAB_CTRL_max_split : Nat × Nat := (7, 6)
def RFAB_CTRL_steal_en : Nat × Nat := (5, 5)
def RFAB_STEAL_high_mark : Nat × Nat := (31, 16)
def RFAB_STEAL_low_mark : Nat × Nat := (15, 8)
def RFAB_STEAL_round : Nat × Nat := (7, 0)
def RFAB_SPARE_STATUS_refill_busy : Nat × Nat := (31, 31)
def RFAB_SPARE_STATUS_refill_phys : Nat × Nat := (30, 22)
def RFAB_SPARE_STATUS_good_spares : Nat × Nat := (21, 17)
def RFAB_SPARE_STATUS_unmapped : Nat × Nat := (16, 8)
def RFAB_SPARE_STATUS_refill_logical : Nat × Nat := (7, 0)
def RFAB_BENCH_go : Nat × Nat := (31, 31)
def RFAB_BENCH_err : Nat × Nat := (30, 30)
def RFAB_BENCH_phys : Nat × Nat := (8, 0)
def RFAB_DESK_MAP_mapped : Nat × Nat := (31, 31)
def RFAB_DESK_MAP_phys : Nat × Nat := (8, 0)
def RTE_CTRL_gap_ticks : Nat × Nat := (23, 16)
def RTE_CTRL_resync : Nat × Nat := (4, 4)
def RTE_CTRL_ct_en : Nat × Nat := (3, 3)
def RTE_CTRL_ovf_en : Nat × Nat := (2, 2)
def RTE_CTRL_rebound_en : Nat × Nat := (1, 1)
def RTE_SELF_group : Nat × Nat := (23, 17)
def RTE_SELF_switch : Nat × Nat := (16, 11)
def RTE_REBOUND_thresh : Nat × Nat := (31, 16)
def RTE_ECN_recover : Nat × Nat := (31, 16)
def RTE_ECN_hold : Nat × Nat := (15, 0)
def RTE_SW_valid_3 : Nat × Nat := (31, 31)
def RTE_SW_port_3 : Nat × Nat := (30, 24)
def RTE_SW_valid_2 : Nat × Nat := (23, 23)
def RTE_SW_port_2 : Nat × Nat := (22, 16)
def RTE_SW_valid_1 : Nat × Nat := (15, 15)
def RTE_SW_port_1 : Nat × Nat := (14, 8)
def RTE_SW_valid_0 : Nat × Nat := (7, 7)
def RTE_SW_port_0 : Nat × Nat := (6, 0)
def RTE_GRP_valid_3 : Nat × Nat := (31, 31)
def RTE_GRP_port_3 : Nat × Nat := (30, 24)
def RTE_GRP_valid_2 : Nat × Nat := (23, 23)
def RTE_GRP_port_2 : Nat × Nat := (22, 16)
def RTE_GRP_valid_1 : Nat × Nat := (15, 15)
def RTE_GRP_port_1 : Nat × Nat := (14, 8)
def RTE_GRP_valid_0 : Nat × Nat := (7, 7)
def RTE_GRP_port_0 : Nat × Nat := (6, 0)
def PORT_CFG_en : Nat × Nat := (31, 31)
def PORT_CFG_kind : Nat × Nat := (30, 28)
def PORT_CFG_mode : Nat × Nat := (27, 27)
def PORT_CFG_err : Nat × Nat := (26, 26)
def PORT_CFG_skew_high : Nat × Nat := (25, 25)
def PORT_CFG_up_links : Nat × Nat := (20, 16)
def PORT_CFG_skew : Nat × Nat := (15, 8)
def LINK_PORT_member : Nat × Nat := (31, 31)
def LINK_PORT_split : Nat × Nat := (30, 30)
def LINK_PORT_err : Nat × Nat := (29, 29)
def LINK_PORT_port_b : Nat × Nat := (22, 16)
def LINK_PORT_port : Nat × Nat := (6, 0)
def TM_CTRL_mirror_en : Nat × Nat := (2, 2)
def TM_CTRL_police_en : Nat × Nat := (1, 1)
def TM_CTRL_mark_en : Nat × Nat := (0, 0)
def TM_GATE_STATUS_en : Nat × Nat := (31, 31)
def TM_GATE_STATUS_pend : Nat × Nat := (30, 30)
def TM_GATE_STATUS_entry : Nat × Nat := (24, 16)
def TM_GATE_STATUS_open : Nat × Nat := (7, 0)
def TM_MIRROR_CTRL_en : Nat × Nat := (31, 31)
def TM_MIRROR_CTRL_source : Nat × Nat := (30, 29)
def TM_MIRROR_CTRL_match_src : Nat × Nat := (28, 28)
def TM_MIRROR_CTRL_err : Nat × Nat := (27, 27)
def TM_MIRROR_CTRL_src_port : Nat × Nat := (26, 20)
def TM_MIRROR_CTRL_an_port : Nat × Nat := (19, 13)
def TM_MIRROR_CTRL_mirror_vc : Nat × Nat := (12, 10)
def TM_MIRROR_CTRL_vc_mask : Nat × Nat := (7, 0)
def TM_MIRROR_MATCH_coord : Nat × Nat := (23, 0)
def TM_MIRROR_MASK_mask : Nat × Nat := (23, 0)
def TM_CAP_CTRL_en : Nat × Nat := (31, 31)
def TM_CAP_CTRL_drops_only : Nat × Nat := (30, 30)
def TM_CAP_CTRL_dir : Nat × Nat := (29, 28)
def TM_CAP_CTRL_vc_mask : Nat × Nat := (27, 20)
def TM_CAP_CTRL_all_ports : Nat × Nat := (7, 7)
def TM_CAP_CTRL_cap_port : Nat × Nat := (6, 0)
def TM_WFQ_burst : Nat × Nat := (31, 16)
def TM_WFQ_weight : Nat × Nat := (7, 0)
def TM_SHAPE_en : Nat × Nat := (31, 31)
def TM_SHAPE_bucket : Nat × Nat := (30, 16)
def TM_SHAPE_rate : Nat × Nat := (15, 0)
def TM_QCFG_limit : Nat × Nat := (31, 16)
def TM_QCFG_mark : Nat × Nat := (15, 0)
def TM_WFQ_B_burst : Nat × Nat := (31, 16)
def TM_WFQ_B_weight : Nat × Nat := (7, 0)
def TM_SHAPE_B_en : Nat × Nat := (31, 31)
def TM_SHAPE_B_bucket : Nat × Nat := (30, 16)
def TM_SHAPE_B_rate : Nat × Nat := (15, 0)
def TM_QCFG_B_limit : Nat × Nat := (31, 16)
def TM_QCFG_B_mark : Nat × Nat := (15, 0)
def TMP_CFG_en : Nat × Nat := (31, 31)
def TMP_CFG_aware : Nat × Nat := (30, 30)
def TMP_CFG_red_pass : Nat × Nat := (29, 29)
def TMP_CFG_pbs : Nat × Nat := (15, 8)
def TMP_CFG_cbs : Nat × Nat := (7, 0)
def TMP_RATE_pir : Nat × Nat := (31, 16)
def TMP_RATE_cir : Nat × Nat := (15, 0)
def MEM_CTRL_evac_share : Nat × Nat := (15, 8)
def MEM_CTRL_scrub_en : Nat × Nat := (2, 2)
def MEM_CTRL_rollcall_en : Nat × Nat := (1, 1)
def MEM_ROLLCALL_diff_seen : Nat × Nat := (31, 31)
def MEM_ROLLCALL_interval : Nat × Nat := (19, 0)
def MEM_QUOTA_err : Nat × Nat := (31, 31)
def MEM_QUOTA_quota : Nat × Nat := (10, 0)
def MEM_THERM_CFG_err : Nat × Nat := (31, 31)
def MEM_THERM_CFG_crit : Nat × Nat := (23, 16)
def MEM_THERM_CFG_hot : Nat × Nat := (15, 8)
def MEM_THERM_CFG_warm : Nat × Nat := (7, 0)
def MEM_SCRUB_hours : Nat × Nat := (15, 0)
def RSV_CFG_en : Nat × Nat := (31, 31)
def RSV_CFG_use : Nat × Nat := (30, 30)
def RSV_CFG_vlan_en : Nat × Nat := (29, 29)
def RSV_CFG_pfc_prio : Nat × Nat := (28, 26)
def RSV_CFG_pfc_en : Nat × Nat := (25, 25)
def RSV_CFG_err : Nat × Nat := (24, 24)
def RSV_CFG_vlan_id : Nat × Nat := (23, 12)
def RSV_CFG_ack_exp : Nat × Nat := (11, 7)
def RSV_CFG_link : Nat × Nat := (6, 0)
def RSV_FAULT_conn_failed : Nat × Nat := (2, 2)
def RSV_FAULT_bad_access : Nat × Nat := (1, 1)
def RSV_FAULT_too_long : Nat × Nat := (0, 0)
def RSV_OWN_MAC_1_mac : Nat × Nat := (15, 0)
def RSV_PEER_MAC_1_mac : Nat × Nat := (15, 0)
def RSV_ETYPE_etype : Nat × Nat := (15, 0)
def PRT_SB_STATUS_chain_err : Nat × Nat := (0, 0)
def PORT_LED_locate : Nat × Nat := (31, 31)
def PORT_LED_fault_auto : Nat × Nat := (30, 30)
def PORT_LED_fault_sw : Nat × Nat := (3, 2)
def LINK_CTRL_en : Nat × Nat := (31, 31)
def LINK_CTRL_auto_up : Nat × Nat := (30, 30)
def LINK_CTRL_retrain : Nat × Nat := (29, 29)
def LINK_CTRL_expect_en : Nat × Nat := (28, 28)
def LINK_CTRL_loop : Nat × Nat := (27, 25)
def LINK_CTRL_prbs_en : Nat × Nat := (24, 24)
def LINK_CTRL_tries : Nat × Nat := (23, 20)
def LINK_CTRL_g_mode : Nat × Nat := (19, 19)
def LINK_CTRL_err : Nat × Nat := (18, 18)
def LINK_CTRL_g_mode_b : Nat × Nat := (17, 17)
def LINK_CTRL_margin_min : Nat × Nat := (7, 0)
def LINK_STATUS_step : Nat × Nat := (31, 28)
def LINK_STATUS_tries_used : Nat × Nat := (27, 24)
def LINK_STATUS_present : Nat × Nat := (23, 23)
def LINK_STATUS_latch_closed : Nat × Nat := (22, 22)
def LINK_STATUS_long_reach : Nat × Nat := (21, 21)
def LINK_FAULT_peer_mismatch : Nat × Nat := (7, 7)
def LINK_FAULT_step_timeout : Nat × Nat := (6, 6)
def LINK_FAULT_lane_map : Nat × Nat := (5, 5)
def LINK_FAULT_lock_lost : Nat × Nat := (4, 4)
def LINK_FAULT_replay_limit : Nat × Nat := (3, 3)
def LINK_FAULT_margin_low : Nat × Nat := (2, 2)
def LINK_FAULT_removed : Nat × Nat := (1, 1)
def LINK_FAULT_failed : Nat × Nat := (0, 0)
def LINK_LANES_lane_map : Nat × Nat := (31, 8)
def LINK_LANES_polarity : Nat × Nat := (7, 0)
def LINK_EXPECT_coord : Nat × Nat := (23, 0)
def ICONV_FAULT_dup_mismatch : Nat × Nat := (5, 5)
def ICONV_FAULT_unknown_bucket : Nat × Nat := (4, 4)
def ICONV_FAULT_scale_full : Nat × Nat := (3, 3)
def ICONV_FAULT_scale_missing : Nat × Nat := (2, 2)
def ICONV_FAULT_tag_residue : Nat × Nat := (1, 1)
def ICONV_FAULT_format_refused : Nat × Nat := (0, 0)
def ECONV_FAULT_dup_mismatch : Nat × Nat := (1, 1)
def ECONV_FAULT_residue_fail : Nat × Nat := (0, 0)
def DESK_STATUS_state : Nat × Nat := (31, 28)
def DESK_STATUS_mapped : Nat × Nat := (24, 24)
def DESK_STATUS_logical : Nat × Nat := (23, 16)
def DESK_STATUS_acc_used : Nat × Nat := (15, 11)
def DESK_STATUS_queue_blocks : Nat × Nat := (10, 0)
def DESK_FAULT_sram_ue : Nat × Nat := (5, 5)
def DESK_FAULT_kat_fail : Nat × Nat := (4, 4)
def DESK_FAULT_drain_timeout : Nat × Nat := (3, 3)
def DESK_FAULT_dual_mismatch : Nat × Nat := (2, 2)
def DESK_FAULT_class_mismatch : Nat × Nat := (1, 1)
def DESK_FAULT_residue_fail : Nat × Nat := (0, 0)
def HBM_STK_CTRL_fence : Nat × Nat := (31, 31)
def HBM_STK_CTRL_unfence : Nat × Nat := (30, 30)
def HBM_STK_STATUS_state : Nat × Nat := (31, 28)
def HBM_STK_STATUS_evacuating : Nat × Nat := (27, 27)
def HBM_STK_STATUS_temp : Nat × Nat := (23, 16)
def HBM_STK_STATUS_free : Nat × Nat := (15, 0)
def HBM_STK_FAULT_fenced : Nat × Nat := (7, 7)
def HBM_STK_FAULT_critical : Nat × Nat := (6, 6)
def HBM_STK_FAULT_hot : Nat × Nat := (5, 5)
def HBM_STK_FAULT_evac_blocked : Nat × Nat := (4, 4)
def HBM_STK_FAULT_repair_exhausted : Nat × Nat := (3, 3)
def HBM_STK_FAULT_add_check : Nat × Nat := (2, 2)
def HBM_STK_FAULT_add_limit : Nat × Nat := (1, 1)
def HBM_STK_FAULT_ue : Nat × Nat := (0, 0)
def BLK_STATUS_post_busy : Nat × Nat := (31, 31)
def BLK_STATUS_post_err : Nat × Nat := (30, 30)
def BLK_STATUS_vote_fail : Nat × Nat := (29, 29)
def BLK_STATUS_lock_refused : Nat × Nat := (28, 28)
def BLK_STATUS_world_denied : Nat × Nat := (27, 27)
def BLK_STATUS_unlocked_host : Nat × Nat := (26, 26)
def BLK_STATUS_unlocked_mgmt : Nat × Nat := (25, 25)
def BLK_STATUS_secure : Nat × Nat := (24, 24)

end Fd

/-! The field tables. -/

/-- The common registers of every block (R522 to R525). -/
def commonRows : List RegRow := [
  ⟨0x0000, 4, 1, [⟨31, 0, .ro, false, false, 0⟩]⟩,
  ⟨0x0004, 4, 1, [⟨31, 31, .ro, false, false, 0⟩, ⟨30, 30, .w1c, false, false, 0⟩, ⟨29, 29, .w1c, false, false, 0⟩,
    ⟨28, 28, .w1c, false, false, 0⟩, ⟨27, 27, .w1c, false, false, 0⟩, ⟨26, 24, .ro, false, false, 0⟩]⟩,
  ⟨0x0008, 4, 1, [⟨31, 0, .cmd, false, false, 0⟩]⟩,
  ⟨0x000C, 4, 1, [⟨0, 0, .trig, false, false, 0⟩]⟩,
  ⟨0x0010, 4, 3, [⟨31, 0, .ro, false, false, 0⟩]⟩]

def rows_TOP : List RegRow := [
  -- TOP_ID (R527)
  ⟨0x0100, 0x4, 1, [
    ⟨31, 16, .ro, false, false, 0x9416⟩, ⟨15, 8, .ro, false, false, 0x0⟩, ⟨7, 3, .ro, false, false, 0x0⟩]⟩,
  -- TOP_SERIAL_0 (R526)
  ⟨0x0104, 0x4, 1, [⟨31, 0, .ro, false, false, 0x0⟩]⟩,
  -- TOP_SERIAL_1 (R526)
  ⟨0x0108, 0x4, 1, [⟨31, 0, .ro, false, false, 0x0⟩]⟩,
  -- TOP_CTRL (R528)
  ⟨0x010C, 0x4, 1, [⟨31, 31, .trig, true, true, 0x0⟩, ⟨30, 30, .trig, true, true, 0x0⟩]⟩,
  -- TOP_STATUS (R529)
  ⟨0x0110, 0x4, 1, [
    ⟨31, 31, .ro, false, false, 0x0⟩, ⟨30, 30, .ro, false, false, 0x0⟩, ⟨29, 29, .ro, false, false, 0x0⟩,
    ⟨28, 28, .ro, false, false, 0x0⟩]⟩,
  -- TOP_RESET_CAUSE (R530)
  ⟨0x0114, 0x4, 1, [
    ⟨2, 2, .w1c, false, false, 0x0⟩, ⟨1, 1, .w1c, false, false, 0x0⟩, ⟨0, 0, .w1c, false, false, 0x0⟩]⟩,
  -- TOP_SCRATCH (R526)
  ⟨0x0118, 0x4, 1, [⟨31, 0, .rw, false, false, 0x0⟩]⟩,
  -- TOP_BAD_ADDR (R531)
  ⟨0x011C, 0x4, 1, [
    ⟨31, 31, .ro, false, false, 0x0⟩, ⟨30, 30, .ro, false, false, 0x0⟩, ⟨29, 29, .ro, false, false, 0x0⟩,
    ⟨27, 0, .ro, false, false, 0x0⟩]⟩,
  -- TOP_BAD_ADDR_CNT (R526)
  ⟨0x0800, 0x4, 1, [⟨31, 0, .ro, false, false, 0x0⟩]⟩]

def rows_SIT : List RegRow := [
  -- SIT_CTRL (R558)
  ⟨0x0100, 0x4, 1, [⟨31, 31, .rw, true, false, 0x1⟩, ⟨15, 0, .rw, false, false, 0xA⟩]⟩,
  -- SIT_STATUS (R559)
  ⟨0x0104, 0x4, 1, [
    ⟨31, 31, .ro, false, false, 0x0⟩, ⟨30, 30, .ro, false, false, 0x0⟩, ⟨29, 29, .ro, false, false, 0x0⟩,
    ⟨28, 28, .ro, false, false, 0x0⟩]⟩,
  -- SIT_BLK_WORLD (R557)
  ⟨0x0108, 0x4, 1, [⟨31, 0, .rw, true, false, 0x9C⟩]⟩,
  -- SIT_FW_STATUS (R560)
  ⟨0x010C, 0x4, 1, [
    ⟨31, 31, .ro, false, false, 0x0⟩, ⟨30, 30, .ro, false, false, 0x0⟩, ⟨29, 29, .ro, false, false, 0x0⟩,
    ⟨28, 28, .ro, false, false, 0x0⟩, ⟨27, 27, .w1c, false, false, 0x0⟩, ⟨15, 0, .ro, false, false, 0x0⟩]⟩,
  -- SIT_ATTEST_LEFT (R557)
  ⟨0x0110, 0x4, 1, [⟨31, 0, .ro, false, false, 0x0⟩]⟩,
  -- SIT_EVT_OVERWRITE_CNT... (R557)
  ⟨0x0800, 0x4, 3, [⟨31, 0, .ro, false, false, 0x0⟩]⟩]

def rows_PCIE : List RegRow := [
]

def rows_SNS : List RegRow := [
  -- PWR_SEQ_STATUS (R576)
  ⟨0x0100, 0x4, 1, [⟨31, 31, .w1c, false, false, 0x0⟩, ⟨9, 0, .w1c, false, false, 0x0⟩]⟩,
  -- CLK_STATUS (R576)
  ⟨0x0104, 0x4, 1, [
    ⟨31, 31, .w1c, false, false, 0x0⟩, ⟨30, 30, .w1c, false, false, 0x0⟩, ⟨29, 29, .ro, false, false, 0x0⟩,
    ⟨7, 0, .w1c, false, false, 0x0⟩]⟩]

def rows_REF : List RegRow := [
  -- REF_STATUS (R453)
  ⟨0x0100, 0x4, 1, [
    ⟨31, 31, .ro, false, false, 0x0⟩, ⟨30, 30, .w1c, false, false, 0x0⟩, ⟨29, 29, .w1c, false, false, 0x0⟩,
    ⟨28, 28, .w1c, false, false, 0x0⟩, ⟨10, 0, .ro, false, false, 0x0⟩]⟩,
  -- REF_QUIET (R454)
  ⟨0x0104, 0x4, 1, [
    ⟨31, 24, .rw, false, false, 0x8⟩, ⟨23, 16, .rw, false, false, 0x1⟩, ⟨15, 0, .rw, false, false, 0x64⟩]⟩,
  -- REF_ACK (R452)
  ⟨0x0108, 0x4, 1, [⟨9, 0, .cmd, false, false, 0x0⟩]⟩,
  -- REF_CLEAR (R452)
  ⟨0x010C, 0x4, 1, [⟨9, 0, .cmd, true, true, 0x0⟩]⟩,
  -- REF_RAISE (R452)
  ⟨0x0110, 0x4, 1, [⟨9, 0, .cmd, false, true, 0x0⟩]⟩,
  -- REF_SRC_SEL (R452)
  ⟨0x0114, 0x4, 1, [⟨9, 0, .rw, false, false, 0x0⟩]⟩,
  -- REF_SRC_INFO0 (R452)
  ⟨0x0118, 0x4, 1, [⟨31, 0, .ro, false, false, 0x0⟩]⟩,
  -- REF_SRC_INFO1 (R452)
  ⟨0x011C, 0x4, 1, [
    ⟨31, 30, .ro, false, false, 0x0⟩, ⟨29, 26, .ro, false, false, 0x0⟩, ⟨25, 25, .ro, false, false, 0x0⟩,
    ⟨24, 21, .ro, false, false, 0x0⟩]⟩,
  -- REF_WINDOW (R455)
  ⟨0x0120, 0x4, 4, [⟨31, 31, .rw, true, true, 0x1⟩, ⟨19, 0, .rw, false, false, 0x64⟩]⟩,
  -- REF_RING_HEAD (R452)
  ⟨0x0130, 0x4, 1, [⟨11, 0, .ro, false, false, 0x0⟩]⟩,
  -- REF_RING_TAIL (R452)
  ⟨0x0134, 0x4, 1, [⟨11, 0, .ro, false, false, 0x0⟩]⟩,
  -- INT_CTRL (R456)
  ⟨0x0180, 0x4, 1, [
    ⟨31, 16, .rw, false, false, 0x32⟩, ⟨15, 8, .rw, false, false, 0x10⟩, ⟨0, 0, .rw, false, false, 0x1⟩]⟩,
  -- INT_FT_STATUS (R457)
  ⟨0x0184, 0x4, 1, [⟨31, 25, .ro, false, false, 0x0⟩, ⟨6, 0, .ro, false, false, 0x0⟩]⟩,
  -- REF_SEV (R452)
  ⟨0x0200, 0x4, 128, [⟨31, 0, .rw, true, true, 0x0⟩]⟩,
  -- REF_STATE (R452)
  ⟨0x0400, 0x4, 64, [⟨31, 0, .ro, false, false, 0x0⟩]⟩,
  -- REF_PEND (R452)
  ⟨0x0500, 0x4, 32, [⟨31, 0, .ro, false, false, 0x0⟩]⟩,
  -- REF_RAISE_CNT... (R452)
  ⟨0x0800, 0x4, 13, [⟨31, 0, .ro, false, false, 0x0⟩]⟩]

def rows_CMD : List RegRow := [
  -- CMD_CTRL (R510)
  ⟨0x0100, 0x4, 1, [
    ⟨31, 31, .rw, false, false, 0x0⟩, ⟨30, 30, .rw, true, true, 0x0⟩, ⟨15, 0, .rw, false, false, 0x400⟩]⟩,
  -- CMD_QUEUED (R509)
  ⟨0x0104, 0x4, 1, [⟨20, 16, .ro, false, false, 0x0⟩, ⟨12, 0, .ro, false, false, 0x0⟩]⟩,
  -- CMD_RX_BASE_0 (R509)
  ⟨0x0110, 0x4, 1, [⟨31, 12, .rw, false, false, 0x0⟩]⟩,
  -- CMD_RX_BASE_1 (R509)
  ⟨0x0114, 0x4, 1, [⟨31, 0, .rw, false, false, 0x0⟩]⟩,
  -- CMD_RX_SLOTS (R509)
  ⟨0x0118, 0x4, 1, [⟨15, 0, .rw, false, false, 0x100⟩]⟩,
  -- CMD_RX_HEAD (R509)
  ⟨0x011C, 0x4, 1, [⟨15, 0, .rw, false, false, 0x0⟩]⟩,
  -- CMD_RX_TAIL (R509)
  ⟨0x0120, 0x4, 1, [⟨15, 0, .ro, false, false, 0x0⟩]⟩,
  -- CMD_SECURE_PORT (R509)
  ⟨0x0200, 0x4, 4, [⟨31, 0, .rw, true, true, 0x0⟩]⟩,
  -- CMD_ACCEPT_CNT... (R509)
  ⟨0x0800, 0x4, 6, [⟨31, 0, .ro, false, false, 0x0⟩]⟩]

def rows_CKP : List RegRow := [
  -- CKP_CTRL (R482)
  ⟨0x0100, 0x4, 1, [
    ⟨31, 24, .rw, false, false, 0x5⟩, ⟨23, 16, .rw, false, false, 0x2⟩, ⟨15, 8, .rw, false, false, 0xC0⟩,
    ⟨1, 1, .rw, true, false, 0x1⟩, ⟨0, 0, .rw, true, false, 0x1⟩]⟩,
  -- CKP_STATUS (R483)
  ⟨0x0104, 0x4, 1, [
    ⟨31, 28, .ro, false, false, 0x0⟩, ⟨27, 27, .w1c, false, false, 0x0⟩, ⟨26, 26, .ro, false, false, 0x0⟩,
    ⟨25, 25, .ro, false, false, 0x0⟩]⟩,
  -- CKP_PARTNER (R481)
  ⟨0x0108, 0x4, 1, [⟨23, 0, .ro, false, false, 0x0⟩]⟩,
  -- CKP_LOG_SIZE (R481)
  ⟨0x010C, 0x4, 1, [⟨31, 0, .ro, false, false, 0x2000⟩]⟩,
  -- LOG_MIRRORED_0 (R481)
  ⟨0x0110, 0x4, 1, [⟨31, 0, .ro, false, false, 0x0⟩]⟩,
  -- LOG_MIRRORED_1 (R481)
  ⟨0x0114, 0x4, 1, [⟨31, 0, .ro, false, false, 0x0⟩]⟩,
  -- LOG_DURABLE_0 (R481)
  ⟨0x0118, 0x4, 1, [⟨31, 0, .ro, false, false, 0x0⟩]⟩,
  -- LOG_DURABLE_1 (R481)
  ⟨0x011C, 0x4, 1, [⟨31, 0, .ro, false, false, 0x0⟩]⟩,
  -- LOG_FILL (R481)
  ⟨0x0120, 0x4, 1, [⟨31, 0, .ro, false, false, 0x0⟩]⟩,
  -- LOG_REFUSE_CNT... (R481)
  ⟨0x0800, 0x4, 5, [⟨31, 0, .ro, false, false, 0x0⟩]⟩]

def rows_BELL : List RegRow := [
  -- BELL_CTRL (R275)
  ⟨0x0100, 0x4, 1, [
    ⟨15, 8, .rw, false, false, 0x8⟩, ⟨7, 7, .rw, false, false, 0x0⟩, ⟨6, 6, .rw, false, false, 0x0⟩,
    ⟨5, 5, .trig, true, false, 0x0⟩, ⟨4, 4, .rw, false, false, 0x0⟩, ⟨1, 0, .rw, false, false, 0x0⟩]⟩,
  -- BELL_STATUS (R276)
  ⟨0x0104, 0x4, 1, [
    ⟨31, 28, .ro, false, false, 0x0⟩, ⟨27, 27, .w1c, false, false, 0x0⟩, ⟨26, 26, .w1c, false, false, 0x0⟩,
    ⟨9, 8, .ro, false, false, 0x0⟩, ⟨6, 0, .ro, false, false, 0x0⟩]⟩,
  -- BELL_NOW_0 (R274)
  ⟨0x0108, 0x4, 1, [⟨31, 0, .ro, false, false, 0x0⟩]⟩,
  -- BELL_NOW_1 (R274)
  ⟨0x010C, 0x4, 1, [⟨31, 0, .ro, false, false, 0x0⟩]⟩,
  -- BELL_NOW_2 (R274)
  ⟨0x0110, 0x4, 1, [⟨31, 0, .ro, false, false, 0x0⟩]⟩,
  -- BELL_SET_0 (R274)
  ⟨0x0114, 0x4, 1, [⟨31, 0, .rw, false, false, 0x0⟩]⟩,
  -- BELL_SET_1 (R274)
  ⟨0x0118, 0x4, 1, [⟨31, 0, .rw, false, false, 0x0⟩]⟩,
  -- BELL_INC (R274)
  ⟨0x011C, 0x4, 1, [⟨31, 0, .ro, false, false, 0xC4EC4EC5⟩]⟩,
  -- BELL_OFFSET (R274)
  ⟨0x0120, 0x4, 1, [⟨31, 0, .ro, false, false, 0x0⟩]⟩,
  -- BELL_PPS_SEC (R274)
  ⟨0x0124, 0x4, 1, [⟨31, 0, .rw, false, false, 0x0⟩]⟩,
  -- BELL_PPS_ERR (R274)
  ⟨0x0128, 0x4, 1, [⟨31, 0, .ro, false, false, 0x0⟩]⟩,
  -- BELL_TICK (R277)
  ⟨0x012C, 0x4, 1, [
    ⟨31, 31, .ro, false, false, 0x0⟩, ⟨30, 30, .w1c, false, false, 0x0⟩, ⟨6, 4, .rw, false, false, 0x2⟩,
    ⟨3, 3, .trig, true, false, 0x0⟩, ⟨2, 0, .ro, false, false, 0x2⟩]⟩,
  -- BELL_TICK_AT_0 (R274)
  ⟨0x0130, 0x4, 1, [⟨31, 0, .rw, false, false, 0x0⟩]⟩,
  -- BELL_TICK_AT_1 (R274)
  ⟨0x0134, 0x4, 1, [⟨31, 0, .rw, false, false, 0x0⟩]⟩,
  -- BELL_STEP_CTRL (R278)
  ⟨0x0138, 0x4, 1, [
    ⟨31, 31, .rw, false, false, 0x0⟩, ⟨30, 30, .w1c, false, false, 0x0⟩, ⟨19, 0, .rw, false, false, 0x0⟩]⟩,
  -- BELL_STEP_ORIGIN_0 (R274)
  ⟨0x013C, 0x4, 1, [⟨31, 0, .rw, false, false, 0x0⟩]⟩,
  -- BELL_STEP_ORIGIN_1 (R274)
  ⟨0x0140, 0x4, 1, [⟨31, 0, .rw, false, false, 0x0⟩]⟩,
  -- BELL_STEP_CNT (R274)
  ⟨0x0144, 0x4, 1, [⟨31, 0, .ro, false, false, 0x0⟩]⟩,
  -- BELL_TT_ID (R274)
  ⟨0x0148, 0x4, 1, [⟨31, 0, .rw, false, false, 0x0⟩]⟩,
  -- BELL_FAULT (R280)
  ⟨0x014C, 0x4, 1, [
    ⟨5, 5, .w1c, false, false, 0x0⟩, ⟨4, 4, .w1c, false, false, 0x0⟩, ⟨3, 3, .w1c, false, false, 0x0⟩,
    ⟨2, 2, .w1c, false, false, 0x0⟩, ⟨1, 1, .w1c, false, false, 0x0⟩, ⟨0, 0, .w1c, false, false, 0x0⟩]⟩,
  -- BELL_PARENT (R274)
  ⟨0x0150, 0x4, 4, [⟨8, 8, .rw, false, false, 0x0⟩, ⟨6, 0, .rw, false, false, 0x0⟩]⟩,
  -- BELL_LINK_ASYM (R274)
  ⟨0x0200, 0x4, 128, [⟨31, 0, .rw, false, false, 0x0⟩]⟩,
  -- BELL_LINK_DELAY (R274)
  ⟨0x0400, 0x4, 128, [⟨31, 0, .ro, false, false, 0x0⟩]⟩,
  -- REPLAY_CTRL (R279)
  ⟨0x0600, 0x4, 1, [
    ⟨31, 31, .ro, false, false, 0x0⟩, ⟨30, 30, .w1c, false, false, 0x0⟩, ⟨29, 29, .rw, false, false, 0x0⟩]⟩,
  -- REPLAY_DIFF_SEQ_0 (R274)
  ⟨0x0604, 0x4, 1, [⟨31, 0, .ro, false, false, 0x0⟩]⟩,
  -- REPLAY_DIFF_SEQ_1 (R274)
  ⟨0x0608, 0x4, 1, [⟨31, 0, .ro, false, false, 0x0⟩]⟩,
  -- RECORD_SEQ_0 (R274)
  ⟨0x060C, 0x4, 1, [⟨31, 0, .ro, false, false, 0x0⟩]⟩,
  -- RECORD_SEQ_1 (R274)
  ⟨0x0610, 0x4, 1, [⟨31, 0, .ro, false, false, 0x0⟩]⟩,
  -- BELL_XCHG_CNT... (R274)
  ⟨0x0800, 0x4, 6, [⟨31, 0, .ro, false, false, 0x0⟩]⟩]

def rows_SEQ : List RegRow := [
  -- SEQ_CTRL (R158)
  ⟨0x0100, 0x4, 1, [⟨15, 8, .rw, false, false, 0x10⟩, ⟨7, 7, .rw, true, false, 0x0⟩]⟩,
  -- SEQ_CTX_USED (R157)
  ⟨0x0104, 0x4, 1, [⟨31, 0, .ro, false, false, 0x0⟩]⟩,
  -- SEQ_BUCKET_USED (R157)
  ⟨0x0108, 0x4, 1, [⟨31, 0, .ro, false, false, 0x0⟩]⟩,
  -- SEQ_ACC_RESERVED (R157)
  ⟨0x010C, 0x4, 1, [⟨31, 0, .ro, false, false, 0x0⟩]⟩,
  -- SEQ_ADMIT_WAIT (R157)
  ⟨0x0110, 0x4, 1, [⟨31, 0, .ro, false, false, 0x0⟩]⟩,
  -- SEQ_ROLL_FREE (R157)
  ⟨0x0114, 0x4, 1, [⟨31, 0, .ro, false, false, 0x10000⟩]⟩,
  -- SEQ_SLOT_FREE (R157)
  ⟨0x0118, 0x4, 1, [⟨31, 0, .ro, false, false, 0x1000⟩]⟩,
  -- SEQ_LEDGER_FREE (R157)
  ⟨0x011C, 0x4, 1, [⟨31, 0, .ro, false, false, 0x10000⟩]⟩,
  -- SEQ_FOREIGN_CNT... (R157)
  ⟨0x0800, 0x4, 11, [⟨31, 0, .ro, false, false, 0x0⟩]⟩]

def rows_MTR : List RegRow := [
  -- MTR_CTRL (R192)
  ⟨0x0100, 0x4, 1, [⟨31, 16, .rw, false, false, 0x800⟩, ⟨15, 12, .rw, false, false, 0x8⟩]⟩,
  -- MTR_TIMERS (R193)
  ⟨0x0104, 0x4, 1, [⟨31, 16, .rw, false, false, 0x800⟩, ⟨15, 0, .rw, false, false, 0x800⟩]⟩,
  -- MTR_METRO_OPEN (R191)
  ⟨0x0108, 0x4, 1, [⟨31, 0, .ro, false, false, 0x0⟩]⟩,
  -- MTR_HELD (R191)
  ⟨0x010C, 0x4, 1, [⟨31, 0, .ro, false, false, 0x0⟩]⟩,
  -- MTR_INK_CNT... (R191)
  ⟨0x0800, 0x4, 11, [⟨31, 0, .ro, false, false, 0x0⟩]⟩]

def rows_LSN : List RegRow := [
  -- LSN_CTRL (R226)
  ⟨0x0100, 0x4, 1, [⟨16, 16, .rw, false, false, 0x1⟩, ⟨15, 0, .rw, false, false, 0x400⟩]⟩,
  -- LSN_SHARD_USED (R225)
  ⟨0x0104, 0x4, 1, [⟨31, 0, .ro, false, false, 0x0⟩]⟩,
  -- LSN_STAGING_FREE (R225)
  ⟨0x0108, 0x4, 1, [⟨31, 0, .ro, false, false, 0xC⟩]⟩,
  -- LSN_RUN_READY (R225)
  ⟨0x010C, 0x4, 1, [⟨31, 0, .ro, false, false, 0x0⟩]⟩,
  -- LSN_ENG_STATUS (R227)
  ⟨0x0200, 0x8, 64, [
    ⟨31, 28, .ro, false, false, 0x0⟩, ⟨11, 11, .ro, false, false, 0x0⟩, ⟨9, 0, .ro, false, false, 0x0⟩]⟩,
  -- LSN_ENG_FAULT (R228)
  ⟨0x0204, 0x8, 64, [
    ⟨2, 2, .w1c, false, false, 0x0⟩, ⟨1, 1, .w1c, false, false, 0x0⟩, ⟨0, 0, .w1c, false, false, 0x0⟩]⟩,
  -- LSN_RUN_CNT... (R225)
  ⟨0x0800, 0x4, 6, [⟨31, 0, .ro, false, false, 0x0⟩]⟩]

def rows_HUD : List RegRow := [
  -- HUD_CTRL (R248)
  ⟨0x0100, 0x4, 1, [
    ⟨8, 8, .rw, false, false, 0x1⟩, ⟨4, 4, .trig, true, true, 0x0⟩, ⟨3, 0, .rw, true, false, 0x0⟩]⟩,
  -- HUD_GROUP_USED (R247)
  ⟨0x0104, 0x4, 1, [⟨31, 0, .ro, false, false, 0x0⟩]⟩,
  -- HUD_SPILL_USED (R247)
  ⟨0x0108, 0x4, 1, [⟨31, 0, .ro, false, false, 0x0⟩]⟩,
  -- HUD_UNIT_STATUS (R249)
  ⟨0x0200, 0x8, 16, [⟨31, 28, .ro, false, false, 0x0⟩, ⟨11, 0, .ro, false, false, 0x0⟩]⟩,
  -- HUD_UNIT_FAULT (R250)
  ⟨0x0204, 0x8, 16, [
    ⟨2, 2, .w1c, false, false, 0x0⟩, ⟨1, 1, .w1c, false, false, 0x0⟩, ⟨0, 0, .w1c, false, false, 0x0⟩]⟩,
  -- HUD_INST_CNT... (R247)
  ⟨0x0800, 0x4, 8, [⟨31, 0, .ro, false, false, 0x0⟩]⟩]

def rows_RFAB : List RegRow := [
  -- RFAB_CTRL (R107)
  ⟨0x0100, 0x4, 1, [
    ⟨8, 8, .rw, true, false, 0x0⟩, ⟨7, 6, .rw, false, false, 0x3⟩, ⟨5, 5, .rw, false, false, 0x1⟩]⟩,
  -- RFAB_STEAL (R108)
  ⟨0x0104, 0x4, 1, [
    ⟨31, 16, .rw, false, false, 0x600⟩, ⟨15, 8, .rw, false, false, 0x0⟩, ⟨7, 0, .rw, false, false, 0x40⟩]⟩,
  -- RFAB_SPARE_STATUS (R109)
  ⟨0x0108, 0x4, 1, [
    ⟨31, 31, .ro, false, false, 0x0⟩, ⟨30, 22, .ro, false, false, 0x0⟩, ⟨21, 17, .ro, false, false, 0x0⟩,
    ⟨16, 8, .ro, false, false, 0x0⟩, ⟨7, 0, .ro, false, false, 0x0⟩]⟩,
  -- RFAB_BENCH (R110)
  ⟨0x010C, 0x4, 1, [
    ⟨31, 31, .trig, true, true, 0x0⟩, ⟨30, 30, .ro, false, true, 0x0⟩, ⟨8, 0, .rw, true, true, 0x0⟩]⟩,
  -- RFAB_FUSE_MAP (R111)
  ⟨0x0120, 0x4, 17, [⟨31, 0, .ro, false, false, 0x0⟩]⟩,
  -- RFAB_DESK_MAP (R112)
  ⟨0x0400, 0x4, 256, [⟨31, 31, .ro, false, false, 0x1⟩, ⟨8, 0, .ro, false, false, 0x0⟩]⟩,
  -- RFAB_STEAL_CNT... (R106)
  ⟨0x0800, 0x4, 6, [⟨31, 0, .ro, false, false, 0x0⟩]⟩]

def rows_RTE : List RegRow := [
  -- RTE_CTRL (R316)
  ⟨0x0100, 0x4, 1, [
    ⟨23, 16, .rw, false, false, 0x10⟩, ⟨4, 4, .trig, false, false, 0x0⟩, ⟨3, 3, .rw, false, false, 0x1⟩,
    ⟨2, 2, .rw, false, false, 0x1⟩, ⟨1, 1, .rw, false, false, 0x1⟩]⟩,
  -- RTE_SELF (R317)
  ⟨0x0104, 0x4, 1, [⟨23, 17, .rw, true, true, 0x0⟩, ⟨16, 11, .rw, true, true, 0x0⟩]⟩,
  -- RTE_REBOUND (R318)
  ⟨0x0108, 0x4, 1, [⟨31, 16, .rw, false, false, 0x20⟩]⟩,
  -- RTE_ECN (R319)
  ⟨0x010C, 0x4, 1, [⟨31, 16, .rw, false, false, 0x40⟩, ⟨15, 0, .rw, false, false, 0x10⟩]⟩,
  -- RTE_REORDER_USED (R315)
  ⟨0x0110, 0x4, 1, [⟨31, 0, .ro, false, false, 0x0⟩]⟩,
  -- RTE_REORDER_GRAN_FREE (R315)
  ⟨0x0114, 0x4, 1, [⟨31, 0, .ro, false, false, 0x1BC71⟩]⟩,
  -- RTE_OVF_FREE (R315)
  ⟨0x0118, 0x4, 1, [⟨31, 0, .ro, false, false, 0x200000⟩]⟩,
  -- RTE_SW (R320)
  ⟨0x0200, 0x4, 64, [
    ⟨31, 31, .rw, false, false, 0x0⟩, ⟨30, 24, .rw, false, false, 0x0⟩, ⟨23, 23, .rw, false, false, 0x0⟩,
    ⟨22, 16, .rw, false, false, 0x0⟩, ⟨15, 15, .rw, false, false, 0x0⟩, ⟨14, 8, .rw, false, false, 0x0⟩,
    ⟨7, 7, .rw, false, false, 0x0⟩, ⟨6, 0, .rw, false, false, 0x0⟩]⟩,
  -- RTE_GRP (R320)
  ⟨0x0300, 0x4, 128, [
    ⟨31, 31, .rw, false, false, 0x0⟩, ⟨30, 24, .rw, false, false, 0x0⟩, ⟨23, 23, .rw, false, false, 0x0⟩,
    ⟨22, 16, .rw, false, false, 0x0⟩, ⟨15, 15, .rw, false, false, 0x0⟩, ⟨14, 8, .rw, false, false, 0x0⟩,
    ⟨7, 7, .rw, false, false, 0x0⟩, ⟨6, 0, .rw, false, false, 0x0⟩]⟩,
  -- PORT_CFG (R321)
  ⟨0x0500, 0x4, 128, [
    ⟨31, 31, .rw, false, false, 0x0⟩, ⟨30, 28, .rw, false, false, 0x0⟩, ⟨27, 27, .rw, false, false, 0x1⟩,
    ⟨26, 26, .w1c, false, false, 0x0⟩, ⟨25, 25, .ro, false, false, 0x0⟩, ⟨20, 16, .ro, false, false, 0x0⟩,
    ⟨15, 8, .ro, false, false, 0x0⟩]⟩,
  -- LINK_PORT (R322)
  ⟨0x0A00, 0x4, 128, [
    ⟨31, 31, .rw, false, false, 0x0⟩, ⟨30, 30, .rw, false, false, 0x0⟩, ⟨29, 29, .w1c, false, false, 0x0⟩,
    ⟨22, 16, .rw, false, false, 0x0⟩, ⟨6, 0, .rw, false, false, 0x0⟩]⟩,
  -- RTE_REBOUND_CNT... (R315)
  ⟨0x0800, 0x4, 11, [⟨31, 0, .ro, false, false, 0x0⟩]⟩]

def rows_TM : List RegRow := [
  -- TM_CTRL (R348)
  ⟨0x0100, 0x4, 1, [
    ⟨2, 2, .rw, false, false, 0x1⟩, ⟨1, 1, .rw, false, false, 0x1⟩, ⟨0, 0, .rw, false, false, 0x1⟩]⟩,
  -- TM_GATE_STATUS (R349)
  ⟨0x0200, 0x4, 128, [
    ⟨31, 31, .rw, false, false, 0x0⟩, ⟨30, 30, .ro, false, false, 0x0⟩, ⟨24, 16, .ro, false, false, 0x0⟩,
    ⟨7, 0, .ro, false, false, 0xFF⟩]⟩,
  -- TM_MIRROR_CTRL (R350)
  ⟨0x0400, 0x10, 4, [
    ⟨31, 31, .rw, false, false, 0x0⟩, ⟨30, 29, .rw, false, false, 0x0⟩, ⟨28, 28, .rw, false, false, 0x0⟩,
    ⟨27, 27, .w1c, false, false, 0x0⟩, ⟨26, 20, .rw, false, false, 0x0⟩, ⟨19, 13, .rw, false, false, 0x0⟩,
    ⟨12, 10, .rw, false, false, 0x7⟩, ⟨7, 0, .rw, false, false, 0xFE⟩]⟩,
  -- TM_MIRROR_MATCH (R346)
  ⟨0x0404, 0x10, 4, [⟨23, 0, .rw, false, false, 0x0⟩]⟩,
  -- TM_MIRROR_MASK (R346)
  ⟨0x0408, 0x10, 4, [⟨23, 0, .rw, false, false, 0x0⟩]⟩,
  -- TM_CAP_CTRL (R351)
  ⟨0x0500, 0x4, 1, [
    ⟨31, 31, .rw, false, false, 0x0⟩, ⟨30, 30, .rw, false, false, 0x0⟩, ⟨29, 28, .rw, false, false, 0x2⟩,
    ⟨27, 20, .rw, false, false, 0xFF⟩, ⟨7, 7, .rw, false, false, 0x1⟩, ⟨6, 0, .rw, false, false, 0x0⟩]⟩,
  -- TM_CAP_REGION (R346)
  ⟨0x0504, 0x4, 1, [⟨31, 0, .rw, false, false, 0x0⟩]⟩,
  -- TM_CAP_HEAD (R346)
  ⟨0x0508, 0x4, 1, [⟨31, 0, .ro, false, false, 0x0⟩]⟩,
  -- TM_CAP_TAIL (R346)
  ⟨0x050C, 0x4, 1, [⟨31, 0, .rw, false, false, 0x0⟩]⟩,
  -- TM_QDROP_CNT... (R346)
  ⟨0x0800, 0x4, 8, [⟨31, 0, .ro, false, false, 0x0⟩]⟩]

def rows_MEM : List RegRow := [
  -- MEM_CTRL (R388)
  ⟨0x0100, 0x4, 1, [
    ⟨15, 8, .rw, false, false, 0x10⟩, ⟨2, 2, .rw, false, false, 0x1⟩, ⟨1, 1, .rw, false, false, 0x1⟩]⟩,
  -- MEM_ROLLCALL (R389)
  ⟨0x0104, 0x4, 1, [⟨31, 31, .w1c, false, false, 0x0⟩, ⟨19, 0, .rw, false, false, 0x400⟩]⟩,
  -- MEM_ROLLCALL_DIFF (R387)
  ⟨0x0108, 0x4, 1, [⟨31, 0, .ro, false, false, 0x0⟩]⟩,
  -- MEM_HROLLCALL_DIFF (R387)
  ⟨0x010C, 0x4, 1, [⟨31, 0, .ro, false, false, 0x0⟩]⟩,
  -- MEM_QUOTA (R390)
  ⟨0x0110, 0x4, 4, [⟨31, 31, .w1c, false, true, 0x0⟩, ⟨10, 0, .rw, false, true, 0x0⟩]⟩,
  -- MEM_POOL_USED (R387)
  ⟨0x0120, 0x4, 4, [⟨31, 0, .ro, false, false, 0x0⟩]⟩,
  -- MEM_POOL_FREE (R387)
  ⟨0x0130, 0x4, 1, [⟨31, 0, .ro, false, false, 0x38E38E⟩]⟩,
  -- MEM_POOL_RETIRED (R387)
  ⟨0x0134, 0x4, 1, [⟨31, 0, .ro, false, false, 0x0⟩]⟩,
  -- MEM_HPOOL_FREE (R387)
  ⟨0x0138, 0x4, 1, [⟨31, 0, .ro, false, false, 0x1000000⟩]⟩,
  -- MEM_THERM_CFG (R391)
  ⟨0x013C, 0x4, 1, [
    ⟨31, 31, .w1c, false, true, 0x0⟩, ⟨23, 16, .rw, false, true, 0x5D⟩, ⟨15, 8, .rw, false, true, 0x5A⟩,
    ⟨7, 0, .rw, false, true, 0x55⟩]⟩,
  -- MEM_SCRUB (R387)
  ⟨0x0140, 0x4, 1, [⟨15, 0, .rw, false, false, 0x18⟩]⟩,
  -- MEM_REGION_USED (R387)
  ⟨0x0144, 0x4, 1, [⟨31, 0, .ro, false, false, 0x7⟩]⟩,
  -- MEM_QUOTA_REFUSE_CNT... (R387)
  ⟨0x0800, 0x4, 6, [⟨31, 0, .ro, false, false, 0x0⟩]⟩]

def rows_PRT : List RegRow := [
  -- RSV_CFG (R427)
  ⟨0x0100, 0x20, 4, [
    ⟨31, 31, .rw, false, false, 0x0⟩, ⟨30, 30, .rw, false, false, 0x0⟩, ⟨29, 29, .rw, false, false, 0x0⟩,
    ⟨28, 26, .rw, false, false, 0x0⟩, ⟨25, 25, .rw, false, false, 0x0⟩, ⟨24, 24, .w1c, false, false, 0x0⟩,
    ⟨23, 12, .rw, false, false, 0x0⟩, ⟨11, 7, .rw, false, false, 0x8⟩, ⟨6, 0, .rw, false, false, 0x60⟩]⟩,
  -- RSV_FAULT (R428)
  ⟨0x0104, 0x20, 4, [
    ⟨2, 2, .w1c, false, false, 0x0⟩, ⟨1, 1, .w1c, false, false, 0x0⟩, ⟨0, 0, .w1c, false, false, 0x0⟩]⟩,
  -- RSV_OWN_MAC_0 (R422)
  ⟨0x0108, 0x20, 4, [⟨31, 0, .rw, false, false, 0x0⟩]⟩,
  -- RSV_OWN_MAC_1 (R422)
  ⟨0x010C, 0x20, 4, [⟨15, 0, .rw, false, false, 0x0⟩]⟩,
  -- RSV_PEER_MAC_0 (R422)
  ⟨0x0110, 0x20, 4, [⟨31, 0, .rw, false, false, 0x0⟩]⟩,
  -- RSV_PEER_MAC_1 (R422)
  ⟨0x0114, 0x20, 4, [⟨15, 0, .rw, false, false, 0x0⟩]⟩,
  -- RSV_ETYPE (R422)
  ⟨0x0180, 0x4, 1, [⟨15, 0, .rw, false, false, 0x88B5⟩]⟩,
  -- FLASH_CONN_USED (R422)
  ⟨0x0184, 0x4, 1, [⟨31, 0, .ro, false, false, 0x0⟩]⟩,
  -- PRT_SB_STATUS (R422)
  ⟨0x0188, 0x4, 1, [⟨0, 0, .w1c, false, false, 0x0⟩]⟩,
  -- PORT_LED (R429)
  ⟨0x0200, 0x4, 128, [
    ⟨31, 31, .rw, false, false, 0x0⟩, ⟨30, 30, .ro, false, false, 0x0⟩, ⟨3, 2, .rw, false, false, 0x0⟩]⟩,
  -- RSV_DROP_CNT (R422)
  ⟨0x0800, 0x4, 1, [⟨31, 0, .ro, false, false, 0x0⟩]⟩]

def rows_LNK_STN : List RegRow := [
  -- LINK_CTRL (R423)
  ⟨0x0100, 0x40, 8, [
    ⟨31, 31, .rw, false, false, 0x0⟩, ⟨30, 30, .rw, false, false, 0x1⟩, ⟨29, 29, .trig, false, false, 0x0⟩,
    ⟨28, 28, .rw, false, false, 0x0⟩, ⟨27, 25, .rw, false, false, 0x0⟩, ⟨24, 24, .rw, false, false, 0x0⟩,
    ⟨23, 20, .rw, false, false, 0x8⟩, ⟨19, 19, .rw, false, false, 0x0⟩, ⟨18, 18, .w1c, false, false, 0x0⟩,
    ⟨17, 17, .rw, false, false, 0x0⟩, ⟨7, 0, .rw, false, false, 0x20⟩]⟩,
  -- LINK_STATUS (R424)
  ⟨0x0104, 0x40, 8, [
    ⟨31, 28, .ro, false, false, 0x0⟩, ⟨27, 24, .ro, false, false, 0x0⟩, ⟨23, 23, .ro, false, false, 0x0⟩,
    ⟨22, 22, .ro, false, false, 0x0⟩, ⟨21, 21, .ro, false, false, 0x0⟩]⟩,
  -- LINK_FAULT (R425)
  ⟨0x0108, 0x40, 8, [
    ⟨7, 7, .w1c, false, false, 0x0⟩, ⟨6, 6, .w1c, false, false, 0x0⟩, ⟨5, 5, .w1c, false, false, 0x0⟩,
    ⟨4, 4, .w1c, false, false, 0x0⟩, ⟨3, 3, .w1c, false, false, 0x0⟩, ⟨2, 2, .w1c, false, false, 0x0⟩,
    ⟨1, 1, .w1c, false, false, 0x0⟩, ⟨0, 0, .w1c, false, false, 0x0⟩]⟩,
  -- LINK_LANES (R426)
  ⟨0x010C, 0x40, 8, [⟨31, 8, .ro, false, false, 0x0⟩, ⟨7, 0, .ro, false, false, 0x0⟩]⟩,
  -- LINK_PEER (R422)
  ⟨0x0110, 0x40, 8, [⟨31, 0, .ro, false, false, 0x0⟩]⟩,
  -- LINK_PEER_SERIAL_0 (R422)
  ⟨0x0114, 0x40, 8, [⟨31, 0, .ro, false, false, 0x0⟩]⟩,
  -- LINK_PEER_SERIAL_1 (R422)
  ⟨0x0118, 0x40, 8, [⟨31, 0, .ro, false, false, 0x0⟩]⟩,
  -- LINK_EXPECT (R422)
  ⟨0x011C, 0x40, 8, [⟨23, 0, .rw, false, false, 0x0⟩]⟩,
  -- LINK_FEC_CORR_CNT (R422)
  ⟨0x0800, 0x20, 8, [⟨31, 0, .ro, false, false, 0x0⟩]⟩,
  -- LINK_FEC_UNCORR_CNT (R422)
  ⟨0x0804, 0x20, 8, [⟨31, 0, .ro, false, false, 0x0⟩]⟩,
  -- LINK_REPLAY_CNT (R422)
  ⟨0x0808, 0x20, 8, [⟨31, 0, .ro, false, false, 0x0⟩]⟩,
  -- LINK_RETRAIN_CNT (R422)
  ⟨0x080C, 0x20, 8, [⟨31, 0, .ro, false, false, 0x0⟩]⟩,
  -- LINK_PRBS_ERR_CNT (R422)
  ⟨0x0810, 0x20, 8, [⟨31, 0, .ro, false, false, 0x0⟩]⟩,
  -- LINK_FCS_DROP_CNT (R422)
  ⟨0x0814, 0x20, 8, [⟨31, 0, .ro, false, false, 0x0⟩]⟩]

def rows_CNV_STN : List RegRow := [
  -- ICONV_FAULT (R115)
  ⟨0x0100, 0x20, 8, [
    ⟨5, 5, .w1c, false, false, 0x0⟩, ⟨4, 4, .w1c, false, false, 0x0⟩, ⟨3, 3, .w1c, false, false, 0x0⟩,
    ⟨2, 2, .w1c, false, false, 0x0⟩, ⟨1, 1, .w1c, false, false, 0x0⟩, ⟨0, 0, .w1c, false, false, 0x0⟩]⟩,
  -- ICONV_REFUSE_CNT (R106)
  ⟨0x0104, 0x20, 8, [⟨31, 0, .ro, false, false, 0x0⟩]⟩,
  -- ECONV_FAULT (R116)
  ⟨0x0200, 0x20, 8, [⟨1, 1, .w1c, false, false, 0x0⟩, ⟨0, 0, .w1c, false, false, 0x0⟩]⟩]

def rows_TM_STN : List RegRow := [
  -- TM_WFQ (R352)
  ⟨0x0100, 0x4, 64, [⟨31, 16, .rw, false, false, 0x20⟩, ⟨7, 0, .rw, false, false, 0x0⟩]⟩,
  -- TM_SHAPE (R353)
  ⟨0x0200, 0x4, 64, [
    ⟨31, 31, .rw, false, false, 0x0⟩, ⟨30, 16, .rw, false, false, 0x40⟩, ⟨15, 0, .rw, false, false, 0x0⟩]⟩,
  -- TM_QCFG (R354)
  ⟨0x0300, 0x4, 64, [⟨31, 16, .rw, false, false, 0x0⟩, ⟨15, 0, .rw, false, false, 0x0⟩]⟩,
  -- TM_QDEPTH (R346)
  ⟨0x0400, 0x4, 64, [⟨31, 0, .ro, false, false, 0x0⟩]⟩,
  -- TM_WFQ_B (R347)
  ⟨0x0500, 0x4, 64, [⟨31, 16, .rw, false, false, 0x20⟩, ⟨7, 0, .rw, false, false, 0x0⟩]⟩,
  -- TM_SHAPE_B (R347)
  ⟨0x0600, 0x4, 64, [
    ⟨31, 31, .rw, false, false, 0x0⟩, ⟨30, 16, .rw, false, false, 0x40⟩, ⟨15, 0, .rw, false, false, 0x0⟩]⟩,
  -- TM_QCFG_B (R347)
  ⟨0x0700, 0x4, 64, [⟨31, 16, .rw, false, false, 0x0⟩, ⟨15, 0, .rw, false, false, 0x0⟩]⟩,
  -- TM_QDEPTH_B (R347)
  ⟨0x0900, 0x4, 64, [⟨31, 0, .ro, false, false, 0x0⟩]⟩]

def rows_TMP : List RegRow := [
  -- TMP_CFG (R355)
  ⟨0x0100, 0x4, 128, [
    ⟨31, 31, .rw, false, false, 0x0⟩, ⟨30, 30, .rw, false, false, 0x0⟩, ⟨29, 29, .rw, false, false, 0x0⟩,
    ⟨15, 8, .rw, false, false, 0x8⟩, ⟨7, 0, .rw, false, false, 0x4⟩]⟩,
  -- TMP_RATE (R356)
  ⟨0x0300, 0x4, 128, [⟨31, 16, .rw, false, false, 0x3E80⟩, ⟨15, 0, .rw, false, false, 0x3E80⟩]⟩]

def rows_DSK_STN : List RegRow := [
  -- DESK_STATUS (R113)
  ⟨0x0100, 0x20, 17, [
    ⟨31, 28, .ro, false, false, 0x0⟩, ⟨24, 24, .ro, false, false, 0x0⟩, ⟨23, 16, .ro, false, false, 0x0⟩,
    ⟨15, 11, .ro, false, false, 0x0⟩, ⟨10, 0, .ro, false, false, 0x0⟩]⟩,
  -- DESK_FAULT (R114)
  ⟨0x0104, 0x20, 17, [
    ⟨5, 5, .w1c, false, false, 0x0⟩, ⟨4, 4, .w1c, false, false, 0x0⟩, ⟨3, 3, .w1c, false, false, 0x0⟩,
    ⟨2, 2, .w1c, false, false, 0x0⟩, ⟨1, 1, .w1c, false, false, 0x0⟩, ⟨0, 0, .w1c, false, false, 0x0⟩]⟩,
  -- DESK_RES_FAIL_CNT (R106)
  ⟨0x0108, 0x20, 17, [⟨31, 0, .ro, false, false, 0x0⟩]⟩,
  -- DESK_ADD_CNT_0 (R106)
  ⟨0x010C, 0x20, 17, [⟨31, 0, .ro, false, false, 0x0⟩]⟩,
  -- DESK_ADD_CNT_1 (R106)
  ⟨0x0110, 0x20, 17, [⟨31, 0, .ro, false, false, 0x0⟩]⟩]

def rows_HBM_STK : List RegRow := [
  -- HBM_STK_CTRL (R392)
  ⟨0x0100, 0x4, 1, [⟨31, 31, .trig, true, true, 0x0⟩, ⟨30, 30, .trig, true, true, 0x0⟩]⟩,
  -- HBM_STK_STATUS (R393)
  ⟨0x0104, 0x4, 1, [
    ⟨31, 28, .ro, false, false, 0x0⟩, ⟨27, 27, .ro, false, false, 0x0⟩, ⟨23, 16, .ro, false, false, 0x0⟩,
    ⟨15, 0, .ro, false, false, 0x0⟩]⟩,
  -- HBM_STK_FAULT (R394)
  ⟨0x0108, 0x4, 1, [
    ⟨7, 7, .w1c, false, false, 0x0⟩, ⟨6, 6, .w1c, false, false, 0x0⟩, ⟨5, 5, .w1c, false, false, 0x0⟩,
    ⟨4, 4, .w1c, false, false, 0x0⟩, ⟨3, 3, .w1c, false, false, 0x0⟩, ⟨2, 2, .w1c, false, false, 0x0⟩,
    ⟨1, 1, .w1c, false, false, 0x0⟩, ⟨0, 0, .w1c, false, false, 0x0⟩]⟩,
  -- HBM_STK_RETIRED (R387)
  ⟨0x010C, 0x4, 1, [⟨31, 0, .ro, false, false, 0x0⟩]⟩,
  -- HBM_STK_SPARE (R387)
  ⟨0x0110, 0x4, 1, [⟨31, 0, .ro, false, false, 0x2000⟩]⟩,
  -- HBM_CE_CNT... (R387)
  ⟨0x0800, 0x4, 4, [⟨31, 0, .ro, false, false, 0x0⟩]⟩]

/-- The own registers of a block kind. -/
def rowsOf : Nat → List RegRow
  | 1 => rows_TOP
  | 2 => rows_SIT
  | 3 => rows_PCIE
  | 4 => rows_SNS
  | 5 => rows_REF
  | 6 => rows_CMD
  | 7 => rows_CKP
  | 8 => rows_BELL
  | 9 => rows_SEQ
  | 10 => rows_MTR
  | 11 => rows_LSN
  | 12 => rows_HUD
  | 13 => rows_RFAB
  | 14 => rows_RTE
  | 15 => rows_TM
  | 16 => rows_MEM
  | 17 => rows_PRT
  | 18 => rows_LNK_STN
  | 19 => rows_CNV_STN
  | 20 => rows_TM_STN
  | 21 => rows_TMP
  | 22 => rows_DSK_STN
  | 23 => rows_HBM_STK
  | _ => []
/-! Lookup and reset values. -/

/-- Block and instance that hold a BAR0 offset (R511). -/
def blkOf (a : Nat) : Option (BlkRow × Nat) :=
  blkRows.findSome? (fun b =>
    if b.base ≤ a ∧ a < b.base + 0x4000 * b.count then some (b, (a - b.base) / 0x4000) else none)

/-- Base of the block that holds a BAR0 offset. -/
def blkBase (a : Nat) : Nat := a - a % 0x4000

/-- Register row and index at an offset of the normal range of a block; the _B registers stand in TM_STN 12 to 15
only (R347). -/
def findRow (kind inst off : Nat) : Option (RegRow × Nat) :=
  if kind = 0x14 ∧ inst < 12 ∧ (0x500 ≤ off ∧ off < 0x800 ∨ 0x900 ≤ off) then none
  else (if off < 0x100 then commonRows else rowsOf kind).findSome? (fun r =>
    if r.off ≤ off ∧ (off - r.off) % r.stride = 0 ∧ (off - r.off) / r.stride < r.count
    then some (r, (off - r.off) / r.stride) else none)

/-- Fields of the register at a normal-range BAR0 offset; none where no chapter assigns it (R512). -/
def regFlds (a : Nat) : Option (List Fld) :=
  match blkOf a with
  | none => none
  | some (b, inst) => (findRow b.kind inst (a % 0x4000)).map (fun p => p.1.flds)

/-- Word whose fields hold their reset values. -/
def rstOf (fs : List Fld) : Nat := fs.foldl (fun w f => putBits w f.hi f.lo f.rst) 0

/-- Default severity of a fault source (R444), by the fault tables of 03 to 18; reserved sources are OFF (R442). -/
def sevDefault (n : Nat) : Nat :=
  if n ≤ 131 then 1 else if n = 132 then 0 else if n ≤ 255 then 15
  else if n ≤ 527 then 3 else if n ≤ 655 then 1 else if n ≤ 784 then 3
  else if n = 785 then 1 else if n = 786 then 2 else if n = 787 then 0 else if n ≤ 791 then 15
  else if n = 792 ∨ n = 796 ∨ n = 798 then 0 else if n ≤ 799 then 1
  else if n = 800 ∨ n = 805 then 0 else if n ≤ 806 then 1 else if n = 807 then 15
  else if n ≤ 871 then 3 else if n ≤ 873 then 1 else if n = 874 then 2 else if n ≤ 879 then 15
  else if n ≤ 895 then 3 else if n ≤ 897 then 1 else if n = 898 then 0 else if n ≤ 903 then 15
  else if n = 904 ∨ n = 907 then 1 else if n = 906 then 2 else if n ≤ 909 then 0 else if n ≤ 911 then 15
  else if n = 913 then 0 else if n ≤ 916 then 1 else if n ≤ 919 then 15
  else if n = 920 then 1 else if n ≤ 924 then 0 else if n ≤ 927 then 15
  else if n = 945 ∨ n = 948 then 0 else if n = 947 then 2 else if n ≤ 946 then 1 else if n ≤ 951 then 15
  else if n = 953 ∨ n = 955 ∨ n = 957 then 0 else if n = 958 then 15 else if n ≤ 959 then 1
  else if n ≤ 967 then 15
  else if n = 969 then 1 else if n ≤ 972 then 0 else if n = 973 then 4 else if n ≤ 975 then 0
  else if n = 976 then 1 else if n = 977 ∨ n = 979 ∨ n = 982 then 2 else if n = 978 then 4
  else if n = 980 ∨ n = 983 ∨ n = 985 then 1 else if n ≤ 984 then 0 else if n ≤ 999 then 15
  else if n = 1001 then 0 else if n = 1002 ∨ n = 1006 then 2 else if n ≤ 1006 then 1
  else if n = 1007 then 15 else 0

/-- Physical desks that the fuses mark `f`, ascending (R111). -/
def fusedDesks (f : Nat) : List Nat := (List.range 272).filter (fun p => Config.fuse p = f)

/-- Weight of a VC at reset (R328). -/
def wfqReset (v : Nat) : Nat := [1, 64, 32, 32, 8, 16, 16, 8].getD v 0

/-- Reset values that the tables give by index, by fuses, by flash or by boot (logs 5, 7, 9); none elsewhere. -/
def specialReset (kind inst off : Nat) : Option Nat :=
  let v := (off / 4) % 8
  if off = 0 then some (putBits (putBits (putBits 0x100 31 24 kind) 23 16 inst) 7 7
    (if (blkRows.find? (fun b => b.kind = kind)).any (·.posted) then 1 else 0))
  else if kind = 0x01 then
    if off = 0x100 then some (0x9416_0000 + Config.stepping.toNat * 256 + (fusedDesks 1).length * 8)
    else if off = 0x104 then some (Config.serial.toNat % 2 ^ 32)
    else if off = 0x108 then some (Config.serial.toNat / 2 ^ 32)
    else if off = 0x114 then some 1
    else none
  else if kind = 0x02 then
    if off = 0x10C then some 0x2000_0000 else none
  else if kind = 0x05 ∧ 0x200 ≤ off ∧ off < 0x400 then
    some ((List.range 8).foldl (fun w i => w + sevDefault (8 * ((off - 0x200) / 4) + i) * 16 ^ i) 0)
  else if kind = 0x0D then
    if off = 0x108 then some ((fusedDesks 1).length * 2 ^ 17)
    else if 0x120 ≤ off ∧ off < 0x164 then
      some ((List.range 16).foldl (fun w i => w + Config.fuse (16 * ((off - 0x120) / 4) + i) * 4 ^ i) 0)
    else if 0x400 ≤ off ∧ off < 0x800 then some (2 ^ 31 + (fusedDesks 0).getD ((off - 0x400) / 4) 0)
    else none
  else if kind = 0x10 ∧ 0x110 ≤ off ∧ off < 0x120 then some ([0x180, 0x200, 0x060, 0x020].getD ((off - 0x110) / 4) 0)
  else if kind = 0x14 then
    if 0x100 ≤ off ∧ off < 0x200 ∨ 0x500 ≤ off ∧ off < 0x600 then some (0x0020_0000 + wfqReset v)
    else if 0x200 ≤ off ∧ off < 0x300 then some (if v = 0 then 0x8040_03E8 else 0x0040_3E80)
    else if 0x600 ≤ off ∧ off < 0x700 then some (if v = 0 then 0x8040_01F4 else 0x0040_1F40)
    else if 0x300 ≤ off ∧ off < 0x400 ∨ 0x700 ≤ off ∧ off < 0x800 then
      some ((if v < 5 then 0 else 0x0200_0000) + (if v = 0 then 0 else 0x40))
    else none
  else if kind = 0x16 ∧ off % 0x20 = 0 ∧ 0x100 ≤ off then
    let p := 17 * inst + (off - 0x100) / 0x20
    some (match Config.fuse p with
      | 0 => 2 ^ 24 + ((fusedDesks 0).idxOf p) * 2 ^ 16
      | 1 => 3 * 2 ^ 28
      | _ => 5 * 2 ^ 28)
  else if kind = 0x17 ∧ off = 0x104 then some 40960
  else none

/-- Reset value of the register at a normal-range BAR0 offset; 0 where nothing is assigned. -/
def resetWord (a : Nat) : Word :=
  match blkOf a with
  | none => 0
  | some (b, inst) => match findRow b.kind inst (a % 0x4000) with
    | none => 0
    | some (r, _) => BitVec.ofNat 32 ((specialReset b.kind inst (a % 0x4000)).getD (rstOf r.flds))

/-- Multi-word fields (R9, R513): a word's offset names the lowest word and the number of words. -/
def multiWord (a : Nat) : Option (Nat × Nat) :=
  if a = 0x104 ∨ a = 0x108 then some (0x104, 2)
  else if 0x1C108 ≤ a ∧ a ≤ 0x1C110 then some (0x1C108, 3)
  else if a = 0x1C114 ∨ a = 0x1C118 then some (0x1C114, 2)
  else if a = 0x1C130 ∨ a = 0x1C134 then some (0x1C130, 2)
  else if a = 0x1C13C ∨ a = 0x1C140 then some (0x1C13C, 2)
  else if a = 0x1C604 ∨ a = 0x1C608 then some (0x1C604, 2)
  else if a = 0x1C60C ∨ a = 0x1C610 then some (0x1C60C, 2)
  else if a = 0x14110 ∨ a = 0x14114 then some (0x14110, 2)
  else if a = 0x18110 ∨ a = 0x18114 then some (0x18110, 2)
  else if a = 0x18118 ∨ a = 0x1811C then some (0x18118, 2)
  else if 0x40100 ≤ a ∧ a < 0x40180 ∧ 8 ≤ a % 0x20 ∧ a % 0x20 ≤ 0x14 then
    (if a % 0x20 < 0x10 then some (a - a % 0x20 + 8, 2) else some (a - a % 0x20 + 0x10, 2))
  else if 0x80000 ≤ a ∧ a < 0xC0000 ∧ 0x100 ≤ a % 0x4000 ∧ a % 0x4000 < 0x300 ∧ (a % 0x40 = 0x14 ∨ a % 0x40 = 0x18) then
    some (a - a % 0x40 + 0x14, 2)
  else if 0x180000 ≤ a ∧ a < 0x1C0000 ∧ 0x100 ≤ a % 0x4000 ∧ a % 0x4000 < 0x320 ∧ (a % 0x20 = 0x0C ∨ a % 0x20 = 0x10) then
    some (a - a % 0x20 + 0xC, 2)
  else none

end Sys2Proof.Machine
end

