-- ==== Sys2Proof/Machine/State.lean ====
section
/-! DEFINITION. The state of the device as plain data, the queue of commands that wait, and the state right after
reset. Every register of BAR0 stands in `Dev.regs`; what is no register stands in one structure per chapter.
Sparse tables are lists of (key, value) in the canonical form of Machine/Bits.lean. Bell times are whole
nanoseconds (R11) unless a field says otherwise. -/

namespace Sys2Proof.Machine

/-! ## Common parts -/

/-- Where and how a reply goes (R487): the requester, the virtual channel, the opcode and the header fields that
the reply copies. -/
structure ReplyTo where
  dst    : Nat
  vc     : Nat
  opcode : Nat
  world  : Bool
  tag    : Nat
  part   : Nat
deriving DecidableEq, Repr

/-- A frame in an egress queue: its bytes without the frame check (R434), its colour (R337), the pool class and
granules it holds or the buffer it shares (R364), whether the order fence holds it (R295) and its place in the order of
arrival at queues, whether this device originated it (R313), whether it is a mirror copy and of which session (R341), and
the bucket and attempt whose pencil or publication pass it is (R172). -/
structure QFrame where
  bytes  : List Byte
  colour : Nat
  cls    : Nat
  grans  : Nat
  buf    : Option Nat
  fence  : Bool
  ord    : Nat
  orig   : Bool
  mirror : Option Nat
  pass   : Option (Nat × Nat)
deriving DecidableEq, Repr

/-- An accumulator element with its side store (R49, R81, R82, R84): value and class, residue, second copy of the class, and whether it is
poisoned. -/
structure AElem where
  k    : Kz
  res  : Nat
  cls2 : Nat
  bad  : Bool
deriving DecidableEq, Repr

def AElem.zero : AElem := ⟨Kz.zero, 0, 0, false⟩

/-- A block of lane words on its way to or in a desk queue (R77, R86): bucket, attempt, chunk, row, the 64-bit lane words, how many of them
go to one element, how many were added, the copy of the dual mode (R98), and the reduction granules that it holds until it is written (R22, R35). -/
structure LBlk where
  key   : Nat
  att   : Nat
  chunk : Nat
  row   : Nat
  lanes : List (BitVec 64)
  per   : Nat
  pos   : Nat
  copy  : Nat
  grans : Nat
deriving DecidableEq, Repr

/-- Lane words for the memory-side adders of an HBM station (R75, R181): bucket, attempt, rank of the group they come from, first element, lane
words, how many of them go to one element, status, granules held. -/
structure MBlk where
  key    : Nat
  att    : Nat
  rank   : Nat
  elem   : Nat
  lanes  : List (BitVec 64)
  per    : Nat
  status : Nat
  grans  : Nat
deriving DecidableEq, Repr

/-- A row released to an egress converter (R95). -/
structure RowOut where
  conv  : Nat
  key   : Nat
  att   : Nat
  chunk : Nat
  row   : Nat
  elems : List AElem
deriving DecidableEq, Repr

/-- What a corridor slot brings to its station (R18, R310): nothing (an earlier slot of a longer item), a frame for an egress queue, a frame for
the management station with its arrival, a frame for the host, a frame for this switch whose order is restored where it leaves the corridor (R302),
lane words for a desk or for an HBM station (R75), or a row for an egress converter (R95). -/
inductive Cargo where
  | part
  | egress (e : Nat) (f : QFrame)
  | mgmt (via : Via) (f : List Byte) (grans : Nat)
  | host (f : List Byte)
  | inOrder (via : Via) (f : QFrame)
  | lanes (b : LBlk)
  | metro (b : MBlk)
  | row (r : RowOut)
deriving DecidableEq, Repr

/-- A slot waiting at its station or on its corridor (R308 to R310). -/
structure Slot where
  corr  : Nat
  dir   : Nat
  src   : Nat
  dst   : Nat
  pos   : Nat
  cargo : Cargo
deriving DecidableEq, Repr

/-- What the device has driven at its pads, its pins and at PCI Express (R1), the model's own record (log 4). -/
inductive Wire where
  | frame (e : Nat) (bytes : List Byte) (colour : Nat)
  | stomped (e : Nat) (bytes : List Byte)
  | message (l : Nat) (bytes : List Byte)
  | bellWord (l : Nat) (bytes : List Byte)
  | codeword (l : Nat) (seq : Nat) (bytes : List Byte)
  | pcs (e : Nat) (bytes : List Byte)
  | pcieRetrain
  | hostWrite (addr : Nat) (bytes : List Byte)
  | encap (l : Nat) (mac : List Byte)
  | roce (conn : Nat) (what : Nat) (bytes : List Byte)
  | led (p : Nat) (locate fault : Bool)
  | pps (level : Bool)
deriving DecidableEq, Repr

/-! ## Registers (16) -/

/-- A posted write in flight (R516): address with its alias range, requester, data, and the unlock it consumed. -/
structure Posted where
  addr     : Nat
  mgmt     : Bool
  data     : Word
  unlocked : Bool
deriving DecidableEq, Repr

/-- Latches of multi-word reads per requester (R513), low words of multi-word writes held apart (R513), the
posted write of each posted block, by block base (R516), and the data of the last read through this model, per requester (log 4). The keys
are 2 × address + 1 for Sitonel, 2 × address for the host. -/
structure Bus where
  latch  : List (Nat × Option Nat)
  held   : List (Nat × Option Nat)
  posted : List (Nat × Option Posted)
  last   : List (Nat × Nat)
deriving DecidableEq, Repr

/-! ## Time (01, 08) -/

/-- The bell counter in units of 2^-32 ns (R251), the index of the last tick boundary whose actions ran, the tick
whose timetable slot is open (R24), and whether any link was ever admitted to service (R252). -/
structure Clock where
  now      : Nat
  ticked   : Nat
  slotTick : Nat
  inUse    : Bool
deriving DecidableEq, Repr

/-! ## Referee (13) -/

inductive SrcState where
  | idle
  | window
  | fault
  | sticky
deriving DecidableEq, Repr

/-- A fault source (R445, R448): state, raise count, end of its window, time of its last raise, times of its last
recoveries, whether one late acknowledgement is still allowed, the severity of the raise that opened its window, and whether its FENCE action
took a unit out of service (R446). -/
structure Src where
  st     : SrcState
  count  : Nat
  until_ : Nat
  last   : Nat
  recov  : List Nat
  lateOk : Bool
  sev    : Nat
  fenced : Bool
deriving DecidableEq, Repr

def Src.idle0 : Src := ⟨.idle, 0, 0, 0, [], false, 0, false⟩

/-- The referee: sources, the record ring (R449), sources whose window of 0 has ended (R445), and the marks of
happenings that raise a source once per tick. -/
structure Referee where
  src  : List (Nat × Src)
  ring : List (List Byte)
  due  : List Nat
  once : List (Nat × Bool)
deriving DecidableEq, Repr

/-- A queued or running field test (R439): target, requesters to answer, running, queued by the device, and whether a desk was SPARE when its
test began. -/
structure FtEntry where
  kind    : FtKind
  target  : Nat
  reqs    : List ReplyTo
  running : Bool
  own     : Bool
  spare   : Bool
deriving DecidableEq, Repr

/-- Field tests and drains: the queue, device-queued tests still to be offered (R439), bell time of each unit's last
passing test (R436), fenced converters (R440), and units draining with the end of their drain (R441), desks
vacated for a test (R440), and requesters that joined the known-answer test of the spare (R438). -/
structure Integrity where
  queue  : List FtEntry
  owed   : List (FtKind × Nat)
  passed : List (Nat × Nat)
  iFenced : List (Nat × Bool)
  eFenced : List (Nat × Bool)
  drains : List (FtKind × Nat × Nat)
  moved  : List (Nat × Bool)
  kat    : List ReplyTo
deriving DecidableEq, Repr

/-! ## Bell, record and replay (08) -/

/-- Bell exchange state of a link (R255, R256): the last word received (t_tx, arrival) in 2^-8 ns, the last 16
d_in and off, the sequence of the next word and the time of the last one sent. -/
structure BellLink where
  rx   : Option (Nat × Nat)
  dIn  : List Int
  off  : List Int
  seq  : Nat
  sent : Nat
deriving DecidableEq, Repr

def BellLink.init : BellLink := ⟨none, [], [], 0, 0⟩

/-- A record entry held in the log (R266, R267): sequence, bell time, byte offset in the log, whole bytes. -/
structure LogEnt where
  seq   : Nat
  time  : Nat
  off   : Nat
  bytes : List Byte
deriving DecidableEq, Repr

/-- The bell beside its registers: per-link exchanges, exchanges in a row below 4 ns and whether the counter was set
(R254), the increments of the last 1,024 exchanges, the last PPS edge taken, the time from which the next is awaited, the fall of
BELL_PPS_OUT and the last second it marked (R260, R261), the last tick boundary that was past or stamped (R264), the armed tick change (R263), step settings not yet in force and those in force (R264), the recorded
entries that replay uses (R270), the active parent last seen, and whether a parent's link was in service (R254, R258). -/
structure Bell where
  links   : List (Nat × BellLink)
  good    : Nat
  wasSet  : Bool
  incs    : List Nat
  ppsAt   : Option Nat
  ppsSeen : Nat
  ppsOut  : Option Nat
  ppsSec  : Option Nat
  stepAt  : Option Nat
  tickArm : Option (Nat × Nat)
  stepIn  : Option (Nat × Nat)
  stepNext : Option (Nat × Nat)
  replay  : List (List Byte)
  repOff  : Int
  repDone : List Nat
  repRegion : Nat
  parent  : Option (Nat × Nat)
  upSeen  : Bool
deriving DecidableEq, Repr

/-! ## Routing and corridors (09) -/

/-- An early frame of a flow (R304): its sequence, bytes and colour, parked in the overflow store or held, its arrival and the station at which
it left its corridor. -/
structure Early where
  seq    : Nat
  bytes  : List Byte
  colour : Nat
  parked : Bool
  via    : Via
  st     : Nat
deriving DecidableEq, Repr

/-- Expected sequence of a flow, its early frames, and the time from which it has waited (R304, R307). -/
structure SeqIn where
  expected : Nat
  early    : List Early
  since    : Nat
deriving DecidableEq, Repr

def SeqIn.init : SeqIn := ⟨0, [], 0⟩

/-- Rate of the frames originated on a port and VC in units of 100 Mb/s × 2^-6, when it was cut, its last echo or
rise (R313), and the time before which the next frame does not start. -/
structure EcnRate where
  rate  : Option Nat
  cutAt : Option Nat
  last  : Nat
  next  : Nat
deriving DecidableEq, Repr

def EcnRate.init : EcnRate := ⟨none, none, 0, 0⟩

/-- Routing: fabric sequences sent with SYN owed (R303), received flows, rates (R313), echoes owed (R312), slots
that wait at their stations, slots on the corridors, ejection credits in use (R310), ports whose mode changes at the
next tick boundary (R284), and the egress last used by each flow toward a port (R294, R295). -/
structure Routing where
  seqOut  : List (Nat × Nat)
  synOk   : List (Nat × Bool)
  seqIn   : List (Nat × SeqIn)
  ecn     : List (Nat × EcnRate)
  echoes  : List (Nat × Nat × Nat)
  waitS   : List Slot
  ring    : List Slot
  credits : List (Nat × Nat)
  modeNext : List (Nat × Option Nat)
  modeNow : List (Nat × Nat)
  flowEg  : List (Nat × Option Nat)
deriving DecidableEq, Repr

/-! ## Traffic manager (10) -/

/-- A member of a WFQ level (R327): start, finish and last-sent tags of 48 bits, the sub-queue whose head frame the
finish tag stands for (plus 1; 0 for none), and whether the member waited ineligible. -/
structure Tag where
  s    : Nat
  f    : Nat
  l    : Nat
  head : Nat
  inel : Bool
deriving DecidableEq, Repr

def Tag.zero : Tag := ⟨0, 0, 0, 0, false⟩

/-- One WFQ level: its virtual time and its eight members, VC0 unused at the upper level. -/
structure Level where
  v : Nat
  m : List Tag
deriving DecidableEq, Repr

def Level.zero : Level := ⟨0, List.replicate 8 Tag.zero⟩

/-- A buffer with a reference count (R364): references left, granules, class. -/
structure Buf where
  refs  : Nat
  grans : Nat
  cls   : Nat
deriving DecidableEq, Repr

def Buf.none : Buf := ⟨0, 0, 0⟩

/-- A shaper (R330): tokens in bytes, and enable, bucket and rate in force. -/
structure Shaper where
  tok  : Int
  word : Word
deriving DecidableEq, Repr

/-- A policer (R336): both buckets, and the words in force. -/
structure Policer where
  tc   : Nat
  tp   : Nat
  cfg  : Word
  rate : Word
deriving DecidableEq, Repr

def Policer.init : Policer := ⟨4096, 8192, 0x0000_0804, 0x3E80_3E80⟩

/-- Gate lists of a port (R332, R333): the operational list with its base tick, the pending one with its base tick,
the tick at which a disable takes effect, and whether the pending list was loaded after the disabling write. -/
structure Gate where
  oper    : List Word
  base    : Nat
  pend    : Option (List Word × Nat)
  disable : Option Nat
deriving DecidableEq, Repr

def Gate.init : Gate := ⟨[], 0, none, none⟩

/-- Egress queues (key: egress × 64 + 8 × VC + sub-queue), WFQ levels (upper by egress, lower by egress × 8 + VC), buffers,
shapers (egress × 8 + VC; none while the register's reset word is in force with a full bucket) and policers
(port × 8 + VC) with the time of the last refill, gates by port, end of each egress's transmission in 2^-8 ns, metro queues by port (R301: the
link that R293 chose, whether the frame lies in the METRO share, the frame),
and PFC pauses by reserved entry × 8 + priority with their end (12 R417). -/
structure Traffic where
  queues  : List (Nat × List QFrame)
  upper   : List (Nat × Level)
  lower   : List (Nat × Level)
  bufs    : List (Nat × Buf)
  nextBuf : Nat
  nextOrd : Nat
  shapers : List (Nat × Option Shaper)
  refill  : Nat
  pols    : List (Nat × Policer)
  polAt   : Nat
  gates   : List (Nat × Gate)
  txEnd   : List (Nat × Nat)
  metroQ  : List (Nat × List (Nat × Bool × QFrame))
  paused  : List (Nat × Nat)
deriving DecidableEq, Repr

/-! ## Memory (11) -/

/-- A region descriptor (R369): valid, world, placement, scrub, class, generation, size in granules, (stack, base)
of each way, and the base of its residue shadow. -/
structure Region where
  valid  : Bool
  secure : Bool
  pinned : Bool
  scrub  : Bool
  cls    : Nat
  gen    : Nat
  size   : Nat
  ways   : List (Nat × Nat)
  shadow : Nat
deriving DecidableEq, Repr

def Region.free : Region := ⟨false, false, false, false, 0, 0, 0, [], 0⟩

/-- Why a share moves (R382, R383, R392). -/
inductive EvacWhy where
  | hot
  | fence
  | retire (gran : Nat)
deriving DecidableEq, Repr

/-- A region share that moves or waits to move (R384, R385): region, way, destination run once found. The copy
pointer stands at its first line until EVAC_SHARE_DONE moves it past the last. -/
structure Evac where
  region : Nat
  way    : Nat
  why    : EvacWhy
  dest   : Option (Nat × Nat)
deriving DecidableEq, Repr

/-- What the memory side last answered to a request (R375): line, data, poisoned, flags of R47. -/
structure MemResp where
  line   : Nat
  data   : List Byte
  poison : Bool
  flags  : Nat
deriving DecidableEq, Repr

/-- One of the two buffer pools (R360 to R363): cached pointers per bank, ring entries, granules held per class,
granules retired. -/
structure Pool where
  banks   : List Nat
  ring    : Nat
  used    : List Nat
  retired : Nat
deriving DecidableEq, Repr

/-- Memory: HBM bytes (key: stack × 85,899,345,920 + byte), poisoned lines, region table with generations, residue
shadow words by line (R377), row corrections in the scrub period, spare rows used by bank and granules retired (R381, R382),
moves, stacks that are fenced when their evacuation ends, the two pools, time of the last scrub of each stack, tick of the last roll call, and the
last answer. -/
structure Memory where
  hbm     : List Host.Cell
  poison  : List (Nat × Bool)
  regions : List (Nat × Region)
  shadow  : List (Nat × Nat)
  rowCe   : List (Nat × Nat)
  spares  : List (Nat × Nat)
  retired : List (Nat × Bool)
  evacs   : List Evac
  fencing : List (Nat × Bool)
  sram    : Pool
  hpool   : Pool
  scrubAt : List (Nat × Nat)
  callAt  : Nat
  resp    : Option MemResp
deriving DecidableEq, Repr

/-! ## Command packets (15) -/

/-- A command waiting for its decoder: its arrival, its header fields and its parameters (R484). -/
structure Cmd where
  via    : Via
  src    : Nat
  world  : Bool
  vc     : Nat
  tag    : Nat
  opcode : Nat
  part   : Nat
  more   : Bool
  params : List Byte
  grans  : Nat
deriving DecidableEq, Repr

/-- An assembly of a multi-part command (R492): its first part, the parts so far, the next index, its deadline. -/
structure Assembly where
  first : Cmd
  body  : List Byte
  next  : Nat
  grans : Nat
  endAt : Nat
deriving DecidableEq, Repr

/-- A BAR2 submit slot (R496): frame bytes as the host last wrote them, and the length while held. -/
structure HostSlot where
  bytes : List Byte
  len   : Nat
deriving DecidableEq, Repr

def HostSlot.free : HostSlot := ⟨[], 0⟩

/-- A command that the device sent and whose reply it awaits (R489): destination, tag, opcode, and the bucket key. -/
structure SentCmd where
  dst    : Nat
  tag    : Nat
  opcode : Nat
  key    : Nat
deriving DecidableEq, Repr

/-- A COMMAND entry that is not in the log yet (R268, R269): whose reply decides it, its bell time, the context, epoch and step of its header, the
command's header and parameters, and its outcome once known: a status, or none for a command that was rejected. -/
structure RecWait where
  who    : ReplyTo
  time   : List Byte
  ctx    : Nat
  epoch  : Nat
  step   : Nat
  body   : List Byte
  status : Option (Option Nat)
deriving DecidableEq, Repr

/-- Queues of Sitonel and of the sequencer (R494), assemblies (R492) and commands whose later parts are dropped, submit slots and those
submitted, in order (R496), frames that wait for the receive ring and its phase (R497), commands sent, the next tag, bytes
written by running REGION_WRITEs by source and tag, the status that ended one early, and the COMMAND entries that wait for a status. -/
structure Commands where
  sitQ   : List Cmd
  seqQ   : List Cmd
  asm    : List Assembly
  drop   : List (Nat × Bool)
  slots  : List (Nat × HostSlot)
  subQ   : List Nat
  rxWait : List (List Byte)
  phase  : Bool
  sent   : List SentCmd
  nextTag : Nat
  rwrite : List (Nat × Nat)
  rwBad  : List (Nat × Nat)
  recs   : List RecWait
deriving DecidableEq, Repr

/-! ## Surviving failures (14) -/

/-- A stream toward the partner (R464): frames' worth of data not yet acknowledged (offset, bytes, LAST), how many of them were sent, the offset
from which the next data is taken, and the time of the last progress. -/
structure MirOut where
  segs : List (Nat × List Byte × Bool)
  sent : Nat
  next : Nat
  at_  : Nat
deriving DecidableEq, Repr

def MirOut.init : MirOut := ⟨[], 0, 0, 0⟩

/-- A stream from the partner (R464): offset expected, export bytes so far. -/
structure MirIn where
  expect : Nat
  data   : List Byte
deriving DecidableEq, Repr

def MirIn.init : MirIn := ⟨0, []⟩

/-- A checkpoint that runs or awaits its confirmation (R470 to R472). -/
structure Ckpt where
  ident   : Nat
  step    : Nat
  staging : Nat
  conns   : List (Nat × Nat × Nat)
  shards  : List Nat
  nextOff : Nat
  groups  : Nat
  shardG  : Nat
  copied  : Nat
  reply   : Option ReplyTo
  writing : List Nat
  failed  : Bool
  stepSeq : Nat
deriving DecidableEq, Repr

/-- Partner and checkpoints: this switch has bound, the partner was heard, last ACK or BEAT heard, last BEAT sent, MIRRORED was reached, data
waiting for its turn in a stream (stream × 65,536 + number, offset, bytes, LAST), streams out and in, regions that hold the partner's
streams (by shard, 65,536 for the log), exports of the partner's groups by number, the running checkpoint, those written and not confirmed, shards
without partner space, CHECKPOINT frames received, the lag of FS_1003 seen, and streams whose present run or attempt is mirrored as a whole at
its end, and groups whose export is to be mirrored (32,768 added for huddle groups). -/
structure Partner where
  bound   : Bool
  theirs  : Bool
  heard   : Nat
  beatAt  : Nat
  wasFull : Bool
  outbox  : List (Nat × Nat × List Byte × Bool)
  outs    : List (Nat × MirOut)
  ins     : List (Nat × Option MirIn)
  regions : List (Nat × Nat)
  exports : List (Nat × List Byte)
  running : Option Ckpt
  written : List Ckpt
  unmirrored : List (Nat × Bool)
  inbox   : List (List Byte)
  lagSeen : Bool
  whole   : List (Nat × Bool)
  dirty   : List (Nat × Bool)
deriving DecidableEq, Repr

/-! ## Groups, buckets and chunks (04) -/

/-- A contribution slot (R121); `sub` is 0xFFFFFF for none. -/
structure SlotE where
  child  : Bool
  weight : Nat
  member : Nat
  prim   : Nat
  sub    : Nat
deriving DecidableEq, Repr

/-- A group context (R117, R118): state 0 FREE, 1 ACTIVE, 2 FROZEN; the roll as a number, bit i for member i; the requester and
export of a GROUP_IMPORT that is being installed (R477). -/
structure Group where
  st      : Nat
  world   : Bool
  epoch   : Nat
  role    : Nat
  members : Nat
  roll    : Nat
  slots   : List SlotE
  parent  : Nat
  parentPort : Nat
  fanout  : Nat
  policy  : Nat
  fmt     : Nat
  eref    : Int
  late    : Nat
  seed    : Nat
  maxB    : Nat
  metroN  : Nat
  metroRank : Nat
  importing : Option (ReplyTo × List Byte)
deriving DecidableEq, Repr

def Group.free : Group := ⟨0, false, 0, 0, 0, 0, [], 0, 0, 0, 0x200, 1, 0, 1024, 0, 0, 1, 0, none⟩

/-- A contribution row of a chunk (R139, R142). -/
inductive RowSt where
  | prim
  | sub
  | lost
deriving DecidableEq, Repr

/-- Digests of a slot in a chunk (R147): sums, rows delivered by each source as bit masks, the links on which they came last, and whether
a digest pair is held. -/
structure Digest where
  p     : Nat
  s     : Nat
  pRows : Nat
  sRows : Nat
  pLink : Nat
  sLink : Nat
  held  : Bool
deriving DecidableEq, Repr

def Digest.zero : Digest := ⟨0, 0, 0, 0, 0, 0, false⟩

/-- States of a chunk of an OPEN bucket (R137); IDLE is the absence of an entry, or a waiting one without a row taken. -/
inductive ChSt where
  | waiting
  | filling
  | closing
  | released
  | discarded
deriving DecidableEq, Repr

/-- A chunk (R137 to R145): rows taken by slot × 64 + row, digests by slot, accumulators reserved, dual mode, owner desk of each
copy, blocks that wait for admission with their port station, its place and time of entering ADMIT_WAIT, whether FS_796 was raised, short close with present and
expected weight, whether the close has reached the desks, sticky status by row, rows confirmed by egress converters, and exact sums that the
root keeps for later use (R152). -/
structure Chunk where
  st     : ChSt
  rows   : List (Nat × RowSt)
  dig    : List (Nat × Digest)
  accs   : Nat
  dual   : Bool
  own0   : Option Nat
  own1   : Option Nat
  wait   : List (Nat × LBlk)
  ord    : Nat
  since  : Nat
  noted  : Bool
  short  : Bool
  wp     : Nat
  we     : Nat
  sent   : Bool
  rowSt  : List (Nat × Nat)
  done   : List (Nat × List AElem)
deriving DecidableEq, Repr

/-- States of a bucket table entry (R134); FREE is the absence of an entry. -/
inductive BSt where
  | pending
  | opened
  | closed
  | reported
  | inked
  | aborted
deriving DecidableEq, Repr

/-- An owned metro chunk (R181, R182): its 32-element units by rank × 4,096 + unit, 1 taken and 2 added, closed, narrowed, short close weights,
and the sticky status by unit. -/
structure MChunk where
  rows   : List (Nat × Nat)
  closed : Bool
  out    : Bool
  short  : Bool
  wp     : Nat
  we     : Nat
  stat   : List (Nat × Nat)
deriving DecidableEq, Repr

def MChunk.init : MChunk := ⟨[], false, false, false, 0, 0, []⟩

/-- An all-gathered chunk of another owner (R184, R185): block sequences received intact, resends asked for and
the time of the last, whether their limit was reached, and whether the chunk is given up. -/
structure GChunk where
  got     : List Nat
  resends : Nat
  at_     : Nat
  limit   : Bool
  lapsed  : Bool
deriving DecidableEq, Repr

def GChunk.init : GChunk := ⟨[], 0, 0, false, false⟩

/-- A bucket table entry (R132 to R135, R164, R170, R180): state, attempt, the group as the first open found it, parameters, times, E_ref, seed,
cross-check, running maximum of this attempt, chunks, held opens and abort requests, passing reports by source (short, present, partial), the
cause reported, members skipped, slots held to their primary (R148), FS_798 raised, slots that have opened (R129), the metro side, the time of
INK, the shard that it drives (R198), and elements published by other owners (R217). -/
structure Bucket where
  st      : BSt
  attempt : Nat
  grp     : Group
  params  : List Byte
  openAt  : Nat
  pendAt  : Nat
  late    : Nat
  eref    : Int
  seed    : Nat
  xchk    : Bool
  rm      : Nat
  chunks  : List (Nat × Chunk)
  held    : List (CmdHdr × List Byte)
  aborts  : List (CmdHdr × List Byte)
  reports : List (Nat × Bool × Nat × Nat)
  cause   : Option Nat
  skipped : Nat
  primOnly : List Nat
  noted   : Bool
  openers : List Nat
  mReg    : Nat
  mEref   : Int
  mJoin   : List (Nat × Nat)
  mChunks : List (Nat × MChunk)
  mGot    : List (Nat × GChunk)
  mConf   : List Nat
  mSent   : List Nat
  inkAt   : Nat
  shard   : Option Nat
  lateDone : Bool
  mLateDone : Bool
  pubElems : Nat
deriving DecidableEq, Repr

/-- A notice part sent and not yet acknowledged (R168). -/
structure NoticeOut where
  dst    : Nat
  op     : Nat
  key    : Nat
  att    : Nat
  part   : Nat
  params : List Byte
  world  : Bool
  tries  : Nat
  at_    : Nat
deriving DecidableEq, Repr

/-- Parts received of a notice that is not whole (R167): source, opcode, fixed part without its part index, parts. -/
structure NoticeIn where
  src   : Nat
  op    : Nat
  key   : Nat
  att   : Nat
  count : Nat
  parts : List (Nat × List Byte)
deriving DecidableEq, Repr

/-- The INK of an attempt whose fan-out is not complete (R171, R172, R187): the group and the step of its bucket, its flags, micro index and E_ref,
the members its bitmaps count and the first of this group among them, present, partial and delivered bitmap, members whose copies
were skipped, whether it waits for a publication, and the ports on which it has not left with the coordinates behind each. -/
structure InkRec where
  key     : Nat
  att     : Nat
  grp     : Group
  step    : Nat
  flags   : Nat
  micro   : Nat
  eref    : Int
  total   : Nat
  first   : Nat
  pres    : Nat
  part    : Nat
  deliv   : Nat
  skipped : Nat
  pub     : Bool
  ports   : List (Nat × List Nat)
deriving DecidableEq, Repr

/-- A notice part that was acted on (R168): source, key, attempt, opcode, part, time of issue, and whether its bucket's name was opened again
since. -/
structure SeenPart where
  src  : Nat
  key  : Nat
  att  : Nat
  op   : Nat
  part : Nat
  time : Nat
  old  : Bool
deriving DecidableEq, Repr

/-- A pass that waits for an ingress converter (R22, R31): link of arrival, header, blocks left, granules left. -/
structure ConvPass where
  link   : Nat
  hdr    : List Byte
  blocks : List (List Byte)
  grans  : Nat
  at_    : Nat
deriving DecidableEq, Repr

/-- A KB8 scale block held by a converter (R45, R78): bucket attempt, source, first sequence, scales, the data blocks converted as a bit mask, its
status and its RM16. -/
structure ScaleBlk where
  conv  : Nat
  key   : Nat
  att   : Nat
  src   : Nat
  seq   : Nat
  data  : List Byte
  used  : Nat
  status : Nat
  rm    : Nat
deriving DecidableEq, Repr

/-- A gradient accumulation in a region (R151 to R154): micro-steps ended, E_acc, the context, tag and step to which it belongs, and the sticky status
by unit of 32 elements. -/
structure AccReg where
  steps : Nat
  eacc  : Int
  ctx   : Nat
  tag   : Nat
  step  : Nat
  stat  : List (Nat × Nat)
deriving DecidableEq, Repr

/-- What FS_794 records of a mismatch (R148): both source coordinates, bucket, attempt and chunk. -/
structure XMiss where
  prim  : Nat
  sub   : Nat
  key   : Nat
  att   : Nat
  chunk : Nat
deriving DecidableEq, Repr

/-- The collective sequencer, the converters' inputs and the notices: group contexts, bucket table, RM16 history (R133), outcome ring (R189),
notices out and in, parts already acted on (R168), INKs that have not left on every port, order in which chunks entered ADMIT_WAIT, accumulations by region handle
(R152), passes at converters, held for unopened buckets (R180), all-gathered passes, scale blocks, rows at egress converters, retired buckets whose
metro side goes on (R185), what FS_794 recorded (R148), and further causes of attempts that have one (R175). -/
structure Sequencer where
  groups   : List (Nat × Group)
  buckets  : List (Nat × Option Bucket)
  rmHist   : List (Nat × Nat)
  outcomes : List (Nat × Bool)
  notOut   : List NoticeOut
  notIn    : List NoticeIn
  seen     : List SeenPart
  inks     : List InkRec
  ord      : Nat
  accums   : List (Nat × Option AccReg)
  conv     : List ConvPass
  mHeld    : List ConvPass
  gathers  : List ConvPass
  scales   : List ScaleBlk
  rowOut   : List RowOut
  linger   : List (Nat × Option Bucket)
  xmiss    : List XMiss
  again    : Nat
deriving DecidableEq, Repr

/-! ## Reduction desks (03) -/

inductive AccSt where
  | filling
  | draining
  | returning
  | merging
  | comparing
  | releasing
deriving DecidableEq, Repr

/-- The chunk accumulators of one chunk in one desk (R84, R86): bucket, attempt, chunk, copy of the dual mode, owner or helper, state, elements by row, adds completed by row, adds that the close names by row, whether the
close has come, returned rows that wait to be merged, rows released and rows confirmed. -/
structure Accum where
  key    : Nat
  att    : Nat
  chunk  : Nat
  copy   : Nat
  helper : Bool
  st     : AccSt
  n      : Nat
  rows   : List (Nat × List AElem)
  done   : List (Nat × Nat)
  expect : List (Nat × Nat)
  closed : Bool
  inbox  : List (Nat × List AElem × Nat)
  rel    : Nat
  cmp    : Nat
  conf   : Nat
deriving DecidableEq, Repr

/-- A physical desk: input queue and accumulators. -/
structure Desk where
  queue : List LBlk
  accs  : List Accum
deriving DecidableEq, Repr

def Desk.empty : Desk := ⟨[], []⟩

/-- The reduction fabric (R91, R103, R104, R440): desks, unmapped logical desks in the order they were benched, the refill in progress (physical,
logical, start), the spare that passed with its tick, which awaits its map entry, desks (physical, logical) that return to their logical desk, the cycle of the last stealing round and the length of the
round under way. -/
structure Fabric where
  desks  : List (Nat × Desk)
  bench  : List Nat
  refill : Option (Nat × Nat × Nat)
  passed : Option (Nat × Nat × Nat)
  back   : List (Nat × Nat)
  stealAt : Nat
  round   : Nat
deriving DecidableEq, Repr

/-! ## Parameter shards and lessons (06) -/

/-- A stream of a shard (R195): format 0 absent, 1 KF32, 2 KF16; region handle and byte offset. -/
structure StreamE where
  fmt    : Nat
  handle : Nat
  off    : Nat
deriving DecidableEq, Repr

/-- A shard descriptor with its scalar tables (R195, R213) and run status. -/
structure Shard where
  ctx     : Nat
  tag     : Nat
  blocks  : Nat
  fmt     : Nat
  world   : Bool
  lesson  : Nat
  engines : Nat
  w       : StreamE
  s1      : StreamE
  s2      : StreamE
  gPlace  : Bool
  g       : StreamE
  clip    : Bool
  normBind : Nat
  normSlot : Nat
  normMask : Nat
  clipNorm : Nat
  nonfinite : Bool
  cur     : List Nat
  pend    : Option (Nat × List Nat)
  lastStep : Nat
  ran     : Bool
  status  : Nat
  lastKey : Nat
  lastAtt : Nat
  lastEref : Int
  seed    : Nat
  flags   : List (Nat × Nat)
deriving DecidableEq, Repr

/-- State of a run (R208). -/
inductive RunSt where
  | norm
  | ready
  | running
  | skip
deriving DecidableEq, Repr

/-- A run (R208 to R214): shard, bucket, attempt, state, order of becoming READY, next row to hand out, rows to run again, rows done, s0 to s16, the time since which
rows wait, FS_874 raised, rows published and not yet sent (words, flags), rows that wait for a rebuilt line, passes of publication blocks sent. -/
structure Run where
  shard  : Nat
  key    : Nat
  att    : Nat
  st     : RunSt
  ord    : Nat
  next   : Nat
  redo   : List (Nat × Nat)
  done   : Nat
  s      : List Nat
  wait   : Nat
  noted  : Bool
  pubs   : List (Nat × List Nat × Nat)
  normed : Bool
  clip   : Nat × Nat
deriving DecidableEq, Repr

/-- A norm binding (R209): valid, context, tag, entries (index, sum), E_ref and RM16 of each entry, the step that is being gathered,
shards done, whether this switch contributed, the status of the sums, the 64 results with their step, and the steps whose norm bucket was last inked
and last aborted. -/
structure Norm where
  valid : Bool
  ctx   : Nat
  tag   : Nat
  sums  : List (Nat × Kz)
  rm    : List (Nat × Nat)
  hist  : List (Nat × Nat)
  step  : Nat
  shards : List Nat
  sent  : Bool
  flags : Nat
  result : Option (Nat × List Nat)
  inked  : Option Nat
  aborted : Option Nat
deriving DecidableEq, Repr

def Norm.free : Norm := ⟨false, 0, 0, [], [], [], 0, [], false, 0, none, none, none⟩

/-- A lesson engine at work: run's shard, row. -/
structure EngRow where
  shard : Nat
  row   : Nat
deriving DecidableEq, Repr

/-- Blocks that a SHARD_REPUBLISH owes its requester (R216): bucket, attempt, requester, corridor, blocks. -/
structure Owed where
  key    : Nat
  att    : Nat
  dst    : Nat
  corr   : Nat
  blocks : List (List Byte)
deriving DecidableEq, Repr

/-- Lesson machinery: shards, gradient staging by shard × 2^32 + element, lesson slots, norm bindings, run queue, engines' rows, order counter, blocks
that a republication owes. -/
structure Lessons where
  shards : List (Nat × Option Shard)
  grad   : List (Nat × Nat)
  slots  : List (Nat × List Nat)
  norms  : List (Nat × Norm)
  runs   : List Run
  eng    : List (Nat × Option EngRow)
  ord    : Nat
  owed   : List Owed
deriving DecidableEq, Repr

/-! ## Huddle (07) -/

/-- A huddle group (R230): its fields, its RM16 history (0xFFFF for none), and the start ticks of the instances it closed with the tick of their
close (R233). -/
structure HGroup where
  valid   : Bool
  world   : Bool
  epoch   : Nat
  role    : Nat
  members : Nat
  slots   : List SlotE
  parentPort : Nat
  fanout  : Nat
  fmt     : Nat
  units   : Nat
  op      : Nat
  carry   : Nat
  childT  : Nat
  rescale : Bool
  eref    : Int
  rm      : Nat
  closed  : List (Nat × Nat)
deriving DecidableEq, Repr

def HGroup.free : HGroup := ⟨false, false, 0, 0, 0, [], 0, 0, 1, 8, 0, 0, 1, false, 0, 0xFFFF, []⟩

/-- An open instance (R233 to R238): epoch, E_ref, slots filled and absent, carries made, sums, flags, RM16, present bitmap,
the unit in which it opened, and what the check of its close is to meet (R236). -/
structure HInst where
  group  : Nat
  start  : Nat
  epoch  : Nat
  eref   : Int
  filled : List Nat
  absent : List Nat
  carries : Nat
  sums   : List AElem
  flags  : Nat
  rm     : Nat
  pres   : Nat
  unit   : Nat
  upset  : Upset
deriving DecidableEq, Repr

/-- A HUDDLE frame at the web (R232): port of arrival, bytes. -/
structure HFrame where
  port  : Nat
  bytes : List Byte
deriving DecidableEq, Repr

/-- The huddle: groups, open instances, frames that wait for their unit, units that serve groups that have moved (R240), and the tick of the fence of each unit whose groups are to move. -/
structure Huddle where
  groups : List (Nat × HGroup)
  inst   : List HInst
  inQ    : List HFrame
  moved  : List (Nat × Option Nat)
  moveAt : List (Nat × Option Nat)
deriving DecidableEq, Repr

/-! ## Links and the flash tier (12) -/

/-- A codeword of a T-link that is not null, in the replay buffer (R398, R400): its number, frame data, the start of the first frame that begins in
it in units of 8 B, and the colours of the frames that begin in it. -/
structure Codeword where
  seq     : Nat
  data    : List Byte
  start   : Option Nat
  colours : List Nat
deriving DecidableEq, Repr

/-- A link beside its registers (12): time of the present bring-up step, time at which bring-up restarts (R411), sideband reading that is
being confirmed with its count (R418), module powered, fenced until a retrain (R446), sequence of the next codeword expected, none before the
first, and whether a replay is awaited (R400), times of uncorrectable codewords (R403), NAKs acted on by the number replayed from and the lowest
then never sent, the number last replayed from (R400, R402), the codeword sent at a time in 2^-8 ns, whether step 6 is held by a foreign peer
(R410), and end of a drain with whether the latch has closed again (R418). Then the T-link's framing: the number to leave next, the lowest never
sent at the last replay, the replay buffer, the window and bytes of the link message asked for (R399), the frame that is arriving with its colour
and whether it was ended under R297 (R402), and the next number and bytes of the link message that is arriving. -/
structure LinkDyn where
  stepAt  : Nat
  restart : Option Nat
  scan    : Nat
  scanN   : Nat
  powered : Bool
  fenced  : Bool
  rxNext  : Option Nat
  nak     : Bool
  uncorr  : List Nat
  naks    : List (Nat × Nat)
  nakAck  : Option Nat
  held    : Bool
  txAt    : Nat
  drain   : Option Nat
  again   : Bool
  txBase  : Nat
  txNext  : Nat
  txTop   : Nat
  txw     : List Codeword
  chan    : Option (Nat × List Byte)
  rxBuf   : List Byte
  rxCol   : Nat
  rxCut   : Bool
  rxMsg   : Nat × List Byte
deriving DecidableEq, Repr

def LinkDyn.init : LinkDyn := ⟨0, none, 0, 0, false, false, none, false, [], [], none, false, 0, none, false, 0, 0, 0, [], none, [], 0, false, (0, [])⟩

/-- A transfer of a flash connection (R416): write to flash or read from it, blocks, region and offset, whether its command was sent,
who awaits it, a requester or the running checkpoint, and whether a manifest is checked at its end (R472). -/
structure Transfer where
  write  : Bool
  start  : Nat
  count  : Nat
  region : Nat
  off    : Nat
  sent   : Bool
  reply  : Option ReplyTo
  manif  : Bool
deriving DecidableEq, Repr

/-- A flash connection (R416, R417): its entry, depth, parameters, what the target said of its blocks, ERROR, outstanding transfers, RDMA
responses that wait, retries of the present request, time of its last progress, and its rate (R417). -/
structure Flash where
  entry  : Nat
  depth  : Nat
  params : List Byte
  bsize  : Nat
  blocks : Nat
  error  : Bool
  xfers  : List Transfer
  out    : List (Nat × List Byte)
  tries  : Nat
  at_    : Nat
  rate   : EcnRate
deriving DecidableEq, Repr

structure Links where
  dyn   : List (Nat × LinkDyn)
  flash : List (Nat × Option Flash)
deriving DecidableEq, Repr

/-! ## Sitonel (17) -/

/-- A sensor (R538): status of its last sample (0 valid, 1 none taken, 2 failed), its value as 32 bits, and when it was valid last. -/
structure Sensor where
  st  : Nat
  val : Nat
  at_ : Nat
deriving DecidableEq, Repr

def Sensor.init : Sensor := ⟨1, 0, 0⟩

/-- A restart of the pair (R534, R548): the slot it starts, the slot confirmed before an activation (none for a restart after a lockstep
mismatch), and the reply that the activation owes. -/
structure Restart where
  slot  : Nat
  prev  : Option Nat
  reply : Option ReplyTo
deriving DecidableEq, Repr

/-- Sitonel beside its registers: bytes written to the firmware slots (slot × 2^24 + offset), event records with the next index and the
time of the last FS_975 (R536), sensors, next leaf of each key in each copy (key × 4 + copy; R551), nonces of batches with their
times of arrival (R552), the restart that runs, the activation that awaits its confirmation (previous slot, when it is confirmed), times of failed restarts (R568), handlers and DEGRADE records that wait for a restart to end
(source, DEGRADE), the reply of the drain that runs, and the end of a locate (R554, R555). -/
structure Sitonel where
  fw      : List (Nat × Option Byte)
  events  : List (List Byte)
  evNext  : Nat
  evOver  : Option Nat
  sensors : List (Nat × Sensor)
  leaves  : List (Nat × Nat)
  batch   : List (ReplyTo × List Byte × Nat)
  restart : Option Restart
  trial   : Option (Nat × Nat)
  fails   : List Nat
  handler : List (Nat × Bool)
  drain   : Option ReplyTo
  locate  : Option Nat
deriving DecidableEq, Repr

/-! ## The device -/

/-- Phases of the supply and reset sequence (R562 to R568, R546): without every rail, held in reset, regions not yet placed, no image that
verifies, ready. -/
inductive Phase where
  | off
  | held
  | booting
  | dead
  | up
deriving DecidableEq, Repr

/-- The package: phase, pins (R568 to R570), PCI Express link and bus mastering (R541), rail voltages in mV in the order of R561, an order
violation that waits for every rail after stage 1 to fall (R563), and references lost (0 to 7 lane inputs, 8 PCI Express, 9 management; R566). -/
structure Package where
  phase   : Phase
  rails   : List Nat
  order   : Bool
  lost    : List (Nat × Bool)
  porstN  : Bool
  thermN  : Bool
  faultN  : Bool
  pcieUp  : Bool
  busM    : Bool
deriving DecidableEq, Repr

structure Dev where
  regs : List (Nat × Word)
  bus  : Bus
  clk  : Clock
  ref  : Referee
  int  : Integrity
  bell : Bell
  log  : List LogEnt
  rte  : Routing
  tm   : Traffic
  mem  : Memory
  cmd  : Commands
  ckp  : Partner
  seq  : Sequencer
  fab  : Fabric
  lsn  : Lessons
  hud  : Huddle
  lnk  : Links
  sit  : Sitonel
  pkg  : Package
  wire : List Wire
  free : Nat
deriving DecidableEq, Repr

/-- The device and the commands that wait for it, first in, first out. -/
structure State where
  dev     : Dev
  pending : List Instr
deriving DecidableEq, Repr

/-- Where nothing in the manual holds any more (R561, R564). -/
inductive Fault where
  /-- Raised by RAIL_RISE where a rail passes its absolute maximum: "Nothing in this manual holds for a device that
  has met one". Safe. -/
  | overAbsoluteMax
  /-- Raised by POWER_LOSS where the fall breaks the conditions of R564. Safe. -/
  | unplannedFall
deriving DecidableEq, Repr

/-- Commands without a meaning. -/
inductive Refusal where
  /-- A command that the model does not give a meaning yet. Safe. -/
  | notModelled (mnemonic : String)
deriving DecidableEq, Repr

/-- Nominal voltages in mV (R561). -/
def nominalRails : List Nat := [800, 1800, 1200, 750, 1200, 750, 700, 1050, 750, 1800]

/-- The device right after a power-on reset, at the release of PORST_N (R567, R568). -/
def Dev.reset : Dev :=
  { regs := [], bus := ⟨[], [], [], []⟩, clk := ⟨0, 0, 0, false⟩, ref := ⟨[], [], [], []⟩,
    int := ⟨[], [], [], [], [], [], [], []⟩,
    bell := ⟨[], 0, false, [], none, 0, none, none, none, none, none, none, [], 0, [], 0, none, false⟩, log := [],
    rte := ⟨[], [], [], [], [], [], [], [], [], [], []⟩,
    tm := ⟨[], [], [], [], 0, 0, [], 0, [], 0, [], [], [], []⟩,
    mem := ⟨[], [], [], [], [], [], [], [], [], ⟨List.replicate 16 256, 3724174, [0, 0, 0, 0], 0⟩,
      ⟨List.replicate 16 256, 16773120, [0, 0], 0⟩, [], 0, none⟩,
    cmd := ⟨[], [], [], [], [], [], [], true, [], 0, [], [], []⟩,
    ckp := ⟨false, false, 0, 0, false, [], [], [], [], [], none, [], [], [], false, [], []⟩,
    seq := ⟨[], [], [], [], [], [], [], [], 0, [], [], [], [], [], [], [], [], 0⟩, fab := ⟨[], [], none, none, [], 0, 64⟩,
    lsn := ⟨[], [], [], [], [], [], 0, []⟩,
    hud := ⟨[], [], [], [], []⟩, lnk := ⟨[], []⟩, sit := ⟨[], [], 0, none, [], [], [], none, none, [], [], none, none⟩,
    pkg := ⟨.booting, nominalRails, false, [], true, true, true, true, true⟩, wire := [], free := 0 }

def State.reset : State := { dev := Dev.reset, pending := [] }

end Sys2Proof.Machine
end

