-- ==== Sys2Proof/Machine/Ops.lean ====
section
/-! DEFINITION. Named operations that every chapter uses: the register bank, bell time, once-per-tick marks, raising a fault
source (R444, R445, R449), free values and the output record. -/

namespace Sys2Proof.Machine

/-! ## Registers -/

/-- Word of the register at a BAR0 offset of the normal range. -/
def rg (d : Dev) (a : Nat) : Nat := (tget (resetWord a) d.regs a).toNat

/-- Store a word. -/
def rgPut (d : Dev) (a v : Nat) : Dev := { d with regs := tset (resetWord a) d.regs a (BitVec.ofNat 32 v) }

/-- A field of a register. -/
def fget (d : Dev) (a : Nat) (f : Nat × Nat) : Nat := bits (rg d a) f.1 f.2

/-- A one-bit field. -/
def fbit (d : Dev) (a : Nat) (f : Nat × Nat) : Bool := (rg d a).testBit f.2

/-- Set a field of a register. -/
def fset (d : Dev) (a : Nat) (f : Nat × Nat) (v : Nat) : Dev := rgPut d a (putBits (rg d a) f.1 f.2 v)

/-- A field in which 0 is taken as 1. -/
def fget1 (d : Dev) (a : Nat) (f : Nat × Nat) : Nat := max 1 (fget d a f)

/-- Count k events in a saturating counter (R515). -/
def bump (d : Dev) (a : Nat) (k : Nat := 1) : Dev := rgPut d a (satInc (rg d a) k)

/-- A field of two registers, low word first (R9). -/
def rg64 (d : Dev) (lo : Nat) : Nat := rg d lo + 2 ^ 32 * rg d (lo + 4)

/-- Store a field of two registers, low word first (R9). -/
def rg64Put (d : Dev) (lo v : Nat) : Dev := rgPut (rgPut d lo (v % 2 ^ 32)) (lo + 4) (v / 2 ^ 32)

/-! ## Bell time (R11, R12, R251, R262) -/

/-- Whole nanoseconds of bell time. -/
def ns (d : Dev) : Nat := d.clk.now / 2 ^ 32

/-- Bell time in units of 2^-8 ns. -/
def ns256 (d : Dev) : Nat := d.clk.now / 2 ^ 24

/-- Tick length by the code of BELL_TICK.sel (R277). -/
def tickOf (sel : Nat) : Nat := 256 * 2 ^ sel

def tickLen (d : Dev) : Nat := tickOf (fget d Reg.BELL_TICK Fd.BELL_TICK_sel)

/-- Tick index (R262). -/
def tickIdx (d : Dev) : Nat := ns d / tickLen d

/-- The 10 bytes of a bell time (R12). -/
def timeBytes (d : Dev) : List Byte := beBytes 8 (ns d) ++ beBytes 2 (d.clk.now / 2 ^ 16)

/-- The 10 bytes of a whole-nanosecond time (R12). -/
def nsBytes (t : Nat) : List Byte := beBytes 8 t ++ beBytes 2 0

/-- The first tick boundary at or after a time (R25), as a tick index. -/
def tickAtOrAfter (d : Dev) (t : Nat) : Nat := ceilDiv t (tickLen d)

/-! ## Free values, output, marks -/

/-- A fresh free number (log 2). -/
def freeNat (d : Dev) : Nat × Dev := (Config.freeNat d.free, { d with free := d.free + 1 })

/-- Record something driven at the pads. -/
def emit (d : Dev) (w : Wire) : Dev := { d with wire := d.wire ++ [w] }

/-- Whether the device has power, is out of reset and is running (R568). -/
def alive (d : Dev) : Bool := decide (d.pkg.phase = .booting) || decide (d.pkg.phase = .up)

/-- Whether a HALT has stopped the fabric (R447). -/
def halted (d : Dev) : Bool := fbit d Reg.REF_STATUS Fd.REF_STATUS_halted

/-- Whether a fabric reset is in progress (R529). -/
def resetBusy (d : Dev) : Bool := fbit d Reg.TOP_STATUS Fd.TOP_STATUS_reset_busy

/-- Whether converters, desks, engines, huddle units, memory-side adders and transmitters run (R447, R529). -/
def running (d : Dev) : Bool := alive d && !halted d && !resetBusy d

/-! ## Fault sources (13) -/

def srcOf (d : Dev) (n : Nat) : Src := tget Src.idle0 d.ref.src n

def srcPut (d : Dev) (n : Nat) (s : Src) : Dev :=
  { d with ref := { d.ref with src := tset Src.idle0 d.ref.src n s } }

/-- Severity code of a source (R444). -/
def sev (d : Dev) (n : Nat) : Nat := bits (rg d (Reg.REF_SEV (n / 8))) (4 * (n % 8) + 3) (4 * (n % 8))

/-- Fault register of the unit that a source names, 0 for none (R449). -/
def faultReg (d : Dev) (n : Nat) : Nat :=
  if n < 128 then rg d (Reg.LINK_FAULT n)
  else if n < 132 then rg d (Reg.RSV_FAULT (n - 128))
  else if n = 132 then rg d Reg.PRT_SB_STATUS
  else if 256 ≤ n ∧ n < 528 then rg d (Reg.DESK_FAULT (n - 256))
  else if 528 ≤ n ∧ n < 656 then rg d (Reg.ICONV_FAULT (n - 528))
  else if 656 ≤ n ∧ n < 784 then rg d (Reg.ECONV_FAULT (n - 656))
  else if 808 ≤ n ∧ n < 872 then rg d (Reg.LSN_ENG_FAULT (n - 808))
  else if 880 ≤ n ∧ n < 896 then rg d (Reg.HUD_UNIT_FAULT (n - 880))
  else if 904 ≤ n ∧ n < 910 then rg d Reg.BELL_FAULT
  else if 928 ≤ n ∧ n < 944 then rg d (Reg.HBM_STK_FAULT (n - 928))
  else 0

/-- The 32 B record of R449. -/
def refRecord (d : Dev) (n ev : Nat) : List Byte :=
  let r := timeBytes d ++ beBytes 2 n ++ beBytes 1 ev ++ beBytes 1 (sev d n) ++ beBytes 2 0
    ++ beBytes 4 (faultReg d n) ++ beBytes 4 (srcOf d n).count ++ beBytes 4 0
  r ++ beBytes 4 (crc32c r)

/-- Write a record into the ring, or count it dropped; answers whether it was dropped (R449). -/
def refWrite (d : Dev) (n ev : Nat) : Dev × Bool :=
  if d.ref.ring.length < 4096 then
    (fset { d with ref := { d.ref with ring := d.ref.ring ++ [refRecord d n ev] } } Reg.REF_RING_HEAD
      Fd.REF_RING_HEAD_head ((fget d Reg.REF_RING_HEAD Fd.REF_RING_HEAD_head + 1) % 4096), false)
  else (fset (bump d Reg.REF_RING_DROP_CNT) Reg.REF_STATUS Fd.REF_STATUS_ring_full 1, true)

/-- Length of the window of severity s in ns (R455). -/
def windowNs (d : Dev) (s : Nat) : Nat := 1000 * fget d (Reg.REF_WINDOW (s - 1)) Fd.REF_WINDOW_window

/-- One raise (R445), without the raise of FS_957 that a full ring adds. -/
def raise1 (d : Dev) (n : Nat) : Dev × Bool :=
  let c := { srcOf d n with count := satInc (srcOf d n).count 1 }
  let v := sev d n
  if v = 15 then (srcPut d n c, false)
  else
    let d := bump d Reg.REF_RAISE_CNT
    let c := { c with last := ns d }
    match c.st with
    | .idle =>
      if v = 0 then refWrite (srcPut d n { c with st := .fault, lateOk := false, sev := 0 }) n 0
      else
        let d := srcPut d n { c with st := .window, until_ := ns d + windowNs d v, lateOk := false, sev := v }
        let d := if windowNs d v = 0 then { d with ref := { d.ref with due := d.ref.due ++ [n] } } else d
        refWrite d n 0
    | _ => (srcPut d n c, false)

/-- Raise a fault source; a record that finds the ring full raises FS_957 (R449). -/
def raise (d : Dev) (n : Nat) : Dev :=
  let r := raise1 d n
  if r.2 then (raise1 r.1 957).1 else r.1

/-- Write a record for a change of a source, raising FS_957 where the ring is full (R449). -/
def refNote (d : Dev) (n ev : Nat) : Dev :=
  let r := refWrite d n ev
  if r.2 then (raise1 r.1 957).1 else r.1

/-- Raise a source once per tick for each value of `k` (a link, a link and VC, a class, ...). -/
def raiseOnce (d : Dev) (n k : Nat) : Dev :=
  if tget false d.ref.once (n * 65536 + k) then d
  else raise { d with ref := { d.ref with once := tset false d.ref.once (n * 65536 + k) true } } n

/-- Set bits of a unit's fault register and raise its source. -/
def unitFault (d : Dev) (a : Nat) (f : Nat × Nat) (n : Nat) : Dev := raise (fset d a f 1) n

/-! ## Field tests that the device queues itself (R439) -/

def ftHas (d : Dev) (kind : FtKind) (t : Nat) : Bool := d.int.queue.any (fun e => decide (e.kind = kind ∧ e.target = t))

/-- Queue a test; the 65th is counted and raises FS_955, and where a unit's return waits on it, it is offered again at each tick. -/
def queueTest (d : Dev) (kind : FtKind) (t : Nat) (must : Bool) : Dev :=
  if ftHas d kind t then d
  else if d.int.queue.length ≥ 64 then
    if d.int.owed.contains (kind, t) then d
    else
      let d := raise (bump d Reg.INT_FT_DROP_CNT) 955
      if must then { d with int := { d.int with owed := d.int.owed ++ [(kind, t)] } } else d
  else { d with int := { d.int with queue := d.int.queue ++ [⟨kind, t, [], false, true, false⟩], owed := d.int.owed.filter (· ≠ (kind, t)) } }

end Sys2Proof.Machine
end

