-- ==== Sys2Proof/Machine/Hbm.lean ====
section
/-! DEFINITION. HBM, regions and buffer pools (11). A line is named by `stack × 1,342,177,280 + line`; byte i of line x stands
under key `64 x + i`. -/

namespace Sys2Proof.Machine

/-- Lines of a stack (R366). -/
def stackLines : Nat := 1342177280

/-- Lines of a 2 MiB granule (R366). -/
def granLines : Nat := 32768

def granBytes : Nat := 2097152

/-- The canonical form of HBM: keys strictly rising, no entry that equals what an unlisted byte reads as. -/
def Memory.wf (m : Memory) : Bool := twf Config.hbmFill m.hbm

/-! ## Lines -/

/-- The 64 bytes of a line. -/
def lineBytes (d : Dev) (x : Nat) : List Byte := (List.range 64).map (fun i => tget Config.hbmFill d.mem.hbm (64 * x + i))

/-- Store a byte of HBM. -/
def hbmPut (d : Dev) (k : Nat) (b : Byte) : Dev := { d with mem := { d.mem with hbm := tset Config.hbmFill d.mem.hbm k b } }

/-- Store a run of bytes from key k upward. -/
def hbmRun (d : Dev) : Nat → List Byte → Dev
  | _, [] => d
  | k, b :: bs => hbmRun (hbmPut d k b) (k + 1) bs

def setPoison (d : Dev) (x : Nat) (b : Bool) : Dev := { d with mem := { d.mem with poison := tset false d.mem.poison x b } }

/-- Thermal state of a stack (R393). -/
def stkState (d : Dev) (k : Nat) : Nat := fget d (Reg.HBM_STK_STATUS k) Fd.HBM_STK_STATUS_state

def stkFenced (d : Dev) (k : Nat) : Bool := decide (stkState d k = 4)

/-- A line reads as poisoned when it is marked so (R358) or lies on a FENCED stack (R385). -/
def poisoned (d : Dev) (x : Nat) : Bool := tget false d.mem.poison x || stkFenced d (x / stackLines)

/-- Write the bytes of a line whose mask bit is set; a write of the whole line clears its poison (R358). No access to a
FENCED stack (R383). -/
def lineWrite (d : Dev) (x : Nat) (mask : Nat) (bs : List Byte) : Dev :=
  if stkFenced d (x / stackLines) then d
  else
    let d := (setBits 64 mask).foldl (fun d i => hbmPut d (64 * x + i) (bs.getD i 0)) d
    if mask % 2 ^ 64 = ones 64 then setPoison d x false else d

/-! ## Regions (R368 to R374) -/

def regionAt (d : Dev) (i : Nat) : Region := tget Region.free d.mem.regions i

def regionPut (d : Dev) (i : Nat) (r : Region) : Dev :=
  { d with mem := { d.mem with regions := tset Region.free d.mem.regions i r } }

/-- The reserved bits of a handle are 0 (R10, R368). -/
def handleOk (h : Nat) : Bool := decide (bits h 15 12 = 0)

/-- The region that a handle names, with its index; none where the handle is stale (R368). -/
def regionOf (d : Dev) (h : Nat) : Option (Nat × Region) :=
  let i := h % 4096
  let r := regionAt d i
  if i ≠ 0 ∧ bits h 15 12 = 0 ∧ r.valid ∧ r.gen = h / 65536 then some (i, r) else none

/-- The handle of a region (R368). -/
def handleOf (d : Dev) (i : Nat) : Nat := (regionAt d i).gen * 65536 + i

def regionBytes (r : Region) : Nat := r.size * granBytes

/-- Line that holds byte offset o of a region (R370). -/
def regionLine (r : Region) (o : Nat) : Nat :=
  let j := o / granBytes
  let k := max 1 r.ways.length
  let w := r.ways.getD (j % k) (0, 0)
  w.1 * stackLines + granLines * (w.2 + j / k) + (o % granBytes) / 64

/-- HBM key of byte offset o of a region. -/
def regionKey (r : Region) (o : Nat) : Nat := 64 * regionLine r o + o % 64

/-- `n` bytes of a region from offset o. -/
def regionRead (d : Dev) (r : Region) (o n : Nat) : List Byte :=
  (List.range n).map (fun i => tget Config.hbmFill d.mem.hbm (regionKey r (o + i)))

/-- Whether any line under `n` bytes of a region from offset o is poisoned. -/
def regionPoisoned (d : Dev) (r : Region) (o n : Nat) : Bool :=
  (List.range (ceilDiv (o % 64 + n) 64)).any (fun i => poisoned d (regionLine r (o - o % 64 + 64 * i)))

/-- Store bytes into a region from offset o; lines written whole lose their poison (R358). -/
def regionWrite (d : Dev) (r : Region) (o : Nat) (bs : List Byte) : Dev :=
  let d1 := (List.range bs.length).foldl (fun d i =>
    let k := regionKey r (o + i)
    if stkFenced d (k / 64 / stackLines) then d else hbmPut d k (bs.getD i 0)) d
  (List.range (ceilDiv (o % 64 + bs.length) 64)).foldl (fun d i =>
    let b := o - o % 64 + 64 * i
    if o ≤ b ∧ b + 64 ≤ o + bs.length then setPoison d (regionLine r b) false else d) d1

/-- Granules of a way's run (R371). -/
def runLen (r : Region) : Nat := ceilDiv r.size (max 1 r.ways.length)

/-- Runs in use on a stack: (base, granules) of regions, of moves' destinations, and of retired granules. -/
def usedRuns (d : Dev) (k : Nat) : List (Nat × Nat) :=
  d.mem.regions.flatMap (fun e =>
    if e.2.valid then (e.2.ways.filter (fun w => w.1 = k)).map (fun w => (w.2, runLen e.2)) else [])
  ++ d.mem.evacs.filterMap (fun v => match v.dest with
    | some (s, b) => if s = k then some (b, runLen (regionAt d v.region)) else none
    | none => none)
  ++ d.mem.retired.filterMap (fun e => if e.1 / 40960 = k ∧ e.2 then some (e.1 % 40960, 1) else none)

/-- Free granules of a stack (R393). -/
def freeGrans (d : Dev) (k : Nat) : Nat := 40960 - (usedRuns d k).foldl (fun a u => a + u.2) 0

/-- The lowest free run of n granules on a stack; which run the device takes is a DESIGN CHOICE (log 15). -/
def freeRun (d : Dev) (k n : Nat) : Option Nat :=
  let u := usedRuns d k
  let ok := fun b => decide (b + n ≤ 40960) && u.all (fun x => decide (b + n ≤ x.1 ∨ x.1 + x.2 ≤ b))
  (0 :: u.map (fun x => x.1 + x.2)).foldl (fun best b =>
    if ok b then (match best with | some c => some (min b c) | none => some b) else best) none

/-- Of `ks`, the stack with the most free granules, the lower number on a tie (R371). -/
def bestStack (d : Dev) : List Nat → Option Nat
  | [] => none
  | k :: ks => match bestStack d ks with
    | none => some k
    | some j => if freeGrans d k ≥ freeGrans d j then some k else some j

/-- Choose n stacks in the order of R371. -/
def chooseStacks (d : Dev) : Nat → List Nat → List Nat
  | 0, _ => []
  | n + 1, ks => match bestStack d ks with
    | none => []
    | some k => k :: chooseStacks d n (ks.filter (· ≠ k))

/-- The lowest free span of n 64 KiB units of the 65,536 of region 6 (R377). -/
def freeShadow (d : Dev) (n : Nat) : Option Nat :=
  let u := d.mem.regions.filterMap (fun e =>
    if e.2.valid ∧ (e.2.cls = 2 ∨ e.2.cls = 3) then some (e.2.shadow / 65536, e.2.size) else none)
  let ok := fun b => decide (b + n ≤ 65536) && u.all (fun x => decide (b + n ≤ x.1 ∨ x.1 + x.2 ≤ b))
  (0 :: u.map (fun x => x.1 + x.2)).find? ok

/-- Place a region at a free index (R371): stacks in NORMAL, contiguous runs, residue shadow for METRO and ACCUM. -/
def placeRegion (d : Dev) (i : Nat) (secure pinned scrub : Bool) (cls size ways : Nat) : Option Dev :=
  let normal := (List.range 16).filter (fun k => stkState d k = 0)
  let k := if ways = 0 then normal.length else ways
  let n := ceilDiv size (max 1 k)
  let fit := normal.filter (fun s => (freeRun d s n).isSome)
  if k = 0 ∨ fit.length < k then none
  else
    let ws := (chooseStacks d k fit).map (fun s => (s, (freeRun d s n).getD 0))
    if cls = 2 ∨ cls = 3 then
      match freeShadow d size with
      | none => none
      | some sh => some (regionPut d i ⟨true, secure, pinned, scrub, cls, (regionAt d i).gen, size, ws, sh * 65536⟩)
    else some (regionPut d i ⟨true, secure, pinned, scrub, cls, (regionAt d i).gen, size, ws, 0⟩)

/-- The lowest software descriptor not in use (R368). -/
def freeRegion (d : Dev) : Option Nat :=
  ((List.range 4080).map (· + 16)).find? (fun i => !(regionAt d i).valid)

/-- Free a region: its granules, and its generation rises by 1 (R372). -/
def dropRegion (d : Dev) (i : Nat) : Dev :=
  let r := regionAt d i
  let d := { d with mem := { d.mem with evacs := d.mem.evacs.filter (fun v => v.region ≠ i) } }
  regionPut d i { Region.free with gen := (r.gen + 1) % 65536 }

/-! ## Buffer pools (R360 to R364) -/

/-- Take n pointers from the banks, the station's own first, then from the ring (R362). -/
def takePtrs (p : Pool) (st n : Nat) : Pool :=
  let r := (List.range 16).foldl (fun (a : List Nat × Nat) i =>
    let b := (st + i) % 16
    let t := min a.2 (a.1.getD b 0)
    (a.1.modify b (· - t), a.2 - t)) (p.banks, n)
  { p with banks := r.1, ring := p.ring - r.2 }

/-- Give n pointers back to a station's bank, beyond 256 to the ring; `total` is the pool's granules. Answers how many
frees found the ring full (R363). -/
def givePtrs (p : Pool) (total st n : Nat) : Pool × Nat :=
  let b := p.banks.getD st 0
  let t := min n (256 - b)
  let room := total - p.ring
  ({ p with banks := p.banks.modify st (· + t), ring := p.ring + min (n - t) room }, n - t - min (n - t) room)

def poolFree (p : Pool) : Nat := p.banks.foldl (· + ·) 0 + p.ring

def sramTotal : Nat := 3728270
def hpoolTotal : Nat := 16777216

/-- Granules of a frame or buffer of n bytes (R360). -/
def gransOf (n : Nat) : Nat := ceilDiv n 288

/-- Quota of an SRAM class in granules (R361); retired granules lower that of the transit class. -/
def quotaOf (d : Dev) (c : Nat) : Nat :=
  fget d (Reg.MEM_QUOTA c) Fd.MEM_QUOTA_quota * 1048576 / 288 - (if c = 1 then d.mem.sram.retired else 0)

/-- Ask for n granules of an SRAM class for a station; granted whole or refused whole (R361). -/
def poolAlloc (d : Dev) (c st n : Nat) : Bool × Dev :=
  let p := d.mem.sram
  if p.used.getD c 0 + n ≤ quotaOf d c ∧ n ≤ poolFree p then
    (true, { d with mem := { d.mem with sram := { takePtrs p st n with used := p.used.modify c (· + n) } } })
  else (false, raiseOnce (bump d Reg.MEM_QUOTA_REFUSE_CNT) 945 c)

/-- Free n granules of an SRAM class to a station's bank. -/
def poolFreeGrans (d : Dev) (c st n : Nat) : Dev :=
  let r := givePtrs d.mem.sram sramTotal st n
  let d := { d with mem := { d.mem with sram := { r.1 with used := r.1.used.modify c (· - n) } } }
  if r.2 = 0 then d else bump d Reg.MEM_EXTRA_FREE_CNT r.2

/-- Shares of the HBM pool (R360): 0 OVERFLOW, 1 METRO. -/
def hpoolShare (c : Nat) : Nat := if c = 0 then 2097152 else 14680064

/-- Granules of 2 KiB that a frame of n bytes takes (R306). -/
def hgransOf (n : Nat) : Nat := ceilDiv n 2048

def hpoolAlloc (d : Dev) (c n : Nat) : Option Dev :=
  let p := d.mem.hpool
  if p.used.getD c 0 + n ≤ hpoolShare c ∧ n ≤ poolFree p then
    some { d with mem := { d.mem with hpool := { takePtrs p 0 n with used := p.used.modify c (· + n) } } }
  else none

def hpoolFreeGrans (d : Dev) (c n : Nat) : Dev :=
  let r := givePtrs d.mem.hpool hpoolTotal 0 n
  let d := { d with mem := { d.mem with hpool := { r.1 with used := r.1.used.modify c (· - n) } } }
  if r.2 = 0 then d else bump d Reg.MEM_EXTRA_FREE_CNT r.2

end Sys2Proof.Machine
end

