-- ==== Sys2Proof/Machine/Log.lean ====
section
/-! DEFINITION. The record of inputs (08 R266 to R272), the log that holds it (14 R458 to R460) and its comparison under replay. -/

namespace Sys2Proof.Machine

/-- Bytes of the log region (R458). -/
def logSize (d : Dev) : Nat := granBytes * rg d Reg.CKP_LOG_SIZE

def partnerState (d : Dev) : Nat := fget d Reg.CKP_STATUS Fd.CKP_STATUS_partner_state

/-- Sequence below which entries are freed (R459). -/
def logFreed (d : Dev) : Nat :=
  if d.ckp.bound then min (rg64 d Reg.LOG_MIRRORED_0) (rg64 d Reg.LOG_DURABLE_0) else rg64 d Reg.LOG_DURABLE_0

def logLive (d : Dev) : List LogEnt := d.log.filter (fun e => logFreed d ≤ e.seq)

/-- Offset at which the next entry would start, before a lap (R458). -/
def logNext (d : Dev) : Nat := match d.log.getLast? with
  | some e => e.off + e.bytes.length
  | none => 0

/-- Bytes of the live part (R460). -/
def logUsed (d : Dev) : Nat := match (logLive d).head? with
  | none => 0
  | some e => if logNext d > e.off then logNext d - e.off else logSize d - e.off + logNext d

/-- Only the reserve, the last 1/64 of the region, is left (R460). -/
def logFull (d : Dev) : Bool := decide (logUsed d ≥ logSize d - logSize d / 64)

/-- The whole entry (R267): header, body, padding, CRC-32C. -/
def entryBytes (typ seq : Nat) (time : List Byte) (ctx epoch step : Nat) (body : List Byte) : List Byte :=
  let n := ceilDiv (32 + body.length) 8
  let e := [BitVec.ofNat 8 typ, 0] ++ beBytes 2 n ++ beBytes 6 seq ++ time ++ beBytes 2 ctx ++ beBytes 2 epoch ++ beBytes 4 step ++ body
  let p := e ++ List.replicate (8 * n - 4 - e.length) 0
  p ++ beBytes 4 (crc32c p)

/-! ### Replay (R270 to R272) -/

def replayActive (d : Dev) : Bool := fbit d Reg.REPLAY_CTRL Fd.REPLAY_CTRL_active

def entTyp (e : List Byte) : Nat := field e 0 1

/-- The replay key of an entry (R268), the start tick of a HUDDLE entry less `off` ticks. -/
def entKey (e : List Byte) (off : Int) : List Nat :=
  match entTyp e with
  | 0x01 => [1, field e 35 3, field e 44 2]
  | 0x06 => [6, field e 20 2, unsigned 32 ((field e 28 4 : Int) - off)]
  | 0x07 => [7, field e 28 2, field e 24 4]
  | 0x08 => [8, field e 28 4]
  | 0x02 => [2, field e 20 2, field e 24 4, field e 28 2, field e 30 1]
  | 0x03 => [3, field e 20 2, field e 24 4, field e 28 2, field e 30 1, field e 31 4, field e 35 2]
  | 0x04 => [4, field e 20 2, field e 24 4, field e 28 2, field e 30 1, field e 31 4]
  | 0x05 => [5, field e 20 2, field e 24 4, field e 28 2, field e 30 1]
  | _ => []

def zeroAt (e : List Byte) (o n : Nat) : List Byte :=
  e.take o ++ List.replicate (min n (e.length - o)) 0 ++ e.drop (o + n)

/-- Where an entry holds bell times: its header, the late limit of a BUCKET entry, and in the parameters of a COMMAND the late limit that a
BUCKET_OPEN gives and the base time of a GATE_LOAD (R268, R501, R505). -/
def entTimes (e : List Byte) : List Nat :=
  [10] ++ (if entTyp e = 0x02 then [44] else [])
    ++ (if entTyp e = 0x01 ∧ field e 44 2 = 0x0101 ∧ bit (field e 69 1) 5 then [88] else [])
    ++ (if entTyp e = 0x01 ∧ field e 44 2 = 0x0601 then [64] else [])

/-- What R272 compares of an entry: its sequence left out, and the CRC that covers it; bell times, moved back by the tick offset, where cmp_time asks
for them. -/
def entCmp (e : List Byte) (time : Bool) (shift : Int) (ticks : Int) : List Byte :=
  let e := zeroAt (e.take (e.length - 4)) 4 6
  let e := if entTyp e = 0x06 then e.take 28 ++ beBytes 4 (unsigned 32 ((field e 28 4 : Int) - ticks)) ++ e.drop 32 else e
  (entTimes e).foldl (fun e o =>
    if time then e.take o ++ beBytes 8 (unsigned 64 ((field e o 8 : Int) - shift)) ++ e.drop (o + 8) else zeroAt e o 10) e

/-- Compare a formed entry with the recorded one of its type and key (R272); a COMMAND entry with the first of its key not yet met. -/
def replayCompare (d : Dev) (e : List Byte) : Dev :=
  if !replayActive d || entTyp e = 0x09 then d
  else
    let k := entKey e d.bell.repOff
    match (List.range d.bell.replay.length).find? (fun i =>
        !(d.bell.repDone.contains i) && entKey (d.bell.replay.getD i []) 0 == k) with
    | none => d
    | some i =>
      let r := d.bell.replay.getD i []
      let d := { d with bell := { d.bell with repDone := i :: d.bell.repDone } }
      let t := fbit d Reg.REPLAY_CTRL Fd.REPLAY_CTRL_cmp_time
      if entCmp e t (d.bell.repOff * tickLen d) d.bell.repOff = entCmp r t 0 0 then d
      else
        let d1 := bump d Reg.REPLAY_DIFF_CNT
        if fbit d Reg.REPLAY_CTRL Fd.REPLAY_CTRL_diff then d1
        else
          let d1 := fset (rg64Put d1 Reg.REPLAY_DIFF_SEQ_0 (field r 4 6)) Reg.REPLAY_CTRL Fd.REPLAY_CTRL_diff 1
          unitFault d1 Reg.BELL_FAULT Fd.BELL_FAULT_replay_diff 908

/-- The recorded entry of a type and key, while replay is active (R271). -/
def replayFind (d : Dev) (key : List Nat) : Option (List Byte) :=
  if replayActive d then d.bell.replay.find? (fun e => entKey e 0 == key) else none

/-! ### Appending -/

/-- Append an entry (R266, R458, R460): into the log region, mirrored to the partner as R463 states, compared under replay. -/
def append (d : Dev) (typ ctx epoch step : Nat) (body : List Byte) (time : Option (List Byte) := none) : Dev :=
  let seq := rg64 d Reg.RECORD_SEQ_0
  let e := entryBytes typ seq (time.getD (timeBytes d)) ctx epoch step body
  let d1 := rg64Put d Reg.RECORD_SEQ_0 ((seq + 1) % 2 ^ 48)
  let lap := decide (logNext d + e.length > logSize d)
  let off := if lap then 0 else logNext d
  let need := if lap then logSize d - logNext d + e.length else e.length
  let d2 := replayCompare d1 e
  if logUsed d + need > logSize d then
    raise (fset (bump d2 Reg.LOG_DROP_CNT) Reg.CKP_STATUS Fd.CKP_STATUS_log_gap 1) 1002
  else
    let r := regionAt d 7
    let d3 := bump (if r.valid then
      regionWrite (if lap then regionWrite d2 r (logNext d) (List.replicate (min 8 (logSize d - logNext d)) 0) else d2) r off e
      else d2) Reg.RECORD_ENTRY_CNT
    let d4 := { d3 with log := d3.log ++ [⟨seq, ns d, off, e⟩] }
    let fill := if lap ∧ logNext d < logSize d then [(0, logNext d, List.replicate (logSize d - logNext d) 0, false)] else []
    let d5 := if partnerState d = 1 ∨ partnerState d = 2 then
      { d4 with ckp := { d4.ckp with outbox := d4.ckp.outbox ++ fill ++ [(0, off, e, false)] } } else d4
    let mark := fget d Reg.CKP_CTRL Fd.CKP_CTRL_warn * logSize d
    if logUsed d * 256 < mark ∧ mark ≤ (logUsed d + need) * 256 then raise d5 1001 else d5

end Sys2Proof.Machine
end

