-- ==== Sys2Proof/Machine/Frames.lean ====
section
/-! DEFINITION. Fabric frames (09 R287 to R294), ports and links, egress queues and their schedulers (10 R323 to R331, R339 to R344),
mirroring and capture. A frame is held as its bytes without the frame check of R434. An egress is a link 0 to 127, or 128 + g for the
second half of G-link 96 + g. -/

namespace Sys2Proof.Machine

/-! ## The pass header (R287) -/

def byteAt (b : List Byte) (i : Nat) : Nat := (b.getD i 0).toNat

def setByte (b : List Byte) (i v : Nat) : List Byte := b.modify i (fun _ => BitVec.ofNat 8 v)

/-- Replace bytes from offset o. -/
def setBytes (b : List Byte) (o : Nat) (v : List Byte) : List Byte := b.take o ++ v ++ b.drop (o + v.length)

def fVer (b : List Byte) : Nat := byteAt b 0 / 16
def fKind (b : List Byte) : Nat := byteAt b 0 % 16
def fVc (b : List Byte) : Nat := byteAt b 1 / 32
def fSched (b : List Byte) : Bool := bit (byteAt b 1) 4
def fCe (b : List Byte) : Bool := bit (byteAt b 1) 2
def fEce (b : List Byte) : Bool := bit (byteAt b 1) 1
def fSyn (b : List Byte) : Bool := bit (byteAt b 1) 0
def fHop (b : List Byte) : Nat := byteAt b 2 / 16
def fMc (b : List Byte) : Bool := bit (byteAt b 2) 3
def fBlocks (b : List Byte) : Nat := byteAt b 3 % 16
def fDst (b : List Byte) : Nat := field b 4 3
def fSrc (b : List Byte) : Nat := field b 7 3
def fSeq (b : List Byte) : Nat := field b 10 4
def fPin (b : List Byte) : Bool := bit (byteAt b 14) 7
def fRoute (b : List Byte) : Nat := bits (byteAt b 14) 6 5
def fIdx (b : List Byte) : Nat := byteAt b 14 % 16

def setBit1 (b : List Byte) (i : Nat) (v : Bool) : List Byte := setByte b 1 (putBit (byteAt b 1) i v)

/-- Length of a frame with its frame check (R434). -/
def fLen (b : List Byte) : Nat := b.length + 8

/-- The frame check (R434). -/
def frameCheck (b : List Byte) : List Byte := beBytes 4 (crc32c b) ++ beBytes 2 (fLen b) ++ beBytes 2 0

/-- The inverted frame check of R297 and R344. -/
def stompCheck (b : List Byte) : List Byte := beBytes 4 (crc32c b ^^^ 0xFFFF_FFFF) ++ beBytes 2 (fLen b) ++ beBytes 2 0

/-- Kinds delivered in order (R288). -/
def reordered (k : Nat) : Bool := k == 0 || k == 5 || k == 7 || k == 8

/-- Fields of a coordinate (R15). -/
def cGroup (c : Nat) : Nat := c / 131072
def cSwitch (c : Nat) : Nat := c / 2048 % 64
def cPort (c : Nat) : Nat := c / 16 % 128
def cSub (c : Nat) : Nat := c % 16

def coord (g s p x : Nat) : Nat := g * 131072 + s * 2048 + p * 16 + x

def selfG (d : Dev) : Nat := fget d Reg.RTE_SELF Fd.RTE_SELF_group
def selfS (d : Dev) : Nat := fget d Reg.RTE_SELF Fd.RTE_SELF_switch

/-- This switch's management and host coordinates (R281). -/
def mgmtCoord (d : Dev) : Nat := coord (selfG d) (selfS d) 127 15
def hostCoord (d : Dev) : Nat := coord (selfG d) (selfS d) 127 14

/-- A header (R287): kind, VC, destination, source. -/
def mkHeader (kind vc dst src : Nat) : List Byte :=
  [BitVec.ofNat 8 (16 + kind), BitVec.ofNat 8 (vc * 32), 0, 0] ++ beBytes 3 dst ++ beBytes 3 src ++ List.replicate 22 0

/-! ## Ports and links -/

/-- Link of an egress. -/
def egLink (e : Nat) : Nat := if e < 128 then e else e - 32

def isSplit (d : Dev) (l : Nat) : Bool := fbit d (Reg.LINK_PORT l) Fd.LINK_PORT_split

/-- Logical port that an egress has joined (R283): `member` speaks of the link or its first half, port_b is valid while split is 1 (R322). -/
def egPort (d : Dev) (e : Nat) : Option Nat :=
  let a := Reg.LINK_PORT (egLink e)
  if e < 128 then (if fbit d a Fd.LINK_PORT_member then some (fget d a Fd.LINK_PORT_port) else none)
  else if fbit d a Fd.LINK_PORT_split then some (fget d a Fd.LINK_PORT_port_b) else none

/-- Step of a link (R424); 9 is IN_SERVICE. -/
def linkStep (d : Dev) (l : Nat) : Nat := fget d (Reg.LINK_STATUS l) Fd.LINK_STATUS_step

def linkUp (d : Dev) (l : Nat) : Bool := decide (linkStep d l = 9)

/-- Rate of an egress in units of 100 Mb/s (R283). -/
def egRate (d : Dev) (e : Nat) : Nat := if e ≥ 128 ∨ isSplit d e then 8000 else 16000

/-- Egresses of a port, by ascending link: LINK_PORT resets to 0, so only written words name members. -/
def portEgs (d : Dev) (p : Nat) : List Nat :=
  (d.regs.filter (fun r => decide (Reg.LINK_PORT 0 ≤ r.1 ∧ r.1 ≤ Reg.LINK_PORT 127))).flatMap (fun r =>
    let l := (r.1 - Reg.LINK_PORT 0) / 4
    (if egPort d l = some p then [l] else []) ++ (if egPort d (l + 32) = some p ∧ 96 ≤ l then [l + 32] else []))

/-- Egresses of a port whose link is in service (R285). -/
def portUp (d : Dev) (p : Nat) : List Nat := (portEgs d p).filter (fun e => linkUp d (egLink e))

def portEn (d : Dev) (p : Nat) : Bool := fbit d (Reg.PORT_CFG p) Fd.PORT_CFG_en

/-- Kind of a port (R282): 0 ENDPOINT, 1 LOCAL, 2 GLOBAL, 3 RESERVED. -/
def portKind (d : Dev) (p : Nat) : Nat := fget d (Reg.PORT_CFG p) Fd.PORT_CFG_kind

/-- In service (R285). -/
def portLive (d : Dev) (p : Nat) : Bool := portEn d p && !(portUp d p).isEmpty

/-- Rate of a port in units of 100 Mb/s. -/
def portRate (d : Dev) (p : Nat) : Nat := ((portUp d p).map (egRate d)).foldl (· + ·) 0

/-- Measured skew of a port (R286), in units of 2^-8 ns. -/
def portSkew (d : Dev) (p : Nat) : Nat :=
  let ds := (portUp d p).map (fun e => signed 32 (rg d (Reg.BELL_LINK_DELAY (egLink e))))
  match ds with
  | [] => 0
  | x :: xs => (xs.foldl max x - xs.foldl min x).toNat

/-! ## Choosing a link (R293, R294) -/

def hashKey (b : List Byte) : Nat := fSeq b * 2 ^ 32 + ((fSrc b ^^^ fDst b) * 256) + fVc b * 16 + fHop b

/-- The two choices of R293 among n links. -/
def twoChoices (b : List Byte) (n : Nat) : Nat × Nat :=
  let h := scramble (hashKey b)
  (h / 2 ^ 32 * n / 2 ^ 32, h % 2 ^ 32 * n / 2 ^ 32)

/-- Link of a port for a destination and VC (R294), among its links in service. -/
def localPick (d : Dev) (p dst vc : Nat) : Option Nat :=
  let m := portUp d p
  m[scramble (dst * 256 + vc * 16) / 2 ^ 32 * m.length / 2 ^ 32]?

def subQ (b : List Byte) (vc : Nat) : Nat :=
  if vc = 0 then 0 else scramble (fSrc b / 2048 % 8192 * 2 ^ 32 + fDst b * 256 + vc * 16) / 2 ^ 61

def queueOf (d : Dev) (e v k : Nat) : List QFrame := tget [] d.tm.queues (e * 64 + v * 8 + k)

def qBytes (q : List QFrame) : Nat := q.foldl (fun a f => a + fLen f.bytes) 0

/-- Depth of a VC on a link (R324). -/
def depth (d : Dev) (e v : Nat) : Nat := (List.range 8).foldl (fun a k => a + qBytes (queueOf d e v k)) 0

/-- Ports of a routing entry that may be used, in route order (R290). -/
def candPorts (d : Dev) (w : Nat) : List Nat :=
  (List.range 4).filterMap (fun k =>
    let p := bits w (8 * k + 6) (8 * k)
    if bit w (8 * k + 7) ∧ portLive d p ∧ (portKind d p = 1 ∨ portKind d p = 2) then some p else none)

/-- Where the next hop of a frame is (R290). -/
inductive Hop where
  | huddle
  | mgmt
  | host
  | port (p : Nat)
  | away (cand : List Nat)
  | drop
deriving DecidableEq, Repr

def nextHop (d : Dev) (b : List Byte) : Hop :=
  let t := fDst b
  if fKind b = 6 then .huddle
  else if cGroup t = 127 then .drop
  else if cGroup t = selfG d ∧ cSwitch t = selfS d then
    if cPort t = 127 ∧ cSub t = 15 then .mgmt
    else if cPort t = 127 ∧ cSub t = 14 then .host
    else if portLive d (cPort t) ∧ (portKind d (cPort t) = 0 ∨ portKind d (cPort t) = 3) then .port (cPort t)
    else .drop
  else
    let w := if cGroup t = selfG d then rg d (Reg.RTE_SW (cSwitch t)) else rg d (Reg.RTE_GRP (cGroup t))
    match candPorts d w with
    | [] => .drop
    | c => .away c

/-- Link of the candidate set for a frame bound for another switch (R293). -/
def awayPick (d : Dev) (b : List Byte) (cand : List Nat) : Option Nat :=
  if fPin b then
    let p := cand.getD (fRoute b % cand.length) 0
    let m := portUp d p
    m[fIdx b % m.length]?
  else
    let ls := cand.flatMap (portUp d)
    let c := twoChoices b ls.length
    match ls[c.1]?, ls[c.2]? with
    | some x, some y => if depth d y (fVc b) < depth d x (fVc b) then some y else some x
    | _, _ => none

def reboundThresh (d : Dev) : Nat := 2048 * fget1 d Reg.RTE_REBOUND Fd.RTE_REBOUND_thresh

/-- The rebound target (R300): links of enabled LOCAL ports other than those in `cand`. -/
def reboundPick (d : Dev) (b : List Byte) (cand : List Nat) : Option Nat :=
  let ports := (List.range 128).filter (fun p => portEn d p && decide (portKind d p = 1) && !(cand.contains p))
  let ls := ports.flatMap (portUp d)
  let c := twoChoices b ls.length
  let ok := fun (o : Option Nat) => match o with
    | some e => if depth d e (fVc b) > reboundThresh d then none else some e
    | none => none
  match ok ls[c.1]?, ok ls[c.2]? with
  | some x, some y => if depth d y (fVc b) < depth d x (fVc b) then some y else some x
  | some x, none => some x
  | none, o => o

/-! ## Buffers (R36, R364) -/

def bufNew (d : Dev) (refs grans cls : Nat) : Nat × Dev :=
  (d.tm.nextBuf, { d with tm := { d.tm with nextBuf := d.tm.nextBuf + 1,
                                            bufs := tset Buf.none d.tm.bufs d.tm.nextBuf ⟨refs, grans, cls⟩ } })

/-- Subtract one reference; at 0 the granules are freed to the station's bank (R364). -/
def bufDrop (d : Dev) (i st : Nat) : Dev :=
  let b := tget Buf.none d.tm.bufs i
  if b.refs ≤ 1 then
    poolFreeGrans { d with tm := { d.tm with bufs := tdel d.tm.bufs i } } b.cls st b.grans
  else { d with tm := { d.tm with bufs := tset Buf.none d.tm.bufs i { b with refs := b.refs - 1 } } }

/-- A frame leaves its queue for good: its granules or its reference are released (R36). -/
def release (d : Dev) (e : Nat) (f : QFrame) : Dev :=
  match f.buf with
  | some i => bufDrop d i (egLink e / 8)
  | none => if f.grans = 0 then d else poolFreeGrans d f.cls (egLink e / 8) f.grans

/-! ## Capture (R342, R343) -/

/-- Write a capture record where the filter selects it: direction 0 in, 1 out; event as R342 numbers it. -/
def capture (d : Dev) (dir e port v ev : Nat) (b : List Byte) : Dev :=
  let c := Reg.TM_CAP_CTRL
  let sel := fbit d c Fd.TM_CAP_CTRL_en
    && (fbit d c Fd.TM_CAP_CTRL_all_ports || decide (fget d c Fd.TM_CAP_CTRL_cap_port = port))
    && bit (fget d c Fd.TM_CAP_CTRL_vc_mask) v
    && (if ev = 0 then !fbit d c Fd.TM_CAP_CTRL_drops_only
          && (decide (fget d c Fd.TM_CAP_CTRL_dir ≥ 2) || decide (fget d c Fd.TM_CAP_CTRL_dir = dir))
        else true)
  if !sel then d
  else
    let r := timeBytes d ++ beBytes 1 (egLink e) ++ beBytes 1 (dir * 128 + v * 16 + ev) ++ beBytes 2 (fLen b)
      ++ beBytes 2 (min 65535 (depth d e v / 2048)) ++ padMin 44 (b.take 44)
    let r := r ++ beBytes 4 (crc32c r)
    let lost := raiseOnce (bump d Reg.TM_CAP_DROP_CNT) 923 0
    match regionOf d (rg d Reg.TM_CAP_REGION) with
    | none => lost
    | some (_, reg) =>
      let n := regionBytes reg / 64
      let h := rg d Reg.TM_CAP_HEAD
      if (h + 1) % n = rg d Reg.TM_CAP_TAIL then lost
      else bump (rgPut (regionWrite d reg (64 * h) r) Reg.TM_CAP_HEAD ((h + 1) % n)) Reg.TM_CAP_CNT

/-! ## WFQ tags (R327), 48 bits modulo 2^48 -/

def tmod48 : Nat := 2 ^ 48

/-- a before b, modulo 2^48. -/
def tagLt (a b : Nat) : Bool := decide (a ≠ b ∧ (b + tmod48 - a % tmod48) % tmod48 < tmod48 / 2)

def tagMax (a b : Nat) : Nat := if tagLt a b then b else a

def upperOf (d : Dev) (e : Nat) : Level := tget Level.zero d.tm.upper e
def lowerOf (d : Dev) (e v : Nat) : Level := tget Level.zero d.tm.lower (e * 8 + v)

def upperPut (d : Dev) (e : Nat) (x : Level) : Dev := { d with tm := { d.tm with upper := tset Level.zero d.tm.upper e x } }
def lowerPut (d : Dev) (e v : Nat) (x : Level) : Dev :=
  { d with tm := { d.tm with lower := tset Level.zero d.tm.lower (e * 8 + v) x } }

/-- TM_WFQ of an egress and VC: weight (0 taken as 1) and burst in bytes (R352). -/
def wfqReg (e v : Nat) : Nat := if e < 128 then Reg.TM_WFQ e v else Reg.TM_WFQ_B (egLink e) v

def weight (d : Dev) (e v : Nat) : Nat := max 1 (bits (rg d (wfqReg e v)) 7 0)
def burst (d : Dev) (e v : Nat) : Nat := 256 * bits (rg d (wfqReg e v)) 31 16

def finish (s len w : Nat) : Nat := (s + ceilDiv (len * 256) w) % tmod48

/-- Member with the smallest finish tag among `ks`, the lower on a tie. -/
def pickTag (m : List Tag) : List Nat → Option Nat
  | [] => none
  | k :: ks => match pickTag m ks with
    | none => some k
    | some j => if tagLt (m.getD j Tag.zero).f (m.getD k Tag.zero).f then some j else some k

/-- Sub-queues of a VC that hold a frame. -/
def busySubs (d : Dev) (e v : Nat) : List Nat := (List.range 8).filter (fun k => !(queueOf d e v k).isEmpty)

/-- The sub-queue whose head frame is the head frame of the VC (R327). -/
def headSub (d : Dev) (e v : Nat) : Option Nat :=
  if v = 0 then (busySubs d e 0).head? else pickTag (lowerOf d e v).m (busySubs d e v)

/-- The upper-level finish tag follows the VC's head frame; `wake` sets the start tag of a member that was empty. -/
def retag (d : Dev) (e v : Nat) (wake : Bool) : Dev :=
  if v = 0 then d
  else match headSub d e v with
    | none => d
    | some k =>
      let u := upperOf d e
      let t := u.m.getD v Tag.zero
      let s := if wake then tagMax t.l u.v else t.s
      if t.head = k + 1 ∧ !wake then d
      else
        let len := match queueOf d e v k with | f :: _ => fLen f.bytes | [] => 0
        upperPut d e { u with m := u.m.set v { t with s := s, f := finish s len (weight d e v), head := k + 1 } }

/-- A frame bound for an egress takes its place in the order in which frames were sent (R295). -/
def ordGive (d : Dev) (f : QFrame) : QFrame × Dev :=
  ({ f with ord := d.tm.nextOrd }, { d with tm := { d.tm with nextOrd := d.tm.nextOrd + 1 } })

/-- Add a frame at the end of its sub-queue, with the tags of R327. -/
def pushQ (d : Dev) (e v : Nat) (f : QFrame) : Dev :=
  let k := subQ f.bytes v
  let wakeV := (busySubs d e v).isEmpty
  let q := queueOf d e v k
  let d := { d with tm := { d.tm with queues := tset [] d.tm.queues (e * 64 + v * 8 + k) (q ++ [f]) } }
  let d := if q.isEmpty ∧ v ≠ 0 then
      let lo := lowerOf d e v
      let t := lo.m.getD k Tag.zero
      let s := tagMax t.l lo.v
      lowerPut d e v { lo with m := lo.m.set k { t with s := s, f := finish s (fLen f.bytes) 1, head := 1 } }
    else d
  retag d e v wakeV

/-- Take the head frame of a sub-queue and move the tags on (R327). -/
def popQ (d : Dev) (e v k : Nat) : Dev :=
  let q := (queueOf d e v k).drop 1
  let d := { d with tm := { d.tm with queues := tset [] d.tm.queues (e * 64 + v * 8 + k) q } }
  if v = 0 then d
  else
    let lo := lowerOf d e v
    let t := lo.m.getD k Tag.zero
    let t' := match q with
      | [] => { t with l := t.f, head := 0 }
      | g :: _ => { t with l := t.f, s := t.f, f := finish t.f (fLen g.bytes) 1 }
    let d := if (busySubs d e v).isEmpty then lowerPut d e v Level.zero
      else lowerPut d e v ⟨t.f, lo.m.set k t'⟩
    let u := upperOf d e
    let t := u.m.getD v Tag.zero
    if ((List.range 8).all (fun v => v = 0 ∨ (busySubs d e v).isEmpty)) then upperPut d e Level.zero
    else
      let d := upperPut d e ⟨t.f, u.m.set v { t with l := t.f, s := t.f, head := 0 }⟩
      retag d e v false

/-- Limit register of an egress and VC (R354). -/
def qcfgReg (e v : Nat) : Nat := if e < 128 then Reg.TM_QCFG e v else Reg.TM_QCFG_B (egLink e) v

/-- A frame joins its egress queue, or is dropped at the limit (R339; R341 for a mirror copy). -/
def enqueue (d : Dev) (e : Nat) (f : QFrame) : Dev :=
  let v := match f.mirror with
    | some m => fget d (Reg.TM_MIRROR_CTRL m) Fd.TM_MIRROR_CTRL_mirror_vc
    | none => fVc f.bytes
  let lim := 2048 * bits (rg d (qcfgReg e v)) 31 16
  let p := (egPort d e).getD 0
  if lim ≠ 0 ∧ depth d e v + fLen f.bytes > lim then
    match f.mirror with
    | some m => capture (raiseOnce (bump (release d e f) Reg.TM_MIRROR_DROP_CNT) 922 m) 1 e p v 4 f.bytes
    | none => capture (raiseOnce (bump (release d e f) Reg.TM_QDROP_CNT) 920 (e * 8 + v)) 1 e p v 1 f.bytes
  else pushQ d e v f

/-! ## Corridors (R308 to R310): stations 0 to 15 ports, 16 to 31 desks, 32 to 47 HBM, 48 to 51 lessons, 52 management (R18; log 16). -/

def stMgmt : Nat := 52
def stDesk (p : Nat) : Nat := 16 + p / 17
def stHbm (k : Nat) : Nat := 32 + k

/-- Direction with fewer segments (R309). -/
def slotDir (src dst : Nat) : Nat := if (dst + 53 - src) % 53 ≤ 26 then 0 else 1

/-- A frame for an egress that goes onto a corridor takes its place in the order of frames sent (R295). -/
def cargoOrd (d : Dev) (c : Cargo) : Cargo × Dev :=
  match c with
  | .egress e f => let r := ordGive d f; (.egress e r.1, r.2)
  | c => (c, d)

/-- `n` slots wait at their station; the last brings the cargo. -/
def slotsN (d : Dev) (corr src dst n : Nat) (c : Cargo) : Dev :=
  let r := cargoOrd d c
  let sl := fun x => Slot.mk corr (slotDir src dst) src dst src x
  { r.2 with rte := { r.2.rte with waitS := r.2.rte.waitS ++ List.replicate (n - 1) (sl .part) ++ [sl r.1] } }

/-- A slot for each two granules of a frame of `len` bytes (R18). -/
def slotsFor (d : Dev) (corr src dst len : Nat) (c : Cargo) : Dev := slotsN d corr src dst (ceilDiv (gransOf len) 2) c

/-- Data corridor of a transit frame (R308). -/
def transitCorr (srcPort dstPort v : Nat) : Nat :=
  scramble (srcPort * 1024 + dstPort * 8 + v) / 2 ^ 16 % 2 ^ 32 * 15 / 2 ^ 32

/-- How a frame came to its corridor: through a logical port (127 for the management station), or as blocks of a chunk, whose data corridor
follows from the chunk (R20). -/
inductive Path where
  | port (p : Nat)
  | chunk (corr : Nat)
deriving DecidableEq, Repr

/-- The corridor of a frame (R19, R20, R30): 15 for command and reply frames on VC4 and for the COMMAND frames that begin or end at the
management station, else by R308. -/
def corrOf (b : List Byte) (path : Path) (dstPort : Nat) : Nat :=
  if fKind b = 5 ∧ (fVc b = 4 ∨ path = .port 127 ∨ dstPort = 127) then 15
  else match path with
    | .port p => transitCorr p dstPort (fVc b)
    | .chunk c => c

def egCorr (d : Dev) (b : List Byte) (path : Path) (e : Nat) : Nat := corrOf b path ((egPort d e).getD 0)

/-! ## Frames that the device sends itself -/

/-- Stamp the fabric sequence and SYN of a frame (R303); other kinds carry 0. -/
def stamp (d : Dev) (b : List Byte) : List Byte × Dev :=
  let b := setByte b 2 (byteAt b 2 % 16)
  let b := setBit1 b 3 false
  if reordered (fKind b) then
    let k := (cGroup (fDst b) * 64 + cSwitch (fDst b)) * 8 + fVc b
    let n := tget 0 d.rte.seqOut k
    (setBit1 (setBytes b 10 (beBytes 4 n)) 0 (!tget false d.rte.synOk k),
     { d with rte := { d.rte with seqOut := tset 0 d.rte.seqOut k ((n + 1) % 2 ^ 32), synOk := tset false d.rte.synOk k true } })
  else (setBit1 (setBytes b 10 (beBytes 4 0)) 0 false, d)

/-- First frame of a flow after its link left service follows the order fence (R295). -/
def flowFence (d : Dev) (p e : Nat) (b : List Byte) : Bool × Dev :=
  let k := ((p * 2 ^ 24 + fDst b) * 8) + fVc b
  let old := tget none d.rte.flowEg k
  (match old with | some x => decide (x ≠ e) | none => false,
   { d with rte := { d.rte with flowEg := tset none d.rte.flowEg k (some e) } })

def unreachable (d : Dev) : Dev := raise (bump d Reg.RTE_UNREACH_CNT) 913

/-- Give an echo owed to a source on a VC (R312) to this frame, if it goes there. -/
def takeEcho (d : Dev) (b : List Byte) : List Byte × Dev :=
  if d.rte.echoes.any (fun x => x.1 = fDst b ∧ x.2.1 = fVc b) then
    (setBit1 b 1 true, { d with rte := { d.rte with echoes := d.rte.echoes.filter (fun x => ¬(x.1 = fDst b ∧ x.2.1 = fVc b)) } })
  else (b, d)

/-- Send a frame toward its next hop from station `st`, on class `c` granules already held (`grans`) or in buffer `buf`; `fence` asks
for the order fence, `pass` names the attempt of a pencil or publication pass. -/
def sendFrom (d : Dev) (st : Nat) (path : Path) (b : List Byte) (colour cls grans : Nat) (buf : Option Nat) (fence orig : Bool)
    (pass : Option (Nat × Nat)) : Dev :=
  let o := if orig then takeEcho d b else (b, d)
  let b := o.1
  let d := o.2
  let f : QFrame := ⟨b, colour, cls, grans, buf, fence, 0, orig, none, pass⟩
  let free := fun d => if buf.isSome ∨ grans ≠ 0 then release d 0 f else d
  match nextHop d b with
  | .mgmt => slotsFor (free d) (corrOf b path 127) st stMgmt (fLen b) (.mgmt .self b 0)
  | .host => slotsFor (free d) (corrOf b path 127) st stMgmt (fLen b) (.host b)
  | .port p => match localPick d p (fDst b) (fVc b) with
    | none => unreachable (free d)
    | some e =>
      let r := flowFence d p e b
      slotsFor r.2 (egCorr d b path e) st (egLink e / 8) (fLen b) (.egress e { f with fence := fence || r.1 })
  | .away cand => match awayPick d b cand with
    | none => unreachable (free d)
    | some e =>
      if fbit d Reg.RTE_CTRL Fd.RTE_CTRL_rebound_en ∧ cGroup (fDst b) = selfG d ∧ !fSched b ∧ fVc b ≠ 0
          ∧ depth d e (fVc b) > reboundThresh d ∧ fHop b < 8 then
        match reboundPick d b cand with
        | some x => slotsFor (bump d Reg.RTE_REBOUND_CNT) (egCorr d b path x) st (egLink x / 8) (fLen b)
            (.egress x { f with bytes := setBit1 b 3 true })
        | none => slotsFor d (egCorr d b path e) st (egLink e / 8) (fLen b) (.egress e f)
      else slotsFor d (egCorr d b path e) st (egLink e / 8) (fLen b) (.egress e f)
  | .huddle => free d
  | .drop => unreachable (free d)

/-- A frame that the device originates at the management station, in the command class; refused by the quota it is not sent. -/
def originate (d : Dev) (b : List Byte) (fence : Bool := false) (pass : Option (Nat × Nat) := none) : Dev :=
  let b := padMin 56 b
  let g := gransOf (fLen b)
  let a := poolAlloc d 3 0 g
  if !a.1 then a.2
  else
    let s := stamp a.2 b
    sendFrom s.2 stMgmt (.port 127) s.1 0 3 g none fence true pass

end Sys2Proof.Machine
end

