-- ==== Sys2Proof/Machine/Codeword.lean ====
section
/-! DEFINITION. The link layer of a T-link (12 R397 to R402): codewords, link messages, the replay buffer, and the frames that a stream of codewords
carries; and the prefix of a frame on a G-link (R406). -/

namespace Sys2Proof.Machine

def dynOf (d : Dev) (l : Nat) : LinkDyn := tget LinkDyn.init d.lnk.dyn l
def dynPut (d : Dev) (l : Nat) (x : LinkDyn) : Dev := { d with lnk := { d.lnk with dyn := tset LinkDyn.init d.lnk.dyn l x } }
def dynMod (d : Dev) (l : Nat) (f : LinkDyn → LinkDyn) : Dev := dynPut d l (f (dynOf d l))

/-- ETHERNET mode of a G-link (R405). -/
def linkEther (d : Dev) (l : Nat) : Bool := decide (96 ≤ l) && fbit d (Reg.LINK_CTRL l) Fd.LINK_CTRL_g_mode

/-- The same of a link or half: the second half of a split G-link has a mode bit of its own (R405). -/
def egEther (d : Dev) (e : Nat) : Bool :=
  if e < 128 then linkEther d e else decide (96 ≤ egLink e) && fbit d (Reg.LINK_CTRL (egLink e)) Fd.LINK_CTRL_g_mode_b

/-- In service or draining: frames still pass. -/
def linkCarries (d : Dev) (l : Nat) : Bool := decide (linkStep d l = 9 ∨ linkStep d l = 10)

/-! ## Check bytes (R397) -/

/-- Generator polynomial with roots α^0 to α^(n−1), highest degree first. -/
def rsGen (m poly n : Nat) : List Nat :=
  (List.range n).foldl (fun g i => List.zipWith (· ^^^ ·) (g ++ [0]) (0 :: g.map (gfMul m poly (gfPow m poly 2 i)))) [1]

/-- The n check symbols of a word: its remainder by the generator. -/
def rsCheck (m poly n : Nat) (w : List Nat) : List Nat :=
  let g := (rsGen m poly n).drop 1
  w.foldl (fun r s => let f := r.headD 0 ^^^ s; List.zipWith (fun a b => a ^^^ gfMul m poly f b) (r.drop 1 ++ [0]) g) (List.replicate n 0)

/-- The 272 B codeword of 256 B of frame data and 4 B of link control. -/
def cwBytes (b : List Byte) : List Byte :=
  let half := fun e => (List.range 130).map (fun i => (b.getD (2 * i + e) 0).toNat)
  (padMin 260 b).take 260 ++ (rsCheck 8 fecPoly 6 (half 0) ++ rsCheck 8 fecPoly 6 (half 1)).map (BitVec.ofNat 8)

/-! ## Numbers (R399, R400): a codeword each 1.28 ns since step 5, numbered from 0 (log 30). The model counts on beyond 2^32. -/

/-- Number of the codeword that a T-link sends now. -/
def txSeq (d : Dev) (l : Nat) : Nat := let x := dynOf d l; x.txBase + (ns256 d - x.txAt) * 25 / 8192

/-- Lowest number that was never sent. -/
def txFresh (d : Dev) (l : Nat) : Nat := max (dynOf d l).txTop (txSeq d l + 1)

/-- The number after the one an ack of 32 bits names: the nearest that is not beyond what was sent. -/
def ackNext (d : Dev) (l ack : Nat) : Option Nat :=
  let hi := txFresh d l
  let back := (hi + 2 ^ 33 - (ack + 1)) % 2 ^ 32
  if back ≤ hi then some (hi - back) else none

/-! ## Link messages (R399, R406, R407) -/

/-- A link message of a type, NAK or not, for the window of codeword `seq`: a G-link's bytes 1 to 9 are 0. -/
def linkMsg (d : Dev) (l type : Nat) (nak : Bool) (seq : Nat) (body : List Byte) : List Byte :=
  let own := if l < 96 then
      [if nak then 0x80 else 0] ++ beBytes 4 (seq / 16 * 16 % 2 ^ 32) ++ beBytes 4 (((dynOf d l).rxNext.getD 0 + 2 ^ 32 - 1) % 2 ^ 32)
    else List.replicate 9 0
  (padMin 32 (beBytes 1 type ++ own ++ beBytes 4 0 ++ body)).take 32

/-- Send a link message: on a T-link it rides in the next window of 16 codewords, on a G-link in a PCS frame of its own. -/
def sendMessage (d : Dev) (l type : Nat) (nak : Bool) (body : List Byte) : Dev :=
  if l < 96 then
    let w := (txSeq d l + 15) / 16
    let m := linkMsg d l type nak (16 * w) body
    emit (dynMod d l (fun x => { x with chan := some (w, m) })) (.message l m)
  else emit d (.message l (linkMsg d l type nak 0 body))

/-- The identity of R407 that this device sends on a link. -/
def identBody (d : Dev) (l : Nat) : List Byte :=
  beBytes 3 (mgmtCoord d) ++ beBytes 1 l ++ beBytes 1 (if l < 96 then 0 else 0x80) ++ beBytes 8 Config.serial.toNat ++ beBytes 3 0

/-- The two bytes of the link channel in a codeword: its part of the message of its window, NULL where none was asked for. -/
def chanBytes (d : Dev) (l seq : Nat) : List Byte :=
  let x := dynOf d l
  let m := match x.chan with
    | some (w, m) => if w = seq / 16 then m else linkMsg d l 0 false seq []
    | none => linkMsg d l 0 false seq []
  (m.drop (2 * (seq % 16))).take 2

/-! ## Sending (R398, R400, R401) -/

/-- Bytes that a frame takes on a T-link: padded to 8 B (R398). -/
def padded (n : Nat) : Nat := (n + 7) / 8 * 8

/-- Append frame bytes to the stream: to the last codeword while it is not sent and has room, then to new ones, none below number `lo`. `colour` is
that of a frame that starts here. -/
def cwFill : Nat → Nat → Option Nat → List Byte → List Codeword → List Codeword
  | 0, _, _, _, cs => cs
  | n + 1, lo, colour, w, cs =>
    if w.isEmpty then cs
    else match cs.getLast? with
      | some c =>
        if lo ≤ c.seq ∧ c.data.length < 256 then
          let k := 256 - c.data.length
          let start := if colour.isSome ∧ c.start = none then some (c.data.length / 8) else c.start
          cwFill n lo none (w.drop k) (cs.dropLast ++ [⟨c.seq, c.data ++ w.take k, start, c.colours ++ colour.toList⟩])
        else cwFill n lo none (w.drop 256) (cs ++ [⟨max lo (c.seq + 1), w.take 256, colour.map (fun _ => 0), colour.toList⟩])
      | none => cwFill n lo none (w.drop 256) [⟨lo, w.take 256, colour.map (fun _ => 0), colour.toList⟩]

/-- Data and link control of a codeword (R398). -/
def cwBody (d : Dev) (l : Nat) (c : Codeword) : List Byte :=
  let start := match c.start with
    | some o => 128 + o * 4
    | none => 0
  let cols := (List.range 4).foldl (fun a i => a * 4 + c.colours.getD i 0) 0
  padMin 256 c.data ++ beBytes 1 start ++ beBytes 1 cols ++ chanBytes d l c.seq

/-- The codewords whose time has come leave: those in the replay buffer as they are, null ones with no frame data, which the pads show by their
absence here (R400). -/
def cwPump (d : Dev) (l : Nat) : Dev :=
  let x := dynOf d l
  let n := txSeq d l
  let due := x.txw.filter (fun c => decide (x.txNext ≤ c.seq ∧ c.seq ≤ n))
  if due.isEmpty then d
  else dynMod (due.foldl (fun d c => emit d (.codeword l (c.seq % 2 ^ 32) (cwBytes (cwBody d l c)))) d) l (fun x => { x with txNext := n + 1 })

/-- Every T-link sends the codewords that are due. -/
def cwPumpAll (d : Dev) : Dev := d.lnk.dyn.foldl (fun d e => if e.1 < 96 then cwPump d e.1 else d) d

/-- Whether a T-link has room for a frame: replayed codewords go before new ones, and 1,024 stored codewords without an ack leave null codewords only
(R400, R401). A frame starts where its codewords all fit, since a null codeword within it could not be told from its bytes (log 179). -/
def cwRoom (d : Dev) (l len : Nat) : Bool :=
  decide (96 ≤ l) || (decide ((dynOf d l).txTop ≤ txSeq d l + 1) && decide ((dynOf d l).txw.length + (padded len + 255) / 256 ≤ 1024))

/-- A frame joins the stream of a T-link. -/
def cwFrame (d : Dev) (l colour : Nat) (w : List Byte) : Dev :=
  let d := cwPump d l
  let b := padTo 8 w
  dynMod d l (fun x => { x with txw := cwFill (b.length / 256 + 2) (txFresh d l) (some colour) b x.txw })

/-- The prefix of a frame on a G-link in FABRIC mode (R406). -/
def pcsPrefix (colour : Nat) : List Byte := [1] ++ beBytes 1 (colour * 64) ++ beBytes 5 0

/-! ## Receiving (R398) -/

/-- Whether a frame check ends a frame of n bytes, intact or inverted (R434, R297). -/
def checkEnds (w : List Byte) (n : Nat) : Bool :=
  decide (field w (n - 4) 2 = n) && (let c := crc32c (w.take (n - 8)); decide (field w (n - 8) 4 = c ∨ field w (n - 8) 4 = c ^^^ 0xFFFF_FFFF))

/-- Length of the frame at the front of a stream, where the stream holds it whole (R287, R232, R484). The headers of DATA, CHECKPOINT and TEST give
none: such a frame ends with the first frame check that fits, or after 2,216 B (log 180). -/
def frameEnd (w : List Byte) : Option Nat :=
  let whole := fun n => let n := min 2216 (max 64 n); if n ≤ w.length then some n else none
  if w.length < 64 then none
  else match byteAt w 0 % 16 with
    | 1 => whole (40 + 272 * (byteAt w 3 % 16))
    | 2 => whole (40 + 272 * (byteAt w 3 % 16))
    | 3 => whole (40 + 272 * (byteAt w 3 % 16))
    | 4 => whole (40 + 272 * (byteAt w 3 % 16))
    | 5 => whole (40 + field w 24 2)
    | 6 => whole (56 + (if byteAt w 33 / 64 = 3 then 0 else 8 * (byteAt w 47 + 1)) + (if field w 42 2 &&& Fl.short ≠ 0 then 128 else 0))
    | 9 => some 64
    | _ => match (List.range (min w.length 2216 - 63)).find? (fun i => checkEnds w (64 + i)) with
      | some i => some (64 + i)
      | none => if 2216 ≤ w.length then some 2216 else none

/-- The frames that end in a codeword, each with its colour, and what is left of the last: `w` starts at a frame start or at what is left. Frames
follow one another without gaps, and bytes that do not start with a version are no frame (log 180). -/
def cwFrames : Nat → List Byte → Nat → List Nat → List (List Byte × Nat) × List Byte × Nat
  | 0, w, col, _ => ([], w, col)
  | n + 1, w, col, cols =>
    if byteAt w 0 / 16 = 0 then ([], [], 0)
    else match frameEnd w with
      | none => ([], w, col)
      | some k =>
        let r := cwFrames n (w.drop (padded k)) (cols.headD 0) (cols.drop 1)
        ((w.take k, col) :: r.1, r.2)

/-- What the data and link control of a codeword give: frames that end in it, and the frame that goes on. -/
def cwRead (x : LinkDyn) (b : List Byte) : List (List Byte × Nat) × List Byte × Nat :=
  let c := byteAt b 257
  let cols := [c / 64, c / 16 % 4, c / 4 % 4, c % 4]
  let data := b.take 256
  if x.rxBuf.isEmpty then
    if bit (byteAt b 256) 7 then cwFrames 5 (data.drop (8 * (byteAt b 256 / 4 % 32))) (cols.headD 0) (cols.drop 1) else ([], [], 0)
  else cwFrames 5 (x.rxBuf ++ data) x.rxCol cols

/-- The link channel of codeword `seq`: the message that is being gathered, and the message that ends with it. -/
def chanTake (m : Nat × List Byte) (seq : Nat) (two : List Byte) : (Nat × List Byte) × Option (List Byte) :=
  if seq % 16 = 0 then ((seq + 1, two), none)
  else if m.1 = seq ∧ !m.2.isEmpty then
    let w := m.2 ++ two
    if seq % 16 = 15 then ((0, []), some w) else ((seq + 1, w), none)
  else ((0, []), none)

end Sys2Proof.Machine
end

