-- ==== Sys2Proof/Machine/Traffic.lean ====
section
/-! DEFINITION. The traffic manager (10): gates, shapers, policers, the choice of the next frame, marks, mirroring and flushing. -/

namespace Sys2Proof.Machine

/-! ## Time gates (R332 to R334) -/

def gateOf (d : Dev) (p : Nat) : Gate := tget Gate.init d.tm.gates p
def gatePut (d : Dev) (p : Nat) (g : Gate) : Dev := { d with tm := { d.tm with gates := tset Gate.init d.tm.gates p g } }

def entOpen (w : Word) : Nat := bits w.toNat 31 24
def entTicks (w : Word) : Nat := bits w.toNat 19 0

/-- The cycle C of a list (R332). -/
def cycleOf (l : List Word) : Nat := l.foldl (fun a w => a + entTicks w) 0

/-- Entry whose span contains tick `pos` of the cycle, and the tick at which it ends (R333). -/
def entryAt : List Word → Nat → Nat → Nat → Nat × Nat
  | [], i, _, s => (i, s)
  | w :: ws, i, pos, s => if pos < s + entTicks w then (i, s + entTicks w) else entryAt ws (i + 1) pos (s + entTicks w)

/-- Entry in force at a tick index, and the tick index at which it ends. -/
def entryInForce (g : Gate) (t : Nat) : Nat × Nat :=
  let c := max 1 (cycleOf g.oper)
  let pos := (t + c - g.base % c) % c
  let r := entryAt g.oper 0 pos 0
  (r.1, t - pos + r.2)

/-- A port's gate list advances to the entry in force for the present tick (R333, action 1 of R24). -/
def gateAdvance (d : Dev) (p : Nat) : Dev :=
  let a := Reg.TM_GATE_STATUS p
  if fbit d a Fd.TM_GATE_STATUS_en then
    let g := gateOf d p
    let r := entryInForce g (tickIdx d)
    fset (fset d a Fd.TM_GATE_STATUS_entry r.1) a Fd.TM_GATE_STATUS_open (entOpen (g.oper.getD r.1 0))
  else d

/-- At its base time the pending list becomes operational (R333). -/
def gateActivate (d : Dev) (p : Nat) : Dev :=
  let g := gateOf d p
  match g.pend with
  | some (l, b) =>
    if b ≤ tickIdx d then
      let d := gatePut d p { g with oper := l, base := b, pend := none }
      let a := Reg.TM_GATE_STATUS p
      gateAdvance (fset (fset d a Fd.TM_GATE_STATUS_en 1) a Fd.TM_GATE_STATUS_pend 0) p
    else d
  | none => d

/-- At the tick boundary after a write of 0 to en, the list is disabled and every VC of the port opens (R333). -/
def gateDisableEffect (d : Dev) (p : Nat) : Dev :=
  let g := gateOf d p
  match g.disable with
  | some t =>
    if t ≤ tickIdx d then
      let a := Reg.TM_GATE_STATUS p
      let d := gatePut d p { g with oper := [], base := 0, disable := none }
      fset (fset (fset d a Fd.TM_GATE_STATUS_en 0) a Fd.TM_GATE_STATUS_entry 0) a Fd.TM_GATE_STATUS_open 0xFF
    else d
  | none => d

/-- Length of the guard band in ns (R334). -/
def guardNs (d : Dev) (e : Nat) : Nat := ceilDiv (2216 * 80) (egRate d e)

/-- Whether a frame of VC v may start on an egress now: gate open and outside its guard band (R334). -/
def gateOpen (d : Dev) (e v : Nat) : Bool :=
  match egPort d e with
  | none => true
  | some p =>
    let g := gateOf d p
    let en := fbit d (Reg.TM_GATE_STATUS p) Fd.TM_GATE_STATUS_en
    let r := entryInForce g (tickIdx d)
    let n := g.oper.length
    let openNow := !en || bit (fget d (Reg.TM_GATE_STATUS p) Fd.TM_GATE_STATUS_open) v
    let closes := fun (b : Nat) (w : Word) => !bit (entOpen w) v && decide (ns d + guardNs d e ≥ b * tickLen d)
    let guard1 := en && closes r.2 (g.oper.getD ((r.1 + 1) % max 1 n) 0)
      && (match g.disable with | some t => decide (t > r.2) | none => true)
      && (match g.pend with | some (_, b) => decide (b > r.2) | none => true)
    let guard2 := match g.pend with | some (l, b) => closes b (l.getD 0 0) | none => false
    openNow && !guard1 && !guard2

/-! ## Shapers (R330, R331) -/

def shapeReg (e v : Nat) : Nat := if e < 128 then Reg.TM_SHAPE e v else Reg.TM_SHAPE_B (egLink e) v

def bucketOf (w : Word) : Nat := 256 * max 1 (bits w.toNat 30 16)

/-- A shaper; where nothing is listed the register's reset word is in force with a full bucket (log 6). -/
def shaperOf (d : Dev) (e v : Nat) : Shaper :=
  match tget none d.tm.shapers (e * 8 + v) with
  | some s => s
  | none => let w := resetWord (shapeReg e v); ⟨bucketOf w, w⟩

def shaperPut (d : Dev) (e v : Nat) (s : Shaper) : Dev :=
  { d with tm := { d.tm with shapers := tset none d.tm.shapers (e * 8 + v) (some s) } }

/-- Refills of one shaper, `k` of them, the first taking the written word into force (R331). -/
def refill1 (d : Dev) (k e v : Nat) : Dev :=
  let s := shaperOf d e v
  let w := BitVec.ofNat 32 (rg d (shapeReg e v))
  let cap : Int := bucketOf w
  let rate := min (bits w.toNat 15 0) (egRate d e)
  if w.msb then
    let t0 := if s.word.msb then s.tok else cap
    shaperPut d e v ⟨min cap (t0 + k * rate), w⟩
  else shaperPut d e v ⟨0, w⟩

/-- Egress and VC of a TM_SHAPE register address. -/
def shapeKey (a : Nat) : Option Nat :=
  if a < 0x100000 ∨ 0x140000 ≤ a then none
  else
    let o := a % 0x4000
    let l := 8 * ((a - 0x100000) / 0x4000) + o % 0x100 / 0x20
    if 0x200 ≤ o ∧ o < 0x300 then some (l * 8 + o / 4 % 8)
    else if 0x600 ≤ o ∧ o < 0x700 then some ((l + 32) * 8 + o / 4 % 8)
    else none

/-- Every shaper is refilled at each multiple of 80 ns since the last refill (R330). -/
def refillShapers (d : Dev) : Dev :=
  let k := ns d / 80 - d.tm.refill
  if k = 0 then d
  else
    let keys := d.tm.shapers.map (·.1) ++ (d.regs.filterMap (fun r => shapeKey r.1)).filter (fun x => tget none d.tm.shapers x = none)
    let d := keys.foldl (fun d x => refill1 d k (x / 8) (x % 8)) d
    { d with tm := { d.tm with refill := ns d / 80 } }

def shaperOk (d : Dev) (e v : Nat) : Bool := let s := shaperOf d e v; !s.word.msb || decide (s.tok > 0)

/-! ## Policers (R336 to R338) -/

def polOf (d : Dev) (p v : Nat) : Policer := tget Policer.init d.tm.pols (p * 8 + v)
def polPut (d : Dev) (p v : Nat) (x : Policer) : Dev :=
  { d with tm := { d.tm with pols := tset Policer.init d.tm.pols (p * 8 + v) x } }

def cbsOf (w : Word) : Nat := 1024 * max 1 (bits w.toNat 7 0)
def pbsOf (w : Word) : Nat := 1024 * max 1 (bits w.toNat 15 8)

/-- Refills of one policer, `k` of them. -/
def polRefill1 (d : Dev) (k p v : Nat) : Dev :=
  let x := polOf d p v
  let c := BitVec.ofNat 32 (rg d (Reg.TMP_CFG p v))
  let r := BitVec.ofNat 32 (rg d (Reg.TMP_RATE p v))
  let pir := bits r.toNat 31 16
  let cir := min (bits r.toNat 15 0) pir
  let full := c.msb && !x.cfg.msb
  polPut d p v ⟨if full then cbsOf c else min (cbsOf c) (x.tc + k * cir),
    if full then pbsOf c else min (pbsOf c) (x.tp + k * pir), c, r⟩

/-- Port and VC of a TMP register address. -/
def polKey (a : Nat) : Option Nat :=
  if a < 0x140000 ∨ 0x160000 ≤ a then none
  else
    let o := a % 0x4000
    if 0x100 ≤ o ∧ o < 0x500 then some ((16 * ((a - 0x140000) / 0x4000) + (o - 0x100) % 0x200 / 0x20) * 8 + o / 4 % 8) else none

def refillPolicers (d : Dev) : Dev :=
  let k := ns d / 80 - d.tm.polAt
  if k = 0 then d
  else
    let keys := d.tm.pols.map (·.1) ++ (d.regs.filterMap (fun r => polKey r.1)).filter (fun x => (tget Policer.init d.tm.pols x) = Policer.init)
    let d := keys.foldl (fun d x => polRefill1 d k (x / 8) (x % 8)) d
    { d with tm := { d.tm with polAt := ns d / 80 } }

/-- The colour that the policer of a port and VC gives a frame (R337): 0 green, 1 yellow, 2 red. -/
def police (d : Dev) (p v len colour : Nat) : Nat × Dev :=
  let x := polOf d p v
  if !x.cfg.msb || !fbit d Reg.TM_CTRL Fd.TM_CTRL_police_en then (colour, d)
  else
    let aware := bit x.cfg.toNat 30
    if (aware ∧ colour = 2) ∨ x.tp < len then (2, d)
    else if (aware ∧ colour = 1) ∨ x.tc < len then (1, polPut d p v { x with tp := x.tp - len })
    else (0, polPut d p v { x with tp := x.tp - len, tc := x.tc - len })

/-! ## Mirroring (R341) -/

/-- Sessions that copy a frame: source kind 0 at ingress of port p, 1 at egress of port p, 2 by flow (on reception). -/
def mirrorHits (d : Dev) (kinds : List Nat) (p : Nat) (b : List Byte) : List Nat :=
  if !fbit d Reg.TM_CTRL Fd.TM_CTRL_mirror_en then []
  else (List.range 4).filter (fun m =>
    let a := Reg.TM_MIRROR_CTRL m
    let src := fget d a Fd.TM_MIRROR_CTRL_source
    fbit d a Fd.TM_MIRROR_CTRL_en && kinds.contains src && bit (fget d a Fd.TM_MIRROR_CTRL_vc_mask) (fVc b)
    && (if src = 2 then
          decide ((if fbit d a Fd.TM_MIRROR_CTRL_match_src then fSrc b else fDst b) &&& fget d (Reg.TM_MIRROR_MASK m) Fd.TM_MIRROR_MASK_mask
            = fget d (Reg.TM_MIRROR_MATCH m) Fd.TM_MIRROR_MATCH_coord)
        else decide (fget d a Fd.TM_MIRROR_CTRL_src_port = p)))

/-- Place a copy in the analysis port's queue (R341); it shares buffer i, or takes transit granules of its own. -/
def mirrorCopy (d : Dev) (m : Nat) (b : List Byte) (colour : Nat) (buf : Option Nat) : Dev :=
  let a := Reg.TM_MIRROR_CTRL m
  let drop := fun d e => capture (raiseOnce (bump d Reg.TM_MIRROR_DROP_CNT) 922 m) 1 e (fget d a Fd.TM_MIRROR_CTRL_an_port) (fget d a Fd.TM_MIRROR_CTRL_mirror_vc) 4 b
  match localPick d (fget d a Fd.TM_MIRROR_CTRL_an_port) (fDst b) (fget d a Fd.TM_MIRROR_CTRL_mirror_vc) with
  | none => drop d 0
  | some e =>
    match buf with
    | some i =>
      let x := tget Buf.none d.tm.bufs i
      let f := ordGive d ⟨b, colour, x.cls, 0, some i, false, 0, false, some m, none⟩
      enqueue { f.2 with tm := { f.2.tm with bufs := tset Buf.none d.tm.bufs i { x with refs := x.refs + 1 } } } e f.1
    | none =>
      let g := gransOf (fLen b)
      let r := poolAlloc d 1 (egLink e / 8) g
      let f := ordGive r.2 ⟨b, colour, 1, g, none, false, 0, false, some m, none⟩
      if r.1 then enqueue f.2 e f.1 else drop r.2 e

/-! ## Choosing and sending the next frame (R326, R327) -/

/-- Whether a frame sent before `ord` toward one of these egresses is still in the device: on a corridor, or in a queue. -/
def earlierWaits (d : Dev) (es : List Nat) (ord : Nat) : Bool :=
  d.tm.queues.any (fun q => es.contains (q.1 / 64) && q.2.any (fun g => decide (g.ord < ord)))
  || (d.rte.waitS ++ d.rte.ring).any (fun s => match s.cargo with
    | .egress e g => es.contains e && decide (g.ord < ord)
    | _ => false)

/-- Whether the order fence (R295) and the rate of originated frames (R313) let a head frame start. -/
def canStart (d : Dev) (e : Nat) (f : QFrame) : Bool :=
  let p := (egPort d e).getD 0
  let es := portEgs d p
  let fenceOk := !f.fence ||
    (!(earlierWaits d es f.ord)
     && es.all (fun x => decide (tget 0 d.tm.txEnd x + portSkew d p + 512 ≤ ns256 d ∨ tget 0 d.tm.txEnd x = 0)))
  let r := tget EcnRate.init d.rte.ecn (p * 8 + fVc f.bytes)
  fenceOk && (!f.orig || decide (r.next ≤ ns256 d))

/-- Whether a VC of an egress is eligible (R326). -/
def eligible (d : Dev) (e v : Nat) : Bool :=
  match headSub d e v with
  | none => false
  | some k => match queueOf d e v k with
    | [] => false
    | f :: _ => gateOpen d e v && shaperOk d e v && canStart d e f

/-- A VC that holds frames and is not eligible is marked; one that turns eligible again gains credit of at most its burst (R327). -/
def sampleVc (d : Dev) (e v : Nat) : Dev :=
  if v = 0 ∨ (busySubs d e v).isEmpty then d
  else
    let u := upperOf d e
    let t := u.m.getD v Tag.zero
    if !(eligible d e v) then upperPut d e { u with m := u.m.set v { t with inel := true } }
    else if t.inel then
      let back := fun (vt : Nat) (x : Tag) (w : Nat) => tagMax x.s ((vt + tmod48 - ceilDiv (burst d e v * 256) w) % tmod48)
      let lo := lowerOf d e v
      let lo' : Level := { lo with m := (List.range 8).map (fun k =>
        let x := lo.m.getD k Tag.zero
        match queueOf d e v k with
        | [] => x
        | f :: _ => let s := back lo.v x 1; { x with s := s, f := finish s (fLen f.bytes) 1 }) }
      let d := lowerPut d e v lo'
      let d := upperPut d e { u with m := u.m.set v { t with s := back u.v t (weight d e v), head := 0, inel := false } }
      retag d e v false
    else d

/-- The VC that sends next on an egress (R326). -/
def nextVc (d : Dev) (e : Nat) : Option Nat :=
  if eligible d e 0 then some 0
  else pickTag (upperOf d e).m ((List.range 8).filter (fun v => decide (v ≠ 0) && eligible d e v))

/-- VC2 frames of a GLOBAL port made of G-links move on, in arrival order, as the port's VC2 queue drains (R301): the head frame when the queue of
its link is empty, on the link that R293 chose, or where that link has left the port, on one that R293 chooses within it. -/
def drainMetro (d : Dev) (p : Nat) : Dev :=
  match tget [] d.tm.metroQ p with
  | [] => d
  | (e, inHbm, f) :: fs =>
    match (if (portUp d p).contains e then some e else awayPick d f.bytes [p]) with
    | none => d
    | some e =>
      if depth d e 2 = 0 then
        let d := { d with tm := { d.tm with metroQ := tset [] d.tm.metroQ p fs } }
        enqueue (if inHbm then hpoolFreeGrans d 1 (hgransOf (fLen f.bytes)) else d) e f
      else d

/-- A frame that left its corridor joins its egress queue, or the port's metro queue (R301). Where the METRO share is full the frame keeps its
place in the metro queue with the pool granules that it holds. -/
def arriveEgress (d : Dev) (e : Nat) (f : QFrame) : Dev :=
  let p := (egPort d e).getD 0
  if fVc f.bytes = 2 ∧ portKind d p = 2 ∧ e ≥ 96 ∧ (egPort d e).isSome then
    let put := fun (d : Dev) (x : Nat × Bool × QFrame) =>
      drainMetro { d with tm := { d.tm with metroQ := tset [] d.tm.metroQ p (tget [] d.tm.metroQ p ++ [x]) } } p
    match hpoolAlloc d 1 (hgransOf (fLen f.bytes)) with
    | some d => put (release d e f) (e, true, { f with grans := 0, buf := none })
    | none => put d (e, false, f)
  else enqueue d e f

/-- The reserved-link entry of a link, when one is enabled (12 R414). -/
def rsvOf (d : Dev) (l : Nat) : Option Nat :=
  (List.range 4).find? (fun r => fbit d (Reg.RSV_CFG r) Fd.RSV_CFG_en && decide (fget d (Reg.RSV_CFG r) Fd.RSV_CFG_link = l))

def macOf (d : Dev) (lo : Nat) : List Byte := beBytes 6 (rg64 d lo % 2 ^ 48)

/-- The MAC frame that carries a fabric frame in ENCAP use, before its FCS (12 R415). -/
def encapBytes (d : Dev) (r : Nat) (b : List Byte) : List Byte :=
  let c := Reg.RSV_CFG r
  let h := macOf d (Reg.RSV_PEER_MAC_0 r) ++ macOf d (Reg.RSV_OWN_MAC_0 r)
    ++ (if fbit d c Fd.RSV_CFG_vlan_en then beBytes 2 0x8100 ++ beBytes 2 (fget d c Fd.RSV_CFG_vlan_id) else [])
    ++ beBytes 2 (fget d Reg.RSV_ETYPE Fd.RSV_ETYPE_etype)
  padMin 60 (h ++ b)

/-- Drive a frame at the pads of its link: in a MAC frame on a reserved link, in the codewords of a T-link (R398), in a PCS frame on another G-link
(R406). -/
def drive (d : Dev) (e colour : Nat) (b : List Byte) : Dev :=
  let w := b ++ frameCheck b
  match rsvOf d (egLink e) with
  | some r => emit d (.encap (egLink e) (encapBytes d r w))
  | none =>
    let d := emit d (.frame e w colour)
    if e < 96 then cwFrame d e colour w else emit d (.pcs e (pcsPrefix colour ++ w))

/-- Drive what was sent of a frame, ended with an inverted frame check (R297, R344). -/
def driveStomped (d : Dev) (e colour : Nat) (b : List Byte) : Dev :=
  let d := emit d (.stomped e b)
  if e < 96 ∧ linkCarries d e then cwFrame d e colour (b ++ stompCheck b) else d

/-- Bytes of link time that a frame takes: a T-link pads it (R398). -/
def wireLen (e len : Nat) : Nat := if e < 96 then padded len else len

/-- Length of the frame that a VC of an egress would send, 0 where there is none. -/
def headLen (d : Dev) (e v : Nat) : Nat :=
  match headSub d e v with
  | some k => match queueOf d e v k with
    | f :: _ => fLen f.bytes
    | [] => 0
  | none => 0

/-- Send the head frame of VC v of an egress. -/
def sendHead (d : Dev) (e v : Nat) : Dev :=
  match headSub d e v with
  | none => d
  | some k => match queueOf d e v k with
    | [] => d
    | f :: _ =>
      let d := popQ d e v k
      let p := (egPort d e).getD 0
      let away := portKind d p = 1 ∨ portKind d p = 2
      if away ∧ f.mirror = none ∧ fHop f.bytes ≥ 12 then raise (bump (release d e f) Reg.RTE_LOOP_CNT) 914
      else
        let b := if away ∧ f.mirror = none then setByte f.bytes 2 (byteAt f.bytes 2 + 16) else f.bytes
        let mark := 2048 * bits (rg d (qcfgReg e v)) 15 0
        let ce := f.mirror = none ∧ v ≠ 0 ∧ fbit d Reg.TM_CTRL Fd.TM_CTRL_mark_en ∧ mark ≠ 0 ∧ depth d e v > mark
        let d := if ce then bump d Reg.TM_MARK_CNT else d
        let b := if ce then setBit1 b 2 true else b
        let len := fLen b
        let d := drive d e f.colour b
        let s := shaperOf d e v
        let d := if s.word.msb then shaperPut d e v { s with tok := s.tok - len } else d
        let d := { d with tm := { d.tm with txEnd := tset 0 d.tm.txEnd e (ns256 d + ceilDiv (wireLen e len * 20480) (egRate d e)) } }
        let d := capture d 1 e p v 0 b
        let hits := if f.mirror = none then mirrorHits d [1] p b else []
        let bb := match f.buf with
          | some i => (some i, d)
          | none => if hits.isEmpty ∨ f.grans = 0 then (none, d) else let r := bufNew d 1 f.grans f.cls; (some r.1, r.2)
        let d := hits.foldl (fun d m => mirrorCopy d m b f.colour bb.1) bb.2
        let d := match bb.1 with
          | some i => bufDrop d i (egLink e / 8)
          | none => release d e f
        let d := if f.orig ∧ v ≠ 0 ∧ v ≠ 4 then
            let r := tget EcnRate.init d.rte.ecn (p * 8 + v)
            match r.rate with
            | some x =>
              let r := { r with next := ns256 d + ceilDiv (len * 20480 * 64) (max 1 x) }
              { d with rte := { d.rte with ecn := tset EcnRate.init d.rte.ecn (p * 8 + v) r } }
            | none => d
          else d
        if v = 2 ∧ portKind d p = 2 then drainMetro d p else d

/-- FRAME_TRANSMIT (R326): at a frame boundary of a link in service or draining, the next frame, or idles. -/
def transmit (d : Dev) (e : Nat) : Dev :=
  if !running d || !(decide (linkStep d (egLink e) = 9) || decide (linkStep d (egLink e) = 10))
    || decide (tget 0 d.tm.txEnd e > ns256 d) || (decide (e ≥ 128) && !isSplit d (egLink e)) then d
  else
    let d := refillShapers d
    let d := (List.range 8).foldl (fun d v => sampleVc d e v) d
    match nextVc d e with
    | none => d
    | some v => if cwRoom d e (headLen d e v) then sendHead d e v else d

/-! ## Flush (R344) -/

/-- Frames in the queues of an egress. -/
def egFrames (d : Dev) (e : Nat) : List (Nat × QFrame) :=
  (List.range 64).flatMap (fun i => (tget [] d.tm.queues (e * 64 + i)).map (fun f => (i / 8, f)))

/-- Flush one egress: a frame in transmission ends with an inverted check, every queued frame is removed and released. -/
def flushEgress (d : Dev) (e : Nat) : Dev :=
  let fs := egFrames d e
  let p := (egPort d e).getD 0
  let d := if tget 0 d.tm.txEnd e > ns256 d then
      match d.wire.reverse.findSome? (fun w => match w with
        | .frame x b _ => if x = e then some b else none
        | _ => none) with
      | some b => emit { d with tm := { d.tm with txEnd := tset 0 d.tm.txEnd e (ns256 d) } } (.stomped e (b.take (b.length - 8)))
      | none => d
    else d
  let qs := (List.range 64).foldl (fun q i => tdel q (e * 64 + i)) d.tm.queues
  let lo := (List.range 8).foldl (fun q v => tdel q (e * 8 + v)) d.tm.lower
  let d := { d with tm := { d.tm with queues := qs, upper := tdel d.tm.upper e, lower := lo } }
  let d := fs.foldl (fun d x => release d e x.2) d
  let d := bump d Reg.TM_FLUSH_CNT fs.length
  let d := if fs.length < 4096 then fs.foldl (fun d x => capture d 1 e p x.1 3 x.2.bytes) d
    else capture d 1 e p 0 3 (match fs with | x :: _ => x.2.bytes | [] => [])
  if fs.isEmpty then d else raise d 924

/-- Flush a port's metro queue (R344). -/
def flushMetro (d : Dev) (p : Nat) : Dev :=
  let fs := tget [] d.tm.metroQ p
  let d := fs.foldl (fun d x => if x.2.1 then hpoolFreeGrans d 1 (hgransOf (fLen x.2.2.bytes)) else release d x.1 x.2.2)
    { d with tm := { d.tm with metroQ := tdel d.tm.metroQ p } }
  bump d Reg.TM_FLUSH_CNT fs.length

/-- A link leaves service: it takes step `st`, its queues are flushed, and those of every link of a port that goes down (R285, R344). -/
def linkLeave (d : Dev) (l st : Nat) : Dev :=
  let egs := if l ≥ 96 ∧ isSplit d l then [l, l + 32] else [l]
  let d := fset d (Reg.LINK_STATUS l) Fd.LINK_STATUS_step st
  let d := egs.foldl flushEgress d
  egs.foldl (fun d e => match egPort d e with
    | none => d
    | some p =>
      if portEn d p ∧ (portUp d p).isEmpty then flushMetro ((portEgs d p).foldl flushEgress d) p
      else (portUp d p).foldl (fun d _ => drainMetro d p) d) d

end Sys2Proof.Machine
end

