-- ==== Sys2Proof/Machine/Commands.lean ====
section
/-! DEFINITION. Command packets (15): headers, replies, the queues of the management station, assemblies, and the host's window and
receive area. -/

namespace Sys2Proof.Machine

/-! ## Status codes (R507) -/

namespace St
def ok : Nat := 0x0000
def alreadyDone : Nat := 0x0001
def aborted : Nat := 0x0002
def malformed : Nat := 0x0100
def unknownOpcode : Nat := 0x0101
def worldDenied : Nat := 0x0102
def cmdQueueFull : Nat := 0x0103
def incomplete : Nat := 0x0104
def logFull : Nat := 0x0105
def noGroupContext : Nat := 0x0200
def noRollSpace : Nat := 0x0201
def noSlotSpace : Nat := 0x0202
def groupBusy : Nat := 0x0203
def staleEpoch : Nat := 0x0204
def epochBusy : Nat := 0x0205
def noSuchGroup : Nat := 0x0206
def importInvalid : Nat := 0x0207
def notMember : Nat := 0x0208
def paramConflict : Nat := 0x0209
def tagBusy : Nat := 0x020A
def bucketTableFull : Nat := 0x020B
def bucketQuota : Nat := 0x020C
def noLedgerSpace : Nat := 0x020D
def noSuchBucket : Nat := 0x020E
def redoLimit : Nat := 0x020F
def accumBusy : Nat := 0x0210
def accumLimit : Nat := 0x0211
def noHuddleGroup : Nat := 0x0212
def noShard : Nat := 0x0300
def shardBusy : Nat := 0x0301
def shardTableFull : Nat := 0x0302
def noStaging : Nat := 0x0303
def lessonInvalid : Nat := 0x0304
def lessonBusy : Nat := 0x0305
def pubGone : Nat := 0x0306
def regionConflict : Nat := 0x0307
def noRegion : Nat := 0x0400
def regionBounds : Nat := 0x0401
def noHbmSpace : Nat := 0x0402
def regionTableFull : Nat := 0x0403
def regionBusy : Nat := 0x0404
def gateTime : Nat := 0x0500
def replayBusy : Nat := 0x0501
def testFailed : Nat := 0x0600
def testQueueFull : Nat := 0x0601
def partnerBusy : Nat := 0x0602
def partnerIncomplete : Nat := 0x0603
def checkpointBusy : Nat := 0x0604
def noSuchCheckpoint : Nat := 0x0605
def noFlashConnection : Nat := 0x0606
def flashQueueFull : Nat := 0x0607
def flashFailed : Nat := 0x0608
def imageInvalid : Nat := 0x0700
def updateBusy : Nat := 0x0701
def signExhausted : Nat := 0x0702
end St

/-! ## Replies (R487) -/

/-- A COMMAND frame (R484). -/
def cmdFrame (d : Dev) (dst vc opcode flags tag part status : Nat) (params : List Byte) : List Byte :=
  (mkHeader 5 vc dst (mgmtCoord d)).take 16 ++ beBytes 2 opcode ++ beBytes 1 flags ++ [0] ++ beBytes 4 tag
    ++ beBytes 2 params.length ++ beBytes 2 part ++ beBytes 2 status ++ [0, 0] ++ params

/-- Count a reply (R509). -/
def countReply (d : Dev) (status : Nat) : Dev :=
  if status ≤ 2 then bump d Reg.CMD_ACCEPT_CNT else bump d Reg.CMD_REJECT_CNT

/-- Send a reply of one frame: the bell time of completion, then the fields (R487). -/
def reply (d : Dev) (r : ReplyTo) (status : Nat) (fields : List Byte) (time : Option Nat := none) : Dev :=
  let t := match time with | some x => nsBytes x | none => timeBytes d
  originate (countReply d status)
    (cmdFrame d r.dst r.vc r.opcode ((if r.world then 0x80 else 0) + 0x40) r.tag r.part status (t ++ fields))

/-- Send a reply in parts (R491, R492); each carries the bell time, MORE stands in all but the last. -/
def replyParts (d : Dev) (r : ReplyTo) (status : Nat) (parts : List (List Byte)) : Dev :=
  let n := parts.length
  let t := timeBytes d
  (List.range n).foldl (fun d' i =>
    originate d' (cmdFrame d r.dst r.vc r.opcode ((if r.world then 0x80 else 0) + 0x40 + (if i + 1 < n then 0x20 else 0))
      r.tag i status (t ++ parts.getD i []))) (countReply d status)

def replyBad (d : Dev) (r : ReplyTo) (off : Nat) : Dev := reply d r St.malformed (beBytes 2 off)

/-! ## Arrival at the management station (R489 to R495) -/

/-- Opcodes of the opcode tables (R501 to R506). -/
def opcodes : List Nat :=
  [0x0101, 0x0102, 0x0110, 0x0111, 0x0112, 0x0113, 0x0114, 0x0115, 0x0201, 0x0202, 0x0203, 0x0204,
   0x0301, 0x0302, 0x0303, 0x0304, 0x0305, 0x0306, 0x0307, 0x0308, 0x0309,
   0x0401, 0x0402, 0x0403, 0x0404, 0x0405, 0x0410, 0x0411, 0x0412, 0x0501, 0x0502, 0x0503, 0x0504, 0x0505, 0x0506,
   0x0601, 0x0610, 0x0611, 0x0701, 0x0710, 0x0711, 0x0712, 0x0720, 0x0721, 0x0722, 0x0730, 0x0731, 0x0732, 0x0733,
   0x0801, 0x0802, 0x0803, 0x0810, 0x0820, 0x0821, 0x0830]

def isNotice (op : Nat) : Bool := decide (0x0301 ≤ op ∧ op ≤ 0x0309)

/-- Sequencer-decoded opcodes (R493). -/
def seqDecoded (op : Nat) : Bool := isNotice op || op == 0x0101 || op == 0x0102

/-- The command of a frame, with the granules it holds (R484). -/
def cmdOf (via : Via) (b : List Byte) (grans : Nat) : Cmd :=
  { via := via, src := fSrc b, world := bit (byteAt b 18) 7, vc := fVc b, tag := field b 20 4, opcode := field b 16 2,
    part := field b 26 2, more := bit (byteAt b 18) 5, params := (b.drop 32).take (field b 24 2), grans := grans }

def replyOf (c : Cmd) : ReplyTo := ⟨c.src, c.vc, c.opcode, c.world, c.tag, c.part⟩

/-- The header of a command keeps R484 and R485. -/
def headerOk (b : List Byte) : Bool :=
  decide (field b 24 2 ≤ 2176) && decide (40 + field b 24 2 ≤ fLen b) && (decide (fVc b = 4) || decide (fVc b = 5))
  && decide (field b 28 2 = 0) && decide (byteAt b 18 % 32 = 0) && decide (byteAt b 19 = 0) && decide (field b 30 2 = 0)

/-- Free the granules of a command. -/
def freeCmd (d : Dev) (g : Nat) : Dev := if g = 0 then d else poolFreeGrans d 3 0 g

/-- Queue a whole command at its decoder (R493, R494). -/
def queueCmd (d : Dev) (c : Cmd) : Dev :=
  if seqDecoded c.opcode then { d with cmd := { d.cmd with seqQ := d.cmd.seqQ ++ [c] } }
  else if d.cmd.sitQ.length ≥ 4096 then
    reply (raiseOnce (bump (freeCmd d c.grans) Reg.CMD_QFULL_CNT) 968 0) (replyOf c) St.cmdQueueFull []
  else { d with cmd := { d.cmd with sitQ := d.cmd.sitQ ++ [c] } }

def asmKey (c : Cmd) : Nat := c.src * 8 + c.vc

/-- End an assembly with ST_INCOMPLETE (R492). -/
def endAsm (d : Dev) (a : Assembly) : Dev :=
  let d := freeCmd { d with cmd := { d.cmd with asm := d.cmd.asm.filter (fun x => asmKey x.first ≠ asmKey a.first) } } a.grans
  reply d (replyOf a.first) St.incomplete []

/-- Key of a command whose later parts are dropped. -/
def dropKey (c : Cmd) : Nat := (c.src * 8 + c.vc) * 2 ^ 32 + c.tag

/-- A part of a multi-part command (R491, R492). A body above 64 KiB and a 513th part of a REGION_WRITE end the assembly as a part out of
order does; R491 gives these limits and no status (DESIGN CHOICE, log 164). -/
def takePart (d : Dev) (c : Cmd) : Dev :=
  let lost := fun d => bump (freeCmd d c.grans) Reg.CMD_DROP_CNT
  if tget false d.cmd.drop (dropKey c) ∧ c.part ≠ 0 then
    let d := lost d
    if c.more then d else { d with cmd := { d.cmd with drop := tset false d.cmd.drop (dropKey c) false } }
  else
    match d.cmd.asm.find? (fun a => decide (asmKey a.first = asmKey c)) with
    | some a =>
      if a.first.tag = c.tag ∧ a.first.opcode = c.opcode ∧ a.first.world = c.world ∧ c.part ≠ 0 then
        if c.part ≠ a.next ∨ (c.opcode ≠ 0x0504 ∧ a.body.length + c.params.length > 65536) ∨ c.part ≥ 512 then
          let d := endAsm (lost d) a
          if c.more then { d with cmd := { d.cmd with drop := tset false d.cmd.drop (dropKey c) true } } else d
        else if c.opcode = 0x0504 then
          let asm := d.cmd.asm.filter (fun x => asmKey x.first ≠ asmKey c)
          let asm := if c.more then asm ++ [{ a with next := a.next + 1 }] else asm
          queueCmd { d with cmd := { d.cmd with asm := asm } } c
        else
          let asm := d.cmd.asm.filter (fun x => asmKey x.first ≠ asmKey c)
          let a' := { a with body := a.body ++ c.params, next := a.next + 1, grans := a.grans + c.grans }
          if c.more then { d with cmd := { d.cmd with asm := asm ++ [a'] } }
          else queueCmd { d with cmd := { d.cmd with asm := asm } } { a.first with params := a'.body, grans := a'.grans, more := false }
      else
        let d := endAsm d a
        if c.part = 0 ∧ !c.more then queueCmd d c
        else if c.part = 0 then
          { d with cmd := { d.cmd with asm := d.cmd.asm ++ [⟨c, c.params, 1, c.grans, ns d + fget1 d Reg.CMD_CTRL Fd.CMD_CTRL_part_ticks * tickLen d⟩] } }
        else lost d
    | none =>
      if c.part = 0 ∧ !c.more then queueCmd d c
      else if c.part ≠ 0 then reply (lost d) (replyOf c) St.incomplete []
      else if d.cmd.asm.length ≥ 16 then
        let d := reply (bump (freeCmd d c.grans) Reg.CMD_QFULL_CNT) (replyOf c) St.cmdQueueFull []
        { d with cmd := { d.cmd with drop := tset false d.cmd.drop (dropKey c) true } }
      else
        let a : Assembly := ⟨c, c.params, 1, if c.opcode = 0x0504 then 0 else c.grans,
          ns d + fget1 d Reg.CMD_CTRL Fd.CMD_CTRL_part_ticks * tickLen d⟩
        let d := { d with cmd := { d.cmd with asm := d.cmd.asm ++ [a] } }
        if c.opcode = 0x0504 then queueCmd d c else d

/-- CMD_ASSEMBLY_TIMEOUT (R492). -/
def asmTimeout (d : Dev) (src vc : Nat) : Dev :=
  match d.cmd.asm.find? (fun a => decide (a.first.src = src ∧ a.first.vc = vc)) with
  | some a =>
    if a.endAt ≤ ns d then
      let d := raise (endAsm d a) 970
      { d with cmd := { d.cmd with drop := tset false d.cmd.drop (dropKey a.first) true } }
    else d
  | none => d

/-- A COMMAND frame at the management station, holding `g` command granules (R485, R489). -/
def takeCommand (d : Dev) (via : Via) (b : List Byte) (g : Nat) : Dev :=
  let c := cmdOf via b g
  let lost := bump (freeCmd d g) Reg.CMD_DROP_CNT
  if bit (byteAt b 18) 6 then
    if d.cmd.sent.any (fun s => decide (s.dst = c.src ∧ s.tag = c.tag ∧ s.opcode = c.opcode)) then
      if c.opcode = 0x0102 ∨ c.src = mgmtCoord d then
        freeCmd { d with cmd := { d.cmd with sent := d.cmd.sent.filter (fun s => !(decide (s.dst = c.src ∧ s.tag = c.tag))) } } g
      else { d with cmd := { d.cmd with seqQ := d.cmd.seqQ ++ [{ c with params := b.drop 28 }] } }
    else lost
  else if !headerOk b then
    if isNotice c.opcode then lost
    else replyBad (freeCmd d g) { replyOf c with vc := if c.vc = 5 then 5 else 4 } 0xFFFF
  else if isNotice c.opcode then queueCmd d { c with more := false }
  else takePart d c

/-- Mode in force of a port (R284, R311): a write of PORT_CFG.mode waits for the next tick boundary. -/
def portEcn (d : Dev) (p : Nat) : Bool := decide (tget 1 d.rte.modeNow p = 1)

/-- A frame with ECE for the device (R313): at most once per hold, the originated rate falls to 7/8, not below 1/64 of the port's. -/
def ecnCut (d : Dev) (p v : Nat) : Dev :=
  if v = 0 ∨ v = 4 ∨ !portEcn d p then d
  else
    let r := tget EcnRate.init d.rte.ecn (p * 8 + v)
    let full := portRate d p * 64
    let hold := 64 * fget1 d Reg.RTE_ECN Fd.RTE_ECN_hold
    let ok := match r.cutAt with | some t => decide (t + hold ≤ ns d) | none => true
    let r := { r with last := ns d }
    let r := if ok then { r with rate := some (max (full / 64) ((r.rate.getD full) * 7 / 8)), cutAt := some (ns d) } else r
    { d with rte := { d.rte with ecn := tset EcnRate.init d.rte.ecn (p * 8 + v) r } }

/-- A frame at the management station (R489). -/
def mgmtReceive (d : Dev) (via : Via) (b : List Byte) (g : Nat) : Dev :=
  match fKind b with
  | 5 => takeCommand d via b g
  | 7 => { freeCmd d g with ckp := { d.ckp with inbox := d.ckp.inbox ++ [b] } }
  | 9 => freeCmd d g
  | _ => bump (freeCmd d g) Reg.CMD_DROP_CNT

/-! ## The host (R496 to R498, R541) -/

def hostDrop (d : Dev) : Dev := raiseOnce (bump d Reg.CMD_RX_DROP_CNT) 969 0

/-- A frame for g.s.127.14 waits for the receive area, in the command quota, or is dropped. -/
def hostArrive (d : Dev) (b : List Byte) : Dev :=
  if !fbit d Reg.CMD_CTRL Fd.CMD_CTRL_rx_en || !d.pkg.pcieUp || !d.pkg.busM then hostDrop d
  else
    let a := poolAlloc d 3 0 (gransOf (fLen b))
    if a.1 then { a.2 with cmd := { a.2.cmd with rxWait := a.2.cmd.rxWait ++ [b] } } else hostDrop a.2

def rxSlots (d : Dev) : Nat := max 2 (fget d Reg.CMD_RX_SLOTS Fd.CMD_RX_SLOTS_slots)

/-- HOST_RX_DELIVER (R497): the frame bytes, then the descriptor. -/
def rxDeliver (d : Dev) : Dev :=
  match d.cmd.rxWait with
  | [] => d
  | b :: rest =>
    let t := fget d Reg.CMD_RX_TAIL Fd.CMD_RX_TAIL_tail
    if (t + 1) % rxSlots d = fget d Reg.CMD_RX_HEAD Fd.CMD_RX_HEAD_head ∨ !d.pkg.pcieUp ∨ !d.pkg.busM then d
    else
      let w := b ++ frameCheck b
      let base := rg d Reg.CMD_RX_BASE_0 / 4096 * 4096 + 2 ^ 32 * rg d Reg.CMD_RX_BASE_1 + 2304 * t
      let ph := if d.cmd.phase then 2 ^ 31 else 0
      let d := emit (emit d (.hostWrite (base + 8) w)) (.hostWrite base (beBytes 4 (ph + w.length) ++ beBytes 4 0))
      let d := poolFreeGrans { d with cmd := { d.cmd with rxWait := rest } } 3 0 (gransOf (fLen b))
      let n := (t + 1) % rxSlots d
      let d := fset d Reg.CMD_RX_TAIL Fd.CMD_RX_TAIL_tail n
      if n = 0 then { d with cmd := { d.cmd with phase := !d.cmd.phase } } else d

/-- rx_en falls to 0: frames that wait for the ring are dropped (R498). -/
def rxOff (d : Dev) : Dev :=
  let ws := d.cmd.rxWait
  ws.foldl (fun d b => hostDrop (poolFreeGrans d 3 0 (gransOf (fLen b)))) { d with cmd := { d.cmd with rxWait := [] } }

/-- rx_en rises: head and tail are 0 and the phase is 1 (R498). -/
def rxOn (d : Dev) : Dev :=
  let d := fset (fset d Reg.CMD_RX_HEAD Fd.CMD_RX_HEAD_head 0) Reg.CMD_RX_TAIL Fd.CMD_RX_TAIL_tail 0
  { d with cmd := { d.cmd with phase := true } }

/-- Submitted slots are taken in the order of their submit words, each freed once its frame has entered the pool (R496); the first that finds
no room holds the others back. -/
def hostPump : Nat → Dev → Dev
  | 0, d => d
  | n + 1, d => match d.cmd.subQ with
    | [] => d
    | j :: rest =>
      let s := tget HostSlot.free d.cmd.slots j
      let b := (padMin s.len s.bytes).take (s.len - 8)
      let cls := if fKind b = 5 then 3 else 1
      let g := gransOf s.len
      if quotaOf d cls < d.mem.sram.used.getD cls 0 + g ∨ poolFree d.mem.sram < g then d
      else
        let d := (poolAlloc d cls 0 g).2
        let d := { d with cmd := { d.cmd with slots := tset HostSlot.free d.cmd.slots j HostSlot.free, subQ := rest } }
        let b := setByte (setBytes b 7 (beBytes 3 (hostCoord d))) 2 (byteAt b 2 % 16)
        let s := stamp d b
        hostPump n (match nextHop s.2 s.1 with
          | .mgmt => takeCommand s.2 .host s.1 g
          | _ => sendFrom s.2 stMgmt (.port 127) s.1 0 cls g none false false none)

/-- HOST_SUBMIT (R496): a write of a slot's submit word. The slot takes the frame bytes as they stand. A frame that the pool refuses is
counted once. -/
def submit (d : Dev) (j : Nat) (bytes : List Byte) (len : Nat) : Dev :=
  let err := fun d => raiseOnce (bump d Reg.CMD_SUBMIT_ERR_CNT) 971 0
  let s := tget HostSlot.free d.cmd.slots j
  if s.len ≠ 0 then err d
  else
    let b := (padMin len bytes).take (len - 8)
    let k := fKind b
    if len < 64 ∨ 2216 < len ∨ !(k = 0 ∨ k = 5 ∨ k = 7 ∨ k = 8) then err d
    else
      let d := { d with cmd := { d.cmd with slots := tset HostSlot.free d.cmd.slots j ⟨bytes, len⟩, subQ := d.cmd.subQ ++ [j] } }
      let e := hostPump 257 d
      if e.cmd.subQ.getLast? = some j ∧ e.cmd.subQ.length = 1 then raiseOnce (bump e Reg.MEM_QUOTA_REFUSE_CNT) 945 (if k = 5 then 3 else 1) else e

/-! ## Running a command -/

/-- Outcome of a command's body: done with reply fields, with a status, with a reply in parts, accepted with its reply to come later, a part of a
command that goes on and has neither reply nor entry, malformed at an offset, or rejected with a status. -/
inductive Ans where
  | done (d : Dev) (fields : List Byte)
  | status (d : Dev) (st : Nat) (time : Option Nat)
  | parts (d : Dev) (ps : List (List Byte))
  | later (d : Dev)
  | hold (d : Dev)
  | bad (off : Nat)
  | err (st : Nat)
  | errX (st : Nat) (extra : List Byte)

/-- How a command stands in the opcode tables: code, whether only a secure requester may issue it, whether it is a query (R269), whether it
appends a COMMAND entry. -/
structure Row where
  code   : Nat
  secure : Bool
  query  : Bool
deriving DecidableEq, Repr

/-- A secure command is accepted by its arrival (R495). -/
def secureOk (d : Dev) (v : Via) : Bool :=
  match v with
  | .port p => decide (portKind d p.toNat = 1 ∨ portKind d p.toNat = 2)
      || bit (rg d (Reg.CMD_SECURE_PORT (p.toNat / 32))) (p.toNat % 32)
  | .host => fbit d Reg.CMD_CTRL Fd.CMD_CTRL_host_secure
  | .self => true

/-- Take the command out of its decoder's queue, freeing its granules (R494). -/
def dequeue (d : Dev) (h : CmdHdr) (code : Nat) : Dev :=
  let hit := fun (c : Cmd) => decide (c.src = h.src.toNat ∧ c.tag = h.tag.toNat ∧ c.opcode = code)
  if seqDecoded code then
    match ltake hit d.cmd.seqQ with
    | some (c, q) => freeCmd { d with cmd := { d.cmd with seqQ := q } } c.grans
    | none => d
  else
    match ltake hit d.cmd.sitQ with
    | some (c, q) => freeCmd { d with cmd := { d.cmd with sitQ := q } } c.grans
    | none => d

def hdrReply (h : CmdHdr) (code : Nat) : ReplyTo := ⟨h.src.toNat, h.vc.toNat, code, h.world, h.tag.toNat, 0⟩

/-- Group context or huddle group, epoch and bucket step that the parameters of a command name, each 0 where they name none (R267). -/
def cmdNames (code : Nat) (p : List Byte) : Nat × Nat × Nat :=
  if code = 0x0101 then (field p 0 2 % 4096, field p 2 2, field p 14 4)
  else if code = 0x0102 then (field p 0 2 % 4096, field p 2 2, 0)
  else if code = 0x0111 ∨ (code = 0x0110 ∧ (field p 0 4).testBit 16) then (field p 4 2 % 4096, 0, 0)
  else if code = 0x0202 ∨ (code = 0x0201 ∧ (field p 0 4).testBit 16) then (field p 4 2 % 256, 0, 0)
  else if code = 0x0113 ∨ code = 0x0401 then (field p 0 2 % 4096, 0, 0)
  else if code = 0x0114 then (if bit (byteAt p 0) 7 then field p 0 2 % 256 else field p 0 2 % 4096, 0, 0)
  else if code = 0x0115 then (if bit (byteAt p 12) 7 then field p 12 2 % 256 else field p 12 2 % 4096, 0, 0)
  else if code = 0x0204 then (field p 0 2 % 256, 0, 0)
  else if code = 0x0412 then (field p 2 2 % 4096, 0, 0)
  else (0, 0, 0)

/-- The COMMAND entry of a command that starts now, its status to come (R267, R268). -/
def recOf (d : Dev) (h : CmdHdr) (code : Nat) (p : List Byte) (status : Option (Option Nat)) : RecWait :=
  let hd := (mkHeader 5 h.vc.toNat (mgmtCoord d) h.src.toNat).take 16 ++ beBytes 2 code
    ++ beBytes 1 (if h.world then 0x80 else 0) ++ [0] ++ beBytes 4 h.tag.toNat ++ beBytes 2 p.length ++ beBytes 6 0
  let n := cmdNames code p
  ⟨hdrReply h code, timeBytes d, n.1, n.2.1, n.2.2, hd ++ p, status⟩

/-- Entries whose status is known and that no undecided entry of the same requester precedes, and the others (R268: the order of arrival
from each requester). -/
def recSplit (rs : List RecWait) : List RecWait × List RecWait :=
  rs.foldl (fun a r => if r.status.isNone || a.2.any (fun x => decide (x.who.dst = r.who.dst)) then (a.1, a.2 ++ [r]) else (a.1 ++ [r], a.2)) ([], [])

/-- Append the COMMAND entries that wait for nothing. -/
def recFlush (d : Dev) : Dev :=
  let x := recSplit d.cmd.recs
  x.1.foldl (fun d r => match r.status with
    | some (some st) => append d 0x01 r.ctx r.epoch r.step (r.body ++ beBytes 2 st) (some r.time)
    | _ => d) { d with cmd := { d.cmd with recs := x.2 } }

/-- The COMMAND entry of a command whose status is known (R268). -/
def recordCmd (d : Dev) (h : CmdHdr) (code : Nat) (p : List Byte) (status : Nat) : Dev :=
  recFlush { d with cmd := { d.cmd with recs := d.cmd.recs ++ [recOf d h code p (some (some status))] } }

/-- The entry of a command whose reply comes later keeps its place and its bell time (R150, R268, R269). -/
def recordWait (d : Dev) (h : CmdHdr) (code : Nat) (p : List Byte) : Dev :=
  { d with cmd := { d.cmd with recs := d.cmd.recs ++ [recOf d h code p none] } }

/-- A part of a command whose parts stand alone joins the command's one entry (R269, R491; log 165). -/
def recordPart (d : Dev) (h : CmdHdr) (code : Nat) (p : List Byte) : Dev :=
  match d.cmd.recs.findIdx? (fun x => decide (x.who = hdrReply h code) && x.status.isNone) with
  | some i => { d with cmd := { d.cmd with recs := d.cmd.recs.modify i (fun x => { x with body := x.body ++ p }) } }
  | none => recordWait d h code p

/-- The first undecided entry of a command gets its outcome: its status, or none where it was rejected. -/
def recSettle (d : Dev) (r : ReplyTo) (status : Option Nat) : Dev :=
  match d.cmd.recs.findIdx? (fun x => decide (x.who = r) && x.status.isNone) with
  | some i => recFlush { d with cmd := { d.cmd with recs := d.cmd.recs.modify i (fun x => { x with status := some status }) } }
  | none => d

/-- The reply to a command that was accepted earlier, its entry now complete. -/
def replyLate (d : Dev) (r : ReplyTo) (status : Nat) (fields : List Byte) : Dev := reply (recSettle d r (some status)) r status fields

def replyPartsLate (d : Dev) (r : ReplyTo) (status : Nat) (ps : List (List Byte)) : Dev := replyParts (recSettle d r (some status)) r status ps

/-- Run a command (R487, R495, R460, R269): its world, the room of the log, its body, its record entry and its reply. Sitonel starts no
command while the pair restarts (R534, R548). Where several rejections apply the rules give no order; the world comes first, then the room of the
log, then the layout, then what the command finds (DESIGN CHOICE, log 163). -/
def runCmd (row : Row) (h : CmdHdr) (p : List Byte) (body : Dev → ReplyTo → Ans) (d0 : Dev) : Dev :=
  let d := dequeue d0 h row.code
  let r := hdrReply h row.code
  if !seqDecoded row.code ∧ fbit d0 Reg.SIT_STATUS Fd.SIT_STATUS_restarting then d0
  else if h.world ∧ !secureOk d h.via then reply d r St.worldDenied []
  else if row.secure ∧ !h.world then reply d r St.worldDenied []
  else if !row.query ∧ logFull d then reply (bump d Reg.LOG_REFUSE_CNT) r St.logFull []
  else
    let rec' := fun d st => if row.query then d else recordCmd d h row.code p st
    match body d r with
    | .done d f => reply (rec' d St.ok) r St.ok f
    | .status d st t => reply d r st [] t
    | .parts d ps => replyParts (rec' d St.ok) r St.ok ps
    | .later d => if row.query then d else recordWait d h row.code p
    | .hold d => d
    | .bad off => replyBad d r off
    | .err st => reply d r st []
    | .errX st x => reply d r st x

/-- The body runs only where the parameters have the length of the layout (R486). -/
def needLen (p : List Byte) (n : Nat) (a : Ans) : Ans := if p.length = n then a else .bad (min p.length n)

/-- First reserved byte of a list of offsets that is not 0, or out of its range: the offset of the first failing test (R487). -/
def firstBad : List (Nat × Bool) → Option Nat
  | [] => none
  | (o, okk) :: xs => if okk then firstBad xs else some o

/-- Tests of a layout in order; the first failing one makes the command malformed at its offset. -/
def checks (xs : List (Nat × Bool)) (a : Ans) : Ans :=
  match firstBad xs with
  | some o => .bad o
  | none => a

end Sys2Proof.Machine
end

