-- ==== Sys2Proof/Machine/Bell.lean ====
section
/-! DEFINITION. The bell (08): states, exchanges, steering, external time, ticks, step alignment and replay. -/

namespace Sys2Proof.Machine

/-- State code of the bell (R276): 0 FREE, 1 ACQUIRE, 2 LOCKED, 3 HOLDOVER. -/
def bellState (d : Dev) : Nat := fget d Reg.BELL_STATUS Fd.BELL_STATUS_state

def bellTo (d : Dev) (s : Nat) : Dev := fset d Reg.BELL_STATUS Fd.BELL_STATUS_state s

def isMaster (d : Dev) : Bool := decide (fget d Reg.BELL_CTRL Fd.BELL_CTRL_role = 1)

def ppsEn (d : Dev) : Bool := fbit d Reg.BELL_CTRL Fd.BELL_CTRL_pps_en

/-- Nominal increment and the bounds of steering (R251). -/
def incNom : Nat := 3303820997
def incMin : Nat := 3303160233
def incMax : Nat := 3304481761

def bellLink (d : Dev) (l : Nat) : BellLink := tget BellLink.init d.bell.links l
def bellLinkPut (d : Dev) (l : Nat) (x : BellLink) : Dev :=
  { d with bell := { d.bell with links := tset BellLink.init d.bell.links l x } }

/-- Bell words flow on a link from step 7 onward (R257). -/
def bellFlows (d : Dev) (l : Nat) : Bool := decide (7 ≤ linkStep d l ∧ linkStep d l ≤ 10)

/-- A link is in service (R253), also while it drains. -/
def bellServes (d : Dev) (l : Nat) : Bool := decide (linkStep d l = 9 ∨ linkStep d l = 10)

/-- The lowest-numbered valid parent entry whose link is as `p` asks. -/
def parentWith (d : Dev) (p : Nat → Bool) : Option (Nat × Nat) :=
  (List.range 4).findSome? (fun k =>
    let l := fget d (Reg.BELL_PARENT k) Fd.BELL_PARENT_link
    if fbit d (Reg.BELL_PARENT k) Fd.BELL_PARENT_valid ∧ p l then some (k, l) else none)

/-- The active parent entry and its link (R253). In ACQUIRE no link need be in service yet (R254, R257): there, and in LOCKED until the first one is, an
entry on whose link bell words flow stands in (log 18). -/
def activeParent (d : Dev) : Option (Nat × Nat) :=
  match parentWith d (bellServes d) with
  | some x => some x
  | none => if bellState d = 1 ∨ (bellState d = 2 ∧ !d.bell.upSeen) then parentWith d (bellFlows d) else none

/-- A BELL entry (R268, R577). -/
def bellEntry (d : Dev) (ev value : Nat) (time : Option Nat := none) : Dev :=
  append d 0x09 0 0 (rg d Reg.BELL_STEP_CNT) (beBytes 1 ev ++ beBytes 8 value) (time.map nsBytes)

/-- Insert in ascending order. -/
def insInt (x : Int) : List Int → List Int
  | [] => [x]
  | y :: ys => if x ≤ y then x :: y :: ys else y :: insInt x ys

/-- Median of the values held; of an even number the lower middle one (log 17). -/
def median (xs : List Int) : Int := (xs.foldr insInt []).getD ((xs.length - 1) / 2) 0

/-- Enter HOLDOVER (R254): the increment freezes at its mean over the last 1,024 exchanges. -/
def holdover (d : Dev) : Dev :=
  let n := d.bell.incs.length
  let inc := if n = 0 then rg d Reg.BELL_INC else d.bell.incs.foldl (· + ·) 0 / n
  let d := bump (rgPut (bellTo d 3) Reg.BELL_INC inc) Reg.BELL_HOLDOVER_CNT
  bellEntry (unitFault d Reg.BELL_FAULT Fd.BELL_FAULT_holdover 904) 1 inc

/-- After a change of the links or parents: the active parent's fields, its change (R258), and HOLDOVER where a FOLLOWER in LOCKED has no
parent left (R254). -/
def bellWatch (d : Dev) : Dev :=
  let s := bellState d
  if s = 0 then d
  else match activeParent d with
    | none => if s = 2 ∧ !isMaster d then holdover d else d
    | some (k, l) =>
      let a := Reg.BELL_STATUS
      let d := if bellServes d l ∧ !d.bell.upSeen then { d with bell := { d.bell with upSeen := true } } else d
      if d.bell.parent = some (k, l) then d
      else
        let e := fset (fset d a Fd.BELL_STATUS_parent_idx k) a Fd.BELL_STATUS_parent_link l
        let e := { e with bell := { e.bell with parent := some (k, l) } }
        if d.bell.parent.isSome then bellEntry (bump e Reg.BELL_PARENT_SWITCH_CNT) 3 (k * 256 + l) else e

/-- Steer by an offset in 2^-8 ns (R258): the increment lies within 200 ppm on the side that lowers the offset, and beyond 1,000 ns at 200 ppm; its
exact value is free (log 14). -/
def steer (d : Dev) (off : Int) : Dev :=
  let v := if off.natAbs > 1000 * 256 then (if off > 0 then incMin else incMax) else Config.steerFree off d.free
  let inc := if off > 0 then max incMin (min v (incNom - 1)) else if off < 0 then min incMax (max v (incNom + 1)) else incNom
  let incs := (d.bell.incs ++ [inc]).drop (d.bell.incs.length + 1 - 1024)
  rgPut { d with free := d.free + 1, bell := { d.bell with incs := incs } } Reg.BELL_INC inc

/-- The counter is set (R254, R275), in units of 2^-32 ns: boundaries and refills before the new time are past, and a high BELL_PPS_OUT keeps its 100 ms. -/
def bellLoad (d : Dev) (now : Nat) : Dev :=
  let t := now % 2 ^ 96
  let out := d.bell.ppsOut.map (fun x => x + t / 2 ^ 32 - ns d)
  { d with clk := { d.clk with now := t, ticked := t / 2 ^ 32 / tickLen d }, bell := { d.bell with ppsOut := out, ppsSec := none, stepAt := some (t / 2 ^ 32 / tickLen d) },
           tm := { d.tm with refill := t / 2 ^ 32 / 80, polAt := t / 2 ^ 32 / 80 } }

/-- Steer, with the faults of a wide offset in LOCKED and of a far one (R258, R273). -/
def steerBy (d : Dev) (off : Int) : Dev :=
  let d := steer d off
  let d := if bellState d = 2 ∧ off.natAbs > 50 * 256 then unitFault d Reg.BELL_FAULT Fd.BELL_FAULT_offset_wide 905 else d
  if off.natAbs > 1000 * 256 then unitFault d Reg.BELL_FAULT Fd.BELL_FAULT_offset_far 906 else d

/-- An offset to follow, in 2^-8 ns: the counter is set once to `now` in ACQUIRE while no link was ever in service, steered after that, LOCKED after 16
in a row below 4 ns; in HOLDOVER the reference has returned (R254, R258). -/
def follow (d : Dev) (off : Int) (now : Nat) : Dev :=
  match bellState d with
  | 1 =>
    if !d.bell.wasSet ∧ !d.clk.inUse then bellLoad { d with bell := { d.bell with wasSet := true } } now
    else
      let d := steerBy d off
      let g := if off.natAbs < 1024 then d.bell.good + 1 else 0
      let d := { d with bell := { d.bell with good := g } }
      if g ≥ 16 then bellTo { d with bell := { d.bell with upSeen := false } } 2 else d
  | 2 => steerBy d off
  | 3 => steerBy (bellEntry (bellTo d 2) 2 (unsigned 64 off)) off
  | _ => d

/-- BELL_WORD_SEND (R255): the word is the body of a BELL message whose first codeword leaves now (R399). -/
def wordSend (d : Dev) (l : Nat) : Dev :=
  let x := bellLink d l
  if !alive d || !bellFlows d l || decide (ns d < x.sent + 128 * fget1 d Reg.BELL_CTRL Fd.BELL_CTRL_xchg ∧ x.sent ≠ 0) then d
  else
    let e := match x.rx with | some (t, a) => (t, ns256 d - a, 8) | none => (0, 0, 0)
    let w := beBytes 6 (ns256 d) ++ beBytes 6 e.1 ++ beBytes 3 e.2.1 ++ beBytes 1 (x.seq * 16 + e.2.2)
    emit (sendMessage (bellLinkPut d l { x with seq := (x.seq + 1) % 16, sent := ns d }) l 1 false w) (.bellWord l w)

/-- The value nearest to `near` whose low 48 bits are `low` (R255). -/
def rebuild48 (near low : Nat) : Nat :=
  let b := near - near % tmod48 + low
  if b > near + tmod48 / 2 ∧ b ≥ tmod48 then b - tmod48 else if b + tmod48 / 2 < near then b + tmod48 else b

/-- LINK_STATUS.long_reach follows the measured delay (R401). -/
def longReach (d : Dev) (l : Nat) : Dev :=
  fset d (Reg.LINK_STATUS l) Fd.LINK_STATUS_long_reach (if signed 32 (rg d (Reg.BELL_LINK_DELAY l)) > 500 * 256 then 1 else 0)

/-- BELL_WORD_RECEIVE (R255, R256). -/
def wordReceive (d : Dev) (l : Nat) (w : List Byte) : Dev :=
  if !alive d || !bellFlows d l then d
  else
    let t := ns256 d
    let ttx := rebuild48 t (field w 0 6)
    let x := bellLink d l
    let d := bellLinkPut d l { x with rx := some (ttx, t) }
    if !bit (byteAt w 15) 3 then bellWatch d
    else
      let d := bump d Reg.BELL_XCHG_CNT
      let rtt : Int := ((t : Int) - (rebuild48 t (field w 6 6) : Nat)) - (field w 12 3 : Nat)
      let din := (rtt + signed 32 (rg d (Reg.BELL_LINK_ASYM l))) / 2
      let off := (t : Int) - (ttx : Nat) - din
      let x := bellLink d l
      let x := { x with dIn := (x.dIn ++ [din]).drop (x.dIn.length + 1 - 16), off := (x.off ++ [off]).drop (x.off.length + 1 - 16) }
      let d := longReach (rgPut (bellLinkPut d l x) (Reg.BELL_LINK_DELAY l) (unsigned 32 (median x.dIn))) l
      let d := bellWatch d
      match activeParent d with
      | some (_, pl) =>
        if pl ≠ l then d
        else
          let d := rgPut d Reg.BELL_OFFSET (unsigned 32 (median x.off))
          if isMaster d then d else follow d (median x.off) ((d.clk.now : Int) - off * 2 ^ 24).toNat
      | none => d

/-- PPS_EDGE (R260). -/
def ppsEdge (d : Dev) : Dev :=
  if !alive d then d
  else
    let d := fset d Reg.BELL_STATUS Fd.BELL_STATUS_pps_seen 1
    if !ppsEn d then d
    else
      let sec := 256 * 1000000000
      let r := ns256 d % sec
      let err : Int := if 2 * r < sec then (r : Int) else (r : Int) - sec
      let d := rgPut d Reg.BELL_PPS_ERR (unsigned 32 err)
      if !isMaster d then d
      else
        let d := follow d err (rg d Reg.BELL_PPS_SEC * 1000000000 * 2 ^ 32)
        { d with bell := { d.bell with ppsAt := some (ns d), ppsSeen := ns d } }

/-- PPS_MISS (R260). -/
def ppsMiss (d : Dev) : Dev :=
  if !alive d || !ppsEn d || !isMaster d || !decide (bellState d = 1 ∨ bellState d = 2) || decide (ns d < d.bell.ppsSeen + 3000000000) then d
  else
    let d := unitFault (bump d Reg.BELL_PPS_MISS_CNT) Reg.BELL_FAULT Fd.BELL_FAULT_pps_missing 907
    holdover (bellEntry d 4 (d.bell.ppsAt.getD 0))

/-- BELL_PPS_OUT rises for second s, unless it has risen for it; it stays high for 100 ms (R261). -/
def ppsRise (d : Dev) (s : Nat) : Dev :=
  if !alive d || !fbit d Reg.BELL_CTRL Fd.BELL_CTRL_pps_out_en || decide (d.bell.ppsSec = some s) then d
  else emit { d with bell := { d.bell with ppsOut := some (s * 1000000000 + 100000000), ppsSec := some s } } (.pps true)

/-- PPS_OUT_EDGE (R261): within 2 ns of a whole second. -/
def ppsOut (d : Dev) : Dev :=
  let s := (ns d + 2) / 1000000000
  if ns d ≤ s * 1000000000 + 2 then ppsRise d s else d

/-- BELL_PPS_OUT falls 100 ms after it rose (R261). -/
def ppsFall (d : Dev) : Dev :=
  match d.bell.ppsOut with
  | some t => if t ≤ ns d then emit { d with bell := { d.bell with ppsOut := none } } (.pps false) else d
  | none => d

/-- Bell time has gone on from t0, in ns: BELL_PPS_OUT rises at a whole second that it crossed, and falls 100 ms later. -/
def ppsPass (d : Dev) (t0 : Nat) : Dev :=
  let s := ns d / 1000000000
  ppsFall (if t0 < s * 1000000000 then ppsRise d s else d)

/-- BELL_CTRL.enable changed (R254). -/
def bellEnable (d : Dev) (on : Bool) : Dev :=
  let d := { d with bell := { d.bell with good := 0, wasSet := false, incs := [], ppsSeen := ns d, parent := none, upSeen := false } }
  if on then bellWatch (bellTo d (if isMaster d ∧ !ppsEn d then 2 else 1))
  else rgPut (bellTo d 0) Reg.BELL_INC incNom

/-- BELL_CTRL.set_go (R275): only in FREE, and never once a link has been admitted (R252). -/
def bellSet (d : Dev) : Dev :=
  if bellState d = 0 ∧ !d.clk.inUse then
    bellLoad d (rg64 d Reg.BELL_SET_0 * 2 ^ 32)
  else fset d Reg.BELL_STATUS Fd.BELL_STATUS_set_err 1

/-- BELL_TICK.go (R263); `old` is the word before the write, which a refused write leaves. -/
def tickGo (d : Dev) (old : Nat) : Dev :=
  let sel := fget d Reg.BELL_TICK Fd.BELL_TICK_next_sel
  let t := rg64 d Reg.BELL_TICK_AT_0
  if sel ≤ 5 ∧ t % 8192 = 0 ∧ t > ns d + 8192 then
    fset { d with bell := { d.bell with tickArm := some (sel, t) } } Reg.BELL_TICK Fd.BELL_TICK_pend 1
  else fset (rgPut d Reg.BELL_TICK old) Reg.BELL_TICK Fd.BELL_TICK_err 1

def stepArmed (d : Dev) : Bool := fbit d Reg.BELL_STEP_CTRL Fd.BELL_STEP_CTRL_arm

/-- TICK_CHANGE_EFFECT (R263); `busy` says whether a huddle group is ACTIVE. -/
def tickEffect (d : Dev) (busy : Bool) : Dev :=
  match d.bell.tickArm with
  | none => d
  | some (sel, t) =>
    if ns d < t then d
    else
      let d := fset { d with bell := { d.bell with tickArm := none } } Reg.BELL_TICK Fd.BELL_TICK_pend 0
      let gates := (List.range 128).any (fun p => fbit d (Reg.TM_GATE_STATUS p) Fd.TM_GATE_STATUS_en)
      if busy ∨ gates ∨ stepArmed d then
        unitFault (fset d Reg.BELL_TICK Fd.BELL_TICK_err 1) Reg.BELL_FAULT Fd.BELL_FAULT_tick_refused 909
      else
        let d := fset d Reg.BELL_TICK Fd.BELL_TICK_sel sel
        bellEntry { d with clk := { d.clk with ticked := t / tickOf sel, slotTick := t / tickOf sel } } 0 (tickOf sel) (some t)

/-- BELL_STEP_CTRL.arm written 1 (R264): step ticks count from the next boundary on; where the origin is no whole multiple of the tick the write has no effect but err. -/
def stepArm (d : Dev) (old : Nat) : Dev :=
  let o := rg64 d Reg.BELL_STEP_ORIGIN_0
  if o % tickLen d = 0 then
    { fset d Reg.BELL_STEP_CTRL Fd.BELL_STEP_CTRL_arm 1 with
      bell := { d.bell with stepIn := some (fget1 d Reg.BELL_STEP_CTRL Fd.BELL_STEP_CTRL_period, o), stepNext := none, stepAt := some (tickIdx d) } }
  else fset (rgPut d Reg.BELL_STEP_CTRL old) Reg.BELL_STEP_CTRL Fd.BELL_STEP_CTRL_err 1

def stepDisarm (d : Dev) : Dev := { d with bell := { d.bell with stepIn := none, stepNext := none } }

/-- The period or the origin was written while armed: it takes effect after the next step tick (R264). -/
def stepDefer (d : Dev) : Dev :=
  { d with bell := { d.bell with stepNext := some (fget1 d Reg.BELL_STEP_CTRL Fd.BELL_STEP_CTRL_period, rg64 d Reg.BELL_STEP_ORIGIN_0) } }

/-- Whether the boundary of the present tick is a step tick that came while armed and has not been stamped (R264). -/
def stepDue (d : Dev) : Bool :=
  match d.bell.stepIn with
  | none => false
  | some (p, o) =>
    let i := tickIdx d
    let i0 := o / tickLen d
    stepArmed d && decide (i0 ≤ i ∧ (i - i0) % p = 0) && decide (d.bell.stepAt ≠ some i)

/-! ## Replay (R270) -/

/-- Recorded entries of a region from offset o on: a length field of 0 ends the walk. -/
def walkEntries (d : Dev) (r : Region) : Nat → Nat → List (List Byte)
  | 0, _ => []
  | n + 1, o =>
    let len := 8 * beNat (regionRead d r (o + 2) 2)
    if len = 0 ∨ o + len > regionBytes r then []
    else regionRead d r o len :: walkEntries d r n (o + len)

/-- REPLAY_START (R270). -/
def replayStart (d : Dev) (h : CmdHdr) (p : List Byte) : Ans :=
  needLen p 28 (checks [(2, handleOk (field p 0 4)), (24, decide (field p 24 4 = 0))] (match regionOf d (field p 0 4) with
    | none => .err St.noRegion
    | some (_, r) =>
      if r.secure ≠ h.world then .bad 0
      else if replayActive d then .err St.replayBusy
      else
        let es := (walkEntries d r (d.mem.hbm.length + 1) 0).filter (fun e =>
          decide (field p 4 6 ≤ field e 4 6 ∧ field e 4 6 ≤ field p 10 6))
        let d := fset d Reg.REPLAY_CTRL Fd.REPLAY_CTRL_active 1
        .done { d with bell := { d.bell with replay := es, repOff := signed 64 (field p 16 8), repDone := [], repRegion := field p 0 4 } } []))

/-- REPLAY_STOP (R270). -/
def replayStop (d : Dev) (p : List Byte) : Ans :=
  needLen p 0 (.done { fset d Reg.REPLAY_CTRL Fd.REPLAY_CTRL_active 0 with
    bell := { d.bell with replay := [], repDone := [], repRegion := 0 } } [])

end Sys2Proof.Machine
end

