-- ==== Sys2Proof/Machine/Mirror.lean ====
section
/-! DEFINITION. Data for the partner (14 R462 to R465): what waits for its turn in a stream, what was sent and not acknowledged, and the frames that
carry it. A stream's key is its number × 65,536 + the shard or group that it belongs to. -/

namespace Sys2Proof.Machine

/-- Whether changes are kept for the partner: REFILLING or MIRRORED (R463). -/
def mirSending (d : Dev) : Bool := decide (partnerState d = 1 ∨ partnerState d = 2)

def mirKey (stream num : Nat) : Nat := stream * 65536 + num

def mirOut (d : Dev) (k : Nat) : MirOut := tget MirOut.init d.ckp.outs k
def mirOutPut (d : Dev) (k : Nat) (x : MirOut) : Dev := { d with ckp := { d.ckp with outs := tset MirOut.init d.ckp.outs k x } }

/-- Data for a stream. -/
def mirPush (d : Dev) (k off : Nat) (bytes : List Byte) (last : Bool) : Dev :=
  { d with ckp := { d.ckp with outbox := d.ckp.outbox ++ [(k, off, bytes, last)] } }

/-- A shard is mirrored unless the partner has no space for it (R462). -/
def shardMirrored (d : Dev) (i : Nat) : Bool := !tget false d.ckp.unmirrored i

/-- Whether rows of a shard's stream are mirrored as they are written: MIRRORED, and no whole pass is owed at the end. -/
def mirRows (d : Dev) (stream i : Nat) : Bool :=
  decide (partnerState d = 2) && shardMirrored d i && !tget false d.ckp.whole (mirKey stream i)

/-- Cut data into what one frame carries: at most 2,048 bytes, and never fewer than the 24 that the shortest frame holds (R464). -/
def mirCut : Nat → Nat → List Byte → Bool → List (Nat × List Byte × Bool)
  | 0, _, _, _ => []
  | n + 1, off, bs, last =>
    if bs.length ≤ 2048 then [(off, bs, last)]
    else
      let m := if bs.length < 2072 then 2024 else 2048
      (off, bs.take m, false) :: mirCut n (off + m) (bs.drop m) last

/-- Move what waits into its streams, each at the stream's next offset; the log's offset goes round its region. -/
def mirMove : Nat → Dev → Dev
  | 0, d => d
  | n + 1, d =>
    match ltake (fun e => decide (e.2.1 = (mirOut d e.1).next)) d.ckp.outbox with
    | none => d
    | some (e, rest) =>
      let o := mirOut d e.1
      let stop := e.2.1 + e.2.2.1.length
      let nx := if e.2.2.2 then 0 else if e.1 = 0 then stop % max 1 (logSize d) else stop
      let at' := if o.segs.isEmpty then ns d else o.at_
      let segs := o.segs ++ mirCut (e.2.2.1.length + 1) e.2.1 e.2.2.1 e.2.2.2
      mirMove n (mirOutPut { d with ckp := { d.ckp with outbox := rest } } e.1 { o with segs := segs, next := nx, at_ := at' })

/-- A CHECKPOINT frame to the partner (R464). -/
def mirFrame (d : Dev) (stream num flags off : Nat) (bytes : List Byte) : List Byte :=
  (mkHeader 7 6 (rg d Reg.CKP_PARTNER % 2 ^ 24) (mgmtCoord d)).take 16 ++ beBytes 1 stream ++ beBytes 1 flags ++ beBytes 2 num ++ beBytes 8 off
    ++ beBytes 4 (if bytes.isEmpty then 0 else crc32c bytes) ++ bytes

/-- Send the segments of a stream that were not sent, in order, while the quota has room and never past a LAST that is not acknowledged. -/
def mirSendOut : Nat → Nat → Dev → Dev
  | 0, _, d => d
  | n + 1, k, d =>
    let o := mirOut d k
    match o.segs[o.sent]? with
    | none => d
    | some s =>
      let f := mirFrame d (k / 65536) (k % 65536) (if s.2.2 then 0x80 else 0) s.1 s.2.1
      if (o.segs.take o.sent).any (fun s => s.2.2) || !(poolAlloc d 3 0 (gransOf (fLen (padMin 56 f)))).1 then d
      else mirSendOut n k (originate (mirOutPut d k { o with sent := o.sent + 1 }) f)

/-- Everything owed to the partner takes its turn. -/
def mirFlush (d : Dev) : Dev :=
  if !mirSending d then d
  else
    let d := mirMove d.ckp.outbox.length d
    d.ckp.outs.foldl (fun d e => mirSendOut (e.2.segs.length + 1) e.1 d) d

/-- Nothing of a stream waits or is unacknowledged. -/
def mirDone (d : Dev) (k : Nat) : Bool := (mirOut d k).segs.isEmpty && !d.ckp.outbox.any (fun e => decide (e.1 = k))

/-- Offset below which the partner has acknowledged a stream's present pass. -/
def mirPos (d : Dev) (k : Nat) : Nat := match (mirOut d k).segs with
  | s :: _ => s.1
  | [] => (mirOut d k).next

/-- Sequence of the first log entry that the partner has not acknowledged (R459). -/
def logMirrored (d : Dev) : Nat :=
  if mirDone d 0 then rg64 d Reg.RECORD_SEQ_0
  else
    let h := mirPos d 0
    match d.log.find? (fun e => decide (e.off ≤ h ∧ h < e.off + e.bytes.length ∧ logFreed d ≤ e.seq)) with
    | some e => e.seq
    | none => match (logLive d).find? (fun e => decide (e.off = 0)) with
      | some e => e.seq
      | none => rg64 d Reg.RECORD_SEQ_0

/-- An ACK of a stream up to an offset (R464): the first sent segment that ends there, and all before it, are acknowledged. -/
def mirAck (d : Dev) (k p : Nat) : Dev :=
  let o := mirOut d k
  let m := if k = 0 then max 1 (logSize d) else 2 ^ 64
  match (List.range o.sent).find? (fun i => match o.segs[i]? with
      | some s => decide ((s.1 + s.2.1.length) % m = p % m)
      | none => false) with
  | none => d
  | some i =>
    let d := mirOutPut d k { o with segs := o.segs.drop (i + 1), sent := o.sent - (i + 1), at_ := ns d }
    if k = 0 then rg64Put d Reg.LOG_MIRRORED_0 (logMirrored d) else d

/-- What is left of a stream's pass is queued from its present content, in place of the data that waits, so that the next pass can start
(log 26). -/
def mirFinish (d : Dev) (k : Nat) (content : List Byte) : Dev :=
  let o := mirOut d k
  let d := { d with ckp := { d.ckp with outbox := d.ckp.outbox.filter (fun e => decide (e.1 ≠ k)) } }
  if o.next = 0 then d else mirPush d k o.next (content.drop o.next) true

end Sys2Proof.Machine
end

