-- ==== Sys2Proof/Machine/Operands.lean ====
section
/-! DEFINITION. Operand forms: bucket keys and the parameters of BUCKET_OPEN (R501), the fixed part and the bitmap segments of notices (R166),
tagged blocks (R55), group images and slots (R475, R502). -/

namespace Sys2Proof.Machine

/-! ## Bucket keys (R133) -/

def bkey (ctx epoch tag : Nat) : Nat := ctx * 2 ^ 32 + epoch * 65536 + tag
def kCtx (k : Nat) : Nat := k / 2 ^ 32
def kEpoch (k : Nat) : Nat := k / 65536 % 65536
def kTag (k : Nat) : Nat := k % 65536

def keyOf (k : BKey) : Nat := bkey k.ctx.toNat k.epoch.toNat k.tag.toNat

/-! ## BUCKET_OPEN (R132, R151) -/

def bOp (b : Bucket) : Nat := byteAt b.params 6
def bType (b : Bucket) : Nat := byteAt b.params 7
def bFmt (b : Bucket) : Nat := byteAt b.params 8
def bBlocks (b : Bucket) : Nat := field b.params 10 4
def bStep (b : Bucket) : Nat := field b.params 14 4
def bSource (b : Bucket) : Nat := field b.params 40 2
def bRegion (b : Bucket) : Nat := field b.params 42 4
def bMicro (b : Bucket) : Nat := field b.params 46 2
def bFinal (b : Bucket) : Bool := decide (byteAt b.params 48 = 1)
def bThen (b : Bucket) : Nat := byteAt b.params 49

/-! ## Reduce policy (R127) -/

def polQuorum (p : Nat) : Nat := bits p 15 12
def polShort (p : Nat) : Nat := bits p 11 10
def polSubst (p : Nat) : Bool := bit p 9
def polXchk (p : Nat) : Bool := bit p 8
def polReplay (p : Nat) : Bool := bit p 7
def polDual (p : Nat) : Bool := bit p 6
def polPair (p : Nat) : Bool := bit p 5
def polToss (p : Nat) : Bool := bit p 4

/-- Reserved bits of a policy (R127): [31:16], [3:0] and short_action 0b11. -/
def polOk (p : Nat) : Bool := decide (p < 65536 ∧ p % 16 = 0 ∧ polShort p ≠ 3)

/-! ## Tagged blocks (R55, R430): 256 B of payload, then the 16 B tag -/

def blkPayload (b : List Byte) : List Byte := b.take 256
def blkCrc (b : List Byte) : Nat := field b 256 4
def blkRes (b : List Byte) : Nat := field b 260 2
def blkStatus (b : List Byte) : Nat := field b 262 2
def blkSeq (b : List Byte) : Nat := field b 264 4
def blkRm (b : List Byte) : Nat := field b 268 2
def blkFmt (b : List Byte) : Nat := byteAt b 270

/-- Whether the CRC-32C of a block matches (R430). -/
def crcOk (b : List Byte) : Bool := decide (blkCrc b = crc32c (b.take 256 ++ b.drop 260))

def resOk (b : List Byte) : Bool := decide (blkRes b = tagResidue (blkPayload b))

/-- The block check (R430). -/
def blkOk (b : List Byte) : Bool := crcOk b && resOk b

/-- A block that the device forms (R96, R431): payload, status, sequence, RM16 or E_ref, format, origin. -/
def mkBlock (payload : List Byte) (status seq rm fmt origin : Nat) : List Byte :=
  let p := padMin 256 payload
  let tail := beBytes 2 (tagResidue p) ++ beBytes 2 (outStatus status) ++ beBytes 4 seq ++ beBytes 2 rm ++ beBytes 1 fmt ++ beBytes 1 origin
  p ++ beBytes 4 (crc32c (p ++ tail)) ++ tail

/-- Blocks of a fabric frame (R287): as many as its block count says. -/
def frameBlocks (b : List Byte) : List (List Byte) := (List.range (min 8 (fBlocks b))).map (fun i => (b.drop (32 + 272 * i)).take 272)

/-- Bucket key and attempt of a CONTRIB, RESULT, PUBLISH or GATHER header (R288). -/
def passKey (b : List Byte) : Nat := bkey (field b 16 2 % 4096) (field b 18 2) (field b 20 2)
def passAtt (b : List Byte) : Nat := byteAt b 22 % 8

/-- A pass of blocks (R287, R288). -/
def mkPass (kind vc dst src key att : Nat) (mc : Bool) (blocks : List (List Byte)) : List Byte :=
  let h := (mkHeader kind vc dst src).take 16 ++ beBytes 2 (kCtx key) ++ beBytes 2 (kEpoch key) ++ beBytes 2 (kTag key) ++ beBytes 1 att
    ++ List.replicate 9 0
  padMin 56 (setByte (setByte h 3 blocks.length) 2 (if mc then 8 else 0) ++ blocks.flatten)

/-! ## Bitmaps of members (R166): numbers with bit i for member i -/

/-- Segment s of a bitmap as 128 bytes: member 1,024 s + i at bit (7 − i mod 8) of byte i / 8. -/
def segBytes (n s : Nat) : List Byte :=
  (List.range 128).map (fun j => BitVec.ofNat 8 ((List.range 8).foldl (fun a b => 2 * a + (n.testBit (1024 * s + 8 * j + b)).toNat) 0))

/-- The number of a 128-byte segment, bit i for its member i. -/
def segNat (bs : List Byte) : Nat :=
  (List.range 128).foldr (fun j a => a * 256 + (List.range 8).foldr (fun b x => 2 * x + (bit (byteAt bs j) (7 - b)).toNat) 0) 0

/-- Segments of a bitmap of `m` members that differ from their default (R166): kinds 0 and 2 all ones, kind 1 all zeros. -/
def segsOf (kind m n : Nat) : List (List Byte) :=
  (List.range (ceilDiv m 1024)).filterMap (fun s =>
    let w := min 1024 (m - 1024 * s)
    let x := bits n (1024 * s + w - 1) (1024 * s)
    if kind = 1 then (if x = 0 then none else some (beBytes 1 kind ++ beBytes 1 0 ++ beBytes 2 s ++ segBytes (x <<< (1024 * s)) s))
    else if x = ones w then none
    else some (beBytes 1 kind ++ beBytes 1 0 ++ beBytes 2 s ++ segBytes ((x + (ones 1024 - ones w)) <<< (1024 * s)) s))

/-- The bitmap of a kind that a notice's segments give, over `m` members. -/
def bitmapOf (kind m : Nat) (segs : List (List Byte)) : Nat :=
  (List.range (ceilDiv m 1024)).foldl (fun a s =>
    let w := min 1024 (m - 1024 * s)
    let x := match segs.find? (fun g => decide (byteAt g 0 = kind ∧ field g 2 2 = s)) with
      | some g => segNat (g.drop 4) % 2 ^ w
      | none => if kind = 1 then 0 else ones w
    a + x * 2 ^ (1024 * s)) 0

/-! ## Notices (R166) -/

def nKey (p : List Byte) : Nat := bkey (field p 0 2 % 4096) (field p 2 2) (field p 4 2)
def nAtt (p : List Byte) : Nat := byteAt p 6
def nFlags (p : List Byte) : Nat := byteAt p 7
def nIssuer (p : List Byte) : Nat := field p 8 3
def nCause (p : List Byte) : Nat := byteAt p 11
def nPart (p : List Byte) : Nat := byteAt p 24
def nCount (p : List Byte) : Nat := byteAt p 25
def nMicro (p : List Byte) : Nat := byteAt p 26
def nExt (p : List Byte) : List Byte := (p.drop 28).take 10
def nSegs (p : List Byte) : List (List Byte) := (List.range (field p 38 2)).map (fun i => (p.drop (40 + 132 * i)).take 132)

/-- Reserved bits, ranges and length of a notice part (R166, R489). -/
def noticeOk (p : List Byte) : Bool :=
  decide (p.length = 40 + 132 * field p 38 2) && decide (field p 38 2 ≤ 16) && decide (field p 0 2 < 4096) && decide (nFlags p % 16 = 0)
  && decide (1 ≤ nCount p ∧ nCount p ≤ 12) && decide (nPart p < nCount p) && decide (byteAt p 27 = 0)
  && (nSegs p).all (fun g => decide (byteAt g 0 ≤ 2 ∧ byteAt g 1 = 0 ∧ field g 2 2 < 64))

/-- A notice to be sent: opcode, flags, byte 11, E_ref, micro index, bytes 28 to 37, segments. -/
structure NMsg where
  op    : Nat
  flags : Nat
  code  : Nat
  eref  : Int
  micro : Nat
  ext   : List Byte
  segs  : List (List Byte)

/-- Parameters of the parts of a notice (R166). -/
def noticeParts (key att issuer : Nat) (time : List Byte) (m : NMsg) : List (List Byte) :=
  let n := max 1 (ceilDiv m.segs.length 16)
  (List.range n).map (fun i =>
    let g := (m.segs.drop (16 * i)).take 16
    beBytes 2 (kCtx key) ++ beBytes 2 (kEpoch key) ++ beBytes 2 (kTag key) ++ beBytes 1 att ++ beBytes 1 m.flags ++ beBytes 3 issuer
      ++ beBytes 1 m.code ++ time ++ beBytes 2 (unsigned 16 m.eref) ++ beBytes 1 i ++ beBytes 1 n ++ beBytes 1 m.micro ++ [0]
      ++ padMin 10 m.ext ++ beBytes 2 g.length ++ g.flatten)

/-! ## Group images (R475, R502) -/

/-- A slot's 12 bytes (R475). -/
def slotBytes (s : SlotE) : List Byte :=
  beBytes 1 (if s.child then 128 else 0) ++ beBytes 3 s.weight ++ beBytes 2 s.member ++ beBytes 3 s.prim ++ beBytes 3 s.sub

def slotOfBytes (b : List Byte) : SlotE := ⟨bit (byteAt b 0) 7, field b 1 3, field b 4 2, field b 6 3, field b 9 3⟩

/-- Roll bytes (R475): member i at bit 7 − i mod 8 of byte i / 8, padded to 8 B. -/
def rollBytes (m roll : Nat) : List Byte :=
  padTo 8 ((List.range (ceilDiv m 8)).map (fun j =>
    BitVec.ofNat 8 ((List.range 8).foldl (fun a b => 2 * a + (decide (8 * j + b < m) && roll.testBit (8 * j + b)).toNat) 0)))

def rollOfBytes (m : Nat) (bs : List Byte) : Nat :=
  (List.range (ceilDiv m 8)).foldr (fun j a => a * 256 + (List.range 8).foldr (fun b x => 2 * x + (bit (byteAt bs j) (7 - b)).toNat) 0) 0 % 2 ^ m

/-- Bytes 0 to 63 of the export of a group context (R475); flag bit 7 says that the RM16 history follows. -/
def groupHead (i : Nat) (hist : Bool) (g : Group) : List Byte :=
  beBytes 2 i ++ beBytes 2 g.epoch ++ beBytes 1 g.st ++ beBytes 1 g.world.toNat ++ beBytes 1 g.role ++ beBytes 1 (if hist then 128 else 0)
  ++ beBytes 3 g.members ++ beBytes 3 g.parent ++ beBytes 1 g.parentPort ++ beBytes 1 g.fmt ++ beBytes 16 g.fanout ++ beBytes 4 g.policy
  ++ beBytes 2 (unsigned 16 g.eref) ++ beBytes 3 g.late ++ beBytes 1 g.metroN ++ beBytes 8 g.seed ++ beBytes 3 g.maxB ++ beBytes 1 g.metroRank
  ++ beBytes 2 g.slots.length ++ List.replicate 8 0

end Sys2Proof.Machine
end

