-- ==== Sys2Proof/Machine/Seq.lean ====
section
/-! DEFINITION. The collective sequencer (04, 05): groups, buckets, chunks, fan-out copies, notices, and the erasure, abort and retirement of a
bucket at this switch. -/

namespace Sys2Proof.Machine

/-! ## Tables -/

def groupAt (d : Dev) (i : Nat) : Group := tget Group.free d.seq.groups i
/-- Store a context; its export is owed to the partner (R463). -/
def groupPut (d : Dev) (i : Nat) (g : Group) : Dev :=
  { d with seq := { d.seq with groups := tset Group.free d.seq.groups i g },
           ckp := { d.ckp with dirty := if mirSending d then tset false d.ckp.dirty i true else d.ckp.dirty } }

def bucketAt (d : Dev) (k : Nat) : Option Bucket := tget none d.seq.buckets k
def bucketSet (d : Dev) (k : Nat) (b : Option Bucket) : Dev := { d with seq := { d.seq with buckets := tset none d.seq.buckets k b } }
def bucketPut (d : Dev) (k : Nat) (b : Bucket) : Dev := bucketSet d k (some b)

/-- A bucket, or the rest of its metro side after retirement (R185). -/
def lingerAt (d : Dev) (k : Nat) : Option Bucket := tget none d.seq.linger k
def lingerSet (d : Dev) (k : Nat) (b : Option Bucket) : Dev := { d with seq := { d.seq with linger := tset none d.seq.linger k b } }

def anyBucket (d : Dev) (k : Nat) : Option Bucket := match bucketAt d k with
  | some b => some b
  | none => lingerAt d k

def anyPut (d : Dev) (k : Nat) (b : Bucket) : Dev := match bucketAt d k with
  | some _ => bucketPut d k b
  | none => lingerSet d k (some b)

/-- Apply f to an existing entry. -/
def bucketMod (d : Dev) (k : Nat) (f : Bucket → Bucket) : Dev := match bucketAt d k with
  | some b => bucketPut d k (f b)
  | none => d

/-- Buckets of a context that are not FREE. -/
def bucketsOf (d : Dev) (ctx : Nat) : List (Nat × Bucket) :=
  d.seq.buckets.filterMap (fun e => match e.2 with
    | some b => if kCtx e.1 = ctx then some (e.1, b) else none
    | none => none)

/-- Roll and slot granules of a context (R120, R121). -/
def rollGrans (g : Group) : Nat := ceilDiv g.members 1024
def slotGrans (g : Group) : Nat := ceilDiv g.slots.length 32

def rollUsed (d : Dev) : Nat := d.seq.groups.foldl (fun a e => if e.2.st = 0 then a else a + rollGrans e.2) 0
def slotUsed (d : Dev) : Nat := d.seq.groups.foldl (fun a e => if e.2.st = 0 then a else a + slotGrans e.2) 0
def bucketCount (d : Dev) : Nat := d.seq.buckets.length

/-! ## Roles (R125, R165) -/

def hasParent (g : Group) : Bool := decide (g.role ≤ 1)
def isOwner (g : Group) : Bool := decide (g.role = 3)

/-- The ink root (R165). -/
def isInkRoot (g : Group) : Bool := decide (g.role = 2) || (decide (g.role = 3) && decide (g.metroRank = 0))

/-- Whether the metro stage joins groups here (R125, R179). -/
def inMetro (g : Group) : Bool := isOwner g && decide (g.metroN > 1)

/-- The other METRO_OWNERs by rank; their coordinates are not given by the manual: free (log 21). -/
def otherOwners (ctx : Nat) (g : Group) : List (Nat × Nat) :=
  if inMetro g then ((List.range g.metroN).filter (· ≠ g.metroRank)).map (fun r => (r, (Config.metroOwner ctx r).toNat)) else []

/-- Rank of a METRO_OWNER by its coordinate. -/
def rankOf (ctx : Nat) (g : Group) (src : Nat) : Option Nat := ((otherOwners ctx g).find? (fun x => decide (x.2 = src))).map (·.1)

/-- Where reports and requests go (R165): the parent, or the METRO_OWNER of rank 0. -/
def upDst (ctx : Nat) (g : Group) : Nat := if hasParent g then g.parent else (Config.metroOwner ctx 0).toNat

/-! ## Slots (R120 to R122, R139) -/

/-- Whether slot i is a slot of the bucket's epoch (R120). -/
def slotIn (g : Group) (i : Nat) : Bool := match g.slots[i]? with
  | some s => s.child || g.roll.testBit s.member
  | none => false

def epochSlots (g : Group) : List Nat := (List.range g.slots.length).filter (slotIn g)

/-- Slot of a source and whether it is the primary (R122). -/
def slotOf (g : Group) (src : Nat) : Option (Nat × Bool) :=
  (epochSlots g).findSome? (fun i => match g.slots[i]? with
    | some s => if s.prim = src then some (i, true) else if s.sub = src ∧ !s.child ∧ s.sub ≠ 0xFFFFFF then some (i, false) else none
    | none => none)

def weightOf (g : Group) (is : List Nat) : Nat := is.foldl (fun a i => a + ((g.slots[i]?).map (·.weight)).getD 0) 0

def hasChild (g : Group) : Bool := g.slots.any (·.child)

/-- Members a slot stands for: for a CHILD slot as many as its weight from its lowest member upward (log 22). -/
def slotMask (s : SlotE) : Nat := if s.child then ones s.weight <<< s.member else 1 <<< s.member

/-! ## Rows and chunks of a bucket at this switch (R128, R136) -/

/-- Elements of a row: those of a block of the bucket's format, or of the widened or pair format where a child sends such blocks (log 23). -/
def rowElems (b : Bucket) : Nat :=
  let f := bFmt b
  if hasChild b.grp then
    (if f = 1 ∧ polPair b.grp.policy then 32 else if f = 5 then 32 else if f = 6 then 64 else fmtElems f)
  else fmtElems f

def totalElems (b : Bucket) : Nat := bBlocks b * fmtElems (bFmt b)
def nodeRows (b : Bucket) : Nat := totalElems b / rowElems b
def nodeChunks (b : Bucket) : Nat := ceilDiv (nodeRows b) 64
def chunkRows (b : Bucket) (c : Nat) : Nat := min 64 (nodeRows b - 64 * c)

/-- Ledger granules of a bucket (R137): one of 512 chunks of those that this switch forms. -/
def ledgerGrans (b : Bucket) : Nat := ceilDiv (nodeChunks b) 512
def ledgerUsed (d : Dev) : Nat := d.seq.buckets.foldl (fun a e => match e.2 with | some b => a + ledgerGrans b | none => a) 0

/-- Accumulators of a chunk (R84). -/
def accsOf (b : Bucket) : Nat := max 1 (rowElems b / 64)

/-- Chunks of the bucket in the sense of R136, and the one that holds an element. -/
def bucketChunks (b : Bucket) : Nat := ceilDiv (bBlocks b) 64
def elemChunk (b : Bucket) (e : Nat) : Nat := e / (64 * fmtElems (bFmt b))

/-- Operation whose result the sum takes: that of then_op on the last micro-step (R154). -/
def outOp (b : Bucket) : Nat := if bOp b = 5 then bThen b else bOp b

/-- Whether the metro stage sums the bucket (R154, R181): a copy, a BARRIER and a micro-step before the last bring nothing to it. -/
def metroSums (b : Bucket) : Bool :=
  inMetro b.grp && decide (bOp b ≠ 2 ∧ bOp b ≠ 3 ∧ bOp b ≠ 6) && (decide (bOp b ≠ 5) || bFinal b)

/-- Whether the owners' chunks are all-gathered (R183): under REDUCE_TO_SHARD they go into the gradient stream only (R200). -/
def metroGathers (b : Bucket) : Bool := metroSums b && decide (outOp b ≠ 4)

/-- Whether the blocks are copied and not summed (R129). -/
def isCopy (b : Bucket) : Bool := decide (bOp b = 2) || decide (bOp b = 3)

def chunkAt (b : Bucket) (c : Nat) : Option Chunk := (b.chunks.find? (fun e => decide (e.1 = c))).map (·.2)

def chunkPut (b : Bucket) (c : Nat) (x : Chunk) : Bucket := { b with chunks := tput b.chunks c x }

def Chunk.new (ord since : Nat) : Chunk := ⟨.waiting, [], [], 0, false, none, none, [], ord, since, false, false, 0, 0, false, [], []⟩

def taken (x : Chunk) (s r : Nat) : Option RowSt := (x.rows.find? (fun e => decide (e.1 = s * 64 + r))).map (·.2)

/-- Whether the slot is complete for the chunk (R140). -/
def slotDone (b : Bucket) (c : Nat) (x : Chunk) (s : Nat) : Bool :=
  (List.range (chunkRows b c)).all (fun r => match taken x s r with
    | some .lost => false
    | some _ => true
    | none => false)

def hasLost (x : Chunk) : Bool := x.rows.any (fun e => decide (e.2 = .lost))

/-- Admitted contributions of a row (R87). -/
def rowAdds (x : Chunk) (r : Nat) : Nat := (x.rows.filter (fun e => decide (e.1 % 64 = r) && decide (e.2 ≠ .lost))).length

/-! ## The record (R150, R268) -/

def bucketBody (k : Nat) (b : Bucket) : List Byte := beBytes 2 (kTag k) ++ beBytes 1 b.attempt

/-- SUBST entries: for each chunk and slot with rows from the substitute, the mask (R150). -/
def recordSubst (d : Dev) (k : Nat) (b : Bucket) : Dev :=
  b.chunks.foldl (fun d e =>
    (List.range b.grp.slots.length).foldl (fun d s =>
      let m := (List.range 64).foldl (fun m r => if taken e.2 s r = some .sub then m + 2 ^ r else m) 0
      if m = 0 then d
      else append d 0x03 (kCtx k) (kEpoch k) (bStep b) (bucketBody k b ++ beBytes 4 e.1 ++ beBytes 2 s ++ beBytes 8 m)) d) d

/-- The BUCKET entry: outcome 0 inked, 1 erased, 2 aborted, with its cause or abort status. -/
def recordBucket (d : Dev) (k : Nat) (b : Bucket) (outcome cause : Nat) : Dev :=
  append (recordSubst d k b) 0x02 (kCtx k) (kEpoch k) (bStep b)
    (bucketBody k b ++ beBytes 1 (bOp b) ++ beBytes 1 (bType b) ++ beBytes 1 (bFmt b) ++ beBytes 2 (unsigned 16 b.eref) ++ beBytes 8 b.seed
      ++ nsBytes b.late ++ beBytes 1 outcome ++ beBytes 2 cause)

def recordShortSlots (d : Dev) (k : Nat) (b : Bucket) (c wp we : Nat) (done : List Nat) : Dev :=
  let map := (List.range 256).map (fun j => BitVec.ofNat 8 ((List.range 8).foldl (fun a i => 2 * a + (done.contains (8 * j + i)).toNat) 0))
  append d 0x04 (kCtx k) (kEpoch k) (bStep b) (bucketBody k b ++ beBytes 4 c ++ beBytes 4 wp ++ beBytes 4 we ++ map)

def recordShort (d : Dev) (k : Nat) (b : Bucket) (c : Nat) (x : Chunk) : Dev :=
  recordShortSlots d k b c x.wp x.we ((epochSlots b.grp).filter (slotDone b c x))

/-! ## Fan-out (R118, R289) -/

def fanPorts (g : Group) : List Nat := setBits 128 g.fanout

/-- Ports that a coordinate of another switch is routed over, whether up or not (R290). -/
def routePorts (d : Dev) (dst : Nat) : List Nat :=
  let w := if cGroup dst = selfG d then rg d (Reg.RTE_SW (cSwitch dst)) else rg d (Reg.RTE_GRP (cGroup dst))
  (List.range 4).filterMap (fun k => if bit w (8 * k + 7) then some (bits w (8 * k + 6) (8 * k)) else none)

/-- The fan-out port of a CHILD slot: the first of its routes that is in the fan-out (log 24). -/
def childPort (d : Dev) (g : Group) (s : SlotE) : Option Nat := (routePorts d s.prim).find? (fun p => g.fanout.testBit p)

/-- Destinations of a fan-out copy on a port (R289): g.s.p.0 with MC on an ENDPOINT port, else the children behind it. -/
def portDsts (d : Dev) (g : Group) (p : Nat) : List Nat :=
  if portKind d p = 0 ∨ portKind d p = 3 then [coord (selfG d) (selfS d) p 0]
  else (g.slots.filter (fun s => s.child && decide (childPort d g s = some p))).map (·.prim)

/-- Members behind a port (R186). -/
def portMask (d : Dev) (g : Group) (p : Nat) : Nat :=
  g.slots.foldl (fun m s =>
    let here := if s.child then decide (childPort d g s = some p)
      else decide (cGroup s.prim = selfG d ∧ cSwitch s.prim = selfS d ∧ cPort s.prim = p)
    if here then m ||| slotMask s else m) 0

/-- MC stands in a copy toward an ENDPOINT port of this switch (R289). -/
def mcFor (d : Dev) (dst : Nat) : Bool := decide (cGroup dst = selfG d ∧ cSwitch dst = selfS d ∧ cPort dst < 127)

/-- Data corridor of results and contributions (R308). -/
def chunkCorr (k c : Nat) : Nat := scramble (kCtx k * 2 ^ 34 + kTag k * 2 ^ 18 + c) / 2 ^ 16 % 2 ^ 32 * 15 / 2 ^ 32

/-- Logical desk that is home of a chunk (R90). -/
def homeOf (k c : Nat) : Nat := scramble (kCtx k * 2 ^ 34 + kTag k * 2 ^ 18 + c) / 2 ^ 56

/-- Members of a rank of the metro as far as this switch knows them (R180, R182), and the first of them where the metro's members are numbered
by ascending rank (log 115). -/
def rankMembers (b : Bucket) (r : Nat) : Nat := if r = b.grp.metroRank then b.grp.members else tget 0 b.mJoin r
def rankFirst (b : Bucket) (r : Nat) : Nat := (List.range r).foldl (fun a i => a + rankMembers b i) 0

/-- Members that the bitmaps of a bucket's METRO notices, or of its tree's, count, and the first of this group among them. -/
def bmTotal (b : Bucket) : Nat := if inMetro b.grp then min 65536 (rankFirst b b.grp.metroN) else b.grp.members
def bmFirst (b : Bucket) : Nat := if inMetro b.grp then rankFirst b b.grp.metroRank else 0

/-- Delivered bitmap with the members cleared whose copies were skipped (R187). -/
def inkDelivered (r : InkRec) : Nat := r.deliv - (r.deliv &&& ((r.skipped % 2 ^ r.grp.members) <<< r.first))

def inkFlags (r : InkRec) : Nat := r.flags ||| (if r.skipped ≠ 0 then 0x40 else 0)

/-- Append the BITMAP entry of an attempt (R146, R187, R268) where a bitmap differs from its default. -/
def inkEntry (d : Dev) (r : InkRec) : Dev :=
  let segs := segsOf 0 r.total r.pres ++ segsOf 1 r.total r.part ++ segsOf 2 r.total (inkDelivered r)
  if segs.isEmpty then d
  else append d 0x05 (kCtx r.key) (kEpoch r.key) r.step (beBytes 2 (kTag r.key) ++ beBytes 1 r.att ++ beBytes 1 (inkFlags r) ++ segs.flatten)

/-- Mark the members behind a port as skipped for the attempt, with n copies skipped (R186). Where INK has left on every port the record gets the
delivered bitmap anew (R187, R218). -/
def markSkipped (d : Dev) (k att p n : Nat) : Dev :=
  if n = 0 then d
  else
    let d := bucketMod (bump d Reg.MTR_SKIP_CNT n) k (fun b =>
      if b.attempt = att then { b with skipped := b.skipped ||| portMask d b.grp p } else b)
    match d.seq.inks.find? (fun r => decide (r.key = k ∧ r.att = att)) with
    | none => d
    | some r =>
      let s := { r with skipped := r.skipped ||| portMask d r.grp p }
      let d := { d with seq := { d.seq with inks := d.seq.inks.map (fun x => if x.key = k ∧ x.att = att then s else x) } }
      if s.ports.isEmpty ∧ s.skipped ≠ r.skipped then inkEntry d s else d

/-- Mark of a pencil pass, of a publication pass, and of an ABORTED notice, by which waiting frames are found (R172, R217, R134). -/
def pencilMark (k att : Nat) : Nat × Nat := (k, 2 * att)
def pubMark (k att : Nat) : Nat × Nat := (k, 2 * att + 1)
def abortMark (k : Nat) : Nat × Nat := (k + 2 ^ 60, 0)

/-- Multicast blocks from station `st` on the ports of a list of (port, destinations) (R36, R186, R364): one buffer shared by all copies; a port
that is down has its copies skipped. None where the multicast quota refuses the buffer. -/
def multicast (d : Dev) (k att st corr kind vc src : Nat) (mark : Nat × Nat) (into : List (Nat × List Nat)) (blocks : List (List Byte)) : Option Dev :=
  let live := into.filter (fun x => portLive d x.1)
  let dead := into.filter (fun x => !portLive d x.1)
  let d := dead.foldl (fun d x => markSkipped d k att x.1 x.2.length) d
  let n := live.foldl (fun a x => a + x.2.length) 0
  if n = 0 then some d
  else
    let len := 40 + 272 * blocks.length
    let r := poolAlloc d 2 st (gransOf len)
    if !r.1 then none
    else
      let nb := bufNew r.2 n (gransOf len) 2
      some (live.foldl (fun d x => x.2.foldl (fun d dst =>
        let f := mkPass kind vc dst src k att (mcFor d dst) blocks
        match localPick d x.1 dst vc with
        | none => bufDrop d nb.1 st
        | some e =>
          let o := takeEcho d f
          let r := flowFence o.2 x.1 e o.1
          slotsFor r.2 corr st (egLink e / 8) (fLen f) (.egress e ⟨o.1, 0, 2, 0, some nb.1, r.1, 0, true, none, some mark⟩)) d) nb.2)

/-- One pass toward another switch or a source (R128, R181), on data corridor `corr` (R20): none where the quota refuses it. -/
def sendPass (d : Dev) (k att st corr kind vc dst : Nat) (mark : Option (Nat × Nat)) (blocks : List (List Byte)) : Option Dev :=
  let f := mkPass kind vc dst (mgmtCoord d) k att (mcFor d dst) blocks
  let r := poolAlloc d 2 st (gransOf (fLen f))
  if r.1 then some (sendFrom r.2 st (.chunk corr) f 0 2 (gransOf (fLen f)) none false true mark) else none

/-! ## Notices (R165 to R168) -/

/-- Send one notice part to a coordinate, in the group's world (log 25). -/
def sendPart (d : Dev) (dst op key : Nat) (world : Bool) (p : List Byte) (fence : Bool) : Dev :=
  let f := cmdFrame d dst 4 op (if world then 0x80 else 0) (d.cmd.nextTag % 2 ^ 32) 0 0 p
  let f := if mcFor d dst then setByte f 2 8 else f
  let d := { d with cmd := { d.cmd with nextTag := d.cmd.nextTag + 1 } }
  originate d f fence (if op = 0x0303 then some (abortMark key) else none)

/-- Send parts and keep them until they are acknowledged (R168). -/
def sendParts (d : Dev) (dst op key att : Nat) (world : Bool) (ps : List (List Byte)) (fence : Bool) : Dev :=
  ps.foldl (fun d p =>
    let n : NoticeOut := ⟨dst, op, key, att, nPart p, p, world, 1, ns d⟩
    sendPart { d with seq := { d.seq with notOut := d.seq.notOut ++ [n] } } dst op key world p fence) d

def sendNotice (d : Dev) (dst key att : Nat) (world : Bool) (m : NMsg) : Dev :=
  sendParts d dst m.op key att world (noticeParts key att (mgmtCoord d) (timeBytes d) m) (m.op = 0x0302 ∨ m.op = 0x0303)

/-- Send a notice on every fan-out port (R171, R176). -/
def fanNotice (d : Dev) (key : Nat) (g : Group) (att : Nat) (m : NMsg) (except : Option Nat) : Dev :=
  (fanPorts g).foldl (fun d p => (portDsts d g p).foldl (fun d dst =>
    if some dst = except ∨ !portLive d p then d else sendNotice d dst key att g.world m) d) d

/-- Send a notice to every other METRO_OWNER. -/
def ownersNotice (d : Dev) (key : Nat) (g : Group) (att : Nat) (m : NMsg) (except : Option Nat) : Dev :=
  (otherOwners (kCtx key) g).foldl (fun d x => if some x.2 = except then d else sendNotice d x.2 key att g.world m) d

def replyTo (h : CmdHdr) (code : Nat) : ReplyTo := hdrReply h code

/-! ## Freeing what an attempt holds (R89, R176) -/

/-- Whether a row of an attempt's chunk is at an egress converter or on its way there. -/
def hasOut (d : Dev) (k att c : Nat) : Bool :=
  let hit := fun (r : RowOut) => decide (r.key = k ∧ r.att = att ∧ r.chunk = c)
  d.seq.rowOut.any hit || (d.rte.waitS ++ d.rte.ring).any (fun s => match s.cargo with | .row r => hit r | _ => false)

/-- The reduction granules of lane words that go no further are freed (R35, R36). -/
def freeLanes (d : Dev) (bs : List LBlk) : Dev :=
  let n := bs.foldl (fun a b => a + b.grans) 0
  if n = 0 then d else poolFreeGrans d 0 0 n

def deskAt (d : Dev) (p : Nat) : Desk := tget Desk.empty d.fab.desks p
def deskPut (d : Dev) (p : Nat) (x : Desk) : Dev := { d with fab := { d.fab with desks := tset Desk.empty d.fab.desks p x } }

/-- Discard the accumulators and queued lane words of an attempt, of one chunk or of all (R86, R89); a RELEASING accumulator stays while a
converter holds its rows. -/
def purge (d : Dev) (k att : Nat) (cs : Option Nat) : Dev :=
  let hit := fun (k' a' c' : Nat) => decide (k' = k ∧ a' = att) && (match cs with | some c => decide (c = c') | none => true)
  d.fab.desks.foldl (fun d e =>
    freeLanes (deskPut d e.1 ⟨e.2.queue.filter (fun b => !hit b.key b.att b.chunk),
      e.2.accs.filter (fun a => !hit a.key a.att a.chunk || (decide (a.st = .releasing) && hasOut d k att a.chunk))⟩)
      (e.2.queue.filter (fun b => hit b.key b.att b.chunk))) d

/-- Free the buffers of passes that have not been sent (R176). -/
def purgePass (d : Dev) (mark : Nat × Nat) : Dev :=
  let hit := fun (f : QFrame) => decide (f.pass = some mark)
  let slotHit := fun (s : Slot) => match s.cargo with | .egress _ f => hit f | _ => false
  let fromSlots := (d.rte.waitS ++ d.rte.ring).filterMap (fun s => match s.cargo with | .egress e f => if hit f then some (e, f) else none | _ => none)
  let fromQs := d.tm.queues.flatMap (fun q => (q.2.filter hit).map (fun f => (q.1 / 64, f)))
  let qs := d.tm.queues.foldl (fun m q => tset [] m q.1 (q.2.filter (fun f => !hit f))) d.tm.queues
  let d := { d with rte := { d.rte with waitS := d.rte.waitS.filter (fun s => !slotHit s), ring := d.rte.ring.filter (fun s => !slotHit s) } }
  let d := { d with tm := { d.tm with queues := qs } }
  (fromSlots ++ fromQs).foldl (fun d x => release d x.1 x.2) d

/-- Whether a frame with this mark waits in the device, on one port or on any. -/
def passWaits (d : Dev) (port : Option Nat) (mark : Nat × Nat) : Bool :=
  let at' := fun (e : Nat) => match port with | some p => decide (egPort d e = some p) | none => true
  (d.rte.waitS ++ d.rte.ring).any (fun s => match s.cargo with
    | .egress e f => decide (f.pass = some mark) && at' e
    | _ => false)
  || d.tm.queues.any (fun q => at' (q.1 / 64) && q.2.any (fun f => decide (f.pass = some mark)))

/-- Scale blocks of a bucket attempt are released when it closes or is erased (R78). -/
def dropScales (d : Dev) (k att : Nat) : Dev :=
  { d with seq := { d.seq with scales := d.seq.scales.filter (fun s => ¬(s.key = k ∧ s.att = att)) } }

/-- Granules of the blocks that wait for admission are freed. -/
def freeWaits (d : Dev) (b : Bucket) : Dev :=
  b.chunks.foldl (fun d e => freeLanes d (e.2.wait.map (·.2))) d

/-- Release the metro region (R185, R373). -/
def dropMetro (d : Dev) (b : Bucket) : Dev := if b.mReg = 0 then d else dropRegion d b.mReg

/-! ## Outcome ring and history (R133, R189) -/

def outcome (d : Dev) (k : Nat) (aborted : Bool) : Dev :=
  let full := decide (d.seq.outcomes.length ≥ 65536)
  let d := if full then bump d Reg.MTR_OUTCOME_OVERWRITE_CNT else d
  { d with seq := { d.seq with outcomes := (if full then d.seq.outcomes.drop 1 else d.seq.outcomes) ++ [(k, aborted)] } }

def rmKey (k : Nat) : Nat := kCtx k * 65536 + kTag k

/-- Answer the abort requests held (R188) with the bell time of this moment. -/
def answerAborts (d : Dev) (b : Bucket) (status : Nat) : Dev :=
  b.aborts.foldl (fun d x =>
    let r := replyTo x.1 0x0102
    reply (recSettle d r (if status = St.aborted then some status else none)) r status []) d

/-- Answer the opens held while the entry was PENDING (R126). -/
def answerOpens (d : Dev) (b : Bucket) (status : Nat) : Dev :=
  b.held.foldl (fun d x =>
    let r := replyTo x.1 0x0101
    if status = St.ok then replyLate d r status (beBytes 2 (unsigned 16 b.eref)) else reply (recSettle d r none) r status []) d

/-- Retirement (R134): RM16 is written, the outcome is kept, the entry is FREE; the metro side lives on where R185 needs it (log 173). -/
def retire (d : Dev) (k : Nat) : Dev :=
  match bucketAt d k with
  | none => d
  | some b =>
    let d := { d with seq := { d.seq with rmHist := tset 0xFFFF d.seq.rmHist (rmKey k) b.rm } }
    let d := outcome (dropScales (bucketSet d k none) k b.attempt) k false
    if metroGathers b ∧ nodeChunks b > 0 then lingerSet (match lingerAt d k with | some o => dropMetro d o | none => d) k (some { b with chunks := [] })
    else dropMetro d b

/-! ## Lesson hooks (R194, R208, R212, R466) -/

/-- First bucket element and element count of a shard (R194): the whole bucket at a ROOT, the owned chunks at a METRO_OWNER. -/
def shardSpan (d : Dev) (s : Shard) : Nat × Nat :=
  let g := groupAt d s.ctx
  let n := ceilDiv s.blocks 64
  let c := if inMetro g then (ceilDiv (g.metroRank * n) g.metroN, ceilDiv ((g.metroRank + 1) * n) g.metroN) else (0, n)
  let el := fmtElems s.fmt
  (64 * el * c.1, min (64 * el * c.2) (el * s.blocks) - 64 * el * c.1)

/-- Gradient words of a shard from element e on (R200): in lesson staging or in its region. -/
def gradBytes (d : Dev) (i : Nat) (s : Shard) (e n : Nat) : List Byte :=
  if s.gPlace then match regionOf d s.g.handle with
    | some (_, r) => regionRead d r (s.g.off + 4 * e) (4 * n)
    | none => List.replicate (4 * n) 0
  else (List.range n).flatMap (fun j => beBytes 4 (tget 0 d.lsn.grad (i * 2 ^ 32 + e + j)))

def wholePut (d : Dev) (stream i : Nat) (b : Bool) : Dev := { d with ckp := { d.ckp with whole := tset false d.ckp.whole (mirKey stream i) b } }

/-- The gradient pass of an attempt that ends without INK is completed toward the partner, so that the next can start (log 26). -/
def gradEnd (d : Dev) (b : Bucket) : Dev :=
  match b.shard with
  | none => d
  | some i => match tget none d.lsn.shards i with
    | none => d
    | some s =>
      if partnerState d ≠ 2 then d
      else wholePut (if mirRows d 4 i then mirFinish d (mirKey 4 i) (gradBytes d i s 0 (shardSpan d s).2) else d) 4 i false

/-- Whether the partner has acknowledged the gradient of a bucket's attempt (R466); a gradient that was not mirrored row by row is mirrored as
a whole here. -/
def gradGate (d : Dev) (b : Bucket) : Bool × Dev :=
  match b.shard with
  | none => (true, d)
  | some i => match tget none d.lsn.shards i with
    | none => (true, d)
    | some s =>
      let gated := decide (partnerState d = 2) && fbit d Reg.CKP_CTRL Fd.CKP_CTRL_gate_en
      if !mirSending d || !shardMirrored d i then (true, d)
      else if partnerState d = 1 || tget false d.ckp.whole (mirKey 4 i) then
        (!gated, wholePut (mirPush d (mirKey 4 i) 0 (gradBytes d i s 0 (shardSpan d s).2) true) 4 i false)
      else (!gated || mirDone d (mirKey 4 i), d)

/-- A bucket that drives a shard queues its run at INK: NORM under clipping, else READY (R208); SKIP with FS_873 where the norm bucket of its step was
aborted before (R212). -/
def queueRun (d : Dev) (k : Nat) (b : Bucket) (i : Nat) : Dev :=
  match tget none d.lsn.shards i with
  | none => d
  | some s =>
    let gone := s.clip && decide ((tget Norm.free d.lsn.norms s.normBind).aborted = some (bStep b))
    let r : Run := ⟨i, k, b.attempt, if gone then .skip else if s.clip then .norm else .ready, d.lsn.ord, 0, [], 0, [], ns d, false, [], false, if s.clip then (0x7FC0_0000, 0x7FC0_0000) else (0, 0x3F80_0000)⟩
    let d := { d with lsn := { d.lsn with runs := d.lsn.runs ++ [r], ord := d.lsn.ord + 1 } }
    if gone then raise d 873 else d

/-- The norm binding of a run's shard. -/
def runBind (d : Dev) (r : Run) : Option Nat := (tget none d.lsn.shards r.shard).map (·.normBind)

/-- The norm bucket of a step is aborted: its runs are handled as SKIP with FS_873 (R212). -/
def normAborted (d : Dev) (k : Nat) (step : Nat) : Dev :=
  let bs := d.lsn.norms.filter (fun e => e.2.valid && decide (e.2.ctx = kCtx k ∧ e.2.tag = kTag k))
  bs.foldl (fun d e =>
    let d := { d with lsn := { d.lsn with norms := tset Norm.free d.lsn.norms e.1 { e.2 with aborted := some step } } }
    d.lsn.runs.foldl (fun d r =>
      let hit := decide (r.st = .norm) && decide (runBind d r = some e.1)
        && (match bucketAt d r.key with | some b => decide (bStep b = step) | none => false)
      if hit then
        let rs := d.lsn.runs.map (fun x => if x.shard = r.shard ∧ x.key = r.key then { x with st := .skip } else x)
        raise { d with lsn := { d.lsn with runs := rs } } 873
      else d) d) d

/-- The norm bucket of a step is inked. -/
def normInked (d : Dev) (k : Nat) (step : Nat) : Dev :=
  d.lsn.norms.foldl (fun d e =>
    if e.2.valid ∧ e.2.ctx = kCtx k ∧ e.2.tag = kTag k then
      { d with lsn := { d.lsn with norms := tset Norm.free d.lsn.norms e.1 { e.2 with inked := some step } } }
    else d) d

/-! ## Erasure and abort at this switch (R135, R176, R188) -/

/-- End of late window for a redo (R176). -/
def redoLate (d : Dev) (g : Group) : Nat := ns d + max 1 g.late * tickLen d

/-- After an ERASE of a norm bucket the binding contributes again to the redo (R177, R210). For HEADROOM its norm pass runs again first (R209): the
sums are cleared and every run of it passes again. -/
def normRedo (d : Dev) (k cause : Nat) : Dev :=
  d.lsn.norms.foldl (fun d e =>
    if ¬(e.2.valid ∧ e.2.ctx = kCtx k ∧ e.2.tag = kTag k) then d
    else if cause ≠ 3 then { d with lsn := { d.lsn with norms := tset Norm.free d.lsn.norms e.1 { e.2 with sent := false } } }
    else
      let rs := d.lsn.runs.map (fun r =>
        if r.st = .norm ∧ runBind d r = some e.1 then { r with normed := false } else r)
      bump { d with lsn := { d.lsn with runs := rs, norms := tset Norm.free d.lsn.norms e.1 { e.2 with sums := [], hist := e.2.rm, shards := [], sent := false, flags := 0 } } }
        Reg.LSN_NORM_REDO_CNT) d

/-- Abort a bucket here (R134, R188): the accumulators and buffers are discarded, held requests are answered, ABORTED goes to the fan-out, the
parent and the other METRO_OWNERs but not back where it came from. -/
def abortHere (d : Dev) (k cause : Nat) (from' : Option Nat) : Dev :=
  match bucketAt d k with
  | none => d
  | some b =>
    if b.st = .aborted ∨ b.st = .inked then d
    else
      let g := b.grp
      let status := if cause = 4 then St.redoLimit else St.aborted
      let d := if b.st = .pending then d else recordBucket d k b 2 status
      let d := gradEnd (dropMetro (freeWaits (dropScales (purgePass (purge d k b.attempt none) (pencilMark k b.attempt)) k b.attempt) b) b) b
      let d := normAborted d k (bStep b)
      let d := answerAborts (answerOpens (bump d Reg.MTR_ABORT_CNT) b St.aborted) b St.aborted
      let d := bucketPut d k { b with st := .aborted, chunks := [], held := [], aborts := [], mReg := 0, mChunks := [], mGot := [] }
      let m : NMsg := ⟨0x0303, if inMetro g then 0x20 else 0, cause, b.eref, 0, [], []⟩
      let d := fanNotice d k g b.attempt m from'
      let d := if hasParent g ∧ some g.parent ≠ from' then sendNotice d g.parent k b.attempt g.world m else d
      outcome (ownersNotice d k g b.attempt m from') k true

/-- The BUCKET entry that replay names for an attempt (R271). -/
def replayEntry (d : Dev) (pol k step att : Nat) : Option (List Byte) :=
  if polReplay pol then replayFind d [2, kCtx k, step, kTag k, att] else none

/-- Clear the metro region for a redo (R176). -/
def clearRegion (d : Dev) (i : Nat) : Dev :=
  let r := regionAt d i
  let n := runLen r * granLines
  r.ways.foldl (fun d w =>
    let a := w.1 * stackLines + w.2 * granLines
    let hbm := d.mem.hbm.filter (fun e => !(decide (64 * a ≤ e.1 ∧ e.1 < 64 * (a + n))))
    let sh := d.mem.shadow.filter (fun e => !(decide (a ≤ e.1 ∧ e.1 < a + n)))
    let po := d.mem.poison.filter (fun e => !(decide (a ≤ e.1 ∧ e.1 < a + n)))
    { d with mem := { d.mem with hbm := hbm, shadow := sh, poison := po } }) d

/-- An ERASE takes effect at this switch (R135, R176): cause, and the redo's late limit; forwarded to the fan-out, and by an owner of rank 0 to the
others. -/
def eraseHere (d : Dev) (k cause late : Nat) (from' : Option Nat) : Dev :=
  match bucketAt d k with
  | none => d
  | some b =>
    let g := b.grp
    let d := recordBucket d k b 1 cause
    let d := gradEnd (freeWaits (dropScales (purgePass (purge d k b.attempt none) (pencilMark k b.attempt)) k b.attempt) b) b
    let d := bump (bump d Reg.SEQ_ERASE_CNT) Reg.MTR_ERASE_CNT
    let d := if bOp b = 7 then normRedo d k cause else d
    let d := if b.mReg = 0 then d else clearRegion d b.mReg
    let rec' := replayEntry d g.policy k (bStep b) (b.attempt + 1)
    let er := match rec' with
      | some e => signed 16 (field e 34 2)
      | none => if cause = 3 then erefOf b.rm else b.eref
    let seed := match rec' with | some e => field e 36 8 | none => b.seed
    let d := bucketPut d k { b with st := .opened, attempt := b.attempt + 1, chunks := [], late := late, eref := er, mEref := er, seed := seed, reports := [], cause := none, skipped := 0, noted := false,
                                    mChunks := [], mGot := [], mConf := [], mSent := [], lateDone := false, mLateDone := false }
    let m : NMsg := ⟨0x0302, if inMetro g then 0x20 else 0, cause, b.eref, 0, nsBytes late, []⟩
    let d := fanNotice d k g b.attempt m from'
    let d := if isInkRoot g then ownersNotice d k g b.attempt m from' else d
    if polReplay g.policy ∧ replayActive d ∧ rec'.isNone then abortHere (raise d 793) k 8 none else d

/-- The ink root erases an attempt, or aborts the bucket where a ninth attempt would be needed (R135, R176). -/
def issueErase (d : Dev) (k cause : Nat) : Dev :=
  match bucketAt d k with
  | none => d
  | some b =>
    if b.attempt ≥ 7 then abortHere (raise d 799) k 4 none
    else eraseHere (raise d 800) k cause (redoLate d b.grp) none

/-- A further cause for an attempt is counted and issues nothing more (R175). -/
def causeAgain (d : Dev) : Dev := { d with seq := { d.seq with again := d.seq.again + 1 } }

/-- A switch sees a cause for erasure (R175): the affected chunks are discarded, and the ink root erases or a failing report goes up. At or after
the commit point nothing is issued (R170). -/
def detectCause (d : Dev) (k cause : Nat) (cs : List Nat) : Dev :=
  match bucketAt d k with
  | none => d
  | some b =>
    if b.st = .inked ∨ b.st = .aborted ∨ b.st = .pending then d
    else
      let d := cs.foldl (fun d c => purge d k b.attempt (some c)) d
      let b := cs.foldl (fun b c => match chunkAt b c with
        | some x => if x.st = .released then b else chunkPut b c { x with st := .discarded, accs := 0 }
        | none => b) b
      let d := bucketPut d k b
      if isInkRoot b.grp then issueErase d k cause
      else if b.cause.isSome then causeAgain d
      else
        sendNotice (bucketPut d k { b with cause := some cause }) (upDst (kCtx k) b.grp) k b.attempt b.grp.world
          ⟨0x0304, if inMetro b.grp then 0x20 else 0, cause, b.eref, 0, [], []⟩

/-- The epoch of a context advances (R124): refused where it would meet a bucket that is not FREE, except for a fence, which aborts that bucket. -/
def advanceEpoch (d : Dev) (ctx : Nat) (fence : Bool) : Option Dev :=
  let g := groupAt d ctx
  let e := (g.epoch + 1) % 65536
  let met := (bucketsOf d ctx).filter (fun x => decide (kEpoch x.1 = e))
  if met.isEmpty then some (groupPut d ctx { g with epoch := e })
  else if fence then
    let d := met.foldl (fun d x => abortHere d x.1 5 none) d
    some (groupPut d ctx { g with epoch := e })
  else none

/-- A fan-out port went down (R186): the epoch of every group with the port in its fan-out advances. -/
def portFenced (d : Dev) (p : Nat) : Dev :=
  d.seq.groups.foldl (fun d e => if e.2.st ≠ 0 ∧ e.2.fanout.testBit p then (advanceEpoch d e.1 true).getD d else d) d

/-! ## Bitmaps and INK (R146, R169 to R173) -/

/-- Complete chunks of a slot. -/
def doneChunks (b : Bucket) (s : Nat) : Nat := (b.chunks.filter (fun e => slotDone b e.1 e.2 s)).length

/-- Present and partial bitmaps of the members beneath this switch (R146). A CHILD slot adds what its report says of the members beneath it. -/
def bitmaps (b : Bucket) : Nat × Nat :=
  let g := b.grp
  let n := nodeChunks b
  (List.range g.slots.length).foldl (fun (a : Nat × Nat) i =>
    match g.slots[i]? with
    | none => a
    | some s =>
      let m := slotMask s % 2 ^ g.members
      let clear := fun (x : Nat) => x - (x &&& m)
      let rep := if s.child then (match b.reports.find? (fun r => decide (r.1 = s.prim)) with
        | some r => (r.2.2.1 &&& m, r.2.2.2 &&& m)
        | none => (m, 0)) else (m, 0)
      let c := if isCopy b then n else if n = 0 then (if b.openers.contains i then 0 else 1) else doneChunks b i
      if !slotIn g i then (clear a.1, a.2)
      else if c = n then (clear a.1 ||| rep.1, a.2 ||| rep.2)
      else if c = 0 ∨ n = 0 then (clear a.1, a.2 ||| rep.2)
      else (clear a.1, a.2 ||| rep.1 ||| rep.2)) (ones g.members, 0)

/-- Whether any chunk at or beneath this switch closed short; a BARRIER whose late limit passed with slots that had not opened it did. -/
def anyShort (b : Bucket) : Bool :=
  (decide (bOp b = 6) && b.lateDone && (epochSlots b.grp).any (fun i => !b.openers.contains i)) || b.chunks.any (fun e => e.2.short) || b.reports.any (fun r => r.2.1) || b.mChunks.any (fun e => e.2.short)

/-- INK at this switch (R171, R172): the bucket is INKED, INK is owed to every fan-out port, held abort requests are answered, and a bound lesson
takes the bucket (R208); otherwise it retires. The bitmaps count the members of R182. -/
def inkHere (d : Dev) (k flags micro pres part deliv : Nat) : Dev :=
  match bucketAt d k with
  | none => d
  | some b =>
    if b.st = .inked ∨ b.st = .aborted then d
    else
      let g := b.grp
      let d := bump (recordBucket d k b 0 0) Reg.MTR_INK_CNT
      let r : InkRec := { key := k, att := b.attempt, grp := g, step := bStep b, flags := flags, micro := micro, eref := b.eref, total := bmTotal b, first := bmFirst b,
                          pres := pres, part := part, deliv := deliv, skipped := b.skipped, pub := decide (outOp b = 4),
                          ports := (fanPorts g).map (fun p => (p, portDsts d g p)) }
      let d := { d with seq := { d.seq with inks := d.seq.inks ++ [r] } }
      let d := if r.ports.isEmpty then inkEntry d r else d
      let d := answerAborts d b St.alreadyDone
      let d := if bOp b = 7 then normInked d k (bStep b) else d
      let d := bucketPut d k { b with st := .inked, aborts := [], inkAt := ns d }
      match b.shard with
      | some i => if bOp b = 5 ∧ !bFinal b then retire d k else queueRun d k b i
      | none => retire d k

end Sys2Proof.Machine
end

