-- ==== Sys2Proof/Machine/Desks.lean ====
section
/-! DEFINITION. The reduction desks (03 R73, R81 to R104): the map, accumulators, adds, closes, merges, twins, stealing, benching and refill. -/

namespace Sys2Proof.Machine

/-! ## States and map (R91, R111 to R113) -/

def deskState (d : Dev) (p : Nat) : Nat := fget d (Reg.DESK_STATUS p) Fd.DESK_STATUS_state
def deskTo (d : Dev) (p s : Nat) : Dev := fset d (Reg.DESK_STATUS p) Fd.DESK_STATUS_state s

/-- Physical desk that serves a logical one. -/
def mapOf (d : Dev) (l : Nat) : Option Nat :=
  if fbit d (Reg.RFAB_DESK_MAP l) Fd.RFAB_DESK_MAP_mapped then some (fget d (Reg.RFAB_DESK_MAP l) Fd.RFAB_DESK_MAP_phys) else none

def mappedCount (d : Dev) : Nat := ((List.range 256).filter (fun l => (mapOf d l).isSome)).length

/-- The desk that a logical desk resolves to: its own or its cover, the next mapped one upward (R91). -/
def resolve (d : Dev) (l : Nat) : Option Nat := (List.range 256).findSome? (fun i => mapOf d ((l + i) % 256))

/-- The desk of the second twin (R98): from (home + 128) upward, the first in another desk station than the home's. -/
def twinOf (d : Dev) (home : Nat) : Option Nat :=
  match resolve d home with
  | none => none
  | some h => (List.range 256).findSome? (fun i => match resolve d ((home + 128 + i) % 256) with
    | some t => if t / 17 ≠ h / 17 then some t else none
    | none => none)

/-- Unmap the logical desk of a physical desk. -/
def unmap (d : Dev) (p : Nat) : Dev :=
  if fbit d (Reg.DESK_STATUS p) Fd.DESK_STATUS_mapped then
    let l := fget d (Reg.DESK_STATUS p) Fd.DESK_STATUS_logical
    let d := fset (fset d (Reg.DESK_STATUS p) Fd.DESK_STATUS_mapped 0) (Reg.RFAB_DESK_MAP l) Fd.RFAB_DESK_MAP_mapped 0
    { d with fab := { d.fab with bench := d.fab.bench ++ [l] } }
  else d

/-- Map a logical desk to a physical desk, which becomes ACTIVE. -/
def mapTo (d : Dev) (l p : Nat) : Dev :=
  let d := fset (fset d (Reg.RFAB_DESK_MAP l) Fd.RFAB_DESK_MAP_phys p) (Reg.RFAB_DESK_MAP l) Fd.RFAB_DESK_MAP_mapped 1
  let d := fset (fset (deskTo d p 0) (Reg.DESK_STATUS p) Fd.DESK_STATUS_logical l) (Reg.DESK_STATUS p) Fd.DESK_STATUS_mapped 1
  { d with fab := { d.fab with bench := d.fab.bench.filter (· ≠ l) } }

/-! ## Accumulators -/

def accUsed (x : Desk) : Nat := x.accs.foldl (fun a c => a + c.n) 0
def laneWords (x : Desk) : Nat := x.queue.foldl (fun a b => a + (b.lanes.length - b.pos)) 0

/-- Accumulators that chunks and helpers hold (R85, R138). -/
def accReserved (d : Dev) : Nat :=
  d.seq.buckets.foldl (fun a e => match e.2 with
    | some b => a + b.chunks.foldl (fun s c => s + c.2.accs) 0
    | none => a) 0
  + d.fab.desks.foldl (fun a e => a + (e.2.accs.filter (·.helper)).foldl (fun s c => s + c.n) 0) 0

def isAcc (a : Accum) (k att c copy : Nat) : Bool := decide (a.key = k ∧ a.att = att ∧ a.chunk = c ∧ a.copy = copy)
def isBlk (b : LBlk) (k att c copy : Nat) : Bool := decide (b.key = k ∧ b.att = att ∧ b.chunk = c ∧ b.copy = copy)

/-- Owner accumulator of a chunk's copy: its desk and itself. -/
def ownerAcc (d : Dev) (k att c copy : Nat) : Option (Nat × Accum) :=
  d.fab.desks.findSome? (fun e => (e.2.accs.find? (fun a => isAcc a k att c copy && !a.helper)).map (fun a => (e.1, a)))

def helpersOf (d : Dev) (k att c copy : Nat) : Nat :=
  d.fab.desks.foldl (fun n e => n + (e.2.accs.filter (fun a => isAcc a k att c copy && a.helper)).length) 0

def accMod (d : Dev) (p k att c copy : Nat) (f : Accum → Accum) : Dev :=
  let x := deskAt d p
  deskPut d p { x with accs := x.accs.map (fun a => if isAcc a k att c copy then f a else a) }

def accDrop (d : Dev) (p k att c copy : Nat) : Dev :=
  let x := deskAt d p
  deskPut d p { x with accs := x.accs.filter (fun a => !isAcc a k att c copy) }

/-- Whether both copies of a dual chunk are still reduced (R98, R100). -/
def dualLive (x : Chunk) : Bool := x.dual && x.own0.isSome && x.own1.isSome

def chunkOf (d : Dev) (k att c : Nat) : Option (Bucket × Chunk) :=
  match bucketAt d k with
  | some b => if b.attempt = att then (chunkAt b c).map (fun x => (b, x)) else none
  | none => none

def chunkMod (d : Dev) (k c : Nat) (f : Chunk → Chunk) : Dev :=
  bucketMod d k (fun b => match chunkAt b c with | some x => chunkPut b c (f x) | none => b)

/-- Adds that a close names, by row (R87). -/
def expects (b : Bucket) (c : Nat) (x : Chunk) : List (Nat × Nat) := (List.range (chunkRows b c)).map (fun r => (r, rowAdds x r))

/-- Whether every add that a close names is in an accumulator (R87). -/
def addsDone (a : Accum) : Bool := a.expect.all (fun e => decide (tget 0 a.done e.1 = e.2))

/-- An accumulator passes on when its adds are complete (R86), also those whose lane words are still on a corridor (R87). -/
def accSettle (d : Dev) (p k att c copy : Nat) : Dev :=
  let x := deskAt d p
  match x.accs.find? (fun a => isAcc a k att c copy), chunkOf d k att c with
  | some a, some (_, ch) =>
    let busy := x.queue.any (fun b => isBlk b k att c copy)
    let fin := if dualLive ch then AccSt.comparing else AccSt.releasing
    match a.st with
    | .draining =>
      if busy then d
      else if a.helper then accMod d p k att c copy (fun a => { a with st := .returning })
      else if helpersOf d k att c copy > 0 ∨ !a.inbox.isEmpty then accMod d p k att c copy (fun a => { a with st := .merging })
      else if addsDone a then accMod d p k att c copy (fun a => { a with st := fin })
      else d
    | .merging =>
      if helpersOf d k att c copy > 0 ∨ !a.inbox.isEmpty ∨ busy ∨ !addsDone a then d else accMod d p k att c copy (fun a => { a with st := fin })
    | .comparing => if dualLive ch then d else accMod d p k att c copy (fun a => { a with st := .releasing })
    | _ => d
  | _, _ => d

/-- A chunk's copy takes accumulators of a desk as owner (R86); where the close has come already it drains. -/
def bindAcc (d : Dev) (p k att c copy : Nat) (b : Bucket) (x : Chunk) : Dev :=
  let dk := deskAt d p
  let a : Accum := ⟨k, att, c, copy, false, if x.sent then .draining else .filling, accsOf b, [], [],
    if x.sent then expects b c x else [], x.sent, [], 0, 0, 0⟩
  deskPut d p { dk with accs := dk.accs ++ [a] }

/-- The oldest QUEUED chunk of a desk: its first queued block without an accumulator there (R86). -/
def queuedHead (x : Desk) : Option LBlk := x.queue.find? (fun b => !(x.accs.any (fun a => isAcc a b.key b.att b.chunk b.copy)))

/-- Whether desk q holds, queues or owns the other copy of a dual chunk, which R98 keeps apart. -/
def holdsOther (d : Dev) (q k att c copy : Nat) : Bool :=
  let x := deskAt d q
  let other := decide (copy ≤ 1) && (x.accs.any (fun a => isAcc a k att c (1 - copy)) || x.queue.any (fun b => isBlk b k att c (1 - copy)))
  other || (match chunkOf d k att c with
    | some (_, ch) => decide ((if copy = 0 then ch.own1 else ch.own0) = some q)
    | none => false)

/-- A chunk's copy whose partial sum waits in a benched desk for an accumulator of desk p, its new owner (R102). -/
def orphanAt (d : Dev) (p : Nat) : Option Accum :=
  (d.fab.desks.flatMap (fun e => e.2.accs)).find? (fun a => a.helper && decide (a.st = .returning) && (ownerAcc d a.key a.att a.chunk a.copy).isNone
    && (match chunkOf d a.key a.att a.chunk with
      | some (_, ch) => decide ((if a.copy = 0 then ch.own0 else ch.own1) = some p)
      | none => false))

/-- CHUNK_BIND (R86, R102): a chunk that waits at a desk takes accumulators when the desk has them free: first one whose partial sum waits in a
benched desk, then the oldest QUEUED chunk (log 159). -/
def chunkBind (d : Dev) (p : Nat) : Dev :=
  let x := deskAt d p
  let next := match orphanAt d p with
    | some a => some (a.key, a.att, a.chunk, a.copy)
    | none => (queuedHead x).map (fun b => (b.key, b.att, b.chunk, b.copy))
  match next with
  | none => d
  | some (k, att, c, copy) => match chunkOf d k att c with
    | none => d
    | some (b, ch) =>
      if accUsed x + accsOf b ≤ 24 ∧ deskState d p = 0 ∧ !holdsOther d p k att c copy then bindAcc d p k att c copy b ch else d

/-- Lane words join the queue of the desk that owns their copy (R75). -/
def deskTake (d : Dev) (p : Nat) (blk : LBlk) : Dev :=
  let x := deskAt d p
  let fresh := !(x.accs.any (fun a => isAcc a blk.key blk.att blk.chunk blk.copy)) && !(x.queue.any (fun b => isBlk b blk.key blk.att blk.chunk blk.copy))
  let d := deskPut d p { x with queue := x.queue ++ [blk] }
  if fresh ∧ (queuedHead x).isNone then chunkBind d p else d

/-- Desk that owns the copy of a block of lane words; none where the chunk takes no more. -/
def laneOwner (d : Dev) (blk : LBlk) : Option Nat :=
  match chunkOf d blk.key blk.att blk.chunk with
  | none => none
  | some (_, ch) => if ch.st = .discarded ∨ ch.st = .released then none else if blk.copy = 0 then ch.own0 else ch.own1

/-- Lane words leave station st for their owner on the chunk's data corridor (R20, R75, R77). -/
def laneSend (d : Dev) (st : Nat) (blk : LBlk) : Dev :=
  match laneOwner d blk with
  | none => freeLanes d [blk]
  | some p => slotsN d (chunkCorr blk.key blk.chunk) st (stDesk p) (laneSlots blk.lanes.length) (.lanes blk)

/-- Lane words at a desk station: its desk takes them, or the station forwards them to the owner that the chunk has now (R91, R93). -/
def laneArrive (d : Dev) (st : Nat) (blk : LBlk) : Dev :=
  match laneOwner d blk with
  | none => freeLanes d [blk]
  | some p => if stDesk p = st then deskTake d p blk else laneSend d st blk

/-! ## Benching (R102) -/

/-- Move the queued blocks and the ownership of a chunk's copy to another desk. -/
def moveChunk (d : Dev) (p q k att c copy : Nat) : Dev :=
  let x := deskAt d p
  let bs := x.queue.filter (fun b => isBlk b k att c copy)
  let d := deskPut d p { x with queue := x.queue.filter (fun b => !isBlk b k att c copy) }
  let d := chunkMod d k c (fun ch => if copy = 0 then { ch with own0 := some q } else { ch with own1 := some q })
  let y := deskAt d q
  deskPut d q { y with queue := y.queue ++ bs }

/-- The copy of a dual chunk in a desk is lost (R100): the chunk finishes on the other copy alone. -/
def loseCopy (d : Dev) (k att c copy : Nat) : Dev :=
  let d := d.fab.desks.foldl (fun d e =>
    freeLanes (deskPut d e.1 ⟨e.2.queue.filter (fun b => !isBlk b k att c copy), e.2.accs.filter (fun a => !isAcc a k att c copy)⟩)
      (e.2.queue.filter (fun b => isBlk b k att c copy))) d
  let d := chunkMod d k c (fun ch => if copy = 0 then { ch with own0 := none } else { ch with own1 := none })
  let d := bump d Reg.RFAB_DUAL_LOST_CNT
  match ownerAcc d k att c (1 - copy) with
  | some (p, _) => accSettle d p k att c (1 - copy)
  | none => d

/-- The cover of logical desk l for a chunk's copy: the next mapped desk upward that does not serve the other copy (R91, R98). -/
def coverFor (d : Dev) (l k att c copy : Nat) : Option Nat :=
  (List.range 256).findSome? (fun i => match mapOf d ((l + i) % 256) with
    | some q => if holdsOther d q k att c copy then none else some q
    | none => none)

/-- A desk is benched (R102): it drains, its logical desk is covered, queued chunks move, partials return to the cover as a helper's do. -/
def benchDesk (d : Dev) (p : Nat) : Dev :=
  if deskState d p ≠ 0 then d
  else
    let l := fget d (Reg.DESK_STATUS p) Fd.DESK_STATUS_logical
    let d := unmap (deskTo d p 1) p
    let until' := ns d + 1000 * fget1 d Reg.INT_CTRL Fd.INT_CTRL_drain_us
    let d := { d with int := { d.int with drains := d.int.drains ++ [(.desk, p, until')] } }
    let x := deskAt d p
    let heads := x.queue.foldl (fun (hs : List (Nat × Nat × Nat × Nat)) b =>
      if hs.contains (b.key, b.att, b.chunk, b.copy) then hs else hs ++ [(b.key, b.att, b.chunk, b.copy)]) []
    let owned := (x.accs.filter (fun a => !a.helper && decide (a.st = .filling ∨ a.st = .draining))).map (fun a => (a.key, a.att, a.chunk, a.copy))
    let moved := owned ++ heads.filter (fun h => !(owned.contains h))
    let d := moved.foldl (fun d h =>
      let helper := x.accs.any (fun a => isAcc a h.1 h.2.1 h.2.2.1 h.2.2.2 && a.helper)
      let cover := coverFor d l h.1 h.2.1 h.2.2.1 h.2.2.2
      let dest := if helper then (match ownerAcc d h.1 h.2.1 h.2.2.1 h.2.2.2 with | some (o, _) => some o | none => cover) else cover
      match dest with
      | some q => moveChunk d p q h.1 h.2.1 h.2.2.1 h.2.2.2
      | none => loseCopy d h.1 h.2.1 h.2.2.1 h.2.2.2) d
    let y := deskAt d p
    let accs := y.accs.map (fun a => if a.helper ∨ a.st = .filling ∨ a.st = .draining then { a with helper := true, st := .returning } else a)
    let d := deskPut d p { y with accs := accs }
    -- each cover opens accumulators for what has come to it, as far as it has them free
    moved.foldl (fun d h =>
      match chunkOf d h.1 h.2.1 h.2.2.1 with
      | none => d
      | some (_, ch) => match (if h.2.2.2 = 0 then ch.own0 else ch.own1) with
        | some q => chunkBind d q
        | none => d) d

/-- An element of a chunk's copy is poisoned in a desk (R81, R82, R97, R99): the desk is benched; the bucket is erased, or in dual mode the
chunk goes on with the other copy. -/
def poisonAcc (d : Dev) (p k att c copy : Nat) (f : Nat × Nat) : Dev :=
  let d := unitFault d (Reg.DESK_FAULT p) f (256 + p)
  let d := if f = Fd.DESK_FAULT_residue_fail then bump d (Reg.DESK_RES_FAIL_CNT p) else d
  match chunkOf d k att c with
  | none => benchDesk d p
  | some (_, ch) =>
    if dualLive ch then benchDesk (loseCopy d k att c copy) p
    else benchDesk (detectCause d k (if ch.dual then 2 else 1) [c]) p

/-! ## Adds (R81 to R83) -/

def elemAt (row : List AElem) (i : Nat) : AElem := row.getD i AElem.zero

/-- An element as an adder without a side store holds it: residue and class copy follow from it. -/
def AElem.ofKz (k : Kz) : AElem := ⟨k, Sys2Proof.Machine.res k.a, k.cls, false⟩

/-- The two stored class bits of a class (R49); code 4 of a sum is the NaN of R50 that sets INV. -/
def clsBits (c : Nat) : Nat := min c 3

/-- Bits of a sum's two's-complement pattern that change. -/
def flipSum (u : Upset) (i : Nat) (a : Int) : Int :=
  match u with
  | .flip j x => if j.toNat = i then signed 128 (unsigned 128 a ^^^ x.toNat) else a
  | _ => a

/-- Bits of the second class copy that change. -/
def flipCls (u : Upset) (c : Nat) : Nat :=
  match u with
  | .cls x => if x = 0 then c else clsBits c ^^^ x.toNat
  | _ => c

/-- What the checks of an add find (R81, R82), as the field of DESK_FAULT that it sets. -/
inductive AddFault where
  | residue
  | cls
  | sram
deriving DecidableEq, Repr

/-- A checked add (R81, R82): A_sum beside r_sum, and both class copies by R50. The residues are compared, and the class copies; a sum whose class
is not finite has A and residue 0 (R49). `i` is the element's place in its row. -/
def aAdd (u : Upset) (i : Nat) (e x : AElem) : AElem × Option AddFault :=
  let s := kzAdd e.k x.k
  let a := flipSum u i s.a
  let r := if s.cls = 0 then (e.res + x.res) % 65535 else 0
  let c2 := flipCls u (addCls e.cls2 x.cls2)
  let f := if u = .sram then some AddFault.sram
    else if clsBits s.cls ≠ clsBits c2 then some AddFault.cls
    else if res a ≠ r then some AddFault.residue else none
  (⟨⟨a, s.cls⟩, r, c2, e.bad || x.bad || f.isSome⟩, f)

/-- Sum of two rows under the checks; the first fault that they meet. -/
def addRows (u : Upset) (xs ys : List AElem) : List AElem × Option AddFault :=
  let rs := (List.range (max xs.length ys.length)).map (fun i => aAdd u i (elemAt xs i) (elemAt ys i))
  (rs.map (·.1), rs.findSome? (·.2))

/-- A corrected SRAM error is counted (R82). -/
def countCe (d : Dev) (u : Upset) : Dev := if u = .corrected then bump d Reg.MEM_SRAM_CE_CNT else d

def faultField : AddFault → Nat × Nat
  | .residue => Fd.DESK_FAULT_residue_fail
  | .cls => Fd.DESK_FAULT_class_mismatch
  | .sram => Fd.DESK_FAULT_sram_ue

/-- A lane word as the element that it adds (R81 step 1). -/
def laneElem (w : BitVec 64) : AElem := let k := laneKz 111 w; ⟨k, laneResOf w, k.cls, false⟩

/-- DESK_ADD (R81 to R83): the next lane word of the queue whose chunk has an accumulator here is added into its element. With its last lane word
a block is written, and its granules are freed (R22). -/
def deskAdd (d : Dev) (p : Nat) (u : Upset) : Dev :=
  let x := deskAt d p
  let has := fun (b : LBlk) => x.accs.any (fun a => isAcc a b.key b.att b.chunk b.copy)
  if !running d ∨ ¬(deskState d p = 0 ∨ deskState d p = 1) then d
  else match x.queue.find? has with
    | none => d
    | some b =>
      let i := b.pos / max 1 b.per
      let n := b.lanes.length / max 1 b.per
      let row := match x.accs.find? (fun a => isAcc a b.key b.att b.chunk b.copy) with
        | some a => tget (List.replicate n AElem.zero) a.rows b.row
        | none => []
      let s := aAdd (match u with | .flip _ x => .flip (BitVec.ofNat 8 i) x | v => v) i (elemAt row i) (laneElem (b.lanes.getD b.pos 0))
      let last := decide (b.pos + 1 = b.lanes.length)
      let row := row.set i s.1
      let d := accMod d p b.key b.att b.chunk b.copy (fun a =>
        { a with rows := tput a.rows b.row row, done := if last then tput a.done b.row (tget 0 a.done b.row + 1) else a.done })
      let y := deskAt d p
      let q := if last then (match ltake has y.queue with | some r => r.2 | none => y.queue)
        else lmodFirst has (fun b => { b with pos := b.pos + 1 }) y.queue
      let d := deskPut d p { y with queue := q }
      let d := if last then freeLanes d [b] else d
      let d := countCe (rg64Put d (Reg.DESK_ADD_CNT_0 p) ((rg64 d (Reg.DESK_ADD_CNT_0 p) + 1) % 2 ^ 64)) u
      match s.2 with
      | some f => poisonAcc d p b.key b.att b.chunk b.copy (faultField f)
      | none => if last then accSettle d p b.key b.att b.chunk b.copy else d

/-- DESK_CLOSE (R87): the close reaches the owner, the helpers and the twins. -/
def deskClose (d : Dev) (k c : Nat) : Dev :=
  match bucketAt d k with
  | none => d
  | some b => match chunkAt b c with
    | none => d
    | some x =>
      if x.st ≠ .closing ∨ x.sent ∨ !running d then d
      else
        let ex := expects b c x
        let d := bucketPut d k (chunkPut b c { x with sent := true })
        d.fab.desks.foldl (fun d e => e.2.accs.foldl (fun d a =>
          if a.key = k ∧ a.att = b.attempt ∧ a.chunk = c then
            let d := accMod d e.1 k b.attempt c a.copy (fun a => { a with closed := true, expect := ex, st := if a.st = .filling then .draining else a.st })
            accSettle d e.1 k b.attempt c a.copy
          else d) d) d

/-! ## Releasing rows (R88, R95) -/

/-- Egress converter for a home desk: link home mod 128, or the next that is not fenced (R95). -/
def convFor (d : Dev) (home : Nat) : Option Nat :=
  (List.range 128).findSome? (fun i => let l := (home + i) % 128; if tget false d.int.eFenced l then none else some l)

/-- Whether row r of an owner is final (R88): its expected adds, helpers' rows among them, are in the owner, and in dual mode it has been compared.
Before the close, a row to which every slot of this node has contributed is final too. -/
def rowFinal (b : Bucket) (x : Chunk) (a : Accum) (r : Nat) : Bool :=
  let n := if a.closed then tget 0 a.expect r else (epochSlots b.grp).length
  decide (a.st = .releasing) || (decide (tget 0 a.done r = n) && (!dualLive x || decide (r < a.cmp)))

/-- Slots of a row on its way to an egress converter: 24 elements with residue and class each (R94, R95). -/
def rowSlots (n : Nat) : Nat := ceilDiv n 24

/-- ROW_RELEASE (R88, R95): the owner's next row, when it is final, leaves for its egress converter on the chunk's data corridor. -/
def rowRelease (d : Dev) (p k c : Nat) : Dev :=
  match bucketAt d k with
  | none => d
  | some b => match chunkAt b c, (deskAt d p).accs.find? (fun a => decide (a.key = k ∧ a.att = b.attempt ∧ a.chunk = c ∧ a.helper = false)) with
    | some x, some a =>
      if !running d ∨ a.rel ≥ chunkRows b c ∨ !rowFinal b x a a.rel ∨ ¬(b.st = .opened ∨ b.st = .closed) ∨ x.st = .discarded then d
      else match convFor d (homeOf k c) with
        | none => d
        | some l =>
          let row := tget (List.replicate (rowElems b) AElem.zero) a.rows a.rel
          let d := accMod d p k b.attempt c a.copy (fun a => { a with rel := a.rel + 1 })
          slotsN d (chunkCorr k c) (stDesk p) (l / 8) (rowSlots row.length) (.row ⟨l, k, b.attempt, c, a.rel, row⟩)
    | _, _ => d

/-- A row at a port station: its egress converter takes it, or where that one is fenced meanwhile, the next that is not (R95). -/
def rowArrive (d : Dev) (st : Nat) (o : RowOut) : Dev :=
  let l := (convFor d o.conv).getD o.conv
  if l / 8 = st then { d with seq := { d.seq with rowOut := d.seq.rowOut ++ [{ o with conv := l }] } }
  else slotsN d (chunkCorr o.key o.chunk) st (l / 8) (rowSlots o.elems.length) (.row { o with conv := l })

/-! ## Helpers and twins (R94, R99) -/

/-- HELPER_RETURN (R94): a helper whose adds are done returns its rows to the owner and is FREE. -/
def helperReturn (d : Dev) (p k c : Nat) : Dev :=
  match (deskAt d p).accs.find? (fun a => decide (a.key = k ∧ a.chunk = c ∧ a.helper = true ∧ a.st = .returning)) with
  | none => d
  | some a => match ownerAcc d k a.att c a.copy with
    | none => d
    | some (o, _) =>
      if !running d then d
      else
        let rows := a.rows.map (fun r => (r.1, r.2, tget 0 a.done r.1))
        let d := accDrop d p k a.att c a.copy
        let d := accMod d o k a.att c a.copy (fun x => { x with inbox := x.inbox ++ rows ++ a.inbox })
        accSettle d o k a.att c a.copy

/-- HELPER_ROW_MERGE (R94): the owner merges the next returned row under the residue check. -/
def helperMerge (d : Dev) (p k c : Nat) (u : Upset) : Dev :=
  match (deskAt d p).accs.find? (fun a => decide (a.key = k ∧ a.chunk = c ∧ a.helper = false ∧ a.inbox ≠ [])) with
  | none => d
  | some a => match a.inbox with
    | [] => d
    | (r, es, n) :: rest =>
      if !running d then d
      else
        let s := addRows u (tget [] a.rows r) es
        let d := accMod (countCe d u) p k a.att c a.copy (fun x => { x with rows := tput x.rows r s.1, done := tput x.done r (tget 0 x.done r + n), inbox := rest })
        match s.2 with
        | some f => poisonAcc d p k a.att c a.copy (faultField f)
        | none => accSettle d p k a.att c a.copy

/-- TWIN_ROW_COMPARE (R99): the home desk compares the twin's next row; after the last, the home releases. Two intact rows that differ
erase the bucket and bench both desks. -/
def twinCompare (d : Dev) (p k c : Nat) : Dev :=
  match bucketAt d k with
  | none => d
  | some b =>
    match (deskAt d p).accs.find? (fun a => isAcc a k b.attempt c 0 && !a.helper), ownerAcc d k b.attempt c 1 with
    | some h, some (q, t) =>
      if !running d ∨ h.st ≠ .comparing ∨ t.st ≠ .comparing then d
      else
        let d := bump d Reg.RFAB_DUAL_CMP_CNT
        let hr := tget [] h.rows h.cmp
        let tr := tget [] t.rows h.cmp
        if hr.map (fun e => (e.k.a, clsBits e.k.cls)) = tr.map (fun e => (e.k.a, clsBits e.k.cls)) then
          if h.cmp + 1 ≥ chunkRows b c then
            accMod (accDrop d q k b.attempt c 1) p k b.attempt c 0 (fun a => { a with st := .releasing, cmp := a.cmp + 1 })
          else accMod d p k b.attempt c 0 (fun a => { a with cmp := a.cmp + 1 })
        else
          let d := unitFault (bump d Reg.RFAB_DUAL_MISMATCH_CNT) (Reg.DESK_FAULT p) Fd.DESK_FAULT_dual_mismatch (256 + p)
          let d := unitFault d (Reg.DESK_FAULT q) Fd.DESK_FAULT_dual_mismatch (256 + q)
          benchDesk (benchDesk (detectCause (raise d 784) k 2 [c]) p) q
    | _, _ => d

/-! ## Work stealing (R92, R93) -/

def stationDist (a b : Nat) : Nat := let x := if a ≥ b then a - b else b - a; min x (16 - x)

/-- Whether thief a prefers victim x to victim y (R93): own station, distance, deeper queue, lower logical number. -/
def preferVictim (d : Dev) (t x y : Nat) : Bool :=
  let k := fun v => stationDist (t / 17) (v / 17)
  let q := fun v => laneWords (deskAt d v)
  let l := fun v => fget d (Reg.DESK_STATUS v) Fd.DESK_STATUS_logical
  decide (k x < k y) || (decide (k x = k y) && (decide (q x > q y) || (decide (q x = q y) && decide (l x < l y))))

def bestVictim (d : Dev) (t : Nat) : List Nat → Option Nat
  | [] => none
  | v :: vs => match bestVictim d t vs with
    | none => some v
    | some w => if preferVictim d t w v then some w else some v

/-- A thief takes the victim's oldest QUEUED chunk, or splits its FILLING chunk with the most queued lane words (R93); none where it may take
nothing. The queued lane words move with the chunk. -/
def stealFrom (d : Dev) (t v : Nat) : Option Dev :=
  let x := deskAt d v
  match queuedHead x with
  | some b =>
    let n := match bucketAt d b.key with | some bk => accsOf bk | none => 1
    if accUsed (deskAt d t) + n ≤ 24 ∧ !holdsOther d t b.key b.att b.chunk b.copy then
      some (chunkBind (bump (moveChunk d v t b.key b.att b.chunk b.copy) Reg.RFAB_STEAL_CNT) t)
    else none
  | none =>
    let owned := x.accs.filter (fun a => !a.helper && decide (a.st = .filling))
    let depth := fun (a : Accum) => (x.queue.filter (fun b => isBlk b a.key a.att a.chunk a.copy)).foldl (fun s b => s + (b.lanes.length - b.pos)) 0
    match owned.foldl (fun (best : Option Accum) a => match best with
        | none => some a
        | some b => if depth b < depth a then some a else some b) none with
    | none => none
    | some a =>
      let bs := x.queue.filter (fun b => isBlk b a.key a.att a.chunk a.copy)
      let give := bs.drop (bs.length - bs.length / 2)
      let ok := fbit d Reg.RFAB_CTRL Fd.RFAB_CTRL_steal_en && decide (helpersOf d a.key a.att a.chunk a.copy < fget d Reg.RFAB_CTRL Fd.RFAB_CTRL_max_split)
        && decide (accReserved d + a.n ≤ 24 * mappedCount d) && decide (accUsed (deskAt d t) + a.n ≤ 24) && !give.isEmpty
        && !((deskAt d t).accs.any (fun y => isAcc y a.key a.att a.chunk a.copy)) && !holdsOther d t a.key a.att a.chunk a.copy
      if !ok then none
      else
        let keep := bs.length - bs.length / 2
        let q := (x.queue.foldl (fun (s : List LBlk × Nat) b =>
          if isBlk b a.key a.att a.chunk a.copy then (if s.2 < keep then (s.1 ++ [b], s.2 + 1) else s) else (s.1 ++ [b], s.2)) ([], 0)).1
        let d := deskPut d v { x with queue := q }
        let y := deskAt d t
        let h : Accum := ⟨a.key, a.att, a.chunk, a.copy, true, .filling, a.n, [], [], [], false, [], 0, 0, 0⟩
        some (bump (deskPut d t ⟨y.queue ++ give, y.accs ++ [h]⟩) Reg.RFAB_SPLIT_CNT)

/-- A thief's trade (R93): from the victim that it prefers among those from which it may take; the victim that gave, and the device after. -/
def stealTrade (d : Dev) (t : Nat) : Nat → List Nat → Option (Nat × Dev)
  | 0, _ => none
  | n + 1, vs => match bestVictim d t vs with
    | none => none
    | some v => match stealFrom d t v with
      | some e => some (v, e)
      | none => stealTrade d t n (vs.filter (· ≠ v))

/-- Cycles of 1/1.3 GHz since the bell was 0. -/
def cycleNow (d : Dev) : Nat := ns d * 13 / 10

/-- Length of a stealing round in cycles (R108). -/
def stealRoundLen (d : Dev) : Nat := max 16 (fget d Reg.RFAB_STEAL Fd.RFAB_STEAL_round)

/-- STEAL_ROUND (R92, R93), once the round that is under way has passed; a length written meanwhile applies from this round on (R108). Thieves
choose in ascending physical number. -/
def stealRound (d : Dev) : Dev :=
  if !running d ∨ (cycleNow d < d.fab.stealAt + d.fab.round ∧ d.fab.stealAt ≠ 0) then d
  else
    let d := { d with fab := { d.fab with stealAt := cycleNow d, round := stealRoundLen d } }
    let act := (d.fab.desks.map (·.1)).filter (fun p => decide (deskState d p = 0))
    let en := fbit d Reg.RFAB_CTRL Fd.RFAB_CTRL_steal_en
    let high := fget d Reg.RFAB_STEAL Fd.RFAB_STEAL_high_mark
    let want := fun p => (queuedHead (deskAt d p)).isSome && decide (accUsed (deskAt d p) ≥ 24)
    let victims := act.filter (fun p => (en && decide (laneWords (deskAt d p) > high)) || want p)
    let low := fget d Reg.RFAB_STEAL Fd.RFAB_STEAL_low_mark
    let thieves := (List.range 272).filter (fun p => decide (deskState d p = 0 ∧ accUsed (deskAt d p) < 24 ∧ laneWords (deskAt d p) ≤ low) && !(victims.contains p))
    if victims.isEmpty then d
    else (thieves.foldl (fun (s : Dev × List Nat) t => match stealTrade s.1 t s.2.length s.2 with
      | none => s
      | some (v, e) => (e, s.2.filter (· ≠ v))) (d, victims)).1

/-! ## Drains, spares and refill (R102 to R104) -/

/-- A benched desk's drain has ended: BENCHED, and its field test is queued. -/
def drainOver (d : Dev) (p : Nat) : Dev :=
  let ds := d.int.drains.filter (fun x => ¬(x.1 = .desk ∧ x.2.1 = p))
  queueTest (deskTo { d with int := { d.int with drains := ds } } p 2) .desk p true

/-- DESK_DRAIN_COMPLETE (R102). -/
def drainComplete (d : Dev) (p : Nat) : Dev :=
  let x := deskAt d p
  if deskState d p = 1 ∧ x.accs.isEmpty ∧ x.queue.isEmpty then drainOver d p else d

/-- DESK_DRAIN_TIMEOUT (R100, R102): partials still held are lost; their buckets are erased with cause DRAIN, or a dual chunk finishes on its twin. -/
def drainTimeout (d : Dev) (p : Nat) : Dev :=
  match d.int.drains.find? (fun x => decide (x.1 = .desk ∧ x.2.1 = p)) with
  | none => d
  | some (_, _, t) =>
    let x := deskAt d p
    if ns d < t ∨ deskState d p ≠ 1 ∨ x.accs.isEmpty then d
    else
      let d := raise (unitFault d (Reg.DESK_FAULT p) Fd.DESK_FAULT_drain_timeout (256 + p)) 785
      let d := x.accs.foldl (fun d a => match chunkOf d a.key a.att a.chunk with
        | none => d
        | some (_, ch) => if dualLive ch then loseCopy d a.key a.att a.chunk a.copy else detectCause d a.key 6 [a.chunk]) d
      drainOver (freeLanes (deskPut d p Desk.empty) (deskAt d p).queue) p

/-- Good spares: desks in SPARE (R103). -/
def goodSpares (d : Dev) : List Nat := (List.range 272).filter (fun p => decide (deskState d p = 3))

/-- Unmapped logical desks that a refill may serve: not one vacated for a field test (R440). -/
def refillable (d : Dev) : List Nat :=
  d.fab.bench.filter (fun l => !(d.int.moved.any (fun m => m.2 && decide (fget d (Reg.DESK_STATUS m.1) Fd.DESK_STATUS_logical = l))))

/-- SPARE_KAT_START (R103). -/
def katStart (d : Dev) : Dev :=
  if !running d ∨ d.fab.refill.isSome ∨ d.fab.passed.isSome then d
  else match refillable d, goodSpares d with
    | l :: _, p :: _ =>
      let a := Reg.RFAB_SPARE_STATUS
      let d := fset (fset (fset (deskTo d p 4) a Fd.RFAB_SPARE_STATUS_refill_busy 1) a Fd.RFAB_SPARE_STATUS_refill_phys p) a Fd.RFAB_SPARE_STATUS_refill_logical l
      { d with fab := { d.fab with refill := some (p, l, ns d) } }
    | l :: _, [] => raiseOnce d 786 l
    | [], _ => d

/-- SPARE_KAT_END (R103): the test lasts 40 µs. -/
def katEnd (d : Dev) (pass : Bool) : Dev :=
  match d.fab.refill with
  | none => d
  | some (p, l, t) =>
    if ns d < t + 40000 then d
    else
      let d := { d with fab := { d.fab with refill := none } }
      if pass then { d with fab := { d.fab with passed := some (p, l, tickIdx d) } }
      else
        let d := fset d Reg.RFAB_SPARE_STATUS Fd.RFAB_SPARE_STATUS_refill_busy 0
        raise (unitFault (deskTo d p 5) (Reg.DESK_FAULT p) Fd.DESK_FAULT_kat_fail (256 + p)) 787

/-- SPARE_MAP_TAKE (R103): at the next tick boundary the map entry takes the spare. -/
def mapTake (d : Dev) : Dev :=
  match d.fab.passed with
  | none => d
  | some (p, l, t) =>
    if tickIdx d ≤ t then d
    else
      let d := fset { d with fab := { d.fab with passed := none } } Reg.RFAB_SPARE_STATUS Fd.RFAB_SPARE_STATUS_refill_busy 0
      bump (mapTo d l p) Reg.RFAB_REFILL_CNT

/-- RFAB_BENCH.go (R110). -/
def benchGo (d : Dev) (p : Nat) : Dev :=
  let d := fset d Reg.RFAB_BENCH Fd.RFAB_BENCH_phys p
  if p ≤ 271 ∧ deskState d p = 0 then benchDesk (fset d Reg.RFAB_BENCH Fd.RFAB_BENCH_err 0) p
  else fset d Reg.RFAB_BENCH Fd.RFAB_BENCH_err 1

end Sys2Proof.Machine
end

