-- ==== Sys2Proof/Machine/Memory.lean ====
section
/-! DEFINITION. Memory-side reads and writes, repair, thermal states, evacuation and region commands (11). -/

namespace Sys2Proof.Machine

def answer (d : Dev) (x : Nat) (data : List Byte) (poison : Bool) (flags : Nat) : Dev :=
  { d with mem := { d.mem with resp := some ⟨x, data, poison, flags⟩ } }

def stkFault (d : Dev) (k : Nat) (f : Nat × Nat) : Dev := unitFault d (Reg.HBM_STK_FAULT k) f (928 + k)

/-! ## Rows, spares and retirement (R381, R382). The map of lines to rows is PRESUMED (log 19): 1 KiB rows, 32 banks a pseudo-channel. -/

def lineInStack (x : Nat) : Nat := x % stackLines
def rowKey (x : Nat) : Nat :=
  let y := lineInStack x
  (x / stackLines * 64 + y % 64) * 1310720 + y / 1024
def bankKey (x : Nat) : Nat :=
  let y := lineInStack x
  (x / stackLines * 64 + y % 64) * 32 + y / 1024 % 32

def granOf (x : Nat) : Nat := lineInStack x / granLines

/-- Region and way whose run holds a granule of a stack. -/
def ownerOf (d : Dev) (k g : Nat) : Option (Nat × Nat) :=
  d.mem.regions.findSome? (fun e =>
    if e.2.valid then
      (List.range e.2.ways.length).findSome? (fun w =>
        let x := e.2.ways.getD w (0, 0)
        if x.1 = k ∧ x.2 ≤ g ∧ g < x.2 + runLen e.2 then some (e.1, w) else none)
    else none)

/-- Mark a granule retired (R382). -/
def markRetired (d : Dev) (k g : Nat) : Dev :=
  bump { d with mem := { d.mem with retired := tset false d.mem.retired (k * 40960 + g) true } } (Reg.HBM_STK_RETIRED k)

/-- Source stack of a move. -/
def evacSrc (d : Dev) (v : Evac) : Nat := ((regionAt d v.region).ways.getD v.way (0, 0)).1

/-- HBM_STK_STATUS.evacuating of every stack follows the moves (R393). -/
def evacBits (d : Dev) : Dev :=
  (List.range 16).foldl (fun d k =>
    let b := d.mem.evacs.any (fun v => decide (evacSrc d v = k))
    if fbit d (Reg.HBM_STK_STATUS k) Fd.HBM_STK_STATUS_evacuating = b then d
    else fset d (Reg.HBM_STK_STATUS k) Fd.HBM_STK_STATUS_evacuating b.toNat) d

/-- Destination of a move: a stack in one of the thermal states `sts`, in that order, with the most free granules (R371, R385). -/
def evacDest (d : Dev) (src n : Nat) (same : Bool) (sts : List Nat) : Option (Nat × Nat) :=
  sts.findSome? (fun s =>
    let ks := (List.range 16).filter (fun k =>
      decide (stkState d k = s) && (same || decide (k ≠ src)) && !(tget false d.mem.fencing k) && (freeRun d k n).isSome)
    (bestStack d ks).map (fun k => (k, (freeRun d k n).getD 0)))

/-- Start moving a share, or leave it waiting for a destination (R384, R385). -/
def evacStart (d : Dev) (i w : Nat) (why : EvacWhy) : Dev :=
  if d.mem.evacs.any (fun v => decide (v.region = i ∧ v.way = w)) then d
  else
    let r := regionAt d i
    let src := (r.ways.getD w (0, 0)).1
    let same := match why with | .retire _ => true | _ => false
    let dest := evacDest d src (runLen r) same [0]
    let d := evacBits { d with mem := { d.mem with evacs := d.mem.evacs ++ [⟨i, w, why, dest⟩] } }
    if dest.isNone then fset d (Reg.HBM_STK_FAULT src) Fd.HBM_STK_FAULT_evac_blocked 1 else d

/-- EVAC_RETRY (R385): at each tick boundary, NORMAL stacks first, then WARM. -/
def evacRetry (d : Dev) : Dev :=
  (List.range d.mem.evacs.length).foldl (fun d j =>
    match d.mem.evacs[j]? with
    | some v =>
      if v.dest.isSome then d
      else
        let r := regionAt d v.region
        let dest := evacDest d (evacSrc d v) (runLen r) (match v.why with | .retire _ => true | _ => false) [0, 1]
        { d with mem := { d.mem with evacs := d.mem.evacs.set j { v with dest := dest } } }
    | none => d) d

/-- A granule needs retirement (R382): a free one is marked, an allocated one's share moves first. -/
def retireGran (d : Dev) (x : Nat) : Dev :=
  let k := x / stackLines
  let d := raise (fset d (Reg.HBM_STK_FAULT k) Fd.HBM_STK_FAULT_repair_exhausted 1) 948
  match ownerOf d k (granOf x) with
  | none => markRetired d k (granOf x)
  | some (i, w) => evacStart d i w (.retire (granOf x))

/-- A row meets a condition of R381: it is remapped to a spare, or its granule is retired. -/
def remapRow (d : Dev) (x : Nat) : Dev :=
  let k := x / stackLines
  let u := tget 0 d.mem.spares (bankKey x)
  let d := { d with mem := { d.mem with rowCe := tset 0 d.mem.rowCe (rowKey x) 0 } }
  if u < 4 then
    let d := { d with mem := { d.mem with spares := tset 0 d.mem.spares (bankKey x) (u + 1) } }
    bump (rgPut d (Reg.HBM_STK_SPARE k) (rg d (Reg.HBM_STK_SPARE k) - 1)) (Reg.HBM_REPAIR_CNT k)
  else retireGran d x

/-! ## Reading with symbol errors (R357, R358) -/

/-- Error pattern of a line's code word: 36 symbols. -/
def errWord (es : List SymErr) : List Nat :=
  es.foldl (fun w e => w.modify e.pos.val (fun s => s ^^^ e.x.toNat)) (List.replicate 36 0)

/-- XOR of the first 32 symbols into a line. -/
def xorLine (bs : List Byte) (w : List Nat) : List Byte :=
  (List.range 64).map (fun i => bs.getD i 0 ^^^ BitVec.ofNat 8 (if i % 2 = 0 then w.getD (i / 2) 0 / 256 else w.getD (i / 2) 0))

/-- Read a line whose stored word has met the symbol errors `es`: the code is linear, so the decoder's answer for the error pattern
alone gives what is added to the line. Answers the delivered bytes and whether they are poisoned. -/
def readLine (d : Dev) (x : Nat) (es : List SymErr) : (List Byte × Bool) × Dev :=
  let k := x / stackLines
  let bs := lineBytes d x
  if poisoned d x then ((bs, true), d)
  else match memDecode (errWord es) with
    | .clean => ((xorLine bs (errWord es), false), d)
    | .corrected w n =>
      let out := xorLine bs w
      let d := bump d (Reg.HBM_CE_CNT k)
      let d := if fbit d Reg.MEM_CTRL Fd.MEM_CTRL_scrub_en then lineWrite d x (ones 64) out else d
      let c := tget 0 d.mem.rowCe (rowKey x) + n
      let d := { d with mem := { d.mem with rowCe := tset 0 d.mem.rowCe (rowKey x) c } }
      ((out, false), if c ≥ 16 then remapRow d x else d)
    | .bad =>
      let d := stkFault (bump (setPoison d x true) (Reg.HBM_UE_CNT k)) k Fd.HBM_STK_FAULT_ue
      ((bs, true), remapRow d x)

def lineId (a : HLine) : Nat := a.stack.toNat * stackLines + a.line.val

/-- READ (R375). -/
def memRead (a : HLine) (es : List SymErr) (d : Dev) : Dev :=
  if !running d then d
  else let r := readLine d (lineId a) es; answer r.2 (lineId a) r.1.1 r.1.2 0

/-- WRITE (R375). -/
def memWrite (a : HLine) (mask : BitVec 64) (data : List Byte) (d : Dev) : Dev :=
  if !running d then d else answer (lineWrite d (lineId a) mask.toNat data) (lineId a) [] false 0

/-- INIT_ZERO (R375): +0 in the masked elements, 8 B each or 4 B each. -/
def memInit (a : HLine) (mask : BitVec 16) (wide : Bool) (d : Dev) : Dev :=
  if !running d then d
  else
    let n := if wide then 8 else 4
    let m := (setBits (64 / n) mask.toNat).foldl (fun m i => m + ones n * 2 ^ (n * i)) 0
    let d := lineWrite d (lineId a) m (List.replicate 64 0)
    let x := lineId a
    let sum := (List.range 8).foldl (fun (s : Int) i =>
      if mask.toNat.testBit i then s else s + signed 64 (field (lineBytes d x) (8 * i) 8)) 0
    let d := if wide then { d with mem := { d.mem with shadow := tset 0 d.mem.shadow x (res sum) } } else d
    answer d (lineId a) [] false 0

/-! ## Scrub (R380) -/

/-- Whether a line lies in a region whose scrub bit is 1. -/
def scrubbed (d : Dev) (x : Nat) : Bool :=
  match ownerOf d (x / stackLines) (granOf x) with
  | some (i, _) => (regionAt d i).scrub
  | none => false

/-- SCRUB_PASS (R380): once per period, every line of the scrubbed regions; the operand names the lines that meet errors. -/
def scrubPass (k : BitVec 4) (errs : List (Fin 1342177280 × List SymErr)) (d : Dev) : Dev :=
  let s := k.toNat
  let period := fget1 d Reg.MEM_SCRUB Fd.MEM_SCRUB_hours * 3600000000000
  if !running d || !fbit d Reg.MEM_CTRL Fd.MEM_CTRL_scrub_en || stkFenced d s || decide (ns d < tget 0 d.mem.scrubAt s + period) then d
  else
    let ce := d.mem.rowCe.filter (fun e => e.1 / (64 * 1310720) ≠ s)
    let d := { d with mem := { d.mem with scrubAt := tset 0 d.mem.scrubAt s (ns d), rowCe := ce } }
    errs.foldl (fun d e => let x := s * stackLines + e.1.val; if scrubbed d x then (readLine d x e.2).2 else d) d

/-! ## Thermal states and fences (R383 to R385, R392) -/

/-- The stack is fenced: every line still on it is lost (R385). -/
def fenceStack (d : Dev) (k : Nat) : Dev :=
  let evs := d.mem.evacs.filter (fun v => evacSrc d v ≠ k)
  let d := fset d (Reg.HBM_STK_STATUS k) Fd.HBM_STK_STATUS_state 4
  stkFault (evacBits { d with mem := { d.mem with evacs := evs, fencing := tset false d.mem.fencing k false } }) k Fd.HBM_STK_FAULT_fenced

/-- A fence waits for the moves off its stack (R383, R392). -/
def fenceCheck (d : Dev) (k : Nat) : Dev :=
  if tget false d.mem.fencing k ∧ !(d.mem.evacs.any (fun v => decide (evacSrc d v = k))) then fenceStack d k else d

/-- Evacuate every MOVABLE region with a way on the stack (R383). -/
def evacStack (d : Dev) (k : Nat) (why : EvacWhy) : Dev :=
  d.mem.regions.foldl (fun d e =>
    if e.2.valid ∧ !e.2.pinned then
      (List.range e.2.ways.length).foldl (fun d w => if (e.2.ways.getD w (0, 0)).1 = k then evacStart d e.1 w why else d) d
    else d) d

/-- Fence a stack after its evacuation (R392; R440, R446). -/
def fenceBegin (d : Dev) (k : Nat) : Dev :=
  if stkFenced d k then d
  else fenceCheck (evacStack { d with mem := { d.mem with fencing := tset false d.mem.fencing k true } } k .fence) k

/-- HBM_STK_CTRL.unfence (R392): when the stack is below warm and holds no region. -/
def unfence (d : Dev) (k : Nat) : Dev :=
  if stkFenced d k ∧ fget d (Reg.HBM_STK_STATUS k) Fd.HBM_STK_STATUS_temp < fget d Reg.MEM_THERM_CFG Fd.MEM_THERM_CFG_warm
      ∧ !(d.mem.regions.any (fun e => e.2.valid && e.2.ways.any (fun w => decide (w.1 = k)))) then
    fset d (Reg.HBM_STK_STATUS k) Fd.HBM_STK_STATUS_state 0
  else d

/-- HBM_TEMP_SAMPLE (R383). -/
def tempSample (d : Dev) (k t : Nat) : Dev :=
  if !alive d then d
  else
    let c := Reg.MEM_THERM_CFG
    let warm := fget d c Fd.MEM_THERM_CFG_warm
    let hot := fget d c Fd.MEM_THERM_CFG_hot
    let crit := fget d c Fd.MEM_THERM_CFG_crit
    let s := stkState d k
    let d := fset d (Reg.HBM_STK_STATUS k) Fd.HBM_STK_STATUS_temp t
    let into := fun (d : Dev) (x : Nat) => fset d (Reg.HBM_STK_STATUS k) Fd.HBM_STK_STATUS_state x
    if s = 4 then d
    else if t ≥ 95 then fenceStack d k
    else if s = 3 then d
    else if t ≥ crit then fenceBegin (stkFault (into d 3) k Fd.HBM_STK_FAULT_critical) k
    else if t ≥ hot then
      if s = 2 then d else evacStack (stkFault (into d 2) k Fd.HBM_STK_FAULT_hot) k .hot
    else if s = 2 ∧ t + 3 ≥ hot then d
    else
      if s = 2 then
        let d := if tget false d.mem.fencing k then d
          else evacBits { d with mem := { d.mem with evacs := d.mem.evacs.filter (fun v => ¬(v.why = .hot ∧ evacSrc d v = k)) } }
        into d 1
      else if t ≥ warm ∨ (s = 1 ∧ t + 3 ≥ warm) then into d 1 else into d 0

/-- Move the cells of a run of lines to another place. -/
def moveCells {α : Type} (m : List (Nat × α)) (src dst n : Nat) (put : List (Nat × α) → Nat → α → List (Nat × α)) : List (Nat × α) :=
  let inSrc := m.filter (fun e => decide (src ≤ e.1 ∧ e.1 < src + n))
  let rest := m.filter (fun e => !(decide (dst ≤ e.1 ∧ e.1 < dst + n)))
  inSrc.foldl (fun m e => put m (e.1 - src + dst) e.2) rest

/-- EVAC_SHARE_DONE (R384): the last line is copied, the descriptor takes the destination, the source run is freed. -/
def evacDone (d : Dev) (i w : Nat) : Dev :=
  match d.mem.evacs.find? (fun v => decide (v.region = i ∧ v.way = w)) with
  | none => d
  | some v => match v.dest with
    | none => d
    | some t =>
      let r := regionAt d i
      let s := r.ways.getD w (0, 0)
      let n := runLen r * granLines
      let a := s.1 * stackLines + s.2 * granLines
      let b := t.1 * stackLines + t.2 * granLines
      let hbm := moveCells d.mem.hbm (64 * a) (64 * b) (64 * n) tput
      let poi := moveCells d.mem.poison a b n tput
      let sh := moveCells d.mem.shadow a b n tput
      let evs := d.mem.evacs.filter (fun x => ¬(x.region = i ∧ x.way = w))
      let d := { d with mem := { d.mem with hbm := hbm, poison := poi, shadow := sh, evacs := evs } }
      let d := bump (regionPut d i { r with ways := r.ways.set w t }) Reg.MEM_EVAC_CNT
      let d := match v.why with | .retire g => markRetired d s.1 g | _ => d
      fenceCheck (evacBits d) s.1

/-! ## Roll call and banks (R362, R365) -/

/-- free + held − (total − retired) of a pool, as R365 forms it. -/
def poolDiff (p : Pool) (total : Nat) : Int := (poolFree p + p.used.foldl (· + ·) 0 : Nat) - ((total : Int) - p.retired)

/-- ROLL_CALL (R365), at a tick boundary every `interval` ticks. -/
def rollCall (d : Dev) : Dev :=
  if !alive d || !fbit d Reg.MEM_CTRL Fd.MEM_CTRL_rollcall_en || decide (tickIdx d < d.mem.callAt + fget1 d Reg.MEM_ROLLCALL Fd.MEM_ROLLCALL_interval) then d
  else
    let a := poolDiff d.mem.sram sramTotal
    let b := poolDiff d.mem.hpool hpoolTotal
    let d := { d with mem := { d.mem with callAt := tickIdx d } }
    let d := rgPut (rgPut d Reg.MEM_ROLLCALL_DIFF (unsigned 32 a)) Reg.MEM_HROLLCALL_DIFF (unsigned 32 b)
    let one := fun (x : Int) (d : Dev) => if x = 0 then d else raise (bump (fset d Reg.MEM_ROLLCALL Fd.MEM_ROLLCALL_diff_seen 1) Reg.MEM_ROLLCALL_CNT) 944
    one b (one a d)

/-- POOL_BANK_FETCH (R362). -/
def bankFetch (hbm : Bool) (bank : BitVec 4) (d : Dev) : Dev :=
  let p := if hbm then d.mem.hpool else d.mem.sram
  let i := bank.toNat
  let c := p.banks.getD i 0
  let q := if c < 64 then let t := min 64 p.ring; { p with banks := p.banks.modify i (· + t), ring := p.ring - t }
    else if c > 192 then { p with banks := p.banks.modify i (· - 64), ring := p.ring + 64 } else p
  if !alive d then d else if hbm then { d with mem := { d.mem with hpool := q } } else { d with mem := { d.mem with sram := q } }

/-! ## Region commands (R368 to R372) -/

/-- The 64 B descriptor of R369. -/
def descBytes (r : Region) : List Byte :=
  let ws := (List.range 16).map (fun w => r.ways.getD w (0, 0))
  beBytes 1 ((if r.valid then 128 else 0) + (if r.secure then 64 else 0) + (if r.pinned then 32 else 0) + (if r.scrub then 16 else 0) + r.cls)
  ++ beBytes 1 r.ways.length ++ beBytes 2 r.gen ++ beBytes 4 r.size
  ++ beBytes 8 (ws.foldl (fun a w => a * 16 + w.1) 0) ++ ws.flatMap (fun w => beBytes 2 w.2) ++ beBytes 4 r.shadow ++ List.replicate 12 0

/-- REGION_CREATE (R371, R504). -/
def regionCreate (d : Dev) (h : CmdHdr) (p : List Byte) : Ans :=
  let size := field p 0 4
  let cls := byteAt p 4
  let ways := byteAt p 5
  needLen p 8 (checks [(0, decide (1 ≤ size ∧ size ≤ 655360)), (4, decide (cls ≤ 8 ∧ cls ≠ 3)), (5, decide (ways ≤ 16)),
      (6, decide (byteAt p 6 &&& 0xCF = 0)), (7, decide (byteAt p 7 ≤ 1))]
    (if byteAt p 7 = 1 ∧ !h.world then .err St.worldDenied
     else match freeRegion d with
      | none => .err St.regionTableFull
      | some i => match placeRegion d i (byteAt p 7 = 1) (bit (byteAt p 6) 5) (bit (byteAt p 6) 4) cls size ways with
        | none => .err St.noHbmSpace
        | some d => .done d (beBytes 4 (handleOf d i))))

/-- The region that the handle at byte `o` of the parameters names, for a requester of world `w`: reserved bits, stale handles and secure regions are
refused (R10, R368, R372). -/
def withRegion (d : Dev) (o : Nat) (p : List Byte) (w : Bool) (k : Nat → Region → Ans) : Ans :=
  if !handleOk (field p o 4) then .bad (o + 2)
  else match regionOf d (field p o 4) with
  | none => .err St.noRegion
  | some (i, r) => if r.secure ∧ !w then .err St.worldDenied else k i r

/-- REGION_QUERY (R504). -/
def regionQuery (d : Dev) (h : CmdHdr) (p : List Byte) : Ans :=
  needLen p 4 (withRegion d 0 p h.world (fun _ r => .done d (descBytes r)))

/-- What a part of a REGION_WRITE breaks: a status and, where it is malformed, the offset (R368, R370, R372, R504). -/
def writeError (d : Dev) (h : CmdHdr) (p : List Byte) : Option (Nat × Nat) :=
  let len := field p 12 4
  if p.length < 16 then some (St.malformed, p.length)
  else if !handleOk (field p 0 4) then some (St.malformed, 2)
  else if len > 2048 ∨ p.length ≠ 16 + len then some (St.malformed, 12)
  else match regionOf d (field p 0 4) with
    | none => some (St.noRegion, 0)
    | some (_, r) =>
      if r.secure ∧ !h.world then some (St.worldDenied, 0)
      else if field p 4 8 + len > regionBytes r then some (St.regionBounds, 0) else none

/-- REGION_WRITE (R372, R491): a part is written as it arrives, unless an earlier one failed; the last is answered with the bytes written, or
with the first error. The parts written make one entry of the record (R269, log 165). -/
def regionWriteCmd (d : Dev) (h : CmdHdr) (p : List Byte) (last : Bool) : Ans :=
  let key := h.src.toNat * 2 ^ 32 + h.tag.toNat
  let r := hdrReply h 0x0504
  let clear := fun (d : Dev) => { d with cmd := { d.cmd with rwrite := tset 0 d.cmd.rwrite key 0, rwBad := tset 0 d.cmd.rwBad key 0 } }
  let bad := match tget 0 d.cmd.rwBad key with
    | 0 => writeError d h p
    | v => some (v / 65536, v % 65536)
  match bad, regionOf d (field p 0 4) with
  | none, some (_, g) =>
    let n := tget 0 d.cmd.rwrite key + field p 12 4
    let d := recordPart (regionWrite d g (field p 4 8) (p.drop 16)) h 0x0504 p
    if last then .hold (replyLate (clear d) r St.ok (beBytes 4 n)) else .hold { d with cmd := { d.cmd with rwrite := tset 0 d.cmd.rwrite key n } }
  | some (st, o), _ =>
    if last then .hold (replyLate (clear d) r st (if st = St.malformed then beBytes 2 o else []))
    else .hold { d with cmd := { d.cmd with rwBad := tset 0 d.cmd.rwBad key (st * 65536 + o) } }
  | none, none => .err St.noRegion

/-- Bytes of a region for a requester; what an uncorrectable line delivers is free (R358, log 20). -/
def deliverBytes (d : Dev) (r : Region) (o n : Nat) : List Byte :=
  (List.range n).map (fun i =>
    if poisoned d (regionLine r (o + i)) then Config.freeByte d.free i else tget Config.hbmFill d.mem.hbm (regionKey r (o + i)))

/-- REGION_READ (R372, R504). -/
def regionReadCmd (d : Dev) (h : CmdHdr) (p : List Byte) : Ans :=
  let o := field p 4 8
  let n := field p 12 4
  needLen p 16 (checks [(2, handleOk (field p 0 4)), (12, decide (1 ≤ n ∧ n ≤ 1048576))] (withRegion d 0 p h.world (fun _ r =>
    if o + n > regionBytes r then .err St.regionBounds
    else .parts { d with free := d.free + 1 } ((List.range (ceilDiv n 2048)).map (fun i =>
      let m := min 2048 (n - 2048 * i)
      beBytes 8 (o + 2048 * i) ++ beBytes 4 m ++ deliverBytes d r (o + 2048 * i) m)))))

end Sys2Proof.Machine
end

