-- ==== Sys2Proof/Machine/MemAdd.lean ====
section
/-! DEFINITION. The memory-side adders (11 R375 to R379): ADD_KZ64, ADD_KF32, ADD_KI32, ADD_KI64, READ_CHECK with the residue shadow, and the
accesses of KZ64 regions by element. -/

namespace Sys2Proof.Machine

/-! ## Elements of a line -/

/-- Element i of `n` bytes of a line. -/
def lineElem (bs : List Byte) (n i : Nat) : Nat := field bs (n * i) n

/-- Replace the masked elements of `n` bytes of a line by `f old added`, OR-ing the flags. -/
def lineMap (bs ys : List Byte) (n mask : Nat) (f : Nat → Nat → Nat × Nat) : List Byte × Nat :=
  (List.range (64 / n)).foldr (fun i (r : List Byte × Nat) =>
    if mask.testBit i then
      let v := f (lineElem bs n i) (lineElem ys n i)
      (beBytes n v.1 ++ r.1, v.2 ||| r.2)
    else (beBytes n (lineElem bs n i) ++ r.1, r.2)) ([], 0)

/-- ADD_KZ64 of two words (R50, R51). -/
def addKz64Word (x y : Nat) : Nat × Nat := let r := kzAdd (kz64Of x) (kz64Of y); (kz64Word r, r.inv)

/-- ADD_KF32 of two words: the exact sum rounded once, to nearest, ties to even (R375). -/
def addKf32Word (x y : Nat) : Nat × Nat :=
  let a := decodeKf32 x
  let b := decodeKf32 y
  let c := addCls (numCls a.1) (numCls b.1)
  if c ≠ 0 then ((encodeKf32 (kzNum ⟨0, c⟩ 0)).1, a.2 ||| b.2 ||| Kz.inv ⟨0, c⟩)
  else
    let v := fun (n : Num) => match n.kind with | .fin => (if n.neg then -1 else 1) * ((n.m * 2 ^ (n.e0 + 149).toNat : Nat) : Int) | _ => 0
    let r := encodeKf32 (kzNum ⟨v a.1 + v b.1, 0⟩ (-149))
    (r.1, a.2 ||| b.2 ||| r.2)

/-- ADD_KI32 and ADD_KI64 of two words of w bits: saturated, with OVF (R375). -/
def addIntWord (w x y : Nat) : Nat × Nat := satInt w (signed w x + signed w y)

/-! ## The residue shadow (R377) -/

/-- Shadow word of the KZ64 elements of a line: the residues of its finite elements. -/
def shadowOf (bs : List Byte) : Nat :=
  (List.range 8).foldl (fun a i =>
    let k := kz64Of (lineElem bs 8 i)
    if k.cls = 0 then (a + res k.a) % 65535 else a) 0

def shadowAt (d : Dev) (x : Nat) : Nat := tget 0 d.mem.shadow x
def shadowPut (d : Dev) (x v : Nat) : Dev := { d with mem := { d.mem with shadow := tset 0 d.mem.shadow x v } }

/-- A line that fails its check: its shadow word differs or it is poisoned. -/
def lineBad (d : Dev) (x : Nat) : Bool := poisoned d x || decide (shadowOf (lineBytes d x) ≠ shadowAt d x)

/-- Add masked KZ64 words into line x; answers whether the check passed (R377, R378). `differ` is a disagreement of the two adders. A line of a
FENCED stack is lost (R385). -/
def addKz64Line (d : Dev) (x mask : Nat) (ys : List Byte) (differ : Bool) : (Bool × Nat) × Dev :=
  if stkFenced d (x / stackLines) then ((false, 0), stkFault d (x / stackLines) Fd.HBM_STK_FAULT_add_check) else
  let bad := lineBad d x || differ
  let r := lineMap (lineBytes d x) ys 8 mask addKz64Word
  let d := shadowPut (lineWrite d x (ones 64) r.1) x (shadowOf r.1)
  if bad then ((false, r.2), stkFault (setPoison d x true) (x / stackLines) Fd.HBM_STK_FAULT_add_check) else ((true, r.2), d)

/-! ## Requests (R375) -/

/-- The bucket whose METRO or ACCUM region holds line x, and whether it is an ACCUM region. -/
def lineBucket (d : Dev) (x : Nat) : Option (Nat × Bool) :=
  match ownerOf d (x / stackLines) (granOf x) with
  | none => none
  | some (i, _) => d.seq.buckets.findSome? (fun e => match e.2 with
    | some b => if b.mReg = i then some (e.1, false) else if bOp b = 5 ∧ bRegion b % 4096 = i then some (e.1, true) else none
    | none => none)

/-- A failed check or a lost line is cause METRO in a METRO region and aborts the accumulation in an ACCUM region (R379). -/
def lineFailed (d : Dev) (x : Nat) : Dev :=
  match lineBucket d x with
  | some (k, true) => abortHere d k 6 none
  | some (k, false) => detectCause d k 8 []
  | none => d

/-- ADD_KZ64: a request whose addition number exceeds 256 is not performed, and the sequencer erases the bucket (R52, R378). -/
def memAddKz64 (a : HLine) (mask : BitVec 8) (data : List Byte) (number : BitVec 10) (differ : Bool) (d : Dev) : Dev :=
  let x := lineId a
  if !running d then d
  else if number.toNat > 256 then
    let d := stkFault d (x / stackLines) Fd.HBM_STK_FAULT_add_limit
    match lineBucket d x with
    | some (k, _) => detectCause d k 8 []
    | none => d
  else
    let r := addKz64Line (if differ then queueTest d .adders (x / stackLines) false else d) x mask.toNat data differ
    answer (if r.1.1 then r.2 else lineFailed r.2 x) x [] (!r.1.1) r.1.2

/-- ADD_KF32, ADD_KI32 and ADD_KI64: adders that disagree are a failed check. -/
def memAddPlain (a : HLine) (n mask : Nat) (f : Nat → Nat → Nat × Nat) (data : List Byte) (differ : Bool) (d : Dev) : Dev :=
  let x := lineId a
  if !running d then d
  else if stkFenced d (x / stackLines) then answer (stkFault d (x / stackLines) Fd.HBM_STK_FAULT_add_check) x [] true 0
  else
    let d := if differ then queueTest d .adders (x / stackLines) false else d
    let bad := differ || poisoned d x
    let r := lineMap (lineBytes d x) data n mask f
    let d := lineWrite d x (ones 64) r.1
    let d := if bad then stkFault (setPoison d x true) (x / stackLines) Fd.HBM_STK_FAULT_add_check else d
    answer d x [] bad r.2

/-- READ_CHECK: as READ, with the shadow check. -/
def memReadCheck (a : HLine) (es : List SymErr) (d : Dev) : Dev :=
  let x := lineId a
  if !running d then d
  else
    let r := readLine d x es
    let d := r.2
    let bad := r.1.2 || decide (shadowOf r.1.1 ≠ shadowAt d x)
    let d := if bad then lineFailed (stkFault d (x / stackLines) Fd.HBM_STK_FAULT_add_check) x else d
    answer d x r.1.1 bad 0

/-! ## KZ64 regions by element -/

/-- Add KZ64 elements from byte offset o of a region, line by line; answers whether every check passed, with the flags. -/
def regionAddKz (d : Dev) (r : Region) (o : Nat) (ks : List Kz) : (Bool × Nat) × Dev :=
  (List.range (ceilDiv ks.length 8 + 1)).foldl (fun (s : (Bool × Nat) × Dev) j =>
    let b := o / 64 * 64 + 64 * j
    let mask := (List.range 8).foldl (fun m i => if o ≤ b + 8 * i ∧ b + 8 * i < o + 8 * ks.length then m + 2 ^ i else m) 0
    if mask = 0 then s
    else
      let ys := (List.range 8).flatMap (fun i => beBytes 8 (kz64Word (ks.getD ((b + 8 * i - o) / 8) Kz.zero)))
      let x := addKz64Line s.2 (regionLine r b) mask ys false
      ((s.1.1 && x.1.1, s.1.2 ||| x.1.2), x.2)) ((true, 0), d)

/-- KZ64 elements of a region under READ_CHECK: none where a line fails its check. -/
def regionKz (d : Dev) (r : Region) (o n : Nat) : Option (List Kz) :=
  if (List.range (ceilDiv (o % 64 + 8 * n) 64)).any (fun j => lineBad d (regionLine r (o / 64 * 64 + 64 * j))) then none
  else
    let bs := regionRead d r o (8 * n)
    some ((List.range n).map (fun i => kz64Of (field bs (8 * i) 8)))

/-- Raise add_check of the stacks whose lines of a region fail (R377). -/
def regionFault (d : Dev) (r : Region) (o n : Nat) : Dev :=
  (List.range (ceilDiv (o % 64 + 8 * n) 64)).foldl (fun d j =>
    let x := regionLine r (o / 64 * 64 + 64 * j)
    if lineBad d x then stkFault d (x / stackLines) Fd.HBM_STK_FAULT_add_check else d) d

/-- Initialise a run of elements of a region to +0 (R152, R180). -/
def regionZero (d : Dev) (r : Region) (o n : Nat) : Dev :=
  let d := regionWrite d r o (List.replicate n 0)
  (List.range (ceilDiv (o % 64 + n) 64)).foldl (fun d j =>
    let x := regionLine r (o / 64 * 64 + 64 * j)
    shadowPut d x (shadowOf (lineBytes d x))) d

/-- REGION_ADD (R372, R375, R504): element-wise adds into a region; a poisoned line stays poisoned. -/
def regionAddCmd (d : Dev) (h : CmdHdr) (p : List Byte) : Ans :=
  let op := byteAt p 12
  let len := field p 16 4
  let n := if op = 6 then 8 else 4
  let o := field p 4 8
  if p.length < 20 then .bad p.length
  else checks [(4, decide (o % n = 0)), (12, decide (4 ≤ op ∧ op ≤ 6)), (13, decide (field p 13 3 = 0)),
      (16, decide (len ≤ 2048 ∧ p.length = 20 + len ∧ len % n = 0))]
    (withRegion d 0 p h.world (fun _ r =>
      if o + len > regionBytes r then .err St.regionBounds
      else
        let f := if op = 4 then addKf32Word else addIntWord (8 * n)
        let old := regionRead d r o len
        let out := (List.range (len / n)).foldr (fun i (s : List Byte × Nat) =>
          let v := f (field old (n * i) n) (field (p.drop 20) (n * i) n)
          (beBytes n v.1 ++ s.1, v.2 ||| s.2)) ([], 0)
        let marks := ((List.range (len / 64 + 2)).map (fun i => regionLine r (o + 64 * i))).filter (fun x => tget false d.mem.poison x)
        .done (marks.foldl (fun d x => setPoison d x true) (regionWrite d r o out.1)) (beBytes 2 out.2)))

end Sys2Proof.Machine
end

