-- ==== Sys2Proof/Machine/Convert.lean ====
section
/-! DEFINITION. The ingress converters (03 R74 to R80) and what the sequencer makes of a contribution (04 R136 to R149; 05 R181): blocks, scale
blocks, slots, digests, lost rows, admission and the full close. -/

namespace Sys2Proof.Machine

/-! ## Decoding a payload -/

/-- Elements of a payload as numbers with their input flags; `scale g` is the scale byte of group g of a KB8 block. A pair block gives hi and lo
as two inputs (R70). -/
def decodePayload (fmt : Nat) (scale : Nat → Nat) (p : List Byte) : List (Num × Nat) :=
  match fmt with
  | 1 => (List.range 64).map (fun i => decodeKf32 (field p (4 * i) 4))
  | 2 => (List.range 128).map (fun i => decodeKf16 (field p (2 * i) 2))
  | 3 => (List.range 256).map (fun i => decodeKb8 (scale (i / 32)) (byteAt p i))
  | 5 => (List.range 64).map (fun i => (ofInt (signed 32 (field p (4 * i) 4)), 0))
  | 6 => (List.range 256).map (fun i => (ofInt (signed 8 (byteAt p i)), 0))
  | 7 => (List.range 64).map (fun i => decodeKf32 (field p (4 * i) 4))
  | 9 => (List.range 32).map (fun i => (ofInt (signed 64 (field p (8 * i) 8)), 0))
  | _ => []

/-- What conversion of a block gives: lane words, flags and RM16 (R54, R57, R77). -/
structure Lanes where
  ws    : List (BitVec 64)
  flags : Nat
  rm    : Nat

def convertElems (fmt : Nat) (xs : List (Num × Nat)) (s : Int) (lim : Nat) : Lanes :=
  let cs := xs.map (fun x => let k := laneOf x.1 s lim (decide (fmt = 9)); (k.1, x.2 ||| k.2))
  ⟨cs.flatMap (·.1), cs.foldl (fun a c => a ||| c.2) 0, if isInt fmt then 0 else xs.foldl (fun a x => max a (rm16Of x.1)) 0⟩

/-- Lane words to one element: hi and lo of a pair (R70), the two halves of a KI64 element (log 156). -/
def lanesPer (fmt : Nat) : Nat := if fmt = 7 ∨ fmt = 9 then 2 else 1

/-- Block formats that a bucket accepts, from a child or owner or from a member (R74). -/
def accepts (b : Bucket) (fmt : Nat) (child : Bool) : Bool :=
  match bFmt b with
  | 1 => decide (fmt = 1) || (decide (fmt = 7) && child && polPair b.grp.policy)
  | 2 => decide (fmt = 2)
  | 3 => decide (fmt = 3 ∨ fmt = 4)
  | 5 => decide (fmt = 5) || (decide (fmt = 9) && child)
  | 6 => decide (fmt = 6) || (decide (fmt = 5) && child)
  | _ => false

/-! ## Refusals and check failures (R39, R74 to R79, R433) -/

def iconvFault (d : Dev) (l : Nat) (f : Nat × Nat) : Dev := unitFault d (Reg.ICONV_FAULT l) f (528 + l)

/-- A block that a converter refuses (R39, R115). -/
def refuseBlock (d : Dev) (l : Nat) (f : Option (Nat × Nat)) : Dev :=
  let d := bump d (Reg.ICONV_REFUSE_CNT l)
  match f with
  | some f => iconvFault d l f
  | none => d

/-- Whether a source stands at a CHILD slot of the bucket, or on VC2 is another METRO_OWNER of it. -/
def deepSource (k : Nat) (b : Bucket) (src vc : Nat) : Bool :=
  if vc = 2 then (rankOf (kCtx k) b.grp src).isSome
  else match slotOf b.grp src with
    | some (s, _) => ((b.grp.slots[s]?).map (·.child)).getD false
    | none => false

/-- A failed block check (R433): a failing partial sum of a child or of an owner erases the attempt with cause BLOCK (R174). -/
def failBlock (d : Dev) (l k att src vc : Nat) : Dev :=
  let d := raiseOnce (bump d Reg.INT_BLOCK_FAIL_CNT) 952 l
  match bucketAt d k with
  | none => d
  | some b => if b.attempt = att ∧ deepSource k b src vc then detectCause d k 7 (if vc = 2 then [] else b.chunks.map (·.1)) else d

/-! ## Closing a chunk and a bucket (R134, R140) -/

/-- A bucket whose every chunk is RELEASED is CLOSED; a BARRIER when every slot has opened it or its late limit passed (R129, R134). Its scale blocks
are released (R78). -/
def closeCheck (d : Dev) (k : Nat) : Dev :=
  match bucketAt d k with
  | none => d
  | some b =>
    let full := if bOp b = 6 then (epochSlots b.grp).all (fun i => b.openers.contains i) || b.lateDone
      else (List.range (nodeChunks b)).all (fun c => match chunkAt b c with | some x => decide (x.st = .released) | none => false)
    if b.st = .opened ∧ full then dropScales (bucketPut d k { b with st := .closed }) k b.attempt else d

/-- Whether every slot of the bucket's epoch is complete for a chunk (R140), or those that the record names under replay (R150). -/
def chunkFull (b : Bucket) (c : Nat) (x : Chunk) : Bool := (epochSlots b.grp).all (fun s => slotDone b c x s)

/-- What the record says of a chunk that closed short (R150), while replay follows it: its weights and the slots that were complete. -/
def replayShort (d : Dev) (k : Nat) (b : Bucket) (c : Nat) : Option (Nat × Nat × List Nat) :=
  if polReplay b.grp.policy then
    (replayFind d [4, kCtx k, bStep b, kTag k, b.attempt, c]).map (fun e =>
      (field e 35 4, field e 39 4, (List.range 2048).filter (fun i => bit (byteAt e (43 + i / 8)) (7 - i % 8))))
  else none

/-- A chunk closes FULL when its last row is taken (R140), or under replay short as the record shows it, once its recorded slots are complete (R150).
A chunk that still waits closes when it is admitted. -/
def closeIfFull (d : Dev) (k c : Nat) : Dev :=
  match bucketAt d k with
  | none => d
  | some b => match chunkAt b c with
    | none => d
    | some x =>
      if x.st ≠ .filling then d
      else match replayShort d k b c with
        | some (wp, we, is) =>
          if is.all (fun s => slotDone b c x s) then
            let x := { x with st := .closing, short := true, wp := wp, we := we }
            recordShortSlots (bump (bucketPut d k (chunkPut b c x)) Reg.SEQ_SHORT_CNT) k b c wp we is
          else d
        | none => if chunkFull b c x then bucketPut d k (chunkPut b c { x with st := .closing }) else d

/-! ## Admission (R85, R98, R137, R138) -/

/-- A chunk with marks or digests but no row taken is still IDLE (R137). -/
def chunkIdle (x : Chunk) : Bool := decide (x.st = .waiting) && !x.short && !x.rows.any (fun r => decide (r.2 ≠ .lost))

/-- Chunks in ADMIT_WAIT of OPEN buckets: those that close short first, then in the order in which they came. -/
def waitingChunks (d : Dev) : List (Nat × Nat × Chunk) :=
  d.seq.buckets.flatMap (fun e => match e.2 with
    | some b => (b.chunks.filter (fun c => decide (c.2.st = .waiting) && !chunkIdle c.2)).map (fun c => (e.1, c.1, c.2))
    | none => [])

/-- Whether waiting chunk x comes before y (R138, R144). -/
def admitBefore (x y : Nat × Nat × Chunk) : Bool :=
  if x.2.2.short ≠ y.2.2.short then x.2.2.short
  else decide (x.2.2.ord < y.2.2.ord)

def nextWaiting (d : Dev) : Option (Nat × Nat × Chunk) :=
  (waitingChunks d).foldl (fun best x => match best with
    | none => some x
    | some y => if admitBefore x y then some x else some y) none

/-- Lane words leave a port station for every copy of their chunk (R98); the granules of the block stay with the first copy. -/
def lanesOut (d : Dev) (st : Nat) (x : Chunk) (w : LBlk) : Dev :=
  let d := laneSend d st w
  if x.own1.isSome then laneSend d st { w with copy := 1, grans := 0 } else d

/-- CHUNK_ADMIT (R138): the first waiting chunk is admitted when its accumulators fit; its lane words leave for its desks. A chunk that closes short
without lane words takes accumulators of its desks at once, and waits until they have them (log 160). -/
def chunkAdmit (d : Dev) : Dev :=
  if !running d then d
  else match nextWaiting d with
    | none => d
    | some (k, c, x) => match bucketAt d k, resolve d (homeOf k c) with
      | some b, some h =>
        let want := fbit d Reg.RFAB_CTRL Fd.RFAB_CTRL_force_dual || polDual b.grp.policy
        let twin := if want then twinOf d (homeOf k c) else none
        let n := accsOf b * (if twin.isSome then 2 else 1)
        let bare := x.wait.isEmpty
        let owners := (0, h) :: (match twin with | some t => [(1, t)] | none => [])
        if accReserved d + n > 24 * mappedCount d ∨ (bare ∧ owners.any (fun o => decide (accUsed (deskAt d o.2) + accsOf b > 24))) then d
        else
          let d := if want ∧ twin.isNone then bump d Reg.RFAB_DUAL_LOST_CNT else d
          let x' := { x with st := if x.short then .closing else .filling, accs := n, dual := twin.isSome, own0 := some h, own1 := twin, wait := [] }
          let d := bucketPut d k (chunkPut b c x')
          let d := if bare then owners.foldl (fun d o => bindAcc d o.2 k b.attempt c o.1 b x') d
            else x.wait.foldl (fun d w => lanesOut d w.1 x' w.2) d
          closeIfFull d k c
      | _, _ => d

/-- ADMIT_NOTE_TIMEOUT (R138). -/
def admitNote (d : Dev) (k c : Nat) : Dev :=
  let n := fget d Reg.SEQ_CTRL Fd.SEQ_CTRL_admit_note_ticks
  match bucketAt d k with
  | none => d
  | some b => match chunkAt b c with
    | none => d
    | some x =>
      if x.st = .waiting ∧ !chunkIdle x ∧ !x.noted ∧ n ≠ 0 ∧ x.since + n * tickLen d ≤ ns d then
        raise (bucketPut d k (chunkPut b c { x with noted := true })) 796
      else d

/-- An entry for a chunk of the bucket. -/
def chunkEnsure (d : Dev) (k c : Nat) : Dev :=
  match bucketAt d k with
  | none => d
  | some b => match chunkAt b c with
    | some _ => d
    | none =>
      let d := { d with seq := { d.seq with ord := d.seq.ord + 1 } }
      bucketPut d k (chunkPut b c (Chunk.new d.seq.ord (ns d)))

/-- The chunk that takes a first block enters ADMIT_WAIT (R137). -/
def chunkEnter (d : Dev) (k c : Nat) : Dev :=
  let d := chunkEnsure d k c
  match bucketAt d k with
  | none => d
  | some b => match chunkAt b c with
    | none => d
    | some x =>
      if chunkIdle x then
        let d := { d with seq := { d.seq with ord := d.seq.ord + 1 } }
        bucketPut d k (chunkPut b c { x with ord := d.seq.ord, since := ns d })
      else d

/-! ## Digests (R147 to R149) -/

def xchkOn (b : Bucket) (s : Nat) : Bool :=
  b.xchk && (match b.grp.slots[s]? with | some e => !e.child && decide (e.sub ≠ 0xFFFFFF) | none => false)

/-- Digest pairs held: a pair stays held until its bucket's chunks are cleared (log 161). -/
def digestsHeld (d : Dev) : Nat :=
  d.seq.buckets.foldl (fun a e => match e.2 with
    | some b => a + b.chunks.foldl (fun n c => n + (c.2.dig.filter (fun g => g.2.held)).length) 0
    | none => a) 0

/-- A block of a source enters its digest, and digests of two sources that delivered every row are compared (R147, R148). -/
def digestTake (d : Dev) (k c s : Nat) (prim : Bool) (l : Nat) (rows : List Nat) (crc : Nat) : Dev :=
  match bucketAt d k with
  | none => d
  | some b => match chunkAt b c with
    | none => d
    | some x =>
      if !xchkOn b s then d
      else
        let known := x.dig.find? (fun e => decide (e.1 = s))
        let g := (known.map (·.2)).getD { Digest.zero with held := decide (digestsHeld d < 262144) }
        let d := if known.isNone ∧ !g.held then
            let d := bump d Reg.SEQ_XCHK_SKIP_CNT
            if b.noted then d else raise d 798
          else d
        let b := if known.isNone ∧ !g.held then { b with noted := true } else b
        let g := rows.foldl (fun (g : Digest) j =>
          if prim then (if g.pRows.testBit j then g else { g with p := (g.p + crc * (2 * j + 1)) % 2 ^ 32, pRows := g.pRows + 2 ^ j, pLink := l })
          else if g.sRows.testBit j then g else { g with s := (g.s + crc * (2 * j + 1)) % 2 ^ 32, sRows := g.sRows + 2 ^ j, sLink := l }) g
        let d := bucketPut d k (chunkPut b c { x with dig := tput x.dig s g })
        let all := ones (chunkRows b c)
        if g.held ∧ g.pRows = all ∧ g.sRows = all ∧ g.p ≠ g.s then
          let d := bucketMod d k (fun b => { b with primOnly := if b.primOnly.contains s then b.primOnly else b.primOnly ++ [s] })
          let e := b.grp.slots.getD s ⟨false, 0, 0, 0, 0⟩
          let d := { d with seq := { d.seq with xmiss := d.seq.xmiss ++ [⟨e.prim, e.sub, k, b.attempt, c⟩] } }
          let d := queueTest (queueTest (raise d 794) .iconv g.pLink false) .iconv g.sLink false
          detectCause d k 4 (b.chunks.map (·.1))
        else d

/-! ## Taking rows (R139 to R142) -/

/-- The source that a row must take its block from under replay (R150), when the policy follows the record. -/
def replayPrim (d : Dev) (k : Nat) (b : Bucket) (c s r : Nat) : Option Bool :=
  if polReplay b.grp.policy ∧ replayActive d then
    match replayFind d [3, kCtx k, bStep b, kTag k, b.attempt, c, s] with
    | some e => some (!(field e 37 8).testBit r)
    | none => some true
  else none

/-- Rows (chunk, first row, count) that a block of `n` elements at sequence q covers; none beyond the bucket. -/
def rowsSpanned (b : Bucket) (q n : Nat) : Option (Nat × List Nat) :=
  let e := q * n
  let r := e / rowElems b
  if e + n > totalElems b ∨ n < rowElems b then none else some (r / 64, (List.range (n / rowElems b)).map (fun i => r % 64 + i))

/-- What becomes of a block of a source at a slot: taken, a repeat, a copy of the other source, or late (R139, R141). -/
inductive Take where
  | take
  | dup
  | other
  | late
  | bar
deriving DecidableEq, Repr

def takeOf (d : Dev) (k : Nat) (b : Bucket) (c s : Nat) (prim : Bool) (r : Nat) : Take :=
  let closed : Bool := match chunkAt b c with
    | some x => !(decide (x.st = .waiting ∧ x.short = false) || decide (x.st = .filling))
    | none => decide (b.st ≠ .opened)
  if closed then .late
  else match (chunkAt b c).bind (fun x => taken x s r) with
    | some .prim => if prim then .dup else .other
    | some .sub => if prim then .other else .dup
    | _ =>
      if !prim ∧ (!polSubst b.grp.policy ∨ b.primOnly.contains s) then .bar
      else match replayPrim d k b c s r with
        | some p => if p = prim then .take else .other
        | none => .take

/-- Mark the rows of a lost block (R142). -/
def loseRows (d : Dev) (k c s : Nat) (rows : List Nat) : Dev :=
  let d := chunkEnsure d k c
  chunkMod d k c (fun x => rows.foldl (fun x r => if (taken x s r).isNone then { x with rows := tput x.rows (s * 64 + r) .lost } else x) x)

/-- A taken block fills its rows: RM16, flags, lane words (R75 step 5), and the close when it was the last. The `g` granules of the block stay with
its last row. -/
def fillRows (d : Dev) (l k c s : Nat) (prim : Bool) (rows : List Nat) (fmt : Nat) (v : Lanes) (status rm g : Nat) : Dev :=
  let d := chunkEnter d k c
  let d := bucketMod d k (fun b => { b with rm := max b.rm (max v.rm rm) })
  let st := (sticky status ||| (status &&& Fl.short)) ||| v.flags
  let d := chunkMod d k c (fun x => rows.foldl (fun x r =>
    { x with rows := tput x.rows (s * 64 + r) (if prim then .prim else .sub), rowSt := tput x.rowSt r (tget 0 x.rowSt r ||| st) }) x)
  let n := v.ws.length / max 1 rows.length
  let d := (List.range rows.length).foldl (fun d i =>
    match bucketAt d k with
    | none => d
    | some b =>
      let w : LBlk := ⟨k, b.attempt, c, rows.getD i 0, (v.ws.drop (n * i)).take n, lanesPer fmt, 0, 0, if i + 1 = rows.length then g else 0⟩
      match chunkAt b c with
      | none => d
      | some x => if x.st = .waiting then bucketPut d k (chunkPut b c { x with wait := x.wait ++ [(l / 8, w)] }) else lanesOut d (l / 8) x w) d
  let d := if hasFlag (status ||| v.flags) Fl.headroom then
      detectCause d k 3 (match bucketAt d k with | some b => b.chunks.map (·.1) | none => [])
    else d
  closeIfFull d k c

/-! ## Metro rows (R181, R182) -/

/-- Owner of a chunk of the bucket by rank (R179). -/
def metroRankOf (b : Bucket) (c : Nat) : Nat := c * b.grp.metroN / max 1 (bucketChunks b)

/-- First chunk that a rank owns, and whether this owner holds chunk c. -/
def ownFirst (b : Bucket) (rank : Nat) : Nat := ceilDiv (rank * bucketChunks b) (max 1 b.grp.metroN)
def ownsChunk (b : Bucket) (c : Nat) : Bool := decide (c < bucketChunks b) && decide (metroRankOf b c = b.grp.metroRank)
def ownChunks (b : Bucket) : List Nat := (List.range (bucketChunks b)).filter (ownsChunk b)

/-- Elements of a chunk of the bucket. -/
def chunkElems (b : Bucket) (c : Nat) : Nat := min (64 * fmtElems (bFmt b)) (totalElems b - 64 * fmtElems (bFmt b) * c)

/-- Byte offset of an element in the owner's region (R180). -/
def metroOff (b : Bucket) (e : Nat) : Nat := 8 * (e - ownFirst b b.grp.metroRank * 64 * fmtElems (bFmt b))

def mChunkAt (b : Bucket) (c : Nat) : MChunk := tget MChunk.init b.mChunks c
def mChunkPut (b : Bucket) (c : Nat) (m : MChunk) : Bucket := { b with mChunks := tset MChunk.init b.mChunks c m }

/-- Units of a metro chunk, and the first of an element. -/
def metroUnits (b : Bucket) (c : Nat) : Nat := ceilDiv (chunkElems b c) 32
def metroUnit (b : Bucket) (e : Nat) : Nat := (e - elemChunk b e * 64 * fmtElems (bFmt b)) / 32

/-- Whether a rank has added every unit of a chunk (R181). -/
def rankDone (b : Bucket) (c rank : Nat) : Bool :=
  (List.range (metroUnits b c)).all (fun u => decide (tget 0 (mChunkAt b c).rows (rank * 4096 + u) = 2))

/-- Mark the units of a run of elements of a rank. -/
def metroMark (b : Bucket) (rank e n v : Nat) : Bucket :=
  let c := elemChunk b e
  let m := mChunkAt b c
  mChunkPut b c { m with rows := (List.range (ceilDiv n 32)).foldl (fun rs i => tset 0 rs (rank * 4096 + metroUnit b e + i) v) m.rows }

/-- Add lane words of one group from element e on into the metro region (R181), hi and lo of a pair as two additions (R178); the metro chunk closes
FULL when every group is complete. `st` is the status of the block, which joins that of its units (R48). -/
def metroAdd (d : Dev) (k rank e : Nat) (parts : List (List Kz)) (st : Nat) : Dev :=
  match bucketAt d k with
  | none => d
  | some b =>
    let r := regionAt d b.mReg
    let n := (parts.headD []).length
    let a := parts.foldl (fun (s : (Bool × Nat) × Dev) ks =>
      let y := regionAddKz s.2 r (metroOff b e) ks
      ((s.1.1 && y.1.1, s.1.2 ||| y.1.2), y.2)) ((true, st), d)
    let b := metroMark b rank e n 2
    let c := elemChunk b e
    let m := mChunkAt b c
    let m := { m with stat := (List.range (ceilDiv n 32)).foldl (fun t i => tset 0 t (metroUnit b e + i) (tget 0 t (metroUnit b e + i) ||| a.1.2)) m.stat }
    let b := mChunkPut b c m
    let b := if (List.range b.grp.metroN).all (rankDone b c) then mChunkPut b c { m with closed := true } else b
    let d := bucketPut a.2 k b
    if a.1.1 then d else detectCause d k 8 []

/-- The elements that lane words rebuild, as the additions that they make: one, or hi and lo of a pair (R70, R77); the two halves of a KI64 element
make one. -/
def laneParts (pair : Bool) (per : Nat) (ws : List (BitVec 64)) : List (List Kz) :=
  let at' := fun (j i : Nat) => laneKz 55 (ws.getD (per * i + j) 0)
  let n := ws.length / max 1 per
  if per = 1 then [(List.range n).map (at' 0)]
  else if pair then [(List.range n).map (at' 0), (List.range n).map (at' 1)]
  else [(List.range n).map (fun i => kzAdd (at' 0 i) (at' 1 i))]

/-- Lane words at their HBM station: the memory-side adders add them, and the granules of their block are freed (R36, R75, R181). What an ERASE or
an abort has overtaken is dropped. -/
def metroArrive (d : Dev) (w : MBlk) : Dev :=
  let d := if w.grans = 0 then d else poolFreeGrans d 0 0 w.grans
  match bucketAt d w.key with
  | none => d
  | some b =>
    if b.attempt ≠ w.att ∨ b.mReg = 0 ∨ b.st = .aborted then d
    else metroAdd d w.key w.rank w.elem (laneParts (!isInt (bFmt b)) w.per w.lanes) w.status

/-! ## Converting a block (R75) -/

/-- The scale block that a data block needs (R45, R78). -/
def scaleAt (d : Dev) (l k att src q : Nat) : Option ScaleBlk :=
  d.seq.scales.find? (fun s => decide (s.conv = l ∧ s.key = k ∧ s.att = att ∧ s.src = src ∧ s.seq = q / 32 * 32))

/-- Scale byte of group g of data block q (R45). -/
def scaleByte (s : ScaleBlk) (q g : Nat) : Nat := byteAt s.data (8 * (q % 32) + g)

/-- A scale block arrives at a converter (R45, R78). -/
def takeScale (d : Dev) (l k att src : Nat) (blk : List Byte) : Dev :=
  let q := blkSeq blk
  if q % 32 ≠ 0 then refuseBlock d l (some Fd.ICONV_FAULT_format_refused)
  else if (scaleAt d l k att src q).isSome then refuseBlock d l none
  else if (d.seq.scales.filter (fun s => decide (s.conv = l))).length ≥ 16 then refuseBlock d l (some Fd.ICONV_FAULT_scale_full)
  else { d with seq := { d.seq with scales := d.seq.scales ++ [⟨l, k, att, src, q, blkPayload blk, 0, blkStatus blk, blkRm blk⟩] } }

/-- A data block was converted with its scale block, which is released when all 32 have been (R78). -/
def useScale (d : Dev) (l k att src q : Nat) : Dev :=
  let ss := d.seq.scales.map (fun s => if s.conv = l ∧ s.key = k ∧ s.att = att ∧ s.src = src ∧ s.seq = q / 32 * 32 then { s with used := s.used ||| 2 ^ (q % 32) } else s)
  { d with seq := { d.seq with scales := ss.filter (fun s => decide (s.used ≠ ones 32)) } }

/-- The sequencer decides on a converted VC1 block (R75 step 4, R139 to R142, R147). `status` and `rm` are those that the block and its scale block
carry, `g` the granules of the block, which are freed where no slot takes it. -/
def seqTake (d : Dev) (l k s : Nat) (prim : Bool) (b : Bucket) (blk : List Byte) (v : Lanes) (status rm g : Nat) : Dev :=
  let fmt := blkFmt blk
  let drop := fun d => poolFreeGrans d 0 (l / 8) g
  match rowsSpanned b (blkSeq blk) (fmtElems fmt) with
  | none => drop (bump d Reg.SEQ_CONFLICT_CNT)
  | some (c, rows) =>
    let t := takeOf d k b c s prim (rows.headD 0)
    let d := if xchkOn b s ∧ b.st = .opened then chunkEnsure d k c else d
    let d := if ns d < b.late then digestTake d k c s prim l rows (blkCrc blk) else d
    match bucketAt d k with
    | none => drop d
    | some b' =>
      if b'.attempt ≠ b.attempt ∨ b'.st = .aborted then drop d
      else match t with
        | .take => fillRows d l k c s prim rows fmt v status rm g
        | .dup => drop (bump d Reg.SEQ_DUP_CNT)
        | .late => drop (bump d Reg.SEQ_LATE_CNT)
        | .bar => drop (bump d Reg.SEQ_FOREIGN_CNT)
        | .other => drop d

/-- The sequencer decides on a converted VC2 block of another group's root (R181): its lane words go to the HBM station of their metro element. -/
def metroTake (d : Dev) (l k rank : Nat) (b : Bucket) (blk : List Byte) (v : Lanes) (g : Nat) : Dev :=
  let drop := fun d => poolFreeGrans d 0 (l / 8) g
  let n := fmtElems (blkFmt blk)
  let e := blkSeq blk * n
  let c := elemChunk b e
  if e + n > totalElems b ∨ !ownsChunk b c then drop (bump d Reg.SEQ_CONFLICT_CNT)
  else
    let m := mChunkAt b c
    if m.closed then drop (bump d Reg.SEQ_LATE_CNT)
    else if tget 0 m.rows (rank * 4096 + metroUnit b e) ≠ 0 then drop (bump d Reg.SEQ_DUP_CNT)
    else
      let st := (sticky (blkStatus blk) ||| (blkStatus blk &&& Fl.short)) ||| v.flags
      let d := bucketPut d k { metroMark b rank e n 1 with rm := max b.rm (max v.rm (if isInt (blkFmt blk) then 0 else blkRm blk)) }
      if hasFlag st Fl.headroom then drop (detectCause d k 3 [])
      else slotsN d (chunkCorr k c) (l / 8) (stHbm (regionLine (regionAt d b.mReg) (metroOff b e) / stackLines)) (laneSlots v.ws.length)
        (.metro ⟨k, b.attempt, rank, e, v.ws, lanesPer (blkFmt blk), st, g⟩)

/-- Whether a bucket takes a block on a virtual channel (R75 step 2): on VC1 while it is OPEN, and while it is CLOSED and comparisons may still be
made (R149); on VC2 also while it is CLOSED or REPORTED in its own tree (log 112). -/
def takesBlocks (d : Dev) (b : Bucket) (vc : Nat) : Bool :=
  decide (b.st = .opened)
  || (if vc = 2 then decide (b.st = .closed ∨ b.st = .reported)
      else decide (b.st = .closed) && decide (ns d < b.late) && (epochSlots b.grp).any (xchkOn b))

/-- The sequencer's decision on the attempt and the source of a block that its converter has converted (R75 step 4, R122, R135, R141), and where
they fit on its rows. -/
def stampBlock (d : Dev) (l k att src vc : Nat) (b : Bucket) (blk : List Byte) (v : Lanes) (status rm g : Nat) : Dev :=
  let drop := fun d => poolFreeGrans d 0 (l / 8) g
  if att < b.attempt then drop (bump d Reg.SEQ_STALE_CNT)
  else if att > b.attempt then drop (bump d Reg.SEQ_CONFLICT_CNT)
  else if vc = 2 then match rankOf (kCtx k) b.grp src with
    | some r => metroTake d l k r b blk v g
    | none => drop (bump d Reg.SEQ_FOREIGN_CNT)
  else match slotOf b.grp src with
    | some (s, prim) => seqTake d l k s prim b blk v status rm g
    | none => drop (bump d Reg.SEQ_FOREIGN_CNT)

/-- One block at an ingress converter (R74, R75): checks, bucket, format, conversion, sequencer. `dup` is a disagreement of the two datapaths (R76),
`g` the granules that the block holds. A scale block, which has no elements, meets the sequencer's decision on its attempt and source before it is
held, and a KB8 block of another attempt than the bucket's needs no scales to be dropped (log 162). -/
def convertOne (d : Dev) (l : Nat) (hdr blk : List Byte) (dup : Bool) (g : Nat) : Dev :=
  let k := passKey hdr
  let att := passAtt hdr
  let src := fSrc hdr
  let vc := fVc hdr
  let fmt := blkFmt blk
  let q := blkSeq blk
  let drop := fun d => poolFreeGrans d 0 (l / 8) g
  let unknown := fun d => drop (raiseOnce (bump (refuseBlock d l (some Fd.ICONV_FAULT_unknown_bucket)) Reg.SEQ_UNKNOWN_CNT) 793 src)
  let d := if resOk blk then d else refuseBlock d l (some Fd.ICONV_FAULT_tag_residue)
  if !blkOk blk then drop (failBlock d l k att src vc)
  else if fmt = 8 then drop (refuseBlock d l (some Fd.ICONV_FAULT_format_refused))
  else match bucketAt d k with
    | none => unknown d
    | some b =>
      let mine := decide (att = b.attempt) && (if vc = 2 then (rankOf (kCtx k) b.grp src).isSome else (slotOf b.grp src).isSome)
      let sc := scaleAt d l k att src q
      if !takesBlocks d b vc then unknown d
      else if isCopy b ∨ bOp b = 6 ∨ !accepts b fmt (deepSource k b src vc) then drop (refuseBlock d l (some Fd.ICONV_FAULT_format_refused))
      else if fmt = 4 then
        if mine then drop (takeScale d l k att src blk) else stampBlock d l k att src vc b blk ⟨[], 0, 0⟩ 0 0 g
      else if fmt = 3 ∧ sc.isNone then
        if att = b.attempt then drop (failBlock (refuseBlock d l (some Fd.ICONV_FAULT_scale_missing)) l k att src vc)
        else stampBlock d l k att src vc b blk ⟨[], 0, 0⟩ 0 0 g
      else if dup then drop (failBlock (queueTest (refuseBlock d l (some Fd.ICONV_FAULT_dup_mismatch)) .iconv l false) l k att src vc)
      else
        let int := isInt (bFmt b)
        let xs := decodePayload fmt (match sc with | some s => scaleByte s q | none => fun _ => 0) (blkPayload blk)
        let v := if vc = 2 then convertElems fmt xs (if int then 0 else s64 b.mEref) 55
          else convertElems fmt xs (if int then 0 else s128 b.eref) 111
        let own := if fmt = 3 then sc else none
        let d := if fmt = 3 then useScale d l k att src q else d
        stampBlock d l k att src vc b blk v (blkStatus blk ||| (own.map (·.status)).getD 0)
          (if isInt fmt then 0 else max (blkRm blk) ((own.map (·.rm)).getD 0)) g

/-- CONVERT_BLOCK (R22, R31, R75): the converter of a link takes the next block of the pass that waits first at it. What the block held goes with its
lane words until they are added. A fenced converter still converts what is queued at it (R441). -/
def convertBlock (d : Dev) (l : Nat) (dup : Bool) : Dev :=
  if !running d then d
  else match ltake (fun p => decide (p.link = l)) d.seq.conv with
    | none => d
    | some (p, rest) =>
      match p.blocks with
      | [] => poolFreeGrans { d with seq := { d.seq with conv := rest } } 0 (l / 8) p.grans
      | blk :: more =>
        let g := if more.isEmpty then p.grans else min 1 (p.grans - 1)
        let conv := if more.isEmpty then rest else lmodFirst (fun p => decide (p.link = l)) (fun p => { p with blocks := more, grans := p.grans - g }) d.seq.conv
        convertOne { d with seq := { d.seq with conv := conv } } l p.hdr blk dup g

/-- A contribution pass that the reduction quota refuses (R142): its rows are LOST. -/
def losePass (d : Dev) (b : List Byte) : Dev :=
  let k := passKey b
  (frameBlocks b).foldl (fun d blk =>
    let d := raise (bump d Reg.SEQ_LOST_CNT) 795
    match bucketAt d k with
    | none => d
    | some bk =>
      if bk.st ≠ .opened ∨ bk.attempt ≠ passAtt b ∨ fVc b ≠ 1 ∨ blkFmt blk = 4 then d
      else match slotOf bk.grp (fSrc b), rowsSpanned bk (blkSeq blk) (fmtElems (blkFmt blk)) with
        | some (s, prim), some (c, rows) => if takeOf d k bk c s prim (rows.headD 0) = .take then loseRows d k c s rows else d
        | _, _ => d) d

end Sys2Proof.Machine
end

