-- ==== Sys2Proof/Machine/Econv.lean ====
section
/-! DEFINITION. The egress converters (03 R95 to R97): narrowing, result and partial blocks, where they go by role and operation (04 R125 to R131), the
metro stage's narrowing (05 R181 to R184), the gradient stream (06 R200) and gradient accumulation (04 R151 to R154). -/

namespace Sys2Proof.Machine

/-! ## Forming blocks (R58 to R61, R96, R128) -/

/-- An exact element on its way out: its KZ value, its exponent, and the fraction by which the narrowing scales it (R131, R145). -/
structure Exact where
  k   : Kz
  s   : Int
  num : Nat
  den : Nat
deriving DecidableEq, Repr

def Exact.zero : Exact := ⟨Kz.zero, 0, 1, 1⟩

def Exact.toNum (x : Exact) : Num := scaleNum (kzNum x.k x.s) x.num x.den

/-- How blocks are formed: format, status of the elements from a start on, RM16 or E_ref, origin desk by element, toss parameters. -/
structure Form where
  fmt    : Nat
  status : Nat → Nat → Nat
  rm     : Nat
  origin : Nat → Nat
  toss   : Option (Nat × Nat × Nat)

def tossAt (f : Form) (e : Nat) : Option Nat := f.toss.map (fun t => toss t.1 t.2.1 t.2.2 e 0)

/-- Bytes of one element in a format other than KB8, with the flags of its narrowing. -/
def encElem (fmt : Nat) (x : Exact) (t : Option Nat) : List Byte × Nat :=
  match fmt with
  | 2 => let r := encodeKf16 x.toNum t; (beBytes 2 r.1, r.2)
  | 5 => let r := encodeInt 32 x.k.a x.num x.den; (beBytes 4 r.1, r.2)
  | 6 => let r := encodeInt 8 x.k.a x.num x.den; (beBytes 1 r.1, r.2)
  | 7 => let r := encodePair x.k x.s x.num x.den; (beBytes 4 r.1.1 ++ beBytes 4 r.1.2, r.2)
  | 9 => let r := encodeInt 64 x.k.a x.num x.den; (beBytes 8 r.1, r.2)
  | _ => let r := encodeKf32 x.toNum; (beBytes 4 r.1, r.2)

/-- Pieces of k elements. -/
def pieces {α : Type} (k : Nat) : Nat → List α → List (List α)
  | 0, _ => []
  | n + 1, xs => if xs.isEmpty then [] else xs.take k :: pieces k n (xs.drop k)

/-- A block of elements from `start` on. -/
def formBlock (f : Form) (start : Nat) (xs : List Exact) : List Byte :=
  let es := (List.range xs.length).map (fun i => encElem f.fmt (xs.getD i Exact.zero) (tossAt f (start + i)))
  mkBlock (es.flatMap (·.1)) (f.status start xs.length ||| es.foldl (fun a e => a ||| e.2) 0) (start / fmtElems f.fmt) f.rm f.fmt (f.origin start)

/-- A KB8 data block: its 8 scale bytes and the block. -/
def formKb8 (f : Form) (start : Nat) (xs : List Exact) : List Nat × List Byte :=
  let gs := (List.range 8).map (fun g => kb8Group ((List.range 32).map (fun i =>
    ((xs.getD (32 * g + i) Exact.zero).toNum, tossAt f (start + 32 * g + i)))))
  (gs.map (·.1.1), mkBlock (gs.flatMap (fun g => g.1.2.map (BitVec.ofNat 8)))
    (f.status start xs.length ||| gs.foldl (fun a g => a ||| g.2) 0) (start / 256) f.rm 3 (f.origin start))

/-- KB8 blocks of elements from `start` on: ahead of the data blocks of each 32 their scale block (R45), whose status holds the events of
the narrowing that gave its scales; scale bytes of data blocks that are not formed with it are 0x00 (R48, log 46). -/
def formKb8s (f : Form) (start : Nat) (xs : List Exact) : List (List Byte) :=
  let bs := (List.range (ceilDiv xs.length 256)).map (fun i =>
    (start / 256 + i, formKb8 f (start + 256 * i) ((xs.drop (256 * i)).take 256)))
  let firsts := bs.foldl (fun (a : List Nat) b => if a.contains (b.1 / 32 * 32) then a else a ++ [b.1 / 32 * 32]) []
  firsts.flatMap (fun q =>
    let mine := bs.filter (fun b => decide (b.1 / 32 * 32 = q))
    let bytes := (List.range 32).flatMap (fun j => match mine.find? (fun b => decide (b.1 = q + j)) with
      | some b => b.2.1.map (BitVec.ofNat 8)
      | none => List.replicate 8 0)
    mkBlock bytes (mine.foldl (fun a b => a ||| blkStatus b.2.2) (f.status start 0)) q f.rm 4 (f.origin start) :: mine.map (fun b => b.2.2))

/-- All blocks of consecutive elements. -/
def formBlocks (f : Form) (start : Nat) (xs : List Exact) : List (List Byte) :=
  if f.fmt = 3 then formKb8s f start xs
  else
    let n := fmtElems f.fmt
    let ps := pieces n (xs.length + 1) xs
    (List.range ps.length).map (fun i => formBlock f (start + n * i) (ps.getD i []))

/-! ## What is kept of narrowed rows -/

/-- Node chunk and row of an element. -/
def elemRow (b : Bucket) (e : Nat) : Nat × Nat := let r := e / rowElems b; (r / 64, r % 64)

def rowKept (b : Bucket) (e : Nat) : Option (List AElem) :=
  (chunkAt b (elemRow b e).1).bind (fun x => (x.done.find? (fun r => decide (r.1 = (elemRow b e).2))).map (·.2))

/-- The fraction of a chunk's narrowing: RESCALE (R145), and MEAN at the root of the group tree (R131). -/
def fracOf (b : Bucket) (x : Chunk) (root : Bool) : Nat × Nat :=
  let r := if x.short ∧ polShort b.grp.policy = 1 then (x.we, x.wp) else (1, 1)
  (r.1, r.2 * (if root ∧ bType b = 1 then b.grp.members else 1))

def bucketS (b : Bucket) : Int := if isInt (bFmt b) then 0 else s128 b.eref

/-- Exact elements of a kept row. -/
def rowExact (b : Bucket) (x : Chunk) (root : Bool) (es : List AElem) : List Exact :=
  let q := fracOf b x root
  es.map (fun e => ⟨e.k, bucketS b, q.1, q.2⟩)

/-- Status of the rows under a run of elements: sticky bits, and SHORT where a chunk is short (R48, R145). -/
def rowsStatus (b : Bucket) (start len : Nat) : Nat :=
  (List.range (ceilDiv (start % rowElems b + max 1 len) (rowElems b))).foldl (fun a i =>
    match chunkAt b (elemRow b (start + i * rowElems b)).1 with
    | some x => a ||| (tget 0 x.rowSt (elemRow b (start + i * rowElems b)).2 &&& (0xFE ||| Fl.short)) ||| (if x.short then Fl.short else 0)
    | none => a) 0

/-- Whether a format and policy narrow with toss values (R59). -/
def tossFor (k : Nat) (b : Bucket) (fmt : Nat) : Option (Nat × Nat × Nat) :=
  if polToss b.grp.policy ∧ (fmt = 2 ∨ fmt = 3) then some (b.seed, kTag k, bStep b) else none

/-- Format of results toward members (R128). -/
def resultFmt (b : Bucket) : Nat := if isInt (bFmt b) then bFmt b else b.grp.fmt

/-- Format of partial sums toward a parent or an owner (R128). -/
def partialFmt (b : Bucket) : Nat :=
  if bFmt b = 6 then 5 else if bFmt b = 5 then 9 else if polPair b.grp.policy then 7 else 1

/-- Form of the pencil results of a bucket. -/
def pencilForm (k : Nat) (b : Bucket) (eref : Int) (st : Nat → Nat → Nat) : Form :=
  let t := tossFor k b (resultFmt b)
  ⟨resultFmt b, fun s n => Fl.result ||| Fl.pencil ||| (if t.isSome then Fl.stoch else 0) ||| st s n, unsigned 16 eref,
    fun e => homeOf k (elemRow b e).1, t⟩

/-! ## Destinations -/

def fanTo (d : Dev) (g : Group) : List (Nat × List Nat) := (fanPorts g).map (fun p => (p, portDsts d g p))

/-- Port and destination of the slot that stands for member m (R130): the copy toward its port, or its child. -/
def memberTo (d : Dev) (g : Group) (m : Nat) : List (Nat × List Nat) :=
  match (epochSlots g).findSome? (fun i => (g.slots[i]?).bind (fun s => if (slotMask s).testBit m then some s else none)) with
  | none => []
  | some s =>
    if s.child then (match childPort d g s with | some p => [(p, [s.prim])] | none => [])
    else if cGroup s.prim = selfG d ∧ cSwitch s.prim = selfS d then [(cPort s.prim, [coord (selfG d) (selfS d) (cPort s.prim) 0])]
    else match (routePorts d s.prim).head? with | some p => [(p, [s.prim])] | none => []

/-- Member that owns a chunk under REDUCE_SCATTER and ALL_GATHER (R130). -/
def ownerMember (b : Bucket) (c : Nat) : Nat :=
  let ms := setBits b.grp.members b.grp.roll
  ms.getD (c * ms.length / max 1 (bucketChunks b)) 0

/-- Where the results of a chunk go (R129). -/
def resultTo (d : Dev) (b : Bucket) (c : Nat) : List (Nat × List Nat) :=
  match outOp b with
  | 4 => []
  | 1 => memberTo d b.grp (ownerMember b c)
  | _ => fanTo d b.grp

/-- A run of elements that is sent as one set of blocks: a block, or the 32 data blocks of a KB8 scale block, or a chunk of KB8 blocks under
REDUCE_SCATTER. -/
def unitOf (b : Bucket) (fmt e : Nat) : Nat × Nat :=
  let t := totalElems b
  if fmt = 3 then
    (if outOp b = 1 then (elemChunk b e * 64 * fmtElems (bFmt b), chunkElems b (elemChunk b e)) else (e / 8192 * 8192, min 8192 (t - e / 8192 * 8192)))
  else let n := fmtElems fmt; (e / n * n, min n (t - e / n * n))

/-! ## Sending -/

/-- Count a refusal of the multicast quota. -/
def quotaRefused (d : Dev) : Dev := raiseOnce (bump d Reg.MEM_QUOTA_REFUSE_CNT) 945 2

/-- Blocks in passes of at most 8 to a list of ports (R36). -/
def multicastAll (d : Dev) (k att st corr kind vc : Nat) (mark : Nat × Nat) (into : List (Nat × List Nat)) (blocks : List (List Byte)) : Option Dev :=
  (pieces 8 (blocks.length + 1) blocks).foldl (fun (r : Option Dev) ps =>
    r.bind (fun d => multicast d k att st corr kind vc (mgmtCoord d) mark into ps)) (some d)

def sendAll (d : Dev) (k att st corr kind vc dst : Nat) (blocks : List (List Byte)) : Option Dev :=
  (pieces 8 (blocks.length + 1) blocks).foldl (fun (r : Option Dev) ps => r.bind (fun d => sendPass d k att st corr kind vc dst none ps)) (some d)

/-! ## The gradient stream (R200) -/

/-- Write KF32 shard element e of a shard's gradient. -/
def gradPut (d : Dev) (i e w : Nat) : Dev :=
  match tget none d.lsn.shards i with
  | none => d
  | some s =>
    if s.gPlace then
      match regionOf d s.g.handle with
      | some (_, r) => regionWrite d r (s.g.off + 4 * e) (beBytes 4 w)
      | none => d
    else { d with lsn := { d.lsn with grad := tset 0 d.lsn.grad (i * 2 ^ 32 + e) w } }

/-- The converter's second narrowing, for the gradient of a bound shard; `start` is a bucket element. Rows are mirrored as they are written (R463). -/
def gradRow (d : Dev) (b : Bucket) (start : Nat) (xs : List Exact) : Dev :=
  match b.shard with
  | none => d
  | some i => match tget none d.lsn.shards i with
    | none => d
    | some s =>
      let e := start - (shardSpan d s).1
      let d := (List.range xs.length).foldl (fun d j => gradPut d i (e + j) (encodeKf32 (xs.getD j Exact.zero).toNum).1) d
      if mirRows d 4 i then mirPush d (mirKey 4 i) (4 * e) (gradBytes d i s e xs.length) (decide (e + xs.length = (shardSpan d s).2)) else d

/-! ## Norm results (R209, R211) -/

/-- The 64 sums of an inked norm bucket, as KF32 words, are kept for the bindings that name it. -/
def normKeep (d : Dev) (k step : Nat) (ws : List Nat) : Dev :=
  d.lsn.norms.foldl (fun d e =>
    if e.2.valid ∧ e.2.ctx = kCtx k ∧ e.2.tag = kTag k then
      { d with lsn := { d.lsn with norms := tset Norm.free d.lsn.norms e.1 { e.2 with result := some (step, ws) } } }
    else d) d

/-! ## Rows by role (R125) -/

/-- A partial sum goes up to the parent (R125, R128): the row's blocks in one pass. -/
def rowUp (d : Dev) (k : Nat) (b : Bucket) (x : Chunk) (c r l : Nat) (es : List AElem) : Option Dev :=
  let start := (64 * c + r) * rowElems b
  let f : Form := ⟨partialFmt b, fun s n => rowsStatus b s n ||| (if partialFmt b = 7 then Fl.pair else 0), b.rm, fun _ => homeOf k c, none⟩
  sendAll d k b.attempt (l / 8) (chunkCorr k c) 1 1 b.grp.parent (formBlocks f start (rowExact b x false es))

/-- Pencil results of every unit that the row completes (R125, R128, R130). -/
def rowPencil (d : Dev) (k : Nat) (b : Bucket) (c r l : Nat) : Option Dev :=
  let start := (64 * c + r) * rowElems b
  let fmt := resultFmt b
  let f := pencilForm k b b.eref (rowsStatus b)
  let us := (List.range (rowElems b)).foldl (fun (a : List (Nat × Nat)) i => let u := unitOf b fmt (start + i); if a.contains u then a else a ++ [u]) []
  us.foldl (fun (o : Option Dev) u => o.bind (fun d =>
    let starts := (List.range (ceilDiv u.2 (rowElems b))).map (fun i => u.1 / rowElems b * rowElems b + i * rowElems b)
    if starts.all (fun e => (rowKept b e).isSome) then
      let xs := starts.flatMap (fun e => match chunkAt b (elemRow b e).1, rowKept b e with
        | some x, some es => rowExact b x true es
        | _, _ => [])
      let xs := (xs.drop (u.1 % rowElems b)).take u.2
      multicastAll d k b.attempt (l / 8) (chunkCorr k c) 2 1 (pencilMark k b.attempt) (resultTo d b (elemChunk b u.1)) (formBlocks f u.1 xs)
    else some d)) (some d)

/-- A group's row at a METRO_OWNER (R181): into the owner's region, or narrowed to the owning group's METRO_OWNER. -/
def rowMetro (d : Dev) (k : Nat) (b : Bucket) (start l : Nat) (xs : List Exact) (status : Nat) : Option Dev :=
  let c := elemChunk b start
  if ownsChunk b c then
    let s := if isInt (bFmt b) then 0 else s64 b.mEref
    let ks := xs.map (fun x => toKz x.toNum s 55)
    let fl := ks.foldl (fun a x => a ||| x.2) 0
    let d := if isInt (bFmt b) then d else bucketMod d k (fun b => { b with rm := xs.foldl (fun a x => max a (rm16Of x.toNum)) b.rm })
    let d := metroAdd d k b.grp.metroRank start [ks.map (·.1)] (status ||| fl)
    some (if hasFlag fl Fl.headroom then detectCause d k 3 [] else d)
  else
    match (otherOwners (kCtx k) b.grp).find? (fun o => decide (o.1 = metroRankOf b c)) with
    | none => some d
    | some o =>
      let f : Form := ⟨partialFmt b, fun _ _ => status ||| (if partialFmt b = 7 then Fl.pair else 0), b.rm, fun e => homeOf k (elemRow b e).1, none⟩
      sendAll d k b.attempt (l / 8) (chunkCorr k c) 1 2 o.2 (formBlocks f start xs)

/-! ## ECONV_ROW (R96, R97) -/

/-- A converter confirms a row (R96): after the last the chunk is RELEASED and its accumulators are free (R97, R137). -/
def rowConfirm (d : Dev) (k att c : Nat) : Dev :=
  match d.fab.desks.findSome? (fun e => (e.2.accs.find? (fun a => decide (a.key = k ∧ a.att = att ∧ a.chunk = c ∧ a.helper = false ∧ a.conf < a.rel))).map (fun a => (e.1, a))) with
  | none => d
  | some (p, a) =>
    let d := accMod d p k att c a.copy (fun a => { a with conf := a.conf + 1 })
    match chunkOf d k att c with
    | none => if hasOut d k att c then d else purge d k att (some c)
    | some (b, x) =>
      if a.conf + 1 < chunkRows b c then d
      else if x.st = .discarded then (if hasOut d k att c then d else purge d k att (some c))
      else
        let d := chunkMod d k c (fun x => { x with st := .released, accs := 0, own0 := none, own1 := none })
        closeCheck (d.fab.desks.foldl (fun d e => deskPut d e.1 { e.2 with accs := e.2.accs.filter (fun a => !(decide (a.key = k ∧ a.att = att ∧ a.chunk = c))) }) d) k

/-- Narrow and send a row by the role of this switch and the operation; none where the multicast quota refuses it. -/
def rowSend (d : Dev) (k : Nat) (b : Bucket) (x : Chunk) (c r l : Nat) (es : List AElem) : Option Dev :=
  let start := (64 * c + r) * rowElems b
  if hasParent b.grp then rowUp d k b x c r l es
  else if bOp b = 5 then some d
  else if inMetro b.grp then rowMetro d k b start l (rowExact b x false es) (rowsStatus b start (rowElems b))
  else
    let d := gradRow d b start (rowExact b x true es)
    let d := if bOp b = 7 then normKeep d k (bStep b) ((rowExact b x true es).map (fun e => (encodeKf32 e.toNum).1)) else d
    rowPencil d k b c r l

/-- The check of a row's elements at a converter (R81, R96): their residues once more. -/
def rowCheck (u : Upset) (es : List AElem) : List AElem × Bool :=
  let rs := (List.range es.length).map (fun i => aAdd (match u with | .flip j x => .flip j x | _ => .none) i (elemAt es i) AElem.zero)
  (rs.map (·.1), rs.any (fun r => decide (r.2 = some .residue)) || es.any (·.bad))

/-- The converter after l that is not fenced (R95). -/
def nextConv (d : Dev) (l : Nat) : Nat :=
  (((List.range 128).map (fun i => (l + 1 + i) % 128)).find? (fun j => !tget false d.int.eFenced j)).getD l

/-- The two narrowing datapaths of converter l disagree (R96). -/
def econvDup (d : Dev) (l : Nat) : Dev :=
  queueTest (unitFault d (Reg.ECONV_FAULT l) Fd.ECONV_FAULT_dup_mismatch (656 + l)) .econv l false

/-- ECONV_ROW: converter l takes its next row. `u` is an upset of the elements that it checks, `dup` a disagreement of its two datapaths. A row
of an erased attempt is checked, narrowed and confirmed, and the buffer of its blocks is freed at once (R89, R176). -/
def econvRow (d : Dev) (l : Nat) (u : Upset) (dup : Bool) : Dev :=
  if !running d then d
  else match ltake (fun r => decide (r.conv = l)) d.seq.rowOut with
    | none => d
    | some (o, rest) =>
      let d1 := { d with seq := { d.seq with rowOut := rest } }
      let ck := rowCheck u o.elems
      if ck.2 then
        let d := unitFault d1 (Reg.ECONV_FAULT l) Fd.ECONV_FAULT_residue_fail (656 + l)
        let d := match chunkOf d o.key o.att o.chunk with
          | some (b, x) => if x.st = .discarded ∨ ¬(b.st = .opened ∨ b.st = .closed) then d else detectCause d o.key 1 [o.chunk]
          | none => d
        rowConfirm d o.key o.att o.chunk
      else if dup then econvDup { d1 with seq := { d1.seq with rowOut := rest ++ [{ o with conv := nextConv d l }] } } l
      else match chunkOf d1 o.key o.att o.chunk with
        | none => rowConfirm d1 o.key o.att o.chunk
        | some (b, x) =>
          if x.st = .discarded ∨ ¬(b.st = .opened ∨ b.st = .closed) then rowConfirm d1 o.key o.att o.chunk
          else
            let x' := { x with
              rowSt := tput x.rowSt o.row (tget 0 x.rowSt o.row ||| invOf (ck.1.map (·.k)))
              done := if hasParent b.grp ∨ (inMetro b.grp ∧ bOp b ≠ 5) then x.done else tput x.done o.row ck.1 }
            let b' := chunkPut b o.chunk x'
            match rowSend (bucketPut d1 o.key b') o.key b' x' o.chunk o.row l ck.1 with
            | none => quotaRefused d
            | some d => rowConfirm d o.key o.att o.chunk

/-! ## Metro chunks (R183, R184) -/

/-- Fraction of a metro chunk's narrowing: RESCALE, and MEAN by the declared member counts (R183). -/
def metroFrac (b : Bucket) (m : MChunk) : Nat × Nat :=
  let r := if m.short ∧ polShort b.grp.policy = 1 then (m.we, m.wp) else (1, 1)
  (r.1, r.2 * (if bType b = 1 then b.mJoin.foldl (fun a j => a + j.2) b.grp.members else 1))

/-- Status of the units of 32 elements under a run of an owned metro chunk (R48). -/
def unitStat (t : List (Nat × Nat)) (u n : Nat) : Nat := (List.range (ceilDiv (max 1 n) 32)).foldl (fun a i => a ||| tget 0 t (u + i)) 0

/-- The blocks of an owned metro chunk, narrowed from its region; none where a line fails its check. -/
def metroBlocks (d : Dev) (k : Nat) (b : Bucket) (c : Nat) : Option (List Exact × List (List Byte)) :=
  let m := mChunkAt b c
  let e := c * 64 * fmtElems (bFmt b)
  (regionKz d (regionAt d b.mReg) (metroOff b e) (chunkElems b c)).map (fun ks =>
    let q := metroFrac b m
    let xs := ks.map (fun x => (⟨x, if isInt (bFmt b) then 0 else s64 b.mEref, q.1, q.2⟩ : Exact))
    let st := fun s n => (unitStat m.stat (metroUnit b s) n &&& (0xFE ||| Fl.short)) ||| (if m.short then Fl.short else 0)
    (xs, formBlocks (pencilForm k b b.mEref st) e xs))

/-- Whether an owned chunk may be narrowed: closed, no unit still on its way to the adders, and the member counts known where MEAN divides by
them (R183). -/
def metroReady (k : Nat) (b : Bucket) (c : Nat) : Bool :=
  let m := mChunkAt b c
  m.closed && !m.out && !m.rows.any (fun r => decide (r.2 = 1))
    && (decide (bType b ≠ 1) || (otherOwners (kCtx k) b.grp).all (fun o => b.mJoin.any (fun j => decide (j.1 = o.1))))

/-- METRO_CHUNK_CLOSE (R183): a closed owned chunk is read, checked, narrowed once, sent to the other owners and as pencil to the own group; under
REDUCE_TO_SHARD it goes into the gradient stream only (R200). The converter of the chunk's home narrows it, and the next one again where its two
datapaths disagree, `dup` (R96). -/
def metroClose (d : Dev) (k c : Nat) (dup : Bool) : Dev :=
  match bucketAt d k with
  | none => d
  | some b =>
    if !running d ∨ !inMetro b.grp ∨ !ownsChunk b c ∨ !metroReady k b c ∨ ¬(b.st = .opened ∨ b.st = .closed ∨ b.st = .reported) then d
    else match metroBlocks d k b c with
      | none => detectCause (regionFault d (regionAt d b.mReg) (metroOff b (c * 64 * fmtElems (bFmt b))) (chunkElems b c)) k 8 []
      | some (xs, blocks) =>
        let l := if tget false d.int.eFenced (homeOf k c % 128) then nextConv d (homeOf k c % 128) else homeOf k c % 128
        let d := if dup then econvDup d l else d
        let o := if outOp b = 4 then some d
          else (otherOwners (kCtx k) b.grp).foldl (fun (o : Option Dev) w => o.bind (fun d => sendAll d k b.attempt (l / 8) (chunkCorr k c) 2 2 w.2 blocks))
            (multicastAll d k b.attempt (l / 8) (chunkCorr k c) 2 1 (pencilMark k b.attempt) (resultTo d b c) blocks)
        match o with
        | none => quotaRefused d
        | some d =>
          let d := gradRow d b (c * 64 * fmtElems (bFmt b)) xs
          let d := if bOp b = 7 then normKeep d k (bStep b) (xs.map (fun x => (encodeKf32 x.toNum).1)) else d
          bucketMod d k (fun b => mChunkPut b c { mChunkAt b c with out := true })

/-- Whether every owned metro chunk has been narrowed (R169, R170). -/
def metroOut (b : Bucket) : Bool := (ownChunks b).all (fun c => (mChunkAt b c).out)

/-! ## Gradient accumulation (R151 to R154) -/

/-- The accumulation in a region. -/
def accumAt (d : Dev) (h : Nat) : Option AccReg := tget none d.seq.accums h
def accumPut (d : Dev) (h : Nat) (x : Option AccReg) : Dev := { d with seq := { d.seq with accums := tset none d.seq.accums h x } }

def accumS (b : Bucket) (eacc : Int) : Int := if isInt (bFmt b) then 0 else s64 eacc

/-- Every kept row: first element, converted elements, flags with the row's status (R48, R152 step 3). -/
def accumRows (b : Bucket) (eacc : Int) : List (Nat × List Kz × Nat) :=
  b.chunks.flatMap (fun c => c.2.done.map (fun r =>
    let ks := (rowExact b c.2 false r.2).map (fun x => toKz x.toNum (accumS b eacc) 55)
    let e := (64 * c.1 + r.1) * rowElems b
    (e, ks.map (·.1), ks.foldl (fun a x => a ||| x.2) (rowsStatus b e (rowElems b)))))

/-- Whether a conversion of the micro-step saturates (R153). -/
def accumSat (d : Dev) (b : Bucket) : Bool :=
  match accumAt d (bRegion b) with
  | some a => (b.chunks.flatMap (fun c => c.2.done.flatMap (fun r => rowExact b c.2 false r.2))).any
      (fun x => hasFlag (toKz x.toNum (accumS b a.eacc) 55).2 Fl.headroom)
  | none => false

/-- Status of the units of a run of elements joins that of an accumulation. -/
def statJoin (t : List (Nat × Nat)) (e n st : Nat) : List (Nat × Nat) :=
  (List.range (ceilDiv n 32)).foldl (fun t i => tset 0 t (e / 32 + i) (tget 0 t (e / 32 + i) ||| st)) t

/-- Add a micro-step into its region, its status into that of the accumulation (R48, R152, R153); whether no conversion saturates and no line fails. -/
def accumAdd (d : Dev) (b : Bucket) : (Bool × Bool) × Dev :=
  match regionOf d (bRegion b), accumAt d (bRegion b) with
  | some (_, r), some g =>
    if accumSat d b then ((false, true), d)
    else
      let a := (accumRows b g.eacc).foldl (fun (s : (Bool × List (Nat × Nat)) × Dev) x =>
        let y := regionAddKz s.2 r (8 * x.1) x.2.1
        ((s.1.1 && y.1.1, statJoin s.1.2 x.1 x.2.1.length (x.2.2 ||| y.1.2)), y.2)) ((true, g.stat), d)
      ((a.1.1, false), accumPut a.2 (bRegion b) (some { g with stat := a.1.2 }))
  | _, _ => ((false, false), d)

/-- The accumulation is aborted (R153, R379). -/
def accumAbort (d : Dev) (k : Nat) (b : Bucket) (sat : Bool) : Dev :=
  abortHere (accumPut (if sat then raise d 797 else d) (bRegion b) none) k 6 none

/-- The sum that the last micro-step gives (R154): elements of the region with what the kept rows add, and their status; none where a line fails its
check. -/
def accumSum (d : Dev) (b : Bucket) (add : Bool) : Option ((Nat → Nat → List Kz) × (Nat → Nat → Nat)) :=
  match regionOf d (bRegion b), accumAt d (bRegion b) with
  | some (_, r), some g =>
    match regionKz d r 0 (totalElems b) with
    | none => none
    | some base =>
      let rows := if add then accumRows b g.eacc else []
      let stat := rows.foldl (fun t x => statJoin t x.1 x.2.1.length x.2.2) g.stat
      some (fun e n =>
        let base := (base.drop e).take n
        (match rows.find? (fun x => decide (x.1 = e)) with
        | some x => (List.range n).map (fun i => (kzAdd (base.getD i Kz.zero) (x.2.1.getD i Kz.zero)))
        | none => base), fun s n => unitStat stat (s / 32) n &&& (0xFE ||| Fl.short))
  | _, _ => none

/-- The root narrows the accumulated sum once and sends it as then_op states (R154). -/
def accumOut (d : Dev) (k : Nat) (b : Bucket) : Option Dev :=
  match accumSum d b false, accumAt d (bRegion b) with
  | some f, some g =>
    let den := if bType b = 1 then b.grp.members else 1
    let fm := pencilForm k b g.eacc f.2
    let us := (List.range (totalElems b / 32)).foldl (fun (a : List (Nat × Nat)) i => let u := unitOf b fm.fmt (32 * i); if a.contains u then a else a ++ [u]) []
    us.foldl (fun (o : Option Dev) u => o.bind (fun d =>
      let xs := (f.1 u.1 u.2).map (fun x => (⟨x, accumS b g.eacc, 1, den⟩ : Exact))
      let d := gradRow d b u.1 xs
      let c := elemChunk b u.1
      multicastAll d k b.attempt (homeOf k c % 128 / 8) (chunkCorr k c) 2 1 (pencilMark k b.attempt) (resultTo d b c) (formBlocks fm u.1 xs))) (some d)
  | _, _ => none

/-- A METRO_OWNER brings the accumulated sum of the last micro-step to the metro stage (R154), row by row. -/
def accumMetro (d : Dev) (k : Nat) (b : Bucket) : Option Dev :=
  match accumSum d b true, accumAt d (bRegion b) with
  | some f, some g =>
    (List.range (nodeRows b)).foldl (fun (o : Option Dev) r => o.bind (fun d =>
      let e := r * rowElems b
      let ks := f.1 e (rowElems b)
      rowMetro d k b e (homeOf k (r / 64) % 128) (ks.map (fun x => ⟨x, accumS b g.eacc, 1, 1⟩)) (f.2 e (rowElems b) ||| invOf ks))) (some d)
  | _, _ => none

end Sys2Proof.Machine
end

