-- ==== Sys2Proof/Machine/Groups.lean ====
section
/-! DEFINITION. Group contexts as commands set and show them (04 R117 to R124; 15 R502): GROUP_CREATE, GROUP_MODIFY, GROUP_QUERY, GROUP_DESTROY and
the export bytes of R475. -/

namespace Sys2Proof.Machine

/-- Roll and slots after the 64 bytes of an export. -/
def groupTail (g : Group) : List Byte := rollBytes g.members g.roll ++ g.slots.flatMap slotBytes

/-- The export of a group context (R475); `hist` appends the RM16 history. -/
def groupExport (d : Dev) (i : Nat) (hist : Bool) (g : Group) : List Byte :=
  let e := groupHead i hist g ++ groupTail g
    ++ (if hist then (List.range 65536).flatMap (fun t => beBytes 2 (tget 0xFFFF d.seq.rmHist (i * 65536 + t))) else [])
  e ++ beBytes 4 (crc32c e)

/-- The RM16 history alone is kept sparse (R133). -/
def groupWorldOk (g : Group) (w : Bool) : Bool := !g.world || w

/-- Fields of a body of R502 over a context. -/
def bodyGroup (mask : Nat) (p : List Byte) (g : Group) : Group :=
  let h := (p.drop 8).take 64
  let m := fun (i : Nat) => mask.testBit i
  let mem := if m 2 then field h 8 3 else g.members
  let nroll := 8 * ceilDiv (ceilDiv mem 8) 8
  let roll := if m 3 then rollOfBytes mem ((p.drop 72).take nroll)
    else g.roll % 2 ^ mem + (if mem > g.members then ones mem - ones g.members else 0)
  let sl := p.drop (72 + (if m 3 then nroll else 0))
  let slots := if m 4 then (List.range (field h 54 2)).map (fun i => slotOfBytes ((sl.drop (12 * i)).take 12)) else g.slots
  { g with
    world := if m 0 then byteAt h 5 = 1 else g.world, role := if m 1 then byteAt h 6 else g.role, members := mem, roll := roll, slots := slots,
    parent := if m 5 then field h 11 3 else g.parent, parentPort := if m 6 then byteAt h 14 else g.parentPort,
    fanout := if m 7 then field h 16 16 else g.fanout, policy := if m 8 then field h 32 4 else g.policy, fmt := if m 9 then byteAt h 15 else g.fmt,
    eref := if m 10 then signed 16 (field h 36 2) else g.eref, late := if m 11 then field h 38 3 else g.late,
    seed := if m 12 then field h 42 8 else g.seed, maxB := if m 13 then field h 50 3 else g.maxB,
    metroN := if m 14 then byteAt h 41 else g.metroN, metroRank := if m 15 then byteAt h 53 else g.metroRank }

/-- Length that a body must have. -/
def bodyLen (mask : Nat) (p : List Byte) (g : Group) : Nat :=
  let mem := if mask.testBit 2 then field p 16 3 else g.members
  72 + (if mask.testBit 3 then 8 * ceilDiv (ceilDiv mem 8) 8 else 0) + (if mask.testBit 4 then 12 * field p 62 2 else 0)

/-- Byte `off` of the slot entries that starts them in a body, byte by byte: reserved bits of byte 0 of entry i. -/
def slotBits (p : List Byte) (base i : Nat) : Bool := decide (byteAt p (base + 12 * i) % 128 = 0)

/-- The tests of slot entries, each with the byte it blames: where the body holds the entries their own bytes, otherwise byte `blame`; and the
test of their sum, which blames the weight of the last. -/
def slotTests (given : Bool) (base blame : Nat) (slots : List SlotE) (t : Nat → SlotE → List (Nat × Bool)) (sum : Bool) : List (Nat × Bool) :=
  (List.range slots.length).flatMap (fun i =>
    (t i (slots.getD i ⟨false, 0, 0, 0, 0⟩)).map (fun x => (if given then base + 12 * i + x.1 else blame, x.2)))
  ++ [(if given then base + 12 * (slots.length - 1) + 1 else blame, sum)]

def weightSum (slots : List SlotE) : Nat := slots.foldl (fun a s => a + s.weight) 0

/-- The field of a body that slot tests blame where it holds no slots: member_count, otherwise the role. -/
def slotBlame (mask : Nat) : Nat := if mask.testBit 2 then 16 else 14

/-- Slot tests of R121 and R125. -/
def groupSlotTests (mask : Nat) (p : List Byte) (old g : Group) : List (Nat × Bool) :=
  let base := bodyLen mask p old - 12 * field p 62 2
  let w := weightSum g.slots
  slotTests (mask.testBit 4) base (slotBlame mask) g.slots
    (fun i s => [(0, (!mask.testBit 4 || slotBits p base i) && (!s.child || decide (g.role ≠ 0))),
      (1, if s.child then decide (1 ≤ s.weight ∧ s.weight ≤ 65536) else decide (s.weight = 1)), (4, decide (s.member < g.members)),
      (9, !s.child || decide (s.sub = 0xFFFFFF))])
    (if g.role ≥ 2 then decide (w = g.members) else decide (1 ≤ w ∧ w ≤ g.members))

/-- The tests of a group body in the order of its bytes (R487). -/
def bodyChecks (create : Bool) (mask : Nat) (p : List Byte) (old g : Group) : List (Nat × Bool) :=
  let m := fun (i : Nat) => mask.testBit i
  [(0, decide (mask < 2 ^ 17) && (if create then m 1 && m 2 && m 4 else !m 0 && !m 16)),
   (4, if create then m 16 || decide (field p 4 2 = 0) else true), (4, decide (field p 4 2 < 4096)), (6, decide (field p 6 2 = 0)),
   (13, !m 0 || decide (byteAt p 13 ≤ 1)), (14, decide (g.role ≤ 3)), (16, decide (1 ≤ g.members ∧ g.members ≤ 65536)),
   (22, decide (g.parentPort < 128)), (23, decide (1 ≤ g.fmt ∧ g.fmt ≤ 3)), (40, polOk g.policy), (44, erefOk g.eref), (46, decide (g.late < 2 ^ 20)),
   (49, decide (1 ≤ g.metroN ∧ g.metroN ≤ 127)), (58, decide (g.maxB < 2 ^ 17)), (61, decide (g.metroRank < g.metroN)),
   (62, decide (1 ≤ g.slots.length ∧ g.slots.length ≤ 2048)), (64, decide (field p 64 8 = 0)),
   (min p.length (bodyLen mask p old), decide (p.length = bodyLen mask p old))] ++ groupSlotTests mask p old g

/-- Roll and slot storage (R120, R121, R155): a status where a granule is missing. -/
def groupRoom (d : Dev) (old g : Group) : Option Nat :=
  if rollUsed d + rollGrans g > 65536 + (if old.st = 0 then 0 else rollGrans old) then some St.noRollSpace
  else if slotUsed d + slotGrans g > 4096 + (if old.st = 0 then 0 else slotGrans old) then some St.noSlotSpace
  else none

def draining (d : Dev) : Bool := fbit d Reg.SIT_STATUS Fd.SIT_STATUS_draining

/-- A refusal of R155 that raises FS_792. -/
def tableRefusal (d : Dev) (st : Nat) : Ans := .status (raise d 792) st none

/-- GROUP_CREATE (R119). -/
def groupCreate (d : Dev) (h : CmdHdr) (p : List Byte) : Ans :=
  if p.length < 72 then .bad p.length
  else
    let mask := field p 0 4
    let g := bodyGroup mask p { Group.free with st := 1, world := h.world, roll := 0 }
    let g := if mask.testBit 3 then g else { g with roll := ones g.members }
    checks (bodyChecks true mask p Group.free g)
      (if g.world ∧ !h.world ∨ (mask.testBit 16 ∧ (groupAt d (field p 4 2)).st ≠ 0 ∧ !groupWorldOk (groupAt d (field p 4 2)) h.world) then .err St.worldDenied
       else if draining d then .err St.updateBusy
       else
         let at' := if mask.testBit 16 then (if (groupAt d (field p 4 2)).st = 0 then some (field p 4 2) else none)
           else (List.range 4096).find? (fun i => decide ((groupAt d i).st = 0))
         match at' with
         | none => if mask.testBit 16 then .err St.groupBusy else tableRefusal d St.noGroupContext
         | some i => match groupRoom d Group.free g with
           | some st => tableRefusal d st
           | none => .done (groupPut d i g) (beBytes 2 i))

/-- Whether a shard is bound to a context (R196). -/
def ctxBound (d : Dev) (i : Nat) : Bool := d.lsn.shards.any (fun e => match e.2 with | some s => decide (s.ctx = i) | none => false)

/-- The context that a command names, for a requester of a world (R117). -/
def withGroup (d : Dev) (i : Nat) (w : Bool) (k : Group → Ans) : Ans :=
  let g := groupAt d i
  if g.st = 0 then .err St.noSuchGroup
  else if !groupWorldOk g w then .err St.worldDenied
  else k g

/-- What the body of a GROUP_MODIFY must keep whatever the context holds: masks, reserved bits, and the fields that it sets (R10, R502). -/
def modifyChecks (mask : Nat) (p : List Byte) : List (Nat × Bool) :=
  let m := fun (i : Nat) => mask.testBit i
  [(0, decide (mask < 2 ^ 17) && !m 0 && !m 16), (4, decide (field p 4 2 < 4096)), (6, decide (field p 6 2 = 0)), (14, !m 1 || decide (byteAt p 14 ≤ 3)),
   (16, !m 2 || decide (1 ≤ field p 16 3 ∧ field p 16 3 ≤ 65536)), (22, !m 6 || decide (byteAt p 22 < 128)),
   (23, !m 9 || decide (1 ≤ byteAt p 23 ∧ byteAt p 23 ≤ 3)), (40, !m 8 || polOk (field p 40 4)), (44, !m 10 || erefOk (signed 16 (field p 44 2))),
   (46, !m 11 || decide (field p 46 3 < 2 ^ 20)), (49, !m 14 || decide (1 ≤ byteAt p 49 ∧ byteAt p 49 ≤ 127)), (58, !m 13 || decide (field p 58 3 < 2 ^ 17)),
   (62, !m 4 || decide (1 ≤ field p 62 2 ∧ field p 62 2 ≤ 2048)), (64, decide (field p 64 8 = 0))]

/-- GROUP_MODIFY (R124, R502). What its layout breaks is found before the context is looked up (R10). -/
def groupModify (d : Dev) (h : CmdHdr) (p : List Byte) : Ans :=
  if p.length < 72 then .bad p.length
  else
    let mask := field p 0 4
    let i := field p 4 2
    checks (modifyChecks mask p) (withGroup d i h.world (fun old =>
      let g := bodyGroup mask p old
      checks (bodyChecks false mask p old g)
        (if old.st = 2 then .err St.groupBusy
         else if ctxBound d i ∧ (g.role ≠ old.role ∨ g.metroN ≠ old.metroN ∨ g.metroRank ≠ old.metroRank) then .err St.shardBusy
         else match groupRoom d old g with
           | some st => tableRefusal d st
           | none =>
             if g.roll = old.roll ∧ g.members = old.members ∧ g.slots = old.slots ∧ g.role = old.role then .done (groupPut d i g) (beBytes 2 g.epoch)
             else match advanceEpoch d i false with
               | none => .err St.epochBusy
               | some d => let e := (groupAt d i).epoch; .done (groupPut d i { g with epoch := e }) (beBytes 2 e))))

/-- Bytes of a long reply, in parts of at most 2,048, one part where there are none (R487, R491). -/
def longReply (d : Dev) (bs : List Byte) : Ans := .parts d (if bs.isEmpty then [[]] else chunksOf 2048 (bs.length + 1) bs)

/-- GROUP_QUERY (R501). -/
def groupQuery (d : Dev) (h : CmdHdr) (p : List Byte) : Ans :=
  needLen p 2 (if field p 0 2 ≥ 4096 then .bad 0
    else withGroup d (field p 0 2) h.world (fun g => longReply d (groupExport d (field p 0 2) false g)))

/-- GROUP_DESTROY (R119); a FROZEN context, whose import is still to be answered, is refused like one with buckets (R507; log 166). -/
def groupDestroy (d : Dev) (h : CmdHdr) (p : List Byte) : Ans :=
  let i := field p 0 2
  needLen p 2 (if i ≥ 4096 then .bad 0
    else withGroup d i h.world (fun g =>
      if g.st = 2 ∨ !(bucketsOf d i).isEmpty then .err St.groupBusy else .done (groupPut d i Group.free) []))

end Sys2Proof.Machine
end

