-- ==== Sys2Proof/Machine/Huddle.lean ====
section
/-! DEFINITION. The huddle (07): groups, instances, deadlines, results, units, and their commands (15 R501, R502). -/

namespace Sys2Proof.Machine

def hgroupAt (d : Dev) (i : Nat) : HGroup := tget HGroup.free d.hud.groups i

/-- Store a huddle group; its export is owed to the partner (R463). -/
def hgroupPut (d : Dev) (i : Nat) (g : HGroup) : Dev :=
  { d with hud := { d.hud with groups := tset HGroup.free d.hud.groups i g },
           ckp := { d.ckp with dirty := if mirSending d then tset false d.ckp.dirty (32768 + i) true else d.ckp.dirty } }

/-- Store what is no field of R230: history and closed instances. -/
def hgroupNote (d : Dev) (i : Nat) (g : HGroup) : Dev := { d with hud := { d.hud with groups := tset HGroup.free d.hud.groups i g } }

def hinstAt (d : Dev) (g s : Nat) : Option HInst := d.hud.inst.find? (fun x => decide (x.group = g ∧ x.start = s))
def hinstMod (d : Dev) (g s : Nat) (f : HInst → HInst) : Dev :=
  { d with hud := { d.hud with inst := d.hud.inst.map (fun x => if x.group = g ∧ x.start = s then f x else x) } }

/-- Unit that serves a group (R229, R240), and its state. -/
def hudUnit (d : Dev) (g : Nat) : Nat := (tget none d.hud.moved g).getD (g % 16)
def hudState (d : Dev) (u : Nat) : Nat := fget d (Reg.HUD_UNIT_STATUS u) Fd.HUD_UNIT_STATUS_state

/-- Whether a unit takes no contribution: fenced, dead, or under test since an earlier tick with no unit to take its groups (R240, R441). -/
def hudOut (d : Dev) (u : Nat) : Bool :=
  decide (hudState d u = 1 ∨ hudState d u = 3)

/-! ## VC0 egress (R232, R245) -/

/-- Bytes in the VC0 queues of every egress. -/
def vc0Bytes (d : Dev) : Nat := d.tm.queues.foldl (fun a q => if q.1 % 64 / 8 = 0 then a + qBytes q.2 else a) 0

/-- Send a huddle frame on a port: its destination is the far end's (R232); beyond the 4 MiB of queues it spills behind the frames queued, or is
dropped (R245). -/
def hudSend (d : Dev) (port : Nat) (f : List Byte) : Dev :=
  let isEnd := portKind d port = 0 ∨ portKind d port = 3
  match localPick d port (coord (selfG d) (selfS d) port 0) 0 with
  | none => d
  | some e =>
    let dst := if isEnd then coord (selfG d) (selfS d) port 0 else rg d (Reg.LINK_PEER (egLink e)) % 2 ^ 24
    let f := setBytes (setByte f 2 (if isEnd then 8 else 0)) 4 (beBytes 3 dst)
    let room := 4194304 + (if fbit d Reg.HUD_CTRL Fd.HUD_CTRL_spill_en then 16777216 else 0)
    if !portLive d port then d
    else if vc0Bytes d + fLen f > room then raise (bump d Reg.HUD_DROP_CNT) 896
    else
      let o := ordGive d ⟨f, 0, 1, 0, none, false, 0, true, none, none⟩
      enqueue o.2 e o.1

/-! ## Frames (R232) -/

def hElems (g : HGroup) : Nat := 8 * g.units / fmtSize g.fmt

/-- Format of a partial. -/
def hWide (g : HGroup) : Nat := if isInt g.fmt then 5 else 1

/-- Payload of a contribution, or of a partial: the same elements in the wide format; 8 B that mean nothing at a BARRIER (R232, R244). -/
def hBytes (g : HGroup) (child : Bool) : Nat :=
  if g.op = 2 then 8 else if child then hElems g * fmtSize (hWide g) else 8 * g.units

/-- A huddle frame: kind, carries, epoch, start, member field, status, bytes 12 and 13, format, payload, bitmap. -/
def hudFrame (d : Dev) (g : Nat) (kind carries epoch start member status rm fmt : Nat) (payload bitmap : List Byte) : List Byte :=
  padMin 56 (mkHeader 6 0 0 (mgmtCoord d) ++ beBytes 1 g ++ beBytes 1 (kind * 64 + carries * 16) ++ beBytes 2 epoch ++ beBytes 4 start
    ++ beBytes 2 member ++ beBytes 2 (outStatus status) ++ beBytes 2 rm ++ beBytes 1 fmt ++ beBytes 1 (payload.length / 8 - 1) ++ payload ++ bitmap)

def hudKind (b : List Byte) : Nat := byteAt b 33 / 64

/-- Payload and present bitmap of a received frame. -/
def hudPayload (b : List Byte) : List Byte := (b.drop 48).take (8 * (byteAt b 47 + 1))
def hudBitmap (b : List Byte) : Nat := segNat ((b.drop (48 + if hudKind b = 3 then 0 else 8 * (byteAt b 47 + 1))).take 128)

/-! ## The end of an instance (R236 to R241) -/

/-- The record of a short instance or one of kind 3, at the root (R241). -/
def hudRecord (d : Dev) (x : HInst) (kind : Nat) : Dev :=
  append d 0x06 x.group x.epoch 0 (beBytes 4 x.start ++ beBytes 1 (kind * 64 + x.carries * 16) ++ segBytes x.pres 0)

/-- Remove an instance: it is recorded as closed, and its RM16 becomes the group's history (R239). -/
def hudDrop (d : Dev) (x : HInst) (hist : Bool) : Dev :=
  let g := hgroupAt d x.group
  let t := tickIdx d
  let closed := (g.closed.filter (fun c => decide (t < c.2 + 8))) ++ [(x.start, t)]
  let d := bump { d with hud := { d.hud with inst := d.hud.inst.filter (fun y => !(decide (y.group = x.group ∧ y.start = x.start))) } } Reg.HUD_INST_CNT
  hgroupNote d x.group { g with closed := closed, rm := if hist ∧ !isInt g.fmt then x.rm else g.rm }

def hudFan (d : Dev) (g : HGroup) (f : List Byte) : Dev := (setBits 128 g.fanout).foldl (fun d p => hudSend d p f) d

/-- Lowest member index beneath this switch. -/
def hudLowest (g : HGroup) : Nat := match g.slots with
  | [] => 0
  | s :: ss => ss.foldl (fun a s => min a s.member) s.member

/-- A short instance (R238): a slot is absent, or a child's bitmap shows an absent one. -/
def hudShort (g : HGroup) (x : HInst) : Bool := !x.absent.isEmpty || decide (popcount g.members x.pres < g.members)

/-- An instance ends with kind 3 (R240). -/
def hudFail (d : Dev) (x : HInst) : Dev :=
  let g := hgroupAt d x.group
  let d := hudDrop (raise d 898) x true
  let short := hudShort g x
  let st := (if short then Fl.short else 0) ||| sticky x.flags
  let bm := if short then segBytes x.pres 0 else []
  if g.role = 2 then
    hudFan (hudRecord d x 3) g (hudFrame d x.group 3 x.carries x.epoch x.start 0 (Fl.result ||| st) (unsigned 16 x.eref) g.fmt [] bm)
  else hudSend d g.parentPort (hudFrame d x.group 3 x.carries x.epoch x.start (hudLowest g) st x.rm (hWide g) [] bm)

/-- Narrow the sums: bytes and flags. -/
def hudNarrow (g : HGroup) (fmt : Nat) (x : HInst) (num den : Nat) : List Byte × Nat :=
  let ks := x.sums.map (·.k)
  let es := ks.map (fun k => encElem fmt ⟨k, if isInt g.fmt then 0 else s128 x.eref, num, den⟩ none)
  (es.flatMap (·.1), es.foldl (fun a e => a ||| e.2) (invOf ks))

/-- A check of an instance's sums failed: the unit's fault (R240, R250). -/
def hudFault (d : Dev) (x : HInst) (f : AddFault) : Dev :=
  let n := x.unit
  let d := unitFault d (Reg.HUD_UNIT_FAULT n) (match f with
    | .cls => Fd.HUD_UNIT_FAULT_class_mismatch
    | .sram => Fd.HUD_UNIT_FAULT_sram_ue
    | .residue => Fd.HUD_UNIT_FAULT_residue_fail) (880 + n)
  if f = .cls then queueTest d .huddle n false else d

/-- The close of an instance whose every slot is filled or absent: the check of its sums (R236, R240), then its partial or result (R238). -/
def hudClose (d : Dev) (x : HInst) : Dev :=
  let g := hgroupAt d x.group
  let short := hudShort g x
  let wp := popcount g.members x.pres
  let bm := if short then segBytes x.pres 0 else []
  let sh := if short then Fl.short else 0
  let d := countCe (if short then bump d Reg.HUD_SHORT_CNT else d) x.upset
  match (addRows x.upset x.sums []).2 with
  | some f => hudFail (hudFault d x f) x
  | none =>
   if g.role = 2 ∧ wp = 0 then hudFail d x
   else
    let d := hudDrop d x true
    if g.role = 2 then
      let q := if g.op = 1 then (1, if g.rescale then wp else g.members) else if g.rescale then (g.members, wp) else (1, 1)
      let r := if g.op = 2 then ([], 0) else hudNarrow g g.fmt x q.1 q.2
      let d := if short then hudRecord d x 2 else d
      hudFan d g (hudFrame d x.group 2 x.carries x.epoch x.start 0 (Fl.result ||| sh ||| sticky (x.flags ||| r.2)) (unsigned 16 x.eref) g.fmt r.1 bm)
    else
      let r := if g.op = 2 then (List.replicate 8 0, 0) else hudNarrow g (hWide g) x 1 1
      hudSend d g.parentPort (hudFrame d x.group 1 x.carries x.epoch x.start (hudLowest g) (sh ||| sticky (x.flags ||| r.2)) x.rm (hWide g) r.1 bm)

def hudSlots (g : HGroup) (child : Bool) (x : HInst) : List Nat :=
  (List.range g.slots.length).filter (fun i => match g.slots[i]? with
    | some s => s.child == child && !x.filled.contains i && !x.absent.contains i
    | none => false)

/-- Close an instance when every slot is filled or absent. -/
def hudCheck (d : Dev) (gi s : Nat) : Dev :=
  match hinstAt d gi s with
  | none => d
  | some x => if x.filled.length + x.absent.length ≥ (hgroupAt d gi).slots.length then hudClose d x else d

/-! ## Deadlines (R234, R235) -/

/-- Mark slots absent: their members' present bits are cleared. -/
def hudAbsent (g : HGroup) (x : HInst) (is : List Nat) : HInst :=
  is.foldl (fun x i => match g.slots[i]? with
    | some s => { x with absent := x.absent ++ [i], pres := x.pres - (x.pres &&& slotMask s) }
    | none => x) x

/-- One member deadline of an instance: it is carried, or its empty MEMBER slots are absent. -/
def hudMemberStep (d : Dev) (x : HInst) : Dev :=
  let g := hgroupAt d x.group
  let es := hudSlots g false x
  if es.isEmpty then d
  else if x.carries < g.carry then hinstMod (bump d Reg.HUD_CARRY_CNT) x.group x.start (fun x => { x with carries := x.carries + 1 })
  else hinstMod d x.group x.start (fun x => hudAbsent g x es)

/-- What the check of an instance's close is to meet. -/
def hudUpset (d : Dev) (gi s : Nat) (u : Upset) : Dev := if u = .none then d else hinstMod d gi s (fun x => { x with upset := u })

/-- HUDDLE_MEMBER_DEADLINE: at the boundary (s + 1 + carries made). `u` is what the check of the close meets. -/
def hudMember (d0 : Dev) (gi s : Nat) (u : Upset) : Dev :=
  let d := hudUpset d0 gi s u
  match hinstAt d gi s with
  | none => d
  | some x => if tickIdx d < x.start + 1 + x.carries then d else hudCheck (hudMemberStep d x) gi s

/-- HUDDLE_CHILD_DEADLINE: at the boundary (s + 1 + carry_ticks + child_ticks). -/
def hudChild (d0 : Dev) (gi s : Nat) (u : Upset) : Dev :=
  let d := hudUpset d0 gi s u
  match hinstAt d gi s with
  | none => d
  | some x =>
    let g := hgroupAt d gi
    let es := hudSlots g true x
    if tickIdx d < x.start + 1 + g.carry + g.childT ∨ es.isEmpty then d
    else hudCheck (hinstMod (es.foldl (fun d _ => raise d 897) d) gi s (fun x => hudAbsent g x es)) gi s

/-- Tick action 2 of R24: the deadlines of every open instance. -/
def hudTick (d : Dev) : Dev :=
  d.hud.inst.foldl (fun d x =>
    let d := (List.range 3).foldl (fun d _ => match hinstAt d x.group x.start with
      | some y => if (hudSlots (hgroupAt d y.group) false y).isEmpty then d else hudMember d y.group y.start .none
      | none => d) d
    hudChild d x.group x.start .none) d

/-! ## Receiving (R232, R233) -/

def hudConflict (d : Dev) : Dev := bump d Reg.HUD_CONFLICT_CNT

/-- The full tick index that bytes 4 to 7 of a tag name, near tick t. -/
def fullTick (t low : Nat) : Nat :=
  let c := t / 2 ^ 32 * 2 ^ 32 + low
  if c > t + 2 ^ 31 ∧ c ≥ 2 ^ 32 then c - 2 ^ 32 else if c + 2 ^ 31 < t then c + 2 ^ 32 else c

/-- Open an instance (R233, R239, R271): at the root, slots that the record shows absent are absent. -/
def hudOpen (d : Dev) (gi s : Nat) (g : HGroup) : HInst :=
  let er := if isInt g.fmt then 0 else if g.rm = 0xFFFF then g.eref else erefOf g.rm
  let x : HInst := ⟨gi, s, g.epoch, er, [], [], 0, List.replicate (hElems g) AElem.zero, 0, 0, ones g.members, hudUnit d gi, .none⟩
  match if g.role = 2 then replayFind d [6, gi, unsigned 32 ((s : Int) - d.bell.repOff)] else none with
  | none => x
  | some e =>
    let pres := segNat ((e.drop 33).take 128)
    hudAbsent g x ((List.range g.slots.length).filter (fun i => match g.slots[i]? with
      | some sl => decide (pres &&& (slotMask sl % 2 ^ g.members) = 0)
      | none => false))

/-- Member deadlines that had passed when an instance opens late are applied in order (R233). -/
def hudCatchUp (d : Dev) (gi s : Nat) (t : Nat) : Dev :=
  (List.range 3).foldl (fun d _ => match hinstAt d gi s with
    | some x => if x.start + 1 + x.carries ≤ t then hudMemberStep d x else d
    | none => d) d

/-- A frame fills its slot: converted and added at once; `u` is what the adders' checks meet. -/
def hudFill (d : Dev) (x : HInst) (i : Nat) (child : Bool) (b : List Byte) (u : Upset) : Dev :=
  let g := hgroupAt d x.group
  let fmt := if child then hWide g else g.fmt
  let v := convertElems fmt (decodePayload fmt (fun _ => 127) (hudPayload b)) (if isInt g.fmt then 0 else s128 x.eref) 111
  let st := sticky (field b 42 2)
  let short := child && hasFlag (field b 42 2) Fl.short
  let r := addRows u x.sums ((v.ws.take x.sums.length).map laneElem)
  let y := { x with
    filled := x.filled ++ [i], sums := if g.op = 2 then x.sums else r.1, flags := x.flags ||| st ||| (if g.op = 2 then 0 else v.flags),
    rm := max x.rm (max (if isInt g.fmt then 0 else field b 44 2 % 32768) (if g.op = 2 then 0 else v.rm)),
    pres := if short then x.pres &&& hudBitmap b else x.pres }
  let d := hinstMod (countCe d u) x.group x.start (fun _ => y)
  match r.2 with
  | some f => hudFail (hudFault d y f) y
  | none => hudCheck d x.group x.start

/-- A partial of kind 3 ends the instance alike; its status, RM16 and bitmap are gathered (R238 to R240). -/
def hudTaint (d : Dev) (x : HInst) (b : List Byte) : Dev :=
  let st := field b 42 2
  hudFail d { x with flags := x.flags ||| sticky st, rm := max x.rm (if isInt (hgroupAt d x.group).fmt then 0 else field b 44 2 % 32768),
                     pres := if hasFlag st Fl.short then x.pres &&& hudBitmap b else x.pres }

/-- A frame for a slot of this switch (R233), at the time that the unit stamps (R26). -/
def hudSlotFrame (d : Dev) (h : HFrame) (gi : Nat) (g : HGroup) (i : Nat) (sl : SlotE) (u : Upset) : Dev :=
  let b := h.bytes
  let t := tickIdx d
  let s := fullTick t (field b 36 4)
  let kind := hudKind b
  let fmt := if sl.child then hWide g else g.fmt
  let fmtOk := g.op == 2 || byteAt b 46 == fmt
  let lenOk := decide (8 * (byteAt b 47 + 1) = hBytes g sl.child)
  if field b 34 2 ≠ g.epoch ∨ !fmtOk ∨ ¬(if sl.child then kind = 3 ∨ (kind = 1 ∧ lenOk) else kind = 0 ∧ lenOk) then hudConflict d
  else if s > t + 1 then bump d Reg.HUD_EARLY_CNT
  else if g.closed.any (fun c => decide (c.1 = s ∧ tickIdx d < c.2 + 8)) then bump d Reg.HUD_LATE_CNT
  else
    let fill := fun (d : Dev) => match hinstAt d gi s with
      | none => bump d Reg.HUD_LATE_CNT
      | some x =>
        if x.filled.contains i then bump d Reg.HUD_DUP_CNT
        else if x.absent.contains i then bump d Reg.HUD_LATE_CNT
        else if kind = 3 then hudTaint d x b
        else if hudOut d x.unit then hudFail d x
        else hudFill d x i sl.child b u
    match hinstAt d gi s with
    | some _ => fill d
    | none =>
      let due := s + 1 + g.carry + (if sl.child then g.childT else 0)
      if s < t ∧ due ≤ t then bump d Reg.HUD_LATE_CNT
      else
        let d := { d with hud := { d.hud with inst := d.hud.inst ++ [hudOpen d gi s g] } }
        fill (hudCheck (if s < t then hudCatchUp d gi s t else d) gi s)

/-- A result from the parent (R236): forwarded unchanged on the fan-out. -/
def hudResult (d : Dev) (h : HFrame) (g : HGroup) : Dev :=
  let b := h.bytes
  let kind := hudKind b
  let shape := g.op == 2 || (byteAt b 46 == g.fmt && (decide (kind = 3) || decide (byteAt b 47 + 1 = g.units)))
  if field b 34 2 ≠ g.epoch ∨ !shape then hudConflict d
  else hudFan d g b

/-- HUDDLE_FRAME_RECEIVE: the next frame at the web. A result, or a failed one, comes over parent_port; any other frame is for the slot of its
source, and R122 applies where it has none. -/
def hudReceive (d : Dev) (u : Upset) : Dev :=
  match d.hud.inQ with
  | [] => d
  | h :: rest =>
    if !running d then d
    else
      let d := { d with hud := { d.hud with inQ := rest } }
      let gi := byteAt h.bytes 32
      let g := hgroupAt d gi
      if !g.valid ∨ fVc h.bytes ≠ 0 then hudConflict d
      else
        let slot := (List.range g.slots.length).findSome? (fun i => (g.slots[i]?).bind (fun s => if s.prim = fSrc h.bytes then some (i, s) else none))
        let down := g.role ≠ 2 ∧ h.port = g.parentPort
        match slot, hudKind h.bytes with
        | _, 2 => if down then hudResult d h g else if slot.isSome then hudConflict d else bump d Reg.SEQ_FOREIGN_CNT
        | some (i, sl), _ => hudSlotFrame d h gi g i sl u
        | none, 3 => if down then hudResult d h g else bump d Reg.SEQ_FOREIGN_CNT
        | none, _ => bump d Reg.SEQ_FOREIGN_CNT

/-! ## Units and fences (R240) -/

/-- Fence a unit: its open instances produce no sum; its groups move at the next tick boundary. -/
def hudFence (d : Dev) (u : Nat) : Dev :=
  if hudState d u = 1 ∨ hudState d u = 3 then d
  else
    let open' := d.hud.inst.filter (fun x => decide (x.unit = u))
    let d := fset d (Reg.HUD_UNIT_STATUS u) Fd.HUD_UNIT_STATUS_state 1
    let d := { d with hud := { d.hud with moveAt := tset none d.hud.moveAt u (some (tickIdx d)) } }
    open'.foldl hudFail d

/-- HUDDLE_GROUP_MOVE (R240, R440): from the next tick boundary the groups of a unit that is out of service or under test are served by the
next ACTIVE unit upward; those of a unit that is ACTIVE again return to it. -/
def hudMove (d : Dev) (u : Nat) : Dev :=
  match tget none d.hud.moveAt u with
  | none => d
  | some t =>
    if tickIdx d ≤ t then d
    else
      let e := { d with hud := { d.hud with moveAt := tset none d.hud.moveAt u none } }
      let into := fun (v : Option Nat) (p : Nat → Bool) =>
        (List.range 256).foldl (fun d g => if p g then { d with hud := { d.hud with moved := tset none d.hud.moved g v } } else d) e
      if hudState d u = 0 then into none (fun g => decide (g % 16 = u))
      else match ((List.range 15).map (fun i => (u + 1 + i) % 16)).find? (fun v => decide (hudState d v = 0)) with
        | none => d
        | some v => into (some v) (fun g => decide (hudUnit d g = u))

/-- A fan-out port went down: the epoch of its huddle groups advances (R230). -/
def hudPortFenced (d : Dev) (p : Nat) : Dev :=
  d.hud.groups.foldl (fun d e => if e.2.valid ∧ e.2.fanout.testBit p then hgroupPut d e.1 { e.2 with epoch := (e.2.epoch + 1) % 65536 } else d) d

/-! ## Commands (R230, R231, R501, R502) -/

/-- The export of a huddle group (R475): the fields that it lacks, its roll among them, are 0. -/
def hudExport (i : Nat) (g : HGroup) : List Byte :=
  let e := beBytes 2 (32768 + i) ++ beBytes 2 g.epoch ++ beBytes 1 g.valid.toNat ++ beBytes 1 g.world.toNat ++ beBytes 1 g.role ++ [0]
    ++ beBytes 3 g.members ++ beBytes 3 0 ++ beBytes 1 g.parentPort ++ beBytes 1 g.fmt ++ beBytes 16 g.fanout
    ++ beBytes 1 g.units ++ beBytes 1 (g.op * 64 + g.carry * 16 + g.childT * 4 + g.rescale.toNat * 2) ++ beBytes 2 0
    ++ beBytes 2 (unsigned 16 g.eref) ++ beBytes 16 0 ++ beBytes 2 g.slots.length ++ beBytes 8 0 ++ rollBytes g.members 0 ++ g.slots.flatMap slotBytes
  e ++ beBytes 4 (crc32c e)

/-- Fields of a body over a huddle group. -/
def hudBody (mask : Nat) (p : List Byte) (g : HGroup) : HGroup :=
  let h := (p.drop 8).take 64
  let m := fun (i : Nat) => mask.testBit i
  let x := byteAt h 33
  { g with
    world := if m 0 then byteAt h 5 = 1 else g.world, role := if m 1 then byteAt h 6 else g.role, members := if m 2 then field h 8 3 else g.members,
    slots := if m 4 then (List.range (field h 54 2)).map (fun i => slotOfBytes ((p.drop (72 + 12 * i)).take 12)) else g.slots,
    parentPort := if m 6 then byteAt h 14 else g.parentPort, fanout := if m 7 then field h 16 16 else g.fanout,
    units := if m 8 then byteAt h 32 else g.units, op := if m 8 then x / 64 else g.op, carry := if m 8 then x / 16 % 4 else g.carry,
    childT := if m 8 then x / 4 % 4 else g.childT, rescale := if m 8 then bit x 1 else g.rescale,
    fmt := if m 9 then byteAt h 15 else g.fmt, eref := if m 10 then signed 16 (field h 36 2) else g.eref }

/-- Slot tests of R230. -/
def hudSlotTests (mask : Nat) (p : List Byte) (g : HGroup) : List (Nat × Bool) :=
  let w := weightSum g.slots
  slotTests (mask.testBit 4) 72 (slotBlame mask) g.slots
    (fun i s => [(0, (!mask.testBit 4 || slotBits p 72 i) && (!s.child || decide (g.role ≠ 0))),
      (1, if s.child then decide (1 ≤ s.weight) else decide (s.weight = 1)), (4, decide (s.member + s.weight ≤ g.members)), (9, decide (s.sub = 0xFFFFFF))])
    (if g.role = 2 then decide (w = g.members) else decide (1 ≤ w ∧ w ≤ g.members))

/-- The tests of a huddle group's fields. -/
def hudFieldsOk (g : HGroup) : List (Nat × Bool) :=
  [(14, decide (g.role ≤ 2)), (16, decide (1 ≤ g.members ∧ g.members ≤ 1024)), (22, decide (g.parentPort < 128)), (23, [1, 2, 5, 6].contains g.fmt),
   (40, decide (1 ≤ g.units ∧ g.units ≤ 32) && (g.op != 2 || g.units == 1)),
   (41, decide (g.op ≤ 2 ∧ g.carry ≤ 2 ∧ 1 ≤ g.childT) && (g.op != 1 || !isInt g.fmt)), (44, erefOk g.eref)]

def hudChecks (create : Bool) (mask : Nat) (p : List Byte) (g : HGroup) : List (Nat × Bool) :=
  let m := fun (i : Nat) => mask.testBit i
  let len := 72 + (if m 4 then 12 * field p 62 2 else 0)
  [(0, decide (mask < 2 ^ 17) && (if create then m 1 && m 2 && m 4 else !m 0 && !m 16) && !([3, 5, 11, 12, 13, 14, 15].any m)),
   (4, decide (field p 4 2 < 256)), (4, !create || m 16 || decide (field p 4 2 = 0)), (6, decide (field p 6 2 = 0)), (13, !m 0 || decide (byteAt p 13 ≤ 1))]
  ++ hudFieldsOk g ++
  [(41, !m 8 || decide (byteAt p 41 % 2 = 0)), (42, !m 8 || decide (field p 42 2 = 0)), (62, decide (1 ≤ g.slots.length ∧ g.slots.length ≤ 256)),
   (64, decide (field p 64 8 = 0)), (min p.length len, decide (p.length = len))]
  ++ hudSlotTests mask p g

/-- HUDDLE_CREATE (R231). -/
def hudCreate (d : Dev) (h : CmdHdr) (p : List Byte) : Ans :=
  if p.length < 72 then .bad p.length
  else
    let mask := field p 0 4
    let g := hudBody mask p { HGroup.free with valid := true, world := h.world }
    checks (hudChecks true mask p g)
      (if g.world ∧ !h.world then .err St.worldDenied
       else if draining d then .err St.updateBusy
       else
         let at' := if mask.testBit 16 then (if (hgroupAt d (field p 4 2)).valid then none else some (field p 4 2))
           else (List.range 256).find? (fun i => !(hgroupAt d i).valid)
         match at' with
         | none => .err (if mask.testBit 16 then St.groupBusy else St.noHuddleGroup)
         | some i => .done (hgroupPut d i g) (beBytes 2 i))

def withHud (d : Dev) (i : Nat) (w : Bool) (k : HGroup → Ans) : Ans :=
  if i ≥ 256 then .bad 0
  else
    let g := hgroupAt d i
    if !g.valid then .err St.noSuchGroup else if g.world ∧ !w then .err St.worldDenied else k g

def hudBusy (d : Dev) (i : Nat) : Bool := d.hud.inst.any (fun x => decide (x.group = i))

/-- What the body of a HUDDLE_MODIFY must keep whatever the group holds (R10, R502). -/
def hudModifyChecks (mask : Nat) (p : List Byte) : List (Nat × Bool) :=
  let m := fun (i : Nat) => mask.testBit i
  let x := byteAt p 41
  [(0, decide (mask < 2 ^ 17) && !([0, 3, 5, 11, 12, 13, 14, 15, 16].any m)), (4, decide (field p 4 2 < 256)), (6, decide (field p 6 2 = 0)),
   (14, !m 1 || decide (byteAt p 14 ≤ 2)), (16, !m 2 || decide (1 ≤ field p 16 3 ∧ field p 16 3 ≤ 1024)), (22, !m 6 || decide (byteAt p 22 < 128)),
   (23, !m 9 || [1, 2, 5, 6].contains (byteAt p 23)), (40, !m 8 || decide (1 ≤ byteAt p 40 ∧ byteAt p 40 ≤ 32)),
   (41, !m 8 || decide (x / 64 ≤ 2 ∧ x / 16 % 4 ≤ 2 ∧ 1 ≤ x / 4 % 4 ∧ x % 2 = 0)), (42, !m 8 || decide (field p 42 2 = 0)),
   (44, !m 10 || erefOk (signed 16 (field p 44 2))), (62, !m 4 || decide (1 ≤ field p 62 2 ∧ field p 62 2 ≤ 256)), (64, decide (field p 64 8 = 0))]

/-- HUDDLE_MODIFY. What its layout breaks is found before the group is looked up. -/
def hudModify (d : Dev) (h : CmdHdr) (p : List Byte) : Ans :=
  if p.length < 72 then .bad p.length
  else
    let mask := field p 0 4
    let i := field p 4 2
    checks (hudModifyChecks mask p) (withHud d i h.world (fun old =>
      let g := hudBody mask p old
      checks (hudChecks false mask p g)
        (if hudBusy d i then .err St.groupBusy
         else
           let e := (old.epoch + 1) % 65536
           .done (hgroupPut d i { g with epoch := e }) (beBytes 2 e))))

/-- HUDDLE_QUERY. -/
def hudQuery (d : Dev) (h : CmdHdr) (p : List Byte) : Ans :=
  needLen p 2 (withHud d (field p 0 2) h.world (fun g => longReply d (hudExport (field p 0 2) g)))

/-- HUDDLE_DESTROY. -/
def hudDestroy (d : Dev) (h : CmdHdr) (p : List Byte) : Ans :=
  needLen p 2 (withHud d (field p 0 2) h.world (fun _ =>
    if hudBusy d (field p 0 2) then .err St.groupBusy else .done (hgroupPut d (field p 0 2) HGroup.free) []))

end Sys2Proof.Machine
end

