-- ==== Sys2Proof/Machine/Links.lean ====
section
/-! DEFINITION. Links (12): codewords and replay, link messages, bring-up, loopbacks, modules and LEDs. A cause of LINK_FAULT raises FS_l, but for
step_timeout, whose source R411 raises only where the link enters FAILED (log 29). -/

namespace Sys2Proof.Machine

def linkCtl (d : Dev) (l : Nat) (f : Nat × Nat) : Bool := fbit d (Reg.LINK_CTRL l) f
def linkLoop (d : Dev) (l : Nat) : Nat := fget d (Reg.LINK_CTRL l) Fd.LINK_CTRL_loop
def linkFault (d : Dev) (l : Nat) (f : Nat × Nat) : Dev := unitFault d (Reg.LINK_FAULT l) f l

/-- The framing of a T-link starts afresh: nothing sent, nothing received. -/
def cwReset (d : Dev) (x : LinkDyn) : LinkDyn :=
  { x with txAt := ns256 d, txBase := 0, txNext := 0, txTop := 0, txw := [], chan := none, rxNext := none, rxBuf := [], rxCol := 0, rxCut := false, rxMsg := (0, []) }

/-- A link enters a step (R424). From step 5 a T-link sends codewords, with TRAIN messages; at step 6 a link sends its identity (R407, R408). -/
def stepTo (d : Dev) (l s : Nat) : Dev :=
  let d := dynMod d l (fun x => { (if s = 5 then cwReset d x else x) with stepAt := ns d })
  let d := fset d (Reg.LINK_STATUS l) Fd.LINK_STATUS_step s
  if s = 5 ∧ l < 96 then sendMessage d l 3 false [] else if s = 6 then sendMessage d l 2 false (identBody d l) else d

/-! ## Leaving service (R285, R344, R186) -/

/-- Pencil and publication copies in the queues of a port: bucket and attempt, and number. -/
def portMarks (d : Dev) (p : Nat) : List ((Nat × Nat) × Nat) :=
  let fs := (portEgs d p).flatMap (egFrames d)
  let ks := ((fs.filterMap (fun f => f.2.pass)).filter (fun m => decide (m.1 < 2 ^ 60))).map (fun m => (m.1, m.2 / 2))
  ks.eraseDups.map (fun k => (k, (ks.filter (fun m => decide (m = k))).length))

/-- A link in service leaves it for step `st`: it is flushed, and a port that goes down with it is fenced for groups and huddle groups
(R186, R230). -/
def linkDown (d : Dev) (l st : Nat) : Dev :=
  let egs := if l ≥ 96 ∧ isSplit d l then [l, l + 32] else [l]
  let down := (egs.filterMap (egPort d)).filter (fun p => portEn d p && (portUp d p).all (fun e => decide (egLink e = l)))
  let marks := down.map (fun p => (p, portMarks d p))
  let d := linkLeave d l st
  let d := dynMod d l (fun x => { x with drain := none, restart := none, held := false, nak := false, uncorr := [], naks := [], nakAck := none, txw := [], rxBuf := [], rxCut := false })
  let d := marks.foldl (fun d m => m.2.foldl (fun d k => markSkipped d k.1.1 k.1.2 m.1 k.2) d) d
  bellWatch (down.foldl (fun d p => hudPortFenced (portFenced d p) p) d)

/-- Whatever the link does, it stops and takes step `st`. -/
def linkStop (d : Dev) (l st : Nat) : Dev :=
  if linkCarries d l then linkDown d l st
  else bellWatch (stepTo (dynMod d l (fun x => { x with restart := none, held := false, drain := none })) l st)

/-! ## Bring-up (R408 to R411) -/

/-- Whether bring-up may run (R408, R418): enabled, module present, latch closed and powered, no loopback, no fence that a retrain must lift
(R446), regions placed (R529), reference clock present (R566). -/
def canBring (d : Dev) (l : Nat) : Bool :=
  linkCtl d l Fd.LINK_CTRL_en && fbit d (Reg.LINK_STATUS l) Fd.LINK_STATUS_present && fbit d (Reg.LINK_STATUS l) Fd.LINK_STATUS_latch_closed
  && (dynOf d l).powered && decide (linkLoop d l = 0) && !(dynOf d l).fenced && fbit d Reg.TOP_STATUS Fd.TOP_STATUS_ready
  && !tget false d.pkg.lost (l / 16)

/-- Bring-up starts at step 1 where it may run; else the link is DOWN, or LOOPBACK while one is selected. -/
def linkRestart (d : Dev) (l : Nat) : Dev :=
  let d := linkStop d l (if linkLoop d l ≠ 0 then 11 else 0)
  if canBring d l then
    let d := { d with bell := { d.bell with links := tset BellLink.init d.bell.links l { bellLink d l with dIn := [], off := [], rx := none } } }
    stepTo d l 1
  else d

/-- Timeout of a step in ns (R408); step 8 has none. -/
def stepLimit (s : Nat) : Nat := [0, 20000, 10000, 2000, 2000, 5000, 10000, 100000].getD s 0

/-- Step 7 has ended when 16 valid values of d_in are held (R257); it is passed at once in ETHERNET mode. -/
def delayKnown (d : Dev) (l : Nat) : Bool := linkEther d l || decide (16 ≤ (bellLink d l).dIn.length)

/-- Condition of admission (R257). -/
def bellAdmits (d : Dev) : Bool := decide (bellState d = 2) || (isMaster d && decide (bellState d = 3))

/-- Step 6 holds an IDENT: the link goes on, or stays with peer_mismatch (R410). -/
def identCheck (d : Dev) (l : Nat) : Dev :=
  if linkCtl d l Fd.LINK_CTRL_expect_en ∧ fget d (Reg.LINK_PEER l) (23, 0) ≠ fget d (Reg.LINK_EXPECT l) Fd.LINK_EXPECT_coord then
    linkFault (dynMod d l (fun x => { x with held := true })) l Fd.LINK_FAULT_peer_mismatch
  else stepTo (dynMod d l (fun x => { x with held := false })) l 7

/-- The peer's IDENT is recorded (R410). -/
def identTake (d : Dev) (l peer link serial : Nat) : Dev :=
  identCheck (rg64Put (rgPut d (Reg.LINK_PEER l) (link * 2 ^ 24 + peer)) (Reg.LINK_PEER_SERIAL_0 l) serial) l

/-- Lane map word of LINK_LANES (R426). -/
def lanesWord (lanes : List Nat) : Nat := (List.range 8).foldl (fun a i => a + lanes.getD i 0 * 2 ^ (3 * i)) 0

/-- A T-link corrects the straight and the reversed order (R409); a G-link any order (R404). -/
def laneOrderOk (l : Nat) (lanes : List Nat) : Bool :=
  if l < 96 then decide (lanes = [0, 1, 2, 3, 4, 5, 6, 7]) || decide (lanes = [7, 6, 5, 4, 3, 2, 1, 0])
  else (List.range 8).all (fun i => lanes.contains i)

/-- BRINGUP_STEP_COMPLETE (R408): `i` is what the step found. -/
def bringStep (d : Dev) (l : Nat) (i : BringInfo) : Dev :=
  match linkStep d l with
  | 1 => stepTo d l 2
  | 2 => stepTo d l 3
  | 3 => stepTo (fset d (Reg.LINK_LANES l) Fd.LINK_LANES_polarity i.polarity.toNat) l 4
  | 4 =>
    let lanes := i.lanes.toList.map BitVec.toNat
    if laneOrderOk l lanes then stepTo (fset d (Reg.LINK_LANES l) Fd.LINK_LANES_lane_map (lanesWord lanes)) l 5
    else linkFault d l Fd.LINK_FAULT_lane_map
  | 5 => if linkEther d l then stepTo d l 7 else stepTo d l 6
  | 6 => if (dynOf d l).held then d else identTake d l i.peer.toNat i.peerLink.toNat i.serial.toNat
  | 7 => if delayKnown d l ∧ bellAdmits d then stepTo d l 8 else d
  | _ => d

/-- BRINGUP_STEP_TIMEOUT (R411): a link held at step 6, one whose step 7 waits for the bell, and one at step 8 do not time out. -/
def bringTimeout (d : Dev) (l : Nat) : Dev :=
  let s := linkStep d l
  let x := dynOf d l
  if s = 0 ∨ 7 < s ∨ x.held ∨ (s = 7 ∧ delayKnown d l) ∨ ns d < x.stepAt + stepLimit s then d
  else
    let a := Reg.LINK_STATUS l
    let n := min 15 (fget d a Fd.LINK_STATUS_tries_used + 1)
    let d := fset (fset d (Reg.LINK_FAULT l) Fd.LINK_FAULT_step_timeout 1) a Fd.LINK_STATUS_tries_used n
    if n ≥ fget1 d (Reg.LINK_CTRL l) Fd.LINK_CTRL_tries then linkFault (linkStop d l 12) l Fd.LINK_FAULT_failed
    else
      let d := linkStop d l 0
      dynMod d l (fun x => { x with restart := some (ns d + 1000000) })

/-- BRINGUP_RESTART (R411). -/
def bringRestart (d : Dev) (l : Nat) : Dev :=
  match (dynOf d l).restart with
  | some t => if t ≤ ns d then linkRestart d l else d
  | none => d

/-- LINK_ADMIT (R257, R401): a link that waits at step 8, or at step 7 with its delay measured, enters service. -/
def linkAdmit (d : Dev) (l : Nat) : Dev :=
  let s := linkStep d l
  if (s = 8 ∨ (s = 7 ∧ delayKnown d l)) ∧ bellAdmits d then
    let d := fset (stepTo d l 9) (Reg.LINK_STATUS l) Fd.LINK_STATUS_tries_used 0
    bellWatch { d with clk := { d.clk with inUse := true } }
  else d

/-- A lane or the clock loses lock in service (R403). -/
def lockLost (d : Dev) (l : Nat) : Dev :=
  if linkCarries d l then linkRestart (linkFault d l Fd.LINK_FAULT_lock_lost) l else d

/-- MARGIN_MEASURE (R403). -/
def marginMeasure (d : Dev) (l : Nat) (ms : List Nat) : Dev :=
  if linkCarries d l ∧ ms.any (fun m => decide (m < fget d (Reg.LINK_CTRL l) Fd.LINK_CTRL_margin_min)) then
    linkFault d l Fd.LINK_FAULT_margin_low
  else d

/-! ## Codewords, replay and link messages (R397 to R402, R406) -/

/-- An ack and a NAK from the peer (R400, R402): what the ack covers leaves the replay buffer; a NAK has the codewords after it sent again, unless its
ack is older than one acted on; a codeword replayed 8 times without an ack takes the link out of service. -/
def replayTake (d : Dev) (l ack : Nat) (nak : Bool) : Dev :=
  match ackNext d l ack with
  | none => d
  | some a =>
    let d := cwPump d l
    let x := dynOf d l
    let old : Bool := match x.nakAck with | some b => decide (a < b) | none => false
    let x := { x with naks := x.naks.filter (fun n => decide (a < n.2)), txw := x.txw.filter (fun c => decide (a ≤ c.seq)) }
    if !nak ∨ old then dynPut d l x
    else
      let hi := txFresh d l
      let again := { x with naks := x.naks ++ [(a, hi)], nakAck := some a, txBase := a, txAt := ns256 d, txNext := a, txTop := hi }
      let d := bump (dynPut d l again) (Reg.LINK_REPLAY_CNT l)
      if x.naks.length + 1 ≥ 8 ∧ linkCarries d l then linkRestart (linkFault d l Fd.LINK_FAULT_replay_limit) l else d

/-- LINK_MESSAGE_RECEIVE (R399, R400, R406). -/
def linkMessage (d : Dev) (l : Nat) (m : List Byte) : Dev :=
  if linkStep d l < 6 ∨ 10 < linkStep d l ∨ linkEther d l ∨ byteAt m 0 > 3 then d
  else
    let d := if 96 ≤ l then d else replayTake d l (field m 6 4) (bit (byteAt m 1) 7)
    let body := (m.drop 14).take 16
    match byteAt m 0 with
    | 1 => wordReceive d l body
    | 2 => if linkStep d l = 6 ∧ !(dynOf d l).held then identTake d l (field body 0 3) (byteAt body 3) (field body 5 8) else d
    | _ => d

/-! ## Register writes (R410 to R413, R423) -/

/-- A write of LINK_CTRL: `new` is the merged word, `v` the written one. -/
def linkCtrlWrite (d : Dev) (l new v : Nat) : Dev :=
  let a := Reg.LINK_CTRL l
  let old := rg d a
  let o := fun f => bits old f.1 f.2
  let n := fun f => bits new f.1 f.2
  let badLoop := decide (n Fd.LINK_CTRL_loop ≥ 4)
  let badMode := decide (l < 96 ∧ (n Fd.LINK_CTRL_g_mode = 1 ∨ n Fd.LINK_CTRL_g_mode_b = 1))
  let badPrbs := linkCarries d l && decide (n Fd.LINK_CTRL_prbs_en ≠ o Fd.LINK_CTRL_prbs_en)
  let w := if badLoop then putBits new 27 25 (o Fd.LINK_CTRL_loop) else new
  let w := if badMode then putBits (putBits w 19 19 0) 17 17 0 else w
  let w := if badPrbs then putBits w 24 24 (o Fd.LINK_CTRL_prbs_en) else w
  let w := if badLoop || badMode || badPrbs then putBits w 18 18 1 else w
  let d := rgPut d a w
  let loop := bits w 27 25
  let d := if bit v 29 then
      let d := fset (bump d (Reg.LINK_RETRAIN_CNT l)) (Reg.LINK_STATUS l) Fd.LINK_STATUS_tries_used 0
      dynMod d l (fun x => { x with fenced := false })
    else d
  if loop ≠ 0 then (if o Fd.LINK_CTRL_loop = 0 ∨ bit v 29 then linkStop d l 11 else d)
  else if !bit w 31 then (if linkStep d l = 0 then d else linkStop d l 0)
  else if bit v 29 ∨ o Fd.LINK_CTRL_loop ≠ 0 ∨ (!bit old 31 ∧ linkStep d l = 0) then linkRestart d l
  else d

/-- A write of LINK_EXPECT releases a link held at step 6, and the device compares again (R410). -/
def linkExpectWrite (d : Dev) (l new : Nat) : Dev :=
  let d := rgPut d (Reg.LINK_EXPECT l) new
  if linkStep d l = 6 ∧ (dynOf d l).held then identCheck d l else d

/-- One retrain, as a write of LINK_CTRL.retrain (R411, R446, R535). -/
def linkRetrain (d : Dev) (l : Nat) : Dev := let w := rg d (Reg.LINK_CTRL l); linkCtrlWrite d l w (putBit w 29 true)

/-- FENCE of a link (R446): it leaves service as if en were 0, until a retrain. -/
def linkFence (d : Dev) (l : Nat) : Dev := linkStop (dynMod d l (fun x => { x with fenced := true })) l 0

/-! ## Modules and chains (R418 to R420) -/

/-- Presence is lost: the link leaves service at once (R418). -/
def moduleRemoved (d : Dev) (l : Nat) : Dev :=
  let a := Reg.LINK_STATUS l
  let d := fset (fset (dynMod d l (fun x => { x with powered := false, again := false })) a Fd.LINK_STATUS_present 0) a Fd.LINK_STATUS_latch_closed 0
  let d := if linkCarries d l then linkFault d l Fd.LINK_FAULT_removed else d
  if linkLoop d l ≠ 0 then d else linkStop d l 0

/-- The latch opens: a link in service drains (R418); a bring-up ends. -/
def moduleLatch (d : Dev) (l : Nat) : Dev :=
  let d := fset d (Reg.LINK_STATUS l) Fd.LINK_STATUS_latch_closed 0
  match linkStep d l with
  | 9 => stepTo (dynMod d l (fun x => { x with drain := some (ns d + 10000), again := false, powered := false })) l 10
  | 10 => dynMod d l (fun x => { x with again := false, powered := false })
  | 11 => dynMod d l (fun x => { x with powered := false })
  | _ => linkStop (dynMod d l (fun x => { x with powered := false })) l 0

/-- LINK_DRAIN_END (R418): the queues are empty, or 10 µs have passed. -/
def drainEnd (d : Dev) (l : Nat) : Dev :=
  let x := dynOf d l
  match x.drain with
  | some t =>
    let egs := if l ≥ 96 ∧ isSplit d l then [l, l + 32] else [l]
    if linkStep d l = 10 ∧ (t ≤ ns d ∨ egs.all (fun e => (egFrames d e).isEmpty)) then
      let d := linkDown d l 0
      let d := dynMod d l (fun y => { y with again := false })
      if x.again then linkRestart d l else d
    else d
  | none => d

/-- The latch closes again while the link drains (R418). -/
def latchClosed (d : Dev) (l : Nat) : Dev :=
  let a := Reg.LINK_STATUS l
  let d := fset (fset d a Fd.LINK_STATUS_present 1) a Fd.LINK_STATUS_latch_closed 1
  if linkStep d l = 10 then dynMod d l (fun x => { x with again := true, powered := true }) else d

/-- MODULE_INSERT (R418): present and latched for 100 ms; the module is powered and bring-up may start. -/
def moduleInsert (d : Dev) (l : Nat) : Dev :=
  let d := latchClosed d l
  let d := dynMod d l (fun x => { x with powered := true })
  if linkStep d l = 0 ∧ linkCtl d l Fd.LINK_CTRL_auto_up then linkRestart d l else d

/-- A chain returned another pattern (R420). -/
def chainError (d : Dev) : Dev := raise (fset d Reg.PRT_SB_STATUS Fd.PRT_SB_STATUS_chain_err 1) 132

/-- One cage in a scan (R418): a change counts when 3 scans in a row show it. -/
def scanCage (d : Dev) (l : Nat) (p la : Bool) : Dev :=
  let a := Reg.LINK_STATUS l
  let now := (if p then 2 else 0) + (if la then 1 else 0)
  let old := (if fbit d a Fd.LINK_STATUS_present then 2 else 0) + (if fbit d a Fd.LINK_STATUS_latch_closed then 1 else 0)
  let x := dynOf d l
  if now = old then (if x.scanN = 0 then d else dynPut d l { x with scan := 0, scanN := 0 })
  else
    let n := if x.scanN ≠ 0 ∧ x.scan = now then x.scanN + 1 else 1
    if n < 3 then dynPut d l { x with scan := now, scanN := n }
    else
      let d := dynPut d l { x with scan := 0, scanN := 0 }
      if !p then fset (if old ≥ 2 then moduleRemoved d l else d) a Fd.LINK_STATUS_latch_closed (if la then 1 else 0)
      else if !la then moduleLatch (fset d a Fd.LINK_STATUS_present 1) l
      else latchClosed d l

/-- SIDEBAND_SCAN (R418, R420). -/
def sidebandScan (d : Dev) (present latch : Nat) (chainOk : Bool) : Dev :=
  if !chainOk then chainError d
  else (List.range 128).foldl (fun d l => scanCage d l (present.testBit l) (latch.testBit l)) d

/-- Automatic fault state of a port (R419): 0 off, 1 on, 2 blinking. -/
def ledAuto (d : Dev) (p : Nat) : Nat :=
  let ls := (portEgs d p).map egLink
  if ls.any (fun l => decide (linkStep d l = 12) || decide (rg d (Reg.LINK_FAULT l) &&& 0x1A ≠ 0)) then 1
  else if ls.any (fun l => decide (linkStep d l = 10)) then 2 else 0

/-- LED_REFRESH (R419, R420): blinking lights are on in the first half of each period of bell time (log 32). -/
def ledRefresh (d : Dev) (chainOk : Bool) : Dev :=
  let hz1 := decide (ns d % 1000000000 < 500000000)
  let hz4 := decide (ns d % 250000000 < 125000000)
  let light := fun c => match c with | 1 => true | 2 => hz4 | _ => false
  let d := (List.range 128).foldl (fun d p =>
    let a := Reg.PORT_LED p
    let fault := match fget d a Fd.PORT_LED_fault_sw with
      | 0 => light (ledAuto d p)
      | 1 => false
      | 2 => true
      | _ => hz4
    emit d (.led p (fbit d a Fd.PORT_LED_locate && hz1) fault)) d
  if chainOk then d else chainError d

end Sys2Proof.Machine
end

