-- ==== Sys2Proof/Machine/Flash.lean ====
section
/-! DEFINITION. The flash tier (12 R416, R417): connections of the restricted NVMe over Fabrics initiator, their transfers, RDMA accesses of
the target, retries, congestion notifications and pauses. -/

namespace Sys2Proof.Machine

def flashAt (d : Dev) (c : Nat) : Option Flash := tget none d.lnk.flash c
def flashPut (d : Dev) (c : Nat) (x : Option Flash) : Dev := { d with lnk := { d.lnk with flash := tset none d.lnk.flash c x } }

/-- Connections in use (R422). -/
def flashUsed (d : Dev) : Nat := d.lnk.flash.length

def rsvFault (d : Dev) (r : Nat) (f : Nat × Nat) : Dev := unitFault d (Reg.RSV_FAULT r) f (128 + r)

/-- Whether an entry serves the flash tier on a link in service in ETHERNET mode (R414). -/
def flashEntry (d : Dev) (r : Nat) : Bool :=
  let l := fget d (Reg.RSV_CFG r) Fd.RSV_CFG_link
  fbit d (Reg.RSV_CFG r) Fd.RSV_CFG_en && fbit d (Reg.RSV_CFG r) Fd.RSV_CFG_use && linkEther d l && linkUp d l

/-- Whether an entry honours a pause now (R417). -/
def flashPaused (d : Dev) (r : Nat) : Bool :=
  let c := Reg.RSV_CFG r
  fbit d c Fd.RSV_CFG_pfc_en && decide (tget 0 d.tm.paused (r * 8 + fget d c Fd.RSV_CFG_pfc_prio) > ns d)

/-- Full rate of a connection in units of 100 Mb/s × 2^-6: that of its link. -/
def flashFull (d : Dev) (x : Flash) : Nat := 64 * egRate d (fget d (Reg.RSV_CFG x.entry) Fd.RSV_CFG_link)

/-- The command capsule of a transfer, as the model records it: blocks, region, offset. -/
def xferBytes (t : Transfer) : List Byte := beBytes 8 t.start ++ beBytes 4 t.count ++ beBytes 4 t.region ++ beBytes 8 t.off

/-- Send what a connection owes, while its entry is not paused and its rate lets it (R417): RDMA responses, then commands. -/
def flashSend : Nat → Nat → Dev → Dev
  | 0, _, d => d
  | n + 1, c, d =>
    match flashAt d c with
    | none => d
    | some x =>
      if x.error ∨ flashPaused d x.entry ∨ x.rate.next > ns256 d then d
      else
        let gap := fun len => match x.rate.rate with
          | some r => { x.rate with next := ns256 d + ceilDiv (len * 20480 * 64) (max 1 r) }
          | none => x.rate
        match x.out with
        | o :: os => flashSend n c (emit (flashPut d c (some { x with out := os, rate := gap o.2.length })) (.roce c o.1 o.2))
        | [] => match x.xfers.find? (fun t => !t.sent) with
          | some t =>
            let x := { x with xfers := lmodFirst (fun t => !t.sent) (fun t => { t with sent := true }) x.xfers, rate := gap 64, at_ := ns d }
            flashSend n c (emit (flashPut d c (some x)) (.roce c (if t.write then 3 else 2) (xferBytes t)))
          | none => d

/-- Every connection sends what it owes. -/
def flashPump (d : Dev) : Dev :=
  d.lnk.flash.foldl (fun d e => match e.2 with
    | some x => flashSend (x.out.length + x.xfers.length) e.1 d
    | none => d) d

/-- A manifest of 256 B at the start of a region is whole (R471). -/
def manifestOk (d : Dev) (r : Region) : Bool :=
  let m := regionRead d r 0 256
  !regionPoisoned d r 0 256 && decide (field m 252 4 = crc32c (m.take 252))

/-- A transfer ends: its requester is answered, or the running checkpoint learns of it (R470, R472). -/
def xferEnd (d : Dev) (c : Nat) (t : Transfer) (good : Bool) : Dev :=
  match t.reply with
  | some r =>
    let st := if !good then St.flashFailed else if t.manif then
        (match regionOf d t.region with
        | some (_, g) => if manifestOk d g then St.ok else St.noSuchCheckpoint
        | none => St.noSuchCheckpoint)
      else St.ok
    replyLate d r st []
  | none => match d.ckp.running with
    | some k => { d with ckp := { d.ckp with running := some { k with writing := k.writing.erase c, failed := k.failed || !good } } }
    | none => d

/-- A connection enters ERROR: each outstanding transfer fails, conn_failed is set and the entry's source is raised (R417). -/
def flashError (d : Dev) (c : Nat) : Dev :=
  match flashAt d c with
  | some x =>
    if x.error then d
    else
      let d := flashPut d c (some { x with error := true, xfers := [], out := [] })
      rsvFault (x.xfers.foldl (fun d t => xferEnd d c t false) d) x.entry Fd.RSV_FAULT_conn_failed
  | none => d

/-- FENCE of a reserved-link entry: its connections enter ERROR (R446). -/
def flashFence (d : Dev) (r : Nat) : Dev :=
  d.lnk.flash.foldl (fun d e => match e.2 with
    | some x => if x.entry = r then flashError d e.1 else d
    | none => d) d

/-- ROCE_ACK_TIMEOUT (R416): after 4.096 µs × 2^ack_exp without progress the request is sent again, up to 7 times. -/
def roceTimeout (d : Dev) (c : Nat) : Dev :=
  match flashAt d c with
  | some x =>
    let lim := 4096 * 2 ^ fget d (Reg.RSV_CFG x.entry) Fd.RSV_CFG_ack_exp
    if x.error ∨ !(x.xfers.any (·.sent)) ∨ ns d < x.at_ + lim then d
    else if x.tries ≥ 7 then flashError d c
    else emit (flashPut d c (some { x with tries := x.tries + 1, at_ := ns d })) (.roce c 7 [])
  | none => d

/-- ROCE_CNP_RECEIVE (R417, R313): the rate falls to 7/8, at most once per hold, not below 1/64. -/
def roceCnp (d : Dev) (c : Nat) : Dev :=
  match flashAt d c with
  | some x =>
    let full := flashFull d x
    let hold := 64 * fget1 d Reg.RTE_ECN Fd.RTE_ECN_hold
    let may : Bool := match x.rate.cutAt with | some t => decide (t + hold ≤ ns d) | none => true
    let r := { x.rate with last := ns d }
    let r := if may then { r with rate := some (max (full / 64) ((r.rate.getD full) * 7 / 8)), cutAt := some (ns d) } else r
    flashPut d c (some { x with rate := r })
  | none => d

/-- Recovery of a rate by 1/64 of the full rate after each interval without a notification (R313). -/
def rateRise (d : Dev) (full : Nat) (r : EcnRate) : EcnRate :=
  let step := 64 * fget1 d Reg.RTE_ECN Fd.RTE_ECN_recover
  match r.rate with
  | none => r
  | some x =>
    let k := (ns d - r.last) / step
    let y := x + k * (full / 64)
    if k = 0 then r else if y ≥ full then { r with rate := none, last := ns d } else { r with rate := some y, last := r.last + k * step }

/-- Rates of the connections recover (R417). -/
def flashRecover (d : Dev) : Dev :=
  d.lnk.flash.foldl (fun d e => match e.2 with
    | some x => flashPut d e.1 (some { x with rate := rateRise d (flashFull d x) x.rate })
    | none => d) d

/-- PFC_PAUSE_RECEIVE (R417): a pause of the honoured priority on an entry's link; a time of 0 ends it. -/
def pfcPause (d : Dev) (l prio t : Nat) : Dev :=
  match rsvOf d l with
  | some r =>
    let c := Reg.RSV_CFG r
    if fbit d c Fd.RSV_CFG_pfc_en ∧ fget d c Fd.RSV_CFG_pfc_prio = prio then
      { d with tm := { d.tm with paused := tset 0 d.tm.paused (r * 8 + prio) (if t = 0 then 0 else ns d + t) } }
    else d
  | none => d

/-- RDMA_ACCESS (R416): a target reads or writes a region bound to the connection by a transfer that is outstanding; outside those regions it
gets a remote access error, which is counted. -/
def rdmaAccess (d : Dev) (c : Nat) (isWrite : Bool) (hd off len : Nat) (data : List Byte) : Dev :=
  match flashAt d c with
  | none => d
  | some x =>
    if x.error then d
    else
      let x := { x with at_ := ns d, tries := 0 }
      let bad := fun d => rsvFault (bump (flashPut d c (some { x with out := x.out ++ [(5, [])] })) Reg.RSV_DROP_CNT) x.entry Fd.RSV_FAULT_bad_access
      match regionOf d hd with
      | none => bad d
      | some (_, r) =>
        if !(x.xfers.any (fun t => decide (t.region = hd))) ∨ r.cls ≠ 6 ∨ off + len > regionBytes r then bad d
        else if isWrite then flashPut (regionWrite d r off (padTo 1 (data.take len))) c (some { x with out := x.out ++ [(6, [])] })
        else flashPut d c (some { x with out := x.out ++ [(4, deliverBytes d r off len)] })

/-- FLASH_TRANSFER_COMPLETE (R417): the oldest transfer that was sent ends. -/
def flashComplete (d : Dev) (c : Nat) (good : Bool) : Dev :=
  match flashAt d c with
  | some x => match ltake (fun t => t.sent) x.xfers with
    | some (t, rest) => xferEnd (flashPut d c (some { x with xfers := rest, tries := 0, at_ := ns d })) c t good
    | none => d
  | none => d

/-- FLASH_CONNECT: `bs`, `cap` and `good` are what the target answered. -/
def flashConnect (d : Dev) (p : List Byte) (bs cap : Nat) (good : Bool) : Ans :=
  let r := byteAt p 0
  needLen p 248 (checks [(0, decide (r < 4)), (1, decide (1 ≤ byteAt p 1 ∧ byteAt p 1 ≤ 128)), (2, decide (byteAt p 2 = 4 ∨ byteAt p 2 = 6)),
      (3, decide (byteAt p 3 = 0)), (4, decide (byteAt p 2 = 6 ∨ (p.drop 4).take 12 = List.replicate 12 0))]
    (if flashUsed d ≥ 64 then .err St.noFlashConnection
     else if !flashEntry d r ∨ !good then .err St.flashFailed
     else match (List.range 64).find? (fun c => decide (flashAt d c = none)) with
       | none => .err St.noFlashConnection
       | some c =>
         let d := flashPut d c (some ⟨r, byteAt p 1, p, bs, cap, false, [], [], 0, ns d, EcnRate.init⟩)
         .done (emit d (.roce c 0 p)) (beBytes 1 c ++ beBytes 3 0 ++ beBytes 4 bs ++ beBytes 8 cap)))

/-- The connection that a command names. -/
def withFlash (d : Dev) (c : Nat) (k : Flash → Ans) : Ans :=
  if c ≥ 64 then .bad 0 else match flashAt d c with
    | some x => k x
    | none => .err St.flashFailed

/-- FLASH_DISCONNECT: what is outstanding fails. -/
def flashDisconnect (d : Dev) (p : List Byte) : Ans :=
  needLen p 1 (withFlash d (byteAt p 0) (fun x =>
    let c := byteAt p 0
    .done (emit (flashPut (x.xfers.foldl (fun d t => xferEnd d c t false) d) c none) (.roce c 1 [])) []))

/-- Queue a transfer (R417): a connection in ERROR fails it, one that holds its depth refuses it. -/
def xferQueue (d : Dev) (c : Nat) (x : Flash) (t : Transfer) : Except Nat Dev :=
  if x.error then .error St.flashFailed
  else if x.xfers.length ≥ x.depth then .error St.flashQueueFull
  else .ok (flashPut d c (some { x with xfers := x.xfers ++ [t], at_ := if x.xfers.isEmpty then ns d else x.at_ }))

/-- A transfer between flash blocks and a region of class CHECKPOINT (R416). -/
def flashMove (d : Dev) (r : ReplyTo) (p : List Byte) (write manif : Bool) (hoff off : Nat) : Ans :=
  checks [(0, decide (byteAt p 0 < 64)), (1, decide (field p 1 3 = 0)), (hoff + 2, handleOk (field p hoff 4))] (withFlash d (byteAt p 0) (fun x =>
    match regionOf d (field p hoff 4) with
    | none => .err St.noRegion
    | some (_, g) =>
      if g.cls ≠ 6 then .bad hoff
      else if off + field p 12 4 * x.bsize > regionBytes g then .err St.regionBounds
      else match xferQueue d (byteAt p 0) x ⟨write, field p 4 8, field p 12 4, field p hoff 4, off, false, some r, manif⟩ with
        | .error s => .err s
        | .ok d => .later d))

/-- FLASH_READ. -/
def flashRead (d : Dev) (r : ReplyTo) (p : List Byte) : Ans := needLen p 28 (flashMove d r p false false 16 (field p 20 8))

/-- FLASH_WRITE. -/
def flashWrite (d : Dev) (r : ReplyTo) (p : List Byte) : Ans := needLen p 28 (flashMove d r p true false 16 (field p 20 8))

/-- CHECKPOINT_READ (R472). -/
def checkpointRead (d : Dev) (r : ReplyTo) (p : List Byte) : Ans := needLen p 20 (flashMove d r p false true 16 0)

end Sys2Proof.Machine
end

