-- ==== Sys2Proof/Machine/Lane.lean ====
section
/-! DEFINITION. The lesson machine's lanes (06 R201 to R206): instructions, their check at load, arithmetic on KF32 words and one row of 64 lanes. -/

namespace Sys2Proof.Machine

/-! ## Instructions (R203) -/

def liOp (w : Nat) : Nat := bits w 63 56
def liDst (w : Nat) : Nat := bits w 55 52
def liA (w : Nat) : Nat := bits w 51 48
def liB (w : Nat) : Nat := bits w 47 44
def liC (w : Nat) : Nat := bits w 43 40
def liRf (w : Nat) : Nat := bits w 39 36
def liIMM (w : Nat) : Bool := bit w 35
def liSCL (w : Nat) : Bool := bit w 34
def liNEG (w : Nat) : Bool := bit w 33
def liFAST (w : Nat) : Bool := bit w 32
def liImm (w : Nat) : Nat := bits w 31 0

/-- Fields that an opcode uses (R204): destination, a, second operand, c. -/
def liUses (op : Nat) : Bool × Bool × Bool × Bool :=
  match op with
  | 0x01 | 0x0A => (true, true, true, true)
  | 0x02 | 0x03 | 0x04 | 0x05 | 0x06 | 0x09 => (true, true, true, false)
  | 0x07 | 0x08 | 0x0B | 0x0C | 0x0D => (true, true, false, false)
  | 0x0E => (true, false, false, false)
  | _ => (false, true, false, false)

/-- Values of rf that an opcode has; 1 where it has none. -/
def liRfMax (op : Nat) : Nat :=
  match op with
  | 0x09 | 0x0D => 4
  | 0x0F | 0x10 => 3
  | _ => 1

/-- The tests of R206 on one instruction. -/
def liOk (w : Nat) : Bool :=
  let op := liOp w
  let u := liUses op
  decide (1 ≤ op ∧ op ≤ 0x10) && (u.1 || liDst w == 0) && (u.2.1 || liA w == 0) && ((u.2.2.1 && !liIMM w) || liB w == 0)
  && (u.2.2.2 || liC w == 0) && decide (liRf w < liRfMax op) && (u.2.2.1 || (!liIMM w && !liSCL w)) && !(liIMM w && liSCL w)
  && (op == 1 || op == 2 || (!liNEG w && !liFAST w)) && (liIMM w || op == 0x0E || liImm w == 0) && (op != 0x0E || decide (liImm w ≤ 16))

/-- What the check of a whole lesson carries: last write of each register by index + 1 (0 for none), streams stored, index and register
of the store to W, conversions by register (index, source), whether a PUB came. -/
structure LCheck where
  last  : List Nat
  strs  : List Nat
  w     : Option (Nat × Nat)
  cvts  : List (Nat × Nat × Nat)
  pub   : Bool

/-- One instruction against what came before it (R206). -/
def liNext (s : LCheck) (i w : Nat) : Option LCheck :=
  let op := liOp w
  let lw := fun r => s.last.getD r 0
  if !liOk w then none
  else if op = 0x0F then
    if s.strs.contains (liRf w) then none
    else some { s with strs := liRf w :: s.strs, w := if liRf w = 0 then some (i, liA w) else s.w }
  else if op = 0x10 then
    match s.w with
    | none => none
    | some (k, r) =>
      let same := decide (liA w = r ∧ lw r ≤ k)
      let cvt := s.cvts.any (fun c => decide (c.1 = liA w ∧ lw (liA w) = c.2.1 + 1 ∧ c.2.2 = r ∧ lw r ≤ c.2.1 ∧ lw r ≤ k))
      if s.pub || !(same || cvt) then none else some { s with pub := true }
  else
    some { s with last := s.last.set (liDst w) (i + 1), cvts := if op = 0x0D then (liDst w, i, liA w) :: s.cvts else s.cvts }

/-- Index of the first offending instruction of a lesson, or none. -/
def lessonBad : Nat → LCheck → List Nat → Option Nat
  | _, _, [] => none
  | i, s, w :: ws => match liNext s i w with
    | none => some i
    | some s => lessonBad (i + 1) s ws

def lessonCheck (ws : List Nat) : Option Nat := lessonBad 0 ⟨List.replicate 16 0, [], none, [], false⟩ ws

/-- Streams that a lesson stores (0 W, 1 S1, 2 S2). -/
def lessonStores (ws : List Nat) : List Nat := (ws.filter (fun w => liOp w == 0x0F)).map liRf

/-- The PUB of a lesson and the CVT, by index, that last wrote its operand before it. -/
def pubCvt (ws : List Nat) : Option (Nat × Option Nat) :=
  let p := ws.findIdx (fun w => liOp w == 0x10)
  ws[p]?.map (fun w =>
    let wrote := (List.range p).filter (fun i => let x := ws.getD i 0; liOp x != 0x0F && liDst x == liA w)
    (w, wrote.getLast?.bind (fun i => if liOp (ws.getD i 0) = 0x0D then some i else none)))

/-- Its PUB format with the CVT that the stored weights go through to be published again (R206, R216). -/
def lessonPub (ws : List Nat) : Option (Nat × Option Nat) :=
  (pubCvt ws).map (fun x =>
    let stw := (ws.find? (fun w => liOp w == 0x0F && liRf w == 0)).map liA
    (liRf x.1, if stw = some (liA x.1) then none else x.2))

/-- Whether the operand of PUB was narrowed in toss mode (R59). -/
def lessonToss (ws : List Nat) : Bool := match pubCvt ws with
  | some (_, some i) => liRf (ws.getD i 0) % 2 == 1
  | _ => false

/-! ## KF32 words -/

def kw (w : Nat) : Num := (decodeKf32 w).1

/-- A word as an input reads it (R41). -/
def canon (w : Nat) : Nat := (encodeKf32 (kw w)).1

def kNan : Nat := 0x7FC0_0000
def kInf : Nat := 0x7F80_0000
def kOne : Nat := 0x3F80_0000

def isNan (w : Nat) : Bool := decide ((kw w).kind = .nan)

/-- Order of words that are not NaN. -/
def ordKf (w : Nat) : Int := if bit w 31 then -((w % 2 ^ 31 : Nat) : Int) else (w % 2 ^ 31 : Nat)

def negKf (w : Nat) : Nat := if isNan w ∨ w = 0 then w else w ^^^ 2 ^ 31

/-- Exact sum rounded once (R204, R205). -/
def addKf (x y : Nat) : Nat × Nat :=
  let a := kw x
  let b := kw y
  let big := fun (n : Num) => n.kind = .inf
  if a.kind = .nan ∨ b.kind = .nan then (kNan, 0)
  else if big a ∧ big b then (if a.neg = b.neg then (x, 0) else (kNan, Fl.inv))
  else if big a then (x, 0)
  else if big b then (y, 0)
  else
    let e := min a.e0 b.e0
    let v : Num → Int := fun n => match n.kind with
      | .fin => (if n.neg then -1 else 1) * ((n.m * 2 ^ (n.e0 - e).toNat : Nat) : Int)
      | _ => 0
    let s : Int := v a + v b
    if s = 0 then (0, 0) else encodeKf32 ⟨.fin, decide (s < 0), s.natAbs, e⟩

/-- Product rounded to KF32 (R66, R67), negated under NEG. -/
def mulKf (fast neg : Bool) (x y : Nat) : Nat × Nat :=
  let r := mulKf32 fast (kw x) (kw y)
  (if neg then negKf r.1 else r.1, r.2)

def maxKf (x y : Nat) : Nat := if isNan x || isNan y then kNan else if ordKf x < ordKf y then y else x
def minKf (x y : Nat) : Nat := if isNan x || isNan y then kNan else if ordKf y < ordKf x then y else x

/-! ## RSQRT and RCP (R204): within 2 ulp, else free (log 12). With p = 1 the value is 1/a, with p = 2 it is 1/√a: n · 2^q is that value where
n^p · m = 2^-(e0 + p q). -/

/-- The exponent q of the result's last place. -/
def apxExp (p m : Nat) (e0 : Int) : Int :=
  if p = 1 then (if m = 2 ^ 23 then -46 - e0 else -47 - e0)
  else
    let k : Int := if e0 % 2 = 0 then 70 else if m = 2 ^ 23 then 69 else 71
    Int.neg ((k + e0) / 2)

/-- Largest n below 2^24 with n^p · m ≤ bound. -/
def apxRoot (p m bound : Nat) : Nat :=
  (List.range 24).foldl (fun n i => let c := n + 2 ^ (23 - i); if c ^ p * m ≤ bound then c else n) 0

/-- Whether the positive word c lies within 2 ulp of the value. -/
def apxOk (p m : Nat) (e0 : Int) (c : Nat) : Bool :=
  let x := kw c
  let q := apxExp p m e0
  let k := -(e0 + (p : Int) * x.e0)
  let t := 2 * 2 ^ (max q x.e0 - x.e0).toNat
  decide (x.kind = .fin ∧ x.neg = false ∧ 0 ≤ k) && decide (2 ^ k.toNat ≤ (x.m + t) ^ p * m) && (decide (x.m < t) || decide ((x.m - t) ^ p * m ≤ 2 ^ k.toNat))

/-- The result for a finite operand of magnitude m · 2^e0 > 0. -/
def apx (p : Nat) (cand m : Nat) (e0 : Int) : Nat × Nat :=
  let q := apxExp p m e0
  if q + 23 < -126 then (0, Fl.flush)
  else if apxOk p m e0 cand then (cand, 0)
  else
    let n := apxRoot p m (2 ^ (-(e0 + (p : Int) * q)).toNat)
    ((encodeKf32 ⟨.fin, false, n, q⟩).1, 0)

def rsqrtKf (w : Nat) : Nat × Nat :=
  let x := kw w
  match x.kind with
  | .nan => (kNan, 0)
  | .zero => (kInf, 0)
  | .inf => if x.neg then (kNan, Fl.inv) else (0, 0)
  | .fin => if x.neg then (kNan, Fl.inv) else apx 2 (Config.rsqrtFree (BitVec.ofNat 32 w)).toNat x.m x.e0

def rcpKf (w : Nat) : Nat × Nat :=
  let x := kw w
  match x.kind with
  | .nan => (kNan, 0)
  | .zero => (kInf, 0)
  | .inf => (0, 0)
  | .fin =>
    let r := apx 1 ((Config.rcpFree (BitVec.ofNat 32 w)).toNat % 2 ^ 31) x.m x.e0
    (if x.neg then negKf r.1 else r.1, r.2)

/-! ## One instruction in every lane (R204, R205) -/

def sgnKf (w : Nat) : Nat := if isNan w then kNan else if w = 0 then 0 else if bit w 31 then 0xBF80_0000 else kOne

def cmpKf (rf x y : Nat) : Nat :=
  let nan := isNan x || isNan y
  let t := match rf with
    | 0 => !nan && x == y
    | 1 => !nan && decide (ordKf x < ordKf y)
    | 2 => !nan && decide (ordKf x ≤ ordKf y)
    | _ => nan
  if t then kOne else 0

/-- Result and flags of the operations that treat each lane alone. -/
def laneOp (w a b c : Nat) : Nat × Nat :=
  match liOp w with
  | 0x01 =>
    let p := mulKf (liFAST w) (liNEG w) a b
    let r := addKf p.1 c
    (r.1, p.2 ||| r.2)
  | 0x02 => mulKf (liFAST w) (liNEG w) a b
  | 0x03 => addKf a b
  | 0x04 => addKf a (negKf b)
  | 0x05 => (maxKf a b, 0)
  | 0x06 => (minKf a b, 0)
  | 0x07 => (if isNan a then kNan else a % 2 ^ 31, 0)
  | 0x08 => (sgnKf a, 0)
  | 0x09 => (cmpKf (liRf w) a b, 0)
  | 0x0A => (if a ≠ 0 then b else c, 0)
  | 0x0B => rsqrtKf a
  | _ => rcpKf a

/-- A KF16 element, and a group of 32 KB8 elements, as KF32 words again. -/
def viaKf16 (w : Nat) (t : Option Nat) : Nat × Nat :=
  let r := encodeKf16 (kw w) t
  ((encodeKf32 (decodeKf16 r.1).1).1, r.2)

def viaKb8 (ws : List (Nat × Option Nat)) : List Nat × Nat :=
  let g := kb8Group (ws.map (fun x => (kw x.1, x.2)))
  let es := g.1.2.map (fun e => encodeKf32 (decodeKb8 g.1.1 e).1)
  (es.map (·.1), es.foldl (fun a e => a ||| e.2) g.2)

/-- CVT of 64 lanes (R204, R205): `t` gives the toss value of a lane. -/
def cvtRow (rf : Nat) (t : Nat → Nat) (ws : List Nat) : List Nat × Nat :=
  let tossed := rf % 2 = 1
  let xs := (List.range ws.length).map (fun j => (ws.getD j 0, if tossed then some (t j) else none))
  if rf < 2 then
    let rs := xs.map (fun x => viaKf16 x.1 x.2)
    (rs.map (·.1), rs.foldl (fun a r => a ||| r.2) 0)
  else
    let gs := (List.range (ceilDiv ws.length 32)).map (fun g => viaKb8 ((xs.drop (32 * g)).take 32))
    (gs.flatMap (·.1), gs.foldl (fun a g => a ||| g.2) 0)

/-- A row at work: registers by number, each of 64 lanes; stores by stream; the published words with their format; flags. -/
structure LRow where
  regs   : List (List Nat)
  stores : List (Nat × List Nat)
  pub    : Option (Nat × List Nat)
  flags  : Nat

/-- One instruction. `sc` are the scalar words, `t i j` the toss value of lane j at instruction i. -/
def lessonStep (sc : List Nat) (t : Nat → Nat → Nat) (r : LRow) (i w : Nat) : LRow :=
  let reg := fun n => r.regs.getD n []
  let put := fun (ws : List Nat) f => { r with regs := r.regs.set (liDst w) ws, flags := r.flags ||| f }
  match liOp w with
  | 0x0D => let c := cvtRow (liRf w) (t i) (reg (liA w)); put c.1 c.2
  | 0x0E => put (List.replicate 64 (canon (sc.getD (liImm w) 0))) 0
  | 0x0F => { r with stores := r.stores ++ [(liRf w, reg (liA w))] }
  | 0x10 => { r with pub := some (liRf w, reg (liA w)) }
  | _ =>
    let b := if liIMM w then List.replicate 64 (canon (liImm w)) else if liSCL w then List.replicate 64 (canon (sc.getD (liB w) 0)) else reg (liB w)
    let rs := (List.range 64).map (fun j => laneOp w ((reg (liA w)).getD j 0) (b.getD j 0) ((reg (liC w)).getD j 0))
    put (rs.map (·.1)) (rs.foldl (fun a x => a ||| x.2) 0)

/-- A lesson over the lanes of one row (R201): gradient, weight, S1 and S2 as words. -/
def lessonRow (ws sc : List Nat) (t : Nat → Nat → Nat) (g wt s1 s2 : List Nat) : LRow :=
  let zero := List.replicate 64 0
  (List.range ws.length).foldl (fun r i => lessonStep sc t r i (ws.getD i 0))
    ⟨[g.map canon, wt.map canon, s1.map canon, s2.map canon] ++ List.replicate 12 zero, [], none,
     (g ++ wt ++ s1 ++ s2).foldl (fun a w => a ||| (decodeKf32 w).2) 0⟩

end Sys2Proof.Machine
end

