-- ==== Sys2Proof/Machine/Collect.lean ====
section
/-! DEFINITION. Buckets from their open to their commit point (04 R126, R132 to R154; 05 R159 to R189): BUCKET_OPEN, late limits, checks, COMMIT_POINT,
copies, the metro stage's events. -/

namespace Sys2Proof.Machine

/-! ## BUCKET_OPEN (R126, R132, R133, R151 to R153, R198) -/

def oCtx (p : List Byte) : Nat := field p 0 2
def oKey (p : List Byte) : Nat := bkey (field p 0 2) (field p 2 2) (field p 4 2)
def oOp (p : List Byte) : Nat := byteAt p 6
def oStep (p : List Byte) : Nat := field p 14 4
def oOpt (p : List Byte) (i : Nat) : Bool := bit (byteAt p 9) i
def oFinal (p : List Byte) : Bool := decide (byteAt p 48 = 1)

/-- Toss seed of an open (R133). -/
def oSeed (p : List Byte) (g : Group) : Nat := if oOpt p 6 then field p 20 8 else g.seed

/-- Parameters as a join compares them (R132): the seed resolved, and its option bit left out. -/
def oNorm (p : List Byte) (seed : Nat) : List Byte := setBytes (setByte p 9 (putBit (byteAt p 9) 6 true)) 20 (beBytes 8 seed)

/-- Whether the bucket drives a shard (R198). -/
def oDrives (p : List Byte) : Bool :=
  oOp p == 0 || oOp p == 4 || (oOp p == 5 && oFinal p && (byteAt p 49 == 0 || byteAt p 49 == 4))

/-- Ranges of the parameters, in the order of their bytes. -/
def openChecks (p : List Byte) (g : Group) : List (Nat × Bool) :=
  let op := oOp p
  let acc := decide (op = 5)
  [(0, decide (field p 0 2 < 4096)), (6, decide (op ≤ 7)),
   (7, decide (byteAt p 7 = 0) || (decide (byteAt p 7 = 1) && (op == 0 || op == 1 || op == 4 || op == 5))),
   (8, [1, 2, 3, 5, 6].contains (byteAt p 8)), (8, decide (op ≠ 7 ∨ byteAt p 8 = 1)), (9, decide (byteAt p 9 % 16 = 0)),
   (9, !oOpt p 4 || (acc && decide (field p 46 2 = 0))),
   (10, decide (field p 10 4 ≤ 2 ^ 24) && decide (op ≠ 6 ∨ field p 10 4 = 0) && decide (op ≠ 7 ∨ field p 10 4 = 1)),
   (18, if oOpt p 7 then erefOk (signed 16 (field p 18 2)) else decide (field p 18 2 = 0)), (20, oOpt p 6 || decide (field p 20 8 = 0)),
   (28, oOpt p 5 || decide (field p 28 10 = 0)), (38, op == 4 || (acc && byteAt p 49 == 4) || decide (field p 38 2 = 0)),
   (40, if op = 3 then decide (field p 40 2 < g.members) else decide (field p 40 2 = 0)), (42, acc || decide (field p 42 4 = 0)),
   (44, handleOk (field p 42 4)),
   (46, acc || decide (field p 46 2 = 0)), (48, if acc then decide (byteAt p 48 ≤ 1) else decide (byteAt p 48 = 0)),
   (49, if acc then !oFinal p || [0, 1, 4].contains (byteAt p 49) else decide (byteAt p 49 = 0)),
   (50, if oOpt p 4 then erefOk (signed 16 (field p 50 2)) else decide (field p 50 2 = 0))]

/-- Time of the late limit: whole nanoseconds at or after the 10 bytes given (R12, R143). -/
def oLate (d : Dev) (p : List Byte) (g : Group) : Nat :=
  if oOpt p 5 then field p 28 8 + (if field p 36 2 = 0 then 0 else 1) else ns d + max 1 g.late * tickLen d

/-- The BUCKET entry that replay names for an open (R271). -/
def replayBucket (d : Dev) (p : List Byte) (g : Group) : Option (List Byte) := replayEntry d g.policy (oKey p) (oStep p) 0

/-- E_ref of a bucket at this switch (R53, R271). -/
def oEref (d : Dev) (p : List Byte) (g : Group) : Int :=
  match replayBucket d p g with
  | some e => signed 16 (field e 34 2)
  | none =>
    if oOpt p 7 then signed 16 (field p 18 2)
    else
      let rm := tget 0xFFFF d.seq.rmHist (rmKey (oKey p))
      if rm = 0xFFFF then g.eref else erefOf rm

/-- Shard bound to a context and tag. -/
def boundShard (d : Dev) (ctx tag : Nat) : Option (Nat × Shard) :=
  d.lsn.shards.findSome? (fun e => match e.2 with
    | some s => if s.ctx = ctx ∧ s.tag = tag then some (e.1, s) else none
    | none => none)

/-- Tests of a shard's binding at the switch that may hold it (R198): a status, or the shard that the bucket drives. -/
def openShard (d : Dev) (p : List Byte) (g : Group) : Except Nat (Option Nat) :=
  if !oDrives p ∨ g.role < 2 then .ok none
  else
    let into := decide (oOp p = 4) || (decide (oOp p = 5) && decide (byteAt p 49 = 4))
    match boundShard d (oCtx p) (field p 4 2) with
    | none => if into then .error St.noShard else .ok none
    | some (i, s) =>
      if (into ∧ field p 38 2 ≠ i) ∨ field p 10 4 ≠ s.blocks ∨ byteAt p 8 ≠ s.fmt then .error St.noShard
      else if d.seq.buckets.any (fun e => match e.2 with | some b => decide (b.shard = some i) | none => false) then .error St.shardBusy
      else .ok (some i)

/-- Tests of an accumulation at the root (R151, R153); none where it may go on. A micro-step whose index is not the next one of the region's
accumulation, or that names another context, tag or step than it, is answered ST_ACCUM_BUSY (DESIGN CHOICE, log 171). -/
def openAccum (d : Dev) (p : List Byte) (g : Group) : Option Ans :=
  if oOp p ≠ 5 then none
  else if field p 46 2 > 255 then some (.err St.accumLimit)
  else
    let busy := d.seq.buckets.any (fun e => match e.2 with
      | some b => decide (bOp b = 5 ∧ bRegion b = field p 42 4 ∧ b.st ≠ .aborted ∧ b.st ≠ .inked) && (decide (g.role ≥ 2) || decide (kCtx e.1 = oCtx p))
      | none => false)
    if busy then some (.err St.accumBusy)
    else if g.role < 2 then none
    else match regionOf d (field p 42 4) with
      | none => some (.err St.noRegion)
      | some (_, r) =>
        if r.secure ≠ g.world ∨ regionBytes r < 8 * (field p 10 4 * fmtElems (byteAt p 8)) then some (.bad 42)
        else if field p 46 2 = 0 then none
        else match accumAt d (field p 42 4) with
          | none => some (.err St.accumBusy)
          | some a => if a.steps = field p 46 2 ∧ a.ctx = oCtx p ∧ a.tag = field p 4 2 ∧ a.step = oStep p then none else some (.err St.accumBusy)

/-- The new entry (R132 to R134). -/
def newBucket (d : Dev) (h : CmdHdr) (p : List Byte) (g : Group) (shard : Option Nat) : Bucket :=
  let er := oEref d p g
  let seed := match replayBucket d p g with | some e => field e 36 8 | none => oSeed p g
  let s := (slotOf g h.src.toNat).map (·.1)
  { st := if hasParent g then .pending else .opened, attempt := 0, grp := g, params := oNorm p (oSeed p g), openAt := ns d, pendAt := ns d, late := oLate d p g,
    eref := er, seed := seed, xchk := polXchk g.policy || fbit d Reg.SEQ_CTRL Fd.SEQ_CTRL_xchk_force, rm := 0, chunks := [], held := [], aborts := [],
    reports := [], cause := none, skipped := 0, primOnly := [], noted := false, openers := s.toList, mReg := 0, mEref := er, mJoin := [], mChunks := [],
    mGot := [], mConf := [], mSent := [], inkAt := 0, shard := shard, lateDone := false, mLateDone := false, pubElems := 0 }

/-- Create the METRO region of a bucket over every NORMAL stack, cleared (R180, R373). -/
def openMetro (d : Dev) (b : Bucket) : Option (Nat × Dev) :=
  let n := (ownChunks b).foldl (fun a c => a + chunkElems b c) 0
  if !inMetro b.grp ∨ n = 0 then some (0, d)
  else match freeRegion d with
    | none => none
    | some i => (placeRegion d i b.grp.world true false 3 (ceilDiv (8 * n) granBytes) 0).map (fun d => (i, clearRegion d i))

/-- Passes that wait for the bucket to open are admitted (R180), under the reduction quota; what it refuses waits on (log 174). -/
def admitHeld (d : Dev) (k : Nat) : Dev :=
  let mine := d.seq.mHeld.filter (fun p => decide (passKey p.hdr = k))
  let d := { d with seq := { d.seq with mHeld := d.seq.mHeld.filter (fun p => !(decide (passKey p.hdr = k))) } }
  mine.foldl (fun d p =>
    let len := 40 + 272 * p.blocks.length
    let r := poolAlloc d 0 (p.link / 8) (gransOf len)
    if r.1 then hpoolFreeGrans { r.2 with seq := { r.2.seq with conv := r.2.seq.conv ++ [{ p with grans := gransOf len }] } } 1 p.grans
    else { d with seq := { d.seq with mHeld := d.seq.mHeld ++ [p] } }) d

/-- At a tick boundary the passes that the quota refused are tried again. -/
def retryHeld (d : Dev) : Dev :=
  (d.seq.mHeld.map (fun p => passKey p.hdr)).foldl (fun d k => match bucketAt d k with
    | some b => if b.st = .pending ∨ b.st = .aborted ∨ b.st = .inked then d else admitHeld d k
    | none => d) d

/-- A bucket has become OPEN: METRO_JOIN goes out (R180), a bucket without blocks is CLOSED. -/
def bucketOpened (d : Dev) (k : Nat) : Dev :=
  match bucketAt d k with
  | none => d
  | some b =>
    let d := if inMetro b.grp then
        admitHeld (ownersNotice d k b.grp b.attempt ⟨0x0305, 0x20, 0, b.eref, 0, beBytes 4 b.grp.members, []⟩ none) k
      else d
    closeCheck d k

/-- The upward BUCKET_OPEN (R126). -/
def sendOpen (d : Dev) (k : Nat) (b : Bucket) : Dev :=
  let t := d.cmd.nextTag % 2 ^ 32
  let f := cmdFrame d b.grp.parent 4 0x0101 (if b.grp.world then 0x80 else 0) t 0 0 (setBytes b.params 20 (beBytes 8 b.seed))
  let d := { d with cmd := { d.cmd with nextTag := d.cmd.nextTag + 1, sent := d.cmd.sent ++ [⟨b.grp.parent, t, 0x0101, k⟩] } }
  originate d f

/-- Fix E_acc and clear the region at micro-step 0 (R152). -/
def accumStart (d : Dev) (p : List Byte) (g : Group) (b : Bucket) : Dev :=
  if oOp p ≠ 5 ∨ field p 46 2 ≠ 0 ∨ g.role < 2 then d
  else match regionOf d (field p 42 4) with
    | none => d
    | some (_, r) =>
      let e := if oOpt p 4 then signed 16 (field p 50 2) else b.eref + 8
      accumPut (regionZero d r 0 (8 * totalElems b)) (field p 42 4) (some ⟨0, e, oCtx p, field p 4 2, oStep p, []⟩)

/-- A source that has opened a bucket joins its openers (R129). -/
def addOpener (b : Bucket) (src : Nat) : Bucket :=
  match slotOf b.grp src with
  | some (s, _) => if b.openers.contains s then b else { b with openers := b.openers ++ [s] }
  | none => b

/-- An open of a bucket that is not FREE (R132, R133). -/
def joinBucket (d : Dev) (h : CmdHdr) (p : List Byte) (k : Nat) (b : Bucket) : Ans :=
  if bStep b ≠ oStep p then .err St.tagBusy
  else if oOp p = 5 ∧ bOp b = 5 ∧ bRegion b = field p 42 4 ∧ bMicro b ≠ field p 46 2 then .err St.accumBusy
  else if oNorm p (oSeed p b.grp) ≠ b.params then .err St.paramConflict
  else match b.st with
    | .aborted => .err St.aborted
    | .pending => .later (bucketPut d k (addOpener { b with held := b.held ++ [(h, p)] } h.src.toNat))
    | _ => .done (closeCheck (bucketPut d k (addOpener b h.src.toNat)) k) (beBytes 2 (unsigned 16 b.eref))

/-- A new bucket takes the name of an earlier one: parts of its notices that were acted on are told apart by their time of issue (R168, log 167), its INK
and the end of its norm bucket are forgotten. -/
def renew (d : Dev) (k : Nat) : Dev :=
  { d with
    seq := { d.seq with
      seen := d.seq.seen.map (fun n => if n.key = k then { n with old := true } else n)
      inks := d.seq.inks.filter (fun r => !(decide (r.key = k) && r.ports.isEmpty)) }
    lsn := { d.lsn with norms := d.lsn.norms.map (fun e =>
      if e.2.valid ∧ e.2.ctx = kCtx k ∧ e.2.tag = kTag k then (e.1, { e.2 with aborted := none }) else e) } }

/-- A first open (R132, R155). -/
def firstOpen (d : Dev) (h : CmdHdr) (p : List Byte) (k : Nat) (g : Group) : Ans :=
  if draining d then .err St.updateBusy
  else if bucketCount d ≥ 65536 then tableRefusal d St.bucketTableFull
  else if g.maxB ≠ 0 ∧ (bucketsOf d (oCtx p)).length ≥ g.maxB then .err St.bucketQuota
  else match openAccum d p g, openShard d p g with
    | some a, _ => a
    | none, .error st => .err st
    | none, .ok sh =>
      let b := newBucket d h p g sh
      if ledgerUsed d + ledgerGrans b > 65536 then tableRefusal d St.noLedgerSpace
      else if polReplay g.policy ∧ replayActive d ∧ (replayBucket d p g).isNone then .status (raise d 793) St.aborted none
      else match openMetro d b with
        | none => .err St.noHbmSpace
        | some (i, d) =>
          let b := { b with mReg := i }
          let d := match sh with | some i => if partnerState d = 2 then wholePut d 4 i false else d | none => d
          let d := renew d k
          if hasParent g then .later (sendOpen (bucketPut d k { b with held := [(h, p)] }) k b)
          else .done (bucketOpened (accumStart (bucketPut d k b) p g b) k) (beBytes 2 (unsigned 16 b.eref))

/-- BUCKET_OPEN. -/
def bucketOpen (d : Dev) (h : CmdHdr) (p : List Byte) : Ans :=
  needLen p 52 (
    let g := groupAt d (oCtx p % 4096)
    checks (openChecks p g)
      (if g.st = 0 then .err St.noSuchGroup
       else if !groupWorldOk g h.world then .err St.worldDenied
       else if byteAt p 7 = 1 ∧ polShort g.policy = 2 then .bad 7
       else if g.st = 2 then .err St.groupBusy
       else if field p 2 2 ≠ g.epoch then .err St.staleEpoch
       else match bucketAt d (oKey p) with
         | some b => if (slotOf b.grp h.src.toNat).isNone then .err St.notMember else joinBucket d h p (oKey p) b
         | none => if (slotOf g h.src.toNat).isNone then .err St.notMember else firstOpen d h p (oKey p) g))

/-- PARENT_OPEN_REPLY (R126): the parent answers the open that this switch sent. -/
def parentReply (d : Dev) (h : CmdHdr) (status : Nat) : Dev :=
  let d := dequeue d h 0x0101
  match d.cmd.sent.find? (fun s => decide (s.dst = h.src.toNat ∧ s.tag = h.tag.toNat ∧ s.opcode = 0x0101)) with
  | none => bump d Reg.CMD_DROP_CNT
  | some s =>
    let d := { d with cmd := { d.cmd with sent := d.cmd.sent.filter (· ≠ s) } }
    match bucketAt d s.key with
    | none => d
    | some b =>
      if b.st ≠ .pending then d
      else if status = St.ok then bucketOpened (bucketPut (answerOpens d b St.ok) s.key { b with st := .opened, held := [] }) s.key
      else answerAborts (answerOpens (bucketSet d s.key none) b status) b St.noSuchBucket

/-- BUCKET_PENDING_TIMEOUT (R126). -/
def pendingTimeout (d : Dev) (k : Nat) : Dev :=
  match bucketAt d k with
  | none => d
  | some b =>
    if b.st ≠ .pending ∨ ns d < b.pendAt + max 1 b.grp.late * tickLen d then d
    else
      let d := { d with cmd := { d.cmd with sent := d.cmd.sent.filter (fun s => !(decide (s.key = k ∧ s.opcode = 0x0101))) } }
      answerAborts (answerOpens (bucketSet d k none) b St.incomplete) b St.noSuchBucket

/-! ## BUCKET_ABORT (R188, R189) -/

/-- A request is held until the outcome of the bucket and goes up but at the ink root; one of a PENDING entry that the parent then refuses is answered
ST_NO_SUCH_BUCKET (log 177). -/
def bucketAbort (d : Dev) (h : CmdHdr) (p : List Byte) : Ans :=
  needLen p 8 (
    let k := oKey p
    let g := groupAt d (oCtx p % 4096)
    checks [(0, decide (field p 0 2 < 4096)), (6, decide (byteAt p 6 % 128 = 0)), (7, decide (byteAt p 7 = 0))]
      (if g.st = 0 then .err St.noSuchGroup
       else if !groupWorldOk g h.world then .err St.worldDenied
       else match bucketAt d k with
         | none => match (d.seq.outcomes.reverse.find? (fun o => decide (o.1 = k))).map (·.2) with
           | some true => .err St.aborted
           | some false => .err St.alreadyDone
           | none => .err St.noSuchBucket
         | some b => match b.st with
           | .inked => .err St.alreadyDone
           | .aborted => .err St.aborted
           | _ =>
             let d := bucketPut (recordWait d h 0x0102 p) k { b with aborts := b.aborts ++ [(h, p)] }
             if isInkRoot b.grp then .hold (abortHere d k 3 none)
             else
               let t := d.cmd.nextTag % 2 ^ 32
               let dst := upDst (kCtx k) b.grp
               let f := cmdFrame d dst 4 0x0102 (if b.grp.world then 0x80 else 0) t 0 0 (setByte p 6 0x80)
               .hold (originate { d with cmd := { d.cmd with nextTag := d.cmd.nextTag + 1, sent := d.cmd.sent ++ [⟨dst, t, 0x0102, k⟩] } } f)))

/-! ## The late limit (R143 to R145, R149) -/

def slotsDone (b : Bucket) (c : Nat) : List Nat := match chunkAt b c with
  | some x => (epochSlots b.grp).filter (slotDone b c x)
  | none => []

/-- Whether the late limit still acts on a chunk; one of which no block came closes short like the others. A chunk that waits for admission with every
slot complete has what R140 asks of a FULL close, and closes so when it is admitted (DESIGN CHOICE, log 172). -/
def chunkOpen (b : Bucket) (c : Nat) : Bool := match chunkAt b c with
  | none => true
  | some x => decide (x.st = .filling) || (decide (x.st = .waiting) && !x.short && !chunkFull b c x)

/-- What R144 makes of the weights of a short close: an abort cause, or none. -/
def shortCause (pol wp we : Nat) : Option Nat :=
  if polQuorum pol ≠ 0 ∧ 16 * wp < polQuorum pol * we then some 2
  else match polShort pol with
    | 0 => some 1
    | 1 => if wp = 0 then some 2 else none
    | _ => none

/-- Slots under cross-check whose sources have not both delivered a chunk (R149). -/
def xchkLeft (b : Bucket) : Nat :=
  (List.range (nodeChunks b)).foldl (fun a c =>
    let x := chunkAt b c
    a + ((epochSlots b.grp).filter (fun s => xchkOn b s && (match x with
      | none => true
      | some x =>
        let g := tget Digest.zero x.dig s
        let all := ones (chunkRows b c)
        let skipped := x.dig.any (fun e => decide (e.1 = s)) && !g.held
        !skipped && !(decide (g.pRows = all ∧ g.sRows = all))))).length) 0

/-- Close one chunk short (R144). -/
def closeShort (d : Dev) (k c wp we : Nat) : Dev :=
  let d := bump (chunkEnsure d k c) Reg.SEQ_SHORT_CNT
  let d := chunkMod d k c (fun x => { x with short := true, wp := wp, we := we, st := if x.st = .filling then .closing else x.st })
  match bucketAt d k with
  | some b => (match chunkAt b c with | some x => recordShort d k b c x | none => d)
  | none => d

/-- LATE_LIMIT (R24 action 3, R25, R144): once the tick boundary at or after the limit has come. -/
def lateLimit (d : Dev) (k : Nat) : Dev :=
  match bucketAt d k with
  | none => d
  | some b =>
    if b.lateDone ∨ tickIdx d < tickAtOrAfter d b.late ∨ ¬(b.st = .opened ∨ b.st = .closed) then d
    else
      let d := bump d Reg.SEQ_XCHK_INCOMPLETE_CNT (xchkLeft b)
      let d := bucketPut d k { b with lateDone := true }
      let b := { b with lateDone := true }
      let cs := (List.range (nodeChunks b)).filter (chunkOpen b)
      let we := weightOf b.grp (epochSlots b.grp)
      if b.st = .closed then d
      else if bOp b = 6 then
        let wp := weightOf b.grp b.openers
        if wp = we then closeCheck d k
        else match shortCause b.grp.policy wp we with
          | some c => abortHere d k c none
          | none => closeCheck (recordShortSlots d k b 0 wp we b.openers) k
      else if cs.isEmpty then d
      else if polReplay b.grp.policy ∧ replayActive d then abortHere (raise d 793) k 8 none
      else if isCopy b then
        match shortCause b.grp.policy 0 we with
        | some c => abortHere d k c none
        | none => closeCheck (cs.foldl (fun d c => chunkMod (closeShort d k c 0 we) k c (fun x => { x with st := .released })) d) k
      else if b.chunks.any (fun e => chunkOpen b e.1 && hasLost e.2) then detectCause d k 5 cs
      else match cs.findSome? (fun c => shortCause b.grp.policy (weightOf b.grp (slotsDone b c)) we) with
        | some cause => abortHere d k cause none
        | none => cs.foldl (fun d c => closeShort d k c (weightOf b.grp (slotsDone b c)) we) d

/-! ## Checks, reports and the commit point (R134, R146, R149, R169, R170) -/

/-- Key under which `reports` holds that this switch's own checks are complete. -/
def selfMark : Nat := 2 ^ 24

def checksDone (b : Bucket) : Bool := b.lateDone || decide (xchkLeft b = 0)

/-- Passing reports of the current attempt from every CHILD slot. -/
def childrenPassed (b : Bucket) : Bool :=
  b.grp.slots.all (fun s => !s.child || b.reports.any (fun r => decide (r.1 = s.prim)))

def ownMarked (b : Bucket) : Bool := b.reports.any (fun r => decide (r.1 = selfMark))

/-- The bitmaps over the members of the whole metro that an owner forms (R146, R182): its own group's, and clear the members of a group that is absent
from an owned chunk. -/
def metroBitmaps (b : Bucket) : Nat × Nat :=
  let own := bitmaps b
  if !inMetro b.grp then own
  else
    let t := bmTotal b
    let f := bmFirst b
    let start := ((ones t - ((ones b.grp.members <<< f) % 2 ^ t)) ||| (own.1 <<< f), own.2 <<< f)
    let r := (List.range b.grp.metroN).foldl (fun (a : Nat × Nat) r =>
      let m := ones (rankMembers b r) <<< rankFirst b r
      let cs := ownChunks b
      let n := (cs.filter (fun c => rankDone b c r)).length
      if r = b.grp.metroRank ∨ !metroSums b ∨ !(cs.any (fun c => (mChunkAt b c).short && !rankDone b c r)) then a
      else (a.1 - (a.1 &&& m), if n = 0 then a.2 else a.2 ||| m)) start
    (r.1 % 2 ^ t, r.2 % 2 ^ t)

/-- A report with bitmaps toward the parent or the METRO_OWNER of rank 0 (R169). -/
def sendReport (d : Dev) (k : Nat) (b : Bucket) : Dev :=
  let bm := metroBitmaps b
  let m := bmTotal b
  let fl := (if anyShort b then 0x80 else 0) + (if inMetro b.grp then 0x20 else 0)
  sendNotice d (upDst (kCtx k) b.grp) k b.attempt b.grp.world ⟨0x0304, fl, 0, b.eref, 0, [], segsOf 0 m bm.1 ++ segsOf 1 m bm.2⟩

/-- BUCKET_CHECKS_COMPLETE: a CLOSED bucket whose comparisons are made; a switch with a parent reports, a METRO_OWNER of rank above 0 once its owned
metro chunks are narrowed too. A METRO_OWNER also sees to it that its part of an accumulation does not saturate (R153). -/
def checksComplete (d : Dev) (k : Nat) : Dev :=
  match bucketAt d k with
  | none => d
  | some b =>
    if b.st ≠ .closed ∨ !checksDone b then d
    else if isInkRoot b.grp ∧ !inMetro b.grp then
      if ownMarked b then d else bucketPut d k { b with reports := b.reports ++ [(selfMark, false, 0, 0)] }
    else if !childrenPassed b then d
    else if hasParent b.grp then bucketPut (sendReport d k b) k { b with st := .reported }
    else
      let mark := fun (d : Dev) => bucketMod d k (fun b => { b with reports := b.reports ++ [(selfMark, false, 0, 0)] })
      let d1 := if ownMarked b then d
        else if bOp b = 5 ∧ accumSat d b then accumAbort d k b true
        else if bOp b = 5 ∧ bFinal b then (match accumMetro d k b with
          | some d => mark d
          | none => accumAbort d k b false)
        else mark d
      match bucketAt d1 k with
      | none => d1
      | some b =>
        let metro := metroOut b || !metroSums b
        if b.st = .closed ∧ !isInkRoot b.grp ∧ ownMarked b ∧ metro then
          let g := gradGate d1 b
          if g.1 then bucketPut (sendReport g.2 k b) k { b with st := .reported } else g.2
        else d1

/-- Combined bitmaps of the ink root (R146): AND of the present ones and OR of the partial ones, over its own slots and the other owners' reports;
a bucket no chunk of which closed short carries none. -/
def rootBitmaps (k : Nat) (b : Bucket) : Nat × Nat :=
  let own := metroBitmaps b
  if !anyShort b then (ones (bmTotal b), 0)
  else (otherOwners (kCtx k) b.grp).foldl (fun a o => match b.reports.find? (fun r => decide (r.1 = o.2)) with
    | some (_, _, p, q) => (a.1 &&& p, a.2 ||| q)
    | none => a) own

/-- Chunks of the bucket that a rank owns. -/
def rankChunks (b : Bucket) (rank : Nat) : List Nat := (List.range (bucketChunks b)).filter (fun c => decide (metroRankOf b c = rank))

/-- Data block sequences that an all-gathered chunk has in the result format. -/
def gatherSeqs (b : Bucket) (c : Nat) : List Nat :=
  let f := resultFmt b
  let s := c * 64 * fmtElems (bFmt b)
  (List.range (ceilDiv (chunkElems b c) (fmtElems f))).map (fun i => s / fmtElems f + i)

def gatheredAll (b : Bucket) (c : Nat) : Bool :=
  let g := tget GChunk.init b.mGot c
  g.lapsed || (gatherSeqs b c).all (fun q => g.got.contains q)

/-- The metro region is released once the bucket is INKED here and every other owner has confirmed (R185); what lingers of the bucket ends with it. -/
def metroRelease (d : Dev) (k : Nat) : Dev :=
  match anyBucket d k with
  | none => d
  | some b =>
    let others := otherOwners (kCtx k) b.grp
    let conf := !metroGathers b || others.all (fun o => b.mConf.contains o.1)
    let inked := decide (b.st = .inked)
    let d := if inked ∧ conf ∧ b.mReg ≠ 0 then anyPut (dropMetro d b) k { b with mReg := 0 } else d
    match lingerAt d k with
    | some b => if b.mReg = 0 ∧ others.all (fun o => b.mSent.contains o.1) then lingerSet d k none else d
    | none => d

/-- METRO_GATHERED goes to an owner once its whole share is held, or its limit was reached after the commit point (R185). -/
def gatherConfirm (d : Dev) (k rank dst : Nat) : Dev :=
  match anyBucket d k with
  | none => d
  | some b =>
    if !metroGathers b ∨ b.mSent.contains rank ∨ !(rankChunks b rank).all (gatheredAll b) then d
    else
      let d := anyPut d k { b with mSent := b.mSent ++ [rank] }
      metroRelease (sendNotice d dst k b.attempt b.grp.world ⟨0x0309, 0x20, 0, b.mEref, 0, beBytes 1 rank, []⟩) k

/-- INK of an attempt at this switch, with what then falls due of its metro side: chunks whose resend limit was reached before are given up (R184), and
the region is released where every confirmation is held (R185). -/
def inkDone (d : Dev) (k flags micro pres part deliv : Nat) : Dev :=
  let d := inkHere d k flags micro pres part deliv
  match anyBucket d k with
  | none => d
  | some b =>
    if b.st ≠ .inked then d
    else
      let d := anyPut d k { b with mGot := b.mGot.map (fun g => (g.1, if g.2.limit then { g.2 with lapsed := true } else g.2)) }
      metroRelease ((otherOwners (kCtx k) b.grp).foldl (fun d o =>
        if (rankChunks b o.1).any (fun c => (tget GChunk.init b.mGot c).limit) then gatherConfirm d k o.1 o.2 else d) d) k

/-- Conditions of R170. -/
def commitReady (k : Nat) (b : Bucket) : Bool :=
  decide (b.st = .closed) && checksDone b && ownMarked b && childrenPassed b && isInkRoot b.grp
  && (!inMetro b.grp || ((otherOwners (kCtx k) b.grp).all (fun o => b.reports.any (fun r => decide (r.1 = o.2)))
      && (metroOut b || !metroSums b)))

/-- The micro-step that ends is counted, or the accumulation ends (R153). -/
def accumEnd (d : Dev) (b : Bucket) : Dev :=
  match accumAt d (bRegion b) with
  | some a => accumPut d (bRegion b) (if bFinal b then none else some { a with steps := a.steps + 1 })
  | none => d

/-- RM16 of the sums that the accumulation converts (R54, R152). -/
def accumRm (d : Dev) (k : Nat) (b : Bucket) : Dev :=
  if isInt (bFmt b) then d
  else bucketMod d k (fun b => { b with rm := b.chunks.foldl (fun m c => c.2.done.foldl (fun m r =>
    (rowExact b c.2 false r.2).foldl (fun m x => max m (rm16Of x.toNum)) m) m) b.rm })

/-- COMMIT_POINT (R170): INK is recorded and sent. -/
def commitPoint (d0 : Dev) (k : Nat) : Dev :=
  match bucketAt d0 k with
  | none => d0
  | some b =>
    let gate := gradGate d0 b
    if !running d0 ∨ !commitReady k b then d0
    else if !gate.1 then gate.2
    else
      let d0 := gate.2
      let a := if bOp b = 5 then accumAdd d0 b else ((true, false), d0)
      if !a.1.1 then accumAbort a.2 k b a.1.2
      else
        let d := if bOp b = 5 then accumRm a.2 k b else a.2
        let o := if bOp b = 5 ∧ bFinal b ∧ !inMetro b.grp then accumOut d k b else some d
        match o with
        | none => if (accumSum d b false).isNone then accumAbort d k b false else quotaRefused d0
        | some d =>
          let d := if bOp b = 5 then accumEnd d b else d
          let bm := rootBitmaps k b
          let g := b.grp
          let fl := (if anyShort b then 0x80 else 0) + (if inMetro g then 0x20 else 0) + (if bOp b = 5 then 0x10 else 0)
          let mi := if bOp b = 5 then bMicro b else 0
          let m : NMsg := ⟨0x0301, fl, 0, b.eref, mi, [], segsOf 0 (bmTotal b) bm.1 ++ segsOf 1 (bmTotal b) bm.2⟩
          inkDone (ownersNotice d k g b.attempt m none) k fl mi bm.1 bm.2 (ones (bmTotal b))

/-! ## Copies: RESULT from the parent, GATHER (R129, R176, R433) -/

/-- A frame any of whose blocks fails its check is dropped whole (R433). -/
def copyCheck (d : Dev) (l : Nat) (b : List Byte) : Bool × Dev :=
  let bad := (frameBlocks b).filter (fun x => !blkOk x)
  if bad.isEmpty then (true, d) else (false, raiseOnce (bump d Reg.INT_BLOCK_FAIL_CNT bad.length) 952 l)

/-- Multicast the blocks of a frame that came down, unchanged. -/
def copyDown (d : Dev) (k : Nat) (g : Group) (att l kind vc : Nat) (mark : Nat × Nat) (into : List (Nat × List Nat)) (b : List Byte) : Dev :=
  let bs := frameBlocks b
  let q := (bs.map blkSeq).headD 0
  match multicast d k att (l / 8) (chunkCorr k (q / 64)) kind vc (mgmtCoord d) mark into bs with
  | some d => d
  | none => let _ := g; quotaRefused d

/-- The 64 sums of a norm bucket as a pass of its result brings them, a KB8 block with the scales of the scale block ahead of it (R45, R129). -/
def normTake (d : Dev) (k step : Nat) (bs : List (List Byte)) : Dev :=
  match bs.find? (fun x => decide (blkFmt x ≠ 4)) with
  | none => d
  | some x =>
    let sc := fun g => match bs.find? (fun y => decide (blkFmt y = 4)) with
      | some y => byteAt (blkPayload y) (8 * (blkSeq x % 32) + g)
      | none => 127
    normKeep d k step (((decodePayload (blkFmt x) sc (blkPayload x)).take 64).map (fun y => (encodeKf32 y.1).1))

/-- A RESULT on VC1 from the parent (R125, R176): multicast unchanged, or dropped where its bucket and attempt are not held. -/
def resultReceive (d : Dev) (l : Nat) (b : List Byte) : Dev :=
  let k := passKey b
  let r := copyCheck d l b
  if !r.1 then r.2
  else match bucketAt r.2 k with
    | none => r.2
    | some bk =>
      if bk.attempt ≠ passAtt b ∨ bk.st = .aborted ∨ bk.st = .pending ∨ !hasParent bk.grp ∨ bk.grp.parent ≠ fSrc b then r.2
      else
        let bs := frameBlocks b
        let blk := bs.headD []
        let fe := if blkFmt blk = 4 then 256 else fmtElems (blkFmt blk)
        let d := if bOp bk = 7 then normTake r.2 k (bStep bk) bs else r.2
        copyDown d k bk.grp bk.attempt l 2 1 (pencilMark k bk.attempt) (resultTo d bk (elemChunk bk (blkSeq blk * fe))) b

/-- Rows of a copied chunk are marked; a chunk whose rows are all copied is RELEASED (R134). -/
def copyRows (d : Dev) (k : Nat) (qs : List Nat) : Dev :=
  let d := qs.foldl (fun d q =>
    let c := q / 64
    let d := bucketMod d k (fun b => match chunkAt b c with
      | some _ => b
      | none => chunkPut b c { Chunk.new 0 (ns d) with st := .filling })
    chunkMod d k c (fun x => { x with rows := tput x.rows (q % 64) .prim })) d
  let d := bucketMod d k (fun b => { b with chunks := b.chunks.map (fun e =>
    if (List.range (min 64 (bBlocks b - 64 * e.1))).all (fun r => (taken e.2 0 r).isSome) then (e.1, { e.2 with st := .released }) else e) })
  closeCheck d k

/-- Whether a slot may contribute a chunk to a copy (R129, R130). -/
def copySlotOk (b : Bucket) (s c : Nat) : Bool :=
  match b.grp.slots[s]? with
  | none => false
  | some e => (slotMask e).testBit (if bOp b = 3 then bSource b else ownerMember b c)

/-- A GATHER on VC3 (R129): up to the parent, or from the root down the fan-out. -/
def gatherReceive (d : Dev) (l : Nat) (b : List Byte) : Dev :=
  let k := passKey b
  let r := copyCheck d l b
  let d := r.2
  if !r.1 then d
  else match bucketAt d k with
    | none => raiseOnce (bump d Reg.SEQ_UNKNOWN_CNT) 793 (fSrc b)
    | some bk =>
      if bk.st ≠ .opened ∧ bk.st ≠ .closed ∧ bk.st ≠ .reported then raiseOnce (bump d Reg.SEQ_UNKNOWN_CNT) 793 (fSrc b)
      else if passAtt b < bk.attempt then bump d Reg.SEQ_STALE_CNT
      else if passAtt b > bk.attempt ∨ !isCopy bk then bump d Reg.SEQ_CONFLICT_CNT
      else
        let qs := (frameBlocks b).filter (fun x => blkFmt x ≠ 4) |>.map blkSeq
        let down := hasParent bk.grp && decide (fSrc b = bk.grp.parent)
        if qs.any (fun q => decide (q ≥ bBlocks bk)) ∨ (frameBlocks b).any (fun x => decide (blkFmt x ≠ bFmt bk) && !(decide (bFmt bk = 3 ∧ blkFmt x = 4))) then
          bump d Reg.SEQ_CONFLICT_CNT
        else if down then copyRows (copyDown d k bk.grp bk.attempt l 4 3 (pencilMark k bk.attempt) (fanTo d bk.grp) b) k qs
        else match slotOf bk.grp (fSrc b) with
          | none => bump d Reg.SEQ_FOREIGN_CNT
          | some (s, _) =>
            if qs.any (fun q => !copySlotOk bk s (q / 64)) then bump d Reg.SEQ_FOREIGN_CNT
            else if hasParent bk.grp then
              match sendPass d k bk.attempt (l / 8) (chunkCorr k (qs.headD 0 / 64)) 4 3 bk.grp.parent none (frameBlocks b) with
              | some d => d
              | none => quotaRefused d
            else
              let old := qs.filter (fun q => match chunkAt bk (q / 64) with | some x => (taken x 0 (q % 64)).isSome | none => false)
              if !qs.isEmpty ∧ old.length = qs.length then bump d Reg.SEQ_DUP_CNT old.length
              else copyRows (copyDown d k bk.grp bk.attempt l 4 3 (pencilMark k bk.attempt) (fanTo d bk.grp) b) k qs

/-! ## Metro events (R180, R182, R184, R185) -/

/-- METRO_HOLD_TIMEOUT (R180). -/
def metroHold (d : Dev) (k : Nat) : Dev :=
  let lim := fget1 d Reg.MTR_TIMERS Fd.MTR_TIMERS_hold_ticks * tickLen d
  let across := d.seq.mHeld.filter (fun p => decide (passKey p.hdr = k ∧ p.at_ + lim ≤ ns d))
  let d := { d with seq := { d.seq with mHeld := d.seq.mHeld.filter (fun p => !(decide (passKey p.hdr = k ∧ p.at_ + lim ≤ ns d))) } }
  across.foldl (fun d p => raise (bump (hpoolFreeGrans d 1 p.grans) Reg.MTR_HOLD_DROP_CNT p.blocks.length) 802) d

/-- METRO_LATE_LIMIT (R182): one slot per group, weighted by the declared member counts. SEQ_SHORT_CNT and the record's SHORT entries count chunks of the
group tree (DESIGN CHOICE, log 176). -/
def metroLate (d : Dev) (k : Nat) : Dev :=
  match bucketAt d k with
  | none => d
  | some b =>
    let t := b.late + fget1 d Reg.MTR_CTRL Fd.MTR_CTRL_metro_late_ticks * tickLen d
    let cs := (ownChunks b).filter (fun c => !(mChunkAt b c).closed)
    if !metroSums b ∨ b.mReg = 0 ∨ b.mLateDone ∨ tickIdx d < tickAtOrAfter d t ∨ ¬(b.st = .opened ∨ b.st = .closed) then d
    else
      let d := bucketPut d k { b with mLateDone := true }
      if cs.isEmpty then d
      else if (otherOwners (kCtx k) b.grp).any (fun o => !(b.mJoin.any (fun j => decide (j.1 = o.1)))) then abortHere (raise d 801) k 7 none
      else
        let w := rankMembers b
        let we := (List.range b.grp.metroN).foldl (fun a r => a + w r) 0
        let wpOf := fun c => (List.range b.grp.metroN).foldl (fun a r => if rankDone b c r then a + w r else a) 0
        match cs.findSome? (fun c => shortCause b.grp.policy (wpOf c) we) with
        | some cause => abortHere (raise d 801) k cause none
        | none => cs.foldl (fun d c => raise (bucketMod d k (fun b => mChunkPut b c { mChunkAt b c with closed := true, short := true, wp := wpOf c, we := we })) 801) d

/-- An all-gathered chunk did not come intact (R184): METRO_RESEND, or the limit of four. Until this switch is INKED the cause METRO is reported; after, the
chunk is given up. -/
def gatherFail (d : Dev) (k rank dst c : Nat) : Dev :=
  match anyBucket d k with
  | none => d
  | some b =>
    let g := tget GChunk.init b.mGot c
    if g.limit ∨ g.lapsed then d
    else if g.resends < 4 then
      let d := anyPut d k { b with mGot := tset GChunk.init b.mGot c { g with resends := g.resends + 1, at_ := ns d } }
      sendNotice (bump d Reg.MTR_RESEND_CNT) dst k b.attempt b.grp.world ⟨0x0306, 0x20, 0, b.mEref, 0, beBytes 4 c, []⟩
    else if b.st = .inked then
      gatherConfirm (raise (anyPut d k { b with mGot := tset GChunk.init b.mGot c { g with limit := true, lapsed := true } }) 804) k rank dst
    else detectCause (raise (anyPut d k { b with mGot := tset GChunk.init b.mGot c { g with limit := true } }) 804) k 8 []

/-- At a tick boundary a METRO_RESEND that hold_ticks ticks have not answered has failed (DESIGN CHOICE, log 175). -/
def gatherRepeat (d : Dev) : Dev :=
  let wait := fget1 d Reg.MTR_TIMERS Fd.MTR_TIMERS_hold_ticks * tickLen d
  let all := (d.seq.buckets ++ d.seq.linger).filterMap (fun e => e.2.map (fun b => (e.1, b)))
  all.foldl (fun d x => (otherOwners (kCtx x.1) x.2.grp).foldl (fun d o => (rankChunks x.2 o.1).foldl (fun d c =>
    let g := tget GChunk.init x.2.mGot c
    if g.resends = 0 ∨ gatheredAll x.2 c ∨ g.at_ + wait > ns d then d else gatherFail d x.1 o.1 o.2 c) d) d) d

/-- METRO_GATHER_RECEIVE (R183 to R185): the next all-gathered pass. -/
def gatherNext (d : Dev) : Dev :=
  match d.seq.gathers with
  | [] => d
  | p :: rest =>
    if !running d then d
    else
      let d := poolFreeGrans { d with seq := { d.seq with gathers := rest } } 1 (p.link / 8) p.grans
      let k := passKey p.hdr
      match anyBucket d k with
      | none => d
      | some b => match rankOf (kCtx k) b.grp (fSrc p.hdr) with
        | none => d
        | some rank =>
          if b.attempt ≠ passAtt p.hdr ∨ b.st = .aborted then d
          else
            let fe := fun (x : List Byte) => if blkFmt x = 4 then 256 else max 1 (fmtElems (blkFmt x))
            let chunk := fun (x : List Byte) => elemChunk b (blkSeq x * fe x)
            let bad := p.blocks.find? (fun x => !blkOk x)
            match bad with
            | some x =>
              let c := match p.blocks.find? (fun y => blkOk y) with | some y => chunk y | none => chunk x
              gatherFail (raiseOnce (bump d Reg.INT_BLOCK_FAIL_CNT) 952 p.link) k rank (fSrc p.hdr) (min c (bucketChunks b - 1))
            | none =>
              let c := chunk (p.blocks.headD [])
              let g := tget GChunk.init b.mGot c
              if metroRankOf b c ≠ rank ∨ g.lapsed then d
              else match multicast d k b.attempt (p.link / 8) (chunkCorr k c) 2 1 (mgmtCoord d) (pencilMark k b.attempt) (resultTo d b c) p.blocks with
                | none => quotaRefused d
                | some d =>
                  let qs := (p.blocks.filter (fun x => decide (blkFmt x ≠ 4))).map blkSeq
                  let d := match anyBucket d k with
                    | some b => anyPut d k { b with mGot := tset GChunk.init b.mGot c { g with got := g.got ++ qs.filter (fun q => !(g.got.contains q)) } }
                    | none => d
                  let d := if bOp b = 7 then normTake d k (bStep b) p.blocks else d
                  gatherConfirm d k rank (fSrc p.hdr)

/-- METRO_GATHER_LAPSE (R185). -/
def gatherLapse (d : Dev) (k : Nat) : Dev :=
  match anyBucket d k with
  | none => d
  | some b =>
    if b.st ≠ .inked ∨ b.mReg = 0 ∨ ns d < b.inkAt + fget1 d Reg.MTR_TIMERS Fd.MTR_TIMERS_hold_ticks * tickLen d then d
    else metroRelease (raise (bump (anyPut (dropMetro d b) k { b with mReg := 0 }) Reg.MTR_GATHER_LAPSE_CNT) 806) k

/-! ## Ends of ABORTED entries (R134) -/

/-- An ABORTED entry is FREE once its ABORTED notices have left the device. -/
def sweepAborted (d : Dev) : Dev :=
  d.seq.buckets.foldl (fun d e => match e.2 with
    | some b => if b.st = .aborted ∧ !passWaits d none (abortMark e.1) then bucketSet d e.1 none else d
    | none => d) d

end Sys2Proof.Machine
end

