-- ==== Sys2Proof/Machine/Notices.lean ====
section
/-! DEFINITION. Notices as a switch receives, acknowledges, repeats and releases them (05 R165 to R189). -/

namespace Sys2Proof.Machine

/-! ## Reception (R167, R168, R489) -/

def noticeAcked (d : Dev) (h : CmdHdr) (op : Nat) (p : List Byte) : Dev :=
  let q := p.take 6 ++ beBytes 1 (nAtt p) ++ beBytes 1 (nPart p) ++ beBytes 2 op
  let f := cmdFrame d h.src.toNat 4 0x0308 (if h.world then 0x80 else 0) (d.cmd.nextTag % 2 ^ 32) 0 0 q
  originate { d with cmd := { d.cmd with nextTag := d.cmd.nextTag + 1 } } f

/-- Whether a requester of this header may send a notice for a context (R117, R495). -/
def noticeWorld (d : Dev) (h : CmdHdr) (ctx : Nat) : Bool :=
  (!h.world || secureOk d h.via) && ((groupAt d ctx).st == 0 || groupWorldOk (groupAt d ctx) h.world)

def nTime (p : List Byte) : Nat := field p 12 10

/-- Notices of which one sender may issue several for one attempt: CHECK_REPORT, METRO_JOIN, METRO_RESEND. -/
def noticeMany (op : Nat) : Bool := [0x0304, 0x0305, 0x0306].contains op

/-- Whether a part was acted on before (R168). A part of a later bucket of the same name, and a further CHECK_REPORT, METRO_JOIN or METRO_RESEND of one
attempt, is told from a repeat by its time of issue (DESIGN CHOICE, log 167). -/
def noticeSeen (d : Dev) (src op : Nat) (p : List Byte) : Bool :=
  d.seq.seen.any (fun n => decide (n.src = src ∧ n.key = nKey p ∧ n.att = nAtt p ∧ n.op = op ∧ n.part = nPart p)
    && (decide (n.time = nTime p) || (!n.old && !noticeMany op)))

/-- A notice part: dropped, repeated, kept until every part is held, or acted on with the segments of all parts (R167, R168). `act` takes the
fixed part and the segments. -/
def notice (op : Nat) (act : List Byte → List (List Byte) → Dev → Dev) (h : CmdHdr) (p : List Byte) (d0 : Dev) : Dev :=
  let d := dequeue d0 h op
  let src := h.src.toNat
  let k := nKey p
  let same := fun (n : NoticeIn) => decide (n.src = src ∧ n.op = op ∧ n.key = k ∧ n.att = nAtt p) && n.parts.all (fun x => decide (nTime x.2 = nTime p))
  let got := d.seq.notIn.find? same
  if !noticeOk p || !noticeWorld d h (kCtx k) || (match got with | some n => decide (n.count ≠ nCount p) | none => false) then bump d Reg.CMD_DROP_CNT
  else
    let d := noticeAcked d h op p
    if noticeSeen d src op p then bump d Reg.MTR_NOTICE_DUP_CNT
    else
      let d := { d with seq := { d.seq with seen := d.seq.seen ++ [(⟨src, k, nAtt p, op, nPart p, nTime p, false⟩ : SeenPart)] } }
      let parts := (match got with | some n => n.parts | none => []) ++ [(nPart p, p)]
      let rest := d.seq.notIn.filter (fun n => !same n)
      if parts.length < nCount p then
        { d with seq := { d.seq with notIn := rest ++ [(⟨src, op, k, nAtt p, nCount p, parts⟩ : NoticeIn)] } }
      else
        let at' := fun i => (parts.find? (fun x => decide (x.1 = i))).map (·.2)
        let segs := (List.range (nCount p)).flatMap (fun i => match at' i with | some q => nSegs q | none => [])
        act ((at' 0).getD p) segs { d with seq := { d.seq with notIn := rest } }

/-- Whether a source is the one from which this bucket's outcome comes: the parent, or the METRO_OWNER of rank 0 (R165). -/
def fromAbove (k : Nat) (b : Bucket) (src : Nat) : Bool := !isInkRoot b.grp && decide (src = upDst (kCtx k) b.grp)

/-! ## What each notice does -/

/-- INK (R171, R152, R208). A METRO_OWNER adds its part of an accumulation; a line that fails there comes after the commit point and ends the
accumulation only (R170, R379). -/
def inkAct (src : Nat) (p : List Byte) (segs : List (List Byte)) (d : Dev) : Dev :=
  let k := nKey p
  match bucketAt d k with
  | none => d
  | some b =>
    if !fromAbove k b src ∨ b.attempt ≠ nAtt p ∨ b.st = .pending then d
    else
      let m := bmTotal b
      let d := if bOp b = 5 ∧ isOwner b.grp then
          let a := accumAdd (accumRm d k b) b
          if a.1.1 then accumEnd a.2 b else accumPut a.2 (bRegion b) none
        else d
      inkDone d k (nFlags p &&& 0xF0) (nMicro p) (bitmapOf 0 m segs) (bitmapOf 1 m segs) (bitmapOf 2 m segs)

/-- ERASE (R176). -/
def eraseAct (src : Nat) (p : List Byte) (_segs : List (List Byte)) (d : Dev) : Dev :=
  let k := nKey p
  match bucketAt d k with
  | none => d
  | some b =>
    if !fromAbove k b src ∨ b.attempt ≠ nAtt p ∨ ¬(b.st = .opened ∨ b.st = .closed ∨ b.st = .reported) then d
    else eraseHere d k (nCause p) (field (nExt p) 0 8 + (if field (nExt p) 8 2 = 0 then 0 else 1)) (some src)

/-- ABORTED (R134, R188, R579), from the parent, a child or another METRO_OWNER. -/
def abortedAct (src : Nat) (p : List Byte) (_segs : List (List Byte)) (d : Dev) : Dev :=
  let k := nKey p
  match bucketAt d k with
  | none => d
  | some b =>
    let known := (hasParent b.grp && decide (src = b.grp.parent)) || b.grp.slots.any (fun s => s.child && decide (s.prim = src))
      || (rankOf (kCtx k) b.grp src).isSome
    if known then abortHere d k (nCause p) (some src) else d

/-- CHECK_REPORT (R170, R174, R175). -/
def reportAct (src : Nat) (p : List Byte) (segs : List (List Byte)) (d : Dev) : Dev :=
  let k := nKey p
  match bucketAt d k with
  | none => d
  | some b =>
    let known := b.grp.slots.any (fun s => s.child && decide (s.prim = src)) || (isInkRoot b.grp && (rankOf (kCtx k) b.grp src).isSome)
    if !known ∨ b.st = .pending ∨ b.st = .inked ∨ b.st = .aborted then d
    else if b.attempt ≠ nAtt p then (if nCause p ≠ 0 ∧ nAtt p < b.attempt then causeAgain d else d)
    else if nCause p ≠ 0 then detectCause d k (nCause p) []
    else
      let m := if (rankOf (kCtx k) b.grp src).isSome then bmTotal b else b.grp.members
      let r := (src, bit (nFlags p) 7, bitmapOf 0 m segs, bitmapOf 1 m segs)
      bucketPut d k { b with reports := b.reports.filter (fun x => decide (x.1 ≠ src)) ++ [r] }

/-- METRO_JOIN of a rank (R179, R182): a second one that differs conflicts. -/
def joinTake (d : Dev) (k rank n : Nat) : Dev :=
  match bucketAt d k with
  | none => d
  | some b => match b.mJoin.find? (fun j => decide (j.1 = rank)) with
    | some j => if j.2 = n then d else abortHere (raise d 801) k 7 none
    | none => bucketPut d k { b with mJoin := tput b.mJoin rank n }

/-- METRO_JOIN: of a bucket that is not yet open here it is kept. -/
def joinAct (src : Nat) (p : List Byte) (_segs : List (List Byte)) (d : Dev) : Dev :=
  let k := nKey p
  match bucketAt d k with
  | none => { d with seq := { d.seq with notIn := d.seq.notIn ++ [⟨src, 0x0305, k, nAtt p, 1, [(0, p)]⟩] } }
  | some b => match rankOf (kCtx k) b.grp src with
    | some r => joinTake d k r (field (nExt p) 0 4)
    | none => d

/-- METRO_JOINs kept for a bucket that has opened. -/
def joinsHeld (d : Dev) (k : Nat) : Dev :=
  let mine := d.seq.notIn.filter (fun n => decide (n.op = 0x0305 ∧ n.key = k ∧ n.count = 1))
  match bucketAt d k with
  | none => d
  | some b =>
    let d := { d with seq := { d.seq with notIn := d.seq.notIn.filter (fun n => !(decide (n.op = 0x0305 ∧ n.key = k ∧ n.count = 1))) } }
    mine.foldl (fun d n => match rankOf (kCtx k) b.grp n.src, n.parts with
      | some r, (_, p) :: _ => joinTake d k r (field (nExt p) 0 4)
      | _, _ => d) d

/-- METRO_RESEND (R184): the owner narrows the chunk again and sends it to that owner only. -/
def resendAct (src : Nat) (p : List Byte) (_segs : List (List Byte)) (d : Dev) : Dev :=
  let k := nKey p
  let c := field (nExt p) 0 4
  match anyBucket d k with
  | none => d
  | some b =>
    if b.attempt ≠ nAtt p ∨ b.mReg = 0 ∨ !ownsChunk b c ∨ !(mChunkAt b c).out ∨ (rankOf (kCtx k) b.grp src).isNone then d
    else match metroBlocks d k b c with
      | none => d
      | some (_, bs) => match sendAll d k b.attempt (homeOf k c % 128 / 8) (chunkCorr k c) 2 2 src bs with
        | some d => d
        | none => quotaRefused d

/-- ERASE_REQUEST (R162, R175, R189). -/
def eraseReqAct (p : List Byte) (_segs : List (List Byte)) (d : Dev) : Dev :=
  let k := nKey p
  let late := fun (d : Dev) => raise (bump d Reg.MTR_LATE_ERASE_REQ_CNT) 805
  match bucketAt d k with
  | none => late d
  | some b =>
    if b.st = .inked then late d
    else if b.st = .pending ∨ b.st = .aborted then d
    else if b.attempt ≠ nAtt p then (if nAtt p < b.attempt then causeAgain d else d)
    else detectCause d k 9 []

/-- METRO_GATHERED (R185). -/
def gatheredAct (src : Nat) (p : List Byte) (_segs : List (List Byte)) (d : Dev) : Dev :=
  let k := nKey p
  match anyBucket d k with
  | none => d
  | some b => match rankOf (kCtx k) b.grp src with
    | none => d
    | some r =>
      if b.attempt ≠ nAtt p ∨ byteAt (nExt p) 0 ≠ b.grp.metroRank ∨ b.mConf.contains r then d
      else metroRelease (anyPut d k { b with mConf := b.mConf ++ [r] }) k

/-- NOTICE_ACK (R168): it acknowledges the oldest part that it names (DESIGN CHOICE, log 167). -/
def ackAct (d0 : Dev) (h : CmdHdr) (p : List Byte) : Dev :=
  let d := dequeue d0 h 0x0308
  let k := nKey p
  if p.length ≠ 10 ∨ field p 0 2 ≥ 4096 ∨ !noticeWorld d h (kCtx k) then bump d Reg.CMD_DROP_CNT
  else
    let hit := fun (n : NoticeOut) => decide (n.dst / 16 = h.src.toNat / 16 ∧ n.key = k ∧ n.att = byteAt p 6 ∧ n.part = byteAt p 7 ∧ n.op = field p 8 2)
    { d with seq := { d.seq with notOut := d.seq.notOut.eraseP hit } }

/-! ## Repeats (R168) -/

/-- NOTICE_RETRY_TIMEOUT of the n-th notice part that waits for its acknowledgement. -/
def noticeRetry (d : Dev) (n : Nat) : Dev :=
  match d.seq.notOut[n]? with
  | none => d
  | some o =>
    let wait := fget1 d Reg.MTR_TIMERS Fd.MTR_TIMERS_notice_retry_ticks * tickLen d
    if ns d < o.at_ + wait then d
    else if o.tries < fget1 d Reg.MTR_CTRL Fd.MTR_CTRL_notice_tries then
      let d := { d with seq := { d.seq with notOut := d.seq.notOut.set n { o with tries := o.tries + 1, at_ := ns d } } }
      sendPart (bump d Reg.MTR_NOTICE_RETRY_CNT) o.dst o.op o.key o.world o.params (o.op = 0x0302 ∨ o.op = 0x0303)
    else raise { d with seq := { d.seq with notOut := d.seq.notOut.eraseIdx n } } 803

/-! ## INK behind the pencil (R172, R217) -/

/-- Whether the all-gathered chunks that this port still awaits have come (R172, R185). -/
def gathersHeld (d : Dev) (k : Nat) : Bool :=
  match anyBucket d k with
  | none => true
  | some b => !metroGathers b || decide (bBlocks b = 0)
      || (otherOwners (kCtx k) b.grp).all (fun o => (rankChunks b o.1).all (gatheredAll b))

/-- The INK as it goes into the fan-out (R171, R187): the members of this group, numbered from 0, with those cleared that the switch skipped. -/
def inkMsg (r : InkRec) : NMsg :=
  let m := r.grp.members
  let own := fun (x : Nat) => (x >>> r.first) % 2 ^ m
  ⟨0x0301, inkFlags r, 0, r.eref, r.micro, [], segsOf 0 m (own r.pres) ++ segsOf 1 m (own r.part) ++ segsOf 2 m (own (inkDelivered r))⟩

/-- INK_PORT_RELEASE: the INK of an attempt leaves on a port after its last pencil pass, and after the publication where it carries one. With the last
port the bitmaps are complete and go into the record (R187, log 169). -/
def inkRelease (d : Dev) (k port : Nat) (pubDone : Bool) : Dev :=
  match d.seq.inks.find? (fun r => decide (r.key = k) && r.ports.any (fun x => decide (x.1 = port))) with
  | none => d
  | some r =>
    if !running d ∨ passWaits d (some port) (pencilMark k r.att) ∨ !gathersHeld d k ∨ (r.pub ∧ (!pubDone ∨ passWaits d (some port) (pubMark k r.att))) then d
    else
      let s := { r with ports := r.ports.filter (fun x => decide (x.1 ≠ port)) }
      let d := { d with seq := { d.seq with inks := d.seq.inks.map (fun x => if x = r then s else x) } }
      let dsts := (r.ports.filter (fun x => decide (x.1 = port))).flatMap (·.2)
      let d := if portLive d port then dsts.foldl (fun d dst => sendNotice d dst k r.att r.grp.world (inkMsg r)) d else d
      if s.ports.isEmpty then inkEntry d s else d

end Sys2Proof.Machine
end

