-- ==== Sys2Proof/Machine/Lessons.lean ====
section
/-! DEFINITION. Parameter shards and lessons (06): shard, lesson and norm commands, runs, engines, publication, and what the partner's copy asks of
runs (14 R463, R466). -/

namespace Sys2Proof.Machine

def shardAt (d : Dev) (i : Nat) : Option Shard := tget none d.lsn.shards i
def shardPut (d : Dev) (i : Nat) (s : Shard) : Dev := { d with lsn := { d.lsn with shards := tset none d.lsn.shards i (some s) } }
def lessonAt (d : Dev) (i : Nat) : List Nat := tget [] d.lsn.slots i
def normAt (d : Dev) (i : Nat) : Norm := tget Norm.free d.lsn.norms i
def normPut (d : Dev) (i : Nat) (n : Norm) : Dev := { d with lsn := { d.lsn with norms := tset Norm.free d.lsn.norms i n } }

def lessonBytes (ws : List Nat) : List Byte := ws.flatMap (beBytes 8)

/-! ## Shard commands (R195 to R198, R504) -/

/-- Bytes of n elements of a stream (R196). -/
def streamBytes (fmt n : Nat) : Nat := match fmt with
  | 0 => 0
  | 1 => 4 * n
  | _ => 2 * n

/-- Streams of a shard in the order W, S1, S2, G that lie in regions, with their length in bytes. -/
def shardStreams (s : Shard) (n : Nat) : List (StreamE × Nat) :=
  [(s.w, 4 * n), (s.s1, streamBytes s.s1.fmt n), (s.s2, streamBytes s.s2.fmt n), (if s.gPlace then s.g else ⟨0, 0, 0⟩, 4 * n)].filter (fun x => decide (x.1.fmt ≠ 0))

/-- Region index, offset and end of each stream. -/
def streamRanges (s : Shard) (n : Nat) : List (Nat × Nat × Nat) :=
  (shardStreams s n).map (fun x => (x.1.handle % 4096, x.1.off, x.1.off + x.2))

def rangesMeet (x y : Nat × Nat × Nat) : Bool := decide (x.1 = y.1 ∧ x.2.1 < y.2.2 ∧ y.2.1 < x.2.2)

def anyMeet : List (Nat × Nat × Nat) → Bool
  | [] => false
  | x :: xs => xs.any (rangesMeet x) || anyMeet xs

/-- Staging granules of 1 MiB that a shard with g_place 0 holds, and those that are free (R199). -/
def stageOf (d : Dev) (s : Shard) : Nat := if s.gPlace then 0 else ceilDiv (4 * (shardSpan d s).2) (2 ^ 20)

def stageFree (d : Dev) : Nat := 12 - d.lsn.shards.foldl (fun a e => match e.2 with | some s => a + stageOf d s | none => a) 0

/-- The descriptor that the bind fields give (R504). -/
def bindShard (p : List Byte) (world : Bool) : Shard :=
  { ctx := field p 0 2, tag := field p 2 2, blocks := field p 4 4, fmt := byteAt p 8, world := world, lesson := byteAt p 9, engines := field p 12 8,
    w := ⟨1, field p 20 4, field p 24 8⟩, s1 := ⟨byteAt p 10, field p 32 4, field p 36 8⟩, s2 := ⟨byteAt p 11, field p 44 4, field p 48 8⟩,
    gPlace := decide (byteAt p 56 = 1), g := ⟨1, field p 76 4, field p 80 8⟩, clip := decide (byteAt p 57 = 1), normBind := byteAt p 58,
    normSlot := byteAt p 59, normMask := field p 60 8, clipNorm := field p 68 4, nonfinite := decide (byteAt p 72 = 1),
    cur := List.replicate 14 0, pend := none, lastStep := 0, ran := false, status := 0, lastKey := 0, lastAtt := 0, lastEref := 0, seed := 0, flags := [] }

/-- The bind fields of a descriptor. -/
def bindBytes (s : Shard) : List Byte :=
  let st := fun (x : StreamE) => beBytes 4 x.handle ++ beBytes 8 x.off
  beBytes 2 s.ctx ++ beBytes 2 s.tag ++ beBytes 4 s.blocks ++ beBytes 1 s.fmt ++ beBytes 1 s.lesson ++ beBytes 1 s.s1.fmt ++ beBytes 1 s.s2.fmt
    ++ beBytes 8 s.engines ++ st s.w ++ st s.s1 ++ st s.s2 ++ beBytes 1 s.gPlace.toNat ++ beBytes 1 s.clip.toNat ++ beBytes 1 s.normBind
    ++ beBytes 1 s.normSlot ++ beBytes 8 s.normMask ++ beBytes 4 s.clipNorm ++ beBytes 1 s.nonfinite.toNat ++ beBytes 3 0 ++ st s.g

/-- Reserved values and ranges of the bind fields, in the order of their bytes (R195, R196, R486). -/
def bindChecks (p : List Byte) : List (Nat × Bool) :=
  let zero := fun o n => decide (field p o n = 0)
  let clip := decide (byteAt p 57 = 1)
  let x := kw (field p 68 4)
  [(0, decide (field p 0 2 < 4096)), (4, decide (64 ≤ field p 4 4 ∧ field p 4 4 ≤ 2 ^ 24)), (8, decide (1 ≤ byteAt p 8 ∧ byteAt p 8 ≤ 3)),
   (9, decide (byteAt p 9 ≤ 31)), (10, decide (byteAt p 10 ≤ 2)), (11, decide (byteAt p 11 ≤ 2)), (12, !zero 12 8), (22, handleOk (field p 20 4)),
   (32, decide (byteAt p 10 ≠ 0) || zero 32 12), (34, handleOk (field p 32 4)),
   (44, decide (byteAt p 11 ≠ 0) || zero 44 12), (46, handleOk (field p 44 4)), (56, decide (byteAt p 56 ≤ 1)),
   (57, decide (byteAt p 57 ≤ 1)), (58, decide (byteAt p 58 ≤ 15)), (59, decide (byteAt p 59 ≤ 63)),
   (68, !clip || decide (x.kind = .fin ∧ x.neg = false)), (72, decide (byteAt p 72 ≤ 1)), (73, zero 73 3),
   (76, decide (byteAt p 56 = 1) || zero 76 12), (78, handleOk (field p 76 4))]

/-- Streams of a shard that its partner does not know yet are copied in full (R463). -/
def mirWhole (d : Dev) (i : Nat) (streams : List Nat) : Dev :=
  match shardAt d i with
  | none => d
  | some s =>
    let n := (shardSpan d s).2
    streams.foldl (fun d st =>
      let bs := if st = 4 then gradBytes d i s 0 n
        else
          let x := match st with | 1 => s.w | 2 => s.s1 | _ => s.s2
          match regionOf d x.handle with
          | some (_, r) => if x.fmt = 0 then [] else regionRead d r x.off (streamBytes x.fmt n)
          | none => []
      if bs.isEmpty then d else wholePut (mirPush d (mirKey st i) 0 bs true) st i false) d

/-- Whether the partner has space for a shard is the partner's: free (R462, log 27). -/
def mirAdopt (d : Dev) (i : Nat) : Dev :=
  let f := freeNat d
  if f.1 % 2 = 1 then raise (bump { f.2 with ckp := { f.2.ckp with unmirrored := tset false f.2.ckp.unmirrored i true } } Reg.CKP_UNMIRRORED_CNT) 1006
  else mirWhole { f.2 with ckp := { f.2.ckp with unmirrored := tset false f.2.ckp.unmirrored i false } } i [1, 2, 3, 4]

/-- SHARD_BIND (R195, R196). -/
def shardBind (d : Dev) (h : CmdHdr) (p : List Byte) : Ans :=
  needLen p 88 (checks (bindChecks p) (
    let s := bindShard p h.world
    let g := groupAt d s.ctx
    let n := (shardSpan d s).2
    let rs := (shardStreams s n).map (fun x => (x, regionOf d x.1.handle))
    let others := d.lsn.shards.flatMap (fun e => match e.2 with | some o => streamRanges o (shardSpan d o).2 | none => [])
    let ranges := streamRanges s n
    let stores := lessonStores (lessonAt d s.lesson)
    if g.st ≠ 1 ∨ ¬(g.role = 2 ∨ g.role = 3) then .err St.noShard
    else if rs.any (fun x => x.2.isNone) then .err St.noRegion
    else if (g.world ∧ !h.world) ∨ rs.any (fun x => match x.2 with | some (_, r) => r.secure != h.world | none => false) then .err St.worldDenied
    else if (boundShard d s.ctx s.tag).isSome ∨ (bucketsOf d s.ctx).any (fun b => decide (kTag b.1 = s.tag)) then .err St.shardBusy
    else if rs.any (fun x => match x.2 with | some (_, r) => decide (x.1.1.off + x.1.2 > regionBytes r) | none => false)
        ∨ anyMeet ranges ∨ ranges.any (fun x => others.any (rangesMeet x)) then .err St.regionConflict
    else if stageOf d s > stageFree d then .err St.noStaging
    else if lessonAt d s.lesson = [] ∨ (stores.contains 1 ∧ s.s1.fmt = 0) ∨ (stores.contains 2 ∧ s.s2.fmt = 0) then .err St.lessonInvalid
    else match (List.range 1024).find? (fun i => (shardAt d i).isNone) with
      | none => .err St.shardTableFull
      | some i =>
        let d := shardPut d i s
        .done (if mirSending d then mirAdopt d i else d) (beBytes 2 i)))

/-- The shard that a command names, for a requester of a world. -/
def withShard (d : Dev) (i : Nat) (w : Bool) (k : Shard → Ans) : Ans :=
  if i ≥ 1024 then .bad 0
  else match shardAt d i with
    | none => .err St.noShard
    | some s => if s.world ∧ !w then .err St.worldDenied else k s

/-- SHARD_UNBIND (R196): the descriptor, its staging and its partner streams are freed. -/
def shardUnbind (d : Dev) (h : CmdHdr) (p : List Byte) : Ans :=
  needLen p 2 (withShard d (field p 0 2) h.world (fun s =>
    let i := field p 0 2
    if (bucketsOf d s.ctx).any (fun b => decide (kTag b.1 = s.tag)) then .err St.shardBusy
    else
      let mine := fun (k : Nat) => decide (k % 65536 = i ∧ 1 ≤ k / 65536 ∧ k / 65536 ≤ 4)
      let d := { d with lsn := { d.lsn with shards := tset none d.lsn.shards i none, grad := d.lsn.grad.filter (fun e => !(decide (e.1 / 2 ^ 32 = i))) } }
      .done { d with ckp := { d.ckp with outbox := d.ckp.outbox.filter (fun e => !mine e.1), outs := d.ckp.outs.filter (fun e => !mine e.1),
                                         whole := d.ckp.whole.filter (fun e => !mine e.1), unmirrored := tset false d.ckp.unmirrored i false } } []))

/-- SHARD_QUERY. -/
def shardQuery (d : Dev) (h : CmdHdr) (p : List Byte) : Ans :=
  needLen p 2 (withShard d (field p 0 2) h.world (fun s => .done d (bindBytes s ++ beBytes 1 s.world.toNat ++ [0] ++ beBytes 4 s.lastStep)))

/-- SHARD_SCALARS (R213). -/
def shardScalars (d : Dev) (h : CmdHdr) (p : List Byte) : Ans :=
  needLen p 64 (checks [(2, decide (field p 2 2 = 0))] (withShard d (field p 0 2) h.world (fun s =>
    .done (shardPut d (field p 0 2) { s with pend := some (field p 4 4, (List.range 14).map (fun i => field p (8 + 4 * i) 4)) }) [])))

/-! ## Lesson and norm commands (R206, R209) -/

/-- LESSON_LOAD (R206). -/
def lessonLoad (d : Dev) (_h : CmdHdr) (p : List Byte) : Ans :=
  if p.length < 8 then .bad p.length
  else
    let n := byteAt p 1
    checks [(0, decide (byteAt p 0 ≤ 31)), (1, decide (1 ≤ n ∧ n ≤ 64)), (2, decide (field p 2 6 = 0))] (
      needLen p (8 + 8 * n) (
        let ws := (List.range n).map (fun i => field p (8 + 8 * i) 8)
        match lessonCheck ws with
        | some i => .errX St.lessonInvalid (beBytes 1 i)
        | none =>
          if d.lsn.shards.any (fun e => match e.2 with | some s => decide (s.lesson = byteAt p 0) | none => false) then .err St.lessonBusy
          else .done { d with lsn := { d.lsn with slots := tset [] d.lsn.slots (byteAt p 0) ws } } []))

/-- LESSON_QUERY. -/
def lessonQuery (d : Dev) (_h : CmdHdr) (p : List Byte) : Ans :=
  needLen p 1 (checks [(0, decide (byteAt p 0 ≤ 31))] (
    let ws := lessonAt d (byteAt p 0)
    .done d (beBytes 1 ws.length ++ beBytes 3 0 ++ beBytes 4 (crc32c (lessonBytes ws)) ++ lessonBytes ws)))

/-- NORM_BIND (R209). -/
def normBind (d : Dev) (h : CmdHdr) (p : List Byte) : Ans :=
  needLen p 8 (checks [(0, decide (byteAt p 0 ≤ 15)), (1, decide (byteAt p 1 % 128 = 0)), (2, decide (field p 2 2 < 4096)), (6, decide (field p 6 2 = 0))] (
    let g := groupAt d (field p 2 2)
    if !bit (byteAt p 1) 7 then .done (normPut d (byteAt p 0) Norm.free) []
    else if g.st = 0 then .err St.noSuchGroup
    else if !groupWorldOk g h.world then .err St.worldDenied
    else if !g.slots.any (fun s => !s.child && (decide (s.prim = mgmtCoord d) || decide (s.sub = mgmtCoord d))) then .err St.notMember
    else .done (normPut d (byteAt p 0) { Norm.free with valid := true, ctx := field p 2 2, tag := field p 4 2 }) []))

/-! ## The norm pass (R209, R210) -/

def runOf (d : Dev) (i : Nat) : Option Run := d.lsn.runs.find? (fun r => decide (r.shard = i))
def runMod (d : Dev) (i : Nat) (f : Run → Run) : Dev := { d with lsn := { d.lsn with runs := lmodFirst (fun r => decide (r.shard = i)) f d.lsn.runs } }

/-- Shards bound to a norm binding. -/
def bindingShards (d : Dev) (n : Nat) : List Nat :=
  d.lsn.shards.filterMap (fun e => match e.2 with | some s => if s.clip ∧ s.normBind = n then some e.1 else none | none => none)

/-- The norm bucket of a binding and step, if it is in the table. -/
def normBucket (d : Dev) (n : Norm) (step : Nat) : Option (Nat × Bucket) :=
  (bucketsOf d n.ctx).find? (fun b => decide (kTag b.1 = n.tag ∧ bStep b.2 = step ∧ bOp b.2 = 7))

/-- Open the norm bucket (R210): operation NORM, KF32, 1 block, sent to this switch itself. -/
def normOpen (d : Dev) (n : Norm) (step : Nat) : Dev :=
  let g := groupAt d n.ctx
  let t := d.cmd.nextTag % 2 ^ 32
  let me := mgmtCoord d
  let p := beBytes 2 n.ctx ++ beBytes 2 g.epoch ++ beBytes 2 n.tag ++ [7, 0, 1, 0] ++ beBytes 4 1 ++ beBytes 4 step ++ List.replicate 34 0
  let f := cmdFrame d me 4 0x0101 (if g.world then 0x80 else 0) t 0 0 p
  originate { d with cmd := { d.cmd with nextTag := d.cmd.nextTag + 1, sent := d.cmd.sent ++ [⟨me, t, 0x0101, 0⟩] } } f

/-- E_ref of an entry (R209). -/
def normEref (d : Dev) (n : Norm) (slot : Nat) : Int :=
  let rm := tget 0xFFFF n.hist slot
  if rm = 0xFFFF then (groupAt d n.ctx).eref else erefOf rm

/-- One lane's square into the entry: sum, RM16, flags. -/
def normAdd (s : Int) (a : Kz × Nat × Nat) (w : Nat) : Kz × Nat × Nat :=
  let p := mulKf false false (canon w) (canon w)
  let x := kw p.1
  let k := toKz x s 111
  let r := kzAdd a.1 k.1
  (r, max a.2.1 (rm16Of x), a.2.2 ||| (decodeKf32 w).2 ||| p.2 ||| k.2)

/-- NORM_PASS_DONE: the pass of a shard whose run is in NORM ends. -/
def normPassDone (d : Dev) (i : Nat) : Dev :=
  match runOf d i, shardAt d i with
  | some r, some s => match bucketAt d r.key with
    | none => d
    | some b =>
      let n := normAt d s.normBind
      let count := (shardSpan d s).2
      let lost := s.gPlace && (match regionOf d s.g.handle with | some (_, x) => regionPoisoned d x s.g.off (4 * count) | none => true)
      if !running d ∨ r.st ≠ .norm ∨ r.normed ∨ !n.valid ∨ lost then d
      else
        let step := bStep b
        let n := if n.step = step then n else { n with sums := [], hist := n.rm, rm := [], step := step, shards := [], sent := false, flags := 0 }
        let first := n.shards.isEmpty
        let gs := gradBytes d i s 0 count
        let rm0 := tget 0xFFFF n.rm s.normSlot
        let a := (List.range count).foldl (fun a j => normAdd (s128 (normEref d n s.normSlot)) a (field gs (4 * j) 4))
          (tget Kz.zero n.sums s.normSlot, if rm0 = 0xFFFF then 0 else rm0, n.flags)
        let n := { n with sums := tset Kz.zero n.sums s.normSlot a.1, rm := tset 0xFFFF n.rm s.normSlot a.2.1, flags := a.2.2, shards := n.shards ++ [i] }
        let d := runMod (normPut d s.normBind n) i (fun r => { r with normed := true })
        if first ∧ (normBucket d n step).isNone then normOpen d n step else d
  | _, _ => d

/-- The contribution of a binding (R210): once every shard bound to it has passed and the norm bucket is open, one block to a converter of this
switch (log 28). -/
def normSend (d : Dev) (i : Nat) : Dev :=
  let n := normAt d i
  let all := bindingShards d i
  if !n.valid ∨ n.sent ∨ all.isEmpty ∨ !all.all (fun j => n.shards.contains j) then d
  else match normBucket d n n.step with
    | none => d
    | some (k, b) =>
      if b.st ≠ .opened then d
      else
        let es := (List.range 64).map (fun j => encodeKf32 (kzNum (tget Kz.zero n.sums j) (s128 (normEref d n j))))
        let st := es.foldl (fun a e => a ||| e.2) (sticky n.flags ||| invOf (n.sums.map (·.2)))
        let blk := mkBlock (es.flatMap (fun e => beBytes 4 e.1)) st 0 0 1 0
        let f := mkPass 1 1 (mgmtCoord d) (mgmtCoord d) k b.attempt false [blk]
        let a := poolAlloc d 0 0 (gransOf (fLen f))
        if !a.1 then a.2
        else
          let p : ConvPass := ⟨0, f.take 32, [blk], gransOf (fLen f), ns d⟩
          normPut { a.2 with seq := { a.2.seq with conv := a.2.seq.conv ++ [p] } } i { n with sent := true }

/-! ## Start of a run (R208, R211 to R213) -/

/-- N and the clip factor (R211). -/
def clipOf (s : Shard) (sums : List Nat) : Nat × Nat :=
  let n := (setBits 64 s.normMask).foldl (fun a k => (addKf a (sums.getD k 0)).1) 0
  (n, minKf kOne (mulKf false false s.clipNorm (rsqrtKf n).1).1)

/-- The result of a run's norm bucket, once it is inked. -/
def normKnown (d : Dev) (r : Run) (s : Shard) : Option (List Nat) :=
  let n := normAt d s.normBind
  match bucketAt d r.key, n.result with
  | some b, some (st, ws) => if st = bStep b ∧ n.inked = some st then some ws else none
  | _, _ => none

/-- A run whose norm bucket is inked leaves NORM for READY, with N and the clip factor (R208, R211). -/
def normReady (d : Dev) (r : Run) : Dev :=
  match shardAt d r.shard with
  | none => d
  | some s => match normKnown d r s with
    | none => d
    | some ws =>
      if r.st ≠ .norm ∨ !r.normed then d
      else
        let d := runMod d r.shard (fun r => { r with st := .ready, ord := d.lsn.ord, clip := clipOf s ws })
        { d with lsn := { d.lsn with ord := d.lsn.ord + 1 } }

/-- What norm bindings owe at any moment: contributions, and runs that become READY. -/
def normSweep (d : Dev) : Dev :=
  if d.lsn.norms.isEmpty then d
  else
    let d := (List.range 16).foldl normSend d
    d.lsn.runs.foldl normReady d

/-- The recorded RUN entry that a run follows under replay (R271). -/
def runRecord (d : Dev) (i : Nat) (b : Bucket) : Option (List Byte) :=
  if polReplay b.grp.policy then replayFind d [7, i, bStep b] else none

/-- RUN_START: a READY run, or one handled as SKIP, takes its scalars, switches tables and appends its RUN record. -/
def runStart (d : Dev) (i : Nat) : Dev :=
  match runOf d i, shardAt d i with
  | some r, some s => match bucketAt d r.key with
    | none => d
    | some b =>
      let step := bStep b
      let waits := decide (r.st = .norm) || decide (r.st = .running) || (decide (r.st = .skip) && !r.s.isEmpty)
      if !running d ∨ !fbit d Reg.LSN_CTRL Fd.LSN_CTRL_run_en ∨ waits then d
      else
        let c := r.clip
        let bad := s.clip && ((isNan c.1) || c.1 == kInf)
        let rec' := runRecord d i b
        let skip : Bool := match rec' with
          | some e => decide (byteAt e 31 = 1)
          | none => decide (r.st = .skip) || (bad && s.nonfinite)
        let s := match s.pend with
          | some (from', t) => if from' ≤ step then { s with cur := t, pend := none } else s
          | none => s
        let tbl := match rec' with
          | some e => (List.range 14).map (fun j => field e (36 + 4 * j) 4)
          | none => s.cur
        let sc := tbl ++ [c.2, (encodeKf32 (ofInt (step : Nat))).1, c.1]
        let body := beBytes 2 i ++ beBytes 1 s.lesson ++ beBytes 1 skip.toNat ++ beBytes 4 (crc32c (lessonBytes (lessonAt d s.lesson)))
          ++ sc.flatMap (beBytes 4)
        let er := if inMetro b.grp then b.mEref else b.eref
        let d := append d 0x07 (kCtx r.key) (kEpoch r.key) step body
        let d := shardPut d i { s with lastStep := step, ran := true, status := if skip then 1 else 0, lastKey := r.key, lastAtt := r.att, lastEref := er,
                                       seed := b.seed, flags := [] }
        let d := if partnerState d = 2 then [1, 2, 3].foldl (fun d st => wholePut d st i false) d else d
        let d := runMod (bump d Reg.LSN_RUN_CNT) i (fun r => { r with st := if skip then .skip else .running, s := sc, wait := ns d })
        let d := if skip then bump d Reg.LSN_SKIP_CNT else d
        if skip ∧ r.st ≠ .skip then raise d 872 else d
  | _, _ => d

/-! ## Rows (R201, R207, R214, R466) -/

def shardRows (d : Dev) (s : Shard) : Nat := (shardSpan d s).2 / 64

/-- Elements of a row in a stream, as KF32 words, with the flags of a KF16 stream; an absent stream reads +0. -/
def rowIn (d : Dev) (x : StreamE) (k : Nat) : List Nat × Nat :=
  match x.fmt, regionOf d x.handle with
  | 0, _ => (List.replicate 64 0, 0)
  | _, none => (List.replicate 64 0, 0)
  | 1, some (_, r) => let bs := regionRead d r (x.off + 256 * k) 256; ((List.range 64).map (fun j => field bs (4 * j) 4), 0)
  | _, some (_, r) =>
    let bs := regionRead d r (x.off + 128 * k) 128
    let es := (List.range 64).map (fun j => decodeKf16 (field bs (2 * j) 2))
    (es.map (fun e => (encodeKf32 e.1).1), es.foldl (fun a e => a ||| e.2) 0)

/-- Whether a line that row k needs is lost (R214). -/
def rowLost (d : Dev) (s : Shard) (k : Nat) : Bool :=
  (shardStreams s 64).any (fun x => match regionOf d x.1.handle with
    | some (_, r) => regionPoisoned d r (x.1.off + x.2 * k) x.2
    | none => true)

/-- Streams that the shard's lesson stores, by mirror stream number, with their element size. -/
def mirStreams (d : Dev) (s : Shard) : List (Nat × Nat) :=
  (lessonStores (lessonAt d s.lesson)).map (fun x => match x with
    | 0 => (1, 4)
    | 1 => (2, if s.s1.fmt = 1 then 4 else 2)
    | _ => (3, if s.s2.fmt = 1 then 4 else 2))

/-- Whether the partner lets row k of a run start (R466). -/
def rowGate (d : Dev) (i : Nat) (s : Shard) (r : Run) (k : Nat) : Bool :=
  if partnerState d ≠ 2 ∨ !fbit d Reg.CKP_CTRL Fd.CKP_CTRL_gate_en ∨ !shardMirrored d i then true
  else if r.next = 0 ∧ r.redo = [] then [1, 2, 3].all (fun st => mirDone d (mirKey st i))
  else if k < 4096 then true
  else (mirStreams d s).all (fun x => tget false d.ckp.whole (mirKey x.1 i) || decide (64 * x.2 * (k - 4095) ≤ mirPos d (mirKey x.1 i)))

/-- Whether a checkpoint holds a run back until the shard is copied (R470). -/
def ckptHolds (d : Dev) (i step : Nat) : Bool := match d.ckp.running with
  | some c => c.shards.contains i && decide (c.step < step)
  | none => false

/-- The next row of a run for engine e: rows to run again first, then new rows; new rows whose lines are lost are put aside. -/
def nextRow (d : Dev) (i e : Nat) (s : Shard) : Nat → Run → Option (Nat × Run)
  | 0, _ => none
  | fuel + 1, r =>
    match ltake (fun x => decide (x.2 ≠ e ∨ s.engines = 2 ^ e) && !rowLost d s x.1 && rowGate d i s { r with next := max 1 r.next } x.1) r.redo with
    | some (x, rest) => some (x.1, { r with redo := rest })
    | none =>
      if r.next ≥ shardRows d s ∨ !rowGate d i s r r.next then none
      else if rowLost d s r.next then nextRow d i e s fuel { r with redo := r.redo ++ [(r.next, 64)], next := r.next + 1 }
      else some (r.next, { r with next := r.next + 1 })

def engState (d : Dev) (e : Nat) : Nat := fget d (Reg.LSN_ENG_STATUS e) Fd.LSN_ENG_STATUS_state
def engTo (d : Dev) (e s : Nat) : Dev := fset d (Reg.LSN_ENG_STATUS e) Fd.LSN_ENG_STATUS_state s
def engRow (d : Dev) (e : Nat) : Option EngRow := tget none d.lsn.eng e
def engPut (d : Dev) (e : Nat) (x : Option EngRow) : Dev :=
  let d := { d with lsn := { d.lsn with eng := tset none d.lsn.eng e x } }
  let d := fset d (Reg.LSN_ENG_STATUS e) Fd.LSN_ENG_STATUS_busy (if x.isSome then 1 else 0)
  fset d (Reg.LSN_ENG_STATUS e) Fd.LSN_ENG_STATUS_shard (match x with | some r => r.shard | none => 0)

def draining1 (d : Dev) (kind : FtKind) (u : Nat) : Bool := d.int.drains.any (fun x => decide (x.1 = kind ∧ x.2.1 = u))

/-- The oldest running run that has a row for engine e. -/
def pickRun (d : Dev) (e : Nat) : Option (Nat × Nat × Run) :=
  let rs := d.lsn.runs.filter (fun r => decide (r.st = .running))
  let rs := rs.foldl (fun (a : List Run) r => (a.takeWhile (fun x => decide (x.ord ≤ r.ord))) ++ r :: (a.dropWhile (fun x => decide (x.ord ≤ r.ord)))) []
  rs.findSome? (fun r => match shardAt d r.shard with
    | none => none
    | some s =>
      if !s.engines.testBit e ∨ ckptHolds d r.shard s.lastStep then none
      else (nextRow d r.shard e s (shardRows d s + 1) r).map (fun x => (r.shard, x.1, x.2)))

/-- ENGINE_ROW_START: a free engine in ACTIVE takes a row. -/
def engineRowStart (d : Dev) (e : Nat) : Dev :=
  if !running d ∨ engState d e ≠ 0 ∨ (engRow d e).isSome ∨ draining1 d .engine e then d
  else match pickRun d e with
    | none => d
    | some (i, k, r) => runMod (engPut d e (some ⟨i, k⟩)) i (fun _ => { r with wait := ns d })

/-- A row computed: its lanes, and the flags of narrow streams. -/
def rowRun (d : Dev) (i : Nat) (s : Shard) (r : Run) (k : Nat) : LRow :=
  let e := (shardSpan d s).1 + 64 * k
  let gs := gradBytes d i s (64 * k) 64
  let x1 := rowIn d s.s1 k
  let x2 := rowIn d s.s2 k
  let t := fun idx j => toss s.seed (kTag r.key) s.lastStep (e + j) (idx + 1)
  let o := lessonRow (lessonAt d s.lesson) r.s t ((List.range 64).map (fun j => field gs (4 * j) 4)) (rowIn d s.w k).1 x1.1 x2.1
  { o with flags := o.flags ||| x1.2 ||| x2.2 }

/-- A store of a row into its stream (R204, R463): answers the flags of its narrowing. -/
def rowStore (d : Dev) (i : Nat) (s : Shard) (k : Nat) (st : Nat × List Nat) : Nat × Dev :=
  let x := match st.1 with | 0 => s.w | 1 => s.s1 | _ => s.s2
  match regionOf d x.handle with
  | none => (0, d)
  | some (_, r) =>
    let es := st.2.map (fun w => if x.fmt = 2 then let e := encodeKf16 (kw w) none; (beBytes 2 e.1, e.2) else (beBytes 4 w, 0))
    let bs := es.flatMap (·.1)
    let off := bs.length * k
    let d := regionWrite d r (x.off + off) bs
    let last := decide (k + 1 = shardRows d s)
    (es.foldl (fun a e => a ||| e.2) 0, if mirRows d (st.1 + 1) i then mirPush d (mirKey (st.1 + 1) i) off bs last else d)

/-! ## Publication (R215 to R218) -/

/-- PUB format of a lesson as a block format. -/
def pubFmt (rf : Nat) : Nat := match rf with | 0 => 1 | 1 => 2 | _ => 3

/-- The unit of elements that is sent at once: a block, or the 32 blocks of a KB8 scale block; its first element and end, within the shard. -/
def pubUnit (span : Nat × Nat) (fmt e : Nat) : Nat × Nat :=
  let u := if fmt = 3 then 8192 else fmtElems fmt
  (max span.1 (e / u * u), min (span.1 + span.2) (e / u * u + u))

/-- One published block from its words (R59, R215), with its scale bytes; STOCH where the lesson narrowed them in toss mode. -/
def pubBlock (fmt seq flags : Nat) (tossed : Bool) (er : Int) (ws : List Nat) : List Nat × List Byte :=
  let mk := fun bytes f => mkBlock bytes (Fl.result ||| (if tossed then Fl.stoch else 0) ||| sticky (flags ||| f)) seq (unsigned 16 er) fmt 0xFF
  if fmt = 3 then
    let gs := (List.range 8).map (fun g => kb8Group ((List.range 32).map (fun j => (kw (ws.getD (32 * g + j) 0), none))))
    (gs.map (·.1.1), mk (gs.flatMap (fun g => g.1.2.map (BitVec.ofNat 8))) (gs.foldl (fun a g => a ||| g.2) 0))
  else if fmt = 2 then
    let es := ws.map (fun w => encodeKf16 (kw w) none)
    ([], mk (es.flatMap (fun e => beBytes 2 e.1)) (es.foldl (fun a e => a ||| e.2) 0))
  else ([], mk (ws.flatMap (beBytes 4)) 0)

/-- Blocks of elements from `e` on: sequences with words and flags by sequence; ahead of KB8 blocks their scale block (R45), whose
status is RESULT alone and whose bytes for blocks outside the unit are 0 (log 46). -/
def pubBlocks (fmt e : Nat) (tossed : Bool) (er : Int) (ws : List Nat) (fl : Nat → Nat) : List (List Byte) :=
  let n := fmtElems fmt
  let bs := (List.range (ceilDiv ws.length n)).map (fun j => let q := e / n + j; (q, pubBlock fmt q (fl q) tossed er ((ws.drop (n * j)).take n)))
  let data := bs.map (·.2.2)
  if fmt = 3 then
    let base := e / n / 32 * 32
    let bytes := (List.range 32).flatMap (fun j => match bs.find? (fun b => decide (b.1 = base + j)) with
      | some b => b.2.1.map (BitVec.ofNat 8)
      | none => List.replicate 8 0)
    mkBlock bytes Fl.result base (unsigned 16 er) 4 0xFF :: data
  else data

/-- Words that the lesson publishes for stored weights from element e on, read as R41 states: its CVT, if any, with the same toss inputs (R216). -/
def pubStored (d : Dev) (s : Shard) (cvt : Option Nat) (e n : Nat) : List Nat × Nat :=
  let e0 := (shardSpan d s).1
  let ws := (List.range (ceilDiv n 64)).flatMap (fun j => (rowIn d s.w ((e - e0) / 64 + j)).1)
  let ws := ws.take n
  let seen := ws.foldl (fun a w => a ||| (decodeKf32 w).2) 0
  match cvt with
  | none => (ws.map canon, seen)
  | some idx =>
    let r := cvtRow (liRf ((lessonAt d s.lesson).getD idx 0)) (fun j => toss s.seed (kTag s.lastKey) s.lastStep (e + j) (idx + 1)) (ws.map canon)
    (r.1, seen ||| r.2)

/-- Send published blocks of a chunk to the fan-out and the other METRO_OWNERs (R215). -/
def pubSend (d : Dev) (k att c : Nat) (blocks : List (List Byte)) : Option Dev :=
  let g := groupAt d (kCtx k)
  let g := match bucketAt d k with | some b => b.grp | none => g
  let o := multicastAll d k att 48 (chunkCorr k c) 3 3 (pubMark k att) (fanTo d g) blocks
  (otherOwners (kCtx k) g).foldl (fun (o : Option Dev) w => o.bind (fun d =>
    (pieces 8 (blocks.length + 1) blocks).foldl (fun (o : Option Dev) ps => o.bind (fun d => sendPass d k att 48 (chunkCorr k c) 3 3 w.2 (some (pubMark k att)) ps)) (some d))) o

/-- Mark the blocks of a unit as published, with the flags of their elements; bit 0 tells published from not. -/
def pubMarked (s : Shard) (fmt e n : Nat) (fl : Nat → Nat) : Shard :=
  let el := fmtElems fmt
  (List.range (ceilDiv n el)).foldl (fun s j => { s with flags := tset 0 s.flags (e / el + j) (fl (e / el + j) ||| 1) }) s

/-- Send the unit of a row, when every row of it has run; the rows leave the list. -/
def pubTry (d : Dev) (i : Nat) (row : Nat) : Dev :=
  match runOf d i, shardAt d i with
  | some r, some s => match lessonPub (lessonAt d s.lesson) with
    | none => d
    | some (rf, _) =>
      let fmt := pubFmt rf
      let span := shardSpan d s
      let u := pubUnit span fmt (span.1 + 64 * row)
      let rows := (List.range ((u.2 - u.1) / 64)).map (fun j => (u.1 - span.1) / 64 + j)
      let got := rows.map (fun k => r.pubs.find? (fun x => decide (x.1 = k)))
      if !got.all (·.isSome) then d
      else
        let ws := got.flatMap (fun x => match x with | some y => y.2.1 | none => [])
        let el := fmtElems fmt
        let fl := fun q => (List.range (max 1 (el / 64))).foldl (fun a j => match r.pubs.find? (fun x => decide (x.1 = (q * el - span.1) / 64 + j)) with
          | some y => a ||| y.2.2
          | none => a) 0
        let bs := pubBlocks fmt u.1 (lessonToss (lessonAt d s.lesson)) s.lastEref ws fl
        match pubSend d r.key r.att (u.1 / (64 * fmtElems s.fmt)) bs with
        | none => quotaRefused d
        | some d =>
          let d := shardPut (bump d Reg.LSN_PUB_BLOCK_CNT bs.length) i (pubMarked s fmt u.1 (u.2 - u.1) fl)
          runMod d i (fun r => { r with pubs := r.pubs.filter (fun x => !(rows.contains x.1)) })
  | _, _ => d

/-- Under SKIP the stored weights are published, unit by unit (R212, R216); `next` counts elements. -/
def skipTry : Nat → Dev → Nat → Dev
  | 0, d, _ => d
  | n + 1, d, i =>
    match runOf d i, shardAt d i with
    | some r, some s => match lessonPub (lessonAt d s.lesson) with
      | none => d
      | some (rf, cvt) =>
        let fmt := pubFmt rf
        let span := shardSpan d s
        let u := pubUnit span fmt (span.1 + r.next)
        let lost : Bool := match regionOf d s.w.handle with
          | some (_, x) => regionPoisoned d x (s.w.off + 4 * (u.1 - span.1)) (4 * (u.2 - u.1))
          | none => true
        if r.st ≠ .skip ∨ r.s = [] ∨ r.next ≥ span.2 ∨ lost then d
        else
          let w := pubStored d s cvt u.1 (u.2 - u.1)
          let bs := pubBlocks fmt u.1 (lessonToss (lessonAt d s.lesson)) s.lastEref w.1 (fun _ => w.2)
          match pubSend d r.key r.att (u.1 / (64 * fmtElems s.fmt)) bs with
          | none => quotaRefused d
          | some d =>
            let d := shardPut (bump d Reg.LSN_PUB_BLOCK_CNT bs.length) i (pubMarked s fmt u.1 (u.2 - u.1) (fun _ => w.2))
            skipTry n (runMod d i (fun r => { r with next := u.2 - span.1 })) i
    | _, _ => d

/-- Whether a run has done all its rows and sent all it publishes (R217). -/
def runDone (d : Dev) (r : Run) : Bool :=
  match shardAt d r.shard with
  | none => true
  | some s =>
    let pubs := (lessonPub (lessonAt d s.lesson)).isSome
    if r.st = .skip then !r.s.isEmpty && (!pubs || decide (r.next ≥ (shardSpan d s).2))
    else decide (r.st = .running) && decide (r.done = shardRows d s) && r.pubs.isEmpty

/-- Whether the publication that the INK of a bucket waits for has been sent, of this switch's run and of every other owner's (R217). -/
def pubComplete (d : Dev) (k : Nat) : Bool :=
  match bucketAt d k with
  | none => true
  | some b => match b.shard with
    | none => true
    | some i => match shardAt d i with
      | none => true
      | some s =>
        let own := match runOf d i with | some r => decide (r.key ≠ k) || runDone d r | none => true
        own && (!inMetro b.grp || (lessonPub (lessonAt d s.lesson)).isNone || decide (b.pubElems + (shardSpan d s).2 ≥ totalElems b))

/-- A bucket whose run has ended and whose publication has left the device retires (R134, R217). That of a REDUCE_TO_SHARD takes in what every owner
publishes, since its INK waits for it. -/
def pubRetire (d : Dev) (k : Nat) : Dev :=
  match bucketAt d k with
  | none => d
  | some b =>
    if b.st ≠ .inked ∨ d.lsn.runs.any (fun r => decide (r.key = k)) ∨ passWaits d none (pubMark k b.attempt) ∨ (outOp b = 4 ∧ !pubComplete d k) then d
    else retire d k

/-- A run whose publication has left ends, and its bucket retires. -/
def runEnd (d : Dev) (r : Run) : Dev :=
  if !runDone d r ∨ passWaits d none (pubMark r.key r.att) then d
  else
    let d := { d with lsn := { d.lsn with runs := d.lsn.runs.filter (fun x => !(decide (x.shard = r.shard))) } }
    let d := if mirSending d ∧ shardMirrored d r.shard ∧ r.st = .running then
        mirWhole d r.shard ([1, 2, 3].filter (fun st => decide (partnerState d = 1) || tget false d.ckp.whole (mirKey st r.shard)))
      else d
    pubRetire d r.key

/-- Blocks that a republication owes are sent, in order, as far as the quota takes them (R36, R216). -/
def owedSend : Nat → Dev → Dev
  | 0, d => d
  | n + 1, d => match d.lsn.owed with
    | [] => d
    | o :: rest => match sendPass d o.key o.att 48 o.corr 3 3 o.dst none o.blocks with
      | none => quotaRefused d
      | some d => owedSend n { d with lsn := { d.lsn with owed := rest } }

/-- What runs owe at any moment: publication that a refused quota held back, their end, and that of buckets that awaited other owners. -/
def runSweep (d : Dev) : Dev :=
  let d := owedSend d.lsn.owed.length d
  let d := d.seq.buckets.foldl (fun d e => match e.2 with
    | some b => if b.st = .inked then pubRetire d e.1 else d
    | none => d) d
  d.lsn.runs.foldl (fun d r =>
    let d := if r.st = .skip then (match shardAt d r.shard with | some s => skipTry ((shardSpan d s).2 / 64 + 1) d r.shard | none => d)
      else r.pubs.foldl (fun d x => pubTry d r.shard x.1) d
    match runOf d r.shard with
    | some r => runEnd d r
    | none => d) d

/-- Bench an engine whose check failed (R207). -/
def benchEngine (d : Dev) (e : Nat) (f : Nat × Nat) : Dev := unitFault (engTo d e 1) (Reg.LSN_ENG_FAULT e) f (808 + e)

/-- What the checks of a row's lanes meet (R207): the residue check bits of a product or a sum that change, the two copies of a class that differ. -/
def laneFault (u : Upset) : Option (Nat × Nat) := match u with
  | .flip _ x => if x = 0 then none else some Fd.LSN_ENG_FAULT_residue_fail
  | .cls x => if x = 0 then none else some Fd.LSN_ENG_FAULT_class_mismatch
  | .sram => some Fd.LSN_ENG_FAULT_residue_fail
  | .none | .corrected => none

/-- ENGINE_ROW_COMPLETE (R207): `u` is what the lanes' checks met. -/
def engineRowComplete (d : Dev) (e : Nat) (u : Upset) : Dev :=
  match engRow d e with
  | none => d
  | some x =>
    if !running d then d
    else
      let d := engPut (countCe d u) e none
      match runOf d x.shard, shardAt d x.shard with
      | some r, some s =>
        match laneFault u with
        | some f =>
          let d := benchEngine (bump d Reg.LSN_ROW_RETRY_CNT) e f
          runMod (if f = Fd.LSN_ENG_FAULT_class_mismatch then queueTest d .engine e false else d) x.shard (fun r => { r with redo := r.redo ++ [(x.row, e)], wait := ns d })
        | none =>
          if rowLost d s x.row then runMod d x.shard (fun r => { r with redo := r.redo ++ [(x.row, 64)] })
          else
            let o := rowRun d x.shard s r x.row
            let w := o.stores.foldl (fun (a : Nat × Dev) st => let y := rowStore a.2 x.shard s x.row st; (a.1 ||| y.1, y.2)) (o.flags, d)
            runMod w.2 x.shard (fun r => { r with done := r.done + 1, wait := ns d, pubs := match o.pub with
              | some (_, ws) => r.pubs ++ [(x.row, ws, sticky w.1)]
              | none => r.pubs })
      | _, _ => d

/-- ENGINE_KAT_END (R207). -/
def engineKatEnd (d : Dev) (e : Nat) (pass : Bool) : Dev :=
  if ¬(engState d e = 1 ∨ engState d e = 2) ∨ ftHas d .engine e then d
  else if pass then engTo d e 0
  else unitFault (engTo d e 3) (Reg.LSN_ENG_FAULT e) Fd.LSN_ENG_FAULT_kat_fail (808 + e)

/-- RUN_STALL_TIMEOUT (R214). -/
def runStall (d : Dev) (i : Nat) : Dev :=
  match runOf d i, shardAt d i with
  | some r, some s =>
    let rows := decide (r.st = .ready) || (decide (r.st = .running) && (!r.redo.isEmpty || decide (r.next < shardRows d s)))
    if r.noted ∨ !rows ∨ ns d < r.wait + fget1 d Reg.LSN_CTRL Fd.LSN_CTRL_stall_ticks * tickLen d then d
    else raise (runMod d i (fun r => { r with noted := true })) 874
  | _, _ => d

/-- SHARD_REPUBLISH (R216): the published blocks of a range, to the requester; what the multicast quota refuses follows when it takes it. -/
def shardRepublish (d : Dev) (h : CmdHdr) (p : List Byte) : Ans :=
  needLen p 16 (checks [(2, decide (field p 2 2 = 0))] (withShard d (field p 0 2) h.world (fun s =>
    match lessonPub (lessonAt d s.lesson) with
    | none => .err St.pubGone
    | some (rf, cvt) =>
      let fmt := pubFmt rf
      let el := fmtElems fmt
      let span := shardSpan d s
      let first := field p 8 4
      let count := field p 12 4
      if !s.ran ∨ s.lastStep ≠ field p 4 4 then .err St.pubGone
      else if first * el < span.1 ∨ (first + count) * el ≥ span.1 + span.2 + el then .bad 8
      else
        let qs := ((List.range count).map (fun j => first + j)).filter (fun q =>
          bit (tget 0 s.flags q) 0 && !(match regionOf d s.w.handle with
            | some (_, x) => regionPoisoned d x (s.w.off + 4 * (q * el - span.1)) (4 * el)
            | none => true))
        let units := qs.foldl (fun (a : List (Nat × Nat)) q => let u := pubUnit span fmt (q * el); if a.contains u then a else a ++ [u]) []
        let d := units.foldl (fun d u =>
          let w := pubStored d s cvt u.1 (u.2 - u.1)
          let bs := pubBlocks fmt u.1 (lessonToss (lessonAt d s.lesson)) s.lastEref w.1 (fun q => tget 0 s.flags q)
          let keep := bs.filter (fun b => decide (blkFmt b = 4) || qs.contains (blkSeq b))
          let new := (pieces 8 (keep.length + 1) keep).map (fun ps => (⟨s.lastKey, s.lastAtt, h.src.toNat, chunkCorr s.lastKey (u.1 / (64 * fmtElems s.fmt)), ps⟩ : Owed))
          { d with lsn := { d.lsn with owed := d.lsn.owed ++ new } }) d
        .done (owedSend d.lsn.owed.length (bump d Reg.LSN_REPUBLISH_CNT)) [])))

end Sys2Proof.Machine
end

