-- ==== Sys2Proof/Machine/Ingress.lean ====
section
/-! DEFINITION. Frames that arrive (09, 10, 13 R434): the frame check, policing, the stamping switch, delivery to units, in-order delivery,
transit; corridors; echoes; and the writes that set up ports, gates and mirrors. -/

namespace Sys2Proof.Machine

/-- Arrival port as a path (R495). -/
def viaPort (p : Nat) : Via := .port (BitVec.ofNat 7 p)

def viaNum (v : Via) : Nat := match v with
  | .port p => p.toNat
  | _ => 127

/-! ## Frames that cross or reach this switch -/

/-- A frame takes pool granules of the transit class (R35) and leaves toward its next hop; its mirror sessions copy it as received, sharing its
granules (R36, R341). -/
def forward (d : Dev) (st p : Nat) (b : List Byte) (colour : Nat) (hits : List Nat) (raw : List Byte) : Dev :=
  let g := gransOf (fLen b)
  let a := poolAlloc d 1 st g
  if !a.1 then hits.foldl (fun d m => mirrorCopy d m raw colour none) a.2
  else
    let bf := if hits.isEmpty then (none, a.2) else let r := bufNew a.2 1 g 1; (some r.1, r.2)
    let d := hits.foldl (fun d m => mirrorCopy d m raw colour bf.1) bf.2
    let g' := if bf.1.isSome then 0 else g
    sendFrom d st (.port p) b colour 1 g' bf.1 false false none

/-- A reply that holds no pool granule (R494). -/
def replyFree (d : Dev) (r : ReplyTo) (status : Nat) : Dev :=
  let b := padMin 56 (cmdFrame d r.dst r.vc r.opcode ((if r.world then 0x80 else 0) + 0x40) r.tag r.part status (timeBytes d))
  let s := stamp (countReply d status) b
  sendFrom s.2 stMgmt (.port 127) s.1 0 3 0 none false true none

/-- The pool refuses a frame for the management station (R489, R494). -/
def mgmtRefused (d : Dev) (via : Via) (b : List Byte) : Dev :=
  if fKind b = 5 ∧ !bit (byteAt b 18) 6 ∧ !isNotice (field b 16 2) then
    replyFree (bump d Reg.CMD_QFULL_CNT) (replyOf (cmdOf via b 0)) St.cmdQueueFull
  else bump d Reg.CMD_DROP_CNT

/-- A frame for the management station takes command granules and a corridor (R489, R494). -/
def toMgmt (d : Dev) (st p : Nat) (b : List Byte) : Dev :=
  let g := gransOf (fLen b)
  let a := poolAlloc d 3 st g
  if a.1 then slotsFor a.2 (corrOf b (.port p) 127) st stMgmt (fLen b) (.mgmt (viaPort p) b g)
  else mgmtRefused a.2 (viaPort p) b

/-- Class of the granules that a frame for this switch holds on its way (R35). -/
def hereClass (d : Dev) (b : List Byte) : Nat := if fDst b = mgmtCoord d then 3 else 1

/-- Converter that serves a link (R440): its own, or the next of the port station that is not fenced. -/
def convOf (d : Dev) (l : Nat) : Option Nat :=
  (List.range 8).findSome? (fun i => let c := l / 8 * 8 + (l + i) % 8; if tget false d.int.iFenced c then none else some c)

/-- A VC1 or VC2 contribution pass (R22, R31, R180): it waits for its converter under the reduction quota; a VC2 pass whose bucket is not
open waits in HBM. Where no converter of the station is in service, each block fails its check (R440). -/
def contribIn (d : Dev) (l : Nat) (b : List Byte) : Dev :=
  let k := passKey b
  let blocks := frameBlocks b
  match convOf d l with
  | none => blocks.foldl (fun d _ => failBlock d l k (passAtt b) (fSrc b) (fVc b)) d
  | some c =>
    let hdr := b.take 32
    let opened := match bucketAt d k with | some x => decide (x.st ≠ .pending) | none => false
    if fVc b = 2 ∧ !opened then
      let g := hgransOf (fLen b)
      match hpoolAlloc d 1 g with
      | some d => { d with seq := { d.seq with mHeld := d.seq.mHeld ++ [⟨c, hdr, blocks, g, ns d⟩] } }
      | none => raise (bump d Reg.MTR_HOLD_DROP_CNT blocks.length) 802
    else
      let g := gransOf (fLen b)
      let a := poolAlloc d 0 (l / 8) g
      if a.1 then { a.2 with seq := { a.2.seq with conv := a.2.seq.conv ++ [⟨c, hdr, blocks, g, ns d⟩] } } else losePass a.2 b

/-- A VC2 result pass for an owner (R183, R184). -/
def gatheredIn (d : Dev) (l : Nat) (b : List Byte) : Dev :=
  let g := gransOf (fLen b)
  let a := poolAlloc d 1 (l / 8) g
  if a.1 then { a.2 with seq := { a.2.seq with gathers := a.2.seq.gathers ++ [⟨l, b.take 32, frameBlocks b, g, ns d⟩] } } else a.2

/-- A PUBLISH frame from above or from another owner (R215): its blocks are checked and multicast unchanged. What another owner publishes counts
as come where a frame is dropped too, since its blocks are asked for again by SHARD_REPUBLISH and no pass is repeated (R217, log 178). -/
def publishIn (d : Dev) (l : Nat) (b : List Byte) : Dev :=
  let k := passKey b
  let r := copyCheck d l b
  let bk := bucketAt r.2 k
  let g := match bk with | some x => x.grp | none => groupAt r.2 (kCtx k)
  let n := ((frameBlocks b).map (fun x => if blkFmt x = 4 then 0 else fmtElems (blkFmt x))).foldl (· + ·) 0
  let d := if isOwner g then bucketMod r.2 k (fun x => { x with pubElems := x.pubElems + n }) else r.2
  if !r.1 then d
  else
    copyDown d k g (passAtt b) l 3 3 (pubMark k (passAtt b)) (fanTo d g) b

/-- A frame addressed to the management coordinate is handed to its unit. -/
def toUnit (d : Dev) (l p : Nat) (b : List Byte) : Dev :=
  match fKind b, fVc b with
  | 1, 1 => contribIn d l b
  | 1, 2 => contribIn d l b
  | 2, 1 => resultReceive d l b
  | 2, 2 => gatheredIn d l b
  | 3, _ => publishIn d l b
  | 4, _ => gatherReceive d l b
  | _, _ => toMgmt d (l / 8) p b

/-- A frame that arrived on link l goes to its unit, to its port or on its way. -/
def deliver (d : Dev) (l p : Nat) (b : List Byte) (colour : Nat) (hits : List Nat) (raw : List Byte) : Dev :=
  let own := fun d => hits.foldl (fun d m => mirrorCopy d m raw colour none) d
  match nextHop d b with
  | .huddle => d
  | .mgmt => toUnit (own d) l p b
  | .host => slotsFor (own d) (corrOf b (.port p) 127) (l / 8) stMgmt (fLen b) (.host b)
  | .drop => unreachable (own d)
  | _ => forward d (l / 8) p b colour hits raw

/-! ## In-order delivery (R302 to R307): the order is restored where a frame leaves its corridor, at the station that hands it over (log 157) -/

/-- A frame of a reordered kind for this switch takes granules and crosses to the station that hands it over. One that the pool refuses keeps its
place in its flow and is lost there. -/
def crossOver (d : Dev) (l p : Nat) (b : List Byte) (colour : Nat) (hits : List Nat) : Dev :=
  let d := hits.foldl (fun d m => mirrorCopy d m b colour none) d
  let g := gransOf (fLen b)
  let cls := hereClass d b
  let a := poolAlloc d cls (l / 8) g
  let f : QFrame := ⟨b, colour, cls, if a.1 then g else 0, none, false, 0, false, none, none⟩
  let go := fun st port => slotsFor a.2 (corrOf b (.port p) port) (l / 8) st (fLen b) (.inOrder (viaPort p) f)
  match nextHop d b with
  | .port q => match localPick d q (fDst b) (fVc b) with
    | some e => go (egLink e / 8) q
    | none => unreachable (release a.2 0 f)
  | .drop => unreachable (release a.2 0 f)
  | _ => go stMgmt 127

/-- A frame in order at station st is handed over: to the management station, the host, or the queue of its link. -/
def handOver (d : Dev) (st : Nat) (via : Via) (f : QFrame) : Dev :=
  let b := f.bytes
  match nextHop d b with
  | .mgmt => if f.grans = 0 then mgmtRefused d via b else mgmtReceive d via b f.grans
  | .host => if f.grans = 0 then d else hostArrive (release d 0 f) b
  | .port q =>
    if f.grans = 0 then d
    else match localPick d q (fDst b) (fVc b) with
      | none => unreachable (release d 0 f)
      | some e =>
        let r := flowFence d q e b
        let f := { f with fence := r.1 }
        if egLink e / 8 = st then let o := ordGive r.2 f; arriveEgress o.2 e o.1
        else slotsFor r.2 (egCorr d b (.port (viaNum via)) e) st (egLink e / 8) (fLen b) (.egress e f)
  | _ => unreachable (release d 0 f)

def seqInAt (d : Dev) (k : Nat) : SeqIn := tget SeqIn.init d.rte.seqIn k
def seqInPut (d : Dev) (k : Nat) (s : SeqIn) : Dev := { d with rte := { d.rte with seqIn := tset SeqIn.init d.rte.seqIn k s } }

/-- Reorder contexts and granules in use (R305). -/
def heldFrames (d : Dev) : List Early := d.rte.seqIn.flatMap (fun e => e.2.early.filter (fun x => !x.parked))
def reorderUsed (d : Dev) : Nat := (heldFrames d).length
def reorderGrans (d : Dev) : Nat := (heldFrames d).foldl (fun a x => a + gransOf (fLen x.bytes)) 0

/-- Deliver early frames while the next of the flow is at hand; each takes pool granules again, and frames that left the overflow store free
theirs. -/
def seqDrain : Nat → Nat → Dev → Dev
  | 0, _, d => d
  | n + 1, k, d =>
    let s := seqInAt d k
    match ltake (fun x => decide (x.seq = s.expected)) s.early with
    | none => d
    | some (x, rest) =>
      let d := seqInPut d k { s with expected := (s.expected + 1) % 2 ^ 32, early := rest, since := ns d }
      let d := if x.parked then hpoolFreeGrans d 0 (hgransOf (fLen x.bytes)) else d
      let g := gransOf (fLen x.bytes)
      let cls := hereClass d x.bytes
      let a := poolAlloc d cls x.st g
      seqDrain n k (handOver a.2 x.st x.via ⟨x.bytes, x.colour, cls, if a.1 then g else 0, none, false, 0, false, none, none⟩)

/-- An early frame waits: held in a reorder context, or parked (R304). -/
def earlyPut (d : Dev) (k st : Nat) (via : Via) (b : List Byte) (colour : Nat) (parked : Bool) : Dev :=
  let s := seqInAt d k
  bump (seqInPut d k { s with early := s.early ++ [⟨fSeq b, b, colour, parked, via, st⟩], since := if s.early.isEmpty then ns d else s.since })
    Reg.RTE_EARLY_CNT

/-- Park a frame in the overflow store, or drop it (R306). -/
def park (d : Dev) (k st : Nat) (via : Via) (b : List Byte) (colour : Nat) : Dev :=
  let lost := raise (bump d Reg.RTE_OVF_DROP_CNT) 916
  if !fbit d Reg.RTE_CTRL Fd.RTE_CTRL_ovf_en then lost
  else match hpoolAlloc d 0 (hgransOf (fLen b)) with
    | none => lost
    | some d => bump (earlyPut d k st via b colour true) Reg.RTE_PARK_CNT

/-- Whether a reorder context and its granules are free for a frame (R305). -/
def earlyRoom (d : Dev) (b : List Byte) : Bool := decide (reorderUsed d < 16384 ∧ reorderGrans d + gransOf (fLen b) ≤ 113777)

/-- Procedure arrive of R304, at the station that hands the frame over. -/
def arrive (d : Dev) (st : Nat) (via : Via) (f : QFrame) : Dev :=
  let b := f.bytes
  let k := (cGroup (fSrc b) * 64 + cSwitch (fSrc b)) * 8 + fVc b
  let q := fSeq b
  let d := if fSyn b then seqInPut d k { seqInAt d k with expected := q } else d
  let s := seqInAt d k
  if q = s.expected then
    let d := handOver (seqInPut d k { s with expected := (q + 1) % 2 ^ 32, since := ns d }) st via f
    seqDrain s.early.length k d
  else
    let lost := decide (f.grans = 0)
    let d := release d 0 f
    if (q + 2 ^ 32 - s.expected) % 2 ^ 32 ≥ 2 ^ 31 then bump d Reg.RTE_LATE_CNT
    else if lost then d
    else if s.early.any (·.parked) then park d k st via b f.colour
    else if earlyRoom d b then earlyPut d k st via b f.colour false
    else
      match (if fHop b < 8 ∧ fbit d Reg.RTE_CTRL Fd.RTE_CTRL_rebound_en then reboundPick d b [] else none) with
      | some e =>
        let g := gransOf (fLen b)
        let a := poolAlloc d 1 st g
        if a.1 then slotsFor (bump (bump a.2 Reg.RTE_REBOUND_CNT) Reg.RTE_EARLY_CNT) (egCorr d b (.port (viaNum via)) e) st (egLink e / 8) (fLen b)
          (.egress e ⟨setBit1 b 3 true, f.colour, 1, g, none, false, 0, false, none, none⟩)
        else a.2
      | none => park d k st via b f.colour

/-- REORDER_GAP_TIMEOUT (R307). -/
def gapTimeout (d : Dev) (k : Nat) : Dev :=
  let s := seqInAt d k
  let dist := fun (x : Early) => (x.seq + 2 ^ 32 - s.expected) % 2 ^ 32
  match s.early with
  | [] => d
  | x :: xs =>
    if ns d < s.since + fget1 d Reg.RTE_CTRL Fd.RTE_CTRL_gap_ticks * tickLen d then d
    else
      let lo := xs.foldl (fun y z => if dist z < dist y then z else y) x
      let d := raise (bump (seqInPut d k { s with expected := lo.seq, since := ns d }) Reg.RTE_GAP_CNT (dist lo)) 915
      seqDrain s.early.length k d

/-! ## FRAME_RECEIVE -/

/-- Kinds and the virtual channels that R288 gives them. A frame of a kind on another channel may not queue there (R27); what becomes of it is not
stated (log 158). -/
def vcOk (kind vc : Nat) : Bool :=
  match kind with
  | 0 => vc == 5
  | 1 => vc == 1 || vc == 2
  | 2 => vc == 1 || vc == 2
  | 3 => vc == 3
  | 4 => vc == 3
  | 5 => vc == 4 || vc == 5
  | 6 => vc == 0
  | 7 => vc == 6
  | 8 => vc == 7
  | 9 => vc != 0
  | _ => false

/-- Whether a frame, stamped as it would be routed, had been cut through when its check fails: the egress it was leaving on (R296, R329). -/
def cutEgress (d : Dev) (e p : Nat) (b : List Byte) : Option Nat :=
  let pick := match nextHop d b with
    | .port q => localPick d q (fDst b) (fVc b)
    | .away c => awayPick d b c
    | _ => none
  match pick with
  | none => none
  | some x =>
    let inOrder : Bool := !(reordered (fKind b) && decide (cGroup (fDst b) = selfG d ∧ cSwitch (fDst b) = selfS d)
        && decide (portKind d p = 1 ∨ portKind d p = 2))
      || fSyn b || decide (fSeq b = (seqInAt d ((cGroup (fSrc b) * 64 + cSwitch (fSrc b)) * 8 + fVc b)).expected)
    let q := (egPort d x).getD 0
    let metro := decide (fVc b = 2 ∧ portKind d q = 2 ∧ x ≥ 96)
    let looped := decide ((portKind d q = 1 ∨ portKind d q = 2) ∧ fHop b ≥ 12)
    if fbit d Reg.RTE_CTRL Fd.RTE_CTRL_ct_en && (egFrames d x).isEmpty && decide (tget 0 d.tm.txEnd x ≤ ns256 d)
        && decide (egRate d x ≤ egRate d e) && inOrder && !metro && !looped && gateOpen d x (fVc b) && shaperOk d x (fVc b) then some x else none

/-- Length that a header gives a frame of blocks or a command, with its frame check (R287, R434, R484); other kinds are as long as they are. -/
def lenOk (w : List Byte) : Bool :=
  let n := w.length
  decide (64 ≤ n) && decide (n ≤ 2216) && (match fKind w with
    | 1 => decide (fBlocks w ≤ 8 ∧ n = max 64 (40 + 272 * fBlocks w))
    | 2 => decide (fBlocks w ≤ 8 ∧ n = max 64 (40 + 272 * fBlocks w))
    | 3 => decide (fBlocks w ≤ 8 ∧ n = max 64 (40 + 272 * fBlocks w))
    | 4 => decide (fBlocks w ≤ 8 ∧ n = max 64 (40 + 272 * fBlocks w))
    | _ => true)

/-- An accepted frame on port p: kinds, the source check, the policer, mirrors, stamping, and the way on (R287 to R291, R303, R312, R313,
R336 to R342). What a mirror session selects is copied as it was received, whatever becomes of it. -/
def frameIn (d : Dev) (e : Nat) (b : List Byte) (colour : Nat) : Dev :=
  let l := egLink e
  if fVer b ≠ 1 ∨ !vcOk (fKind b) (fVc b) then bump d Reg.RTE_UNREACH_CNT
  else match egPort d e with
    | none => unreachable d
    | some p =>
      if !portEn d p then unreachable d
      else
        let edge := decide (portKind d p = 0 ∨ portKind d p = 3)
        let hits := mirrorHits d [0, 2] p b
        let copied := fun (d : Dev) (c : Nat) => hits.foldl (fun d m => mirrorCopy d m b c none) d
        if edge ∧ (fSrc b / 16 ≠ coord (selfG d) (selfS d) p 0 / 16 ∨ cSub (fSrc b) > 13) then copied (raise (bump d Reg.RTE_SPOOF_CNT) 912) colour
        else
          let r := police (refillPolicers d) p (fVc b) (fLen b) colour
          let d := r.2
          if r.1 = 2 ∧ (polOf d p (fVc b)).cfg.msb ∧ fbit d Reg.TM_CTRL Fd.TM_CTRL_police_en ∧ !bit (polOf d p (fVc b)).cfg.toNat 29 then
            copied (capture (raiseOnce (bump d Reg.TM_RED_DROP_CNT) 921 p) 0 e p (fVc b) 2 b) 2
          else
            let d := if r.1 = 1 ∧ (polOf d p (fVc b)).cfg.msb ∧ fbit d Reg.TM_CTRL Fd.TM_CTRL_police_en then bump d Reg.TM_YELLOW_CNT else d
            let d := capture d 0 e p (fVc b) 0 b
            let mine := decide (fDst b = mgmtCoord d)
            let d := if mine ∧ (fEce b ∨ fKind b = 9) then ecnCut (bump d Reg.RTE_ECHO_CNT) p (fVc b) else d
            let d := if mine ∧ fCe b ∧ !(d.rte.echoes.any (fun x => x.1 = fSrc b ∧ x.2.1 = fVc b)) then
                { d with rte := { d.rte with echoes := d.rte.echoes ++ [(fSrc b, fVc b, ns d)] } } else d
            if fKind b = 6 then
              let d := copied d r.1
              { d with hud := { d.hud with inQ := d.hud.inQ ++ [⟨p, b⟩] } }
            else
              let s := if edge then stamp d b else (b, d)
              if !edge ∧ reordered (fKind b) ∧ cGroup (fDst b) = selfG d ∧ cSwitch (fDst b) = selfS d then crossOver s.2 l p s.1 r.1 hits
              else deliver s.2 l p s.1 r.1 hits b

/-- A frame that fails its check, or whose rest did not come, where it was being cut through: it ends with an inverted check and is counted (R297,
R402). -/
def cutThrough (d : Dev) (e : Nat) (b : List Byte) (colour : Nat) : Option Dev :=
  let p := (egPort d e).getD 0
  let edge := decide (portKind d p = 0 ∨ portKind d p = 3)
  let spoof := edge && (decide (fSrc b / 16 ≠ coord (selfG d) (selfS d) p 0 / 16) || decide (cSub (fSrc b) > 13))
  let s := if edge then stamp d b else (b, d)
  match (if fVer b = 1 ∧ vcOk (fKind b) (fVc b) ∧ fKind b ≠ 6 ∧ (egPort d e).isSome ∧ portEn d p ∧ !spoof ∧ 32 ≤ b.length then cutEgress s.2 e p s.1 else none) with
  | some x =>
    let q := (egPort d x).getD 0
    let out := if portKind d q = 1 ∨ portKind d q = 2 then setByte s.1 2 (byteAt s.1 2 + 16) else s.1
    some (driveStomped (bump s.2 Reg.RTE_STOMP_CNT) x colour out)
  | none => none

/-- FRAME_RECEIVE (R434, R297): `w` is the frame with its frame check. What arrives while the fabric is halted or in reset is discarded
(R447). -/
def frameReceive (d : Dev) (e : Nat) (w : List Byte) (colour : Nat) : Dev :=
  let l := egLink e
  if !linkCarries d l ∨ egEther d e ∨ !running d ∨ (e ≥ 128 ∧ !isSplit d l) then d
  else
    let b := w.take (w.length - 8)
    let f := w.drop (w.length - 8)
    let c := crc32c b
    if field f 0 4 = c ^^^ 0xFFFF_FFFF ∧ 8 ≤ w.length then bump d Reg.INT_STOMP_CNT
    else if field f 0 4 ≠ c ∨ field f 4 2 ≠ w.length ∨ !lenOk w then
      match cutThrough d e b colour with
      | some d => d
      | none => raiseOnce (bump (bump d (Reg.LINK_FCS_DROP_CNT l)) Reg.INT_FRAME_FAIL_CNT) 953 l
    else frameIn d e b colour

/-- Symbols of an interleave as its decoder delivers them. -/
def fixedWord (w : List Nat) : Decoded → List Nat
  | .corrected v _ => v
  | _ => w

/-- A good codeword: its part of the link channel, and, where it is the one awaited, the frames that end in it (R398, R400). One that is not the
awaited one is discarded, but for its link channel (log 31). -/
def codewordTake (d : Dev) (l seq : Nat) (b : List Byte) : Dev :=
  let x := dynOf d l
  let m := chanTake x.rxMsg seq ((b.drop 258).take 2)
  let d := dynMod d l (fun x => { x with rxMsg := m.1 })
  let d := if seq ≠ x.rxNext.getD seq then d
    else
      let r := if linkCarries d l then cwRead x b else ([], [], 0)
      let d := dynMod d l (fun x => { x with rxNext := some ((seq + 1) % 2 ^ 32), nak := false, rxBuf := r.2.1, rxCol := r.2.2, rxCut := x.rxCut && r.1.isEmpty })
      r.1.foldl (fun d f => frameReceive d l f.1 f.2) d
  match m.2 with
  | some w => linkMessage d l w
  | none => d

/-- A codeword that cannot be corrected (R400, R402, R403): it and those after it are discarded until the replay reaches it, a NAK asks for that
replay, and a frame being cut through is ended. -/
def codewordBad (d : Dev) (l seq : Nat) : Dev :=
  let d := bump d (Reg.LINK_FEC_UNCORR_CNT l)
  let x := dynOf d l
  let us := (x.uncorr.filter (fun t => decide (ns d < t + 1000000))) ++ [ns d]
  let d := dynPut d l { x with uncorr := us, nak := true, rxNext := some (x.rxNext.getD seq) }
  let d := if x.rxCut ∨ x.rxBuf.length < 32 ∨ !linkCarries d l ∨ !running d then d
    else match cutThrough d l x.rxBuf x.rxCol with
      | some d => dynMod d l (fun x => { x with rxCut := true })
      | none => d
  if us.length > 64 ∧ linkCarries d l then lockLost d l
  else if x.nak ∧ seq ≠ x.rxNext.getD seq then d else sendMessage d l 0 true []

/-- CODEWORD_RECEIVE (R397, R400, R403): both interleaves of codeword `seq` are decoded. R413: where test patterns are sent, what comes is compared
with the pattern, and how many errors it holds is free (log 138). -/
def codewordReceive (d : Dev) (l : Nat) (cw : List Byte) (seq : Nat) : Dev :=
  if !linkCarries d l && fbit d (Reg.LINK_CTRL l) Fd.LINK_CTRL_prbs_en && !(decide (6 ≤ linkStep d l) && decide (linkStep d l ≤ 10)) then
    let r := freeNat d
    bump r.2 (Reg.LINK_PRBS_ERR_CNT l) r.1
  else if 96 ≤ l ∨ linkStep d l < 6 ∨ 10 < linkStep d l then d
  else
    let w := [interleave cw 0, interleave cw 1]
    let r := w.map fecDecode
    if r.any (fun x => decide (x = .bad)) then codewordBad d l seq
    else
      let v := w.map (fun u => fixedWord u (fecDecode u))
      codewordTake (if r.all (fun x => decide (x = .clean)) then d else bump d (Reg.LINK_FEC_CORR_CNT l)) l seq (deinterleave (v.getD 0 []) (v.getD 1 []))

/-- ENCAP_FRAME_RECEIVE (R415): `mac` is the MAC frame before its FCS. -/
def encapReceive (d : Dev) (l : Nat) (mac : List Byte) (fcsOk : Bool) : Dev :=
  match rsvOf d l with
  | none => d
  | some r =>
    let c := Reg.RSV_CFG r
    if !linkCarries d l ∨ !linkEther d l ∨ !running d ∨ fbit d c Fd.RSV_CFG_use then d
    else if mac.length + 4 > 9216 then rsvFault (bump d Reg.RSV_DROP_CNT) r Fd.RSV_FAULT_too_long
    else
      let tag := fbit d c Fd.RSV_CFG_vlan_en
      let o := if tag then 18 else 14
      let good := fcsOk && decide (mac.take 6 = macOf d (Reg.RSV_OWN_MAC_0 r))
        && (!tag || decide (field mac 12 2 = 0x8100 ∧ field mac 14 2 % 4096 = fget d c Fd.RSV_CFG_vlan_id))
        && decide (field mac (o - 2) 2 = fget d Reg.RSV_ETYPE Fd.RSV_ETYPE_etype)
      if !good then bump d Reg.RSV_DROP_CNT
      else
        let w := mac.drop o
        let b := w.take (w.length - 8)
        if field w (w.length - 8) 4 ≠ crc32c b ∨ field w (w.length - 4) 2 ≠ w.length ∨ !lenOk w then
          raiseOnce (bump (bump d (Reg.LINK_FCS_DROP_CNT l)) Reg.INT_FRAME_FAIL_CNT) 953 l
        else frameIn d l b 0

/-! ## Echoes (R312, R313) -/

/-- ECN_ECHO_SEND (R312): an echo still owed goes out in a frame of its own. -/
def echoSend (d : Dev) (src vc : Nat) : Dev :=
  if d.rte.echoes.any (fun x => x.1 = src ∧ x.2.1 = vc) ∧ running d then
    let d := { d with rte := { d.rte with echoes := d.rte.echoes.filter (fun x => ¬(x.1 = src ∧ x.2.1 = vc)) } }
    originate d (setBit1 (mkHeader 9 vc src (mgmtCoord d)) 1 true)
  else d

/-- ECN_RECOVER (R313). -/
def ecnRecover (d : Dev) (p v : Nat) : Dev :=
  let r := tget EcnRate.init d.rte.ecn (p * 8 + v)
  { d with rte := { d.rte with ecn := tset EcnRate.init d.rte.ecn (p * 8 + v) (rateRise d (portRate d p * 64) r) } }

/-! ## Corridors (R308 to R310) -/

def credKey (s : Slot) : Nat := ((s.src * 64 + s.dst) * 16 + s.corr) * 2 + s.dir

/-- Slots that a station holds in one direction of a corridor. -/
def slotsAt (d : Dev) (corr dir st : Nat) : Nat :=
  (d.rte.ring.filter (fun s => decide (s.corr = corr ∧ s.dir = dir ∧ s.pos = st))).length

/-- A frame reaches an egress whose link has left service meanwhile: it is flushed (R344). -/
def lateFlush (d : Dev) (e : Nat) (f : QFrame) : Dev :=
  let d := raise (bump (release d e f) Reg.TM_FLUSH_CNT) 924
  match f.pass, egPort d e with
  | some m, some p => if m.1 < 2 ^ 60 ∧ !portLive d p then markSkipped d m.1 (m.2 / 2) p 1 else d
  | _, _ => d

/-- What a slot brings is handed over at its station. -/
def unload (d : Dev) (st : Nat) (c : Cargo) : Dev :=
  match c with
  | .part => d
  | .egress e f => if linkCarries d (egLink e) then arriveEgress d e f else lateFlush d e f
  | .mgmt v b g => mgmtReceive d v b g
  | .host b => hostArrive d b
  | .inOrder v f => arrive d st v f
  | .lanes b => laneArrive d st b
  | .metro b => metroArrive d b
  | .row r => rowArrive d st r

/-- CORRIDOR_SLOT_ENTER (R310): the first slot that waits at a station in each direction of a corridor. A slot for its own station is handed
over at once. -/
def slotEnter (d : Dev) (corr st dir : Nat) : Dev :=
  match ltake (fun (s : Slot) => decide (s.corr = corr ∧ s.dir = dir ∧ s.src = st)) d.rte.waitS with
  | none => d
  | some (s, rest) =>
    if s.dst = st then unload { d with rte := { d.rte with waitS := rest } } st s.cargo
    else if slotsAt d corr dir st ≤ 2 ∧ tget 0 d.rte.credits (credKey s) < 2 then
      { d with rte := { d.rte with waitS := rest, ring := d.rte.ring ++ [s], credits := tset 0 d.rte.credits (credKey s) (tget 0 d.rte.credits (credKey s) + 1) } }
    else d

def corridorEnter (d : Dev) (corr st : Nat) : Dev := slotEnter (slotEnter d corr st 0) corr st 1

/-- A slot leaves its corridor at its destination: its credit returns and its cargo is handed over. -/
def eject (d : Dev) (s : Slot) : Dev :=
  unload { d with rte := { d.rte with credits := tset 0 d.rte.credits (credKey s) (tget 0 d.rte.credits (credKey s) - 1) } } s.dst s.cargo

/-- The station that a slot reaches next. -/
def nextStation (s : Slot) : Nat := if s.dir = 0 then (s.pos + 1) % 53 else (s.pos + 52) % 53

/-- Slots on corridors after one cycle (R18, R310): over each segment of each direction at most one slot moves, where the next station had a free
slot at the start of the cycle. Which slot of a station goes first is not stated; it is the first in `ring`, the one that entered the corridor first
(log 16). `seen` names the segments already used. -/
def ringMove (start : List Slot) : List (Nat × Nat × Nat) → List Slot → List Slot
  | _, [] => []
  | seen, s :: rest =>
    let seg := (s.corr, s.dir, s.pos)
    let room := decide ((start.filter (fun x => decide (x.corr = s.corr ∧ x.dir = s.dir ∧ x.pos = nextStation s))).length < 4)
    (if !seen.contains seg && room then { s with pos := nextStation s } else s) :: ringMove start (seg :: seen) rest

/-- One cycle of the corridors (R18, R310): slots at their destination leave, then the others move. -/
def ringCycle (d : Dev) : Dev :=
  let there := d.rte.ring.filter (fun s => decide (s.pos = s.dst))
  let on := d.rte.ring.filter (fun s => decide (s.pos ≠ s.dst))
  there.foldl eject { d with rte := { d.rte with ring := ringMove on [] on } }

/-- Slots whose station is their own destination are handed over. -/
def unloadNear (d : Dev) : Dev :=
  let near := d.rte.waitS.filter (fun s => decide (s.src = s.dst))
  near.foldl (fun d s => unload d s.dst s.cargo) { d with rte := { d.rte with waitS := d.rte.waitS.filter (fun s => decide (s.src ≠ s.dst)) } }

/-- Every slot on a corridor arrives: a tick is longer than any way round. -/
def ringEmpty (d : Dev) : Dev := d.rte.ring.foldl eject { d with rte := { d.rte with ring := [] } }

/-! ## Ports, membership, modes (R284 to R286, R311) -/

/-- Members of a port, whatever their state. -/
def memberOk (d : Dev) (p kind : Nat) : Bool :=
  let es := portEgs d p
  let whole := fun e => decide (e < 128) && !isSplit d e
  let gl := fun e => decide (96 ≤ egLink e)
  let same := es.all (fun e => decide (e < 96)) || es.all (fun e => gl e && whole e) || es.all (fun e => gl e && !whole e)
  let resLinks := ((List.range 128).filter (fun q => decide (q ≠ p ∧ portKind d q = 3))).flatMap (fun q => (portEgs d q).map egLink)
  let mine := (es.map egLink).eraseDups
  let entry := mine.all (fun l => (rsvOf d l).isSome)
  let mode := fun e => if e < 128 then linkCtl d e Fd.LINK_CTRL_g_mode else linkCtl d (egLink e) Fd.LINK_CTRL_g_mode_b
  let ether := es.all mode
  let plain := es.all (fun e => decide (e < 96) || !mode e)
  decide (1 ≤ es.length ∧ es.length ≤ 16) && same
    && (if kind = 3 then es.all gl && decide ((resLinks ++ mine).eraseDups.length ≤ 4) && entry && ether else plain)

/-- A port goes down because it is disabled (R285, R186, R344). -/
def portDown (d : Dev) (p : Nat) : Dev :=
  let marks := portMarks d p
  let was := !(portUp d p).isEmpty
  let d := flushMetro ((portEgs d p).foldl flushEgress d) p
  let d := marks.foldl (fun d k => markSkipped d k.1.1 k.1.2 p k.2) d
  if was then hudPortFenced (portFenced d p) p else d

/-- A write of PORT_CFG: `new` is the merged word (R284, R321). -/
def portCfgWrite (d : Dev) (p new : Nat) : Dev :=
  let a := Reg.PORT_CFG p
  let old := rg d a
  let kind := bits new 30 28
  let badKind := decide (kind ≥ 4) || (bit old 31 && decide (kind ≠ bits old 30 28))
  let w := if badKind then putBits new 30 28 (bits old 30 28) else new
  let badEn := bit w 31 && !bit old 31 && !memberOk d p (bits w 30 28)
  let w := if badEn then putBits w 31 31 0 else w
  let w := if badKind || badEn then putBits w 26 26 1 else w
  let d := if bit w 27 ≠ bit old 27 then
      { d with rte := { d.rte with modeNext := tset none d.rte.modeNext p (some (2 * tickIdx d + bits w 27 27)) } } else d
  if bit old 31 ∧ !bit w 31 then rgPut (portDown d p) a w else rgPut d a w

/-- PORT_MODE_CHANGE (R284, R313): the mode written before this tick is in force; TIMETABLED restores the full rates. -/
def portMode (d : Dev) (p : Nat) : Dev :=
  match tget none d.rte.modeNext p with
  | some m =>
    if m / 2 < tickIdx d then
      let ecn := if m % 2 = 0 then (List.range 8).foldl (fun x v => tdel x (p * 8 + v)) d.rte.ecn else d.rte.ecn
      { d with rte := { d.rte with modeNext := tset none d.rte.modeNext p none, modeNow := tset 1 d.rte.modeNow p (m % 2), ecn := ecn } }
    else d
  | none => d

/-- A write of LINK_PORT (R284, R322): refused while a port it names, old or new, is enabled; split belongs to G-links. -/
def linkPortWrite (d : Dev) (l new : Nat) : Dev :=
  let a := Reg.LINK_PORT l
  let old := rg d a
  let names := fun (w : Nat) => (if bit w 31 then [bits w 6 0] else []) ++ (if bit w 30 then [bits w 22 16] else [])
  let busy := (names old ++ names new).any (portEn d)
  if busy || (decide (l < 96) && bit new 30) then rgPut d a (putBits old 29 29 1)
  else rgPut d a new

/-- A write of RTE_SELF (R317): no effect while a port is enabled; group 127 is refused. -/
def rteSelfWrite (d : Dev) (new : Nat) : Dev :=
  if (List.range 128).any (portEn d) then d
  else rgPut d Reg.RTE_SELF (if bits new 23 17 = 127 then putBits new 23 17 (selfG d) else new)

/-- A write of RSV_CFG (R427): a link that is no G-link or is named by another enabled entry is refused. -/
def rsvCfgWrite (d : Dev) (r new : Nat) : Dev :=
  let a := Reg.RSV_CFG r
  let l := bits new 6 0
  if l < 96 ∨ (List.range 4).any (fun q => decide (q ≠ r ∧ fget d (Reg.RSV_CFG q) Fd.RSV_CFG_link = l) && fbit d (Reg.RSV_CFG q) Fd.RSV_CFG_en) then
    rgPut d a (putBits (rg d a) 24 24 1)
  else rgPut d a new

/-- RTE_CTRL.resync (R303). -/
def resync (d : Dev) : Dev := { d with rte := { d.rte with synOk := [] } }

/-! ## Gates, mirrors, capture -/

/-- GATE_LOAD (R332, R333): `p` holds port, count, base time and entries. -/
def gateLoad (d : Dev) (p : List Byte) : Ans :=
  let port := byteAt p 0
  let n := field p 2 2
  let es := (List.range n).map (fun i => field p (16 + 4 * i) 4)
  let base := field p 4 8
  checks [(0, decide (port < 128)), (1, decide (byteAt p 1 = 0)), (2, decide (1 ≤ n ∧ n ≤ 512)), (14, decide (field p 14 2 = 0))]
    (needLen p (16 + 4 * n) (match (List.range n).find? (fun i => let w := es.getD i 0; decide (bits w 23 20 ≠ 0 ∨ bits w 19 0 = 0)) with
      | some i => .bad (17 + 4 * i)
      | none =>
        if field p 12 2 ≠ 0 ∨ base % tickLen d ≠ 0 ∨ base < ns d + 2 * tickLen d then .err St.gateTime
        else
          let g := gateOf d port
          let d := gatePut d port { g with pend := some (es.map (BitVec.ofNat 32), base / tickLen d) }
          .done (fset d (Reg.TM_GATE_STATUS port) Fd.TM_GATE_STATUS_pend 1) []))

/-- A write of 0 to TM_GATE_STATUS.en (R333): the pending list is discarded, and the list in force ends at the next tick boundary. -/
def gateDisable (d : Dev) (p : Nat) : Dev :=
  let g := gateOf d p
  let dis := if fbit d (Reg.TM_GATE_STATUS p) Fd.TM_GATE_STATUS_en then some (tickIdx d + 1) else g.disable
  fset (gatePut d p { g with pend := none, disable := dis }) (Reg.TM_GATE_STATUS p) Fd.TM_GATE_STATUS_pend 0

/-- A write of TM_MIRROR_CTRL (R341, R350): a refused field keeps its value and sets err; a session is not enabled toward a port that is no
enabled ENDPOINT or RESERVED port. -/
def mirrorWrite (d : Dev) (m new : Nat) : Dev :=
  let a := Reg.TM_MIRROR_CTRL m
  let old := rg d a
  let badSrc := decide (bits new 30 29 = 3)
  let badVc := decide (bits new 12 10 = 0)
  let an := bits new 19 13
  let badEn := bit new 31 && !(portEn d an && decide (portKind d an = 0 ∨ portKind d an = 3))
  if badEn then rgPut d a (putBits old 27 27 1)
  else
    let w := if badSrc then putBits new 30 29 (bits old 30 29) else new
    let w := if badVc then putBits w 12 10 (bits old 12 10) else w
    rgPut d a (if badSrc || badVc then putBits w 27 27 1 else w)

end Sys2Proof.Machine
end

