-- ==== Sys2Proof/Machine/Sitonel.lean ====
section
/-! DEFINITION. Sitonel (17): firmware slots, the event log, sensors, attestation, the button and the service drain, and restarts of the
management pair. -/

namespace Sys2Proof.Machine

/-! ## Firmware slots (R545 to R547) -/

/-- Byte of a slot: what was written to it, else what was shipped in it. -/
def fwByte (d : Dev) (s i : Nat) : Byte := (tget none d.sit.fw (s * 2 ^ 24 + i)).getD (Config.flashByte s i)

def fwBytes (d : Dev) (s o n : Nat) : List Byte := (List.range n).map (fun i => fwByte d s (o + i))

def fwField (d : Dev) (s o w : Nat) : Nat := beNat (fwBytes d s o w)

def runningSlot (d : Dev) : Nat := fget d Reg.SIT_FW_STATUS Fd.SIT_FW_STATUS_running

def confirmedSlot (d : Dev) : Nat := fget d Reg.SIT_FW_STATUS Fd.SIT_FW_STATUS_confirmed

def slotValid (d : Dev) (s : Nat) : Bool :=
  fbit d Reg.SIT_FW_STATUS (if s = 0 then Fd.SIT_FW_STATUS_a_valid else Fd.SIT_FW_STATUS_b_valid)

def slotMark (d : Dev) (s : Nat) (b : Bool) : Dev :=
  fset d Reg.SIT_FW_STATUS (if s = 0 then Fd.SIT_FW_STATUS_a_valid else Fd.SIT_FW_STATUS_b_valid) b.toNat

def fwMajor (d : Dev) (s : Nat) : Nat := fwField d s 4 2
def fwMinor (d : Dev) (s : Nat) : Nat := fwField d s 6 2
def fwBuild (d : Dev) (s : Nat) : Nat := fwField d s 8 4
def fwSec (d : Dev) (s : Nat) : Nat := fwField d s 16 4

/-- The whole image of a slot (R545). -/
def fwImage (d : Dev) (s : Nat) : List Byte := fwBytes d s 0 (64 + fwField d s 12 4 + 2820)

/-- An image passes verification (R545): its layout, its signature, as the operand tells it, and its security version. -/
def fwVerifies (d : Dev) (s : Nat) (signatureOk : Bool) : Bool :=
  signatureOk && decide (fwField d s 0 4 = 0x5349544E) && decide (fwField d s 12 4 ≤ 16773884)
    && decide (fget d Reg.SIT_FW_STATUS Fd.SIT_FW_STATUS_min_sec ≤ fwSec d s)

/-! ## Event log (R536, R537) -/

/-- Append an event record of a class, for a kind of happening with its particulars; the data of a referee record is the record's. -/
def event (d : Dev) (cls kind : Nat) (what : List Nat := []) (data : Option (List Byte) := none) : Dev :=
  let i := d.sit.evNext
  let body := match data with
    | some b => (padMin 42 b).take 42
    | none => (List.range 42).map (Config.eventData cls kind what i)
  let r := timeBytes d ++ beBytes 4 i ++ beBytes 1 cls ++ [0] ++ beBytes 2 (Config.eventCode cls kind) ++ body
  let r := r ++ beBytes 4 (crc32c r)
  let full : Bool := decide (262144 ≤ d.sit.events.length)
  let d := { d with sit := { d.sit with events := (if full then d.sit.events.drop 1 else d.sit.events) ++ [r], evNext := (i + 1) % 2 ^ 32 } }
  if !full then d
  else
    let d := bump d Reg.SIT_EVT_OVERWRITE_CNT
    let due : Bool := match d.sit.evOver with | some t => decide (t + 3600 * 10 ^ 9 ≤ ns d) | none => true
    if due then raise { d with sit := { d.sit with evOver := some (ns d) } } 975 else d

/-- Records from the later of `first` and the oldest held, at most `n`. -/
def eventsFrom (d : Dev) (first n : Nat) : List (List Byte) :=
  let old := d.sit.evNext - d.sit.events.length
  (d.sit.events.drop (max first old - old)).take n

/-- EVENT_READ (R537). -/
def eventRead (d : Dev) (p : List Byte) : Ans :=
  checks [(4, decide (p.length < 6 ∨ (1 ≤ field p 4 2 ∧ field p 4 2 ≤ 64)))] (needLen p 6
    (longReply d (eventsFrom d (field p 0 4) (field p 4 2)).flatten))

/-- DEVICE_QUERY (R506). -/
def deviceQuery (d : Dev) (p : List Byte) : Ans :=
  needLen p 0 (.done d (beBytes 8 Config.serial.toNat ++ beBytes 4 (fwBuild d (runningSlot d)) ++ beBytes 2 (fwMajor d (runningSlot d))
    ++ beBytes 2 (fwMinor d (runningSlot d)) ++ beBytes 3 (mgmtCoord d) ++ [0]))

/-! ## Sensors (R538, R539) -/

def sensorAt (d : Dev) (i : Nat) : Sensor := tget Sensor.init d.sit.sensors i

def sensorKnown (i : Nat) : Bool := decide (i < 42) || decide (48 ≤ i ∧ i < 58) || decide (i = 64)

/-- Status of a reading now: 0 valid, 1 stale, 2 failed. -/
def sensorStatus (d : Dev) (i : Nat) : Nat :=
  let s := sensorAt d i
  if s.st = 2 then 2 else if s.st = 0 ∧ ns d ≤ s.at_ + 10000000 then 0 else 1

/-- SENSOR_READ (R538). -/
def sensorRead (d : Dev) (p : List Byte) : Ans :=
  checks [(0, decide (p.length < 2) || sensorKnown (field p 0 2))] (needLen p 2
    (.done d (beBytes 8 (sensorStatus d (field p 0 2) * 2 ^ 62 + (sensorAt d (field p 0 2)).val))))

/-- SENSOR_SAMPLE (R538): readings as (sensor, status, value); a stale one renews nothing. -/
def sensorSample (d : Dev) (rs : List (Nat × Nat × Nat)) : Dev :=
  rs.foldl (fun d r =>
    if !sensorKnown r.1 then d
    else if r.2.1 = 0 then { d with sit := { d.sit with sensors := tset Sensor.init d.sit.sensors r.1 ⟨0, r.2.2, ns d⟩ } }
    else if r.2.1 = 2 then
      { d with sit := { d.sit with sensors := tset Sensor.init d.sit.sensors r.1 { sensorAt d r.1 with st := 2, val := r.2.2 } } }
    else d) d

/-- Tolerance of a rail in percent (R561). -/
def railTol (i : Nat) : Nat := if i < 3 ∨ i = 9 then 5 else 3

def railOk (i mv : Nat) : Bool :=
  let n := nominalRails.getD i 0
  decide (100 * mv ≤ (100 + railTol i) * n ∧ (100 - railTol i) * n ≤ 100 * mv)

/-- Whether a sensor holds a valid sample of a value that satisfies `f`. -/
def sensorIs (d : Dev) (f : Int → Bool) (i : Nat) : Bool :=
  decide ((sensorAt d i).st = 0) && f (signed 32 (sensorAt d i).val)

/-- Sensor conditions of R539, by source. -/
def sensorConds (d : Dev) : List (Nat × Bool) :=
  [(976, d.sit.sensors.any (fun e => decide (e.2.st = 2 ∨ (e.2.st = 0 ∧ e.2.at_ + 110000000 ≤ ns d)))),
   (977, (List.range 16).any (sensorIs d (fun v => decide (100000 ≤ v)))),
   (978, (List.range 16).any (sensorIs d (fun v => decide (105000 < v)))),
   (979, (List.range 10).any (fun i => sensorIs d (fun v => decide (v < 0) || !railOk i v.toNat) (32 + i)))]

/-! ## Attestation (R550 to R553) -/

def leafCopy (d : Dev) (k c : Nat) : Nat := tget 0 d.sit.leaves (4 * k + c)

/-- Next leaf of a key (R551): the largest copy, one past it where the copies disagree. -/
def leafOf (d : Dev) (k : Nat) : Nat :=
  let m := max (leafCopy d k 0) (max (leafCopy d k 1) (leafCopy d k 2))
  if leafCopy d k 0 = leafCopy d k 1 ∧ leafCopy d k 1 = leafCopy d k 2 then m else m + 1

/-- Signatures left over both keys (R553). -/
def attestLeft (d : Dev) : Nat := (2 ^ 20 - leafOf d 0) + (2 ^ 20 - leafOf d 1)

/-- Key that signs: key 0 until it is exhausted (R550). -/
def attestKey (d : Dev) : Nat := if leafOf d 0 < 2 ^ 20 then 0 else 1

def batchNs (d : Dev) : Nat := 1000000 * fget1 d Reg.SIT_CTRL Fd.SIT_CTRL_batch_ms

/-- Nonces of the first batch: at most 64, received within the window of its first (R552). -/
def batchHead (d : Dev) : List (ReplyTo × List Byte × Nat) :=
  match d.sit.batch with
  | [] => []
  | b :: bs => ((b :: bs).takeWhile (fun x => decide (x.2.2 ≤ b.2.2 + batchNs d))).take 64

/-- Whether the first batch is closed: it holds 64 nonces, or its window has ended. -/
def batchDue (d : Dev) : Bool :=
  match d.sit.batch with
  | [] => false
  | b :: _ => decide ((batchHead d).length = 64) || decide (b.2.2 + batchNs d ≤ ns d)

/-- ATTEST_QUOTE (R552, R553). -/
def attestQuote (d : Dev) (r : ReplyTo) (p : List Byte) : Ans :=
  needLen p 32 (if attestLeft d = 0 then .err St.signExhausted
    else .later { d with sit := { d.sit with batch := d.sit.batch ++ [(r, p, ns d)] } })

/-- Words that the quote's policy digest covers (R552). -/
def quoteWords (d : Dev) : List Nat :=
  [Reg.SIT_BLK_WORLD, Reg.SIT_CTRL, Reg.CMD_CTRL].map (rg d) ++ (List.range 4).map (fun k => rg d (Reg.CMD_SECURE_PORT k))
    ++ (List.range 128).map (fun n => rg d (Reg.REF_SEV n))

/-- The quote before its signature. -/
def quoteBody (d : Dev) (nonces : List (List Byte)) : List Byte :=
  let s := runningSlot d
  beBytes 2 1 ++ beBytes 1 nonces.length ++ beBytes 1 (attestKey d) ++ beBytes 8 Config.serial.toNat ++ beBytes 4 (fwBuild d s)
    ++ beBytes 2 (fwMajor d s) ++ beBytes 2 (fwMinor d s) ++ timeBytes d ++ [0, 0] ++ shake256 (fwImage d s)
    ++ (if slotValid d (1 - s) then shake256 (fwImage d (1 - s)) else List.replicate 32 0)
    ++ shake256 ((quoteWords d).flatMap (fun w => (beBytes 4 w).reverse)) ++ nonces.flatten

/-- The quote with its XMSS signature, which is free (log 13). -/
def quote (d : Dev) (nonces : List (List Byte)) : List Byte :=
  let m := quoteBody d nonces
  m ++ (List.range 2820).map (Config.xmssByte (BitVec.ofNat 1 (attestKey d)) (leafOf d (attestKey d)) m)

def leafPut (d : Dev) (k c v : Nat) : Dev := { d with sit := { d.sit with leaves := tset 0 d.sit.leaves (4 * k + c) v } }

/-- Write the copies of a key's state; where a write fails, which copies took it is free (log 2), but not all of them. -/
def leafWrite (d : Dev) (k v : Nat) (good : Bool) : Dev :=
  if good then (List.range 3).foldl (fun d c => leafPut d k c v) d
  else
    let f := freeNat d
    (List.range 3).foldl (fun d c => if (f.1 % 7).testBit c then leafPut d k c v else d) f.2

/-- ATTEST_BATCH_CLOSE (R551 to R553). -/
def attestClose (d : Dev) (good : Bool) : Dev :=
  if !batchDue d ∨ d.sit.restart.isSome then d
  else
    let b := batchHead d
    let d := { d with sit := { d.sit with batch := d.sit.batch.drop b.length } }
    let k := attestKey d
    let left := attestLeft d
    if left = 0 then b.foldl (fun d x => replyLate d x.1 St.signExhausted []) d
    else
      let q := quote d (b.map (·.2.1))
      let d := leafWrite d k (leafOf d k + 1) good
      let d := if left > 65536 ∧ attestLeft d ≤ 65536 then raise d 981 else d
      let d := if left > 4096 ∧ attestLeft d ≤ 4096 then raise d 982 else d
      if good then
        b.foldl (fun d x => replyPartsLate d x.1 St.ok (chunksOf 2048 8 q)) (event (bump d Reg.SIT_QUOTE_CNT) 6 0 [k])
      else b.foldl (fun d x => replyLate d x.1 St.signExhausted []) (raise d 983)

/-! ## Restarts and activations (R534, R547 to R549) -/

def restarting (d : Dev) (b : Bool) : Dev := fset d Reg.SIT_STATUS Fd.SIT_STATUS_restarting b.toNat

/-- Every port's LED takes a fault setting. -/
def ledsFault (d : Dev) (v : Nat) : Dev := (List.range 128).foldl (fun d p => fset d (Reg.PORT_LED p) Fd.PORT_LED_fault_sw v) d

def ledsLocate (d : Dev) (on : Bool) : Dev :=
  (List.range 128).foldl (fun d p => fset d (Reg.PORT_LED p) Fd.PORT_LED_locate on.toNat) d

/-- A status that the manual does not state, out of those it gives: free (log 2). -/
def anyStatus (d : Dev) (r : ReplyTo) : Dev :=
  let f := freeNat d
  let all := [St.ok, St.aborted, St.incomplete, St.updateBusy]
  replyLate f.2 r (all.getD (f.1 % 4) St.ok) []

/-- The requesters that long commands would answer, but for FW_ACTIVATE (R549). -/
def longAsked (d : Dev) : List ReplyTo :=
  d.sit.drain.toList ++ d.sit.batch.map (·.1) ++ (match d.ckp.running with | some k => k.reply.toList | none => []) ++ d.int.queue.flatMap (·.reqs) ++ d.int.kat
    ++ d.lnk.flash.flatMap (fun e => match e.2 with | some x => x.xfers.filterMap (·.reply) | none => [])

/-- A command that is never answered was accepted: its record entry stands, with a status that is free (log 2). -/
def recUnanswered (d : Dev) (r : ReplyTo) : Dev := let f := freeNat d; recSettle f.2 r (some (f.1 % 65536))

/-- Long commands that a stop of the pair abandons: a checkpoint and a drain end, and no requester of a command that ran is answered (R534). -/
def abandonLong (d : Dev) : Dev :=
  let d := (longAsked d).foldl recUnanswered d
  let d := if draining d then ledsFault (fset d Reg.SIT_STATUS Fd.SIT_STATUS_draining 0) 0 else d
  { d with
    sit := { d.sit with drain := none, batch := [] }
    ckp := { d.ckp with running := none }
    int := { d.int with queue := d.int.queue.map (fun e => { e with reqs := [] }), kat := [] }
    lnk := { d.lnk with flash := d.lnk.flash.map (fun e => (e.1, e.2.map (fun x => { x with xfers := x.xfers.map (fun t => { t with reply := none }) }))) } }

/-- The pair restarts from the confirmed slot; an activation that had not been confirmed is reverted (R549). -/
def pairRestart (d : Dev) : Dev :=
  let act : Bool := match d.sit.restart with | some r => r.prev.isSome | none => false
  let owed := match d.sit.restart with | some r => r.reply | none => none
  let back : Bool := act || d.sit.trial.isSome
  let d := abandonLong d
  let d := { d with sit := { d.sit with restart := some ⟨confirmedSlot d, none, owed⟩, trial := none } }
  let d := restarting d true
  if back then raise (fset d Reg.SIT_FW_STATUS Fd.SIT_FW_STATUS_reverted 1) 980 else d

/-- LOCKSTEP_MISMATCH (R534). -/
def lockstep (d : Dev) : Dev := pairRestart (raise (event (bump d Reg.SIT_LOCKSTEP_CNT) 5 0) 974)

/-- The firmware handler of a RECOVERABLE source (R535), or the event record of a DEGRADE action. -/
def handlerRun (d : Dev) (n : Nat) (deg : Bool) : Dev :=
  let d := event d 0 (if deg then 2 else 1) [] (some ((refRecord d n 3).take 28))
  if deg then d else if n < 128 then linkRetrain d n else if n = 985 then emit d .pcieRetrain else d

/-- Sitonel handles a source, at once or when its restart has ended. -/
def handle (d : Dev) (n : Nat) (deg : Bool) : Dev :=
  if d.sit.restart.isSome then { d with sit := { d.sit with handler := d.sit.handler ++ [(n, deg)] } } else handlerRun d n deg

/-- SITONEL_RESTART_DONE (R534, R548, R549): `good` says whether the image that was started passed its self-check. -/
def restartDone (d : Dev) (good : Bool) : Dev :=
  match d.sit.restart with
  | none => d
  | some r =>
    if good then
      let d := fset d Reg.SIT_FW_STATUS Fd.SIT_FW_STATUS_running r.slot
      let hs := d.sit.handler
      let d := restarting { d with sit := { d.sit with restart := none, handler := [], trial := r.prev.map (fun s => (s, ns d + 10 * 10 ^ 9)) } } false
      let d := match r.reply with
        | some q => replyLate d q (if r.prev.isSome then St.ok else St.imageInvalid) []
        | none => d
      hs.foldl (fun d h => handlerRun d h.1 h.2) (event d 2 1 [r.slot])
    else if r.prev.isSome then pairRestart d
    else { d with sit := { d.sit with fails := d.sit.fails.filter (fun t => decide (ns d < t + 600 * 10 ^ 9)) ++ [ns d] } }

/-- FW_REVERT (R549): the new image failed its self-check or stopped before it was confirmed. -/
def fwRevert (d : Dev) : Dev :=
  let act : Bool := match d.sit.restart with | some r => r.prev.isSome | none => false
  if act ∨ d.sit.trial.isSome then pairRestart (event d 2 2) else d

/-- FW_CONFIRM (R548): 10 s after its start the new slot is confirmed. -/
def fwConfirm (d : Dev) : Dev :=
  match d.sit.trial with
  | some t =>
    if ns d < t.2 ∨ d.sit.restart.isSome then d
    else
      let s := runningSlot d
      let d := fset { d with sit := { d.sit with trial := none } } Reg.SIT_FW_STATUS Fd.SIT_FW_STATUS_confirmed s
      let m := max (fget d Reg.SIT_FW_STATUS Fd.SIT_FW_STATUS_min_sec) (min (fwSec d s) 0xFFFF)
      event (fset d Reg.SIT_FW_STATUS Fd.SIT_FW_STATUS_min_sec m) 2 3 [s]
  | none => d

/-- FW_LOAD (R547). -/
def fwLoad (d : Dev) (p : List Byte) : Ans :=
  let s := field p 0 1
  checks [(0, decide (p.length < 1 ∨ s ≤ 1)), (1, decide (field p 1 3 = 0)), (4, decide (field p 4 4 + (p.length - 8) ≤ 2 ^ 24))]
    (if p.length < 8 then .bad p.length
    else if s = runningSlot d ∨ draining d ∨ d.sit.restart.isSome then .err St.updateBusy
    else
      let o := s * 2 ^ 24 + field p 4 4
      let fw := ((p.drop 8).foldl (fun a b => (a.1 + 1, tset none a.2 a.1 (some b))) (o, d.sit.fw)).2
      .done (event (slotMark { d with sit := { d.sit with fw := fw } } s false) 2 0 [s]) [])

/-- Whether another long Sitonel command runs. -/
def longRunning (d : Dev) : Bool :=
  draining d || d.sit.restart.isSome || d.ckp.running.isSome || !d.sit.batch.isEmpty || d.int.queue.any (fun e => !e.reqs.isEmpty)
    || d.lnk.flash.any (fun e => match e.2 with | some x => x.xfers.any (fun t => t.reply.isSome) | none => false)

/-- FW_ACTIVATE (R548). -/
def fwActivate (d : Dev) (r : ReplyTo) (p : List Byte) (signatureOk : Bool) : Ans :=
  let s := field p 0 1
  checks [(0, decide (p.length < 1 ∨ s ≤ 1))] (needLen p 1
    (if !fwVerifies d s signatureOk then .err St.imageInvalid
    else if longRunning d then .err St.updateBusy
    else if fwMajor d s ≠ fwMajor d (runningSlot d) ∧ !d.seq.buckets.isEmpty then .err St.updateBusy
    else
      let d := slotMark d s true
      .later (restarting (event { d with sit := { d.sit with restart := some ⟨s, some (confirmedSlot d), some r⟩ } } 2 4 [s]) true)))

/-! ## The button and the service drain (R554, R555) -/

def drainStart (d : Dev) (r : Option ReplyTo) : Dev :=
  let d := fset (fset d Reg.SIT_STATUS Fd.SIT_STATUS_draining 1) Reg.SIT_STATUS Fd.SIT_STATUS_drained 0
  ledsFault { d with sit := { d.sit with drain := r } } 3

/-- SERVICE_DRAIN (R555). -/
def serviceDrain (d : Dev) (r : ReplyTo) (p : List Byte) : Ans :=
  let f := field p 0 1
  checks [(0, decide (f % 128 = 0))] (needLen p 1
    (if 128 ≤ f then
      let owed := d.sit.drain
      let d := if draining d then ledsFault (fset d Reg.SIT_STATUS Fd.SIT_STATUS_draining 0) 0
        else fset d Reg.SIT_STATUS Fd.SIT_STATUS_drained 0
      let d := { d with sit := { d.sit with drain := none } }
      .done (match owed with | some q => anyStatus d q | none => d) []
    else if draining d then .err St.updateBusy
    else .later (drainStart d (some r))))

/-- Whether nothing is left that a drain waits for (R555); without a partner there is no log head to acknowledge. -/
def drainIdle (d : Dev) : Bool :=
  d.seq.buckets.all (fun e => e.2.isNone) && d.hud.inst.isEmpty && d.lsn.runs.isEmpty && d.ckp.running.isNone
    && (decide (partnerState d = 0) || decide (logMirrored d = rg64 d Reg.RECORD_SEQ_0))

/-- SERVICE_DRAIN_COMPLETE (R555). -/
def drainDone (d : Dev) : Dev :=
  if !draining d ∨ !drainIdle d ∨ d.sit.restart.isSome then d
  else
    let owed := d.sit.drain
    let d := fset (fset d Reg.SIT_STATUS Fd.SIT_STATUS_draining 0) Reg.SIT_STATUS Fd.SIT_STATUS_drained 1
    let d := ledsLocate (ledsFault { d with sit := { d.sit with drain := none } } 0) true
    match owed with | some q => replyLate d q St.ok [] | none => d

def locateSet (d : Dev) (on : Bool) : Dev :=
  let d := ledsLocate (fset d Reg.SIT_STATUS Fd.SIT_STATUS_locate on.toNat) on
  { d with sit := { d.sit with locate := if on then some (ns d + 300 * 10 ^ 9) else none } }

/-- ATTN_PRESS (R554): a press of so many ms, at its release, or at 4 s for a longer one. -/
def attnPress (d : Dev) (ms : Nat) : Dev :=
  if ms < 50 then d
  else if ms < 4000 then locateSet (event d 4 0 [ms]) (!fbit d Reg.SIT_STATUS Fd.SIT_STATUS_locate)
  else if draining d then event d 4 1 [ms]
  else raise (drainStart (event d 4 2 [ms]) none) 984

/-- LOCATE_TIMEOUT (R554). -/
def locateTimeout (d : Dev) : Dev :=
  match d.sit.locate with
  | some t => if t ≤ ns d then locateSet d false else d
  | none => d

end Sys2Proof.Machine
end

