-- ==== Sys2Proof/Machine/Partner.lean ====
section
/-! DEFINITION. Surviving failures (14): exports and imports of groups, the partner and its mirror, takeover, rebuilding of lines, and
checkpoints. -/

namespace Sys2Proof.Machine

/-! ## Export and import of groups (R475 to R477) -/

/-- Length of an export by its first 64 bytes. -/
def exportLen (b : List Byte) : Nat :=
  64 + 8 * ceilDiv (ceilDiv (field b 8 3) 8) 8 + 12 * field b 54 2
    + (if bit (byteAt b 7) 7 then 131072 else 0) + 4

/-- An export whose CRC, length and reserved values are right, for a huddle group or for a context. -/
def exportOk (huddle : Bool) (b : List Byte) : Bool :=
  let n := b.length
  decide (n = exportLen b ∧ 68 ≤ n) && decide (field b (n - 4) 4 = crc32c (b.take (n - 4))) && (bit (byteAt b 0) 7 == huddle)
  && decide (bits (field b 0 2) 14 12 = 0 ∧ byteAt b 5 ≤ 1 ∧ byteAt b 7 % 128 = 0 ∧ byteAt b 4 ≤ (if huddle then 1 else 2))
  && (!huddle || decide (byteAt b 7 = 0 ∧ field b 11 3 = 0 ∧ field b 34 2 = 0 ∧ field b 38 3 = 0 ∧ field b 41 13 = 0 ∧ byteAt b 33 % 2 = 0)
    && decide (field b 64 (8 * ceilDiv (ceilDiv (field b 8 3) 8) 8) = 0))

/-- The body of R502 that sets every field as an export does. -/
def exportBody (huddle : Bool) (b : List Byte) : Nat × List Byte :=
  let mask := if huddle then 2 ^ 11 - 1 - 8 - 32 else 2 ^ 16 - 1
  let roll := if huddle then 8 * ceilDiv (ceilDiv (field b 8 3) 8) 8 else 0
  let tail := (b.drop (64 + roll)).take (exportLen b - 68 - roll - (if bit (byteAt b 7) 7 then 131072 else 0))
  (mask, beBytes 4 mask ++ beBytes 4 0 ++ b.take 64 ++ tail)

/-- The context that an export gives, if every field is in its range. -/
def exportGroup (b : List Byte) : Option Group :=
  let m := exportBody false b
  let g := bodyGroup m.1 m.2 { Group.free with st := 1 }
  if exportOk false b ∧ firstBad (bodyChecks true m.1 m.2 Group.free g) = none then some g else none

def exportHud (b : List Byte) : Option HGroup :=
  let m := exportBody true b
  let g := hudBody m.1 m.2 { HGroup.free with valid := true }
  if exportOk true b ∧ firstBad (hudChecks true m.1 m.2 g) = none then some g else none

/-- The RM16 history of an export replaces that of a context (R477). -/
def historyPut (d : Dev) (i : Nat) (b : List Byte) : Dev :=
  if !bit (byteAt b 7) 7 then d
  else
    let o := exportLen b - 4 - 131072
    let rest := d.seq.rmHist.filter (fun e => decide (e.1 / 65536 ≠ i))
    { d with seq := { d.seq with rmHist := (List.range 65536).foldl (fun h t =>
        let v := field b (o + 2 * t) 2
        if v = 0xFFFF then h else tput h (i * 65536 + t) v) rest } }

/-- Bytes of an export in a region, or a status. -/
def exportIn (d : Dev) (h : CmdHdr) (hd off : Nat) : Except Nat (List Byte) :=
  match regionOf d hd with
  | none => .error St.noRegion
  | some (_, r) =>
    if r.secure != h.world then .error St.worldDenied
    else if off + 64 > regionBytes r then .error St.regionBounds
    else
      let n := exportLen (deliverBytes d r off 64)
      if off + n > regionBytes r then .error St.regionBounds else .ok (deliverBytes d r off n)

/-- GROUP_EXPORT (R475, R476). -/
def groupExportCmd (d : Dev) (h : CmdHdr) (p : List Byte) : Ans :=
  let num := field p 0 2
  let i := num % 4096
  let put := fun (bytes : List Byte) => match regionOf d (field p 4 4) with
    | none => Ans.err St.noRegion
    | some (_, r) =>
      if r.secure != h.world then .err St.worldDenied
      else if field p 8 8 + bytes.length > regionBytes r then .err St.regionBounds
      else .done (regionWrite d r (field p 8 8) bytes) (beBytes 4 bytes.length)
  needLen p 16 (checks [(0, decide (bits num 14 12 = 0) && (num < 32768 || decide (i < 256))), (2, decide (byteAt p 2 % 128 = 0)), (3, decide (byteAt p 3 = 0)), (6, handleOk (field p 4 4))]
    (if num ≥ 32768 then withHud d i h.world (fun g => put (hudExport i g))
     else withGroup d i h.world (fun g => put (groupExport d i (bit (byteAt p 2) 7) g))))

/-- Install a context (R477): a FREE target at the exported epoch plus 1, an ACTIVE one at 1 plus the larger epoch; none where that epoch is
one of a bucket not FREE. -/
def groupInstall (d : Dev) (i : Nat) (b : List Byte) : Option Dev :=
  match exportGroup b with
  | none => none
  | some g =>
    let old := groupAt d i
    let e := ((if old.st = 0 then field b 2 2 else max old.epoch (field b 2 2)) + 1) % 65536
    if (bucketsOf d i).any (fun x => decide (kEpoch x.1 = e)) then none
    else some (historyPut (groupPut d i { g with st := 1, epoch := e, importing := none }) i b)

def hudInstall (d : Dev) (i : Nat) (b : List Byte) (g : HGroup) : Dev :=
  let old := hgroupAt d i
  hgroupPut d i { g with epoch := ((if old.valid then max old.epoch (field b 2 2) else field b 2 2) + 1) % 65536 }

/-- GROUP_IMPORT (R477): an ACTIVE context is FROZEN until GROUP_IMPORT_INSTALLED answers the command. -/
def groupImportCmd (d : Dev) (h : CmdHdr) (r : ReplyTo) (p : List Byte) : Ans :=
  let num := field p 12 2
  let i := num % 4096
  needLen p 16 (checks [(2, handleOk (field p 0 4)), (12, decide (bits num 14 12 = 0) && (num < 32768 || decide (i < 256))), (14, decide (field p 14 2 = 0))]
    (match exportIn d h (field p 0 4) (field p 4 8) with
    | .error s => .err s
    | .ok b =>
      if num ≥ 32768 then
        let old := hgroupAt d i
        match exportHud b with
        | none => .err St.importInvalid
        | some g =>
          if (g.world || old.valid && old.world) && !h.world then .err St.worldDenied
          else if old.valid ∧ hudBusy d i then .err St.groupBusy
          else let d := hudInstall d i b g; .done d (beBytes 2 (hgroupAt d i).epoch)
      else
        let old := groupAt d i
        match exportGroup b with
        | none => .err St.importInvalid
        | some g =>
          if (g.world || old.st ≠ 0 && old.world) && !h.world then .err St.worldDenied
          else if old.st = 2 then .err St.groupBusy
          else if old.st = 1 ∧ ctxBound d i ∧ (g.role ≠ old.role ∨ g.metroN ≠ old.metroN ∨ g.metroRank ≠ old.metroRank) then .err St.shardBusy
          else match groupRoom d old g with
            | some st => tableRefusal d st
            | none => match groupInstall d i b with
              | none => .err St.epochBusy
              | some d' =>
                if old.st = 0 then .done d' (beBytes 2 (groupAt d' i).epoch)
                else .later (groupPut d i { old with st := 2, importing := some (r, b) })))

/-- GROUP_IMPORT_INSTALLED (R477): the FROZEN context takes the import and its requester is answered; where an epoch came into use meanwhile,
the import is refused. -/
def importInstalled (d : Dev) (i : Nat) : Dev :=
  let g := groupAt d i
  match g.importing with
  | none => d
  | some (r, b) =>
    let back := { g with st := 1, importing := none }
    match groupInstall (groupPut d i back) i b with
    | some d => replyLate d r St.ok (beBytes 2 (groupAt d i).epoch)
    | none => reply (recSettle (groupPut d i back) r none) r St.epochBusy []

/-- Exports owed to the partner (R463): stream 5, the number with 32,768 added for a huddle group. -/
def exportsOwed (d : Dev) : Dev :=
  if d.ckp.dirty.isEmpty then d
  else
    let ks := d.ckp.dirty.map (·.1)
    let d := { d with ckp := { d.ckp with dirty := [] } }
    ks.foldl (fun d n =>
      let b := if n ≥ 32768 then hudExport (n - 32768) (hgroupAt d (n - 32768)) else groupExport d n false (groupAt d n)
      mirPush d (mirKey 5 n) 0 b true) d

/-! ## The pairing (R461 to R465) -/

def partnerTo (d : Dev) (s : Nat) : Dev := fset d Reg.CKP_STATUS Fd.CKP_STATUS_partner_state s

def mirrorEn (d : Dev) : Bool := fbit d Reg.CKP_CTRL Fd.CKP_CTRL_mirror_en

/-- What REFILLING copies (R463): the log from the durable point, every stream of the shards, the exports of every group. -/
def refill (d : Dev) : Dev :=
  let d := { d with ckp := { d.ckp with outbox := [], outs := [], whole := [], heard := ns d, lagSeen := false } }
  let d := partnerTo d 1
  let es := d.log.filter (fun e => decide (rg64 d Reg.LOG_DURABLE_0 ≤ e.seq))
  let start := match es with | e :: _ => e.off | [] => logNext d
  let d := mirOutPut d 0 { MirOut.init with next := start % max 1 (logSize d) }
  let d := (es.foldl (fun (a : Nat × Dev) e =>
    let fill := if e.off < a.1 then [((0 : Nat), a.1, List.replicate (logSize a.2 - a.1) (0 : Byte), false)] else []
    let box := a.2.ckp.outbox ++ fill.filter (fun x => !x.2.2.1.isEmpty) ++ [(0, e.off, e.bytes, false)]
    (e.off + e.bytes.length, { a.2 with ckp := { a.2.ckp with outbox := box } })) (start, d)).2
  let d := d.lsn.shards.foldl (fun d e => mirAdopt d e.1) d
  let gs := (d.seq.groups.filter (fun e => decide (e.2.st ≠ 0))).map (·.1)
  let hs := (d.hud.groups.filter (fun e => e.2.valid)).map (fun e => e.1 + 32768)
  { d with ckp := { d.ckp with dirty := (gs ++ hs).foldl (fun m k => tset false m k true) d.ckp.dirty } }

/-- The pairing is formed once both switches have bound each other (R461); the partner's binding shows in its first frame (log 34). -/
def partnerForm (d : Dev) : Dev :=
  if d.ckp.bound ∧ d.ckp.theirs ∧ mirrorEn d ∧ partnerState d = 0 then refill d else d

/-- A refill that is acknowledged in full ends (R463): MIRRORED. Runs and attempts in progress are mirrored whole at their end (log 26). -/
def refillCheck (d : Dev) : Dev :=
  if partnerState d = 1 ∧ d.ckp.outbox.isEmpty ∧ d.ckp.dirty.isEmpty ∧ d.ckp.outs.all (fun e => e.2.segs.isEmpty) then
    let d := { partnerTo d 2 with ckp := { d.ckp with wasFull := true } }
    let d := d.lsn.runs.foldl (fun d r => if r.st = .running then [1, 2, 3].foldl (fun d st => wholePut d st r.shard true) d else d) d
    d.seq.buckets.foldl (fun d e => match e.2 with
      | some b => match b.shard with | some i => wholePut d 4 i true | none => d
      | none => d) d
  else d

/-- The copies of the partner's regions are freed, and the pairing's streams with them (R461). -/
def partnerFree (d : Dev) : Dev :=
  let d := d.ckp.regions.foldl (fun d e => dropRegion d e.2) d
  { d with ckp := { d.ckp with outbox := [], outs := [], ins := [], regions := [], exports := [], unmirrored := [], inbox := [], whole := [],
                               theirs := false, wasFull := false, lagSeen := false } }

/-- PARTNER_BIND (R461): a partner that is LOST may be replaced (R478). -/
def partnerBind (d : Dev) (p : List Byte) : Ans :=
  let c := field p 0 3
  needLen p 4 (checks [(0, decide (cGroup c < 127 ∧ c % 2048 = 2047 ∧ c ≠ mgmtCoord d)), (3, decide (byteAt p 3 = 0))]
    (if d.ckp.bound ∧ partnerState d ≠ 3 then .err St.partnerBusy
     else
       let d := if d.ckp.bound then partnerFree d else d
       let d := rgPut (partnerTo d 0) Reg.CKP_PARTNER c
       .done (partnerForm { d with ckp := { d.ckp with bound := true, beatAt := 0, heard := ns d } }) []))

/-- PARTNER_UNBIND (R461). -/
def partnerUnbind (d : Dev) (p : List Byte) : Ans :=
  needLen p 0 (
    let d := partnerFree d
    .done (rgPut (partnerTo { d with ckp := { d.ckp with bound := false } } 0) Reg.CKP_PARTNER 0) [])

/-- A write of 0 to CKP_CTRL.mirror_en (R482). -/
def mirrorOff (d : Dev) : Dev :=
  let d := if d.ckp.bound then partnerTo d 0 else d
  { d with ckp := { d.ckp with outbox := [], outs := [], whole := [], theirs := false, lagSeen := false } }

/-- A control frame to the partner: BEAT, or an ACK of a stream up to an offset (R464). It holds no granule of its own where the quota is full. -/
def partnerSend (d : Dev) (stream num flags off : Nat) : Dev := originate d (mirFrame d stream num flags off [])

/-- MIRROR_BEAT (R464). -/
def mirrorBeat (d : Dev) : Dev :=
  if d.ckp.bound ∧ mirrorEn d ∧ partnerState d ≠ 3 ∧ running d then
    partnerSend { d with ckp := { d.ckp with beatAt := ns d } } 9 0 0 0
  else d

/-- MIRROR_RESEND_TIMEOUT (R464): a stream without progress for 100 µs goes out again from the acknowledged offset. -/
def mirrorResend (d : Dev) : Dev :=
  if !mirSending d then d
  else d.ckp.outs.foldl (fun d e =>
    if e.2.sent > 0 ∧ e.2.at_ + 100000 ≤ ns d then mirOutPut d e.1 { e.2 with sent := 0, at_ := ns d } else d) d

/-- PARTNER_LOST (R464). -/
def partnerLost (d : Dev) : Dev :=
  if mirSending d ∧ d.ckp.heard + 1000000 * fget1 d Reg.CKP_CTRL Fd.CKP_CTRL_lost_ms ≤ ns d then
    raise (partnerTo { d with ckp := { d.ckp with outbox := [], outs := [], whole := [] } } 3) 1000
  else d

/-- Lag of the mirrored point (R465): the first entry not acknowledged is older than lag_ms; once for each lag. -/
def mirrorLag (d : Dev) : Dev :=
  if !mirSending d then d
  else
    let lim := 1000000 * fget1 d Reg.CKP_CTRL Fd.CKP_CTRL_lag_ms
    let m := rg64 d Reg.LOG_MIRRORED_0
    let late := d.log.any (fun e => decide (m ≤ e.seq ∧ e.time + lim < ns d))
    if late ∧ !d.ckp.lagSeen then raise { d with ckp := { d.ckp with lagSeen := true } } 1003
    else if !late ∧ d.ckp.lagSeen then { d with ckp := { d.ckp with lagSeen := false } }
    else d

/-! ## What the partner sends (R462, R464) -/

def mirIn (d : Dev) (k : Nat) : Option MirIn := tget none d.ckp.ins k
def mirInPut (d : Dev) (k : Nat) (x : MirIn) : Dev := { d with ckp := { d.ckp with ins := tset none d.ckp.ins k (some x) } }

def peerShard (i : Nat) : Shard := bindShard (Config.peerShard i).1 (Config.peerShard i).2

/-- Bytes of the streams W, S1, S2 and G of a partner's shard (R462). -/
def peerSizes (d : Dev) (i : Nat) : List Nat :=
  let s := peerShard i
  let n := (shardSpan d s).2
  [streamBytes s.w.fmt n, streamBytes s.s1.fmt n, streamBytes s.s2.fmt n, 4 * n]

/-- Offset of a stream in the PARTNER region of a shard. -/
def peerOff (d : Dev) (i stream : Nat) : Nat := ((peerSizes d i).take (stream - 1)).foldl (· + ·) 0

/-- The PARTNER region of a shard, or of the log under 65,536, placed where there is none yet (R462). -/
def peerRegion (d : Dev) (i : Nat) : Option (Nat × Dev) :=
  match d.ckp.regions.find? (fun e => decide (e.1 = i)) with
  | some e => some (e.2, d)
  | none =>
    let bytes := if i = 65536 then logSize d else (peerSizes d i).foldl (· + ·) 0
    match freeRegion d with
    | none => none
    | some x =>
      let w := if i = 65536 then true else (Config.peerShard i).2
      match placeRegion d x w false true 5 (max 1 (ceilDiv bytes granBytes)) 0 with
      | none => none
      | some d => some (x, { d with ckp := { d.ckp with regions := tput d.ckp.regions i x } })

/-- Store mirrored data at a stream offset, if the partner's copy has a place. -/
def peerStore (d : Dev) (stream num off : Nat) (bs : List Byte) : Option Dev :=
  let i := if stream = 0 then 65536 else num
  match peerRegion d i with
  | none => none
  | some (x, d) =>
    let r := regionAt d x
    let o := if stream = 0 then off else peerOff d i stream + off
    if o + bs.length > regionBytes r then none else some (regionWrite d r o bs)

/-- Data of a stream (R464): taken only at the next expected offset, and acknowledged. -/
def mirrorData (d : Dev) (stream num off : Nat) (last : Bool) (bs : List Byte) : Dev :=
  let k := mirKey stream num
  let x := (mirIn d k).getD ⟨if stream = 0 then off else 0, []⟩
  if off ≠ x.expect then d
  else
    let nx := off + bs.length
    let nx' := if stream = 0 then nx % max 1 (logSize d) else nx
    let stored := if stream = 5 then some d else peerStore d stream num off bs
    match stored with
    | none => d
    | some d =>
      let data := x.data ++ bs
      let logAt := beBytes 8 ((mirIn d 0).getD ⟨0, []⟩).expect
      let d := if stream = 5 ∧ last then { d with ckp := { d.ckp with exports := tput d.ckp.exports num data } } else d
      let keep := if stream = 5 then (if last then [] else data) else if last then logAt else x.data
      partnerSend (mirInPut d k ⟨if last then 0 else nx', keep⟩) 8 num stream nx'

/-- MIRROR_FRAME_RECEIVE (R464): the next CHECKPOINT frame from the bound partner. -/
def mirrorReceive (d : Dev) : Dev :=
  match d.ckp.inbox with
  | [] => d
  | b :: rest =>
    let d := { d with ckp := { d.ckp with inbox := rest } }
    if !d.ckp.bound ∨ !mirrorEn d ∨ fSrc b ≠ rg d Reg.CKP_PARTNER % 2 ^ 24 ∨ partnerState d = 3 then d
    else
      let d := partnerForm { d with ckp := { d.ckp with theirs := true } }
      let stream := byteAt b 16
      let flags := byteAt b 17
      let num := field b 18 2
      let off := field b 20 8
      let data := b.drop 32
      if stream = 9 then { d with ckp := { d.ckp with heard := ns d } }
      else if stream = 8 then mirAck { d with ckp := { d.ckp with heard := ns d } } (mirKey (flags % 16) num) off
      else if stream > 5 ∨ field b 28 4 ≠ crc32c data then d
      else mirrorData d stream num off (bit flags 7) data

/-! ## Takeover (R467) -/

/-- The entries of the partner's log with their offsets, and the latest that a test picks. -/
def peerLog (d : Dev) : List (Nat × List Byte) :=
  match d.ckp.regions.find? (fun e => decide (e.1 = 65536)) with
  | none => []
  | some e => ((walkEntries d (regionAt d e.2) (d.mem.hbm.length + 1) 0).foldl (fun (a : Nat × List (Nat × List Byte)) x => (a.1 + x.length, a.2 ++ [(a.1, x)])) (0, [])).2

def peerLast (d : Dev) (hit : List Byte → Bool) : Option (Nat × List Byte) :=
  ((peerLog d).filter (fun x => hit x.2)).foldl (fun best x => match best with
    | some y => if field x.2 4 6 > field y.2 4 6 then some x else best
    | none => some x) none

/-- The last RUN entry of a shard in the partner's log. -/
def peerRun (d : Dev) (i : Nat) : Option (Nat × List Byte) := peerLast d (fun x => decide (entTyp x = 7 ∧ field x 28 2 = i))

/-- The BUCKET entry with which the bucket of that run was inked. -/
def peerBucket (d : Dev) (tag : Nat) (run : List Byte) : Option (List Byte) :=
  (peerLast d (fun x => decide (entTyp x = 2 ∧ field x 20 8 = field run 20 8 ∧ field x 28 2 = tag ∧ byteAt x 54 = 0))).map (·.2)

/-- Rows of the last run of a partner's shard that were acknowledged, by the streams its lesson stores; none where every row was. -/
def peerRows (d : Dev) (i : Nat) (s : Shard) (at' : Nat) : Option Nat :=
  let rows := shardRows d s
  let got := (mirStreams d s).map (fun x =>
    let m := (mirIn d (mirKey x.1 i)).getD ⟨0, []⟩
    if m.expect > 0 then m.expect / (64 * x.2) else if field m.data 0 8 ≤ at' then 0 else rows)
  match got with
  | [] => none
  | g :: gs => let m := gs.foldl min g; if m < rows then some m else none

/-- A shard of the partner is bound here over its PARTNER region, which becomes class SHARD; an unfinished run resumes, with what its bucket's entry
records of attempt, E_ref and toss seed. A run handled as SKIP has no rows to resume. -/
def adoptShard (d : Dev) (i x : Nat) : Option Dev :=
  match (List.range 1024).find? (fun j => (shardAt d j).isNone) with
  | none => none
  | some j =>
    let run := peerRun d i
    let q := peerShard i
    let rows := match run with | some e => if byteAt e.2 31 = 1 then none else peerRows d i q e.1 | none => none
    let hd := handleOf d x
    let o := fun st => peerOff d i st
    let s := { q with w := { q.w with handle := hd, off := o 1 }, s1 := { q.s1 with handle := hd, off := o 2 }, s2 := { q.s2 with handle := hd, off := o 3 },
                      gPlace := true, g := { q.g with handle := hd, off := o 4 } }
    let step := match run with | some e => field e.2 24 4 | none => 0
    let s := match run with
      | some e => { s with cur := (List.range 14).map (fun t => field e.2 (36 + 4 * t) 4), lastStep := step, ran := true,
                           status := byteAt e.2 31, lastKey := bkey (field e.2 20 2 % 4096) (field e.2 22 2) s.tag }
      | none => s
    let s := match run.bind (fun e => peerBucket d s.tag e.2) with
      | some b => { s with lastAtt := byteAt b 30, lastEref := signed 16 (field b 34 2), seed := field b 36 8 }
      | none => s
    let d := shardPut (regionPut d x { regionAt d x with cls := 1 }) j s
    match run, rows with
    | some e, some n =>
      let r : Run := { shard := j, key := s.lastKey, att := s.lastAtt, st := .running, ord := d.lsn.ord, next := n, redo := [], done := n,
                       s := (List.range 17).map (fun t => field e.2 (36 + 4 * t) 4), wait := ns d, noted := false, pubs := [], normed := true, clip := (field e.2 100 4, field e.2 92 4) }
      some { d with lsn := { d.lsn with runs := d.lsn.runs ++ [r], ord := d.lsn.ord + 1 } }
    | _, _ => some d

/-- Import the partner's groups: contexts imported, numbers skipped. -/
def adoptGroups (d : Dev) : (Nat × List Nat) × Dev :=
  d.ckp.exports.foldl (fun a e =>
    let i := e.1 % 32768
    if byteAt e.2 4 = 0 then a
    else if e.1 ≥ 32768 then
      match (if (hgroupAt a.2 i).valid then none else exportHud e.2) with
      | some g => ((a.1.1 + 1, a.1.2), hudInstall a.2 i e.2 g)
      | none => ((a.1.1, a.1.2 ++ [e.1]), a.2)
    else match (if (groupAt a.2 i).st = 0 then groupInstall a.2 i e.2 else none) with
      | some d => ((a.1.1 + 1, a.1.2), d)
      | none => ((a.1.1, a.1.2 ++ [e.1]), a.2)) ((0, []), d)

/-- PARTNER_TAKEOVER (R467). -/
def partnerTakeover (d : Dev) (p : List Byte) : Ans :=
  needLen p 0 (
    if partnerState d = 1 ∨ partnerState d = 2 then .err St.partnerBusy
    else if partnerState d ≠ 3 ∨ !d.ckp.wasFull then .err St.partnerIncomplete
    else
      let g := adoptGroups d
      let shards := g.2.ckp.regions.filter (fun e => decide (e.1 ≠ 65536))
      let s := shards.foldl (fun (a : Nat × Dev) e => match adoptShard a.2 e.1 e.2 with
        | some d => (a.1 + 1, d)
        | none => a) (0, g.2)
      let d := match s.2.ckp.regions.find? (fun e => decide (e.1 = 65536)) with
        | some e => regionPut s.2 e.2 { regionAt s.2 e.2 with cls := 4 }
        | none => s.2
      let d := { d with ckp := { d.ckp with regions := [], exports := [], ins := [], wasFull := false } }
      .done d (beBytes 2 g.1.1 ++ beBytes 2 s.1 ++ beBytes 2 g.1.2.length ++ g.1.2.flatMap (beBytes 2)))

/-! ## Rebuilding lines (R469) -/

/-- Rows of a run that a rebuilt line of its shard brings back to the partner's old state: those that had run and were not acknowledged. -/
def redoRows (d : Dev) (i : Nat) (s : Shard) (ri o : Nat) : Dev :=
  runMod d i (fun r =>
    let hit := (mirStreams d s).filterMap (fun x =>
      let st := match x.1 with | 1 => s.w | 2 => s.s1 | _ => s.s2
      match regionOf d st.handle with
      | some (j, _) => if j = ri ∧ st.off ≤ o + 63 ∧ o < st.off + 64 * x.2 * shardRows d s then
          some ((o - st.off) / (64 * x.2), mirPos d (mirKey x.1 i) / (64 * x.2)) else none
      | none => none)
    match hit with
    | (k, acked) :: _ => if acked ≤ k ∧ k < r.next ∧ !(r.redo.any (fun y => decide (y.1 = k))) then { r with redo := r.redo ++ [(k, 64)], done := r.done - 1 } else r
    | [] => r)

/-- A line written with rebuilt bytes. -/
def rebuilt (d : Dev) (x : Nat) (bs : List Byte) : Dev := bump (lineWrite d x (2 ^ 64 - 1) (bs ++ List.replicate (64 - bs.length) 0)) Reg.CKP_REBUILD_CNT

/-- LINE_REBUILD_DONE (R469): `data` is what the source held, none where it could give nothing. -/
def lineRebuild (d : Dev) (x : Nat) (data : Option (List Byte)) : Dev :=
  if !poisoned d x then d
  else match ownerOf d (x / stackLines) (x % stackLines / granLines) with
    | none => d
    | some (ri, w) =>
      let r := regionAt d ri
      let g := x % stackLines / granLines - (r.ways.getD w (0, 0)).2
      let o := (g * r.ways.length + w) * granBytes + x % granLines * 64
      let lost := raise d 1005
      match r.cls with
      | 1 => match data with
        | some bs =>
          if partnerState d ≠ 2 then lost
          else
            let d := rebuilt d x (bs.take 64)
            d.lsn.shards.foldl (fun d e => match e.2 with | some s => redoRows d e.1 s ri o | none => d) d
        | none => lost
      | 5 => match data with
        | some bs => if mirSending d then rebuilt d x (bs.take 64) else d
        | none => if partnerState d = 2 then partnerTo d 1 else d
      | _ =>
        if ri = 7 then
          let below := match d.log.reverse.find? (fun e => decide (e.off ≤ o + 63 ∧ o < e.off + e.bytes.length)) with
            | some e => decide (e.seq < rg64 d Reg.LOG_MIRRORED_0)
            | none => false
          match data with
          | some bs => if below then rebuilt d x (bs.take 64) else fset lost Reg.CKP_STATUS Fd.CKP_STATUS_log_gap 1
          | none => fset lost Reg.CKP_STATUS Fd.CKP_STATUS_log_gap 1
        else d

/-! ## Checkpoints (R470 to R472) -/

def granUp (n : Nat) : Nat := ceilDiv n granBytes

/-- Exports of every group context and huddle group, one after another; contexts with their history. -/
def allExports (d : Dev) : List (List Byte) :=
  (d.seq.groups.filter (fun e => decide (e.2.st ≠ 0))).map (fun e => groupExport d e.1 true e.2)
  ++ (d.hud.groups.filter (fun e => e.2.valid)).map (fun e => hudExport e.1 e.2)

/-- Bytes of a shard's W, S1 and S2 streams. -/
def shardBytes (d : Dev) (s : Shard) : Nat :=
  let n := (shardSpan d s).2
  streamBytes s.w.fmt n + streamBytes s.s1.fmt n + streamBytes s.s2.fmt n

/-- The STEP entry of a step in the log. -/
def stepEntry (d : Dev) (n : Nat) : Option LogEnt := d.log.reverse.find? (fun e => decide (entTyp e.bytes = 8 ∧ field e.bytes 24 4 = n))

/-- Log entries from the durable point to a sequence. -/
def logSpan (d : Dev) (seq : Nat) : List LogEnt := d.log.filter (fun e => decide (rg64 d Reg.LOG_DURABLE_0 ≤ e.seq ∧ e.seq ≤ seq))

/-- Flash connections and ranges of a CHECKPOINT_WRITE: connection, blocks, first block. -/
def ckptConns (p : List Byte) : List (Nat × Nat × Nat) :=
  (List.range (byteAt p 12)).map (fun i => (byteAt p (16 + 16 * i), field p (20 + 16 * i) 4, field p (24 + 16 * i) 8))

/-- CHECKPOINT_WRITE (R470): the exports are written; shards follow as their runs retire, then the log. -/
def checkpointWrite (d : Dev) (r : ReplyTo) (p : List Byte) : Ans :=
  let n := byteAt p 12
  let cs := ckptConns p
  checks [(10, handleOk (field p 8 4)), (12, decide (n ≤ 8)), (13, decide (field p 13 3 = 0)), (16, (List.range n).all (fun i => decide (byteAt p (16 + 16 * i) < 64 ∧ field p (17 + 16 * i) 3 = 0)))]
    (needLen p (16 + 16 * n) (match regionOf d (field p 8 4) with
      | none => .err St.noRegion
      | some (_, g) =>
        let ex := allExports d
        let shardG := 1 + granUp (ex.flatten.length)
        let ss := d.lsn.shards.filterMap (fun e => e.2.map (fun s => (e.1, s)))
        let total := ss.foldl (fun a x => a + shardBytes d x.2) 0
        if d.ckp.running.isSome then .err St.checkpointBusy
        else if g.cls ≠ 6 then .bad 8
        else if (shardG + granUp total) * granBytes > regionBytes g then .err St.regionBounds
        else if cs.any (fun c => match flashAt d c.1 with | some x => x.error | none => true) then .err St.flashFailed
        else
          let d := regionWrite d g granBytes ex.flatten
          let k : Ckpt := { ident := field p 0 4, step := field p 4 4, staging := field p 8 4, conns := cs, shards := ss.map (·.1), nextOff := shardG * granBytes,
                            groups := ex.length, shardG := shardG, copied := 0, reply := some r, writing := [], failed := false, stepSeq := 0 }
          .later (bump { d with ckp := { d.ckp with running := some k } } Reg.CKP_WRITE_CNT)))

/-- Whether a shard may be copied now: its run for step n has retired, or is not to come, and no run of it is at work (R470). -/
def ckptReady (d : Dev) (k : Ckpt) (i : Nat) (s : Shard) : Bool :=
  !(d.lsn.runs.any (fun r => decide (r.shard = i) && (match bucketAt d r.key with | some b => decide (bStep b ≤ k.step) | none => true)))
  && decide (k.step ≤ s.lastStep)

/-- CHECKPOINT_SHARD_COPY (R470). -/
def shardCopy (d : Dev) (i : Nat) : Dev :=
  match d.ckp.running, shardAt d i with
  | some k, some s =>
    if !k.shards.contains i ∨ !ckptReady d k i s then d
    else match regionOf d k.staging with
      | none => { d with ckp := { d.ckp with running := some { k with shards := k.shards.erase i, failed := true } } }
      | some (_, g) =>
        let n := (shardSpan d s).2
        let bs := [s.w, s.s1, s.s2].flatMap (fun x => match regionOf d x.handle with
          | some (_, r) => if x.fmt = 0 then [] else deliverBytes d r x.off (streamBytes x.fmt n)
          | none => [])
        let d := regionWrite d g k.nextOff bs
        { d with ckp := { d.ckp with running := some { k with shards := k.shards.erase i, nextOff := k.nextOff + bs.length, copied := k.copied + 1 } } }
  | _, _ => d

/-- The manifest (R471). -/
def manifest (d : Dev) (k : Ckpt) (stepSeq firstSeq logG : Nat) : List Byte :=
  let m := beBytes 4 k.ident ++ beBytes 4 k.step ++ beBytes 6 stepSeq ++ beBytes 6 firstSeq ++ beBytes 4 1 ++ beBytes 4 k.shardG ++ beBytes 4 logG
    ++ beBytes 4 (k.groups * 65536 + k.copied) ++ beBytes 4 (fwBuild d (runningSlot d)) ++ beBytes 2 (fwMajor d (runningSlot d))
    ++ beBytes 3 (mgmtCoord d) ++ beBytes 3 (rg d Reg.CKP_PARTNER) ++ List.replicate 204 0
  m ++ beBytes 4 (crc32c m)

/-- The durable point moves past a checkpoint's STEP entry (R472). -/
def durable (d : Dev) (k : Ckpt) : Dev := rg64Put d Reg.LOG_DURABLE_0 (max (rg64 d Reg.LOG_DURABLE_0) (k.stepSeq + 1))

/-- A checkpoint ends: answered, kept for its confirmation, or durable at once where it was written to flash. -/
def ckptEnd (d : Dev) (k : Ckpt) : Dev :=
  let d := { d with ckp := { d.ckp with running := none } }
  let say := fun d st => match k.reply with | some r => replyLate d r st [] | none => d
  if k.failed then say (raise d 1004) St.flashFailed
  else
    let d := { d with ckp := { d.ckp with written := d.ckp.written ++ [{ k with reply := none }] } }
    say (if k.conns.isEmpty then d else durable d k) St.ok

/-- Queue the flash writes of a checkpoint (R470): the staging region in order over the ranges. -/
def ckptFlash (d : Dev) (k : Ckpt) : Dev :=
  (k.conns.foldl (fun (a : Nat × Dev) c => match flashAt a.2 c.1, a.2.ckp.running with
    | some x, some now =>
      match xferQueue a.2 c.1 x ⟨true, c.2.2, c.2.1, k.staging, a.1, false, none, false⟩ with
      | .ok d => (a.1 + c.2.1 * x.bsize, { d with ckp := { d.ckp with running := some { now with writing := now.writing ++ [c.1] } } })
      | .error _ => (a.1, { a.2 with ckp := { a.2.ckp with running := some { now with failed := true } } })
    | _, some now => (a.1, { a.2 with ckp := { a.2.ckp with running := some { now with failed := true } } })
    | _, none => a) (0, d)).2

/-- What a running checkpoint owes: the log and the manifest once every shard is copied and the STEP entry stands, then its flash writes,
then its end. -/
def ckptSweep (d : Dev) : Dev :=
  match d.ckp.running with
  | none => d
  | some k =>
    if !k.shards.isEmpty then d
    else if k.stepSeq = 0 then
      match stepEntry d k.step, regionOf d k.staging with
      | some e, some (_, g) =>
        let es := logSpan d e.seq
        let logG := granUp k.nextOff
        let bytes := es.flatMap (·.bytes)
        let first := match es with | x :: _ => x.seq | [] => e.seq
        let k := { k with stepSeq := e.seq, failed := k.failed || decide (logG * granBytes + bytes.length > regionBytes g) }
        let d := if k.failed then d else regionWrite (regionWrite d g (logG * granBytes) bytes) g 0 (manifest d k e.seq first logG)
        let d := { d with ckp := { d.ckp with running := some k } }
        if k.failed ∨ k.conns.isEmpty then ckptEnd d k
        else
          let d := ckptFlash d k
          match d.ckp.running with
          | some k => if k.writing.isEmpty then ckptEnd d k else d
          | none => d
      | some _, none => ckptEnd d { k with failed := true }
      | none, _ => d
    else if k.writing.isEmpty then ckptEnd d k else d

/-- CHECKPOINT_CONFIRM (R472). -/
def checkpointConfirm (d : Dev) (p : List Byte) : Ans :=
  needLen p 4 (match d.ckp.written.reverse.find? (fun k => decide (k.ident = field p 0 4)) with
    | some k => .done (durable d k) []
    | none => .err St.noSuchCheckpoint)

/-! ## REGION_DESTROY (R372) -/

/-- Whether a region is in use by a shard, an accumulation, capture, replay, a flash transfer or a checkpoint. -/
def regionInUse (d : Dev) (h i : Nat) : Bool :=
  decide (i < 16)
  || d.lsn.shards.any (fun e => match e.2 with | some s => (streamRanges s (shardSpan d s).2).any (fun x => decide (x.1 = i)) | none => false)
  || d.seq.buckets.any (fun e => match e.2 with | some b => decide (bRegion b = h ∧ bOp b = 5) || decide (b.mReg = i ∧ i ≠ 0) | none => false)
  || (fbit d Reg.TM_CAP_CTRL Fd.TM_CAP_CTRL_en && decide (rg d Reg.TM_CAP_REGION = h))
  || (replayActive d && decide (d.bell.repRegion = h))
  || d.lnk.flash.any (fun e => match e.2 with | some x => x.xfers.any (fun t => decide (t.region = h)) | none => false)
  || (match d.ckp.running with | some k => decide (k.staging = h) | none => false)
  || d.ckp.regions.any (fun e => decide (e.2 = i))

/-- REGION_DESTROY. -/
def regionDestroy (d : Dev) (h : CmdHdr) (p : List Byte) : Ans :=
  needLen p 4 (withRegion d 0 p h.world (fun i _ =>
    if regionInUse d (field p 0 4) i then .err St.regionBusy else .done (dropRegion d i) []))

end Sys2Proof.Machine
end

