-- ==== Sys2Proof/Machine/Referee.lean ====
section
/-! DEFINITION. The referee and field tests (13): windows, acknowledgements, actions, quiet periods, records, the test queue and drains, and
what settles at the end of every command. -/

namespace Sys2Proof.Machine

/-! ## Taking a unit out of service (R440, R441, R446) -/

def drainEntry (d : Dev) (kind : FtKind) (u : Nat) : Dev :=
  let t := ns d + 1000 * fget1 d Reg.INT_CTRL Fd.INT_CTRL_drain_us
  { d with int := { d.int with drains := d.int.drains.filter (fun x => !decide (x.1 = kind ∧ x.2.1 = u)) ++ [(kind, u, t)] } }

/-- An ingress converter is fenced: what is queued for it is still converted, new blocks go to its neighbour. -/
def iconvFence (d : Dev) (l : Nat) : Dev := drainEntry { d with int := { d.int with iFenced := tset false d.int.iFenced l true } } .iconv l

/-- The next egress converter in service after one, upward. -/
def econvNext (d : Dev) (l : Nat) : Nat :=
  (((List.range 127).map (fun i => (l + 1 + i) % 128)).find? (fun j => !tget false d.int.eFenced j)).getD l

/-- An egress converter is passed over: rows in progress are narrowed by the next one. -/
def econvFence (d : Dev) (l : Nat) : Dev :=
  let d := { d with int := { d.int with eFenced := tset false d.int.eFenced l true } }
  { d with seq := { d.seq with rowOut := d.seq.rowOut.map (fun o => if o.conv = l then { o with conv := econvNext d l } else o) } }

/-- A lesson engine is benched; a row in progress completes. -/
def engineFence (d : Dev) (e : Nat) : Dev :=
  if engState d e = 3 then d else drainEntry (engTo d e 1) .engine e

/-- Take the unit of a source out of service (R446); whether it names one. -/
def fenceUnit (d : Dev) (n : Nat) : Dev × Bool :=
  if n < 128 then (linkFence d n, true)
  else if n < 132 then (flashFence d (n - 128), true)
  else if 256 ≤ n ∧ n < 528 then (benchDesk d (n - 256), true)
  else if 528 ≤ n ∧ n < 656 then (iconvFence d (n - 528), true)
  else if 656 ≤ n ∧ n < 784 then (econvFence d (n - 656), true)
  else if 808 ≤ n ∧ n < 872 then (engineFence d (n - 808), true)
  else if 880 ≤ n ∧ n < 896 then (hudFence d (n - 880), true)
  else if 928 ≤ n ∧ n < 944 then (fenceBegin d (n - 928), true)
  else (d, false)

/-- When a source whose unit was fenced leaves FAULT, the unit's retrain or field test is queued (R446). -/
def fenceLeave (d : Dev) (n : Nat) : Dev :=
  if n < 128 then linkRetrain d n
  else if 256 ≤ n ∧ n < 528 then queueTest d .desk (n - 256) true
  else if 528 ≤ n ∧ n < 656 then queueTest d .iconv (n - 528) true
  else if 656 ≤ n ∧ n < 784 then queueTest d .econv (n - 656) true
  else if 808 ≤ n ∧ n < 872 then queueTest d .engine (n - 808) true
  else if 880 ≤ n ∧ n < 896 then queueTest d .huddle (n - 880) true
  else if 928 ≤ n ∧ n < 944 then queueTest d .adders (n - 928) true
  else d

/-! ## Actions and windows (R444 to R447) -/

/-- The DEGRADE action. -/
def degradeAction (d : Dev) (n : Nat) : Dev := handle (fset d Reg.REF_STATUS Fd.REF_STATUS_degraded 1) n true

/-- The HALT action (R447): transmitters, converters, desks, engines, huddle units and adders stop (`running`). -/
def haltAction (d : Dev) : Dev := fset d Reg.REF_STATUS Fd.REF_STATUS_halted 1

/-- The action of a source's severity (R444). -/
def severityAction (d : Dev) (n v : Nat) : Dev :=
  match v with
  | 1 => handle d n false
  | 2 => degradeAction d n
  | 3 =>
    let r := fenceUnit d n
    if r.2 then srcPut r.1 n { srcOf r.1 n with fenced := true } else degradeAction d n
  | 4 => haltAction (refNote d n 7)
  | _ => d

/-- A window ends unacknowledged (R445): the source enters FAULT, and the action runs where act_en is 1. -/
def windowEnd (d : Dev) (n : Nat) : Dev :=
  let c := srcOf d n
  if c.st ≠ .window ∨ ns d < c.until_ then d
  else
    let d := srcPut d n { c with st := .fault, lateOk := true }
    if fbit d (Reg.REF_WINDOW (c.sev - 1)) Fd.REF_WINDOW_act_en then
      severityAction (refNote (bump d Reg.REF_ACTION_CNT) n 3) n c.sev
    else refNote d n 8

/-- Windows of 0 that have opened end at once (R445). -/
def dueRun : Nat → Dev → Dev
  | 0, d => d
  | fuel + 1, d => match d.ref.due with
    | [] => d
    | n :: rest => dueRun fuel (windowEnd { d with ref := { d.ref with due := rest } } n)

/-- A write of REF_ACK (R445, R448). -/
def refAck (d : Dev) (n : Nat) : Dev :=
  let c := srcOf d n
  if c.st = .window then refNote (srcPut d n { c with st := .fault, lateOk := false }) n 1
  else if c.st = .fault ∧ c.lateOk then refNote (bump (srcPut d n { c with lateOk := false }) Reg.REF_LATE_ACK_CNT) n 2
  else bump d Reg.REF_STRAY_ACK_CNT

/-- A source leaves FAULT or STICKY. -/
def srcLeave (d : Dev) (n : Nat) (c : Src) : Dev :=
  let d := srcPut d n { c with st := .idle, lateOk := false, fenced := false }
  if c.fenced then fenceLeave d n else d

/-- A write of REF_CLEAR (R448). -/
def refClear (d : Dev) (n : Nat) : Dev :=
  let c := srcOf d n
  if c.st = .fault ∨ c.st = .sticky then srcLeave (refNote d n 6) n { c with recov := [] } else d

/-- A write of REF_RAISE (R450). -/
def refRaise (d : Dev) (n : Nat) : Dev :=
  if 1008 ≤ n ∧ n ≤ 1023 then raise d n else fset d Reg.REF_STATUS Fd.REF_STATUS_raise_err 1

/-- REF_QUIET_EXPIRE (R448). -/
def refQuiet (d : Dev) (n : Nat) : Dev :=
  let c := srcOf d n
  let q := 100000000 * fget1 d Reg.REF_QUIET Fd.REF_QUIET_quiet
  if c.st ≠ .fault ∨ ns d < c.last + q then d
  else
    let span := 3600 * 10 ^ 9 * fget1 d Reg.REF_QUIET Fd.REF_QUIET_sticky_hours
    let hist := c.recov.filter (fun t => decide (ns d ≤ t + span))
    if fget1 d Reg.REF_QUIET Fd.REF_QUIET_sticky_count ≤ hist.length + 1 then
      bump (refNote (srcPut d n { c with st := .sticky, lateOk := false, recov := hist }) n 5) Reg.REF_STICKY_CNT
    else bump (srcLeave (refNote d n 4) n { c with recov := hist ++ [ns d] }) Reg.REF_RECOVERY_CNT

/-- REF_RECORD_COPY (R449, R536): Sitonel copies the oldest record of the ring into its event log. -/
def recordCopy (d : Dev) : Dev :=
  match d.ref.ring with
  | [] => d
  | r :: rest =>
    if d.sit.restart.isSome then d
    else
      let d := event { d with ref := { d.ref with ring := rest } } 0 0 [] (some (r.take 28))
      fset d Reg.REF_RING_TAIL Fd.REF_RING_TAIL_tail ((fget d Reg.REF_RING_TAIL Fd.REF_RING_TAIL_tail + 1) % 4096)

/-- Tick action 4 (R24, R443): the tick-sampled sources whose condition holds are raised. -/
def refereeSample (d : Dev) : Dev :=
  ((947, d.mem.evacs.any (fun v => v.dest.isNone)) :: sensorConds d).foldl (fun d c => if c.2 then raise d c.1 else d) d

/-! ## Field tests (R437 to R440) -/

def ftKind (k : Nat) : Option FtKind := [FtKind.desk, .iconv, .econv, .engine, .huddle, .adders, .region][k]?

def ftCode : FtKind → Nat
  | .desk => 0 | .iconv => 1 | .econv => 2 | .engine => 3 | .huddle => 4 | .adders => 5 | .region => 6

/-- Number of targets of a kind. -/
def ftTargets : FtKind → Nat
  | .desk => 272 | .iconv => 128 | .econv => 128 | .engine => 64 | .huddle => 16 | .adders => 16 | .region => 4096

def ftDead (d : Dev) (kind : FtKind) (t : Nat) : Bool :=
  match kind with
  | .desk => decide (deskState d t = 5)
  | .engine => decide (engState d t = 3)
  | .huddle => decide (hudState d t = 3)
  | _ => false

/-- The spare that runs the known-answer test of R103 now. -/
def katDesk (d : Dev) : Option Nat := d.fab.refill.map (·.1)

/-- Queue a requested test (R438, R439). -/
def ftRequest (d : Dev) (r : ReplyTo) (kind : FtKind) (t : Nat) : Ans :=
  let join := fun (e : FtEntry) => if e.kind = kind ∧ e.target = t then { e with reqs := e.reqs ++ [r] } else e
  if ftDead d kind t then .err St.testFailed
  else if kind = .desk ∧ katDesk d = some t then .later { d with int := { d.int with kat := d.int.kat ++ [r] } }
  else if ftHas d kind t then .later { d with int := { d.int with queue := d.int.queue.map join } }
  else if d.int.queue.length ≥ 64 then .err St.testQueueFull
  else .later { d with int := { d.int with queue := d.int.queue ++ [⟨kind, t, [r], false, false, false⟩] } }

/-- FIELD_TEST (R438, R505). -/
def fieldTest (d : Dev) (h : CmdHdr) (r : ReplyTo) (p : List Byte) : Ans :=
  match ftKind (field p 0 1) with
  | none => .bad 0
  | some kind =>
    checks [(1, decide (field p 1 1 = 0)), (2, decide (kind = .region ∨ field p 2 2 < ftTargets kind)),
        (4, decide (kind = .region ∨ field p 4 4 = 0))]
      (needLen p 8 (if kind = .region then withRegion d 4 p h.world (fun i _ => ftRequest d r .region i)
        else ftRequest d r kind (field p 2 2)))

/-- What an entry of the queue does when it may start: it waits, is answered without a test, joins the spare's test, or runs. -/
inductive FtStart where
  | wait
  | dead
  | join
  | run
deriving DecidableEq, Repr

def ftHow (d : Dev) (e : FtEntry) : FtStart :=
  if ftDead d e.kind e.target then .dead
  else if e.kind = .desk then
    (if deskState d e.target = 1 then .wait else if katDesk d = some e.target then .join else .run)
  else .run

/-- Service of a unit while its test runs (R437). A desk that is not ACTIVE shows BENCHED meanwhile, for TESTING is what a spare shows whose refill
runs (R103, R109); the rules name no state for it (DESIGN CHOICE, log 61). -/
def ftTake (d : Dev) (kind : FtKind) (t : Nat) : Dev :=
  match kind with
  | .desk =>
    if deskState d t = 0 then
      let d := benchDesk d t
      { d with int := { d.int with moved := tset false d.int.moved t true } }
    else deskTo d t 2
  | .econv => econvFence d t
  | .engine => drainEntry (engTo d t 2) .engine t
  | .huddle =>
    let d := fset d (Reg.HUD_UNIT_STATUS t) Fd.HUD_UNIT_STATUS_state 2
    drainEntry { d with hud := { d.hud with moveAt := tset none d.hud.moveAt t (some (tickIdx d)) } } .huddle t
  | _ => d

/-- FIELD_TEST_START (R439): the first test in arrival order that may start, of a kind of which none runs, while ft_en is 1. -/
def ftStart (d : Dev) : Dev :=
  if !running d ∨ !fbit d Reg.INT_CTRL Fd.INT_CTRL_ft_en then d
  else
    let free := fun (e : FtEntry) => !e.running && !d.int.queue.any (fun x => x.running && decide (x.kind = e.kind)) && decide (ftHow d e ≠ .wait)
    match ltake free d.int.queue with
    | none => d
    | some (e, rest) =>
      match ftHow d e with
      | .wait => d
      | .dead => e.reqs.foldl (fun d r => replyLate d r St.testFailed []) { d with int := { d.int with queue := rest } }
      | .join => { d with int := { d.int with queue := rest, kat := d.int.kat ++ e.reqs } }
      | .run =>
        let d := { d with int := { d.int with queue := lmodFirst free (fun e => { e with running := true, spare := decide (e.kind = .desk ∧ deskState d e.target = 3) }) d.int.queue } }
        ftTake (bump d Reg.INT_FT_RUN_CNT) e.kind e.target

/-- Whether the unit under test has drained. -/
def ftDrained (d : Dev) (kind : FtKind) (t : Nat) : Bool :=
  match kind with
  | .desk => decide (deskState d t ≠ 1)
  | .engine => (engRow d t).isNone
  | .huddle => !d.hud.inst.any (fun x => decide (x.unit = t))
  | _ => true

/-- The unit's own source. -/
def ftSource (kind : FtKind) (t : Nat) : Option Nat :=
  match kind with
  | .desk => some (256 + t)
  | .iconv => some (528 + t)
  | .econv => some (656 + t)
  | .engine => some (808 + t)
  | .huddle => some (880 + t)
  | .adders => some (928 + t)
  | .region => none

def hudReturn (d : Dev) (u st : Nat) : Dev :=
  let d := fset d (Reg.HUD_UNIT_STATUS u) Fd.HUD_UNIT_STATUS_state st
  if st = 0 then { d with hud := { d.hud with moveAt := tset none d.hud.moveAt u (some (tickIdx d)) } } else d

/-- The target after its test (R440, R102, R207). A desk that was vacated for the test goes back at the next tick boundary; one that fails as a spare
has failed a known-answer test as a spare (R105, R114). -/
def ftPut (d : Dev) (kind : FtKind) (t : Nat) (spare pass : Bool) : Dev :=
  match kind with
  | .desk =>
    if pass then (if tget false d.int.moved t then d else deskTo d t 3)
    else
      let d := { d with int := { d.int with moved := tset false d.int.moved t false } }
      let d := event (deskTo d t 5) 9 1 [t]
      if spare then raise (fset d (Reg.DESK_FAULT t) Fd.DESK_FAULT_kat_fail 1) 787 else d
  | .iconv => if pass then { d with int := { d.int with iFenced := tset false d.int.iFenced t false } } else iconvFence d t
  | .econv => { d with int := { d.int with eFenced := tset false d.int.eFenced t (!pass) } }
  | .engine => if pass then engTo d t 0 else fset (engTo d t 3) (Reg.LSN_ENG_FAULT t) Fd.LSN_ENG_FAULT_kat_fail 1
  | .huddle => hudReturn d t (if pass then 0 else 3)
  | .adders => if pass then d else fenceBegin d t
  | .region => d

/-- FIELD_TEST_END (R436, R439, R440): the running test of a kind ends. -/
def ftEnd (d : Dev) (kind : FtKind) (pass : Bool) : Dev :=
  match d.int.queue.find? (fun e => e.running && decide (e.kind = kind)) with
  | none => d
  | some e =>
    if !ftDrained d kind e.target then d
    else
      let d := { d with int := { d.int with queue := d.int.queue.filter (fun x => !(x.running && decide (x.kind = kind))),
                                            drains := d.int.drains.filter (fun x => !decide (x.1 = kind ∧ x.2.1 = e.target)) } }
      let d := ftPut d kind e.target e.spare pass
      let d :=
        if pass then { d with int := { d.int with passed := tput d.int.passed (ftCode kind * 65536 + e.target) (ns d) } }
        else
          let d := bump d Reg.INT_FT_FAIL_CNT
          let d := match ftSource kind e.target with | some n => raise d n | none => d
          event (raise (raise d 954) 959) 9 0 ([ftCode kind, e.target] ++ ((d.int.passed.find? (fun x => decide (x.1 = ftCode kind * 65536 + e.target))).map (·.2)).toList)
      e.reqs.foldl (fun d r => replyLate d r (if pass then St.ok else St.testFailed) []) d

/-- FIELD_TEST_REQUEUE (R439): tests that are never given up are offered again. -/
def ftOwed (d : Dev) : Dev := d.int.owed.foldl (fun d x => queueTest d x.1 x.2 true) d

/-- SPARE_KAT_END (R103, R438): requesters that joined are answered. -/
def katEndAll (d : Dev) (pass : Bool) : Dev :=
  let e := katEnd d pass
  if d.fab.refill.isSome ∧ e.fab.refill.isNone then
    let e := if pass then e else event e 9 1 ((katDesk d).toList)
    d.int.kat.foldl (fun d r => replyLate d r (if pass then St.ok else St.testFailed) []) { e with int := { e.int with kat := [] } }
  else e

/-- At a tick boundary a desk that passed the test for which it was vacated takes its logical desk back, or becomes SPARE (R440). -/
def desksBack (d : Dev) : Dev :=
  d.int.moved.foldl (fun d m =>
    if ftHas d .desk m.1 then d
    else
      let l := fget d (Reg.DESK_STATUS m.1) Fd.DESK_STATUS_logical
      let d := { d with int := { d.int with moved := tset false d.int.moved m.1 false } }
      if d.fab.bench.contains l then mapTo d l m.1 else deskTo d m.1 3) d

/-- UNIT_DRAIN_TIMEOUT (R441): what is left of a drain when its timeout passes. -/
def unitDrainTimeout (d : Dev) (kind : FtKind) (u : Nat) : Dev :=
  match d.int.drains.find? (fun x => decide (x.1 = kind ∧ x.2.1 = u)) with
  | none => d
  | some x =>
    if ns d < x.2.2 then d
    else
      let gone := fun (d : Dev) => { d with int := { d.int with drains := d.int.drains.filter (fun x => !decide (x.1 = kind ∧ x.2.1 = u)) } }
      match kind with
      | .desk => drainTimeout d u
      | .iconv =>
        let ps := d.seq.conv.filter (fun p => decide (p.link = u))
        let d := ps.foldl (fun d p => p.blocks.foldl (fun d _ => failBlock d u (passKey p.hdr) (passAtt p.hdr) (fSrc p.hdr) (fVc p.hdr))
          (poolFreeGrans d 0 (u / 8) p.grans)) { d with seq := { d.seq with conv := d.seq.conv.filter (fun p => !decide (p.link = u)) } }
        if ps.isEmpty then gone d else raise (gone d) 956
      | .engine => match engRow d u with
        | none => gone d
        | some r => raise (gone (runMod (engPut (bump d Reg.LSN_ROW_RETRY_CNT) u none) r.shard
            (fun x => { x with redo := x.redo ++ [(r.row, u)], wait := ns d }))) 956
      | .huddle =>
        let xs := d.hud.inst.filter (fun x => decide (x.unit = u))
        if xs.isEmpty then gone d else raise (xs.foldl hudFail (gone d)) 956
      | _ => gone d

/-- Drains that have ended. -/
def drainSweep (d : Dev) : Dev :=
  { d with int := { d.int with drains := d.int.drains.filter (fun x => match x.1 with
    | .engine => (engRow d x.2.1).isSome
    | .iconv => d.seq.conv.any (fun p => decide (p.link = x.2.1))
    | .huddle => d.hud.inst.any (fun i => decide (i.unit = x.2.1))
    | _ => true) } }

/-! ## What settles at the end of every command -/

/-- FAULT_N is low while TOP_STATUS.halted reads 1 (R570). -/
def pinFault (d : Dev) : Dev := { d with pkg := { d.pkg with faultN := !halted d } }

/-- Windows of 0 end, what is owed to the partner, from submit slots and by runs, norms, a checkpoint and the flash tier takes its turn, drains end, and FAULT_N
follows. -/
def settle (d : Dev) : Dev :=
  let d := dueRun 1100 d
  let d := hostPump 256 (refillCheck (mirFlush (exportsOwed d)))
  let d := flashPump (ckptSweep (runSweep (normSweep d)))
  pinFault (drainSweep (dueRun 1100 d))

end Sys2Proof.Machine
end

