-- ==== Sys2Proof/Machine/Supply.lean ====
section
/-! DEFINITION. Supplies, reference clocks, resets and the PCI Express function (17 R541, 18). -/

namespace Sys2Proof.Machine

/-! ## The PCI Express function (R541) -/

/-- Every block base. -/
def blkBases : List Nat := blkRows.flatMap (fun b => (List.range b.count).map (fun i => b.base + 0x4000 * i))

/-- Function Level Reset: the host's latches and unlocks go, rx_en falls, every submit slot is free. -/
def flr (d : Dev) : Dev :=
  let d := { d with
    bus := { d.bus with latch := d.bus.latch.filter (fun e => e.1 % 2 ≠ 0) }
    cmd := { d.cmd with slots := [], subQ := [] } }
  let d := blkBases.foldl (fun d b => fset d (Reg.BLK_STATUS b) Fd.BLK_STATUS_unlocked_host 0) d
  rxOff (fset d Reg.CMD_CTRL Fd.CMD_CTRL_rx_en 0)

/-- PCIE_LINK_DOWN: frames for the host are dropped from here on, and FS_985 is raised. -/
def pcieDown (d : Dev) : Dev := raise (rxOff { d with pkg := { d.pkg with pcieUp := false } }) 985

def pcieUp (d : Dev) : Dev := { d with pkg := { d.pkg with pcieUp := true } }

def busMaster (d : Dev) (on : Bool) : Dev :=
  let d := { d with pkg := { d.pkg with busM := on } }
  if on then d else rxOff d

/-- PCIE_PERST_N (R567): as a Function Level Reset, and the link retrains. -/
def perst (d : Dev) : Dev :=
  let d := flr d
  { d with pkg := { d.pkg with pcieUp := false, busM := false } }

/-! ## Placing the regions of R374 -/

/-- Sizes of regions 1 to 7 in granules. -/
def devRegions : List (Nat × Nat) :=
  [(1, 16384), (2, 32), (3, 256), (4, 1), (5, 8), (6, 2048), (7, Config.logGranules)]

/-- Place what is missing of regions 1 to 7, in order, across every stack; whether all could be placed. -/
def placeAll (d : Dev) : Dev × Bool :=
  devRegions.foldl (fun a r =>
    if !a.2 ∨ (regionAt a.1 r.1).valid then a
    else match placeRegion a.1 r.1 true false true 9 r.2 16 with
      | some d => (d, true)
      | none => (a.1, false)) (d, true)

/-- Regions are placed and TOP_STATUS.ready reads 1: links that are enabled begin bring-up. A reset that cannot place one stops bring-up
(R374). -/
def readyUp (d : Dev) : Dev :=
  let r := placeAll d
  if !r.2 then event r.1 8 0
  else
    let d := fset r.1 Reg.TOP_STATUS Fd.TOP_STATUS_ready 1
    (List.range 128).foldl (fun d l => if linkCtl d l Fd.LINK_CTRL_en then linkRestart d l else d)
      { d with pkg := { d.pkg with phase := .up } }

/-- DEVICE_READY (R568). -/
def deviceReady (d : Dev) : Dev := if d.pkg.phase = .booting ∧ !resetBusy d then readyUp d else d

/-! ## Resets (R567) -/

/-- Sitonel's bell times after the bell is 0 again: what has passed counts from 0, what is to come keeps its distance. -/
def sitRebase (d : Dev) : Sitonel :=
  let s := d.sit
  { s with
    evOver := s.evOver.map (fun _ => 0)
    sensors := s.sensors.map (fun e => (e.1, { e.2 with at_ := 0 }))
    batch := s.batch.map (fun b => (b.1, b.2.1, 0))
    trial := s.trial.map (fun t => (t.1, t.2 - ns d))
    fails := s.fails.map (fun _ => 0)
    locate := s.locate.map (fun t => t - ns d) }

/-- The map after a reset (R91): the logical desks from 0 upward take the desks `good` in ascending order, and those above the last are unmapped, to be
refilled in ascending order. -/
def remap (d : Dev) (good : List Nat) : Dev :=
  (List.range 256).foldl (fun d l => match good[l]? with
    | some p => mapTo d l p
    | none => { (fset d (Reg.RFAB_DESK_MAP l) Fd.RFAB_DESK_MAP_mapped 0) with fab := { d.fab with bench := d.fab.bench ++ [l] } }) d

/-- DEAD desks, engines and huddle units of `d` stay DEAD in `e`, and the desks that are left are mapped anew (R91, R567). -/
def keepDead (d e : Dev) : Dev :=
  let dead := (List.range 272).filter (fun p => decide (deskState d p = 5 ∧ deskState e p ≠ 5))
  let good := (List.range 272).filter (fun p => decide (deskState e p = 0) && !dead.contains p)
  let e := dead.foldl (fun e p => deskTo (fset e (Reg.DESK_STATUS p) Fd.DESK_STATUS_mapped 0) p 5) e
  let e := if dead.isEmpty then e else remap e good
  let e := (List.range 64).foldl (fun e g => if engState d g = 3 then engTo e g 3 else e) e
  (List.range 16).foldl (fun e u => if hudState d u = 3 then hudReturn e u 3 else e) e

/-- Retired SRAM granules of `d` stay retired in `e`. -/
def keepRetired (d e : Dev) : Dev :=
  let n := d.mem.sram.retired
  { e with mem := { e.mem with sram := { e.mem.sram with retired := n, ring := e.mem.sram.ring - n } } }

/-- Retired HBM granules and rows repaired (R382), with the registers that count them. -/
def keepHbm (d e : Dev) : Dev :=
  let e := { e with mem := { e.mem with retired := d.mem.retired, spares := d.mem.spares } }
  (List.range 16).foldl (fun e k => rgPut e (Reg.HBM_STK_RETIRED k) (rg d (Reg.HBM_STK_RETIRED k))) e

/-- FABRIC_RESET (R567): every block but TOP, SIT, PCIE and SNS at its reset values, HBM with the software regions and regions 3, 6 and 7
kept, DEAD and retired kept; Sitonel goes on. -/
def fabricReset (d : Dev) : Dev :=
  let keep := fun (e : Nat × Word) => decide (e.1 < 0x10000)
  let e := { Dev.reset with
    regs := d.regs.filter keep
    bus := ⟨d.bus.latch.filter (fun e => e.1 / 2 < 0x10000), d.bus.held.filter (fun e => e.1 / 2 < 0x10000),
      d.bus.posted.filter (fun e => e.1 < 0x10000), d.bus.last⟩
    log := d.log
    mem := { Dev.reset.mem with
      hbm := d.mem.hbm, poison := d.mem.poison, shadow := d.mem.shadow, rowCe := d.mem.rowCe
      regions := d.mem.regions.filter (fun r => !(decide (r.1 = 1 ∨ r.1 = 2 ∨ r.1 = 4 ∨ r.1 = 5))) }
    sit := sitRebase d, pkg := d.pkg, wire := d.wire, free := d.free }
  let e := keepDead d (keepRetired d (keepHbm d e))
  let e := match d.log.getLast? with
    | some x => rg64Put e Reg.RECORD_SEQ_0 (x.seq + 1)
    | none => rg64Put e Reg.RECORD_SEQ_0 (rg64 d Reg.RECORD_SEQ_0)
  let e := fset (fset e Reg.TOP_STATUS Fd.TOP_STATUS_ready 0) Reg.TOP_STATUS Fd.TOP_STATUS_reset_busy 1
  rgPut e Reg.TOP_RESET_CAUSE 2

/-- FABRIC_RESET_DONE (R568): regions 1, 2, 4 and 5 stand again. -/
def fabricDone (d : Dev) : Dev :=
  if !resetBusy d then d else readyUp (fset d Reg.TOP_STATUS Fd.TOP_STATUS_reset_busy 0)

/-- What no reset but a loss of flash takes away: the slots, the event log, the signature state. -/
def sitFlash (d : Dev) : Sitonel :=
  { Dev.reset.sit with fw := d.sit.fw, events := d.sit.events, evNext := d.sit.evNext, leaves := d.sit.leaves }

/-- A power-on reset, or a management reset where `mgmt` is true (R567), with the images of slots A and B that verify: the boot ROM starts the
confirmed slot, or the other one (R546). -/
def bootReset (d : Dev) (mgmt aOk bOk : Bool) : Dev :=
  let e := { Dev.reset with
    regs := d.regs.filter (fun e => decide (e.1 = Reg.PWR_SEQ_STATUS ∨ e.1 = Reg.CLK_STATUS))
    sit := sitFlash d, pkg := { d.pkg with phase := .booting, pcieUp := false, busM := false }, wire := d.wire, free := d.free }
  let e := keepHbm d e
  let e := if mgmt then keepDead d (keepRetired d e) else e
  let s := confirmedSlot d
  let good := fun (s : Nat) => if s = 0 then aOk else bOk
  let run := if good s then s else 1 - s
  let f := Reg.SIT_FW_STATUS
  let e := fset (fset e f Fd.SIT_FW_STATUS_running run) f Fd.SIT_FW_STATUS_confirmed s
  let e := slotMark (slotMark e 0 aOk) 1 bOk
  let e := fset e f Fd.SIT_FW_STATUS_min_sec (fget d f Fd.SIT_FW_STATUS_min_sec)
  let e := rgPut e Reg.TOP_RESET_CAUSE (if mgmt then 4 else 1)
  if aOk ∨ bOk then e else { e with pkg := { e.pkg with phase := .dead } }

/-- POWER_ON_RESET (R568): PORST_N rises. -/
def powerOn (d : Dev) (aOk bOk : Bool) : Dev :=
  if d.pkg.phase ≠ .held then d
  else
    let e := bootReset d false aOk bOk
    { e with pkg := { e.pkg with porstN := true } }

/-- MANAGEMENT_RESET (R567, R568): Sitonel requests it once three restarts have failed within 10 minutes. -/
def managementReset (d : Dev) : Dev :=
  if (d.sit.fails.filter (fun t => decide (ns d ≤ t + 600 * 10 ^ 9))).length < 3 then d
  else bootReset d true (slotValid d 0) (slotValid d 1)

/-! ## Rails (R561 to R564) -/

/-- Place of a rail in the order of R562; the rails of stage 5 one after another. -/
def railOrder (i : Nat) : Nat := [1, 2, 2, 3, 3, 4, 4, 6, 7, 5].getD i 0

def railMax (i : Nat) : Nat := [900, 2000, 1350, 850, 1350, 850, 800, 1150, 850, 2000].getD i 0

def railMv (d : Dev) (i : Nat) : Nat := d.pkg.rails.getD i 0

def railsOk (d : Dev) : Bool := (List.range 10).all (fun i => railOk i (railMv d i))

/-- Whether a rail may rise now: every rail before it is within tolerance. -/
def railMayRise (d : Dev) (i : Nat) : Bool :=
  (List.range 10).all (fun j => decide (railOrder i ≤ railOrder j) || railOk j (railMv d j))

/-- Whether every rail after stage 1 is below 0.2 V. -/
def railsDown (d : Dev) : Bool := (List.range 10).all (fun j => decide (j = 0 ∨ railMv d j < 200))

/-- The supply monitor, on VDD_AON, while the device is without its rails (R563): rails above 0.2 V before their turn are latched; with every
rail within tolerance and no violation the device is held by PORST_N alone. -/
def supplyWatch (d : Dev) : Dev :=
  let d := if railsDown d then { d with pkg := { d.pkg with order := false } } else d
  if d.pkg.phase ≠ .off ∨ !railOk 0 (railMv d 0) then d
  else
    let bad := (List.range 10).filter (fun i => decide (200 < railMv d i) && !railMayRise d i)
    let d := if bad.isEmpty then d else
      let w := Reg.PWR_SEQ_STATUS
      let m := bad.foldl (fun a i => a ||| 2 ^ i) (fget d w Fd.PWR_SEQ_STATUS_err_rail)
      let d := fset (fset d w Fd.PWR_SEQ_STATUS_err_rail m) w Fd.PWR_SEQ_STATUS_order_err 1
      { d with pkg := { d.pkg with order := true } }
    if railsOk d ∧ !d.pkg.order then { d with pkg := { d.pkg with phase := .held } } else d

/-- RAIL_RISE: a rail reaches a voltage, in mV, that is not beyond its absolute maximum. -/
def railRise (d : Dev) (i mv : Nat) : Dev := supplyWatch { d with pkg := { d.pkg with rails := d.pkg.rails.set i mv } }

/-- Contents are lost with the supplies: all but the flash (R564, R567, R576). -/
def contentsLost (d : Dev) (ph : Phase) : Dev :=
  let e := { Dev.reset with
    regs := d.regs.filter (fun e => decide (e.1 = Reg.PWR_SEQ_STATUS ∨ e.1 = Reg.CLK_STATUS ∨ e.1 = Reg.SIT_FW_STATUS))
    sit := sitFlash d, pkg := { d.pkg with phase := ph }, wire := d.wire, free := d.free }
  keepHbm d e

/-- Whether a fall of rail i breaks the order of R564. -/
def fallBreaks (d : Dev) (i : Nat) : Bool :=
  d.pkg.porstN || (List.range 10).any (fun j => decide (railOrder i < railOrder j ∧ 200 < railMv d j))

/-- POWER_LOSS: a rail falls below 0.2 V. A loss of VDD_AON takes the SNS registers, that of VDD_CORE releases THERMTRIP_N. -/
def powerLoss (d : Dev) (i : Nat) : Dev :=
  let d := contentsLost { d with pkg := { d.pkg with rails := d.pkg.rails.set i 0, thermN := d.pkg.thermN || decide (i = 6) } } .off
  let d := if i = 0 then rgPut (rgPut d Reg.PWR_SEQ_STATUS 0) Reg.CLK_STATUS 0 else d
  supplyWatch d

/-- PORST_N_LOW (R568): the device is held in reset. -/
def porstLow (d : Dev) : Dev :=
  contentsLost { d with pkg := { d.pkg with porstN := false } } (if d.pkg.phase = .off then .off else .held)

/-! ## Reference clocks and THERMTRIP_N (R565, R566, R570) -/

def refLost (d : Dev) (i : Nat) (b : Bool) : Dev := { d with pkg := { d.pkg with lost := tset false d.pkg.lost i b } }

/-- REFCLK_LOSS: lane input 0 to 7, 8 PCI Express, 9 management. -/
def refclkLoss (d : Dev) (i : Nat) : Dev :=
  let c := Reg.CLK_STATUS
  let d := refLost d i true
  if i = 9 then fset (fset d c Fd.CLK_STATUS_mgmt_ref_lost 1) c Fd.CLK_STATUS_mgmt_on_osc 1
  else if i = 8 then pcieDown (fset d c Fd.CLK_STATUS_pcie_ref_lost 1)
  else
    let d := fset d c Fd.CLK_STATUS_lane_ref_lost (fget d c Fd.CLK_STATUS_lane_ref_lost ||| 2 ^ i)
    let d := (List.range 16).foldl (fun d j =>
      let l := 16 * i + j
      if linkCarries d l then lockLost d l else if 1 ≤ linkStep d l ∧ linkStep d l ≤ 8 then linkRestart d l else d) d
    if i = 0 then haltAction d else d

/-- REFCLK_RETURN: the clock is restored, and links retrain. -/
def refclkReturn (d : Dev) (i : Nat) : Dev :=
  if !tget false d.pkg.lost i then d
  else
    let d := refLost d i false
    if i = 9 then fset d Reg.CLK_STATUS Fd.CLK_STATUS_mgmt_on_osc 0
    else if i = 8 then d
    else (List.range 16).foldl (fun d j => if linkCtl d (16 * i + j) Fd.LINK_CTRL_en then linkRetrain d (16 * i + j) else d) d

/-- THERMTRIP: a junction reaches so many m°C. -/
def thermtrip (d : Dev) (mC : Int) : Dev := if 115000 ≤ mC then { d with pkg := { d.pkg with thermN := false } } else d

end Sys2Proof.Machine
end

