-- ==== Sys2Proof/Machine/Regs.lean ====
section
/-! DEFINITION. The register bus (16): what a read shows, and what a write of a register does, field by field, with its aliases, unlocks,
worlds, posted writes and multi-word fields. -/

namespace Sys2Proof.Machine

/-! ## Views: fields that follow the state of a unit (R521) -/

/-- BLK_STATUS.secure of a block kind (R543). -/
def blkSecure (d : Dev) (kind : Nat) : Bool := bit (rg d Reg.SIT_BLK_WORLD) kind

/-- The posted write in flight to a block (R516). -/
def postedAt (d : Dev) (base : Nat) : Option Posted := tget none d.bus.posted base

/-- State code of a source (R452). -/
def srcCode : SrcState → Nat
  | .idle => 0 | .window => 1 | .fault => 2 | .sticky => 3

def topView (d : Dev) (off w : Nat) : Nat :=
  if off = 0x110 then
    putBit (putBit w 30 (halted d)) 29 (fbit d Reg.REF_STATUS Fd.REF_STATUS_degraded)
  else w

def refView (d : Dev) (off w : Nat) : Nat :=
  let n := rg d Reg.REF_SRC_SEL % 1024
  let s := srcOf d n
  if off = 0x100 then putBits w 10 0 (d.ref.src.filter (fun e => decide (e.2.st ≠ .idle))).length
  else if off = 0x118 then s.count
  else if off = 0x11C then
    let sampled := decide (n = 947 ∨ (976 ≤ n ∧ n ≤ 979))
    putBits (putBit (putBits (putBits 0 31 30 (srcCode s.st)) 29 26 (sev d n)) 25 sampled) 24 21 (min 15 s.recov.length)
  else if off = 0x184 then
    (d.int.queue.filter (·.running)).foldl (fun w e => putBit w (ftCode e.kind) true) (putBits 0 31 25 d.int.queue.length)
  else if 0x400 ≤ off ∧ off < 0x500 then
    (List.range 16).foldl (fun w i => w + srcCode (srcOf d (16 * ((off - 0x400) / 4) + i)).st * 4 ^ i) 0
  else if 0x500 ≤ off ∧ off < 0x580 then
    (List.range 32).foldl (fun w i => putBit w i (decide ((srcOf d (32 * ((off - 0x500) / 4) + i)).st = .window))) 0
  else w

def cmdView (d : Dev) (off w : Nat) : Nat :=
  if off = 0x104 then putBits (min 4096 d.cmd.sitQ.length) 20 16 d.cmd.asm.length else w

def ckpView (d : Dev) (off w : Nat) : Nat :=
  if off = 0x104 then putBit (putBit w 26 (logFull d)) 25 d.ckp.running.isSome
  else if off = 0x120 then logUsed d * 1024 / logSize d
  else w

def bellView (d : Dev) (off w : Nat) : Nat :=
  if off = 0x108 then ns d % 2 ^ 32
  else if off = 0x10C then ns d / 2 ^ 32 % 2 ^ 32
  else if off = 0x110 then d.clk.now / 2 ^ 16 % 2 ^ 16
  else w

def seqView (d : Dev) (off w : Nat) : Nat :=
  if off = 0x104 then (d.seq.groups.filter (fun e => decide (e.2.st ≠ 0))).length
  else if off = 0x108 then bucketCount d
  else if off = 0x10C then accReserved d
  else if off = 0x110 then (waitingChunks d).length
  else if off = 0x114 then 65536 - rollUsed d
  else if off = 0x118 then 4096 - slotUsed d
  else if off = 0x11C then 65536 - ledgerUsed d
  else w

/-- Metro chunks of a bucket that have opened and are not yet narrowed (R181, R183). -/
def metroOpen (b : Option Bucket) : Nat :=
  match b with
  | some b => (b.mChunks.filter (fun c => !c.2.out)).length
  | none => 0

def mtrView (d : Dev) (off w : Nat) : Nat :=
  if off = 0x108 then (d.seq.buckets ++ d.seq.linger).foldl (fun a e => a + metroOpen e.2) 0
  else if off = 0x10C then d.seq.mHeld.length
  else w

def lsnView (d : Dev) (off w : Nat) : Nat :=
  if off = 0x104 then d.lsn.shards.length
  else if off = 0x108 then stageFree d
  else if off = 0x10C then (d.lsn.runs.filter (fun r => decide (r.st = .ready ∨ r.st = .running))).length
  else w

def hudView (d : Dev) (off w : Nat) : Nat :=
  if off = 0x104 then (d.hud.groups.filter (fun e => e.2.valid)).length
  else if off = 0x108 then vc0Bytes d - 4194304
  else if 0x200 ≤ off ∧ off < 0x280 ∧ off % 8 = 0 then
    let n := (d.hud.inst.filter (fun x => decide (x.unit = (off - 0x200) / 8))).length
    putBits w Fd.HUD_UNIT_STATUS_open.1 Fd.HUD_UNIT_STATUS_open.2 n
  else w

def rfabView (d : Dev) (off w : Nat) : Nat :=
  if off = 0x108 then putBits (putBits w 21 17 (goodSpares d).length) 16 8 (256 - mappedCount d) else w

def rteView (d : Dev) (off w : Nat) : Nat :=
  if off = 0x110 then reorderUsed d
  else if off = 0x114 then 113777 - reorderGrans d
  else if off = 0x118 then 2097152 - d.mem.hpool.used.getD 0 0
  else if 0x500 ≤ off ∧ off < 0x700 then
    let p := (off - 0x500) / 4
    putBits (putBits (putBit w 25 (decide (portSkew d p > 40 * 256))) 20 16 (portUp d p).length) 15 8 (min 255 (portSkew d p / 256))
  else w

def memView (d : Dev) (off w : Nat) : Nat :=
  if 0x120 ≤ off ∧ off < 0x130 then d.mem.sram.used.getD ((off - 0x120) / 4) 0
  else if off = 0x130 then poolFree d.mem.sram
  else if off = 0x134 then d.mem.sram.retired
  else if off = 0x138 then poolFree d.mem.hpool
  else if off = 0x144 then
    (d.mem.regions.filter (fun e => e.2.valid && decide (8 ≤ e.1))).length + 7
  else w

def prtView (d : Dev) (off w : Nat) : Nat :=
  if off = 0x184 then flashUsed d
  else if 0x200 ≤ off ∧ off < 0x400 then putBit w 30 (decide (ledAuto d ((off - 0x200) / 4) ≠ 0))
  else w

def tmStnView (d : Dev) (inst off w : Nat) : Nat :=
  if 0x400 ≤ off ∧ off < 0x500 then depth d (8 * inst + (off - 0x400) / 32) ((off - 0x400) / 4 % 8)
  else if 0x900 ≤ off ∧ off < 0xA00 then depth d (8 * inst + 32 + (off - 0x900) / 32) ((off - 0x900) / 4 % 8)
  else w

def dskView (d : Dev) (inst off w : Nat) : Nat :=
  if (off - 0x100) % 0x20 = 0 ∧ 0x100 ≤ off then
    let x := deskAt d (17 * inst + (off - 0x100) / 0x20)
    putBits (putBits w 15 11 (accUsed x)) 10 0 (min 2047 x.queue.length)
  else w

def hbmView (d : Dev) (inst off w : Nat) : Nat :=
  if off = 0x104 then putBits w 15 0 (min 65535 (freeGrans d inst)) else w

/-- BLK_STATUS (R524). -/
def statusView (d : Dev) (kind a w : Nat) : Nat :=
  putBit (putBit w 31 (postedAt d (blkBase a)).isSome) 24 (blkSecure d kind)

/-- What a read of an assigned register shows to a secure requester. -/
def regView (d : Dev) (a : Nat) : Nat :=
  let w := rg d a
  let off := a % 0x4000
  match blkOf a with
  | none => 0
  | some (b, inst) =>
    if off = 4 then statusView d b.kind a w
    else if off < 0x100 then w
    else match b.kind with
      | 0x01 => topView d off w
      | 0x02 => if off = 0x110 then attestLeft d else w
      | 0x05 => refView d off w
      | 0x06 => cmdView d off w
      | 0x07 => ckpView d off w
      | 0x08 => bellView d off w
      | 0x09 => seqView d off w
      | 0x0A => mtrView d off w
      | 0x0B => lsnView d off w
      | 0x0C => hudView d off w
      | 0x0D => rfabView d off w
      | 0x0E => rteView d off w
      | 0x10 => memView d off w
      | 0x11 => prtView d off w
      | 0x14 => tmStnView d inst off w
      | 0x16 => dskView d inst off w
      | 0x17 => hbmView d inst off w
      | _ => w

/-! ## Requesters, worlds, unlocks -/

def isMgmt : Req → Bool
  | .mgmt => true
  | .host => false

/-- Whether a requester is secure (R542). -/
def reqSecure (d : Dev) (who : Req) : Bool := isMgmt who || fbit d Reg.SIT_CTRL Fd.SIT_CTRL_host_reg_secure

/-- Key of a requester's latch or held word. -/
def busKey (who : Req) (a : Nat) : Nat := 2 * a + (isMgmt who).toNat

def unlockFld (who : Req) : Nat × Nat :=
  if isMgmt who then Fd.BLK_STATUS_unlocked_mgmt else Fd.BLK_STATUS_unlocked_host

/-- A refused or unassigned access (R512, R531). -/
def badAccess (d : Dev) (who : Req) (addr : Nat) (write part : Bool) : Dev :=
  let w := putBit (putBit (putBit (addr % 2 ^ 28) 31 write) 30 part) 29 (isMgmt who)
  bump (rgPut d Reg.TOP_BAD_ADDR w) Reg.TOP_BAD_ADDR_CNT

/-- A denied write (R518). -/
def denyWrite (d : Dev) (base : Nat) : Dev :=
  fset (bump d (Reg.BLK_WORLD_DENY_CNT base)) (Reg.BLK_STATUS base) Fd.BLK_STATUS_world_denied 1

/-- A refused locked write or a wrong key (R517). -/
def lockFail (d : Dev) (base : Nat) : Dev :=
  fset (bump d (Reg.BLK_LOCK_FAIL_CNT base)) (Reg.BLK_STATUS base) Fd.BLK_STATUS_lock_refused 1

/-- The write consumes the requester's unlock of a block (R517): whether it held one. -/
def consume (d : Dev) (who : Req) (base : Nat) : Bool × Dev :=
  let f := unlockFld who
  (fbit d (Reg.BLK_STATUS base) f, fset d (Reg.BLK_STATUS base) f 0)

/-! ## Fields of a write (R14, R517, R518) -/

/-- What a write comes to: the word to store, triggers and command data that act, whether a command register acts, whether a locked field and
whether a secure field was refused. -/
structure Wr where
  new  : Nat
  act  : Nat
  cmd  : Bool
  lock : Bool
  deny : Bool
deriving DecidableEq, Repr

/-- Whether a write of v would change a field that holds o, or make it act (R517). -/
def fldChange (f : Fld) (o x : Nat) : Bool :=
  match f.acc with
  | .ro => false
  | .rw => decide (x ≠ o)
  | .w1c => decide (x &&& o ≠ 0)
  | .trig => decide (x ≠ 0)
  | .cmd => true

def fldWrite (old v : Nat) (unlocked secure : Bool) (w : Wr) (f : Fld) : Wr :=
  let o := bits old f.hi f.lo
  let x := bits v f.hi f.lo
  let ch := fldChange f o x
  let nl := ch && f.lock && !unlocked
  let nd := ch && f.sec && !secure
  if nl || nd then { w with lock := w.lock || nl, deny := w.deny || nd }
  else match f.acc with
    | .ro => w
    | .rw => { w with new := putBits w.new f.hi f.lo x }
    | .w1c => { w with new := putBits w.new f.hi f.lo (o - (o &&& x)) }
    | .trig => { w with act := putBits w.act f.hi f.lo x }
    | .cmd => { w with act := putBits w.act f.hi f.lo x, cmd := true }

def wordWrite (fs : List Fld) (old v : Nat) (unlocked secure : Bool) : Wr :=
  fs.foldl (fldWrite old v unlocked secure) ⟨old, 0, false, false, false⟩

/-- The word that an alias write forms (R514): 1 set, 2 clear, 3 toggle. -/
def aliasWord (fs : List Fld) (op old v : Nat) : Nat :=
  if op = 0 then v
  else
    let base := fs.foldl (fun w f => match f.acc with
      | .ro | .rw => putBits w f.hi f.lo (bits old f.hi f.lo)
      | _ => w) 0
    let w := if op = 1 then base ||| v else if op = 2 then base - (base &&& v) else base ^^^ v
    fs.foldl (fun w f => if f.acc = .w1c then putBits w f.hi f.lo 0 else w) w

/-! ## What registers do when written -/

/-- Counters that BLK_CTRL.cnt_clear clears (R515): those of R522, the scoreboard, DESK_RES_FAIL_CNT and ICONV_REFUSE_CNT. -/
def isCounter (kind inst off : Nat) : Bool :=
  decide (0x10 ≤ off ∧ off < 0x1C)
    || (decide (0x800 ≤ off) && (match findRow kind inst off with
        | some (r, _) => decide (r.flds = [⟨31, 0, .ro, false, false, 0⟩])
        | none => false))
    || decide (kind = 0x16 ∧ 0x100 ≤ off ∧ (off - 0x100) % 0x20 = 8)
    || decide (kind = 0x13 ∧ 0x100 ≤ off ∧ off < 0x200 ∧ off % 0x20 = 4)

/-- CNT_CLEAR (R515). -/
def cntClear (d : Dev) (kind inst base : Nat) : Dev :=
  { d with regs := d.regs.filter (fun e => !(decide (blkBase e.1 = base) && isCounter kind inst (e.1 % 0x4000))) }

/-- BLK_UNLOCK (R517). -/
def unlockWrite (d : Dev) (who : Req) (base v : Nat) : Dev :=
  if v = 0xC1A55E5A then fset d (Reg.BLK_STATUS base) (unlockFld who) 1
  else lockFail (fset d (Reg.BLK_STATUS base) (unlockFld who) 0) base

/-- TOP_CTRL (R528): HALT first, then the fabric reset. -/
def topCtrl (d : Dev) (act : Nat) : Dev :=
  let d := if bit act 30 then haltAction d else d
  if bit act 31 then fabricReset d else d

/-- REF_SEVn (R444): a reserved code leaves its source's severity. -/
def sevWrite (old new : Nat) : Nat :=
  (List.range 8).foldl (fun w i =>
    let v := bits new (4 * i + 3) (4 * i)
    if 5 ≤ v ∧ v ≤ 14 then putBits w (4 * i + 3) (4 * i) (bits old (4 * i + 3) (4 * i)) else w) new

/-- BELL_CTRL (R254, R275). -/
def bellCtrl (d : Dev) (old : Nat) (w : Wr) : Dev :=
  let new := if bit old 4 then putBits w.new 1 0 (bits old 1 0) else w.new
  let d := rgPut d Reg.BELL_CTRL new
  let d := if bit w.act 5 then bellSet d else d
  let d := if bit new 6 ∧ !bit old 6 then { d with bell := { d.bell with ppsSeen := ns d } } else d
  if bit new 4 ≠ bit old 4 then bellEnable d (bit new 4) else d

/-- BELL_STEP_CTRL (R264). -/
def stepCtrl (d : Dev) (old new : Nat) : Dev :=
  let d := rgPut d Reg.BELL_STEP_CTRL new
  match bit old 31, bit new 31 with
  | false, true => stepArm d old
  | true, false => stepDisarm d
  | true, true => stepDefer d
  | false, false => d

/-- CMD_CTRL (R498, R510). -/
def cmdCtrl (d : Dev) (old new : Nat) : Dev :=
  let d := rgPut d Reg.CMD_CTRL new
  let f := Fd.CMD_CTRL_rx_en.1
  if bit new f ∧ !bit old f then rxOn d else if bit old f ∧ !bit new f then rxOff d else d

/-- CKP_CTRL (R482). -/
def ckpCtrl (d : Dev) (old new : Nat) : Dev :=
  let d := rgPut d Reg.CKP_CTRL new
  if bit old 0 ∧ !bit new 0 then mirrorOff d else d

/-- MEM_QUOTAk (R390). -/
def quotaWrite (d : Dev) (k old new : Nat) : Dev :=
  let a := Reg.MEM_QUOTA k
  let others := (List.range 4).foldl (fun s j => if j = k then s else s + fget d (Reg.MEM_QUOTA j) Fd.MEM_QUOTA_quota) 0
  if others + bits new 10 0 ≤ 1024 then rgPut d a new
  else rgPut d a (putBit (putBits new 10 0 (bits old 10 0)) 31 true)

/-- MEM_THERM_CFG (R391). -/
def thermWrite (d : Dev) (old new : Nat) : Dev :=
  let a := Reg.MEM_THERM_CFG
  if bits new 7 0 < bits new 15 8 ∧ bits new 15 8 < bits new 23 16 ∧ bits new 23 16 ≤ 94 then rgPut d a new
  else rgPut d a (putBit (putBits new 23 0 (bits old 23 0)) 31 true)

/-- A register takes what a write comes to; `i` is its index in its row. -/
def applyReg (d : Dev) (who : Req) (kind inst a : Nat) (w : Wr) : Dev :=
  let off := a % 0x4000
  let old := rg d a
  let put := rgPut d a w.new
  let base := blkBase a
  if off = 0x08 then unlockWrite d who base w.act
  else if off = 0x0C then (if bit w.act 0 then cntClear d kind inst base else d)
  else if off < 0x100 then put
  else match kind with
    | 0x01 => if off = 0x10C then topCtrl put w.act else put
    | 0x02 => if off = 0x108 then rgPut d a ((w.new ||| 0x9C) &&& 0xFFFFFE) else put
    | 0x05 =>
      if off = 0x108 then (if w.cmd then refAck d w.act else d)
      else if off = 0x10C then (if w.cmd then refClear d w.act else d)
      else if off = 0x110 then (if w.cmd then refRaise d w.act else d)
      else if 0x200 ≤ off ∧ off < 0x400 then rgPut d a (sevWrite old w.new)
      else put
    | 0x06 => if off = 0x100 then cmdCtrl d old w.new else put
    | 0x07 => if off = 0x100 then ckpCtrl d old w.new else put
    | 0x08 =>
      if off = 0x100 then bellCtrl d old w
      else if off = 0x12C then (if bit w.act 3 then tickGo put old else put)
      else if off = 0x138 then stepCtrl d old w.new
      else put
    | 0x0C => if off = 0x100 ∧ bit w.act 4 then hudFence put (bits w.new 3 0) else put
    | 0x0D =>
      if off = 0x10C then
        (if bit w.act 31 then benchGo put (bits w.new 8 0) else if bits w.new 8 0 > 271 then fset put Reg.RFAB_BENCH Fd.RFAB_BENCH_err 1 else put)
      else put
    | 0x0E =>
      if off = 0x100 then (if bit w.act 4 then resync put else put)
      else if off = 0x104 then rteSelfWrite d w.new
      else if 0x500 ≤ off ∧ off < 0x700 then portCfgWrite d ((off - 0x500) / 4) w.new
      else if 0xA00 ≤ off ∧ off < 0xC00 then linkPortWrite d ((off - 0xA00) / 4) w.new
      else put
    | 0x0F =>
      if 0x200 ≤ off ∧ off < 0x400 then (if bit w.new 31 then d else gateDisable d ((off - 0x200) / 4))
      else if off = 0x400 ∨ off = 0x410 ∨ off = 0x420 ∨ off = 0x430 then mirrorWrite d ((off - 0x400) / 16) w.new
      else if off = 0x504 then (if fbit d Reg.TM_CAP_CTRL Fd.TM_CAP_CTRL_en then d else put)
      else put
    | 0x10 =>
      if 0x110 ≤ off ∧ off < 0x120 then quotaWrite d ((off - 0x110) / 4) old w.new
      else if off = 0x13C then thermWrite d old w.new
      else put
    | 0x11 =>
      if off < 0x180 ∧ off % 0x20 = 0 then rsvCfgWrite d ((off - 0x100) / 0x20) w.new else put
    | 0x12 =>
      let l := 8 * inst + (off - 0x100) / 0x40
      if off < 0x300 ∧ off % 0x40 = 0 then linkCtrlWrite d l w.new w.act
      else if off < 0x300 ∧ off % 0x40 = 0x1C then linkExpectWrite d l w.new
      else put
    | 0x17 =>
      if off = 0x100 then
        let d := if bit w.act 31 then fenceBegin d inst else d
        if bit w.act 30 then unfence d inst else d
      else put
    | _ => put

/-- A multi-word field takes its new value at the write of its highest word (R513). -/
def applyPair (d : Dev) (who : Req) (lo : Nat) (w : Wr) : Dev :=
  let k := busKey who lo
  let low := (tget none d.bus.held k).getD (rg d lo)
  let d := { d with bus := { d.bus with held := tset none d.bus.held k none } }
  if lo = Reg.BELL_STEP_ORIGIN_0 then
    let o := low + 2 ^ 32 * w.new
    if stepArmed d then
      if o % tickLen d = 0 then stepDefer (rg64Put d lo o)
      else fset d Reg.BELL_STEP_CTRL Fd.BELL_STEP_CTRL_err 1
    else rg64Put d lo o
  else rgPut (rgPut d lo low) (lo + 4) w.new

/-- A write reaches its register (the receive area of R498 keeps its registers while rx_en is 1), with `unlocked` telling whether it consumed an unlock; `addr` says by its range whether it is an alias
write (R511, R514). -/
def regWrite (d : Dev) (who : Req) (addr v : Nat) (unlocked : Bool) : Dev :=
  let a := blkBase addr + addr % 0x1000
  match blkOf a, regFlds a with
  | some (b, inst), some fs =>
    let old := rg d a
    let w := wordWrite fs old (aliasWord fs (addr % 0x4000 / 0x1000) old v) unlocked (reqSecure d who)
    let d := if w.lock then lockFail d (blkBase a) else d
    let d := if w.deny then denyWrite d (blkBase a) else d
    if b.kind = 0x06 ∧ 0x110 ≤ a % 0x4000 ∧ a % 0x4000 ≤ 0x118 ∧ fbit d Reg.CMD_CTRL Fd.CMD_CTRL_rx_en then d
    else match (if fs.any (fun f => decide (f.acc = .rw)) then multiWord a else none) with
    | some (lo, _) =>
      if a = lo then { d with bus := { d.bus with held := tset none d.bus.held (busKey who lo) (some w.new) } }
      else applyPair d who lo w
    | none => applyReg d who b.kind inst a w
  | _, _ => d

/-- Whether a block answers while no image verifies (R546): Sitonel's registers only. -/
def blkAnswers (d : Dev) (kind : Nat) : Bool := decide (d.pkg.phase ≠ Phase.dead) || decide (kind = 2)

/-- Whether a fabric reset keeps an address from being reached: accesses there read 0 or have no effect, and are not counted (R529). -/
def resetShields (d : Dev) (a : Nat) : Bool := resetBusy d && (match blkOf a with | some (b, _) => decide (4 < b.kind) | none => false)

/-- A write on the register bus (R512, R516 to R518). -/
def busWrite (d : Dev) (who : Req) (addr v be : Nat) : Dev :=
  let a := blkBase addr + addr % 0x1000
  if resetShields d a then d
  else match blkOf a, regFlds a with
  | some (b, _), some _ =>
    if !blkAnswers d b.kind then d
    else if be ≠ 15 then badAccess d who addr true true
    else if !reqSecure d who ∧ blkSecure d b.kind then denyWrite d (blkBase a)
    else if !b.posted then
      let c := consume d who (blkBase a)
      regWrite c.2 who addr v c.1
    else if (postedAt d (blkBase a)).isSome then
      fset d (Reg.BLK_STATUS (blkBase a)) Fd.BLK_STATUS_post_err 1
    else
      let c := consume d who (blkBase a)
      let p : Posted := ⟨addr, isMgmt who, BitVec.ofNat 32 v, c.1⟩
      { c.2 with bus := { c.2.bus with posted := tset none c.2.bus.posted (blkBase a) (some p) } }
  | _, _ => if decide (d.pkg.phase = Phase.dead) then d else badAccess d who addr true (decide (be ≠ 15))

/-- POSTED_WRITE_DONE (R516): the posted write of a block takes effect. -/
def postedDone (d : Dev) (addr : Nat) : Dev :=
  match postedAt d (blkBase addr) with
  | none => d
  | some p =>
    let d := { d with bus := { d.bus with posted := tset none d.bus.posted (blkBase addr) none } }
    regWrite d (if p.mgmt then .mgmt else .host) p.addr p.data.toNat p.unlocked

/-- An address of an alias range of the register at an address: 1 set, 2 clear, 3 toggle. -/
def aliasAddr (addr op : Nat) : Nat := blkBase addr + 0x1000 * op + addr % 0x1000

/-! ## Reads -/

/-- Data of a read (R512, R518, R529, R546). -/
def readData (d : Dev) (who : Req) (addr : Nat) : Nat :=
  let a := blkBase addr + addr % 0x1000
  match blkOf a, regFlds a with
  | some (b, _), some _ =>
    let off := a % 0x4000
    if !blkAnswers d b.kind ∧ off ≠ 0 then 0
    else if resetBusy d ∧ 4 < b.kind then 0
    else if !reqSecure d who ∧ blkSecure d b.kind ∧ off ≠ 0 ∧ off ≠ 4 then 0
    else match multiWord a with
      | some (lo, _) => if a = lo then regView d a else (tget none d.bus.latch (busKey who a)).getD (regView d a)
      | none => regView d a
  | _, _ => 0

/-- Whether a read reaches a register. -/
def readReaches (d : Dev) (who : Req) (a : Nat) : Bool :=
  match blkOf a with
  | some (b, _) => blkAnswers d b.kind && !(resetBusy d && decide (4 < b.kind)) && !(!reqSecure d who && blkSecure d b.kind)
  | none => false

/-- A read on the register bus: that of the lowest word of a multi-word field latches its higher words (R513). -/
def busRead (d : Dev) (who : Req) (addr : Nat) : Dev :=
  let a := blkBase addr + addr % 0x1000
  let x := readData d who addr
  let d := match regFlds a with
    | none => if decide (d.pkg.phase = Phase.dead) || resetShields d a then d else badAccess d who addr false false
    | some _ => match multiWord a with
      | some (lo, n) =>
        if a = lo ∧ readReaches d who a then
          (List.range (n - 1)).foldl (fun e i =>
            { e with bus := { e.bus with latch := tset none e.bus.latch (busKey who (lo + 4 * (i + 1))) (some (regView d (lo + 4 * (i + 1)))) } }) d
        else d
      | none => d
  { d with bus := { d.bus with last := tset 0 d.bus.last (isMgmt who).toNat x } }

/-! ## Votes (R519, R520) -/

/-- Whether a field is stored in three copies (R519). -/
def triple (kind off : Nat) (f : Fld) : Bool :=
  f.lock
    || decide (off = 4 ∧ f.lo = 24)
    || decide (kind = 0x0D ∧ 0x400 ≤ off ∧ off < 0x800)
    || decide (kind = 0x0E ∧ ((0x200 ≤ off ∧ off < 0x500) ∨ (0x500 ≤ off ∧ off < 0x700 ∧ 27 ≤ f.lo) ∨ (0xA00 ≤ off ∧ off < 0xC00)) ∧ f.acc = .rw)
    || decide (kind = 0x08 ∧ off = 0x100 ∧ (f.lo = 0 ∨ f.lo = 4))
    || decide (kind = 0x05 ∧ 0x120 ≤ off ∧ off < 0x130)
    || decide (kind = 0x10 ∧ 0x110 ≤ off ∧ off < 0x120 ∧ f.acc = .rw)

/-- One field's vote over three copies: the word, repaired, and whether every copy differed. -/
def voteFld (a : Nat) (cs : List Nat) (x : Nat × Nat × Bool) (f : Fld) : Nat × Nat × Bool :=
  match cs.map (fun c => bits c f.hi f.lo) with
  | [p, q, r] =>
    if p = q ∧ q = r then x
    else if p = q ∨ p = r then (putBits x.1 f.hi f.lo p, x.2.1 + 1, x.2.2)
    else if q = r then (putBits x.1 f.hi f.lo q, x.2.1 + 1, x.2.2)
    else (putBits x.1 f.hi f.lo (bits (resetWord a).toNat f.hi f.lo), x.2.1, true)
  | _ => x

/-- A field that a vote has changed acts with its new value: the bell's enable and a port's en are followed as by a write. -/
def votePut (d : Dev) (a new : Nat) : Dev :=
  let old := rg d a
  if a = Reg.BELL_CTRL ∧ bit old 4 ≠ bit new 4 then bellEnable (rgPut d a new) (bit new 4)
  else if Reg.PORT_CFG 0 ≤ a ∧ a ≤ Reg.PORT_CFG 127 ∧ bit old 31 ∧ !bit new 31 then rgPut (portDown d ((a - Reg.PORT_CFG 0) / 4)) a new
  else if Reg.PORT_CFG 0 ≤ a ∧ a ≤ Reg.PORT_CFG 127 ∧ bit old 27 ≠ bit new 27 then
    rgPut { d with rte := { d.rte with modeNow := tset 1 d.rte.modeNow ((a - Reg.PORT_CFG 0) / 4) (bits new 27 27) } } a new
  else rgPut d a new

/-- The sweep of one register, whose copies 0 to 2 have met the bit changes `ups`. -/
def voteReg (d : Dev) (a : Nat) (ups : List (Nat × Nat)) : Dev :=
  match blkOf a, regFlds a with
  | some (b, _), some fs =>
    let w := rg d a
    let cs := (List.range 3).map (fun c => (ups.filter (fun u => decide (u.1 = c))).foldl (fun v u => v ^^^ u.2) w)
    let r := (fs.filter (triple b.kind (a % 0x4000))).foldl (voteFld a cs) (w, 0, false)
    let d := if r.1 = w then d else votePut d a r.1
    let d := if r.2.1 = 0 then d else raiseOnce (bump d (Reg.VOTE_MISMATCH_CNT (blkBase a)) r.2.1) 972 0
    if r.2.2 then raise (fset d (Reg.BLK_STATUS (blkBase a)) Fd.BLK_STATUS_vote_fail 1) 973 else d
  | _, _ => d

/-- VOTE_SWEEP (R519, R520): `upsets` names register, copy and changed bits (log 11). -/
def voteSweep (d : Dev) (upsets : List (Nat × Nat × Nat)) : Dev :=
  (upsets.map (·.1)).eraseDups.foldl (fun d a =>
    voteReg d a ((upsets.filter (fun u => decide (u.1 = a))).map (·.2))) d

end Sys2Proof.Machine
end

