-- ==== Sys2Proof/Machine/Tick.lean ====
section
/-! DEFINITION. The passing of bell time: the tick actions of R24 in their order, the step boundary of R264, and one fabric cycle. -/

namespace Sys2Proof.Machine

/-- The bytes of a register as a read returns them, least significant first (R9, R268). -/
def leBytes (w : Nat) : List Byte := (beBytes 4 w).reverse

/-- CRC-32C of the RFAB_DESK_MAP words in logical order (R268). -/
def mapCrc (d : Dev) : Nat := crc32c ((List.range 256).flatMap (fun l => leBytes (rg d (Reg.RFAB_DESK_MAP l))))

/-- STEP_TICK (R264, R268): at a step tick BELL_STEP_CNT rises by 1 and a STEP entry is appended; a period or origin written while armed comes
into force. -/
def stepStamp (d : Dev) : Dev :=
  if !stepDue d then d
  else
    let c := (rg d Reg.BELL_STEP_CNT + 1) % 2 ^ 32
    let d := rgPut d Reg.BELL_STEP_CNT c
    let s := runningSlot d
    let body := beBytes 4 c ++ beBytes 2 (fwMajor d s) ++ beBytes 4 (fwBuild d s)
      ++ beBytes 1 (fget d Reg.BELL_TICK Fd.BELL_TICK_sel) ++ beBytes 4 (mapCrc d) ++ beBytes 4 (rg d Reg.BELL_TT_ID)
    let d := append d 0x08 0 0 c body
    let next := match d.bell.stepNext with
      | some x => some x
      | none => d.bell.stepIn
    { d with bell := { d.bell with stepAt := some (tickIdx d), stepIn := next, stepNext := none } }

/-- Tick action 1 for one port (R333): a disable takes effect, a pending list becomes operational, the entry of the tick is in force. -/
def gateTick (d : Dev) (p : Nat) : Dev := gateAdvance (gateActivate (gateDisableEffect d p) p) p

/-- What else falls due at a tick boundary: a port's new mode (R284), refills of shapers and policers (R330, R336), desks and map entries
(R103, R440), huddle groups that move (R240), roll calls (R365), moves that wait (R385), tests owed (R439), METRO passes that a quota held back and repeated METRO_RESENDs (R180, R184), the bell's parents (R258),
the mirror's lag (R465) and the flash tier's rates (R417). -/
def tickDue (d : Dev) : Dev :=
  let d := (d.rte.modeNext.map (·.1)).foldl portMode d
  let d := refillPolicers (refillShapers d)
  let d := desksBack (mapTake d)
  let d := (d.hud.moveAt.map (·.1)).foldl hudMove d
  let d := ftOwed (evacRetry (rollCall d))
  let d := gatherRepeat (retryHeld d)
  flashRecover (mirrorLag (bellWatch d))

/-- A tick change whose effective time has come takes effect at this boundary (R263). -/
def tickChange (d : Dev) : Dev := match d.bell.tickArm with
  | some (_, t) => if t ≤ ns d then tickEffect d (d.hud.groups.any (fun g => g.2.valid)) else d
  | none => d

/-- The actions of a tick boundary, in the order of R24. Under HALT actions 2 and 3 do not run (R447). -/
def tickActions (d : Dev) : Dev :=
  if resetBusy d then { d with clk := { d.clk with ticked := tickIdx d } }
  else
    let d := tickChange d
    let d := { d with clk := { d.clk with ticked := tickIdx d }, ref := { d.ref with once := [] } }
    let d := (d.tm.gates.map (·.1)).foldl gateTick d
    let d := if halted d then d else hudTick d
    let d := if halted d then d else (d.seq.buckets.map (·.1)).foldl (fun d k => metroLate (lateLimit d k) k) d
    let d := refereeSample d
    let d := stepStamp d
    let d := { d with clk := { d.clk with slotTick := tickIdx d } }
    sweepAborted (tickDue d)

/-- Bell time goes on by whole increments (R252) until it is at or past t ns. -/
def timeTo (d : Dev) (t : Nat) : Dev :=
  let n := ceilDiv (t * 2 ^ 32 - d.clk.now) (max 1 (rg d Reg.BELL_INC))
  ppsPass { d with clk := { d.clk with now := d.clk.now + n * rg d Reg.BELL_INC } } (ns d)

/-- TICK_BOUNDARY (R24, R262): bell time reaches the next multiple of the tick length; every slot on a corridor has arrived by then. -/
def tickBoundary (d : Dev) : Dev :=
  let d := if halted d || resetBusy d then d else unloadNear (ringEmpty d)
  tickActions (timeTo d ((tickIdx d + 1) * tickLen d))

/-- One fabric cycle (R251): the bell counter rises by BELL_INC, the corridors move, codewords that are due leave, and the actions of a tick boundary that it crosses run
(log 36). -/
def fabricCycle (d : Dev) : Dev :=
  let d := if halted d || resetBusy d then d else sweepAborted (unloadNear (ringCycle d))
  let d := ppsPass { d with clk := { d.clk with now := d.clk.now + rg d Reg.BELL_INC } } (ns d)
  let d := if running d then cwPumpAll d else d
  if tickIdx d = d.clk.ticked then d else tickActions d

/-! ## The form of a meaning -/

/-- A command that a service drain rejects (R555); its layout is tested first. -/
def unlessDraining (d : Dev) (a : Ans) : Ans :=
  if !draining d then a
  else match a with
    | .bad o => .bad o
    | _ => .err St.updateBusy

/-- METRO_JOINs that were kept for a bucket are taken once it is open (R179). -/
def openJoins (a : Ans) (k : Nat) : Ans :=
  match a with
  | .done d f => .done (joinsHeld d k) f
  | a => a

/-- CMD_UNKNOWN_OPCODE (R487, R506): a command whose opcode is in no table. -/
def unknownCmd (d : Dev) (h : CmdHdr) (op : Nat) : Dev :=
  if opcodes.contains op then d else reply (dequeue d h op) (hdrReply h op) St.unknownOpcode []

/-- Flow of a source switch, group × 64 + switch, on a VC (R302). -/
def flowKey (sw vc : Nat) : Nat := sw * 8 + vc

/-- Stage of a rail (R562). -/
def railStage (i : Nat) : Nat := min 5 (railOrder i)

/-- Whether a rail of a later stage than that of i is above 0.2 V (R564). -/
def railUpLater (d : Dev) (i : Nat) : Bool :=
  (List.range 10).any (fun j => decide (railStage i < railStage j ∧ 200 < railMv d j))

/-- A command acts on a device that is running; what falls due with it settles at its end (R445). Without power, in reset or without an
image the command finds nothing to act on. -/
def act (f : Dev → Dev) (s : State) : Host.Outcome State Fault Refusal :=
  if alive s.dev then .next { s with dev := settle (f s.dev) } else .next s

/-- A register access: Sitonel's registers answer even where no image verifies (R546). -/
def actReg (f : Dev → Dev) (s : State) : Host.Outcome State Fault Refusal :=
  if alive s.dev || decide (s.dev.pkg.phase = Phase.dead) then .next { s with dev := settle (f s.dev) } else .next s

/-- A happening at the supplies, the clocks or the reset pins: it acts whatever the phase. -/
def actAlways (f : Dev → Dev) (s : State) : Host.Outcome State Fault Refusal := .next { s with dev := settle (f s.dev) }

/-- What step does on an empty queue: one fabric cycle passes (log 36). -/
def idle (s : State) : State := if alive s.dev then { s with dev := settle (fabricCycle s.dev) } else s

end Sys2Proof.Machine
end

