-- ==== Sys2Proof/Machine/ExecBell.lean ====
section
/-! DEFINITION. Meanings of the rows of the bell, step alignment and replay (08). -/

namespace Sys2Proof.Machine

/-- BELL_WORD_SEND (R255). -/
def execBellWordSend (l : Fin 128) (s : State) : Host.Outcome State Fault Refusal :=
  act (fun d => wordSend d l.val) s

/-- BELL_WORD_RECEIVE (R255, R256). -/
def execBellWordReceive (l : Fin 128) (word : List Byte) (s : State) : Host.Outcome State Fault Refusal :=
  act (fun d => wordReceive d l.val word) s

/-- BELL_ENABLE (R254): a write of BELL_CTRL. -/
def execBellEnable (who : Req) (v : Word) (s : State) : Host.Outcome State Fault Refusal :=
  actReg (fun d => busWrite d who Reg.BELL_CTRL v.toNat 15) s

/-- BELL_SET_GO (R275): a write of BELL_CTRL. -/
def execBellSetGo (who : Req) (v : Word) (s : State) : Host.Outcome State Fault Refusal :=
  actReg (fun d => busWrite d who Reg.BELL_CTRL v.toNat 15) s

/-- PPS_EDGE (R260). -/
def execPpsEdge  (s : State) : Host.Outcome State Fault Refusal :=
  act (ppsEdge) s

/-- PPS_MISS (R260). -/
def execPpsMiss  (s : State) : Host.Outcome State Fault Refusal :=
  act (ppsMiss) s

/-- PPS_OUT_EDGE (R261). -/
def execPpsOutEdge  (s : State) : Host.Outcome State Fault Refusal :=
  act (ppsOut) s

/-- BELL_TICK_GO (R263): a write of BELL_TICK. -/
def execBellTickGo (who : Req) (v : Word) (s : State) : Host.Outcome State Fault Refusal :=
  actReg (fun d => busWrite d who Reg.BELL_TICK v.toNat 15) s

/-- TICK_CHANGE_EFFECT (R263). -/
def execTickChangeEffect  (s : State) : Host.Outcome State Fault Refusal :=
  act (fun d => tickEffect d (d.hud.groups.any (fun g => g.2.valid))) s

/-- BELL_STEP_ARM (R264): a write of BELL_STEP_CTRL. -/
def execBellStepArm (who : Req) (v : Word) (s : State) : Host.Outcome State Fault Refusal :=
  actReg (fun d => busWrite d who Reg.BELL_STEP_CTRL v.toNat 15) s

/-- BELL_STEP_ORIGIN_WRITE (R264, R513): the write of the origin's highest word. -/
def execBellStepOriginWrite (who : Req) (v : Word) (s : State) : Host.Outcome State Fault Refusal :=
  actReg (fun d => busWrite d who Reg.BELL_STEP_ORIGIN_1 v.toNat 15) s

/-- STEP_TICK (R264). -/
def execStepTick  (s : State) : Host.Outcome State Fault Refusal :=
  act (stepStamp) s

/-- REPLAY_START (R270). -/
def execReplayStart (h : CmdHdr) (p : List Byte) (s : State) : Host.Outcome State Fault Refusal :=
  act (runCmd ⟨0x0610, false, false⟩ h p (fun d _ => replayStart d h p)) s

/-- REPLAY_STOP (R270). -/
def execReplayStop (h : CmdHdr) (p : List Byte) (s : State) : Host.Outcome State Fault Refusal :=
  act (runCmd ⟨0x0611, false, false⟩ h p (fun d _ => replayStop d p)) s


end Sys2Proof.Machine
end

