-- ==== Sys2Proof/Machine/ExecDesks.lean ====
section
/-! DEFINITION. Meanings of the rows of the converters and the reduction desks (03). -/

namespace Sys2Proof.Machine

/-- CONVERT_BLOCK (R75). -/
def execConvertBlock (l : Fin 128) (dup : Bool) (s : State) : Host.Outcome State Fault Refusal :=
  act (fun d => convertBlock d l.val dup) s

/-- CHUNK_ADMIT (R138). -/
def execChunkAdmit  (s : State) : Host.Outcome State Fault Refusal :=
  act (chunkAdmit) s

/-- ADMIT_NOTE_TIMEOUT (R138). -/
def execAdmitNoteTimeout (k : CKey) (s : State) : Host.Outcome State Fault Refusal :=
  act (fun d => admitNote d (keyOf k.b) k.chunk.toNat) s

/-- DESK_ADD (R81 to R83). -/
def execDeskAdd (p : Fin 272) (u : Upset) (s : State) : Host.Outcome State Fault Refusal :=
  act (fun d => deskAdd d p.val u) s

/-- CHUNK_BIND (R86). -/
def execChunkBind (p : Fin 272) (s : State) : Host.Outcome State Fault Refusal :=
  act (fun d => chunkBind d p.val) s

/-- DESK_CLOSE (R87). -/
def execDeskClose (k : CKey) (s : State) : Host.Outcome State Fault Refusal :=
  act (fun d => deskClose d (keyOf k.b) k.chunk.toNat) s

/-- ROW_RELEASE (R88, R95). -/
def execRowRelease (p : Fin 272) (k : CKey) (s : State) : Host.Outcome State Fault Refusal :=
  act (fun d => rowRelease d p.val (keyOf k.b) k.chunk.toNat) s

/-- HELPER_RETURN (R94). -/
def execHelperReturn (p : Fin 272) (k : CKey) (s : State) : Host.Outcome State Fault Refusal :=
  act (fun d => helperReturn d p.val (keyOf k.b) k.chunk.toNat) s

/-- HELPER_ROW_MERGE (R94). -/
def execHelperRowMerge (p : Fin 272) (k : CKey) (u : Upset) (s : State) : Host.Outcome State Fault Refusal :=
  act (fun d => helperMerge d p.val (keyOf k.b) k.chunk.toNat u) s

/-- TWIN_ROW_COMPARE (R99). -/
def execTwinRowCompare (p : Fin 272) (k : CKey) (s : State) : Host.Outcome State Fault Refusal :=
  act (fun d => twinCompare d p.val (keyOf k.b) k.chunk.toNat) s

/-- ECONV_ROW (R96). -/
def execEconvRow (l : Fin 128) (u : Upset) (dup : Bool) (s : State) : Host.Outcome State Fault Refusal :=
  act (fun d => econvRow d l.val u dup) s

/-- STEAL_ROUND (R92, R93). -/
def execStealRound  (s : State) : Host.Outcome State Fault Refusal :=
  act (stealRound) s

/-- RFAB_BENCH_GO (R110): a write of RFAB_BENCH. -/
def execRfabBenchGo (who : Req) (v : Word) (s : State) : Host.Outcome State Fault Refusal :=
  actReg (fun d => busWrite d who Reg.RFAB_BENCH v.toNat 15) s

/-- DESK_DRAIN_COMPLETE (R102). -/
def execDeskDrainComplete (p : Fin 272) (s : State) : Host.Outcome State Fault Refusal :=
  act (fun d => drainComplete d p.val) s

/-- DESK_DRAIN_TIMEOUT (R102). -/
def execDeskDrainTimeout (p : Fin 272) (s : State) : Host.Outcome State Fault Refusal :=
  act (fun d => drainTimeout d p.val) s

/-- SPARE_KAT_START (R103). -/
def execSpareKatStart  (s : State) : Host.Outcome State Fault Refusal :=
  act (katStart) s

/-- SPARE_KAT_END (R103). -/
def execSpareKatEnd (pass : Bool) (s : State) : Host.Outcome State Fault Refusal :=
  act (fun d => katEndAll d pass) s

/-- SPARE_MAP_TAKE (R103). -/
def execSpareMapTake  (s : State) : Host.Outcome State Fault Refusal :=
  act (mapTake) s


end Sys2Proof.Machine
end

