-- ==== Sys2Proof/Machine/ExecFabric.lean ====
section
/-! DEFINITION. Meanings of the rows of bell ticks, frames, corridors, shapers, policers and gates (01, 09, 10). -/

namespace Sys2Proof.Machine

/-- TICK_BOUNDARY (R24). -/
def execTickBoundary  (s : State) : Host.Outcome State Fault Refusal :=
  act (tickBoundary) s

/-- FRAME_RECEIVE (R290, R434). -/
def execFrameReceive (e : Eg) (bytes : List Byte) (colour : BitVec 2) (s : State) : Host.Outcome State Fault Refusal :=
  act (fun d => frameReceive d e.val bytes colour.toNat) s

/-- FRAME_TRANSMIT (R326). -/
def execFrameTransmit (e : Eg) (s : State) : Host.Outcome State Fault Refusal :=
  act (fun d => sweepAborted (transmit d e.val)) s

/-- ECN_ECHO_SEND (R312). -/
def execEcnEchoSend (src : Coord) (vc : BitVec 3) (s : State) : Host.Outcome State Fault Refusal :=
  act (fun d => echoSend d src.toNat vc.toNat) s

/-- ECN_RECOVER (R313). -/
def execEcnRecover (port : BitVec 7) (vc : BitVec 3) (s : State) : Host.Outcome State Fault Refusal :=
  act (fun d => ecnRecover d port.toNat vc.toNat) s

/-- REORDER_GAP_TIMEOUT (R307). -/
def execReorderGapTimeout (sw : BitVec 13) (vc : BitVec 3) (s : State) : Host.Outcome State Fault Refusal :=
  act (fun d => gapTimeout d (flowKey sw.toNat vc.toNat)) s

/-- CORRIDOR_SLOT_ENTER (R310). -/
def execCorridorSlotEnter (corr : Fin 16) (station : Fin 53) (s : State) : Host.Outcome State Fault Refusal :=
  act (fun d => sweepAborted (corridorEnter d corr.val station.val)) s

/-- SHAPER_REFILL (R330, R331). -/
def execShaperRefill  (s : State) : Host.Outcome State Fault Refusal :=
  act (refillShapers) s

/-- POLICER_REFILL (R336). -/
def execPolicerRefill  (s : State) : Host.Outcome State Fault Refusal :=
  act (refillPolicers) s

/-- GATE_ENTRY_CHANGE (R333). -/
def execGateEntryChange (port : BitVec 7) (s : State) : Host.Outcome State Fault Refusal :=
  act (fun d => gateAdvance d port.toNat) s

/-- GATE_LIST_ACTIVATE (R333). -/
def execGateListActivate (port : BitVec 7) (s : State) : Host.Outcome State Fault Refusal :=
  act (fun d => gateActivate d port.toNat) s

/-- GATE_DISABLE (R333, R349): a write of TM_GATE_STATUS. -/
def execGateDisable (who : Req) (port : BitVec 7) (v : Word) (s : State) : Host.Outcome State Fault Refusal :=
  actReg (fun d => busWrite d who (Reg.TM_GATE_STATUS port.toNat) v.toNat 15) s

/-- GATE_DISABLE_TAKE_EFFECT (R333). -/
def execGateDisableTakeEffect (port : BitVec 7) (s : State) : Host.Outcome State Fault Refusal :=
  act (fun d => gateDisableEffect d port.toNat) s

/-- PORT_ENABLE (R284, R321): a write of PORT_CFG. -/
def execPortEnable (who : Req) (port : BitVec 7) (v : Word) (s : State) : Host.Outcome State Fault Refusal :=
  actReg (fun d => busWrite d who (Reg.PORT_CFG port.toNat) v.toNat 15) s

/-- PORT_MODE_CHANGE (R284). -/
def execPortModeChange (port : BitVec 7) (s : State) : Host.Outcome State Fault Refusal :=
  act (fun d => portMode d port.toNat) s

/-- LINK_PORT_WRITE (R284, R322). -/
def execLinkPortWrite (who : Req) (l : Fin 128) (v : Word) (s : State) : Host.Outcome State Fault Refusal :=
  actReg (fun d => busWrite d who (Reg.LINK_PORT l.val) v.toNat 15) s

/-- RTE_RESYNC (R303, R316): a write of RTE_CTRL. -/
def execRteResync (who : Req) (v : Word) (s : State) : Host.Outcome State Fault Refusal :=
  actReg (fun d => busWrite d who Reg.RTE_CTRL v.toNat 15) s

/-- GATE_LOAD (R332, R333). -/
def execGateLoad (h : CmdHdr) (p : List Byte) (s : State) : Host.Outcome State Fault Refusal :=
  act (runCmd ⟨0x0601, true, false⟩ h p (fun d _ => gateLoad d p)) s

/-- MIRROR_ENABLE (R341, R350): a write of TM_MIRROR_CTRL. -/
def execMirrorEnable (who : Req) (m : BitVec 2) (v : Word) (s : State) : Host.Outcome State Fault Refusal :=
  actReg (fun d => busWrite d who (Reg.TM_MIRROR_CTRL m.toNat) v.toNat 15) s


end Sys2Proof.Machine
end

