-- ==== Sys2Proof/Machine/ExecGroups.lean ====
section
/-! DEFINITION. Meanings of the rows of groups, buckets and notices (04, 05). -/

namespace Sys2Proof.Machine

/-- BUCKET_OPEN (R132); METRO_JOINs kept for the bucket are taken once it is open. -/
def execBucketOpen (h : CmdHdr) (p : List Byte) (s : State) : Host.Outcome State Fault Refusal :=
  act (runCmd ⟨0x0101, false, false⟩ h p (fun d _ => openJoins (bucketOpen d h p) (oKey p))) s

/-- PARENT_OPEN_REPLY (R126). -/
def execParentOpenReply (h : CmdHdr) (status : BitVec 16) (_p : List Byte) (s : State) : Host.Outcome State Fault Refusal :=
  act (fun d => parentReply d h status.toNat) s

/-- BUCKET_PENDING_TIMEOUT (R126). -/
def execBucketPendingTimeout (k : BKey) (s : State) : Host.Outcome State Fault Refusal :=
  act (fun d => pendingTimeout d (keyOf k)) s

/-- BUCKET_ABORT (R188, R189). -/
def execBucketAbort (h : CmdHdr) (p : List Byte) (s : State) : Host.Outcome State Fault Refusal :=
  act (runCmd ⟨0x0102, false, false⟩ h p (fun d _ => bucketAbort d h p)) s

/-- LATE_LIMIT (R143, R144). -/
def execLateLimit (k : BKey) (s : State) : Host.Outcome State Fault Refusal :=
  act (fun d => lateLimit d (keyOf k)) s

/-- BUCKET_CHECKS_COMPLETE (R169). -/
def execBucketChecksComplete (k : BKey) (s : State) : Host.Outcome State Fault Refusal :=
  act (fun d => checksComplete d (keyOf k)) s

/-- COMMIT_POINT (R170). -/
def execCommitPoint (k : BKey) (s : State) : Host.Outcome State Fault Refusal :=
  act (fun d => commitPoint d (keyOf k)) s

/-- GROUP_CREATE (R119). -/
def execGroupCreate (h : CmdHdr) (p : List Byte) (s : State) : Host.Outcome State Fault Refusal :=
  act (runCmd ⟨0x0110, false, false⟩ h p (fun d _ => groupCreate d h p)) s

/-- GROUP_MODIFY (R124). -/
def execGroupModify (h : CmdHdr) (p : List Byte) (s : State) : Host.Outcome State Fault Refusal :=
  act (runCmd ⟨0x0111, false, false⟩ h p (fun d _ => groupModify d h p)) s

/-- GROUP_QUERY (R501). -/
def execGroupQuery (h : CmdHdr) (p : List Byte) (s : State) : Host.Outcome State Fault Refusal :=
  act (runCmd ⟨0x0112, false, true⟩ h p (fun d _ => groupQuery d h p)) s

/-- GROUP_DESTROY (R119). -/
def execGroupDestroy (h : CmdHdr) (p : List Byte) (s : State) : Host.Outcome State Fault Refusal :=
  act (runCmd ⟨0x0113, false, false⟩ h p (fun d _ => groupDestroy d h p)) s

/-- GROUP_EXPORT (R475, R476). -/
def execGroupExport (h : CmdHdr) (p : List Byte) (s : State) : Host.Outcome State Fault Refusal :=
  act (runCmd ⟨0x0114, false, false⟩ h p (fun d _ => groupExportCmd d h p)) s

/-- GROUP_IMPORT (R477). -/
def execGroupImport (h : CmdHdr) (p : List Byte) (s : State) : Host.Outcome State Fault Refusal :=
  act (runCmd ⟨0x0115, false, false⟩ h p (fun d r => groupImportCmd d h r p)) s

/-- GROUP_IMPORT_INSTALLED (R477). -/
def execGroupImportInstalled (ctx : BitVec 12) (s : State) : Host.Outcome State Fault Refusal :=
  act (fun d => importInstalled d ctx.toNat) s

/-- INK (R171). -/
def execInk (h : CmdHdr) (p : List Byte) (s : State) : Host.Outcome State Fault Refusal :=
  act (notice 0x0301 (inkAct h.src.toNat) h p) s

/-- INK_PORT_RELEASE (R172, R217). -/
def execInkPortRelease (k : BKey) (port : BitVec 7) (s : State) : Host.Outcome State Fault Refusal :=
  act (fun d => inkRelease d (keyOf k) port.toNat (pubComplete d (keyOf k))) s

/-- ERASE (R176). -/
def execErase (h : CmdHdr) (p : List Byte) (s : State) : Host.Outcome State Fault Refusal :=
  act (notice 0x0302 (eraseAct h.src.toNat) h p) s

/-- ABORTED (R188). -/
def execAborted (h : CmdHdr) (p : List Byte) (s : State) : Host.Outcome State Fault Refusal :=
  act (notice 0x0303 (abortedAct h.src.toNat) h p) s

/-- CHECK_REPORT (R175). -/
def execCheckReport (h : CmdHdr) (p : List Byte) (s : State) : Host.Outcome State Fault Refusal :=
  act (notice 0x0304 (reportAct h.src.toNat) h p) s

/-- METRO_JOIN (R179). -/
def execMetroJoin (h : CmdHdr) (p : List Byte) (s : State) : Host.Outcome State Fault Refusal :=
  act (notice 0x0305 (joinAct h.src.toNat) h p) s

/-- METRO_RESEND (R184). -/
def execMetroResend (h : CmdHdr) (p : List Byte) (s : State) : Host.Outcome State Fault Refusal :=
  act (notice 0x0306 (resendAct h.src.toNat) h p) s

/-- ERASE_REQUEST (R164). -/
def execEraseRequest (h : CmdHdr) (p : List Byte) (s : State) : Host.Outcome State Fault Refusal :=
  act (notice 0x0307 (eraseReqAct) h p) s

/-- METRO_GATHERED (R185). -/
def execMetroGathered (h : CmdHdr) (p : List Byte) (s : State) : Host.Outcome State Fault Refusal :=
  act (notice 0x0309 (gatheredAct h.src.toNat) h p) s

/-- NOTICE_ACK (R168). -/
def execNoticeAck (h : CmdHdr) (p : List Byte) (s : State) : Host.Outcome State Fault Refusal :=
  act (fun d => ackAct d h p) s

/-- NOTICE_RETRY_TIMEOUT (R168). -/
def execNoticeRetryTimeout (n : Nat) (s : State) : Host.Outcome State Fault Refusal :=
  act (fun d => noticeRetry d n) s

/-- METRO_HOLD_TIMEOUT (R180). -/
def execMetroHoldTimeout (k : BKey) (s : State) : Host.Outcome State Fault Refusal :=
  act (fun d => metroHold d (keyOf k)) s

/-- METRO_LATE_LIMIT (R182). -/
def execMetroLateLimit (k : BKey) (s : State) : Host.Outcome State Fault Refusal :=
  act (fun d => metroLate d (keyOf k)) s

/-- METRO_CHUNK_CLOSE (R183). -/
def execMetroChunkClose (x : CloseOf) (s : State) : Host.Outcome State Fault Refusal :=
  act (fun d => metroClose d (keyOf x.chunk.b) x.chunk.chunk.toNat x.dup) s

/-- METRO_GATHER_RECEIVE (R184). -/
def execMetroGatherReceive  (s : State) : Host.Outcome State Fault Refusal :=
  act (gatherNext) s

/-- METRO_GATHER_LAPSE (R185). -/
def execMetroGatherLapse (k : BKey) (s : State) : Host.Outcome State Fault Refusal :=
  act (fun d => gatherLapse d (keyOf k)) s


end Sys2Proof.Machine
end

