-- ==== Sys2Proof/Machine/ExecLessons.lean ====
section
/-! DEFINITION. Meanings of the rows of parameter shards, lessons and the huddle (06, 07). -/

namespace Sys2Proof.Machine

/-- SHARD_BIND (R196). -/
def execShardBind (h : CmdHdr) (p : List Byte) (s : State) : Host.Outcome State Fault Refusal :=
  act (runCmd ⟨0x0401, false, false⟩ h p (fun d _ => unlessDraining d (shardBind d h p))) s

/-- SHARD_UNBIND (R196). -/
def execShardUnbind (h : CmdHdr) (p : List Byte) (s : State) : Host.Outcome State Fault Refusal :=
  act (runCmd ⟨0x0402, false, false⟩ h p (fun d _ => shardUnbind d h p)) s

/-- SHARD_QUERY (R504). -/
def execShardQuery (h : CmdHdr) (p : List Byte) (s : State) : Host.Outcome State Fault Refusal :=
  act (runCmd ⟨0x0403, false, true⟩ h p (fun d _ => shardQuery d h p)) s

/-- SHARD_SCALARS (R213). -/
def execShardScalars (h : CmdHdr) (p : List Byte) (s : State) : Host.Outcome State Fault Refusal :=
  act (runCmd ⟨0x0404, false, false⟩ h p (fun d _ => shardScalars d h p)) s

/-- SHARD_REPUBLISH (R216). -/
def execShardRepublish (h : CmdHdr) (p : List Byte) (s : State) : Host.Outcome State Fault Refusal :=
  act (runCmd ⟨0x0405, false, false⟩ h p (fun d _ => shardRepublish d h p)) s

/-- LESSON_LOAD (R206). -/
def execLessonLoad (h : CmdHdr) (p : List Byte) (s : State) : Host.Outcome State Fault Refusal :=
  act (runCmd ⟨0x0410, false, false⟩ h p (fun d _ => lessonLoad d h p)) s

/-- LESSON_QUERY (R504). -/
def execLessonQuery (h : CmdHdr) (p : List Byte) (s : State) : Host.Outcome State Fault Refusal :=
  act (runCmd ⟨0x0411, false, true⟩ h p (fun d _ => lessonQuery d h p)) s

/-- NORM_BIND (R209). -/
def execNormBind (h : CmdHdr) (p : List Byte) (s : State) : Host.Outcome State Fault Refusal :=
  act (runCmd ⟨0x0412, false, false⟩ h p (fun d _ => normBind d h p)) s

/-- NORM_PASS_DONE (R210). -/
def execNormPassDone (shard : BitVec 10) (s : State) : Host.Outcome State Fault Refusal :=
  act (fun d => normPassDone d shard.toNat) s

/-- RUN_START (R213). -/
def execRunStart (shard : BitVec 10) (s : State) : Host.Outcome State Fault Refusal :=
  act (fun d => runStart d shard.toNat) s

/-- ENGINE_ROW_START (R201). -/
def execEngineRowStart (e : Fin 64) (s : State) : Host.Outcome State Fault Refusal :=
  act (fun d => engineRowStart d e.val) s

/-- ENGINE_ROW_COMPLETE (R207). -/
def execEngineRowComplete (e : Fin 64) (u : Upset) (s : State) : Host.Outcome State Fault Refusal :=
  act (fun d => sweepAborted (engineRowComplete d e.val u)) s

/-- ENGINE_KAT_END (R207). -/
def execEngineKatEnd (e : Fin 64) (pass : Bool) (s : State) : Host.Outcome State Fault Refusal :=
  act (fun d => engineKatEnd d e.val pass) s

/-- RUN_STALL_TIMEOUT (R214). -/
def execRunStallTimeout (shard : BitVec 10) (s : State) : Host.Outcome State Fault Refusal :=
  act (fun d => runStall d shard.toNat) s

/-- HUDDLE_CREATE (R231). -/
def execHuddleCreate (h : CmdHdr) (p : List Byte) (s : State) : Host.Outcome State Fault Refusal :=
  act (runCmd ⟨0x0201, false, false⟩ h p (fun d _ => hudCreate d h p)) s

/-- HUDDLE_MODIFY (R230). -/
def execHuddleModify (h : CmdHdr) (p : List Byte) (s : State) : Host.Outcome State Fault Refusal :=
  act (runCmd ⟨0x0202, false, false⟩ h p (fun d _ => hudModify d h p)) s

/-- HUDDLE_QUERY (R501). -/
def execHuddleQuery (h : CmdHdr) (p : List Byte) (s : State) : Host.Outcome State Fault Refusal :=
  act (runCmd ⟨0x0203, false, true⟩ h p (fun d _ => hudQuery d h p)) s

/-- HUDDLE_DESTROY (R231). -/
def execHuddleDestroy (h : CmdHdr) (p : List Byte) (s : State) : Host.Outcome State Fault Refusal :=
  act (runCmd ⟨0x0204, false, false⟩ h p (fun d _ => hudDestroy d h p)) s

/-- HUDDLE_FRAME_RECEIVE (R233). -/
def execHuddleFrameReceive (u : Upset) (s : State) : Host.Outcome State Fault Refusal :=
  act (fun d => hudReceive d u) s

/-- HUDDLE_MEMBER_DEADLINE (R234). -/
def execHuddleMemberDeadline (g : BitVec 8) (x : InstAt) (s : State) : Host.Outcome State Fault Refusal :=
  act (fun d => hudMember d g.toNat (fullTick (tickIdx d) x.start.toNat) x.upset) s

/-- HUDDLE_CHILD_DEADLINE (R235). -/
def execHuddleChildDeadline (g : BitVec 8) (x : InstAt) (s : State) : Host.Outcome State Fault Refusal :=
  act (fun d => hudChild d g.toNat (fullTick (tickIdx d) x.start.toNat) x.upset) s

/-- HUDDLE_FENCE_GO (R240): a write of HUD_CTRL. -/
def execHuddleFenceGo (who : Req) (v : Word) (s : State) : Host.Outcome State Fault Refusal :=
  actReg (fun d => busWrite d who Reg.HUD_CTRL v.toNat 15) s

/-- HUDDLE_GROUP_MOVE (R240). -/
def execHuddleGroupMove (unit : BitVec 4) (s : State) : Host.Outcome State Fault Refusal :=
  act (fun d => hudMove d unit.toNat) s


end Sys2Proof.Machine
end

