-- ==== Sys2Proof/Machine/ExecLinks.lean ====
section
/-! DEFINITION. Meanings of the rows of links, modules, LEDs and the flash tier (12). -/

namespace Sys2Proof.Machine

/-- LINK_MESSAGE_RECEIVE (R399). -/
def execLinkMessageReceive (l : Fin 128) (msg : List Byte) (s : State) : Host.Outcome State Fault Refusal :=
  act (fun d => linkMessage d l.val msg) s

/-- CODEWORD_RECEIVE (R397, R400, R403). -/
def execCodewordReceive (l : Fin 128) (cw : CodewordIn) (s : State) : Host.Outcome State Fault Refusal :=
  act (fun d => codewordReceive d l.val cw.bytes cw.seq.toNat) s

/-- BRINGUP_STEP_COMPLETE (R408). -/
def execBringupStepComplete (l : Fin 128) (i : BringInfo) (s : State) : Host.Outcome State Fault Refusal :=
  act (fun d => bringStep d l.val i) s

/-- BRINGUP_STEP_TIMEOUT (R411). -/
def execBringupStepTimeout (l : Fin 128) (s : State) : Host.Outcome State Fault Refusal :=
  act (fun d => bringTimeout d l.val) s

/-- BRINGUP_RESTART (R411). -/
def execBringupRestart (l : Fin 128) (s : State) : Host.Outcome State Fault Refusal :=
  act (fun d => bringRestart d l.val) s

/-- LINK_ADMIT (R257). -/
def execLinkAdmit (l : Fin 128) (s : State) : Host.Outcome State Fault Refusal :=
  act (fun d => linkAdmit d l.val) s

/-- LANE_LOCK_LOST (R403). -/
def execLaneLockLost (l : Fin 128) (s : State) : Host.Outcome State Fault Refusal :=
  act (fun d => lockLost d l.val) s

/-- MARGIN_MEASURE (R403). -/
def execMarginMeasure (l : Fin 128) (margins : Vector (BitVec 8) 8) (s : State) : Host.Outcome State Fault Refusal :=
  act (fun d => marginMeasure d l.val (margins.toList.map (·.toNat))) s

/-- LINK_ENABLE (R423): a write of LINK_CTRL. -/
def execLinkEnable (who : Req) (l : Fin 128) (v : Word) (s : State) : Host.Outcome State Fault Refusal :=
  actReg (fun d => busWrite d who (Reg.LINK_CTRL l.val) v.toNat 15) s

/-- LINK_RETRAIN (R411): a write of LINK_CTRL. -/
def execLinkRetrain (who : Req) (l : Fin 128) (v : Word) (s : State) : Host.Outcome State Fault Refusal :=
  actReg (fun d => busWrite d who (Reg.LINK_CTRL l.val) v.toNat 15) s

/-- LINK_LOOPBACK_SELECT (R412): a write of LINK_CTRL. -/
def execLinkLoopbackSelect (who : Req) (l : Fin 128) (v : Word) (s : State) : Host.Outcome State Fault Refusal :=
  actReg (fun d => busWrite d who (Reg.LINK_CTRL l.val) v.toNat 15) s

/-- LINK_PRBS_ENABLE (R413): a write of LINK_CTRL. -/
def execLinkPrbsEnable (who : Req) (l : Fin 128) (v : Word) (s : State) : Host.Outcome State Fault Refusal :=
  actReg (fun d => busWrite d who (Reg.LINK_CTRL l.val) v.toNat 15) s

/-- LINK_EXPECT_WRITE (R410). -/
def execLinkExpectWrite (who : Req) (l : Fin 128) (v : Word) (s : State) : Host.Outcome State Fault Refusal :=
  actReg (fun d => busWrite d who (Reg.LINK_EXPECT l.val) v.toNat 15) s

/-- SIDEBAND_SCAN (R418, R420). -/
def execSidebandScan (present latch _intr : BitVec 128) (chainOk : Bool) (s : State) : Host.Outcome State Fault Refusal :=
  act (fun d => sidebandScan d present.toNat latch.toNat chainOk) s

/-- MODULE_INSERT (R418). -/
def execModuleInsert (l : Fin 128) (s : State) : Host.Outcome State Fault Refusal :=
  act (fun d => moduleInsert d l.val) s

/-- MODULE_LATCH_OPEN (R418). -/
def execModuleLatchOpen (l : Fin 128) (s : State) : Host.Outcome State Fault Refusal :=
  act (fun d => moduleLatch d l.val) s

/-- LINK_DRAIN_END (R418). -/
def execLinkDrainEnd (l : Fin 128) (s : State) : Host.Outcome State Fault Refusal :=
  act (fun d => drainEnd d l.val) s

/-- MODULE_REMOVED (R418). -/
def execModuleRemoved (l : Fin 128) (s : State) : Host.Outcome State Fault Refusal :=
  act (fun d => moduleRemoved d l.val) s

/-- LED_REFRESH (R419, R420). -/
def execLedRefresh (chainOk : Bool) (s : State) : Host.Outcome State Fault Refusal :=
  act (fun d => ledRefresh d chainOk) s

/-- ENCAP_FRAME_RECEIVE (R415). -/
def execEncapFrameReceive (l : Fin 128) (mac : List Byte) (fcsOk : Bool) (s : State) : Host.Outcome State Fault Refusal :=
  act (fun d => encapReceive d l.val mac fcsOk) s

/-- ROCE_ACK_TIMEOUT (R416). -/
def execRoceAckTimeout (conn : BitVec 6) (s : State) : Host.Outcome State Fault Refusal :=
  act (fun d => roceTimeout d conn.toNat) s

/-- FLASH_KEEPALIVE_LAPSE (R417). -/
def execFlashKeepaliveLapse (conn : BitVec 6) (s : State) : Host.Outcome State Fault Refusal :=
  act (fun d => flashError d conn.toNat) s

/-- ROCE_CNP_RECEIVE (R417). -/
def execRoceCnpReceive (conn : BitVec 6) (s : State) : Host.Outcome State Fault Refusal :=
  act (fun d => roceCnp d conn.toNat) s

/-- PFC_PAUSE_RECEIVE (R417). -/
def execPfcPauseReceive (l : Fin 128) (prio : BitVec 3) (ns : BitVec 32) (s : State) : Host.Outcome State Fault Refusal :=
  act (fun d => pfcPause d l.val prio.toNat ns.toNat) s

/-- RDMA_ACCESS (R416). -/
def execRdmaAccess (conn : BitVec 6) (isWrite : Bool) (region : Word) (off : BitVec 64) (len : BitVec 32) (data : List Byte) (s : State) : Host.Outcome State Fault Refusal :=
  act (fun d => rdmaAccess d conn.toNat isWrite region.toNat off.toNat len.toNat data) s

/-- FLASH_TRANSFER_COMPLETE (R417). -/
def execFlashTransferComplete (conn : BitVec 6) (ok : Bool) (s : State) : Host.Outcome State Fault Refusal :=
  act (fun d => flashComplete d conn.toNat ok) s

/-- FLASH_CONNECT (R417). -/
def execFlashConnect (h : CmdHdr) (p : List Byte) (blockSize : BitVec 32) (capacity : BitVec 64) (ok : Bool) (s : State) : Host.Outcome State Fault Refusal :=
  act (runCmd ⟨0x0730, true, false⟩ h p (fun d _ => flashConnect d p blockSize.toNat capacity.toNat ok)) s

/-- FLASH_DISCONNECT (R417). -/
def execFlashDisconnect (h : CmdHdr) (p : List Byte) (s : State) : Host.Outcome State Fault Refusal :=
  act (runCmd ⟨0x0731, true, false⟩ h p (fun d _ => flashDisconnect d p)) s

/-- FLASH_READ (R416). -/
def execFlashRead (h : CmdHdr) (p : List Byte) (s : State) : Host.Outcome State Fault Refusal :=
  act (runCmd ⟨0x0732, true, false⟩ h p (fun d r => flashRead d r p)) s

/-- FLASH_WRITE (R416). -/
def execFlashWrite (h : CmdHdr) (p : List Byte) (s : State) : Host.Outcome State Fault Refusal :=
  act (runCmd ⟨0x0733, true, false⟩ h p (fun d r => flashWrite d r p)) s


end Sys2Proof.Machine
end

