-- ==== Sys2Proof/Machine/ExecMemory.lean ====
section
/-! DEFINITION. Meanings of the rows of the pools, HBM and regions (11). -/

namespace Sys2Proof.Machine

/-- ROLL_CALL (R365). -/
def execRollCall  (s : State) : Host.Outcome State Fault Refusal :=
  act (rollCall) s

/-- POOL_BANK_FETCH (R362). -/
def execPoolBankFetch (hbm : Bool) (bank : BitVec 4) (s : State) : Host.Outcome State Fault Refusal :=
  act (bankFetch hbm bank) s

/-- READ (R375). -/
def execRead (a : HLine) (errs : List SymErr) (s : State) : Host.Outcome State Fault Refusal :=
  act (memRead a errs) s

/-- WRITE (R375). -/
def execWrite (a : HLine) (mask : BitVec 64) (data : List Byte) (s : State) : Host.Outcome State Fault Refusal :=
  act (memWrite a mask data) s

/-- INIT_ZERO (R375). -/
def execInitZero (a : HLine) (mask : BitVec 16) (wide : Bool) (s : State) : Host.Outcome State Fault Refusal :=
  act (memInit a mask wide) s

/-- ADD_KZ64 (R375 to R379). -/
def execAddKz64 (a : HLine) (mask : BitVec 8) (data : List Byte) (number : BitVec 10) (differ : Bool) (s : State) : Host.Outcome State Fault Refusal :=
  act (memAddKz64 a mask data number differ) s

/-- ADD_KF32 (R375). -/
def execAddKf32 (a : HLine) (mask : BitVec 16) (data : List Byte) (differ : Bool) (s : State) : Host.Outcome State Fault Refusal :=
  act (memAddPlain a 4 mask.toNat addKf32Word data differ) s

/-- ADD_KI32 (R375). -/
def execAddKi32 (a : HLine) (mask : BitVec 16) (data : List Byte) (differ : Bool) (s : State) : Host.Outcome State Fault Refusal :=
  act (memAddPlain a 4 mask.toNat (addIntWord 32) data differ) s

/-- ADD_KI64 (R375). -/
def execAddKi64 (a : HLine) (mask : BitVec 8) (data : List Byte) (differ : Bool) (s : State) : Host.Outcome State Fault Refusal :=
  act (memAddPlain a 8 mask.toNat (addIntWord 64) data differ) s

/-- READ_CHECK (R377). -/
def execReadCheck (a : HLine) (errs : List SymErr) (s : State) : Host.Outcome State Fault Refusal :=
  act (memReadCheck a errs) s

/-- SCRUB_PASS (R380). -/
def execScrubPass (stack : BitVec 4) (errs : List (Fin 1342177280 × List SymErr)) (s : State) : Host.Outcome State Fault Refusal :=
  act (scrubPass stack errs) s

/-- HBM_TEMP_SAMPLE (R383). -/
def execHbmTempSample (stack : BitVec 4) (temp : BitVec 8) (s : State) : Host.Outcome State Fault Refusal :=
  act (fun d => tempSample d stack.toNat temp.toNat) s

/-- EVAC_SHARE_DONE (R384). -/
def execEvacShareDone (region : BitVec 12) (way : BitVec 4) (s : State) : Host.Outcome State Fault Refusal :=
  act (fun d => evacDone d region.toNat way.toNat) s

/-- EVAC_RETRY (R385). -/
def execEvacRetry  (s : State) : Host.Outcome State Fault Refusal :=
  act (evacRetry) s

/-- HBM_FENCE (R392): a write of HBM_STK_CTRL. -/
def execHbmFence (who : Req) (stack : BitVec 4) (v : Word) (s : State) : Host.Outcome State Fault Refusal :=
  actReg (fun d => busWrite d who (Reg.HBM_STK_CTRL stack.toNat) v.toNat 15) s

/-- HBM_UNFENCE (R392): a write of HBM_STK_CTRL. -/
def execHbmUnfence (who : Req) (stack : BitVec 4) (v : Word) (s : State) : Host.Outcome State Fault Refusal :=
  actReg (fun d => busWrite d who (Reg.HBM_STK_CTRL stack.toNat) v.toNat 15) s

/-- MEM_QUOTA_WRITE (R390). -/
def execMemQuotaWrite (who : Req) (k : BitVec 2) (v : Word) (s : State) : Host.Outcome State Fault Refusal :=
  actReg (fun d => busWrite d who (Reg.MEM_QUOTA k.toNat) v.toNat 15) s

/-- MEM_THERM_CFG_WRITE (R391). -/
def execMemThermCfgWrite (who : Req) (v : Word) (s : State) : Host.Outcome State Fault Refusal :=
  actReg (fun d => busWrite d who Reg.MEM_THERM_CFG v.toNat 15) s

/-- REGION_CREATE (R371). -/
def execRegionCreate (h : CmdHdr) (p : List Byte) (s : State) : Host.Outcome State Fault Refusal :=
  act (runCmd ⟨0x0501, false, false⟩ h p (fun d _ => regionCreate d h p)) s

/-- REGION_DESTROY (R372). -/
def execRegionDestroy (h : CmdHdr) (p : List Byte) (s : State) : Host.Outcome State Fault Refusal :=
  act (runCmd ⟨0x0502, false, false⟩ h p (fun d _ => regionDestroy d h p)) s

/-- REGION_QUERY (R504). -/
def execRegionQuery (h : CmdHdr) (p : List Byte) (s : State) : Host.Outcome State Fault Refusal :=
  act (runCmd ⟨0x0503, false, true⟩ h p (fun d _ => regionQuery d h p)) s

/-- REGION_WRITE (R372, R491): one part of the command. -/
def execRegionWrite (h : CmdHdr) (p : List Byte) (last : Bool) (s : State) : Host.Outcome State Fault Refusal :=
  act (runCmd ⟨0x0504, false, false⟩ h p (fun d _ => regionWriteCmd d h p last)) s

/-- REGION_READ (R372, R504). -/
def execRegionRead (h : CmdHdr) (p : List Byte) (s : State) : Host.Outcome State Fault Refusal :=
  act (runCmd ⟨0x0505, false, true⟩ h p (fun d _ => regionReadCmd d h p)) s

/-- REGION_ADD (R375, R376). -/
def execRegionAdd (h : CmdHdr) (p : List Byte) (s : State) : Host.Outcome State Fault Refusal :=
  act (runCmd ⟨0x0506, false, false⟩ h p (fun d _ => regionAddCmd d h p)) s


end Sys2Proof.Machine
end

