-- ==== Sys2Proof/Machine/ExecReferee.lean ====
section
/-! DEFINITION. Meanings of the rows of the referee, field tests, partners and checkpoints (13, 14). -/

namespace Sys2Proof.Machine

/-- FAULT_RAISE (R445). FS_946 is raised by each uncorrectable SRAM word, which is counted (R359, log 137). -/
def execFaultRaise (n : BitVec 10) (s : State) : Host.Outcome State Fault Refusal :=
  act (fun d => raise (if n = 946 then bump d Reg.MEM_SRAM_UE_CNT else d) n.toNat) s

/-- REF_WINDOW_END (R445). -/
def execRefWindowEnd (n : BitVec 10) (s : State) : Host.Outcome State Fault Refusal :=
  act (fun d => windowEnd d n.toNat) s

/-- REF_ACK (R445, R448): a write of REF_ACK. -/
def execRefAck (who : Req) (v : Word) (s : State) : Host.Outcome State Fault Refusal :=
  actReg (fun d => busWrite d who Reg.REF_ACK v.toNat 15) s

/-- REF_CLEAR (R448): a write of REF_CLEAR. -/
def execRefClear (who : Req) (v : Word) (s : State) : Host.Outcome State Fault Refusal :=
  actReg (fun d => busWrite d who Reg.REF_CLEAR v.toNat 15) s

/-- REF_RAISE (R450): a write of REF_RAISE. -/
def execRefRaise (who : Req) (v : Word) (s : State) : Host.Outcome State Fault Refusal :=
  actReg (fun d => busWrite d who Reg.REF_RAISE v.toNat 15) s

/-- REF_QUIET_EXPIRE (R448). -/
def execRefQuietExpire (n : BitVec 10) (s : State) : Host.Outcome State Fault Refusal :=
  act (fun d => refQuiet d n.toNat) s

/-- REF_RECORD_COPY (R449, R536). -/
def execRefRecordCopy  (s : State) : Host.Outcome State Fault Refusal :=
  act (recordCopy) s

/-- FIELD_TEST (R438, R505). -/
def execFieldTest (h : CmdHdr) (p : List Byte) (s : State) : Host.Outcome State Fault Refusal :=
  act (runCmd ⟨0x0701, decide (field p 0 1 ≠ 6), false⟩ h p (fun d r => fieldTest d h r p)) s

/-- FIELD_TEST_START (R439). -/
def execFieldTestStart  (s : State) : Host.Outcome State Fault Refusal :=
  act (ftStart) s

/-- FIELD_TEST_END (R440). -/
def execFieldTestEnd (kind : FtKind) (pass : Bool) (s : State) : Host.Outcome State Fault Refusal :=
  act (fun d => ftEnd d kind pass) s

/-- FIELD_TEST_REQUEUE (R439). -/
def execFieldTestRequeue  (s : State) : Host.Outcome State Fault Refusal :=
  act (ftOwed) s

/-- UNIT_DRAIN_TIMEOUT (R441). -/
def execUnitDrainTimeout (kind : FtKind) (unit : BitVec 9) (s : State) : Host.Outcome State Fault Refusal :=
  act (fun d => unitDrainTimeout d kind unit.toNat) s

/-- MIRROR_FRAME_RECEIVE (R464). -/
def execMirrorFrameReceive  (s : State) : Host.Outcome State Fault Refusal :=
  act (mirrorReceive) s

/-- MIRROR_BEAT (R464). -/
def execMirrorBeat  (s : State) : Host.Outcome State Fault Refusal :=
  act (mirrorBeat) s

/-- MIRROR_RESEND_TIMEOUT (R464). -/
def execMirrorResendTimeout  (s : State) : Host.Outcome State Fault Refusal :=
  act (mirrorResend) s

/-- PARTNER_LOST (R464). -/
def execPartnerLost  (s : State) : Host.Outcome State Fault Refusal :=
  act (partnerLost) s

/-- CKP_MIRROR_DISABLE (R482): a write of CKP_CTRL. -/
def execCkpMirrorDisable (who : Req) (v : Word) (s : State) : Host.Outcome State Fault Refusal :=
  actReg (fun d => busWrite d who Reg.CKP_CTRL v.toNat 15) s

/-- LINE_REBUILD_DONE (R469). -/
def execLineRebuildDone (a : HLine) (data : Option (List Byte)) (s : State) : Host.Outcome State Fault Refusal :=
  act (fun d => lineRebuild d (lineId a) data) s

/-- PARTNER_BIND (R461). -/
def execPartnerBind (h : CmdHdr) (p : List Byte) (s : State) : Host.Outcome State Fault Refusal :=
  act (runCmd ⟨0x0710, true, false⟩ h p (fun d _ => partnerBind d p)) s

/-- PARTNER_UNBIND (R461). -/
def execPartnerUnbind (h : CmdHdr) (p : List Byte) (s : State) : Host.Outcome State Fault Refusal :=
  act (runCmd ⟨0x0711, true, false⟩ h p (fun d _ => partnerUnbind d p)) s

/-- PARTNER_TAKEOVER (R467). -/
def execPartnerTakeover (h : CmdHdr) (p : List Byte) (s : State) : Host.Outcome State Fault Refusal :=
  act (runCmd ⟨0x0712, true, false⟩ h p (fun d _ => partnerTakeover d p)) s

/-- CHECKPOINT_WRITE (R470). -/
def execCheckpointWrite (h : CmdHdr) (p : List Byte) (s : State) : Host.Outcome State Fault Refusal :=
  act (runCmd ⟨0x0720, true, false⟩ h p (fun d r => unlessDraining d (checkpointWrite d r p))) s

/-- CHECKPOINT_SHARD_COPY (R470). -/
def execCheckpointShardCopy (shard : BitVec 10) (s : State) : Host.Outcome State Fault Refusal :=
  act (fun d => shardCopy d shard.toNat) s

/-- CHECKPOINT_CONFIRM (R472). -/
def execCheckpointConfirm (h : CmdHdr) (p : List Byte) (s : State) : Host.Outcome State Fault Refusal :=
  act (runCmd ⟨0x0721, true, false⟩ h p (fun d _ => checkpointConfirm d p)) s

/-- CHECKPOINT_READ (R472). -/
def execCheckpointRead (h : CmdHdr) (p : List Byte) (s : State) : Host.Outcome State Fault Refusal :=
  act (runCmd ⟨0x0722, true, false⟩ h p (fun d r => checkpointRead d r p)) s


end Sys2Proof.Machine
end

