-- ==== Sys2Proof/Machine/ExecRegs.lean ====
section
/-! DEFINITION. Meanings of the rows of the register bus (16). -/

namespace Sys2Proof.Machine

/-- SET_ALIAS_WRITE (R514). -/
def execSetAliasWrite (who : Req) (addr : BitVec 28) (v : Word) (be : BitVec 4) (s : State) : Host.Outcome State Fault Refusal :=
  actReg (fun d => busWrite d who (aliasAddr addr.toNat 1) v.toNat be.toNat) s

/-- CLEAR_ALIAS_WRITE (R514). -/
def execClearAliasWrite (who : Req) (addr : BitVec 28) (v : Word) (be : BitVec 4) (s : State) : Host.Outcome State Fault Refusal :=
  actReg (fun d => busWrite d who (aliasAddr addr.toNat 2) v.toNat be.toNat) s

/-- TOGGLE_ALIAS_WRITE (R514). -/
def execToggleAliasWrite (who : Req) (addr : BitVec 28) (v : Word) (be : BitVec 4) (s : State) : Host.Outcome State Fault Refusal :=
  actReg (fun d => busWrite d who (aliasAddr addr.toNat 3) v.toNat be.toNat) s

/-- BLK_UNLOCK (R517). -/
def execBlkUnlock (who : Req) (addr : BitVec 28) (v : Word) (s : State) : Host.Outcome State Fault Refusal :=
  actReg (fun d => busWrite d who (Reg.BLK_UNLOCK (blkBase addr.toNat)) v.toNat 15) s

/-- CNT_CLEAR (R515): a write of BLK_CTRL. -/
def execCntClear (who : Req) (addr : BitVec 28) (v : Word) (s : State) : Host.Outcome State Fault Refusal :=
  actReg (fun d => busWrite d who (Reg.BLK_CTRL (blkBase addr.toNat)) v.toNat 15) s

/-- POSTED_WRITE_DONE (R516). -/
def execPostedWriteDone (addr : BitVec 28) (s : State) : Host.Outcome State Fault Refusal :=
  actReg (fun d => postedDone d addr.toNat) s

/-- MULTIWORD_LATCH_READ (R513). -/
def execMultiwordLatchRead (who : Req) (addr : BitVec 28) (s : State) : Host.Outcome State Fault Refusal :=
  actReg (fun d => busRead d who addr.toNat) s

/-- VOTE_SWEEP (R519, R520). -/
def execVoteSweep (upsets : List (BitVec 28 × Fin 3 × Word)) (s : State) : Host.Outcome State Fault Refusal :=
  act (fun d => voteSweep d (upsets.map (fun u => (u.1.toNat, u.2.1.val, u.2.2.toNat)))) s

/-- REGISTER_WRITE (R512). -/
def execRegisterWrite (who : Req) (addr : BitVec 28) (v : Word) (be : BitVec 4) (s : State) : Host.Outcome State Fault Refusal :=
  actReg (fun d => busWrite d who addr.toNat v.toNat be.toNat) s

/-- SIT_BLK_WORLD_WRITE (R543). -/
def execSitBlkWorldWrite (who : Req) (v : Word) (s : State) : Host.Outcome State Fault Refusal :=
  actReg (fun d => busWrite d who Reg.SIT_BLK_WORLD v.toNat 15) s

/-- FABRIC_RESET (R528): a write of TOP_CTRL. -/
def execFabricReset (who : Req) (v : Word) (s : State) : Host.Outcome State Fault Refusal :=
  actReg (fun d => busWrite d who Reg.TOP_CTRL v.toNat 15) s

/-- HALT_GO (R528): a write of TOP_CTRL. -/
def execHaltGo (who : Req) (v : Word) (s : State) : Host.Outcome State Fault Refusal :=
  actReg (fun d => busWrite d who Reg.TOP_CTRL v.toNat 15) s


end Sys2Proof.Machine
end

