-- ==== Sys2Proof/Machine/ExecSitonel.lean ====
section
/-! DEFINITION. Meanings of the rows of the host, command packets and Sitonel (15, 17). -/

namespace Sys2Proof.Machine

/-- HOST_SUBMIT (R496). -/
def execHostSubmit (slot : BitVec 8) (bytes : List Byte) (len : Word) (s : State) : Host.Outcome State Fault Refusal :=
  act (fun d => submit d slot.toNat bytes len.toNat) s

/-- HOST_RX_DELIVER (R497). -/
def execHostRxDeliver  (s : State) : Host.Outcome State Fault Refusal :=
  act (rxDeliver) s

/-- CMD_RX_ENABLE (R498): a write of CMD_CTRL. -/
def execCmdRxEnable (who : Req) (v : Word) (s : State) : Host.Outcome State Fault Refusal :=
  actReg (fun d => busWrite d who Reg.CMD_CTRL v.toNat 15) s

/-- CMD_ASSEMBLY_TIMEOUT (R492). -/
def execCmdAssemblyTimeout (src : Coord) (vc : BitVec 3) (s : State) : Host.Outcome State Fault Refusal :=
  act (fun d => asmTimeout d src.toNat vc.toNat) s

/-- CMD_UNKNOWN_OPCODE (R506). -/
def execCmdUnknownOpcode (h : CmdHdr) (opcode : BitVec 16) (_p : List Byte) (s : State) : Host.Outcome State Fault Refusal :=
  act (fun d => unknownCmd d h opcode.toNat) s

/-- DEVICE_QUERY (R506). -/
def execDeviceQuery (h : CmdHdr) (p : List Byte) (s : State) : Host.Outcome State Fault Refusal :=
  act (runCmd ⟨0x0801, false, true⟩ h p (fun d _ => deviceQuery d p)) s

/-- EVENT_READ (R537). -/
def execEventRead (h : CmdHdr) (p : List Byte) (s : State) : Host.Outcome State Fault Refusal :=
  act (runCmd ⟨0x0802, true, true⟩ h p (fun d _ => eventRead d p)) s

/-- SENSOR_READ (R538). -/
def execSensorRead (h : CmdHdr) (p : List Byte) (s : State) : Host.Outcome State Fault Refusal :=
  act (runCmd ⟨0x0803, false, true⟩ h p (fun d _ => sensorRead d p)) s

/-- ATTEST_QUOTE (R552). -/
def execAttestQuote (h : CmdHdr) (p : List Byte) (s : State) : Host.Outcome State Fault Refusal :=
  act (runCmd ⟨0x0810, false, false⟩ h p (fun d r => attestQuote d r p)) s

/-- ATTEST_BATCH_CLOSE (R551 to R553). -/
def execAttestBatchClose (writesOk : Bool) (s : State) : Host.Outcome State Fault Refusal :=
  act (fun d => attestClose d writesOk) s

/-- FW_LOAD (R547). -/
def execFwLoad (h : CmdHdr) (p : List Byte) (s : State) : Host.Outcome State Fault Refusal :=
  act (runCmd ⟨0x0820, true, false⟩ h p (fun d _ => fwLoad d p)) s

/-- FW_ACTIVATE (R548). -/
def execFwActivate (h : CmdHdr) (p : List Byte) (signatureOk : Bool) (s : State) : Host.Outcome State Fault Refusal :=
  act (runCmd ⟨0x0821, true, false⟩ h p (fun d r => fwActivate d r p signatureOk)) s

/-- FW_CONFIRM (R548). -/
def execFwConfirm  (s : State) : Host.Outcome State Fault Refusal :=
  act (fwConfirm) s

/-- FW_REVERT (R549). -/
def execFwRevert  (s : State) : Host.Outcome State Fault Refusal :=
  act (fwRevert) s

/-- SERVICE_DRAIN (R555). -/
def execServiceDrain (h : CmdHdr) (p : List Byte) (s : State) : Host.Outcome State Fault Refusal :=
  act (runCmd ⟨0x0830, true, false⟩ h p (fun d r => serviceDrain d r p)) s

/-- SERVICE_DRAIN_COMPLETE (R555). -/
def execServiceDrainComplete  (s : State) : Host.Outcome State Fault Refusal :=
  act (drainDone) s

/-- ATTN_PRESS (R554). -/
def execAttnPress (ms : BitVec 32) (s : State) : Host.Outcome State Fault Refusal :=
  act (fun d => attnPress d ms.toNat) s

/-- LOCATE_TIMEOUT (R554). -/
def execLocateTimeout  (s : State) : Host.Outcome State Fault Refusal :=
  act (locateTimeout) s

/-- LOCKSTEP_MISMATCH (R534). -/
def execLockstepMismatch  (s : State) : Host.Outcome State Fault Refusal :=
  act (lockstep) s

/-- SITONEL_RESTART_DONE (R534, R548). -/
def execSitonelRestartDone (ok : Bool) (s : State) : Host.Outcome State Fault Refusal :=
  act (fun d => restartDone d ok) s

/-- SENSOR_SAMPLE (R538). -/
def execSensorSample (readings : List (BitVec 7 × BitVec 2 × BitVec 32)) (s : State) : Host.Outcome State Fault Refusal :=
  act (fun d => sensorSample d (readings.map (fun r => (r.1.toNat, r.2.1.toNat, r.2.2.toNat)))) s


end Sys2Proof.Machine
end

