-- ==== Sys2Proof/Machine/ExecSupply.lean ====
section
/-! DEFINITION. Meanings of the rows of resets, supplies, clocks and the PCI Express function (17, 18). -/

namespace Sys2Proof.Machine

/-- FABRIC_RESET_DONE (R568). -/
def execFabricResetDone  (s : State) : Host.Outcome State Fault Refusal :=
  act (fabricDone) s

/-- RAIL_RISE (R561, R563): beyond its absolute maximum nothing in the manual holds any more. -/
def execRailRise (rail : Fin 10) (mV : BitVec 16) (s : State) : Host.Outcome State Fault Refusal :=
  if railMax rail.val < mV.toNat then .fault .overAbsoluteMax else actAlways (fun d => railRise d rail.val mV.toNat) s

/-- POWER_LOSS (R564): `stuckMs` is how long a later rail stays above 0.2 V once this one has fallen. -/
def execPowerLoss (rail : Fin 10) (stuckMs : BitVec 16) (s : State) : Host.Outcome State Fault Refusal :=
  if fallBreaks s.dev rail.val ∧ 10 < stuckMs.toNat ∧ railUpLater s.dev rail.val then .fault .unplannedFall
  else actAlways (fun d => powerLoss d rail.val) s

/-- POWER_ON_RESET (R546, R567, R568): `aOk` and `bOk` say which slots verify. -/
def execPowerOnReset (aOk bOk : Bool) (s : State) : Host.Outcome State Fault Refusal :=
  actAlways (fun d => powerOn d aOk bOk) s

/-- DEVICE_READY (R568). -/
def execDeviceReady  (s : State) : Host.Outcome State Fault Refusal :=
  act (deviceReady) s

/-- MANAGEMENT_RESET (R567, R568). -/
def execManagementReset  (s : State) : Host.Outcome State Fault Refusal :=
  act (managementReset) s

/-- PCIE_PERST (R567). -/
def execPciePerst  (s : State) : Host.Outcome State Fault Refusal :=
  act (perst) s

/-- REFCLK_LOSS (R566). -/
def execRefclkLoss (input : Fin 10) (s : State) : Host.Outcome State Fault Refusal :=
  actAlways (fun d => refclkLoss d input.val) s

/-- REFCLK_RETURN (R566). -/
def execRefclkReturn (input : Fin 10) (s : State) : Host.Outcome State Fault Refusal :=
  actAlways (fun d => refclkReturn d input.val) s

/-- THERMTRIP (R570). -/
def execThermtrip (mC : BitVec 32) (s : State) : Host.Outcome State Fault Refusal :=
  actAlways (fun d => thermtrip d mC.toInt) s

/-- PORST_N_LOW (R568). -/
def execPorstNLow  (s : State) : Host.Outcome State Fault Refusal :=
  actAlways (porstLow) s

/-- FUNCTION_LEVEL_RESET (R541). -/
def execFunctionLevelReset  (s : State) : Host.Outcome State Fault Refusal :=
  act (flr) s

/-- PCIE_LINK_DOWN (R541). -/
def execPcieLinkDown  (s : State) : Host.Outcome State Fault Refusal :=
  act (pcieDown) s

/-- PCIE_LINK_UP (R541). -/
def execPcieLinkUp  (s : State) : Host.Outcome State Fault Refusal :=
  act (pcieUp) s

/-- BUS_MASTERING_CHANGE (R541). -/
def execBusMasteringChange (on : Bool) (s : State) : Host.Outcome State Fault Refusal :=
  act (fun d => busMaster d on) s


end Sys2Proof.Machine
end

