-- ==== Sys2Proof/Machine/Dispatch.lean ====
section
/-! DEFINITION. The meaning of a command: one arm per constructor of Instr, each a direct call of its meaning. -/

namespace Sys2Proof.Machine

def exec (i : Instr) (s : State) : Host.Outcome State Fault Refusal :=
  match i with
  | .tickBoundary => Sys2Proof.Machine.execTickBoundary s
  | .frameReceive a0 a1 a2 => Sys2Proof.Machine.execFrameReceive a0 a1 a2 s
  | .frameTransmit a0 => Sys2Proof.Machine.execFrameTransmit a0 s
  | .ecnEchoSend a0 a1 => Sys2Proof.Machine.execEcnEchoSend a0 a1 s
  | .ecnRecover a0 a1 => Sys2Proof.Machine.execEcnRecover a0 a1 s
  | .reorderGapTimeout a0 a1 => Sys2Proof.Machine.execReorderGapTimeout a0 a1 s
  | .corridorSlotEnter a0 a1 => Sys2Proof.Machine.execCorridorSlotEnter a0 a1 s
  | .shaperRefill => Sys2Proof.Machine.execShaperRefill s
  | .policerRefill => Sys2Proof.Machine.execPolicerRefill s
  | .gateEntryChange a0 => Sys2Proof.Machine.execGateEntryChange a0 s
  | .gateListActivate a0 => Sys2Proof.Machine.execGateListActivate a0 s
  | .gateDisable a0 a1 a2 => Sys2Proof.Machine.execGateDisable a0 a1 a2 s
  | .gateDisableTakeEffect a0 => Sys2Proof.Machine.execGateDisableTakeEffect a0 s
  | .convertBlock a0 a1 => Sys2Proof.Machine.execConvertBlock a0 a1 s
  | .chunkAdmit => Sys2Proof.Machine.execChunkAdmit s
  | .admitNoteTimeout a0 => Sys2Proof.Machine.execAdmitNoteTimeout a0 s
  | .deskAdd a0 a1 => Sys2Proof.Machine.execDeskAdd a0 a1 s
  | .chunkBind a0 => Sys2Proof.Machine.execChunkBind a0 s
  | .deskClose a0 => Sys2Proof.Machine.execDeskClose a0 s
  | .rowRelease a0 a1 => Sys2Proof.Machine.execRowRelease a0 a1 s
  | .helperReturn a0 a1 => Sys2Proof.Machine.execHelperReturn a0 a1 s
  | .helperRowMerge a0 a1 a2 => Sys2Proof.Machine.execHelperRowMerge a0 a1 a2 s
  | .twinRowCompare a0 a1 => Sys2Proof.Machine.execTwinRowCompare a0 a1 s
  | .econvRow a0 a1 a2 => Sys2Proof.Machine.execEconvRow a0 a1 a2 s
  | .stealRound => Sys2Proof.Machine.execStealRound s
  | .rfabBenchGo a0 a1 => Sys2Proof.Machine.execRfabBenchGo a0 a1 s
  | .deskDrainComplete a0 => Sys2Proof.Machine.execDeskDrainComplete a0 s
  | .deskDrainTimeout a0 => Sys2Proof.Machine.execDeskDrainTimeout a0 s
  | .spareKatStart => Sys2Proof.Machine.execSpareKatStart s
  | .spareKatEnd a0 => Sys2Proof.Machine.execSpareKatEnd a0 s
  | .spareMapTake => Sys2Proof.Machine.execSpareMapTake s
  | .bucketOpen a0 a1 => Sys2Proof.Machine.execBucketOpen a0 a1 s
  | .parentOpenReply a0 a1 a2 => Sys2Proof.Machine.execParentOpenReply a0 a1 a2 s
  | .bucketPendingTimeout a0 => Sys2Proof.Machine.execBucketPendingTimeout a0 s
  | .bucketAbort a0 a1 => Sys2Proof.Machine.execBucketAbort a0 a1 s
  | .lateLimit a0 => Sys2Proof.Machine.execLateLimit a0 s
  | .bucketChecksComplete a0 => Sys2Proof.Machine.execBucketChecksComplete a0 s
  | .commitPoint a0 => Sys2Proof.Machine.execCommitPoint a0 s
  | .groupCreate a0 a1 => Sys2Proof.Machine.execGroupCreate a0 a1 s
  | .groupModify a0 a1 => Sys2Proof.Machine.execGroupModify a0 a1 s
  | .groupQuery a0 a1 => Sys2Proof.Machine.execGroupQuery a0 a1 s
  | .groupDestroy a0 a1 => Sys2Proof.Machine.execGroupDestroy a0 a1 s
  | .groupExport a0 a1 => Sys2Proof.Machine.execGroupExport a0 a1 s
  | .groupImport a0 a1 => Sys2Proof.Machine.execGroupImport a0 a1 s
  | .huddleCreate a0 a1 => Sys2Proof.Machine.execHuddleCreate a0 a1 s
  | .huddleModify a0 a1 => Sys2Proof.Machine.execHuddleModify a0 a1 s
  | .huddleQuery a0 a1 => Sys2Proof.Machine.execHuddleQuery a0 a1 s
  | .huddleDestroy a0 a1 => Sys2Proof.Machine.execHuddleDestroy a0 a1 s
  | .ink a0 a1 => Sys2Proof.Machine.execInk a0 a1 s
  | .inkPortRelease a0 a1 => Sys2Proof.Machine.execInkPortRelease a0 a1 s
  | .erase a0 a1 => Sys2Proof.Machine.execErase a0 a1 s
  | .aborted a0 a1 => Sys2Proof.Machine.execAborted a0 a1 s
  | .checkReport a0 a1 => Sys2Proof.Machine.execCheckReport a0 a1 s
  | .metroJoin a0 a1 => Sys2Proof.Machine.execMetroJoin a0 a1 s
  | .metroResend a0 a1 => Sys2Proof.Machine.execMetroResend a0 a1 s
  | .eraseRequest a0 a1 => Sys2Proof.Machine.execEraseRequest a0 a1 s
  | .metroGathered a0 a1 => Sys2Proof.Machine.execMetroGathered a0 a1 s
  | .noticeAck a0 a1 => Sys2Proof.Machine.execNoticeAck a0 a1 s
  | .noticeRetryTimeout a0 => Sys2Proof.Machine.execNoticeRetryTimeout a0 s
  | .metroHoldTimeout a0 => Sys2Proof.Machine.execMetroHoldTimeout a0 s
  | .metroLateLimit a0 => Sys2Proof.Machine.execMetroLateLimit a0 s
  | .metroChunkClose a0 => Sys2Proof.Machine.execMetroChunkClose a0 s
  | .metroGatherReceive => Sys2Proof.Machine.execMetroGatherReceive s
  | .metroGatherLapse a0 => Sys2Proof.Machine.execMetroGatherLapse a0 s
  | .shardBind a0 a1 => Sys2Proof.Machine.execShardBind a0 a1 s
  | .shardUnbind a0 a1 => Sys2Proof.Machine.execShardUnbind a0 a1 s
  | .shardQuery a0 a1 => Sys2Proof.Machine.execShardQuery a0 a1 s
  | .shardScalars a0 a1 => Sys2Proof.Machine.execShardScalars a0 a1 s
  | .shardRepublish a0 a1 => Sys2Proof.Machine.execShardRepublish a0 a1 s
  | .lessonLoad a0 a1 => Sys2Proof.Machine.execLessonLoad a0 a1 s
  | .lessonQuery a0 a1 => Sys2Proof.Machine.execLessonQuery a0 a1 s
  | .normBind a0 a1 => Sys2Proof.Machine.execNormBind a0 a1 s
  | .normPassDone a0 => Sys2Proof.Machine.execNormPassDone a0 s
  | .runStart a0 => Sys2Proof.Machine.execRunStart a0 s
  | .engineRowStart a0 => Sys2Proof.Machine.execEngineRowStart a0 s
  | .engineRowComplete a0 a1 => Sys2Proof.Machine.execEngineRowComplete a0 a1 s
  | .engineKatEnd a0 a1 => Sys2Proof.Machine.execEngineKatEnd a0 a1 s
  | .runStallTimeout a0 => Sys2Proof.Machine.execRunStallTimeout a0 s
  | .huddleFrameReceive a0 => Sys2Proof.Machine.execHuddleFrameReceive a0 s
  | .huddleMemberDeadline a0 a1 => Sys2Proof.Machine.execHuddleMemberDeadline a0 a1 s
  | .huddleChildDeadline a0 a1 => Sys2Proof.Machine.execHuddleChildDeadline a0 a1 s
  | .huddleFenceGo a0 a1 => Sys2Proof.Machine.execHuddleFenceGo a0 a1 s
  | .huddleGroupMove a0 => Sys2Proof.Machine.execHuddleGroupMove a0 s
  | .bellWordSend a0 => Sys2Proof.Machine.execBellWordSend a0 s
  | .bellWordReceive a0 a1 => Sys2Proof.Machine.execBellWordReceive a0 a1 s
  | .bellEnable a0 a1 => Sys2Proof.Machine.execBellEnable a0 a1 s
  | .bellSetGo a0 a1 => Sys2Proof.Machine.execBellSetGo a0 a1 s
  | .ppsEdge => Sys2Proof.Machine.execPpsEdge s
  | .ppsMiss => Sys2Proof.Machine.execPpsMiss s
  | .ppsOutEdge => Sys2Proof.Machine.execPpsOutEdge s
  | .bellTickGo a0 a1 => Sys2Proof.Machine.execBellTickGo a0 a1 s
  | .tickChangeEffect => Sys2Proof.Machine.execTickChangeEffect s
  | .bellStepArm a0 a1 => Sys2Proof.Machine.execBellStepArm a0 a1 s
  | .bellStepOriginWrite a0 a1 => Sys2Proof.Machine.execBellStepOriginWrite a0 a1 s
  | .stepTick => Sys2Proof.Machine.execStepTick s
  | .replayStart a0 a1 => Sys2Proof.Machine.execReplayStart a0 a1 s
  | .replayStop a0 a1 => Sys2Proof.Machine.execReplayStop a0 a1 s
  | .portEnable a0 a1 a2 => Sys2Proof.Machine.execPortEnable a0 a1 a2 s
  | .portModeChange a0 => Sys2Proof.Machine.execPortModeChange a0 s
  | .linkPortWrite a0 a1 a2 => Sys2Proof.Machine.execLinkPortWrite a0 a1 a2 s
  | .rteResync a0 a1 => Sys2Proof.Machine.execRteResync a0 a1 s
  | .gateLoad a0 a1 => Sys2Proof.Machine.execGateLoad a0 a1 s
  | .mirrorEnable a0 a1 a2 => Sys2Proof.Machine.execMirrorEnable a0 a1 a2 s
  | .rollCall => Sys2Proof.Machine.execRollCall s
  | .poolBankFetch a0 a1 => Sys2Proof.Machine.execPoolBankFetch a0 a1 s
  | .read a0 a1 => Sys2Proof.Machine.execRead a0 a1 s
  | .write a0 a1 a2 => Sys2Proof.Machine.execWrite a0 a1 a2 s
  | .initZero a0 a1 a2 => Sys2Proof.Machine.execInitZero a0 a1 a2 s
  | .addKz64 a0 a1 a2 a3 a4 => Sys2Proof.Machine.execAddKz64 a0 a1 a2 a3 a4 s
  | .addKf32 a0 a1 a2 a3 => Sys2Proof.Machine.execAddKf32 a0 a1 a2 a3 s
  | .addKi32 a0 a1 a2 a3 => Sys2Proof.Machine.execAddKi32 a0 a1 a2 a3 s
  | .addKi64 a0 a1 a2 a3 => Sys2Proof.Machine.execAddKi64 a0 a1 a2 a3 s
  | .readCheck a0 a1 => Sys2Proof.Machine.execReadCheck a0 a1 s
  | .scrubPass a0 a1 => Sys2Proof.Machine.execScrubPass a0 a1 s
  | .hbmTempSample a0 a1 => Sys2Proof.Machine.execHbmTempSample a0 a1 s
  | .evacShareDone a0 a1 => Sys2Proof.Machine.execEvacShareDone a0 a1 s
  | .evacRetry => Sys2Proof.Machine.execEvacRetry s
  | .hbmFence a0 a1 a2 => Sys2Proof.Machine.execHbmFence a0 a1 a2 s
  | .hbmUnfence a0 a1 a2 => Sys2Proof.Machine.execHbmUnfence a0 a1 a2 s
  | .memQuotaWrite a0 a1 a2 => Sys2Proof.Machine.execMemQuotaWrite a0 a1 a2 s
  | .memThermCfgWrite a0 a1 => Sys2Proof.Machine.execMemThermCfgWrite a0 a1 s
  | .regionCreate a0 a1 => Sys2Proof.Machine.execRegionCreate a0 a1 s
  | .regionDestroy a0 a1 => Sys2Proof.Machine.execRegionDestroy a0 a1 s
  | .regionQuery a0 a1 => Sys2Proof.Machine.execRegionQuery a0 a1 s
  | .regionWrite a0 a1 a2 => Sys2Proof.Machine.execRegionWrite a0 a1 a2 s
  | .regionRead a0 a1 => Sys2Proof.Machine.execRegionRead a0 a1 s
  | .regionAdd a0 a1 => Sys2Proof.Machine.execRegionAdd a0 a1 s
  | .linkMessageReceive a0 a1 => Sys2Proof.Machine.execLinkMessageReceive a0 a1 s
  | .codewordReceive a0 a1 => Sys2Proof.Machine.execCodewordReceive a0 a1 s
  | .bringupStepComplete a0 a1 => Sys2Proof.Machine.execBringupStepComplete a0 a1 s
  | .bringupStepTimeout a0 => Sys2Proof.Machine.execBringupStepTimeout a0 s
  | .bringupRestart a0 => Sys2Proof.Machine.execBringupRestart a0 s
  | .linkAdmit a0 => Sys2Proof.Machine.execLinkAdmit a0 s
  | .laneLockLost a0 => Sys2Proof.Machine.execLaneLockLost a0 s
  | .marginMeasure a0 a1 => Sys2Proof.Machine.execMarginMeasure a0 a1 s
  | .linkEnable a0 a1 a2 => Sys2Proof.Machine.execLinkEnable a0 a1 a2 s
  | .linkRetrain a0 a1 a2 => Sys2Proof.Machine.execLinkRetrain a0 a1 a2 s
  | .linkLoopbackSelect a0 a1 a2 => Sys2Proof.Machine.execLinkLoopbackSelect a0 a1 a2 s
  | .linkPrbsEnable a0 a1 a2 => Sys2Proof.Machine.execLinkPrbsEnable a0 a1 a2 s
  | .linkExpectWrite a0 a1 a2 => Sys2Proof.Machine.execLinkExpectWrite a0 a1 a2 s
  | .sidebandScan a0 a1 a2 a3 => Sys2Proof.Machine.execSidebandScan a0 a1 a2 a3 s
  | .moduleInsert a0 => Sys2Proof.Machine.execModuleInsert a0 s
  | .moduleLatchOpen a0 => Sys2Proof.Machine.execModuleLatchOpen a0 s
  | .linkDrainEnd a0 => Sys2Proof.Machine.execLinkDrainEnd a0 s
  | .moduleRemoved a0 => Sys2Proof.Machine.execModuleRemoved a0 s
  | .ledRefresh a0 => Sys2Proof.Machine.execLedRefresh a0 s
  | .encapFrameReceive a0 a1 a2 => Sys2Proof.Machine.execEncapFrameReceive a0 a1 a2 s
  | .roceAckTimeout a0 => Sys2Proof.Machine.execRoceAckTimeout a0 s
  | .flashKeepaliveLapse a0 => Sys2Proof.Machine.execFlashKeepaliveLapse a0 s
  | .roceCnpReceive a0 => Sys2Proof.Machine.execRoceCnpReceive a0 s
  | .pfcPauseReceive a0 a1 a2 => Sys2Proof.Machine.execPfcPauseReceive a0 a1 a2 s
  | .rdmaAccess a0 a1 a2 a3 a4 a5 => Sys2Proof.Machine.execRdmaAccess a0 a1 a2 a3 a4 a5 s
  | .flashTransferComplete a0 a1 => Sys2Proof.Machine.execFlashTransferComplete a0 a1 s
  | .flashConnect a0 a1 a2 a3 a4 => Sys2Proof.Machine.execFlashConnect a0 a1 a2 a3 a4 s
  | .flashDisconnect a0 a1 => Sys2Proof.Machine.execFlashDisconnect a0 a1 s
  | .flashRead a0 a1 => Sys2Proof.Machine.execFlashRead a0 a1 s
  | .flashWrite a0 a1 => Sys2Proof.Machine.execFlashWrite a0 a1 s
  | .faultRaise a0 => Sys2Proof.Machine.execFaultRaise a0 s
  | .refWindowEnd a0 => Sys2Proof.Machine.execRefWindowEnd a0 s
  | .refAck a0 a1 => Sys2Proof.Machine.execRefAck a0 a1 s
  | .refClear a0 a1 => Sys2Proof.Machine.execRefClear a0 a1 s
  | .refRaise a0 a1 => Sys2Proof.Machine.execRefRaise a0 a1 s
  | .refQuietExpire a0 => Sys2Proof.Machine.execRefQuietExpire a0 s
  | .fieldTest a0 a1 => Sys2Proof.Machine.execFieldTest a0 a1 s
  | .fieldTestStart => Sys2Proof.Machine.execFieldTestStart s
  | .fieldTestEnd a0 a1 => Sys2Proof.Machine.execFieldTestEnd a0 a1 s
  | .fieldTestRequeue => Sys2Proof.Machine.execFieldTestRequeue s
  | .unitDrainTimeout a0 a1 => Sys2Proof.Machine.execUnitDrainTimeout a0 a1 s
  | .mirrorFrameReceive => Sys2Proof.Machine.execMirrorFrameReceive s
  | .mirrorBeat => Sys2Proof.Machine.execMirrorBeat s
  | .mirrorResendTimeout => Sys2Proof.Machine.execMirrorResendTimeout s
  | .partnerLost => Sys2Proof.Machine.execPartnerLost s
  | .ckpMirrorDisable a0 a1 => Sys2Proof.Machine.execCkpMirrorDisable a0 a1 s
  | .lineRebuildDone a0 a1 => Sys2Proof.Machine.execLineRebuildDone a0 a1 s
  | .partnerBind a0 a1 => Sys2Proof.Machine.execPartnerBind a0 a1 s
  | .partnerUnbind a0 a1 => Sys2Proof.Machine.execPartnerUnbind a0 a1 s
  | .partnerTakeover a0 a1 => Sys2Proof.Machine.execPartnerTakeover a0 a1 s
  | .checkpointWrite a0 a1 => Sys2Proof.Machine.execCheckpointWrite a0 a1 s
  | .checkpointShardCopy a0 => Sys2Proof.Machine.execCheckpointShardCopy a0 s
  | .checkpointConfirm a0 a1 => Sys2Proof.Machine.execCheckpointConfirm a0 a1 s
  | .checkpointRead a0 a1 => Sys2Proof.Machine.execCheckpointRead a0 a1 s
  | .hostSubmit a0 a1 a2 => Sys2Proof.Machine.execHostSubmit a0 a1 a2 s
  | .hostRxDeliver => Sys2Proof.Machine.execHostRxDeliver s
  | .cmdRxEnable a0 a1 => Sys2Proof.Machine.execCmdRxEnable a0 a1 s
  | .cmdAssemblyTimeout a0 a1 => Sys2Proof.Machine.execCmdAssemblyTimeout a0 a1 s
  | .cmdUnknownOpcode a0 a1 a2 => Sys2Proof.Machine.execCmdUnknownOpcode a0 a1 a2 s
  | .deviceQuery a0 a1 => Sys2Proof.Machine.execDeviceQuery a0 a1 s
  | .eventRead a0 a1 => Sys2Proof.Machine.execEventRead a0 a1 s
  | .sensorRead a0 a1 => Sys2Proof.Machine.execSensorRead a0 a1 s
  | .attestQuote a0 a1 => Sys2Proof.Machine.execAttestQuote a0 a1 s
  | .attestBatchClose a0 => Sys2Proof.Machine.execAttestBatchClose a0 s
  | .fwLoad a0 a1 => Sys2Proof.Machine.execFwLoad a0 a1 s
  | .fwActivate a0 a1 a2 => Sys2Proof.Machine.execFwActivate a0 a1 a2 s
  | .fwConfirm => Sys2Proof.Machine.execFwConfirm s
  | .fwRevert => Sys2Proof.Machine.execFwRevert s
  | .serviceDrain a0 a1 => Sys2Proof.Machine.execServiceDrain a0 a1 s
  | .serviceDrainComplete => Sys2Proof.Machine.execServiceDrainComplete s
  | .attnPress a0 => Sys2Proof.Machine.execAttnPress a0 s
  | .locateTimeout => Sys2Proof.Machine.execLocateTimeout s
  | .lockstepMismatch => Sys2Proof.Machine.execLockstepMismatch s
  | .sitonelRestartDone a0 => Sys2Proof.Machine.execSitonelRestartDone a0 s
  | .sensorSample a0 => Sys2Proof.Machine.execSensorSample a0 s
  | .functionLevelReset => Sys2Proof.Machine.execFunctionLevelReset s
  | .pcieLinkDown => Sys2Proof.Machine.execPcieLinkDown s
  | .sitBlkWorldWrite a0 a1 => Sys2Proof.Machine.execSitBlkWorldWrite a0 a1 s
  | .setAliasWrite a0 a1 a2 a3 => Sys2Proof.Machine.execSetAliasWrite a0 a1 a2 a3 s
  | .clearAliasWrite a0 a1 a2 a3 => Sys2Proof.Machine.execClearAliasWrite a0 a1 a2 a3 s
  | .toggleAliasWrite a0 a1 a2 a3 => Sys2Proof.Machine.execToggleAliasWrite a0 a1 a2 a3 s
  | .blkUnlock a0 a1 a2 => Sys2Proof.Machine.execBlkUnlock a0 a1 a2 s
  | .cntClear a0 a1 a2 => Sys2Proof.Machine.execCntClear a0 a1 a2 s
  | .postedWriteDone a0 => Sys2Proof.Machine.execPostedWriteDone a0 s
  | .multiwordLatchRead a0 a1 => Sys2Proof.Machine.execMultiwordLatchRead a0 a1 s
  | .voteSweep a0 => Sys2Proof.Machine.execVoteSweep a0 s
  | .registerWrite a0 a1 a2 a3 => Sys2Proof.Machine.execRegisterWrite a0 a1 a2 a3 s
  | .fabricReset a0 a1 => Sys2Proof.Machine.execFabricReset a0 a1 s
  | .fabricResetDone => Sys2Proof.Machine.execFabricResetDone s
  | .haltGo a0 a1 => Sys2Proof.Machine.execHaltGo a0 a1 s
  | .railRise a0 a1 => Sys2Proof.Machine.execRailRise a0 a1 s
  | .powerLoss a0 a1 => Sys2Proof.Machine.execPowerLoss a0 a1 s
  | .powerOnReset a0 a1 => Sys2Proof.Machine.execPowerOnReset a0 a1 s
  | .deviceReady => Sys2Proof.Machine.execDeviceReady s
  | .managementReset => Sys2Proof.Machine.execManagementReset s
  | .pciePerst => Sys2Proof.Machine.execPciePerst s
  | .refclkLoss a0 => Sys2Proof.Machine.execRefclkLoss a0 s
  | .refclkReturn a0 => Sys2Proof.Machine.execRefclkReturn a0 s
  | .thermtrip a0 => Sys2Proof.Machine.execThermtrip a0 s
  | .groupImportInstalled a0 => Sys2Proof.Machine.execGroupImportInstalled a0 s
  | .pcieLinkUp => Sys2Proof.Machine.execPcieLinkUp s
  | .busMasteringChange a0 => Sys2Proof.Machine.execBusMasteringChange a0 s
  | .refRecordCopy => Sys2Proof.Machine.execRefRecordCopy s
  | .porstNLow => Sys2Proof.Machine.execPorstNLow s

end Sys2Proof.Machine
end

