-- ==== Sys2Proof/Safety.lean ====
section
/-! DEFINITION. What a safe run is, and the terms in which the statements speak of a command: the device that a command leaves, whether
anything falls due with it, and when a command packet is admitted. -/

namespace Sys2Proof

/-- A state from which the next step is neither a fault nor a refusal. -/
def Safe (s : Machine.State) : Prop := ∃ t, Machine.step s = .next t

namespace Machine

/-- The state that a command leaves whose own effect makes the device `e`: what falls due with it has settled, the waiting commands are as
they were. `settle` is the identity but for FAULT_N where nothing is due (`Quiet`). -/
def State.after (s : State) (e : Dev) : State := { s with dev := settle e }

/-- Nothing falls due: no window of 0 has just ended, no checkpoint, mirror, run, norm, transfer or drain waits for its next part. -/
abbrev Quiet (d : Dev) : Prop :=
  d.ref.due = [] ∧ d.ckp.dirty = [] ∧ mirSending d = false ∧ partnerState d ≠ 1 ∧ d.cmd.subQ = [] ∧ d.lsn.norms = [] ∧ d.lsn.runs = []
    ∧ d.ckp.running = none ∧ d.lnk.flash = [] ∧ d.int.drains = []

/-- Sitonel or the sequencer starts the body of a command (R495, R460): the pair does not restart, the world of the packet is allowed by the
way it came and reaches what the row asks for, and the log has room for its entry. -/
abbrev Admitted (op : Nat) (secure query : Bool) (h : CmdHdr) (d : Dev) : Prop :=
  alive d = true ∧ (seqDecoded op = true ∨ fbit d Reg.SIT_STATUS Fd.SIT_STATUS_restarting = false)
    ∧ (h.world = true → secureOk (dequeue d h op) h.via = true) ∧ (secure = true → h.world = true)
    ∧ (query = true ∨ logFull (dequeue d h op) = false)

/-- A command's entry in the log (R268) and its reply ST_OK with reply fields (R487), from the device that its own effect leaves. -/
def answered (d : Dev) (h : CmdHdr) (op : Nat) (p fields : List Byte) : Dev :=
  reply (recordCmd d h op p St.ok) (hdrReply h op) St.ok fields

/-- The same for a query, which leaves no entry (R269). -/
def queried (d : Dev) (h : CmdHdr) (op : Nat) (fields : List Byte) : Dev := reply d (hdrReply h op) St.ok fields

/-- Between two devices nothing differs but registers, and of these only those listed. -/
def OnlyRegs (as : List Nat) (d e : Dev) : Prop := { e with regs := d.regs } = d ∧ ∀ b, b ∉ as → rg e b = rg d b

/-- A secure requester's write of a register reaches its block: the device runs, and no fabric reset holds the block back (R512, R529). -/
abbrev BusReady (d : Dev) : Prop := alive d = true ∧ resetBusy d = false

/-- A requester holds the unlock of a block (R517). -/
abbrev Unlocked (d : Dev) (who : Req) (base : Nat) : Prop := fbit d (Reg.BLK_STATUS base) (unlockFld who) = true

/-- The device after it has acknowledged a notice part and marked it as acted on (R168). -/
def noticed (d : Dev) (h : CmdHdr) (op : Nat) (p : List Byte) : Dev :=
  let e := noticeAcked (dequeue d h op) h op p
  { e with seq := { e.seq with seen := e.seq.seen ++ [(⟨h.src.toNat, nKey p, nAtt p, op, nPart p, nTime p, false⟩ : SeenPart)] } }

end Machine

end Sys2Proof
end

