-- ==== Sys2Proof/Certificates/Slice0/Obligations.lean ====
section
/-! DEFINITION. The statements for the provers, in the order of the manual's chapters: the block as a whole, number formats, the switch, desks, groups and
buckets, lessons, huddles, the bell, memory, links, the referee, host and Sitonel, registers, resets and supplies. `s.after e` is the state in which a command's own effect `e` has settled (Safety.lean). -/

set_option autoImplicit false

open Sys2Proof Sys2Proof.Machine

/-- A step takes the command at the front of the queue and runs it on the state with the queue's rest. On an empty queue one fabric cycle passes on a
running device (the model's choice, log 36): bell time rises by BELL_INC, and where no tick boundary is crossed and the fabric is halted nothing else
moves but BELL_PPS_OUT. -/
def Obligations.StepRunsTheFrontCommand : Prop :=
  ∀ (s : State),
    (∀ (c : Instr) (rest : List Instr), step { s with pending := c :: rest } = exec c { s with pending := rest })
    ∧ (s.pending = [] → alive s.dev = false → step s = .next s)
    ∧ (s.pending = [] → alive s.dev = true → halted s.dev = true →
      let d := ppsPass { s.dev with clk := { s.dev.clk with now := s.dev.clk.now + rg s.dev Reg.BELL_INC } } (ns s.dev)
      tickIdx d = s.dev.clk.ticked → step s = .next (s.after d))

/-- R254, R390, R445, R528, R543, R567, R570. The device right after a power-on reset: the bell FREE at 0, no source raised, SIT_BLK_WORLD 0x9C, the
quotas and thermal thresholds of their tables, no group, bucket, run or frame, FAULT_N high. What an unlisted byte of HBM reads as is the model's
choice (log 1). -/
def Obligations.ResetLeavesTheSpecsValues : Prop :=
  let d := State.reset.dev
  State.reset.pending = [] ∧ alive d = true ∧ bellState d = 0 ∧ d.clk.now = 0 ∧ rg d Reg.BELL_INC = 3303820997 ∧ d.ref.src = [] ∧ halted d = false ∧ d.pkg.faultN = true
    ∧ rg d Reg.SIT_BLK_WORLD = 0x9C ∧ rg d Reg.TOP_RESET_CAUSE = 1 ∧ fbit d Reg.TOP_STATUS Fd.TOP_STATUS_ready = false
    ∧ (List.range 4).map (fun k => fget d (Reg.MEM_QUOTA k) Fd.MEM_QUOTA_quota) = [0x180, 0x200, 0x060, 0x020]
    ∧ fget d Reg.MEM_THERM_CFG Fd.MEM_THERM_CFG_warm = 85 ∧ fget d Reg.MEM_THERM_CFG Fd.MEM_THERM_CFG_hot = 90 ∧ fget d Reg.MEM_THERM_CFG Fd.MEM_THERM_CFG_crit = 93
    ∧ d.seq.groups = [] ∧ d.seq.buckets = [] ∧ d.lsn.runs = [] ∧ d.log = [] ∧ d.cmd.sitQ = [] ∧ partnerState d = 0 ∧ twf Config.hbmFill d.mem.hbm = true
    ∧ (∀ p, p < 128 → portEn d p = false) ∧ (∀ l, l < 128 → linkStep d l = 0) ∧ poolFree d.mem.sram = 3728270 ∧ poolFree d.mem.hpool = 16777216

/-- R561, R564. Every command answers a next state and leaves the waiting commands as they were, in every state; the only stops are the two that the
manual gives no effect: a rail beyond its absolute maximum, and a fall of a rail that breaks the order and leaves a later rail up for more than 10 ms.
No command is refused. -/
def Obligations.OnlySuppliesCanStop : Prop :=
  ∀ (c : Instr) (s : State),
    (∃ t, exec c s = .next t ∧ t.pending = s.pending)
    ∨ (∃ i mv, c = .railRise i mv ∧ railMax i.val < mv.toNat ∧ exec c s = .fault .overAbsoluteMax)
    ∨ (∃ i ms, c = .powerLoss i ms ∧ fallBreaks s.dev i.val = true ∧ 10 < ms.toNat ∧ railUpLater s.dev i.val = true ∧ exec c s = .fault .unplannedFall)

/-- What settles at the end of a command (R445, R463, R470, R417, R496) changes nothing where nothing is due, but for the FAULT_N pin. -/
def Obligations.NothingDueSettlesToNothing : Prop :=
  ∀ d : Dev, Quiet d → settle d = pinFault d

/-- R570. FAULT_N is low exactly while TOP_STATUS.halted reads 1, after every step from a state in which it was so. -/
def Obligations.FaultPinFollowsHalt : Prop :=
  ∀ s t : State, (s.dev.pkg.faultN = !halted s.dev) → step s = .next t → (t.dev.pkg.faultN = !halted t.dev)

/-- R546, R563, R568. A device without its rails or held by PORST_N answers to nothing but its supplies, its clocks and its reset pins; where no image
verifies, a register of any block but Sitonel's takes no write, and DEVICE_QUERY, GROUP_CREATE and TICK_BOUNDARY have no effect. -/
def Obligations.HeldAndDeadDevicesStand : Prop :=
  ∀ (c : Instr) (s : State),
    (s.dev.pkg.phase = .off ∨ s.dev.pkg.phase = .held → (∀ i mv, c ≠ .railRise i mv) → (∀ i ms, c ≠ .powerLoss i ms) → (∀ a b, c ≠ .powerOnReset a b) → (∀ i, c ≠ .refclkLoss i) → (∀ i, c ≠ .refclkReturn i) →
      (∀ t, c ≠ .thermtrip t) → c ≠ .porstNLow → exec c s = .next s)
    ∧ (s.dev.pkg.phase = .dead →
      (∀ (h : CmdHdr) (p : List Byte), exec (.deviceQuery h p) s = .next s ∧ exec (.groupCreate h p) s = .next s ∧ exec .tickBoundary s = .next s)
      ∧ (∀ (who : Req) (addr : BitVec 28) (v : Word) (be : BitVec 4) (b : BlkRow) (i : Nat), addr.toNat % 0x4000 < 0x1000 → blkOf addr.toNat = some (b, i) → b.kind ≠ 2 →
        exec (.registerWrite who addr v be) s = .next (s.after s.dev)))

/-- R269, R460, R487, R495, R534. Command packets before their body runs, for every row of the opcode tables that is one: a secure command that its
arrival does not allow, and a non-secure one of a row for secure requesters, is answered ST_WORLD_DENIED and nothing else happens; a command other
than a query with the log full is counted and answered ST_LOG_FULL; while the pair restarts, Sitonel's commands wait. -/
def Obligations.CommandsKeepTheirWorld : Prop :=
  ∀ (s : State) (h : CmdHdr) (p : List Byte) (b : Bool) (x : BitVec 32) (y : BitVec 64) (c : Instr) (op : Nat) (secure query : Bool),
    (c, op, secure, query) ∈
      [(Instr.bucketOpen h p, 0x0101, false, false), (.bucketAbort h p, 0x0102, false, false), (.groupCreate h p, 0x0110, false, false), (.groupModify h p, 0x0111, false, false), (.groupQuery h p, 0x0112, false, true),
       (.groupDestroy h p, 0x0113, false, false), (.groupExport h p, 0x0114, false, false), (.groupImport h p, 0x0115, false, false), (.huddleCreate h p, 0x0201, false, false), (.huddleModify h p, 0x0202, false, false),
       (.huddleQuery h p, 0x0203, false, true), (.huddleDestroy h p, 0x0204, false, false), (.shardBind h p, 0x0401, false, false), (.shardUnbind h p, 0x0402, false, false), (.shardQuery h p, 0x0403, false, true),
       (.shardScalars h p, 0x0404, false, false), (.shardRepublish h p, 0x0405, false, false), (.lessonLoad h p, 0x0410, false, false), (.lessonQuery h p, 0x0411, false, true), (.normBind h p, 0x0412, false, false),
       (.regionCreate h p, 0x0501, false, false), (.regionDestroy h p, 0x0502, false, false), (.regionQuery h p, 0x0503, false, true), (.regionWrite h p b, 0x0504, false, false), (.regionRead h p, 0x0505, false, true),
       (.regionAdd h p, 0x0506, false, false), (.gateLoad h p, 0x0601, true, false), (.replayStart h p, 0x0610, false, false), (.replayStop h p, 0x0611, false, false), (.fieldTest h p, 0x0701, decide (byteAt p 0 ≠ 6), false),
       (.partnerBind h p, 0x0710, true, false), (.partnerUnbind h p, 0x0711, true, false), (.partnerTakeover h p, 0x0712, true, false), (.checkpointWrite h p, 0x0720, true, false), (.checkpointConfirm h p, 0x0721, true, false),
       (.checkpointRead h p, 0x0722, true, false), (.flashConnect h p x y b, 0x0730, true, false), (.flashDisconnect h p, 0x0731, true, false), (.flashRead h p, 0x0732, true, false), (.flashWrite h p, 0x0733, true, false),
       (.deviceQuery h p, 0x0801, false, true), (.eventRead h p, 0x0802, true, true), (.sensorRead h p, 0x0803, false, true), (.attestQuote h p, 0x0810, false, false), (.fwLoad h p, 0x0820, true, false),
       (.fwActivate h p b, 0x0821, true, false), (.serviceDrain h p, 0x0830, true, false)] →
    let d := dequeue s.dev h op
    let allowed : Bool := match h.via with
      | .port q => decide (portKind d q.toNat = 1 ∨ portKind d q.toNat = 2) || (rg d (Reg.CMD_SECURE_PORT (q.toNat / 32))).testBit (q.toNat % 32)
      | .host => fbit d Reg.CMD_CTRL Fd.CMD_CTRL_host_secure
      | .self => true
    alive s.dev = true →
    (seqDecoded op = false → fbit s.dev Reg.SIT_STATUS Fd.SIT_STATUS_restarting = true → exec c s = .next (s.after s.dev))
    ∧ (seqDecoded op = true ∨ fbit s.dev Reg.SIT_STATUS Fd.SIT_STATUS_restarting = false →
      ((h.world = true ∧ allowed = false) ∨ (h.world = false ∧ secure = true) → exec c s = .next (s.after (reply d (hdrReply h op) St.worldDenied [])))
      ∧ ((h.world = true → allowed = true) → (secure = true → h.world = true) → query = false → logFull d = true →
        exec c s = .next (s.after (reply (bump d Reg.LOG_REFUSE_CNT) (hdrReply h op) St.logFull []))))

/-- R51, with R40, R41, R57 and R58 in part. KZ64 has S = E_ref − 32; every number of at most 24 significant bits converts into KZ64 with |A| at most
2^55 − 1 (into KZ128 at most 2^111 − 1); the sum of up to 256 such elements has a magnitude of at most 2^63 − 256, and is read back from its
big-endian word, as each class is from its own value. A normal KF32 or KF16 word, and an infinity, decodes to a number that encodes to the same word
without a flag, under every toss value. -/
def Obligations.FormatsKeepTheirValues : Prop :=
  (∀ w, w < 2 ^ 32 → bits w 30 23 ≠ 0 → bits w 30 23 ≠ 255 ∨ bits w 22 0 = 0 → encodeKf32 (decodeKf32 w).1 = (w, 0))
  ∧ (∀ w t, w < 2 ^ 16 → bits w 14 8 ≠ 0 → bits w 14 8 ≠ 127 ∨ bits w 7 0 = 0 → encodeKf16 (decodeKf16 w).1 t = (w, 0))
  ∧ (∀ k : Kz, (k.cls = 0 ∧ k.a.natAbs ≤ 2 ^ 63 - 256) ∨ (1 ≤ k.cls ∧ k.cls ≤ 3 ∧ k.a = 0) → kz64Of (field (beBytes 8 (kz64Word k)) 0 8) = k)
  ∧ kz64Word ⟨0, 1⟩ = 0x7FFF_FFFF_FFFF_FFFF ∧ kz64Word ⟨0, 2⟩ = 0x8000_0000_0000_0001 ∧ kz64Word ⟨0, 3⟩ = 0x8000_0000_0000_0000
  ∧ (∀ (a : Int), a.natAbs ≤ 2 ^ 63 - 256 → kz64Word ⟨a, 0⟩ = (BitVec.ofInt 64 a).toNat)
  ∧ (∀ xs : List Kz, xs.length ≤ 256 → (∀ x ∈ xs, x.cls = 0 ∧ x.a.natAbs ≤ 2 ^ 55 - 1) → (xs.foldl kzAdd Kz.zero).cls = 0 ∧ (xs.foldl kzAdd Kz.zero).a.natAbs ≤ 2 ^ 63 - 256)
  ∧ (∀ eref : Int, s64 eref = eref - 32)
  ∧ (∀ (x : Machine.Num) (s : Int) (lim : Nat), lim = 55 ∨ lim = 111 → x.m < 2 ^ 24 → (toKz x s lim).1.a.natAbs ≤ 2 ^ lim - 1)

/-- R333, R349. GATE_ENTRY_CHANGE: while a port's gate list is enabled, the entry in force at tick index I is the one whose span contains (I − I_base)
mod C, the entries following one another from 0; TM_GATE_STATUS shows its index and its gates. R333. At the tick boundary equal to its base time a
pending list becomes operational and TM_GATE_STATUS.en becomes 1 (GATE_LIST_ACTIVATE); at the tick boundary at which a disable takes effect no list is
operational, en is 0 and every VC of the port is open (GATE_DISABLE_TAKE_EFFECT); a write of 0 to en discards the pending list at once and, where a
list is enabled, takes effect at the next tick boundary (GATE_DISABLE). None touches another port's lists or register. R332, R333, R460, R487.
GATE_LOAD: a well-formed list of 1 to 512 entries with a base time that is a whole multiple of the tick length and at least two ticks away becomes the
port's pending list, TM_GATE_STATUS.pend is 1, and the reply is ST_OK; a base time nearer than two ticks is rejected with ST_GATE_TIME and changes
nothing else. -/
def Obligations.GatesFollowTheirLists : Prop :=
  (∀ (s : State) (port : BitVec 7) (i : Nat),
      let d := s.dev
      let a := Reg.TM_GATE_STATUS port.toNat
      let l := (gateOf d port.toNat).oper
      let t0 := (gateOf d port.toNat).base
      let pos := (tickIdx d - t0) % cycleOf l
      alive d = true → fbit d a Fd.TM_GATE_STATUS_en = true → l.length ≤ 512 → i < l.length → t0 ≤ tickIdx d →
      cycleOf (l.take i) ≤ pos → pos < cycleOf (l.take (i + 1)) →
      ∃ e, exec (.gateEntryChange port) s = .next (s.after e)
        ∧ fget e a Fd.TM_GATE_STATUS_entry = i ∧ fget e a Fd.TM_GATE_STATUS_open = entOpen (l.getD i 0)
        ∧ fbit e a Fd.TM_GATE_STATUS_en = true ∧ OnlyRegs [a] d e)
  ∧ (∀ (s : State) (port : BitVec 7),
        let d := s.dev
        let a := Reg.TM_GATE_STATUS port.toNat
        let g := gateOf d port.toNat
        (alive d = true → ∀ l b, g.pend = some (l, b) → b ≤ tickIdx d →
          ∃ e, exec (.gateListActivate port) s = .next (s.after e)
            ∧ gateOf e port.toNat = { g with oper := l, base := b, pend := none }
            ∧ fbit e a Fd.TM_GATE_STATUS_en = true ∧ fbit e a Fd.TM_GATE_STATUS_pend = false
            ∧ (∀ q, q ≠ port.toNat → gateOf e q = gateOf d q) ∧ (∀ b, b ≠ a → rg e b = rg d b)
            ∧ { e with regs := d.regs, tm := { e.tm with gates := d.tm.gates } } = d)
        ∧ (alive d = true → ∀ t, g.disable = some t → t ≤ tickIdx d →
          ∃ e, exec (.gateDisableTakeEffect port) s = .next (s.after e)
            ∧ gateOf e port.toNat = { g with oper := [], base := 0, disable := none }
            ∧ fbit e a Fd.TM_GATE_STATUS_en = false ∧ fget e a Fd.TM_GATE_STATUS_open = 0xFF
            ∧ (∀ q, q ≠ port.toNat → gateOf e q = gateOf d q) ∧ (∀ b, b ≠ a → rg e b = rg d b)
            ∧ { e with regs := d.regs, tm := { e.tm with gates := d.tm.gates } } = d)
        ∧ (∀ who v, BusReady d → reqSecure d who = true → v.toNat < 2 ^ 31 →
          ∃ e, exec (.gateDisable who port v) s = .next (s.after e)
            ∧ gateOf e port.toNat = { g with pend := none, disable := if fbit d a Fd.TM_GATE_STATUS_en then some (tickIdx d + 1) else g.disable }
            ∧ fbit e a Fd.TM_GATE_STATUS_en = fbit d a Fd.TM_GATE_STATUS_en ∧ fbit e a Fd.TM_GATE_STATUS_pend = false
            ∧ (∀ q, q ≠ port.toNat → gateOf e q = gateOf d q) ∧ (∀ b, b ≠ a → b ≠ 0x038004 → rg e b = rg d b)
            ∧ { e with regs := d.regs, tm := { e.tm with gates := d.tm.gates } } = d))
  ∧ (∀ (s : State) (h : CmdHdr) (p : List Byte),
        let d := dequeue s.dev h 0x0601
        let port := byteAt p 0
        let n := field p 2 2
        let es := (List.range n).map (fun i => field p (16 + 4 * i) 4)
        let base := field p 4 8
        Admitted 0x0601 true false h s.dev → p.length = 16 + 4 * n → 1 ≤ n → n ≤ 512 → port < 128 → byteAt p 1 = 0 → field p 14 2 = 0 →
        (∀ w ∈ es, bits w 23 20 = 0 ∧ bits w 19 0 ≠ 0) → field p 12 2 = 0 → base % tickLen d = 0 →
        (ns d + 2 * tickLen d ≤ base →
          exec (.gateLoad h p) s = .next (s.after (answered (fset (gatePut d port { gateOf d port with pend := some (es.map (BitVec.ofNat 32), base / tickLen d) })
            (Reg.TM_GATE_STATUS port) Fd.TM_GATE_STATUS_pend 1) h 0x0601 p [])))
        ∧ (base < ns d + 2 * tickLen d →
          exec (.gateLoad h p) s = .next (s.after (reply d (hdrReply h 0x0601) St.gateTime []))))

/-- R330, R331. SHAPER_REFILL when k ≥ 1 multiples of 80 ns have passed since the last refill: an enabled shaper gains k × TM_SHAPE.rate bytes up to
its bucket, one that was disabled starts with a full bucket, and a disabled one keeps no tokens; the word as written comes into force. (A rate above
the link's is taken as the link's.) Nothing but shapers changes. R336. POLICER_REFILL when k ≥ 1 multiples of 80 ns have passed: Tc and Tp gain CIR
and PIR bytes for each, capped at CBS and PBS; they start full when en becomes 1; a CIR above PIR is taken as PIR; the words as written come into
force. Nothing but policers changes. -/
def Obligations.TokensAreRefilled : Prop :=
  (∀ (s : State) (e v : Nat) (sh : Shaper),
      let d := s.dev
      let k := ns d / 80 - d.tm.refill
      let w := BitVec.ofNat 32 (rg d (shapeReg e v))
      alive d = true → twf none d.tm.shapers = true → e < 160 → v < 8 → tget none d.tm.shapers (e * 8 + v) = some sh → 0 < k →
      ∃ x, exec .shaperRefill s = .next (s.after x)
        ∧ shaperOf x e v = (if w.msb then ⟨min (bucketOf w) ((if sh.word.msb then sh.tok else bucketOf w) + (k * min (bits w.toNat 15 0) (egRate d e) : Nat)), w⟩
            else ⟨0, w⟩)
        ∧ { x with tm := { x.tm with shapers := d.tm.shapers, refill := d.tm.refill } } = d)
  ∧ (∀ (s : State) (p v : Nat),
        let d := s.dev
        let k := ns d / 80 - d.tm.polAt
        let x := polOf d p v
        let c := BitVec.ofNat 32 (rg d (Reg.TMP_CFG p v))
        let r := BitVec.ofNat 32 (rg d (Reg.TMP_RATE p v))
        let pir := bits r.toNat 31 16
        alive d = true → twf Policer.init d.tm.pols = true → p < 128 → v < 8 → x ≠ Policer.init → 0 < k →
        ∃ y, exec .policerRefill s = .next (s.after y)
          ∧ polOf y p v = (if c.msb = true ∧ x.cfg.msb = false then ⟨cbsOf c, pbsOf c, c, r⟩
              else ⟨min (cbsOf c) (x.tc + k * min (bits r.toNat 15 0) pir), min (pbsOf c) (x.tp + k * pir), c, r⟩)
          ∧ { y with tm := { y.tm with pols := d.tm.pols, polAt := d.tm.polAt } } = d)

/-- R284, R303, R311, R321, R322, R341. Writes of the port registers by a secure requester: an enabling write of PORT_CFG on a port whose members
agree enables it with its kind; LINK_PORT takes its fields while no port it names, old or new, is enabled; RTE_CTRL.resync makes the next frame of
every flow carry SYN; TM_MIRROR_CTRL enables a session toward an enabled ENDPOINT or RESERVED port; a mode written earlier comes into force at a tick
boundary (PORT_MODE_CHANGE), TIMETABLED restoring the full rates of its VCs. -/
def Obligations.PortRegisterWrites : Prop :=
  ∀ (s : State) (who : Req) (v : Word),
    let d := s.dev
    (∀ port : BitVec 7,
      let a := Reg.PORT_CFG port.toNat
      BusReady d → reqSecure d who = true → fbit d a Fd.PORT_CFG_en = false → v.msb = true → bits v.toNat 30 28 ≤ 3 →
      bits v.toNat 27 27 = fget d a Fd.PORT_CFG_mode → memberOk (consume d who 0x034000).2 port.toNat (bits v.toNat 30 28) = true →
      ∃ e, exec (.portEnable who port v) s = .next (s.after e) ∧ portEn e port.toNat = true ∧ portKind e port.toNat = bits v.toNat 30 28
        ∧ OnlyRegs [a, 0x034004] d e)
    ∧ (∀ l : Fin 128,
      let a := Reg.LINK_PORT l.val
      BusReady d → reqSecure d who = true → (∀ q ∈ List.range 128, portEn d q = false) → (l.val < 96 → bits v.toNat 30 30 = 0) →
      ∃ e, exec (.linkPortWrite who l v) s = .next (s.after e)
        ∧ fget e a Fd.LINK_PORT_member = bits v.toNat 31 31 ∧ fget e a Fd.LINK_PORT_split = bits v.toNat 30 30
        ∧ fget e a Fd.LINK_PORT_port = bits v.toNat 6 0 ∧ fget e a Fd.LINK_PORT_port_b = bits v.toNat 22 16 ∧ OnlyRegs [a, 0x034004] d e)
    ∧ (BusReady d → reqSecure d who = true → bits v.toNat 4 4 = 1 →
      ∃ e, exec (.rteResync who v) s = .next (s.after e) ∧ e.rte.synOk = []
        ∧ { e with regs := d.regs, rte := { e.rte with synOk := d.rte.synOk } } = d)
    ∧ (∀ m : BitVec 2,
      let a := Reg.TM_MIRROR_CTRL m.toNat
      BusReady d → reqSecure d who = true → v.msb = true → bits v.toNat 30 29 ≠ 3 → bits v.toNat 12 10 ≠ 0 →
      portEn d (bits v.toNat 19 13) = true → (portKind d (bits v.toNat 19 13) = 0 ∨ portKind d (bits v.toNat 19 13) = 3) →
      ∃ e, exec (.mirrorEnable who m v) s = .next (s.after e) ∧ fbit e a Fd.TM_MIRROR_CTRL_en = true
        ∧ fget e a Fd.TM_MIRROR_CTRL_source = bits v.toNat 30 29 ∧ fget e a Fd.TM_MIRROR_CTRL_an_port = bits v.toNat 19 13
        ∧ fget e a Fd.TM_MIRROR_CTRL_mirror_vc = bits v.toNat 12 10 ∧ OnlyRegs [a, 0x038004] d e)
    ∧ (∀ (port : BitVec 7) (m : Nat), alive d = true → tget none d.rte.modeNext port.toNat = some m → m / 2 < tickIdx d →
      exec (.portModeChange port) s = .next (s.after { d with rte := { d.rte with modeNext := tset none d.rte.modeNext port.toNat none, modeNow := tset 1 d.rte.modeNow port.toNat (m % 2), ecn := if m % 2 = 0 then (List.range 8).foldl (fun x v => tdel x (port.toNat * 8 + v)) d.rte.ecn else d.rte.ecn } }))

/-- R18, R36, R290, R308, R310, R326, R434. A frame on its way through the switch. FRAME_RECEIVE: a frame whose check holds, on an enabled fabric port
without policer, mirror or capture, for a port whose egress is chosen, takes its granules and waits at its station with its bytes unchanged; a stomped
frame is discarded and counted. CORRIDOR_SLOT_ENTER: a waiting slot enters its corridor where its station holds at most 2 slots of its direction and
its credits in use are under 2. FRAME_TRANSMIT drives the frame that the scheduler picks on an edge port, with its frame check and its colour: on a
T-link, where its codewords have room (R401, log 179), its bytes join the link's stream padded to 8 B (R398), on a G-link they follow the prefix of
R406; the next frame starts after what it takes of the link's rate. R307, R312, R313. Congestion and gaps. ECN_ECHO_SEND: an echo owed is sent to its source on its VC as
an ECHO frame with ECE and is owed no longer. ECN_RECOVER: after k recover intervals without ECE a cut rate has risen by k/64 of the port rate, not
beyond the port rate. REORDER_GAP_TIMEOUT: the expected sequence moves to the lowest early one, the frames skipped are counted, FS_915 is raised, and
delivery continues. -/
def Obligations.FramesPassTheSwitch : Prop :=
  (∀ (s : State) (e : Eg),
      let d := s.dev
      (∀ (b : List Byte) (colour : BitVec 2), linkCarries d (egLink e.val) = true → egEther d e.val = false → running d = true →
        (128 ≤ e.val → isSplit d (egLink e.val) = true) →
        exec (.frameReceive e (b ++ stompCheck b) colour) s = .next (s.after (bump d Reg.INT_STOMP_CNT)))
      ∧ (∀ (b : List Byte) (colour : BitVec 2) (p : Nat),
        linkCarries d (egLink e.val) = true → egEther d e.val = false → running d = true → (128 ≤ e.val → isSplit d (egLink e.val) = true) →
        lenOk (b ++ frameCheck b) = true → fVer b = 1 → vcOk (fKind b) (fVc b) = true → fKind b ≠ 6 → egPort d e.val = some p → portEn d p = true →
        (portKind d p = 1 ∨ portKind d p = 2) → ns d / 80 = d.tm.polAt → (polOf d p (fVc b)).cfg.msb = false →
        mirrorHits d [0, 2] p b = [] → fbit d Reg.TM_CAP_CTRL Fd.TM_CAP_CTRL_en = false → fDst b ≠ mgmtCoord d →
        (reordered (fKind b) = true → ¬ (cGroup (fDst b) = selfG d ∧ cSwitch (fDst b) = selfS d)) →
        (nextHop d b ≠ .huddle ∧ nextHop d b ≠ .mgmt ∧ nextHop d b ≠ .host ∧ nextHop d b ≠ .drop) →
        exec (.frameReceive e (b ++ frameCheck b) colour) s = .next (s.after (forward d (egLink e.val / 8) p b colour.toNat [] b)))
      ∧ (∀ (corr : Fin 16) (st : Fin 53) (x : Slot) (rest : List Slot), alive d = true →
        (∀ b ∈ d.seq.buckets, b.2 = none) →
        ltake (fun (y : Slot) => decide (y.corr = corr.val ∧ y.dir = 0 ∧ y.src = st.val)) d.rte.waitS = some (x, rest) → x.dst ≠ st.val →
        slotsAt d corr.val 0 st.val ≤ 2 → tget 0 d.rte.credits (credKey x) < 2 →
        ltake (fun (y : Slot) => decide (y.corr = corr.val ∧ y.dir = 1 ∧ y.src = st.val)) rest = none →
        exec (.corridorSlotEnter corr st) s = .next (s.after { d with rte := { d.rte with waitS := rest, ring := d.rte.ring ++ [x], credits := tset 0 d.rte.credits (credKey x) (tget 0 d.rte.credits (credKey x) + 1) } }))
      ∧ (∀ (v k p : Nat) (f : QFrame) (q : List QFrame),
        let d1 := (List.range 8).foldl (fun x v => sampleVc x e.val v) d
        running d = true → linkStep d (egLink e.val) = 9 → (128 ≤ e.val → isSplit d (egLink e.val) = true) → tget 0 d.tm.txEnd e.val ≤ ns256 d →
        ns d / 80 = d.tm.refill → (∀ b ∈ d.seq.buckets, b.2 = none) →
        nextVc d1 e.val = some v → cwRoom d1 e.val (headLen d1 e.val v) = true → headSub d1 e.val v = some k → queueOf d1 e.val v k = f :: q → egPort d e.val = some p →
        (portKind d p = 0 ∨ portKind d p = 3) → rsvOf d (egLink e.val) = none → fbit d Reg.TM_CTRL Fd.TM_CTRL_mark_en = false →
        fbit d Reg.TM_CTRL Fd.TM_CTRL_mirror_en = false → fbit d Reg.TM_CAP_CTRL Fd.TM_CAP_CTRL_en = false →
        ∃ x ws, exec (.frameTransmit e) s = .next (s.after x) ∧ x.wire = d.wire ++ .frame e.val (f.bytes ++ frameCheck f.bytes) f.colour :: ws
          ∧ (96 ≤ e.val → ws = [.pcs e.val (pcsPrefix f.colour ++ (f.bytes ++ frameCheck f.bytes))])
          ∧ (e.val < 96 → (∀ w ∈ ws, ∃ q c, w = .codeword e.val q c)
            ∧ (dynOf x e.val).txw = cwFill ((padTo 8 (f.bytes ++ frameCheck f.bytes)).length / 256 + 2) (txFresh d e.val) (some f.colour)
              (padTo 8 (f.bytes ++ frameCheck f.bytes)) (dynOf d e.val).txw)
          ∧ tget 0 x.tm.txEnd e.val = ns256 d + ceilDiv (wireLen e.val (fLen f.bytes) * 20480) (egRate d e.val) ∧ x.mem.hbm = d.mem.hbm))
  ∧ (∀ (s : State),
        let d := s.dev
        (∀ (src : Coord) (vc : BitVec 3), running d = true → (∃ x ∈ d.rte.echoes, x.1 = src.toNat ∧ x.2.1 = vc.toNat) →
          exec (.ecnEchoSend src vc) s = .next (s.after (originate
            { d with rte := { d.rte with echoes := d.rte.echoes.filter (fun x => ¬ (x.1 = src.toNat ∧ x.2.1 = vc.toNat)) } }
            (setBit1 (mkHeader 9 vc.toNat src.toNat (mgmtCoord d)) 1 true))))
        ∧ (∀ (port : BitVec 7) (vc : BitVec 3) (r : EcnRate) (x : Nat),
          let full := 64 * portRate d port.toNat
          let step := 64 * max 1 (fget d Reg.RTE_ECN Fd.RTE_ECN_recover)
          let k := (ns d - r.last) / step
          alive d = true → tget EcnRate.init d.rte.ecn (port.toNat * 8 + vc.toNat) = r → r.rate = some x → 0 < k →
          exec (.ecnRecover port vc) s = .next (s.after { d with rte := { d.rte with ecn := tset EcnRate.init d.rte.ecn (port.toNat * 8 + vc.toNat) (if x + k * (full / 64) < full then { r with rate := some (x + k * (full / 64)), last := r.last + k * step } else { r with rate := none, last := ns d }) } }))
        ∧ (∀ (sw : BitVec 13) (vc : BitVec 3) (lo : Early),
          let key := flowKey sw.toNat vc.toNat
          let q := seqInAt d key
          let dist := fun (x : Early) => (x.seq + 2 ^ 32 - q.expected) % 2 ^ 32
          alive d = true → lo ∈ q.early → (∀ x ∈ q.early, dist lo ≤ dist x) → (∀ x ∈ q.early, dist x = dist lo → x = lo) →
          q.since + max 1 (fget d Reg.RTE_CTRL Fd.RTE_CTRL_gap_ticks) * tickLen d ≤ ns d →
          exec (.reorderGapTimeout sw vc) s = .next (s.after (seqDrain q.early.length key
            (raise (bump (seqInPut d key { q with expected := lo.seq, since := ns d }) Reg.RTE_GAP_CNT (dist lo)) 915)))))

/-- R24, R252, R262, R264, R447. TICK_BOUNDARY of a running fabric: bell time has gone on by whole increments to the first value at or past the next
multiple of the tick length (log 36), and the actions follow in this order: a tick change that is due, gate lists, huddle deadlines, late limits, the
tick-sampled sources, the step stamp, the timetable slot of the new tick. Under HALT the huddle deadlines and late limits do not run; in a fabric reset
no action does. -/
def Obligations.TickActionsInOrder : Prop :=
  ∀ (s : State),
    let d := s.dev
    let e := timeTo d ((tickIdx d + 1) * tickLen d)
    let fresh := fun (y : Dev) => let x := tickChange y; { x with clk := { x.clk with ticked := tickIdx x }, ref := { x.ref with once := [] } }
    let gates := fun (x : Dev) => (x.tm.gates.map (·.1)).foldl gateTick x
    let limits := fun (x : Dev) => (x.seq.buckets.map (·.1)).foldl (fun x k => metroLate (lateLimit x k) k) x
    let slot := fun (x : Dev) => { x with clk := { x.clk with slotTick := tickIdx x } }
    (∀ t, t = (tickIdx d + 1) * tickLen d * 2 ^ 32 → 0 < rg d Reg.BELL_INC → d.clk.now < t →
      t ≤ e.clk.now ∧ e.clk.now < t + rg d Reg.BELL_INC ∧ (e.clk.now - d.clk.now) % rg d Reg.BELL_INC = 0)
    ∧ (running d = true → d.rte.ring = [] → d.rte.waitS = [] → halted (gates (fresh e)) = false → halted (hudTick (gates (fresh e))) = false →
      exec .tickBoundary s = .next (s.after (sweepAborted (tickDue (slot (stepStamp (refereeSample (limits (hudTick (gates (fresh e)))))))))))
    ∧ (alive d = true → resetBusy d = false → halted d = true → halted (gates (fresh e)) = true →
      exec .tickBoundary s = .next (s.after (sweepAborted (tickDue (slot (stepStamp (refereeSample (gates (fresh e)))))))))
    ∧ (alive d = true → resetBusy d = true → exec .tickBoundary s = .next (s.after { e with clk := { e.clk with ticked := tickIdx e } }))

/-- R49, R50. Adding KZ elements: the sum of finite elements is the exact sum; the class depends only on the set of classes, NaN over everything, both
infinities giving NaN with INV where no NaN is among them; and a sum has the same bits in every arrival order. -/
def Obligations.SumsHaveOneValue : Prop :=
  ∀ xs : List Kz, (∀ x ∈ xs, x.cls ≤ 3) →
    let t := xs.foldl kzAdd Kz.zero
    (∀ ys : List Kz, ys.Perm xs → ys.foldl kzAdd Kz.zero = t)
    ∧ ((∀ x ∈ xs, x.cls = 0) → t = ⟨(xs.map (·.a)).foldl (· + ·) 0, 0⟩)
    ∧ ((∃ x ∈ xs, x.cls = 3) → t = ⟨0, 3⟩)
    ∧ ((∃ x ∈ xs, x.cls = 1) → (∃ x ∈ xs, x.cls = 2) → (∀ x ∈ xs, x.cls ≠ 3) → kzNum t 0 = Machine.Num.nan ∧ t.inv = Fl.inv)
    ∧ ((∃ x ∈ xs, x.cls = 1) → (∀ x ∈ xs, x.cls = 0 ∨ x.cls = 1) → t = ⟨0, 1⟩)
    ∧ ((∃ x ∈ xs, x.cls = 2) → (∀ x ∈ xs, x.cls = 0 ∨ x.cls = 2) → t = ⟨0, 2⟩)

/-- R81, R82, R83, R86. DESK_ADD without an upset on an ACTIVE or draining desk: the next lane word of the first block whose chunk holds an accumulator
is added exactly into the element that it names, whose residue and second class copy stay those of its sum, the desk counts the add, and nothing but
that desk and its count changes, as long as the block goes on. -/
def Obligations.DeskAddAddsOneLane : Prop :=
  ∀ (s : State) (p : Fin 272) (b : LBlk) (a : Accum) (pre post : List LBlk),
    let d := s.dev
    let x := deskAt d p.val
    let n := b.lanes.length / max 1 b.per
    let i := b.pos / max 1 b.per
    let row := tget (List.replicate n AElem.zero) a.rows b.row
    let y := elemAt row i
    let w := laneElem (b.lanes.getD b.pos 0)
    let sum := kzAdd y.k w.k
    let sound := fun (z : AElem) => z.k.cls ≤ 4 ∧ z.cls2 = z.k.cls ∧ z.res = Sys2Proof.Machine.res z.k.a ∧ (z.k.cls ≠ 0 → z.k.a = 0)
    running d = true → (deskState d p.val = 0 ∨ deskState d p.val = 1) → x.queue = pre ++ b :: post →
    (∀ y ∈ pre, ∀ z ∈ x.accs, isAcc z y.key y.att y.chunk y.copy = false) →
    x.accs = [a] → isAcc a b.key b.att b.chunk b.copy = true → b.pos + 1 < b.lanes.length → i < row.length →
    sound y → sound w →
    ∃ e a', exec (.deskAdd p .none) s = .next (s.after e)
      ∧ deskAt e p.val = ⟨pre ++ { b with pos := b.pos + 1 } :: post, [a']⟩
      ∧ a' = { a with rows := tput a.rows b.row (row.set i ⟨sum, Sys2Proof.Machine.res sum.a, sum.cls, y.bad⟩) }
      ∧ rg64 e (Reg.DESK_ADD_CNT_0 p.val) = (rg64 d (Reg.DESK_ADD_CNT_0 p.val) + 1) % 2 ^ 64
      ∧ (∀ q, q ≠ p.val → deskAt e q = deskAt d q)
      ∧ (∀ r, r ≠ Reg.DESK_ADD_CNT_0 p.val → r ≠ Reg.DESK_ADD_CNT_0 p.val + 4 → rg e r = rg d r)
      ∧ { e with regs := d.regs, fab := { e.fab with desks := d.fab.desks } } = d

/-- R20, R75, R86, R87, R102, R137, R138. CHUNK_BIND: an ACTIVE desk with free accumulators gives them to a chunk whose partial sum waits in a benched
desk (log 159), else to its oldest QUEUED chunk. CHUNK_ADMIT: the first waiting chunk, of single mode and with blocks that wait, is reserved its
accumulators, becomes FILLING and its blocks leave their port stations for the desk that serves it, on the chunk's data corridor; one that closes short
with no block takes the accumulators of its desk at once where that has room (log 160). ADMIT_NOTE_TIMEOUT: a chunk that has waited SEQ_CTRL.admit_note_ticks raises FS_796 once. DESK_CLOSE reaches every accumulator of a CLOSING
chunk: with one owner whose adds are complete it is RELEASING. -/
def Obligations.ChunksMoveThroughDesks : Prop :=
  ∀ (s : State),
    let d := s.dev
    (∀ (p : Fin 272) (a : Accum) (b : Bucket) (ch : Chunk), alive d = true → orphanAt d p.val = some a → chunkOf d a.key a.att a.chunk = some (b, ch) →
      accUsed (deskAt d p.val) + accsOf b ≤ 24 → deskState d p.val = 0 → holdsOther d p.val a.key a.att a.chunk a.copy = false →
      exec (.chunkBind p) s = .next (s.after (bindAcc d p.val a.key a.att a.chunk a.copy b ch)))
    ∧ (∀ (p : Fin 272) (blk : LBlk) (b : Bucket) (ch : Chunk), alive d = true → orphanAt d p.val = none → queuedHead (deskAt d p.val) = some blk →
      holdsOther d p.val blk.key blk.att blk.chunk blk.copy = false →
      chunkOf d blk.key blk.att blk.chunk = some (b, ch) → ch.sent = false → accUsed (deskAt d p.val) + accsOf b ≤ 24 → deskState d p.val = 0 →
      exec (.chunkBind p) s = .next (s.after (deskPut d p.val ⟨(deskAt d p.val).queue,
        (deskAt d p.val).accs ++ [⟨blk.key, blk.att, blk.chunk, blk.copy, false, .filling, accsOf b, [], [], [], false, [], 0, 0, 0⟩]⟩)))
    ∧ (∀ (k c h : Nat) (x : Chunk) (b : Bucket), running d = true → nextWaiting d = some (k, c, x) → bucketAt d k = some b →
      resolve d (homeOf k c) = some h → fbit d Reg.RFAB_CTRL Fd.RFAB_CTRL_force_dual = false → polDual b.grp.policy = false → x.wait ≠ [] →
      accReserved d + accsOf b ≤ 24 * mappedCount d →
      let x' := { x with st := if x.short then .closing else .filling, accs := accsOf b, dual := false, own0 := some h, own1 := none, wait := [] }
      exec .chunkAdmit s = .next (s.after (closeIfFull (x.wait.foldl (fun e w => laneSend e w.1 w.2) (bucketPut d k (chunkPut b c x'))) k c)))
    ∧ (∀ (k c h : Nat) (x : Chunk) (b : Bucket), running d = true → nextWaiting d = some (k, c, x) → bucketAt d k = some b →
      resolve d (homeOf k c) = some h → fbit d Reg.RFAB_CTRL Fd.RFAB_CTRL_force_dual = false → polDual b.grp.policy = false → x.wait = [] →
      accReserved d + accsOf b ≤ 24 * mappedCount d → accUsed (deskAt d h) + accsOf b ≤ 24 →
      let x' := { x with st := if x.short then .closing else .filling, accs := accsOf b, dual := false, own0 := some h, own1 := none, wait := [] }
      exec .chunkAdmit s = .next (s.after (closeIfFull (bindAcc (bucketPut d k (chunkPut b c x')) h k b.attempt c 0 b x') k c)))
    ∧ (∀ (k : CKey) (b : Bucket) (x : Chunk),
      let n := fget d Reg.SEQ_CTRL Fd.SEQ_CTRL_admit_note_ticks
      alive d = true → bucketAt d (keyOf k.b) = some b → chunkAt b k.chunk.toNat = some x → x.st = .waiting → chunkIdle x = false →
      x.noted = false → n ≠ 0 → x.since + n * tickLen d ≤ ns d →
      exec (.admitNoteTimeout k) s = .next (s.after (raise (bucketPut d (keyOf k.b) (chunkPut b k.chunk.toNat { x with noted := true })) 796)))
    ∧ (∀ (k : CKey) (b : Bucket) (x : Chunk) (p : Nat) (a : Accum), running d = true → bucketAt d (keyOf k.b) = some b →
      chunkAt b k.chunk.toNat = some x → x.st = .closing → x.sent = false → dualLive x = false → d.fab.desks = [(p, ⟨[], [a]⟩)] →
      isAcc a (keyOf k.b) b.attempt k.chunk.toNat a.copy = true → a.helper = false → a.st = .filling → a.inbox = [] →
      (∀ r ∈ List.range (chunkRows b k.chunk.toNat), tget 0 a.done r = rowAdds x r) →
      ∃ e, exec (.deskClose k) s = .next (s.after e)
        ∧ e.fab.desks = [(p, ⟨[], [{ a with closed := true, expect := expects b k.chunk.toNat x, st := .releasing }]⟩)]
        ∧ e.seq = (bucketPut d (keyOf k.b) (chunkPut b k.chunk.toNat { x with sent := true })).seq ∧ e.regs = d.regs ∧ e.mem = d.mem)

/-- R20, R88, R94, R95, R99. ROW_RELEASE: the next row of an owner, when it is final, goes on the chunk's data corridor to the first egress converter
from its home that is in service. HELPER_ROW_MERGE: the owner adds the next returned row element by element. TWIN_ROW_COMPARE: two equal rows are counted as compared and the next pair
is awaited. HELPER_RETURN: a helper whose adds are done gives its rows to its owner and is FREE. -/
def Obligations.RowsLeaveDesks : Prop :=
  ∀ (s : State) (p : Fin 272) (k : CKey) (a : Accum) (b : Bucket),
    let d := s.dev
    let x := deskAt d p.val
    let kk := keyOf k.b
    let c := k.chunk.toNat
    (∀ (ch : Chunk) (l : Nat), running d = true → bucketAt d kk = some b → chunkAt b c = some ch → ch.st ≠ .discarded → (b.st = .opened ∨ b.st = .closed) →
      x.accs = [a] → isAcc a kk b.attempt c a.copy = true → a.helper = false → a.rel < chunkRows b c → rowFinal b ch a a.rel = true →
      convFor d (homeOf kk c) = some l →
      let row := tget (List.replicate (rowElems b) AElem.zero) a.rows a.rel
      exec (.rowRelease p k) s = .next (s.after (slotsN (deskPut d p.val { x with accs := [{ a with rel := a.rel + 1 }] }) (chunkCorr kk c) (stDesk p.val) (l / 8)
        (ceilDiv row.length 24) (.row ⟨l, kk, b.attempt, c, a.rel, row⟩))))
    ∧ (∀ (r n : Nat) (es : List AElem) (rest : List (Nat × List AElem × Nat)), running d = true → x.accs = [a] → isAcc a kk a.att c a.copy = true →
      a.helper = false → a.st = .merging → a.inbox = (r, es, n) :: rest → rest ≠ [] →
      (addRows .none (tget [] a.rows r) es).2 = none →
      ∃ e, exec (.helperRowMerge p k .none) s = .next (s.after e)
        ∧ deskAt e p.val = { x with accs := [{ a with rows := tput a.rows r (addRows .none (tget [] a.rows r) es).1, done := tput a.done r (tget 0 a.done r + n), inbox := rest }] }
        ∧ (∀ q, q ≠ p.val → deskAt e q = deskAt d q) ∧ { e with fab := d.fab } = d)
    ∧ (∀ (q : Nat) (t : Accum), running d = true → bucketAt d kk = some b → x.accs = [a] → isAcc a kk b.attempt c 0 = true → a.helper = false →
      ownerAcc d kk b.attempt c 1 = some (q, t) → a.st = .comparing → t.st = .comparing →
      (tget [] a.rows a.cmp).map (fun y => (y.k.a, clsBits y.k.cls)) = (tget [] t.rows a.cmp).map (fun y => (y.k.a, clsBits y.k.cls)) →
      a.cmp + 1 < chunkRows b c →
      ∃ e, exec (.twinRowCompare p k) s = .next (s.after e)
        ∧ deskAt e p.val = { x with accs := [{ a with cmp := a.cmp + 1 }] } ∧ (∀ q, q ≠ p.val → deskAt e q = deskAt d q)
        ∧ rg e Reg.RFAB_DUAL_CMP_CNT = satInc (rg d Reg.RFAB_DUAL_CMP_CNT) 1 ∧ (∀ r, r ≠ Reg.RFAB_DUAL_CMP_CNT → rg e r = rg d r)
        ∧ e.seq = d.seq ∧ e.mem = d.mem)
    ∧ (∀ (q : Nat) (o : Accum) (ch : Chunk), running d = true → x = ⟨[], [a]⟩ → isAcc a kk a.att c a.copy = true → a.helper = true → a.st = .returning →
      q ≠ p.val → deskAt d q = ⟨[], [o]⟩ → ownerAcc d kk a.att c a.copy = some (q, o) → isAcc o kk a.att c a.copy = true → o.st = .merging →
      chunkOf d kk a.att c = some (b, ch) → a.rows.map (fun r => (r.1, r.2, tget 0 a.done r.1)) ≠ [] →
      ∃ e, exec (.helperReturn p k) s = .next (s.after e) ∧ deskAt e p.val = Desk.empty
        ∧ deskAt e q = ⟨[], [{ o with inbox := o.inbox ++ a.rows.map (fun r => (r.1, r.2, tget 0 a.done r.1)) ++ a.inbox }]⟩
        ∧ { e with fab := d.fab } = d)

/-- R92, R93, R102, R103, R108, R110. RFAB_BENCH.go on a number that is no ACTIVE desk sets err and benches nothing; on an ACTIVE desk it benches that
desk; a number above 271 written without go sets err.
DESK_DRAIN_COMPLETE makes an empty draining desk BENCHED and queues its field test. SPARE_KAT_START tests the lowest good spare for the logical desk
benched first; after 40 µs SPARE_KAT_END takes it into use at the next tick boundary (SPARE_MAP_TAKE, counted in RFAB_REFILL_CNT) or makes it DEAD
with DESK_FAULT.kat_fail, FS_787 and an event record. STEAL_ROUND: the lowest ACTIVE desk, idle, takes the oldest QUEUED chunk of a victim whose
accumulators are all in use; with no victim only the round's time and length are taken. -/
def Obligations.DesksAreReplaced : Prop :=
  ∀ (s : State),
    let d := s.dev
    (∀ who v, BusReady d → reqSecure d who = true → Unlocked d who 0x030000 → v.msb = true →
      let e := rgPut (consume d who 0x030000).2 Reg.RFAB_BENCH (putBits (rg d Reg.RFAB_BENCH) 8 0 (bits v.toNat 8 0))
      exec (.rfabBenchGo who v) s = .next (s.after (if bits v.toNat 8 0 ≤ 271 ∧ deskState d (bits v.toNat 8 0) = 0 then
          benchDesk (fset (fset e Reg.RFAB_BENCH Fd.RFAB_BENCH_phys (bits v.toNat 8 0)) Reg.RFAB_BENCH Fd.RFAB_BENCH_err 0) (bits v.toNat 8 0)
        else fset (fset e Reg.RFAB_BENCH Fd.RFAB_BENCH_phys (bits v.toNat 8 0)) Reg.RFAB_BENCH Fd.RFAB_BENCH_err 1)))
    ∧ (∀ who v, BusReady d → reqSecure d who = true → Unlocked d who 0x030000 → v.msb = false → 271 < bits v.toNat 8 0 →
      exec (.rfabBenchGo who v) s = .next (s.after (fset (rgPut (consume d who 0x030000).2 Reg.RFAB_BENCH (putBits (rg d Reg.RFAB_BENCH) 8 0 (bits v.toNat 8 0)))
        Reg.RFAB_BENCH Fd.RFAB_BENCH_err 1)))
    ∧ (∀ p : Fin 272, alive d = true → deskState d p.val = 1 → deskAt d p.val = Desk.empty →
      exec (.deskDrainComplete p) s = .next (s.after (queueTest (deskTo { d with int := { d.int with drains := d.int.drains.filter (fun x => ¬ (x.1 = .desk ∧ x.2.1 = p.val)) } } p.val 2) .desk p.val true)))
    ∧ (∀ (p : Fin 272) (t : Nat) (a : Accum) (ch : Chunk) (b : Bucket), alive d = true → d.int.drains.find? (fun x => decide (x.1 = .desk ∧ x.2.1 = p.val)) = some (.desk, p.val, t) →
      t ≤ ns d → deskState d p.val = 1 → (deskAt d p.val).accs = [a] → chunkOf (raise (unitFault d (Reg.DESK_FAULT p.val) Fd.DESK_FAULT_drain_timeout (256 + p.val)) 785) a.key a.att a.chunk = some (b, ch) → dualLive ch = false →
      let e := detectCause (raise (unitFault d (Reg.DESK_FAULT p.val) Fd.DESK_FAULT_drain_timeout (256 + p.val)) 785) a.key 6 [a.chunk]
      exec (.deskDrainTimeout p) s = .next (s.after (drainOver (freeLanes (deskPut e p.val Desk.empty) (deskAt e p.val).queue) p.val)))
    ∧ (∀ (l p : Nat) (ls ps : List Nat), running d = true → d.fab.refill = none → d.fab.passed = none → refillable d = l :: ls → goodSpares d = p :: ps →
      ∃ e, exec .spareKatStart s = .next (s.after e) ∧ e.fab = { d.fab with refill := some (p, l, ns d) } ∧ deskState e p = 4
        ∧ fbit e Reg.RFAB_SPARE_STATUS Fd.RFAB_SPARE_STATUS_refill_busy = true ∧ fget e Reg.RFAB_SPARE_STATUS Fd.RFAB_SPARE_STATUS_refill_phys = p
        ∧ fget e Reg.RFAB_SPARE_STATUS Fd.RFAB_SPARE_STATUS_refill_logical = l % 256
        ∧ { e with regs := d.regs, fab := d.fab } = d ∧ (∀ r, r ≠ Reg.DESK_STATUS p → r ≠ Reg.RFAB_SPARE_STATUS → rg e r = rg d r))
    ∧ (∀ (p l t : Nat), alive d = true → d.fab.refill = some (p, l, t) → t + 40000 ≤ ns d → d.int.kat = [] →
      exec (.spareKatEnd true) s = .next (s.after { d with fab := { d.fab with refill := none, passed := some (p, l, tickIdx d) } })
      ∧ exec (.spareKatEnd false) s = .next (s.after (event (raise (unitFault (deskTo (fset { d with fab := { d.fab with refill := none } } Reg.RFAB_SPARE_STATUS Fd.RFAB_SPARE_STATUS_refill_busy 0) p 5)
        (Reg.DESK_FAULT p) Fd.DESK_FAULT_kat_fail (256 + p)) 787) 9 1 [p])))
    ∧ (∀ (p l t : Nat), alive d = true → d.fab.passed = some (p, l, t) → t < tickIdx d →
      exec .spareMapTake s = .next (s.after (bump (mapTo (fset { d with fab := { d.fab with passed := none } } Reg.RFAB_SPARE_STATUS Fd.RFAB_SPARE_STATUS_refill_busy 0) l p) Reg.RFAB_REFILL_CNT)))
    ∧ (running d = true → (cycleNow d ≥ d.fab.stealAt + d.fab.round ∨ d.fab.stealAt = 0) →
      let e := { d with fab := { d.fab with stealAt := cycleNow d, round := max 16 (fget d Reg.RFAB_STEAL Fd.RFAB_STEAL_round) } }
      (d.fab.desks = [] → exec .stealRound s = .next (s.after e))
      ∧ (∀ (v t : Nat) (x : Desk) (blk : LBlk) (b : Bucket), d.fab.desks = [(v, x)] → deskState d v = 0 → queuedHead x = some blk → 24 ≤ accUsed x →
        t < 272 → t ≠ v → deskState d t = 0 → (∀ q < t, q ≠ v → deskState d q ≠ 0) → bucketAt d blk.key = some b → accsOf b ≤ 24 →
        holdsOther e t blk.key blk.att blk.chunk blk.copy = false →
        exec .stealRound s = .next (s.after (chunkBind (bump (moveChunk e v t blk.key blk.att blk.chunk blk.copy) Reg.RFAB_STEAL_CNT) t))))

/-- R22, R57, R75, R77, R95, R96. CONVERT_BLOCK: the next block of a pass on a link, whose checks hold, for a bucket that takes blocks and its present
attempt, from a member that contributes in a plain format, is converted element by element (R57) into lane words and taken under its slot; its granules
go with it. ECONV_ROW: a released row of a running bucket whose check holds is formed into its results and sent, and the desk learns that its converter
has it. -/
def Obligations.BlocksAreConverted : Prop :=
  ∀ (s : State) (l : Fin 128),
    let d := s.dev
    (∀ (p : ConvPass) (rest : List ConvPass) (blk : List Byte) (b : Bucket) (sl : Nat) (prim : Bool),
      let d1 := { d with seq := { d.seq with conv := rest } }
      let fmt := blkFmt blk
      running d = true → ltake (fun (x : ConvPass) => decide (x.link = l.val)) d.seq.conv = some (p, rest) → p.blocks = [blk] →
      resOk blk = true → blkOk blk = true → bucketAt d (passKey p.hdr) = some b → takesBlocks d b (fVc p.hdr) = true → passAtt p.hdr = b.attempt →
      fVc p.hdr ≠ 2 → slotOf b.grp (fSrc p.hdr) = some (sl, prim) → isCopy b = false → bOp b ≠ 6 →
      accepts b fmt (deepSource (passKey p.hdr) b (fSrc p.hdr) (fVc p.hdr)) = true → fmt ≠ 3 → fmt ≠ 4 → fmt ≠ 8 →
      exec (.convertBlock l false) s = .next (s.after (seqTake d1 l.val (passKey p.hdr) sl prim b blk
        (convertElems fmt (decodePayload fmt (fun _ => 0) (blkPayload blk)) (if isInt (bFmt b) then 0 else s128 b.eref) 111)
        (blkStatus blk) (if isInt fmt then 0 else blkRm blk) p.grans)))
    ∧ (∀ (o : RowOut) (rest : List RowOut) (b : Bucket) (x : Chunk) (e : Dev),
      let d1 := { d with seq := { d.seq with rowOut := rest } }
      let es := (rowCheck .none o.elems).1
      let x' := { x with rowSt := tput x.rowSt o.row (tget 0 x.rowSt o.row ||| invOf (es.map (fun (y : AElem) => y.k))) }
      running d = true → ltake (fun (r : RowOut) => decide (r.conv = l.val)) d.seq.rowOut = some (o, rest) →
      chunkOf d o.key o.att o.chunk = some (b, x) → x.st ≠ .discarded → (b.st = .opened ∨ b.st = .closed) → (rowCheck .none o.elems).2 = false →
      hasParent b.grp = true → rowSend (bucketPut d1 o.key (chunkPut b o.chunk x')) o.key (chunkPut b o.chunk x') x' o.chunk o.row l.val es = some e →
      exec (.econvRow l .none false) s = .next (s.after (rowConfirm e o.key o.att o.chunk)))

/-- R117, R119, R124, R487, R501, R502. The group commands, on layouts that keep R502, from a requester of the group's world, outside a service drain.
GROUP_CREATE makes the lowest FREE context ACTIVE with the body's fields and answers its number. GROUP_MODIFY of an ACTIVE context whose members,
roll, slots and role stay replaces its other fields and keeps the epoch. GROUP_QUERY answers the context and changes nothing. GROUP_DESTROY of an
ACTIVE context without a bucket makes it FREE, its table entry going back to its reset contents; one with a bucket, and a FROZEN one (the model's
choice, log 166), is answered ST_GROUP_BUSY. R474 to R477. GROUP_EXPORT writes the context's export at
its offset of a region of the requester's world and answers its length; GROUP_IMPORT of a valid export into a FREE context installs it at the exported
epoch plus 1 and answers; an ACTIVE one is FROZEN until its history is in place, and GROUP_IMPORT_INSTALLED answers. -/
def Obligations.GroupsAreKeptAndMoved : Prop :=
  (∀ (s : State) (h : CmdHdr) (p : List Byte),
      (let d := dequeue s.dev h 0x0110
        let mask := field p 0 4
        let g0 := bodyGroup mask p { Group.free with st := 1, world := h.world, roll := 0 }
        let g := if mask.testBit 3 then g0 else { g0 with roll := ones g0.members }
        ∀ i, Admitted 0x0110 false false h s.dev → 72 ≤ p.length → mask.testBit 16 = false → firstBad (bodyChecks true mask p Group.free g) = none →
          (g.world = true → h.world = true) → draining d = false → i < 4096 → (groupAt d i).st = 0 → (∀ j ∈ List.range i, (groupAt d j).st ≠ 0) →
          groupRoom d Group.free g = none →
          exec (.groupCreate h p) s = .next (s.after (answered (groupPut d i g) h 0x0110 p (beBytes 2 i)))
            ∧ groupAt (groupPut d i g) i = g ∧ (∀ j, j ≠ i → groupAt (groupPut d i g) j = groupAt d j))
      ∧ (let d := dequeue s.dev h 0x0111
        let mask := field p 0 4
        let i := field p 4 2
        let old := groupAt d i
        let g := bodyGroup mask p old
        Admitted 0x0111 false false h s.dev → 72 ≤ p.length → mask < 2 ^ 16 → mask.testBit 0 = false → i < 4096 → old.st = 1 → (old.world = true → h.world = true) →
          firstBad (modifyChecks mask p) = none →
          firstBad (bodyChecks false mask p old g) = none → (g.role = old.role ∧ g.roll = old.roll ∧ g.members = old.members ∧ g.slots = old.slots) →
          ctxBound d i = false → groupRoom d old g = none →
          exec (.groupModify h p) s = .next (s.after (answered (groupPut d i g) h 0x0111 p (beBytes 2 g.epoch))) ∧ g.epoch = old.epoch)
      ∧ (let d := dequeue s.dev h 0x0112
        let g := groupAt d (field p 0 2)
        let bs := groupExport d (field p 0 2) false g
        Admitted 0x0112 false true h s.dev → p.length = 2 → field p 0 2 < 4096 → g.st ≠ 0 → (g.world = true → h.world = true) →
          exec (.groupQuery h p) s = .next (s.after (replyParts d (hdrReply h 0x0112) St.ok (chunksOf 2048 (bs.length + 1) bs))))
      ∧ (let d := dequeue s.dev h 0x0113
        let i := field p 0 2
        Admitted 0x0113 false false h s.dev → p.length = 2 → i < 4096 → (groupAt d i).st ≠ 0 → ((groupAt d i).world = true → h.world = true) →
          ((groupAt d i).st ≠ 2 → bucketsOf d i = [] →
            exec (.groupDestroy h p) s = .next (s.after (answered (groupPut d i Group.free) h 0x0113 p [])) ∧ (groupAt (groupPut d i Group.free) i).st = 0)
          ∧ (bucketsOf d i ≠ [] ∨ (groupAt d i).st = 2 → exec (.groupDestroy h p) s = .next (s.after (reply d (hdrReply h 0x0113) St.groupBusy [])))))
  ∧ (∀ (s : State) (h : CmdHdr) (p : List Byte),
        (let d := dequeue s.dev h 0x0114
          let i := field p 0 2
          let bs := groupExport d i (bit (byteAt p 2) 7) (groupAt d i)
          ∀ n r, Admitted 0x0114 false false h s.dev → p.length = 16 → i < 4096 → byteAt p 2 % 128 = 0 → byteAt p 3 = 0 → handleOk (field p 4 4) = true → (groupAt d i).st ≠ 0 →
            ((groupAt d i).world = true → h.world = true) → regionOf d (field p 4 4) = some (n, r) → r.secure = h.world →
            field p 8 8 + bs.length ≤ regionBytes r →
            exec (.groupExport h p) s = .next (s.after (answered (regionWrite d r (field p 8 8) bs) h 0x0114 p (beBytes 4 bs.length))))
        ∧ (let d := dequeue s.dev h 0x0115
          let i := field p 12 2
          ∀ b g d1, Admitted 0x0115 false false h s.dev → p.length = 16 → i < 4096 → field p 14 2 = 0 → handleOk (field p 0 4) = true → (exportIn d h (field p 0 4) (field p 4 8)).toOption = some b →
            exportGroup b = some g → (g.world = true → h.world = true) → groupRoom d (groupAt d i) g = none → groupInstall d i b = some d1 →
            ((groupAt d i).st = 0 →
              exec (.groupImport h p) s = .next (s.after (answered d1 h 0x0115 p (beBytes 2 (groupAt d1 i).epoch)))
                ∧ (groupAt d1 i).epoch = (field b 2 2 + 1) % 65536 ∧ (groupAt d1 i).st = 1)
            ∧ ((groupAt d i).st = 1 → ((groupAt d i).world = true → h.world = true) → ctxBound d i = false →
              exec (.groupImport h p) s = .next (s.after (recordWait (groupPut d i { groupAt d i with st := 2, importing := some (hdrReply h 0x0115, b) }) h 0x0115 p))))
        ∧ (let d := s.dev
          ∀ (ctx : BitVec 12) (r : ReplyTo) (b : List Byte) (e : Dev),
            let g := groupAt d ctx.toNat
            alive d = true → g.importing = some (r, b) →
            groupInstall (groupPut d ctx.toNat { g with st := 1, importing := none }) ctx.toNat b = some e →
            exec (.groupImportInstalled ctx) s = .next (s.after (replyLate e r St.ok (beBytes 2 (groupAt e ctx.toNat).epoch)))))

/-- R125, R126, R132, R134. BUCKET_OPEN at a node without a parent, the first for its bucket, in an ACTIVE group, at its epoch, from a member, with
room in the tables: an OPEN entry of attempt 0 with its group, parameters, E_ref and late limit, answered with E_ref. The reply ST_OK of the parent
(PARENT_OPEN_REPLY) opens a PENDING entry and answers the opens that it held; a PENDING entry whose wait lapses is FREE again and its opens are
answered ST_INCOMPLETE (BUCKET_PENDING_TIMEOUT), aborts that it held ST_NO_SUCH_BUCKET (the model's choice, log 177). -/
def Obligations.BucketsOpen : Prop :=
  ∀ (s : State) (h : CmdHdr) (p : List Byte),
    (let d := dequeue s.dev h 0x0101
      let g := groupAt d (oCtx p % 4096)
      let k := oKey p
      ∀ sl i d1, Admitted 0x0101 false false h s.dev → p.length = 52 → firstBad (openChecks p g) = none → g.st = 1 → (g.world = true → h.world = true) →
        ¬ (byteAt p 7 = 1 ∧ polShort g.policy = 2) → field p 2 2 = g.epoch → bucketAt d k = none → slotOf g h.src.toNat = some sl → draining d = false →
        bucketCount d < 65536 → (g.maxB ≠ 0 → (bucketsOf d (oCtx p)).length < g.maxB) → openAccum d p g = none → (openShard d p g).toOption = some none →
        let b := newBucket d h p g none
        ledgerUsed d + ledgerGrans b ≤ 65536 → polReplay g.policy = false → openMetro d b = some (i, d1) → hasParent g = false →
        let b1 := { b with mReg := i }
        exec (.bucketOpen h p) s = .next (s.after (answered (joinsHeld (bucketOpened (accumStart (bucketPut (renew d1 k) k b1) p g b1) k) k) h 0x0101 p (beBytes 2 (unsigned 16 b.eref))))
          ∧ b.st = .opened ∧ b.attempt = 0 ∧ b.grp = g ∧ b.chunks = [] ∧ b.openers = [sl.1] ∧ b.eref = oEref d p g ∧ b.late = oLate d p g)
    ∧ (let d := dequeue s.dev h 0x0101
      ∀ (sc : SentCmd) (b : Bucket), alive s.dev = true →
        d.cmd.sent.find? (fun x => decide (x.dst = h.src.toNat ∧ x.tag = h.tag.toNat ∧ x.opcode = 0x0101)) = some sc →
        let d1 := { d with cmd := { d.cmd with sent := d.cmd.sent.filter (· ≠ sc) } }
        bucketAt d1 sc.key = some b → b.st = .pending →
        exec (.parentOpenReply h (BitVec.ofNat 16 St.ok) p) s = .next (s.after
          (bucketOpened (bucketPut (answerOpens d1 b St.ok) sc.key { b with st := .opened, held := [] }) sc.key)))
    ∧ (let d := s.dev
      ∀ (k : BKey) (b : Bucket), alive d = true → bucketAt d (keyOf k) = some b → b.st = .pending → b.pendAt + max 1 b.grp.late * tickLen d ≤ ns d →
        exec (.bucketPendingTimeout k) s = .next (s.after (answerAborts (answerOpens (bucketSet { d with cmd := { d.cmd with sent := d.cmd.sent.filter (fun x => !(decide (x.key = keyOf k ∧ x.opcode = 0x0101))) } }
          (keyOf k) none) b St.incomplete) b St.noSuchBucket)))

/-- R134, R143, R144, R169, R170, R188, R189. How a bucket ends. LATE_LIMIT: at the tick boundary at or after the limit, a chunk with an empty slot
makes the ink root abort the bucket under policy ABORT. BUCKET_CHECKS_COMPLETE: at a node with a parent, a CLOSED bucket whose checks and children
have passed reports up and is REPORTED. COMMIT_POINT: at a plain ink root the INK notice of the attempt goes out. BUCKET_ABORT at the ink root holds
its reply and its entry in the log and aborts the bucket with cause 3; of an unknown bucket it answers ST_NO_SUCH_BUCKET, of an unknown context
ST_NO_SUCH_GROUP. -/
def Obligations.BucketsEnd : Prop :=
  ∀ (s : State),
    let d := s.dev
    (∀ (k : BKey) (b : Bucket), alive d = true → bucketAt d (keyOf k) = some b → b.st = .opened → b.lateDone = false → tickAtOrAfter d b.late ≤ tickIdx d →
      bOp b ≠ 6 → isCopy b = false → polReplay b.grp.policy = false → polShort b.grp.policy = 0 → polQuorum b.grp.policy = 0 → b.chunks = [] → 0 < nodeChunks b →
      exec (.lateLimit k) s = .next (s.after (abortHere (bucketPut (bump d Reg.SEQ_XCHK_INCOMPLETE_CNT (xchkLeft b)) (keyOf k) { b with lateDone := true }) (keyOf k) 1 none)))
    ∧ (∀ (k : BKey) (b : Bucket), alive d = true → bucketAt d (keyOf k) = some b → b.st = .closed → checksDone b = true → childrenPassed b = true → hasParent b.grp = true →
      isInkRoot b.grp = false →
      exec (.bucketChecksComplete k) s = .next (s.after (bucketPut (sendReport d (keyOf k) b) (keyOf k) { b with st := .reported })))
    ∧ (∀ (k : BKey) (b : Bucket),
      let bm := rootBitmaps (keyOf k) b
      let fl := if anyShort b then 0x80 else 0
      running d = true → bucketAt d (keyOf k) = some b → commitReady (keyOf k) b = true → gradGate d b = (true, d) → inMetro b.grp = false → bOp b ≠ 5 →
      exec (.commitPoint k) s = .next (s.after (inkDone (ownersNotice d (keyOf k) b.grp b.attempt
        ⟨0x0301, fl, 0, b.eref, 0, [], segsOf 0 (bmTotal b) bm.1 ++ segsOf 1 (bmTotal b) bm.2⟩ none) (keyOf k) fl 0 bm.1 bm.2 (ones (bmTotal b)))))
    ∧ (∀ (h : CmdHdr) (p : List Byte),
      let d := dequeue s.dev h 0x0102
      let g := groupAt d (oCtx p % 4096)
      let k := oKey p
      Admitted 0x0102 false false h s.dev → p.length = 8 → field p 0 2 < 4096 → byteAt p 6 % 128 = 0 → byteAt p 7 = 0 →
      (g.st = 0 → exec (.bucketAbort h p) s = .next (s.after (reply d (hdrReply h 0x0102) St.noSuchGroup [])))
      ∧ (g.st ≠ 0 → (g.world = true → h.world = true) →
      (∀ b, bucketAt d k = some b → (b.st = .opened ∨ b.st = .closed ∨ b.st = .reported) → isInkRoot b.grp = true →
        exec (.bucketAbort h p) s = .next (s.after (abortHere (bucketPut (recordWait d h 0x0102 p) k { b with aborts := b.aborts ++ [(h, p)] }) k 3 none)))
      ∧ (bucketAt d k = none → (∀ o ∈ d.seq.outcomes, o.1 ≠ k) →
        exec (.bucketAbort h p) s = .next (s.after (reply d (hdrReply h 0x0102) St.noSuchBucket [])))))

/-- R165 to R168, R170, R174 to R176, R179, R184, R185, R188, R189. A notice of one part with a well-formed layout and the world of its group, not
seen before, is acknowledged and marked as seen; then it acts. INK from above of the present attempt inks the bucket; ERASE from above starts the next
attempt; ABORTED from a known source aborts; a passing CHECK_REPORT of a child replaces that child's report; METRO_JOIN declares its rank's members;
METRO_RESEND sends the chunk again; ERASE_REQUEST is a cause of erasure, and after the commit point it is counted and raises FS_805; METRO_GATHERED
confirms its rank. NOTICE_ACK ends the repeats of the oldest part that it names. Which part counts as seen before, and which one an ack names where
several match, is the model's choice (log 167). R167, R168. A notice part that was seen before is acknowledged again, counted in
MTR_NOTICE_DUP_CNT and not acted on; a malformed notice is dropped and counted in CMD_DROP_CNT without an acknowledgement. -/
def Obligations.NoticesActOncePerPart : Prop :=
  (∀ (s : State) (h : CmdHdr) (p : List Byte) (b : Bucket),
      let src := h.src.toNat
      let k := nKey p
      let N := fun (op : Nat) => noticed s.dev h op p
      let new := fun (op : Nat) => alive s.dev = true ∧ noticeOk p = true ∧ noticeWorld (dequeue s.dev h op) h (kCtx k) = true ∧ nCount p = 1 ∧ nPart p = 0
        ∧ (∀ n ∈ (N op).seq.notIn, ¬ (n.src = src ∧ n.op = op ∧ n.key = k ∧ n.att = nAtt p))
        ∧ (∀ n ∈ (dequeue s.dev h op).seq.notIn, ¬ (n.src = src ∧ n.op = op ∧ n.key = k ∧ n.att = nAtt p))
        ∧ noticeSeen (noticeAcked (dequeue s.dev h op) h op p) src op p = false
      (new 0x0301 → bucketAt (N 0x0301) k = some b → fromAbove k b src = true → b.attempt = nAtt p → b.st ≠ .pending → bOp b ≠ 5 →
        exec (.ink h p) s = .next (s.after (inkDone (N 0x0301) k (nFlags p &&& 0xF0) (nMicro p) (bitmapOf 0 (bmTotal b) (nSegs p)) (bitmapOf 1 (bmTotal b) (nSegs p)) (bitmapOf 2 (bmTotal b) (nSegs p)))))
      ∧ (new 0x0302 → bucketAt (N 0x0302) k = some b → fromAbove k b src = true → b.attempt = nAtt p → (b.st = .opened ∨ b.st = .closed ∨ b.st = .reported) →
        exec (.erase h p) s = .next (s.after (eraseHere (N 0x0302) k (nCause p) (field (nExt p) 0 8 + (if field (nExt p) 8 2 = 0 then 0 else 1)) (some src))))
      ∧ (new 0x0303 → bucketAt (N 0x0303) k = some b → hasParent b.grp = true → src = b.grp.parent →
        exec (.aborted h p) s = .next (s.after (abortHere (N 0x0303) k (nCause p) (some src))))
      ∧ (new 0x0304 → bucketAt (N 0x0304) k = some b → (∃ x ∈ b.grp.slots, x.child = true ∧ x.prim = src) → b.attempt = nAtt p → (b.st = .opened ∨ b.st = .closed) → nCause p = 0 →
        let m := if (rankOf (kCtx k) b.grp src).isSome then bmTotal b else b.grp.members
        exec (.checkReport h p) s = .next (s.after (bucketPut (N 0x0304) k { b with reports := b.reports.filter (fun x => decide (x.1 ≠ src)) ++ [(src, bit (nFlags p) 7, bitmapOf 0 m (nSegs p), bitmapOf 1 m (nSegs p))] })))
      ∧ (∀ r, new 0x0305 → bucketAt (N 0x0305) k = some b → rankOf (kCtx k) b.grp src = some r → (∀ j ∈ b.mJoin, j.1 ≠ r) →
        exec (.metroJoin h p) s = .next (s.after (bucketPut (N 0x0305) k { b with mJoin := tput b.mJoin r (field (nExt p) 0 4) })))
      ∧ (∀ r xs e, new 0x0306 → anyBucket (N 0x0306) k = some b → b.attempt = nAtt p → b.mReg ≠ 0 → ownsChunk b (field (nExt p) 0 4) = true → (mChunkAt b (field (nExt p) 0 4)).out = true →
        rankOf (kCtx k) b.grp src = some r → metroBlocks (N 0x0306) k b (field (nExt p) 0 4) = some xs →
        sendAll (N 0x0306) k b.attempt (homeOf k (field (nExt p) 0 4) % 128 / 8) (chunkCorr k (field (nExt p) 0 4)) 2 2 src xs.2 = some e →
        exec (.metroResend h p) s = .next (s.after e))
      ∧ (new 0x0307 → bucketAt (N 0x0307) k = some b →
        (b.st = .inked → exec (.eraseRequest h p) s = .next (s.after (raise (bump (N 0x0307) Reg.MTR_LATE_ERASE_REQ_CNT) 805)))
        ∧ (b.st = .opened ∨ b.st = .closed ∨ b.st = .reported → b.attempt = nAtt p → exec (.eraseRequest h p) s = .next (s.after (detectCause (N 0x0307) k 9 []))))
      ∧ (∀ r, new 0x0309 → anyBucket (N 0x0309) k = some b → rankOf (kCtx k) b.grp src = some r → b.attempt = nAtt p → byteAt (nExt p) 0 = b.grp.metroRank → b.mConf.contains r = false →
        exec (.metroGathered h p) s = .next (s.after (metroRelease (anyPut (N 0x0309) k { b with mConf := b.mConf ++ [r] }) k)))
      ∧ (let d := dequeue s.dev h 0x0308
        alive s.dev = true → p.length = 10 → field p 0 2 < 4096 → noticeWorld d h (kCtx k) = true →
        exec (.noticeAck h p) s = .next (s.after { d with seq := { d.seq with notOut := d.seq.notOut.eraseP (fun n => decide (n.dst / 16 = src / 16 ∧ n.key = k ∧ n.att = byteAt p 6 ∧ n.part = byteAt p 7 ∧ n.op = field p 8 2)) } })))
  ∧ (∀ (s : State) (h : CmdHdr) (p : List Byte) (c : Instr) (op : Nat),
        (c, op) ∈ [(Instr.ink h p, 0x0301), (.erase h p, 0x0302), (.aborted h p, 0x0303), (.checkReport h p, 0x0304), (.metroJoin h p, 0x0305), (.metroResend h p, 0x0306),
          (.eraseRequest h p, 0x0307), (.metroGathered h p, 0x0309)] →
        let d := dequeue s.dev h op
        alive s.dev = true →
        (noticeOk p = false → exec c s = .next (s.after (bump d Reg.CMD_DROP_CNT)))
        ∧ (noticeOk p = true → noticeWorld d h (kCtx (nKey p)) = true →
          (∀ n ∈ d.seq.notIn, ¬ (n.src = h.src.toNat ∧ n.op = op ∧ n.key = nKey p ∧ n.att = nAtt p)) →
          noticeSeen (noticeAcked d h op p) h.src.toNat op p = true →
          exec c s = .next (s.after (bump (noticeAcked d h op p) Reg.MTR_NOTICE_DUP_CNT))))

/-- R168, R172, R180, R182, R183, R185. What the notices' timers and the metro side do. NOTICE_RETRY_TIMEOUT sends the part again and counts it, and
after the last try gives it up with FS_803. INK_PORT_RELEASE sends the INK of an attempt on a port once its pencil passes have left it; with the last
port the INK goes into the record.
METRO_HOLD_TIMEOUT drops passes that waited too long for their bucket, counting their blocks and raising FS_802. METRO_LATE_LIMIT with a group that
has not joined raises FS_801 and aborts with cause 7. METRO_CHUNK_CLOSE narrows a closed owned chunk once and sends it, under REDUCE_TO_SHARD into the
gradient stream only. METRO_GATHER_RECEIVE of an intact pass of another owner's chunk frees its granules, multicasts its blocks and marks what came; of
a pass for no bucket it only frees them. METRO_GATHER_LAPSE after the hold time releases the region, counted with FS_806. -/
def Obligations.MetroTimersAct : Prop :=
  ∀ (s : State) (k : BKey),
    let d := s.dev
    let kk := keyOf k
    (∀ (n : Nat) (o : NoticeOut), alive d = true → d.seq.notOut[n]? = some o → o.at_ + max 1 (fget d Reg.MTR_TIMERS Fd.MTR_TIMERS_notice_retry_ticks) * tickLen d ≤ ns d →
      (o.tries < max 1 (fget d Reg.MTR_CTRL Fd.MTR_CTRL_notice_tries) →
        exec (.noticeRetryTimeout n) s = .next (s.after (sendPart (bump { d with seq := { d.seq with notOut := d.seq.notOut.set n { o with tries := o.tries + 1, at_ := ns d } } } Reg.MTR_NOTICE_RETRY_CNT)
          o.dst o.op o.key o.world o.params (decide (o.op = 0x0302 ∨ o.op = 0x0303)))))
      ∧ (max 1 (fget d Reg.MTR_CTRL Fd.MTR_CTRL_notice_tries) ≤ o.tries →
        exec (.noticeRetryTimeout n) s = .next (s.after (raise { d with seq := { d.seq with notOut := d.seq.notOut.eraseIdx n } } 803))))
    ∧ (∀ (port : BitVec 7) (r : InkRec), running d = true →
      d.seq.inks.find? (fun x => decide (x.key = kk) && x.ports.any (fun y => decide (y.1 = port.toNat))) = some r →
      passWaits d (some port.toNat) (pencilMark kk r.att) = false → gathersHeld d kk = true → r.pub = false → portLive d port.toNat = true →
      let left := { r with ports := r.ports.filter (fun y => decide (y.1 ≠ port.toNat)) }
      let out := ((r.ports.filter (fun y => decide (y.1 = port.toNat))).flatMap (·.2)).foldl (fun e dst => sendNotice e dst kk r.att r.grp.world (inkMsg r))
        { d with seq := { d.seq with inks := d.seq.inks.map (fun x => if x = r then left else x) } }
      exec (.inkPortRelease k port) s = .next (s.after (if left.ports = [] then inkEntry out left else out)))
    ∧ (∀ (p : ConvPass), alive d = true → d.seq.mHeld = [p] → passKey p.hdr = kk → p.at_ + max 1 (fget d Reg.MTR_TIMERS Fd.MTR_TIMERS_hold_ticks) * tickLen d ≤ ns d →
      exec (.metroHoldTimeout k) s = .next (s.after (raise (bump (hpoolFreeGrans { d with seq := { d.seq with mHeld := [] } } 1 p.grans) Reg.MTR_HOLD_DROP_CNT p.blocks.length) 802)))
    ∧ (∀ (b : Bucket), alive d = true → bucketAt d kk = some b → metroSums b = true → b.mReg ≠ 0 → b.mLateDone = false → (b.st = .opened ∨ b.st = .closed) →
      tickAtOrAfter d (b.late + max 1 (fget d Reg.MTR_CTRL Fd.MTR_CTRL_metro_late_ticks) * tickLen d) ≤ tickIdx d →
      (∃ c ∈ ownChunks b, (mChunkAt b c).closed = false) → (∃ o ∈ otherOwners (kCtx kk) b.grp, ∀ j ∈ b.mJoin, j.1 ≠ o.1) →
      exec (.metroLateLimit k) s = .next (s.after (abortHere (raise (bucketPut d kk { b with mLateDone := true }) 801) kk 7 none)))
    ∧ (∀ (c : BitVec 18) (b : Bucket) (xs : List Exact) (bs : List (List Byte)) (o1 o2 : Dev), running d = true → bucketAt d kk = some b → inMetro b.grp = true → ownsChunk b c.toNat = true →
      metroReady kk b c.toNat = true → (b.st = .opened ∨ b.st = .closed ∨ b.st = .reported) → bOp b ≠ 7 → metroBlocks d kk b c.toNat = some (xs, bs) →
      let done := fun (o : Dev) => bucketMod (gradRow o b (c.toNat * 64 * fmtElems (bFmt b)) xs) kk (fun b' => mChunkPut b' c.toNat { mChunkAt b' c.toNat with out := true })
      (outOp b = 4 → exec (.metroChunkClose ⟨⟨k, c⟩, false⟩) s = .next (s.after (done d)))
      ∧ (outOp b ≠ 4 → tget false d.int.eFenced (homeOf kk c.toNat % 128) = false →
      multicastAll d kk b.attempt (homeOf kk c.toNat % 128 / 8) (chunkCorr kk c.toNat) 2 1 (pencilMark kk b.attempt) (resultTo d b c.toNat) bs = some o1 →
      (otherOwners (kCtx kk) b.grp).foldl (fun (o : Option Dev) w => o.bind (fun e => sendAll e kk b.attempt (homeOf kk c.toNat % 128 / 8) (chunkCorr kk c.toNat) 2 2 w.2 bs)) (some o1) = some o2 →
      exec (.metroChunkClose ⟨⟨k, c⟩, false⟩) s = .next (s.after (done o2))))
    ∧ (∀ (p : ConvPass) (rest : List ConvPass) (b b' : Bucket) (rank : Nat) (o : Dev), running d = true → d.seq.gathers = p :: rest →
      let d1 := poolFreeGrans { d with seq := { d.seq with gathers := rest } } 1 (p.link / 8) p.grans
      let key := passKey p.hdr
      let first := p.blocks.headD []
      let c := elemChunk b (blkSeq first * (if blkFmt first = 4 then 256 else max 1 (fmtElems (blkFmt first))))
      let g := tget GChunk.init b.mGot c
      let qs := (p.blocks.filter (fun x => decide (blkFmt x ≠ 4))).map blkSeq
      anyBucket d1 key = some b → rankOf (kCtx key) b.grp (fSrc p.hdr) = some rank → b.attempt = passAtt p.hdr → b.st ≠ .aborted → bOp b ≠ 7 →
      (∀ x ∈ p.blocks, blkOk x = true) → metroRankOf b c = rank → g.lapsed = false →
      multicast d1 key b.attempt (p.link / 8) (chunkCorr key c) 2 1 (mgmtCoord d1) (pencilMark key b.attempt) (resultTo d1 b c) p.blocks = some o →
      anyBucket o key = some b' →
      exec .metroGatherReceive s = .next (s.after (gatherConfirm
        (anyPut o key { b' with mGot := tset GChunk.init b'.mGot c { g with got := g.got ++ qs.filter (fun q => !(g.got.contains q)) } }) key rank (fSrc p.hdr))))
    ∧ (∀ (p : ConvPass) (rest : List ConvPass), running d = true → d.seq.gathers = p :: rest → anyBucket d (passKey p.hdr) = none →
      exec .metroGatherReceive s = .next (s.after (poolFreeGrans { d with seq := { d.seq with gathers := rest } } 1 (p.link / 8) p.grans)))
    ∧ (∀ (b : Bucket), alive d = true → anyBucket d kk = some b → b.st = .inked → b.mReg ≠ 0 → b.inkAt + max 1 (fget d Reg.MTR_TIMERS Fd.MTR_TIMERS_hold_ticks) * tickLen d ≤ ns d →
      exec (.metroGatherLapse k) s = .next (s.after (metroRelease (raise (bump (anyPut (dropMetro d b) kk { b with mReg := 0 }) Reg.MTR_GATHER_LAPSE_CNT) 806) kk)))

/-- R195, R196, R206, R209, R213, R216. The shard commands for a bound shard of the requester's world, and the lesson and norm commands. SHARD_QUERY
answers the binding, its world and the last step run, and changes nothing; SHARD_SCALARS makes a table pending that takes effect at the step it names;
SHARD_UNBIND, while no bucket drives the shard, frees it and its gradient staging; SHARD_REPUBLISH of a step that is not the last run answers
ST_PUB_GONE, of an empty range it is counted and answered, and of one block that was published it is counted, the block goes to the requester in a
frame on VC3 (R216), and it is answered. R195, R196, R206, R209. SHARD_BIND of a layout that keeps R195, to an ACTIVE context that
is a root or METRO_OWNER, over regions of the requester's world that hold its streams without meeting another shard's, takes the lowest free shard and
answers its number. LESSON_LOAD of a lesson that R206 allows replaces a slot that no shard uses; LESSON_QUERY answers a slot's words; NORM_BIND makes
or clears a norm binding. -/
def Obligations.ShardsAndLessonsAreNamed : Prop :=
  (∀ (s : State) (h : CmdHdr) (p : List Byte) (x : Shard),
      let i := field p 0 2
      let ok := fun (op : Nat) (q : Bool) => Admitted op false q h s.dev ∧ i < 1024 ∧ shardAt (dequeue s.dev h op) i = some x ∧ (x.world = true → h.world = true)
      (ok 0x0403 true → p.length = 2 →
        exec (.shardQuery h p) s = .next (s.after (queried (dequeue s.dev h 0x0403) h 0x0403 (bindBytes x ++ beBytes 1 x.world.toNat ++ [0] ++ beBytes 4 x.lastStep))))
      ∧ (ok 0x0404 false → p.length = 64 → field p 2 2 = 0 →
        exec (.shardScalars h p) s = .next (s.after (answered (shardPut (dequeue s.dev h 0x0404) i
          { x with pend := some (field p 4 4, (List.range 14).map (fun j => field p (8 + 4 * j) 4)) }) h 0x0404 p [])))
      ∧ (ok 0x0402 false → p.length = 2 → (∀ b ∈ bucketsOf (dequeue s.dev h 0x0402) x.ctx, kTag b.1 ≠ x.tag) →
        ∃ e, exec (.shardUnbind h p) s = .next (s.after (answered e h 0x0402 p [])) ∧ shardAt e i = none ∧ (∀ j, j ≠ i → shardAt e j = shardAt (dequeue s.dev h 0x0402) j)
          ∧ (∀ g ∈ e.lsn.grad, g.1 / 2 ^ 32 ≠ i) ∧ { e with lsn := (dequeue s.dev h 0x0402).lsn, ckp := (dequeue s.dev h 0x0402).ckp } = dequeue s.dev h 0x0402)
      ∧ (ok 0x0405 false → p.length = 16 → field p 2 2 = 0 → ∀ rf cvt, lessonPub (lessonAt (dequeue s.dev h 0x0405) x.lesson) = some (rf, cvt) →
        ((x.ran = false ∨ x.lastStep ≠ field p 4 4) →
          exec (.shardRepublish h p) s = .next (s.after (reply (dequeue s.dev h 0x0405) (hdrReply h 0x0405) St.pubGone [])))
        ∧ ((dequeue s.dev h 0x0405).lsn.owed = [] → x.ran = true → x.lastStep = field p 4 4 → field p 12 4 = 0 → (shardSpan (dequeue s.dev h 0x0405) x).1 ≤ field p 8 4 * fmtElems (pubFmt rf) →
          field p 8 4 * fmtElems (pubFmt rf) < (shardSpan (dequeue s.dev h 0x0405) x).1 + (shardSpan (dequeue s.dev h 0x0405) x).2 →
          exec (.shardRepublish h p) s = .next (s.after (answered (bump (dequeue s.dev h 0x0405) Reg.LSN_REPUBLISH_CNT) h 0x0405 p [])))
        ∧ (let d := dequeue s.dev h 0x0405
          let fmt := pubFmt rf
          let el := fmtElems fmt
          let q := field p 8 4
          let u := pubUnit (shardSpan d x) fmt (q * el)
          let w := pubStored d x cvt u.1 (u.2 - u.1)
          let blks := (pubBlocks fmt u.1 (lessonToss (lessonAt d x.lesson)) x.lastEref w.1 (fun j => tget 0 x.flags j)).filter
            (fun b => decide (blkFmt b = 4) || [q].contains (blkSeq b))
          let corr := chunkCorr x.lastKey (u.1 / (64 * fmtElems x.fmt))
          let d1 := bump { d with lsn := { d.lsn with owed := [⟨x.lastKey, x.lastAtt, h.src.toNat, corr, blks⟩] } } Reg.LSN_REPUBLISH_CNT
          ∀ m r e, d.lsn.owed = [] → x.ran = true → x.lastStep = field p 4 4 → field p 12 4 = 1 → (shardSpan d x).1 ≤ q * el →
            (q + 1) * el < (shardSpan d x).1 + (shardSpan d x).2 + el → bit (tget 0 x.flags q) 0 = true → regionOf d x.w.handle = some (m, r) →
            regionPoisoned d r (x.w.off + 4 * (q * el - (shardSpan d x).1)) (4 * el) = false → blks ≠ [] → blks.length ≤ 8 →
            sendPass d1 x.lastKey x.lastAtt 48 corr 3 3 h.src.toNat none blks = some e →
            exec (.shardRepublish h p) s = .next (s.after (answered { e with lsn := { e.lsn with owed := [] } } h 0x0405 p [])))))
  ∧ (∀ (s : State) (h : CmdHdr) (p : List Byte),
        (let d := dequeue s.dev h 0x0401
          let x := bindShard p h.world
          let n := (shardSpan d x).2
          let g := groupAt d x.ctx
          let ranges := streamRanges x n
          let stores := lessonStores (lessonAt d x.lesson)
          ∀ i, Admitted 0x0401 false false h s.dev → draining d = false → p.length = 88 → firstBad (bindChecks p) = none → g.st = 1 → (g.role = 2 ∨ g.role = 3) → (g.world = true → h.world = true) →
            (∀ y ∈ shardStreams x n, (regionOf d y.1.handle).any (fun m => decide (m.2.secure = h.world ∧ y.1.off + y.2 ≤ regionBytes m.2)) = true) →
            boundShard d x.ctx x.tag = none → (∀ b ∈ bucketsOf d x.ctx, kTag b.1 ≠ x.tag) → anyMeet ranges = false →
            (∀ e ∈ d.lsn.shards, e.2 = none) → stageOf d x ≤ stageFree d → lessonAt d x.lesson ≠ [] →
            (stores.contains 1 = true → x.s1.fmt ≠ 0) → (stores.contains 2 = true → x.s2.fmt ≠ 0) → i = 0 → shardAt d 0 = none → mirSending d = false →
            exec (.shardBind h p) s = .next (s.after (answered (shardPut d i x) h 0x0401 p (beBytes 2 i))))
        ∧ (let d := dequeue s.dev h 0x0410
          let n := byteAt p 1
          let ws := (List.range n).map (fun i => field p (8 + 8 * i) 8)
          Admitted 0x0410 false false h s.dev → p.length = 8 + 8 * n → byteAt p 0 ≤ 31 → 1 ≤ n → n ≤ 64 → field p 2 6 = 0 → lessonCheck ws = none →
            (∀ e ∈ d.lsn.shards, e.2.map (fun x => x.lesson) ≠ some (byteAt p 0)) →
            exec (.lessonLoad h p) s = .next (s.after (answered { d with lsn := { d.lsn with slots := tset [] d.lsn.slots (byteAt p 0) ws } } h 0x0410 p [])))
        ∧ (let d := dequeue s.dev h 0x0411
          let ws := lessonAt d (byteAt p 0)
          Admitted 0x0411 false true h s.dev → p.length = 1 → byteAt p 0 ≤ 31 →
            exec (.lessonQuery h p) s = .next (s.after (queried d h 0x0411 (beBytes 1 ws.length ++ beBytes 3 0 ++ beBytes 4 (crc32c (lessonBytes ws)) ++ lessonBytes ws))))
        ∧ (let d := dequeue s.dev h 0x0412
          let g := groupAt d (field p 2 2)
          Admitted 0x0412 false false h s.dev → p.length = 8 → byteAt p 0 ≤ 15 → byteAt p 1 % 128 = 0 → field p 2 2 < 4096 → field p 6 2 = 0 →
            (bit (byteAt p 1) 7 = false → exec (.normBind h p) s = .next (s.after (answered (normPut d (byteAt p 0) Norm.free) h 0x0412 p [])))
            ∧ (bit (byteAt p 1) 7 = true → g.st ≠ 0 → (g.world = true → h.world = true) → (∃ x ∈ g.slots, x.child = false ∧ (x.prim = mgmtCoord d ∨ x.sub = mgmtCoord d)) →
              exec (.normBind h p) s = .next (s.after (answered (normPut d (byteAt p 0) { Norm.free with valid := true, ctx := field p 2 2, tag := field p 4 2 }) h 0x0412 p [])))))

/-- R207 to R214. RUN_START of a READY run whose norm, where the shard is clipped, is a number, outside replay: the scalars are the table in force at
this step, the clip factor, the step and the norm with which the run became READY; a RUN entry is appended, the run is counted and is RUNNING. ENGINE_ROW_START: a free ACTIVE engine takes the row
that the oldest running run has for it. ENGINE_ROW_COMPLETE runs the row's lesson on its operands, stores its results in their streams and keeps what
it publishes; under a residue failure or a class mismatch the row is kept for another engine, the engine is benched and the retry counted. ENGINE_KAT_END makes a tested
engine ACTIVE or BAD. RUN_STALL_TIMEOUT raises FS_874 once. NORM_PASS_DONE adds the shard to its binding. -/
def Obligations.RunsAdvance : Prop :=
  ∀ (s : State),
    let d := s.dev
    (∀ (i : BitVec 10) (r : Run) (x : Shard) (b : Bucket),
      let step := bStep b
      let x1 := match x.pend with
        | some (from', t) => if from' ≤ step then { x with cur := t, pend := none } else x
        | none => x
      let sc := x1.cur ++ [r.clip.2, (encodeKf32 (ofInt (step : Nat))).1, r.clip.1]
      let body := beBytes 2 i.toNat ++ beBytes 1 x1.lesson ++ beBytes 1 0 ++ beBytes 4 (crc32c (lessonBytes (lessonAt d x1.lesson))) ++ sc.flatMap (beBytes 4)
      let x2 := { x1 with lastStep := step, ran := true, status := 0, lastKey := r.key, lastAtt := r.att, lastEref := if inMetro b.grp then b.mEref else b.eref, seed := b.seed, flags := [] }
      running d = true → fbit d Reg.LSN_CTRL Fd.LSN_CTRL_run_en = true → runOf d i.toNat = some r → shardAt d i.toNat = some x → bucketAt d r.key = some b → r.st = .ready → (x.clip = false ∨ (isNan r.clip.1 = false ∧ r.clip.1 ≠ kInf)) →
      polReplay b.grp.policy = false → partnerState (shardPut (append d 0x07 (kCtx r.key) (kEpoch r.key) step body) i.toNat x2) ≠ 2 →
      exec (.runStart i) s = .next (s.after (runMod (bump (shardPut (append d 0x07 (kCtx r.key) (kEpoch r.key) step body) i.toNat x2) Reg.LSN_RUN_CNT) i.toNat
        (fun r => { r with st := .running, s := sc, wait := ns (shardPut (append d 0x07 (kCtx r.key) (kEpoch r.key) step body) i.toNat x2) }))))
    ∧ (∀ (e : Fin 64) (i k : Nat) (r : Run), running d = true → engState d e.val = 0 → engRow d e.val = none → draining1 d .engine e.val = false → pickRun d e.val = some (i, k, r) →
      ∃ y, exec (.engineRowStart e) s = .next (s.after y) ∧ engRow y e.val = some ⟨i, k⟩ ∧ fbit y (Reg.LSN_ENG_STATUS e.val) Fd.LSN_ENG_STATUS_busy = true
        ∧ fget y (Reg.LSN_ENG_STATUS e.val) Fd.LSN_ENG_STATUS_shard = i % 1024 ∧ (∀ a, a ≠ Reg.LSN_ENG_STATUS e.val → rg y a = rg d a) ∧ y.mem = d.mem ∧ y.seq = d.seq)
    ∧ (∀ (e : Fin 64) (z : EngRow) (r : Run) (x : Shard),
      let d1 := engPut d e.val none
      let o := rowRun d1 z.shard x r z.row
      let w := o.stores.foldl (fun (a : Nat × Dev) st => let y := rowStore a.2 z.shard x z.row st; (a.1 ||| y.1, y.2)) (o.flags, d1)
      running d = true → engRow d e.val = some z → runOf d1 z.shard = some r → shardAt d1 z.shard = some x →
      (rowLost d1 x z.row = false →
        exec (.engineRowComplete e .none) s = .next (s.after (sweepAborted (runMod w.2 z.shard (fun r => { r with done := r.done + 1, wait := ns d1, pubs := match o.pub with | some (_, ws) => r.pubs ++ [(z.row, ws, sticky w.1)] | none => r.pubs })))))
      ∧ (∀ (i : BitVec 8) (b : BitVec 128), b ≠ 0 → let d2 := benchEngine (bump d1 Reg.LSN_ROW_RETRY_CNT) e.val Fd.LSN_ENG_FAULT_residue_fail
        exec (.engineRowComplete e (.flip i b)) s = .next (s.after (sweepAborted (runMod d2 z.shard (fun r => { r with redo := r.redo ++ [(z.row, e.val)], wait := ns d2 })))))
      ∧ (∀ b : BitVec 2, b ≠ 0 → let d2 := benchEngine (bump d1 Reg.LSN_ROW_RETRY_CNT) e.val Fd.LSN_ENG_FAULT_class_mismatch
        exec (.engineRowComplete e (.cls b)) s = .next (s.after (sweepAborted (runMod (queueTest d2 .engine e.val false) z.shard
          (fun r => { r with redo := r.redo ++ [(z.row, e.val)], wait := ns d2 }))))))
    ∧ (∀ (e : Fin 64), alive d = true → (engState d e.val = 1 ∨ engState d e.val = 2) → ftHas d .engine e.val = false →
      exec (.engineKatEnd e true) s = .next (s.after (engTo d e.val 0)) ∧ engState (engTo d e.val 0) e.val = 0 ∧ OnlyRegs [Reg.LSN_ENG_STATUS e.val] d (engTo d e.val 0)
      ∧ exec (.engineKatEnd e false) s = .next (s.after (unitFault (engTo d e.val 3) (Reg.LSN_ENG_FAULT e.val) Fd.LSN_ENG_FAULT_kat_fail (808 + e.val))))
    ∧ (∀ (i : BitVec 10) (r : Run) (x : Shard), alive d = true → runOf d i.toNat = some r → shardAt d i.toNat = some x → r.st = .ready → r.noted = false →
      r.wait + max 1 (fget d Reg.LSN_CTRL Fd.LSN_CTRL_stall_ticks) * tickLen d ≤ ns d →
      exec (.runStallTimeout i) s = .next (s.after (raise (runMod d i.toNat (fun r => { r with noted := true })) 874)))
    ∧ (∀ (i : BitVec 10) (r : Run) (x : Shard) (b : Bucket), running d = true → runOf d i.toNat = some r → shardAt d i.toNat = some x → bucketAt d r.key = some b → r.st = .norm → r.normed = false →
      (normAt d x.normBind).valid = true → (normAt d x.normBind).step = bStep b → (normAt d x.normBind).shards ≠ [] → x.gPlace = false →
      ∃ e n, exec (.normPassDone i) s = .next (s.after (runMod (normPut d x.normBind n) i.toNat (fun r => { r with normed := true }))) ∧ e = normPut d x.normBind n
        ∧ n.shards = (normAt d x.normBind).shards ++ [i.toNat] ∧ n.valid = true ∧ n.sent = (normAt d x.normBind).sent
        ∧ tget Kz.zero n.sums x.normSlot = ((List.range (shardSpan d x).2).foldl (fun a j => normAdd (s128 (normEref d (normAt d x.normBind) x.normSlot)) a (field (gradBytes d i.toNat x 0 (shardSpan d x).2) (4 * j) 4))
            (tget Kz.zero (normAt d x.normBind).sums x.normSlot, (if tget 0xFFFF (normAt d x.normBind).rm x.normSlot = 0xFFFF then 0 else tget 0xFFFF (normAt d x.normBind).rm x.normSlot), (normAt d x.normBind).flags)).1)

/-- R230, R231, R487, R501, R502. The huddle group commands, on layouts that keep R230. HUDDLE_CREATE takes the lowest invalid group; HUDDLE_MODIFY of
a group without an open instance replaces its fields and advances its epoch; HUDDLE_QUERY answers the group and changes nothing; HUDDLE_DESTROY of a
group without an open instance makes it invalid, with one it answers ST_GROUP_BUSY. R233 to R236, R240. HUDDLE_FRAME_RECEIVE: a member's frame of the
present tick for an open instance in which its slot waits is converted and added at once; a frame for no group is counted in HUD_CONFLICT_CNT, one
from no slot in SEQ_FOREIGN_CNT. HUDDLE_MEMBER_DEADLINE: with carries left the instance is carried, counted in HUD_CARRY_CNT; without, its empty
MEMBER slots are absent; the check of its sums, should it close now, meets the upset given. HUDDLE_CHILD_DEADLINE makes its empty CHILD slots absent, raising FS_897 for each. HUDDLE_FENCE_GO fences the unit it names;
HUDDLE_GROUP_MOVE gives its groups to the next ACTIVE unit upward. -/
def Obligations.HuddlesGather : Prop :=
  (∀ (s : State) (h : CmdHdr) (p : List Byte),
      (let d := dequeue s.dev h 0x0201
        let mask := field p 0 4
        let g := hudBody mask p { HGroup.free with valid := true, world := h.world }
        ∀ i, Admitted 0x0201 false false h s.dev → 72 ≤ p.length → mask.testBit 16 = false → firstBad (hudChecks true mask p g) = none → (g.world = true → h.world = true) →
          draining d = false → i < 256 → (hgroupAt d i).valid = false → (∀ j, j < i → (hgroupAt d j).valid = true) →
          exec (.huddleCreate h p) s = .next (s.after (answered (hgroupPut d i g) h 0x0201 p (beBytes 2 i))))
      ∧ (let d := dequeue s.dev h 0x0202
        let mask := field p 0 4
        let i := field p 4 2
        let old := hgroupAt d i
        let g := hudBody mask p old
        let e := (old.epoch + 1) % 65536
        Admitted 0x0202 false false h s.dev → 72 ≤ p.length → mask < 2 ^ 16 → mask.testBit 0 = false → i < 256 → old.valid = true → (old.world = true → h.world = true) →
          firstBad (hudModifyChecks mask p) = none → firstBad (hudChecks false mask p g) = none → hudBusy d i = false →
          exec (.huddleModify h p) s = .next (s.after (answered (hgroupPut d i { g with epoch := e }) h 0x0202 p (beBytes 2 e))))
      ∧ (let d := dequeue s.dev h 0x0203
        let g := hgroupAt d (field p 0 2)
        let bs := hudExport (field p 0 2) g
        Admitted 0x0203 false true h s.dev → p.length = 2 → field p 0 2 < 256 → g.valid = true → (g.world = true → h.world = true) →
          exec (.huddleQuery h p) s = .next (s.after (replyParts d (hdrReply h 0x0203) St.ok (chunksOf 2048 (bs.length + 1) bs))))
      ∧ (let d := dequeue s.dev h 0x0204
        let i := field p 0 2
        Admitted 0x0204 false false h s.dev → p.length = 2 → i < 256 → (hgroupAt d i).valid = true → ((hgroupAt d i).world = true → h.world = true) →
          (hudBusy d i = false → exec (.huddleDestroy h p) s = .next (s.after (answered (hgroupPut d i HGroup.free) h 0x0204 p [])))
          ∧ (hudBusy d i = true → exec (.huddleDestroy h p) s = .next (s.after (reply d (hdrReply h 0x0204) St.groupBusy [])))))
  ∧ (∀ (s : State),
        let d := s.dev
        (∀ (f : HFrame) (rest : List HFrame) (u : Upset),
          let d1 := { d with hud := { d.hud with inQ := rest } }
          let gi := byteAt f.bytes 32
          let g := hgroupAt d gi
          let st := fullTick (tickIdx d) (field f.bytes 36 4)
          running d = true → d.hud.inQ = f :: rest →
          (g.valid = false → exec (.huddleFrameReceive u) s = .next (s.after (bump d1 Reg.HUD_CONFLICT_CNT)))
          ∧ (g.valid = true → fVc f.bytes = 0 → (hudKind f.bytes = 0 ∨ hudKind f.bytes = 1) → (∀ x ∈ g.slots, x.prim ≠ fSrc f.bytes) →
            exec (.huddleFrameReceive u) s = .next (s.after (bump d1 Reg.SEQ_FOREIGN_CNT)))
          ∧ (∀ (sl : SlotE) (more : List SlotE) (x : HInst), g.valid = true → fVc f.bytes = 0 → g.slots = sl :: more → sl.prim = fSrc f.bytes → sl.child = false → hudKind f.bytes = 0 →
            field f.bytes 34 2 = g.epoch → byteAt f.bytes 46 = g.fmt → 8 * (byteAt f.bytes 47 + 1) = hBytes g false → st ≤ tickIdx d + 1 →
            (∀ c ∈ g.closed, c.1 ≠ st) → hinstAt d gi st = some x → x.filled.contains 0 = false → x.absent.contains 0 = false → hudOut d x.unit = false →
            exec (.huddleFrameReceive u) s = .next (s.after (hudFill d1 x 0 false f.bytes u))))
        ∧ (∀ (g : BitVec 8) (start : BitVec 32) (u : Upset) (x : HInst),
          let t := fullTick (tickIdx d) start.toNat
          let e := hudUpset d g.toNat t u
          let hg := hgroupAt d x.group
          alive d = true → hinstAt e g.toNat t = some x →
          (x.start + 1 + x.carries ≤ tickIdx d → hudSlots hg false x ≠ [] →
            (x.carries < hg.carry → exec (.huddleMemberDeadline g ⟨start, u⟩) s = .next (s.after (hudCheck
              (hinstMod (bump e Reg.HUD_CARRY_CNT) x.group x.start (fun y => { y with carries := y.carries + 1 })) g.toNat t)))
            ∧ (hg.carry ≤ x.carries → exec (.huddleMemberDeadline g ⟨start, u⟩) s = .next (s.after (hudCheck
              (hinstMod e x.group x.start (fun y => hudAbsent hg y (hudSlots hg false x))) g.toNat t))))
          ∧ (∀ sl, hudSlots hg true x = [sl] → x.start + 1 + hg.carry + hg.childT ≤ tickIdx d →
            exec (.huddleChildDeadline g ⟨start, u⟩) s = .next (s.after (hudCheck (hinstMod (raise e 897) g.toNat t (fun y => hudAbsent hg y [sl])) g.toNat t))))
        ∧ (∀ who v, BusReady d → reqSecure d who = true → Unlocked d who 0x02C000 → bits v.toNat 4 4 = 1 → bits v.toNat 8 8 = fget d Reg.HUD_CTRL (8, 8) →
          let e := rgPut (consume d who 0x02C000).2 Reg.HUD_CTRL (putBits (rg d Reg.HUD_CTRL) 3 0 (bits v.toNat 3 0))
          exec (.huddleFenceGo who v) s = .next (s.after (hudFence e (bits v.toNat 3 0))))
        ∧ (∀ (u : BitVec 4) (t v : Nat), alive d = true → tget none d.hud.moveAt u.toNat = some t → t < tickIdx d → hudState d u.toNat ≠ 0 →
          ((List.range 15).map (fun i => (u.toNat + 1 + i) % 16)).find? (fun v => decide (hudState d v = 0)) = some v → twf none d.hud.moved = true →
          ∃ e, exec (.huddleGroupMove u) s = .next (s.after e) ∧ (∀ g, g < 256 → hudUnit d g = u.toNat → hudUnit e g = v)
            ∧ (∀ g, g < 256 → hudUnit d g ≠ u.toNat → hudUnit e g = hudUnit d g) ∧ { e with hud := { e.hud with moved := d.hud.moved, moveAt := d.hud.moveAt } } = d))

/-- R251, R255, R256, R258. BELL_WORD_SEND on a link on which words flow: the word carries the time of sending in 2^-8 ns (48 bits), the time of the
last word received and the delay since (24 bits), the sequence and whether there was one; it is the body of a BELL message (R399), and the sequence
advances. BELL_WORD_RECEIVE of a word that
echoes ours: the delay in is half the round trip with the link's asymmetry, the offset is what remains; the exchange is counted, and BELL_LINK_DELAY
holds the median of the last 16 delays, which LINK_STATUS.long_reach compares with 500 ns (R401); an offset to follow changes BELL_INC by no more than
200 ppm, on the side that lowers it, and by 200 ppm beyond 1,000 ns. R260, R261, R263,
R264, R268. The bell's happenings. PPS_EDGE: BELL_STATUS.pps_seen, and with PPS enabled on a FOLLOWER the signed distance to the nearest whole second
in BELL_PPS_ERR. PPS_MISS: a MASTER in ACQUIRE or LOCKED that missed PPS for three seconds counts it, raises FS_907 and goes to HOLDOVER. PPS_OUT_EDGE drives the
pin high within 2 ns of a whole second, once for it, for 100 ms. TICK_CHANGE_EFFECT at its time puts the new length in force and records it, unless a gate list, an armed step
or a huddle group refuses it: then err and FS_909. STEP_TICK at a step tick raises BELL_STEP_CNT by 1 and appends a STEP entry. -/
def Obligations.BellFollowsItsParent : Prop :=
  (∀ (s : State) (l : Fin 128),
      let d := s.dev
      let x := bellLink d l.val
      (let e := (match x.rx with | some (t, a) => (t, ns256 d - a, 8) | none => (0, 0, 0) : Nat × Nat × Nat);
        alive d = true → bellFlows d l.val = true →
        (x.sent = 0 ∨ x.sent + 128 * max 1 (fget d Reg.BELL_CTRL Fd.BELL_CTRL_xchg) ≤ ns d) →
        let w := beBytes 6 (ns256 d) ++ beBytes 6 e.1 ++ beBytes 3 e.2.1 ++ beBytes 1 (x.seq * 16 + e.2.2)
        exec (.bellWordSend l) s = .next (s.after (emit (sendMessage (bellLinkPut d l.val { x with seq := (x.seq + 1) % 16, sent := ns d }) l.val 1 false w)
          (.bellWord l.val w))))
      ∧ (∀ w : List Byte, alive d = true → bellFlows d l.val = true → bit (byteAt w 15) 3 = true → activeParent d = none → bellState d = 0 →
        let t := ns256 d
        let tx := rebuild48 t (field w 0 6)
        let din := (((t : Int) - (rebuild48 t (field w 6 6) : Nat)) - (field w 12 3 : Nat) + signed 32 (rg d (Reg.BELL_LINK_ASYM l.val))) / 2
        let dIn := (x.dIn ++ [din]).drop (x.dIn.length + 1 - 16)
        ∃ e, exec (.bellWordReceive l w) s = .next (s.after e)
          ∧ bellLink e l.val = { x with rx := some (tx, t), dIn := dIn, off := (x.off ++ [(t : Int) - (tx : Nat) - din]).drop (x.off.length + 1 - 16) }
          ∧ rg e (Reg.BELL_LINK_DELAY l.val) = unsigned 32 (median dIn) ∧ rg e Reg.BELL_XCHG_CNT = satInc (rg d Reg.BELL_XCHG_CNT) 1
          ∧ fbit e (Reg.LINK_STATUS l.val) Fd.LINK_STATUS_long_reach = decide (500 * 256 < signed 32 (unsigned 32 (median dIn)))
          ∧ (∀ r, r ≠ Reg.BELL_LINK_DELAY l.val → r ≠ Reg.BELL_XCHG_CNT → r ≠ Reg.LINK_STATUS l.val → rg e r = rg d r)
          ∧ { e with regs := d.regs, bell := { e.bell with links := d.bell.links } } = d)
      ∧ (∀ off : Int, incMin ≤ rg (steer d off) Reg.BELL_INC ∧ rg (steer d off) Reg.BELL_INC ≤ incMax ∧ (0 < off → rg (steer d off) Reg.BELL_INC < incNom)
        ∧ (off < 0 → incNom < rg (steer d off) Reg.BELL_INC) ∧ (1000 * 256 < off → rg (steer d off) Reg.BELL_INC = incMin)
        ∧ (off < -(1000 * 256) → rg (steer d off) Reg.BELL_INC = incMax)))
  ∧ (∀ (s : State),
        let d := s.dev
        (alive d = true → ppsEn d = true → isMaster d = false →
          let sec := 256 * 1000000000
          let r := ns256 d % sec
          ∃ e, exec .ppsEdge s = .next (s.after e) ∧ rg e Reg.BELL_PPS_ERR = unsigned 32 (if 2 * r < sec then (r : Int) else (r : Int) - sec)
            ∧ fbit e Reg.BELL_STATUS Fd.BELL_STATUS_pps_seen = true ∧ OnlyRegs [Reg.BELL_STATUS, Reg.BELL_PPS_ERR] d e)
        ∧ (alive d = true → ppsEn d = true → isMaster d = true → (bellState d = 1 ∨ bellState d = 2) → d.bell.ppsSeen + 3000000000 ≤ ns d →
          exec .ppsMiss s = .next (s.after (holdover (bellEntry (unitFault (bump d Reg.BELL_PPS_MISS_CNT) Reg.BELL_FAULT Fd.BELL_FAULT_pps_missing 907) 4 (d.bell.ppsAt.getD 0)))))
        ∧ (alive d = true → fbit d Reg.BELL_CTRL Fd.BELL_CTRL_pps_out_en = true →
          let sec := (ns d + 2) / 1000000000
          d.bell.ppsSec ≠ some sec → ns d ≤ sec * 1000000000 + 2 →
          exec .ppsOutEdge s = .next (s.after (emit { d with bell := { d.bell with ppsOut := some (sec * 1000000000 + 100000000), ppsSec := some sec } } (.pps true))))
        ∧ (∀ (sel t : Nat), alive d = true → d.bell.tickArm = some (sel, t) → t ≤ ns d → sel ≤ 5 →
          let e := fset { d with bell := { d.bell with tickArm := none } } Reg.BELL_TICK Fd.BELL_TICK_pend 0
          ((∀ g ∈ d.hud.groups, g.2.valid = false) → (∀ p ∈ List.range 128, fbit d (Reg.TM_GATE_STATUS p) Fd.TM_GATE_STATUS_en = false) → stepArmed d = false →
            let f := fset e Reg.BELL_TICK Fd.BELL_TICK_sel sel
            exec .tickChangeEffect s = .next (s.after (bellEntry { f with clk := { f.clk with ticked := t / tickOf sel, slotTick := t / tickOf sel } } 0 (tickOf sel) (some t)))
              ∧ tickLen f = tickOf sel)
          ∧ (stepArmed d = true →
            exec .tickChangeEffect s = .next (s.after (unitFault (fset e Reg.BELL_TICK Fd.BELL_TICK_err 1) Reg.BELL_FAULT Fd.BELL_FAULT_tick_refused 909))))
        ∧ (∀ (p o : Nat), alive d = true → d.bell.stepIn = some (p, o) → stepArmed d = true → 0 < p → o / tickLen d ≤ tickIdx d → (tickIdx d - o / tickLen d) % p = 0 → d.bell.stepAt ≠ some (tickIdx d) →
          let c := (rg d Reg.BELL_STEP_CNT + 1) % 2 ^ 32
          let e := rgPut d Reg.BELL_STEP_CNT c
          let f := append e 0x08 0 0 c (beBytes 4 c ++ beBytes 2 (fwMajor e (runningSlot e)) ++ beBytes 4 (fwBuild e (runningSlot e))
            ++ beBytes 1 (fget e Reg.BELL_TICK Fd.BELL_TICK_sel) ++ beBytes 4 (mapCrc e) ++ beBytes 4 (rg e Reg.BELL_TT_ID))
          exec .stepTick s = .next (s.after { f with bell := { f.bell with stepAt := some (tickIdx f), stepIn := match f.bell.stepNext with | some x => some x | none => f.bell.stepIn, stepNext := none } })))

/-- R254, R263, R264, R275. Writes of the bell's registers by a secure requester. BELL_ENABLE: a FOLLOWER or a MASTER with PPS goes from FREE to
ACQUIRE, a MASTER without PPS to LOCKED; a write of 0 goes to FREE at the nominal increment. BELL_SET_GO in FREE, before any link was admitted, loads
the counter, whose boundaries before the new time are past (the model's choice, log 36). BELL_TICK_GO with a length that exists and a time that is a multiple of 8,192 ns more than 8,192 ns away arms the change; BELL_STEP_ARM
with an origin that is a whole multiple of the tick arms the steps, with another origin it leaves arm 0 and sets err; BELL_STEP_ORIGIN_WRITE while not
armed takes its value. -/
def Obligations.BellRegisterWrites : Prop :=
  ∀ (s : State) (who : Req) (v : Word),
    let d := s.dev
    BusReady d → reqSecure d who = true →
    (bits v.toNat 4 4 = 1 → bits v.toNat 5 5 = 0 → fget d Reg.BELL_CTRL (4, 4) = 0 → bits v.toNat 7 6 = fget d Reg.BELL_CTRL (7, 6) → bits v.toNat 15 8 = fget d Reg.BELL_CTRL (15, 8) →
      ∃ e, exec (.bellEnable who v) s = .next (s.after e) ∧ bellState e = (if isMaster e = true ∧ ppsEn e = false then 2 else 1) ∧ fget e Reg.BELL_CTRL (4, 4) = 1
        ∧ fget e Reg.BELL_CTRL (1, 0) = bits v.toNat 1 0)
    ∧ (bits v.toNat 4 4 = 0 → bits v.toNat 5 5 = 0 → fget d Reg.BELL_CTRL (4, 4) = 1 →
      ∃ e, exec (.bellEnable who v) s = .next (s.after e) ∧ bellState e = 0 ∧ rg e Reg.BELL_INC = incNom)
    ∧ (Unlocked d who 0x01C000 → bits v.toNat 5 5 = 1 → bits v.toNat 4 4 = 0 → fget d Reg.BELL_CTRL (4, 4) = 0 → bellState d = 0 → d.clk.inUse = false →
      let t := rg64 d Reg.BELL_SET_0 * 2 ^ 32 % 2 ^ 96
      ∃ e, exec (.bellSetGo who v) s = .next (s.after e) ∧ e.clk = { d.clk with now := t, ticked := t / 2 ^ 32 / tickLen d }
        ∧ e.bell = { d.bell with ppsOut := d.bell.ppsOut.map (fun x => x + t / 2 ^ 32 - ns d), ppsSec := none, stepAt := some (t / 2 ^ 32 / tickLen d), ppsSeen := e.bell.ppsSeen })
    ∧ (Unlocked d who 0x01C000 → bits v.toNat 3 3 = 1 → bits v.toNat 6 4 ≤ 5 → rg64 d Reg.BELL_TICK_AT_0 % 8192 = 0 → ns d + 8192 < rg64 d Reg.BELL_TICK_AT_0 →
      ∃ e, exec (.bellTickGo who v) s = .next (s.after e) ∧ e.bell = { d.bell with tickArm := some (bits v.toNat 6 4, rg64 d Reg.BELL_TICK_AT_0) }
        ∧ fbit e Reg.BELL_TICK Fd.BELL_TICK_pend = true ∧ tickLen e = tickLen d)
    ∧ (v.msb = true → fbit d Reg.BELL_STEP_CTRL Fd.BELL_STEP_CTRL_arm = false →
      (rg64 d Reg.BELL_STEP_ORIGIN_0 % tickLen d = 0 →
        ∃ e, exec (.bellStepArm who v) s = .next (s.after e) ∧ stepArmed e = true ∧ e.bell = { d.bell with stepIn := some (max 1 (bits v.toNat 19 0), rg64 d Reg.BELL_STEP_ORIGIN_0), stepNext := none, stepAt := some (tickIdx d) })
      ∧ (rg64 d Reg.BELL_STEP_ORIGIN_0 % tickLen d ≠ 0 →
        ∃ e, exec (.bellStepArm who v) s = .next (s.after e) ∧ stepArmed e = false ∧ fbit e Reg.BELL_STEP_CTRL Fd.BELL_STEP_CTRL_err = true ∧ e.bell = d.bell))
    ∧ (let low := (tget none d.bus.held (busKey who Reg.BELL_STEP_ORIGIN_0)).getD (rg d Reg.BELL_STEP_ORIGIN_0)
      stepArmed d = false → low < 2 ^ 32 →
      ∃ e, exec (.bellStepOriginWrite who v) s = .next (s.after e) ∧ rg64 e Reg.BELL_STEP_ORIGIN_0 = low + 2 ^ 32 * v.toNat ∧ e.bell = d.bell)

/-- R270, R487. REPLAY_START over a region of the requester's world, while no replay is active: the region's entries of the step range are replayed
with the offset given, and REPLAY_CTRL.active is 1; while one is active it answers ST_REPLAY_BUSY. REPLAY_STOP ends the replay. -/
def Obligations.ReplayCommands : Prop :=
  ∀ (s : State) (h : CmdHdr) (p : List Byte),
    (let d := dequeue s.dev h 0x0610
      ∀ n r, Admitted 0x0610 false false h s.dev → p.length = 28 → regionOf d (field p 0 4) = some (n, r) → r.secure = h.world → field p 24 4 = 0 →
        (replayActive d = false →
          ∃ e, exec (.replayStart h p) s = .next (s.after (answered e h 0x0610 p [])) ∧ replayActive e = true
            ∧ e.bell = { d.bell with replay := (walkEntries d r (d.mem.hbm.length + 1) 0).filter (fun x => decide (field p 4 6 ≤ field x 4 6 ∧ field x 4 6 ≤ field p 10 6)),
                                     repOff := signed 64 (field p 16 8), repDone := [], repRegion := field p 0 4 })
        ∧ (replayActive d = true → exec (.replayStart h p) s = .next (s.after (reply d (hdrReply h 0x0610) St.replayBusy []))))
    ∧ (let d := dequeue s.dev h 0x0611
      Admitted 0x0611 false false h s.dev → p = [] →
        ∃ e, exec (.replayStop h p) s = .next (s.after (answered e h 0x0611 p [])) ∧ replayActive e = false ∧ e.bell = { d.bell with replay := [], repDone := [], repRegion := 0 })

/-- R362, R365. ROLL_CALL when the audit is due: each pool's free + held − (total − retired) stands in its DIFF register; a value other than 0 sets
diff_seen, is counted and raises FS_944. POOL_BANK_FETCH: a bank below 64 pointers takes 64 (what the ring has, where that is less) from the ring, one
above 192 gives 64 back, and nothing else changes. -/
def Obligations.PoolsAreAudited : Prop :=
  ∀ (s : State),
    let d := s.dev
    (let a := ((poolFree d.mem.sram + d.mem.sram.used.foldl (· + ·) 0 : Nat) : Int) - ((sramTotal : Int) - d.mem.sram.retired)
      let b := ((poolFree d.mem.hpool + d.mem.hpool.used.foldl (· + ·) 0 : Nat) : Int) - ((hpoolTotal : Int) - d.mem.hpool.retired)
      alive d = true → fbit d Reg.MEM_CTRL Fd.MEM_CTRL_rollcall_en = true → d.mem.callAt + max 1 (fget d Reg.MEM_ROLLCALL Fd.MEM_ROLLCALL_interval) ≤ tickIdx d →
      ∃ e, exec .rollCall s = .next (s.after e) ∧ rg e Reg.MEM_ROLLCALL_DIFF = unsigned 32 a ∧ rg e Reg.MEM_HROLLCALL_DIFF = unsigned 32 b ∧ e.mem = { d.mem with callAt := tickIdx d }
        ∧ (a = 0 → b = 0 → OnlyRegs [Reg.MEM_ROLLCALL_DIFF, Reg.MEM_HROLLCALL_DIFF] { d with mem := { d.mem with callAt := tickIdx d } } e)
        ∧ (a ≠ 0 ∨ b ≠ 0 → fbit e Reg.MEM_ROLLCALL Fd.MEM_ROLLCALL_diff_seen = true
          ∧ rg e Reg.MEM_ROLLCALL_CNT = satInc (rg d Reg.MEM_ROLLCALL_CNT) ((if a = 0 then 0 else 1) + (if b = 0 then 0 else 1))
          ∧ (srcOf e 944).count = satInc (srcOf d 944).count ((if a = 0 then 0 else 1) + (if b = 0 then 0 else 1))))
    ∧ (∀ (bank : BitVec 4), alive d = true →
      let c := d.mem.sram.banks.getD bank.toNat 0
      let h := d.mem.hpool.banks.getD bank.toNat 0
      exec (.poolBankFetch false bank) s = .next (s.after { d with mem := { d.mem with sram :=
          if c < 64 then { d.mem.sram with banks := d.mem.sram.banks.modify bank.toNat (· + min 64 d.mem.sram.ring), ring := d.mem.sram.ring - min 64 d.mem.sram.ring }
          else if 192 < c then { d.mem.sram with banks := d.mem.sram.banks.modify bank.toNat (· - 64), ring := d.mem.sram.ring + 64 } else d.mem.sram } })
      ∧ exec (.poolBankFetch true bank) s = .next (s.after { d with mem := { d.mem with hpool :=
          if h < 64 then { d.mem.hpool with banks := d.mem.hpool.banks.modify bank.toNat (· + min 64 d.mem.hpool.ring), ring := d.mem.hpool.ring - min 64 d.mem.hpool.ring }
          else if 192 < h then { d.mem.hpool with banks := d.mem.hpool.banks.modify bank.toNat (· - 64), ring := d.mem.hpool.ring + 64 } else d.mem.hpool } }))

/-- R358, R375, R377, R383. READ answers a line: its bytes, poisoned where the line is; a read whose errors cannot be corrected poisons the line,
counts it, raises the stack's source and has its row remapped. WRITE changes the masked bytes of its line and no other byte of HBM; a write of the
whole line clears its poison. INIT_ZERO writes zeros to the masked elements and no other byte. READ_CHECK is READ, and a line that is poisoned or
differs from its shadow word sets add_check. No access reaches a FENCED stack. -/
def Obligations.LinesAreReadAndWritten : Prop :=
  ∀ (s : State) (a : HLine),
    let d := s.dev
    let x := lineId a
    running d = true →
    (exec (.read a []) s = .next (s.after (answer d x (lineBytes d x) (poisoned d x) 0)))
    ∧ (∀ errs, poisoned d x = false →
      (∀ w n, memDecode (errWord errs) = .corrected w n → tget 0 d.mem.rowCe (rowKey x) + n < 16 →
        ∃ e, exec (.read a errs) s = .next (s.after e) ∧ e.mem.resp = some ⟨x, xorLine (lineBytes d x) w, false, 0⟩ ∧ rg e (Reg.HBM_CE_CNT a.stack.toNat) = satInc (rg d (Reg.HBM_CE_CNT a.stack.toNat)) 1
          ∧ (∀ k, tget Config.hbmFill e.mem.hbm k
              = if k / 64 = x ∧ fbit d Reg.MEM_CTRL Fd.MEM_CTRL_scrub_en = true then (xorLine (lineBytes d x) w).getD (k % 64) 0 else tget Config.hbmFill d.mem.hbm k)
          ∧ (∀ r, r ≠ Reg.HBM_CE_CNT a.stack.toNat → rg e r = rg d r))
      ∧ (memDecode (errWord errs) = .bad →
        exec (.read a errs) s = .next (s.after (answer (remapRow (unitFault (bump (setPoison d x true) (Reg.HBM_UE_CNT a.stack.toNat)) (Reg.HBM_STK_FAULT a.stack.toNat)
          Fd.HBM_STK_FAULT_ue (928 + a.stack.toNat)) x) x (lineBytes d x) true 0))))
    ∧ (∀ (mask : BitVec 64) (data : List Byte), stkFenced d a.stack.toNat = false →
      ∃ e, exec (.write a mask data) s = .next (s.after e)
        ∧ (∀ k, tget Config.hbmFill e.mem.hbm k = if k / 64 = x ∧ mask.toNat.testBit (k % 64) = true then data.getD (k % 64) 0 else tget Config.hbmFill d.mem.hbm k)
        ∧ (∀ y, tget false e.mem.poison y = if y = x ∧ mask = BitVec.allOnes 64 then false else tget false d.mem.poison y)
        ∧ { e with mem := { e.mem with hbm := d.mem.hbm, poison := d.mem.poison, resp := d.mem.resp } } = d)
    ∧ (∀ (mask : BitVec 16) (wide : Bool), stkFenced d a.stack.toNat = false →
      ∃ e, exec (.initZero a mask wide) s = .next (s.after e)
        ∧ (∀ k, tget Config.hbmFill e.mem.hbm k = if k / 64 = x ∧ mask.toNat.testBit (k % 64 / (if wide then 8 else 4)) = true then 0 else tget Config.hbmFill d.mem.hbm k)
        ∧ { e with mem := { e.mem with hbm := d.mem.hbm, poison := d.mem.poison, shadow := d.mem.shadow, resp := d.mem.resp } } = d)
    ∧ (∀ (mask : BitVec 64) (data : List Byte), stkFenced d a.stack.toNat = true → exec (.write a mask data) s = .next (s.after (answer d x [] false 0)))
    ∧ (exec (.readCheck a []) s = .next (s.after (
        if poisoned d x = true ∨ shadowOf (lineBytes d x) ≠ tget 0 d.mem.shadow x then
          answer (unitFault d (Reg.HBM_STK_FAULT a.stack.toNat) Fd.HBM_STK_FAULT_add_check (928 + a.stack.toNat)) x (lineBytes d x) true 0
        else answer d x (lineBytes d x) false 0)))

/-- R375, R377, R378. The memory-side adders on a sound line of a stack that is not FENCED: each masked element becomes its sum with the element of
the request, by the opcode's own sum, the others and every other line keep their bytes, and the reply holds the OR of the flags. ADD_KZ64 renews the
shadow word; one numbered above 256 is not performed and sets add_limit; adders that differ poison the line and set add_check. -/
def Obligations.AddsReachTheirElements : Prop :=
  ∀ (s : State) (a : HLine) (data : List Byte),
    let d := s.dev
    let x := lineId a
    let sum := fun (n mask : Nat) (f : Nat → Nat → Nat × Nat) (i : Nat) =>
      if mask.testBit i then f (field (lineBytes d x) (n * i) n) (field data (n * i) n) else (field (lineBytes d x) (n * i) n, 0)
    let line := fun (n mask : Nat) (f : Nat → Nat → Nat × Nat) => (List.range (64 / n)).flatMap (fun i => beBytes n (sum n mask f i).1)
    let flags := fun (n mask : Nat) (f : Nat → Nat → Nat × Nat) => (List.range (64 / n)).foldr (fun i r => (sum n mask f i).2 ||| r) 0
    let plain := fun (e : Dev) (n mask : Nat) (f : Nat → Nat → Nat × Nat) =>
      lineBytes e x = line n mask f ∧ (∀ k, k / 64 ≠ x → tget Config.hbmFill e.mem.hbm k = tget Config.hbmFill d.mem.hbm k)
        ∧ e.mem.resp = some ⟨x, [], false, flags n mask f⟩
        ∧ { e with mem := { e.mem with hbm := d.mem.hbm, poison := d.mem.poison, shadow := d.mem.shadow, resp := d.mem.resp } } = d
    running d = true → stkFenced d a.stack.toNat = false →
    (poisoned d x = false →
      (∀ m : BitVec 16, ∃ e, exec (.addKf32 a m data false) s = .next (s.after e) ∧ plain e 4 m.toNat addKf32Word)
      ∧ (∀ m : BitVec 16, ∃ e, exec (.addKi32 a m data false) s = .next (s.after e) ∧ plain e 4 m.toNat (fun u v => satInt 32 (signed 32 u + signed 32 v)))
      ∧ (∀ m : BitVec 8, ∃ e, exec (.addKi64 a m data false) s = .next (s.after e) ∧ plain e 8 m.toNat (fun u v => satInt 64 (signed 64 u + signed 64 v)))
      ∧ (∀ (m : BitVec 8) (n : BitVec 10), n.toNat ≤ 256 → shadowOf (lineBytes d x) = tget 0 d.mem.shadow x →
        ∃ e, exec (.addKz64 a m data n false) s = .next (s.after e) ∧ plain e 8 m.toNat (fun u v => (kz64Word (kzAdd (kz64Of u) (kz64Of v)), (kzAdd (kz64Of u) (kz64Of v)).inv))
          ∧ tget 0 e.mem.shadow x = shadowOf (lineBytes e x)))
    ∧ (∀ (m : BitVec 8) (n : BitVec 10) (b : Bool), 256 < n.toNat →
      exec (.addKz64 a m data n b) s = .next (s.after (unitFault d (Reg.HBM_STK_FAULT a.stack.toNat) Fd.HBM_STK_FAULT_add_limit (928 + a.stack.toNat))))
    ∧ (∀ (m : BitVec 16), ∃ e, exec (.addKi32 a m data true) s = .next (s.after e) ∧ tget false e.mem.poison x = true ∧ fbit e (Reg.HBM_STK_FAULT a.stack.toNat) Fd.HBM_STK_FAULT_add_check = true)

/-- R380, R383, R384, R385. SCRUB_PASS, once per period, reads the lines of regions under scrub. HBM_TEMP_SAMPLE takes a stack from NORMAL to WARM,
HOT and CRITICAL at its thresholds, back with 3 °C of hysteresis, and to FENCED at 95 °C. EVAC_RETRY looks for a destination on NORMAL and then WARM
stacks. EVAC_SHARE_DONE gives the share's way to its destination, which reads as the source read, and changes no byte outside the destination. -/
def Obligations.StacksAreTended : Prop :=
  ∀ (s : State),
    let d := s.dev
    (∀ (k : BitVec 4) (l : Fin 1342177280) (es : List SymErr), running d = true → fbit d Reg.MEM_CTRL Fd.MEM_CTRL_scrub_en = true → stkFenced d k.toNat = false →
      tget 0 d.mem.scrubAt k.toNat + max 1 (fget d Reg.MEM_SCRUB Fd.MEM_SCRUB_hours) * 3600000000000 ≤ ns d →
      let e := { d with mem := { d.mem with scrubAt := tset 0 d.mem.scrubAt k.toNat (ns d), rowCe := d.mem.rowCe.filter (fun c => c.1 / (64 * 1310720) ≠ k.toNat) } }
      exec (.scrubPass k []) s = .next (s.after e)
      ∧ (scrubbed e (k.toNat * stackLines + l.val) = true → exec (.scrubPass k [(l, es)]) s = .next (s.after (readLine e (k.toNat * stackLines + l.val) es).2)))
    ∧ (∀ (k : BitVec 4) (t : BitVec 8), alive d = true →
      let warm := fget d Reg.MEM_THERM_CFG Fd.MEM_THERM_CFG_warm
      let hot := fget d Reg.MEM_THERM_CFG Fd.MEM_THERM_CFG_hot
      let crit := fget d Reg.MEM_THERM_CFG Fd.MEM_THERM_CFG_crit
      let n := t.toNat
      let e := fset d (Reg.HBM_STK_STATUS k.toNat) Fd.HBM_STK_STATUS_temp n
      let into := fun x => fset e (Reg.HBM_STK_STATUS k.toNat) Fd.HBM_STK_STATUS_state x
      let flt := fun (d : Dev) f => unitFault d (Reg.HBM_STK_FAULT k.toNat) f (928 + k.toNat)
      warm < hot → hot < crit → crit ≤ 94 →
      (95 ≤ n → stkState d k.toNat ≠ 4 → exec (.hbmTempSample k t) s = .next (s.after (fenceStack e k.toNat)))
      ∧ (stkState d k.toNat = 4 ∨ (stkState d k.toNat = 3 ∧ n < 95) → exec (.hbmTempSample k t) s = .next (s.after e))
      ∧ (crit ≤ n → n < 95 → stkState d k.toNat < 3 → exec (.hbmTempSample k t) s = .next (s.after (fenceBegin (flt (into 3) Fd.HBM_STK_FAULT_critical) k.toNat)))
      ∧ (hot ≤ n → n < crit → stkState d k.toNat < 2 → exec (.hbmTempSample k t) s = .next (s.after (evacStack (flt (into 2) Fd.HBM_STK_FAULT_hot) k.toNat .hot)))
      ∧ (hot ≤ n + 3 → n < crit → stkState d k.toNat = 2 → exec (.hbmTempSample k t) s = .next (s.after e))
      ∧ (warm ≤ n → n < hot → stkState d k.toNat < 2 → exec (.hbmTempSample k t) s = .next (s.after (into 1)))
      ∧ (n < warm → warm ≤ n + 3 → stkState d k.toNat = 1 → exec (.hbmTempSample k t) s = .next (s.after (into 1)))
      ∧ (n < warm → stkState d k.toNat = 0 → exec (.hbmTempSample k t) s = .next (s.after (into 0)))
      ∧ (n + 3 < warm → stkState d k.toNat = 1 → exec (.hbmTempSample k t) s = .next (s.after (into 0))))
    ∧ (∀ v : Evac, alive d = true → d.mem.evacs = [v] → v.dest = none →
      let same := match v.why with | .retire _ => true | _ => false
      exec .evacRetry s = .next (s.after { d with mem := { d.mem with evacs := [{ v with dest := evacDest d (evacSrc d v) (runLen (regionAt d v.region)) same [0, 1] }] } }))
    ∧ (∀ (i : BitVec 12) (w : BitVec 4) (v : Evac) (t : Nat × Nat), alive d = true → twf Config.hbmFill d.mem.hbm = true → d.mem.evacs = [v] → v.region = i.toNat → v.way = w.toNat → v.dest = some t → v.why = .hot →
      let r := regionAt d i.toNat
      let n := 64 * (runLen r * granLines)
      let a := 64 * ((r.ways.getD w.toNat (0, 0)).1 * stackLines + (r.ways.getD w.toNat (0, 0)).2 * granLines)
      let b := 64 * (t.1 * stackLines + t.2 * granLines)
      tget false d.mem.fencing (r.ways.getD w.toNat (0, 0)).1 = false →
      ∃ e, exec (.evacShareDone i w) s = .next (s.after e) ∧ regionAt e i.toNat = { r with ways := r.ways.set w.toNat t } ∧ e.mem.evacs = []
        ∧ rg e Reg.MEM_EVAC_CNT = satInc (rg d Reg.MEM_EVAC_CNT) 1
        ∧ (∀ k, tget Config.hbmFill e.mem.hbm k = if b ≤ k ∧ k < b + n then tget Config.hbmFill d.mem.hbm (a + (k - b)) else tget Config.hbmFill d.mem.hbm k)
        ∧ (∀ j, j ≠ i.toNat → regionAt e j = regionAt d j))

/-- R390, R391. MEM_QUOTA_WRITE and MEM_THERM_CFG_WRITE by a secure requester: a quota that keeps the sum of the four within 1,024 MiB, and thresholds
with warm < hot < crit ≤ 94, take their values; any other write leaves the fields and sets err, which a written 1 clears in a write that takes effect.
Nothing else changes but the requester's unlock, which the write consumes. The fields reset to the values of R390 and R391, and at 95 °C a stack is
fenced whatever the thresholds. -/
def Obligations.MemoryLimitsAreKept : Prop :=
  ∀ (s : State) (who : Req) (v : Word),
    let d := s.dev
    let st := Reg.BLK_STATUS (blkBase Reg.MEM_CTRL)
    BusReady d → reqSecure d who = true →
    (∀ k : BitVec 2,
      let others := ((List.range 4).filter (· ≠ k.toNat)).foldl (fun a j => a + fget d (Reg.MEM_QUOTA j) Fd.MEM_QUOTA_quota) 0
      ∃ e, exec (.memQuotaWrite who k v) s = .next (s.after e) ∧ OnlyRegs [Reg.MEM_QUOTA k.toNat, st] d e
        ∧ (others + bits v.toNat 10 0 ≤ 1024 → fget e (Reg.MEM_QUOTA k.toNat) Fd.MEM_QUOTA_quota = bits v.toNat 10 0
          ∧ fbit e (Reg.MEM_QUOTA k.toNat) Fd.MEM_QUOTA_err = (fbit d (Reg.MEM_QUOTA k.toNat) Fd.MEM_QUOTA_err && !v.msb))
        ∧ fget e (Reg.MEM_QUOTA k.toNat) (30, 11) = fget d (Reg.MEM_QUOTA k.toNat) (30, 11)
        ∧ (1024 < others + bits v.toNat 10 0 → fget e (Reg.MEM_QUOTA k.toNat) Fd.MEM_QUOTA_quota = fget d (Reg.MEM_QUOTA k.toNat) Fd.MEM_QUOTA_quota
          ∧ fbit e (Reg.MEM_QUOTA k.toNat) Fd.MEM_QUOTA_err = true))
    ∧ (∃ e, exec (.memThermCfgWrite who v) s = .next (s.after e) ∧ OnlyRegs [Reg.MEM_THERM_CFG, st] d e
        ∧ (bits v.toNat 7 0 < bits v.toNat 15 8 ∧ bits v.toNat 15 8 < bits v.toNat 23 16 ∧ bits v.toNat 23 16 ≤ 94 → fget e Reg.MEM_THERM_CFG (23, 0) = bits v.toNat 23 0
          ∧ fbit e Reg.MEM_THERM_CFG Fd.MEM_THERM_CFG_err = (fbit d Reg.MEM_THERM_CFG Fd.MEM_THERM_CFG_err && !v.msb))
        ∧ fget e Reg.MEM_THERM_CFG (30, 24) = fget d Reg.MEM_THERM_CFG (30, 24)
        ∧ (¬(bits v.toNat 7 0 < bits v.toNat 15 8 ∧ bits v.toNat 15 8 < bits v.toNat 23 16 ∧ bits v.toNat 23 16 ≤ 94) →
          fget e Reg.MEM_THERM_CFG (23, 0) = fget d Reg.MEM_THERM_CFG (23, 0) ∧ fbit e Reg.MEM_THERM_CFG Fd.MEM_THERM_CFG_err = true))
    ∧ (∀ (k : BitVec 4) (t : BitVec 8), 95 ≤ t.toNat → stkState d k.toNat ≠ 4 →
      exec (.hbmTempSample k t) s = .next (s.after (fenceStack (fset d (Reg.HBM_STK_STATUS k.toNat) Fd.HBM_STK_STATUS_temp t.toNat) k.toNat)))
    ∧ (List.range 4).map (fun k => rg State.reset.dev (Reg.MEM_QUOTA k)) = [0x180, 0x200, 0x060, 0x020] ∧ rg State.reset.dev Reg.MEM_THERM_CFG = 0x005D5A55

/-- R368, R371, R372, R375, R504. The region commands, once admitted. REGION_CREATE places a region at the lowest free descriptor and answers its
handle, or a status where it cannot. REGION_DESTROY frees one that nothing uses and raises its generation. REGION_QUERY answers the descriptor.
REGION_WRITE stores the bytes of its part, which joins the command's one entry of the record, and the last part is answered with the bytes of all; REGION_READ answers the region's bytes. REGION_ADD adds word by word. A stale handle is answered
ST_NO_REGION, and one with a reserved bit set ST_MALFORMED. -/
def Obligations.RegionCommands : Prop :=
  ∀ (s : State) (h : CmdHdr) (p : List Byte) (r0 : Region),
    (let d := dequeue s.dev h 0x0501
      ∀ i, Admitted 0x0501 false false h s.dev → p.length = 8 → 1 ≤ field p 0 4 → field p 0 4 ≤ 655360 → byteAt p 4 ≤ 8 → byteAt p 4 ≠ 3 → byteAt p 5 ≤ 16 → byteAt p 6 &&& 0xCF = 0 → byteAt p 7 ≤ 1 →
        (byteAt p 7 = 1 → h.world = true) → freeRegion d = some i →
        (∀ e, placeRegion d i (byteAt p 7 = 1) (bit (byteAt p 6) 5) (bit (byteAt p 6) 4) (byteAt p 4) (field p 0 4) (byteAt p 5) = some e →
          exec (.regionCreate h p) s = .next (s.after (answered e h 0x0501 p (beBytes 4 (handleOf e i)))))
        ∧ (placeRegion d i (byteAt p 7 = 1) (bit (byteAt p 6) 5) (bit (byteAt p 6) 4) (byteAt p 4) (field p 0 4) (byteAt p 5) = none →
          exec (.regionCreate h p) s = .next (s.after (reply d (hdrReply h 0x0501) St.noHbmSpace []))))
    ∧ (let d := dequeue s.dev h 0x0502
      ∀ i r, Admitted 0x0502 false false h s.dev → p.length = 4 → regionOf d (field p 0 4) = some (i, r) → 16 ≤ i → (r.secure = true → h.world = true) → regionInUse d (field p 0 4) i = false →
        ∃ e, exec (.regionDestroy h p) s = .next (s.after (answered e h 0x0502 p [])) ∧ regionAt e i = { Region.free with gen := (r.gen + 1) % 65536 } ∧ (∀ j, j ≠ i → regionAt e j = regionAt d j)
          ∧ (∀ k, tget Config.hbmFill e.mem.hbm k = tget Config.hbmFill d.mem.hbm k))
    ∧ (let d := dequeue s.dev h 0x0503
      Admitted 0x0503 false true h s.dev → p.length = 4 →
        (∀ i r, handleOk (field p 0 4) = true → regionOf d (field p 0 4) = some (i, r) → (r.secure = true → h.world = true) → exec (.regionQuery h p) s = .next (s.after (queried d h 0x0503 (descBytes r))))
        ∧ (handleOk (field p 0 4) = false → exec (.regionQuery h p) s = .next (s.after (replyBad d (hdrReply h 0x0503) 2)))
        ∧ (handleOk (field p 0 4) = true → regionOf d (field p 0 4) = none → exec (.regionQuery h p) s = .next (s.after (reply d (hdrReply h 0x0503) St.noRegion []))))
    ∧ (let d := dequeue s.dev h 0x0504
      let key := h.src.toNat * 2 ^ 32 + h.tag.toNat
      ∀ i r, Admitted 0x0504 false false h s.dev → p.length = 16 + field p 12 4 → field p 12 4 ≤ 2048 → regionOf d (field p 0 4) = some (i, r) → (r.secure = true → h.world = true) →
        field p 4 8 + field p 12 4 ≤ regionBytes r → tget 0 d.cmd.rwBad key = 0 →
        let e := recordPart (regionWrite d r (field p 4 8) (p.drop 16)) h 0x0504 p
        let n := tget 0 d.cmd.rwrite key + field p 12 4
        exec (.regionWrite h p true) s = .next (s.after (replyLate { e with cmd := { e.cmd with rwrite := tset 0 e.cmd.rwrite key 0, rwBad := tset 0 e.cmd.rwBad key 0 } }
            (hdrReply h 0x0504) St.ok (beBytes 4 n)))
          ∧ exec (.regionWrite h p false) s = .next (s.after { e with cmd := { e.cmd with rwrite := tset 0 e.cmd.rwrite key n } }))
    ∧ (let d := dequeue s.dev h 0x0505
      let o := field p 4 8
      let n := field p 12 4
      ∀ i r, Admitted 0x0505 false true h s.dev → p.length = 16 → 1 ≤ n → n ≤ 1048576 → regionOf d (field p 0 4) = some (i, r) → (r.secure = true → h.world = true) → o + n ≤ regionBytes r →
        (∀ j ∈ List.range n, poisoned d (regionLine r (o + j)) = false) →
        exec (.regionRead h p) s = .next (s.after (replyParts { d with free := d.free + 1 } (hdrReply h 0x0505) St.ok ((List.range (ceilDiv n 2048)).map (fun i =>
          beBytes 8 (o + 2048 * i) ++ beBytes 4 (min 2048 (n - 2048 * i)) ++ regionRead d r (o + 2048 * i) (min 2048 (n - 2048 * i)))))))
    ∧ (let d := dequeue s.dev h 0x0506
      let o := field p 4 8
      let len := field p 16 4
      let n := if byteAt p 12 = 6 then 8 else 4
      let w := fun i =>
        let u := field (regionRead d r0 o len) (n * i) n;
        let v := field (p.drop 20) (n * i) n;
        if byteAt p 12 = 4 then addKf32Word u v else satInt (8 * n) (signed (8 * n) u + signed (8 * n) v)
      ∀ i, Admitted 0x0506 false false h s.dev → p.length = 20 + len → 4 ≤ byteAt p 12 → byteAt p 12 ≤ 6 → field p 13 3 = 0 → len ≤ 2048 → len % n = 0 → o % n = 0 →
        regionOf d (field p 0 4) = some (i, r0) → (r0.secure = true → h.world = true) → o + len ≤ regionBytes r0 → (∀ j ∈ List.range (len / 64 + 2), tget false d.mem.poison (regionLine r0 (o + 64 * j)) = false) →
        exec (.regionAdd h p) s = .next (s.after (answered (regionWrite d r0 o ((List.range (len / n)).flatMap (fun i => beBytes n (w i).1))) h 0x0506 p
          (beBytes 2 ((List.range (len / n)).foldr (fun i f => (w i).2 ||| f) 0)))))

/-- R397, R398, R399, R400, R403, R410. CODEWORD_RECEIVE on a T-link past step 5: a codeword both of whose interleaves decode, counted where it was
corrected, gives its part of the link channel; the one awaited hands over the frames that end in it and keeps the frame that goes on, another is
discarded. One that cannot be corrected is counted, and the first asks for a replay with a NAK that names the last good codeword.
LINK_MESSAGE_RECEIVE: an IDENT at step 6 is recorded and, with no expectation set, ends the step; a BELL message is a bell word; an ack frees the
replay buffer up to the codeword it names; a NAK has the sender go back to the codeword after it, which is counted. -/
def Obligations.CodewordsAndMessages : Prop :=
  ∀ (s : State) (l : Fin 128),
    let d := s.dev
    let x := dynOf d l.val
    (∀ (cw : List Byte) (seq : BitVec 32), alive d = true → l.val < 96 → 6 ≤ linkStep d l.val → linkStep d l.val ≤ 10 →
      let w0 := interleave cw 0
      let w1 := interleave cw 1
      let r := [fecDecode w0, fecDecode w1]
      let n := x.rxNext.getD seq.toNat
      (Decoded.bad ∉ r →
        let b := deinterleave (fixedWord w0 (fecDecode w0)) (fixedWord w1 (fecDecode w1))
        let m := chanTake x.rxMsg seq.toNat ((b.drop 258).take 2)
        let e := dynMod (if ∀ y ∈ r, y = Decoded.clean then d else bump d (Reg.LINK_FEC_CORR_CNT l.val)) l.val (fun y => { y with rxMsg := m.1 })
        let f := if linkCarries d l.val = true then cwRead x b else ([], [], 0)
        let g := if seq.toNat = n then f.1.foldl (fun d f => frameReceive d l.val f.1 f.2) (dynMod e l.val (fun y => { y with
            rxNext := some ((seq.toNat + 1) % 2 ^ 32), nak := false, rxBuf := f.2.1, rxCol := f.2.2, rxCut := y.rxCut && f.1.isEmpty }))
          else e
        exec (.codewordReceive l ⟨cw, seq⟩) s = .next (s.after (m.2.elim g (linkMessage g l.val))))
      ∧ (Decoded.bad ∈ r → x.rxCut = true ∨ x.rxBuf.length < 32 →
        let us := x.uncorr.filter (fun t => decide (ns d < t + 1000000)) ++ [ns d]
        let e := dynPut (bump d (Reg.LINK_FEC_UNCORR_CNT l.val)) l.val { x with uncorr := us, nak := true, rxNext := some n }
        let k := (txSeq d l.val + 15) / 16
        let m := [0, 0x80] ++ beBytes 4 (16 * k % 2 ^ 32) ++ beBytes 4 ((n + 2 ^ 32 - 1) % 2 ^ 32) ++ List.replicate 22 0
        us.length ≤ 64 →
        exec (.codewordReceive l ⟨cw, seq⟩) s = .next (s.after (if x.nak = true ∧ seq.toNat ≠ n then e
          else emit (dynMod e l.val (fun y => { y with chan := some (k, m) })) (.message l.val m)))))
    ∧ (∀ m : List Byte, alive d = true → 6 ≤ linkStep d l.val → linkStep d l.val ≤ 10 → linkEther d l.val = false →
      (byteAt m 0 = 2 → linkStep d l.val = 6 → x.held = false → linkCtl d l.val Fd.LINK_CTRL_expect_en = false → (l.val < 96 → bit (byteAt m 1) 7 = false) →
        ∃ e, exec (.linkMessageReceive l m) s = .next (s.after e) ∧ linkStep e l.val = 7 ∧ rg e (Reg.LINK_PEER l.val) = byteAt ((m.drop 14).take 16) 3 * 2 ^ 24 + field ((m.drop 14).take 16) 0 3
          ∧ rg64 e (Reg.LINK_PEER_SERIAL_0 l.val) = field ((m.drop 14).take 16) 5 8)
      ∧ (byteAt m 0 = 1 → 96 ≤ l.val → exec (.linkMessageReceive l m) s = exec (.bellWordReceive l ((m.drop 14).take 16)) s)
      ∧ (∀ a, byteAt m 0 = 0 → l.val < 96 → ackNext d l.val (field m 6 4) = some a →
        (bit (byteAt m 1) 7 = false →
          ∃ e, exec (.linkMessageReceive l m) s = .next (s.after e) ∧ (dynOf e l.val).txw = x.txw.filter (fun c => decide (a ≤ c.seq)) ∧ { d with lnk := e.lnk, wire := e.wire } = e)
        ∧ (bit (byteAt m 1) 7 = true → (∀ b, x.nakAck = some b → b ≤ a) → (x.naks.filter (fun n => decide (a < n.2))).length < 7 →
          ∃ e, exec (.linkMessageReceive l m) s = .next (s.after e) ∧ rg e (Reg.LINK_REPLAY_CNT l.val) = satInc (rg d (Reg.LINK_REPLAY_CNT l.val)) 1
            ∧ (dynOf e l.val).nakAck = some a ∧ txSeq e l.val = a ∧ (dynOf e l.val).txNext = a ∧ (dynOf e l.val).txw = x.txw.filter (fun c => decide (a ≤ c.seq))
            ∧ OnlyRegs [Reg.LINK_REPLAY_CNT l.val] { d with lnk := e.lnk, wire := e.wire } e)))

/-- R257, R408, R409, R411. Bring-up. BRINGUP_STEP_COMPLETE takes a link from each step to the next, records the polarity of step 3 and the lane order
of step 4, which a T-link takes straight or reversed and a G-link in any order; steps 6 of an ETHERNET link is passed. A step that runs over its time
is counted: below the limit of tries bring-up waits 1 ms, at the limit the link is FAILED and its source is raised. BRINGUP_RESTART starts again at
step 1 where bring-up may run. LINK_ADMIT puts a link with its delay measured into service under a LOCKED bell, and
the bell then looks at its parent again (`bellWatch`). R403, R411, R418. A link in service
that loses lock restarts with lock_lost. A margin below margin_min sets margin_low and nothing else. A latch that opens starts a drain of at most 10
µs, whose end takes the link out of service, and starts bring-up again where the latch has closed. A module that is gone takes its link out of service
at once with removed. A module that is there and latched is powered, and bring-up starts where auto_up is 1. -/
def Obligations.LinksComeAndGo : Prop :=
  (∀ (s : State) (l : Fin 128),
      let d := s.dev
      let lost := fset (fset d (Reg.LINK_FAULT l.val) Fd.LINK_FAULT_step_timeout 1) (Reg.LINK_STATUS l.val) Fd.LINK_STATUS_tries_used
        (min 15 (fget d (Reg.LINK_STATUS l.val) Fd.LINK_STATUS_tries_used + 1))
      (∀ i : BringInfo, alive d = true →
        let lanes := i.lanes.toList.map BitVec.toNat
        (linkStep d l.val = 1 ∨ linkStep d l.val = 2 → exec (.bringupStepComplete l i) s = .next (s.after (stepTo d l.val (linkStep d l.val + 1))))
        ∧ (linkStep d l.val = 3 → exec (.bringupStepComplete l i) s = .next (s.after (stepTo (fset d (Reg.LINK_LANES l.val) Fd.LINK_LANES_polarity i.polarity.toNat) l.val 4)))
        ∧ (linkStep d l.val = 4 → lanes = [0, 1, 2, 3, 4, 5, 6, 7] ∨ lanes = [7, 6, 5, 4, 3, 2, 1, 0] ∨ (96 ≤ l.val ∧ ∀ j, j < 8 → j ∈ lanes) →
          exec (.bringupStepComplete l i) s = .next (s.after (stepTo (fset d (Reg.LINK_LANES l.val) Fd.LINK_LANES_lane_map (lanesWord lanes)) l.val 5)))
        ∧ (linkStep d l.val = 4 → l.val < 96 → lanes ≠ [0, 1, 2, 3, 4, 5, 6, 7] → lanes ≠ [7, 6, 5, 4, 3, 2, 1, 0] →
          exec (.bringupStepComplete l i) s = .next (s.after (unitFault d (Reg.LINK_FAULT l.val) Fd.LINK_FAULT_lane_map l.val)))
        ∧ (linkStep d l.val = 5 → exec (.bringupStepComplete l i) s = .next (s.after (stepTo d l.val (if linkEther d l.val = true then 7 else 6))))
        ∧ (linkStep d l.val = 6 → (dynOf d l.val).held = false → exec (.bringupStepComplete l i) s = .next (s.after (identTake d l.val i.peer.toNat i.peerLink.toNat i.serial.toNat)))
        ∧ (linkStep d l.val = 7 → delayKnown d l.val = true → bellAdmits d = true → exec (.bringupStepComplete l i) s = .next (s.after (stepTo d l.val 8))))
      ∧ (alive d = true → 1 ≤ linkStep d l.val → linkStep d l.val ≤ 7 → (linkStep d l.val = 7 → delayKnown d l.val = false) → (dynOf d l.val).held = false → (dynOf d l.val).stepAt + stepLimit (linkStep d l.val) ≤ ns d →
        let n := min 15 (fget d (Reg.LINK_STATUS l.val) Fd.LINK_STATUS_tries_used + 1)
        (n < max 1 (fget d (Reg.LINK_CTRL l.val) Fd.LINK_CTRL_tries) →
          exec (.bringupStepTimeout l) s = .next (s.after (dynMod (linkStop lost l.val 0) l.val (fun x => { x with restart := some (ns (linkStop lost l.val 0) + 1000000) }))))
        ∧ (max 1 (fget d (Reg.LINK_CTRL l.val) Fd.LINK_CTRL_tries) ≤ n →
          exec (.bringupStepTimeout l) s = .next (s.after (unitFault (linkStop lost l.val 12) (Reg.LINK_FAULT l.val) Fd.LINK_FAULT_failed l.val))))
      ∧ (∀ t, alive d = true → (dynOf d l.val).restart = some t → t ≤ ns d → linkStep d l.val = 0 → linkLoop d l.val = 0 →
        ∃ e, exec (.bringupRestart l) s = .next (s.after e) ∧ linkStep e l.val = (if canBring d l.val = true then 1 else 0) ∧ (dynOf e l.val).restart = none)
      ∧ (alive d = true → linkStep d l.val = 8 ∨ (linkStep d l.val = 7 ∧ delayKnown d l.val = true) → bellAdmits d = true →
        ∃ f e, exec (.linkAdmit l) s = .next (s.after e) ∧ e = bellWatch { f with clk := { d.clk with inUse := true } }
          ∧ linkStep e l.val = 9 ∧ fget e (Reg.LINK_STATUS l.val) Fd.LINK_STATUS_tries_used = 0 ∧ e.clk.inUse = true
          ∧ linkStep f l.val = 9 ∧ fget f (Reg.LINK_STATUS l.val) Fd.LINK_STATUS_tries_used = 0 ∧ OnlyRegs [Reg.LINK_STATUS l.val] { d with lnk := f.lnk } f))
  ∧ (∀ (s : State) (l : Fin 128),
        let d := s.dev
        let st := Reg.LINK_STATUS l.val
        let flt := fun d f => unitFault d (Reg.LINK_FAULT l.val) f l.val
        (alive d = true → linkCarries d l.val = true → exec (.laneLockLost l) s = .next (s.after (linkRestart (flt d Fd.LINK_FAULT_lock_lost) l.val)))
        ∧ (∀ ms : Vector (BitVec 8) 8, alive d = true → linkCarries d l.val = true →
          exec (.marginMeasure l ms) s = .next (s.after (if ∃ m ∈ ms.toList, m.toNat < fget d (Reg.LINK_CTRL l.val) Fd.LINK_CTRL_margin_min then flt d Fd.LINK_FAULT_margin_low else d)))
        ∧ (alive d = true → linkStep d l.val = 9 →
          ∃ e, exec (.moduleLatchOpen l) s = .next (s.after e) ∧ linkStep e l.val = 10 ∧ (dynOf e l.val).drain = some (ns d + 10000) ∧ fbit e st Fd.LINK_STATUS_latch_closed = false
            ∧ OnlyRegs [st] { d with lnk := e.lnk } e)
        ∧ (∀ t, alive d = true → linkStep d l.val = 10 → (dynOf d l.val).drain = some t → t ≤ ns d →
          let e := dynMod (linkDown d l.val 0) l.val (fun y => { y with again := false })
          exec (.linkDrainEnd l) s = .next (s.after (if (dynOf d l.val).again = true then linkRestart e l.val else e)))
        ∧ (alive d = true → linkCarries d l.val = true → linkLoop d l.val = 0 →
          exec (.moduleRemoved l) s = .next (s.after (linkStop (flt (fset (fset (dynMod d l.val (fun x => { x with powered := false, again := false })) st Fd.LINK_STATUS_present 0) st Fd.LINK_STATUS_latch_closed 0)
            Fd.LINK_FAULT_removed) l.val 0)))
        ∧ (alive d = true → linkStep d l.val = 0 →
          ∃ e, exec (.moduleInsert l) s = .next (s.after e) ∧ fbit e st Fd.LINK_STATUS_present = true ∧ fbit e st Fd.LINK_STATUS_latch_closed = true ∧ (dynOf e l.val).powered = true
            ∧ linkStep e l.val = (if linkCtl d l.val Fd.LINK_CTRL_auto_up = true ∧ linkCtl d l.val Fd.LINK_CTRL_en = true ∧ linkLoop d l.val = 0 ∧ (dynOf d l.val).fenced = false
                ∧ fbit d Reg.TOP_STATUS Fd.TOP_STATUS_ready = true ∧ tget false d.pkg.lost (l.val / 16) = false then 1
              else if linkCtl d l.val Fd.LINK_CTRL_auto_up = true ∧ linkLoop d l.val ≠ 0 then 11 else 0)))

/-- R415, R418, R419, R420. SIDEBAND_SCAN of a chain that returns another pattern uses nothing of the scan and raises FS_132; one that shows every
cage as known changes nothing; a cage whose module is gone in three scans in a row has lost it. LED_REFRESH drives the two lights of each of the 128
ports. ENCAP_FRAME_RECEIVE takes the fabric frame out of a MAC frame addressed to the device, drops and counts any other, and reports one that is too
long. -/
def Obligations.ChainsAndEncapsulation : Prop :=
  ∀ (s : State),
    let d := s.dev
    let known := fun (j : Nat) (p la : BitVec 128) =>
      p.toNat.testBit j = fbit d (Reg.LINK_STATUS j) Fd.LINK_STATUS_present ∧ la.toNat.testBit j = fbit d (Reg.LINK_STATUS j) Fd.LINK_STATUS_latch_closed ∧ (dynOf d j).scanN = 0
    (∀ p la i : BitVec 128, alive d = true →
      exec (.sidebandScan p la i false) s = .next (s.after (raise (fset d Reg.PRT_SB_STATUS Fd.PRT_SB_STATUS_chain_err 1) 132))
      ∧ ((∀ j, j < 128 → known j p la) → exec (.sidebandScan p la i true) s = .next (s.after d))
      ∧ (∀ l : Fin 128, (∀ j, j < 128 → j ≠ l.val → known j p la) → fbit d (Reg.LINK_STATUS l.val) Fd.LINK_STATUS_present = true → p.toNat.testBit l.val = false → la.toNat.testBit l.val = false →
        (dynOf d l.val).scan = 0 → (dynOf d l.val).scanN = 2 → linkStep d l.val = 0 → linkLoop d l.val = 0 →
        ∃ e, exec (.sidebandScan p la i true) s = .next (s.after e) ∧ fbit e (Reg.LINK_STATUS l.val) Fd.LINK_STATUS_present = false ∧ (dynOf e l.val).powered = false ∧ (dynOf e l.val).scanN = 0))
    ∧ (alive d = true →
      let light := fun c => if c = 1 then true else if c = 2 then decide (ns d % 250000000 < 125000000) else false
      exec (.ledRefresh true) s = .next (s.after { d with wire := d.wire ++ (List.range 128).map (fun p => Wire.led p
        (fbit d (Reg.PORT_LED p) Fd.PORT_LED_locate && decide (ns d % 1000000000 < 500000000))
        (if fget d (Reg.PORT_LED p) Fd.PORT_LED_fault_sw = 0 then light (ledAuto d p) else if fget d (Reg.PORT_LED p) Fd.PORT_LED_fault_sw = 1 then false
          else if fget d (Reg.PORT_LED p) Fd.PORT_LED_fault_sw = 2 then true else light 2)) }))
    ∧ (∀ (l : Fin 128) (r : Nat) (mac : List Byte) (fcs : Bool), running d = true → rsvOf d l.val = some r → linkCarries d l.val = true → linkEther d l.val = true → fbit d (Reg.RSV_CFG r) Fd.RSV_CFG_use = false →
      (9216 < mac.length + 4 → exec (.encapFrameReceive l mac fcs) s = .next (s.after (unitFault (bump d Reg.RSV_DROP_CNT) (Reg.RSV_FAULT r) Fd.RSV_FAULT_too_long (128 + r))))
      ∧ (mac.length + 4 ≤ 9216 → fcs = false ∨ mac.take 6 ≠ macOf d (Reg.RSV_OWN_MAC_0 r) → exec (.encapFrameReceive l mac fcs) s = .next (s.after (bump d Reg.RSV_DROP_CNT)))
      ∧ (∀ f : List Byte, mac = macOf d (Reg.RSV_OWN_MAC_0 r) ++ macOf d (Reg.RSV_PEER_MAC_0 r) ++ beBytes 2 (fget d Reg.RSV_ETYPE Fd.RSV_ETYPE_etype) ++ (f ++ beBytes 4 (crc32c f) ++ beBytes 2 (f.length + 8) ++ [0, 0]) →
        fcs = true → fbit d (Reg.RSV_CFG r) Fd.RSV_CFG_vlan_en = false → lenOk (f ++ beBytes 4 (crc32c f) ++ beBytes 2 (f.length + 8) ++ [0, 0]) = true →
        exec (.encapFrameReceive l mac fcs) s = .next (s.after (frameIn d l.val f 0))))

/-- R313, R416, R417. The happenings of a flash connection. ROCE_ACK_TIMEOUT sends again up to 7 times and then fails the connection;
FLASH_KEEPALIVE_LAPSE fails it: it is in ERROR, holds nothing, and conn_failed is set. ROCE_CNP_RECEIVE cuts its rate to 7/8, not below 1/64.
PFC_PAUSE_RECEIVE of the honoured priority holds the entry. RDMA_ACCESS moves data of a region bound by an outstanding transfer and refuses any other.
FLASH_TRANSFER_COMPLETE answers the requester of the oldest transfer sent. R416, R417. The flash commands of a secure requester. FLASH_CONNECT over an
entry that serves the flash tier takes the lowest connection that is free and answers it with what the target said; with 64 in use it answers
ST_NO_FLASH_CONNECTION. FLASH_READ and FLASH_WRITE queue a transfer for a region of class CHECKPOINT, which is answered at its end; a connection at
its depth answers ST_FLASH_QUEUE_FULL. FLASH_DISCONNECT of a connection without transfers frees it. -/
def Obligations.FlashConnectionsServe : Prop :=
  (∀ (s : State) (c : BitVec 6) (x : Flash),
      let d := s.dev
      let put := fun (d : Dev) (y : Flash) => { d with lnk := { d.lnk with flash := tset none d.lnk.flash c.toNat (some y) } }
      let full := flashFull d x
      alive d = true → flashAt d c.toNat = some x → x.error = false → x.entry < 4 →
      ((∃ t ∈ x.xfers, t.sent = true) → x.at_ + 4096 * 2 ^ fget d (Reg.RSV_CFG x.entry) Fd.RSV_CFG_ack_exp ≤ ns d →
        (x.tries < 7 → exec (.roceAckTimeout c) s = .next (s.after (emit (put d { x with tries := x.tries + 1, at_ := ns d }) (.roce c.toNat 7 []))))
        ∧ (7 ≤ x.tries → exec (.roceAckTimeout c) s = exec (.flashKeepaliveLapse c) s))
      ∧ (∃ e, exec (.flashKeepaliveLapse c) s = .next (s.after e) ∧ flashAt e c.toNat = some { x with error := true, xfers := [], out := [] } ∧ fbit e (Reg.RSV_FAULT x.entry) Fd.RSV_FAULT_conn_failed = true)
      ∧ (exec (.roceCnpReceive c) s = .next (s.after (put d { x with rate :=
          if (∀ t, x.rate.cutAt = some t → t + 64 * max 1 (fget d Reg.RTE_ECN Fd.RTE_ECN_hold) ≤ ns d)
          then { x.rate with last := ns d, rate := some (max (full / 64) (x.rate.rate.getD full * 7 / 8)), cutAt := some (ns d) } else { x.rate with last := ns d } })))
      ∧ (∀ (l : Fin 128) (prio : BitVec 3) (t : BitVec 32) (r : Nat), rsvOf d l.val = some r →
        exec (.pfcPauseReceive l prio t) s = .next (s.after (
          if fbit d (Reg.RSV_CFG r) Fd.RSV_CFG_pfc_en = true ∧ fget d (Reg.RSV_CFG r) Fd.RSV_CFG_pfc_prio = prio.toNat then
            { d with tm := { d.tm with paused := tset 0 d.tm.paused (r * 8 + prio.toNat) (if t = 0 then 0 else ns d + t.toNat) } }
          else d)))
      ∧ (∀ (w : Bool) (hd : Word) (off : BitVec 64) (len : BitVec 32) (data : List Byte) (i : Nat) (r : Region), regionOf d hd.toNat = some (i, r) →
        ((∃ t ∈ x.xfers, t.region = hd.toNat) → r.cls = 6 → off.toNat + len.toNat ≤ regionBytes r →
          exec (.rdmaAccess c w hd off len data) s = .next (s.after (
            if w = true then put (regionWrite d r off.toNat (padTo 1 (data.take len.toNat))) { x with at_ := ns d, tries := 0, out := x.out ++ [(6, [])] }
            else put d { x with at_ := ns d, tries := 0, out := x.out ++ [(4, deliverBytes d r off.toNat len.toNat)] })))
        ∧ ((∀ t ∈ x.xfers, t.region ≠ hd.toNat) ∨ r.cls ≠ 6 ∨ regionBytes r < off.toNat + len.toNat →
          exec (.rdmaAccess c w hd off len data) s = .next (s.after (unitFault (bump (put d { x with at_ := ns d, tries := 0, out := x.out ++ [(5, [])] }) Reg.RSV_DROP_CNT)
            (Reg.RSV_FAULT x.entry) Fd.RSV_FAULT_bad_access (128 + x.entry)))))
      ∧ (∀ (pre post : List Transfer) (t : Transfer) (r : ReplyTo) (ok : Bool), x.xfers = pre ++ t :: post → (∀ u ∈ pre, u.sent = false) → t.sent = true → t.reply = some r → t.manif = false →
        exec (.flashTransferComplete c ok) s = .next (s.after (replyLate (put d { x with xfers := pre ++ post, tries := 0, at_ := ns d }) r (if ok = true then St.ok else St.flashFailed) []))))
  ∧ (∀ (s : State) (h : CmdHdr) (p : List Byte),
        (let d := dequeue s.dev h 0x0730
          ∀ (bs : BitVec 32) (cap : BitVec 64) (ok : Bool), Admitted 0x0730 true false h s.dev → p.length = 248 → byteAt p 0 < 4 → 1 ≤ byteAt p 1 → byteAt p 1 ≤ 128 → byteAt p 2 = 6 ∨ (byteAt p 2 = 4 ∧ (p.drop 4).take 12 = List.replicate 12 0) → byteAt p 3 = 0 →
            (∀ c, d.lnk.flash.length < 64 → flashEntry d (byteAt p 0) = true → ok = true → c < 64 → flashAt d c = none → (∀ k, k < c → flashAt d k ≠ none) →
              exec (.flashConnect h p bs cap ok) s = .next (s.after (answered (emit (flashPut d c (some ⟨byteAt p 0, byteAt p 1, p, bs.toNat, cap.toNat, false, [], [], 0, ns d, EcnRate.init⟩)) (.roce c 0 p)) h 0x0730 p
                (beBytes 1 c ++ beBytes 3 0 ++ beBytes 4 bs.toNat ++ beBytes 8 cap.toNat))))
            ∧ (64 ≤ d.lnk.flash.length → exec (.flashConnect h p bs cap ok) s = .next (s.after (reply d (hdrReply h 0x0730) St.noFlashConnection [])))
            ∧ (d.lnk.flash.length < 64 → flashEntry d (byteAt p 0) = false ∨ ok = false → exec (.flashConnect h p bs cap ok) s = .next (s.after (reply d (hdrReply h 0x0730) St.flashFailed []))))
        ∧ (let d := dequeue s.dev h 0x0731
          ∀ x, Admitted 0x0731 true false h s.dev → p.length = 1 → byteAt p 0 < 64 → flashAt d (byteAt p 0) = some x → x.xfers = [] →
            exec (.flashDisconnect h p) s = .next (s.after (answered (emit (flashPut d (byteAt p 0) none) (.roce (byteAt p 0) 1 [])) h 0x0731 p [])))
        ∧ (∀ (op : Nat) (w : Bool) (c : Instr), (op = 0x0732 ∧ w = false ∧ c = .flashRead h p) ∨ (op = 0x0733 ∧ w = true ∧ c = .flashWrite h p) →
          let d := dequeue s.dev h op
          ∀ x i g, Admitted op true false h s.dev → p.length = 28 → byteAt p 0 < 64 → field p 1 3 = 0 → flashAt d (byteAt p 0) = some x → regionOf d (field p 16 4) = some (i, g) → g.cls = 6 →
            field p 20 8 + field p 12 4 * x.bsize ≤ regionBytes g →
            (x.error = false → x.xfers.length < x.depth →
              exec c s = .next (s.after (recordWait (flashPut d (byteAt p 0) (some { x with
                xfers := x.xfers ++ [⟨w, field p 4 8, field p 12 4, field p 16 4, field p 20 8, false, some (hdrReply h op), false⟩], at_ := if x.xfers = [] then ns d else x.at_ })) h op p)))
            ∧ (x.error = false → x.depth ≤ x.xfers.length → exec c s = .next (s.after (reply d (hdrReply h op) St.flashQueueFull [])))
            ∧ (x.error = true → exec c s = .next (s.after (reply d (hdrReply h op) St.flashFailed [])))))

/-- R444, R445. FAULT_RAISE counts the raise; a source in IDLE with a severity of 1 to 4 starts its window and writes a record, a NOTE source enters
FAULT, an OFF source and one that is not IDLE are counted only. The other sources keep their state. R444, R445, R446, R447, R448. A window that ends
unacknowledged: with act_en 1 the action of the source's severity runs, is counted and recorded; with act_en 0 only a record is written; the source is
in FAULT and one late acknowledgement is allowed. HALT stops the fabric, DEGRADE shows the device as degraded. A quiet period brings a source back to
IDLE as a recovery, or to STICKY where it is the sticky_count-th. -/
def Obligations.FaultsOpenAndEndWindows : Prop :=
  (∀ (s : State) (n : BitVec 10),
      let d := s.dev
      let c := { srcOf d n.toNat with count := satInc (srcOf d n.toNat).count 1 }
      let v := sev d n.toNat
      alive d = true →
      ∃ e, exec (.faultRaise n) s = .next (s.after e)
        ∧ (v = 15 → srcOf e n.toNat = c ∧ (∀ r, r ≠ Reg.MEM_SRAM_UE_CNT → rg e r = rg d r) ∧ e.ref.ring = d.ref.ring)
        ∧ (v < 15 → c.st ≠ .idle → srcOf e n.toNat = { c with last := ns d } ∧ e.ref.ring = d.ref.ring ∧ rg e Reg.REF_RAISE_CNT = satInc (rg d Reg.REF_RAISE_CNT) 1)
        ∧ (d.ref.ring.length < 4096 → c.st = .idle → v = 0 →
          srcOf e n.toNat = { c with last := ns d, st := .fault, lateOk := false, sev := 0 } ∧ rg e Reg.REF_RAISE_CNT = satInc (rg d Reg.REF_RAISE_CNT) 1)
        ∧ (d.ref.ring.length < 4096 → c.st = .idle → 1 ≤ v → v ≤ 4 →
          srcOf e n.toNat = { c with last := ns d, st := .window, until_ := ns d + 1000 * fget d (Reg.REF_WINDOW (v - 1)) Fd.REF_WINDOW_window, lateOk := false, sev := v }
            ∧ rg e Reg.REF_RAISE_CNT = satInc (rg d Reg.REF_RAISE_CNT) 1 ∧ ∃ r, e.ref.ring = d.ref.ring ++ [r] ∧ r.length = 32 ∧ field r 10 2 = n.toNat ∧ byteAt r 12 = 0 ∧ byteAt r 13 = v)
        ∧ (d.ref.ring.length < 4096 → ∀ m, m ≠ n.toNat → srcOf e m = srcOf d m))
  ∧ (∀ (s : State) (n : BitVec 10),
        let d := s.dev
        let c := srcOf d n.toNat
        let span := 3600 * 10 ^ 9 * max 1 (fget d Reg.REF_QUIET Fd.REF_QUIET_sticky_hours)
        let hist := c.recov.filter (fun t => decide (ns d ≤ t + span))
        alive d = true →
        (c.st = .window → c.until_ ≤ ns d →
          let f := srcPut d n.toNat { c with st := .fault, lateOk := true }
          (fbit d (Reg.REF_WINDOW (c.sev - 1)) Fd.REF_WINDOW_act_en = false → exec (.refWindowEnd n) s = .next (s.after (refNote f n.toNat 8)))
          ∧ (fbit d (Reg.REF_WINDOW (c.sev - 1)) Fd.REF_WINDOW_act_en = true →
            let g := refNote (bump f Reg.REF_ACTION_CNT) n.toNat 3
            (c.sev = 1 → exec (.refWindowEnd n) s = .next (s.after (handle g n.toNat false)))
            ∧ (c.sev = 2 ∨ (c.sev = 3 ∧ 944 ≤ n.toNat) → exec (.refWindowEnd n) s = .next (s.after (handle (fset g Reg.REF_STATUS Fd.REF_STATUS_degraded 1) n.toNat true)))
            ∧ (c.sev = 4 → exec (.refWindowEnd n) s = .next (s.after (fset (refNote g n.toNat 7) Reg.REF_STATUS Fd.REF_STATUS_halted 1)))
            ∧ (c.sev = 3 → n.toNat < 128 → ∃ e, exec (.refWindowEnd n) s = .next (s.after e) ∧ (dynOf e n.toNat).fenced = true ∧ linkCarries e n.toNat = false ∧ (srcOf e n.toNat).fenced = true)))
        ∧ (c.st = .fault → c.last + 100000000 * max 1 (fget d Reg.REF_QUIET Fd.REF_QUIET_quiet) ≤ ns d →
          (hist.length + 1 < max 1 (fget d Reg.REF_QUIET Fd.REF_QUIET_sticky_count) → c.fenced = false →
            exec (.refQuietExpire n) s = .next (s.after (bump (srcPut (refNote d n.toNat 4) n.toNat { c with st := .idle, lateOk := false, fenced := false, recov := hist ++ [ns d] }) Reg.REF_RECOVERY_CNT)))
          ∧ (max 1 (fget d Reg.REF_QUIET Fd.REF_QUIET_sticky_count) ≤ hist.length + 1 →
            exec (.refQuietExpire n) s = .next (s.after (bump (refNote (srcPut d n.toNat { c with st := .sticky, lateOk := false, recov := hist }) n.toNat 5) Reg.REF_STICKY_CNT)))))

/-- R445, R448, R450. The referee's command registers, written by a secure requester that holds the block's unlock. REF_ACK of a source in WINDOW
stops its action; the first one after the window is late and counted; any other is stray and counted. REF_CLEAR brings a source in FAULT or STICKY to
IDLE with an empty history and leaves one in WINDOW. REF_RAISE raises a source from 1,008 on; any other number sets raise_err. REF_RECORD_COPY takes
the oldest record of the ring. -/
def Obligations.RefereeCommandsAct : Prop :=
  ∀ (s : State) (who : Req) (n : BitVec 10) (v : Word),
    let d := s.dev
    let c := srcOf d n.toNat
    let e := (consume d who 0x010000).2
    (BusReady d → reqSecure d who = true → Unlocked d who 0x010000 → bits v.toNat 9 0 = n.toNat →
      (c.st = .window → exec (.refAck who v) s = .next (s.after (refNote (srcPut e n.toNat { c with st := .fault, lateOk := false }) n.toNat 1)))
      ∧ (c.st = .fault → c.lateOk = true → exec (.refAck who v) s = .next (s.after (refNote (bump (srcPut e n.toNat { c with lateOk := false }) Reg.REF_LATE_ACK_CNT) n.toNat 2)))
      ∧ (c.st ≠ .window → ¬(c.st = .fault ∧ c.lateOk = true) → exec (.refAck who v) s = .next (s.after (bump e Reg.REF_STRAY_ACK_CNT)))
      ∧ (c.st = .fault ∨ c.st = .sticky → c.fenced = false → exec (.refClear who v) s = .next (s.after (srcPut (refNote e n.toNat 6) n.toNat { c with st := .idle, lateOk := false, fenced := false, recov := [] })))
      ∧ (c.st = .window ∨ c.st = .idle → exec (.refClear who v) s = .next (s.after e))
      ∧ (1008 ≤ n.toNat → exec (.refRaise who v) s = .next (s.after (raise e n.toNat)))
      ∧ (n.toNat < 1008 → exec (.refRaise who v) s = .next (s.after (fset e Reg.REF_STATUS Fd.REF_STATUS_raise_err 1))))
    ∧ (∀ r rest, alive d = true → d.ref.ring = r :: rest → d.sit.restart = none →
      let f := event { d with ref := { d.ref with ring := rest } } 0 0 [] (some (r.take 28))
      exec .refRecordCopy s = .next (s.after (fset f Reg.REF_RING_TAIL Fd.REF_RING_TAIL_tail ((fget f Reg.REF_RING_TAIL Fd.REF_RING_TAIL_tail + 1) % 4096))))

/-- R438, R439, R505. FIELD_TEST of a unit by a secure requester, or of a region by one of its world, joins the queue while it holds fewer than 64; a
target that is queued already is joined; a DEAD target is answered ST_TEST_FAILED, and a full queue ST_TEST_QUEUE_FULL. R437, R439, R440, R441.
FIELD_TEST_START runs the waiting test and counts it, taking its unit out of live work as its kind says. FIELD_TEST_END answers every requester, ST_OK
or ST_TEST_FAILED, and leaves the unit as its kind says; a failure is counted and raises the unit's own source, FS_954 and FS_959. FIELD_TEST_REQUEUE
offers an owed test. At its timeout a drain of a lesson engine gives up the row in progress, which runs again elsewhere, with FS_956. -/
def Obligations.FieldTestsRunInTurn : Prop :=
  (∀ (s : State) (h : CmdHdr) (p : List Byte) (kind : FtKind) (t : Nat),
      let d := dequeue s.dev h 0x0701
      let r := hdrReply h 0x0701
      p.length = 8 → byteAt p 0 = ftCode kind → byteAt p 1 = 0 → Admitted 0x0701 (decide (kind ≠ .region)) false h s.dev →
      (kind = .region → (regionOf d (field p 4 4)).any (fun g => decide (g.1 = t ∧ (g.2.secure = true → h.world = true))) = true) → (kind ≠ .region → t = field p 2 2 ∧ t < ftTargets kind ∧ field p 4 4 = 0) →
      (ftDead d kind t = true → exec (.fieldTest h p) s = .next (s.after (reply d r St.testFailed [])))
      ∧ (ftDead d kind t = false → (kind = .desk → d.fab.refill = none) →
        ((∀ x ∈ d.int.queue, ¬(x.kind = kind ∧ x.target = t)) → d.int.queue.length < 64 →
          exec (.fieldTest h p) s = .next (s.after (recordWait { d with int := { d.int with queue := d.int.queue ++ [⟨kind, t, [r], false, false, false⟩] } } h 0x0701 p)))
        ∧ ((∀ x ∈ d.int.queue, ¬(x.kind = kind ∧ x.target = t)) → 64 ≤ d.int.queue.length → exec (.fieldTest h p) s = .next (s.after (reply d r St.testQueueFull [])))
        ∧ ((∃ x ∈ d.int.queue, x.kind = kind ∧ x.target = t) → exec (.fieldTest h p) s = .next (s.after (recordWait { d with int := { d.int with
            queue := d.int.queue.map (fun x => if x.kind = kind ∧ x.target = t then { x with reqs := x.reqs ++ [r] } else x) } } h 0x0701 p)))))
  ∧ (∀ (s : State) (x : FtEntry),
        let d := s.dev
        (running d = true → fbit d Reg.INT_CTRL Fd.INT_CTRL_ft_en = true → d.int.queue = [x] → x.running = false → ftHow d x = .run →
          exec .fieldTestStart s = .next (s.after (ftTake (bump { d with int := { d.int with queue := [{ x with running := true, spare := decide (x.kind = .desk ∧ deskState d x.target = 3) }] } } Reg.INT_FT_RUN_CNT) x.kind x.target)))
        ∧ (alive d = true → d.int.queue = [x] → x.running = true → ftDrained d x.kind x.target = true →
          let e := { d with int := { d.int with queue := [], drains := d.int.drains.filter (fun y => !decide (y.1 = x.kind ∧ y.2.1 = x.target)) } }
          let good := ftPut e x.kind x.target x.spare true
          let bad := bump (ftPut e x.kind x.target x.spare false) Reg.INT_FT_FAIL_CNT
          exec (.fieldTestEnd x.kind true) s = .next (s.after (x.reqs.foldl (fun d r => replyLate d r St.ok [])
            { good with int := { good.int with passed := tput good.int.passed (ftCode x.kind * 65536 + x.target) (ns good) } }))
          ∧ (let own := match ftSource x.kind x.target with
              | some n => raise bad n
              | none => bad
            exec (.fieldTestEnd x.kind false) s = .next (s.after (x.reqs.foldl (fun d r => replyLate d r St.testFailed []) (event (raise (raise own 954) 959) 9 0
              ([ftCode x.kind, x.target] ++ ((own.int.passed.find? (fun y => decide (y.1 = ftCode x.kind * 65536 + x.target))).map (·.2)).toList))))))
        ∧ (∀ k t, alive d = true → d.int.owed = [(k, t)] → d.int.queue.length < 64 → ftHas d k t = false →
          exec .fieldTestRequeue s = .next (s.after { d with int := { d.int with queue := d.int.queue ++ [⟨k, t, [], false, true, false⟩], owed := [] } }))
        ∧ (∀ (u : BitVec 9) (t : Nat) (r : EngRow), alive d = true → d.int.drains = [(.engine, u.toNat, t)] → t ≤ ns d → engRow d u.toNat = some r →
          exec (.unitDrainTimeout .engine u) s = .next (s.after (raise (runMod (engPut { bump d Reg.LSN_ROW_RETRY_CNT with int := { d.int with drains := [] } } u.toNat none) r.shard
            (fun y => { y with redo := y.redo ++ [(r.row, u.toNat)], wait := ns d })) 956)))
        ∧ (∀ (u : BitVec 9) (t : Nat), alive d = true → d.int.drains = [(.huddle, u.toNat, t)] → t ≤ ns d → (∀ i ∈ d.hud.inst, i.unit ≠ u.toNat) →
          exec (.unitDrainTimeout .huddle u) s = .next (s.after { d with int := { d.int with drains := [] } })))

/-- R461, R467. The partner commands. PARTNER_BIND of another switch's management coordinate, while none is bound, takes it; while one is bound and
not LOST it answers ST_PARTNER_BUSY. PARTNER_UNBIND frees what was held for the partner. PARTNER_TAKEOVER is ST_PARTNER_BUSY before the partner is
lost and ST_PARTNER_INCOMPLETE where the copy never was complete; otherwise every mirrored export is imported or named as skipped, and no copy is held
on. -/
def Obligations.PartnerCommands : Prop :=
  ∀ (s : State) (h : CmdHdr) (p : List Byte),
    (let d := dequeue s.dev h 0x0710
      let c := field p 0 3
      Admitted 0x0710 true false h s.dev → p.length = 4 → byteAt p 3 = 0 → cGroup c < 127 → c % 2048 = 2047 → c ≠ mgmtCoord d →
        (d.ckp.bound = false → d.ckp.theirs = false →
          ∃ e, exec (.partnerBind h p) s = .next (s.after (answered e h 0x0710 p [])) ∧ e.ckp = { d.ckp with bound := true, beatAt := 0, heard := ns d } ∧ rg e Reg.CKP_PARTNER = c ∧ partnerState e = 0
            ∧ OnlyRegs [Reg.CKP_PARTNER, Reg.CKP_STATUS] { d with ckp := e.ckp } e)
        ∧ (d.ckp.bound = true → partnerState d ≠ 3 → exec (.partnerBind h p) s = .next (s.after (reply d (hdrReply h 0x0710) St.partnerBusy []))))
    ∧ (let d := dequeue s.dev h 0x0711
      Admitted 0x0711 true false h s.dev → p = [] →
        ∃ e, exec (.partnerUnbind h p) s = .next (s.after (answered e h 0x0711 p [])) ∧ e.ckp.bound = false ∧ e.ckp.regions = [] ∧ e.ckp.outs = [] ∧ e.ckp.exports = [] ∧ partnerState e = 0 ∧ rg e Reg.CKP_PARTNER = 0
          ∧ (∀ x ∈ d.ckp.regions, (regionAt e x.2).valid = false))
    ∧ (let d := dequeue s.dev h 0x0712
      Admitted 0x0712 true false h s.dev → p = [] →
        (partnerState d = 1 ∨ partnerState d = 2 → exec (.partnerTakeover h p) s = .next (s.after (reply d (hdrReply h 0x0712) St.partnerBusy [])))
        ∧ (partnerState d = 0 ∨ (partnerState d = 3 ∧ d.ckp.wasFull = false) → exec (.partnerTakeover h p) s = .next (s.after (reply d (hdrReply h 0x0712) St.partnerIncomplete [])))
        ∧ (partnerState d = 3 → d.ckp.wasFull = true →
          ∃ e n m, ∃ skip : List Nat, exec (.partnerTakeover h p) s = .next (s.after (answered e h 0x0712 p (beBytes 2 n ++ beBytes 2 m ++ beBytes 2 skip.length ++ skip.flatMap (beBytes 2))))
            ∧ n + skip.length = (d.ckp.exports.filter (fun x => byteAt x.2 4 ≠ 0)).length ∧ m ≤ d.ckp.regions.length ∧ e.ckp.regions = [] ∧ e.ckp.exports = [] ∧ e.ckp.wasFull = false))

/-- R461, R462, R464. Mirror frames from the bound partner. A BEAT shows that the partner is there, an ACK acknowledges. Data at the next expected
offset of a stream is kept, and acknowledged up to its end; data at any other offset, or with a wrong CRC, is dropped, as is everything from another
source. R464, R478, R482. The mirror's own happenings. MIRROR_BEAT sends a BEAT to a bound partner that is not LOST. MIRROR_RESEND_TIMEOUT sends a
stream without progress again from the acknowledged offset. PARTNER_LOST, after lost_ms without a word, makes the state LOST and raises FS_1000.
CKP_MIRROR_DISABLE ends the mirroring: the state is NONE. -/
def Obligations.MirrorsKeepStep : Prop :=
  (∀ (s : State) (b : List Byte) (rest : List (List Byte)),
      let d := s.dev
      let e := { d with ckp := { d.ckp with inbox := rest, theirs := true } }
      let k := mirKey (byteAt b 16) (field b 18 2)
      let data := b.drop 32
      alive d = true → d.ckp.inbox = b :: rest →
      (d.ckp.bound = false ∨ mirrorEn d = false ∨ fSrc b ≠ rg d Reg.CKP_PARTNER % 2 ^ 24 ∨ partnerState d = 3 →
        exec .mirrorFrameReceive s = .next (s.after { d with ckp := { d.ckp with inbox := rest } }))
      ∧ (d.ckp.bound = true → mirrorEn d = true → fSrc b = rg d Reg.CKP_PARTNER % 2 ^ 24 → partnerState d = 1 ∨ partnerState d = 2 →
        (byteAt b 16 = 9 → exec .mirrorFrameReceive s = .next (s.after { e with ckp := { e.ckp with heard := ns d } }))
        ∧ (byteAt b 16 ≤ 4 → field b 28 4 = crc32c data → (tget none d.ckp.ins k).map (fun x => x.expect) ≠ some (field b 20 8) → (tget none d.ckp.ins k = none → byteAt b 16 ≠ 0 ∧ field b 20 8 ≠ 0) →
          exec .mirrorFrameReceive s = .next (s.after e))
        ∧ (byteAt b 16 ≤ 5 → field b 28 4 ≠ crc32c data → exec .mirrorFrameReceive s = .next (s.after e))
        ∧ (byteAt b 16 = 8 → exec .mirrorFrameReceive s = .next (s.after (mirAck { e with ckp := { e.ckp with heard := ns d } } (mirKey (byteAt b 17 % 16) (field b 18 2)) (field b 20 8))))
        ∧ (∀ x g, byteAt b 16 ≤ 4 → field b 28 4 = crc32c data → tget none d.ckp.ins k = some x → field b 20 8 = x.expect → bit (byteAt b 17) 7 = false → peerStore e (byteAt b 16) (field b 18 2) x.expect data = some g →
          let nx := if byteAt b 16 = 0 then (x.expect + data.length) % max 1 (logSize g) else x.expect + data.length
          let f := { g with ckp := { g.ckp with ins := tset none g.ckp.ins k (some ⟨nx, x.data⟩) } }
          exec .mirrorFrameReceive s = .next (s.after (originate f (mirFrame f 8 (field b 18 2) (byteAt b 16) nx []))))
        ∧ (∀ x, byteAt b 16 = 5 → field b 28 4 = crc32c data → tget none d.ckp.ins k = some x → field b 20 8 = x.expect → bit (byteAt b 17) 7 = true →
          ∃ f, exec .mirrorFrameReceive s = .next (s.after (originate f (mirFrame f 8 (field b 18 2) 5 (x.expect + data.length) [])))
            ∧ f = { e with ckp := { e.ckp with exports := tput d.ckp.exports (field b 18 2) (x.data ++ data), ins := tset none d.ckp.ins k (some ⟨0, []⟩) } })))
  ∧ (∀ (s : State),
        let d := s.dev
        (running d = true → d.ckp.bound = true → mirrorEn d = true → partnerState d ≠ 3 →
          let e := { d with ckp := { d.ckp with beatAt := ns d } }
          exec .mirrorBeat s = .next (s.after (originate e (mirFrame e 9 0 0 0 []))))
        ∧ (∀ (k : Nat) (o : MirOut), alive d = true → partnerState d = 1 ∨ partnerState d = 2 → d.ckp.outs = [(k, o)] → 0 < o.sent → o.at_ + 100000 ≤ ns d →
          ∃ e, exec .mirrorResendTimeout s = .next (s.after e) ∧ mirOut e k = { o with sent := 0, at_ := ns d } ∧ { e with ckp := { e.ckp with outs := d.ckp.outs } } = d)
        ∧ (alive d = true → partnerState d = 1 ∨ partnerState d = 2 → d.ckp.heard + 1000000 * max 1 (fget d Reg.CKP_CTRL Fd.CKP_CTRL_lost_ms) ≤ ns d →
          exec .partnerLost s = .next (s.after (raise (fset { d with ckp := { d.ckp with outbox := [], outs := [], whole := [] } } Reg.CKP_STATUS Fd.CKP_STATUS_partner_state 3) 1000)))
        ∧ (∀ (who : Req) (v : Word), BusReady d → reqSecure d who = true → Unlocked d who 0x018000 → bits v.toNat 0 0 = 0 → mirrorEn d = true → d.ckp.bound = true →
          ∃ e, exec (.ckpMirrorDisable who v) s = .next (s.after e) ∧ mirrorEn e = false ∧ partnerState e = 0 ∧ e.ckp = { d.ckp with outbox := [], outs := [], whole := [], theirs := false, lagSeen := false }
            ∧ fget e Reg.CKP_CTRL (31, 8) = bits v.toNat 31 8))

/-- R469, R470, R472. Checkpoints and rebuilt lines. CHECKPOINT_WRITE starts one checkpoint over a staging region of class CHECKPOINT that is large
enough, with the exports written after the manifest's granule; a second is ST_CHECKPOINT_BUSY. CHECKPOINT_SHARD_COPY copies a shard that is ready to
the next offset. CHECKPOINT_CONFIRM moves the durable point past the step's entry. CHECKPOINT_READ queues a flash read whose manifest is checked. A
poisoned line of a PARTNER region is rebuilt from what the partner sent. -/
def Obligations.CheckpointsAreKept : Prop :=
  ∀ (s : State) (h : CmdHdr) (p : List Byte),
    (let d := dequeue s.dev h 0x0720
      let ex := allExports d
      let shardG := 1 + granUp ex.flatten.length
      let ss := d.lsn.shards.filterMap (fun e => e.2.map (fun s => (e.1, s)))
      let n := byteAt p 12
      ∀ i g, Admitted 0x0720 true false h s.dev → draining d = false → n ≤ 8 → p.length = 16 + 16 * n → field p 13 3 = 0 → (∀ j, j < n → byteAt p (16 + 16 * j) < 64 ∧ field p (17 + 16 * j) 3 = 0) →
        regionOf d (field p 8 4) = some (i, g) →
        (d.ckp.running = none → g.cls = 6 → (shardG + granUp (ss.foldl (fun a x => a + shardBytes d x.2) 0)) * granBytes ≤ regionBytes g →
          (∀ j, j < n → (flashAt d (byteAt p (16 + 16 * j))).any (fun x => !x.error) = true) →
          let K : Ckpt := ⟨field p 0 4, field p 4 4, field p 8 4, ckptConns p, ss.map (·.1), shardG * granBytes, ex.length, shardG, 0, some (hdrReply h 0x0720), [], false, 0⟩
          ∃ e, exec (.checkpointWrite h p) s = .next (s.after (recordWait e h 0x0720 p)) ∧ rg e Reg.CKP_WRITE_CNT = satInc (rg d Reg.CKP_WRITE_CNT) 1
            ∧ e.mem = (regionWrite d g granBytes ex.flatten).mem ∧ e.ckp = { d.ckp with running := some K })
        ∧ (d.ckp.running ≠ none → exec (.checkpointWrite h p) s = .next (s.after (reply d (hdrReply h 0x0720) St.checkpointBusy []))))
    ∧ (∀ (i : BitVec 10) (k : Ckpt) (x : Shard) (j : Nat) (g : Region), alive s.dev = true → s.dev.ckp.running = some k → shardAt s.dev i.toNat = some x → i.toNat ∈ k.shards → ckptReady s.dev k i.toNat x = true →
      regionOf s.dev k.staging = some (j, g) →
      let bs := [x.w, x.s1, x.s2].flatMap (fun y => match regionOf s.dev y.handle with
        | some (_, r) => if y.fmt = 0 then [] else deliverBytes s.dev r y.off (streamBytes y.fmt (shardSpan s.dev x).2)
        | none => [])
      let e := regionWrite s.dev g k.nextOff bs
      exec (.checkpointShardCopy i) s = .next (s.after { e with ckp := { e.ckp with running := some { k with shards := k.shards.erase i.toNat, nextOff := k.nextOff + bs.length, copied := k.copied + 1 } } }))
    ∧ (let d := dequeue s.dev h 0x0721
      Admitted 0x0721 true false h s.dev → p.length = 4 →
        (∀ k, d.ckp.written = [k] → k.ident = field p 0 4 → k.stepSeq + 1 < 2 ^ 48 →
          ∃ e, exec (.checkpointConfirm h p) s = .next (s.after (answered e h 0x0721 p [])) ∧ rg64 e Reg.LOG_DURABLE_0 = max (rg64 d Reg.LOG_DURABLE_0) (k.stepSeq + 1)
            ∧ OnlyRegs [Reg.LOG_DURABLE_0, Reg.LOG_DURABLE_0 + 4] d e)
        ∧ ((∀ k ∈ d.ckp.written, k.ident ≠ field p 0 4) → exec (.checkpointConfirm h p) s = .next (s.after (reply d (hdrReply h 0x0721) St.noSuchCheckpoint []))))
    ∧ (let d := dequeue s.dev h 0x0722
      ∀ x i g, Admitted 0x0722 true false h s.dev → p.length = 20 → byteAt p 0 < 64 → field p 1 3 = 0 → flashAt d (byteAt p 0) = some x → regionOf d (field p 16 4) = some (i, g) → g.cls = 6 →
        field p 12 4 * x.bsize ≤ regionBytes g → x.error = false → x.xfers.length < x.depth →
        exec (.checkpointRead h p) s = .next (s.after (recordWait (flashPut d (byteAt p 0) (some { x with
          xfers := x.xfers ++ [⟨false, field p 4 8, field p 12 4, field p 16 4, 0, false, some (hdrReply h 0x0722), true⟩], at_ := if x.xfers = [] then ns d else x.at_ })) h 0x0722 p)))
    ∧ (∀ (a : HLine) (bs : List Byte) (ri w : Nat), alive s.dev = true → poisoned s.dev (lineId a) = true → ownerOf s.dev a.stack.toNat (a.line.val / granLines) = some (ri, w) →
      (regionAt s.dev ri).cls = 5 → partnerState s.dev = 1 ∨ partnerState s.dev = 2 →
      exec (.lineRebuildDone a (some bs)) s = .next (s.after (bump (lineWrite s.dev (lineId a) (2 ^ 64 - 1) (bs.take 64 ++ List.replicate (64 - (bs.take 64).length) 0)) Reg.CKP_REBUILD_CNT)))

/-- R485, R496. HOST_SUBMIT of a length the window does not take, of a kind it does not take, or into a slot that is not free is counted and raises
FS_971. A frame that the pool has room for leaves its slot free again. R497, R498. HOST_RX_DELIVER writes the oldest waiting frame and then its
descriptor into the receive slot at the tail, unless the ring is full. CMD_RX_ENABLE that sets rx_en empties the ring with phase 1; one that clears it
drops what waits. -/
def Obligations.HostFramesMove : Prop :=
  ∀ (s : State),
    let d := s.dev
    (∀ (j : BitVec 8) (bs : List Byte) (len : Word), alive d = true →
      let k := fKind ((padMin len.toNat bs).take (len.toNat - 8))
      ((tget HostSlot.free d.cmd.slots j.toNat).len ≠ 0 ∨ len.toNat < 64 ∨ 2216 < len.toNat ∨ ¬(k = 0 ∨ k = 5 ∨ k = 7 ∨ k = 8) →
        exec (.hostSubmit j bs len) s = .next (s.after (raiseOnce (bump d Reg.CMD_SUBMIT_ERR_CNT) 971 0)))
      ∧ ((tget HostSlot.free d.cmd.slots j.toNat).len = 0 → 64 ≤ len.toNat → len.toNat ≤ 2216 → k = 0 ∨ k = 5 ∨ k = 7 ∨ k = 8 → d.cmd.subQ = [] →
        d.mem.sram.used.getD (if k = 5 then 3 else 1) 0 + gransOf len.toNat ≤ quotaOf d (if k = 5 then 3 else 1) → gransOf len.toNat ≤ poolFree d.mem.sram →
        ∃ e, exec (.hostSubmit j bs len) s = .next (s.after e) ∧ e.cmd.subQ = [] ∧ tget HostSlot.free e.cmd.slots j.toNat = HostSlot.free ∧ rg e Reg.CMD_SUBMIT_ERR_CNT = rg d Reg.CMD_SUBMIT_ERR_CNT))
    ∧ (∀ (b : List Byte) (rest : List (List Byte)), alive d = true → d.cmd.rxWait = b :: rest → d.pkg.pcieUp = true → d.pkg.busM = true →
      let t := fget d Reg.CMD_RX_TAIL Fd.CMD_RX_TAIL_tail
      let n := max 2 (fget d Reg.CMD_RX_SLOTS Fd.CMD_RX_SLOTS_slots)
      let at_ := rg d Reg.CMD_RX_BASE_0 / 4096 * 4096 + 2 ^ 32 * rg d Reg.CMD_RX_BASE_1 + 2304 * t
      let w := b ++ frameCheck b
      ((t + 1) % n = fget d Reg.CMD_RX_HEAD Fd.CMD_RX_HEAD_head → exec .hostRxDeliver s = .next (s.after d))
      ∧ ((t + 1) % n ≠ fget d Reg.CMD_RX_HEAD Fd.CMD_RX_HEAD_head →
        ∃ e, exec .hostRxDeliver s = .next (s.after e) ∧ e.cmd.rxWait = rest ∧ fget e Reg.CMD_RX_TAIL Fd.CMD_RX_TAIL_tail = (t + 1) % n
          ∧ e.wire = d.wire ++ [.hostWrite (at_ + 8) w, .hostWrite at_ (beBytes 4 ((if d.cmd.phase = true then 2 ^ 31 else 0) + w.length) ++ beBytes 4 0)]
          ∧ e.cmd.phase = (if (t + 1) % n = 0 then !d.cmd.phase else d.cmd.phase)))
    ∧ (∀ (who : Req) (v : Word), BusReady d → reqSecure d who = true → Unlocked d who (blkBase Reg.CMD_CTRL) →
      (v.toNat.testBit Fd.CMD_CTRL_rx_en.2 = true → fbit d Reg.CMD_CTRL Fd.CMD_CTRL_rx_en = false →
        ∃ e, exec (.cmdRxEnable who v) s = .next (s.after e) ∧ fbit e Reg.CMD_CTRL Fd.CMD_CTRL_rx_en = true ∧ fget e Reg.CMD_RX_HEAD Fd.CMD_RX_HEAD_head = 0 ∧ fget e Reg.CMD_RX_TAIL Fd.CMD_RX_TAIL_tail = 0
          ∧ e.cmd = { d.cmd with phase := true })
      ∧ (v.toNat.testBit Fd.CMD_CTRL_rx_en.2 = false → fbit d Reg.CMD_CTRL Fd.CMD_CTRL_rx_en = true →
        ∃ e, exec (.cmdRxEnable who v) s = .next (s.after e) ∧ fbit e Reg.CMD_CTRL Fd.CMD_CTRL_rx_en = false ∧ e.cmd = { d.cmd with rxWait := [] }
          ∧ rg e Reg.CMD_RX_DROP_CNT = satInc (rg d Reg.CMD_RX_DROP_CNT) d.cmd.rxWait.length))

/-- R487, R492, R495, R506. CMD_ASSEMBLY_TIMEOUT, once the part ticks have passed, ends the assembly with ST_INCOMPLETE, drops its later parts and
raises FS_970. CMD_UNKNOWN_OPCODE answers ST_UNKNOWN_OPCODE. DEVICE_QUERY, EVENT_READ and SENSOR_READ answer what they name; a query leaves no entry
in the log. -/
def Obligations.ManagementAnswers : Prop :=
  ∀ (s : State) (h : CmdHdr) (p : List Byte),
    (∀ (src : Coord) (vc : BitVec 3) (a : Assembly), alive s.dev = true → s.dev.cmd.asm = [a] → a.first.src = src.toNat → a.first.vc = vc.toNat → a.endAt ≤ ns s.dev →
      let e := raise (reply (freeCmd { s.dev with cmd := { s.dev.cmd with asm := [] } } a.grans) (replyOf a.first) St.incomplete []) 970
      exec (.cmdAssemblyTimeout src vc) s = .next (s.after { e with cmd := { e.cmd with drop := tset false e.cmd.drop (dropKey a.first) true } }))
    ∧ (∀ op : BitVec 16, alive s.dev = true → op.toNat ∉ opcodes →
      exec (.cmdUnknownOpcode h op p) s = .next (s.after (reply (dequeue s.dev h op.toNat) (hdrReply h op.toNat) St.unknownOpcode [])))
    ∧ (let d := dequeue s.dev h 0x0801
      Admitted 0x0801 false true h s.dev → p = [] →
        exec (.deviceQuery h p) s = .next (s.after (queried d h 0x0801 (beBytes 8 Config.serial.toNat ++ beBytes 4 (fwBuild d (runningSlot d)) ++ beBytes 2 (fwMajor d (runningSlot d))
          ++ beBytes 2 (fwMinor d (runningSlot d)) ++ beBytes 3 (mgmtCoord d) ++ [0]))))
    ∧ (let d := dequeue s.dev h 0x0802
      let first := field p 0 4
      let n := field p 4 2
      Admitted 0x0802 true true h s.dev → p.length = 6 → 1 ≤ n → n ≤ 64 →
        exec (.eventRead h p) s = .next (s.after (replyParts d (hdrReply h 0x0802) St.ok
          (let bs := ((d.sit.events.drop (first - (d.sit.evNext - d.sit.events.length))).take n).flatten;
           if bs = [] then [[]] else chunksOf 2048 (bs.length + 1) bs))))
    ∧ (let d := dequeue s.dev h 0x0803
      let i := field p 0 2
      let x := sensorAt d i
      Admitted 0x0803 false true h s.dev → p.length = 2 → i < 42 ∨ (48 ≤ i ∧ i < 58) ∨ i = 64 →
        exec (.sensorRead h p) s = .next (s.after (queried d h 0x0803 (beBytes 8 ((if x.st = 2 then 2 else if x.st = 0 ∧ ns d ≤ x.at_ + 10000000 then 0 else 1) * 2 ^ 62 + x.val)))))

/-- R534, R536, R538. SENSOR_SAMPLE keeps each valid reading with its time and marks a failed one. LOCKSTEP_MISMATCH is counted, raises FS_974 and
restarts the pair; no requester of a long command is answered. SITONEL_RESTART_DONE ends a restart: the started slot runs, restarting reads 0. -/
def Obligations.SitonelSamplesAndRestarts : Prop :=
  ∀ (s : State),
    let d := s.dev
    (∀ (i : BitVec 7) (v : BitVec 32), alive d = true → sensorKnown i.toNat = true →
      exec (.sensorSample [(i, 0, v)]) s = .next (s.after { d with sit := { d.sit with sensors := tset Sensor.init d.sit.sensors i.toNat ⟨0, v.toNat, ns d⟩ } })
      ∧ exec (.sensorSample [(i, 2, v)]) s = .next (s.after { d with sit := { d.sit with sensors := tset Sensor.init d.sit.sensors i.toNat { sensorAt d i.toNat with st := 2, val := v.toNat } } })
      ∧ exec (.sensorSample [(i, 1, v)]) s = .next (s.after d))
    ∧ (alive d = true →
      ∃ e, exec .lockstepMismatch s = .next (s.after e) ∧ (∃ r, e.sit.restart = some r ∧ r.slot = confirmedSlot d ∧ r.prev = none) ∧ fbit e Reg.SIT_STATUS Fd.SIT_STATUS_restarting = true
        ∧ rg e Reg.SIT_LOCKSTEP_CNT = satInc (rg d Reg.SIT_LOCKSTEP_CNT) 1 ∧ e.ckp.running = none ∧ e.sit.batch = [] ∧ e.sit.drain = none ∧ fbit e Reg.SIT_STATUS Fd.SIT_STATUS_draining = false)
    ∧ (∀ r, alive d = true → d.sit.restart = some r → r.slot < 2 →
      ∃ e, exec (.sitonelRestartDone true) s = .next (s.after e) ∧ e.sit.restart = none ∧ runningSlot e = r.slot ∧ (d.sit.handler = [] → fbit e Reg.SIT_STATUS Fd.SIT_STATUS_restarting = false)
        ∧ e.sit.trial = r.prev.map (fun s => (s, ns d + 10 * 10 ^ 9)))
    ∧ (∀ r, alive d = true → d.sit.restart = some r → r.prev = none →
      exec (.sitonelRestartDone false) s = .next (s.after { d with sit := { d.sit with fails := d.sit.fails.filter (fun t => decide (ns d < t + 600 * 10 ^ 9)) ++ [ns d] } }))

/-- R550, R551, R552, R553. ATTEST_QUOTE takes a nonce into the batch; with no leaf left it answers ST_SIGN_EXHAUSTED. ATTEST_BATCH_CLOSE of a batch
that is due spends one leaf of the signing key in all three copies and answers every nonce of the batch with one quote; where a copy cannot be written
no quote is given and FS_983 is raised. -/
def Obligations.QuotesSpendLeaves : Prop :=
  ∀ (s : State) (h : CmdHdr) (p : List Byte),
    (let d := dequeue s.dev h 0x0810;
      Admitted 0x0810 false false h s.dev → p.length = 32 →
        (attestLeft d ≠ 0 → exec (.attestQuote h p) s = .next (s.after (recordWait { d with sit := { d.sit with batch := d.sit.batch ++ [(hdrReply h 0x0810, p, ns d)] } } h 0x0810 p)))
        ∧ (attestLeft d = 0 → exec (.attestQuote h p) s = .next (s.after (reply d (hdrReply h 0x0810) St.signExhausted []))))
    ∧ (∀ b, alive s.dev = true → s.dev.sit.restart = none → s.dev.sit.batch = [b] → b.2.2 + batchNs s.dev ≤ ns s.dev → 65537 < attestLeft s.dev →
      let k := attestKey s.dev
      let n := leafOf s.dev k
      let d := { s.dev with sit := { s.dev.sit with batch := [] } }
      let e := leafPut (leafPut (leafPut d k 0 (n + 1)) k 1 (n + 1)) k 2 (n + 1)
      exec (.attestBatchClose true) s = .next (s.after (replyPartsLate (event (bump e Reg.SIT_QUOTE_CNT) 6 0 [k]) b.1 St.ok (chunksOf 2048 8 (quote d [b.2.1])))) ∧ leafOf e k = n + 1)
    ∧ (∀ b, alive s.dev = true → s.dev.sit.restart = none → s.dev.sit.batch = [b] → b.2.2 + batchNs s.dev ≤ ns s.dev → 65540 < attestLeft s.dev →
      ∃ e, exec (.attestBatchClose false) s = .next (s.after (replyLate (raise e 983) b.1 St.signExhausted [])) ∧ e.sit.batch = []
        ∧ { e with sit := { e.sit with batch := s.dev.sit.batch, leaves := s.dev.sit.leaves }, free := s.dev.free } = s.dev)

/-- R545, R547, R548, R549. FW_LOAD into the slot that does not run stores the bytes and marks the slot as not valid; into the running slot it answers
ST_UPDATE_BUSY. FW_ACTIVATE of an image that verifies, with no long command running, restarts into it; of one that does not it answers
ST_IMAGE_INVALID. FW_CONFIRM, 10 s after the start, makes the running slot the confirmed one; FW_REVERT before that goes back, sets reverted and
raises FS_980. -/
def Obligations.FirmwareChangesHands : Prop :=
  ∀ (s : State) (h : CmdHdr) (p : List Byte),
    (let d := dequeue s.dev h 0x0820
      let t := field p 0 1
      Admitted 0x0820 true false h s.dev → 8 ≤ p.length → t ≤ 1 → field p 1 3 = 0 → field p 4 4 + (p.length - 8) ≤ 2 ^ 24 → draining d = false → d.sit.restart = none →
        (t ≠ runningSlot d → d.sit.events.length < 262144 →
          ∃ e, exec (.fwLoad h p) s = .next (s.after (answered e h 0x0820 p [])) ∧ slotValid e t = false ∧ (∀ i, i < 2 ^ 24 → fwByte e t i = if field p 4 4 ≤ i ∧ i < field p 4 4 + (p.length - 8) then p.getD (8 + (i - field p 4 4)) 0 else fwByte d t i)
            ∧ (∀ i, i < 2 ^ 24 → fwByte e (1 - t) i = fwByte d (1 - t) i))
        ∧ (t = runningSlot d → exec (.fwLoad h p) s = .next (s.after (reply d (hdrReply h 0x0820) St.updateBusy []))))
    ∧ (let d := dequeue s.dev h 0x0821
      let t := field p 0 1
      ∀ ok : Bool, Admitted 0x0821 true false h s.dev → p.length = 1 → t ≤ 1 →
        (fwVerifies d t ok = false → exec (.fwActivate h p ok) s = .next (s.after (reply d (hdrReply h 0x0821) St.imageInvalid [])))
        ∧ (fwVerifies d t ok = true → longRunning d = true → exec (.fwActivate h p ok) s = .next (s.after (reply d (hdrReply h 0x0821) St.updateBusy [])))
        ∧ (fwVerifies d t ok = true → longRunning d = false → d.seq.buckets = [] ∨ fwMajor d t = fwMajor d (runningSlot d) →
          let e := slotMark d t true
          exec (.fwActivate h p ok) s = .next (s.after (recordWait (fset (event { e with sit := { e.sit with restart := some ⟨t, some (confirmedSlot e), some (hdrReply h 0x0821)⟩ } } 2 4 [t])
            Reg.SIT_STATUS Fd.SIT_STATUS_restarting 1) h 0x0821 p))))
    ∧ (∀ x, alive s.dev = true → s.dev.sit.trial = some x → s.dev.sit.restart = none →
      (x.2 ≤ ns s.dev → ∃ e, exec .fwConfirm s = .next (s.after e) ∧ confirmedSlot e = runningSlot s.dev ∧ e.sit.trial = none)
      ∧ (∃ e, exec .fwRevert s = .next (s.after e) ∧ fbit e Reg.SIT_FW_STATUS Fd.SIT_FW_STATUS_reverted = true ∧ e.sit.trial = none ∧ (∃ r, e.sit.restart = some r ∧ r.slot = confirmedSlot s.dev)
        ∧ (srcOf e 980).count = satInc (srcOf s.dev 980).count 1))

/-- R554, R555. SERVICE_DRAIN starts a drain: draining 1, every fault light blinking. SERVICE_DRAIN_COMPLETE, with nothing left to wait for, ends it:
drained 1, the fault lights automatic, the locate lights on, the requester answered. ATTN_PRESS of less than 50 ms does nothing, of less than 4 s
toggles locate for 300 s, of more starts a drain and raises FS_984. LOCATE_TIMEOUT ends locate. -/
def Obligations.DrainsAndTheButton : Prop :=
  ∀ (s : State) (h : CmdHdr) (p : List Byte),
    let lights := fun (d e : Dev) (f : Nat × Nat) (v : Nat) => ∀ q, q < 128 → rg e (Reg.PORT_LED q) = putBits (rg d (Reg.PORT_LED q)) f.1 f.2 v
    (let d := dequeue s.dev h 0x0830;
      Admitted 0x0830 true false h s.dev →
        (p = [0] → draining d = false → ∃ e, exec (.serviceDrain h p) s = .next (s.after (recordWait e h 0x0830 p)) ∧ draining e = true ∧ fbit e Reg.SIT_STATUS Fd.SIT_STATUS_drained = false
          ∧ e.sit = { d.sit with drain := some (hdrReply h 0x0830) } ∧ lights d e Fd.PORT_LED_fault_sw 3)
        ∧ (p = [0] → draining d = true → exec (.serviceDrain h p) s = .next (s.after (reply d (hdrReply h 0x0830) St.updateBusy [])))
        ∧ (p = [0x80] → draining d = true → d.sit.drain = none → ∃ e, exec (.serviceDrain h p) s = .next (s.after (answered e h 0x0830 p [])) ∧ draining e = false ∧ lights d e Fd.PORT_LED_fault_sw 0))
    ∧ (let d := s.dev
      alive d = true → draining d = true → drainIdle d = true → d.sit.restart = none →
        ∃ e, exec .serviceDrainComplete s = .next (s.after (match d.sit.drain with
            | some q => replyLate e q St.ok []
            | none => e))
          ∧ draining e = false ∧ fbit e Reg.SIT_STATUS Fd.SIT_STATUS_drained = true ∧ e.sit = { d.sit with drain := none }
          ∧ (∀ q, q < 128 → fget e (Reg.PORT_LED q) Fd.PORT_LED_fault_sw = 0 ∧ fbit e (Reg.PORT_LED q) Fd.PORT_LED_locate = true))
    ∧ (∀ ms : BitVec 32, alive s.dev = true → s.dev.sit.events.length < 262144 →
      let l := fbit s.dev Reg.SIT_STATUS Fd.SIT_STATUS_locate
      (ms.toNat < 50 → exec (.attnPress ms) s = .next (s.after s.dev))
      ∧ (50 ≤ ms.toNat → ms.toNat < 4000 → ∃ e, exec (.attnPress ms) s = .next (s.after e) ∧ fbit e Reg.SIT_STATUS Fd.SIT_STATUS_locate = !l ∧ e.sit.locate = (if l = true then none else some (ns s.dev + 300 * 10 ^ 9))
        ∧ lights s.dev e Fd.PORT_LED_locate (!l).toNat)
      ∧ (4000 ≤ ms.toNat → draining s.dev = false → ∃ e, exec (.attnPress ms) s = .next (s.after (raise e 984)) ∧ draining e = true ∧ e.sit.drain = none ∧ lights s.dev e Fd.PORT_LED_fault_sw 3))
    ∧ (∀ t, alive s.dev = true → s.dev.sit.locate = some t →
      (t ≤ ns s.dev → ∃ e, exec .locateTimeout s = .next (s.after e) ∧ fbit e Reg.SIT_STATUS Fd.SIT_STATUS_locate = false ∧ e.sit.locate = none ∧ lights s.dev e Fd.PORT_LED_locate 0)
      ∧ (ns s.dev < t → exec .locateTimeout s = .next (s.after s.dev)))

/-- R14, R517, R518. What a write makes of each field of every assigned register: an RO field stays, an RW field takes the value, a W1C field loses
the bits written 1, a trigger and a command field act and keep nothing; a guarded field that the write would change is left alone, without an act,
where the writer holds no unlock or is not secure, and the write is then marked as refused. -/
def Obligations.FieldsTakeTheirValues : Prop :=
  ∀ (a : Nat) (fs : List Fld) (f : Fld) (old v : Nat) (unlocked secure : Bool), regFlds a = some fs → f ∈ fs →
    let w := wordWrite fs old v unlocked secure
    let o := bits old f.hi f.lo
    let x := bits v f.hi f.lo
    let stopped := fldChange f o x = true ∧ ((f.lock = true ∧ unlocked = false) ∨ (f.sec = true ∧ secure = false))
    (stopped → bits w.new f.hi f.lo = o ∧ bits w.act f.hi f.lo = 0)
    ∧ (¬stopped → bits w.new f.hi f.lo = (match f.acc with | .ro => o | .rw => x | .w1c => o - (o &&& x) | .trig => o | .cmd => o)
      ∧ bits w.act f.hi f.lo = (match f.acc with | .ro => 0 | .rw => 0 | .w1c => 0 | .trig => x | .cmd => x))
    ∧ (w.lock = true ↔ unlocked = false ∧ ∃ g ∈ fs, g.lock = true ∧ fldChange g (bits old g.hi g.lo) (bits v g.hi g.lo) = true)
    ∧ (w.deny = true ↔ secure = false ∧ ∃ g ∈ fs, g.sec = true ∧ fldChange g (bits old g.hi g.lo) (bits v g.hi g.lo) = true)

/-- R512, R514, R517, R518. REGISTER_WRITE and the alias writes on a register of a block whose registers only hold values (SEQ, MTR, LSN): the
register becomes what its fields make of the written word, for a set, clear or toggle alias of old OR, AND NOT or XOR data; the requester's unlock is
consumed, a refused locked or denied field is counted, and nothing else changes. -/
def Obligations.WritesReachTheirRegister : Prop :=
  ∀ (s : State) (who : Req) (addr : BitVec 28) (v : Word) (b : BlkRow) (inst : Nat) (fs : List Fld),
    let d := s.dev
    let a := addr.toNat
    let base := blkBase a
    let free := fbit d (Reg.BLK_STATUS base) (unlockFld who)
    let sec := reqSecure d who
    BusReady d → blkOf a = some (b, inst) → b.kind = 0x09 ∨ b.kind = 0x0A ∨ b.kind = 0x0B → 0x100 ≤ a % 0x4000 → a % 0x4000 < 0x1000 → regFlds a = some fs → multiWord a = none →
    sec = true ∨ blkSecure d b.kind = false →
    ∀ (op : Nat) (c : Instr),
      (op = 0 ∧ c = .registerWrite who addr v 15) ∨ (op = 1 ∧ c = .setAliasWrite who addr v 15) ∨ (op = 2 ∧ c = .clearAliasWrite who addr v 15) ∨ (op = 3 ∧ c = .toggleAliasWrite who addr v 15) →
      let w := wordWrite fs (rg d a) (aliasWord fs op (rg d a) v.toNat) free sec
      ∃ e, exec c s = .next (s.after e) ∧ rg e a = w.new % 2 ^ 32 ∧ fbit e (Reg.BLK_STATUS base) (unlockFld who) = false
        ∧ rg e (Reg.BLK_LOCK_FAIL_CNT base) = satInc (rg d (Reg.BLK_LOCK_FAIL_CNT base)) w.lock.toNat ∧ rg e (Reg.BLK_WORLD_DENY_CNT base) = satInc (rg d (Reg.BLK_WORLD_DENY_CNT base)) w.deny.toNat
        ∧ OnlyRegs [a, Reg.BLK_STATUS base, Reg.BLK_LOCK_FAIL_CNT base, Reg.BLK_WORLD_DENY_CNT base] d e
        ∧ (∀ f ∈ fs, f.acc = .rw → f.lock = false → f.sec = false →
          let o := bits (rg d a) f.hi f.lo;
          let x := bits v.toNat f.hi f.lo;
          bits (rg e a) f.hi f.lo = if op = 0 then x else if op = 1 then o ||| x else if op = 2 then o - (o &&& x) else o ^^^ x)

/-- R512, R517, R518, R529. Writes that do not reach a register: with partial byte enables, or at an address that no chapter assigns, the access is
counted and latched in TOP_BAD_ADDR; of a non-secure requester in a secure block it is counted there as denied; during a fabric reset, in a block
above SNS, it has no effect. BLK_UNLOCK with the key unlocks the block for its requester, any other value locks it and is counted; CNT_CLEAR sets the
block's scoreboard counters to 0 and no other register. In a posted block both are taken as R516 says, and so carried out by POSTED_WRITE_DONE
(PostedWritesRun). -/
def Obligations.BlocksAreGuarded : Prop :=
  ∀ (s : State) (who : Req) (addr : BitVec 28) (v : Word) (be : BitVec 4) (b : BlkRow) (inst : Nat),
    let d := s.dev
    let a := addr.toNat
    let base := blkBase a
    let st := Reg.BLK_STATUS base
    alive d = true → a % 0x4000 < 0x1000 →
    (resetShields d a = true → exec (.registerWrite who addr v be) s = .next (s.after d))
    ∧ (resetShields d a = false → regFlds a = none ∨ be ≠ 15 →
      exec (.registerWrite who addr v be) s = .next (s.after (bump (rgPut d Reg.TOP_BAD_ADDR (putBit (putBit (putBit a 31 true) 30 (decide (be ≠ 15))) 29 (decide (who = .mgmt)))) Reg.TOP_BAD_ADDR_CNT)))
    ∧ (blkOf a = some (b, inst) → resetShields d a = false →
      (∀ c : Instr, (c = .registerWrite who addr v 15 ∧ regFlds a ≠ none) ∨ c = .blkUnlock who addr v ∨ c = .cntClear who addr v → reqSecure d who = false → blkSecure d b.kind = true →
        exec c s = .next (s.after (fset (bump d (Reg.BLK_WORLD_DENY_CNT base)) st Fd.BLK_STATUS_world_denied 1)))
      ∧ (b.posted = true → reqSecure d who = true ∨ blkSecure d b.kind = false → ∀ (c : Instr) (r : Nat), (c = .blkUnlock who addr v ∧ r = Reg.BLK_UNLOCK base) ∨ (c = .cntClear who addr v ∧ r = Reg.BLK_CTRL base) →
        (postedAt d base = none →
          ∃ e, exec c s = .next (s.after e) ∧ postedAt e base = some ⟨r, decide (who = .mgmt), v, fbit d st (unlockFld who)⟩ ∧ fbit e st (unlockFld who) = false
            ∧ (∀ x, x ≠ base → postedAt e x = postedAt d x) ∧ OnlyRegs [st] d { e with bus := { e.bus with posted := d.bus.posted } })
        ∧ (postedAt d base ≠ none → exec c s = .next (s.after (fset d st Fd.BLK_STATUS_post_err 1))))
      ∧ (b.posted = false → reqSecure d who = true ∨ blkSecure d b.kind = false →
        (v = 0xC1A55E5A → ∃ e, exec (.blkUnlock who addr v) s = .next (s.after e) ∧ fbit e st (unlockFld who) = true ∧ OnlyRegs [st] d e)
        ∧ (v ≠ 0xC1A55E5A → ∃ e, exec (.blkUnlock who addr v) s = .next (s.after e) ∧ fbit e st (unlockFld who) = false ∧ fbit e st Fd.BLK_STATUS_lock_refused = true
          ∧ rg e (Reg.BLK_LOCK_FAIL_CNT base) = satInc (rg d (Reg.BLK_LOCK_FAIL_CNT base)) 1 ∧ OnlyRegs [st, Reg.BLK_LOCK_FAIL_CNT base] d e)
        ∧ (v.toNat % 2 = 1 → ∃ e, exec (.cntClear who addr v) s = .next (s.after e) ∧ { e with regs := d.regs } = d
          ∧ (∀ r, blkBase r = base → isCounter b.kind inst (r % 0x4000) = true → rg e r = (resetWord r).toNat)
          ∧ (∀ r, r ≠ st → ¬(blkBase r = base ∧ isCounter b.kind inst (r % 0x4000) = true) → rg e r = rg d r))))

/-- R516. A write of a posted block by a secure requester is taken and consumes the requester's unlock, while a further one sets post_err and does
nothing else: so for every command that is such a write. R392, R410, R411, R412, R413, R447, R515, R516, R517, R528, R543, R567. POSTED_WRITE_DONE
carries out the write that waits, and the block takes the next one. BLK_UNLOCK and BLK_CTRL act as in a block that is not posted. LINK_CTRL: en 1 starts bring-up, en 0 takes the link down, a loopback puts it into LOOPBACK, prbs_en follows outside service.
LINK_EXPECT releases a link held at step 6. HBM_STK_CTRL fences a stack without regions and returns one that is cool. SIT_BLK_WORLD takes the worlds
but for the four fixed ones. TOP_CTRL halts the fabric, or resets it: every block but the first four at its reset values, the log, the regions of
software and Sitonel kept. -/
def Obligations.PostedWritesRun : Prop :=
  (∀ (s : State) (who : Req) (v : Word) (l : Fin 128) (k : BitVec 4) (c : Instr) (a : Nat),
      let d := s.dev
      let base := blkBase a
      BusReady d → reqSecure d who = true →
      (c, a) ∈ [(.linkEnable who l v, Reg.LINK_CTRL l.val), (.linkRetrain who l v, Reg.LINK_CTRL l.val), (.linkLoopbackSelect who l v, Reg.LINK_CTRL l.val), (.linkPrbsEnable who l v, Reg.LINK_CTRL l.val),
        (.linkExpectWrite who l v, Reg.LINK_EXPECT l.val), (.hbmFence who k v, Reg.HBM_STK_CTRL k.toNat), (.hbmUnfence who k v, Reg.HBM_STK_CTRL k.toNat),
        (.sitBlkWorldWrite who v, Reg.SIT_BLK_WORLD), (.fabricReset who v, Reg.TOP_CTRL), (Instr.haltGo who v, Reg.TOP_CTRL)] →
      (postedAt d base = none →
        ∃ e, exec c s = .next (s.after e) ∧ postedAt e base = some ⟨a, decide (who = .mgmt), v, fbit d (Reg.BLK_STATUS base) (unlockFld who)⟩ ∧ fbit e (Reg.BLK_STATUS base) (unlockFld who) = false
          ∧ (∀ x, x ≠ base → postedAt e x = postedAt d x) ∧ (∀ r, r ≠ Reg.BLK_STATUS base → rg e r = rg d r) ∧ { e with regs := d.regs, bus := { e.bus with posted := d.bus.posted } } = d)
      ∧ (postedAt d base ≠ none → exec c s = .next (s.after (fset d (Reg.BLK_STATUS base) Fd.BLK_STATUS_post_err 1))))
  ∧ (∀ (s : State) (addr : BitVec 28) (p : Posted),
        let d := s.dev
        let base := blkBase addr.toNat
        let who : Req := if p.mgmt = true then .mgmt else .host
        alive d = true → postedAt d base = some p →
        ∃ e, exec (.postedWriteDone addr) s = .next (s.after e) ∧ postedAt e base = none
          ∧ (∀ b inst, blkOf base = some (b, inst) → reqSecure d who = true ∨ blkSecure d b.kind = false →
            (p.addr = Reg.BLK_UNLOCK base → p.data = 0xC1A55E5A → fbit e (Reg.BLK_STATUS base) (unlockFld who) = true ∧ OnlyRegs [Reg.BLK_STATUS base] d { e with bus := d.bus })
            ∧ (p.addr = Reg.BLK_CTRL base → p.data.toNat % 2 = 1 →
              (∀ r, blkBase r = base → isCounter b.kind inst (r % 0x4000) = true → rg e r = (resetWord r).toNat)
              ∧ (∀ r, ¬(blkBase r = base ∧ isCounter b.kind inst (r % 0x4000) = true) → rg e r = rg d r))))
  ∧ (∀ (s : State) (addr : BitVec 28) (p : Posted),
        let d := s.dev
        let v := p.data.toNat
        BusReady d → postedAt d (blkBase addr.toNat) = some p → reqSecure d (if p.mgmt then .mgmt else .host) = true → p.unlocked = true →
        ∃ e, exec (.postedWriteDone addr) s = .next (s.after e) ∧ (∀ l, l < 128 → p.addr = Reg.LINK_CTRL l →
            (bits v 27 25 = 0 → linkLoop d l = 0 → v.testBit 31 = true → linkCtl d l Fd.LINK_CTRL_en = false → linkStep d l = 0 → bits v 19 19 = 0 → bits v 17 17 = 0 → v.testBit 29 = false →
              linkStep e l = if fbit d (Reg.LINK_STATUS l) Fd.LINK_STATUS_present = true ∧ fbit d (Reg.LINK_STATUS l) Fd.LINK_STATUS_latch_closed = true ∧ (dynOf d l).powered = true ∧ (dynOf d l).fenced = false
                ∧ fbit d Reg.TOP_STATUS Fd.TOP_STATUS_ready = true ∧ tget false d.pkg.lost (l / 16) = false then 1 else 0)
            ∧ (bits v 27 25 = 0 → v.testBit 31 = false → linkStep e l = 0 ∧ linkCtl e l Fd.LINK_CTRL_en = false)
            ∧ (1 ≤ bits v 27 25 → bits v 27 25 ≤ 3 → linkLoop d l = 0 → linkStep e l = 11 ∧ linkLoop e l = bits v 27 25)
            ∧ (linkCarries d l = false → fget e (Reg.LINK_CTRL l) Fd.LINK_CTRL_prbs_en = bits v 24 24)
            ∧ (linkCarries d l = true → v.testBit 31 = true → bits v 27 25 = 0 → v.testBit 29 = false → linkLoop d l = 0 → fget e (Reg.LINK_CTRL l) Fd.LINK_CTRL_prbs_en = fget d (Reg.LINK_CTRL l) Fd.LINK_CTRL_prbs_en ∧ linkStep e l = linkStep d l)
            ∧ (v.testBit 29 = true → rg e (Reg.LINK_RETRAIN_CNT l) = satInc (rg d (Reg.LINK_RETRAIN_CNT l)) 1 ∧ fget e (Reg.LINK_STATUS l) Fd.LINK_STATUS_tries_used = 0 ∧ (dynOf e l).fenced = false))
          ∧ (∀ l, l < 128 → p.addr = Reg.LINK_EXPECT l → linkStep d l = 6 → (dynOf d l).held = true → fget d (Reg.LINK_PEER l) (23, 0) = bits v Fd.LINK_EXPECT_coord.1 Fd.LINK_EXPECT_coord.2 →
            linkStep e l = 7 ∧ (dynOf e l).held = false)
          ∧ (∀ k, k < 16 → p.addr = Reg.HBM_STK_CTRL k →
            (v.testBit 31 = true → v.testBit 30 = false → stkFenced d k = false → d.mem.regions = [] → d.mem.evacs = [] → stkState e k = 4)
            ∧ (v.testBit 31 = false → v.testBit 30 = true → stkFenced d k = true → fget d (Reg.HBM_STK_STATUS k) Fd.HBM_STK_STATUS_temp < fget d Reg.MEM_THERM_CFG Fd.MEM_THERM_CFG_warm → d.mem.regions = [] → stkState e k = 0))
          ∧ (p.addr = Reg.SIT_BLK_WORLD → rg e Reg.SIT_BLK_WORLD = (v ||| 0x9C) &&& 0xFFFFFE ∧ (∀ r, r ≠ Reg.SIT_BLK_WORLD → rg e r = rg d r))
          ∧ (p.addr = Reg.TOP_CTRL →
            (v.testBit 30 = true → v.testBit 31 = false → halted e = true ∧ (∀ r, r ≠ Reg.REF_STATUS → rg e r = rg d r))
            ∧ (v.testBit 31 = true → halted e = false ∧ resetBusy e = true ∧ rg e Reg.TOP_RESET_CAUSE = 2 ∧ fbit e Reg.TOP_STATUS Fd.TOP_STATUS_ready = false ∧ bellState e = 0 ∧ e.clk.now = 0
              ∧ e.seq = Dev.reset.seq ∧ e.rte = Dev.reset.rte ∧ e.tm = Dev.reset.tm ∧ e.cmd = Dev.reset.cmd ∧ e.ckp = Dev.reset.ckp ∧ e.lnk = Dev.reset.lnk ∧ e.ref.src = []
              ∧ (∀ a, 0x4000 ≤ a → a < 0x10000 → rg e a = rg d a) ∧ e.log = d.log ∧ e.mem.hbm = d.mem.hbm ∧ e.sit.fw = d.sit.fw ∧ e.sit.events = d.sit.events
              ∧ (∀ i, i ≠ 1 → i ≠ 2 → i ≠ 4 → i ≠ 5 → regionAt e i = regionAt d i) ∧ (∀ q, q < 272 → deskState d q = 5 → deskState e q = 5))))

/-- R513, R519, R520. MULTIWORD_LATCH_READ: a read of the lowest word of a field of several words answers it and latches the higher ones for that
requester, whose reads then answer the latched words; a read of any other register answers it and changes nothing. VOTE_SWEEP: changes in one copy of
a voted register are outvoted and repaired, counted, and raise FS_972; where every copy of a field differs it takes its reset value, with vote_fail
and FS_973. -/
def Obligations.ReadsLatchAndVotesRepair : Prop :=
  ∀ (s : State) (who : Req) (addr : BitVec 28),
    let d := s.dev
    let a := addr.toNat
    (BusReady d → (∀ b inst, blkOf a = some (b, inst) → reqSecure d who = true ∨ blkSecure d b.kind = false) → a % 0x4000 < 0x1000 → regFlds a ≠ none →
      ∃ e, exec (.multiwordLatchRead who addr) s = .next (s.after e) ∧ { e with bus := d.bus } = d ∧ e.bus.posted = d.bus.posted ∧ e.bus.held = d.bus.held
        ∧ (multiWord a = none → tget 0 e.bus.last (decide (who = .mgmt)).toNat = regView d a ∧ e.bus.latch = d.bus.latch)
        ∧ (∀ lo n, multiWord a = some (lo, n) →
          (a = lo → tget 0 e.bus.last (decide (who = .mgmt)).toNat = regView d lo ∧ ∀ i, 1 ≤ i → i < n → tget none e.bus.latch (busKey who (lo + 4 * i)) = some (regView d (lo + 4 * i)))
          ∧ (a ≠ lo → e.bus.latch = d.bus.latch ∧ ∀ x, tget none d.bus.latch (busKey who a) = some x → tget 0 e.bus.last (decide (who = .mgmt)).toNat = x)))
    ∧ (∀ (b : BlkRow) (inst : Nat) (fs : List Fld) (c : Fin 3) (x : Word), alive d = true → blkOf a = some (b, inst) → regFlds a = some fs →
      let hit := (fs.filter (triple b.kind (a % 0x4000))).filter (fun f => decide (bits x.toNat f.hi f.lo ≠ 0))
      exec (.voteSweep [(addr, c, x)]) s = .next (s.after (if hit = [] then d else raiseOnce (bump d (Reg.VOTE_MISMATCH_CNT (blkBase a)) hit.length) 972 0)))
    ∧ (∀ (b : BlkRow) (inst : Nat) (fs : List Fld) (f : Fld) (x y : Word), alive d = true → blkOf a = some (b, inst) → b.kind ≠ 0x08 → b.kind ≠ 0x0E → regFlds a = some fs → f ∈ fs → triple b.kind (a % 0x4000) f = true → 0x100 ≤ a % 0x4000 →
      bits x.toNat f.hi f.lo ≠ 0 → bits y.toNat f.hi f.lo ≠ 0 → bits x.toNat f.hi f.lo ≠ bits y.toNat f.hi f.lo → (∀ g ∈ fs, g ≠ f → bits x.toNat g.hi g.lo = 0 ∧ bits y.toNat g.hi g.lo = 0) →
      ∃ e, exec (.voteSweep [(addr, 0, x), (addr, 1, y)]) s = .next (s.after (raise e 973)) ∧ bits (rg e a) f.hi f.lo = bits (resetWord a).toNat f.hi f.lo
        ∧ fbit e (Reg.BLK_STATUS (blkBase a)) Fd.BLK_STATUS_vote_fail = true ∧ OnlyRegs [a, Reg.BLK_STATUS (blkBase a)] d e)

/-- R541, R566, R567, R570. FUNCTION_LEVEL_RESET and PCIE_PERST clear the host's latches and unlocks, rx_en and the submit slots and leave Sitonel's;
PCIE_LINK_DOWN drops what waits for the host and raises FS_985; BUS_MASTERING_CHANGE and PCIE_LINK_UP set their state. REFCLK_LOSS of the management
clock moves it to the oscillator, of PCI Express takes its link down, of lane input 0 runs the HALT action; REFCLK_RETURN restores the clock.
THERMTRIP at 115 °C drives THERMTRIP_N low. -/
def Obligations.TheFunctionAndTheClocks : Prop :=
  ∀ (s : State),
    let d := s.dev
    let flrd := fun (e : Dev) => fbit e Reg.CMD_CTRL Fd.CMD_CTRL_rx_en = false ∧ e.cmd.slots = [] ∧ e.cmd.subQ = [] ∧ e.cmd.rxWait = [] ∧ (∀ a, tget none e.bus.latch (busKey .host a) = none)
      ∧ (∀ a, tget none e.bus.latch (busKey .mgmt a) = tget none d.bus.latch (busKey .mgmt a)) ∧ (∀ b ∈ blkBases, fbit e (Reg.BLK_STATUS b) Fd.BLK_STATUS_unlocked_host = false)
      ∧ e.seq = d.seq ∧ e.sit = d.sit ∧ e.tm = d.tm ∧ e.log = d.log
    (alive d = true →
      (∃ e, exec .functionLevelReset s = .next (s.after e) ∧ flrd e ∧ e.pkg = d.pkg)
      ∧ (∃ e, exec .pciePerst s = .next (s.after e) ∧ flrd e ∧ e.pkg = { d.pkg with pcieUp := false, busM := false })
      ∧ (exec .pcieLinkUp s = .next (s.after { d with pkg := { d.pkg with pcieUp := true } }))
      ∧ (∃ e, exec .pcieLinkDown s = .next (s.after (raise e 985)) ∧ e.pkg = { d.pkg with pcieUp := false } ∧ e.cmd = { d.cmd with rxWait := [] })
      ∧ (exec (.busMasteringChange true) s = .next (s.after { d with pkg := { d.pkg with busM := true } }))
      ∧ (∃ e, exec (.busMasteringChange false) s = .next (s.after e) ∧ e.pkg = { d.pkg with busM := false } ∧ e.cmd = { d.cmd with rxWait := [] }))
    ∧ (∀ i : Fin 10, ∃ e, exec (.refclkLoss i) s = .next (s.after e) ∧ tget false e.pkg.lost i.val = true
      ∧ (i.val = 9 → fbit e Reg.CLK_STATUS Fd.CLK_STATUS_mgmt_ref_lost = true ∧ fbit e Reg.CLK_STATUS Fd.CLK_STATUS_mgmt_on_osc = true)
      ∧ (i.val = 8 → fbit e Reg.CLK_STATUS Fd.CLK_STATUS_pcie_ref_lost = true ∧ e.pkg.pcieUp = false)
      ∧ (i.val < 8 → (fget e Reg.CLK_STATUS Fd.CLK_STATUS_lane_ref_lost).testBit i.val = true ∧ (∀ j, j < 16 → linkCarries e (16 * i.val + j) = false))
      ∧ (i.val = 0 → halted e = true))
    ∧ (∀ i : Fin 10, ∃ e, exec (.refclkReturn i) s = .next (s.after e) ∧ tget false e.pkg.lost i.val = false
      ∧ (i.val = 9 → tget false d.pkg.lost 9 = true → fbit e Reg.CLK_STATUS Fd.CLK_STATUS_mgmt_on_osc = false)
      ∧ (tget false d.pkg.lost i.val = false → e = d))
    ∧ (∀ t : BitVec 32, exec (.thermtrip t) s = .next (s.after (if 115000 ≤ t.toInt then { d with pkg := { d.pkg with thermN := false } } else d)))

/-- R374, R546, R567, R568. FABRIC_RESET_DONE ends a reset in progress and DEVICE_READY the boot: once regions 1 to 7 stand, ready reads 1.
MANAGEMENT_RESET, after three failed restarts within 10 minutes, and POWER_ON_RESET of a device that PORST_N holds put every block at its reset values
and start the confirmed slot, or the other where it fails; with neither, only Sitonel answers. PORST_N_LOW holds the device. What Sitonel's flash
holds is kept throughout. -/
def Obligations.ResetsStartTheDevice : Prop :=
  ∀ (s : State),
    let d := s.dev
    let flash := fun (e : Dev) => e.sit.fw = d.sit.fw ∧ e.sit.events = d.sit.events ∧ e.sit.leaves = d.sit.leaves ∧ e.mem.retired = d.mem.retired ∧ e.mem.hbm = [] ∧ e.mem.regions = []
    let fresh := fun (e : Dev) => e.seq = Dev.reset.seq ∧ e.cmd = Dev.reset.cmd ∧ e.log = [] ∧ e.clk = Dev.reset.clk ∧ e.ref.src = [] ∧ halted e = false ∧ fbit e Reg.TOP_STATUS Fd.TOP_STATUS_ready = false
    (alive d = true → resetBusy d = true →
      let e0 := fset d Reg.TOP_STATUS Fd.TOP_STATUS_reset_busy 0
      ((placeAll e0).2 = true → ∃ e, exec .fabricResetDone s = .next (s.after e) ∧ resetBusy e = false ∧ fbit e Reg.TOP_STATUS Fd.TOP_STATUS_ready = true ∧ e.pkg.phase = .up
        ∧ (∀ i, 1 ≤ i → i ≤ 7 → (regionAt e i).valid = true))
      ∧ ((placeAll e0).2 = false → exec .fabricResetDone s = .next (s.after (event (placeAll e0).1 8 0))))
    ∧ (d.pkg.phase = .booting → resetBusy d = false → (placeAll d).2 = true →
      ∃ e, exec .deviceReady s = .next (s.after e) ∧ fbit e Reg.TOP_STATUS Fd.TOP_STATUS_ready = true ∧ e.pkg.phase = .up ∧ (∀ i, 1 ≤ i → i ≤ 7 → (regionAt e i).valid = true))
    ∧ (alive d = true → 3 ≤ (d.sit.fails.filter (fun t => decide (ns d ≤ t + 600 * 10 ^ 9))).length → slotValid d (confirmedSlot d) = true →
      ∃ e, exec .managementReset s = .next (s.after e) ∧ flash e ∧ fresh e ∧ e.pkg.phase = .booting ∧ runningSlot e = confirmedSlot d ∧ confirmedSlot e = confirmedSlot d ∧ rg e Reg.TOP_RESET_CAUSE = 4
        ∧ (∀ q, q < 272 → deskState d q = 5 → deskState e q = 5))
    ∧ (∀ a b : Bool, d.pkg.phase = .held →
      ∃ e, exec (.powerOnReset a b) s = .next (s.after e) ∧ flash e ∧ fresh e ∧ e.pkg.porstN = true ∧ rg e Reg.TOP_RESET_CAUSE = 1 ∧ confirmedSlot e = confirmedSlot d
        ∧ ((if confirmedSlot d = 0 then a else b) = true → e.pkg.phase = .booting ∧ runningSlot e = confirmedSlot d)
        ∧ ((if confirmedSlot d = 0 then a else b) = false → (if confirmedSlot d = 0 then b else a) = true → e.pkg.phase = .booting ∧ runningSlot e = 1 - confirmedSlot d)
        ∧ (a = false → b = false → e.pkg.phase = .dead))
    ∧ (∃ e, exec .porstNLow s = .next (s.after e) ∧ flash e ∧ fresh e ∧ e.pkg.porstN = false ∧ e.pkg.phase = (if d.pkg.phase = .off then .off else .held))

/-- R561, R563, R564. RAIL_RISE of a rail within its absolute maximum keeps its voltage; a rail above 0.2 V before its turn is latched in
PWR_SEQ_STATUS; with every rail within tolerance and no violation the device is held by PORST_N alone. POWER_LOSS takes the contents but for the
flash. A voltage beyond the absolute maximum, and a fall that breaks the order and leaves a later rail up for more than 10 ms, end in the faults named
for them: nothing in the manual holds then. -/
def Obligations.RailsRiseAndFall : Prop :=
  ∀ (s : State) (i : Fin 10) (mv ms : BitVec 16),
    let d := s.dev
    let up := { d with pkg := { d.pkg with rails := d.pkg.rails.set i.val mv.toNat } }
    (railMax i.val < mv.toNat → exec (.railRise i mv) s = .fault .overAbsoluteMax)
    ∧ (mv.toNat ≤ railMax i.val → ∃ e, exec (.railRise i mv) s = .next (s.after e) ∧ e.pkg.rails = d.pkg.rails.set i.val mv.toNat
      ∧ (d.pkg.phase = .off → d.pkg.order = false → railsOk up = true → e.pkg.phase = .held)
      ∧ (d.pkg.phase = .off → railOk 0 (railMv up 0) = true → 200 < railMv up i.val → railMayRise up i.val = false → i.val ≠ 0 →
        fbit e Reg.PWR_SEQ_STATUS Fd.PWR_SEQ_STATUS_order_err = true ∧ (fget e Reg.PWR_SEQ_STATUS Fd.PWR_SEQ_STATUS_err_rail).testBit i.val = true ∧ e.pkg.phase = .off)
      ∧ (d.pkg.phase ≠ .off → e.pkg.phase = d.pkg.phase ∧ e.regs = d.regs))
    ∧ (fallBreaks d i.val = true → 10 < ms.toNat → railUpLater d i.val = true → exec (.powerLoss i ms) s = .fault .unplannedFall)
    ∧ (fallBreaks d i.val = false ∨ ms.toNat ≤ 10 ∨ railUpLater d i.val = false →
      ∃ e, exec (.powerLoss i ms) s = .next (s.after e) ∧ e.pkg.rails = d.pkg.rails.set i.val 0 ∧ e.mem.hbm = [] ∧ e.log = [] ∧ e.seq = Dev.reset.seq ∧ e.sit.fw = d.sit.fw ∧ e.sit.events = d.sit.events
        ∧ e.mem.retired = d.mem.retired ∧ alive e = false ∧ (i.val = 6 → e.pkg.thermN = true))
end

