-- ==== Sys2Proof/Laws/Act.lean ====
section
/-! SUPPORT. The form of every meaning: a command acts, and what is due settles; what the running of a command packet comes to. -/

namespace Sys2Proof.Machine

theorem act_next {f : Dev → Dev} {s : State} (h : alive s.dev = true) : act f s = .next (s.after (f s.dev)) := by
  simp [act, h, State.after]

theorem act_idle {f : Dev → Dev} {s : State} (h : alive s.dev = false) : act f s = .next s := by simp [act, h]

theorem actReg_next {f : Dev → Dev} {s : State} (h : alive s.dev = true) : actReg f s = .next (s.after (f s.dev)) := by
  simp [actReg, h, State.after]

theorem actAlways_next (f : Dev → Dev) (s : State) : actAlways f s = .next (s.after (f s.dev)) := rfl

/-- What `act` can answer: a next state with the same queue. -/
theorem act_cases (f : Dev → Dev) (s : State) :
    (alive s.dev = true ∧ act f s = .next (s.after (f s.dev))) ∨ (alive s.dev = false ∧ act f s = .next s) := by
  cases h : alive s.dev
  · exact .inr ⟨rfl, act_idle h⟩
  · exact .inl ⟨rfl, act_next h⟩

theorem actReg_cases (f : Dev → Dev) (s : State) : actReg f s = .next (s.after (f s.dev)) ∨ actReg f s = .next s := by
  unfold actReg
  split
  · exact .inl rfl
  · exact .inr rfl

@[simp] theorem after_pending (s : State) (e : Dev) : (s.after e).pending = s.pending := rfl
@[simp] theorem after_dev (s : State) (e : Dev) : (s.after e).dev = settle e := rfl

theorem alive_of_running {d : Dev} (h : running d = true) : alive d = true ∧ halted d = false ∧ resetBusy d = false := by
  simp only [running, Bool.and_eq_true, Bool.not_eq_true'] at h
  exact ⟨h.1.1, h.1.2, h.2⟩

/-- What remains of a packet's running once it is admitted. -/
def admittedRun (row : Row) (h : CmdHdr) (p : List Byte) (a : Ans) (d : Dev) : Dev :=
  let r := hdrReply h row.code
  let rec' := fun x st => if row.query then x else recordCmd x h row.code p st
  match a with
  | .done x f => reply (rec' x St.ok) r St.ok f
  | .status x st t => reply x r st [] t
  | .parts x ps => replyParts (rec' x St.ok) r St.ok ps
  | .later x => if row.query then x else recordWait x h row.code p
  | .hold x => x
  | .bad off => replyBad d r off
  | .err st => reply d r st []
  | .errX st x => reply d r st x

theorem runCmd_admitted {row : Row} {h : CmdHdr} {d : Dev} (p : List Byte) (body : Dev → ReplyTo → Ans)
    (hd : Admitted row.code row.secure row.query h d) :
    runCmd row h p body d = admittedRun row h p (body (dequeue d h row.code) (hdrReply h row.code)) (dequeue d h row.code) := by
  obtain ⟨-, h1, h2, h3, h4⟩ := hd
  unfold runCmd
  rw [if_neg, if_neg, if_neg, if_neg]
  · rfl
  · rintro ⟨a, b⟩
    rcases h4 with h4 | h4
    · simp [h4] at a
    · simp [h4] at b
  · rintro ⟨a, b⟩
    simp [h3 a] at b
  · rintro ⟨a, b⟩
    simp [h2 a] at b
  · rintro ⟨a, b⟩
    rcases h1 with h1 | h1
    · simp [h1] at a
    · simp [h1] at b

/-- A command that is done. -/
theorem runCmd_done {row : Row} {h : CmdHdr} {d e : Dev} {f : List Byte} (p : List Byte) (body : Dev → ReplyTo → Ans)
    (hd : Admitted row.code row.secure row.query h d) (hq : row.query = false)
    (hb : body (dequeue d h row.code) (hdrReply h row.code) = .done e f) : runCmd row h p body d = answered e h row.code p f := by
  rw [runCmd_admitted p body hd, hb]
  simp [admittedRun, hq, answered]

/-- A query that is done. -/
theorem runCmd_query {row : Row} {h : CmdHdr} {d e : Dev} {f : List Byte} (p : List Byte) (body : Dev → ReplyTo → Ans)
    (hd : Admitted row.code row.secure row.query h d) (hq : row.query = true)
    (hb : body (dequeue d h row.code) (hdrReply h row.code) = .done e f) : runCmd row h p body d = queried e h row.code f := by
  rw [runCmd_admitted p body hd, hb]
  simp [admittedRun, hq, queried]

/-- The same at the level of a meaning. -/
theorem cmd_done {row : Row} {h : CmdHdr} {s : State} {e : Dev} {f : List Byte} {p : List Byte} {body : Dev → ReplyTo → Ans}
    (hd : Admitted row.code row.secure row.query h s.dev) (hq : row.query = false)
    (hb : body (dequeue s.dev h row.code) (hdrReply h row.code) = .done e f) :
    act (runCmd row h p body) s = .next (s.after (answered e h row.code p f)) := by
  rw [act_next hd.1, runCmd_done p body hd hq hb]

theorem cmd_query {row : Row} {h : CmdHdr} {s : State} {e : Dev} {f : List Byte} {p : List Byte} {body : Dev → ReplyTo → Ans}
    (hd : Admitted row.code row.secure row.query h s.dev) (hq : row.query = true)
    (hb : body (dequeue s.dev h row.code) (hdrReply h row.code) = .done e f) :
    act (runCmd row h p body) s = .next (s.after (queried e h row.code f)) := by
  rw [act_next hd.1, runCmd_query p body hd hq hb]

/-- A command that is rejected with a status changes nothing but its queue and its reply. -/
theorem runCmd_err {row : Row} {h : CmdHdr} {d : Dev} {st : Nat} (p : List Byte) (body : Dev → ReplyTo → Ans)
    (hd : Admitted row.code row.secure row.query h d) (hb : body (dequeue d h row.code) (hdrReply h row.code) = .err st) :
    runCmd row h p body d = reply (dequeue d h row.code) (hdrReply h row.code) st [] := by
  rw [runCmd_admitted p body hd, hb]
  rfl

theorem cmd_err {row : Row} {h : CmdHdr} {s : State} {st : Nat} {p : List Byte} {body : Dev → ReplyTo → Ans}
    (hd : Admitted row.code row.secure row.query h s.dev) (hb : body (dequeue s.dev h row.code) (hdrReply h row.code) = .err st) :
    act (runCmd row h p body) s = .next (s.after (reply (dequeue s.dev h row.code) (hdrReply h row.code) st [])) := by
  rw [act_next hd.1, runCmd_err p body hd hb]

theorem checks_pass {xs : List (Nat × Bool)} (a : Ans) (h : ∀ x ∈ xs, x.2 = true) : checks xs a = a := by
  have : firstBad xs = none := by
    induction xs with
    | nil => rfl
    | cons x xs ih =>
      obtain ⟨o, b⟩ := x
      have hb : b = true := h (o, b) (List.mem_cons_self ..)
      subst hb
      simpa [firstBad] using ih (fun y hy => h y (List.mem_cons_of_mem _ hy))
  simp [checks, this]

theorem needLen_pass {p : List Byte} {n : Nat} (a : Ans) (h : p.length = n) : needLen p n a = a := by simp [needLen, h]

end Sys2Proof.Machine
end

