-- ==== Sys2Proof/Laws/Bits.lean ====
section
/-! SUPPORT. Laws of bit fields: what a field reads as after it, or another field, is replaced. -/

namespace Sys2Proof.Machine

/-- A number with a field replaced: what lies above the field, the new field, what lies below. -/
theorem putBits_eq (n v : Nat) {hi lo : Nat} (h : lo ≤ hi) :
    putBits n hi lo v = n / 2 ^ (hi + 1) * 2 ^ (hi + 1) + v % 2 ^ (hi + 1 - lo) * 2 ^ lo + n % 2 ^ lo := by
  have hw : 2 ^ (hi + 1) = 2 ^ lo * 2 ^ (hi + 1 - lo) := by rw [← Nat.pow_add]; congr 1; omega
  have h1 : n = 2 ^ lo * (n / 2 ^ lo) + n % 2 ^ lo := (Nat.div_add_mod n (2 ^ lo)).symm
  have h2 : n / 2 ^ lo = 2 ^ (hi + 1 - lo) * (n / 2 ^ lo / 2 ^ (hi + 1 - lo)) + n / 2 ^ lo % 2 ^ (hi + 1 - lo) :=
    (Nat.div_add_mod _ _).symm
  have h3 : n / 2 ^ (hi + 1) = n / 2 ^ lo / 2 ^ (hi + 1 - lo) := by rw [hw, Nat.div_div_eq_div_mul]
  unfold putBits bits
  simp only [Nat.shiftRight_eq_div_pow, Nat.shiftLeft_eq]
  rw [h3, hw]
  generalize hq : n / 2 ^ lo / 2 ^ (hi + 1 - lo) = q at *
  generalize hm : n / 2 ^ lo % 2 ^ (hi + 1 - lo) = m at *
  generalize n % 2 ^ lo = r at *
  generalize v % 2 ^ (hi + 1 - lo) = u at *
  generalize 2 ^ lo = L at *
  generalize 2 ^ (hi + 1 - lo) = W at *
  have e : n = q * (L * W) + m * L + r := by
    rw [h1, h2, Nat.mul_add, ← Nat.mul_assoc, Nat.mul_comm L m, Nat.mul_comm (L * W) q]
  omega

theorem low_lt (n v : Nat) {hi lo : Nat} (h : lo ≤ hi) : v % 2 ^ (hi + 1 - lo) * 2 ^ lo + n % 2 ^ lo < 2 ^ (hi + 1) := by
  have hw : 2 ^ (hi + 1) = 2 ^ (hi + 1 - lo) * 2 ^ lo := by rw [← Nat.pow_add]; congr 1; omega
  have a : v % 2 ^ (hi + 1 - lo) < 2 ^ (hi + 1 - lo) := Nat.mod_lt _ (Nat.two_pow_pos _)
  have b : n % 2 ^ lo < 2 ^ lo := Nat.mod_lt _ (Nat.two_pow_pos _)
  have c : (v % 2 ^ (hi + 1 - lo) + 1) * 2 ^ lo ≤ 2 ^ (hi + 1 - lo) * 2 ^ lo := Nat.mul_le_mul_right _ a
  rw [Nat.add_mul, Nat.one_mul] at c
  rw [hw]
  omega

/-- A replaced field reads as what was put there. -/
@[simp] theorem bits_putBits_self (n v : Nat) {hi lo : Nat} (h : lo ≤ hi) : bits (putBits n hi lo v) hi lo = v % 2 ^ (hi + 1 - lo) := by
  rw [putBits_eq n v h]
  unfold bits
  rw [Nat.shiftRight_eq_div_pow]
  have hw : 2 ^ (hi + 1) = 2 ^ lo * 2 ^ (hi + 1 - lo) := by rw [← Nat.pow_add]; congr 1; omega
  have b : n % 2 ^ lo < 2 ^ lo := Nat.mod_lt _ (Nat.two_pow_pos _)
  have e : n / 2 ^ (hi + 1) * 2 ^ (hi + 1) + v % 2 ^ (hi + 1 - lo) * 2 ^ lo + n % 2 ^ lo
      = n % 2 ^ lo + 2 ^ lo * (n / 2 ^ (hi + 1) * 2 ^ (hi + 1 - lo) + v % 2 ^ (hi + 1 - lo)) := by
    rw [Nat.mul_add, hw]
    have : 2 ^ lo * (n / (2 ^ lo * 2 ^ (hi + 1 - lo)) * 2 ^ (hi + 1 - lo)) = n / (2 ^ lo * 2 ^ (hi + 1 - lo)) * (2 ^ lo * 2 ^ (hi + 1 - lo)) := by
      rw [← Nat.mul_assoc, Nat.mul_comm (2 ^ lo), Nat.mul_assoc]
    rw [this, Nat.mul_comm (2 ^ lo) (v % _)]
    omega
  rw [e, Nat.add_mul_div_left _ _ (Nat.two_pow_pos _), Nat.div_eq_of_lt b, Nat.zero_add, Nat.add_comm, Nat.add_mul_mod_self_right,
    Nat.mod_mod]

/-- A field above the replaced one reads as before. -/
theorem bits_putBits_above (n v : Nat) {hi lo hi' lo' : Nat} (h : lo ≤ hi) (g : hi < lo') : bits (putBits n hi lo v) hi' lo' = bits n hi' lo' := by
  rw [putBits_eq n v h]
  unfold bits
  rw [Nat.shiftRight_eq_div_pow, Nat.shiftRight_eq_div_pow]
  have hw : 2 ^ lo' = 2 ^ (hi + 1) * 2 ^ (lo' - (hi + 1)) := by rw [← Nat.pow_add]; congr 1; omega
  have e : n / 2 ^ (hi + 1) * 2 ^ (hi + 1) + v % 2 ^ (hi + 1 - lo) * 2 ^ lo + n % 2 ^ lo
      = (v % 2 ^ (hi + 1 - lo) * 2 ^ lo + n % 2 ^ lo) + 2 ^ (hi + 1) * (n / 2 ^ (hi + 1)) := by rw [Nat.mul_comm (2 ^ (hi + 1))]; omega
  congr 1
  rw [hw, ← Nat.div_div_eq_div_mul, ← Nat.div_div_eq_div_mul, e, Nat.add_mul_div_left _ _ (Nat.two_pow_pos _),
    Nat.div_eq_of_lt (low_lt n v h), Nat.zero_add]

theorem bits_mod (n : Nat) {hi lo w : Nat} (h : lo ≤ hi) (g : hi < w) : bits (n % 2 ^ w) hi lo = bits n hi lo := by
  unfold bits
  rw [Nat.shiftRight_eq_div_pow, Nat.shiftRight_eq_div_pow]
  have hw : 2 ^ w = 2 ^ lo * 2 ^ (w - lo) := by rw [← Nat.pow_add]; congr 1; omega
  rw [hw, Nat.mod_mul_right_div_self, Nat.mod_mod_of_dvd]
  exact Nat.pow_dvd_pow 2 (by omega)

/-- A field below the replaced one reads as before. -/
theorem bits_putBits_below (n v : Nat) {hi lo hi' lo' : Nat} (h : lo ≤ hi) (h' : lo' ≤ hi') (g : hi' < lo) :
    bits (putBits n hi lo v) hi' lo' = bits n hi' lo' := by
  have e : putBits n hi lo v % 2 ^ lo = n % 2 ^ lo := by
    rw [putBits_eq n v h]
    have hw : 2 ^ (hi + 1) = 2 ^ (hi + 1 - lo) * 2 ^ lo := by rw [← Nat.pow_add]; congr 1; omega
    rw [hw, ← Nat.mul_assoc, ← Nat.add_mul, Nat.add_comm, Nat.add_mul_mod_self_right, Nat.mod_mod]
  rw [← bits_mod (putBits n hi lo v) h' g, e, bits_mod n h' g]

theorem testBit_eq_bits (n i : Nat) : n.testBit i = decide (bits n i i = 1) := by
  unfold bits
  rw [Nat.testBit_eq_decide_div_mod_eq, Nat.shiftRight_eq_div_pow]
  simp [show i + 1 - i = 1 by omega]

end Sys2Proof.Machine
end

