-- ==== Sys2Proof/Laws/Bytes.lean ====
section
/-! SUPPORT. Laws of big-endian bytes (R9), and the block that the device forms passes its own check (R96, R430). -/

namespace Sys2Proof.Machine

@[simp] theorem beBytes_length (w n : Nat) : (beBytes w n).length = w := by
  induction w generalizing n with
  | zero => rfl
  | succ w ih => simp [beBytes, ih]

theorem beNat_append (a b : List Byte) : beNat (a ++ b) = beNat a * 256 ^ b.length + beNat b := by
  have go : ∀ (b : List Byte) (x : Nat), b.foldl (fun a c => a * 256 + c.toNat) x = x * 256 ^ b.length + b.foldl (fun a c => a * 256 + c.toNat) 0 := by
    intro b
    induction b with
    | nil => intro x; simp
    | cons c b ih =>
      intro x
      simp only [List.foldl_cons, List.length_cons]
      rw [ih (x * 256 + c.toNat), ih (0 * 256 + c.toNat), Nat.add_mul, Nat.pow_succ, Nat.mul_assoc, Nat.mul_comm 256, Nat.zero_mul, Nat.zero_add]
      omega
  unfold beNat
  rw [List.foldl_append, go]

/-- A number that fits in w bytes is read back from them. -/
@[simp] theorem beNat_beBytes (w n : Nat) : beNat (beBytes w n) = n % 256 ^ w := by
  induction w generalizing n with
  | zero => simp [beBytes, beNat, Nat.mod_one]
  | succ w ih =>
    rw [beBytes, beNat_append, ih]
    have h : beNat [BitVec.ofNat 8 n] = n % 256 := by simp [beNat]
    rw [h, List.length_singleton, Nat.pow_one, Nat.pow_succ, Nat.mul_comm (256 ^ w), Nat.mod_mul]
    omega

/-- A field that stands at offset w of a byte list. -/
theorem field_at (a b c : List Byte) (o w : Nat) (ha : a.length = o) (hb : b.length = w) : field (a ++ b ++ c) o w = beNat b := by
  subst ha hb
  simp [field, List.append_assoc]

theorem crcBit_lt {c : Nat} (h : c < 2 ^ 32) : crcBit c < 2 ^ 32 := by
  unfold crcBit
  split
  · exact Nat.xor_lt_two_pow (by omega) (by decide)
  · omega

theorem crcByte_lt {c : Nat} (b : Byte) (h : c < 2 ^ 32) : crcByte c b < 2 ^ 32 := by
  have : c ^^^ b.toNat < 2 ^ 32 := Nat.xor_lt_two_pow h (by have := b.isLt; omega)
  simp only [crcByte]
  exact crcBit_lt (crcBit_lt (crcBit_lt (crcBit_lt (crcBit_lt (crcBit_lt (crcBit_lt (crcBit_lt this)))))))

theorem crc32c_lt (bs : List Byte) : crc32c bs < 2 ^ 32 := by
  have go : ∀ (bs : List Byte) (c : Nat), c < 2 ^ 32 → bs.foldl crcByte c < 2 ^ 32 := by
    intro bs
    induction bs with
    | nil => intro c h; simpa
    | cons b bs ih => intro c h; exact ih _ (crcByte_lt b h)
  exact Nat.xor_lt_two_pow (go bs _ (by decide)) (by decide)

theorem tagResidue_lt (bs : List Byte) : tagResidue bs < 65535 := by
  unfold tagResidue
  split
  · exact Nat.mod_lt _ (by decide)
  · decide

theorem padMin_length (n : Nat) (bs : List Byte) (h : bs.length ≤ n) : (padMin n bs).length = n := by simp [padMin]; omega

/-- A block that the device forms from at most 256 bytes passes the block check (R96, R430). -/
theorem blkOk_mkBlock (p : List Byte) (status seq rm fmt origin : Nat) (h : p.length ≤ 256) : blkOk (mkBlock p status seq rm fmt origin) = true := by
  have hl : (padMin 256 p).length = 256 := padMin_length 256 p h
  simp only [mkBlock]
  generalize padMin 256 p = q at hl
  generalize hr : beBytes 2 (outStatus status) ++ beBytes 4 seq ++ beBytes 2 rm ++ beBytes 1 fmt ++ beBytes 1 origin = r
  have ht : beBytes 2 (tagResidue q) ++ beBytes 2 (outStatus status) ++ beBytes 4 seq ++ beBytes 2 rm ++ beBytes 1 fmt ++ beBytes 1 origin = beBytes 2 (tagResidue q) ++ r := by
    rw [← hr]; simp [List.append_assoc]
  rw [ht]
  generalize hc : crc32c (q ++ (beBytes 2 (tagResidue q) ++ r)) = c
  have hlt : c < 2 ^ 32 := hc ▸ crc32c_lt _
  simp only [blkOk, crcOk, resOk, Bool.and_eq_true, decide_eq_true_eq]
  constructor
  · rw [blkCrc, field_at q (beBytes 4 c) _ 256 4 hl (by simp), beNat_beBytes, Nat.mod_eq_of_lt (by omega), ← hc]
    congr 1
    rw [List.append_assoc, List.take_append_of_le_length (by omega), List.take_of_length_le (by omega)]
    congr 1
    rw [← List.append_assoc, List.drop_append_of_le_length (by simp; omega), List.drop_of_length_le (by simp; omega)]
    rfl
  · have hp : blkPayload (q ++ beBytes 4 c ++ (beBytes 2 (tagResidue q) ++ r)) = q := by
      rw [blkPayload, List.append_assoc, List.take_append_of_le_length (by omega), List.take_of_length_le (by omega)]
    rw [hp, blkRes, ← List.append_assoc, field_at (q ++ beBytes 4 c) (beBytes 2 (tagResidue q)) r 260 2 (by simp; omega) (by simp), beNat_beBytes]
    exact Nat.mod_eq_of_lt (Nat.lt_trans (tagResidue_lt q) (by decide))

end Sys2Proof.Machine
end

