-- ==== Sys2Proof/Laws/Table.lean ====
section
/-! SUPPORT. Laws of the sparse table: what a key reads as after a write, and that writes keep the canonical form. -/

namespace Sys2Proof.Machine

variable {α : Type}

@[simp] theorem tget_nil (z : α) (k : Nat) : tget z [] k = z := rfl

theorem tget_tdel_self (z : α) (m : List (Nat × α)) (k : Nat) : tget z (tdel m k) k = z := by
  induction m with
  | nil => rfl
  | cons e m ih =>
    obtain ⟨j, w⟩ := e
    by_cases h : k = j
    · simp [tdel, h]; simpa [h] using ih
    · simp [tdel, h, tget, ih]

theorem tget_tdel_ne (z : α) (m : List (Nat × α)) {k k' : Nat} (h : k' ≠ k) : tget z (tdel m k) k' = tget z m k' := by
  induction m with
  | nil => rfl
  | cons e m ih =>
    obtain ⟨j, w⟩ := e
    by_cases hk : k = j
    · subst hk; simp [tdel, tget, h, ih]
    · by_cases hj : k' = j
      · simp [tdel, hk, tget, hj]
      · simp [tdel, hk, tget, hj, ih]

theorem tget_tput_self (z : α) (m : List (Nat × α)) (k : Nat) (v : α) : tget z (tput m k v) k = v := by
  induction m with
  | nil => simp [tput, tget]
  | cons e m ih =>
    obtain ⟨j, w⟩ := e
    by_cases h1 : k < j
    · simp [tput, h1, tget]
    · by_cases h2 : k = j
      · simp [tput, h2, tget]
      · simp [tput, h1, h2, tget, ih]

theorem tget_tput_ne (z : α) (m : List (Nat × α)) {k k' : Nat} (v : α) (h : k' ≠ k) : tget z (tput m k v) k' = tget z m k' := by
  induction m with
  | nil => simp [tput, tget, h]
  | cons e m ih =>
    obtain ⟨j, w⟩ := e
    by_cases h1 : k < j
    · simp [tput, h1, tget, h]
    · by_cases h2 : k = j
      · subst h2; simp [tput, tget, h]
      · by_cases h3 : k' = j
        · simp [tput, h1, h2, tget, h3]
        · simp [tput, h1, h2, tget, h3, ih]

/-- A key reads as what was written under it. -/
@[simp] theorem tget_tset_self [DecidableEq α] (z : α) (m : List (Nat × α)) (k : Nat) (v : α) : tget z (tset z m k v) k = v := by
  unfold tset
  split
  · rename_i h; rw [tget_tdel_self, h]
  · exact tget_tput_self z m k v

/-- Every other key reads as before. -/
theorem tget_tset_ne [DecidableEq α] (y z : α) (m : List (Nat × α)) {k k' : Nat} (v : α) (h : k' ≠ k) :
    tget y (tset z m k v) k' = tget y m k' := by
  unfold tset
  split
  · exact tget_tdel_ne y m h
  · exact tget_tput_ne y m v h

/-! ## The canonical form -/

theorem rising_tail {e : Nat × α} {m : List (Nat × α)} (h : rising (e :: m) = true) : rising m = true := by
  cases m with
  | nil => rfl
  | cons f m => simp [rising] at h; exact h.2

theorem rising_head {j : Nat} {w : α} {m : List (Nat × α)} (h : rising ((j, w) :: m) = true) : ∀ e ∈ m, j < e.1 := by
  induction m generalizing j w with
  | nil => simp
  | cons f m ih =>
    obtain ⟨i, u⟩ := f
    simp [rising] at h
    intro e he
    rcases List.mem_cons.mp he with rfl | he
    · exact h.1
    · exact Nat.lt_trans h.1 (ih h.2 e he)

theorem rising_cons {j : Nat} {w : α} {m : List (Nat × α)} (h : ∀ e ∈ m, j < e.1) (hm : rising m = true) : rising ((j, w) :: m) = true := by
  cases m with
  | nil => rfl
  | cons f m => simp [rising]; exact ⟨h f (by simp), hm⟩

theorem mem_tdel {m : List (Nat × α)} {k : Nat} {e : Nat × α} (h : e ∈ tdel m k) : e ∈ m := by
  induction m with
  | nil => simp [tdel] at h
  | cons f m ih =>
    obtain ⟨j, w⟩ := f
    by_cases hk : k = j
    · simp [tdel, hk] at h; exact List.mem_cons_of_mem _ (ih (by simpa [hk] using h))
    · simp [tdel, hk] at h
      rcases h with rfl | h
      · simp
      · exact List.mem_cons_of_mem _ (ih h)

theorem mem_tput {m : List (Nat × α)} {k : Nat} {v : α} {e : Nat × α} (h : e ∈ tput m k v) : e = (k, v) ∨ e ∈ m := by
  induction m with
  | nil => simpa [tput] using h
  | cons f m ih =>
    obtain ⟨j, w⟩ := f
    by_cases h1 : k < j
    · simp only [tput, h1, ↓reduceIte, List.mem_cons] at h ⊢; exact h
    · by_cases h2 : k = j
      · simp only [tput, h2, Nat.lt_irrefl, ↓reduceIte, List.mem_cons] at h ⊢
        rcases h with h | h
        · exact .inl (by simp [h])
        · exact .inr (.inr h)
      · simp only [tput, h1, h2, ↓reduceIte, List.mem_cons] at h ⊢
        rcases h with h | h
        · exact .inr (.inl h)
        · rcases ih h with h | h
          · exact .inl h
          · exact .inr (.inr h)

theorem rising_tdel {m : List (Nat × α)} (k : Nat) (h : rising m = true) : rising (tdel m k) = true := by
  induction m with
  | nil => rfl
  | cons f m ih =>
    obtain ⟨j, w⟩ := f
    by_cases hk : k = j
    · simp [tdel, hk]; simpa [hk] using ih (rising_tail h)
    · simp [tdel, hk]; exact rising_cons (fun e he => rising_head h e (mem_tdel he)) (ih (rising_tail h))

theorem rising_tput {m : List (Nat × α)} (k : Nat) (v : α) (h : rising m = true) : rising (tput m k v) = true := by
  induction m with
  | nil => rfl
  | cons f m ih =>
    obtain ⟨j, w⟩ := f
    by_cases h1 : k < j
    · simp only [tput, h1, ↓reduceIte]
      refine rising_cons ?_ h
      intro e he
      rcases List.mem_cons.mp he with rfl | he
      · exact h1
      · exact Nat.lt_trans h1 (rising_head h e he)
    · by_cases h2 : k = j
      · subst h2; simp only [tput, Nat.lt_irrefl, ↓reduceIte]; exact rising_cons (rising_head h) (rising_tail h)
      · simp only [tput, h1, h2, ↓reduceIte]
        refine rising_cons ?_ (ih (rising_tail h))
        intro e he
        rcases mem_tput he with rfl | he
        · simp only; omega
        · exact rising_head h e he

/-- A write keeps the canonical form. -/
theorem twf_tset [DecidableEq α] (z : α) (m : List (Nat × α)) (k : Nat) (v : α) (h : twf z m = true) : twf z (tset z m k v) = true := by
  simp only [twf, Bool.and_eq_true, List.all_eq_true, decide_eq_true_eq] at h ⊢
  unfold tset
  split
  · exact ⟨rising_tdel k h.1, fun e he => h.2 e (mem_tdel he)⟩
  · rename_i hv
    refine ⟨rising_tput k v h.1, fun e he => ?_⟩
    rcases mem_tput he with rfl | he
    · exact hv
    · exact h.2 e he

theorem twf_nil [DecidableEq α] (z : α) : twf z ([] : List (Nat × α)) = true := rfl

end Sys2Proof.Machine
end

