-- ==== Sys2Proof/Laws/State.lean ====
section
/-! SUPPORT. What the shared updates of the device leave unchanged: one lemma per field and update, so that no later proof unfolds a record update;
and what a register reads after a write. -/

namespace Sys2Proof.Machine

/-! ## rgPut -/

@[simp] theorem rgPut_bus (d : Dev) (a v : Nat) : (rgPut d a v).bus = d.bus := rfl
@[simp] theorem rgPut_clk (d : Dev) (a v : Nat) : (rgPut d a v).clk = d.clk := rfl
@[simp] theorem rgPut_ref (d : Dev) (a v : Nat) : (rgPut d a v).ref = d.ref := rfl
@[simp] theorem rgPut_int (d : Dev) (a v : Nat) : (rgPut d a v).int = d.int := rfl
@[simp] theorem rgPut_bell (d : Dev) (a v : Nat) : (rgPut d a v).bell = d.bell := rfl
@[simp] theorem rgPut_log (d : Dev) (a v : Nat) : (rgPut d a v).log = d.log := rfl
@[simp] theorem rgPut_rte (d : Dev) (a v : Nat) : (rgPut d a v).rte = d.rte := rfl
@[simp] theorem rgPut_tm (d : Dev) (a v : Nat) : (rgPut d a v).tm = d.tm := rfl
@[simp] theorem rgPut_mem (d : Dev) (a v : Nat) : (rgPut d a v).mem = d.mem := rfl
@[simp] theorem rgPut_cmd (d : Dev) (a v : Nat) : (rgPut d a v).cmd = d.cmd := rfl
@[simp] theorem rgPut_ckp (d : Dev) (a v : Nat) : (rgPut d a v).ckp = d.ckp := rfl
@[simp] theorem rgPut_seq (d : Dev) (a v : Nat) : (rgPut d a v).seq = d.seq := rfl
@[simp] theorem rgPut_fab (d : Dev) (a v : Nat) : (rgPut d a v).fab = d.fab := rfl
@[simp] theorem rgPut_lsn (d : Dev) (a v : Nat) : (rgPut d a v).lsn = d.lsn := rfl
@[simp] theorem rgPut_hud (d : Dev) (a v : Nat) : (rgPut d a v).hud = d.hud := rfl
@[simp] theorem rgPut_lnk (d : Dev) (a v : Nat) : (rgPut d a v).lnk = d.lnk := rfl
@[simp] theorem rgPut_sit (d : Dev) (a v : Nat) : (rgPut d a v).sit = d.sit := rfl
@[simp] theorem rgPut_pkg (d : Dev) (a v : Nat) : (rgPut d a v).pkg = d.pkg := rfl
@[simp] theorem rgPut_wire (d : Dev) (a v : Nat) : (rgPut d a v).wire = d.wire := rfl
@[simp] theorem rgPut_free (d : Dev) (a v : Nat) : (rgPut d a v).free = d.free := rfl

/-! ## fset -/

@[simp] theorem fset_bus (d : Dev) (a : Nat) (f : Nat × Nat) (v : Nat) : (fset d a f v).bus = d.bus := rfl
@[simp] theorem fset_clk (d : Dev) (a : Nat) (f : Nat × Nat) (v : Nat) : (fset d a f v).clk = d.clk := rfl
@[simp] theorem fset_ref (d : Dev) (a : Nat) (f : Nat × Nat) (v : Nat) : (fset d a f v).ref = d.ref := rfl
@[simp] theorem fset_int (d : Dev) (a : Nat) (f : Nat × Nat) (v : Nat) : (fset d a f v).int = d.int := rfl
@[simp] theorem fset_bell (d : Dev) (a : Nat) (f : Nat × Nat) (v : Nat) : (fset d a f v).bell = d.bell := rfl
@[simp] theorem fset_log (d : Dev) (a : Nat) (f : Nat × Nat) (v : Nat) : (fset d a f v).log = d.log := rfl
@[simp] theorem fset_rte (d : Dev) (a : Nat) (f : Nat × Nat) (v : Nat) : (fset d a f v).rte = d.rte := rfl
@[simp] theorem fset_tm (d : Dev) (a : Nat) (f : Nat × Nat) (v : Nat) : (fset d a f v).tm = d.tm := rfl
@[simp] theorem fset_mem (d : Dev) (a : Nat) (f : Nat × Nat) (v : Nat) : (fset d a f v).mem = d.mem := rfl
@[simp] theorem fset_cmd (d : Dev) (a : Nat) (f : Nat × Nat) (v : Nat) : (fset d a f v).cmd = d.cmd := rfl
@[simp] theorem fset_ckp (d : Dev) (a : Nat) (f : Nat × Nat) (v : Nat) : (fset d a f v).ckp = d.ckp := rfl
@[simp] theorem fset_seq (d : Dev) (a : Nat) (f : Nat × Nat) (v : Nat) : (fset d a f v).seq = d.seq := rfl
@[simp] theorem fset_fab (d : Dev) (a : Nat) (f : Nat × Nat) (v : Nat) : (fset d a f v).fab = d.fab := rfl
@[simp] theorem fset_lsn (d : Dev) (a : Nat) (f : Nat × Nat) (v : Nat) : (fset d a f v).lsn = d.lsn := rfl
@[simp] theorem fset_hud (d : Dev) (a : Nat) (f : Nat × Nat) (v : Nat) : (fset d a f v).hud = d.hud := rfl
@[simp] theorem fset_lnk (d : Dev) (a : Nat) (f : Nat × Nat) (v : Nat) : (fset d a f v).lnk = d.lnk := rfl
@[simp] theorem fset_sit (d : Dev) (a : Nat) (f : Nat × Nat) (v : Nat) : (fset d a f v).sit = d.sit := rfl
@[simp] theorem fset_pkg (d : Dev) (a : Nat) (f : Nat × Nat) (v : Nat) : (fset d a f v).pkg = d.pkg := rfl
@[simp] theorem fset_wire (d : Dev) (a : Nat) (f : Nat × Nat) (v : Nat) : (fset d a f v).wire = d.wire := rfl
@[simp] theorem fset_free (d : Dev) (a : Nat) (f : Nat × Nat) (v : Nat) : (fset d a f v).free = d.free := rfl

/-! ## bump -/

@[simp] theorem bump_bus (d : Dev) (a k : Nat) : (bump d a k).bus = d.bus := rfl
@[simp] theorem bump_clk (d : Dev) (a k : Nat) : (bump d a k).clk = d.clk := rfl
@[simp] theorem bump_ref (d : Dev) (a k : Nat) : (bump d a k).ref = d.ref := rfl
@[simp] theorem bump_int (d : Dev) (a k : Nat) : (bump d a k).int = d.int := rfl
@[simp] theorem bump_bell (d : Dev) (a k : Nat) : (bump d a k).bell = d.bell := rfl
@[simp] theorem bump_log (d : Dev) (a k : Nat) : (bump d a k).log = d.log := rfl
@[simp] theorem bump_rte (d : Dev) (a k : Nat) : (bump d a k).rte = d.rte := rfl
@[simp] theorem bump_tm (d : Dev) (a k : Nat) : (bump d a k).tm = d.tm := rfl
@[simp] theorem bump_mem (d : Dev) (a k : Nat) : (bump d a k).mem = d.mem := rfl
@[simp] theorem bump_cmd (d : Dev) (a k : Nat) : (bump d a k).cmd = d.cmd := rfl
@[simp] theorem bump_ckp (d : Dev) (a k : Nat) : (bump d a k).ckp = d.ckp := rfl
@[simp] theorem bump_seq (d : Dev) (a k : Nat) : (bump d a k).seq = d.seq := rfl
@[simp] theorem bump_fab (d : Dev) (a k : Nat) : (bump d a k).fab = d.fab := rfl
@[simp] theorem bump_lsn (d : Dev) (a k : Nat) : (bump d a k).lsn = d.lsn := rfl
@[simp] theorem bump_hud (d : Dev) (a k : Nat) : (bump d a k).hud = d.hud := rfl
@[simp] theorem bump_lnk (d : Dev) (a k : Nat) : (bump d a k).lnk = d.lnk := rfl
@[simp] theorem bump_sit (d : Dev) (a k : Nat) : (bump d a k).sit = d.sit := rfl
@[simp] theorem bump_pkg (d : Dev) (a k : Nat) : (bump d a k).pkg = d.pkg := rfl
@[simp] theorem bump_wire (d : Dev) (a k : Nat) : (bump d a k).wire = d.wire := rfl
@[simp] theorem bump_free (d : Dev) (a k : Nat) : (bump d a k).free = d.free := rfl

/-! ## rg64Put -/

@[simp] theorem rg64Put_bus (d : Dev) (a v : Nat) : (rg64Put d a v).bus = d.bus := rfl
@[simp] theorem rg64Put_clk (d : Dev) (a v : Nat) : (rg64Put d a v).clk = d.clk := rfl
@[simp] theorem rg64Put_ref (d : Dev) (a v : Nat) : (rg64Put d a v).ref = d.ref := rfl
@[simp] theorem rg64Put_int (d : Dev) (a v : Nat) : (rg64Put d a v).int = d.int := rfl
@[simp] theorem rg64Put_bell (d : Dev) (a v : Nat) : (rg64Put d a v).bell = d.bell := rfl
@[simp] theorem rg64Put_log (d : Dev) (a v : Nat) : (rg64Put d a v).log = d.log := rfl
@[simp] theorem rg64Put_rte (d : Dev) (a v : Nat) : (rg64Put d a v).rte = d.rte := rfl
@[simp] theorem rg64Put_tm (d : Dev) (a v : Nat) : (rg64Put d a v).tm = d.tm := rfl
@[simp] theorem rg64Put_mem (d : Dev) (a v : Nat) : (rg64Put d a v).mem = d.mem := rfl
@[simp] theorem rg64Put_cmd (d : Dev) (a v : Nat) : (rg64Put d a v).cmd = d.cmd := rfl
@[simp] theorem rg64Put_ckp (d : Dev) (a v : Nat) : (rg64Put d a v).ckp = d.ckp := rfl
@[simp] theorem rg64Put_seq (d : Dev) (a v : Nat) : (rg64Put d a v).seq = d.seq := rfl
@[simp] theorem rg64Put_fab (d : Dev) (a v : Nat) : (rg64Put d a v).fab = d.fab := rfl
@[simp] theorem rg64Put_lsn (d : Dev) (a v : Nat) : (rg64Put d a v).lsn = d.lsn := rfl
@[simp] theorem rg64Put_hud (d : Dev) (a v : Nat) : (rg64Put d a v).hud = d.hud := rfl
@[simp] theorem rg64Put_lnk (d : Dev) (a v : Nat) : (rg64Put d a v).lnk = d.lnk := rfl
@[simp] theorem rg64Put_sit (d : Dev) (a v : Nat) : (rg64Put d a v).sit = d.sit := rfl
@[simp] theorem rg64Put_pkg (d : Dev) (a v : Nat) : (rg64Put d a v).pkg = d.pkg := rfl
@[simp] theorem rg64Put_wire (d : Dev) (a v : Nat) : (rg64Put d a v).wire = d.wire := rfl
@[simp] theorem rg64Put_free (d : Dev) (a v : Nat) : (rg64Put d a v).free = d.free := rfl

/-! ## srcPut -/

@[simp] theorem srcPut_regs (d : Dev) (n : Nat) (x : Src) : (srcPut d n x).regs = d.regs := rfl
@[simp] theorem srcPut_bus (d : Dev) (n : Nat) (x : Src) : (srcPut d n x).bus = d.bus := rfl
@[simp] theorem srcPut_clk (d : Dev) (n : Nat) (x : Src) : (srcPut d n x).clk = d.clk := rfl
@[simp] theorem srcPut_int (d : Dev) (n : Nat) (x : Src) : (srcPut d n x).int = d.int := rfl
@[simp] theorem srcPut_bell (d : Dev) (n : Nat) (x : Src) : (srcPut d n x).bell = d.bell := rfl
@[simp] theorem srcPut_log (d : Dev) (n : Nat) (x : Src) : (srcPut d n x).log = d.log := rfl
@[simp] theorem srcPut_rte (d : Dev) (n : Nat) (x : Src) : (srcPut d n x).rte = d.rte := rfl
@[simp] theorem srcPut_tm (d : Dev) (n : Nat) (x : Src) : (srcPut d n x).tm = d.tm := rfl
@[simp] theorem srcPut_mem (d : Dev) (n : Nat) (x : Src) : (srcPut d n x).mem = d.mem := rfl
@[simp] theorem srcPut_cmd (d : Dev) (n : Nat) (x : Src) : (srcPut d n x).cmd = d.cmd := rfl
@[simp] theorem srcPut_ckp (d : Dev) (n : Nat) (x : Src) : (srcPut d n x).ckp = d.ckp := rfl
@[simp] theorem srcPut_seq (d : Dev) (n : Nat) (x : Src) : (srcPut d n x).seq = d.seq := rfl
@[simp] theorem srcPut_fab (d : Dev) (n : Nat) (x : Src) : (srcPut d n x).fab = d.fab := rfl
@[simp] theorem srcPut_lsn (d : Dev) (n : Nat) (x : Src) : (srcPut d n x).lsn = d.lsn := rfl
@[simp] theorem srcPut_hud (d : Dev) (n : Nat) (x : Src) : (srcPut d n x).hud = d.hud := rfl
@[simp] theorem srcPut_lnk (d : Dev) (n : Nat) (x : Src) : (srcPut d n x).lnk = d.lnk := rfl
@[simp] theorem srcPut_sit (d : Dev) (n : Nat) (x : Src) : (srcPut d n x).sit = d.sit := rfl
@[simp] theorem srcPut_pkg (d : Dev) (n : Nat) (x : Src) : (srcPut d n x).pkg = d.pkg := rfl
@[simp] theorem srcPut_wire (d : Dev) (n : Nat) (x : Src) : (srcPut d n x).wire = d.wire := rfl
@[simp] theorem srcPut_free (d : Dev) (n : Nat) (x : Src) : (srcPut d n x).free = d.free := rfl

/-! ## emit -/

@[simp] theorem emit_regs (d : Dev) (w : Wire) : (emit d w).regs = d.regs := rfl
@[simp] theorem emit_bus (d : Dev) (w : Wire) : (emit d w).bus = d.bus := rfl
@[simp] theorem emit_clk (d : Dev) (w : Wire) : (emit d w).clk = d.clk := rfl
@[simp] theorem emit_ref (d : Dev) (w : Wire) : (emit d w).ref = d.ref := rfl
@[simp] theorem emit_int (d : Dev) (w : Wire) : (emit d w).int = d.int := rfl
@[simp] theorem emit_bell (d : Dev) (w : Wire) : (emit d w).bell = d.bell := rfl
@[simp] theorem emit_log (d : Dev) (w : Wire) : (emit d w).log = d.log := rfl
@[simp] theorem emit_rte (d : Dev) (w : Wire) : (emit d w).rte = d.rte := rfl
@[simp] theorem emit_tm (d : Dev) (w : Wire) : (emit d w).tm = d.tm := rfl
@[simp] theorem emit_mem (d : Dev) (w : Wire) : (emit d w).mem = d.mem := rfl
@[simp] theorem emit_cmd (d : Dev) (w : Wire) : (emit d w).cmd = d.cmd := rfl
@[simp] theorem emit_ckp (d : Dev) (w : Wire) : (emit d w).ckp = d.ckp := rfl
@[simp] theorem emit_seq (d : Dev) (w : Wire) : (emit d w).seq = d.seq := rfl
@[simp] theorem emit_fab (d : Dev) (w : Wire) : (emit d w).fab = d.fab := rfl
@[simp] theorem emit_lsn (d : Dev) (w : Wire) : (emit d w).lsn = d.lsn := rfl
@[simp] theorem emit_hud (d : Dev) (w : Wire) : (emit d w).hud = d.hud := rfl
@[simp] theorem emit_lnk (d : Dev) (w : Wire) : (emit d w).lnk = d.lnk := rfl
@[simp] theorem emit_sit (d : Dev) (w : Wire) : (emit d w).sit = d.sit := rfl
@[simp] theorem emit_pkg (d : Dev) (w : Wire) : (emit d w).pkg = d.pkg := rfl
@[simp] theorem emit_free (d : Dev) (w : Wire) : (emit d w).free = d.free := rfl

/-! ## Reading registers -/

@[simp] theorem rg_rgPut_self (d : Dev) (a v : Nat) : rg (rgPut d a v) a = v % 2 ^ 32 := by
  simp [rg, rgPut]

theorem rg_rgPut_ne (d : Dev) {a b : Nat} (v : Nat) (h : b ≠ a) : rg (rgPut d a v) b = rg d b := by
  simp [rg, rgPut, tget_tset_ne _ _ _ _ h]

theorem rg_lt (d : Dev) (a : Nat) : rg d a < 2 ^ 32 := (tget (resetWord a) d.regs a).isLt

@[simp] theorem rg_srcPut (d : Dev) (n : Nat) (x : Src) (a : Nat) : rg (srcPut d n x) a = rg d a := rfl
@[simp] theorem rg_emit (d : Dev) (w : Wire) (a : Nat) : rg (emit d w) a = rg d a := rfl

/-- Registers of a device depend on its register table alone. -/
theorem rg_congr {d e : Dev} (h : d.regs = e.regs) (a : Nat) : rg d a = rg e a := by simp [rg, h]

theorem rg_fset_ne (d : Dev) {a b : Nat} (f : Nat × Nat) (v : Nat) (h : b ≠ a) : rg (fset d a f v) b = rg d b := rg_rgPut_ne d _ h

theorem rg_bump_ne (d : Dev) {a b : Nat} (k : Nat) (h : b ≠ a) : rg (bump d a k) b = rg d b := rg_rgPut_ne d _ h

/-- A saturating counter after k events (R515). -/
@[simp] theorem rg_bump_self (d : Dev) (a k : Nat) : rg (bump d a k) a = satInc (rg d a) k := by
  unfold bump
  rw [rg_rgPut_self]
  apply Nat.mod_eq_of_lt
  unfold satInc
  omega

@[simp] theorem fget_of_ne (d : Dev) {a b : Nat} (f g : Nat × Nat) (v : Nat) (h : b ≠ a) : fget (fset d a f v) b g = fget d b g := by
  simp [fget, rg_fset_ne d f v h]

theorem srcOf_srcPut_self (d : Dev) (n : Nat) (x : Src) : srcOf (srcPut d n x) n = x := by simp [srcOf, srcPut]

theorem srcOf_srcPut_ne (d : Dev) {n m : Nat} (x : Src) (h : m ≠ n) : srcOf (srcPut d n x) m = srcOf d m := by
  simp [srcOf, srcPut, tget_tset_ne _ _ _ _ h]

/-! ## What a raise can do -/

/-- A device that differs from another in registers and the referee alone. -/
def RefOnly (d e : Dev) : Prop := ∃ rs rf, e = { d with regs := rs, ref := rf }

theorem RefOnly.trans {d e f : Dev} (h : RefOnly d e) (g : RefOnly e f) : RefOnly d f := by
  obtain ⟨a, b, rfl⟩ := h
  obtain ⟨a', b', rfl⟩ := g
  exact ⟨a', b', rfl⟩

theorem refWrite_only (d : Dev) (n ev : Nat) : RefOnly d (refWrite d n ev).1 := by
  unfold refWrite
  split
  · exact ⟨_, _, rfl⟩
  · exact ⟨_, d.ref, rfl⟩

theorem raise1_only (d : Dev) (n : Nat) : RefOnly d (raise1 d n).1 := by
  unfold raise1
  simp only
  split
  · exact ⟨d.regs, _, rfl⟩
  · split
    · split
      · exact RefOnly.trans ⟨_, _, rfl⟩ (refWrite_only _ n 0)
      · refine RefOnly.trans ?_ (refWrite_only _ n 0)
        split <;> exact ⟨_, _, rfl⟩
    · exact ⟨_, _, rfl⟩

/-- A raise changes registers and the referee alone (R445, R449). -/
theorem raise_only (d : Dev) (n : Nat) : RefOnly d (raise d n) := by
  unfold raise
  simp only
  split
  · exact (raise1_only d n).trans (raise1_only _ 957)
  · exact raise1_only d n

/-- A record of a change of a source changes registers and the referee alone (R449). -/
theorem refNote_only (d : Dev) (n ev : Nat) : RefOnly d (refNote d n ev) := by
  unfold refNote
  simp only
  split
  · exact (refWrite_only d n ev).trans (raise1_only _ 957)
  · exact refWrite_only d n ev

@[simp] theorem raise_bus (d : Dev) (n : Nat) : (raise d n).bus = d.bus := by obtain ⟨a, b, h⟩ := raise_only d n; rw [h]
@[simp] theorem raise_clk (d : Dev) (n : Nat) : (raise d n).clk = d.clk := by obtain ⟨a, b, h⟩ := raise_only d n; rw [h]
@[simp] theorem raise_int (d : Dev) (n : Nat) : (raise d n).int = d.int := by obtain ⟨a, b, h⟩ := raise_only d n; rw [h]
@[simp] theorem raise_bell (d : Dev) (n : Nat) : (raise d n).bell = d.bell := by obtain ⟨a, b, h⟩ := raise_only d n; rw [h]
@[simp] theorem raise_log (d : Dev) (n : Nat) : (raise d n).log = d.log := by obtain ⟨a, b, h⟩ := raise_only d n; rw [h]
@[simp] theorem raise_rte (d : Dev) (n : Nat) : (raise d n).rte = d.rte := by obtain ⟨a, b, h⟩ := raise_only d n; rw [h]
@[simp] theorem raise_tm (d : Dev) (n : Nat) : (raise d n).tm = d.tm := by obtain ⟨a, b, h⟩ := raise_only d n; rw [h]
@[simp] theorem raise_mem (d : Dev) (n : Nat) : (raise d n).mem = d.mem := by obtain ⟨a, b, h⟩ := raise_only d n; rw [h]
@[simp] theorem raise_cmd (d : Dev) (n : Nat) : (raise d n).cmd = d.cmd := by obtain ⟨a, b, h⟩ := raise_only d n; rw [h]
@[simp] theorem raise_ckp (d : Dev) (n : Nat) : (raise d n).ckp = d.ckp := by obtain ⟨a, b, h⟩ := raise_only d n; rw [h]
@[simp] theorem raise_seq (d : Dev) (n : Nat) : (raise d n).seq = d.seq := by obtain ⟨a, b, h⟩ := raise_only d n; rw [h]
@[simp] theorem raise_fab (d : Dev) (n : Nat) : (raise d n).fab = d.fab := by obtain ⟨a, b, h⟩ := raise_only d n; rw [h]
@[simp] theorem raise_lsn (d : Dev) (n : Nat) : (raise d n).lsn = d.lsn := by obtain ⟨a, b, h⟩ := raise_only d n; rw [h]
@[simp] theorem raise_hud (d : Dev) (n : Nat) : (raise d n).hud = d.hud := by obtain ⟨a, b, h⟩ := raise_only d n; rw [h]
@[simp] theorem raise_lnk (d : Dev) (n : Nat) : (raise d n).lnk = d.lnk := by obtain ⟨a, b, h⟩ := raise_only d n; rw [h]
@[simp] theorem raise_sit (d : Dev) (n : Nat) : (raise d n).sit = d.sit := by obtain ⟨a, b, h⟩ := raise_only d n; rw [h]
@[simp] theorem raise_pkg (d : Dev) (n : Nat) : (raise d n).pkg = d.pkg := by obtain ⟨a, b, h⟩ := raise_only d n; rw [h]
@[simp] theorem raise_wire (d : Dev) (n : Nat) : (raise d n).wire = d.wire := by obtain ⟨a, b, h⟩ := raise_only d n; rw [h]
@[simp] theorem raise_free (d : Dev) (n : Nat) : (raise d n).free = d.free := by obtain ⟨a, b, h⟩ := raise_only d n; rw [h]

@[simp] theorem refNote_bus (d : Dev) (n ev : Nat) : (refNote d n ev).bus = d.bus := by obtain ⟨a, b, h⟩ := refNote_only d n ev; rw [h]
@[simp] theorem refNote_clk (d : Dev) (n ev : Nat) : (refNote d n ev).clk = d.clk := by obtain ⟨a, b, h⟩ := refNote_only d n ev; rw [h]
@[simp] theorem refNote_int (d : Dev) (n ev : Nat) : (refNote d n ev).int = d.int := by obtain ⟨a, b, h⟩ := refNote_only d n ev; rw [h]
@[simp] theorem refNote_bell (d : Dev) (n ev : Nat) : (refNote d n ev).bell = d.bell := by obtain ⟨a, b, h⟩ := refNote_only d n ev; rw [h]
@[simp] theorem refNote_log (d : Dev) (n ev : Nat) : (refNote d n ev).log = d.log := by obtain ⟨a, b, h⟩ := refNote_only d n ev; rw [h]
@[simp] theorem refNote_rte (d : Dev) (n ev : Nat) : (refNote d n ev).rte = d.rte := by obtain ⟨a, b, h⟩ := refNote_only d n ev; rw [h]
@[simp] theorem refNote_tm (d : Dev) (n ev : Nat) : (refNote d n ev).tm = d.tm := by obtain ⟨a, b, h⟩ := refNote_only d n ev; rw [h]
@[simp] theorem refNote_mem (d : Dev) (n ev : Nat) : (refNote d n ev).mem = d.mem := by obtain ⟨a, b, h⟩ := refNote_only d n ev; rw [h]
@[simp] theorem refNote_cmd (d : Dev) (n ev : Nat) : (refNote d n ev).cmd = d.cmd := by obtain ⟨a, b, h⟩ := refNote_only d n ev; rw [h]
@[simp] theorem refNote_ckp (d : Dev) (n ev : Nat) : (refNote d n ev).ckp = d.ckp := by obtain ⟨a, b, h⟩ := refNote_only d n ev; rw [h]
@[simp] theorem refNote_seq (d : Dev) (n ev : Nat) : (refNote d n ev).seq = d.seq := by obtain ⟨a, b, h⟩ := refNote_only d n ev; rw [h]
@[simp] theorem refNote_fab (d : Dev) (n ev : Nat) : (refNote d n ev).fab = d.fab := by obtain ⟨a, b, h⟩ := refNote_only d n ev; rw [h]
@[simp] theorem refNote_lsn (d : Dev) (n ev : Nat) : (refNote d n ev).lsn = d.lsn := by obtain ⟨a, b, h⟩ := refNote_only d n ev; rw [h]
@[simp] theorem refNote_hud (d : Dev) (n ev : Nat) : (refNote d n ev).hud = d.hud := by obtain ⟨a, b, h⟩ := refNote_only d n ev; rw [h]
@[simp] theorem refNote_lnk (d : Dev) (n ev : Nat) : (refNote d n ev).lnk = d.lnk := by obtain ⟨a, b, h⟩ := refNote_only d n ev; rw [h]
@[simp] theorem refNote_sit (d : Dev) (n ev : Nat) : (refNote d n ev).sit = d.sit := by obtain ⟨a, b, h⟩ := refNote_only d n ev; rw [h]
@[simp] theorem refNote_pkg (d : Dev) (n ev : Nat) : (refNote d n ev).pkg = d.pkg := by obtain ⟨a, b, h⟩ := refNote_only d n ev; rw [h]
@[simp] theorem refNote_wire (d : Dev) (n ev : Nat) : (refNote d n ev).wire = d.wire := by obtain ⟨a, b, h⟩ := refNote_only d n ev; rw [h]
@[simp] theorem refNote_free (d : Dev) (n ev : Nat) : (refNote d n ev).free = d.free := by obtain ⟨a, b, h⟩ := refNote_only d n ev; rw [h]

end Sys2Proof.Machine
end

