-- ==== Sys2Proof/Laws/Fields.lean ====
section
/-! SUPPORT. Fields of registers: a field reads back what was put into it, and leaves every disjoint field alone. -/

namespace Sys2Proof.Machine

theorem rg_fset_self (d : Dev) (a : Nat) (f : Nat × Nat) (v : Nat) :
    rg (fset d a f v) a = putBits (rg d a) f.1 f.2 v % 2 ^ 32 := by
  simp only [fset, rg_rgPut_self]

/-- A field reads back what was put into it. -/
theorem fget_fset_self (d : Dev) (a : Nat) (f : Nat × Nat) (v : Nat) (h : f.1 < 32) (hl : f.2 ≤ f.1) :
    fget (fset d a f v) a f = v % 2 ^ (f.1 + 1 - f.2) := by
  rw [fget, rg_fset_self, bits_mod _ hl h, bits_putBits_self _ _ hl]

/-- A field of another register stays. -/
theorem fget_fset_ne (d : Dev) {a b : Nat} (f g : Nat × Nat) (v : Nat) (h : b ≠ a) : fget (fset d a f v) b g = fget d b g := by
  simp only [fget, rg_fset_ne d f v h]

/-- A higher field of the same register stays. -/
theorem fget_fset_above (d : Dev) (a : Nat) (f g : Nat × Nat) (v : Nat) (h : f.1 < g.2) (hg : g.1 < 32) (hl : g.2 ≤ g.1) (hf : f.2 ≤ f.1) :
    fget (fset d a f v) a g = fget d a g := by
  rw [fget, rg_fset_self, bits_mod _ hl hg]
  exact bits_putBits_above _ _ hf h

/-- A lower field of the same register stays. -/
theorem fget_fset_below (d : Dev) (a : Nat) (f g : Nat × Nat) (v : Nat) (h : g.1 < f.2) (hf : f.1 < 32) (hl : g.2 ≤ g.1) (hlf : f.2 ≤ f.1) :
    fget (fset d a f v) a g = fget d a g := by
  rw [fget, rg_fset_self, bits_mod _ hl (by omega)]
  exact bits_putBits_below _ _ hlf hl h

end Sys2Proof.Machine
end

