-- ==== Sys2Proof/Laws/Hbm.lean ====
section
/-! SUPPORT. Laws of HBM: what a byte reads as after a write, and that every operation that changes HBM keeps its canonical form. -/

namespace Sys2Proof.Machine

/-- One byte of HBM. -/
abbrev hbmAt (d : Dev) (k : Nat) : Byte := tget Config.hbmFill d.mem.hbm k

/-! ## Read after write -/

@[simp] theorem hbmAt_hbmPut_self (d : Dev) (k : Nat) (b : Byte) : hbmAt (hbmPut d k b) k = b := by simp [hbmAt, hbmPut]

theorem hbmAt_hbmPut_ne (d : Dev) {k j : Nat} (b : Byte) (h : j ≠ k) : hbmAt (hbmPut d k b) j = hbmAt d j := by
  simp only [hbmAt, hbmPut]; exact tget_tset_ne _ _ _ _ h

/-- A run leaves every byte below it alone. -/
theorem hbmAt_hbmRun_lt (bs : List Byte) (d : Dev) {k j : Nat} (h : j < k) : hbmAt (hbmRun d k bs) j = hbmAt d j := by
  induction bs generalizing d k with
  | nil => rfl
  | cons b bs ih => simp only [hbmRun]; rw [ih _ (by omega), hbmAt_hbmPut_ne _ _ (by omega)]

/-- What a run leaves under each key. -/
theorem hbmAt_hbmRun (bs : List Byte) (d : Dev) (k j : Nat) :
    hbmAt (hbmRun d k bs) j = if k ≤ j ∧ j < k + bs.length then bs.getD (j - k) 0 else hbmAt d j := by
  induction bs generalizing d k with
  | nil => simp only [hbmRun, List.length_nil]; rw [if_neg (by omega)]
  | cons b bs ih =>
    simp only [hbmRun, List.length_cons]
    by_cases hj : j = k
    · subst hj; rw [hbmAt_hbmRun_lt _ _ (by omega)]; simp
    · rw [ih, hbmAt_hbmPut_ne _ _ hj]
      by_cases h : k + 1 ≤ j ∧ j < k + 1 + bs.length
      · rw [if_pos h, if_pos (by omega)]
        obtain ⟨i, hi⟩ : ∃ i, j = k + 1 + i := ⟨j - (k + 1), by omega⟩
        subst hi
        rw [show k + 1 + i - (k + 1) = i by omega, show k + 1 + i - k = i + 1 by omega]
        rfl
      · rw [if_neg h, if_neg (by omega)]

/-! ## The canonical form -/

theorem reset_hbm_wf : State.reset.dev.mem.wf = true := rfl

theorem hbmPut_wf {d : Dev} (k : Nat) (b : Byte) (h : d.mem.wf = true) : (hbmPut d k b).mem.wf = true := twf_tset _ _ _ _ h

theorem hbmRun_wf (bs : List Byte) {d : Dev} (k : Nat) (h : d.mem.wf = true) : (hbmRun d k bs).mem.wf = true := by
  induction bs generalizing d k with
  | nil => exact h
  | cons b bs ih => exact ih (k + 1) (hbmPut_wf k b h)

/-- A fold keeps the form if each of its steps does. -/
theorem foldl_wf {α : Type} {f : Dev → α → Dev} (hf : ∀ d a, d.mem.wf = true → (f d a).mem.wf = true) (xs : List α) {d : Dev}
    (h : d.mem.wf = true) : (xs.foldl f d).mem.wf = true := by
  induction xs generalizing d with
  | nil => exact h
  | cons x xs ih => exact ih (hf d x h)

@[simp] theorem setPoison_wf (d : Dev) (x : Nat) (b : Bool) : (setPoison d x b).mem.wf = d.mem.wf := rfl

theorem lineWrite_wf {d : Dev} (x mask : Nat) (bs : List Byte) (h : d.mem.wf = true) : (lineWrite d x mask bs).mem.wf = true := by
  have hf := foldl_wf (f := fun d i => hbmPut d (64 * x + i) (bs.getD i 0)) (fun d i hd => hbmPut_wf _ _ hd) (setBits 64 mask) h
  unfold lineWrite
  split
  · exact h
  · dsimp only; split
    · simpa using hf
    · exact hf

theorem regionWrite_wf {d : Dev} (r : Region) (o : Nat) (bs : List Byte) (h : d.mem.wf = true) : (regionWrite d r o bs).mem.wf = true := by
  refine foldl_wf ?_ _ (foldl_wf ?_ _ h)
  · intro d i hd; dsimp only; split
    · simpa using hd
    · exact hd
  · intro d i hd; dsimp only; split
    · exact hd
    · exact hbmPut_wf _ _ hd

theorem rising_filter {α : Type} (p : Nat × α → Bool) {m : List (Nat × α)} (h : rising m = true) : rising (m.filter p) = true := by
  induction m with
  | nil => rfl
  | cons e m ih =>
    obtain ⟨j, w⟩ := e
    by_cases hp : p (j, w) = true
    · rw [List.filter_cons_of_pos hp]
      exact rising_cons (fun e he => rising_head h e (List.mem_filter.mp he).1) (ih (rising_tail h))
    · rw [List.filter_cons_of_neg hp]; exact ih (rising_tail h)

theorem twf_filter {α : Type} [DecidableEq α] (z : α) (p : Nat × α → Bool) {m : List (Nat × α)} (h : twf z m = true) : twf z (m.filter p) = true := by
  simp only [twf, Bool.and_eq_true, List.all_eq_true, decide_eq_true_eq] at h ⊢
  exact ⟨rising_filter p h.1, fun e he => h.2 e (List.mem_filter.mp he).1⟩

theorem twf_tput {α : Type} [DecidableEq α] {z : α} {m : List (Nat × α)} (k : Nat) {v : α} (hv : v ≠ z) (h : twf z m = true) : twf z (tput m k v) = true := by
  simp only [twf, Bool.and_eq_true, List.all_eq_true, decide_eq_true_eq] at h ⊢
  refine ⟨rising_tput k v h.1, fun e he => ?_⟩
  rcases mem_tput he with rfl | he
  · exact hv
  · exact h.2 e he

/-- The cells that an evacuation moves stand in the canonical form at their destination. -/
theorem moveCells_twf {α : Type} [DecidableEq α] {z : α} {m : List (Nat × α)} (src dst n : Nat) (h : twf z m = true) :
    twf z (moveCells m src dst n tput) = true := by
  have hm : ∀ e ∈ m.filter (fun e => decide (src ≤ e.1 ∧ e.1 < src + n)), e.2 ≠ z := by
    intro e he
    simp only [twf, Bool.and_eq_true, List.all_eq_true, decide_eq_true_eq] at h
    exact h.2 e (List.mem_filter.mp he).1
  have hr := twf_filter z (fun e => !(decide (dst ≤ e.1 ∧ e.1 < dst + n))) h
  unfold moveCells
  generalize m.filter (fun e => decide (src ≤ e.1 ∧ e.1 < src + n)) = xs at hm
  dsimp only
  generalize m.filter (fun e => !(decide (dst ≤ e.1 ∧ e.1 < dst + n))) = rest at hr
  induction xs generalizing rest with
  | nil => exact hr
  | cons x xs ih => exact ih (fun e he => hm e (List.mem_cons_of_mem _ he)) _ (twf_tput _ (hm x (by simp)) hr)

/-- A region cleared for a redo keeps the form. -/
theorem clearRegion_wf {d : Dev} (i : Nat) (h : d.mem.wf = true) : (clearRegion d i).mem.wf = true := by
  unfold clearRegion
  refine foldl_wf ?_ _ h
  intro d w hd
  exact twf_filter Config.hbmFill _ hd

end Sys2Proof.Machine
end

