-- ==== Sys2Proof/Laws/Settle.lean ====
section
/-! SUPPORT. What the settling at the end of a command always leaves. -/

namespace Sys2Proof.Machine

/-- A register other than the referee's halted bit is no part of FAULT_N. -/
theorem pinFault_regs (d : Dev) : (pinFault d).regs = d.regs := rfl

theorem pinFault_rg (d : Dev) (a : Nat) : rg (pinFault d) a = rg d a := rfl

theorem halted_pinFault (d : Dev) : halted (pinFault d) = halted d := rfl

/-- FAULT_N after the pin has been driven (R570). -/
theorem pinFault_faultN (d : Dev) : (pinFault d).pkg.faultN = !halted (pinFault d) := rfl

end Sys2Proof.Machine
end

