-- ==== Sys2Proof/WellFormed.lean ====
section
/-! DEFINITION. The well-formedness of a command: byte operands of the sizes that the spec gives the frame, message, line or body they stand for,
and word addresses on the register bus. A command that is not well-formed spells no happening of the hardware. -/

namespace Sys2Proof

/-- The body of a whole command: at most 64 KiB (15 R491). -/
def bodyOk (p : List Byte) : Bool := decide (p.length ≤ 65536)

/-- One part of a command: at most 2,176 B (15 R491). -/
def partOk (p : List Byte) : Bool := decide (p.length ≤ 2176)

/-- A frame on a link, its check included: at most 2,216 B (09 R287). -/
def wireOk (b : List Byte) : Bool := decide (1 ≤ b.length ∧ b.length ≤ 2216)

/-- A 64 B line of an HBM stack (11 R366). -/
def lineOk (b : List Byte) : Bool := decide (b.length = 64)

/-- A word address on the register bus (16 R511). -/
def addrOk (a : BitVec 28) : Bool := decide (a.toNat % 4 = 0)

/-- Well-formed commands: a codeword has 272 B (12 R397), a link message 32 B (12 R399), a bell word 16 B (08 R255), a MAC frame its addresses and
type, RDMA data their length. -/
def Instr.wf : Instr → Bool
  | .frameReceive _ b _ => wireOk b
  | .bucketOpen _ p | .bucketAbort _ p | .groupCreate _ p | .groupModify _ p | .groupQuery _ p | .groupDestroy _ p | .groupExport _ p
  | .groupImport _ p | .huddleCreate _ p | .huddleModify _ p | .huddleQuery _ p | .huddleDestroy _ p => bodyOk p
  | .parentOpenReply _ _ p => partOk p
  | .ink _ p | .erase _ p | .aborted _ p | .checkReport _ p | .metroJoin _ p | .metroResend _ p | .eraseRequest _ p | .metroGathered _ p
  | .noticeAck _ p => partOk p
  | .shardBind _ p | .shardUnbind _ p | .shardQuery _ p | .shardScalars _ p | .shardRepublish _ p | .lessonLoad _ p | .lessonQuery _ p
  | .normBind _ p => bodyOk p
  | .bellWordReceive _ w => decide (w.length = 16)
  | .replayStart _ p | .replayStop _ p | .gateLoad _ p => bodyOk p
  | .write _ _ b | .addKz64 _ _ b _ _ | .addKf32 _ _ b _ | .addKi32 _ _ b _ | .addKi64 _ _ b _ => lineOk b
  | .regionCreate _ p | .regionDestroy _ p | .regionQuery _ p | .regionRead _ p | .regionAdd _ p => bodyOk p
  | .regionWrite _ p _ => partOk p
  | .linkMessageReceive _ m => decide (m.length = 32)
  | .codewordReceive _ c => decide (c.bytes.length = 272)
  | .encapFrameReceive _ m _ => decide (14 ≤ m.length)
  | .rdmaAccess _ w _ _ n b => decide (b.length = if w then n.toNat else 0)
  | .flashConnect _ p _ _ _ | .flashDisconnect _ p | .flashRead _ p | .flashWrite _ p | .fieldTest _ p => bodyOk p
  | .lineRebuildDone _ b => (b.map lineOk).getD true
  | .partnerBind _ p | .partnerUnbind _ p | .partnerTakeover _ p | .checkpointWrite _ p | .checkpointConfirm _ p | .checkpointRead _ p => bodyOk p
  | .hostSubmit _ b _ => decide (b.length ≤ 2216)
  | .cmdUnknownOpcode _ _ p | .deviceQuery _ p | .eventRead _ p | .sensorRead _ p | .attestQuote _ p | .fwLoad _ p | .fwActivate _ p _
  | .serviceDrain _ p => bodyOk p
  | .setAliasWrite _ a _ _ | .clearAliasWrite _ a _ _ | .toggleAliasWrite _ a _ _ | .registerWrite _ a _ _ => addrOk a
  | .blkUnlock _ a _ | .cntClear _ a _ | .multiwordLatchRead _ a | .postedWriteDone a => addrOk a
  | .voteSweep us => us.all (fun u => addrOk u.1)
  | .tickBoundary | .frameTransmit _ | .ecnEchoSend _ _ | .ecnRecover _ _ | .reorderGapTimeout _ _ | .corridorSlotEnter _ _ | .shaperRefill
  | .policerRefill | .gateEntryChange _ | .gateListActivate _ | .gateDisable _ _ _ | .gateDisableTakeEffect _ | .convertBlock _ _
  | .chunkAdmit | .admitNoteTimeout _ | .deskAdd _ _ | .chunkBind _ | .deskClose _ | .rowRelease _ _ | .helperReturn _ _
  | .helperRowMerge _ _ _ | .twinRowCompare _ _ | .econvRow _ _ _ | .stealRound | .rfabBenchGo _ _ | .deskDrainComplete _
  | .deskDrainTimeout _ | .spareKatStart | .spareKatEnd _ | .spareMapTake | .bucketPendingTimeout _ | .lateLimit _ | .bucketChecksComplete _
  | .commitPoint _ | .inkPortRelease _ _ | .noticeRetryTimeout _ | .metroHoldTimeout _ | .metroLateLimit _ | .metroChunkClose _
  | .metroGatherReceive | .metroGatherLapse _ | .normPassDone _ | .runStart _ | .engineRowStart _ | .engineRowComplete _ _
  | .engineKatEnd _ _ | .runStallTimeout _ | .huddleFrameReceive _ | .huddleMemberDeadline _ _ | .huddleChildDeadline _ _
  | .huddleFenceGo _ _ | .huddleGroupMove _ | .bellWordSend _ | .bellEnable _ _ | .bellSetGo _ _ | .ppsEdge | .ppsMiss | .ppsOutEdge
  | .bellTickGo _ _ | .tickChangeEffect | .bellStepArm _ _ | .bellStepOriginWrite _ _ | .stepTick | .portEnable _ _ _ | .portModeChange _
  | .linkPortWrite _ _ _ | .rteResync _ _ | .mirrorEnable _ _ _ | .rollCall | .poolBankFetch _ _ | .read _ _ | .initZero _ _ _
  | .readCheck _ _ | .scrubPass _ _ | .hbmTempSample _ _ | .evacShareDone _ _ | .evacRetry | .hbmFence _ _ _ | .hbmUnfence _ _ _
  | .memQuotaWrite _ _ _ | .memThermCfgWrite _ _ | .bringupStepComplete _ _ | .bringupStepTimeout _ | .bringupRestart _ | .linkAdmit _
  | .laneLockLost _ | .marginMeasure _ _ | .linkEnable _ _ _ | .linkRetrain _ _ _ | .linkLoopbackSelect _ _ _ | .linkPrbsEnable _ _ _
  | .linkExpectWrite _ _ _ | .sidebandScan _ _ _ _ | .moduleInsert _ | .moduleLatchOpen _ | .linkDrainEnd _ | .moduleRemoved _
  | .ledRefresh _ | .roceAckTimeout _ | .flashKeepaliveLapse _ | .roceCnpReceive _ | .pfcPauseReceive _ _ _ | .flashTransferComplete _ _
  | .faultRaise _ | .refWindowEnd _ | .refAck _ _ | .refClear _ _ | .refRaise _ _ | .refQuietExpire _ | .fieldTestStart | .fieldTestEnd _ _
  | .fieldTestRequeue | .unitDrainTimeout _ _ | .mirrorFrameReceive | .mirrorBeat | .mirrorResendTimeout | .partnerLost
  | .ckpMirrorDisable _ _ | .checkpointShardCopy _ | .hostRxDeliver | .cmdRxEnable _ _ | .cmdAssemblyTimeout _ _ | .attestBatchClose _
  | .fwConfirm | .fwRevert | .serviceDrainComplete | .attnPress _ | .locateTimeout | .lockstepMismatch | .sitonelRestartDone _
  | .sensorSample _ | .functionLevelReset | .pcieLinkDown | .sitBlkWorldWrite _ _ | .fabricReset _ _ | .fabricResetDone | .haltGo _ _
  | .railRise _ _ | .powerLoss _ _ | .powerOnReset _ _ | .deviceReady | .managementReset | .pciePerst | .refclkLoss _ | .refclkReturn _
  | .thermtrip _ | .groupImportInstalled _ | .pcieLinkUp | .busMasteringChange _ | .refRecordCopy | .porstNLow => true

end Sys2Proof
end

