-- ==== Sys2Proof/Tests/Slice0.lean ====
section
/-! SUPPORT. The model's own tests: what the check of well-formedness refuses, single steps against the manual's worked examples, and for each statement that has
hypotheses a witness that meets them (one for each of its clauses). The expected values of the tests stand in the manual, at the rule or example named. -/

namespace Sys2Proof.Tests

open Sys2Proof Sys2Proof.Machine

set_option Elab.async false

/-! ## Helpers -/

/-- A state whose device is the reset device changed by f; no command waits. -/
def ws (f : Dev → Dev) : State := { State.reset with dev := f State.reset.dev }

/-- The same, once the device is in service. -/
def wu (f : Dev → Dev) : State := ws (fun d => f { d with pkg := { d.pkg with phase := .up } })

/-- Bell time t in ns, the tick of which has begun. -/
def wAt (t : Nat) (d : Dev) : Dev := { d with clk := { d.clk with now := t * 2 ^ 32, ticked := t / 1024, slotTick := t / 1024 } }

/-- Link l in service as the one member of the enabled port p of kind k. -/
def wLink (l p k : Nat) (d : Dev) : Dev :=
  let d := fset d (Reg.LINK_STATUS l) Fd.LINK_STATUS_step 9
  let d := fset (fset d (Reg.LINK_PORT l) Fd.LINK_PORT_member 1) (Reg.LINK_PORT l) Fd.LINK_PORT_port p
  fset (fset (fset d (Reg.PORT_CFG p) Fd.PORT_CFG_en 1) (Reg.PORT_CFG p) Fd.PORT_CFG_kind k) (Reg.PORT_CFG p) Fd.PORT_CFG_up_links 1

/-- A header of a command, secure or not, from switch 5's management station. -/
def wHdr (w : Bool) (v : Via) : CmdHdr := ⟨0x002FFF, w, v, 4, 7⟩

/-- A frame in a queue. -/
def wQ (b : List Byte) : QFrame := ⟨b, 0, 1, 1, none, false, 0, false, none, none⟩

/-- Two endpoints behind ports 1 and 2 at a plain root. -/
def wGroup : Group := { Group.free with st := 1, epoch := 1, role := 2, members := 2, roll := 3, slots := [⟨false, 1, 0, 0x10, 0xFFFFFF⟩, ⟨false, 1, 1, 0x20, 0xFFFFFF⟩], fanout := 6, maxB := 64 }

/-- Parameters of BUCKET_OPEN: context 0, epoch 1, tag 3, operation, reduce type, format, blocks, step 9. -/
def wParams (op ty fmt blocks : Nat) : List Byte :=
  [0, 0, 0, 1, 0, 3] ++ beBytes 1 op ++ beBytes 1 ty ++ beBytes 1 fmt ++ [0] ++ beBytes 4 blocks ++ beBytes 4 9 ++ List.replicate 34 0

/-- The key of that bucket. -/
def wKey : BKey := ⟨0, 1, 3⟩

/-- An OPEN bucket of a group. -/
def wBucket (g : Group) (ps : List Byte) : Bucket :=
  { st := .opened, attempt := 0, grp := g, params := ps, openAt := 0, pendAt := 0, late := 2 ^ 40, eref := 0, seed := 0, xchk := false, rm := 0, chunks := [], held := [], aborts := [],
    reports := [], cause := none, skipped := 0, primOnly := [], noted := false, openers := [], mReg := 0, mEref := 0, mJoin := [], mChunks := [], mGot := [], mConf := [], mSent := [], inkAt := 0,
    shard := none, lateDone := false, mLateDone := false, pubElems := 0 }

/-- A device that holds a bucket under that key. -/
def wHold (b : Bucket) (d : Dev) : Dev := bucketPut (groupPut d 0 b.grp) (keyOf wKey) b

/-- A KF32 bucket of 64 blocks with a chunk 0. -/
def wChunkB (x : Chunk) : Bucket := { wBucket wGroup (wParams 0 0 1 64) with chunks := [(0, x)] }

/-- Lane words of a row of that chunk, and accumulators for it. -/
def wBlk : LBlk := ⟨keyOf wKey, 0, 0, 0, List.replicate 64 (laneWord 0 false false 0 5 111), 1, 0, 0, 1⟩
/-- An element of value k as the side store keeps it. -/
def wEl (k : Int) : AElem := ⟨⟨k, 0⟩, res k, 0, false⟩
def wAcc (st : AccSt) : Accum := ⟨keyOf wKey, 0, 0, 0, false, st, 1, [], [], [], false, [], 0, 0, 0⟩

/-- A row released by a chunk of a bucket at a node with a parent, on its way to converter 127. -/
def wRow : RowOut := ⟨127, keyOf wKey, 0, 0, 63, List.replicate 64 (wEl 5)⟩
def wRowB : Bucket := { wChunkB { Chunk.new 0 0 with st := .closing } with grp := { wGroup with role := 1, parent := 0x2FFF, parentPort := 3 } }
def wRowS : State := wu fun d => { wHold wRowB (wLink 8 3 1 d) with seq := { (wHold wRowB d).seq with rowOut := [wRow] } }

/-- The same group under a parent (switch 5), and a group with a child there. -/
def wUnder : Group := { wGroup with role := 1, parent := 0x2FFF, parentPort := 3 }
def wOver : Group := { wGroup with members := 3, roll := 7, slots := [⟨false, 1, 0, 0x10, 0xFFFFFF⟩, ⟨true, 2, 1, 0x2FFF, 0xFFFFFF⟩] }
/-- The same as METRO_OWNER of rank 0 of two. -/
def wMetro : Group := { wGroup with role := 3, metroN := 2 }

/-- A region of index 8, 4 granules on stack 0, and its handle 0x0001_0008. -/
def wRegion (sec : Bool) (cls : Nat) : Region := ⟨true, sec, false, false, cls, 1, 4, [(0, 1000)], 0⟩
def wReg (sec : Bool) (cls : Nat) (d : Dev) : Dev := regionPut d 8 (wRegion sec cls)

/-- An empty body of a GROUP_CREATE or GROUP_MODIFY: its mask, its target, export bytes 0 to 63 and what follows them. -/
def wBody (mask target : Nat) (ex rest : List Byte) : List Byte := beBytes 4 mask ++ beBytes 2 target ++ [0, 0] ++ ex ++ List.replicate (64 - ex.length) 0 ++ rest

/-- The one part of a notice about the bucket of wKey. -/
def wNote (op flags code : Nat) (ext : List Byte) : List Byte :=
  (noticeParts (keyOf wKey) 0 5 (List.replicate 10 0) ⟨op, flags, code, 0, 0, ext ++ List.replicate (10 - ext.length) 0, []⟩).headD []

/-- A secure header from a coordinate. -/
def wFrom (c : Coord) : CmdHdr := ⟨c, true, .self, 4, 7⟩

/-- An export of that group, and a state whose region holds it at offset 64. -/
def wExp : List Byte := groupExport State.reset.dev 0 false wGroup
def wImp (f : Dev → Dev) : State := wu fun d => regionWrite (wReg true 0 (f d)) (wRegion true 0) 64 wExp

/-- A metro bucket of one block whose owned chunk is closed, before and after it goes out. -/
def wIn : Bucket := { wBucket wMetro (wParams 0 0 1 1) with st := .closed, mReg := 9, mChunks := [(0, { MChunk.init with closed := true })] }
def wOut : Bucket := { wIn with mChunks := [(0, { MChunk.init with closed := true, out := true })] }
def wMet : State := wu fun d => regionPut (wHold wIn d) 9 ⟨true, true, true, false, 3, 1, 1, [(0, 2000)], 0⟩
def wMetX : List Exact × List (List Byte) := (metroBlocks wMet.dev (keyOf wKey) wIn 0).getD ([], [])
def wMet1 : Dev := (multicastAll wMet.dev (keyOf wKey) 0 (homeOf (keyOf wKey) 0 % 128 / 8) (chunkCorr (keyOf wKey) 0) 2 1 (pencilMark (keyOf wKey) 0) (resultTo wMet.dev wIn 0) wMetX.2).getD State.reset.dev
def wMet2 : Dev := ((otherOwners 0 wMetro).foldl (fun (o : Option Dev) w => o.bind (fun e => sendAll e (keyOf wKey) 0 (homeOf (keyOf wKey) 0 % 128 / 8) (chunkCorr (keyOf wKey) 0) 2 2 w.2 wMetX.2)) (some wMet1)).getD State.reset.dev

/-- A METRO_RESEND from the owner of rank 1, wherever it is, to a switch whose command class is full: no acknowledgement goes out. -/
def wResS : State := wu fun d => fset (regionPut (wHold wOut d) 9 ⟨true, true, true, false, 3, 1, 1, [(0, 2000)], 0⟩) (Reg.MEM_QUOTA 3) Fd.MEM_QUOTA_quota 0
def wResH : CmdHdr := wFrom (Config.metroOwner 0 1)
def wResP : List Byte := wNote 0x0306 0 0 (beBytes 4 0)
def wResX : List Exact × List (List Byte) := (metroBlocks (noticed wResS.dev wResH 0x0306 wResP) (keyOf wKey) wOut 0).getD ([], [])
def wResE : Dev := (sendAll (noticed wResS.dev wResH 0x0306 wResP) (keyOf wKey) 0 (homeOf (keyOf wKey) 0 % 128 / 8) (chunkCorr (keyOf wKey) 0) 2 2 wResH.src.toNat wResX.2).getD State.reset.dev

theorem some_getD {α : Type} {x : Option α} {a : α} (h : x.isSome = true) : x = some (x.getD a) := by cases x <;> simp_all

theorem wRank : rankOf 0 wMetro (Config.metroOwner 0 1).toNat = some 1 := by
  simp [rankOf, otherOwners, inMetro, isOwner, wMetro, wGroup, Group.free, List.range, List.range.loop]

/-- A lesson that stores r0 as the weight and publishes it; a shard of 64 KF32 blocks that runs it on engine 0 with W in that region; its binding; a run. -/
def wLess : List Nat := [0x0F00_0000_0000_0000, 0x1000_0000_0000_0000]
def wShard : Shard :=
  { ctx := 0, tag := 3, blocks := 64, fmt := 1, world := false, lesson := 1, engines := 1, w := ⟨1, 0x0001_0008, 0⟩, s1 := ⟨0, 0, 0⟩, s2 := ⟨0, 0, 0⟩, gPlace := false, g := ⟨1, 0, 0⟩, clip := false,
    normBind := 15, normSlot := 63, normMask := 0, clipNorm := 0, nonfinite := false, cur := List.replicate 14 0, pend := none, lastStep := 0, ran := false, status := 0, lastKey := 0, lastAtt := 0,
    lastEref := 0, seed := 0, flags := [] }
def wRun (st : RunSt) : Run := ⟨1023, keyOf wKey, 0, st, 0, 0, [], 0, List.replicate 17 0, 0, false, [], false, (0, 0x3F800000)⟩
def wLsn (x : Shard) (rs : List Run) (d : Dev) : Dev :=
  let d := wHold { wBucket wGroup (wParams 4 0 1 64) with st := .inked, shard := some 1023 } (wReg false 0 d)
  { d with lsn := { d.lsn with shards := [(1023, some x)], slots := [(1, wLess)], runs := rs } }

/-- A huddle group of two endpoints at a root, and a frame of KF32 zeros from the first of them. -/
def wHud : HGroup := { HGroup.free with valid := true, role := 2, members := 2, slots := wGroup.slots, fanout := 6 }
def wHudC : HGroup := { wHud with members := 3, slots := wOver.slots }
def wHudF (src g kind : Nat) : HFrame := ⟨1, setBytes (hudFrame State.reset.dev g kind 0 0 100 0 0 0 1 (List.replicate 64 0) []) 7 (beBytes 3 src)⟩
def wHudI (filled absent : List Nat) (car : Nat) : HInst := ⟨255, 100, 0, 0, filled, absent, car, List.replicate 16 AElem.zero, 0, 0, 3, 15, .none⟩
def wHudD (g : HGroup) (is : List HInst) (q : List HFrame) (t : Nat) (d : Dev) : Dev :=
  let d := wAt (t * 1024) d
  { d with hud := { d.hud with groups := [(255, g)], inst := is, inQ := q } }


/-- The last line of the last stack; bytes in it; a region there and its evacuation to stack 0. -/
def wLine : HLine := ⟨15, 1342177279⟩
def wLineX : Nat := lineId wLine
def wBytes (bs : List Byte) (d : Dev) : Dev := hbmRun d (64 * wLineX) bs
def wEvR : Region := ⟨true, false, false, false, 1, 1, 1, [(15, 40959)], 0⟩
def wEv (dest : Option (Nat × Nat)) (d : Dev) : Dev := { regionPut d 8 wEvR with mem := { (regionPut d 8 wEvR).mem with evacs := [⟨8, 0, .hot, dest⟩] } }
def wStk (k x : Nat) (d : Dev) : Dev := fset d (Reg.HBM_STK_STATUS k) Fd.HBM_STK_STATUS_state x

/-- Another owner stands in the metro stage, and none has joined. -/
theorem wOther : ∃ o ∈ otherOwners 0 wMetro, ∀ j ∈ ([] : List (Nat × Nat)), j.1 ≠ o.1 :=
  ⟨(1, (Config.metroOwner 0 1).toNat), by simp [otherOwners, inMetro, isOwner, wMetro, wGroup, Group.free, List.range, List.range.loop], by simp⟩

/-- The metro bucket of one block as a REDUCE_TO_SHARD. -/
def wInR : Bucket := { wIn with params := wParams 4 0 1 1 }
def wMetR : State := wu fun d => regionPut (wHold wInR d) 9 ⟨true, true, true, false, 3, 1, 1, [(0, 2000)], 0⟩
def wMetRX : List Exact × List (List Byte) := (metroBlocks wMetR.dev (keyOf wKey) wInR 0).getD ([], [])

/-- A pass of the owner of rank 1, wherever it is, with the first block of its chunk of a metro bucket of two. -/
def wGatB : Bucket := wBucket wMetro (wParams 0 0 1 128)
def wGatHdr : List Byte := [0x14, 0x40, 0, 1, 0, 0, 0] ++ beBytes 3 (Config.metroOwner 0 1).toNat ++ [0, 0, 0, 0, 0, 0, 0, 0, 0, 1, 0, 3, 0, 0, 0, 0, 0, 0, 0, 0, 0, 0]
def wGatBlk : List Byte := mkBlock [0x3F, 0x80, 0, 0] 0 64 0x7F 1 0
def wGatP : ConvPass := ⟨64, wGatHdr, [wGatBlk], 0, 0⟩
def wGat : State := wu fun d => let d := wHold wGatB d; { d with seq := { d.seq with gathers := [wGatP] } }
def wGatD : Dev := poolFreeGrans { wGat.dev with seq := { wGat.dev.seq with gathers := [] } } 1 8 0
def wGatO : Dev :=
  (multicast wGatD (keyOf wKey) 0 8 (chunkCorr (keyOf wKey) 1) 2 1 (mgmtCoord wGatD) (pencilMark (keyOf wKey) 0) (resultTo wGatD wGatB 1) [wGatBlk]).getD State.reset.dev
def wGatB' : Bucket := (anyBucket wGatO (keyOf wKey)).getD wGatB
theorem wGatSrc : fSrc wGatHdr = (Config.metroOwner 0 1).toNat := by
  have h := field_at [0x14, 0x40, 0, 1, 0, 0, 0] (beBytes 3 (Config.metroOwner 0 1).toNat) [0, 0, 0, 0, 0, 0, 0, 0, 0, 1, 0, 3, 0, 0, 0, 0, 0, 0, 0, 0, 0, 0] 7 3 rfl (by simp)
  have g := (Config.metroOwner 0 1).isLt
  simp only [fSrc, wGatHdr]
  rw [h, beNat_beBytes]
  omega
theorem wGatRank : rankOf (kCtx (passKey wGatHdr)) wMetro (fSrc wGatHdr) = some 1 := by
  rw [show kCtx (passKey wGatHdr) = 0 by decide +kernel, wGatSrc]; exact wRank
theorem wGatOk : ∀ x ∈ [wGatBlk], blkOk x = true := fun x h => by rw [List.mem_singleton.mp h]; exact blkOk_mkBlock _ _ _ _ _ _ (by decide)

theorem gfMul_zero_left (m poly b : Nat) : gfMul m poly 0 b = 0 := by
  simp only [gfMul]
  induction List.range m with
  | nil => rfl
  | cons i l ih => simp only [List.foldr_cons, ih]; simp

theorem putErr_zero (w : List Nat) (d : Nat) : putErr w d 0 = w := by
  simp only [putErr, Nat.xor_zero]
  exact List.modify_id _ _

/-- One error does not explain a word whose first syndrome is 0. -/
theorem oneError_none {m poly n : Nat} {w : List Nat} (h0 : gfEval m poly w 1 = 0) (h : (syndromes m poly w n).all (· = 0) = false) : oneError m poly w n = none := by
  simp only [oneError, h0, putErr_zero, h]
  simp

/-- Two errors do not explain a word whose first two syndromes are 0. -/
theorem twoErrors_none {m poly n : Nat} {w : List Nat} (h0 : gfEval m poly w 1 = 0) (h1 : gfEval m poly w 2 = 0) (h : (syndromes m poly w n).all (· = 0) = false) :
    twoErrors m poly w n = none := by
  have z : gfMul m poly (0 ^^^ gfMul m poly 0 0) 0 = 0 := by simp [gfMul_zero_left]
  simp only [twoErrors, h0, h1, gfMul_zero_left, Nat.xor_zero, putErr_zero, h]
  simp

theorem memDecode_bad {w : List Nat} (h0 : gfEval 16 memPoly w 1 = 0) (h1 : gfEval 16 memPoly w 2 = 0) (a : (syndromes 16 memPoly w 4).all (· = 0) = false) : memDecode w = .bad := by
  unfold memDecode
  rw [a, oneError_none h0 a, twoErrors_none h0 h1 a]
  rfl

/-- An error pattern of three symbols whose first two syndromes are 0. -/
def wThree : List SymErr := [⟨33, 1⟩, ⟨34, 3⟩, ⟨35, 2⟩]
theorem wBad : memDecode (errWord wThree) = .bad := memDecode_bad (by decide +kernel) (by decide +kernel) (by decide +kernel)

theorem wOk1 : memDecode (errWord [⟨35, 0xFFFF⟩]) = .corrected (List.replicate 36 0) 1 := by decide +kernel

theorem gfMul_zero_right (m poly a : Nat) : gfMul m poly a 0 = 0 := by
  simp only [gfMul]
  induction List.range m with
  | nil => rfl
  | cons i l ih => simp only [List.foldr_cons, ih]; simp

/-- Three errors do not explain a word whose first three syndromes are 0. -/
theorem threeErrors_none {m poly n : Nat} {w : List Nat} (h0 : gfEval m poly w 1 = 0) (h1 : gfEval m poly w 2 = 0) (h2 : gfEval m poly w 4 = 0)
    (h : (syndromes m poly w n).all (· = 0) = false) : threeErrors m poly w n = none := by
  simp only [threeErrors, h0, h1, h2, gfMul_zero_left, gfMul_zero_right, Nat.xor_zero, putErr_zero, h]
  simp

theorem fecDecode_bad {w : List Nat} (h0 : gfEval 8 fecPoly w 1 = 0) (h1 : gfEval 8 fecPoly w 2 = 0) (h2 : gfEval 8 fecPoly w 4 = 0)
    (a : (syndromes 8 fecPoly w 6).all (· = 0) = false) : fecDecode w = .bad := by
  unfold fecDecode
  rw [a, oneError_none h0 a, twoErrors_none h0 h1 a, threeErrors_none h0 h1 h2 a]
  rfl

/-- A codeword of zeros whose last four check bytes are wrong. -/
def wCw : List Byte := List.replicate 268 0 ++ [1, 7, 14, 8]
theorem wCwBad : fecDecode (interleave wCw 1) = .bad := fecDecode_bad (by decide +kernel) (by decide +kernel) (by decide +kernel) (by decide +kernel)

/-- Link l at step n since time t; what bring-up finds; a flash connection of entry 3. -/
def wStep (l n : Nat) (d : Dev) : Dev := fset d (Reg.LINK_STATUS l) Fd.LINK_STATUS_step n
def wDyn (l : Nat) (f : LinkDyn → LinkDyn) (d : Dev) : Dev := dynMod d l f
def wInfo (lanes : Vector (BitVec 3) 8) : BringInfo := ⟨lanes, 0xA5, 0x123456, 127, 0x1122334455667788⟩
def wKnown (l : Nat) (d : Dev) : Dev := bellLinkPut d l { BellLink.init with dIn := List.replicate 16 5 }
def wLock (d : Dev) : Dev := fset d Reg.BELL_STATUS Fd.BELL_STATUS_state 2
def wXfer (sent : Bool) : Transfer := ⟨true, 5, 2, 0x00010008, 0, sent, some ⟨5, 4, 0x0733, true, 7, 0⟩, false⟩
def wFlash (xs : List Transfer) (tries : Nat) : Flash := ⟨3, 2, List.replicate 248 0, 512, 1000, false, xs, [], tries, 100, EcnRate.init⟩
def wFl (x : Flash) (d : Dev) : Dev :=
  let d := flashPut (wReg true 6 (wAt 100000000 d)) 63 (some x)
  let d := fset (fset (fset d (Reg.RSV_CFG 3) Fd.RSV_CFG_en 1) (Reg.RSV_CFG 3) Fd.RSV_CFG_use 1) (Reg.RSV_CFG 3) Fd.RSV_CFG_link 127
  wLink 127 127 3 (fset d (Reg.LINK_CTRL 127) Fd.LINK_CTRL_g_mode 1)
/-- The same entry in ENCAP use. -/
def wEnc (d : Dev) : Dev := fset (flashPut (wFl (wFlash [] 0) d) 63 none) (Reg.RSV_CFG 3) Fd.RSV_CFG_use 0
def wEncF : List Byte := mkHeader 9 0 0x123456 0x2FFFE0 ++ List.replicate 40 0

/-- Source n in a state; a queue of field tests; a partner at switch 5 in state st; a frame from it; a checkpoint. -/
def wSrc (n : Nat) (x : Src) (d : Dev) : Dev := srcPut d n x
def wWin (v : Nat) : Src := { Src.idle0 with st := .window, sev := v, until_ := 5, last := 3 }
def wFlt : Src := { Src.idle0 with st := .fault, last := 0, recov := [7], lateOk := true }
def wUnl (base : Nat) (d : Dev) : Dev := fset d (Reg.BLK_STATUS base) (unlockFld .mgmt) 1
def wReq : ReplyTo := ⟨9, 4, 0x0701, true, 3, 0⟩
def wFtQ (q : List FtEntry) (d : Dev) : Dev := { d with int := { d.int with queue := q } }
def wPart (st : Nat) (d : Dev) : Dev :=
  let d := fset (rgPut (fset d Reg.CKP_STATUS Fd.CKP_STATUS_partner_state st) Reg.CKP_PARTNER 0x2FFF) Reg.CKP_CTRL Fd.CKP_CTRL_mirror_en 1
  { d with ckp := { d.ckp with bound := true } }
def wMirF (stream flags num off : Nat) (bs : List Byte) : List Byte :=
  (mkHeader 7 6 0 0x2FFF).take 16 ++ beBytes 1 stream ++ beBytes 1 flags ++ beBytes 2 num ++ beBytes 8 off ++ beBytes 4 (crc32c bs) ++ bs
def wInbox (st : Nat) (ins : List (Nat × Option MirIn)) (b : List Byte) (d : Dev) : Dev :=
  let d := wPart st (wReg true 5 d)
  { d with ckp := { d.ckp with inbox := [b], ins := ins, regions := [(65536, 8)] } }
def wCk : Ckpt := ⟨77, 9, 0x00010009, [], [1023], 2097152, 1, 2, 0, some wReq, [], false, 50⟩
def wStage (d : Dev) : Dev := regionPut d 9 ⟨true, true, false, false, 6, 1, 8, [(1, 100)], 0⟩

/-- A sender's first part; a device that drains; a device whose slot B holds an image of major 7; a batch of one nonce; a running restart. -/
def wFirst : Cmd := ⟨.port 127, 0x20, true, 4, 9, 0x0504, 0, true, [], 1⟩
def wDrain (d : Dev) : Dev := fset d Reg.SIT_STATUS Fd.SIT_STATUS_draining 1
def wFw (d : Dev) : Dev :=
  { d with sit := { d.sit with fw := (([0x53, 0x49, 0x54, 0x4E, 0, 7, 0, 8, 0, 0, 0, 9, 0, 0, 1, 0, 0, 0, 0, 5] : List Byte).zipIdx).map (fun x => (2 ^ 24 + x.2, some x.1)) } }
def wBatch : ReplyTo × List Byte × Nat := (wReq, List.replicate 32 3, 50)
def wRest (s : Nat) (prev : Option Nat) (d : Dev) : Dev := { d with sit := { d.sit with restart := some ⟨s, prev, none⟩ } }

/-! ## Well-formedness -/

/-- Each check refuses: an empty or an overlong frame, a body over 64 KiB, a part over 2,176 B, a bell word of 15 B, a line of 63 B, a link message of 31 B, a codeword of
271 B, a MAC frame without its type, RDMA data of another length, a rebuilt line of 65 B, a host frame over 2,216 B, an address within a word. -/
theorem test_wf_refuses :
    (Instr.frameReceive 0 [] 0).wf = false ∧ (Instr.frameReceive 0 (List.replicate 2217 0) 0).wf = false
      ∧ (Instr.ink (wHdr true .self) (List.replicate 2177 0)).wf = false ∧ (Instr.bellWordReceive 0 (List.replicate 15 0)).wf = false
      ∧ (Instr.write wLine 0 (List.replicate 63 0)).wf = false ∧ (Instr.linkMessageReceive 0 (List.replicate 31 0)).wf = false
      ∧ (Instr.codewordReceive 0 ⟨List.replicate 271 0, 0⟩).wf = false ∧ (Instr.encapFrameReceive 0 (List.replicate 13 0) true).wf = false
      ∧ (Instr.rdmaAccess 0 true 0 0 2 [1]).wf = false ∧ (Instr.rdmaAccess 0 false 0 0 2 [1]).wf = false ∧ (Instr.lineRebuildDone wLine (some (List.replicate 65 0))).wf = false
      ∧ (Instr.hostSubmit 0 (List.replicate 2217 0) 0).wf = false ∧ (Instr.registerWrite .host 0x30102 0 15).wf = false ∧ (Instr.blkUnlock .host 0x30009 0).wf = false
      ∧ (Instr.voteSweep [(0x30100, 0, 1), (0x30101, 0, 1)]).wf = false := by decide +kernel

theorem test_wf_refuses_body : (Instr.deviceQuery (wHdr true .self) (List.replicate 65537 0)).wf = false := by
  show bodyOk _ = false
  unfold bodyOk; rw [List.length_replicate]; rfl

theorem test_wf_accepts :
    (Instr.frameReceive 0 (List.replicate 2216 0) 0).wf = true ∧ (Instr.write wLine 0 (List.replicate 64 0)).wf = true ∧ (Instr.rdmaAccess 0 true 0 0 2 [1, 2]).wf = true
      ∧ (Instr.registerWrite .host 0x30100 0 15).wf = true ∧ Instr.tickBoundary.wf = true := by decide +kernel

/-! ## The manual's worked examples -/

/-- 00, coordinates: 12.5.40.3 is 0x18_2A83. -/
theorem test_coordinate : coord 12 5 40 3 = 0x182A83 := by decide

/-- 02 R53: RM16 0x4110 gives E_ref 11, S = −77. -/
theorem test_eref : erefOf 0x4110 = 11 ∧ s128 (erefOf 0x4110) = -77 := by decide

/-- 03 R77: 9.0 at E_ref 11 has A = 9 × 2^77 without a flag. -/
theorem test_kz128_of_nine : toKz (decodeKf32 0x41100000).1 (s128 11) 111 = (⟨9 * 2 ^ 77, 0⟩, 0) := by decide

/-- 03 R81: the residues of 9.0, of −2.5 and of their sum. -/
theorem test_residues : res (9 * 2 ^ 77) = 8193 ∧ res (-5 * 2 ^ 76) = 45055 ∧ res (13 * 2 ^ 76) = 53248 := by decide

/-- 03 R77, example: the lane word of 9.0 at E_ref 11 has q 9,437,184, shift 57 and, by R81's example, residue 8193; it rebuilds A = 9 × 2^77. -/
theorem test_lane_word :
    laneOf (decodeKf32 0x41100000).1 (s128 11) 111 false = ([BitVec.ofNat 64 (57 * 2 ^ 53 + 9437184 * 2 ^ 16 + 8193)], 0)
      ∧ laneKz 111 (BitVec.ofNat 64 (57 * 2 ^ 53 + 9437184 * 2 ^ 16 + 8193)) = ⟨9 * 2 ^ 77, 0⟩ := by decide +kernel

/-- 12 R397: the check bytes that a sender gives a codeword are those that the decoder takes. -/
theorem test_codeword_clean : fecDecode (interleave (cwBytes (List.replicate 260 0x5A)) 1) = .clean := by decide +kernel

/-- 02 R64: the two vectors of the toss generator. -/
theorem test_toss_vectors : toss 0 0 0 0 0 = 0xCE7D131F ∧ toss 0x0123456789ABCDEF 0x0031 9 5 0 = 0xAE3CCC61 := by decide +kernel

/-- 02 R64, example: 1 + 2^−10 narrows to 0x3F01 with that toss value and to 0x3F00 to nearest even. -/
theorem test_toss_narrowing :
    (encodeKf16 (decodeKf32 0x3F802000).1 (some 0xCE7D131F)).1 = 0x3F01 ∧ (encodeKf16 (decodeKf32 0x3F802000).1 none).1 = 0x3F00 := by decide +kernel

/-- 02, worked dot product: the four products and their flags. -/
theorem test_products :
    mulKf32 false (decodeKf32 0x71800000).1 (decodeKf32 0x4E800000).1 = (0x7F800000, Fl.ovf)
      ∧ mulKf32 false (decodeKf32 0x00000000).1 (decodeKf32 0x7F800000).1 = (0x7FC00000, Fl.inv ||| Fl.infin)
      ∧ mulKf32 false (decodeKf32 0x3FC00000).1 (decodeKf32 0x40000000).1 = (0x40400000, 0)
      ∧ mulKf32 false (decodeKf32 0xBE800000).1 (decodeKf32 0x40800000).1 = (0xBF800000, 0) := by decide +kernel

/-- 02, the same: 3 × 2^80 and −2^80 sum to 2^81, which is 2.0. -/
theorem test_dot_sum : (encodeKf32 (kzNum (kzAdd ⟨3 * 2 ^ 80, 0⟩ ⟨-(2 ^ 80), 0⟩) (s128 8))).1 = 0x40000000 := by decide +kernel

/-- 13 R427: CRC-32C of the nine bytes "123456789". -/
theorem test_crc32c : crc32c [0x31, 0x32, 0x33, 0x34, 0x35, 0x36, 0x37, 0x38, 0x39] = 0xE3069283 := by decide +kernel

/-- 16 R511, example: DESK_STATUS of physical desk 40. -/
theorem test_desk_status_address : Reg.DESK_STATUS 40 = 0x1881C0 := by decide

/-- 08 R256, example: a word leaves d_in 709 ns and off 309 ns (in units of 2^−8 ns). -/
theorem test_bell_word :
    ((bellLink (wordReceive (wu fun d => wAt 1001018 (wStep 5 9 d)).dev 5 (beBytes 6 (1000000 * 256) ++ beBytes 6 (999000 * 256) ++ beBytes 3 (600 * 256) ++ [8])) 5).dIn,
     (bellLink (wordReceive (wu fun d => wAt 1001018 (wStep 5 9 d)).dev 5 (beBytes 6 (1000000 * 256) ++ beBytes 6 (999000 * 256) ++ beBytes 3 (600 * 256) ++ [8])) 5).off)
      = ([709 * 256], [309 * 256]) := by decide +kernel

/-- The device of a state after a command. -/
def after1 (c : Instr) (s : State) : Dev := match exec c s with | .next t => t.dev | _ => s.dev

/-- 16 R532, example: RFAB_CTRL reads 0xE0; unlocked, its set alias makes it 0x1E0 and consumes the unlock. -/
theorem test_rfab_set :
    rg State.reset.dev Reg.RFAB_CTRL = 0xE0
      ∧ fbit (after1 (.blkUnlock .host 0x30008 0xC1A55E5A) (wu id)) (Reg.BLK_STATUS 0x30000) Fd.BLK_STATUS_unlocked_host = true
      ∧ rg (after1 (.setAliasWrite .host 0x30100 0x100 15) (wu fun d => fset d (Reg.BLK_STATUS 0x30000) Fd.BLK_STATUS_unlocked_host 1)) Reg.RFAB_CTRL = 0x1E0
      ∧ fbit (after1 (.setAliasWrite .host 0x30100 0x100 15) (wu fun d => fset d (Reg.BLK_STATUS 0x30000) Fd.BLK_STATUS_unlocked_host 1)) (Reg.BLK_STATUS 0x30000)
        Fd.BLK_STATUS_unlocked_host = false := by decide +kernel

/-- The same example: the clear alias on the locked block leaves 0x1E0, counts and sets lock_refused. -/
theorem test_rfab_clear :
    rg (after1 (.clearAliasWrite .host 0x30100 0x100 15) (wu fun d => rgPut d Reg.RFAB_CTRL 0x1E0)) Reg.RFAB_CTRL = 0x1E0
      ∧ rg (after1 (.clearAliasWrite .host 0x30100 0x100 15) (wu fun d => rgPut d Reg.RFAB_CTRL 0x1E0)) (Reg.BLK_LOCK_FAIL_CNT 0x30000) = 1
      ∧ fbit (after1 (.clearAliasWrite .host 0x30100 0x100 15) (wu fun d => rgPut d Reg.RFAB_CTRL 0x1E0)) (Reg.BLK_STATUS 0x30000) Fd.BLK_STATUS_lock_refused = true := by
  decide +kernel

/-- A step takes the command at the front of the queue. -/
theorem test_step_takes_the_front : step { wu id with pending := [.thermtrip 115000, .tickBoundary] } = exec (.thermtrip 115000) { wu id with pending := [.tickBoundary] } := rfl

/-! ## Witnesses -/

theorem witness_StepRunsTheFrontCommand :
    (∃ (s : State),
    s.pending = [] ∧ alive s.dev = false) ∧
    (∃ (s : State),
    let d := ppsPass { s.dev with clk := { s.dev.clk with now := s.dev.clk.now + rg s.dev Reg.BELL_INC } } (ns s.dev)
    s.pending = [] ∧ alive s.dev = true ∧ halted s.dev = true ∧ tickIdx d = s.dev.clk.ticked) :=
  ⟨⟨(ws fun d => { d with pkg := { d.pkg with phase := .held } }), by decide +kernel⟩,
   ⟨(wu fun d => fset d Reg.REF_STATUS Fd.REF_STATUS_halted 1), by decide +kernel⟩⟩

theorem witness_ResetLeavesTheSpecsValues :
    (∃ (p : _),
    p < 128) ∧
    (∃ (l : _),
    l < 128) :=
  ⟨⟨127, by decide +kernel⟩,
   ⟨127, by decide +kernel⟩⟩

theorem witness_NothingDueSettlesToNothing : ∃ (d : Dev),
    Quiet d :=
  ⟨((wu fun d => wHold wRowB (wLink 8 3 1 d)).dev), by decide +kernel⟩

theorem witness_FaultPinFollowsHalt : ∃ (s t : State),
    (s.dev.pkg.faultN = !halted s.dev) ∧ step s = .next t :=
  ⟨(wu id), (idle (wu id)), rfl, rfl⟩

theorem witness_HeldAndDeadDevicesStand :
    (∃ (c : Instr) (s : State),
    (s.dev.pkg.phase = .off ∨ s.dev.pkg.phase = .held) ∧ (∀ i mv, c ≠ .railRise i mv) ∧ (∀ i ms, c ≠ .powerLoss i ms) ∧ (∀ a b, c ≠ .powerOnReset a b) ∧ (∀ i, c ≠ .refclkLoss i) ∧ (∀ i, c ≠ .refclkReturn i) ∧ (∀ t, c ≠ .thermtrip t) ∧ c ≠ .porstNLow) ∧
    (∃ (s : State),
    s.dev.pkg.phase = .dead) ∧
    (∃ (s : State) (addr : BitVec 28) (b : BlkRow) (i : Nat),
    s.dev.pkg.phase = .dead ∧ addr.toNat % 0x4000 < 0x1000 ∧ blkOf addr.toNat = some (b, i) ∧ b.kind ≠ 2) :=
  ⟨⟨.tickBoundary, (ws fun d => { d with pkg := { d.pkg with phase := .held } }), by decide, by simp, by simp, by simp, by simp, by simp, by simp, by simp⟩,
   ⟨(ws fun d => { d with pkg := { d.pkg with phase := .dead } }), by decide +kernel⟩,
   ⟨(ws fun d => { d with pkg := { d.pkg with phase := .dead } }), 0x28100, (⟨0x0B, 0x028000, 1, false⟩), 0, by decide +kernel⟩⟩

theorem witness_CommandsKeepTheirWorld :
    (∃ (s : State) (h : CmdHdr) (p : List Byte) (b : Bool) (x : BitVec 32) (y : BitVec 64) (c : Instr) (op : Nat) (secure query : Bool),
    (c, op, secure, query) ∈ [(Instr.bucketOpen h p, 0x0101, false, false), (.bucketAbort h p, 0x0102, false, false), (.groupCreate h p, 0x0110, false, false), (.groupModify h p, 0x0111, false, false), (.groupQuery h p, 0x0112, false, true), (.groupDestroy h p, 0x0113, false, false), (.groupExport h p, 0x0114, false, false), (.groupImport h p, 0x0115, false, false), (.huddleCreate h p, 0x0201, false, false), (.huddleModify h p, 0x0202, false, false), (.huddleQuery h p, 0x0203, false, true), (.huddleDestroy h p, 0x0204, false, false), (.shardBind h p, 0x0401, false, false), (.shardUnbind h p, 0x0402, false, false), (.shardQuery h p, 0x0403, false, true), (.shardScalars h p, 0x0404, false, false), (.shardRepublish h p, 0x0405, false, false), (.lessonLoad h p, 0x0410, false, false), (.lessonQuery h p, 0x0411, false, true), (.normBind h p, 0x0412, false, false), (.regionCreate h p, 0x0501, false, false), (.regionDestroy h p, 0x0502, false, false), (.regionQuery h p, 0x0503, false, true), (.regionWrite h p b, 0x0504, false, false), (.regionRead h p, 0x0505, false, true), (.regionAdd h p, 0x0506, false, false), (.gateLoad h p, 0x0601, true, false), (.replayStart h p, 0x0610, false, false), (.replayStop h p, 0x0611, false, false), (.fieldTest h p, 0x0701, decide (byteAt p 0 ≠ 6), false), (.partnerBind h p, 0x0710, true, false), (.partnerUnbind h p, 0x0711, true, false), (.partnerTakeover h p, 0x0712, true, false), (.checkpointWrite h p, 0x0720, true, false), (.checkpointConfirm h p, 0x0721, true, false), (.checkpointRead h p, 0x0722, true, false), (.flashConnect h p x y b, 0x0730, true, false), (.flashDisconnect h p, 0x0731, true, false), (.flashRead h p, 0x0732, true, false), (.flashWrite h p, 0x0733, true, false), (.deviceQuery h p, 0x0801, false, true), (.eventRead h p, 0x0802, true, true), (.sensorRead h p, 0x0803, false, true), (.attestQuote h p, 0x0810, false, false), (.fwLoad h p, 0x0820, true, false), (.fwActivate h p b, 0x0821, true, false), (.serviceDrain h p, 0x0830, true, false)] ∧ alive s.dev = true ∧ seqDecoded op = false ∧ fbit s.dev Reg.SIT_STATUS Fd.SIT_STATUS_restarting = true) ∧
    (∃ (s : State) (h : CmdHdr) (p : List Byte) (b : Bool) (x : BitVec 32) (y : BitVec 64) (c : Instr) (op : Nat) (secure query : Bool),
    let d := dequeue s.dev h op
    let allowed : Bool := match h.via with | .port q => decide (portKind d q.toNat = 1 ∨ portKind d q.toNat = 2) || (rg d (Reg.CMD_SECURE_PORT (q.toNat / 32))).testBit (q.toNat % 32) | .host => fbit d Reg.CMD_CTRL Fd.CMD_CTRL_host_secure | .self => true
    (c, op, secure, query) ∈ [(Instr.bucketOpen h p, 0x0101, false, false), (.bucketAbort h p, 0x0102, false, false), (.groupCreate h p, 0x0110, false, false), (.groupModify h p, 0x0111, false, false), (.groupQuery h p, 0x0112, false, true), (.groupDestroy h p, 0x0113, false, false), (.groupExport h p, 0x0114, false, false), (.groupImport h p, 0x0115, false, false), (.huddleCreate h p, 0x0201, false, false), (.huddleModify h p, 0x0202, false, false), (.huddleQuery h p, 0x0203, false, true), (.huddleDestroy h p, 0x0204, false, false), (.shardBind h p, 0x0401, false, false), (.shardUnbind h p, 0x0402, false, false), (.shardQuery h p, 0x0403, false, true), (.shardScalars h p, 0x0404, false, false), (.shardRepublish h p, 0x0405, false, false), (.lessonLoad h p, 0x0410, false, false), (.lessonQuery h p, 0x0411, false, true), (.normBind h p, 0x0412, false, false), (.regionCreate h p, 0x0501, false, false), (.regionDestroy h p, 0x0502, false, false), (.regionQuery h p, 0x0503, false, true), (.regionWrite h p b, 0x0504, false, false), (.regionRead h p, 0x0505, false, true), (.regionAdd h p, 0x0506, false, false), (.gateLoad h p, 0x0601, true, false), (.replayStart h p, 0x0610, false, false), (.replayStop h p, 0x0611, false, false), (.fieldTest h p, 0x0701, decide (byteAt p 0 ≠ 6), false), (.partnerBind h p, 0x0710, true, false), (.partnerUnbind h p, 0x0711, true, false), (.partnerTakeover h p, 0x0712, true, false), (.checkpointWrite h p, 0x0720, true, false), (.checkpointConfirm h p, 0x0721, true, false), (.checkpointRead h p, 0x0722, true, false), (.flashConnect h p x y b, 0x0730, true, false), (.flashDisconnect h p, 0x0731, true, false), (.flashRead h p, 0x0732, true, false), (.flashWrite h p, 0x0733, true, false), (.deviceQuery h p, 0x0801, false, true), (.eventRead h p, 0x0802, true, true), (.sensorRead h p, 0x0803, false, true), (.attestQuote h p, 0x0810, false, false), (.fwLoad h p, 0x0820, true, false), (.fwActivate h p b, 0x0821, true, false), (.serviceDrain h p, 0x0830, true, false)] ∧ alive s.dev = true ∧ (seqDecoded op = true ∨ fbit s.dev Reg.SIT_STATUS Fd.SIT_STATUS_restarting = false) ∧ ((h.world = true ∧ allowed = false) ∨ (h.world = false ∧ secure = true))) ∧
    (∃ (s : State) (h : CmdHdr) (p : List Byte) (b : Bool) (x : BitVec 32) (y : BitVec 64) (c : Instr) (op : Nat) (secure query : Bool),
    let d := dequeue s.dev h op
    let allowed : Bool := match h.via with | .port q => decide (portKind d q.toNat = 1 ∨ portKind d q.toNat = 2) || (rg d (Reg.CMD_SECURE_PORT (q.toNat / 32))).testBit (q.toNat % 32) | .host => fbit d Reg.CMD_CTRL Fd.CMD_CTRL_host_secure | .self => true
    (c, op, secure, query) ∈ [(Instr.bucketOpen h p, 0x0101, false, false), (.bucketAbort h p, 0x0102, false, false), (.groupCreate h p, 0x0110, false, false), (.groupModify h p, 0x0111, false, false), (.groupQuery h p, 0x0112, false, true), (.groupDestroy h p, 0x0113, false, false), (.groupExport h p, 0x0114, false, false), (.groupImport h p, 0x0115, false, false), (.huddleCreate h p, 0x0201, false, false), (.huddleModify h p, 0x0202, false, false), (.huddleQuery h p, 0x0203, false, true), (.huddleDestroy h p, 0x0204, false, false), (.shardBind h p, 0x0401, false, false), (.shardUnbind h p, 0x0402, false, false), (.shardQuery h p, 0x0403, false, true), (.shardScalars h p, 0x0404, false, false), (.shardRepublish h p, 0x0405, false, false), (.lessonLoad h p, 0x0410, false, false), (.lessonQuery h p, 0x0411, false, true), (.normBind h p, 0x0412, false, false), (.regionCreate h p, 0x0501, false, false), (.regionDestroy h p, 0x0502, false, false), (.regionQuery h p, 0x0503, false, true), (.regionWrite h p b, 0x0504, false, false), (.regionRead h p, 0x0505, false, true), (.regionAdd h p, 0x0506, false, false), (.gateLoad h p, 0x0601, true, false), (.replayStart h p, 0x0610, false, false), (.replayStop h p, 0x0611, false, false), (.fieldTest h p, 0x0701, decide (byteAt p 0 ≠ 6), false), (.partnerBind h p, 0x0710, true, false), (.partnerUnbind h p, 0x0711, true, false), (.partnerTakeover h p, 0x0712, true, false), (.checkpointWrite h p, 0x0720, true, false), (.checkpointConfirm h p, 0x0721, true, false), (.checkpointRead h p, 0x0722, true, false), (.flashConnect h p x y b, 0x0730, true, false), (.flashDisconnect h p, 0x0731, true, false), (.flashRead h p, 0x0732, true, false), (.flashWrite h p, 0x0733, true, false), (.deviceQuery h p, 0x0801, false, true), (.eventRead h p, 0x0802, true, true), (.sensorRead h p, 0x0803, false, true), (.attestQuote h p, 0x0810, false, false), (.fwLoad h p, 0x0820, true, false), (.fwActivate h p b, 0x0821, true, false), (.serviceDrain h p, 0x0830, true, false)] ∧ alive s.dev = true ∧ (seqDecoded op = true ∨ fbit s.dev Reg.SIT_STATUS Fd.SIT_STATUS_restarting = false) ∧ (h.world = true → allowed = true) ∧ (secure = true → h.world = true) ∧ query = false ∧ logFull d = true) :=
  ⟨⟨(wu fun d => fset d Reg.SIT_STATUS Fd.SIT_STATUS_restarting 1), (wHdr true .self), [], true, 0, 0, (.serviceDrain (wHdr true .self) []), 0x0830, true, false, by decide +kernel⟩,
   ⟨(wu id), (wHdr false .self), [], true, 0, 0, (.serviceDrain (wHdr false .self) []), 0x0830, true, false, by decide +kernel⟩,
   ⟨(wu fun d => rgPut d Reg.CKP_LOG_SIZE 0), (wHdr true .self), [], true, 0, 0, (.serviceDrain (wHdr true .self) []), 0x0830, true, false, by decide +kernel⟩⟩

theorem witness_FormatsKeepTheirValues :
    (∃ (w : _),
    w < 2 ^ 32 ∧ bits w 30 23 ≠ 0 ∧ (bits w 30 23 ≠ 255 ∨ bits w 22 0 = 0)) ∧
    (∃ (w : _),
    w < 2 ^ 16 ∧ bits w 14 8 ≠ 0 ∧ (bits w 14 8 ≠ 127 ∨ bits w 7 0 = 0)) ∧
    (∃ (k : Kz),
    ((k.cls = 0 ∧ k.a.natAbs ≤ 2 ^ 63 - 256) ∨ (1 ≤ k.cls ∧ k.cls ≤ 3 ∧ k.a = 0))) ∧
    (∃ (a : Int),
    a.natAbs ≤ 2 ^ 63 - 256) ∧
    (∃ (xs : List Kz),
    xs.length ≤ 256 ∧ (∀ x ∈ xs, x.cls = 0 ∧ x.a.natAbs ≤ 2 ^ 55 - 1)) ∧
    (∃ (x : Machine.Num) (lim : Nat),
    (lim = 55 ∨ lim = 111) ∧ x.m < 2 ^ 24) :=
  ⟨⟨0xFF7FFFFF, by decide +kernel⟩,
   ⟨0x7F00, by decide +kernel⟩,
   ⟨(⟨-(2 ^ 63 - 256), 0⟩), by decide +kernel⟩,
   ⟨(-(2 ^ 63 - 256)), by decide +kernel⟩,
   ⟨(List.replicate 256 ⟨2 ^ 55 - 1, 0⟩), by decide +kernel⟩,
   ⟨(⟨.fin, true, 2 ^ 24 - 1, 31⟩), 55, by decide +kernel⟩⟩

theorem witness_GatesFollowTheirLists :
    (∃ (s : State) (port : BitVec 7) (i : Nat),
    let d := s.dev
    let a := Reg.TM_GATE_STATUS port.toNat
    let l := (gateOf d port.toNat).oper
    let t0 := (gateOf d port.toNat).base
    let pos := (tickIdx d - t0) % cycleOf l
    alive d = true ∧ fbit d a Fd.TM_GATE_STATUS_en = true ∧ l.length ≤ 512 ∧ i < l.length ∧ t0 ≤ tickIdx d ∧ cycleOf (l.take i) ≤ pos ∧ pos < cycleOf (l.take (i + 1))) ∧
    (∃ (s : State) (port : BitVec 7) (l : _) (b : _),
    let d := s.dev
    let g := gateOf d port.toNat
    alive d = true ∧ g.pend = some (l, b) ∧ b ≤ tickIdx d) ∧
    (∃ (s : State) (port : BitVec 7) (t : _),
    let d := s.dev
    let g := gateOf d port.toNat
    alive d = true ∧ g.disable = some t ∧ t ≤ tickIdx d) ∧
    (∃ (s : State) (who : Req) (v : Word),
    let d := s.dev
    BusReady d ∧ reqSecure d who = true ∧ v.toNat < 2 ^ 31) ∧
    (∃ (s : State) (h : CmdHdr) (p : List Byte),
    let d := dequeue s.dev h 0x0601
    let port := byteAt p 0
    let n := field p 2 2
    let es := (List.range n).map (fun i => field p (16 + 4 * i) 4)
    let base := field p 4 8
    Admitted 0x0601 true false h s.dev ∧ p.length = 16 + 4 * n ∧ 1 ≤ n ∧ n ≤ 512 ∧ port < 128 ∧ byteAt p 1 = 0 ∧ field p 14 2 = 0 ∧ (∀ w ∈ es, bits w 23 20 = 0 ∧ bits w 19 0 ≠ 0) ∧ field p 12 2 = 0 ∧ base % tickLen d = 0 ∧ ns d + 2 * tickLen d ≤ base) ∧
    (∃ (s : State) (h : CmdHdr) (p : List Byte),
    let d := dequeue s.dev h 0x0601
    let port := byteAt p 0
    let n := field p 2 2
    let es := (List.range n).map (fun i => field p (16 + 4 * i) 4)
    let base := field p 4 8
    Admitted 0x0601 true false h s.dev ∧ p.length = 16 + 4 * n ∧ 1 ≤ n ∧ n ≤ 512 ∧ port < 128 ∧ byteAt p 1 = 0 ∧ field p 14 2 = 0 ∧ (∀ w ∈ es, bits w 23 20 = 0 ∧ bits w 19 0 ≠ 0) ∧ field p 12 2 = 0 ∧ base % tickLen d = 0 ∧ base < ns d + 2 * tickLen d) :=
  ⟨⟨(ws fun d => wAt 10240 (gatePut (fset d (Reg.TM_GATE_STATUS 127) Fd.TM_GATE_STATUS_en 1) 127 { Gate.init with oper := [0x01000003, 0x80000002], base := 2 })), 127, 1, by decide +kernel⟩,
   ⟨(ws fun d => wAt 10240 (gatePut d 127 { Gate.init with pend := some ([0x01000003], 10) })), 127, [0x01000003], 10, by decide +kernel⟩,
   ⟨(ws fun d => wAt 10240 (gatePut (fset d (Reg.TM_GATE_STATUS 127) Fd.TM_GATE_STATUS_en 1) 127 { Gate.init with oper := [0x01000003], base := 2, disable := some 10 })), 127, 10, by decide +kernel⟩,
   ⟨(ws fun d => wAt 10240 (gatePut (fset d (Reg.TM_GATE_STATUS 127) Fd.TM_GATE_STATUS_en 1) 127 { Gate.init with oper := [0x01000003], base := 2, pend := some ([0x01000003], 12) })), .mgmt, ((0 : Word)), by decide +kernel⟩,
   ⟨(wu (wAt 10240)), (wHdr true .self), ([127, 0, 0, 2] ++ beBytes 8 12288 ++ [0, 0, 0, 0] ++ [1, 0, 0, 3, 0x80, 0, 0, 1]), by decide +kernel⟩,
   ⟨(wu (wAt 10240)), (wHdr true .self), ([127, 0, 0, 2] ++ beBytes 8 11264 ++ [0, 0, 0, 0] ++ [1, 0, 0, 3, 0x80, 0, 0, 1]), by decide +kernel⟩⟩

theorem witness_TokensAreRefilled :
    (∃ (s : State) (e v : Nat) (sh : Shaper),
    let d := s.dev
    let k := ns d / 80 - d.tm.refill
    alive d = true ∧ twf none d.tm.shapers = true ∧ e < 160 ∧ v < 8 ∧ tget none d.tm.shapers (e * 8 + v) = some sh ∧ 0 < k) ∧
    (∃ (s : State) (p v : Nat),
    let d := s.dev
    let k := ns d / 80 - d.tm.polAt
    let x := polOf d p v
    alive d = true ∧ twf Policer.init d.tm.pols = true ∧ p < 128 ∧ v < 8 ∧ x ≠ Policer.init ∧ 0 < k) :=
  ⟨⟨(wu fun d => wAt 10240 { d with tm := { d.tm with shapers := [(159 * 8, some ⟨7, 0x8040_03E8⟩)], refill := 127 } }), 159, 0, (⟨7, 0x8040_03E8⟩), by decide +kernel⟩,
   ⟨(wu fun d => wAt 10240 { d with tm := { d.tm with pols := [(127 * 8 + 7, ⟨5, 6, 0x8000_0804, 0x3E80_3E80⟩)], polAt := 127 } }), 127, 7, by decide +kernel⟩⟩

theorem witness_PortRegisterWrites :
    (∃ (s : State) (who : Req) (v : Word) (port : BitVec 7),
    let d := s.dev
    let a := Reg.PORT_CFG port.toNat
    BusReady d ∧ reqSecure d who = true ∧ fbit d a Fd.PORT_CFG_en = false ∧ v.msb = true ∧ bits v.toNat 30 28 ≤ 3 ∧ bits v.toNat 27 27 = fget d a Fd.PORT_CFG_mode ∧ memberOk (consume d who 0x034000).2 port.toNat (bits v.toNat 30 28) = true) ∧
    (∃ (s : State) (who : Req) (v : Word) (l : Fin 128),
    let d := s.dev
    BusReady d ∧ reqSecure d who = true ∧ (∀ q ∈ List.range 128, portEn d q = false) ∧ (l.val < 96 → bits v.toNat 30 30 = 0)) ∧
    (∃ (s : State) (who : Req) (v : Word),
    let d := s.dev
    BusReady d ∧ reqSecure d who = true ∧ bits v.toNat 4 4 = 1) ∧
    (∃ (s : State) (who : Req) (v : Word),
    let d := s.dev
    BusReady d ∧ reqSecure d who = true ∧ v.msb = true ∧ bits v.toNat 30 29 ≠ 3 ∧ bits v.toNat 12 10 ≠ 0 ∧ portEn d (bits v.toNat 19 13) = true ∧ (portKind d (bits v.toNat 19 13) = 0 ∨ portKind d (bits v.toNat 19 13) = 3)) ∧
    (∃ (s : State) (port : BitVec 7) (m : Nat),
    let d := s.dev
    alive d = true ∧ tget none d.rte.modeNext port.toNat = some m ∧ m / 2 < tickIdx d) :=
  ⟨⟨(ws fun d => fset (wLink 127 127 2 d) (Reg.PORT_CFG 127) Fd.PORT_CFG_en 0), .mgmt, 0xA800_0000, 127, by decide +kernel⟩,
   ⟨(ws id), .mgmt, 0xC07F_0001, 127, by decide +kernel⟩,
   ⟨(ws fun d => { d with rte := { d.rte with synOk := [(8, true)] } }), .mgmt, 0x10, by decide +kernel⟩,
   ⟨(ws (wLink 0 0 0)), .mgmt, 0x8000_1C00, by decide +kernel⟩,
   ⟨(wu fun d => wAt 10240 { d with rte := { d.rte with modeNext := [(127, some 18)], modeNow := [(127, 0)], ecn := [(1016, ⟨some 500000, none, 0, 0⟩)] } }), 127, 18, by decide +kernel⟩⟩

theorem witness_FramesPassTheSwitch :
    (∃ (s : State) (e : Eg),
    let d := s.dev
    linkCarries d (egLink e.val) = true ∧ egEther d e.val = false ∧ running d = true ∧ (128 ≤ e.val → isSplit d (egLink e.val) = true)) ∧
    (∃ (s : State) (e : Eg) (b : List Byte) (p : Nat),
    let d := s.dev
    linkCarries d (egLink e.val) = true ∧ egEther d e.val = false ∧ running d = true ∧ (128 ≤ e.val → isSplit d (egLink e.val) = true) ∧ lenOk (b ++ frameCheck b) = true ∧ fVer b = 1 ∧ vcOk (fKind b) (fVc b) = true ∧ fKind b ≠ 6 ∧ egPort d e.val = some p ∧ portEn d p = true ∧ (portKind d p = 1 ∨ portKind d p = 2) ∧ ns d / 80 = d.tm.polAt ∧ (polOf d p (fVc b)).cfg.msb = false ∧ mirrorHits d [0, 2] p b = [] ∧ fbit d Reg.TM_CAP_CTRL Fd.TM_CAP_CTRL_en = false ∧ fDst b ≠ mgmtCoord d ∧ (reordered (fKind b) = true → ¬ (cGroup (fDst b) = selfG d ∧ cSwitch (fDst b) = selfS d)) ∧ (nextHop d b ≠ .huddle ∧ nextHop d b ≠ .mgmt ∧ nextHop d b ≠ .host ∧ nextHop d b ≠ .drop)) ∧
    (∃ (s : State) (corr : Fin 16) (st : Fin 53) (x : Slot) (rest : List Slot),
    let d := s.dev
    alive d = true ∧ (∀ b ∈ d.seq.buckets, b.2 = none) ∧ ltake (fun (y : Slot) => decide (y.corr = corr.val ∧ y.dir = 0 ∧ y.src = st.val)) d.rte.waitS = some (x, rest) ∧ x.dst ≠ st.val ∧ slotsAt d corr.val 0 st.val ≤ 2 ∧ tget 0 d.rte.credits (credKey x) < 2 ∧ ltake (fun (y : Slot) => decide (y.corr = corr.val ∧ y.dir = 1 ∧ y.src = st.val)) rest = none) ∧
    (∃ (s : State) (e : Eg) (v k p : Nat) (f : QFrame) (q : List QFrame),
    let d := s.dev
    let d1 := (List.range 8).foldl (fun x v => sampleVc x e.val v) d
    running d = true ∧ linkStep d (egLink e.val) = 9 ∧ (128 ≤ e.val → isSplit d (egLink e.val) = true) ∧ tget 0 d.tm.txEnd e.val ≤ ns256 d ∧ ns d / 80 = d.tm.refill ∧ (∀ b ∈ d.seq.buckets, b.2 = none) ∧ nextVc d1 e.val = some v ∧ cwRoom d1 e.val (headLen d1 e.val v) = true ∧ headSub d1 e.val v = some k ∧ queueOf d1 e.val v k = f :: q ∧ egPort d e.val = some p ∧ (portKind d p = 0 ∨ portKind d p = 3) ∧ rsvOf d (egLink e.val) = none ∧ fbit d Reg.TM_CTRL Fd.TM_CTRL_mark_en = false ∧ fbit d Reg.TM_CTRL Fd.TM_CTRL_mirror_en = false ∧ fbit d Reg.TM_CAP_CTRL Fd.TM_CAP_CTRL_en = false) ∧
    (∃ (s : State) (src : Coord) (vc : BitVec 3),
    let d := s.dev
    running d = true ∧ (∃ x ∈ d.rte.echoes, x.1 = src.toNat ∧ x.2.1 = vc.toNat)) ∧
    (∃ (s : State) (port : BitVec 7) (vc : BitVec 3) (r : EcnRate) (x : Nat),
    let d := s.dev
    let step := 64 * max 1 (fget d Reg.RTE_ECN Fd.RTE_ECN_recover)
    let k := (ns d - r.last) / step
    alive d = true ∧ tget EcnRate.init d.rte.ecn (port.toNat * 8 + vc.toNat) = r ∧ r.rate = some x ∧ 0 < k) ∧
    (∃ (s : State) (sw : BitVec 13) (vc : BitVec 3) (lo : Early),
    let d := s.dev
    let key := flowKey sw.toNat vc.toNat
    let q := seqInAt d key
    let dist := fun (x : Early) => (x.seq + 2 ^ 32 - q.expected) % 2 ^ 32
    alive d = true ∧ lo ∈ q.early ∧ (∀ x ∈ q.early, dist lo ≤ dist x) ∧ (∀ x ∈ q.early, dist x = dist lo → x = lo) ∧ q.since + max 1 (fget d Reg.RTE_CTRL Fd.RTE_CTRL_gap_ticks) * tickLen d ≤ ns d) :=
  ⟨⟨(wu (wLink 0 0 1)), 0, by decide +kernel⟩,
   ⟨(wu fun d => rgPut (wLink 8 1 1 (wLink 0 0 1 d)) (Reg.RTE_SW 5) 0x81), 0, (mkHeader 7 6 0x2800 0x20010 ++ List.replicate 24 0), 0, by decide +kernel⟩,
   ⟨(wu fun d => { d with rte := { d.rte with waitS := [⟨15, 0, 52, 0, 52, .part⟩], ring := [⟨15, 0, 3, 1, 52, .part⟩, ⟨15, 0, 4, 1, 52, .part⟩], credits := [(credKey ⟨15, 0, 52, 0, 52, .part⟩, 1)] } }), 15, 52, (⟨15, 0, 52, 0, 52, .part⟩), [], by decide +kernel⟩,
   ⟨(wu fun d => let d := rgPut (wLink 0 0 0 d) Reg.TM_CTRL 0; { d with tm := { d.tm with queues := [(3 * 8 + 5, [wQ (mkHeader 7 3 0x10 0x20010 ++ List.replicate 24 0)])] } }), 0, 3, 5, 0, (wQ (mkHeader 7 3 0x10 0x20010 ++ List.replicate 24 0)), [], by decide +kernel⟩,
   ⟨(wu fun d => { wLink 0 0 0 d with rte := { d.rte with echoes := [(0x000010, 5, 3)] } }), 0x000010, 5, by decide +kernel⟩,
   ⟨(wu fun d => wAt 10240000 { wLink 0 0 0 d with rte := { d.rte with ecn := [(5, ⟨some 900000, none, 0, 0⟩)] } }), 0, 5, (⟨some 900000, none, 0, 0⟩), 900000, by decide +kernel⟩,
   ⟨(wu fun d => wAt 102400000 { d with rte := { d.rte with seqIn := [(flowKey 64 7, ⟨0xFFFF_FFFF, [⟨2, mkHeader 7 7 0xF 0x20010 ++ List.replicate 24 0, 0, false, .self, 0⟩, ⟨1, mkHeader 7 7 0xF 0x20010 ++ List.replicate 24 0, 0, false, .self, 0⟩], 0⟩)] } }), 64, 7, (⟨1, mkHeader 7 7 0xF 0x20010 ++ List.replicate 24 0, 0, false, .self, 0⟩), by decide +kernel⟩⟩

theorem witness_TickActionsInOrder :
    (∃ (s : State),
    let d := s.dev
    let t := tickIdx d + 1
    let at' := fun (x : Dev) => { x with clk := { x.clk with now := t * tickLen d * 2 ^ 32, ticked := t } }
    let fresh := fun (x : Dev) => { x with ref := { x.ref with once := [] } }
    let gates := fun (x : Dev) => (x.tm.gates.map (·.1)).foldl gateTick x
    running d = true ∧ d.rte.ring = [] ∧ d.rte.waitS = [] ∧ halted (gates (fresh (at' d))) = false ∧ halted (hudTick (gates (fresh (at' d)))) = false) ∧
    (∃ (s : State),
    let d := s.dev
    let t := tickIdx d + 1
    let at' := fun (x : Dev) => { x with clk := { x.clk with now := t * tickLen d * 2 ^ 32, ticked := t } }
    let fresh := fun (x : Dev) => { x with ref := { x.ref with once := [] } }
    let gates := fun (x : Dev) => (x.tm.gates.map (·.1)).foldl gateTick x
    alive d = true ∧ resetBusy d = false ∧ halted d = true ∧ halted (gates (fresh (at' d))) = true) ∧
    (∃ (s : State),
    let d := s.dev
    alive d = true ∧ resetBusy d = true) :=
  ⟨⟨(wu (wAt 10240)), by decide +kernel⟩,
   ⟨(wu fun d => wAt 10240 (fset d Reg.REF_STATUS Fd.REF_STATUS_halted 1)), by decide +kernel⟩,
   ⟨(wu fun d => wAt 10240 (fset d Reg.TOP_STATUS Fd.TOP_STATUS_reset_busy 1)), by decide +kernel⟩⟩

theorem witness_SumsHaveOneValue :
    (∃ (xs : List Kz) (ys : List Kz),
    (∀ x ∈ xs, x.cls ≤ 3) ∧ ys.Perm xs) ∧
    (∃ (xs : List Kz),
    (∀ x ∈ xs, x.cls ≤ 3) ∧ (∀ x ∈ xs, x.cls = 0)) ∧
    (∃ (xs : List Kz),
    (∀ x ∈ xs, x.cls ≤ 3) ∧ (∃ x ∈ xs, x.cls = 3)) ∧
    (∃ (xs : List Kz),
    (∀ x ∈ xs, x.cls ≤ 3) ∧ (∃ x ∈ xs, x.cls = 1) ∧ (∃ x ∈ xs, x.cls = 2) ∧ (∀ x ∈ xs, x.cls ≠ 3)) ∧
    (∃ (xs : List Kz),
    (∀ x ∈ xs, x.cls ≤ 3) ∧ (∃ x ∈ xs, x.cls = 1) ∧ (∀ x ∈ xs, x.cls = 0 ∨ x.cls = 1)) ∧
    (∃ (xs : List Kz),
    (∀ x ∈ xs, x.cls ≤ 3) ∧ (∃ x ∈ xs, x.cls = 2) ∧ (∀ x ∈ xs, x.cls = 0 ∨ x.cls = 2)) :=
  ⟨⟨([⟨5, 0⟩, ⟨0, 1⟩, ⟨-7, 0⟩, ⟨0, 2⟩]), ([⟨0, 2⟩, ⟨-7, 0⟩, ⟨5, 0⟩, ⟨0, 1⟩]), by decide +kernel⟩,
   ⟨([⟨5, 0⟩, ⟨-7, 0⟩]), by decide +kernel⟩,
   ⟨([⟨5, 0⟩, ⟨0, 3⟩, ⟨0, 1⟩]), by decide +kernel⟩,
   ⟨([⟨0, 2⟩, ⟨5, 0⟩, ⟨0, 1⟩]), by decide +kernel⟩,
   ⟨([⟨0, 1⟩, ⟨5, 0⟩, ⟨0, 1⟩]), by decide +kernel⟩,
   ⟨([⟨5, 0⟩, ⟨0, 2⟩]), by decide +kernel⟩⟩

theorem witness_DeskAddAddsOneLane : ∃ (s : State) (p : Fin 272) (b : LBlk) (a : Accum) (pre post : List LBlk),
    let d := s.dev
    let x := deskAt d p.val
    let n := b.lanes.length / max 1 b.per
    let i := b.pos / max 1 b.per
    let row := tget (List.replicate n AElem.zero) a.rows b.row
    let y := elemAt row i
    let w := laneElem (b.lanes.getD b.pos 0)
    let sound := fun (z : AElem) => z.k.cls ≤ 4 ∧ z.cls2 = z.k.cls ∧ z.res = Sys2Proof.Machine.res z.k.a ∧ (z.k.cls ≠ 0 → z.k.a = 0)
    running d = true ∧ (deskState d p.val = 0 ∨ deskState d p.val = 1) ∧ x.queue = pre ++ b :: post ∧ (∀ y ∈ pre, ∀ z ∈ x.accs, isAcc z y.key y.att y.chunk y.copy = false) ∧ x.accs = [a] ∧ isAcc a b.key b.att b.chunk b.copy = true ∧ b.pos + 1 < b.lanes.length ∧ i < row.length ∧ sound y ∧ sound w :=
  ⟨(wu fun d => deskPut (deskTo (wHold (wChunkB (Chunk.new 0 0)) d) 271 1) 271 ⟨[{ wBlk with chunk := 1 }, { wBlk with pos := 62, row := 63 }], [{ wAcc .filling with rows := [(63, List.replicate 64 (wEl 1))] }]⟩), 271, ({ wBlk with pos := 62, row := 63 }), ({ wAcc .filling with rows := [(63, List.replicate 64 (wEl 1))] }), ([{ wBlk with chunk := 1 }]), [], by decide +kernel⟩

theorem witness_ChunksMoveThroughDesks :
    (∃ (s : State) (p : Fin 272) (a : Accum) (b : Bucket) (ch : Chunk),
    let d := s.dev
    alive d = true ∧ orphanAt d p.val = some a ∧ chunkOf d a.key a.att a.chunk = some (b, ch) ∧ accUsed (deskAt d p.val) + accsOf b ≤ 24 ∧ deskState d p.val = 0 ∧ holdsOther d p.val a.key a.att a.chunk a.copy = false) ∧
    (∃ (s : State) (p : Fin 272) (blk : LBlk) (b : Bucket) (ch : Chunk),
    let d := s.dev
    alive d = true ∧ orphanAt d p.val = none ∧ queuedHead (deskAt d p.val) = some blk ∧ holdsOther d p.val blk.key blk.att blk.chunk blk.copy = false ∧ chunkOf d blk.key blk.att blk.chunk = some (b, ch) ∧ ch.sent = false ∧ accUsed (deskAt d p.val) + accsOf b ≤ 24 ∧ deskState d p.val = 0) ∧
    (∃ (s : State) (k c h : Nat) (x : Chunk) (b : Bucket),
    let d := s.dev
    running d = true ∧ nextWaiting d = some (k, c, x) ∧ bucketAt d k = some b ∧ resolve d (homeOf k c) = some h ∧ fbit d Reg.RFAB_CTRL Fd.RFAB_CTRL_force_dual = false ∧ polDual b.grp.policy = false ∧ x.wait ≠ [] ∧ accReserved d + accsOf b ≤ 24 * mappedCount d) ∧
    (∃ (s : State) (k c h : Nat) (x : Chunk) (b : Bucket),
    let d := s.dev
    running d = true ∧ nextWaiting d = some (k, c, x) ∧ bucketAt d k = some b ∧ resolve d (homeOf k c) = some h ∧ fbit d Reg.RFAB_CTRL Fd.RFAB_CTRL_force_dual = false ∧ polDual b.grp.policy = false ∧ x.wait = [] ∧ accReserved d + accsOf b ≤ 24 * mappedCount d ∧ accUsed (deskAt d h) + accsOf b ≤ 24) ∧
    (∃ (s : State) (k : CKey) (b : Bucket) (x : Chunk),
    let d := s.dev
    let n := fget d Reg.SEQ_CTRL Fd.SEQ_CTRL_admit_note_ticks
    alive d = true ∧ bucketAt d (keyOf k.b) = some b ∧ chunkAt b k.chunk.toNat = some x ∧ x.st = .waiting ∧ chunkIdle x = false ∧ x.noted = false ∧ n ≠ 0 ∧ x.since + n * tickLen d ≤ ns d) ∧
    (∃ (s : State) (k : CKey) (b : Bucket) (x : Chunk) (p : Nat) (a : Accum),
    let d := s.dev
    running d = true ∧ bucketAt d (keyOf k.b) = some b ∧ chunkAt b k.chunk.toNat = some x ∧ x.st = .closing ∧ x.sent = false ∧ dualLive x = false ∧ d.fab.desks = [(p, ⟨[], [a]⟩)] ∧ isAcc a (keyOf k.b) b.attempt k.chunk.toNat a.copy = true ∧ a.helper = false ∧ a.st = .filling ∧ a.inbox = [] ∧ (∀ r ∈ List.range (chunkRows b k.chunk.toNat), tget 0 a.done r = rowAdds x r)) :=
  ⟨⟨(wu fun d => deskPut (wHold (wChunkB { Chunk.new 0 0 with st := .filling, own0 := some 0 }) d) 271 ⟨[], [{ wAcc .returning with helper := true }]⟩), 0, ({ wAcc .returning with helper := true }), (wChunkB { Chunk.new 0 0 with st := .filling, own0 := some 0 }), ({ Chunk.new 0 0 with st := .filling, own0 := some 0 }), by decide +kernel⟩,
   ⟨(wu fun d => deskPut (wHold (wChunkB { Chunk.new 0 0 with st := .filling }) d) 0 ⟨[wBlk], [{ wAcc .filling with chunk := 5, n := 23 }]⟩), 0, wBlk, (wChunkB { Chunk.new 0 0 with st := .filling }), ({ Chunk.new 0 0 with st := .filling }), by decide +kernel⟩,
   ⟨(wu fun d => { wHold (wChunkB { Chunk.new 0 0 with rows := [(0, .prim)], wait := [(15, wBlk)] }) d with mem := { d.mem with sram := { d.mem.sram with used := [1, 0, 0, 0] } } }), (keyOf wKey), 0, 180, ({ Chunk.new 0 0 with rows := [(0, .prim)], wait := [(15, wBlk)] }), (wChunkB { Chunk.new 0 0 with rows := [(0, .prim)], wait := [(15, wBlk)] }), by decide +kernel⟩,
   ⟨(wu fun d => { wHold (wChunkB { Chunk.new 0 0 with rows := [(0, .prim)], short := true }) d with mem := { d.mem with sram := { d.mem.sram with used := [1, 0, 0, 0] } } }), (keyOf wKey), 0, 180, ({ Chunk.new 0 0 with rows := [(0, .prim)], short := true }), (wChunkB { Chunk.new 0 0 with rows := [(0, .prim)], short := true }), by decide +kernel⟩,
   ⟨(wu fun d => wAt 10240 (fset (wHold (wChunkB { Chunk.new 0 0 with rows := [(0, .prim)], wait := [(15, wBlk)] }) d) Reg.SEQ_CTRL Fd.SEQ_CTRL_admit_note_ticks 10)), (⟨wKey, 0⟩), (wChunkB { Chunk.new 0 0 with rows := [(0, .prim)], wait := [(15, wBlk)] }), ({ Chunk.new 0 0 with rows := [(0, .prim)], wait := [(15, wBlk)] }), by decide +kernel⟩,
   ⟨(wu fun d => deskPut (wHold (wChunkB { Chunk.new 0 0 with st := .closing, own0 := some 271, rows := [(0, .prim)] }) d) 271 ⟨[], [{ wAcc .filling with done := [(0, 1)] }]⟩), (⟨wKey, 0⟩), (wChunkB { Chunk.new 0 0 with st := .closing, own0 := some 271, rows := [(0, .prim)] }), ({ Chunk.new 0 0 with st := .closing, own0 := some 271, rows := [(0, .prim)] }), 271, ({ wAcc .filling with done := [(0, 1)] }), by decide +kernel⟩⟩

theorem witness_RowsLeaveDesks :
    (∃ (s : State) (p : Fin 272) (k : CKey) (a : Accum) (b : Bucket) (ch : Chunk) (l : Nat),
    let d := s.dev
    let x := deskAt d p.val
    let kk := keyOf k.b
    let c := k.chunk.toNat
    running d = true ∧ bucketAt d kk = some b ∧ chunkAt b c = some ch ∧ ch.st ≠ .discarded ∧ (b.st = .opened ∨ b.st = .closed) ∧ x.accs = [a] ∧ isAcc a kk b.attempt c a.copy = true ∧ a.helper = false ∧ a.rel < chunkRows b c ∧ rowFinal b ch a a.rel = true ∧ convFor d (homeOf kk c) = some l) ∧
    (∃ (s : State) (p : Fin 272) (k : CKey) (a : Accum) (r n : Nat) (es : List AElem) (rest : List (Nat × List AElem × Nat)),
    let d := s.dev
    let x := deskAt d p.val
    let kk := keyOf k.b
    let c := k.chunk.toNat
    running d = true ∧ x.accs = [a] ∧ isAcc a kk a.att c a.copy = true ∧ a.helper = false ∧ a.st = .merging ∧ a.inbox = (r, es, n) :: rest ∧ rest ≠ [] ∧ (addRows .none (tget [] a.rows r) es).2 = none) ∧
    (∃ (s : State) (p : Fin 272) (k : CKey) (a : Accum) (b : Bucket) (q : Nat) (t : Accum),
    let d := s.dev
    let x := deskAt d p.val
    let kk := keyOf k.b
    let c := k.chunk.toNat
    running d = true ∧ bucketAt d kk = some b ∧ x.accs = [a] ∧ isAcc a kk b.attempt c 0 = true ∧ a.helper = false ∧ ownerAcc d kk b.attempt c 1 = some (q, t) ∧ a.st = .comparing ∧ t.st = .comparing ∧ (tget [] a.rows a.cmp).map (fun y => (y.k.a, clsBits y.k.cls)) = (tget [] t.rows a.cmp).map (fun y => (y.k.a, clsBits y.k.cls)) ∧ a.cmp + 1 < chunkRows b c) ∧
    (∃ (s : State) (p : Fin 272) (k : CKey) (a : Accum) (b : Bucket) (q : Nat) (o : Accum) (ch : Chunk),
    let d := s.dev
    let x := deskAt d p.val
    let kk := keyOf k.b
    let c := k.chunk.toNat
    running d = true ∧ x = ⟨[], [a]⟩ ∧ isAcc a kk a.att c a.copy = true ∧ a.helper = true ∧ a.st = .returning ∧ q ≠ p.val ∧ deskAt d q = ⟨[], [o]⟩ ∧ ownerAcc d kk a.att c a.copy = some (q, o) ∧ isAcc o kk a.att c a.copy = true ∧ o.st = .merging ∧ chunkOf d kk a.att c = some (b, ch) ∧ a.rows.map (fun r => (r.1, r.2, tget 0 a.done r.1)) ≠ []) :=
  ⟨⟨(wu fun d => deskPut (wHold (wChunkB { Chunk.new 0 0 with st := .closing, sent := true, own0 := some 271 }) d) 271 ⟨[], [{ wAcc .releasing with rel := 63, closed := true }]⟩), 271, (⟨wKey, 0⟩), ({ wAcc .releasing with rel := 63, closed := true }), (wChunkB { Chunk.new 0 0 with st := .closing, sent := true, own0 := some 271 }), ({ Chunk.new 0 0 with st := .closing, sent := true, own0 := some 271 }), 52, by decide +kernel⟩,
   ⟨(wu fun d => deskPut (wHold (wChunkB { Chunk.new 0 0 with st := .closing, own0 := some 0 }) d) 0 ⟨[], [{ wAcc .merging with rows := [(63, [wEl 1])], inbox := [(63, [wEl 4], 2), (5, [wEl 4], 2)] }]⟩), 0, (⟨wKey, 0⟩), ({ wAcc .merging with rows := [(63, [wEl 1])], inbox := [(63, [wEl 4], 2), (5, [wEl 4], 2)] }), 63, 2, ([wEl 4]), ([(5, [wEl 4], 2)]), by decide +kernel⟩,
   ⟨(wu fun d => deskPut (deskPut (wHold (wChunkB { Chunk.new 0 0 with st := .closing, dual := true, own0 := some 0, own1 := some 100 }) d) 0 ⟨[], [{ wAcc .comparing with cmp := 62 }]⟩) 100 ⟨[], [{ wAcc .comparing with copy := 1, cmp := 62 }]⟩), 0, (⟨wKey, 0⟩), ({ wAcc .comparing with cmp := 62 }), (wChunkB { Chunk.new 0 0 with st := .closing, dual := true, own0 := some 0, own1 := some 100 }), 100, ({ wAcc .comparing with copy := 1, cmp := 62 }), by decide +kernel⟩,
   ⟨(wu fun d => deskPut (deskPut (wHold (wChunkB { Chunk.new 0 0 with st := .closing, own0 := some 100 }) d) 0 ⟨[], [{ wAcc .returning with helper := true, rows := [(7, [wEl 1])], done := [(7, 3)] }]⟩) 100 ⟨[], [wAcc .merging]⟩), 0, (⟨wKey, 0⟩), ({ wAcc .returning with helper := true, rows := [(7, [wEl 1])], done := [(7, 3)] }), (wChunkB { Chunk.new 0 0 with st := .closing, own0 := some 100 }), 100, (wAcc .merging), ({ Chunk.new 0 0 with st := .closing, own0 := some 100 }), by decide +kernel⟩⟩

theorem witness_DesksAreReplaced :
    (∃ (s : State) (who : Req) (v : Word),
    let d := s.dev
    BusReady d ∧ reqSecure d who = true ∧ Unlocked d who 0x030000 ∧ v.msb = true) ∧
    (∃ (s : State) (who : Req) (v : Word),
    let d := s.dev
    BusReady d ∧ reqSecure d who = true ∧ Unlocked d who 0x030000 ∧ v.msb = false ∧ 271 < bits v.toNat 8 0) ∧
    (∃ (s : State) (p : Fin 272),
    let d := s.dev
    alive d = true ∧ deskState d p.val = 1 ∧ deskAt d p.val = Desk.empty) ∧
    (∃ (s : State) (p : Fin 272) (t : Nat) (a : Accum) (ch : Chunk) (b : Bucket),
    let d := s.dev
    alive d = true ∧ d.int.drains.find? (fun x => decide (x.1 = .desk ∧ x.2.1 = p.val)) = some (.desk, p.val, t) ∧ t ≤ ns d ∧ deskState d p.val = 1 ∧ (deskAt d p.val).accs = [a] ∧ chunkOf (raise (unitFault d (Reg.DESK_FAULT p.val) Fd.DESK_FAULT_drain_timeout (256 + p.val)) 785) a.key a.att a.chunk = some (b, ch) ∧ dualLive ch = false) ∧
    (∃ (s : State) (l p : Nat) (ls ps : List Nat),
    let d := s.dev
    running d = true ∧ d.fab.refill = none ∧ d.fab.passed = none ∧ refillable d = l :: ls ∧ goodSpares d = p :: ps) ∧
    (∃ (s : State) (p l t : Nat),
    let d := s.dev
    alive d = true ∧ d.fab.refill = some (p, l, t) ∧ t + 40000 ≤ ns d ∧ d.int.kat = []) ∧
    (∃ (s : State) (p l t : Nat),
    let d := s.dev
    alive d = true ∧ d.fab.passed = some (p, l, t) ∧ t < tickIdx d) ∧
    (∃ (s : State),
    let d := s.dev
    running d = true ∧ (cycleNow d ≥ d.fab.stealAt + d.fab.round ∨ d.fab.stealAt = 0) ∧ d.fab.desks = []) ∧
    (∃ (s : State) (v t : Nat) (x : Desk) (blk : LBlk) (b : Bucket),
    let d := s.dev
    let e := { d with fab := { d.fab with stealAt := cycleNow d, round := max 16 (fget d Reg.RFAB_STEAL Fd.RFAB_STEAL_round) } }
    running d = true ∧ (cycleNow d ≥ d.fab.stealAt + d.fab.round ∨ d.fab.stealAt = 0) ∧ d.fab.desks = [(v, x)] ∧ deskState d v = 0 ∧ queuedHead x = some blk ∧ 24 ≤ accUsed x ∧ t < 272 ∧ t ≠ v ∧ deskState d t = 0 ∧ (∀ q < t, q ≠ v → deskState d q ≠ 0) ∧ bucketAt d blk.key = some b ∧ accsOf b ≤ 24 ∧ holdsOther e t blk.key blk.att blk.chunk blk.copy = false) :=
  ⟨⟨(wu fun d => fset d (Reg.BLK_STATUS 0x030000) (unlockFld .mgmt) 1), .mgmt, ((0x8000010F : Word)), by decide +kernel⟩,
   ⟨(wu fun d => fset d (Reg.BLK_STATUS 0x030000) (unlockFld .mgmt) 1), .mgmt, ((0x00000110 : Word)), by decide +kernel⟩,
   ⟨(wu fun d => { deskTo d 271 1 with int := { d.int with drains := [(.desk, 271, 99)] } }), 271, by decide +kernel⟩,
   ⟨(wu fun d => wAt 1024 { deskPut (deskTo (wHold (wChunkB { Chunk.new 0 0 with st := .closing, own0 := some 0 }) d) 271 1) 271 ⟨[], [{ wAcc .returning with helper := true }]⟩ with int := { d.int with drains := [(.desk, 271, 1024)] } }), 271, 1024, ({ wAcc .returning with helper := true }), ({ Chunk.new 0 0 with st := .closing, own0 := some 0 }), (wChunkB { Chunk.new 0 0 with st := .closing, own0 := some 0 }), by decide +kernel⟩,
   ⟨(wu fun d => { d with fab := { d.fab with bench := [255] } }), 255, 256, [], ([257, 258, 259, 260, 261, 262, 263]), by decide +kernel⟩,
   ⟨(wu fun d => wAt 40960 { deskTo d 256 4 with fab := { d.fab with bench := [255], refill := some (256, 255, 960) } }), 256, 255, 960, by decide +kernel⟩,
   ⟨(wu fun d => wAt 40960 { deskTo d 256 4 with fab := { d.fab with bench := [255], passed := some (256, 255, 39) } }), 256, 255, 39, by decide +kernel⟩,
   ⟨(wu fun d => { d with fab := { d.fab with stealAt := 0 } }), by decide +kernel⟩,
   ⟨(wu fun d => let d := wHold (wChunkB { Chunk.new 0 0 with st := .filling }) d; { d with fab := { d.fab with stealAt := 0, desks := [(0, ⟨[wBlk], [{ wAcc .filling with chunk := 5, n := 24 }]⟩)] } }), 0, 1, (⟨[wBlk], [{ wAcc .filling with chunk := 5, n := 24 }]⟩), wBlk, (wChunkB { Chunk.new 0 0 with st := .filling }), by decide +kernel⟩⟩

theorem witness_BlocksAreConverted :
    (∃ (s : State) (l : Fin 128) (p : ConvPass) (rest : List ConvPass) (blk : List Byte) (b : Bucket) (sl : Nat) (prim : Bool),
    let d := s.dev
    let fmt := blkFmt blk
    running d = true ∧ ltake (fun (x : ConvPass) => decide (x.link = l.val)) d.seq.conv = some (p, rest) ∧ p.blocks = [blk] ∧ resOk blk = true ∧ blkOk blk = true ∧ bucketAt d (passKey p.hdr) = some b ∧ takesBlocks d b (fVc p.hdr) = true ∧ passAtt p.hdr = b.attempt ∧ fVc p.hdr ≠ 2 ∧ slotOf b.grp (fSrc p.hdr) = some (sl, prim) ∧ isCopy b = false ∧ bOp b ≠ 6 ∧ accepts b fmt (deepSource (passKey p.hdr) b (fSrc p.hdr) (fVc p.hdr)) = true ∧ fmt ≠ 3 ∧ fmt ≠ 4 ∧ fmt ≠ 8) ∧
    (∃ (s : State) (l : Fin 128) (o : RowOut) (rest : List RowOut) (b : Bucket) (x : Chunk) (e : Dev),
    let d := s.dev
    let d1 := { d with seq := { d.seq with rowOut := rest } }
    let es := (rowCheck .none o.elems).1
    let x' := { x with rowSt := tput x.rowSt o.row (tget 0 x.rowSt o.row ||| invOf (es.map (fun (y : AElem) => y.k))) }
    running d = true ∧ ltake (fun (r : RowOut) => decide (r.conv = l.val)) d.seq.rowOut = some (o, rest) ∧ chunkOf d o.key o.att o.chunk = some (b, x) ∧ x.st ≠ .discarded ∧ (b.st = .opened ∨ b.st = .closed) ∧ (rowCheck .none o.elems).2 = false ∧ hasParent b.grp = true ∧ rowSend (bucketPut d1 o.key (chunkPut b o.chunk x')) o.key (chunkPut b o.chunk x') x' o.chunk o.row l.val es = some e) :=
  ⟨⟨(wu fun d => { wHold (wBucket wGroup (wParams 0 0 1 64)) d with seq := { (wHold (wBucket wGroup (wParams 0 0 1 64)) d).seq with conv := [⟨127, mkPass 1 1 0xF 0x20 (keyOf wKey) 0 false [], [mkBlock [0x3F, 0x80, 0, 0] 0 63 0x7F 1 0], 1, 0⟩] } }), 127, (⟨127, mkPass 1 1 0xF 0x20 (keyOf wKey) 0 false [], [mkBlock [0x3F, 0x80, 0, 0] 0 63 0x7F 1 0], 1, 0⟩), [], (mkBlock [0x3F, 0x80, 0, 0] 0 63 0x7F 1 0), (wBucket wGroup (wParams 0 0 1 64)), 1, true, by have h := blkOk_mkBlock [0x3F, 0x80, 0, 0] 0 63 0x7F 1 0 (by decide); exact ⟨by decide +kernel, rfl, rfl, (Bool.and_eq_true_iff.mp h).2, h, by decide +kernel⟩⟩,
   ⟨wRowS, 127, wRow, [], wRowB, ({ Chunk.new 0 0 with st := .closing }), ((rowSend (bucketPut { wRowS.dev with seq := { wRowS.dev.seq with rowOut := [] } } (keyOf wKey) (chunkPut wRowB 0 { Chunk.new 0 0 with st := .closing, rowSt := [(63, 0)] })) (keyOf wKey) (chunkPut wRowB 0 { Chunk.new 0 0 with st := .closing, rowSt := [(63, 0)] }) { Chunk.new 0 0 with st := .closing, rowSt := [(63, 0)] } 0 63 127 (rowCheck .none wRow.elems).1).getD State.reset.dev), by decide +kernel⟩⟩

theorem witness_GroupsAreKeptAndMoved :
    (∃ (s : State) (h : CmdHdr) (p : List Byte),
    let d := dequeue s.dev h 0x0111
    let mask := field p 0 4
    let i := field p 4 2
    let old := groupAt d i
    let g := bodyGroup mask p old
    Admitted 0x0111 false false h s.dev ∧ 72 ≤ p.length ∧ mask < 2 ^ 16 ∧ mask.testBit 0 = false ∧ i < 4096 ∧ old.st = 1 ∧ (old.world = true → h.world = true) ∧ firstBad (modifyChecks mask p) = none ∧ firstBad (bodyChecks false mask p old g) = none ∧ (g.role = old.role ∧ g.roll = old.roll ∧ g.members = old.members ∧ g.slots = old.slots) ∧ ctxBound d i = false ∧ groupRoom d old g = none) ∧
    (∃ (s : State) (h : CmdHdr) (p : List Byte),
    let d := dequeue s.dev h 0x0112
    let g := groupAt d (field p 0 2)
    Admitted 0x0112 false true h s.dev ∧ p.length = 2 ∧ field p 0 2 < 4096 ∧ g.st ≠ 0 ∧ (g.world = true → h.world = true)) ∧
    (∃ (s : State) (h : CmdHdr) (p : List Byte),
    let d := dequeue s.dev h 0x0113
    let i := field p 0 2
    Admitted 0x0113 false false h s.dev ∧ p.length = 2 ∧ i < 4096 ∧ (groupAt d i).st ≠ 0 ∧ ((groupAt d i).world = true → h.world = true) ∧ (groupAt d i).st ≠ 2 ∧ bucketsOf d i = []) ∧
    (∃ (s : State) (h : CmdHdr) (p : List Byte),
    let d := dequeue s.dev h 0x0113
    let i := field p 0 2
    Admitted 0x0113 false false h s.dev ∧ p.length = 2 ∧ i < 4096 ∧ (groupAt d i).st ≠ 0 ∧ ((groupAt d i).world = true → h.world = true) ∧ (bucketsOf d i ≠ [] ∨ (groupAt d i).st = 2)) ∧
    (∃ (s : State) (h : CmdHdr) (p : List Byte) (b : _) (g : _) (d1 : _),
    let d := dequeue s.dev h 0x0115
    let i := field p 12 2
    Admitted 0x0115 false false h s.dev ∧ p.length = 16 ∧ i < 4096 ∧ field p 14 2 = 0 ∧ handleOk (field p 0 4) = true ∧ (exportIn d h (field p 0 4) (field p 4 8)).toOption = some b ∧ exportGroup b = some g ∧ (g.world = true → h.world = true) ∧ groupRoom d (groupAt d i) g = none ∧ groupInstall d i b = some d1 ∧ (groupAt d i).st = 0) ∧
    (∃ (s : State) (h : CmdHdr) (p : List Byte) (b : _) (g : _) (d1 : _),
    let d := dequeue s.dev h 0x0115
    let i := field p 12 2
    Admitted 0x0115 false false h s.dev ∧ p.length = 16 ∧ i < 4096 ∧ field p 14 2 = 0 ∧ handleOk (field p 0 4) = true ∧ (exportIn d h (field p 0 4) (field p 4 8)).toOption = some b ∧ exportGroup b = some g ∧ (g.world = true → h.world = true) ∧ groupRoom d (groupAt d i) g = none ∧ groupInstall d i b = some d1 ∧ (groupAt d i).st = 1 ∧ ((groupAt d i).world = true → h.world = true) ∧ ctxBound d i = false) ∧
    (∃ (s : State) (ctx : BitVec 12) (r : ReplyTo) (b : List Byte) (e : Dev),
    let d := s.dev
    let g := groupAt d ctx.toNat
    alive d = true ∧ g.importing = some (r, b) ∧ groupInstall (groupPut d ctx.toNat { g with st := 1, importing := none }) ctx.toNat b = some e) :=
  ⟨⟨(wu fun d => groupPut d 4095 wGroup), (wHdr false .self), (wBody 0x800 4095 (List.replicate 38 0 ++ [0x0F, 0xFF, 0xFF]) []), by decide +kernel⟩,
   ⟨(wu fun d => groupPut d 4095 wGroup), (wHdr false .self), ([0x0F, 0xFF]), by decide +kernel⟩,
   ⟨(wu fun d => groupPut d 4095 wGroup), (wHdr false .self), ([0x0F, 0xFF]), by decide +kernel⟩,
   ⟨(wu (wHold (wBucket wGroup (wParams 0 0 1 64)))), (wHdr false .self), ([0, 0]), by decide +kernel⟩,
   ⟨(wImp (fun d => d)), (wHdr true .self), ([0, 1, 0, 8] ++ beBytes 8 64 ++ [0, 0, 0, 0]), wExp, ((exportGroup wExp).getD Group.free), ((groupInstall (wImp (fun d => d)).dev 0 wExp).getD State.reset.dev), by decide +kernel⟩,
   ⟨(wImp (fun d => groupPut d 0 wGroup)), (wHdr true .self), ([0, 1, 0, 8] ++ beBytes 8 64 ++ [0, 0, 0, 0]), wExp, ((exportGroup wExp).getD Group.free), ((groupInstall (wImp (fun d => groupPut d 0 wGroup)).dev 0 wExp).getD State.reset.dev), by decide +kernel⟩,
   ⟨(wu (fun d => groupPut d 0 { wGroup with st := 2, importing := some (⟨5, 4, 0x0115, true, 7, 0⟩, wExp) })), 0, (⟨5, 4, 0x0115, true, 7, 0⟩), wExp, ((groupInstall (wu (fun d => groupPut d 0 wGroup)).dev 0 wExp).getD State.reset.dev), by decide +kernel⟩⟩

theorem witness_BucketsOpen :
    (∃ (s : State) (h : CmdHdr) (sc : SentCmd) (b : Bucket),
    let d := dequeue s.dev h 0x0101
    let d1 := { d with cmd := { d.cmd with sent := d.cmd.sent.filter (· ≠ sc) } }
    alive s.dev = true ∧ d.cmd.sent.find? (fun x => decide (x.dst = h.src.toNat ∧ x.tag = h.tag.toNat ∧ x.opcode = 0x0101)) = some sc ∧ bucketAt d1 sc.key = some b ∧ b.st = .pending) ∧
    (∃ (s : State) (k : BKey) (b : Bucket),
    let d := s.dev
    alive d = true ∧ bucketAt d (keyOf k) = some b ∧ b.st = .pending ∧ b.pendAt + max 1 b.grp.late * tickLen d ≤ ns d) :=
  ⟨⟨(wu fun d => let d := wHold { wBucket wUnder (wParams 0 0 1 64) with st := .pending, held := [(wFrom 0x20, wParams 0 0 1 64)] } d; { d with cmd := { d.cmd with sent := [⟨0x2FFF, 7, 0x0101, keyOf wKey⟩] } }), (wHdr false .self), (⟨0x2FFF, 7, 0x0101, keyOf wKey⟩), ({ wBucket wUnder (wParams 0 0 1 64) with st := .pending, held := [(wFrom 0x20, wParams 0 0 1 64)] }), by decide +kernel⟩,
   ⟨(wu fun d => wAt (1024 * 1024) (wHold { wBucket wUnder (wParams 0 0 1 64) with st := .pending, held := [(wFrom 0x20, wParams 0 0 1 64)] } d)), wKey, ({ wBucket wUnder (wParams 0 0 1 64) with st := .pending, held := [(wFrom 0x20, wParams 0 0 1 64)] }), by decide +kernel⟩⟩

theorem witness_BucketsEnd :
    (∃ (s : State) (k : BKey) (b : Bucket),
    let d := s.dev
    alive d = true ∧ bucketAt d (keyOf k) = some b ∧ b.st = .opened ∧ b.lateDone = false ∧ tickAtOrAfter d b.late ≤ tickIdx d ∧ bOp b ≠ 6 ∧ isCopy b = false ∧ polReplay b.grp.policy = false ∧ polShort b.grp.policy = 0 ∧ polQuorum b.grp.policy = 0 ∧ b.chunks = [] ∧ 0 < nodeChunks b) ∧
    (∃ (s : State) (k : BKey) (b : Bucket),
    let d := s.dev
    alive d = true ∧ bucketAt d (keyOf k) = some b ∧ b.st = .closed ∧ checksDone b = true ∧ childrenPassed b = true ∧ hasParent b.grp = true ∧ isInkRoot b.grp = false) ∧
    (∃ (s : State) (k : BKey) (b : Bucket),
    let d := s.dev
    running d = true ∧ bucketAt d (keyOf k) = some b ∧ commitReady (keyOf k) b = true ∧ gradGate d b = (true, d) ∧ inMetro b.grp = false ∧ bOp b ≠ 5) ∧
    (∃ (s : State) (h : CmdHdr) (p : List Byte),
    let d := s.dev
    let d := dequeue s.dev h 0x0102
    let g := groupAt d (oCtx p % 4096)
    Admitted 0x0102 false false h s.dev ∧ p.length = 8 ∧ field p 0 2 < 4096 ∧ byteAt p 6 % 128 = 0 ∧ byteAt p 7 = 0 ∧ g.st = 0) ∧
    (∃ (s : State) (h : CmdHdr) (p : List Byte) (b : _),
    let d := s.dev
    let d := dequeue s.dev h 0x0102
    let g := groupAt d (oCtx p % 4096)
    let k := oKey p
    Admitted 0x0102 false false h s.dev ∧ p.length = 8 ∧ field p 0 2 < 4096 ∧ byteAt p 6 % 128 = 0 ∧ byteAt p 7 = 0 ∧ g.st ≠ 0 ∧ (g.world = true → h.world = true) ∧ bucketAt d k = some b ∧ (b.st = .opened ∨ b.st = .closed ∨ b.st = .reported) ∧ isInkRoot b.grp = true) ∧
    (∃ (s : State) (h : CmdHdr) (p : List Byte),
    let d := s.dev
    let d := dequeue s.dev h 0x0102
    let g := groupAt d (oCtx p % 4096)
    let k := oKey p
    Admitted 0x0102 false false h s.dev ∧ p.length = 8 ∧ field p 0 2 < 4096 ∧ byteAt p 6 % 128 = 0 ∧ byteAt p 7 = 0 ∧ g.st ≠ 0 ∧ (g.world = true → h.world = true) ∧ bucketAt d k = none ∧ (∀ o ∈ d.seq.outcomes, o.1 ≠ k)) :=
  ⟨⟨(wu fun d => wAt 10240 (wHold { wBucket { wGroup with policy := 0 } (wParams 0 0 1 64) with late := 10240 } d)), wKey, ({ wBucket { wGroup with policy := 0 } (wParams 0 0 1 64) with late := 10240 }), by decide +kernel⟩,
   ⟨(wu fun d => wHold { wBucket wUnder (wParams 0 0 1 64) with st := .closed } d), wKey, ({ wBucket wUnder (wParams 0 0 1 64) with st := .closed }), by decide +kernel⟩,
   ⟨(wu fun d => wHold { wBucket wGroup (wParams 0 0 1 64) with st := .closed, reports := [(selfMark, false, 3, 0)] } d), wKey, ({ wBucket wGroup (wParams 0 0 1 64) with st := .closed, reports := [(selfMark, false, 3, 0)] }), by decide +kernel⟩,
   ⟨(wu id), (wHdr false .self), ([0, 0, 0, 1, 0, 3, 0x80, 0]), by decide +kernel⟩,
   ⟨(wu fun d => wHold (wBucket wGroup (wParams 0 0 1 64)) d), (wHdr false .self), ([0, 0, 0, 1, 0, 3, 0, 0]), (wBucket wGroup (wParams 0 0 1 64)), by decide +kernel⟩,
   ⟨(wu fun d => groupPut d 0 wGroup), (wHdr false .self), ([0, 0, 0, 1, 0, 3, 0x80, 0]), by decide +kernel⟩⟩

theorem witness_NoticesActOncePerPart :
    (∃ (s : State) (h : CmdHdr) (p : List Byte) (b : Bucket),
    let src := h.src.toNat
    let k := nKey p
    let N := fun (op : Nat) => noticed s.dev h op p
    let new := fun (op : Nat) => alive s.dev = true ∧ noticeOk p = true ∧ noticeWorld (dequeue s.dev h op) h (kCtx k) = true ∧ nCount p = 1 ∧ nPart p = 0
      ∧ (∀ n ∈ (N op).seq.notIn, ¬ (n.src = src ∧ n.op = op ∧ n.key = k ∧ n.att = nAtt p))
      ∧ (∀ n ∈ (dequeue s.dev h op).seq.notIn, ¬ (n.src = src ∧ n.op = op ∧ n.key = k ∧ n.att = nAtt p))
      ∧ noticeSeen (noticeAcked (dequeue s.dev h op) h op p) src op p = false
    new 0x0301 ∧ bucketAt (N 0x0301) k = some b ∧ fromAbove k b src = true ∧ b.attempt = nAtt p ∧ b.st ≠ .pending ∧ bOp b ≠ 5) ∧
    (∃ (s : State) (h : CmdHdr) (p : List Byte) (b : Bucket),
    let src := h.src.toNat
    let k := nKey p
    let N := fun (op : Nat) => noticed s.dev h op p
    let new := fun (op : Nat) => alive s.dev = true ∧ noticeOk p = true ∧ noticeWorld (dequeue s.dev h op) h (kCtx k) = true ∧ nCount p = 1 ∧ nPart p = 0
      ∧ (∀ n ∈ (N op).seq.notIn, ¬ (n.src = src ∧ n.op = op ∧ n.key = k ∧ n.att = nAtt p))
      ∧ (∀ n ∈ (dequeue s.dev h op).seq.notIn, ¬ (n.src = src ∧ n.op = op ∧ n.key = k ∧ n.att = nAtt p))
      ∧ noticeSeen (noticeAcked (dequeue s.dev h op) h op p) src op p = false
    new 0x0302 ∧ bucketAt (N 0x0302) k = some b ∧ fromAbove k b src = true ∧ b.attempt = nAtt p ∧ (b.st = .opened ∨ b.st = .closed ∨ b.st = .reported)) ∧
    (∃ (s : State) (h : CmdHdr) (p : List Byte) (b : Bucket),
    let src := h.src.toNat
    let k := nKey p
    let N := fun (op : Nat) => noticed s.dev h op p
    let new := fun (op : Nat) => alive s.dev = true ∧ noticeOk p = true ∧ noticeWorld (dequeue s.dev h op) h (kCtx k) = true ∧ nCount p = 1 ∧ nPart p = 0
      ∧ (∀ n ∈ (N op).seq.notIn, ¬ (n.src = src ∧ n.op = op ∧ n.key = k ∧ n.att = nAtt p))
      ∧ (∀ n ∈ (dequeue s.dev h op).seq.notIn, ¬ (n.src = src ∧ n.op = op ∧ n.key = k ∧ n.att = nAtt p))
      ∧ noticeSeen (noticeAcked (dequeue s.dev h op) h op p) src op p = false
    new 0x0303 ∧ bucketAt (N 0x0303) k = some b ∧ hasParent b.grp = true ∧ src = b.grp.parent) ∧
    (∃ (s : State) (h : CmdHdr) (p : List Byte) (b : Bucket),
    let src := h.src.toNat
    let k := nKey p
    let N := fun (op : Nat) => noticed s.dev h op p
    let new := fun (op : Nat) => alive s.dev = true ∧ noticeOk p = true ∧ noticeWorld (dequeue s.dev h op) h (kCtx k) = true ∧ nCount p = 1 ∧ nPart p = 0
      ∧ (∀ n ∈ (N op).seq.notIn, ¬ (n.src = src ∧ n.op = op ∧ n.key = k ∧ n.att = nAtt p))
      ∧ (∀ n ∈ (dequeue s.dev h op).seq.notIn, ¬ (n.src = src ∧ n.op = op ∧ n.key = k ∧ n.att = nAtt p))
      ∧ noticeSeen (noticeAcked (dequeue s.dev h op) h op p) src op p = false
    new 0x0304 ∧ bucketAt (N 0x0304) k = some b ∧ (∃ x ∈ b.grp.slots, x.child = true ∧ x.prim = src) ∧ b.attempt = nAtt p ∧ (b.st = .opened ∨ b.st = .closed) ∧ nCause p = 0) ∧
    (∃ (s : State) (h : CmdHdr) (p : List Byte) (b : Bucket) (r : _),
    let src := h.src.toNat
    let k := nKey p
    let N := fun (op : Nat) => noticed s.dev h op p
    let new := fun (op : Nat) => alive s.dev = true ∧ noticeOk p = true ∧ noticeWorld (dequeue s.dev h op) h (kCtx k) = true ∧ nCount p = 1 ∧ nPart p = 0
      ∧ (∀ n ∈ (N op).seq.notIn, ¬ (n.src = src ∧ n.op = op ∧ n.key = k ∧ n.att = nAtt p))
      ∧ (∀ n ∈ (dequeue s.dev h op).seq.notIn, ¬ (n.src = src ∧ n.op = op ∧ n.key = k ∧ n.att = nAtt p))
      ∧ noticeSeen (noticeAcked (dequeue s.dev h op) h op p) src op p = false
    new 0x0305 ∧ bucketAt (N 0x0305) k = some b ∧ rankOf (kCtx k) b.grp src = some r ∧ (∀ j ∈ b.mJoin, j.1 ≠ r)) ∧
    (∃ (s : State) (h : CmdHdr) (p : List Byte) (b : Bucket) (r : _) (xs : _) (e : _),
    let src := h.src.toNat
    let k := nKey p
    let N := fun (op : Nat) => noticed s.dev h op p
    let new := fun (op : Nat) => alive s.dev = true ∧ noticeOk p = true ∧ noticeWorld (dequeue s.dev h op) h (kCtx k) = true ∧ nCount p = 1 ∧ nPart p = 0
      ∧ (∀ n ∈ (N op).seq.notIn, ¬ (n.src = src ∧ n.op = op ∧ n.key = k ∧ n.att = nAtt p))
      ∧ (∀ n ∈ (dequeue s.dev h op).seq.notIn, ¬ (n.src = src ∧ n.op = op ∧ n.key = k ∧ n.att = nAtt p))
      ∧ noticeSeen (noticeAcked (dequeue s.dev h op) h op p) src op p = false
    new 0x0306 ∧ anyBucket (N 0x0306) k = some b ∧ b.attempt = nAtt p ∧ b.mReg ≠ 0 ∧ ownsChunk b (field (nExt p) 0 4) = true ∧ (mChunkAt b (field (nExt p) 0 4)).out = true ∧ rankOf (kCtx k) b.grp src = some r ∧ metroBlocks (N 0x0306) k b (field (nExt p) 0 4) = some xs ∧ sendAll (N 0x0306) k b.attempt (homeOf k (field (nExt p) 0 4) % 128 / 8) (chunkCorr k (field (nExt p) 0 4)) 2 2 src xs.2 = some e) ∧
    (∃ (s : State) (h : CmdHdr) (p : List Byte) (b : Bucket),
    let src := h.src.toNat
    let k := nKey p
    let N := fun (op : Nat) => noticed s.dev h op p
    let new := fun (op : Nat) => alive s.dev = true ∧ noticeOk p = true ∧ noticeWorld (dequeue s.dev h op) h (kCtx k) = true ∧ nCount p = 1 ∧ nPart p = 0
      ∧ (∀ n ∈ (N op).seq.notIn, ¬ (n.src = src ∧ n.op = op ∧ n.key = k ∧ n.att = nAtt p))
      ∧ (∀ n ∈ (dequeue s.dev h op).seq.notIn, ¬ (n.src = src ∧ n.op = op ∧ n.key = k ∧ n.att = nAtt p))
      ∧ noticeSeen (noticeAcked (dequeue s.dev h op) h op p) src op p = false
    new 0x0307 ∧ bucketAt (N 0x0307) k = some b ∧ b.st = .inked) ∧
    (∃ (s : State) (h : CmdHdr) (p : List Byte) (b : Bucket),
    let src := h.src.toNat
    let k := nKey p
    let N := fun (op : Nat) => noticed s.dev h op p
    let new := fun (op : Nat) => alive s.dev = true ∧ noticeOk p = true ∧ noticeWorld (dequeue s.dev h op) h (kCtx k) = true ∧ nCount p = 1 ∧ nPart p = 0
      ∧ (∀ n ∈ (N op).seq.notIn, ¬ (n.src = src ∧ n.op = op ∧ n.key = k ∧ n.att = nAtt p))
      ∧ (∀ n ∈ (dequeue s.dev h op).seq.notIn, ¬ (n.src = src ∧ n.op = op ∧ n.key = k ∧ n.att = nAtt p))
      ∧ noticeSeen (noticeAcked (dequeue s.dev h op) h op p) src op p = false
    new 0x0307 ∧ bucketAt (N 0x0307) k = some b ∧ (b.st = .opened ∨ b.st = .closed ∨ b.st = .reported) ∧ b.attempt = nAtt p) ∧
    (∃ (s : State) (h : CmdHdr) (p : List Byte) (b : Bucket) (r : _),
    let src := h.src.toNat
    let k := nKey p
    let N := fun (op : Nat) => noticed s.dev h op p
    let new := fun (op : Nat) => alive s.dev = true ∧ noticeOk p = true ∧ noticeWorld (dequeue s.dev h op) h (kCtx k) = true ∧ nCount p = 1 ∧ nPart p = 0
      ∧ (∀ n ∈ (N op).seq.notIn, ¬ (n.src = src ∧ n.op = op ∧ n.key = k ∧ n.att = nAtt p))
      ∧ (∀ n ∈ (dequeue s.dev h op).seq.notIn, ¬ (n.src = src ∧ n.op = op ∧ n.key = k ∧ n.att = nAtt p))
      ∧ noticeSeen (noticeAcked (dequeue s.dev h op) h op p) src op p = false
    new 0x0309 ∧ anyBucket (N 0x0309) k = some b ∧ rankOf (kCtx k) b.grp src = some r ∧ b.attempt = nAtt p ∧ byteAt (nExt p) 0 = b.grp.metroRank ∧ b.mConf.contains r = false) ∧
    (∃ (s : State) (h : CmdHdr) (p : List Byte),
    let k := nKey p
    let d := dequeue s.dev h 0x0308
    alive s.dev = true ∧ p.length = 10 ∧ field p 0 2 < 4096 ∧ noticeWorld d h (kCtx k) = true) ∧
    (∃ (s : State) (h : CmdHdr) (p : List Byte) (c : Instr) (op : Nat),
    (c, op) ∈ [(Instr.ink h p, 0x0301), (.erase h p, 0x0302), (.aborted h p, 0x0303), (.checkReport h p, 0x0304), (.metroJoin h p, 0x0305), (.metroResend h p, 0x0306), (.eraseRequest h p, 0x0307), (.metroGathered h p, 0x0309)] ∧ alive s.dev = true ∧ noticeOk p = false) ∧
    (∃ (s : State) (h : CmdHdr) (p : List Byte) (c : Instr) (op : Nat),
    let d := dequeue s.dev h op
    (c, op) ∈ [(Instr.ink h p, 0x0301), (.erase h p, 0x0302), (.aborted h p, 0x0303), (.checkReport h p, 0x0304), (.metroJoin h p, 0x0305), (.metroResend h p, 0x0306), (.eraseRequest h p, 0x0307), (.metroGathered h p, 0x0309)] ∧ alive s.dev = true ∧ noticeOk p = true ∧ noticeWorld d h (kCtx (nKey p)) = true ∧ (∀ n ∈ d.seq.notIn, ¬ (n.src = h.src.toNat ∧ n.op = op ∧ n.key = nKey p ∧ n.att = nAtt p)) ∧ noticeSeen (noticeAcked d h op p) h.src.toNat op p = true) :=
  ⟨⟨(wu (wHold { wBucket wUnder (wParams 0 0 1 64) with st := .reported })), (wHdr false .self), (wNote 0x0301 0 0 []), ({ wBucket wUnder (wParams 0 0 1 64) with st := .reported }), by decide +kernel⟩,
   ⟨(wu (wHold { wBucket wUnder (wParams 0 0 1 64) with st := .reported })), (wHdr false .self), (wNote 0x0302 0 4 (beBytes 8 0x7FFF_FFFF ++ [0, 1])), ({ wBucket wUnder (wParams 0 0 1 64) with st := .reported }), by decide +kernel⟩,
   ⟨(wu (wHold (wBucket wUnder (wParams 0 0 1 64)))), (wHdr false .self), (wNote 0x0303 0 1 []), (wBucket wUnder (wParams 0 0 1 64)), by decide +kernel⟩,
   ⟨(wu (wHold { wBucket wOver (wParams 0 0 1 64) with st := .closed })), (wHdr false .self), (wNote 0x0304 0x80 0 []), ({ wBucket wOver (wParams 0 0 1 64) with st := .closed }), by decide +kernel⟩,
   ⟨(wu fun d => fset (wHold (wBucket wMetro (wParams 0 0 1 64)) d) (Reg.MEM_QUOTA 3) Fd.MEM_QUOTA_quota 0), (wFrom (Config.metroOwner 0 1)), (wNote 0x0305 0x20 0 (beBytes 4 9)), (wBucket wMetro (wParams 0 0 1 64)), 1, by decide +kernel, by decide +kernel, (show rankOf (kCtx (nKey (wNote 0x0305 0x20 0 (beBytes 4 9)))) _ _ = some 1 by rw [show kCtx (nKey (wNote 0x0305 0x20 0 (beBytes 4 9))) = 0 by decide +kernel]; exact wRank), by decide +kernel⟩,
   ⟨wResS, wResH, wResP, wOut, 1, wResX, wResE, by decide +kernel, by decide +kernel, by decide +kernel, by decide +kernel, by decide +kernel, by decide +kernel, (show rankOf (kCtx (nKey wResP)) _ _ = some 1 by rw [show kCtx (nKey wResP) = 0 by decide +kernel]; exact wRank), some_getD (by decide +kernel), some_getD (by decide +kernel)⟩,
   ⟨(wu (wHold { wBucket wGroup (wParams 0 0 1 64) with st := .inked })), (wFrom 0x10), (wNote 0x0307 0 0 []), ({ wBucket wGroup (wParams 0 0 1 64) with st := .inked }), by decide +kernel⟩,
   ⟨(wu (wHold (wBucket wGroup (wParams 0 0 1 64)))), (wFrom 0x10), (wNote 0x0307 0 0 []), (wBucket wGroup (wParams 0 0 1 64)), by decide +kernel⟩,
   ⟨(wu fun d => fset (wHold { wBucket wMetro (wParams 0 0 1 64) with st := .inked } d) (Reg.MEM_QUOTA 3) Fd.MEM_QUOTA_quota 0), (wFrom (Config.metroOwner 0 1)), (wNote 0x0309 0 0 [0]), ({ wBucket wMetro (wParams 0 0 1 64) with st := .inked }), 1, by decide +kernel, by decide +kernel, (show rankOf (kCtx (nKey (wNote 0x0309 0 0 [0]))) _ _ = some 1 by rw [show kCtx (nKey (wNote 0x0309 0 0 [0])) = 0 by decide +kernel]; exact wRank), by decide +kernel, by decide +kernel, by decide +kernel⟩,
   ⟨(wu fun d => { d with seq := { d.seq with notOut := [⟨0x2FF1, 0x0304, keyOf wKey, 0, 11, [], false, 1, 0⟩] } }), (wHdr false .self), ([0, 0, 0, 1, 0, 3, 0, 11, 3, 4]), by decide +kernel⟩,
   ⟨(wu id), (wHdr false .self), [], (.metroGathered (wHdr false .self) []), 0x0309, by decide +kernel⟩,
   ⟨(wu fun d => { d with seq := { d.seq with seen := [⟨0x2FFF, keyOf wKey, 0, 0x0304, 0, nTime (wNote 0x0304 0 0 []), false⟩] } }), (wHdr false .self), (wNote 0x0304 0 0 []), (.checkReport (wHdr false .self) (wNote 0x0304 0 0 [])), 0x0304, by decide +kernel⟩⟩

theorem witness_MetroTimersAct :
    (∃ (s : State) (n : Nat) (o : NoticeOut),
    let d := s.dev
    alive d = true ∧ d.seq.notOut[n]? = some o ∧ o.at_ + max 1 (fget d Reg.MTR_TIMERS Fd.MTR_TIMERS_notice_retry_ticks) * tickLen d ≤ ns d ∧ o.tries < max 1 (fget d Reg.MTR_CTRL Fd.MTR_CTRL_notice_tries)) ∧
    (∃ (s : State) (n : Nat) (o : NoticeOut),
    let d := s.dev
    alive d = true ∧ d.seq.notOut[n]? = some o ∧ o.at_ + max 1 (fget d Reg.MTR_TIMERS Fd.MTR_TIMERS_notice_retry_ticks) * tickLen d ≤ ns d ∧ max 1 (fget d Reg.MTR_CTRL Fd.MTR_CTRL_notice_tries) ≤ o.tries) ∧
    (∃ (s : State) (k : BKey) (port : BitVec 7) (r : InkRec),
    let d := s.dev
    let kk := keyOf k
    running d = true ∧ d.seq.inks.find? (fun x => decide (x.key = kk) && x.ports.any (fun y => decide (y.1 = port.toNat))) = some r ∧ passWaits d (some port.toNat) (pencilMark kk r.att) = false ∧ gathersHeld d kk = true ∧ r.pub = false ∧ portLive d port.toNat = true) ∧
    (∃ (s : State) (k : BKey) (p : ConvPass),
    let d := s.dev
    let kk := keyOf k
    alive d = true ∧ d.seq.mHeld = [p] ∧ passKey p.hdr = kk ∧ p.at_ + max 1 (fget d Reg.MTR_TIMERS Fd.MTR_TIMERS_hold_ticks) * tickLen d ≤ ns d) ∧
    (∃ (s : State) (k : BKey) (b : Bucket),
    let d := s.dev
    let kk := keyOf k
    alive d = true ∧ bucketAt d kk = some b ∧ metroSums b = true ∧ b.mReg ≠ 0 ∧ b.mLateDone = false ∧ (b.st = .opened ∨ b.st = .closed) ∧ tickAtOrAfter d (b.late + max 1 (fget d Reg.MTR_CTRL Fd.MTR_CTRL_metro_late_ticks) * tickLen d) ≤ tickIdx d ∧ (∃ c ∈ ownChunks b, (mChunkAt b c).closed = false) ∧ (∃ o ∈ otherOwners (kCtx kk) b.grp, ∀ j ∈ b.mJoin, j.1 ≠ o.1)) ∧
    (∃ (s : State) (k : BKey) (c : BitVec 18) (b : Bucket) (xs : List Exact) (bs : List (List Byte)),
    let d := s.dev
    let kk := keyOf k
    running d = true ∧ bucketAt d kk = some b ∧ inMetro b.grp = true ∧ ownsChunk b c.toNat = true ∧ metroReady kk b c.toNat = true ∧ (b.st = .opened ∨ b.st = .closed ∨ b.st = .reported) ∧ bOp b ≠ 7 ∧ metroBlocks d kk b c.toNat = some (xs, bs) ∧ outOp b = 4) ∧
    (∃ (s : State) (k : BKey) (c : BitVec 18) (b : Bucket) (xs : List Exact) (bs : List (List Byte)) (o1 o2 : Dev),
    let d := s.dev
    let kk := keyOf k
    running d = true ∧ bucketAt d kk = some b ∧ inMetro b.grp = true ∧ ownsChunk b c.toNat = true ∧ metroReady kk b c.toNat = true ∧ (b.st = .opened ∨ b.st = .closed ∨ b.st = .reported) ∧ bOp b ≠ 7 ∧ metroBlocks d kk b c.toNat = some (xs, bs) ∧ outOp b ≠ 4 ∧ tget false d.int.eFenced (homeOf kk c.toNat % 128) = false ∧ multicastAll d kk b.attempt (homeOf kk c.toNat % 128 / 8) (chunkCorr kk c.toNat) 2 1 (pencilMark kk b.attempt) (resultTo d b c.toNat) bs = some o1 ∧ (otherOwners (kCtx kk) b.grp).foldl (fun (o : Option Dev) w => o.bind (fun e => sendAll e kk b.attempt (homeOf kk c.toNat % 128 / 8) (chunkCorr kk c.toNat) 2 2 w.2 bs)) (some o1) = some o2) ∧
    (∃ (s : State) (p : ConvPass) (rest : List ConvPass) (b b' : Bucket) (rank : Nat) (o : Dev),
    let d := s.dev
    let d1 := poolFreeGrans { d with seq := { d.seq with gathers := rest } } 1 (p.link / 8) p.grans
    let key := passKey p.hdr
    let first := p.blocks.headD []
    let c := elemChunk b (blkSeq first * (if blkFmt first = 4 then 256 else max 1 (fmtElems (blkFmt first))))
    let g := tget GChunk.init b.mGot c
    running d = true ∧ d.seq.gathers = p :: rest ∧ anyBucket d1 key = some b ∧ rankOf (kCtx key) b.grp (fSrc p.hdr) = some rank ∧ b.attempt = passAtt p.hdr ∧ b.st ≠ .aborted ∧ bOp b ≠ 7 ∧ (∀ x ∈ p.blocks, blkOk x = true) ∧ metroRankOf b c = rank ∧ g.lapsed = false ∧ multicast d1 key b.attempt (p.link / 8) (chunkCorr key c) 2 1 (mgmtCoord d1) (pencilMark key b.attempt) (resultTo d1 b c) p.blocks = some o ∧ anyBucket o key = some b') ∧
    (∃ (s : State) (p : ConvPass) (rest : List ConvPass),
    let d := s.dev
    running d = true ∧ d.seq.gathers = p :: rest ∧ anyBucket d (passKey p.hdr) = none) ∧
    (∃ (s : State) (k : BKey) (b : Bucket),
    let d := s.dev
    let kk := keyOf k
    alive d = true ∧ anyBucket d kk = some b ∧ b.st = .inked ∧ b.mReg ≠ 0 ∧ b.inkAt + max 1 (fget d Reg.MTR_TIMERS Fd.MTR_TIMERS_hold_ticks) * tickLen d ≤ ns d) :=
  ⟨⟨(wu fun d => wAt 102400000 { d with seq := { d.seq with notOut := [⟨0x2FF1, 0x0304, keyOf wKey, 0, 0, [], false, 1, 0⟩] } }), 0, (⟨0x2FF1, 0x0304, keyOf wKey, 0, 0, [], false, 1, 0⟩), by decide +kernel⟩,
   ⟨(wu fun d => wAt 102400000 { d with seq := { d.seq with notOut := [⟨0x2FF1, 0x0304, keyOf wKey, 0, 0, [], false, 15, 0⟩] } }), 0, (⟨0x2FF1, 0x0304, keyOf wKey, 0, 0, [], false, 15, 0⟩), by decide +kernel⟩,
   ⟨(wu fun d => let d := wLink 8 127 0 (wHold (wBucket wGroup (wParams 0 0 1 64)) d); { d with seq := { d.seq with inks := [⟨keyOf wKey, 0, wGroup, 9, 0, 0, 0, 2, 0, 3, 0, 0, 0, false, [(127, [0x7F0])]⟩] } }), wKey, 127, (⟨keyOf wKey, 0, wGroup, 9, 0, 0, 0, 2, 0, 3, 0, 0, 0, false, [(127, [0x7F0])]⟩), by decide +kernel⟩,
   ⟨(wu fun d => wAt 102400000 { d with seq := { d.seq with mHeld := [⟨0, mkPass 2 2 0xF 0x2FFF (keyOf wKey) 0 false [], [[0]], 2, 0⟩] }, mem := { d.mem with hpool := { d.mem.hpool with used := [0, 2] } } }), wKey, (⟨0, mkPass 2 2 0xF 0x2FFF (keyOf wKey) 0 false [], [[0]], 2, 0⟩), by decide +kernel⟩,
   ⟨(wu fun d => wAt 102400000 (wHold ({ wBucket wMetro (wParams 0 0 1 64) with mReg := 9, late := 1024 }) d)), wKey, ({ wBucket wMetro (wParams 0 0 1 64) with mReg := 9, late := 1024 }), by decide +kernel, by decide +kernel, by decide +kernel, by decide +kernel, by decide +kernel, by decide +kernel, by decide +kernel, by decide +kernel, (wOther)⟩,
   ⟨wMetR, wKey, 0, wInR, wMetRX.1, wMetRX.2, by decide +kernel, by decide +kernel, by decide +kernel, by decide +kernel, by decide +kernel, by decide +kernel, by decide +kernel, some_getD (x := metroBlocks wMetR.dev (keyOf wKey) wInR 0) (a := ([], [])) (by decide +kernel), by decide +kernel⟩,
   ⟨wMet, wKey, 0, wIn, wMetX.1, wMetX.2, wMet1, wMet2, by decide +kernel, by decide +kernel, by decide +kernel, by decide +kernel, by decide +kernel, by decide +kernel, by decide +kernel, some_getD (x := metroBlocks wMet.dev (keyOf wKey) wIn 0) (a := ([], [])) (by decide +kernel), by decide +kernel, by decide +kernel, some_getD (by decide +kernel), some_getD (by decide +kernel)⟩,
   ⟨wGat, wGatP, [], wGatB, wGatB', 1, wGatO, by decide +kernel, rfl, by decide +kernel, wGatRank, by decide +kernel, by decide +kernel, by decide +kernel, wGatOk, by decide +kernel, by decide +kernel, some_getD (by decide +kernel), some_getD (by decide +kernel)⟩,
   ⟨(wu fun d => { d with seq := { d.seq with gathers := [⟨64, mkPass 4 2 0xF 0x2FFF (keyOf wKey) 0 false [], [[0]], 2, 0⟩] } }), (⟨64, mkPass 4 2 0xF 0x2FFF (keyOf wKey) 0 false [], [[0]], 2, 0⟩), [], by decide +kernel⟩,
   ⟨(wu fun d => wAt 102400000 (wHold { wBucket wMetro (wParams 0 0 1 64) with st := .inked, mReg := 9 } d)), wKey, ({ wBucket wMetro (wParams 0 0 1 64) with st := .inked, mReg := 9 }), by decide +kernel⟩⟩

theorem witness_ShardsAndLessonsAreNamed :
    (∃ (s : State) (h : CmdHdr) (p : List Byte) (x : Shard),
    let i := field p 0 2
    let ok := fun (op : Nat) (q : Bool) => Admitted op false q h s.dev ∧ i < 1024 ∧ shardAt (dequeue s.dev h op) i = some x ∧ (x.world = true → h.world = true)
    ok 0x0403 true ∧ p.length = 2) ∧
    (∃ (s : State) (h : CmdHdr) (p : List Byte) (x : Shard),
    let i := field p 0 2
    let ok := fun (op : Nat) (q : Bool) => Admitted op false q h s.dev ∧ i < 1024 ∧ shardAt (dequeue s.dev h op) i = some x ∧ (x.world = true → h.world = true)
    ok 0x0404 false ∧ p.length = 64 ∧ field p 2 2 = 0) ∧
    (∃ (s : State) (h : CmdHdr) (p : List Byte) (x : Shard),
    let i := field p 0 2
    let ok := fun (op : Nat) (q : Bool) => Admitted op false q h s.dev ∧ i < 1024 ∧ shardAt (dequeue s.dev h op) i = some x ∧ (x.world = true → h.world = true)
    ok 0x0402 false ∧ p.length = 2 ∧ (∀ b ∈ bucketsOf (dequeue s.dev h 0x0402) x.ctx, kTag b.1 ≠ x.tag)) ∧
    (∃ (s : State) (h : CmdHdr) (p : List Byte) (x : Shard) (rf : _) (cvt : _),
    let i := field p 0 2
    let ok := fun (op : Nat) (q : Bool) => Admitted op false q h s.dev ∧ i < 1024 ∧ shardAt (dequeue s.dev h op) i = some x ∧ (x.world = true → h.world = true)
    ok 0x0405 false ∧ p.length = 16 ∧ field p 2 2 = 0 ∧ lessonPub (lessonAt (dequeue s.dev h 0x0405) x.lesson) = some (rf, cvt) ∧ (x.ran = false ∨ x.lastStep ≠ field p 4 4)) ∧
    (∃ (s : State) (h : CmdHdr) (p : List Byte) (x : Shard) (rf : _) (cvt : _),
    let i := field p 0 2
    let ok := fun (op : Nat) (q : Bool) => Admitted op false q h s.dev ∧ i < 1024 ∧ shardAt (dequeue s.dev h op) i = some x ∧ (x.world = true → h.world = true)
    ok 0x0405 false ∧ p.length = 16 ∧ field p 2 2 = 0 ∧ lessonPub (lessonAt (dequeue s.dev h 0x0405) x.lesson) = some (rf, cvt) ∧ (dequeue s.dev h 0x0405).lsn.owed = [] ∧ x.ran = true ∧ x.lastStep = field p 4 4 ∧ field p 12 4 = 0 ∧ (shardSpan (dequeue s.dev h 0x0405) x).1 ≤ field p 8 4 * fmtElems (pubFmt rf) ∧ field p 8 4 * fmtElems (pubFmt rf) < (shardSpan (dequeue s.dev h 0x0405) x).1 + (shardSpan (dequeue s.dev h 0x0405) x).2) ∧
    (∃ (s : State) (h : CmdHdr) (p : List Byte) (x : Shard) (rf : _) (cvt : _) (m : _) (r : _) (e : _),
    let i := field p 0 2
    let ok := fun (op : Nat) (q : Bool) => Admitted op false q h s.dev ∧ i < 1024 ∧ shardAt (dequeue s.dev h op) i = some x ∧ (x.world = true → h.world = true)
    let d := dequeue s.dev h 0x0405
    let fmt := pubFmt rf
    let el := fmtElems fmt
    let q := field p 8 4
    let u := pubUnit (shardSpan d x) fmt (q * el)
    let w := pubStored d x cvt u.1 (u.2 - u.1)
    let blks := (pubBlocks fmt u.1 (lessonToss (lessonAt d x.lesson)) x.lastEref w.1 (fun j => tget 0 x.flags j)).filter
      (fun b => decide (blkFmt b = 4) || [q].contains (blkSeq b))
    let corr := chunkCorr x.lastKey (u.1 / (64 * fmtElems x.fmt))
    let d1 := bump { d with lsn := { d.lsn with owed := [⟨x.lastKey, x.lastAtt, h.src.toNat, corr, blks⟩] } } Reg.LSN_REPUBLISH_CNT
    ok 0x0405 false ∧ p.length = 16 ∧ field p 2 2 = 0 ∧ lessonPub (lessonAt (dequeue s.dev h 0x0405) x.lesson) = some (rf, cvt) ∧ d.lsn.owed = [] ∧ x.ran = true ∧ x.lastStep = field p 4 4 ∧ field p 12 4 = 1 ∧ (shardSpan d x).1 ≤ q * el ∧ (q + 1) * el < (shardSpan d x).1 + (shardSpan d x).2 + el ∧ bit (tget 0 x.flags q) 0 = true ∧ regionOf d x.w.handle = some (m, r) ∧ regionPoisoned d r (x.w.off + 4 * (q * el - (shardSpan d x).1)) (4 * el) = false ∧ blks ≠ [] ∧ blks.length ≤ 8 ∧ sendPass d1 x.lastKey x.lastAtt 48 corr 3 3 h.src.toNat none blks = some e) ∧
    (∃ (s : State) (h : CmdHdr) (p : List Byte),
    let d := dequeue s.dev h 0x0410
    let n := byteAt p 1
    let ws := (List.range n).map (fun i => field p (8 + 8 * i) 8)
    Admitted 0x0410 false false h s.dev ∧ p.length = 8 + 8 * n ∧ byteAt p 0 ≤ 31 ∧ 1 ≤ n ∧ n ≤ 64 ∧ field p 2 6 = 0 ∧ lessonCheck ws = none ∧ (∀ e ∈ d.lsn.shards, e.2.map (fun x => x.lesson) ≠ some (byteAt p 0))) ∧
    (∃ (s : State) (h : CmdHdr) (p : List Byte),
    Admitted 0x0411 false true h s.dev ∧ p.length = 1 ∧ byteAt p 0 ≤ 31) ∧
    (∃ (s : State) (h : CmdHdr) (p : List Byte),
    Admitted 0x0412 false false h s.dev ∧ p.length = 8 ∧ byteAt p 0 ≤ 15 ∧ byteAt p 1 % 128 = 0 ∧ field p 2 2 < 4096 ∧ field p 6 2 = 0 ∧ bit (byteAt p 1) 7 = false) ∧
    (∃ (s : State) (h : CmdHdr) (p : List Byte),
    let d := dequeue s.dev h 0x0412
    let g := groupAt d (field p 2 2)
    Admitted 0x0412 false false h s.dev ∧ p.length = 8 ∧ byteAt p 0 ≤ 15 ∧ byteAt p 1 % 128 = 0 ∧ field p 2 2 < 4096 ∧ field p 6 2 = 0 ∧ bit (byteAt p 1) 7 = true ∧ g.st ≠ 0 ∧ (g.world = true → h.world = true) ∧ (∃ x ∈ g.slots, x.child = false ∧ (x.prim = mgmtCoord d ∨ x.sub = mgmtCoord d))) :=
  ⟨⟨(wu (wLsn wShard [])), (wHdr false .self), ([3, 0xFF]), wShard, by decide +kernel⟩,
   ⟨(wu (wLsn wShard [])), (wHdr false .self), ([3, 0xFF, 0, 0] ++ beBytes 4 0xFFFFFFFF ++ List.replicate 56 0x3F), wShard, by decide +kernel⟩,
   ⟨(wu fun d => let d := wLsn { wShard with tag := 4 } [] d; { d with lsn := { d.lsn with grad := [(1023 * 2 ^ 32 + 5, 1), (1024 * 2 ^ 32 + 5, 1)] } }), (wHdr false .self), ([3, 0xFF]), ({ wShard with tag := 4 }), by decide +kernel⟩,
   ⟨(wu (wLsn { wShard with ran := true, lastStep := 9 } [])), (wHdr false .self), ([3, 0xFF, 0, 0] ++ beBytes 4 8 ++ beBytes 4 0 ++ beBytes 4 1), ({ wShard with ran := true, lastStep := 9 }), 0, ((none : Option Nat)), by decide +kernel⟩,
   ⟨(wu (wLsn { wShard with ran := true, lastStep := 9 } [])), (wHdr false .self), ([3, 0xFF, 0, 0] ++ beBytes 4 9 ++ beBytes 4 63 ++ beBytes 4 0), ({ wShard with ran := true, lastStep := 9 }), 0, ((none : Option Nat)), by decide +kernel⟩,
   ⟨(wu (wLsn { wShard with ran := true, lastStep := 9, flags := [(63, 1)] } [])), (wHdr false .self), ([3, 0xFF, 0, 0] ++ beBytes 4 9 ++ beBytes 4 63 ++ beBytes 4 1), ({ wShard with ran := true, lastStep := 9, flags := [(63, 1)] }), 0, ((none : Option Nat)), 8, (wRegion false 0), _, by decide +kernel, by decide +kernel, by decide +kernel, by decide +kernel, by decide +kernel, by decide +kernel, by decide +kernel, by decide +kernel, by decide +kernel, by decide +kernel, by decide +kernel, by decide +kernel, by decide +kernel, by decide +kernel, by decide +kernel, some_getD (a := State.reset.dev) (by decide +kernel)⟩,
   ⟨(wu fun d => { d with lsn := { d.lsn with shards := [(1023, some wShard)] } }), (wHdr false .self), ([31, 2, 0, 0, 0, 0, 0, 0] ++ wLess.flatMap (beBytes 8)), by decide +kernel⟩,
   ⟨(wu fun d => { d with lsn := { d.lsn with slots := [(31, wLess)] } }), (wHdr false .self), [31], by decide +kernel⟩,
   ⟨(wu id), (wHdr false .self), ([15, 0, 0, 0, 0, 0, 0, 0]), by decide +kernel⟩,
   ⟨(wu fun d => groupPut d 4095 { wGroup with slots := [⟨false, 1, 0, 0x7FF, 0xFFFFFF⟩] }), (wHdr false .self), ([15, 0x80, 0x0F, 0xFF, 0xFF, 0xFF, 0, 0]), by decide +kernel⟩⟩

theorem witness_RunsAdvance :
    (∃ (s : State) (i : BitVec 10) (r : Run) (x : Shard) (b : Bucket),
    let d := s.dev
    let step := bStep b
    let x1 := match x.pend with
      | some (from', t) => if from' ≤ step then { x with cur := t, pend := none } else x
      | none => x
    let sc := x1.cur ++ [r.clip.2, (encodeKf32 (ofInt (step : Nat))).1, r.clip.1]
    let body := beBytes 2 i.toNat ++ beBytes 1 x1.lesson ++ beBytes 1 0 ++ beBytes 4 (crc32c (lessonBytes (lessonAt d x1.lesson))) ++ sc.flatMap (beBytes 4)
    let x2 := { x1 with lastStep := step, ran := true, status := 0, lastKey := r.key, lastAtt := r.att, lastEref := if inMetro b.grp then b.mEref else b.eref, seed := b.seed, flags := [] }
    running d = true ∧ fbit d Reg.LSN_CTRL Fd.LSN_CTRL_run_en = true ∧ runOf d i.toNat = some r ∧ shardAt d i.toNat = some x ∧ bucketAt d r.key = some b ∧ r.st = .ready ∧ (x.clip = false ∨ (isNan r.clip.1 = false ∧ r.clip.1 ≠ kInf)) ∧ polReplay b.grp.policy = false ∧ partnerState (shardPut (append d 0x07 (kCtx r.key) (kEpoch r.key) step body) i.toNat x2) ≠ 2) ∧
    (∃ (s : State) (e : Fin 64) (i k : Nat) (r : Run),
    let d := s.dev
    running d = true ∧ engState d e.val = 0 ∧ engRow d e.val = none ∧ draining1 d .engine e.val = false ∧ pickRun d e.val = some (i, k, r)) ∧
    (∃ (s : State) (e : Fin 64) (z : EngRow) (r : Run) (x : Shard),
    let d := s.dev
    let d1 := engPut d e.val none
    running d = true ∧ engRow d e.val = some z ∧ runOf d1 z.shard = some r ∧ shardAt d1 z.shard = some x ∧ rowLost d1 x z.row = false) ∧
    (∃ (s : State) (e : Fin 64) (z : EngRow) (r : Run) (x : Shard) (b : BitVec 128),
    let d := s.dev
    let d1 := engPut d e.val none
    running d = true ∧ engRow d e.val = some z ∧ runOf d1 z.shard = some r ∧ shardAt d1 z.shard = some x ∧ b ≠ 0) ∧
    (∃ (s : State) (e : Fin 64) (z : EngRow) (r : Run) (x : Shard) (b : BitVec 2),
    let d := s.dev
    let d1 := engPut d e.val none
    running d = true ∧ engRow d e.val = some z ∧ runOf d1 z.shard = some r ∧ shardAt d1 z.shard = some x ∧ b ≠ 0) ∧
    (∃ (s : State) (e : Fin 64),
    let d := s.dev
    alive d = true ∧ (engState d e.val = 1 ∨ engState d e.val = 2) ∧ ftHas d .engine e.val = false) ∧
    (∃ (s : State) (i : BitVec 10) (r : Run) (x : Shard),
    let d := s.dev
    alive d = true ∧ runOf d i.toNat = some r ∧ shardAt d i.toNat = some x ∧ r.st = .ready ∧ r.noted = false ∧ r.wait + max 1 (fget d Reg.LSN_CTRL Fd.LSN_CTRL_stall_ticks) * tickLen d ≤ ns d) ∧
    (∃ (s : State) (i : BitVec 10) (r : Run) (x : Shard) (b : Bucket),
    let d := s.dev
    running d = true ∧ runOf d i.toNat = some r ∧ shardAt d i.toNat = some x ∧ bucketAt d r.key = some b ∧ r.st = .norm ∧ r.normed = false ∧ (normAt d x.normBind).valid = true ∧ (normAt d x.normBind).step = bStep b ∧ (normAt d x.normBind).shards ≠ [] ∧ x.gPlace = false) :=
  ⟨⟨(wu fun d => fset (wLsn { wShard with pend := some (9, List.replicate 14 1) } [wRun .ready] d) Reg.LSN_CTRL Fd.LSN_CTRL_run_en 1), 1023, (wRun .ready), ({ wShard with pend := some (9, List.replicate 14 1) }), ({ wBucket wGroup (wParams 4 0 1 64) with st := .inked, shard := some 1023 }), by decide +kernel⟩,
   ⟨(wu (wLsn { wShard with engines := 2 ^ 63 } [{ wRun .running with next := 63 }])), 63, 1023, 63, ({ wRun .running with next := 64 }), by decide +kernel⟩,
   ⟨(wu fun d => engPut (wLsn { wShard with engines := 2 ^ 63 } [{ wRun .running with next := 64, done := 63 }] d) 63 (some ⟨1023, 63⟩)), 63, (⟨1023, 63⟩), ({ wRun .running with next := 64, done := 63 }), ({ wShard with engines := 2 ^ 63 }), by decide +kernel⟩,
   ⟨(wu fun d => engPut (wLsn { wShard with engines := 2 ^ 63 } [{ wRun .running with next := 64, done := 63 }] d) 63 (some ⟨1023, 63⟩)), 63, (⟨1023, 63⟩), ({ wRun .running with next := 64, done := 63 }), ({ wShard with engines := 2 ^ 63 }), 1, by decide +kernel⟩,
   ⟨(wu fun d => engPut (wLsn { wShard with engines := 2 ^ 63 } [{ wRun .running with next := 64, done := 63 }] d) 63 (some ⟨1023, 63⟩)), 63, (⟨1023, 63⟩), ({ wRun .running with next := 64, done := 63 }), ({ wShard with engines := 2 ^ 63 }), 1, by decide +kernel⟩,
   ⟨(wu fun d => engTo d 63 2), 63, by decide +kernel⟩,
   ⟨(wu fun d => wAt 102400000 (wLsn wShard [wRun .ready] d)), 1023, (wRun .ready), wShard, by decide +kernel⟩,
   ⟨(wu fun d => normPut (wLsn wShard [wRun .norm] d) 15 { Norm.free with valid := true, step := 9, shards := [5] }), 1023, (wRun .norm), wShard, ({ wBucket wGroup (wParams 4 0 1 64) with st := .inked, shard := some 1023 }), by decide +kernel⟩⟩

theorem witness_HuddlesGather :
    (∃ (s : State) (h : CmdHdr) (p : List Byte),
    let d := dequeue s.dev h 0x0202
    let mask := field p 0 4
    let i := field p 4 2
    let old := hgroupAt d i
    let g := hudBody mask p old
    Admitted 0x0202 false false h s.dev ∧ 72 ≤ p.length ∧ mask < 2 ^ 16 ∧ mask.testBit 0 = false ∧ i < 256 ∧ old.valid = true ∧ (old.world = true → h.world = true) ∧ firstBad (hudModifyChecks mask p) = none ∧ firstBad (hudChecks false mask p g) = none ∧ hudBusy d i = false) ∧
    (∃ (s : State) (h : CmdHdr) (p : List Byte),
    let d := dequeue s.dev h 0x0203
    let g := hgroupAt d (field p 0 2)
    Admitted 0x0203 false true h s.dev ∧ p.length = 2 ∧ field p 0 2 < 256 ∧ g.valid = true ∧ (g.world = true → h.world = true)) ∧
    (∃ (s : State) (h : CmdHdr) (p : List Byte),
    let d := dequeue s.dev h 0x0204
    let i := field p 0 2
    Admitted 0x0204 false false h s.dev ∧ p.length = 2 ∧ i < 256 ∧ (hgroupAt d i).valid = true ∧ ((hgroupAt d i).world = true → h.world = true) ∧ hudBusy d i = false) ∧
    (∃ (s : State) (h : CmdHdr) (p : List Byte),
    let d := dequeue s.dev h 0x0204
    let i := field p 0 2
    Admitted 0x0204 false false h s.dev ∧ p.length = 2 ∧ i < 256 ∧ (hgroupAt d i).valid = true ∧ ((hgroupAt d i).world = true → h.world = true) ∧ hudBusy d i = true) ∧
    (∃ (s : State) (f : HFrame) (rest : List HFrame),
    let d := s.dev
    let gi := byteAt f.bytes 32
    let g := hgroupAt d gi
    running d = true ∧ d.hud.inQ = f :: rest ∧ g.valid = false) ∧
    (∃ (s : State) (f : HFrame) (rest : List HFrame),
    let d := s.dev
    let gi := byteAt f.bytes 32
    let g := hgroupAt d gi
    running d = true ∧ d.hud.inQ = f :: rest ∧ g.valid = true ∧ fVc f.bytes = 0 ∧ (hudKind f.bytes = 0 ∨ hudKind f.bytes = 1) ∧ (∀ x ∈ g.slots, x.prim ≠ fSrc f.bytes)) ∧
    (∃ (s : State) (f : HFrame) (rest : List HFrame) (sl : SlotE) (more : List SlotE) (x : HInst),
    let d := s.dev
    let gi := byteAt f.bytes 32
    let g := hgroupAt d gi
    let st := fullTick (tickIdx d) (field f.bytes 36 4)
    running d = true ∧ d.hud.inQ = f :: rest ∧ g.valid = true ∧ fVc f.bytes = 0 ∧ g.slots = sl :: more ∧ sl.prim = fSrc f.bytes ∧ sl.child = false ∧ hudKind f.bytes = 0 ∧ field f.bytes 34 2 = g.epoch ∧ byteAt f.bytes 46 = g.fmt ∧ 8 * (byteAt f.bytes 47 + 1) = hBytes g false ∧ st ≤ tickIdx d + 1 ∧ (∀ c ∈ g.closed, c.1 ≠ st) ∧ hinstAt d gi st = some x ∧ x.filled.contains 0 = false ∧ x.absent.contains 0 = false ∧ hudOut d x.unit = false) ∧
    (∃ (s : State) (g : BitVec 8) (start : BitVec 32) (u : Upset) (x : HInst),
    let d := s.dev
    let t := fullTick (tickIdx d) start.toNat
    let e := hudUpset d g.toNat t u
    let hg := hgroupAt d x.group
    alive d = true ∧ hinstAt e g.toNat t = some x ∧ x.start + 1 + x.carries ≤ tickIdx d ∧ hudSlots hg false x ≠ [] ∧ x.carries < hg.carry) ∧
    (∃ (s : State) (g : BitVec 8) (start : BitVec 32) (u : Upset) (x : HInst),
    let d := s.dev
    let t := fullTick (tickIdx d) start.toNat
    let e := hudUpset d g.toNat t u
    let hg := hgroupAt d x.group
    alive d = true ∧ hinstAt e g.toNat t = some x ∧ x.start + 1 + x.carries ≤ tickIdx d ∧ hudSlots hg false x ≠ [] ∧ hg.carry ≤ x.carries) ∧
    (∃ (s : State) (g : BitVec 8) (start : BitVec 32) (u : Upset) (x : HInst) (sl : _),
    let d := s.dev
    let t := fullTick (tickIdx d) start.toNat
    let e := hudUpset d g.toNat t u
    let hg := hgroupAt d x.group
    alive d = true ∧ hinstAt e g.toNat t = some x ∧ hudSlots hg true x = [sl] ∧ x.start + 1 + hg.carry + hg.childT ≤ tickIdx d) ∧
    (∃ (s : State) (who : Req) (v : Word),
    let d := s.dev
    BusReady d ∧ reqSecure d who = true ∧ Unlocked d who 0x02C000 ∧ bits v.toNat 4 4 = 1 ∧ bits v.toNat 8 8 = fget d Reg.HUD_CTRL (8, 8)) ∧
    (∃ (s : State) (u : BitVec 4) (t v : Nat),
    let d := s.dev
    alive d = true ∧ tget none d.hud.moveAt u.toNat = some t ∧ t < tickIdx d ∧ hudState d u.toNat ≠ 0 ∧ ((List.range 15).map (fun i => (u.toNat + 1 + i) % 16)).find? (fun v => decide (hudState d v = 0)) = some v ∧ twf none d.hud.moved = true) :=
  ⟨⟨(wu fun d => wHudD { wHud with epoch := 0xFFFF } [] [] 100 d), (wHdr false .self), (wBody 0x100 255 (List.replicate 32 0 ++ [32, 4]) []), by decide +kernel⟩,
   ⟨(wu fun d => wHudD wHud [] [] 100 d), (wHdr false .self), ([0, 255]), by decide +kernel⟩,
   ⟨(wu fun d => wHudD wHud [] [] 100 d), (wHdr false .self), ([0, 255]), by decide +kernel⟩,
   ⟨(wu fun d => wHudD wHud [wHudI [] [] 0] [] 100 d), (wHdr false .self), ([0, 255]), by decide +kernel⟩,
   ⟨(wu fun d => wHudD wHud [] [wHudF 0x10 254 0] 100 d), (wHudF 0x10 254 0), [], by decide +kernel⟩,
   ⟨(wu fun d => wHudD wHud [] [wHudF 0x30 255 0] 100 d), (wHudF 0x30 255 0), [], by decide +kernel⟩,
   ⟨(wu fun d => wHudD wHud [wHudI [] [] 0] [wHudF 0x10 255 0] 100 d), (wHudF 0x10 255 0), [], (⟨false, 1, 0, 0x10, 0xFFFFFF⟩), ([⟨false, 1, 1, 0x20, 0xFFFFFF⟩]), (wHudI [] [] 0), by decide +kernel⟩,
   ⟨(wu fun d => wHudD { wHud with carry := 2 } [wHudI [0] [] 1] [] 102 d), 255, 100, .none, (wHudI [0] [] 1), by decide +kernel⟩,
   ⟨(wu fun d => wHudD { wHud with carry := 2 } [wHudI [0] [] 2] [] 103 d), 255, 100, .none, (wHudI [0] [] 2), by decide +kernel⟩,
   ⟨(wu fun d => wHudD { wHudC with carry := 2 } [wHudI [0] [] 2] [] 104 d), 255, 100, .none, (wHudI [0] [] 2), 1, by decide +kernel⟩,
   ⟨(wu fun d => wHudD wHud [wHudI [0] [] 0] [] 101 (fset d (Reg.BLK_STATUS 0x02C000) (unlockFld .mgmt) 1)), .mgmt, ((0x11F : Word)), by decide +kernel⟩,
   ⟨(wu fun d => let d := wHudD wHud [] [] 101 (fset d (Reg.HUD_UNIT_STATUS 15) Fd.HUD_UNIT_STATUS_state 1); { d with hud := { d.hud with moveAt := [(15, some 100)] } }), 15, 100, ((0 : Nat)), by decide +kernel⟩⟩

theorem witness_BellFollowsItsParent :
    (∃ (s : State) (l : Fin 128),
    let d := s.dev
    let x := bellLink d l.val
    alive d = true ∧ bellFlows d l.val = true ∧ (x.sent = 0 ∨ x.sent + 128 * max 1 (fget d Reg.BELL_CTRL Fd.BELL_CTRL_xchg) ≤ ns d)) ∧
    (∃ (s : State) (l : Fin 128) (w : List Byte),
    let d := s.dev
    alive d = true ∧ bellFlows d l.val = true ∧ bit (byteAt w 15) 3 = true ∧ activeParent d = none ∧ bellState d = 0) ∧
    (∃ (off : Int),
    0 < off) ∧
    (∃ (off : Int),
    off < 0) ∧
    (∃ (off : Int),
    1000 * 256 < off) ∧
    (∃ (off : Int),
    off < -(1000 * 256)) ∧
    (∃ (s : State),
    let d := s.dev
    alive d = true ∧ ppsEn d = true ∧ isMaster d = false) ∧
    (∃ (s : State),
    let d := s.dev
    alive d = true ∧ ppsEn d = true ∧ isMaster d = true ∧ (bellState d = 1 ∨ bellState d = 2) ∧ d.bell.ppsSeen + 3000000000 ≤ ns d) ∧
    (∃ (s : State),
    let d := s.dev
    let sec := (ns d + 2) / 1000000000
    alive d = true ∧ fbit d Reg.BELL_CTRL Fd.BELL_CTRL_pps_out_en = true ∧ d.bell.ppsSec ≠ some sec ∧ ns d ≤ sec * 1000000000 + 2) ∧
    (∃ (s : State) (sel t : Nat),
    let d := s.dev
    alive d = true ∧ d.bell.tickArm = some (sel, t) ∧ t ≤ ns d ∧ sel ≤ 5 ∧ (∀ g ∈ d.hud.groups, g.2.valid = false) ∧ (∀ p ∈ List.range 128, fbit d (Reg.TM_GATE_STATUS p) Fd.TM_GATE_STATUS_en = false) ∧ stepArmed d = false) ∧
    (∃ (s : State) (sel t : Nat),
    let d := s.dev
    alive d = true ∧ d.bell.tickArm = some (sel, t) ∧ t ≤ ns d ∧ sel ≤ 5 ∧ stepArmed d = true) ∧
    (∃ (s : State) (p o : Nat),
    let d := s.dev
    alive d = true ∧ d.bell.stepIn = some (p, o) ∧ stepArmed d = true ∧ 0 < p ∧ o / tickLen d ≤ tickIdx d ∧ (tickIdx d - o / tickLen d) % p = 0 ∧ d.bell.stepAt ≠ some (tickIdx d)) :=
  ⟨⟨(wu fun d => wAt 5000 (bellLinkPut (fset d (Reg.LINK_STATUS 127) Fd.LINK_STATUS_step 7) 127 ⟨some (1200000, 1270000), [], [], 15, 3976⟩)), 127, by decide +kernel⟩,
   ⟨(wu fun d => wAt 5000 (bellLinkPut (fset d (Reg.LINK_STATUS 127) Fd.LINK_STATUS_step 10) 127 ⟨some (1200000, 1270000), [4, 5, 6, 1, 2, 3, 7, 8, 9, 10, 11, 12, 13, 14, 15, 16], [3], 15, 3976⟩)), 127, (beBytes 6 1270000 ++ beBytes 6 1200000 ++ beBytes 3 60000 ++ [0xF8]), by decide +kernel⟩,
   ⟨1, by decide +kernel⟩,
   ⟨-1, by decide +kernel⟩,
   ⟨256001, by decide +kernel⟩,
   ⟨-256001, by decide +kernel⟩,
   ⟨(wu fun d => wAt 1500000000 (fset d Reg.BELL_CTRL Fd.BELL_CTRL_pps_en 1)), by decide +kernel⟩,
   ⟨(wu fun d => wAt 3000000000 (fset (fset (fset d Reg.BELL_CTRL Fd.BELL_CTRL_pps_en 1) Reg.BELL_CTRL Fd.BELL_CTRL_role 1) Reg.BELL_STATUS Fd.BELL_STATUS_state 2)), by decide +kernel⟩,
   ⟨(wu fun d => wAt 1000000000 (fset d Reg.BELL_CTRL Fd.BELL_CTRL_pps_out_en 1)), by decide +kernel⟩,
   ⟨(wu fun d => let d := wAt 16384 d; { d with bell := { d.bell with tickArm := some (5, 16384) } }), 5, 16384, by decide +kernel⟩,
   ⟨(wu fun d => let d := wAt 16384 (fset d Reg.BELL_STEP_CTRL Fd.BELL_STEP_CTRL_arm 1); { d with bell := { d.bell with tickArm := some (5, 16384) } }), 5, 16384, by decide +kernel⟩,
   ⟨(wu fun d => let d := wAt 16384 (rgPut (fset d Reg.BELL_STEP_CTRL Fd.BELL_STEP_CTRL_arm 1) Reg.BELL_STEP_CNT 0xFFFFFFFF); { d with bell := { d.bell with stepIn := some (5, 1024), stepNext := some (6, 2048) } }), 5, 1024, by decide +kernel⟩⟩

theorem witness_BellRegisterWrites :
    (∃ (s : State) (who : Req) (v : Word),
    let d := s.dev
    BusReady d ∧ reqSecure d who = true ∧ bits v.toNat 4 4 = 1 ∧ bits v.toNat 5 5 = 0 ∧ fget d Reg.BELL_CTRL (4, 4) = 0 ∧ bits v.toNat 7 6 = fget d Reg.BELL_CTRL (7, 6) ∧ bits v.toNat 15 8 = fget d Reg.BELL_CTRL (15, 8)) ∧
    (∃ (s : State) (who : Req) (v : Word),
    let d := s.dev
    BusReady d ∧ reqSecure d who = true ∧ bits v.toNat 4 4 = 0 ∧ bits v.toNat 5 5 = 0 ∧ fget d Reg.BELL_CTRL (4, 4) = 1) ∧
    (∃ (s : State) (who : Req) (v : Word),
    let d := s.dev
    BusReady d ∧ reqSecure d who = true ∧ Unlocked d who 0x01C000 ∧ bits v.toNat 5 5 = 1 ∧ bits v.toNat 4 4 = 0 ∧ fget d Reg.BELL_CTRL (4, 4) = 0 ∧ bellState d = 0 ∧ d.clk.inUse = false) ∧
    (∃ (s : State) (who : Req) (v : Word),
    let d := s.dev
    BusReady d ∧ reqSecure d who = true ∧ Unlocked d who 0x01C000 ∧ bits v.toNat 3 3 = 1 ∧ bits v.toNat 6 4 ≤ 5 ∧ rg64 d Reg.BELL_TICK_AT_0 % 8192 = 0 ∧ ns d + 8192 < rg64 d Reg.BELL_TICK_AT_0) ∧
    (∃ (s : State) (who : Req) (v : Word),
    let d := s.dev
    BusReady d ∧ reqSecure d who = true ∧ v.msb = true ∧ fbit d Reg.BELL_STEP_CTRL Fd.BELL_STEP_CTRL_arm = false ∧ rg64 d Reg.BELL_STEP_ORIGIN_0 % tickLen d = 0) ∧
    (∃ (s : State) (who : Req) (v : Word),
    let d := s.dev
    BusReady d ∧ reqSecure d who = true ∧ v.msb = true ∧ fbit d Reg.BELL_STEP_CTRL Fd.BELL_STEP_CTRL_arm = false ∧ rg64 d Reg.BELL_STEP_ORIGIN_0 % tickLen d ≠ 0) ∧
    (∃ (s : State) (who : Req),
    let d := s.dev
    let low := (tget none d.bus.held (busKey who Reg.BELL_STEP_ORIGIN_0)).getD (rg d Reg.BELL_STEP_ORIGIN_0)
    BusReady d ∧ reqSecure d who = true ∧ stepArmed d = false ∧ low < 2 ^ 32) :=
  ⟨⟨(wu id), .mgmt, ((0x813 : Word)), by decide +kernel⟩,
   ⟨(wu fun d => rgPut (fset d Reg.BELL_CTRL (4, 4) 1) Reg.BELL_INC 7), .mgmt, ((0x800 : Word)), by decide +kernel⟩,
   ⟨(wu fun d => rgPut (rgPut (fset d (Reg.BLK_STATUS 0x01C000) (unlockFld .mgmt) 1) Reg.BELL_SET_0 5) (Reg.BELL_SET_0 + 4) 7), .mgmt, ((0x820 : Word)), by decide +kernel⟩,
   ⟨(wu fun d => wAt 8191 (rgPut (fset d (Reg.BLK_STATUS 0x01C000) (unlockFld .mgmt) 1) Reg.BELL_TICK_AT_0 (8192 * 2))), .mgmt, ((0x58 : Word)), by decide +kernel⟩,
   ⟨(wu fun d => rgPut d Reg.BELL_STEP_ORIGIN_0 4096), .mgmt, ((0x80000000 : Word)), by decide +kernel⟩,
   ⟨(wu fun d => rgPut d Reg.BELL_STEP_ORIGIN_0 4095), .mgmt, ((0x80000000 : Word)), by decide +kernel⟩,
   ⟨(wu fun d => rgPut d Reg.BELL_STEP_ORIGIN_0 0xFFFFFFFF), .mgmt, by decide +kernel⟩⟩

theorem witness_ReplayCommands :
    (∃ (s : State) (h : CmdHdr) (p : List Byte) (n : _) (r : _),
    let d := dequeue s.dev h 0x0610
    Admitted 0x0610 false false h s.dev ∧ p.length = 28 ∧ regionOf d (field p 0 4) = some (n, r) ∧ r.secure = h.world ∧ field p 24 4 = 0 ∧ replayActive d = false) ∧
    (∃ (s : State) (h : CmdHdr) (p : List Byte) (n : _) (r : _),
    let d := dequeue s.dev h 0x0610
    Admitted 0x0610 false false h s.dev ∧ p.length = 28 ∧ regionOf d (field p 0 4) = some (n, r) ∧ r.secure = h.world ∧ field p 24 4 = 0 ∧ replayActive d = true) ∧
    (∃ (s : State) (h : CmdHdr) (p : List Byte),
    Admitted 0x0611 false false h s.dev ∧ p = []) :=
  ⟨⟨(wu fun d => let d := wReg true 0 d; regionWrite d (wRegion true 0) 0 (([0x08, 0, 0, 4] ++ List.replicate 28 0) ++ ([0x08, 0, 0, 4] ++ beBytes 6 9 ++ List.replicate 22 0))), (wHdr true .self), (beBytes 4 0x00010008 ++ beBytes 6 1 ++ beBytes 6 9 ++ List.replicate 8 255 ++ [0, 0, 0, 0]), ((8 : Nat)), (wRegion true 0), by decide +kernel⟩,
   ⟨(wu fun d => fset (wReg true 0 d) Reg.REPLAY_CTRL Fd.REPLAY_CTRL_active 1), (wHdr true .self), (beBytes 4 0x00010008 ++ beBytes 6 1 ++ beBytes 6 9 ++ List.replicate 8 255 ++ [0, 0, 0, 0]), ((8 : Nat)), (wRegion true 0), by decide +kernel⟩,
   ⟨(wu fun d => fset (wReg true 0 d) Reg.REPLAY_CTRL Fd.REPLAY_CTRL_active 1), (wHdr true .self), [], by decide +kernel⟩⟩

theorem witness_PoolsAreAudited :
    (∃ (s : State),
    let d := s.dev
    alive d = true ∧ fbit d Reg.MEM_CTRL Fd.MEM_CTRL_rollcall_en = true ∧ d.mem.callAt + max 1 (fget d Reg.MEM_ROLLCALL Fd.MEM_ROLLCALL_interval) ≤ tickIdx d) ∧
    (∃ (s : State),
    let d := s.dev
    alive d = true) :=
  ⟨⟨(wu fun d => let d := wAt (2 ^ 30) d; { d with mem := { d.mem with sram := { d.mem.sram with ring := 5 } } }), by decide +kernel⟩,
   ⟨(wu fun d => { d with mem := { d.mem with sram := { d.mem.sram with banks := d.mem.sram.banks.set 15 63, ring := 5 }, hpool := { d.mem.hpool with banks := d.mem.hpool.banks.set 15 193 } } }), by decide +kernel⟩⟩

theorem witness_LinesAreReadAndWritten :
    (∃ (s : State),
    let d := s.dev
    running d = true) ∧
    (∃ (s : State) (a : HLine) (errs : _) (w : _) (n : _),
    let d := s.dev
    let x := lineId a
    running d = true ∧ poisoned d x = false ∧ memDecode (errWord errs) = .corrected w n ∧ tget 0 d.mem.rowCe (rowKey x) + n < 16) ∧
    (∃ (s : State) (a : HLine) (errs : _),
    let d := s.dev
    let x := lineId a
    running d = true ∧ poisoned d x = false ∧ memDecode (errWord errs) = .bad) ∧
    (∃ (s : State) (a : HLine),
    let d := s.dev
    running d = true ∧ stkFenced d a.stack.toNat = false) ∧
    (∃ (s : State) (a : HLine),
    let d := s.dev
    running d = true ∧ stkFenced d a.stack.toNat = false) ∧
    (∃ (s : State) (a : HLine),
    let d := s.dev
    running d = true ∧ stkFenced d a.stack.toNat = true) :=
  ⟨⟨(wu (wBytes [1, 2, 3])), by decide +kernel⟩,
   ⟨(wu (wBytes [1, 2, 3])), wLine, ([⟨35, 0xFFFF⟩]), (List.replicate 36 0), 1, by decide +kernel⟩,
   ⟨(wu (wBytes [1, 2, 3])), wLine, wThree, by decide +kernel, by decide +kernel, wBad⟩,
   ⟨(wu fun d => setPoison (wBytes (List.replicate 64 7) d) wLineX true), wLine, by decide +kernel⟩,
   ⟨(wu (wBytes (List.replicate 64 7))), wLine, by decide +kernel⟩,
   ⟨(wu fun d => wStk 15 4 (wBytes (List.replicate 64 7) d)), wLine, by decide +kernel⟩⟩

theorem witness_AddsReachTheirElements :
    (∃ (s : State) (a : HLine),
    let d := s.dev
    let x := lineId a
    running d = true ∧ stkFenced d a.stack.toNat = false ∧ poisoned d x = false) ∧
    (∃ (s : State) (a : HLine),
    let d := s.dev
    let x := lineId a
    running d = true ∧ stkFenced d a.stack.toNat = false ∧ poisoned d x = false) ∧
    (∃ (s : State) (a : HLine),
    let d := s.dev
    let x := lineId a
    running d = true ∧ stkFenced d a.stack.toNat = false ∧ poisoned d x = false) ∧
    (∃ (s : State) (a : HLine) (n : BitVec 10),
    let d := s.dev
    let x := lineId a
    running d = true ∧ stkFenced d a.stack.toNat = false ∧ poisoned d x = false ∧ n.toNat ≤ 256 ∧ shadowOf (lineBytes d x) = tget 0 d.mem.shadow x) ∧
    (∃ (s : State) (a : HLine) (n : BitVec 10),
    let d := s.dev
    running d = true ∧ stkFenced d a.stack.toNat = false ∧ 256 < n.toNat) ∧
    (∃ (s : State) (a : HLine),
    let d := s.dev
    running d = true ∧ stkFenced d a.stack.toNat = false) :=
  ⟨⟨(wu (wBytes ((List.range 64).map (fun i => BitVec.ofNat 8 (i * 91 + 7))))), wLine, by decide +kernel⟩,
   ⟨(wu (wBytes ((List.range 64).map (fun i => BitVec.ofNat 8 (i * 91 + 7))))), wLine, by decide +kernel⟩,
   ⟨(wu (wBytes ((List.range 64).map (fun i => BitVec.ofNat 8 (i * 91 + 7))))), wLine, by decide +kernel⟩,
   ⟨(wu fun d => let d := wBytes ((List.range 64).map (fun i => BitVec.ofNat 8 (i * 91 + 7))) d; { d with mem := { d.mem with shadow := tset 0 d.mem.shadow wLineX (shadowOf (lineBytes d wLineX)) } }), wLine, 256, by decide +kernel⟩,
   ⟨(wu (wBytes ((List.range 64).map (fun i => BitVec.ofNat 8 (i * 91 + 7))))), wLine, 257, by decide +kernel⟩,
   ⟨(wu (wBytes ((List.range 64).map (fun i => BitVec.ofNat 8 (i * 91 + 7))))), wLine, by decide +kernel⟩⟩

theorem witness_StacksAreTended :
    (∃ (s : State) (k : BitVec 4),
    let d := s.dev
    running d = true ∧ fbit d Reg.MEM_CTRL Fd.MEM_CTRL_scrub_en = true ∧ stkFenced d k.toNat = false ∧ tget 0 d.mem.scrubAt k.toNat + max 1 (fget d Reg.MEM_SCRUB Fd.MEM_SCRUB_hours) * 3600000000000 ≤ ns d) ∧
    (∃ (s : State) (k : BitVec 4) (l : Fin 1342177280),
    let d := s.dev
    let e := { d with mem := { d.mem with scrubAt := tset 0 d.mem.scrubAt k.toNat (ns d), rowCe := d.mem.rowCe.filter (fun c => c.1 / (64 * 1310720) ≠ k.toNat) } }
    running d = true ∧ fbit d Reg.MEM_CTRL Fd.MEM_CTRL_scrub_en = true ∧ stkFenced d k.toNat = false ∧ tget 0 d.mem.scrubAt k.toNat + max 1 (fget d Reg.MEM_SCRUB Fd.MEM_SCRUB_hours) * 3600000000000 ≤ ns d ∧ scrubbed e (k.toNat * stackLines + l.val) = true) ∧
    (∃ (s : State) (k : BitVec 4) (t : BitVec 8),
    let d := s.dev
    let warm := fget d Reg.MEM_THERM_CFG Fd.MEM_THERM_CFG_warm
    let hot := fget d Reg.MEM_THERM_CFG Fd.MEM_THERM_CFG_hot
    let crit := fget d Reg.MEM_THERM_CFG Fd.MEM_THERM_CFG_crit
    let n := t.toNat
    alive d = true ∧ warm < hot ∧ hot < crit ∧ crit ≤ 94 ∧ 95 ≤ n ∧ stkState d k.toNat ≠ 4) ∧
    (∃ (s : State) (k : BitVec 4) (t : BitVec 8),
    let d := s.dev
    let warm := fget d Reg.MEM_THERM_CFG Fd.MEM_THERM_CFG_warm
    let hot := fget d Reg.MEM_THERM_CFG Fd.MEM_THERM_CFG_hot
    let crit := fget d Reg.MEM_THERM_CFG Fd.MEM_THERM_CFG_crit
    let n := t.toNat
    alive d = true ∧ warm < hot ∧ hot < crit ∧ crit ≤ 94 ∧ (stkState d k.toNat = 4 ∨ (stkState d k.toNat = 3 ∧ n < 95))) ∧
    (∃ (s : State) (k : BitVec 4) (t : BitVec 8),
    let d := s.dev
    let warm := fget d Reg.MEM_THERM_CFG Fd.MEM_THERM_CFG_warm
    let hot := fget d Reg.MEM_THERM_CFG Fd.MEM_THERM_CFG_hot
    let crit := fget d Reg.MEM_THERM_CFG Fd.MEM_THERM_CFG_crit
    let n := t.toNat
    alive d = true ∧ warm < hot ∧ hot < crit ∧ crit ≤ 94 ∧ crit ≤ n ∧ n < 95 ∧ stkState d k.toNat < 3) ∧
    (∃ (s : State) (k : BitVec 4) (t : BitVec 8),
    let d := s.dev
    let warm := fget d Reg.MEM_THERM_CFG Fd.MEM_THERM_CFG_warm
    let hot := fget d Reg.MEM_THERM_CFG Fd.MEM_THERM_CFG_hot
    let crit := fget d Reg.MEM_THERM_CFG Fd.MEM_THERM_CFG_crit
    let n := t.toNat
    alive d = true ∧ warm < hot ∧ hot < crit ∧ crit ≤ 94 ∧ hot ≤ n ∧ n < crit ∧ stkState d k.toNat < 2) ∧
    (∃ (s : State) (k : BitVec 4) (t : BitVec 8),
    let d := s.dev
    let warm := fget d Reg.MEM_THERM_CFG Fd.MEM_THERM_CFG_warm
    let hot := fget d Reg.MEM_THERM_CFG Fd.MEM_THERM_CFG_hot
    let crit := fget d Reg.MEM_THERM_CFG Fd.MEM_THERM_CFG_crit
    let n := t.toNat
    alive d = true ∧ warm < hot ∧ hot < crit ∧ crit ≤ 94 ∧ hot ≤ n + 3 ∧ n < crit ∧ stkState d k.toNat = 2) ∧
    (∃ (s : State) (k : BitVec 4) (t : BitVec 8),
    let d := s.dev
    let warm := fget d Reg.MEM_THERM_CFG Fd.MEM_THERM_CFG_warm
    let hot := fget d Reg.MEM_THERM_CFG Fd.MEM_THERM_CFG_hot
    let crit := fget d Reg.MEM_THERM_CFG Fd.MEM_THERM_CFG_crit
    let n := t.toNat
    alive d = true ∧ warm < hot ∧ hot < crit ∧ crit ≤ 94 ∧ warm ≤ n ∧ n < hot ∧ stkState d k.toNat < 2) ∧
    (∃ (s : State) (k : BitVec 4) (t : BitVec 8),
    let d := s.dev
    let warm := fget d Reg.MEM_THERM_CFG Fd.MEM_THERM_CFG_warm
    let hot := fget d Reg.MEM_THERM_CFG Fd.MEM_THERM_CFG_hot
    let crit := fget d Reg.MEM_THERM_CFG Fd.MEM_THERM_CFG_crit
    let n := t.toNat
    alive d = true ∧ warm < hot ∧ hot < crit ∧ crit ≤ 94 ∧ n < warm ∧ warm ≤ n + 3 ∧ stkState d k.toNat = 1) ∧
    (∃ (s : State) (k : BitVec 4) (t : BitVec 8),
    let d := s.dev
    let warm := fget d Reg.MEM_THERM_CFG Fd.MEM_THERM_CFG_warm
    let hot := fget d Reg.MEM_THERM_CFG Fd.MEM_THERM_CFG_hot
    let crit := fget d Reg.MEM_THERM_CFG Fd.MEM_THERM_CFG_crit
    let n := t.toNat
    alive d = true ∧ warm < hot ∧ hot < crit ∧ crit ≤ 94 ∧ n < warm ∧ stkState d k.toNat = 0) ∧
    (∃ (s : State) (k : BitVec 4) (t : BitVec 8),
    let d := s.dev
    let warm := fget d Reg.MEM_THERM_CFG Fd.MEM_THERM_CFG_warm
    let hot := fget d Reg.MEM_THERM_CFG Fd.MEM_THERM_CFG_hot
    let crit := fget d Reg.MEM_THERM_CFG Fd.MEM_THERM_CFG_crit
    let n := t.toNat
    alive d = true ∧ warm < hot ∧ hot < crit ∧ crit ≤ 94 ∧ n + 3 < warm ∧ stkState d k.toNat = 1) ∧
    (∃ (s : State) (v : Evac),
    let d := s.dev
    alive d = true ∧ d.mem.evacs = [v] ∧ v.dest = none) ∧
    (∃ (s : State) (i : BitVec 12) (w : BitVec 4) (v : Evac) (t : Nat × Nat),
    let d := s.dev
    let r := regionAt d i.toNat
    alive d = true ∧ twf Config.hbmFill d.mem.hbm = true ∧ d.mem.evacs = [v] ∧ v.region = i.toNat ∧ v.way = w.toNat ∧ v.dest = some t ∧ v.why = .hot ∧ tget false d.mem.fencing (r.ways.getD w.toNat (0, 0)).1 = false) :=
  ⟨⟨(wu fun d => wEv none (wAt (1000 * 3600000000000) (fset d Reg.MEM_CTRL Fd.MEM_CTRL_scrub_en 1))), 15, by decide +kernel⟩,
   ⟨(wu fun d => regionPut (wAt (1000 * 3600000000000) (fset d Reg.MEM_CTRL Fd.MEM_CTRL_scrub_en 1)) 8 { wEvR with scrub := true }), 15, 1342177279, by decide +kernel⟩,
   ⟨(wu fun d => wStk 15 2 (regionPut d 8 wEvR)), 15, 95, by decide +kernel⟩,
   ⟨(wu fun d => wStk 15 3 (regionPut d 8 wEvR)), 15, 94, by decide +kernel⟩,
   ⟨(wu fun d => wStk 15 2 (regionPut d 8 wEvR)), 15, 93, by decide +kernel⟩,
   ⟨(wu fun d => wStk 15 1 (regionPut d 8 wEvR)), 15, 90, by decide +kernel⟩,
   ⟨(wu fun d => wStk 15 2 (regionPut d 8 wEvR)), 15, 87, by decide +kernel⟩,
   ⟨(wu fun d => wStk 15 1 (regionPut d 8 wEvR)), 15, 85, by decide +kernel⟩,
   ⟨(wu fun d => wStk 15 1 (regionPut d 8 wEvR)), 15, 82, by decide +kernel⟩,
   ⟨(wu fun d => wStk 15 0 (regionPut d 8 wEvR)), 15, 84, by decide +kernel⟩,
   ⟨(wu fun d => wStk 15 1 (regionPut d 8 wEvR)), 15, 81, by decide +kernel⟩,
   ⟨(wu (wEv none)), (⟨8, 0, .hot, none⟩), by decide +kernel⟩,
   ⟨(wu fun d => wEv (some (0, 7)) (wBytes ((List.range 64).map (fun i => BitVec.ofNat 8 (i * 91 + 7))) (hbmRun d 64 [1, 2]))), 8, 0, (⟨8, 0, .hot, some (0, 7)⟩), ((0, 7)), by decide +kernel⟩⟩

theorem witness_MemoryLimitsAreKept :
    (∃ (s : State) (who : Req),
    let d := s.dev
    BusReady d ∧ reqSecure d who = true) ∧
    (∃ (s : State) (who : Req),
    let d := s.dev
    BusReady d ∧ reqSecure d who = true) ∧
    (∃ (s : State) (who : Req) (k : BitVec 4) (t : BitVec 8),
    let d := s.dev
    BusReady d ∧ reqSecure d who = true ∧ 95 ≤ t.toNat ∧ stkState d k.toNat ≠ 4) :=
  ⟨⟨(wu id), .mgmt, by decide +kernel⟩,
   ⟨(wu id), .mgmt, by decide +kernel⟩,
   ⟨(wu id), .mgmt, 15, 95, by decide +kernel⟩⟩

theorem witness_RegionCommands :
    (∃ (s : State) (h : CmdHdr) (p : List Byte) (i : _) (r : _),
    let d := dequeue s.dev h 0x0502
    Admitted 0x0502 false false h s.dev ∧ p.length = 4 ∧ regionOf d (field p 0 4) = some (i, r) ∧ 16 ≤ i ∧ (r.secure = true → h.world = true) ∧ regionInUse d (field p 0 4) i = false) ∧
    (∃ (s : State) (h : CmdHdr) (p : List Byte) (i : _) (r : _),
    let d := dequeue s.dev h 0x0503
    Admitted 0x0503 false true h s.dev ∧ p.length = 4 ∧ handleOk (field p 0 4) = true ∧ regionOf d (field p 0 4) = some (i, r) ∧ (r.secure = true → h.world = true)) ∧
    (∃ (s : State) (h : CmdHdr) (p : List Byte),
    Admitted 0x0503 false true h s.dev ∧ p.length = 4 ∧ handleOk (field p 0 4) = false) ∧
    (∃ (s : State) (h : CmdHdr) (p : List Byte),
    let d := dequeue s.dev h 0x0503
    Admitted 0x0503 false true h s.dev ∧ p.length = 4 ∧ handleOk (field p 0 4) = true ∧ regionOf d (field p 0 4) = none) ∧
    (∃ (s : State) (h : CmdHdr) (p : List Byte) (i : _) (r : _),
    let d := dequeue s.dev h 0x0504
    let key := h.src.toNat * 2 ^ 32 + h.tag.toNat
    Admitted 0x0504 false false h s.dev ∧ p.length = 16 + field p 12 4 ∧ field p 12 4 ≤ 2048 ∧ regionOf d (field p 0 4) = some (i, r) ∧ (r.secure = true → h.world = true) ∧ field p 4 8 + field p 12 4 ≤ regionBytes r ∧ tget 0 d.cmd.rwBad key = 0) ∧
    (∃ (s : State) (h : CmdHdr) (p : List Byte) (i : _) (r : _),
    let d := dequeue s.dev h 0x0505
    let o := field p 4 8
    let n := field p 12 4
    Admitted 0x0505 false true h s.dev ∧ p.length = 16 ∧ 1 ≤ n ∧ n ≤ 1048576 ∧ regionOf d (field p 0 4) = some (i, r) ∧ (r.secure = true → h.world = true) ∧ o + n ≤ regionBytes r ∧ (∀ j ∈ List.range n, poisoned d (regionLine r (o + j)) = false)) :=
  ⟨⟨(wu fun d => regionPut d 4095 (wRegion true 0)), (wHdr true .self), ([0, 1, 0x0F, 0xFF]), 4095, (wRegion true 0), by decide +kernel⟩,
   ⟨(wu fun d => regionPut d 4095 (wRegion true 0)), (wHdr true .self), ([0, 1, 0x0F, 0xFF]), 4095, (wRegion true 0), by decide +kernel⟩,
   ⟨(wu id), (wHdr true .self), ([0, 1, 0x10, 0x08]), by decide +kernel⟩,
   ⟨(wu fun d => regionPut d 4095 (wRegion true 0)), (wHdr true .self), ([0, 2, 0x0F, 0xFF]), by decide +kernel⟩,
   ⟨(wu fun d => regionPut d 4095 (wRegion true 0)), (wHdr true .self), ([0, 1, 0x0F, 0xFF] ++ beBytes 8 (4 * 2097152 - 2) ++ beBytes 4 2 ++ [8, 9]), 4095, (wRegion true 0), by decide +kernel⟩,
   ⟨(wu fun d => regionPut d 4095 (wRegion true 0)), (wHdr true .self), ([0, 1, 0x0F, 0xFF] ++ beBytes 8 (4 * 2097152 - 3) ++ beBytes 4 3), 4095, (wRegion true 0), by decide +kernel⟩⟩

theorem witness_CodewordsAndMessages :
    (∃ (s : State) (l : Fin 128) (cw : List Byte),
    let d := s.dev
    let w0 := interleave cw 0
    let w1 := interleave cw 1
    let r := [fecDecode w0, fecDecode w1]
    alive d = true ∧ l.val < 96 ∧ 6 ≤ linkStep d l.val ∧ linkStep d l.val ≤ 10 ∧ Decoded.bad ∉ r) ∧
    (∃ (s : State) (l : Fin 128) (cw : List Byte),
    let d := s.dev
    let x := dynOf d l.val
    let w0 := interleave cw 0
    let w1 := interleave cw 1
    let r := [fecDecode w0, fecDecode w1]
    let us := x.uncorr.filter (fun t => decide (ns d < t + 1000000)) ++ [ns d]
    alive d = true ∧ l.val < 96 ∧ 6 ≤ linkStep d l.val ∧ linkStep d l.val ≤ 10 ∧ Decoded.bad ∈ r ∧ (x.rxCut = true ∨ x.rxBuf.length < 32) ∧ us.length ≤ 64) ∧
    (∃ (s : State) (l : Fin 128) (m : List Byte),
    let d := s.dev
    let x := dynOf d l.val
    alive d = true ∧ 6 ≤ linkStep d l.val ∧ linkStep d l.val ≤ 10 ∧ linkEther d l.val = false ∧ byteAt m 0 = 2 ∧ linkStep d l.val = 6 ∧ x.held = false ∧ linkCtl d l.val Fd.LINK_CTRL_expect_en = false ∧ (l.val < 96 → bit (byteAt m 1) 7 = false)) ∧
    (∃ (s : State) (l : Fin 128) (m : List Byte),
    let d := s.dev
    alive d = true ∧ 6 ≤ linkStep d l.val ∧ linkStep d l.val ≤ 10 ∧ linkEther d l.val = false ∧ byteAt m 0 = 1 ∧ 96 ≤ l.val) ∧
    (∃ (s : State) (l : Fin 128) (m : List Byte) (a : _),
    let d := s.dev
    alive d = true ∧ 6 ≤ linkStep d l.val ∧ linkStep d l.val ≤ 10 ∧ linkEther d l.val = false ∧ byteAt m 0 = 0 ∧ l.val < 96 ∧ ackNext d l.val (field m 6 4) = some a ∧ bit (byteAt m 1) 7 = false) ∧
    (∃ (s : State) (l : Fin 128) (m : List Byte) (a : _),
    let d := s.dev
    let x := dynOf d l.val
    alive d = true ∧ 6 ≤ linkStep d l.val ∧ linkStep d l.val ≤ 10 ∧ linkEther d l.val = false ∧ byteAt m 0 = 0 ∧ l.val < 96 ∧ ackNext d l.val (field m 6 4) = some a ∧ bit (byteAt m 1) 7 = true ∧ (∀ b, x.nakAck = some b → b ≤ a) ∧ (x.naks.filter (fun n => decide (a < n.2))).length < 7) :=
  ⟨⟨(wu (wStep 95 6)), 95, (List.replicate 271 0 ++ [1]), by decide +kernel⟩,
   ⟨(wu fun d => wDyn 95 (fun x => { x with uncorr := [5] }) (wStep 95 10 (wAt 5000000 d))), 95, wCw, by decide +kernel, by decide +kernel, by decide +kernel, by decide +kernel, by simp [wCwBad], by decide +kernel⟩,
   ⟨(wu (wStep 95 6)), 95, ([2, 0] ++ List.replicate 12 0 ++ beBytes 3 0x123456 ++ [127, 0] ++ beBytes 8 0x1122334455667788 ++ [0, 0, 0]), by decide +kernel⟩,
   ⟨(wu (wStep 96 7)), 96, ([1, 0] ++ List.replicate 12 0 ++ List.replicate 15 1 ++ [8]), by decide +kernel⟩,
   ⟨(wu (wStep 95 9)), 95, ([0, 0] ++ beBytes 4 16 ++ beBytes 4 0xFFFFFFFF ++ List.replicate 22 0), 0, by decide +kernel⟩,
   ⟨(wu (wStep 95 9)), 95, ([0, 0x80] ++ beBytes 4 16 ++ beBytes 4 0xFFFFFFFF ++ List.replicate 22 0), 0, by decide +kernel⟩⟩

theorem witness_LinksComeAndGo :
    (∃ (s : State) (l : Fin 128),
    let d := s.dev
    alive d = true ∧ (linkStep d l.val = 1 ∨ linkStep d l.val = 2)) ∧
    (∃ (s : State) (l : Fin 128),
    let d := s.dev
    alive d = true ∧ linkStep d l.val = 3) ∧
    (∃ (s : State) (l : Fin 128) (i : BringInfo),
    let d := s.dev
    let lanes := i.lanes.toList.map BitVec.toNat
    alive d = true ∧ linkStep d l.val = 4 ∧ (lanes = [0, 1, 2, 3, 4, 5, 6, 7] ∨ lanes = [7, 6, 5, 4, 3, 2, 1, 0] ∨ (96 ≤ l.val ∧ ∀ j, j < 8 → j ∈ lanes))) ∧
    (∃ (s : State) (l : Fin 128) (i : BringInfo),
    let d := s.dev
    let lanes := i.lanes.toList.map BitVec.toNat
    alive d = true ∧ linkStep d l.val = 4 ∧ l.val < 96 ∧ lanes ≠ [0, 1, 2, 3, 4, 5, 6, 7] ∧ lanes ≠ [7, 6, 5, 4, 3, 2, 1, 0]) ∧
    (∃ (s : State) (l : Fin 128),
    let d := s.dev
    alive d = true ∧ linkStep d l.val = 5) ∧
    (∃ (s : State) (l : Fin 128),
    let d := s.dev
    alive d = true ∧ linkStep d l.val = 6 ∧ (dynOf d l.val).held = false) ∧
    (∃ (s : State) (l : Fin 128),
    let d := s.dev
    alive d = true ∧ linkStep d l.val = 7 ∧ delayKnown d l.val = true ∧ bellAdmits d = true) ∧
    (∃ (s : State) (l : Fin 128),
    let d := s.dev
    let n := min 15 (fget d (Reg.LINK_STATUS l.val) Fd.LINK_STATUS_tries_used + 1)
    alive d = true ∧ 1 ≤ linkStep d l.val ∧ linkStep d l.val ≤ 7 ∧ (linkStep d l.val = 7 → delayKnown d l.val = false) ∧ (dynOf d l.val).held = false ∧ (dynOf d l.val).stepAt + stepLimit (linkStep d l.val) ≤ ns d ∧ n < max 1 (fget d (Reg.LINK_CTRL l.val) Fd.LINK_CTRL_tries)) ∧
    (∃ (s : State) (l : Fin 128),
    let d := s.dev
    let n := min 15 (fget d (Reg.LINK_STATUS l.val) Fd.LINK_STATUS_tries_used + 1)
    alive d = true ∧ 1 ≤ linkStep d l.val ∧ linkStep d l.val ≤ 7 ∧ (linkStep d l.val = 7 → delayKnown d l.val = false) ∧ (dynOf d l.val).held = false ∧ (dynOf d l.val).stepAt + stepLimit (linkStep d l.val) ≤ ns d ∧ max 1 (fget d (Reg.LINK_CTRL l.val) Fd.LINK_CTRL_tries) ≤ n) ∧
    (∃ (s : State) (l : Fin 128) (t : _),
    let d := s.dev
    alive d = true ∧ (dynOf d l.val).restart = some t ∧ t ≤ ns d ∧ linkStep d l.val = 0 ∧ linkLoop d l.val = 0) ∧
    (∃ (s : State) (l : Fin 128),
    let d := s.dev
    alive d = true ∧ (linkStep d l.val = 8 ∨ (linkStep d l.val = 7 ∧ delayKnown d l.val = true)) ∧ bellAdmits d = true) ∧
    (∃ (s : State) (l : Fin 128),
    let d := s.dev
    alive d = true ∧ linkCarries d l.val = true) ∧
    (∃ (s : State) (l : Fin 128),
    let d := s.dev
    alive d = true ∧ linkStep d l.val = 9) ∧
    (∃ (s : State) (l : Fin 128) (t : _),
    let d := s.dev
    alive d = true ∧ linkStep d l.val = 10 ∧ (dynOf d l.val).drain = some t ∧ t ≤ ns d) ∧
    (∃ (s : State) (l : Fin 128),
    let d := s.dev
    alive d = true ∧ linkCarries d l.val = true ∧ linkLoop d l.val = 0) ∧
    (∃ (s : State) (l : Fin 128),
    let d := s.dev
    alive d = true ∧ linkStep d l.val = 0) :=
  ⟨⟨(wu (wStep 127 2)), 127, by decide +kernel⟩,
   ⟨(wu (wStep 127 3)), 127, by decide +kernel⟩,
   ⟨(wu (wStep 96 4)), 96, (wInfo #v[1, 0, 2, 3, 4, 5, 7, 6]), by decide +kernel⟩,
   ⟨(wu (wStep 95 4)), 95, (wInfo #v[1, 0, 2, 3, 4, 5, 7, 6]), by decide +kernel⟩,
   ⟨(wu (wStep 127 5)), 127, by decide +kernel⟩,
   ⟨(wu (wStep 127 6)), 127, by decide +kernel⟩,
   ⟨(wu fun d => wKnown 127 (wLock (wStep 127 7 d))), 127, by decide +kernel⟩,
   ⟨(wu fun d => wAt 100000 (fset (wStep 127 7 d) (Reg.LINK_STATUS 127) Fd.LINK_STATUS_tries_used 2)), 127, by decide +kernel⟩,
   ⟨(wu fun d => wAt 100000 (fset (wStep 127 7 d) (Reg.LINK_STATUS 127) Fd.LINK_STATUS_tries_used 15)), 127, by decide +kernel⟩,
   ⟨(wu fun d => wAt 1000000 (wDyn 127 (fun x => { x with restart := some 1000000, powered := true }) (fset (fset (fset (fset d (Reg.LINK_CTRL 127) Fd.LINK_CTRL_en 1) (Reg.LINK_STATUS 127) Fd.LINK_STATUS_present 1) (Reg.LINK_STATUS 127) Fd.LINK_STATUS_latch_closed 1) Reg.TOP_STATUS Fd.TOP_STATUS_ready 1))), 127, 1000000, by decide +kernel⟩,
   ⟨(wu fun d => wKnown 127 (wLock (fset (wStep 127 7 d) (Reg.LINK_STATUS 127) Fd.LINK_STATUS_tries_used 2))), 127, by decide +kernel⟩,
   ⟨(wu (wLink 127 3 1)), 127, by decide +kernel⟩,
   ⟨(wu (wLink 127 3 1)), 127, by decide +kernel⟩,
   ⟨(wu fun d => wAt 10000 (wDyn 127 (fun x => { x with drain := some 10000, again := true }) (wStep 127 10 (wLink 127 3 1 d)))), 127, 10000, by decide +kernel⟩,
   ⟨(wu (wLink 127 3 1)), 127, by decide +kernel⟩,
   ⟨(wu fun d => fset (fset (fset d (Reg.LINK_CTRL 127) Fd.LINK_CTRL_en 1) Reg.TOP_STATUS Fd.TOP_STATUS_ready 1) (Reg.LINK_CTRL 127) Fd.LINK_CTRL_auto_up 1), 127, by decide +kernel⟩⟩

theorem witness_ChainsAndEncapsulation :
    (∃ (s : State),
    let d := s.dev
    alive d = true) ∧
    (∃ (s : State) (p la : BitVec 128),
    let d := s.dev
    let known := fun (j : Nat) (p la : BitVec 128) => p.toNat.testBit j = fbit d (Reg.LINK_STATUS j) Fd.LINK_STATUS_present ∧ la.toNat.testBit j = fbit d (Reg.LINK_STATUS j) Fd.LINK_STATUS_latch_closed ∧ (dynOf d j).scanN = 0
    alive d = true ∧ (∀ j, j < 128 → known j p la)) ∧
    (∃ (s : State) (p la : BitVec 128) (l : Fin 128),
    let d := s.dev
    let known := fun (j : Nat) (p la : BitVec 128) => p.toNat.testBit j = fbit d (Reg.LINK_STATUS j) Fd.LINK_STATUS_present ∧ la.toNat.testBit j = fbit d (Reg.LINK_STATUS j) Fd.LINK_STATUS_latch_closed ∧ (dynOf d j).scanN = 0
    alive d = true ∧ (∀ j, j < 128 → j ≠ l.val → known j p la) ∧ fbit d (Reg.LINK_STATUS l.val) Fd.LINK_STATUS_present = true ∧ p.toNat.testBit l.val = false ∧ la.toNat.testBit l.val = false ∧ (dynOf d l.val).scan = 0 ∧ (dynOf d l.val).scanN = 2 ∧ linkStep d l.val = 0 ∧ linkLoop d l.val = 0) ∧
    (∃ (s : State),
    let d := s.dev
    alive d = true) ∧
    (∃ (s : State) (l : Fin 128) (r : Nat) (mac : List Byte),
    let d := s.dev
    running d = true ∧ rsvOf d l.val = some r ∧ linkCarries d l.val = true ∧ linkEther d l.val = true ∧ fbit d (Reg.RSV_CFG r) Fd.RSV_CFG_use = false ∧ 9216 < mac.length + 4) ∧
    (∃ (s : State) (l : Fin 128) (r : Nat) (mac : List Byte) (fcs : Bool),
    let d := s.dev
    running d = true ∧ rsvOf d l.val = some r ∧ linkCarries d l.val = true ∧ linkEther d l.val = true ∧ fbit d (Reg.RSV_CFG r) Fd.RSV_CFG_use = false ∧ mac.length + 4 ≤ 9216 ∧ (fcs = false ∨ mac.take 6 ≠ macOf d (Reg.RSV_OWN_MAC_0 r))) ∧
    (∃ (s : State) (l : Fin 128) (r : Nat) (mac : List Byte) (fcs : Bool) (f : List Byte),
    let d := s.dev
    running d = true ∧ rsvOf d l.val = some r ∧ linkCarries d l.val = true ∧ linkEther d l.val = true ∧ fbit d (Reg.RSV_CFG r) Fd.RSV_CFG_use = false ∧ mac = macOf d (Reg.RSV_OWN_MAC_0 r) ++ macOf d (Reg.RSV_PEER_MAC_0 r) ++ beBytes 2 (fget d Reg.RSV_ETYPE Fd.RSV_ETYPE_etype) ++ (f ++ beBytes 4 (crc32c f) ++ beBytes 2 (f.length + 8) ++ [0, 0]) ∧ fcs = true ∧ fbit d (Reg.RSV_CFG r) Fd.RSV_CFG_vlan_en = false ∧ lenOk (f ++ beBytes 4 (crc32c f) ++ beBytes 2 (f.length + 8) ++ [0, 0]) = true) :=
  ⟨⟨(wu (wLink 127 3 1)), by decide +kernel⟩,
   ⟨(wu fun d => fset (fset d (Reg.LINK_STATUS 127) Fd.LINK_STATUS_present 1) (Reg.LINK_STATUS 127) Fd.LINK_STATUS_latch_closed 1), (2 ^ 127), (2 ^ 127), by decide +kernel⟩,
   ⟨(wu fun d => wDyn 127 (fun x => { x with powered := true, scanN := 2 }) (fset (fset d (Reg.LINK_STATUS 127) Fd.LINK_STATUS_present 1) (Reg.LINK_STATUS 127) Fd.LINK_STATUS_latch_closed 1)), 0, 0, 127, by decide +kernel⟩,
   ⟨(wu fun d => fset (wAt 600000000 (fset d (Reg.LINK_FAULT 5) Fd.LINK_FAULT_failed 1)) (Reg.PORT_LED 127) Fd.PORT_LED_fault_sw 3), by decide +kernel⟩,
   ⟨(wu wEnc), 127, ((3 : Nat)), (List.replicate 9213 0), by decide +kernel⟩,
   ⟨(wu wEnc), 127, ((3 : Nat)), (List.replicate 9212 1), true, by decide +kernel⟩,
   ⟨(wu wEnc), 127, ((3 : Nat)), (List.replicate 12 0 ++ beBytes 2 (fget State.reset.dev Reg.RSV_ETYPE Fd.RSV_ETYPE_etype) ++ (wEncF ++ beBytes 4 (crc32c wEncF) ++ beBytes 2 (wEncF.length + 8) ++ [0, 0])), true, wEncF, by decide +kernel⟩⟩

theorem witness_FlashConnectionsServe :
    (∃ (s : State) (c : BitVec 6) (x : Flash),
    let d := s.dev
    alive d = true ∧ flashAt d c.toNat = some x ∧ x.error = false ∧ x.entry < 4 ∧ (∃ t ∈ x.xfers, t.sent = true) ∧ x.at_ + 4096 * 2 ^ fget d (Reg.RSV_CFG x.entry) Fd.RSV_CFG_ack_exp ≤ ns d ∧ x.tries < 7) ∧
    (∃ (s : State) (c : BitVec 6) (x : Flash),
    let d := s.dev
    alive d = true ∧ flashAt d c.toNat = some x ∧ x.error = false ∧ x.entry < 4 ∧ (∃ t ∈ x.xfers, t.sent = true) ∧ x.at_ + 4096 * 2 ^ fget d (Reg.RSV_CFG x.entry) Fd.RSV_CFG_ack_exp ≤ ns d ∧ 7 ≤ x.tries) ∧
    (∃ (s : State) (c : BitVec 6) (x : Flash),
    let d := s.dev
    alive d = true ∧ flashAt d c.toNat = some x ∧ x.error = false ∧ x.entry < 4) ∧
    (∃ (s : State) (c : BitVec 6) (x : Flash) (l : Fin 128) (r : Nat),
    let d := s.dev
    alive d = true ∧ flashAt d c.toNat = some x ∧ x.error = false ∧ x.entry < 4 ∧ rsvOf d l.val = some r) ∧
    (∃ (s : State) (c : BitVec 6) (x : Flash) (hd : Word) (off : BitVec 64) (len : BitVec 32) (i : Nat) (r : Region),
    let d := s.dev
    alive d = true ∧ flashAt d c.toNat = some x ∧ x.error = false ∧ x.entry < 4 ∧ regionOf d hd.toNat = some (i, r) ∧ (∃ t ∈ x.xfers, t.region = hd.toNat) ∧ r.cls = 6 ∧ off.toNat + len.toNat ≤ regionBytes r) ∧
    (∃ (s : State) (c : BitVec 6) (x : Flash) (hd : Word) (off : BitVec 64) (len : BitVec 32) (i : Nat) (r : Region),
    let d := s.dev
    alive d = true ∧ flashAt d c.toNat = some x ∧ x.error = false ∧ x.entry < 4 ∧ regionOf d hd.toNat = some (i, r) ∧ ((∀ t ∈ x.xfers, t.region ≠ hd.toNat) ∨ r.cls ≠ 6 ∨ regionBytes r < off.toNat + len.toNat)) ∧
    (∃ (s : State) (c : BitVec 6) (x : Flash) (pre post : List Transfer) (t : Transfer) (r : ReplyTo),
    let d := s.dev
    alive d = true ∧ flashAt d c.toNat = some x ∧ x.error = false ∧ x.entry < 4 ∧ x.xfers = pre ++ t :: post ∧ (∀ u ∈ pre, u.sent = false) ∧ t.sent = true ∧ t.reply = some r ∧ t.manif = false) ∧
    (∃ (s : State) (h : CmdHdr) (p : List Byte) (x : _),
    let d := dequeue s.dev h 0x0731
    Admitted 0x0731 true false h s.dev ∧ p.length = 1 ∧ byteAt p 0 < 64 ∧ flashAt d (byteAt p 0) = some x ∧ x.xfers = []) ∧
    (∃ (s : State) (h : CmdHdr) (p : List Byte) (op : Nat) (w : Bool) (c : Instr) (x : _) (i : _) (g : _),
    let d := dequeue s.dev h op
    ((op = 0x0732 ∧ w = false ∧ c = .flashRead h p) ∨ (op = 0x0733 ∧ w = true ∧ c = .flashWrite h p)) ∧ Admitted op true false h s.dev ∧ p.length = 28 ∧ byteAt p 0 < 64 ∧ field p 1 3 = 0 ∧ flashAt d (byteAt p 0) = some x ∧ regionOf d (field p 16 4) = some (i, g) ∧ g.cls = 6 ∧ field p 20 8 + field p 12 4 * x.bsize ≤ regionBytes g ∧ x.error = false ∧ x.xfers.length < x.depth) ∧
    (∃ (s : State) (h : CmdHdr) (p : List Byte) (op : Nat) (w : Bool) (c : Instr) (x : _) (i : _) (g : _),
    let d := dequeue s.dev h op
    ((op = 0x0732 ∧ w = false ∧ c = .flashRead h p) ∨ (op = 0x0733 ∧ w = true ∧ c = .flashWrite h p)) ∧ Admitted op true false h s.dev ∧ p.length = 28 ∧ byteAt p 0 < 64 ∧ field p 1 3 = 0 ∧ flashAt d (byteAt p 0) = some x ∧ regionOf d (field p 16 4) = some (i, g) ∧ g.cls = 6 ∧ field p 20 8 + field p 12 4 * x.bsize ≤ regionBytes g ∧ x.error = false ∧ x.depth ≤ x.xfers.length) ∧
    (∃ (s : State) (h : CmdHdr) (p : List Byte) (op : Nat) (w : Bool) (c : Instr) (x : _) (i : _) (g : _),
    let d := dequeue s.dev h op
    ((op = 0x0732 ∧ w = false ∧ c = .flashRead h p) ∨ (op = 0x0733 ∧ w = true ∧ c = .flashWrite h p)) ∧ Admitted op true false h s.dev ∧ p.length = 28 ∧ byteAt p 0 < 64 ∧ field p 1 3 = 0 ∧ flashAt d (byteAt p 0) = some x ∧ regionOf d (field p 16 4) = some (i, g) ∧ g.cls = 6 ∧ field p 20 8 + field p 12 4 * x.bsize ≤ regionBytes g ∧ x.error = true) :=
  ⟨⟨(wu (wFl (wFlash [wXfer false, wXfer true] 6))), 63, (wFlash [wXfer false, wXfer true] 6), by decide +kernel⟩,
   ⟨(wu (wFl (wFlash [wXfer false, wXfer true] 7))), 63, (wFlash [wXfer false, wXfer true] 7), by decide +kernel⟩,
   ⟨(wu (wFl (wFlash [wXfer false, wXfer true] 0))), 63, (wFlash [wXfer false, wXfer true] 0), by decide +kernel⟩,
   ⟨(wu fun d => fset (fset (wFl (wFlash [] 0) d) (Reg.RSV_CFG 3) Fd.RSV_CFG_pfc_en 1) (Reg.RSV_CFG 3) Fd.RSV_CFG_pfc_prio 7), 63, (wFlash [] 0), 127, ((3 : Nat)), by decide +kernel⟩,
   ⟨(wu (wFl (wFlash [wXfer true] 3))), 63, (wFlash [wXfer true] 3), 0x00010008, 8388600, 8, ((8 : Nat)), (wRegion true 6), by decide +kernel⟩,
   ⟨(wu (wFl (wFlash [wXfer true] 3))), 63, (wFlash [wXfer true] 3), 0x00010008, 8388600, 9, ((8 : Nat)), (wRegion true 6), by decide +kernel⟩,
   ⟨(wu (wFl (wFlash [wXfer false, wXfer true] 0))), 63, (wFlash [wXfer false, wXfer true] 0), ([wXfer false]), [], (wXfer true), (⟨5, 4, 0x0733, true, 7, 0⟩), by decide +kernel⟩,
   ⟨(wu (wFl (wFlash [] 0))), (wHdr true .self), [63], (wFlash [] 0), by decide +kernel⟩,
   ⟨(wu (wFl (wFlash [wXfer true] 0))), (wHdr true .self), ([63, 0, 0, 0] ++ beBytes 8 5 ++ beBytes 4 2 ++ beBytes 4 0x00010008 ++ beBytes 8 (4 * 2097152 - 1024)), 0x0733, true, (.flashWrite (wHdr true .self) ([63, 0, 0, 0] ++ beBytes 8 5 ++ beBytes 4 2 ++ beBytes 4 0x00010008 ++ beBytes 8 (4 * 2097152 - 1024))), (wFlash [wXfer true] 0), ((8 : Nat)), (wRegion true 6), by decide +kernel⟩,
   ⟨(wu (wFl (wFlash [wXfer true, wXfer false] 0))), (wHdr true .self), ([63, 0, 0, 0] ++ beBytes 8 5 ++ beBytes 4 2 ++ beBytes 4 0x00010008 ++ beBytes 8 (4 * 2097152 - 1024)), 0x0733, true, (.flashWrite (wHdr true .self) ([63, 0, 0, 0] ++ beBytes 8 5 ++ beBytes 4 2 ++ beBytes 4 0x00010008 ++ beBytes 8 (4 * 2097152 - 1024))), (wFlash [wXfer true, wXfer false] 0), ((8 : Nat)), (wRegion true 6), by decide +kernel⟩,
   ⟨(wu (wFl ({ wFlash [] 0 with error := true }))), (wHdr true .self), ([63, 0, 0, 0] ++ beBytes 8 5 ++ beBytes 4 2 ++ beBytes 4 0x00010008 ++ beBytes 8 (4 * 2097152 - 1024)), 0x0733, true, (.flashWrite (wHdr true .self) ([63, 0, 0, 0] ++ beBytes 8 5 ++ beBytes 4 2 ++ beBytes 4 0x00010008 ++ beBytes 8 (4 * 2097152 - 1024))), ({ wFlash [] 0 with error := true }), ((8 : Nat)), (wRegion true 6), by decide +kernel⟩⟩

theorem witness_FaultsOpenAndEndWindows :
    (∃ (s : State),
    let d := s.dev
    alive d = true) ∧
    (∃ (s : State) (n : BitVec 10),
    let d := s.dev
    let c := srcOf d n.toNat
    alive d = true ∧ c.st = .window ∧ c.until_ ≤ ns d ∧ fbit d (Reg.REF_WINDOW (c.sev - 1)) Fd.REF_WINDOW_act_en = false) ∧
    (∃ (s : State) (n : BitVec 10),
    let d := s.dev
    let c := srcOf d n.toNat
    alive d = true ∧ c.st = .window ∧ c.until_ ≤ ns d ∧ fbit d (Reg.REF_WINDOW (c.sev - 1)) Fd.REF_WINDOW_act_en = true ∧ c.sev = 1) ∧
    (∃ (s : State) (n : BitVec 10),
    let d := s.dev
    let c := srcOf d n.toNat
    alive d = true ∧ c.st = .window ∧ c.until_ ≤ ns d ∧ fbit d (Reg.REF_WINDOW (c.sev - 1)) Fd.REF_WINDOW_act_en = true ∧ (c.sev = 2 ∨ (c.sev = 3 ∧ 944 ≤ n.toNat))) ∧
    (∃ (s : State) (n : BitVec 10),
    let d := s.dev
    let c := srcOf d n.toNat
    alive d = true ∧ c.st = .window ∧ c.until_ ≤ ns d ∧ fbit d (Reg.REF_WINDOW (c.sev - 1)) Fd.REF_WINDOW_act_en = true ∧ c.sev = 4) ∧
    (∃ (s : State) (n : BitVec 10),
    let d := s.dev
    let c := srcOf d n.toNat
    alive d = true ∧ c.st = .window ∧ c.until_ ≤ ns d ∧ fbit d (Reg.REF_WINDOW (c.sev - 1)) Fd.REF_WINDOW_act_en = true ∧ c.sev = 3 ∧ n.toNat < 128) ∧
    (∃ (s : State) (n : BitVec 10),
    let d := s.dev
    let c := srcOf d n.toNat
    let span := 3600 * 10 ^ 9 * max 1 (fget d Reg.REF_QUIET Fd.REF_QUIET_sticky_hours)
    let hist := c.recov.filter (fun t => decide (ns d ≤ t + span))
    alive d = true ∧ c.st = .fault ∧ c.last + 100000000 * max 1 (fget d Reg.REF_QUIET Fd.REF_QUIET_quiet) ≤ ns d ∧ hist.length + 1 < max 1 (fget d Reg.REF_QUIET Fd.REF_QUIET_sticky_count) ∧ c.fenced = false) ∧
    (∃ (s : State) (n : BitVec 10),
    let d := s.dev
    let c := srcOf d n.toNat
    let span := 3600 * 10 ^ 9 * max 1 (fget d Reg.REF_QUIET Fd.REF_QUIET_sticky_hours)
    let hist := c.recov.filter (fun t => decide (ns d ≤ t + span))
    alive d = true ∧ c.st = .fault ∧ c.last + 100000000 * max 1 (fget d Reg.REF_QUIET Fd.REF_QUIET_quiet) ≤ ns d ∧ max 1 (fget d Reg.REF_QUIET Fd.REF_QUIET_sticky_count) ≤ hist.length + 1) :=
  ⟨⟨(wu id), by decide +kernel⟩,
   ⟨(wu fun d => wAt 5 (wSrc 1023 (wWin 1) (fset d (Reg.REF_WINDOW 0) Fd.REF_WINDOW_act_en 0))), 1023, by decide +kernel⟩,
   ⟨(wu fun d => wAt 5 (wSrc 1023 (wWin 1) (fset d (Reg.REF_WINDOW 0) Fd.REF_WINDOW_act_en 1))), 1023, by decide +kernel⟩,
   ⟨(wu fun d => wAt 5 (wSrc 944 (wWin 3) (fset d (Reg.REF_WINDOW 2) Fd.REF_WINDOW_act_en 1))), 944, by decide +kernel⟩,
   ⟨(wu fun d => wAt 5 (wSrc 1023 (wWin 4) (fset d (Reg.REF_WINDOW 3) Fd.REF_WINDOW_act_en 1))), 1023, by decide +kernel⟩,
   ⟨(wu fun d => wAt 5 (wSrc 127 (wWin 3) (wLink 127 3 1 (fset d (Reg.REF_WINDOW 2) Fd.REF_WINDOW_act_en 1)))), 127, by decide +kernel⟩,
   ⟨(wu fun d => wAt (100000000 * 600) (wSrc 1023 wFlt (fset (fset d Reg.REF_QUIET Fd.REF_QUIET_quiet 600) Reg.REF_QUIET Fd.REF_QUIET_sticky_count 3))), 1023, by decide +kernel⟩,
   ⟨(wu fun d => wAt (100000000 * 600) (wSrc 1023 wFlt (fset (fset d Reg.REF_QUIET Fd.REF_QUIET_quiet 600) Reg.REF_QUIET Fd.REF_QUIET_sticky_count 2))), 1023, by decide +kernel⟩⟩

theorem witness_RefereeCommandsAct :
    (∃ (s : State) (who : Req) (n : BitVec 10) (v : Word),
    let d := s.dev
    let c := srcOf d n.toNat
    BusReady d ∧ reqSecure d who = true ∧ Unlocked d who 0x010000 ∧ bits v.toNat 9 0 = n.toNat ∧ c.st = .window) ∧
    (∃ (s : State) (who : Req) (n : BitVec 10) (v : Word),
    let d := s.dev
    let c := srcOf d n.toNat
    BusReady d ∧ reqSecure d who = true ∧ Unlocked d who 0x010000 ∧ bits v.toNat 9 0 = n.toNat ∧ c.st = .fault ∧ c.lateOk = true) ∧
    (∃ (s : State) (who : Req) (n : BitVec 10) (v : Word),
    let d := s.dev
    let c := srcOf d n.toNat
    BusReady d ∧ reqSecure d who = true ∧ Unlocked d who 0x010000 ∧ bits v.toNat 9 0 = n.toNat ∧ c.st ≠ .window ∧ ¬(c.st = .fault ∧ c.lateOk = true)) ∧
    (∃ (s : State) (who : Req) (n : BitVec 10) (v : Word),
    let d := s.dev
    let c := srcOf d n.toNat
    BusReady d ∧ reqSecure d who = true ∧ Unlocked d who 0x010000 ∧ bits v.toNat 9 0 = n.toNat ∧ (c.st = .fault ∨ c.st = .sticky) ∧ c.fenced = false) ∧
    (∃ (s : State) (who : Req) (n : BitVec 10) (v : Word),
    let d := s.dev
    let c := srcOf d n.toNat
    BusReady d ∧ reqSecure d who = true ∧ Unlocked d who 0x010000 ∧ bits v.toNat 9 0 = n.toNat ∧ (c.st = .window ∨ c.st = .idle)) ∧
    (∃ (s : State) (who : Req) (n : BitVec 10) (v : Word),
    let d := s.dev
    BusReady d ∧ reqSecure d who = true ∧ Unlocked d who 0x010000 ∧ bits v.toNat 9 0 = n.toNat ∧ 1008 ≤ n.toNat) ∧
    (∃ (s : State) (who : Req) (n : BitVec 10) (v : Word),
    let d := s.dev
    BusReady d ∧ reqSecure d who = true ∧ Unlocked d who 0x010000 ∧ bits v.toNat 9 0 = n.toNat ∧ n.toNat < 1008) ∧
    (∃ (s : State) (r : _) (rest : _),
    let d := s.dev
    alive d = true ∧ d.ref.ring = r :: rest ∧ d.sit.restart = none) :=
  ⟨⟨(wu fun d => wUnl 0x010000 (wSrc 1023 (wWin 2) d)), .mgmt, 1023, ((1023 : Word)), by decide +kernel⟩,
   ⟨(wu fun d => wUnl 0x010000 (wSrc 1023 (wFlt) d)), .mgmt, 1023, ((1023 : Word)), by decide +kernel⟩,
   ⟨(wu fun d => wUnl 0x010000 (wSrc 1023 ({ wFlt with st := .sticky }) d)), .mgmt, 1023, ((1023 : Word)), by decide +kernel⟩,
   ⟨(wu fun d => wUnl 0x010000 (wSrc 1023 ({ wFlt with st := .sticky }) d)), .mgmt, 1023, ((1023 : Word)), by decide +kernel⟩,
   ⟨(wu fun d => wUnl 0x010000 (wSrc 1023 (wWin 2) d)), .mgmt, 1023, ((1023 : Word)), by decide +kernel⟩,
   ⟨(wu fun d => wUnl 0x010000 (wSrc 1008 (Src.idle0) d)), .mgmt, 1008, ((1008 : Word)), by decide +kernel⟩,
   ⟨(wu fun d => wUnl 0x010000 (wSrc 1007 (Src.idle0) d)), .mgmt, 1007, ((1007 : Word)), by decide +kernel⟩,
   ⟨(wu fun d => { d with ref := { d.ref with ring := [List.replicate 32 5] } }), (List.replicate 32 5), [], by decide +kernel⟩⟩

theorem witness_FieldTestsRunInTurn :
    (∃ (s : State) (h : CmdHdr) (p : List Byte) (kind : FtKind) (t : Nat),
    let d := dequeue s.dev h 0x0701
    p.length = 8 ∧ byteAt p 0 = ftCode kind ∧ byteAt p 1 = 0 ∧ Admitted 0x0701 (decide (kind ≠ .region)) false h s.dev ∧ (kind = .region → (regionOf d (field p 4 4)).any (fun g => decide (g.1 = t ∧ (g.2.secure = true → h.world = true))) = true) ∧ (kind ≠ .region → t = field p 2 2 ∧ t < ftTargets kind ∧ field p 4 4 = 0) ∧ ftDead d kind t = true) ∧
    (∃ (s : State) (h : CmdHdr) (p : List Byte) (kind : FtKind) (t : Nat),
    let d := dequeue s.dev h 0x0701
    p.length = 8 ∧ byteAt p 0 = ftCode kind ∧ byteAt p 1 = 0 ∧ Admitted 0x0701 (decide (kind ≠ .region)) false h s.dev ∧ (kind = .region → (regionOf d (field p 4 4)).any (fun g => decide (g.1 = t ∧ (g.2.secure = true → h.world = true))) = true) ∧ (kind ≠ .region → t = field p 2 2 ∧ t < ftTargets kind ∧ field p 4 4 = 0) ∧ ftDead d kind t = false ∧ (kind = .desk → d.fab.refill = none) ∧ (∀ x ∈ d.int.queue, ¬(x.kind = kind ∧ x.target = t)) ∧ d.int.queue.length < 64) ∧
    (∃ (s : State) (h : CmdHdr) (p : List Byte) (kind : FtKind) (t : Nat),
    let d := dequeue s.dev h 0x0701
    p.length = 8 ∧ byteAt p 0 = ftCode kind ∧ byteAt p 1 = 0 ∧ Admitted 0x0701 (decide (kind ≠ .region)) false h s.dev ∧ (kind = .region → (regionOf d (field p 4 4)).any (fun g => decide (g.1 = t ∧ (g.2.secure = true → h.world = true))) = true) ∧ (kind ≠ .region → t = field p 2 2 ∧ t < ftTargets kind ∧ field p 4 4 = 0) ∧ ftDead d kind t = false ∧ (kind = .desk → d.fab.refill = none) ∧ (∀ x ∈ d.int.queue, ¬(x.kind = kind ∧ x.target = t)) ∧ 64 ≤ d.int.queue.length) ∧
    (∃ (s : State) (h : CmdHdr) (p : List Byte) (kind : FtKind) (t : Nat),
    let d := dequeue s.dev h 0x0701
    p.length = 8 ∧ byteAt p 0 = ftCode kind ∧ byteAt p 1 = 0 ∧ Admitted 0x0701 (decide (kind ≠ .region)) false h s.dev ∧ (kind = .region → (regionOf d (field p 4 4)).any (fun g => decide (g.1 = t ∧ (g.2.secure = true → h.world = true))) = true) ∧ (kind ≠ .region → t = field p 2 2 ∧ t < ftTargets kind ∧ field p 4 4 = 0) ∧ ftDead d kind t = false ∧ (kind = .desk → d.fab.refill = none) ∧ (∃ x ∈ d.int.queue, x.kind = kind ∧ x.target = t)) ∧
    (∃ (s : State) (x : FtEntry),
    let d := s.dev
    running d = true ∧ fbit d Reg.INT_CTRL Fd.INT_CTRL_ft_en = true ∧ d.int.queue = [x] ∧ x.running = false ∧ ftHow d x = .run) ∧
    (∃ (s : State) (x : FtEntry),
    let d := s.dev
    alive d = true ∧ d.int.queue = [x] ∧ x.running = true ∧ ftDrained d x.kind x.target = true) ∧
    (∃ (s : State) (k : _) (t : _),
    let d := s.dev
    alive d = true ∧ d.int.owed = [(k, t)] ∧ d.int.queue.length < 64 ∧ ftHas d k t = false) ∧
    (∃ (s : State) (u : BitVec 9) (t : Nat) (r : EngRow),
    let d := s.dev
    alive d = true ∧ d.int.drains = [(.engine, u.toNat, t)] ∧ t ≤ ns d ∧ engRow d u.toNat = some r) ∧
    (∃ (s : State) (u : BitVec 9) (t : Nat),
    let d := s.dev
    alive d = true ∧ d.int.drains = [(.huddle, u.toNat, t)] ∧ t ≤ ns d ∧ (∀ i ∈ d.hud.inst, i.unit ≠ u.toNat)) :=
  ⟨⟨(wu fun d => engTo d 63 3), (wHdr true .self), ([3, 0, 0, 63, 0, 0, 0, 0]), .engine, 63, by decide +kernel⟩,
   ⟨(wu fun d => wFtQ (List.replicate 63 ⟨.engine, 5, [wReq], false, false, false⟩) (wReg false 1 d)), (wHdr false .self), ([6, 0, 0, 0, 0, 1, 0, 8]), .region, 8, by decide +kernel⟩,
   ⟨(wu fun d => wFtQ (List.replicate 64 ⟨.engine, 5, [wReq], false, false, false⟩) d), (wHdr true .self), ([3, 0, 0, 63, 0, 0, 0, 0]), .engine, 63, by decide +kernel⟩,
   ⟨(wu fun d => wFtQ [⟨.engine, 63, [wReq], false, false, false⟩] d), (wHdr true .self), ([3, 0, 0, 63, 0, 0, 0, 0]), .engine, 63, by decide +kernel⟩,
   ⟨(wu fun d => fset (wFtQ [⟨.engine, 63, [wReq], false, false, false⟩] d) Reg.INT_CTRL Fd.INT_CTRL_ft_en 1), (⟨.engine, 63, [wReq], false, false, false⟩), by decide +kernel⟩,
   ⟨(wu fun d => wFtQ [⟨.engine, 63, [wReq], true, false, false⟩] (engTo d 63 2)), (⟨.engine, 63, [wReq], true, false, false⟩), by decide +kernel⟩,
   ⟨(wu fun d => { d with int := { d.int with owed := [(.engine, 63)] } }), .engine, ((63 : Nat)), by decide +kernel⟩,
   ⟨(wu fun d => wAt 5000 (engPut (wLsn { wShard with engines := 2 ^ 63 } [{ wRun .running with next := 64, done := 63 }] { d with int := { d.int with drains := [(.engine, 63, 5000)] } }) 63 (some ⟨1023, 63⟩))), 63, 5000, (⟨1023, 63⟩), by decide +kernel⟩,
   ⟨(wu fun d => wAt 5000 { d with int := { d.int with drains := [(.huddle, 15, 5000)] } }), 15, 5000, by decide +kernel⟩⟩

theorem witness_PartnerCommands :
    (∃ (s : State) (h : CmdHdr) (p : List Byte),
    let d := dequeue s.dev h 0x0710
    let c := field p 0 3
    Admitted 0x0710 true false h s.dev ∧ p.length = 4 ∧ byteAt p 3 = 0 ∧ cGroup c < 127 ∧ c % 2048 = 2047 ∧ c ≠ mgmtCoord d ∧ d.ckp.bound = false ∧ d.ckp.theirs = false) ∧
    (∃ (s : State) (h : CmdHdr) (p : List Byte),
    let d := dequeue s.dev h 0x0710
    let c := field p 0 3
    Admitted 0x0710 true false h s.dev ∧ p.length = 4 ∧ byteAt p 3 = 0 ∧ cGroup c < 127 ∧ c % 2048 = 2047 ∧ c ≠ mgmtCoord d ∧ d.ckp.bound = true ∧ partnerState d ≠ 3) ∧
    (∃ (s : State) (h : CmdHdr) (p : List Byte),
    Admitted 0x0711 true false h s.dev ∧ p = []) ∧
    (∃ (s : State) (h : CmdHdr) (p : List Byte),
    let d := dequeue s.dev h 0x0712
    Admitted 0x0712 true false h s.dev ∧ p = [] ∧ (partnerState d = 1 ∨ partnerState d = 2)) ∧
    (∃ (s : State) (h : CmdHdr) (p : List Byte),
    let d := dequeue s.dev h 0x0712
    Admitted 0x0712 true false h s.dev ∧ p = [] ∧ (partnerState d = 0 ∨ (partnerState d = 3 ∧ d.ckp.wasFull = false))) ∧
    (∃ (s : State) (h : CmdHdr) (p : List Byte),
    let d := dequeue s.dev h 0x0712
    Admitted 0x0712 true false h s.dev ∧ p = [] ∧ partnerState d = 3 ∧ d.ckp.wasFull = true) :=
  ⟨⟨(wu id), (wHdr true .self), ([0, 0x2F, 0xFF, 0]), by decide +kernel⟩,
   ⟨(wu (wPart 2)), (wHdr true .self), ([0, 0x2F, 0xFF, 0]), by decide +kernel⟩,
   ⟨(wu fun d => wInbox 2 [] [] d), (wHdr true .self), [], by decide +kernel⟩,
   ⟨(wu (wPart 2)), (wHdr true .self), [], by decide +kernel⟩,
   ⟨(wu (wPart 3)), (wHdr true .self), [], by decide +kernel⟩,
   ⟨(wu fun d => let d := wPart 3 d; { d with ckp := { d.ckp with wasFull := true, exports := [(0, wExp), (4095, [1, 2, 3, 4, 5]), (7, [1, 2, 3, 4, 0])], regions := [] } }), (wHdr true .self), [], by decide +kernel⟩⟩

theorem witness_MirrorsKeepStep :
    (∃ (s : State) (b : List Byte) (rest : List (List Byte)),
    let d := s.dev
    alive d = true ∧ d.ckp.inbox = b :: rest ∧ (d.ckp.bound = false ∨ mirrorEn d = false ∨ fSrc b ≠ rg d Reg.CKP_PARTNER % 2 ^ 24 ∨ partnerState d = 3)) ∧
    (∃ (s : State) (b : List Byte) (rest : List (List Byte)),
    let d := s.dev
    alive d = true ∧ d.ckp.inbox = b :: rest ∧ d.ckp.bound = true ∧ mirrorEn d = true ∧ fSrc b = rg d Reg.CKP_PARTNER % 2 ^ 24 ∧ (partnerState d = 1 ∨ partnerState d = 2) ∧ byteAt b 16 = 9) ∧
    (∃ (s : State) (b : List Byte) (rest : List (List Byte)),
    let d := s.dev
    let k := mirKey (byteAt b 16) (field b 18 2)
    let data := b.drop 32
    alive d = true ∧ d.ckp.inbox = b :: rest ∧ d.ckp.bound = true ∧ mirrorEn d = true ∧ fSrc b = rg d Reg.CKP_PARTNER % 2 ^ 24 ∧ (partnerState d = 1 ∨ partnerState d = 2) ∧ byteAt b 16 ≤ 4 ∧ field b 28 4 = crc32c data ∧ (tget none d.ckp.ins k).map (fun x => x.expect) ≠ some (field b 20 8) ∧ (tget none d.ckp.ins k = none → byteAt b 16 ≠ 0 ∧ field b 20 8 ≠ 0)) ∧
    (∃ (s : State) (b : List Byte) (rest : List (List Byte)),
    let d := s.dev
    let data := b.drop 32
    alive d = true ∧ d.ckp.inbox = b :: rest ∧ d.ckp.bound = true ∧ mirrorEn d = true ∧ fSrc b = rg d Reg.CKP_PARTNER % 2 ^ 24 ∧ (partnerState d = 1 ∨ partnerState d = 2) ∧ byteAt b 16 ≤ 5 ∧ field b 28 4 ≠ crc32c data) ∧
    (∃ (s : State) (b : List Byte) (rest : List (List Byte)),
    let d := s.dev
    alive d = true ∧ d.ckp.inbox = b :: rest ∧ d.ckp.bound = true ∧ mirrorEn d = true ∧ fSrc b = rg d Reg.CKP_PARTNER % 2 ^ 24 ∧ (partnerState d = 1 ∨ partnerState d = 2) ∧ byteAt b 16 = 8) ∧
    (∃ (s : State) (b : List Byte) (rest : List (List Byte)) (x : _) (g : _),
    let d := s.dev
    let e := { d with ckp := { d.ckp with inbox := rest, theirs := true } }
    let k := mirKey (byteAt b 16) (field b 18 2)
    let data := b.drop 32
    alive d = true ∧ d.ckp.inbox = b :: rest ∧ d.ckp.bound = true ∧ mirrorEn d = true ∧ fSrc b = rg d Reg.CKP_PARTNER % 2 ^ 24 ∧ (partnerState d = 1 ∨ partnerState d = 2) ∧ byteAt b 16 ≤ 4 ∧ field b 28 4 = crc32c data ∧ tget none d.ckp.ins k = some x ∧ field b 20 8 = x.expect ∧ bit (byteAt b 17) 7 = false ∧ peerStore e (byteAt b 16) (field b 18 2) x.expect data = some g) ∧
    (∃ (s : State) (b : List Byte) (rest : List (List Byte)) (x : _),
    let d := s.dev
    let k := mirKey (byteAt b 16) (field b 18 2)
    let data := b.drop 32
    alive d = true ∧ d.ckp.inbox = b :: rest ∧ d.ckp.bound = true ∧ mirrorEn d = true ∧ fSrc b = rg d Reg.CKP_PARTNER % 2 ^ 24 ∧ (partnerState d = 1 ∨ partnerState d = 2) ∧ byteAt b 16 = 5 ∧ field b 28 4 = crc32c data ∧ tget none d.ckp.ins k = some x ∧ field b 20 8 = x.expect ∧ bit (byteAt b 17) 7 = true) ∧
    (∃ (s : State),
    let d := s.dev
    running d = true ∧ d.ckp.bound = true ∧ mirrorEn d = true ∧ partnerState d ≠ 3) ∧
    (∃ (s : State) (k : Nat) (o : MirOut),
    let d := s.dev
    alive d = true ∧ (partnerState d = 1 ∨ partnerState d = 2) ∧ d.ckp.outs = [(k, o)] ∧ 0 < o.sent ∧ o.at_ + 100000 ≤ ns d) ∧
    (∃ (s : State),
    let d := s.dev
    alive d = true ∧ (partnerState d = 1 ∨ partnerState d = 2) ∧ d.ckp.heard + 1000000 * max 1 (fget d Reg.CKP_CTRL Fd.CKP_CTRL_lost_ms) ≤ ns d) ∧
    (∃ (s : State) (who : Req) (v : Word),
    let d := s.dev
    BusReady d ∧ reqSecure d who = true ∧ Unlocked d who 0x018000 ∧ bits v.toNat 0 0 = 0 ∧ mirrorEn d = true ∧ d.ckp.bound = true) :=
  ⟨⟨(wu fun d => wInbox 3 ([]) (wMirF 9 0 0 0 []) d), (wMirF 9 0 0 0 []), [], by decide +kernel⟩,
   ⟨(wu fun d => wInbox 2 ([]) (wMirF 9 0 0 0 []) d), (wMirF 9 0 0 0 []), [], by decide +kernel⟩,
   ⟨(wu fun d => wInbox 1 ([(mirKey 4 1023, some ⟨24, []⟩)]) (wMirF 4 0 1023 25 [1, 2, 3]) d), (wMirF 4 0 1023 25 [1, 2, 3]), [], by decide +kernel⟩,
   ⟨(wu fun d => wInbox 1 ([]) (wMirF 5 0 1023 0 [1, 2, 3] ++ [9]) d), (wMirF 5 0 1023 0 [1, 2, 3] ++ [9]), [], by decide +kernel⟩,
   ⟨(wu fun d => wInbox 1 ([]) (wMirF 8 5 1023 0 []) d), (wMirF 8 5 1023 0 []), [], by decide +kernel⟩,
   ⟨(wu fun d => wInbox 1 ([(0, some ⟨8, []⟩)]) (wMirF 0 0 0 8 [1, 2, 3]) d), (wMirF 0 0 0 8 [1, 2, 3]), [], ((⟨8, []⟩ : MirIn)), ((peerStore (let d := (wu fun d => wInbox 1 [(0, some ⟨8, []⟩)] (wMirF 0 0 0 8 [1, 2, 3]) d).dev; { d with ckp := { d.ckp with inbox := [], theirs := true } }) 0 0 8 [1, 2, 3]).getD State.reset.dev), by decide +kernel, by decide +kernel, by decide +kernel, by decide +kernel, by decide +kernel, by decide +kernel, by decide +kernel, by decide +kernel, by decide +kernel, by decide +kernel, by decide +kernel, by exact some_getD (by decide +kernel)⟩,
   ⟨(wu fun d => wInbox 1 ([(mirKey 5 4095, some ⟨8, [7]⟩)]) (wMirF 5 0x80 4095 8 [1, 2, 3]) d), (wMirF 5 0x80 4095 8 [1, 2, 3]), [], ((⟨8, [7]⟩ : MirIn)), by decide +kernel⟩,
   ⟨(wu (wPart 2)), by decide +kernel⟩,
   ⟨(wu fun d => let d := wPart 1 (wAt 100005 d); { d with ckp := { d.ckp with outs := [(5, ⟨[(0, [1, 2], false)], 1, 2, 5⟩)] } }), 5, (⟨[(0, [1, 2], false)], 1, 2, 5⟩), by decide +kernel⟩,
   ⟨(wu fun d => wPart 1 (wAt (1000000 * 100000) d)), by decide +kernel⟩,
   ⟨(wu fun d => wUnl 0x018000 (wPart 2 d)), .mgmt, ((0xFFFFFF00 : Word)), by decide +kernel⟩⟩

theorem witness_CheckpointsAreKept :
    (∃ (s : State) (i : BitVec 10) (k : Ckpt) (x : Shard) (j : Nat) (g : Region),
    alive s.dev = true ∧ s.dev.ckp.running = some k ∧ shardAt s.dev i.toNat = some x ∧ i.toNat ∈ k.shards ∧ ckptReady s.dev k i.toNat x = true ∧ regionOf s.dev k.staging = some (j, g)) ∧
    (∃ (s : State) (h : CmdHdr) (p : List Byte) (k : _),
    let d := dequeue s.dev h 0x0721
    Admitted 0x0721 true false h s.dev ∧ p.length = 4 ∧ d.ckp.written = [k] ∧ k.ident = field p 0 4 ∧ k.stepSeq + 1 < 2 ^ 48) ∧
    (∃ (s : State) (h : CmdHdr) (p : List Byte),
    let d := dequeue s.dev h 0x0721
    Admitted 0x0721 true false h s.dev ∧ p.length = 4 ∧ (∀ k ∈ d.ckp.written, k.ident ≠ field p 0 4)) ∧
    (∃ (s : State) (h : CmdHdr) (p : List Byte) (x : _) (i : _) (g : _),
    let d := dequeue s.dev h 0x0722
    Admitted 0x0722 true false h s.dev ∧ p.length = 20 ∧ byteAt p 0 < 64 ∧ field p 1 3 = 0 ∧ flashAt d (byteAt p 0) = some x ∧ regionOf d (field p 16 4) = some (i, g) ∧ g.cls = 6 ∧ field p 12 4 * x.bsize ≤ regionBytes g ∧ x.error = false ∧ x.xfers.length < x.depth) ∧
    (∃ (s : State) (a : HLine) (ri w : Nat),
    alive s.dev = true ∧ poisoned s.dev (lineId a) = true ∧ ownerOf s.dev a.stack.toNat (a.line.val / granLines) = some (ri, w) ∧ (regionAt s.dev ri).cls = 5 ∧ (partnerState s.dev = 1 ∨ partnerState s.dev = 2)) :=
  ⟨⟨(wu fun d => let d := wStage (wLsn { wShard with lastStep := 9, ran := true } [] d); { d with ckp := { d.ckp with running := some wCk } }), 1023, wCk, ({ wShard with lastStep := 9, ran := true }), 9, ((⟨true, true, false, false, 6, 1, 8, [(1, 100)], 0⟩ : Region)), by decide +kernel⟩,
   ⟨(wu fun d => { d with ckp := { d.ckp with written := [wCk] } }), (wHdr true .self), ([0, 0, 0, 77]), wCk, by decide +kernel⟩,
   ⟨(wu fun d => { d with ckp := { d.ckp with written := [wCk] } }), (wHdr true .self), ([0, 0, 0, 78]), by decide +kernel⟩,
   ⟨(wu (wFl (wFlash [wXfer true] 0))), (wHdr true .self), ([63, 0, 0, 0] ++ beBytes 8 5 ++ beBytes 4 2 ++ beBytes 4 0x00010008), (wFlash [wXfer true] 0), ((8 : Nat)), (wRegion true 6), by decide +kernel⟩,
   ⟨(wu fun d => setPoison (wPart 2 (regionPut d 8 { wEvR with cls := 5 })) wLineX true), wLine, 8, 0, by decide +kernel⟩⟩

theorem witness_HostFramesMove :
    (∃ (s : State) (j : BitVec 8) (bs : List Byte) (len : Word),
    let d := s.dev
    let k := fKind ((padMin len.toNat bs).take (len.toNat - 8))
    alive d = true ∧ ((tget HostSlot.free d.cmd.slots j.toNat).len ≠ 0 ∨ len.toNat < 64 ∨ 2216 < len.toNat ∨ ¬(k = 0 ∨ k = 5 ∨ k = 7 ∨ k = 8))) ∧
    (∃ (s : State) (j : BitVec 8) (bs : List Byte) (len : Word),
    let d := s.dev
    let k := fKind ((padMin len.toNat bs).take (len.toNat - 8))
    alive d = true ∧ (tget HostSlot.free d.cmd.slots j.toNat).len = 0 ∧ 64 ≤ len.toNat ∧ len.toNat ≤ 2216 ∧ (k = 0 ∨ k = 5 ∨ k = 7 ∨ k = 8) ∧ d.cmd.subQ = [] ∧ d.mem.sram.used.getD (if k = 5 then 3 else 1) 0 + gransOf len.toNat ≤ quotaOf d (if k = 5 then 3 else 1) ∧ gransOf len.toNat ≤ poolFree d.mem.sram) ∧
    (∃ (s : State) (b : List Byte) (rest : List (List Byte)),
    let d := s.dev
    let t := fget d Reg.CMD_RX_TAIL Fd.CMD_RX_TAIL_tail
    let n := max 2 (fget d Reg.CMD_RX_SLOTS Fd.CMD_RX_SLOTS_slots)
    alive d = true ∧ d.cmd.rxWait = b :: rest ∧ d.pkg.pcieUp = true ∧ d.pkg.busM = true ∧ (t + 1) % n = fget d Reg.CMD_RX_HEAD Fd.CMD_RX_HEAD_head) ∧
    (∃ (s : State) (b : List Byte) (rest : List (List Byte)),
    let d := s.dev
    let t := fget d Reg.CMD_RX_TAIL Fd.CMD_RX_TAIL_tail
    let n := max 2 (fget d Reg.CMD_RX_SLOTS Fd.CMD_RX_SLOTS_slots)
    alive d = true ∧ d.cmd.rxWait = b :: rest ∧ d.pkg.pcieUp = true ∧ d.pkg.busM = true ∧ (t + 1) % n ≠ fget d Reg.CMD_RX_HEAD Fd.CMD_RX_HEAD_head) ∧
    (∃ (s : State) (who : Req) (v : Word),
    let d := s.dev
    BusReady d ∧ reqSecure d who = true ∧ Unlocked d who (blkBase Reg.CMD_CTRL) ∧ v.toNat.testBit Fd.CMD_CTRL_rx_en.2 = true ∧ fbit d Reg.CMD_CTRL Fd.CMD_CTRL_rx_en = false) ∧
    (∃ (s : State) (who : Req) (v : Word),
    let d := s.dev
    BusReady d ∧ reqSecure d who = true ∧ Unlocked d who (blkBase Reg.CMD_CTRL) ∧ v.toNat.testBit Fd.CMD_CTRL_rx_en.2 = false ∧ fbit d Reg.CMD_CTRL Fd.CMD_CTRL_rx_en = true) :=
  ⟨⟨(wu id), 255, [], 2217, by decide +kernel⟩,
   ⟨(wu id), 255, ([0x10, 0x80]), 64, by decide +kernel⟩,
   ⟨(wu (fun d => let d := fset (fset d Reg.CMD_RX_SLOTS Fd.CMD_RX_SLOTS_slots 4) Reg.CMD_RX_TAIL Fd.CMD_RX_TAIL_tail 3; { d with cmd := { d.cmd with rxWait := [wEncF], phase := true }, pkg := { d.pkg with pcieUp := true, busM := true } })), wEncF, [], by decide +kernel⟩,
   ⟨(wu fun d => fset ((fun d => let d := fset (fset d Reg.CMD_RX_SLOTS Fd.CMD_RX_SLOTS_slots 4) Reg.CMD_RX_TAIL Fd.CMD_RX_TAIL_tail 3; { d with cmd := { d.cmd with rxWait := [wEncF], phase := true }, pkg := { d.pkg with pcieUp := true, busM := true } }) d) Reg.CMD_RX_HEAD Fd.CMD_RX_HEAD_head 2), wEncF, [], by decide +kernel⟩,
   ⟨(wu fun d => wUnl (blkBase Reg.CMD_CTRL) (fset d Reg.CMD_RX_TAIL Fd.CMD_RX_TAIL_tail 3)), .mgmt, ((0xFFFFFFFF : Word)), by decide +kernel⟩,
   ⟨(wu fun d => let d := wUnl (blkBase Reg.CMD_CTRL) (fset d Reg.CMD_CTRL Fd.CMD_CTRL_rx_en 1); { d with cmd := { d.cmd with rxWait := [[1], [2]] } }), .mgmt, ((0 : Word)), by decide +kernel⟩⟩

theorem witness_ManagementAnswers :
    (∃ (s : State) (src : Coord) (vc : BitVec 3) (a : Assembly),
    alive s.dev = true ∧ s.dev.cmd.asm = [a] ∧ a.first.src = src.toNat ∧ a.first.vc = vc.toNat ∧ a.endAt ≤ ns s.dev) ∧
    (∃ (s : State) (op : BitVec 16),
    alive s.dev = true ∧ op.toNat ∉ opcodes) ∧
    (∃ (s : State) (h : CmdHdr) (p : List Byte),
    Admitted 0x0801 false true h s.dev ∧ p = []) ∧
    (∃ (s : State) (h : CmdHdr) (p : List Byte),
    let n := field p 4 2
    Admitted 0x0802 true true h s.dev ∧ p.length = 6 ∧ 1 ≤ n ∧ n ≤ 64) ∧
    (∃ (s : State) (h : CmdHdr) (p : List Byte),
    let i := field p 0 2
    Admitted 0x0803 false true h s.dev ∧ p.length = 2 ∧ (i < 42 ∨ (48 ≤ i ∧ i < 58) ∨ i = 64)) :=
  ⟨⟨(wu fun d => let d := wAt 100 d; { d with cmd := { d.cmd with asm := [⟨wFirst, [1, 2], 1, 1, 100⟩] } }), 0x20, 4, (⟨wFirst, [1, 2], 1, 1, 100⟩), by decide +kernel⟩,
   ⟨(wu id), 0x0804, by decide +kernel⟩,
   ⟨(wu id), (wHdr false .self), [], by decide +kernel⟩,
   ⟨(wu fun d => { d with sit := { d.sit with events := List.replicate 70 (List.replicate 64 1), evNext := 100 } }), (wHdr true .self), (beBytes 4 31 ++ [0, 64]), by decide +kernel⟩,
   ⟨(wu fun d => wAt 10000005 { d with sit := { d.sit with sensors := [(57, ⟨0, 77, 5⟩)] } }), (wHdr false .self), ([0, 57]), by decide +kernel⟩⟩

theorem witness_SitonelSamplesAndRestarts :
    (∃ (s : State) (i : BitVec 7),
    let d := s.dev
    alive d = true ∧ sensorKnown i.toNat = true) ∧
    (∃ (s : State),
    let d := s.dev
    alive d = true) ∧
    (∃ (s : State) (r : _),
    let d := s.dev
    alive d = true ∧ d.sit.restart = some r ∧ r.slot < 2) ∧
    (∃ (s : State) (r : _),
    let d := s.dev
    alive d = true ∧ d.sit.restart = some r ∧ r.prev = none) :=
  ⟨⟨(wu fun d => wAt 10000005 { d with sit := { d.sit with sensors := [(57, ⟨0, 77, 5⟩)] } }), 57, by decide +kernel⟩,
   ⟨(wu fun d => { d with sit := { d.sit with batch := [wBatch] } }), by decide +kernel⟩,
   ⟨(wu (wRest 1 (some 0))), ((⟨1, some 0, none⟩ : Restart)), by decide +kernel⟩,
   ⟨(wu fun d => wAt 1000000000000 (wRest 1 none { d with sit := { d.sit with fails := [5, 400000000001] } })), ((⟨1, none, none⟩ : Restart)), by decide +kernel⟩⟩

theorem witness_QuotesSpendLeaves :
    (∃ (s : State) (h : CmdHdr) (p : List Byte),
    let d := dequeue s.dev h 0x0810
    Admitted 0x0810 false false h s.dev ∧ p.length = 32 ∧ attestLeft d ≠ 0) ∧
    (∃ (s : State) (h : CmdHdr) (p : List Byte),
    let d := dequeue s.dev h 0x0810
    Admitted 0x0810 false false h s.dev ∧ p.length = 32 ∧ attestLeft d = 0) ∧
    (∃ (s : State) (b : _),
    alive s.dev = true ∧ s.dev.sit.restart = none ∧ s.dev.sit.batch = [b] ∧ b.2.2 + batchNs s.dev ≤ ns s.dev ∧ 65537 < attestLeft s.dev) ∧
    (∃ (s : State) (b : _),
    alive s.dev = true ∧ s.dev.sit.restart = none ∧ s.dev.sit.batch = [b] ∧ b.2.2 + batchNs s.dev ≤ ns s.dev ∧ 65540 < attestLeft s.dev) :=
  ⟨⟨(wu id), (wHdr false .self), (List.replicate 32 3), by decide +kernel⟩,
   ⟨(wu fun d => { d with sit := { d.sit with leaves := [(0, 2 ^ 20), (1, 2 ^ 20), (2, 2 ^ 20), (3, 2 ^ 20), (4, 2 ^ 20), (5, 2 ^ 20), (6, 2 ^ 20), (7, 2 ^ 20)] } }), (wHdr false .self), (List.replicate 32 3), by decide +kernel⟩,
   ⟨(wu fun d => wAt (50 + 1000000 * 255) { d with sit := { d.sit with batch := [wBatch] } }), wBatch, by decide +kernel⟩,
   ⟨(wu fun d => wAt (50 + 1000000 * 255) { d with sit := { d.sit with batch := [wBatch] } }), wBatch, by decide +kernel⟩⟩

theorem witness_FirmwareChangesHands :
    (∃ (s : State) (h : CmdHdr) (p : List Byte) (ok : Bool),
    let d := dequeue s.dev h 0x0821
    let t := field p 0 1
    Admitted 0x0821 true false h s.dev ∧ p.length = 1 ∧ t ≤ 1 ∧ fwVerifies d t ok = false) ∧
    (∃ (s : State) (h : CmdHdr) (p : List Byte) (ok : Bool),
    let d := dequeue s.dev h 0x0821
    let t := field p 0 1
    Admitted 0x0821 true false h s.dev ∧ p.length = 1 ∧ t ≤ 1 ∧ fwVerifies d t ok = true ∧ longRunning d = true) ∧
    (∃ (s : State) (h : CmdHdr) (p : List Byte) (ok : Bool),
    let d := dequeue s.dev h 0x0821
    let t := field p 0 1
    Admitted 0x0821 true false h s.dev ∧ p.length = 1 ∧ t ≤ 1 ∧ fwVerifies d t ok = true ∧ longRunning d = false ∧ (d.seq.buckets = [] ∨ fwMajor d t = fwMajor d (runningSlot d))) ∧
    (∃ (s : State) (x : _),
    alive s.dev = true ∧ s.dev.sit.trial = some x ∧ s.dev.sit.restart = none ∧ x.2 ≤ ns s.dev) ∧
    (∃ (s : State) (x : _),
    alive s.dev = true ∧ s.dev.sit.trial = some x ∧ s.dev.sit.restart = none) :=
  ⟨⟨(wu wFw), (wHdr true .self), [1], false, by decide +kernel⟩,
   ⟨(wu fun d => wDrain (wFw d)), (wHdr true .self), [1], true, by decide +kernel⟩,
   ⟨(wu wFw), (wHdr true .self), [1], true, by decide +kernel⟩,
   ⟨(wu fun d => wAt 500 (fset { d with sit := { d.sit with trial := some (0, 500) } } Reg.SIT_FW_STATUS Fd.SIT_FW_STATUS_running 1)), ((0, 500)), by decide +kernel⟩,
   ⟨(wu fun d => { d with sit := { d.sit with trial := some (0, 500) } }), ((0, 500)), by decide +kernel⟩⟩

theorem witness_DrainsAndTheButton :
    (∃ (s : State) (h : CmdHdr) (p : List Byte),
    let d := dequeue s.dev h 0x0830
    Admitted 0x0830 true false h s.dev ∧ p = [0] ∧ draining d = false) ∧
    (∃ (s : State) (h : CmdHdr) (p : List Byte),
    let d := dequeue s.dev h 0x0830
    Admitted 0x0830 true false h s.dev ∧ p = [0] ∧ draining d = true) ∧
    (∃ (s : State) (h : CmdHdr) (p : List Byte),
    let d := dequeue s.dev h 0x0830
    Admitted 0x0830 true false h s.dev ∧ p = [0x80] ∧ draining d = true ∧ d.sit.drain = none) ∧
    (∃ (s : State),
    let d := s.dev
    alive d = true ∧ draining d = true ∧ drainIdle d = true ∧ d.sit.restart = none) ∧
    (∃ (s : State) (ms : BitVec 32),
    alive s.dev = true ∧ s.dev.sit.events.length < 262144 ∧ ms.toNat < 50) ∧
    (∃ (s : State) (ms : BitVec 32),
    alive s.dev = true ∧ s.dev.sit.events.length < 262144 ∧ 50 ≤ ms.toNat ∧ ms.toNat < 4000) ∧
    (∃ (s : State) (ms : BitVec 32),
    alive s.dev = true ∧ s.dev.sit.events.length < 262144 ∧ 4000 ≤ ms.toNat ∧ draining s.dev = false) ∧
    (∃ (s : State) (t : _),
    alive s.dev = true ∧ s.dev.sit.locate = some t ∧ t ≤ ns s.dev) ∧
    (∃ (s : State) (t : _),
    alive s.dev = true ∧ s.dev.sit.locate = some t ∧ ns s.dev < t) :=
  ⟨⟨(wu id), (wHdr true .self), [0], by decide +kernel⟩,
   ⟨(wu wDrain), (wHdr true .self), [0], by decide +kernel⟩,
   ⟨(wu wDrain), (wHdr true .self), [0x80], by decide +kernel⟩,
   ⟨(wu fun d => let d := wDrain d; { d with sit := { d.sit with drain := some wReq } }), by decide +kernel⟩,
   ⟨(wu id), 49, by decide +kernel⟩,
   ⟨(wu id), 3999, by decide +kernel⟩,
   ⟨(wu id), 4000, by decide +kernel⟩,
   ⟨(wu fun d => wAt 500 { d with sit := { d.sit with locate := some 500 } }), 500, by decide +kernel⟩,
   ⟨(wu fun d => wAt 499 { d with sit := { d.sit with locate := some 500 } }), 500, by decide +kernel⟩⟩

theorem witness_FieldsTakeTheirValues :
    (∃ (a : Nat) (fs : List Fld) (f : Fld) (old v : Nat) (unlocked secure : Bool),
    let o := bits old f.hi f.lo
    let x := bits v f.hi f.lo
    let stopped := fldChange f o x = true ∧ ((f.lock = true ∧ unlocked = false) ∨ (f.sec = true ∧ secure = false))
    regFlds a = some fs ∧ f ∈ fs ∧ stopped) ∧
    (∃ (a : Nat) (fs : List Fld) (f : Fld) (old v : Nat) (unlocked secure : Bool),
    let o := bits old f.hi f.lo
    let x := bits v f.hi f.lo
    let stopped := fldChange f o x = true ∧ ((f.lock = true ∧ unlocked = false) ∨ (f.sec = true ∧ secure = false))
    regFlds a = some fs ∧ f ∈ fs ∧ ¬stopped) ∧
    (∃ (a : Nat) (fs : List Fld) (f : Fld),
    regFlds a = some fs ∧ f ∈ fs) ∧
    (∃ (a : Nat) (fs : List Fld) (f : Fld),
    regFlds a = some fs ∧ f ∈ fs) :=
  ⟨⟨Reg.BELL_CTRL, (((regFlds (Reg.BELL_CTRL)).getD [])), (((((regFlds (Reg.BELL_CTRL)).getD [])).filter (fun f => f.lock)).headD ⟨0, 0, .ro, false, false, 0⟩), 0, (2 ^ 32 - 1), false, true, by decide +kernel⟩,
   ⟨Reg.BELL_CTRL, (((regFlds (Reg.BELL_CTRL)).getD [])), (((((regFlds (Reg.BELL_CTRL)).getD [])).filter (fun f => f.lock)).headD ⟨0, 0, .ro, false, false, 0⟩), 0, (2 ^ 32 - 1), true, true, by decide +kernel⟩,
   ⟨Reg.CMD_CTRL, (((regFlds (Reg.CMD_CTRL)).getD [])), ((((regFlds (Reg.CMD_CTRL)).getD []).headD ⟨0, 0, .ro, false, false, 0⟩)), by decide +kernel⟩,
   ⟨Reg.CMD_CTRL, (((regFlds (Reg.CMD_CTRL)).getD [])), ((((regFlds (Reg.CMD_CTRL)).getD []).headD ⟨0, 0, .ro, false, false, 0⟩)), by decide +kernel⟩⟩

theorem witness_WritesReachTheirRegister : ∃ (s : State) (who : Req) (addr : BitVec 28) (v : Word) (b : BlkRow) (inst : Nat) (fs : List Fld) (op : Nat) (c : Instr),
    let d := s.dev
    let a := addr.toNat
    let sec := reqSecure d who
    BusReady d ∧ blkOf a = some (b, inst) ∧ (b.kind = 0x09 ∨ b.kind = 0x0A ∨ b.kind = 0x0B) ∧ 0x100 ≤ a % 0x4000 ∧ a % 0x4000 < 0x1000 ∧ regFlds a = some fs ∧ multiWord a = none ∧ (sec = true ∨ blkSecure d b.kind = false) ∧ ((op = 0 ∧ c = .registerWrite who addr v 15) ∨ (op = 1 ∧ c = .setAliasWrite who addr v 15) ∨ (op = 2 ∧ c = .clearAliasWrite who addr v 15) ∨ (op = 3 ∧ c = .toggleAliasWrite who addr v 15)) :=
  ⟨(wu fun d => fset d (Reg.BLK_STATUS 0x28000) Fd.BLK_STATUS_unlocked_mgmt 1), .mgmt, 0x28100, 0x00000033, (⟨0x0B, 0x028000, 1, false⟩), 0, (((regFlds (0x28100)).getD [])), 3, (.toggleAliasWrite .mgmt 0x28100 0x00000033 15), by decide +kernel⟩

theorem witness_BlocksAreGuarded :
    (∃ (s : State) (addr : BitVec 28),
    let d := s.dev
    let a := addr.toNat
    alive d = true ∧ a % 0x4000 < 0x1000 ∧ resetShields d a = true) ∧
    (∃ (s : State) (addr : BitVec 28) (be : BitVec 4),
    let d := s.dev
    let a := addr.toNat
    alive d = true ∧ a % 0x4000 < 0x1000 ∧ resetShields d a = false ∧ (regFlds a = none ∨ be ≠ 15)) ∧
    (∃ (s : State) (who : Req) (addr : BitVec 28) (v : Word) (b : BlkRow) (inst : Nat) (c : Instr),
    let d := s.dev
    let a := addr.toNat
    alive d = true ∧ a % 0x4000 < 0x1000 ∧ blkOf a = some (b, inst) ∧ resetShields d a = false ∧ ((c = .registerWrite who addr v 15 ∧ regFlds a ≠ none) ∨ c = .blkUnlock who addr v ∨ c = .cntClear who addr v) ∧ reqSecure d who = false ∧ blkSecure d b.kind = true) ∧
    (∃ (s : State) (who : Req) (addr : BitVec 28) (v : Word) (b : BlkRow) (inst : Nat) (c : Instr) (r : Nat),
    let d := s.dev
    let a := addr.toNat
    let base := blkBase a
    alive d = true ∧ a % 0x4000 < 0x1000 ∧ blkOf a = some (b, inst) ∧ resetShields d a = false ∧ b.posted = true ∧ (reqSecure d who = true ∨ blkSecure d b.kind = false) ∧ ((c = .blkUnlock who addr v ∧ r = Reg.BLK_UNLOCK base) ∨ (c = .cntClear who addr v ∧ r = Reg.BLK_CTRL base)) ∧ postedAt d base = none) ∧
    (∃ (s : State) (who : Req) (addr : BitVec 28) (v : Word) (b : BlkRow) (inst : Nat) (c : Instr) (r : Nat),
    let d := s.dev
    let a := addr.toNat
    let base := blkBase a
    alive d = true ∧ a % 0x4000 < 0x1000 ∧ blkOf a = some (b, inst) ∧ resetShields d a = false ∧ b.posted = true ∧ (reqSecure d who = true ∨ blkSecure d b.kind = false) ∧ ((c = .blkUnlock who addr v ∧ r = Reg.BLK_UNLOCK base) ∨ (c = .cntClear who addr v ∧ r = Reg.BLK_CTRL base)) ∧ postedAt d base ≠ none) ∧
    (∃ (s : State) (who : Req) (addr : BitVec 28) (v : Word) (b : BlkRow) (inst : Nat),
    let d := s.dev
    let a := addr.toNat
    alive d = true ∧ a % 0x4000 < 0x1000 ∧ blkOf a = some (b, inst) ∧ resetShields d a = false ∧ b.posted = false ∧ (reqSecure d who = true ∨ blkSecure d b.kind = false) ∧ v = 0xC1A55E5A) ∧
    (∃ (s : State) (who : Req) (addr : BitVec 28) (v : Word) (b : BlkRow) (inst : Nat),
    let d := s.dev
    let a := addr.toNat
    alive d = true ∧ a % 0x4000 < 0x1000 ∧ blkOf a = some (b, inst) ∧ resetShields d a = false ∧ b.posted = false ∧ (reqSecure d who = true ∨ blkSecure d b.kind = false) ∧ v ≠ 0xC1A55E5A) ∧
    (∃ (s : State) (who : Req) (addr : BitVec 28) (v : Word) (b : BlkRow) (inst : Nat),
    let d := s.dev
    let a := addr.toNat
    alive d = true ∧ a % 0x4000 < 0x1000 ∧ blkOf a = some (b, inst) ∧ resetShields d a = false ∧ b.posted = false ∧ (reqSecure d who = true ∨ blkSecure d b.kind = false) ∧ v.toNat % 2 = 1) :=
  ⟨⟨(wu fun d => fset d Reg.TOP_STATUS Fd.TOP_STATUS_reset_busy 1), 0x28100, by decide +kernel⟩,
   ⟨(wu id), 0x28100, 7, by decide +kernel⟩,
   ⟨(wu fun d => fset d Reg.SIT_CTRL Fd.SIT_CTRL_host_reg_secure 0), .host, 0x4100, 1, (⟨0x02, 0x004000, 1, true⟩), 0, (.cntClear .host 0x4100 1), by decide +kernel⟩,
   ⟨(wu id), .mgmt, 0x4008, 0xC1A55E5A, (⟨0x02, 0x004000, 1, true⟩), 0, (.blkUnlock .mgmt 0x4008 0xC1A55E5A), 0x4008, by decide +kernel⟩,
   ⟨(wu fun d => { d with bus := { d.bus with posted := [(0x4000, some ⟨0x4104, true, 1, true⟩)] } }), .mgmt, 0x4008, 0xC1A55E5A, (⟨0x02, 0x004000, 1, true⟩), 0, (.blkUnlock .mgmt 0x4008 0xC1A55E5A), 0x4008, by decide +kernel⟩,
   ⟨(wu fun d => bump (bump (fset d (Reg.BLK_STATUS 0x28000) Fd.BLK_STATUS_unlocked_host 1) Reg.LSN_RUN_CNT) (Reg.BLK_LOCK_FAIL_CNT 0x28000)), .host, 0x28008, 0xC1A55E5A, (⟨0x0B, 0x028000, 1, false⟩), 0, by decide +kernel⟩,
   ⟨(wu fun d => bump (bump (fset d (Reg.BLK_STATUS 0x28000) Fd.BLK_STATUS_unlocked_host 1) Reg.LSN_RUN_CNT) (Reg.BLK_LOCK_FAIL_CNT 0x28000)), .host, 0x28008, 0xC1A55E5B, (⟨0x0B, 0x028000, 1, false⟩), 0, by decide +kernel⟩,
   ⟨(wu fun d => bump (bump (fset d (Reg.BLK_STATUS 0x28000) Fd.BLK_STATUS_unlocked_host 1) Reg.LSN_RUN_CNT) (Reg.BLK_LOCK_FAIL_CNT 0x28000)), .host, 0x2800C, 1, (⟨0x0B, 0x028000, 1, false⟩), 0, by decide +kernel⟩⟩

theorem witness_PostedWritesRun :
    (∃ (s : State) (who : Req) (v : Word) (l : Fin 128) (k : BitVec 4) (c : Instr) (a : Nat),
    let d := s.dev
    let base := blkBase a
    BusReady d ∧ reqSecure d who = true ∧ (c, a) ∈ [(.linkEnable who l v, Reg.LINK_CTRL l.val), (.linkRetrain who l v, Reg.LINK_CTRL l.val), (.linkLoopbackSelect who l v, Reg.LINK_CTRL l.val), (.linkPrbsEnable who l v, Reg.LINK_CTRL l.val), (.linkExpectWrite who l v, Reg.LINK_EXPECT l.val), (.hbmFence who k v, Reg.HBM_STK_CTRL k.toNat), (.hbmUnfence who k v, Reg.HBM_STK_CTRL k.toNat), (.sitBlkWorldWrite who v, Reg.SIT_BLK_WORLD), (.fabricReset who v, Reg.TOP_CTRL), (Instr.haltGo who v, Reg.TOP_CTRL)] ∧ postedAt d base = none) ∧
    (∃ (s : State) (who : Req) (v : Word) (l : Fin 128) (k : BitVec 4) (c : Instr) (a : Nat),
    let d := s.dev
    let base := blkBase a
    BusReady d ∧ reqSecure d who = true ∧ (c, a) ∈ [(.linkEnable who l v, Reg.LINK_CTRL l.val), (.linkRetrain who l v, Reg.LINK_CTRL l.val), (.linkLoopbackSelect who l v, Reg.LINK_CTRL l.val), (.linkPrbsEnable who l v, Reg.LINK_CTRL l.val), (.linkExpectWrite who l v, Reg.LINK_EXPECT l.val), (.hbmFence who k v, Reg.HBM_STK_CTRL k.toNat), (.hbmUnfence who k v, Reg.HBM_STK_CTRL k.toNat), (.sitBlkWorldWrite who v, Reg.SIT_BLK_WORLD), (.fabricReset who v, Reg.TOP_CTRL), (Instr.haltGo who v, Reg.TOP_CTRL)] ∧ postedAt d base ≠ none) ∧
    (∃ (s : State) (addr : BitVec 28) (p : Posted),
    let d := s.dev
    let base := blkBase addr.toNat
    alive d = true ∧ postedAt d base = some p) ∧
    (∃ (s : State) (addr : BitVec 28) (p : Posted),
    let d := s.dev
    BusReady d ∧ postedAt d (blkBase addr.toNat) = some p ∧ reqSecure d (if p.mgmt then .mgmt else .host) = true ∧ p.unlocked = true) :=
  ⟨⟨(wu id), .mgmt, 5, 7, 0, (.linkEnable .mgmt 7 5), (Reg.LINK_CTRL 7), by decide +kernel⟩,
   ⟨(wu fun d => { d with bus := { d.bus with posted := [(blkBase (Reg.LINK_CTRL 7), some ⟨Reg.LINK_CTRL 7, true, 1, true⟩)] } }), .mgmt, 5, 7, 0, (.linkEnable .mgmt 7 5), (Reg.LINK_CTRL 7), by decide +kernel⟩,
   ⟨(wu fun d => { d with bus := { d.bus with posted := [(0x4000, some ⟨0x4008, true, 0xC1A55E5A, false⟩)] } }), 0x4008, (⟨0x4008, true, 0xC1A55E5A, false⟩), by decide +kernel⟩,
   ⟨(wu fun d => { d with bus := { d.bus with posted := [(blkBase (Reg.LINK_CTRL 7), some ⟨Reg.LINK_CTRL 7, true, 1, true⟩)] } }), (BitVec.ofNat 28 (Reg.LINK_CTRL 7)), (⟨Reg.LINK_CTRL 7, true, 1, true⟩), by decide +kernel⟩⟩

theorem witness_ReadsLatchAndVotesRepair :
    (∃ (s : State) (who : Req) (addr : BitVec 28),
    let d := s.dev
    let a := addr.toNat
    BusReady d ∧ (∀ b inst, blkOf a = some (b, inst) → reqSecure d who = true ∨ blkSecure d b.kind = false) ∧ a % 0x4000 < 0x1000 ∧ regFlds a ≠ none) ∧
    (∃ (s : State) (addr : BitVec 28) (b : BlkRow) (inst : Nat) (fs : List Fld),
    let d := s.dev
    let a := addr.toNat
    alive d = true ∧ blkOf a = some (b, inst) ∧ regFlds a = some fs) ∧
    (∃ (s : State) (addr : BitVec 28) (b : BlkRow) (inst : Nat) (fs : List Fld) (f : Fld) (x y : Word),
    let d := s.dev
    let a := addr.toNat
    alive d = true ∧ blkOf a = some (b, inst) ∧ b.kind ≠ 0x08 ∧ b.kind ≠ 0x0E ∧ regFlds a = some fs ∧ f ∈ fs ∧ triple b.kind (a % 0x4000) f = true ∧ 0x100 ≤ a % 0x4000 ∧ bits x.toNat f.hi f.lo ≠ 0 ∧ bits y.toNat f.hi f.lo ≠ 0 ∧ bits x.toNat f.hi f.lo ≠ bits y.toNat f.hi f.lo ∧ (∀ g ∈ fs, g ≠ f → bits x.toNat g.hi g.lo = 0 ∧ bits y.toNat g.hi g.lo = 0)) :=
  ⟨⟨(wu id), .mgmt, (BitVec.ofNat 28 Reg.BELL_NOW_0), by decide +kernel, fun _ _ _ => Or.inl (by decide +kernel), by decide +kernel⟩,
   ⟨(wu id), (BitVec.ofNat 28 (Reg.RTE_SW 3)), (⟨0x0E, 0x034000, 1, false⟩), 0, (((regFlds (Reg.RTE_SW 3)).getD [])), by decide +kernel⟩,
   ⟨(wu id), (BitVec.ofNat 28 (Reg.REF_WINDOW 1)), (⟨0x05, 0x010000, 1, false⟩), 0, (((regFlds (Reg.REF_WINDOW 1)).getD [])), ((((regFlds (Reg.REF_WINDOW 1)).getD []).getD 1 ⟨0, 0, .ro, false, false, 0⟩)), 1, 2, by decide +kernel⟩⟩

theorem witness_TheFunctionAndTheClocks : ∃ (s : State),
    let d := s.dev
    alive d = true :=
  ⟨(wu id), by decide +kernel⟩

theorem witness_ResetsStartTheDevice :
    (∃ (s : State),
    let d := s.dev
    let e0 := fset d Reg.TOP_STATUS Fd.TOP_STATUS_reset_busy 0
    alive d = true ∧ resetBusy d = true ∧ (placeAll e0).2 = true) ∧
    (∃ (s : State),
    let d := s.dev
    let e0 := fset d Reg.TOP_STATUS Fd.TOP_STATUS_reset_busy 0
    alive d = true ∧ resetBusy d = true ∧ (placeAll e0).2 = false) ∧
    (∃ (s : State),
    let d := s.dev
    d.pkg.phase = .booting ∧ resetBusy d = false ∧ (placeAll d).2 = true) ∧
    (∃ (s : State),
    let d := s.dev
    alive d = true ∧ 3 ≤ (d.sit.fails.filter (fun t => decide (ns d ≤ t + 600 * 10 ^ 9))).length ∧ slotValid d (confirmedSlot d) = true) ∧
    (∃ (s : State),
    let d := s.dev
    d.pkg.phase = .held) :=
  ⟨⟨(wu fun d => fset d Reg.TOP_STATUS Fd.TOP_STATUS_reset_busy 1), by decide +kernel⟩,
   ⟨(wu fun d => let d := fset d Reg.TOP_STATUS Fd.TOP_STATUS_reset_busy 1; { d with mem := { d.mem with regions := [(8, ⟨true, false, false, false, 0, 16, 16 * 40960, (List.range 16).map (fun k => (k, 0)), 0⟩)] } }), by decide +kernel⟩,
   ⟨(ws id), by decide +kernel⟩,
   ⟨(wu fun d => { d with sit := { d.sit with fails := [0, 0, 0] } }), by decide +kernel⟩,
   ⟨(ws fun d => { d with pkg := { d.pkg with phase := .held } }), by decide +kernel⟩⟩

theorem witness_RailsRiseAndFall :
    (∃ (i : Fin 10) (mv : BitVec 16),
    railMax i.val < mv.toNat) ∧
    (∃ (i : Fin 10) (mv : BitVec 16),
    mv.toNat ≤ railMax i.val) ∧
    (∃ (s : State) (i : Fin 10) (ms : BitVec 16),
    let d := s.dev
    fallBreaks d i.val = true ∧ 10 < ms.toNat ∧ railUpLater d i.val = true) ∧
    (∃ (s : State) (i : Fin 10) (ms : BitVec 16),
    let d := s.dev
    (fallBreaks d i.val = false ∨ ms.toNat ≤ 10 ∨ railUpLater d i.val = false)) :=
  ⟨⟨6, 801, by decide +kernel⟩,
   ⟨6, 800, by decide +kernel⟩,
   ⟨(wu id), 6, 11, by decide +kernel⟩,
   ⟨(wu id), 6, 10, by decide +kernel⟩⟩

end Sys2Proof.Tests
end

section
/-! PROOFS. What a write makes of the fields of a register (R14, R517, R518): the fields of every assigned register lie apart, so the passes of a
write over them do not disturb one another, and each field comes to what its own pass makes of it. -/

namespace Sys2Proof.Machine

/-! ## The fields of an assigned register lie apart -/

/-- Two fields share no bit. -/
def Fld.Apart (f g : Fld) : Prop := f.hi < g.lo ∨ g.hi < f.lo

/-- Fields in the order of the tables: each spans at least one bit, and each lies above all that follow it. -/
def FieldsDescend (fs : List Fld) : Prop := (∀ f ∈ fs, f.lo ≤ f.hi) ∧ fs.Pairwise (fun f g => g.hi < f.lo)

/-- A field of such a list lies apart from the fields before it and from those after it. -/
theorem FieldsDescend.apart_of_append {l r : List Fld} {f : Fld} (h : FieldsDescend (l ++ f :: r)) : ∀ g ∈ l ++ r, g.Apart f := by
  obtain ⟨-, hp⟩ := h
  obtain ⟨-, hr, hl⟩ := List.pairwise_append.mp hp
  intro g hg
  rcases List.mem_append.mp hg with hg | hg
  · exact Or.inr (hl g hg f List.mem_cons_self)
  · exact Or.inl ((List.pairwise_cons.mp hr).1 g hg)

theorem commonRows_descend : ∀ r ∈ commonRows, FieldsDescend r.flds := by
  unfold FieldsDescend
  decide +kernel

/-- The tables of the chapters: checked kind by kind. -/
theorem rowsOf_descend (kind : Nat) : ∀ r ∈ rowsOf kind, FieldsDescend r.flds := by
  unfold rowsOf FieldsDescend
  split <;> decide +kernel

/-- A register that is found stands in one of the tables. -/
theorem findRow_mem {kind inst off i : Nat} {r : RegRow} (h : findRow kind inst off = some (r, i)) : r ∈ commonRows ∨ r ∈ rowsOf kind := by
  unfold findRow at h
  split at h
  · cases h
  · obtain ⟨r', hr', he⟩ := List.exists_of_findSome?_eq_some h
    obtain rfl : r' = r := by
      split at he
      · exact congrArg Prod.fst (Option.some.inj he)
      · cases he
    split at hr'
    · exact Or.inl hr'
    · exact Or.inr hr'

theorem regFlds_descend {a : Nat} {fs : List Fld} (h : regFlds a = some fs) : FieldsDescend fs := by
  unfold regFlds at h
  split at h
  · cases h
  · obtain ⟨⟨r, i⟩, hr, rfl⟩ := Option.map_eq_some_iff.mp h
    rcases findRow_mem hr with hm | hm
    · exact commonRows_descend r hm
    · exact rowsOf_descend _ r hm

/-! ## Bits of a field -/

theorem bits_lt (n hi lo : Nat) : bits n hi lo < 2 ^ (hi + 1 - lo) := Nat.mod_lt _ (Nat.two_pow_pos _)

@[simp] theorem bits_zero (hi lo : Nat) : bits 0 hi lo = 0 := by simp [bits]

/-- A value that fits reads back from its field. -/
theorem bits_putBits_of_lt (n : Nat) {hi lo v : Nat} (h : lo ≤ hi) (hv : v < 2 ^ (hi + 1 - lo)) : bits (putBits n hi lo v) hi lo = v := by
  rw [bits_putBits_self n v h, Nat.mod_eq_of_lt hv]

/-- A field that lies apart from the replaced one reads as before. -/
theorem bits_putBits_of_apart (n v : Nat) {f g : Fld} (hf : f.lo ≤ f.hi) (hg : g.lo ≤ g.hi) (h : g.Apart f) :
    bits (putBits n g.hi g.lo v) f.hi f.lo = bits n f.hi f.lo := by
  rcases h with h | h
  · exact bits_putBits_above n v hg h
  · exact bits_putBits_below n v hg hf h

/-! ## One field's pass -/

/-- Whether a write of x over o is refused for field f: it would change the field, and the writer lacks the unlock or the world that f asks for. -/
def FldStopped (unlocked secure : Bool) (f : Fld) (o x : Nat) : Prop :=
  fldChange f o x = true ∧ ((f.lock = true ∧ unlocked = false) ∨ (f.sec = true ∧ secure = false))

/-- What a field that holds o keeps after a write of x that is not refused (R14). -/
def fldKept (f : Fld) (o x : Nat) : Nat :=
  match f.acc with
  | .ro => o
  | .rw => x
  | .w1c => o - (o &&& x)
  | .trig => o
  | .cmd => o

/-- What of a write of x that is not refused acts and is not kept (R14). -/
def fldActs (f : Fld) (x : Nat) : Nat :=
  match f.acc with
  | .ro => 0
  | .rw => 0
  | .w1c => 0
  | .trig => x
  | .cmd => x

section
variable (old v : Nat) (unlocked secure : Bool) (w : Wr)

/-- The refusal that the pass tests for is `FldStopped`. -/
theorem fldStopped_iff (f : Fld) (o x : Nat) :
    (fldChange f o x && f.lock && !unlocked || fldChange f o x && f.sec && !secure) = true ↔ FldStopped unlocked secure f o x := by
  simp only [FldStopped, Bool.or_eq_true, Bool.and_eq_true, Bool.not_eq_true', and_or_left, and_assoc]

/-- A refused pass leaves the stored word and what acts. -/
theorem fldWrite_of_stopped {f : Fld} (h : FldStopped unlocked secure f (bits old f.hi f.lo) (bits v f.hi f.lo)) :
    (fldWrite old v unlocked secure w f).new = w.new ∧ (fldWrite old v unlocked secure w f).act = w.act := by
  simp only [fldWrite, (fldStopped_iff ..).mpr h, ↓reduceIte, and_self]

/-- A pass that is not refused, over a field that still holds its old value and has not acted: the field comes to what R14 says. -/
theorem fldWrite_of_not_stopped {f : Fld} (hf : f.lo ≤ f.hi) (hn : bits w.new f.hi f.lo = bits old f.hi f.lo) (ha : bits w.act f.hi f.lo = 0)
    (h : ¬FldStopped unlocked secure f (bits old f.hi f.lo) (bits v f.hi f.lo)) :
    bits (fldWrite old v unlocked secure w f).new f.hi f.lo = fldKept f (bits old f.hi f.lo) (bits v f.hi f.lo)
      ∧ bits (fldWrite old v unlocked secure w f).act f.hi f.lo = fldActs f (bits v f.hi f.lo) := by
  have hx := bits_lt v f.hi f.lo
  have ho : bits old f.hi f.lo - (bits old f.hi f.lo &&& bits v f.hi f.lo) < 2 ^ (f.hi + 1 - f.lo) :=
    Nat.lt_of_le_of_lt (Nat.sub_le _ _) (bits_lt old f.hi f.lo)
  simp only [fldWrite, mt (fldStopped_iff ..).mp h, fldKept, fldActs]
  cases f.acc with
  | ro => exact ⟨hn, ha⟩
  | rw => exact ⟨bits_putBits_of_lt _ hf hx, ha⟩
  | w1c => exact ⟨bits_putBits_of_lt _ hf ho, ha⟩
  | trig => exact ⟨hn, bits_putBits_of_lt _ hf hx⟩
  | cmd => exact ⟨hn, bits_putBits_of_lt _ hf hx⟩

/-- The pass of one field leaves every field that lies apart from it, stored or acting. -/
theorem fldWrite_of_apart {f g : Fld} (hf : f.lo ≤ f.hi) (hg : g.lo ≤ g.hi) (h : g.Apart f) :
    bits (fldWrite old v unlocked secure w g).new f.hi f.lo = bits w.new f.hi f.lo
      ∧ bits (fldWrite old v unlocked secure w g).act f.hi f.lo = bits w.act f.hi f.lo := by
  have keep : ∀ n u, bits (putBits n g.hi g.lo u) f.hi f.lo = bits n f.hi f.lo := fun n u => bits_putBits_of_apart n u hf hg h
  simp only [fldWrite]
  split
  · exact ⟨rfl, rfl⟩
  · cases g.acc with
    | ro => exact ⟨rfl, rfl⟩
    | rw => exact ⟨keep _ _, rfl⟩
    | w1c => exact ⟨keep _ _, rfl⟩
    | trig => exact ⟨rfl, keep _ _⟩
    | cmd => exact ⟨rfl, keep _ _⟩

/-- The marks of refusal after one pass: each is raised by its own guard alone. -/
theorem fldWrite_marks (g : Fld) :
    (fldWrite old v unlocked secure w g).lock = (w.lock || (fldChange g (bits old g.hi g.lo) (bits v g.hi g.lo) && g.lock && !unlocked))
      ∧ (fldWrite old v unlocked secure w g).deny = (w.deny || (fldChange g (bits old g.hi g.lo) (bits v g.hi g.lo) && g.sec && !secure)) := by
  simp only [fldWrite]
  split
  · exact ⟨rfl, rfl⟩
  · rename_i hs
    obtain ⟨hl, hd⟩ := Bool.or_eq_false_iff.mp (Bool.eq_false_iff.mpr hs)
    rw [hl, hd, Bool.or_false, Bool.or_false]
    cases g.acc <;> exact ⟨rfl, rfl⟩

/-! ## The passes of a whole write -/

/-- The passes of fields that all lie apart from f leave f, stored or acting. -/
theorem foldl_fldWrite_of_apart {f : Fld} (hf : f.lo ≤ f.hi) (gs : List Fld) (h : ∀ g ∈ gs, g.lo ≤ g.hi ∧ g.Apart f) :
    bits (gs.foldl (fldWrite old v unlocked secure) w).new f.hi f.lo = bits w.new f.hi f.lo
      ∧ bits (gs.foldl (fldWrite old v unlocked secure) w).act f.hi f.lo = bits w.act f.hi f.lo := by
  induction gs generalizing w with
  | nil => exact ⟨rfl, rfl⟩
  | cons g gs ih =>
    obtain ⟨hg, hgs⟩ := List.forall_mem_cons.mp h
    obtain ⟨hn, ha⟩ := fldWrite_of_apart old v unlocked secure w hf hg.1 hg.2
    obtain ⟨ihn, iha⟩ := ih (fldWrite old v unlocked secure w g) hgs
    exact ⟨ihn.trans hn, iha.trans ha⟩

/-- What a whole write leaves in one of its fields is what that field's own pass leaves, begun while the field holds its old value and has not
acted. -/
theorem wordWrite_field {fs : List Fld} {f : Fld} (hfs : FieldsDescend fs) (hf : f ∈ fs) :
    ∃ u : Wr, bits u.new f.hi f.lo = bits old f.hi f.lo ∧ bits u.act f.hi f.lo = 0
      ∧ bits (wordWrite fs old v unlocked secure).new f.hi f.lo = bits (fldWrite old v unlocked secure u f).new f.hi f.lo
      ∧ bits (wordWrite fs old v unlocked secure).act f.hi f.lo = bits (fldWrite old v unlocked secure u f).act f.hi f.lo := by
  have hspan := hfs.1
  have hfl := hspan f hf
  obtain ⟨l, r, rfl⟩ := List.append_of_mem hf
  have hapart := hfs.apart_of_append
  have hl : ∀ g ∈ l, g.lo ≤ g.hi ∧ g.Apart f := fun g hg => ⟨hspan g (by simp [hg]), hapart g (by simp [hg])⟩
  have hr : ∀ g ∈ r, g.lo ≤ g.hi ∧ g.Apart f := fun g hg => ⟨hspan g (by simp [hg]), hapart g (by simp [hg])⟩
  obtain ⟨hn, ha⟩ := foldl_fldWrite_of_apart old v unlocked secure ⟨old, 0, false, false, false⟩ hfl l hl
  refine ⟨l.foldl (fldWrite old v unlocked secure) ⟨old, 0, false, false, false⟩, hn, ha.trans (bits_zero ..), ?_⟩
  rw [wordWrite, List.foldl_append, List.foldl_cons]
  exact foldl_fldWrite_of_apart old v unlocked secure _ hfl r hr

/-- The marks of refusal after the passes of several fields. -/
theorem foldl_fldWrite_marks (gs : List Fld) :
    (gs.foldl (fldWrite old v unlocked secure) w).lock
        = (w.lock || gs.any (fun g => fldChange g (bits old g.hi g.lo) (bits v g.hi g.lo) && g.lock && !unlocked))
      ∧ (gs.foldl (fldWrite old v unlocked secure) w).deny
        = (w.deny || gs.any (fun g => fldChange g (bits old g.hi g.lo) (bits v g.hi g.lo) && g.sec && !secure)) := by
  induction gs generalizing w with
  | nil => simp
  | cons g gs ih =>
    obtain ⟨hl, hd⟩ := fldWrite_marks old v unlocked secure w g
    obtain ⟨ihl, ihd⟩ := ih (fldWrite old v unlocked secure w g)
    rw [List.foldl_cons, ihl, ihd, hl, hd, List.any_cons, List.any_cons, Bool.or_assoc, Bool.or_assoc]
    exact ⟨rfl, rfl⟩

/-- A write is marked as locked out exactly where the writer holds no unlock and a locked field would change (R517). -/
theorem wordWrite_lock_iff (fs : List Fld) :
    (wordWrite fs old v unlocked secure).lock = true
      ↔ unlocked = false ∧ ∃ g ∈ fs, g.lock = true ∧ fldChange g (bits old g.hi g.lo) (bits v g.hi g.lo) = true := by
  rw [wordWrite, (foldl_fldWrite_marks ..).1]
  cases unlocked <;> simp [and_comm]

/-- A write is marked as denied exactly where the writer is not secure and a secure field would change (R518). -/
theorem wordWrite_deny_iff (fs : List Fld) :
    (wordWrite fs old v unlocked secure).deny = true
      ↔ secure = false ∧ ∃ g ∈ fs, g.sec = true ∧ fldChange g (bits old g.hi g.lo) (bits v g.hi g.lo) = true := by
  rw [wordWrite, (foldl_fldWrite_marks ..).2]
  cases secure <;> simp [and_comm]

/-- A field that the write may not change keeps its value and does not act. -/
theorem wordWrite_of_stopped {fs : List Fld} {f : Fld} (hfs : FieldsDescend fs) (hf : f ∈ fs)
    (h : FldStopped unlocked secure f (bits old f.hi f.lo) (bits v f.hi f.lo)) :
    bits (wordWrite fs old v unlocked secure).new f.hi f.lo = bits old f.hi f.lo
      ∧ bits (wordWrite fs old v unlocked secure).act f.hi f.lo = 0 := by
  obtain ⟨u, hun, hua, hn, ha⟩ := wordWrite_field old v unlocked secure hfs hf
  obtain ⟨sn, sa⟩ := fldWrite_of_stopped old v unlocked secure u h
  exact ⟨by rw [hn, sn, hun], by rw [ha, sa, hua]⟩

/-- Every other field takes the value that its access code gives it. -/
theorem wordWrite_of_not_stopped {fs : List Fld} {f : Fld} (hfs : FieldsDescend fs) (hf : f ∈ fs)
    (h : ¬FldStopped unlocked secure f (bits old f.hi f.lo) (bits v f.hi f.lo)) :
    bits (wordWrite fs old v unlocked secure).new f.hi f.lo = fldKept f (bits old f.hi f.lo) (bits v f.hi f.lo)
      ∧ bits (wordWrite fs old v unlocked secure).act f.hi f.lo = fldActs f (bits v f.hi f.lo) := by
  obtain ⟨u, hun, hua, hn, ha⟩ := wordWrite_field old v unlocked secure hfs hf
  rw [hn, ha]
  exact fldWrite_of_not_stopped old v unlocked secure u (hfs.1 f hf) hun hua h

end

/-- Settles O53: the fields of an assigned register lie apart, so each comes to what its own pass of the write makes of it. -/
theorem fieldsTakeTheirValues : Obligations.FieldsTakeTheirValues := by
  unfold Obligations.FieldsTakeTheirValues
  intro a fs f old v unlocked secure hreg hf
  have hfs := regFlds_descend hreg
  exact ⟨wordWrite_of_stopped old v unlocked secure hfs hf, wordWrite_of_not_stopped old v unlocked secure hfs hf,
    wordWrite_lock_iff old v unlocked secure fs, wordWrite_deny_iff old v unlocked secure fs⟩

end Sys2Proof.Machine
end

section
/-! PROOFS. The boundary of a tick (R24, R252, R262, R447): where bell time comes to, and which actions follow it. -/

namespace Sys2Proof.Machine

/-! ## Bell time goes on -/

@[simp] theorem ppsRise_clk (d : Dev) (s : Nat) : (ppsRise d s).clk = d.clk := by
  unfold ppsRise
  split
  · rfl
  · rfl

@[simp] theorem ppsRise_regs (d : Dev) (s : Nat) : (ppsRise d s).regs = d.regs := by
  unfold ppsRise
  split
  · rfl
  · rfl

/-- The fall of the PPS output changes the bell's pulse and the pads alone. -/
theorem ppsFall_cases (d : Dev) : ppsFall d = d ∨ ppsFall d = emit { d with bell := { d.bell with ppsOut := none } } (.pps false) := by
  unfold ppsFall
  split
  · split
    · exact .inr rfl
    · exact .inl rfl
  · exact .inl rfl

@[simp] theorem ppsFall_clk (d : Dev) : (ppsFall d).clk = d.clk := by
  rcases ppsFall_cases d with h | h
  · rw [h]
  · rw [h]; rfl
@[simp] theorem ppsFall_regs (d : Dev) : (ppsFall d).regs = d.regs := by
  rcases ppsFall_cases d with h | h
  · rw [h]
  · rw [h]; rfl

@[simp] theorem ppsPass_clk (d : Dev) (t : Nat) : (ppsPass d t).clk = d.clk := by
  simp only [ppsPass]
  split <;> simp

@[simp] theorem ppsPass_regs (d : Dev) (t : Nat) : (ppsPass d t).regs = d.regs := by
  simp only [ppsPass]
  split <;> simp

/-- Bell time goes on by whole increments. -/
theorem timeTo_now (d : Dev) (t : Nat) :
    (timeTo d t).clk.now = d.clk.now + ceilDiv (t * 2 ^ 32 - d.clk.now) (max 1 (rg d Reg.BELL_INC)) * rg d Reg.BELL_INC := by
  simp [timeTo]

@[simp] theorem timeTo_regs (d : Dev) (t : Nat) : (timeTo d t).regs = d.regs := by simp [timeTo]

/-- The passing of bell time neither begins nor ends a fabric reset. -/
theorem resetBusy_timeTo (d : Dev) (t : Nat) : resetBusy (timeTo d t) = resetBusy d := by
  simp only [resetBusy, fbit, rg, timeTo_regs]

/-- A quotient rounded up, in steps of the divisor: the first multiple at or past the dividend. -/
theorem ceilDiv_mul_bounds (a : Nat) {b : Nat} (hb : 0 < b) : a ≤ ceilDiv a b * b ∧ ceilDiv a b * b < a + b := by
  have h := Nat.div_add_mod (a + b - 1) b
  have hm := Nat.mod_lt (a + b - 1) hb
  rw [Nat.mul_comm] at h
  unfold ceilDiv
  omega

/-- Bell time stops at the first of its increments at or past the asked time. -/
theorem timeTo_reaches {d : Dev} {t : Nat} (hi : 0 < rg d Reg.BELL_INC) (ht : d.clk.now < t * 2 ^ 32) :
    t * 2 ^ 32 ≤ (timeTo d t).clk.now ∧ (timeTo d t).clk.now < t * 2 ^ 32 + rg d Reg.BELL_INC
      ∧ ((timeTo d t).clk.now - d.clk.now) % rg d Reg.BELL_INC = 0 := by
  obtain ⟨hlo, hhi⟩ := ceilDiv_mul_bounds (t * 2 ^ 32 - d.clk.now) hi
  rw [timeTo_now, Nat.max_eq_right (by omega : 1 ≤ rg d Reg.BELL_INC)]
  refine ⟨by omega, by omega, ?_⟩
  rw [Nat.add_sub_cancel_left, Nat.mul_mod_left]

/-! ## The actions -/

/-- A tick change that is due takes effect, the index of the tick is noted, and the once-per-tick marks go. -/
def tickBegun (d : Dev) : Dev :=
  let x := tickChange d
  { x with clk := { x.clk with ticked := tickIdx x }, ref := { x.ref with once := [] } }

/-- Action 1: the gates of every port with a list. -/
def tickGates (d : Dev) : Dev := (d.tm.gates.map (·.1)).foldl gateTick d

/-- Action 3: the late limits of every bucket. -/
def tickLimits (d : Dev) : Dev := (d.seq.buckets.map (·.1)).foldl (fun x k => metroLate (lateLimit x k) k) d

/-- The timetable slot of the new tick. -/
def tickSlot (d : Dev) : Dev := { d with clk := { d.clk with slotTick := tickIdx d } }

/-- In a fabric reset no action runs. -/
theorem tickActions_of_resetBusy {d : Dev} (h : resetBusy d = true) : tickActions d = { d with clk := { d.clk with ticked := tickIdx d } } :=
  if_pos h

/-- Outside a fabric reset the actions run in the order of R24, actions 2 and 3 where nothing is halted (R447). -/
theorem tickActions_of_not_resetBusy {d : Dev} (h : resetBusy d = false) :
    tickActions d =
      let x := tickGates (tickBegun d)
      let x := if halted x then x else hudTick x
      let x := if halted x then x else tickLimits x
      sweepAborted (tickDue (tickSlot (stepStamp (refereeSample x)))) :=
  if_neg (by simp [h])

theorem tickActions_of_running {d : Dev} (hr : resetBusy d = false) (h1 : halted (tickGates (tickBegun d)) = false)
    (h2 : halted (hudTick (tickGates (tickBegun d))) = false) :
    tickActions d = sweepAborted (tickDue (tickSlot (stepStamp (refereeSample (tickLimits (hudTick (tickGates (tickBegun d)))))))) := by
  simp only [tickActions_of_not_resetBusy hr, h1, h2, Bool.false_eq_true, ↓reduceIte]

theorem tickActions_of_halted {d : Dev} (hr : resetBusy d = false) (h1 : halted (tickGates (tickBegun d)) = true) :
    tickActions d = sweepAborted (tickDue (tickSlot (stepStamp (refereeSample (tickGates (tickBegun d)))))) := by
  simp only [tickActions_of_not_resetBusy hr, h1, ↓reduceIte]

/-- With no slot on a corridor or waiting for one, the corridors deliver nothing. -/
theorem unloadNear_ringEmpty_of_empty {d : Dev} (hr : d.rte.ring = []) (hw : d.rte.waitS = []) : unloadNear (ringEmpty d) = d := by
  have he : ringEmpty d = d := by
    rw [ringEmpty, hr, List.foldl_nil, ← hr]
  rw [he]
  simp only [unloadNear, hw, List.filter_nil, List.foldl_nil]
  rw [← hw]

/-- The actions run once bell time is at the boundary; the corridors move before it only where the fabric runs. -/
theorem tickBoundary_eq_tickActions {d : Dev} (h : halted d = true ∨ resetBusy d = true ∨ d.rte.ring = [] ∧ d.rte.waitS = []) :
    tickBoundary d = tickActions (timeTo d ((tickIdx d + 1) * tickLen d)) := by
  simp only [tickBoundary]
  split
  · rfl
  · next hn =>
    rcases h with h | h | ⟨hring, hwait⟩
    · simp [h] at hn
    · simp [h] at hn
    · rw [unloadNear_ringEmpty_of_empty hring hwait]

theorem exec_tickBoundary {s : State} (h : alive s.dev = true) : exec .tickBoundary s = .next (s.after (tickBoundary s.dev)) :=
  act_next h

/-- Settles O13: the passing of bell time keeps the fabric reset's flag, and the actions run as the device is halted or not. -/
theorem tickActionsInOrder : Obligations.TickActionsInOrder := by
  unfold Obligations.TickActionsInOrder
  intro s d e fresh gates limits slot
  have hd : d = s.dev := rfl
  have he : e = timeTo d ((tickIdx d + 1) * tickLen d) := rfl
  have hfresh : fresh = tickBegun := rfl
  have hgates : gates = tickGates := rfl
  have hlimits : limits = tickLimits := rfl
  have hslot : slot = tickSlot := rfl
  clear_value slot limits gates fresh e d
  subst hd he hfresh hgates hlimits hslot
  have hreset := resetBusy_timeTo s.dev ((tickIdx s.dev + 1) * tickLen s.dev)
  refine ⟨?_, ?_, ?_, ?_⟩
  · rintro t rfl hi hlt
    exact timeTo_reaches hi hlt
  · intro hrun hring hwait h1 h2
    obtain ⟨ha, -, hr⟩ := alive_of_running hrun
    rw [exec_tickBoundary ha, tickBoundary_eq_tickActions (.inr (.inr ⟨hring, hwait⟩)), tickActions_of_running (hreset.trans hr) h1 h2]
  · intro ha hr hh h1
    rw [exec_tickBoundary ha, tickBoundary_eq_tickActions (.inl hh), tickActions_of_halted (hreset.trans hr) h1]
  · intro ha hr
    rw [exec_tickBoundary ha, tickBoundary_eq_tickActions (.inr (.inl hr)), tickActions_of_resetBusy (hreset.trans hr)]

end Sys2Proof.Machine
end

section
/-! PROOFS. CONVERT_BLOCK and ECONV_ROW (R22, R75, R95, R96): the case that each takes where its checks hold. -/

namespace Sys2Proof.Machine

/-! ## The ingress converter -/

/-- Only a KB8 block reads its scale bytes. -/
theorem decodePayload_of_ne_three {fmt : Nat} (h : fmt ≠ 3) (f g : Nat → Nat) (p : List Byte) : decodePayload fmt f p = decodePayload fmt g p := by
  unfold decodePayload
  split
  case h_3 => exact absurd rfl h
  all_goals rfl

/-- The last block of a pass takes the pass and all of its granules with it. -/
theorem convertBlock_of_single {d : Dev} {l : Nat} {p : ConvPass} {rest : List ConvPass} {blk : List Byte} (dup : Bool) (hr : running d = true)
    (ht : ltake (fun (x : ConvPass) => decide (x.link = l)) d.seq.conv = some (p, rest)) (hb : p.blocks = [blk]) :
    convertBlock d l dup = convertOne { d with seq := { d.seq with conv := rest } } l p.hdr blk dup p.grans := by
  simp only [convertBlock, hr, ht, hb, Bool.not_true, Bool.false_eq_true, ↓reduceIte, List.isEmpty_nil]

/-- A block of the bucket's present attempt from one of its slots goes to that slot (R75 step 4). -/
theorem stampBlock_of_slot {d : Dev} {k src vc s : Nat} {prim : Bool} {b : Bucket} (l : Nat) (blk : List Byte) (v : Lanes) (status rm g : Nat)
    (hv : vc ≠ 2) (hs : slotOf b.grp src = some (s, prim)) :
    stampBlock d l k b.attempt src vc b blk v status rm g = seqTake d l k s prim b blk v status rm g := by
  simp only [stampBlock, Nat.lt_irrefl, gt_iff_lt, ↓reduceIte, hv, hs]

/-- A block in a plain format that its bucket accepts is converted by the bucket's reference exponent, whatever its attempt (R57, R75). -/
theorem convertOne_of_plain {d : Dev} {hdr blk : List Byte} {b : Bucket} (l g : Nat) (hres : resOk blk = true) (hok : blkOk blk = true)
    (hb : bucketAt d (passKey hdr) = some b) (ht : takesBlocks d b (fVc hdr) = true) (hv : fVc hdr ≠ 2) (hc : isCopy b = false) (ho : bOp b ≠ 6)
    (ha : accepts b (blkFmt blk) (deepSource (passKey hdr) b (fSrc hdr) (fVc hdr)) = true)
    (h3 : blkFmt blk ≠ 3) (h4 : blkFmt blk ≠ 4) (h8 : blkFmt blk ≠ 8) :
    convertOne d l hdr blk false g = stampBlock d l (passKey hdr) (passAtt hdr) (fSrc hdr) (fVc hdr) b blk
      (convertElems (blkFmt blk) (decodePayload (blkFmt blk) (fun _ => 0) (blkPayload blk)) (if isInt (bFmt b) then 0 else s128 b.eref) 111)
      (blkStatus blk) (if isInt (blkFmt blk) then 0 else blkRm blk) g := by
  simp only [convertOne, hres, hok, hb, ht, hv, hc, ho, ha, h3, h4, h8, Bool.not_true, Bool.false_eq_true, ↓reduceIte, or_self, false_and,
    Option.map_none, Option.getD_none, Nat.or_zero, Nat.max_zero]
  rw [decodePayload_of_ne_three h3 _ fun _ => 0]

/-! ## The egress converter -/

/-- A row of a running bucket whose check holds, at a node with a parent: its INV flags join the row's status, its elements go up, and the desk
learns that the converter has it (R95, R96). -/
theorem econvRow_of_sent {d e : Dev} {l : Nat} {o : RowOut} {rest : List RowOut} {b : Bucket} {x : Chunk} (hr : running d = true)
    (ht : ltake (fun (r : RowOut) => decide (r.conv = l)) d.seq.rowOut = some (o, rest)) (hc : chunkOf d o.key o.att o.chunk = some (b, x))
    (hd : x.st ≠ .discarded) (hb : b.st = .opened ∨ b.st = .closed) (hk : (rowCheck .none o.elems).2 = false) (hp : hasParent b.grp = true)
    (hs : let x' := { x with rowSt := tput x.rowSt o.row (tget 0 x.rowSt o.row ||| invOf ((rowCheck .none o.elems).1.map (fun (y : AElem) => y.k))) }
      rowSend (bucketPut { d with seq := { d.seq with rowOut := rest } } o.key (chunkPut b o.chunk x')) o.key (chunkPut b o.chunk x') x' o.chunk o.row l
        (rowCheck .none o.elems).1 = some e) :
    econvRow d l .none false = rowConfirm e o.key o.att o.chunk := by
  have hc' : chunkOf { d with seq := { d.seq with rowOut := rest } } o.key o.att o.chunk = some (b, x) := hc
  simp only [econvRow, hr, ht, hk, hc', hd, hb, hp, hs, Bool.not_true, Bool.false_eq_true, ↓reduceIte, not_true_eq_false, or_self, true_or]

theorem exec_convertBlock {s : State} (l : Fin 128) (dup : Bool) (h : alive s.dev = true) :
    exec (.convertBlock l dup) s = .next (s.after (convertBlock s.dev l.val dup)) := act_next (f := fun d => convertBlock d l.val dup) h

theorem exec_econvRow {s : State} (l : Fin 128) (u : Upset) (dup : Bool) (h : alive s.dev = true) :
    exec (.econvRow l u dup) s = .next (s.after (econvRow s.dev l.val u dup)) := act_next (f := fun d => econvRow d l.val u dup) h

/-- Settles O19: the checks leave each converter one case, and a plain block of the present attempt goes to the slot of its source. -/
theorem blocksAreConverted : Obligations.BlocksAreConverted := by
  unfold Obligations.BlocksAreConverted
  intro s l
  refine ⟨?_, ?_⟩
  · intro p rest blk b sl prim _ _ hrun ht hp hres hok hb htb hatt hvc hs hcopy hop hacc h3 h4 h8
    have hone := convertOne_of_plain (d := { s.dev with seq := { s.dev.seq with conv := rest } }) l.val p.grans hres hok hb htb hvc hcopy hop hacc h3 h4 h8
    rw [exec_convertBlock l false (alive_of_running hrun).1, convertBlock_of_single false hrun ht hp, hone, hatt,
      stampBlock_of_slot l.val blk _ _ _ _ hvc hs]
  · intro o rest b x e _ _ _ hrun ht hc hd hb hk hp hs
    rw [exec_econvRow l .none false (alive_of_running hrun).1, econvRow_of_sent hrun ht hc hd hb hk hp hs]

end Sys2Proof.Machine
end

section
/-! PROOFS. Frames at the receiver and on the corridors, echoes, rates and gaps (R18, R290, R307, R308, R312, R313, R434). -/

namespace Sys2Proof.Machine

/-! ## The frame check (R434) -/

theorem field_check_crc (c n : Nat) : field (beBytes 4 c ++ beBytes 2 n ++ beBytes 2 0) 0 4 = c % 256 ^ 4 := by
  rw [List.append_assoc, ← List.nil_append (beBytes 4 c), field_at [] _ _ 0 4 rfl (beBytes_length ..), beNat_beBytes]

theorem field_check_len (c n : Nat) : field (beBytes 4 c ++ beBytes 2 n ++ beBytes 2 0) 4 2 = n % 256 ^ 2 := by
  rw [field_at _ _ _ 4 2 (beBytes_length ..) (beBytes_length ..), beNat_beBytes]

/-- A CRC differs from its inverse. -/
theorem crc32c_xor_lt (b : List Byte) : crc32c b ^^^ 0xFFFF_FFFF < 2 ^ 32 := Nat.xor_lt_two_pow (crc32c_lt b) (by decide)

theorem ne_xor_ones (c : Nat) : c ≠ c ^^^ 0xFFFF_FFFF := by
  intro h
  have hz : c ^^^ (c ^^^ 0xFFFF_FFFF) = 0 := h ▸ Nat.xor_self c
  rw [← Nat.xor_assoc, Nat.xor_self, Nat.zero_xor] at hz
  exact absurd hz (by decide)

@[simp] theorem stompCheck_length (b : List Byte) : (stompCheck b).length = 8 := by simp [stompCheck]
@[simp] theorem frameCheck_length (b : List Byte) : (frameCheck b).length = 8 := by simp [frameCheck]

/-! ## FRAME_RECEIVE -/

/-- What lets an egress's link bring a fabric frame to the device: it is in service, carries no Ethernet, and the fabric runs. -/
def Receives (d : Dev) (e : Nat) : Prop :=
  linkCarries d (egLink e) = true ∧ egEther d e = false ∧ running d = true ∧ (128 ≤ e → isSplit d (egLink e) = true)

theorem not_discards {d : Dev} {e : Nat} (h : Receives d e) :
    ¬ (!linkCarries d (egLink e) ∨ egEther d e ∨ !running d ∨ (e ≥ 128 ∧ !isSplit d (egLink e))) := by
  obtain ⟨hl, he, hr, hs⟩ := h
  rintro (h | h | h | ⟨h, h'⟩)
  · simp [hl] at h
  · simp [he] at h
  · simp [hr] at h
  · simp [hs h] at h'

/-- A frame with an inverted check is discarded and counted (R297). -/
theorem frameReceive_stomped {d : Dev} {e : Nat} (b : List Byte) (colour : Nat) (h : Receives d e) :
    frameReceive d e (b ++ stompCheck b) colour = bump d Reg.INT_STOMP_CNT := by
  have hf : field (stompCheck b) 0 4 = crc32c b ^^^ 0xFFFF_FFFF := by
    rw [stompCheck, field_check_crc]
    exact Nat.mod_eq_of_lt (crc32c_xor_lt b)
  simp only [frameReceive]
  rw [if_neg (not_discards h)]
  simp [hf]

/-- A frame whose check and length hold is accepted. -/
theorem frameReceive_good {d : Dev} {e : Nat} {b : List Byte} (colour : Nat) (h : Receives d e) (hl : lenOk (b ++ frameCheck b) = true) :
    frameReceive d e (b ++ frameCheck b) colour = frameIn d e b colour := by
  have hc : field (frameCheck b) 0 4 = crc32c b := by
    rw [frameCheck, field_check_crc]
    exact Nat.mod_eq_of_lt (crc32c_lt b)
  have hn : b.length + 8 ≤ 2216 := by
    simp only [lenOk, Bool.and_eq_true, decide_eq_true_eq, List.length_append, frameCheck_length] at hl
    exact hl.1.2
  have hlen : field (frameCheck b) 4 2 = b.length + 8 := by
    rw [frameCheck, field_check_len, fLen, Nat.mod_eq_of_lt (by omega)]
  simp only [frameReceive]
  rw [if_neg (not_discards h)]
  simp [hc, hlen, hl, ne_xor_ones]

theorem refillPolicers_of_now {d : Dev} (h : ns d / 80 = d.tm.polAt) : refillPolicers d = d := by
  simp [refillPolicers, h]

theorem police_of_unpoliced {d : Dev} {p v : Nat} (len colour : Nat) (h : (polOf d p v).cfg.msb = false) : police d p v len colour = (colour, d) := by
  simp [police, h]

theorem capture_of_disabled {d : Dev} (dir e port v ev : Nat) (b : List Byte) (h : fbit d Reg.TM_CAP_CTRL Fd.TM_CAP_CTRL_en = false) :
    capture d dir e port v ev b = d := by
  simp [capture, h]

theorem mirrorHits_of_disabled {d : Dev} (kinds : List Nat) (p : Nat) (b : List Byte) (h : fbit d Reg.TM_CTRL Fd.TM_CTRL_mirror_en = false) :
    mirrorHits d kinds p b = [] := by
  simp [mirrorHits, h]

/-- A frame with an egress before it goes on toward it (R290). -/
theorem deliver_of_egress {d : Dev} (l p : Nat) {b : List Byte} (colour : Nat) (hits : List Nat) (raw : List Byte)
    (h : nextHop d b ≠ .huddle ∧ nextHop d b ≠ .mgmt ∧ nextHop d b ≠ .host ∧ nextHop d b ≠ .drop) :
    deliver d l p b colour hits raw = forward d (l / 8) p b colour hits raw := by
  obtain ⟨h1, h2, h3, h4⟩ := h
  unfold deliver
  split
  · next hn => exact absurd hn h1
  · next hn => exact absurd hn h2
  · next hn => exact absurd hn h3
  · next hn => exact absurd hn h4
  · rfl

/-- An accepted frame on a fabric port without policer, mirror or capture, for another device or for an egress of this one, is delivered as it came. -/
theorem frameIn_of_transit {d : Dev} {e p : Nat} {b : List Byte} (colour : Nat) (hver : fVer b = 1) (hvc : vcOk (fKind b) (fVc b) = true)
    (hk : fKind b ≠ 6) (hp : egPort d e = some p) (hen : portEn d p = true) (hkind : portKind d p = 1 ∨ portKind d p = 2)
    (hnow : ns d / 80 = d.tm.polAt) (hpol : (polOf d p (fVc b)).cfg.msb = false) (hits : mirrorHits d [0, 2] p b = [])
    (hcap : fbit d Reg.TM_CAP_CTRL Fd.TM_CAP_CTRL_en = false) (hdst : fDst b ≠ mgmtCoord d)
    (hre : reordered (fKind b) = true → ¬ (cGroup (fDst b) = selfG d ∧ cSwitch (fDst b) = selfS d)) :
    frameIn d e b colour = deliver d (egLink e) p b colour [] b := by
  have hedge : ¬ (portKind d p = 0 ∨ portKind d p = 3) := by omega
  simp only [frameIn, hver, hvc, hk, hp, hen, hedge, refillPolicers_of_now hnow, police_of_unpoliced _ _ hpol, hpol, hits, hdst,
    capture_of_disabled _ _ _ _ _ _ hcap, ne_eq, not_true_eq_false, Bool.not_true, Bool.false_eq_true, or_self, decide_false, false_and, and_false,
    ↓reduceIte, Bool.not_false, true_and]
  rw [if_neg fun h => hre h.1 h.2]

/-! ## Corridors (R308) -/

theorem slotEnter_of_none {d : Dev} {corr st dir : Nat}
    (h : ltake (fun (y : Slot) => decide (y.corr = corr ∧ y.dir = dir ∧ y.src = st)) d.rte.waitS = none) : slotEnter d corr st dir = d := by
  simp only [slotEnter, h]

/-- A waiting slot for another station enters where the corridor and its credits have room. -/
theorem slotEnter_of_room {d : Dev} {corr st dir : Nat} {x : Slot} {rest : List Slot}
    (h : ltake (fun (y : Slot) => decide (y.corr = corr ∧ y.dir = dir ∧ y.src = st)) d.rte.waitS = some (x, rest)) (hd : x.dst ≠ st)
    (hs : slotsAt d corr dir st ≤ 2) (hc : tget 0 d.rte.credits (credKey x) < 2) :
    slotEnter d corr st dir =
      { d with rte := { d.rte with waitS := rest, ring := d.rte.ring ++ [x],
                                   credits := tset 0 d.rte.credits (credKey x) (tget 0 d.rte.credits (credKey x) + 1) } } := by
  simp only [slotEnter, h, hd, hs, hc, ↓reduceIte, and_self]

/-- Where no bucket is held, none is freed. -/
theorem sweepAborted_of_no_bucket {d : Dev} (h : ∀ b ∈ d.seq.buckets, b.2 = none) : sweepAborted d = d := by
  have fold : ∀ bs : List (Nat × Option Bucket), (∀ b ∈ bs, b.2 = none) → ∀ x : Dev, bs.foldl (fun d e => match e.2 with
      | some b => if b.st = .aborted ∧ !passWaits d none (abortMark e.1) then bucketSet d e.1 none else d
      | none => d) x = x := by
    intro bs
    induction bs with
    | nil => exact fun _ _ => rfl
    | cons b bs ih =>
      intro hb x
      rw [List.foldl_cons, hb b List.mem_cons_self]
      exact ih (fun y hy => hb y (List.mem_cons_of_mem _ hy)) x
  exact fold _ h d

/-! ## Echoes, rates and gaps (R307, R312, R313) -/

theorem echoSend_of_owed {d : Dev} {src vc : Nat} (hr : running d = true) (h : ∃ x ∈ d.rte.echoes, x.1 = src ∧ x.2.1 = vc) :
    echoSend d src vc = originate { d with rte := { d.rte with echoes := d.rte.echoes.filter (fun x => ¬ (x.1 = src ∧ x.2.1 = vc)) } }
      (setBit1 (mkHeader 9 vc src (mgmtCoord d)) 1 true) := by
  have hany : d.rte.echoes.any (fun x => x.1 = src ∧ x.2.1 = vc) = true := by simpa using h
  rw [echoSend, if_pos ⟨hany, hr⟩]
  rfl

/-- A cut rate rises by a 64th of the full one for each whole interval, up to the full one. -/
theorem rateRise_of_cut {d : Dev} {r : EcnRate} {x : Nat} (full : Nat) (hx : r.rate = some x)
    (hk : 0 < (ns d - r.last) / (64 * fget1 d Reg.RTE_ECN Fd.RTE_ECN_recover)) :
    rateRise d full r =
      let step := 64 * fget1 d Reg.RTE_ECN Fd.RTE_ECN_recover
      let k := (ns d - r.last) / step
      if x + k * (full / 64) < full then { r with rate := some (x + k * (full / 64)), last := r.last + k * step }
      else { r with rate := none, last := ns d } := by
  simp only [rateRise, hx, Nat.ne_of_gt hk, ↓reduceIte, ge_iff_le]
  split
  · rw [if_neg (by omega)]
  · rw [if_pos (by omega)]

/-- The search for the nearest early frame keeps to the frames searched, and ends at one that none of them undercuts. -/
theorem foldl_nearest {α : Type} (f : α → Nat) (xs : List α) (x : α) :
    xs.foldl (fun y z => if f z < f y then z else y) x ∈ x :: xs
      ∧ ∀ z ∈ x :: xs, f (xs.foldl (fun y z => if f z < f y then z else y) x) ≤ f z := by
  induction xs generalizing x with
  | nil => simp
  | cons a xs ih =>
    obtain ⟨hm, hle⟩ := ih (if f a < f x then a else x)
    rw [List.foldl_cons]
    have hstep : f (if f a < f x then a else x) ≤ f x ∧ f (if f a < f x then a else x) ≤ f a := by
      split <;> omega
    have hhead := hle _ List.mem_cons_self
    refine ⟨?_, fun z hz => ?_⟩
    · rcases List.mem_cons.mp hm with h | h
      · rw [h]
        split <;> simp
      · exact List.mem_cons_of_mem _ (List.mem_cons_of_mem _ h)
    · rcases List.mem_cons.mp hz with rfl | hz
      · exact Nat.le_trans hhead hstep.1
      · rcases List.mem_cons.mp hz with rfl | hz
        · exact Nat.le_trans hhead hstep.2
        · exact hle z (List.mem_cons_of_mem _ hz)

/-- Distance of an early frame from the one expected, modulo 2^32. -/
def gapTo (s : SeqIn) (x : Early) : Nat := (x.seq + 2 ^ 32 - s.expected) % 2 ^ 32

/-- A gap whose time is over ends at the nearest early frame (R307). -/
theorem gapTimeout_of_nearest {d : Dev} {k : Nat} {lo : Early} (hm : lo ∈ (seqInAt d k).early)
    (hle : ∀ x ∈ (seqInAt d k).early, gapTo (seqInAt d k) lo ≤ gapTo (seqInAt d k) x)
    (hone : ∀ x ∈ (seqInAt d k).early, gapTo (seqInAt d k) x = gapTo (seqInAt d k) lo → x = lo)
    (ht : (seqInAt d k).since + fget1 d Reg.RTE_CTRL Fd.RTE_CTRL_gap_ticks * tickLen d ≤ ns d) :
    gapTimeout d k = seqDrain (seqInAt d k).early.length k
      (raise (bump (seqInPut d k { seqInAt d k with expected := lo.seq, since := ns d }) Reg.RTE_GAP_CNT (gapTo (seqInAt d k) lo)) 915) := by
  cases he : (seqInAt d k).early with
  | nil => simp [he] at hm
  | cons x xs =>
    rw [he] at hm hle hone
    obtain ⟨hmem, hmin⟩ := foldl_nearest (gapTo (seqInAt d k)) xs x
    have hlo := hone _ hmem (Nat.le_antisymm (hmin lo hm) (hle _ hmem))
    unfold gapTo at hlo
    simp only [gapTimeout, he, Nat.not_lt.mpr ht, ↓reduceIte, hlo, gapTo]

end Sys2Proof.Machine
end

section
/-! PROOFS. FRAME_TRANSMIT (R326, R398, R406): choosing the next frame touches queues and tags alone, and what sending it leaves at the pads. -/

namespace Sys2Proof.Machine

/-! ## Queues and tags (R327) -/

/-- A device that differs from another in its egress queues and their tags alone. -/
def TagsOnly (d e : Dev) : Prop := ∃ q u l, e = { d with tm := { d.tm with queues := q, upper := u, lower := l } }

theorem TagsOnly.refl (d : Dev) : TagsOnly d d := ⟨_, _, _, rfl⟩

theorem TagsOnly.trans {d e f : Dev} (h : TagsOnly d e) (g : TagsOnly e f) : TagsOnly d f := by
  obtain ⟨_, _, _, rfl⟩ := h
  obtain ⟨q, u, l, rfl⟩ := g
  exact ⟨q, u, l, rfl⟩

theorem upperPut_tags (d : Dev) (e : Nat) (x : Level) : TagsOnly d (upperPut d e x) := ⟨_, _, _, rfl⟩
theorem lowerPut_tags (d : Dev) (e v : Nat) (x : Level) : TagsOnly d (lowerPut d e v x) := ⟨_, _, _, rfl⟩

theorem retag_tags (d : Dev) (e v : Nat) (wake : Bool) : TagsOnly d (retag d e v wake) := by
  unfold retag
  split
  · exact .refl d
  · split
    · exact .refl d
    · extract_lets
      split
      · exact .refl d
      · exact upperPut_tags ..

theorem sampleVc_tags (d : Dev) (e v : Nat) : TagsOnly d (sampleVc d e v) := by
  unfold sampleVc
  split
  · exact .refl d
  · extract_lets
    split
    · exact upperPut_tags ..
    · split
      · exact (lowerPut_tags ..).trans ((upperPut_tags ..).trans (retag_tags ..))
      · exact .refl d

theorem foldl_sampleVc_tags (vs : List Nat) (d : Dev) (e : Nat) : TagsOnly d (vs.foldl (fun x v => sampleVc x e v) d) := by
  induction vs generalizing d with
  | nil => exact .refl d
  | cons v vs ih => exact (sampleVc_tags d e v).trans (ih _)

/-- Every VC of an egress is sampled before the choice (R327). -/
def sampleAll (d : Dev) (e : Nat) : Dev := (List.range 8).foldl (fun x v => sampleVc x e v) d

theorem sampleAll_tags (d : Dev) (e : Nat) : TagsOnly d (sampleAll d e) := foldl_sampleVc_tags (List.range 8) d e

theorem popQ_tags (d : Dev) (e v k : Nat) : TagsOnly d (popQ d e v k) := by
  unfold popQ
  extract_lets q tm d1 lo t t' d2 u t2 d3
  have h1 : TagsOnly d d1 := ⟨_, _, _, rfl⟩
  have h2 : TagsOnly d1 d2 := by
    unfold d2
    split
    · exact lowerPut_tags ..
    · exact lowerPut_tags ..
  split
  · exact h1
  · split
    · exact h1.trans (h2.trans (upperPut_tags ..))
    · exact h1.trans (h2.trans ((upperPut_tags ..).trans (retag_tags ..)))

/-! ## The codewords of a T-link (R398, R400) -/

/-- Something driven as a codeword of a link. -/
def IsCodeword (l : Nat) (w : Wire) : Prop := ∃ q c, w = .codeword l q c

/-- Codewords that are sent change the pads alone. -/
theorem foldl_emit_codewords (l : Nat) (cs : List Codeword) (d : Dev) :
    ∃ ws, cs.foldl (fun d c => emit d (.codeword l (c.seq % 2 ^ 32) (cwBytes (cwBody d l c)))) d = { d with wire := d.wire ++ ws }
      ∧ ∀ w ∈ ws, IsCodeword l w := by
  induction cs generalizing d with
  | nil => exact ⟨[], by simp, by simp⟩
  | cons c cs ih =>
    obtain ⟨ws, hw, hall⟩ := ih (emit d (.codeword l (c.seq % 2 ^ 32) (cwBytes (cwBody d l c))))
    refine ⟨.codeword l (c.seq % 2 ^ 32) (cwBytes (cwBody d l c)) :: ws, ?_, ?_⟩
    · rw [List.foldl_cons, hw]
      simp [emit]
    · rintro w (_ | ⟨_, hm⟩)
      · exact ⟨_, _, rfl⟩
      · exact hall w hm

@[simp] theorem dynOf_dynPut_self (d : Dev) (l : Nat) (x : LinkDyn) : dynOf (dynPut d l x) l = x := by simp [dynOf, dynPut]

/-- The codewords that are due leave; what waits in the stream stays. -/
theorem cwPump_sends (d : Dev) (l : Nat) :
    ∃ ws y, cwPump d l = { d with wire := d.wire ++ ws, lnk := y } ∧ (∀ w ∈ ws, IsCodeword l w)
      ∧ ∃ n, dynOf (cwPump d l) l = { dynOf d l with txNext := n } := by
  simp only [cwPump]
  split
  · exact ⟨[], d.lnk, by simp, by simp, (dynOf d l).txNext, rfl⟩
  · obtain ⟨ws, hw, hall⟩ := foldl_emit_codewords l ((dynOf d l).txw.filter (fun c => decide ((dynOf d l).txNext ≤ c.seq ∧ c.seq ≤ txSeq d l))) d
    rw [hw, dynMod]
    exact ⟨ws, _, rfl, hall, _, dynOf_dynPut_self ..⟩

/-- A frame joins the stream of a T-link after what is due has left. -/
theorem cwFrame_sends (d : Dev) (l colour : Nat) (w : List Byte) :
    ∃ ws y, cwFrame d l colour w = { d with wire := d.wire ++ ws, lnk := y } ∧ (∀ w ∈ ws, IsCodeword l w)
      ∧ (dynOf (cwFrame d l colour w) l).txw
          = cwFill ((padTo 8 w).length / 256 + 2) (txFresh d l) (some colour) (padTo 8 w) (dynOf d l).txw := by
  obtain ⟨ws, y, hp, hall, n, hn⟩ := cwPump_sends d l
  have hclk : (cwPump d l).clk = d.clk := by rw [hp]
  have hfresh : txFresh (cwPump d l) l = txFresh d l := by
    simp only [txFresh, txSeq, hn, ns256, hclk]
  have hlnk : cwFrame d l colour w = { cwPump d l with lnk := (cwFrame d l colour w).lnk } := rfl
  refine ⟨ws, (cwFrame d l colour w).lnk, hlnk.trans (by rw [hp]), hall, ?_⟩
  · simp only [cwFrame, dynMod, dynOf_dynPut_self, hn, hfresh]

/-- A fabric frame on a link that is not reserved: on a T-link it joins the codewords, on a G-link it goes in a PCS frame. -/
theorem drive_of_fabric {d : Dev} {e : Nat} (h : rsvOf d (egLink e) = none) (colour : Nat) (b : List Byte) :
    ∃ ws y, drive d e colour b = { d with wire := d.wire ++ .frame e (b ++ frameCheck b) colour :: ws, lnk := y }
      ∧ (96 ≤ e → ws = [.pcs e (pcsPrefix colour ++ (b ++ frameCheck b))])
      ∧ (e < 96 → (∀ w ∈ ws, IsCodeword e w) ∧ (dynOf (drive d e colour b) e).txw
          = cwFill ((padTo 8 (b ++ frameCheck b)).length / 256 + 2) (txFresh d e) (some colour) (padTo 8 (b ++ frameCheck b)) (dynOf d e).txw) := by
  by_cases he : e < 96
  · obtain ⟨ws, y, hw, hall, htxw⟩ := cwFrame_sends (emit d (.frame e (b ++ frameCheck b) colour)) e colour (b ++ frameCheck b)
    have hd : drive d e colour b = cwFrame (emit d (.frame e (b ++ frameCheck b) colour)) e colour (b ++ frameCheck b) := by
      simp only [drive, h, he, ↓reduceIte]
    refine ⟨ws, y, ?_, fun h96 => absurd he (Nat.not_lt.mpr h96), fun _ => ⟨hall, ?_⟩⟩
    · rw [hd, hw]
      simp [emit]
    · rw [hd, htxw]
      rfl
  · have hd : drive d e colour b = emit (emit d (.frame e (b ++ frameCheck b) colour)) (.pcs e (pcsPrefix colour ++ (b ++ frameCheck b))) := by
      simp only [drive, h, he, ↓reduceIte]
    refine ⟨_, d.lnk, ?_, fun _ => rfl, fun h96 => absurd h96 he⟩
    rw [hd]
    simp [emit]

/-! ## Sending the head frame -/

/-- What sending a frame takes of its shaper's tokens (R330). -/
def spendTokens (d : Dev) (e v len : Nat) : Dev :=
  let s := shaperOf d e v
  if s.word.msb then shaperPut d e v { s with tok := s.tok - len } else d

/-- A frame takes its time on its link. -/
def linkTaken (d : Dev) (e len : Nat) : Dev :=
  { d with tm := { d.tm with txEnd := tset 0 d.tm.txEnd e (ns256 d + ceilDiv (wireLen e len * 20480) (egRate d e)) } }

/-- A frame that the device originated puts off the next one of its port and VC while the rate is cut (R313). -/
def paceNext (d : Dev) (p v len : Nat) (f : QFrame) : Dev :=
  if f.orig ∧ v ≠ 0 ∧ v ≠ 4 then
    let r := tget EcnRate.init d.rte.ecn (p * 8 + v)
    match r.rate with
    | some x =>
      let r := { r with next := ns256 d + ceilDiv (len * 20480 * 64) (max 1 x) }
      { d with rte := { d.rte with ecn := tset EcnRate.init d.rte.ecn (p * 8 + v) r } }
    | none => d
  else d

theorem portKind_congr {d e : Dev} (h : d.regs = e.regs) (p : Nat) : portKind d p = portKind e p := by
  simp only [portKind, fget, rg_congr h]

theorem fbit_congr {d e : Dev} (h : d.regs = e.regs) (a : Nat) (f : Nat × Nat) : fbit d a f = fbit e a f := by
  simp only [fbit, rg_congr h]

/-- Spent tokens change the shapers alone. -/
theorem spendTokens_only (d : Dev) (e v len : Nat) : ∃ sh, spendTokens d e v len = { d with tm := { d.tm with shapers := sh } } := by
  simp only [spendTokens]
  split
  · exact ⟨_, rfl⟩
  · exact ⟨d.tm.shapers, rfl⟩

theorem paceNext_regs (d : Dev) (p v len : Nat) (f : QFrame) : (paceNext d p v len f).regs = d.regs := by
  simp only [paceNext]
  split
  · split
    · rfl
    · rfl
  · rfl

/-- Granules that are freed leave the kinds of the ports. -/
theorem portKind_poolFreeGrans (d : Dev) (c st n : Nat) {p : Nat} (hp : p < 128) : portKind (poolFreeGrans d c st n) p = portKind d p := by
  have hne : Reg.PORT_CFG p ≠ Reg.MEM_EXTRA_FREE_CNT := by unfold Reg.PORT_CFG Reg.MEM_EXTRA_FREE_CNT; omega
  simp only [poolFreeGrans]
  split
  · rfl
  · simp only [portKind, fget, rg_bump_ne _ _ hne]
    rfl

theorem portKind_bufDrop (d : Dev) (i st : Nat) {p : Nat} (hp : p < 128) : portKind (bufDrop d i st) p = portKind d p := by
  simp only [bufDrop]
  split
  · exact portKind_poolFreeGrans _ _ _ _ hp
  · rfl

theorem portKind_release (d : Dev) (e : Nat) (f : QFrame) {p : Nat} (hp : p < 128) : portKind (release d e f) p = portKind d p := by
  unfold release
  split
  · exact portKind_bufDrop _ _ _ hp
  · split
    · rfl
    · exact portKind_poolFreeGrans _ _ _ _ hp

theorem egPort_lt {d : Dev} {e p : Nat} (h : egPort d e = some p) : p < 128 := by
  simp only [egPort] at h
  split at h
  · split at h
    · cases h; exact Nat.mod_lt _ (by decide)
    · cases h
  · split at h
    · cases h; exact Nat.mod_lt _ (by decide)
    · cases h

/-- On an edge port, without marks, mirrors or capture, the head frame leaves its queue and is driven as it is; its tokens, its link's time and its
granules are accounted for, and nothing else happens. -/
theorem sendHead_of_edge {d : Dev} {e v k p : Nat} {f : QFrame} {q : List QFrame} (hk : headSub d e v = some k) (hq : queueOf d e v k = f :: q)
    (hp : egPort (popQ d e v k) e = some p) (hkind : portKind (popQ d e v k) p = 0 ∨ portKind (popQ d e v k) p = 3)
    (hmark : fbit (popQ d e v k) Reg.TM_CTRL Fd.TM_CTRL_mark_en = false)
    (hmir : fbit (popQ d e v k) Reg.TM_CTRL Fd.TM_CTRL_mirror_en = false)
    (hcap : fbit (popQ d e v k) Reg.TM_CAP_CTRL Fd.TM_CAP_CTRL_en = false)
    (hdrive : (drive (popQ d e v k) e f.colour f.bytes).regs = (popQ d e v k).regs) :
    sendHead d e v = paceNext (release (linkTaken (spendTokens (drive (popQ d e v k) e f.colour f.bytes) e v (fLen f.bytes)) e (fLen f.bytes)) e f)
      p v (fLen f.bytes) f := by
  unfold sendHead
  rw [hk]
  dsimp -zeta only
  rw [hq]
  dsimp -zeta only
  generalize popQ d e v k = P at *
  have hlt := egPort_lt hp
  extract_lets D1 p' away b mark ce D2 b' len D3 s D4 tm D5 D6 hits bufs bb D7 D8 r rte D9
  have hp' : p' = p := by simp [p', D1, hp]
  have haway : ¬ away := by simp only [away, D1, hp']; omega
  have hce : ¬ ce := by simp [ce, D1, hmark]
  have hb : b' = f.bytes := (if_neg hce).trans (if_neg fun h => haway h.1)
  have hD3 : D3 = drive P e f.colour f.bytes := by simp only [D3, hb, D2, if_neg hce, D1]
  have hD5 : D5 = linkTaken (spendTokens (drive P e f.colour f.bytes) e v (fLen f.bytes)) e (fLen f.bytes) := by
    rw [← hD3, ← hb]
    rfl
  have hregs : D5.regs = P.regs := by
    obtain ⟨sh, hsp⟩ := spendTokens_only (drive P e f.colour f.bytes) e v (fLen f.bytes)
    rw [hD5, hsp]
    exact hdrive
  have hD6 : D6 = D5 := capture_of_disabled _ _ _ _ _ _ ((fbit_congr hregs ..).trans hcap)
  have hhits : hits = [] := by
    simp only [hits, mirrorHits_of_disabled _ _ _ ((fbit_congr (hD6 ▸ hregs) ..).trans hmir), ite_self]
  have hD8 : D8 = release D5 e f := by
    simp only [D8, D7, bb, hhits, hD6, List.isEmpty_nil, true_or, ↓reduceIte, List.foldl_nil, release]
    cases f.buf with
    | some i => rfl
    | none => rfl
  have hD9 : D9 = paceNext (release D5 e f) p v (fLen f.bytes) f := by
    rw [← hD8, ← hp', ← hb]
    rfl
  have hkind2 : portKind D9 p' ≠ 2 := by
    rw [hD9, hp', portKind_congr (paceNext_regs ..), portKind_release _ _ _ hlt, portKind_congr hregs]
    omega
  rw [if_neg fun h => haway h.1, if_neg fun h => hkind2 h.2, hD9, hD5]

/-! ## What accounting for a frame leaves -/

/-- A device whose pads, links, link times, collectives and HBM bytes are those of another. -/
structure PadsKept (d e : Dev) : Prop where
  wire : e.wire = d.wire
  lnk : e.lnk = d.lnk
  txEnd : e.tm.txEnd = d.tm.txEnd
  hbm : e.mem.hbm = d.mem.hbm
  seq : e.seq = d.seq

theorem PadsKept.refl (d : Dev) : PadsKept d d := ⟨rfl, rfl, rfl, rfl, rfl⟩

theorem PadsKept.trans {d e f : Dev} (h : PadsKept d e) (g : PadsKept e f) : PadsKept d f :=
  ⟨g.wire.trans h.wire, g.lnk.trans h.lnk, g.txEnd.trans h.txEnd, g.hbm.trans h.hbm, g.seq.trans h.seq⟩

theorem poolFreeGrans_padsKept (d : Dev) (c st n : Nat) : PadsKept d (poolFreeGrans d c st n) := by
  simp only [poolFreeGrans]
  split
  · exact ⟨rfl, rfl, rfl, rfl, rfl⟩
  · exact ⟨rfl, rfl, rfl, rfl, rfl⟩

theorem bufDrop_padsKept (d : Dev) (i st : Nat) : PadsKept d (bufDrop d i st) := by
  have hbufs : ∀ bs, PadsKept d { d with tm := { d.tm with bufs := bs } } := fun _ => ⟨rfl, rfl, rfl, rfl, rfl⟩
  simp only [bufDrop]
  split
  · exact (hbufs _).trans (poolFreeGrans_padsKept ..)
  · exact hbufs _

theorem release_padsKept (d : Dev) (e : Nat) (f : QFrame) : PadsKept d (release d e f) := by
  unfold release
  split
  · exact bufDrop_padsKept ..
  · split
    · exact .refl d
    · exact poolFreeGrans_padsKept ..

theorem paceNext_padsKept (d : Dev) (p v len : Nat) (f : QFrame) : PadsKept d (paceNext d p v len f) := by
  simp only [paceNext]
  split
  · split
    · exact ⟨rfl, rfl, rfl, rfl, rfl⟩
    · exact .refl d
  · exact .refl d

/-! ## FRAME_TRANSMIT -/

theorem refillShapers_of_now {d : Dev} (h : ns d / 80 = d.tm.refill) : refillShapers d = d := by
  simp [refillShapers, h]

/-- At a frame boundary of a link in service, the head frame of the VC that the scheduler picks is sent where it has room. -/
theorem transmit_eq_sendHead {d : Dev} {e v : Nat} (hr : running d = true) (hl : linkStep d (egLink e) = 9)
    (hs : 128 ≤ e → isSplit d (egLink e) = true) (ht : tget 0 d.tm.txEnd e ≤ ns256 d) (hn : ns d / 80 = d.tm.refill)
    (hv : nextVc (sampleAll d e) e = some v)
    (hroom : cwRoom (sampleAll d e) e
      (headLen (sampleAll d e) e v) = true) :
    transmit d e = sendHead (sampleAll d e) e v := by
  have hgo : (!running d || !(decide (linkStep d (egLink e) = 9) || decide (linkStep d (egLink e) = 10))
      || decide (tget 0 d.tm.txEnd e > ns256 d) || (decide (e ≥ 128) && !isSplit d (egLink e))) = false := by
    by_cases he : 128 ≤ e
    · simp [hr, hl, hs he, ht]
    · simp [hr, hl, he, ht]
  have hsampled : (List.range 8).foldl (fun x v => sampleVc x e v) d = sampleAll d e := rfl
  rw [transmit, hgo]
  simp only [Bool.false_eq_true, ↓reduceIte, refillShapers_of_now hn, hsampled, hv, hroom]

/-- What FRAME_TRANSMIT leaves at the pads of an edge port (R326, R398, R406). -/
theorem transmit_of_edge {d : Dev} {e v k p : Nat} {f : QFrame} {q : List QFrame} (hr : running d = true) (hl : linkStep d (egLink e) = 9)
    (hs : 128 ≤ e → isSplit d (egLink e) = true) (ht : tget 0 d.tm.txEnd e ≤ ns256 d) (hn : ns d / 80 = d.tm.refill)
    (hv : nextVc (sampleAll d e) e = some v)
    (hroom : cwRoom (sampleAll d e) e
      (headLen (sampleAll d e) e v) = true)
    (hk : headSub (sampleAll d e) e v = some k)
    (hq : queueOf (sampleAll d e) e v k = f :: q)
    (hp : egPort d e = some p) (hkind : portKind d p = 0 ∨ portKind d p = 3) (hrsv : rsvOf d (egLink e) = none)
    (hmark : fbit d Reg.TM_CTRL Fd.TM_CTRL_mark_en = false) (hmir : fbit d Reg.TM_CTRL Fd.TM_CTRL_mirror_en = false)
    (hcap : fbit d Reg.TM_CAP_CTRL Fd.TM_CAP_CTRL_en = false) :
    ∃ ws, (transmit d e).wire = d.wire ++ .frame e (f.bytes ++ frameCheck f.bytes) f.colour :: ws
      ∧ (96 ≤ e → ws = [.pcs e (pcsPrefix f.colour ++ (f.bytes ++ frameCheck f.bytes))])
      ∧ (e < 96 → (∀ w ∈ ws, IsCodeword e w)
        ∧ (dynOf (transmit d e) e).txw = cwFill ((padTo 8 (f.bytes ++ frameCheck f.bytes)).length / 256 + 2) (txFresh d e) (some f.colour)
          (padTo 8 (f.bytes ++ frameCheck f.bytes)) (dynOf d e).txw)
      ∧ tget 0 (transmit d e).tm.txEnd e = ns256 d + ceilDiv (wireLen e (fLen f.bytes) * 20480) (egRate d e)
      ∧ (transmit d e).mem.hbm = d.mem.hbm ∧ (transmit d e).seq = d.seq := by
  rw [transmit_eq_sendHead hr hl hs ht hn hv hroom]
  obtain ⟨qs, u, l, hP⟩ := (sampleAll_tags d e).trans (popQ_tags (sampleAll d e) e v k)
  obtain ⟨ws, y, hdrive, hglink, htlink⟩ :=
    drive_of_fabric (d := { d with tm := { d.tm with queues := qs, upper := u, lower := l } }) hrsv f.colour f.bytes
  rw [sendHead_of_edge hk hq (by rw [hP]; exact hp) (by rw [hP]; exact hkind) (by rw [hP]; exact hmark) (by rw [hP]; exact hmir)
    (by rw [hP]; exact hcap) (by rw [hP, hdrive]), hP]
  generalize drive { d with tm := { d.tm with queues := qs, upper := u, lower := l } } e f.colour f.bytes = D at *
  obtain ⟨sh, hsp⟩ := spendTokens_only D e v (fLen f.bytes)
  rw [hsp]
  have hkept := (release_padsKept (linkTaken { D with tm := { D.tm with shapers := sh } } e (fLen f.bytes)) e f).trans
    (paceNext_padsKept _ p v (fLen f.bytes) f)
  refine ⟨ws, ?_, hglink, fun he => ⟨(htlink he).1, ?_⟩, ?_, ?_, ?_⟩
  · rw [hkept.wire, linkTaken, hdrive]
  · rw [dynOf, hkept.lnk]
    exact (htlink he).2
  · rw [hkept.txEnd, linkTaken, tget_tset_self, hdrive]
    rfl
  · rw [hkept.hbm, linkTaken, hdrive]
  · rw [hkept.seq, linkTaken, hdrive]

/-! ## The statement -/

theorem exec_frameReceive {s : State} (e : Eg) (bs : List Byte) (colour : BitVec 2) (h : alive s.dev = true) :
    exec (.frameReceive e bs colour) s = .next (s.after (frameReceive s.dev e.val bs colour.toNat)) :=
  act_next (f := fun d => frameReceive d e.val bs colour.toNat) h

theorem exec_frameTransmit {s : State} (e : Eg) (h : alive s.dev = true) :
    exec (.frameTransmit e) s = .next (s.after (sweepAborted (transmit s.dev e.val))) :=
  act_next (f := fun d => sweepAborted (transmit d e.val)) h

theorem exec_corridorSlotEnter {s : State} (corr : Fin 16) (st : Fin 53) (h : alive s.dev = true) :
    exec (.corridorSlotEnter corr st) s = .next (s.after (sweepAborted (corridorEnter s.dev corr.val st.val))) :=
  act_next (f := fun d => sweepAborted (corridorEnter d corr.val st.val)) h

theorem exec_ecnEchoSend {s : State} (src : Coord) (vc : BitVec 3) (h : alive s.dev = true) :
    exec (.ecnEchoSend src vc) s = .next (s.after (echoSend s.dev src.toNat vc.toNat)) :=
  act_next (f := fun d => echoSend d src.toNat vc.toNat) h

theorem exec_ecnRecover {s : State} (port : BitVec 7) (vc : BitVec 3) (h : alive s.dev = true) :
    exec (.ecnRecover port vc) s = .next (s.after (ecnRecover s.dev port.toNat vc.toNat)) :=
  act_next (f := fun d => ecnRecover d port.toNat vc.toNat) h

theorem exec_reorderGapTimeout {s : State} (sw : BitVec 13) (vc : BitVec 3) (h : alive s.dev = true) :
    exec (.reorderGapTimeout sw vc) s = .next (s.after (gapTimeout s.dev (flowKey sw.toNat vc.toNat))) :=
  act_next (f := fun d => gapTimeout d (flowKey sw.toNat vc.toNat)) h

/-- Settles O12: each command takes the one case of its meaning that its conditions leave, and a frame sent from an edge port leaves at the pads what
`transmit_of_edge` says. -/
theorem framesPassTheSwitch : Obligations.FramesPassTheSwitch := by
  unfold Obligations.FramesPassTheSwitch
  refine ⟨?_, ?_⟩
  · intro s e
    refine ⟨?_, ?_, ?_, ?_⟩
    · intro b colour hl he hr hs
      rw [exec_frameReceive e _ colour (alive_of_running hr).1, frameReceive_stomped b _ ⟨hl, he, hr, hs⟩]
    · intro b colour p hl he hr hs hlen hver hvc hk hp hen hkind hnow hpol hmir hcap hdst hre hhop
      rw [exec_frameReceive e _ colour (alive_of_running hr).1, frameReceive_good _ ⟨hl, he, hr, hs⟩ hlen,
        frameIn_of_transit _ hver hvc hk hp hen hkind hnow hpol hmir hcap hdst hre, deliver_of_egress _ _ _ _ _ hhop]
    · intro corr st x rest ha hb ht hd hs hc hrest
      rw [exec_corridorSlotEnter corr st ha, corridorEnter, slotEnter_of_room ht hd hs hc, slotEnter_of_none hrest, sweepAborted_of_no_bucket]
      exact hb
    · intro v k p f q _ hr hl hs ht hn hb hv hroom hk hq hp hkind hrsv hmark hmir hcap
      obtain ⟨ws, hwire, hg, htl, hend, hhbm, hseq⟩ := transmit_of_edge hr hl hs ht hn hv hroom hk hq hp hkind hrsv hmark hmir hcap
      refine ⟨transmit s.dev e.val, ws, ?_, hwire, hg, htl, hend, hhbm⟩
      rw [exec_frameTransmit e (alive_of_running hr).1, sweepAborted_of_no_bucket (hseq ▸ hb)]
  · intro s
    refine ⟨?_, ?_, ?_⟩
    · intro src vc hr ho
      rw [exec_ecnEchoSend src vc (alive_of_running hr).1, echoSend_of_owed hr ho]
    · intro port vc r x _ _ _ ha hr hx hk
      subst hr
      rw [exec_ecnRecover port vc ha, ecnRecover, Nat.mul_comm (portRate ..) 64, rateRise_of_cut _ hx hk]
      rfl
    · intro sw vc lo _ _ _ ha hm hle hone ht
      rw [exec_reorderGapTimeout sw vc ha, gapTimeout_of_nearest hm hle hone ht]
      rfl

end Sys2Proof.Machine
end

section
/-! PROOFS. Sums of KZ elements have one value (R49, R50): the class rule is a join (NaN over everything, 0 below everything), so the sum is
commutative and associative, and its class absorbs the class of each of its inputs. -/

namespace Sys2Proof.Machine

/-! ## The class rule -/

theorem addCls_comm (c d : Nat) : addCls c d = addCls d c := by grind [addCls]

theorem addCls_assoc (b c d : Nat) : addCls (addCls b c) d = addCls b (addCls c d) := by grind [addCls]

@[simp] theorem addCls_self (c : Nat) : addCls c c = c := by grind [addCls]

@[simp] theorem addCls_zero (c : Nat) : addCls c 0 = c := by grind [addCls]

@[simp] theorem addCls_three_left (c : Nat) : addCls 3 c = 3 := by simp [addCls]

theorem addCls_eq_zero_iff {c d : Nat} : addCls c d = 0 ↔ c = 0 ∧ d = 0 := by grind [addCls]

theorem addCls_eq_three_iff {c d : Nat} : addCls c d = 3 ↔ c = 3 ∨ d = 3 := by grind [addCls]

/-- What lies above both infinities is a NaN: the plain one, or the one that sets INV. -/
theorem eq_three_or_four_of_absorbs {c : Nat} (h1 : addCls 1 c = c) (h2 : addCls 2 c = c) : c = 3 ∨ c = 4 := by grind [addCls]

/-! ## Two elements -/

theorem kzAdd_cls (x y : Kz) : (kzAdd x y).cls = addCls x.cls y.cls := by
  unfold kzAdd
  split
  · next h => exact h.symm
  · rfl

theorem kzAdd_of_finite {x y : Kz} (hx : x.cls = 0) (hy : y.cls = 0) : kzAdd x y = ⟨x.a + y.a, 0⟩ := by
  simp [kzAdd, hx, hy]

theorem kzAdd_of_not_finite {x y : Kz} (h : ¬ (x.cls = 0 ∧ y.cls = 0)) : kzAdd x y = ⟨0, addCls x.cls y.cls⟩ := by
  rw [kzAdd, if_neg (mt addCls_eq_zero_iff.mp h)]

theorem kzAdd_right_comm (x y z : Kz) : kzAdd (kzAdd x y) z = kzAdd (kzAdd x z) y := by
  have hc : addCls (addCls x.cls y.cls) z.cls = addCls (addCls x.cls z.cls) y.cls := by
    rw [addCls_assoc, addCls_comm y.cls, ← addCls_assoc]
  by_cases h : (x.cls = 0 ∧ y.cls = 0) ∧ z.cls = 0
  · obtain ⟨⟨hx, hy⟩, hz⟩ := h
    simp [kzAdd_of_finite, hx, hy, hz, Int.add_right_comm]
  · have h' : ¬ ((x.cls = 0 ∧ z.cls = 0) ∧ y.cls = 0) := fun g => h ⟨⟨g.1.1, g.2⟩, g.1.2⟩
    rw [← addCls_eq_zero_iff, ← kzAdd_cls] at h h'
    rw [kzAdd_of_not_finite h, kzAdd_of_not_finite h', kzAdd_cls, kzAdd_cls, hc]

/-! ## Sums of many -/

theorem foldl_kzAdd_perm {xs ys : List Kz} (h : ys.Perm xs) (z : Kz) : ys.foldl kzAdd z = xs.foldl kzAdd z :=
  h.foldl_eq' (fun x _ y _ k => kzAdd_right_comm k x y) z

theorem foldl_kzAdd_cls (xs : List Kz) (z : Kz) : (xs.foldl kzAdd z).cls = (xs.map (·.cls)).foldl addCls z.cls := by
  rw [List.foldl_map]
  exact (List.foldl_hom (fun k : Kz => k.cls) (fun x y => (kzAdd_cls x y).symm)).symm

theorem foldl_kzAdd_of_finite {xs : List Kz} (h : ∀ x ∈ xs, x.cls = 0) {z : Kz} (hz : z.cls = 0) :
    xs.foldl kzAdd z = ⟨(xs.map (·.a)).foldl (· + ·) z.a, 0⟩ := by
  induction xs generalizing z with
  | nil => simp [← hz]
  | cons x xs ih =>
    obtain ⟨hx, hxs⟩ := List.forall_mem_cons.mp h
    rw [List.foldl_cons, kzAdd_of_finite hz hx, ih hxs rfl]
    rfl

/-- A sum that is not finite holds no integer (R49). -/
theorem foldl_kzAdd_eq_of_cls {xs : List Kz} {c : Nat} (hc : c ≠ 0) (h : (xs.foldl kzAdd Kz.zero).cls = c) : xs.foldl kzAdd Kz.zero = ⟨0, c⟩ := by
  have ha : (xs.foldl kzAdd Kz.zero).cls ≠ 0 → (xs.foldl kzAdd Kz.zero).a = 0 := by
    refine List.foldlRecOn (motive := fun k : Kz => k.cls ≠ 0 → k.a = 0) xs kzAdd (fun _ => rfl) ?_
    intro k _ x _ hk
    rw [kzAdd_cls, ne_eq, addCls_eq_zero_iff] at hk
    rw [kzAdd_of_not_finite hk]
  subst h
  rw [← ha hc]

/-- The class of a sum absorbs the class of each input. -/
theorem addCls_foldl_kzAdd_of_mem {xs : List Kz} {x : Kz} (h : x ∈ xs) (z : Kz) :
    addCls x.cls (xs.foldl kzAdd z).cls = (xs.foldl kzAdd z).cls := by
  have hfold : (xs.foldl kzAdd z).cls = addCls x.cls (((xs.erase x).map (·.cls)).foldl addCls z.cls) := by
    rw [← foldl_kzAdd_perm (List.perm_cons_erase h).symm, List.foldl_cons, foldl_kzAdd_cls, kzAdd_cls, addCls_comm z.cls,
      List.foldl_assoc (ha := ⟨addCls_assoc⟩)]
  rw [hfold, ← addCls_assoc, addCls_self]

theorem foldl_kzAdd_cls_ne_three {xs : List Kz} (h : ∀ x ∈ xs, x.cls ≠ 3) : (xs.foldl kzAdd Kz.zero).cls ≠ 3 := by
  refine List.foldlRecOn (motive := fun k : Kz => k.cls ≠ 3) xs kzAdd (by decide) ?_
  intro k hk x hx
  rw [kzAdd_cls, ne_eq, addCls_eq_three_iff]
  exact not_or.mpr ⟨hk, h x hx⟩

/-- Inputs of one class c, with finites or without, give a sum of class c. -/
theorem foldl_kzAdd_of_one_class {xs : List Kz} {c : Nat} (hc : c ≠ 0) (hm : ∃ x ∈ xs, x.cls = c) (h : ∀ x ∈ xs, x.cls = 0 ∨ x.cls = c) :
    xs.foldl kzAdd Kz.zero = ⟨0, c⟩ := by
  apply foldl_kzAdd_eq_of_cls hc
  obtain ⟨x, hx, rfl⟩ := hm
  have habs := addCls_foldl_kzAdd_of_mem hx Kz.zero
  have hor : (xs.foldl kzAdd Kz.zero).cls = 0 ∨ (xs.foldl kzAdd Kz.zero).cls = x.cls := by
    refine List.foldlRecOn (motive := fun k : Kz => k.cls = 0 ∨ k.cls = x.cls) xs kzAdd (Or.inl rfl) ?_
    intro k hk y hy
    rw [kzAdd_cls]
    rcases hk with hk | hk <;> rcases h y hy with hy | hy <;> simp [hk, hy, addCls_comm 0]
  rcases hor with h0 | h0
  · rw [← habs, h0, addCls_zero]
  · exact h0

/-- Settles O14: the sum is right commutative, hence free of order; its class absorbs each input's, which leaves one class in each row of R50. -/
theorem sumsHaveOneValue : Obligations.SumsHaveOneValue := by
  unfold Obligations.SumsHaveOneValue
  intro xs _ t
  refine ⟨fun ys h => foldl_kzAdd_perm h Kz.zero, fun h => foldl_kzAdd_of_finite h rfl, ?_, ?_,
    foldl_kzAdd_of_one_class (by decide), foldl_kzAdd_of_one_class (by decide)⟩
  · rintro ⟨x, hx, h3⟩
    have habs := addCls_foldl_kzAdd_of_mem hx Kz.zero
    rw [h3, addCls_three_left] at habs
    exact foldl_kzAdd_eq_of_cls (by decide) habs.symm
  · rintro ⟨x, hx, h1⟩ ⟨y, hy, h2⟩ hn
    have ht : t = ⟨0, 4⟩ := foldl_kzAdd_eq_of_cls (by decide) <|
      (eq_three_or_four_of_absorbs (h1 ▸ addCls_foldl_kzAdd_of_mem hx Kz.zero) (h2 ▸ addCls_foldl_kzAdd_of_mem hy Kz.zero)).resolve_left
        (foldl_kzAdd_cls_ne_three hn)
    rw [ht]
    exact ⟨rfl, rfl⟩

end Sys2Proof.Machine
end

section
/-! PROOFS. Formats keep their values (R40, R41, R51, R57, R58): a normal KF word decodes and encodes to itself, KZ64 words are read back, and the
integers of conversions and of sums stay within their bounds. -/

namespace Sys2Proof.Machine

/-! ## KF32 and KF16 words (R40, R41, R58) -/

/-- A KF word is its sign, its exponent field and its fraction. -/
theorem kf_word_parts {ew fw w : Nat} (hew : 0 < ew) (hfw : 0 < fw) (hw : w < 2 ^ (fw + ew + 1)) :
    (if bit w (fw + ew) then 2 ^ (fw + ew) else 0) + bits w (fw + ew - 1) fw * 2 ^ fw + bits w (fw - 1) 0 = w := by
  have hsign : (if bit w (fw + ew) then 2 ^ (fw + ew) else 0) = w / 2 ^ (fw + ew) * 2 ^ (fw + ew) := by
    have hlt : w / 2 ^ (fw + ew) < 2 := Nat.div_lt_of_lt_mul (by rwa [← Nat.pow_succ])
    rw [bit, Nat.testBit_eq_decide_div_mod_eq, Nat.mod_eq_of_lt hlt]
    obtain h | h := Nat.le_one_iff_eq_zero_or_eq_one.mp (Nat.le_of_lt_succ hlt)
    · rw [h, Nat.zero_mul, if_neg (by decide)]
    · rw [h, Nat.one_mul, if_pos (by decide)]
  have hexp : bits w (fw + ew - 1) fw = w / 2 ^ fw % 2 ^ ew := by
    rw [bits, Nat.shiftRight_eq_div_pow, show fw + ew - 1 + 1 - fw = ew by omega]
  have hfrac : bits w (fw - 1) 0 = w % 2 ^ fw := by
    rw [bits, Nat.shiftRight_zero, show fw - 1 + 1 - 0 = fw by omega]
  calc _ = (w / 2 ^ fw / 2 ^ ew * 2 ^ ew + w / 2 ^ fw % 2 ^ ew) * 2 ^ fw + w % 2 ^ fw := by
        rw [hsign, hexp, hfrac, Nat.add_mul, Nat.mul_assoc, ← Nat.pow_add, Nat.div_div_eq_div_mul, ← Nat.pow_add, Nat.add_comm ew]
    _ = w := by rw [Nat.div_add_mod', Nat.div_add_mod']

theorem decodeKf_of_normal {ew fw w : Nat} (h0 : bits w (fw + ew - 1) fw ≠ 0) (h1 : bits w (fw + ew - 1) fw ≠ 2 ^ ew - 1) :
    decodeKf ew fw w = (⟨.fin, bit w (fw + ew), 2 ^ fw + bits w (fw - 1) 0,
      (bits w (fw + ew - 1) fw : Int) - (2 ^ (ew - 1) - 1 : Nat) - (fw : Nat)⟩, 0) := by
  simp only [decodeKf, if_neg h0, if_neg h1]

theorem decodeKf_of_infinity {ew fw w : Nat} (h0 : bits w (fw + ew - 1) fw ≠ 0) (h1 : bits w (fw + ew - 1) fw = 2 ^ ew - 1)
    (hf : bits w (fw - 1) 0 = 0) : decodeKf ew fw w = (Num.inf (bit w (fw + ew)), Fl.infin) := by
  simp only [decodeKf, if_neg h0, if_pos h1, if_pos hf]

/-- A significand of w fraction bits needs no rounding, so the toss value plays no part. -/
theorem narrow_of_msb_eq {m w : Nat} {e0 emin emax : Int} (t : Option Nat) (hm : msb m = w) (hmin : emin ≤ e0 + (w : Nat))
    (hmax : e0 + (w : Nat) ≤ emax) : narrow m e0 w emin emax t = (.val (e0 + (w : Nat)) (m - 2 ^ w), 0) := by
  simp [narrow, hm, Int.not_lt.mpr hmin, Int.not_lt.mpr hmax]

theorem msb_two_pow_add {w f : Nat} (hf : f < 2 ^ w) : msb (2 ^ w + f) = w :=
  (Nat.log2_eq_iff (by have := Nat.two_pow_pos w; omega)).mpr ⟨Nat.le_add_right _ _, by rw [Nat.pow_succ]; omega⟩

/-- A normal word or an infinity comes back from its number without a flag, in every format of R40. -/
theorem encodeKf_decodeKf {ew fw w : Nat} (nanW : Nat) (t : Option Nat) (hew : 0 < ew) (hfw : 0 < fw) (hw : w < 2 ^ (fw + ew + 1))
    (h0 : bits w (fw + ew - 1) fw ≠ 0) (h1 : bits w (fw + ew - 1) fw ≠ 2 ^ ew - 1 ∨ bits w (fw - 1) 0 = 0) :
    encodeKf fw (2 ^ (ew - 1) - 1) nanW ((2 ^ ew - 1) * 2 ^ fw) (decodeKf ew fw w).1 t = (w, 0) := by
  have hparts := kf_word_parts hew hfw hw
  have hsign : (2 ^ ew - 1) * 2 ^ fw + 2 ^ fw = 2 ^ (fw + ew) := by
    rw [← Nat.succ_mul, Nat.succ_eq_add_one, Nat.sub_add_cancel (Nat.two_pow_pos ew), ← Nat.pow_add, Nat.add_comm]
  by_cases hinf : bits w (fw + ew - 1) fw = 2 ^ ew - 1
  · have hf := h1.resolve_left (not_not_intro hinf)
    rw [hinf, hf, Nat.add_zero] at hparts
    rw [decodeKf_of_infinity h0 hinf hf]
    simp only [encodeKf, Num.inf, hsign, hparts]
  · have hf : bits w (fw - 1) 0 < 2 ^ fw := by
      simpa [Nat.sub_add_cancel hfw] using bits_lt w (fw - 1) 0
    have he : bits w (fw + ew - 1) fw < 2 ^ ew := by
      simpa [show fw + ew - 1 + 1 - fw = ew by omega] using bits_lt w (fw + ew - 1) fw
    have hbias : 2 ^ ew = 2 * 2 ^ (ew - 1) := by rw [← Nat.pow_succ', Nat.succ_eq_add_one, Nat.sub_add_cancel hew]
    rw [decodeKf_of_normal h0 hinf]
    simp only [encodeKf, hsign]
    rw [narrow_of_msb_eq t (msb_two_pow_add hf) (by omega) (by omega)]
    simpa using hparts

theorem encodeKf32_decodeKf32 {w : Nat} (hw : w < 2 ^ 32) (h0 : bits w 30 23 ≠ 0) (h1 : bits w 30 23 ≠ 255 ∨ bits w 22 0 = 0) :
    encodeKf32 (decodeKf32 w).1 = (w, 0) :=
  encodeKf_decodeKf (ew := 8) (fw := 23) _ none (by decide) (by decide) hw h0 h1

theorem encodeKf16_decodeKf16 {w : Nat} (t : Option Nat) (hw : w < 2 ^ 16) (h0 : bits w 14 8 ≠ 0) (h1 : bits w 14 8 ≠ 127 ∨ bits w 7 0 = 0) :
    encodeKf16 (decodeKf16 w).1 t = (w, 0) :=
  encodeKf_decodeKf (ew := 7) (fw := 8) _ t (by decide) (by decide) hw h0 h1

/-! ## KZ64 words (R51) -/

theorem unsigned_lt (w : Nat) (a : Int) : unsigned w a < 2 ^ w := by
  have hpos : (0 : Int) < ((2 ^ w : Nat) : Int) := Int.natCast_pos.mpr (Nat.two_pow_pos w)
  exact (Int.toNat_lt (Int.emod_nonneg _ (Int.ne_of_gt hpos))).mpr (Int.emod_lt_of_pos _ hpos)

theorem kz64Word_lt (k : Kz) : kz64Word k < 2 ^ 64 := by
  unfold kz64Word
  split
  · exact unsigned_lt 64 k.a
  all_goals decide

/-- The bytes of a KZ64 word hold the word. -/
theorem field_kz64Word (k : Kz) : field (beBytes 8 (kz64Word k)) 0 8 = kz64Word k := by
  have h := field_at [] (beBytes 8 (kz64Word k)) [] 0 8 rfl (beBytes_length ..)
  rwa [List.nil_append, List.append_nil, beNat_beBytes, show 256 ^ 8 = 2 ^ 64 from rfl, Nat.mod_eq_of_lt (kz64Word_lt k)] at h

/-- No finite sum reaches the three words of the classes. -/
theorem kz64Of_unsigned {a : Int} (h : a.natAbs ≤ 2 ^ 63 - 256) : kz64Of (unsigned 64 a) = ⟨a, 0⟩ := by
  unfold kz64Of unsigned signed
  rw [if_neg (by omega), if_neg (by omega), if_neg (by omega), Kz.mk.injEq]
  refine ⟨?_, rfl⟩
  split <;> omega

theorem kz64Of_kz64Word {k : Kz} (h : (k.cls = 0 ∧ k.a.natAbs ≤ 2 ^ 63 - 256) ∨ (1 ≤ k.cls ∧ k.cls ≤ 3 ∧ k.a = 0)) : kz64Of (kz64Word k) = k := by
  obtain ⟨a, c⟩ := k
  rcases h with ⟨hc, ha⟩ | ⟨h1, h3, ha⟩
  · obtain rfl : c = 0 := hc
    exact kz64Of_unsigned ha
  · obtain rfl : a = 0 := ha
    obtain rfl | rfl | rfl : c = 1 ∨ c = 2 ∨ c = 3 := by simp only at h1 h3; omega
    all_goals rfl

/-! ## Bounds of a sum and of a conversion (R51, R57) -/

/-- Each input of at most B widens the bound of a finite sum by B. -/
theorem natAbs_foldl_add_le {B : Nat} {as : List Int} (h : ∀ a ∈ as, a.natAbs ≤ B) (z : Int) :
    (as.foldl (· + ·) z).natAbs ≤ z.natAbs + as.length * B := by
  induction as generalizing z with
  | nil => simp
  | cons a as ih =>
    obtain ⟨ha, has⟩ := List.forall_mem_cons.mp h
    have hsum := ih has (z + a)
    have hadd := Int.natAbs_add_le z a
    rw [List.foldl_cons, List.length_cons, Nat.succ_mul]
    omega

theorem foldl_kzAdd_bound {xs : List Kz} (hl : xs.length ≤ 256) (h : ∀ x ∈ xs, x.cls = 0 ∧ x.a.natAbs ≤ 2 ^ 55 - 1) :
    (xs.foldl kzAdd Kz.zero).cls = 0 ∧ (xs.foldl kzAdd Kz.zero).a.natAbs ≤ 2 ^ 63 - 256 := by
  rw [foldl_kzAdd_of_finite (fun x hx => (h x hx).1) rfl]
  refine ⟨rfl, ?_⟩
  have hsum := natAbs_foldl_add_le (as := xs.map (·.a)) (List.forall_mem_map.mpr fun x hx => (h x hx).2) Kz.zero.a
  rw [List.length_map, show Kz.zero.a.natAbs = 0 from rfl] at hsum
  simp only
  omega

/-- A discarded bit halves the number at least, and rounding adds at most 1. -/
theorem rne_le (m : Nat) {d : Nat} (hd : 0 < d) : (rne m d).1 ≤ m / 2 + 1 := by
  have hq : m >>> d ≤ m / 2 := by
    rw [Nat.shiftRight_eq_div_pow]
    exact Nat.div_le_div_left (Nat.le_self_pow (Nat.ne_of_gt hd) 2) (by decide)
  simp only [rne]
  split <;> omega

/-- Below the bound's exponent, a shift to the left stays below the bound (R57). -/
theorem mul_two_pow_lt_of_numExp_lt {x : Num} {s : Int} {lim : Nat} (hs : x.e0 ≥ s) (h : numExp x < s + (lim : Nat)) :
    x.m * 2 ^ (x.e0 - s).toNat < 2 ^ lim := by
  have hm : x.m < 2 ^ (msb x.m + 1) := Nat.lt_log2_self
  unfold numExp at h
  calc x.m * 2 ^ (x.e0 - s).toNat < 2 ^ (msb x.m + 1) * 2 ^ (x.e0 - s).toNat := Nat.mul_lt_mul_of_pos_right hm (Nat.two_pow_pos _)
    _ = 2 ^ (msb x.m + 1 + (x.e0 - s).toNat) := (Nat.pow_add ..).symm
    _ ≤ 2 ^ lim := Nat.pow_le_pow_right (by decide) (by omega)

/-- The magnitude that R57 gives a finite number: the bound, a shift to the left, or a rounding. -/
theorem toKz_natAbs_of_fin {x : Num} (s : Int) (lim : Nat) (h : x.kind = .fin) :
    (toKz x s lim).1.a.natAbs = if numExp x ≥ s + (lim : Nat) then 2 ^ lim - 1
      else if x.e0 ≥ s then x.m * 2 ^ (x.e0 - s).toNat else (rne x.m (s - x.e0).toNat).1 := by
  have hsg (a : Nat) : (if x.neg then -(a : Int) else (a : Int)).natAbs = a := by cases x.neg <;> simp
  simp only [toKz, h, apply_ite Prod.fst, apply_ite Kz.a, apply_ite Int.natAbs]
  simp only [← apply_ite Int.natAbs, hsg]

theorem toKz_a_of_not_fin {x : Num} (s : Int) (lim : Nat) (h : x.kind ≠ .fin) : (toKz x s lim).1.a = 0 := by
  unfold toKz
  split
  · rfl
  · contradiction
  · rfl

/-- A number of at most lim significant bits converts to an integer below 2^lim. -/
theorem toKz_natAbs_lt {x : Num} {lim : Nat} (s : Int) (hl : 2 ≤ lim) (hx : x.m < 2 ^ lim) : (toKz x s lim).1.a.natAbs < 2 ^ lim := by
  have hpos : 2 ^ 2 ≤ 2 ^ lim := Nat.pow_le_pow_right (by decide) hl
  by_cases hfin : x.kind = .fin
  · rw [toKz_natAbs_of_fin s lim hfin]
    split
    · omega
    · next hbound =>
      split
      · next hshift => exact mul_two_pow_lt_of_numExp_lt hshift (Int.not_le.mp hbound)
      · next hshift =>
        have hr := rne_le x.m (d := (s - x.e0).toNat) (by omega)
        omega
  · rw [toKz_a_of_not_fin s lim hfin]
    exact Nat.two_pow_pos lim

/-- Settles O8: the words by the parts of a KF word and by the range of a KZ64 word, the bounds branch by branch of R57 and input by input. -/
theorem formatsKeepTheirValues : Obligations.FormatsKeepTheirValues := by
  unfold Obligations.FormatsKeepTheirValues
  refine ⟨fun w => encodeKf32_decodeKf32, fun w t => encodeKf16_decodeKf16 t, ?_, rfl, rfl, rfl, ?_, fun xs => foldl_kzAdd_bound,
    fun eref => rfl, ?_⟩
  · intro k h
    rw [field_kz64Word, kz64Of_kz64Word h]
  · intro a _
    exact (BitVec.toNat_ofInt a).symm
  · intro x s lim hlim hx
    have hlim' : 24 ≤ lim := by omega
    exact Nat.le_sub_one_of_lt (toKz_natAbs_lt s (by omega) (Nat.lt_of_lt_of_le hx (Nat.pow_le_pow_right (by decide) hlim')))

end Sys2Proof.Machine
end

section
/-! PROOFS. The store of the desks, and DESK_ADD (R81 to R83, R86): what a desk holds after a write, and that a checked add of sound elements is
the exact sum. -/

namespace Sys2Proof.Machine

/-! ## The store of the desks -/

@[simp] theorem deskAt_deskPut_self (d : Dev) (p : Nat) (x : Desk) : deskAt (deskPut d p x) p = x := by simp [deskAt, deskPut]

theorem deskAt_deskPut_ne (d : Dev) {p q : Nat} (x : Desk) (h : q ≠ p) : deskAt (deskPut d p x) q = deskAt d q := by
  simp [deskAt, deskPut, tget_tset_ne _ _ _ _ h]

/-- A desk's state depends on the registers alone. -/
theorem deskState_congr {d e : Dev} (h : d.regs = e.regs) (p : Nat) : deskState d p = deskState e p := by
  simp only [deskState, fget, rg_congr h]

/-- The one accumulator of a desk, when it is meant, is changed. -/
theorem accMod_of_single {d : Dev} {p k att c copy : Nat} {a : Accum} (f : Accum → Accum) (hx : (deskAt d p).accs = [a])
    (ha : isAcc a k att c copy = true) : accMod d p k att c copy f = deskPut d p { deskAt d p with accs := [f a] } := by
  simp [accMod, hx, ha]

/-- Whether an accumulator is a copy's is told by its four numbers. -/
theorem isAcc_iff {a : Accum} {k att c copy : Nat} : isAcc a k att c copy = true ↔ a.key = k ∧ a.att = att ∧ a.chunk = c ∧ a.copy = copy := by
  simp [isAcc]

/-- The first element that satisfies a predicate is the one that changes. -/
theorem lmodFirst_append_cons {α : Type} {p : α → Bool} {pre post : List α} {b : α} (f : α → α) (hpre : ∀ y ∈ pre, p y = false) (hb : p b = true) :
    lmodFirst p f (pre ++ b :: post) = pre ++ f b :: post := by
  induction pre with
  | nil => simp [lmodFirst, hb]
  | cons y ys ih =>
    obtain ⟨hy, hys⟩ := List.forall_mem_cons.mp hpre
    simp [lmodFirst, hy, ih hys]

/-! ## The checked add (R81, R82) -/

/-- An element as an intact store holds it: its class code is one of the model's, its residue and second class copy are those of its number, and a
number that is not finite is 0. -/
def AElem.Sound (z : AElem) : Prop := z.k.cls ≤ 4 ∧ z.cls2 = z.k.cls ∧ z.res = Sys2Proof.Machine.res z.k.a ∧ (z.k.cls ≠ 0 → z.k.a = 0)

/-- Residues add (R82). -/
theorem res_add (a b : Int) : res (a + b) = (res a + res b) % 65535 := by
  unfold res
  omega

/-- A sum that is not finite has the number 0. -/
theorem kzAdd_a_of_cls_ne {x y : Kz} (h : (kzAdd x y).cls ≠ 0) : (kzAdd x y).a = 0 := by
  have hnf : ¬ (x.cls = 0 ∧ y.cls = 0) := by
    rintro ⟨hx, hy⟩
    exact h (by rw [kzAdd_of_finite hx hy])
  rw [kzAdd_of_not_finite hnf]

/-- The residue that an add computes beside the sum is the sum's (R82). -/
theorem res_kzAdd_of_sound {y w : AElem} (hy : y.Sound) (hw : w.Sound) :
    (if (kzAdd y.k w.k).cls = 0 then (y.res + w.res) % 65535 else 0) = res (kzAdd y.k w.k).a := by
  obtain ⟨-, -, hyr, -⟩ := hy
  obtain ⟨-, -, hwr, -⟩ := hw
  split
  · next h =>
    obtain ⟨hyf, hwf⟩ := addCls_eq_zero_iff.mp ((kzAdd_cls y.k w.k).symm.trans h)
    rw [kzAdd_of_finite hyf hwf, res_add, hyr, hwr]
  · next h =>
    rw [kzAdd_a_of_cls_ne h]
    rfl

/-- Without an upset the checks of an add of intact elements hold, and the sum is intact; its mark is that of the element added into (R81, R82). -/
theorem aAdd_of_sound {y w : AElem} (i : Nat) (hy : y.Sound) (hw : w.Sound) (hb : w.bad = false) :
    aAdd .none i y w = (⟨kzAdd y.k w.k, res (kzAdd y.k w.k).a, (kzAdd y.k w.k).cls, y.bad⟩, none) := by
  have hr := res_kzAdd_of_sound hy hw
  obtain ⟨-, hyc, -, -⟩ := hy
  obtain ⟨-, hwc, -, -⟩ := hw
  simp [aAdd, flipSum, flipCls, hr, hyc, hwc, hb, ← kzAdd_cls]

/-! ## A counter of two registers -/

theorem rg_rg64Put_ne (d : Dev) {lo a : Nat} (v : Nat) (h : a ≠ lo) (h' : a ≠ lo + 4) : rg (rg64Put d lo v) a = rg d a := by
  rw [rg64Put, rg_rgPut_ne _ _ h', rg_rgPut_ne _ _ h]

/-- A 64-bit field reads back what was stored (R9). -/
theorem rg64_rg64Put_self (d : Dev) (lo : Nat) {v : Nat} (h : v < 2 ^ 64) : rg64 (rg64Put d lo v) lo = v := by
  rw [rg64, rg64Put, rg_rgPut_self, rg_rgPut_ne _ _ (by omega), rg_rgPut_self]
  omega

/-! ## DESK_ADD -/

/-- The row of an accumulator that a block of lane words adds into. -/
def laneRow (a : Accum) (b : LBlk) : List AElem := tget (List.replicate (b.lanes.length / max 1 b.per) AElem.zero) a.rows b.row

/-- An add with which the block does not end: the queue's block moves on by one lane word, the accumulator's row takes the sum, and the desk counts
the add (R81, R106). -/
theorem deskAdd_of_going_on {d : Dev} {p : Nat} {b : LBlk} {a : Accum} {pre post : List LBlk} {e : AElem} (hr : running d = true)
    (hs : deskState d p = 0 ∨ deskState d p = 1) (hq : (deskAt d p).queue = pre ++ b :: post) (hacc : (deskAt d p).accs = [a])
    (hpre : ∀ y ∈ pre, isAcc a y.key y.att y.chunk y.copy = false) (ha : isAcc a b.key b.att b.chunk b.copy = true)
    (hpos : b.pos + 1 < b.lanes.length)
    (hadd : aAdd .none (b.pos / max 1 b.per) (elemAt (laneRow a b) (b.pos / max 1 b.per)) (laneElem (b.lanes.getD b.pos 0)) = (e, none)) :
    let a' := { a with rows := tput a.rows b.row ((laneRow a b).set (b.pos / max 1 b.per) e) }
    deskAdd d p .none = rg64Put (deskPut (deskPut d p { deskAt d p with accs := [a'] }) p ⟨pre ++ { b with pos := b.pos + 1 } :: post, [a']⟩)
      (Reg.DESK_ADD_CNT_0 p) ((rg64 d (Reg.DESK_ADD_CNT_0 p) + 1) % 2 ^ 64) := by
  have hfind : (pre ++ b :: post).find? (fun y => isAcc a y.key y.att y.chunk y.copy) = some b :=
    List.find?_eq_some_iff_append.mpr ⟨ha, pre, post, rfl, fun y hy => by rw [hpre y hy, Bool.not_false]⟩
  have hmod := lmodFirst_append_cons (post := post) (p := fun y : LBlk => isAcc a y.key y.att y.chunk y.copy)
    (fun y => { y with pos := y.pos + 1 }) hpre ha
  have hown : [a].find? (fun z => isAcc z b.key b.att b.chunk b.copy) = some a := List.find?_cons_of_pos ha
  have hlast : ¬ b.pos + 1 = b.lanes.length := by omega
  have hst : ¬ ¬ (deskState d p = 0 ∨ deskState d p = 1) := not_not_intro hs
  unfold laneRow at hadd ⊢
  simp only [deskAdd, hr, hst, hacc, hq, List.any_cons, List.any_nil, Bool.or_false, hfind, hmod, hown, hadd, hlast,
    accMod_of_single _ hacc ha, Bool.not_true, Bool.false_eq_true, or_self, ↓reduceIte, decide_false, deskAt_deskPut_self, countCe,
    reduceCtorEq]
  rfl

theorem exec_deskAdd {s : State} (p : Fin 272) (u : Upset) (h : alive s.dev = true) :
    exec (.deskAdd p u) s = .next (s.after (deskAdd s.dev p.val u)) := act_next (f := fun d => deskAdd d p.val u) h

/-- Settles O15: the block found is the first that has an accumulator, and the add of two intact elements passes its checks with the exact sum. -/
theorem deskAddAddsOneLane : Obligations.DeskAddAddsOneLane := by
  unfold Obligations.DeskAddAddsOneLane
  intro s p b a pre post d x n i row y w sum sound hr hs hq hpre hacc ha hpos _ hy hw
  have hpre' : ∀ z ∈ pre, isAcc a z.key z.att z.chunk z.copy = false := fun z hz => hpre z hz a (by simp [hacc])
  have hadd := deskAdd_of_going_on hr hs hq hacc hpre' ha hpos (aAdd_of_sound i hy hw rfl)
  rw [exec_deskAdd p .none (alive_of_running hr).1, hadd]
  refine ⟨_, _, rfl, ?_, rfl, ?_, ?_, ?_, rfl⟩
  · exact deskAt_deskPut_self _ _ _
  · exact rg64_rg64Put_self _ _ (Nat.mod_lt _ (by decide))
  · intro q hne
    exact (deskAt_deskPut_ne _ _ hne).trans (deskAt_deskPut_ne _ _ hne)
  · intro r hlo hhi
    exact rg_rg64Put_ne _ _ hlo hhi

end Sys2Proof.Machine
end

section
/-! PROOFS. Chunks at the desks (R20, R75, R86, R87, R102, R137, R138): CHUNK_BIND, CHUNK_ADMIT, ADMIT_NOTE_TIMEOUT and DESK_CLOSE, each in the case
that its conditions leave. -/

namespace Sys2Proof.Machine

/-! ## Buckets and chunks read back -/

@[simp] theorem bucketAt_bucketPut_self (d : Dev) (k : Nat) (b : Bucket) : bucketAt (bucketPut d k b) k = some b := by
  simp [bucketAt, bucketPut, bucketSet]

/-- What is put under a key is the first that is found there. -/
theorem find?_tput_self {α : Type} (m : List (Nat × α)) (k : Nat) (v : α) : (tput m k v).find? (fun e => decide (e.1 = k)) = some (k, v) := by
  induction m with
  | nil => simp [tput]
  | cons e m ih =>
    obtain ⟨j, w⟩ := e
    rcases Nat.lt_trichotomy k j with h | h | h
    · simp [tput, h]
    · simp [tput, h]
    · simp [tput, Nat.lt_asymm h, Nat.ne_of_gt h, Nat.ne_of_lt h, ih]

@[simp] theorem chunkAt_chunkPut_self (b : Bucket) (c : Nat) (x : Chunk) : chunkAt (chunkPut b c x) c = some x := by
  simp [chunkAt, chunkPut, find?_tput_self]

theorem chunkOf_bucketPut_self (d : Dev) (k c : Nat) (b : Bucket) (x : Chunk) :
    chunkOf (bucketPut d k (chunkPut b c x)) k b.attempt c = some (chunkPut b c x, x) := by
  have hatt : (chunkPut b c x).attempt = b.attempt := rfl
  simp [chunkOf, hatt]

/-! ## CHUNK_BIND (R86, R102) -/

/-- A partial sum that waits in a benched desk goes first (log 159). -/
theorem chunkBind_of_orphan {d : Dev} {p : Nat} {a : Accum} {b : Bucket} {ch : Chunk} (ho : orphanAt d p = some a)
    (hc : chunkOf d a.key a.att a.chunk = some (b, ch)) (hu : accUsed (deskAt d p) + accsOf b ≤ 24) (hs : deskState d p = 0)
    (hh : holdsOther d p a.key a.att a.chunk a.copy = false) : chunkBind d p = bindAcc d p a.key a.att a.chunk a.copy b ch := by
  simp only [chunkBind, ho, hc, hu, hs, hh, Bool.not_false, and_self, ↓reduceIte]

/-- Without one, the oldest QUEUED chunk takes the accumulators. -/
theorem chunkBind_of_queued {d : Dev} {p : Nat} {blk : LBlk} {b : Bucket} {ch : Chunk} (ho : orphanAt d p = none)
    (hq : queuedHead (deskAt d p) = some blk) (hc : chunkOf d blk.key blk.att blk.chunk = some (b, ch))
    (hu : accUsed (deskAt d p) + accsOf b ≤ 24) (hs : deskState d p = 0) (hh : holdsOther d p blk.key blk.att blk.chunk blk.copy = false) :
    chunkBind d p = bindAcc d p blk.key blk.att blk.chunk blk.copy b ch := by
  simp only [chunkBind, ho, hq, Option.map_some, hc, hu, hs, hh, Bool.not_false, and_self, ↓reduceIte]

/-- Before the close has come, accumulators are FILLING. -/
theorem bindAcc_of_not_sent {ch : Chunk} (d : Dev) (p k att c copy : Nat) (b : Bucket) (h : ch.sent = false) :
    bindAcc d p k att c copy b ch = deskPut d p ⟨(deskAt d p).queue,
      (deskAt d p).accs ++ [⟨k, att, c, copy, false, .filling, accsOf b, [], [], [], false, [], 0, 0, 0⟩]⟩ := by
  simp only [bindAcc, h, Bool.false_eq_true, ↓reduceIte]

theorem exec_chunkBind {s : State} (p : Fin 272) (h : alive s.dev = true) : exec (.chunkBind p) s = .next (s.after (chunkBind s.dev p.val)) :=
  act_next (f := fun d => chunkBind d p.val) h

/-! ## CHUNK_ADMIT (R138) -/

/-- An admitted chunk of single mode, whose accumulators desk h keeps. -/
def admitted (b : Bucket) (h : Nat) (x : Chunk) : Chunk :=
  { x with st := if x.short then .closing else .filling, accs := accsOf b, dual := false, own0 := some h, own1 := none, wait := [] }

section
variable {d : Dev} {k c h : Nat} {x : Chunk} {b : Bucket} (hr : running d = true) (hn : nextWaiting d = some (k, c, x)) (hb : bucketAt d k = some b)
  (hres : resolve d (homeOf k c) = some h) (hf : fbit d Reg.RFAB_CTRL Fd.RFAB_CTRL_force_dual = false) (hp : polDual b.grp.policy = false)
  (hroom : accReserved d + accsOf b ≤ 24 * mappedCount d)
include hr hn hb hres hf hp hroom

/-- The blocks of a chunk of single mode that is admitted leave their stations for its desk. -/
theorem chunkAdmit_of_blocks (hw : x.wait ≠ []) :
    chunkAdmit d = closeIfFull (x.wait.foldl (fun e w => laneSend e w.1 w.2) (bucketPut d k (chunkPut b c (admitted b h x)))) k c := by
  have hbare : x.wait.isEmpty = false := by simpa using hw
  simp only [chunkAdmit, hr, hn, hb, hres, hf, hp, hbare, Nat.not_lt.mpr hroom, gt_iff_lt, Bool.not_true, Bool.or_self, Bool.false_eq_true, false_and,
    or_self, ↓reduceIte, Option.isSome_none, Nat.mul_one, lanesOut]
  rfl

/-- Without blocks it takes the accumulators at once, where its desk has room (log 160). -/
theorem chunkAdmit_of_bare (hw : x.wait = []) (hu : accUsed (deskAt d h) + accsOf b ≤ 24) :
    chunkAdmit d = closeIfFull (bindAcc (bucketPut d k (chunkPut b c (admitted b h x))) h k b.attempt c 0 b (admitted b h x)) k c := by
  have hbare : x.wait.isEmpty = true := by simp [hw]
  simp only [chunkAdmit, hr, hn, hb, hres, hf, hp, hbare, Nat.not_lt.mpr hroom, Nat.not_lt.mpr hu, gt_iff_lt, Bool.not_true, Bool.or_self,
    Bool.false_eq_true, false_and, or_self, ↓reduceIte, Option.isSome_none, Nat.mul_one, List.any_cons, List.any_nil, decide_false, and_false,
    List.foldl_cons, List.foldl_nil]
  rfl

end

theorem exec_chunkAdmit {s : State} (h : alive s.dev = true) : exec .chunkAdmit s = .next (s.after (chunkAdmit s.dev)) := act_next h

/-! ## ADMIT_NOTE_TIMEOUT (R138) -/

/-- A chunk that has waited its time raises FS_796, and is marked so that it raises it once. -/
theorem admitNote_of_due {d : Dev} {k c : Nat} {b : Bucket} {x : Chunk} (hb : bucketAt d k = some b) (hx : chunkAt b c = some x)
    (hs : x.st = .waiting) (hi : chunkIdle x = false) (hm : x.noted = false) (hn : fget d Reg.SEQ_CTRL Fd.SEQ_CTRL_admit_note_ticks ≠ 0)
    (ht : x.since + fget d Reg.SEQ_CTRL Fd.SEQ_CTRL_admit_note_ticks * tickLen d ≤ ns d) :
    admitNote d k c = raise (bucketPut d k (chunkPut b c { x with noted := true })) 796 := by
  simp only [admitNote, hb, hx, hs, hi, hm, hn, ht, Bool.not_false, ne_eq, not_false_eq_true, and_self, ↓reduceIte]

theorem exec_admitNoteTimeout {s : State} (k : CKey) (h : alive s.dev = true) :
    exec (.admitNoteTimeout k) s = .next (s.after (admitNote s.dev (keyOf k.b) k.chunk.toNat)) :=
  act_next (f := fun d => admitNote d (keyOf k.b) k.chunk.toNat) h

/-! ## What an accumulator passes on to (R86) -/

/-- A DRAINING owner with no helper, no queued block and all its adds releases its rows, where no twin is to be compared. -/
theorem accSettle_of_drained {d : Dev} {p k att c copy : Nat} {a : Accum} {b : Bucket} {ch : Chunk} (hx : deskAt d p = ⟨[], [a]⟩)
    (ha : isAcc a k att c copy = true) (hc : chunkOf d k att c = some (b, ch)) (hl : dualLive ch = false) (hst : a.st = .draining)
    (hh : a.helper = false) (hi : a.inbox = []) (hn : helpersOf d k att c copy = 0) (hd : addsDone a = true) :
    accSettle d p k att c copy = deskPut d p ⟨[], [{ a with st := .releasing }]⟩ := by
  have hown : [a].find? (fun a => isAcc a k att c copy) = some a := List.find?_cons_of_pos ha
  have haccs : (deskAt d p).accs = [a] := by rw [hx]
  simp only [accSettle, hx, hown, hc, hl, hst, hh, hi, hn, hd, List.any_nil, Bool.false_eq_true, ↓reduceIte, gt_iff_lt, Nat.lt_irrefl,
    List.isEmpty_nil, Bool.not_true, or_self, accMod_of_single _ haccs ha]

/-! ## DESK_CLOSE (R87) -/

/-- The one desk that holds anything holds what is put into it. -/
theorem desks_deskPut_of_single {d : Dev} {p : Nat} {x y : Desk} (h : d.fab.desks = [(p, x)]) (hy : y ≠ Desk.empty) :
    (deskPut d p y).fab.desks = [(p, y)] := by
  simp [deskPut, h, tset, hy, tput]

/-- No helper serves a copy whose owner is the one accumulator of the device. -/
theorem helpersOf_of_single {d : Dev} {p : Nat} {q : List LBlk} {a : Accum} (k att c copy : Nat) (h : d.fab.desks = [(p, ⟨q, [a]⟩)])
    (hh : a.helper = false) : helpersOf d k att c copy = 0 := by
  simp [helpersOf, h, hh]

/-- The owner's accumulator once the close has reached it and its adds are complete. -/
def closedAcc (b : Bucket) (c : Nat) (x : Chunk) (a : Accum) : Accum := { a with closed := true, expect := expects b c x, st := .releasing }

/-- Adds that the close names are done where each row has its admitted contributions (R87). -/
theorem addsDone_of_rows {b : Bucket} {c : Nat} {x : Chunk} {a : Accum} (he : a.expect = expects b c x)
    (h : ∀ r ∈ List.range (chunkRows b c), tget 0 a.done r = rowAdds x r) : addsDone a = true := by
  simp only [addsDone, he, expects, List.all_map, List.all_eq_true, Function.comp_apply, decide_eq_true_eq]
  exact h

/-- A close that meets one owner, FILLING with all its adds, on the one desk in use. -/
theorem deskClose_of_single_owner {d : Dev} {k c p : Nat} {b : Bucket} {x : Chunk} {a : Accum} (hr : running d = true) (hb : bucketAt d k = some b)
    (hx : chunkAt b c = some x) (hst : x.st = .closing) (hsent : x.sent = false) (hl : dualLive x = false) (hd : d.fab.desks = [(p, ⟨[], [a]⟩)])
    (ha : isAcc a k b.attempt c a.copy = true) (hh : a.helper = false) (hfill : a.st = .filling) (hi : a.inbox = [])
    (hdone : ∀ r ∈ List.range (chunkRows b c), tget 0 a.done r = rowAdds x r) :
    deskClose d k c = deskPut (deskPut (bucketPut d k (chunkPut b c { x with sent := true })) p
      ⟨[], [{ closedAcc b c x a with st := .draining }]⟩) p ⟨[], [closedAcc b c x a]⟩ := by
  obtain ⟨hk, hatt, hc, -⟩ := isAcc_iff.mp ha
  have hd1 : (bucketPut d k (chunkPut b c { x with sent := true })).fab.desks = [(p, ⟨[], [a]⟩)] := hd
  have hchunk := chunkOf_bucketPut_self d k c b { x with sent := true }
  have hgo : ¬ (x.st ≠ .closing ∨ x.sent = true ∨ (!running d) = true) := by simp [hst, hsent, hr]
  simp only [deskClose, hb, hx]
  rw [if_neg hgo]
  generalize bucketPut d k (chunkPut b c { x with sent := true }) = d1 at hd1 hchunk
  simp only [hd1, hk, hatt, hc, and_self, ↓reduceIte, List.foldl_cons, List.foldl_nil]
  have hat : deskAt d1 p = ⟨[], [a]⟩ := by simp [deskAt, hd1, tget]
  have haccs : (deskAt d1 p).accs = [a] := by rw [hat]
  rw [accMod_of_single _ haccs ha]
  simp only [hat, hfill, ↓reduceIte]
  have hd2 := desks_deskPut_of_single (y := ⟨[], [{ closedAcc b c x a with st := .draining }]⟩) hd1 (by simp [Desk.empty])
  exact accSettle_of_drained (deskAt_deskPut_self ..) ha hchunk hl rfl hh hi (helpersOf_of_single _ _ _ _ hd2 hh) (addsDone_of_rows rfl hdone)

theorem exec_deskClose {s : State} (k : CKey) (h : alive s.dev = true) :
    exec (.deskClose k) s = .next (s.after (deskClose s.dev (keyOf k.b) k.chunk.toNat)) :=
  act_next (f := fun d => deskClose d (keyOf k.b) k.chunk.toNat) h

/-- Settles O16: each command takes the one case that its conditions leave. -/
theorem chunksMoveThroughDesks : Obligations.ChunksMoveThroughDesks := by
  unfold Obligations.ChunksMoveThroughDesks
  intro s
  refine ⟨?bindOrphan, ?bindQueued, ?admitBlocks, ?admitBare, ?note, ?close⟩
  case bindOrphan =>
    intro p a b ch ha ho hc hu hs hh
    rw [exec_chunkBind p ha, chunkBind_of_orphan ho hc hu hs hh]
  case bindQueued =>
    intro p blk b ch ha ho hq hh hc hsent hu hs
    rw [exec_chunkBind p ha, chunkBind_of_queued ho hq hc hu hs hh, bindAcc_of_not_sent _ _ _ _ _ _ _ hsent]
  case admitBlocks =>
    intro k c h x b hr hn hb hres hf hp hw hroom x'
    rw [exec_chunkAdmit (alive_of_running hr).1, chunkAdmit_of_blocks hr hn hb hres hf hp hroom hw]
    rfl
  case admitBare =>
    intro k c h x b hr hn hb hres hf hp hw hroom hu x'
    rw [exec_chunkAdmit (alive_of_running hr).1, chunkAdmit_of_bare hr hn hb hres hf hp hroom hw hu]
    rfl
  case note =>
    intro k b x n ha hb hx hs hi hm hn ht
    rw [exec_admitNoteTimeout k ha, admitNote_of_due hb hx hs hi hm hn ht]
  case close =>
    intro k b x p a hr hb hx hst hsent hl hd ha hh hfill hi hdone
    rw [exec_deskClose k (alive_of_running hr).1, deskClose_of_single_owner hr hb hx hst hsent hl hd ha hh hfill hi hdone]
    refine ⟨_, rfl, ?_, rfl, rfl, rfl⟩
    exact desks_deskPut_of_single (desks_deskPut_of_single hd (by simp [Desk.empty])) (by simp [Desk.empty])

end Sys2Proof.Machine
end

section
/-! PROOFS. Rows leave the desks (R20, R88, R94, R95, R99): ROW_RELEASE, HELPER_ROW_MERGE, TWIN_ROW_COMPARE and HELPER_RETURN, each in the case that
its conditions leave. -/

namespace Sys2Proof.Machine

/-! ## Accumulators that go or wait -/

/-- The one accumulator of a desk, when it is meant, is dropped. -/
theorem accDrop_of_single {d : Dev} {p k att c copy : Nat} {a : Accum} (hx : (deskAt d p).accs = [a]) (ha : isAcc a k att c copy = true) :
    accDrop d p k att c copy = deskPut d p { deskAt d p with accs := [] } := by
  simp [accDrop, hx, ha]

/-- A MERGING owner waits while returned rows are in its inbox (R94). -/
theorem accSettle_of_inbox {d : Dev} {p k att c copy : Nat} {a : Accum} (hx : (deskAt d p).accs = [a]) (ha : isAcc a k att c copy = true)
    (hst : a.st = .merging) (hi : a.inbox ≠ []) : accSettle d p k att c copy = d := by
  have hown : [a].find? (fun a => isAcc a k att c copy) = some a := List.find?_cons_of_pos ha
  have hmore : a.inbox.isEmpty = false := by simpa using hi
  simp only [accSettle, hx, hown]
  split
  · next h _ =>
    obtain rfl := Option.some.inj h
    simp only [hst, hmore, Bool.not_false, true_or, or_true, ↓reduceIte]
  · rfl

/-! ## ROW_RELEASE (R88, R95) -/

/-- An owner's final row leaves for the first converter from its home in service, and the owner goes on to the next. -/
theorem rowRelease_of_final {d : Dev} {p k c l : Nat} {a : Accum} {b : Bucket} {x : Chunk} (hr : running d = true) (hb : bucketAt d k = some b)
    (hx : chunkAt b c = some x) (hd : x.st ≠ .discarded) (hst : b.st = .opened ∨ b.st = .closed) (hacc : (deskAt d p).accs = [a])
    (ha : isAcc a k b.attempt c a.copy = true) (hh : a.helper = false) (hrel : a.rel < chunkRows b c) (hf : rowFinal b x a a.rel = true)
    (hl : convFor d (homeOf k c) = some l) :
    let row := tget (List.replicate (rowElems b) AElem.zero) a.rows a.rel
    rowRelease d p k c = slotsN (deskPut d p { deskAt d p with accs := [{ a with rel := a.rel + 1 }] }) (chunkCorr k c) (stDesk p) (l / 8)
      (rowSlots row.length) (.row ⟨l, k, b.attempt, c, a.rel, row⟩) := by
  obtain ⟨hk, hatt, hc, -⟩ := isAcc_iff.mp ha
  have hown : [a].find? (fun a => decide (a.key = k ∧ a.att = b.attempt ∧ a.chunk = c ∧ a.helper = false)) = some a :=
    List.find?_cons_of_pos (by simp [hk, hatt, hc, hh])
  have hgo : ¬ ((!running d) = true ∨ a.rel ≥ chunkRows b c ∨ (!rowFinal b x a a.rel) = true ∨ ¬ (b.st = .opened ∨ b.st = .closed)
      ∨ x.st = .discarded) := by
    simp [hr, hf, hd, hst, hrel]
  simp only [rowRelease, hb, hx, hacc, hown]
  rw [if_neg hgo]
  simp only [hl, accMod_of_single _ hacc ha]

theorem exec_rowRelease {s : State} (p : Fin 272) (k : CKey) (h : alive s.dev = true) :
    exec (.rowRelease p k) s = .next (s.after (rowRelease s.dev p.val (keyOf k.b) k.chunk.toNat)) :=
  act_next (f := fun d => rowRelease d p.val (keyOf k.b) k.chunk.toNat) h

/-! ## HELPER_ROW_MERGE (R94) -/

/-- An owner that has merged the first returned row r, which brought n adds, to the row of elements es. -/
def mergedAcc (a : Accum) (r n : Nat) (es : List AElem) (rest : List (Nat × List AElem × Nat)) : Accum :=
  { a with rows := tput a.rows r es, done := tput a.done r (tget 0 a.done r + n), inbox := rest }

/-- A returned row that is not the last is merged, and the owner waits for the next. -/
theorem helperMerge_of_more {d : Dev} {p k c r n : Nat} {a : Accum} {es sum : List AElem} {rest : List (Nat × List AElem × Nat)}
    (hr : running d = true) (hacc : (deskAt d p).accs = [a]) (ha : isAcc a k a.att c a.copy = true) (hh : a.helper = false) (hst : a.st = .merging)
    (hi : a.inbox = (r, es, n) :: rest) (hrest : rest ≠ []) (hsum : addRows .none (tget [] a.rows r) es = (sum, none)) :
    helperMerge d p k c .none = deskPut d p { deskAt d p with accs := [mergedAcc a r n sum rest] } := by
  obtain ⟨hk, -, hc, -⟩ := isAcc_iff.mp ha
  have hown : [a].find? (fun a => decide (a.key = k ∧ a.chunk = c ∧ a.helper = false ∧ a.inbox ≠ [])) = some a :=
    List.find?_cons_of_pos (by simp [hk, hc, hh, hi])
  simp only [helperMerge, hacc, hown, hi, hr, hsum, countCe, reduceCtorEq, Bool.not_true, Bool.false_eq_true, ↓reduceIte,
    accMod_of_single _ hacc ha]
  exact accSettle_of_inbox (a := mergedAcc a r n sum rest) (by rw [deskAt_deskPut_self]; rfl) ha hst hrest

theorem exec_helperRowMerge {s : State} (p : Fin 272) (k : CKey) (u : Upset) (h : alive s.dev = true) :
    exec (.helperRowMerge p k u) s = .next (s.after (helperMerge s.dev p.val (keyOf k.b) k.chunk.toNat u)) :=
  act_next (f := fun d => helperMerge d p.val (keyOf k.b) k.chunk.toNat u) h

/-! ## TWIN_ROW_COMPARE (R99) -/

/-- Two rows with equal numbers and classes are counted as compared, and where they are not the last the next pair is awaited. -/
theorem twinCompare_of_equal {d : Dev} {p q k c : Nat} {a t : Accum} {b : Bucket} (hr : running d = true) (hb : bucketAt d k = some b)
    (hacc : (deskAt d p).accs = [a]) (ha : isAcc a k b.attempt c 0 = true) (hh : a.helper = false) (ht : ownerAcc d k b.attempt c 1 = some (q, t))
    (hst : a.st = .comparing) (htst : t.st = .comparing)
    (heq : (tget [] a.rows a.cmp).map (fun y => (y.k.a, clsBits y.k.cls)) = (tget [] t.rows a.cmp).map (fun y => (y.k.a, clsBits y.k.cls)))
    (hmore : a.cmp + 1 < chunkRows b c) :
    twinCompare d p k c = deskPut (bump d Reg.RFAB_DUAL_CMP_CNT) p { deskAt d p with accs := [{ a with cmp := a.cmp + 1 }] } := by
  have hown : [a].find? (fun a => isAcc a k b.attempt c 0 && !a.helper) = some a := List.find?_cons_of_pos (by simp [ha, hh])
  have hacc' : (deskAt (bump d Reg.RFAB_DUAL_CMP_CNT) p).accs = [a] := hacc
  simp only [twinCompare, hb, hacc, hown, ht, hr, hst, htst, heq, Nat.not_le.mpr hmore, ne_eq, not_true_eq_false, Bool.not_true,
    Bool.false_eq_true, or_self, ↓reduceIte, accMod_of_single _ hacc' ha]
  rfl

theorem exec_twinRowCompare {s : State} (p : Fin 272) (k : CKey) (h : alive s.dev = true) :
    exec (.twinRowCompare p k) s = .next (s.after (twinCompare s.dev p.val (keyOf k.b) k.chunk.toNat)) :=
  act_next (f := fun d => twinCompare d p.val (keyOf k.b) k.chunk.toNat) h

/-! ## HELPER_RETURN (R94) -/

/-- The rows that a helper returns, each with the adds that it brings. -/
def returnedRows (a : Accum) : List (Nat × List AElem × Nat) := a.rows.map (fun r => (r.1, r.2, tget 0 a.done r.1))

/-- A helper that is done gives its rows to its MERGING owner on another desk, and its own desk is left empty. -/
theorem helperReturn_of_merging_owner {d : Dev} {p q k c : Nat} {a o : Accum} (hr : running d = true) (hx : deskAt d p = ⟨[], [a]⟩)
    (ha : isAcc a k a.att c a.copy = true) (hh : a.helper = true) (hst : a.st = .returning) (hq : q ≠ p) (hy : deskAt d q = ⟨[], [o]⟩)
    (ho : ownerAcc d k a.att c a.copy = some (q, o)) (hoa : isAcc o k a.att c a.copy = true) (host : o.st = .merging) (hrows : returnedRows a ≠ []) :
    helperReturn d p k c = deskPut (deskPut d p Desk.empty) q ⟨[], [{ o with inbox := o.inbox ++ returnedRows a ++ a.inbox }]⟩ := by
  obtain ⟨hk, -, hc, -⟩ := isAcc_iff.mp ha
  have hown : [a].find? (fun a => decide (a.key = k ∧ a.chunk = c ∧ a.helper = true ∧ a.st = .returning)) = some a :=
    List.find?_cons_of_pos (by simp [hk, hc, hh, hst])
  have hacc : (deskAt d p).accs = [a] := by rw [hx]
  have hgone : accDrop d p k a.att c a.copy = deskPut d p Desk.empty := by rw [accDrop_of_single hacc ha, hx]; rfl
  have hy' : deskAt (deskPut d p Desk.empty) q = ⟨[], [o]⟩ := (deskAt_deskPut_ne d _ hq).trans hy
  have hacc' : (deskAt (deskPut d p Desk.empty) q).accs = [o] := by rw [hy']
  simp only [helperReturn, hx, hown, ho, hr, hgone, Bool.not_true, Bool.false_eq_true, ↓reduceIte, accMod_of_single _ hacc' hoa, hy']
  exact accSettle_of_inbox (a := { o with inbox := o.inbox ++ returnedRows a ++ a.inbox }) (by rw [deskAt_deskPut_self]; rfl) hoa host
    (by simp [hrows])

theorem exec_helperReturn {s : State} (p : Fin 272) (k : CKey) (h : alive s.dev = true) :
    exec (.helperReturn p k) s = .next (s.after (helperReturn s.dev p.val (keyOf k.b) k.chunk.toNat)) :=
  act_next (f := fun d => helperReturn d p.val (keyOf k.b) k.chunk.toNat) h

/-- Settles O17: each command takes the one case that its conditions leave, and a returned row in the inbox keeps the owner MERGING. -/
theorem rowsLeaveDesks : Obligations.RowsLeaveDesks := by
  unfold Obligations.RowsLeaveDesks
  intro s p k a b
  refine ⟨?release, ?merge, ?compare, ?giveBack⟩
  case release =>
    intro ch l hr hb hx hd hst hacc ha hh hrel hf hl
    rw [exec_rowRelease p k (alive_of_running hr).1, rowRelease_of_final hr hb hx hd hst hacc ha hh hrel hf hl]
    rfl
  case merge =>
    intro r n es rest hr hacc ha hh hst hi hrest hsum
    rw [exec_helperRowMerge p k .none (alive_of_running hr).1, helperMerge_of_more hr hacc ha hh hst hi hrest (Prod.ext rfl hsum)]
    refine ⟨_, rfl, ?_, ?_, rfl⟩
    · exact deskAt_deskPut_self _ _ _
    · exact fun q hne => deskAt_deskPut_ne _ _ hne
  case compare =>
    intro q t hr hb hacc ha hh ht hst htst heq hmore
    rw [exec_twinRowCompare p k (alive_of_running hr).1, twinCompare_of_equal hr hb hacc ha hh ht hst htst heq hmore]
    refine ⟨_, rfl, ?_, ?_, ?_, ?_, rfl, rfl⟩
    · exact deskAt_deskPut_self _ _ _
    · exact fun q hne => deskAt_deskPut_ne _ _ hne
    · exact rg_bump_self _ _ _
    · exact fun r hne => rg_bump_ne _ _ hne
  case giveBack =>
    intro q o ch hr hx ha hh hst hq hy ho hoa host _ hrows
    rw [exec_helperReturn p k (alive_of_running hr).1, helperReturn_of_merging_owner hr hx ha hh hst hq hy ho hoa host hrows]
    refine ⟨_, rfl, ?_, ?_, rfl⟩
    · exact (deskAt_deskPut_ne _ _ (Ne.symm hq)).trans (deskAt_deskPut_self _ _ _)
    · exact deskAt_deskPut_self _ _ _

end Sys2Proof.Machine
end

section
/-! PROOFS. Desks that are replaced (R92, R93, R102, R103, R108, R110): the write of RFAB_BENCH, drains, spares under test, and a round of
stealing. -/

namespace Sys2Proof.Machine

/-! ## A secure write that holds the unlock (R512, R517, R518) -/

theorem blkAnswers_of_alive {d : Dev} (kind : Nat) (h : alive d = true) : blkAnswers d kind = true := by
  have hp : d.pkg.phase ≠ .dead := by
    rintro hp
    simp [alive, hp] at h
  simp [blkAnswers, hp]

/-- A whole word for a block whose writes are not posted reaches its register, and takes the requester's unlock with it. -/
theorem busWrite_of_secure {d : Dev} {who : Req} {a inst : Nat} {b : BlkRow} {fs : List Fld} (v : Nat) (hbus : BusReady d)
    (hs : reqSecure d who = true) (ha : blkBase a + a % 0x1000 = a) (hb : blkOf a = some (b, inst)) (hf : regFlds a = some fs)
    (hp : b.posted = false) : busWrite d who a v 15 = regWrite (consume d who (blkBase a)).2 who a v (consume d who (blkBase a)).1 := by
  obtain ⟨halive, hreset⟩ := hbus
  simp only [busWrite, resetShields, hreset, ha, hb, hf, hp, hs, blkAnswers_of_alive b.kind halive, Bool.false_and, Bool.not_true, Bool.not_false,
    Bool.false_eq_true, false_and, ne_eq, not_true_eq_false, ↓reduceIte]

/-- With the unlock and the world that its fields ask for, a write at a register's own address that is no part of a multi-word field comes to the
register whole. -/
theorem regWrite_of_granted {d : Dev} {who : Req} {a inst : Nat} {b : BlkRow} {fs : List Fld} (v : Nat) (hs : reqSecure d who = true)
    (ha : blkBase a + a % 0x1000 = a) (hop : a % 0x4000 / 0x1000 = 0) (hb : blkOf a = some (b, inst)) (hf : regFlds a = some fs)
    (hk : b.kind ≠ 0x06) (hm : multiWord a = none) :
    regWrite d who a v true = applyReg d who b.kind inst a (wordWrite fs (rg d a) v true true) := by
  have hlock : (wordWrite fs (rg d a) v true true).lock = false :=
    Bool.eq_false_iff.mpr fun h => absurd ((wordWrite_lock_iff ..).mp h).1 (by decide)
  have hdeny : (wordWrite fs (rg d a) v true true).deny = false :=
    Bool.eq_false_iff.mpr fun h => absurd ((wordWrite_deny_iff ..).mp h).1 (by decide)
  simp only [regWrite, ha, hb, hf, hs, hop, aliasWord, hm, hk, hlock, hdeny, Bool.false_eq_true, false_and, ite_self, ↓reduceIte]

/-- The use of an unlock changes the status of its block alone. -/
theorem rg_consume_ne (d : Dev) (who : Req) {base a : Nat} (h : a ≠ Reg.BLK_STATUS base) : rg (consume d who base).2 a = rg d a :=
  rg_fset_ne d _ _ h

/-! ## Registers alone -/

theorem fget_congr {d e : Dev} (h : d.regs = e.regs) (a : Nat) (f : Nat × Nat) : fget d a f = fget e a f := by simp only [fget, rg_congr h]

theorem OnlyRegs.trans {as : List Nat} {d e f : Dev} (h : OnlyRegs as d e) (g : OnlyRegs as e f) : OnlyRegs as d f := by
  obtain ⟨hd, hrd⟩ := h
  obtain ⟨he, hre⟩ := g
  exact ⟨(congrArg (fun x : Dev => { x with regs := d.regs }) he).trans hd, fun b hb => (hre b hb).trans (hrd b hb)⟩

theorem OnlyRegs.mono {as bs : List Nat} {d e : Dev} (h : OnlyRegs as d e) (hs : as ⊆ bs) : OnlyRegs bs d e :=
  ⟨h.1, fun b hb => h.2 b fun ha => hb (hs ha)⟩

theorem fset_onlyRegs (d : Dev) (a : Nat) (f : Nat × Nat) (v : Nat) : OnlyRegs [a] d (fset d a f v) :=
  ⟨rfl, fun _ hb => rg_fset_ne d f v (by simpa using hb)⟩

/-! ## The state of a desk -/

/-- Bell time depends on the clock alone. -/
theorem ns_congr {d e : Dev} (h : d.clk = e.clk) : ns d = ns e := by simp only [ns, h]

/-- The registers of a desk stand apart from those of the other blocks. -/
theorem desk_status_ne {a : Nat} (p : Nat) (h : a < 0x180100) : Reg.DESK_STATUS p ≠ a := by
  unfold Reg.DESK_STATUS
  omega

theorem deskState_of_rg {d e : Dev} {p : Nat} (h : rg e (Reg.DESK_STATUS p) = rg d (Reg.DESK_STATUS p)) : deskState e p = deskState d p := by
  simp only [deskState, fget, h]

theorem deskState_fset_ne (d : Dev) {a : Nat} (p : Nat) (f : Nat × Nat) (v : Nat) (h : a < 0x180100) : deskState (fset d a f v) p = deskState d p :=
  fget_fset_ne d f _ v (desk_status_ne p h)

theorem deskState_deskTo_self (d : Dev) (p : Nat) {v : Nat} (h : v < 16) : deskState (deskTo d p v) p = v :=
  (fget_fset_self d _ Fd.DESK_STATUS_state v (by decide) (by decide)).trans (Nat.mod_eq_of_lt h)

/-! ## RFAB_BENCH (R110) -/

/-- What a write of RFAB_BENCH comes to where nothing of it is refused: the number is kept, go acts. -/
theorem wordWrite_rfabBench (old v : Nat) :
    wordWrite [⟨31, 31, .trig, true, true, 0⟩, ⟨30, 30, .ro, false, true, 0⟩, ⟨8, 0, .rw, true, true, 0⟩] old v true true
      = ⟨putBits old 8 0 (bits v 8 0), putBits 0 31 31 (bits v 31 31), false, false, false⟩ := by
  simp [wordWrite, fldWrite]

/-- The register takes the desk's number; go benches, and a number that no desk has sets err. -/
theorem busWrite_rfabBench {d : Dev} {who : Req} (v : Nat) (hbus : BusReady d) (hs : reqSecure d who = true) (hu : Unlocked d who 0x030000) :
    let e := rgPut (consume d who 0x030000).2 Reg.RFAB_BENCH (putBits (rg d Reg.RFAB_BENCH) 8 0 (bits v 8 0))
    busWrite d who Reg.RFAB_BENCH v 15 =
      if bit (putBits 0 31 31 (bits v 31 31)) 31 then benchGo e (bits v 8 0)
      else if bits v 8 0 > 271 then fset e Reg.RFAB_BENCH Fd.RFAB_BENCH_err 1 else e := by
  have hblk : blkOf Reg.RFAB_BENCH = some (⟨0x0D, 0x030000, 1, false⟩, 0) := by decide +kernel
  have hflds : regFlds Reg.RFAB_BENCH
      = some [⟨31, 31, .trig, true, true, 0⟩, ⟨30, 30, .ro, false, true, 0⟩, ⟨8, 0, .rw, true, true, 0⟩] := by decide +kernel
  have hold : rg (consume d who 0x030000).2 Reg.RFAB_BENCH = rg d Reg.RFAB_BENCH := rg_consume_ne d who (by decide)
  have hs' : reqSecure (consume d who 0x030000).2 who = true := by
    rw [← hs]
    simp only [reqSecure, fbit, rg_consume_ne d who (show Reg.SIT_CTRL ≠ Reg.BLK_STATUS 0x030000 by decide)]
  have hnum := bits_putBits_of_lt (rg d Reg.RFAB_BENCH) (by decide) (bits_lt v 8 0)
  have hbus' := busWrite_of_secure v hbus hs (by decide) hblk hflds rfl
  rw [show blkBase Reg.RFAB_BENCH = 0x030000 by decide, show (consume d who 0x030000).1 = true from hu,
    regWrite_of_granted v hs' (by decide) (by decide) hblk hflds (by decide) (by decide +kernel), hold, wordWrite_rfabBench] at hbus'
  rw [hbus']
  simp only [applyReg, show Reg.RFAB_BENCH % 0x4000 = 0x10C by decide, hnum, Nat.reduceEqDiff, Nat.reduceLT, ↓reduceIte]

/-- go of a written word acts exactly where its highest bit is set. -/
theorem go_of_msb (v : Word) : bit (putBits 0 31 31 (bits v.toNat 31 31)) 31 = v.msb := by
  have hlt := v.isLt
  rw [BitVec.msb_eq_decide]
  by_cases h : 2 ^ 31 ≤ v.toNat
  · have h1 : bits v.toNat 31 31 = 1 := by
      unfold bits
      omega
    rw [h1, decide_eq_true h]
    decide
  · have h0 : bits v.toNat 31 31 = 0 := by
      unfold bits
      omega
    rw [h0, decide_eq_false h]
    decide

/-- go on the number of an ACTIVE desk benches it, and on any other number sets err. -/
theorem benchGo_eq (d : Dev) (p : Nat) :
    benchGo d p = if p ≤ 271 ∧ deskState d p = 0 then
        benchDesk (fset (fset d Reg.RFAB_BENCH Fd.RFAB_BENCH_phys p) Reg.RFAB_BENCH Fd.RFAB_BENCH_err 0) p
      else fset (fset d Reg.RFAB_BENCH Fd.RFAB_BENCH_phys p) Reg.RFAB_BENCH Fd.RFAB_BENCH_err 1 := by
  simp only [benchGo, deskState_fset_ne d p _ _ (show Reg.RFAB_BENCH < 0x180100 by decide)]

theorem exec_rfabBenchGo {s : State} (who : Req) (v : Word) (h : alive s.dev = true) :
    exec (.rfabBenchGo who v) s = .next (s.after (busWrite s.dev who Reg.RFAB_BENCH v.toNat 15)) :=
  actReg_next (f := fun d => busWrite d who Reg.RFAB_BENCH v.toNat 15) h

/-! ## Drains (R100, R102) -/

theorem drainComplete_of_empty {d : Dev} {p : Nat} (hs : deskState d p = 1) (hx : deskAt d p = Desk.empty) : drainComplete d p = drainOver d p := by
  simp [drainComplete, hs, hx, Desk.empty]

/-- A drain whose time is over, with one partial sum of single mode left in the desk: the bucket is erased with cause DRAIN. -/
theorem drainTimeout_of_single {d : Dev} {p t : Nat} {a : Accum} {ch : Chunk} {b : Bucket}
    (hd : d.int.drains.find? (fun x => decide (x.1 = .desk ∧ x.2.1 = p)) = some (.desk, p, t)) (ht : t ≤ ns d) (hs : deskState d p = 1)
    (hacc : (deskAt d p).accs = [a])
    (hc : chunkOf (raise (unitFault d (Reg.DESK_FAULT p) Fd.DESK_FAULT_drain_timeout (256 + p)) 785) a.key a.att a.chunk = some (b, ch))
    (hl : dualLive ch = false) :
    let e := detectCause (raise (unitFault d (Reg.DESK_FAULT p) Fd.DESK_FAULT_drain_timeout (256 + p)) 785) a.key 6 [a.chunk]
    drainTimeout d p = drainOver (freeLanes (deskPut e p Desk.empty) (deskAt e p).queue) p := by
  simp only [drainTimeout, hd, hs, hacc, hc, hl, Nat.not_lt.mpr ht, List.isEmpty_cons, ne_eq, not_true_eq_false, Bool.false_eq_true, or_self,
    ↓reduceIte, List.foldl_cons, List.foldl_nil]

theorem exec_deskDrainComplete {s : State} (p : Fin 272) (h : alive s.dev = true) :
    exec (.deskDrainComplete p) s = .next (s.after (drainComplete s.dev p.val)) := act_next (f := fun d => drainComplete d p.val) h

theorem exec_deskDrainTimeout {s : State} (p : Fin 272) (h : alive s.dev = true) :
    exec (.deskDrainTimeout p) s = .next (s.after (drainTimeout s.dev p.val)) := act_next (f := fun d => drainTimeout d p.val) h

/-! ## Spares (R103) -/

/-- RFAB_SPARE_STATUS names the spare p under test and the logical desk l that it is to serve (R109). -/
def refillShown (d : Dev) (p l : Nat) : Dev :=
  fset (fset (fset d Reg.RFAB_SPARE_STATUS Fd.RFAB_SPARE_STATUS_refill_busy 1) Reg.RFAB_SPARE_STATUS Fd.RFAB_SPARE_STATUS_refill_phys p)
    Reg.RFAB_SPARE_STATUS Fd.RFAB_SPARE_STATUS_refill_logical l

/-- A one-bit field is set where it reads 1. -/
theorem fbit_of_fget_eq_one {d : Dev} {a i : Nat} (h : fget d a (i, i) = 1) : fbit d a (i, i) = true := by
  simp only [fget, bits, Nat.shiftRight_eq_div_pow, Nat.add_sub_cancel_left, Nat.pow_one] at h
  simpa [fbit, Nat.testBit_eq_decide_div_mod_eq] using h

theorem refillShown_busy (d : Dev) (p l : Nat) : fbit (refillShown d p l) Reg.RFAB_SPARE_STATUS Fd.RFAB_SPARE_STATUS_refill_busy = true := by
  apply fbit_of_fget_eq_one
  unfold refillShown
  rw [fget_fset_above _ _ Fd.RFAB_SPARE_STATUS_refill_logical (31, 31) _ (by decide) (by decide) (by decide) (by decide),
    fget_fset_above _ _ Fd.RFAB_SPARE_STATUS_refill_phys (31, 31) _ (by decide) (by decide) (by decide) (by decide)]
  exact fget_fset_self d _ (31, 31) 1 (by decide) (by decide)

theorem refillShown_phys (d : Dev) {p : Nat} (l : Nat) (h : p < 512) :
    fget (refillShown d p l) Reg.RFAB_SPARE_STATUS Fd.RFAB_SPARE_STATUS_refill_phys = p := by
  unfold refillShown
  rw [fget_fset_above _ _ _ _ _ (by decide) (by decide) (by decide) (by decide), fget_fset_self _ _ _ _ (by decide) (by decide)]
  exact Nat.mod_eq_of_lt h

theorem refillShown_logical (d : Dev) (p l : Nat) :
    fget (refillShown d p l) Reg.RFAB_SPARE_STATUS Fd.RFAB_SPARE_STATUS_refill_logical = l % 256 :=
  fget_fset_self _ _ _ _ (by decide) (by decide)

theorem refillShown_onlyRegs (d : Dev) (p l : Nat) : OnlyRegs [Reg.RFAB_SPARE_STATUS] d (refillShown d p l) :=
  ((fset_onlyRegs ..).trans (fset_onlyRegs ..)).trans (fset_onlyRegs ..)

/-- The start of a test on the registers: the spare's state, and what RFAB_SPARE_STATUS shows. -/
theorem refillShown_deskTo_onlyRegs (d : Dev) (p v l : Nat) :
    OnlyRegs [Reg.DESK_STATUS p, Reg.RFAB_SPARE_STATUS] d (refillShown (deskTo d p v) p l) :=
  ((fset_onlyRegs ..).mono (by simp)).trans ((refillShown_onlyRegs ..).mono (by simp))

theorem deskState_refillShown_deskTo (d : Dev) (p l : Nat) {v : Nat} (h : v < 16) : deskState (refillShown (deskTo d p v) p l) p = v :=
  (deskState_of_rg ((refillShown_onlyRegs _ p l).2 _ (by simpa using desk_status_ne p (by decide)))).trans (deskState_deskTo_self d p h)

/-- The lowest good spare is tested for the logical desk that was benched first. -/
theorem katStart_of_spare {d : Dev} {l p : Nat} {ls ps : List Nat} (hr : running d = true) (hf : d.fab.refill = none) (hp : d.fab.passed = none)
    (hl : refillable d = l :: ls) (hs : goodSpares d = p :: ps) :
    let e := refillShown (deskTo d p 4) p l
    katStart d = { e with fab := { e.fab with refill := some (p, l, ns e) } } := by
  have hgo : ¬ ((!running d) = true ∨ d.fab.refill.isSome = true ∨ d.fab.passed.isSome = true) := by simp [hr, hf, hp]
  rw [katStart, if_neg hgo, hl, hs]
  rfl

theorem lt_of_goodSpares {d : Dev} {p : Nat} {ps : List Nat} (h : goodSpares d = p :: ps) : p < 272 := by
  have hm : p ∈ goodSpares d := by simp [h]
  exact List.mem_range.mp (List.mem_filter.mp hm).1

/-- The event log leaves the fabric's own tests alone. -/
@[simp] theorem event_int (d : Dev) (cls kind : Nat) (what : List Nat) (data : Option (List Byte)) : (event d cls kind what data).int = d.int := by
  simp only [event, apply_ite Dev.int, raise_int, bump_int, ite_self]

/-- Where no requester has joined a test, none is left to be forgotten. -/
theorem kat_cleared {e : Dev} (h : e.int.kat = []) : { e with int := { e.int with kat := [] } } = e := by
  rw [← h]

/-- The end of a test: a spare that failed leaves an event record, and no requester waits any more (R103, R438). -/
theorem katEndAll_of_ended {d e : Dev} {pass : Bool} (he : katEnd d pass = e) (hs : d.fab.refill.isSome = true ∧ e.fab.refill.isNone = true)
    (hk : d.int.kat = []) :
    katEndAll d pass =
      let x := if pass then e else event e 9 1 (katDesk d).toList
      { x with int := { x.int with kat := [] } } := by
  simp only [katEndAll, he, if_pos hs, hk, List.foldl_nil]

/-- A spare that fails its test: it is DEAD, with its fault and FS_787. -/
def katFailed (d : Dev) (p : Nat) : Dev :=
  raise (unitFault (deskTo (fset { d with fab := { d.fab with refill := none } } Reg.RFAB_SPARE_STATUS Fd.RFAB_SPARE_STATUS_refill_busy 0) p 5)
    (Reg.DESK_FAULT p) Fd.DESK_FAULT_kat_fail (256 + p)) 787

theorem katFailed_int (d : Dev) (p : Nat) : (katFailed d p).int = d.int := by
  rw [katFailed, raise_int, unitFault, raise_int, fset_int, deskTo, fset_int, fset_int]

theorem katFailed_fab (d : Dev) (p : Nat) : (katFailed d p).fab = { d.fab with refill := none } := by
  rw [katFailed, raise_fab, unitFault, raise_fab, fset_fab, deskTo, fset_fab, fset_fab]

section
variable {d : Dev} {p l t : Nat} (hf : d.fab.refill = some (p, l, t)) (ht : t + 40000 ≤ ns d)
include hf ht

theorem katEnd_of_pass : katEnd d true = { d with fab := { d.fab with refill := none, passed := some (p, l, tickIdx d) } } := by
  simp only [katEnd, hf, Nat.not_lt.mpr ht, ↓reduceIte]
  rfl

theorem katEnd_of_fail : katEnd d false = katFailed d p := by
  simp only [katEnd, hf, Nat.not_lt.mpr ht, Bool.false_eq_true, ↓reduceIte]
  rfl

/-- A test that no requester has joined ends with its own effect, and one that fails with an event record. -/
theorem katEndAll_of_pass (hk : d.int.kat = []) :
    katEndAll d true = { d with fab := { d.fab with refill := none, passed := some (p, l, tickIdx d) } } := by
  rw [katEndAll_of_ended (katEnd_of_pass hf ht) ⟨by rw [hf]; rfl, rfl⟩ hk]
  exact kat_cleared (e := { d with fab := { d.fab with refill := none, passed := some (p, l, tickIdx d) } }) hk

theorem katEndAll_of_fail (hk : d.int.kat = []) : katEndAll d false = event (katFailed d p) 9 1 [p] := by
  have hends : d.fab.refill.isSome = true ∧ (katFailed d p).fab.refill.isNone = true := by simp [hf, katFailed_fab]
  have hdesk : (katDesk d).toList = [p] := by simp [katDesk, hf]
  have hkat : (event (katFailed d p) 9 1 [p]).int.kat = [] := by rw [event_int, katFailed_int, hk]
  rw [katEndAll_of_ended (katEnd_of_fail hf ht) hends hk, hdesk]
  simp only [Bool.false_eq_true, ↓reduceIte]
  generalize event (katFailed d p) 9 1 [p] = e at hkat ⊢
  exact kat_cleared hkat

end

theorem exec_spareKatStart {s : State} (h : alive s.dev = true) : exec .spareKatStart s = .next (s.after (katStart s.dev)) := act_next h

theorem exec_spareKatEnd {s : State} (pass : Bool) (h : alive s.dev = true) : exec (.spareKatEnd pass) s = .next (s.after (katEndAll s.dev pass)) :=
  act_next (f := fun d => katEndAll d pass) h

/-- A spare that passed is taken into use at the next tick boundary. -/
theorem mapTake_of_passed {d : Dev} {p l t : Nat} (hp : d.fab.passed = some (p, l, t)) (ht : t < tickIdx d) :
    mapTake d = bump (mapTo (fset { d with fab := { d.fab with passed := none } } Reg.RFAB_SPARE_STATUS Fd.RFAB_SPARE_STATUS_refill_busy 0) l p)
      Reg.RFAB_REFILL_CNT := by
  simp only [mapTake, hp, Nat.not_le.mpr ht, ↓reduceIte]

theorem exec_spareMapTake {s : State} (h : alive s.dev = true) : exec .spareMapTake s = .next (s.after (mapTake s.dev)) := act_next h

/-! ## A round of stealing (R92, R93, R108) -/

/-- A round has begun: its time and its length are taken. -/
def roundBegun (d : Dev) : Dev := { d with fab := { d.fab with stealAt := cycleNow d, round := stealRoundLen d } }

/-- ACTIVE desks from which may be taken: those with more lane words than the high mark, and those whose queue waits for accumulators. -/
def stealVictims (d : Dev) : List Nat :=
  ((d.fab.desks.map (·.1)).filter (fun p => decide (deskState d p = 0))).filter (fun p =>
    (fbit d Reg.RFAB_CTRL Fd.RFAB_CTRL_steal_en && decide (laneWords (deskAt d p) > fget d Reg.RFAB_STEAL Fd.RFAB_STEAL_high_mark))
      || ((queuedHead (deskAt d p)).isSome && decide (accUsed (deskAt d p) ≥ 24)))

/-- ACTIVE desks with free accumulators and no more lane words than the low mark, in ascending order. -/
def stealThieves (d : Dev) : List Nat :=
  (List.range 272).filter (fun p => decide (deskState d p = 0 ∧ accUsed (deskAt d p) < 24
    ∧ laneWords (deskAt d p) ≤ fget d Reg.RFAB_STEAL Fd.RFAB_STEAL_low_mark) && !((stealVictims d).contains p))

/-- One thief's trade, and the victims that are left. -/
def stealStep (s : Dev × List Nat) (t : Nat) : Dev × List Nat :=
  match stealTrade s.1 t s.2.length s.2 with
  | none => s
  | some (v, e) => (e, s.2.filter (· ≠ v))

/-- A round that is due: the thieves trade in ascending order (log 123). -/
theorem stealRound_of_due {d : Dev} (hr : running d = true) (ht : cycleNow d ≥ d.fab.stealAt + d.fab.round ∨ d.fab.stealAt = 0) :
    stealRound d = if (stealVictims (roundBegun d)).isEmpty then roundBegun d
      else ((stealThieves (roundBegun d)).foldl stealStep (roundBegun d, stealVictims (roundBegun d))).1 := by
  have hgo : ¬ ((!running d) = true ∨ (cycleNow d < d.fab.stealAt + d.fab.round ∧ d.fab.stealAt ≠ 0)) := by
    rw [hr]
    rintro (h | ⟨hlt, hne⟩)
    · exact absurd h (by decide)
    · exact ht.elim (Nat.not_le.mpr hlt) hne
  rw [stealRound, if_neg hgo]
  rfl

/-- A thief takes the oldest QUEUED chunk of a victim where it has the accumulators for it. -/
theorem stealFrom_of_queued {d : Dev} {t v : Nat} {blk : LBlk} {b : Bucket} (hq : queuedHead (deskAt d v) = some blk)
    (hb : bucketAt d blk.key = some b) (hu : accUsed (deskAt d t) + accsOf b ≤ 24)
    (hh : holdsOther d t blk.key blk.att blk.chunk blk.copy = false) :
    stealFrom d t v = some (chunkBind (bump (moveChunk d v t blk.key blk.att blk.chunk blk.copy) Reg.RFAB_STEAL_CNT) t) := by
  simp only [stealFrom, hq, hb, hu, hh, Bool.not_false, and_self, ↓reduceIte]

/-- With one victim, a thief that may take from it leaves none. -/
theorem stealStep_of_one_victim {d e : Dev} {t v : Nat} (h : stealFrom d t v = some e) : stealStep (d, [v]) t = (e, []) := by
  simp [stealStep, stealTrade, bestVictim, h]

/-- Without a victim no thief trades. -/
theorem foldl_stealStep_of_no_victim (ts : List Nat) (d : Dev) : ts.foldl stealStep (d, []) = (d, []) := by
  induction ts with
  | nil => rfl
  | cons t ts ih =>
    rw [List.foldl_cons]
    exact ih

/-- The lowest number with a property leads those that have it. -/
theorem filter_range_eq_cons {p : Nat → Bool} {n t : Nat} (ht : t < n) (hp : p t = true) (hlow : ∀ q < t, p q = false) :
    ∃ rest, (List.range n).filter p = t :: rest := by
  obtain ⟨m, rfl⟩ : ∃ m, n = t + (m + 1) := ⟨n - t - 1, by omega⟩
  have hnone : (List.range t).filter p = [] :=
    List.filter_eq_nil_iff.mpr fun q hq => by simp [hlow q (List.mem_range.mp hq)]
  rw [List.range_add, List.filter_append, hnone, List.nil_append, List.range_succ_eq_map, List.map_cons, Nat.add_zero, List.filter_cons_of_pos hp]
  exact ⟨_, rfl⟩

section
variable {d : Dev} {v t : Nat} {x : Desk} {blk : LBlk} (hd : d.fab.desks = [(v, x)]) (hv : deskState d v = 0) (hq : queuedHead x = some blk)
  (hu : 24 ≤ accUsed x)
include hd hv hq hu

/-- The one desk in use, ACTIVE, is a victim where a chunk waits at it for accumulators. -/
theorem stealVictims_of_single : stealVictims d = [v] := by
  have hx : deskAt d v = x := by simp [deskAt, hd, tget]
  simp [stealVictims, hd, hv, hx, hq, hu]

/-- The lowest other ACTIVE desk is idle, and leads the thieves. -/
theorem stealThieves_of_single (ht : t < 272) (hne : t ≠ v) (hs : deskState d t = 0) (hlow : ∀ q < t, q ≠ v → deskState d q ≠ 0) :
    ∃ rest, stealThieves d = t :: rest := by
  have hidle : deskAt d t = Desk.empty := by simp [deskAt, hd, tget, hne]
  unfold stealThieves
  rw [stealVictims_of_single hd hv hq hu]
  refine filter_range_eq_cons ht ?_ ?_
  · simp [hs, hidle, hne, Desk.empty, accUsed, laneWords]
  · intro q hqt
    by_cases h : q = v
    · simp [h]
    · simp [hlow q hqt h]

end

theorem exec_stealRound {s : State} (h : alive s.dev = true) : exec .stealRound s = .next (s.after (stealRound s.dev)) := act_next h

/-- Without a desk in use there is no victim. -/
theorem stealRound_of_no_desk {d : Dev} (hr : running d = true) (ht : cycleNow d ≥ d.fab.stealAt + d.fab.round ∨ d.fab.stealAt = 0)
    (hd : d.fab.desks = []) : stealRound d = roundBegun d := by
  have hnone : stealVictims (roundBegun d) = [] := by simp [stealVictims, roundBegun, hd]
  rw [stealRound_of_due hr ht, hnone]
  rfl

/-- With one desk in use, whose accumulators are all taken, the lowest other ACTIVE desk takes its oldest QUEUED chunk. -/
theorem stealRound_of_single {d : Dev} {v t : Nat} {x : Desk} {blk : LBlk} {b : Bucket} (hr : running d = true)
    (hdue : cycleNow d ≥ d.fab.stealAt + d.fab.round ∨ d.fab.stealAt = 0) (hd : d.fab.desks = [(v, x)]) (hv : deskState d v = 0)
    (hq : queuedHead x = some blk) (hu : 24 ≤ accUsed x) (ht : t < 272) (hne : t ≠ v) (hs : deskState d t = 0)
    (hlow : ∀ q < t, q ≠ v → deskState d q ≠ 0) (hb : bucketAt d blk.key = some b) (hroom : accsOf b ≤ 24)
    (hh : holdsOther (roundBegun d) t blk.key blk.att blk.chunk blk.copy = false) :
    stealRound d = chunkBind (bump (moveChunk (roundBegun d) v t blk.key blk.att blk.chunk blk.copy) Reg.RFAB_STEAL_CNT) t := by
  have hd' : (roundBegun d).fab.desks = [(v, x)] := hd
  have hst : ∀ q, deskState (roundBegun d) q = deskState d q := fun q => deskState_congr rfl q
  have hvict := stealVictims_of_single hd' ((hst v).trans hv) hq hu
  obtain ⟨rest, hthieves⟩ := stealThieves_of_single hd' ((hst v).trans hv) hq hu ht hne ((hst t).trans hs) fun q hqt hqv => hst q ▸ hlow q hqt hqv
  have hvx : deskAt (roundBegun d) v = x := by simp [deskAt, hd', tget]
  have hidle : accUsed (deskAt (roundBegun d) t) = 0 := by simp [deskAt, hd', tget, hne, Desk.empty, accUsed]
  have htake := stealFrom_of_queued (d := roundBegun d) (t := t) (v := v) (b := b) (by rw [hvx, hq]) hb (by omega) hh
  rw [stealRound_of_due hr hdue, hvict, hthieves, List.foldl_cons, stealStep_of_one_victim htake, foldl_stealStep_of_no_victim]
  rfl

/-- Settles O18: each command takes the one case that its conditions leave, the write of RFAB_BENCH by its go bit. -/
theorem desksAreReplaced : Obligations.DesksAreReplaced := by
  unfold Obligations.DesksAreReplaced
  intro s
  refine ⟨?go, ?number, ?drained, ?drainOver, ?katStart, ?katEnd, ?mapTake, ?steal⟩
  case go =>
    intro who v hbus hs hu hmsb e
    have hst : deskState e (bits v.toNat 8 0) = deskState s.dev (bits v.toNat 8 0) := deskState_of_rg
      ((rg_rgPut_ne _ _ (desk_status_ne _ (by decide))).trans (rg_consume_ne _ _ (desk_status_ne _ (by decide))))
    rw [exec_rfabBenchGo who v hbus.1, busWrite_rfabBench v.toNat hbus hs hu, go_of_msb, if_pos hmsb, benchGo_eq, hst]
  case number =>
    intro who v hbus hs hu hmsb hbig
    rw [exec_rfabBenchGo who v hbus.1, busWrite_rfabBench v.toNat hbus hs hu, go_of_msb, hmsb, if_neg (by decide), if_pos hbig]
  case drained =>
    intro p ha hs hx
    rw [exec_deskDrainComplete p ha, drainComplete_of_empty hs hx, drainOver]
  case drainOver =>
    intro p t a ch b ha hd ht hs hacc hc hl e
    rw [exec_deskDrainTimeout p ha, drainTimeout_of_single hd ht hs hacc hc hl]
  case katStart =>
    intro l p ls ps hr hf hp hl hs
    obtain ⟨hframe, hrg⟩ := refillShown_deskTo_onlyRegs s.dev p 4 l
    have hstate := deskState_refillShown_deskTo s.dev p l (by decide : 4 < 16)
    have hbusy := refillShown_busy (deskTo s.dev p 4) p l
    have hphys := refillShown_phys (deskTo s.dev p 4) l (Nat.lt_trans (lt_of_goodSpares hs) (by decide))
    have hlogical := refillShown_logical (deskTo s.dev p 4) p l
    rw [exec_spareKatStart (alive_of_running hr).1, katStart_of_spare hr hf hp hl hs]
    generalize refillShown (deskTo s.dev p 4) p l = r at hframe hrg hstate hbusy hphys hlogical ⊢
    have hns : ns r = ns s.dev := ns_congr (congrArg Dev.clk hframe :)
    have hfab : r.fab = s.dev.fab := (congrArg Dev.fab hframe :)
    refine ⟨_, rfl, ?_, (deskState_congr (by rfl) p).trans hstate, (fbit_congr (by rfl) ..).trans hbusy, (fget_congr (by rfl) ..).trans hphys,
      (fget_congr (by rfl) ..).trans hlogical, congrArg (fun x : Dev => { x with fab := s.dev.fab }) hframe, ?_⟩
    · rw [hns, hfab]
    · exact fun a ha ha' => (rg_congr (by rfl) a).trans (hrg a (by simp [ha, ha']))
  case katEnd =>
    intro p l t ha hf ht hk
    rw [exec_spareKatEnd true ha, exec_spareKatEnd false ha, katEndAll_of_pass hf ht hk, katEndAll_of_fail hf ht hk, katFailed]
    exact ⟨rfl, rfl⟩
  case mapTake =>
    intro p l t ha hp ht
    rw [exec_spareMapTake ha, mapTake_of_passed hp ht]
  case steal =>
    intro hr hdue e
    have he : e = roundBegun s.dev := rfl
    clear_value e
    subst he
    refine ⟨?_, ?_⟩
    · intro hd
      rw [exec_stealRound (alive_of_running hr).1, stealRound_of_no_desk hr hdue hd]
    · intro v t x blk b hd hv hq hu ht hne hs hlow hb hroom hh
      rw [exec_stealRound (alive_of_running hr).1, stealRound_of_single hr hdue hd hv hq hu ht hne hs hlow hb hroom hh]

end Sys2Proof.Machine
end

section
/-! PROOFS. The group commands (R117, R119, R124, R474 to R477, R487, R501, R502): what each body answers in the case that its conditions leave, and
what the table of contexts holds after it. -/

namespace Sys2Proof.Machine

/-! ## Answers of a command's body -/

/-- A layout none of whose tests fails gives way to what follows it. -/
theorem checks_of_firstBad_none {xs : List (Nat × Bool)} (a : Ans) (h : firstBad xs = none) : checks xs a = a := by simp only [checks, h]

/-- A query whose reply goes out in parts (R491). -/
theorem cmd_query_parts {row : Row} {h : CmdHdr} {s : State} {e : Dev} {ps : List (List Byte)} {p : List Byte} {body : Dev → ReplyTo → Ans}
    (hd : Admitted row.code row.secure row.query h s.dev) (hq : row.query = true)
    (hb : body (dequeue s.dev h row.code) (hdrReply h row.code) = .parts e ps) :
    act (runCmd row h p body) s = .next (s.after (replyParts e (hdrReply h row.code) St.ok ps)) := by
  rw [act_next hd.1, runCmd_admitted p body hd, hb]
  simp only [admittedRun, hq, ↓reduceIte]

/-- A command whose reply comes later keeps the place of its entry in the log (R268). -/
theorem cmd_later {row : Row} {h : CmdHdr} {s : State} {e : Dev} {p : List Byte} {body : Dev → ReplyTo → Ans}
    (hd : Admitted row.code row.secure row.query h s.dev) (hq : row.query = false)
    (hb : body (dequeue s.dev h row.code) (hdrReply h row.code) = .later e) :
    act (runCmd row h p body) s = .next (s.after (recordWait e h row.code p)) := by
  rw [act_next hd.1, runCmd_admitted p body hd, hb]
  simp only [admittedRun, hq, Bool.false_eq_true, ↓reduceIte]

/-- A command that is held leaves the device that its body makes. -/
theorem cmd_hold {row : Row} {h : CmdHdr} {s : State} {e : Dev} {p : List Byte} {body : Dev → ReplyTo → Ans}
    (hd : Admitted row.code row.secure row.query h s.dev)
    (hb : body (dequeue s.dev h row.code) (hdrReply h row.code) = .hold e) : act (runCmd row h p body) s = .next (s.after e) := by
  rw [act_next hd.1, runCmd_admitted p body hd, hb]
  rfl

/-- An operation that answers a value has not answered a status. -/
theorem eq_ok_of_toOption {ε α : Type} {x : Except ε α} {a : α} (h : x.toOption = some a) : x = .ok a := by
  cases x with
  | error e => cases h
  | ok b => exact congrArg _ (Option.some.inj h)

/-! ## The table of contexts (R117) -/

@[simp] theorem groupAt_groupPut_self (d : Dev) (i : Nat) (g : Group) : groupAt (groupPut d i g) i = g := by simp only [groupAt, groupPut, tget_tset_self]

theorem groupAt_groupPut_ne (d : Dev) {i j : Nat} (g : Group) (h : j ≠ i) : groupAt (groupPut d i g) j = groupAt d j :=
  tget_tset_ne _ _ _ _ h

/-- The history of RM16 is kept apart from the contexts. -/
theorem groupAt_with_rmHist (d : Dev) (m : List (Nat × Nat)) (j : Nat) : groupAt { d with seq := { d.seq with rmHist := m } } j = groupAt d j := rfl

@[simp] theorem groupAt_historyPut (d : Dev) (i j : Nat) (b : List Byte) : groupAt (historyPut d i b) j = groupAt d j := by
  unfold historyPut
  split
  · rfl
  · exact groupAt_with_rmHist ..

/-- A requester whose world reaches the group. -/
theorem groupWorldOk_of_imp {g : Group} {w : Bool} (h : g.world = true → w = true) : groupWorldOk g w = true := by
  cases hg : g.world
  · simp only [groupWorldOk, hg, Bool.not_false, Bool.true_or]
  · simp only [groupWorldOk, h hg, Bool.or_true]

theorem withGroup_of_used {d : Dev} {i : Nat} {w : Bool} (k : Group → Ans) (hs : (groupAt d i).st ≠ 0) (hw : (groupAt d i).world = true → w = true) :
    withGroup d i w k = k (groupAt d i) := by
  simp only [withGroup, hs, groupWorldOk_of_imp hw, Bool.not_true, Bool.false_eq_true, ↓reduceIte]

/-! ## GROUP_CREATE, GROUP_MODIFY, GROUP_QUERY, GROUP_DESTROY (R119, R124, R501, R502) -/

/-- The lowest FREE context is the first that is found. -/
theorem find?_free_of_lowest {d : Dev} {i n : Nat} (hi : i < n) (hf : (groupAt d i).st = 0) (hlow : ∀ j ∈ List.range i, (groupAt d j).st ≠ 0) :
    (List.range n).find? (fun j => decide ((groupAt d j).st = 0)) = some i := by
  rw [List.find?_range_eq_some]
  exact ⟨decide_eq_true hf, List.mem_range.mpr hi, fun j hj => by simpa using hlow j (List.mem_range.mpr hj)⟩

/-- The context that a GROUP_CREATE sets: the fields of its body over a FREE one, every member on the roll unless the body gives it. -/
def createdGroup (h : CmdHdr) (p : List Byte) : Group :=
  let g := bodyGroup (field p 0 4) p { Group.free with st := 1, world := h.world, roll := 0 }
  if (field p 0 4).testBit 3 then g else { g with roll := ones g.members }

theorem groupCreate_of_room {d : Dev} {h : CmdHdr} {p : List Byte} {i : Nat} {g : Group} (hg : createdGroup h p = g) (hl : 72 ≤ p.length)
    (hm : (field p 0 4).testBit 16 = false) (hc : firstBad (bodyChecks true (field p 0 4) p Group.free g) = none) (hw : g.world = true → h.world = true)
    (hd : draining d = false) (hi : i < 4096) (hf : (groupAt d i).st = 0) (hlow : ∀ j ∈ List.range i, (groupAt d j).st ≠ 0)
    (hr : groupRoom d Group.free g = none) : groupCreate d h p = .done (groupPut d i g) (beBytes 2 i) := by
  have hworld : ¬ (g.world = true ∧ (!h.world) = true) := fun ⟨hg, hn⟩ => by simp [hw hg] at hn
  simp only [createdGroup] at hg
  simp only [groupCreate, Nat.not_lt.mpr hl, hg, checks_of_firstBad_none _ hc, hm, hworld, hd, find?_free_of_lowest hi hf hlow, hr,
    Bool.false_eq_true, false_and, or_self, ↓reduceIte]

/-- A GROUP_MODIFY that keeps role, roll, members and slots keeps the epoch (R124). -/
theorem groupModify_of_kept {d : Dev} {h : CmdHdr} {p : List Byte} {old g : Group} (ho : groupAt d (field p 4 2) = old)
    (hg : bodyGroup (field p 0 4) p old = g) (hl : 72 ≤ p.length) (hm : firstBad (modifyChecks (field p 0 4) p) = none) (hs : old.st = 1)
    (hw : old.world = true → h.world = true) (hc : firstBad (bodyChecks false (field p 0 4) p old g) = none)
    (hk : g.role = old.role ∧ g.roll = old.roll ∧ g.members = old.members ∧ g.slots = old.slots) (hb : ctxBound d (field p 4 2) = false)
    (hr : groupRoom d old g = none) : groupModify d h p = .done (groupPut d (field p 4 2) g) (beBytes 2 g.epoch) := by
  obtain ⟨hrole, hroll, hmem, hslots⟩ := hk
  subst ho
  simp only [groupModify, Nat.not_lt.mpr hl, ↓reduceIte, checks_of_firstBad_none _ hm]
  have hact : ¬ (groupAt d (field p 4 2)).st = 2 := by omega
  rw [withGroup_of_used _ (by omega) hw, hg, checks_of_firstBad_none _ hc, if_neg hact]
  simp only [hb, hr, hrole, hroll, hmem, hslots, Bool.false_eq_true, false_and, and_self, ↓reduceIte]

/-- Exported bytes end with their check, so there are some. -/
theorem groupExport_isEmpty (d : Dev) (i : Nat) (hist : Bool) (g : Group) : (groupExport d i hist g).isEmpty = false := by
  rw [List.isEmpty_eq_false_iff]
  intro h
  have hlen := congrArg List.length h
  simp only [groupExport, List.length_append, beBytes_length, List.length_nil] at hlen
  omega

theorem groupQuery_of_used {d : Dev} {h : CmdHdr} {p : List Byte} (hl : p.length = 2) (hi : field p 0 2 < 4096)
    (hs : (groupAt d (field p 0 2)).st ≠ 0) (hw : (groupAt d (field p 0 2)).world = true → h.world = true) :
    let bs := groupExport d (field p 0 2) false (groupAt d (field p 0 2))
    groupQuery d h p = .parts d (chunksOf 2048 (bs.length + 1) bs) := by
  unfold groupQuery
  rw [needLen_pass _ hl, if_neg (Nat.not_le.mpr hi), withGroup_of_used _ hs hw]
  simp only [longReply, groupExport_isEmpty, Bool.false_eq_true, ↓reduceIte]

/-- A context that is in use is destroyed, unless it is FROZEN or has a bucket (log 166). -/
theorem groupDestroy_of_used {d : Dev} {h : CmdHdr} {p : List Byte} (hl : p.length = 2) (hi : field p 0 2 < 4096)
    (hs : (groupAt d (field p 0 2)).st ≠ 0) (hw : (groupAt d (field p 0 2)).world = true → h.world = true) :
    groupDestroy d h p = if (groupAt d (field p 0 2)).st = 2 ∨ bucketsOf d (field p 0 2) ≠ [] then .err St.groupBusy
      else .done (groupPut d (field p 0 2) Group.free) [] := by
  simp only [groupDestroy, needLen_pass _ hl, ge_iff_le, Nat.not_le.mpr hi, withGroup_of_used _ hs hw, ↓reduceIte, Bool.not_eq_true',
    List.isEmpty_eq_false_iff]

/-! ## GROUP_EXPORT, GROUP_IMPORT, GROUP_IMPORT_INSTALLED (R474 to R477) -/

/-- The number of a context has no bits where the commands keep the mark of a huddle group and reserved bits. -/
theorem bits_context {i : Nat} (h : i < 4096) : bits i 14 12 = 0 := by
  unfold bits
  rw [Nat.shiftRight_eq_div_pow, Nat.div_eq_of_lt h, Nat.zero_mod]

theorem groupExportCmd_of_room {d : Dev} {h : CmdHdr} {p : List Byte} {n : Nat} {r : Region} (hl : p.length = 16) (hi : field p 0 2 < 4096)
    (h2 : byteAt p 2 % 128 = 0) (h3 : byteAt p 3 = 0) (hh : handleOk (field p 4 4) = true) (hs : (groupAt d (field p 0 2)).st ≠ 0)
    (hw : (groupAt d (field p 0 2)).world = true → h.world = true) (hr : regionOf d (field p 4 4) = some (n, r)) (hsec : r.secure = h.world)
    (hb : field p 8 8 + (groupExport d (field p 0 2) (bit (byteAt p 2) 7) (groupAt d (field p 0 2))).length ≤ regionBytes r) :
    let bs := groupExport d (field p 0 2) (bit (byteAt p 2) 7) (groupAt d (field p 0 2))
    groupExportCmd d h p = .done (regionWrite d r (field p 8 8) bs) (beBytes 4 bs.length) := by
  have hnum : field p 0 2 < 32768 := by omega
  have hchk : firstBad [(0, decide (bits (field p 0 2) 14 12 = 0) && (field p 0 2 < 32768 || decide (field p 0 2 % 4096 < 256))),
      (2, decide (byteAt p 2 % 128 = 0)), (3, decide (byteAt p 3 = 0)), (6, handleOk (field p 4 4))] = none := by
    simp [firstBad, bits_context hi, hnum, h2, h3, hh]
  unfold groupExportCmd
  rw [needLen_pass _ hl, checks_of_firstBad_none _ hchk, if_neg (Nat.not_le.mpr hnum), Nat.mod_eq_of_lt hi, withGroup_of_used _ hs hw]
  simp only [hr, hsec, bne_self_eq_false, Bool.false_eq_true, gt_iff_lt, Nat.not_lt.mpr hb, ↓reduceIte]

/-- What an import that is installed makes of its context: ACTIVE, at 1 plus the larger epoch, of a FREE one at the exported epoch plus 1. -/
theorem groupAt_groupInstall {d e : Dev} {i : Nat} {b : List Byte} (h : groupInstall d i b = some e) :
    (groupAt e i).st = 1
      ∧ (groupAt e i).epoch = ((if (groupAt d i).st = 0 then field b 2 2 else max (groupAt d i).epoch (field b 2 2)) + 1) % 65536 := by
  unfold groupInstall at h
  split at h
  · cases h
  · obtain ⟨-, he⟩ := Option.ite_none_left_eq_some.mp h
    obtain rfl := Option.some.inj he
    rw [groupAt_historyPut, groupAt_groupPut_self]
    exact ⟨rfl, rfl⟩

/-- Valid exported bytes for which there is room: a FREE context takes it at once, an ACTIVE one is FROZEN until its history is in place. -/
theorem groupImportCmd_of_valid {d d1 : Dev} {h : CmdHdr} {r : ReplyTo} {p b : List Byte} {g : Group} (hl : p.length = 16) (hi : field p 12 2 < 4096)
    (h0 : field p 14 2 = 0) (hh : handleOk (field p 0 4) = true) (hb : exportIn d h (field p 0 4) (field p 4 8) = .ok b)
    (hg : exportGroup b = some g) (hw : g.world = true → h.world = true)
    (hs : (groupAt d (field p 12 2)).st = 0 ∨ (groupAt d (field p 12 2)).st = 1 ∧ ((groupAt d (field p 12 2)).world = true → h.world = true)
      ∧ ctxBound d (field p 12 2) = false)
    (hr : groupRoom d (groupAt d (field p 12 2)) g = none) (hin : groupInstall d (field p 12 2) b = some d1) :
    groupImportCmd d h r p = if (groupAt d (field p 12 2)).st = 0 then .done d1 (beBytes 2 (groupAt d1 (field p 12 2)).epoch)
      else .later (groupPut d (field p 12 2) { groupAt d (field p 12 2) with st := 2, importing := some (r, b) }) := by
  have hnum : field p 12 2 < 32768 := by omega
  have hchk : firstBad [(2, handleOk (field p 0 4)), (12, decide (bits (field p 12 2) 14 12 = 0) && (field p 12 2 < 32768 || decide (field p 12 2 % 4096 < 256))),
      (14, decide (field p 14 2 = 0))] = none := by
    simp [firstBad, bits_context hi, hnum, h0, hh]
  have hworld : ((g.world || decide ((groupAt d (field p 12 2)).st ≠ 0) && (groupAt d (field p 12 2)).world) && !h.world) = false := by
    cases hhw : h.world with
    | true => simp only [Bool.not_true, Bool.and_false]
    | false =>
      have hgw : g.world = false := Bool.eq_false_iff.mpr fun hx => Bool.false_ne_true (hhw.symm.trans (hw hx))
      have hold : (decide ((groupAt d (field p 12 2)).st ≠ 0) && (groupAt d (field p 12 2)).world) = false := by
        rcases hs with hs | ⟨-, hw', -⟩
        · simp only [hs, ne_eq, not_true_eq_false, decide_false, Bool.false_and]
        · rw [Bool.eq_false_iff.mpr fun hx => Bool.false_ne_true (hhw.symm.trans (hw' hx)), Bool.and_false]
      rw [hgw, hold, Bool.or_self, Bool.false_and]
  unfold groupImportCmd
  rw [needLen_pass _ hl, checks_of_firstBad_none _ hchk, hb]
  dsimp only
  rw [if_neg (Nat.not_le.mpr hnum), Nat.mod_eq_of_lt hi, hg]
  dsimp only
  rw [if_neg (Bool.eq_false_iff.mp hworld), if_neg (by omega), if_neg, hr]
  · dsimp only
    rw [hin]
  · rintro ⟨hst, hbound, -⟩
    rcases hs with hs | ⟨-, -, hfree⟩
    · omega
    · simp [hfree] at hbound

theorem importInstalled_of_installed {d e : Dev} {i : Nat} {r : ReplyTo} {b : List Byte} (hg : (groupAt d i).importing = some (r, b))
    (hin : groupInstall (groupPut d i { groupAt d i with st := 1, importing := none }) i b = some e) :
    importInstalled d i = replyLate e r St.ok (beBytes 2 (groupAt e i).epoch) := by
  simp only [importInstalled, hg, hin]

/-! ## The meanings -/

section
variable {s : State} (h : CmdHdr) (p : List Byte)

theorem exec_groupCreate : exec (.groupCreate h p) s = act (runCmd ⟨0x0110, false, false⟩ h p fun d _ => groupCreate d h p) s := rfl

theorem exec_groupModify : exec (.groupModify h p) s = act (runCmd ⟨0x0111, false, false⟩ h p fun d _ => groupModify d h p) s := rfl

theorem exec_groupQuery : exec (.groupQuery h p) s = act (runCmd ⟨0x0112, false, true⟩ h p fun d _ => groupQuery d h p) s := rfl

theorem exec_groupDestroy : exec (.groupDestroy h p) s = act (runCmd ⟨0x0113, false, false⟩ h p fun d _ => groupDestroy d h p) s := rfl

theorem exec_groupExport : exec (.groupExport h p) s = act (runCmd ⟨0x0114, false, false⟩ h p fun d _ => groupExportCmd d h p) s := rfl

theorem exec_groupImport : exec (.groupImport h p) s = act (runCmd ⟨0x0115, false, false⟩ h p fun d r => groupImportCmd d h r p) s := rfl

end

theorem exec_groupImportInstalled {s : State} (ctx : BitVec 12) (h : alive s.dev = true) :
    exec (.groupImportInstalled ctx) s = .next (s.after (importInstalled s.dev ctx.toNat)) := act_next (f := fun d => importInstalled d ctx.toNat) h

/-- Settles O20: each body takes the one case that its conditions leave, and the table reads back the context that was put there. -/
theorem groupsAreKeptAndMoved : Obligations.GroupsAreKeptAndMoved := by
  unfold Obligations.GroupsAreKeptAndMoved
  refine ⟨fun s h p => ⟨?create, ?modify, ?query, ?destroy⟩, fun s h p => ⟨?exports, ?imports, ?installed⟩⟩
  case create =>
    intro d mask g0 g i ha hl hm hc hw hd hi hf hlow hr
    rw [exec_groupCreate]
    exact ⟨cmd_done ha rfl (groupCreate_of_room rfl hl hm hc hw hd hi hf hlow hr), groupAt_groupPut_self .., fun j hj => groupAt_groupPut_ne _ _ hj⟩
  case modify =>
    intro d mask i old g ha hl _ _ _ hs hw hm hc hk hb hr
    rw [exec_groupModify]
    exact ⟨cmd_done ha rfl (groupModify_of_kept rfl rfl hl hm hs hw hc hk hb hr), rfl⟩
  case query =>
    intro d g bs ha hl hi hs hw
    rw [exec_groupQuery]
    exact cmd_query_parts ha rfl (groupQuery_of_used hl hi hs hw)
  case destroy =>
    intro d i ha hl hi hs hw
    have hbody := groupDestroy_of_used (h := h) hl hi hs hw
    rw [exec_groupDestroy]
    constructor
    · intro hact hb
      rw [if_neg (by simp [hact, hb, d, i])] at hbody
      exact ⟨cmd_done ha rfl hbody, by rw [groupAt_groupPut_self]; rfl⟩
    · intro hbusy
      rw [if_pos hbusy.symm] at hbody
      exact cmd_err ha hbody
  case exports =>
    intro d i bs n r ha hl hi h2 h3 hh hs hw hr hsec hb
    rw [exec_groupExport]
    exact cmd_done ha rfl (groupExportCmd_of_room hl hi h2 h3 hh hs hw hr hsec hb)
  case imports =>
    intro d i b g d1 ha hl hi h0 hh hx hg hw hr hin
    have hb := eq_ok_of_toOption hx
    rw [exec_groupImport]
    constructor
    · intro hfree
      have hbody := groupImportCmd_of_valid (r := hdrReply h 0x0115) hl hi h0 hh hb hg hw (.inl hfree) hr hin
      rw [if_pos hfree] at hbody
      obtain ⟨hst, hep⟩ := groupAt_groupInstall hin
      rw [if_pos hfree] at hep
      exact ⟨cmd_done ha rfl hbody, hep, hst⟩
    · intro hact hold hbound
      have hbody := groupImportCmd_of_valid (r := hdrReply h 0x0115) hl hi h0 hh hb hg hw (.inr ⟨hact, hold, hbound⟩) hr hin
      rw [if_neg fun hfree => Nat.one_ne_zero (hact.symm.trans hfree)] at hbody
      exact cmd_later ha rfl hbody
  case installed =>
    intro d ctx r b e g ha hg hin
    rw [exec_groupImportInstalled ctx ha, importInstalled_of_installed hg hin]

end Sys2Proof.Machine
end

section
/-! PROOFS. Buckets open (R125, R126, R132, R134): the first BUCKET_OPEN at a node without a parent, the parent's reply, and the lapse of a PENDING
entry. -/

namespace Sys2Proof.Machine

/-! ## BUCKET_OPEN -/

section
variable {d : Dev} {h : CmdHdr} {p : List Byte} {g : Group} {sl : Nat × Bool}

/-- A new entry at a node without a parent is OPEN. -/
theorem newBucket_st (hp : hasParent g = false) : (newBucket d h p g none).st = .opened := by simp only [newBucket, hp, Bool.false_eq_true, ↓reduceIte]

/-- The slot of the source is the first that has opened the bucket. -/
theorem newBucket_openers (hs : slotOf g h.src.toNat = some sl) : (newBucket d h p g none).openers = [sl.1] := by
  simp only [newBucket, hs, Option.map_some, Option.toList_some]

/-- The first open of a bucket, by a member of an ACTIVE group at its epoch. -/
theorem bucketOpen_of_first (hg : groupAt d (oCtx p % 4096) = g) (hl : p.length = 52) (hc : firstBad (openChecks p g) = none) (ha : g.st = 1)
    (hw : g.world = true → h.world = true) (ht : ¬ (byteAt p 7 = 1 ∧ polShort g.policy = 2)) (he : field p 2 2 = g.epoch)
    (hb : bucketAt d (oKey p) = none) (hs : slotOf g h.src.toNat = some sl) : bucketOpen d h p = firstOpen d h p (oKey p) g := by
  unfold bucketOpen
  rw [needLen_pass _ hl, hg, checks_of_firstBad_none _ hc, if_neg (by omega), groupWorldOk_of_imp hw, if_neg (by decide), if_neg ht, if_neg (by omega),
    if_neg (not_not_intro he), hb, hs]
  rfl

/-- A first open for which every table has room, of a bucket that drives no shard here, at a node without a parent: the bucket opens. -/
theorem firstOpen_of_room {d1 : Dev} {k i : Nat} (hd : draining d = false) (hn : bucketCount d < 65536)
    (hq : g.maxB ≠ 0 → (bucketsOf d (oCtx p)).length < g.maxB) (ha : openAccum d p g = none) (hs : openShard d p g = .ok none)
    (hl : ledgerUsed d + ledgerGrans (newBucket d h p g none) ≤ 65536) (hr : polReplay g.policy = false)
    (hm : openMetro d (newBucket d h p g none) = some (i, d1)) (hp : hasParent g = false) :
    let b := { newBucket d h p g none with mReg := i }
    firstOpen d h p k g = .done (bucketOpened (accumStart (bucketPut (renew d1 k) k b) p g b) k) (beBytes 2 (unsigned 16 b.eref)) := by
  have hquota : ¬ (g.maxB ≠ 0 ∧ (bucketsOf d (oCtx p)).length ≥ g.maxB) := fun ⟨h0, hge⟩ => Nat.not_le.mpr (hq h0) hge
  simp only [firstOpen, hd, ge_iff_le, Nat.not_le.mpr hn, hquota, ha, hs, gt_iff_lt, Nat.not_lt.mpr hl, hr, hm, hp, Bool.false_eq_true, false_and, ↓reduceIte]

end

/-! ## The parent's reply, and its lapse (R126) -/

/-- ST_OK of the parent opens a PENDING entry, and the opens that it held are answered. -/
theorem parentReply_ok_of_pending {d : Dev} {h : CmdHdr} {sc : SentCmd} {b : Bucket}
    (hf : (dequeue d h 0x0101).cmd.sent.find? (fun x => decide (x.dst = h.src.toNat ∧ x.tag = h.tag.toNat ∧ x.opcode = 0x0101)) = some sc)
    (hb : bucketAt (dequeue d h 0x0101) sc.key = some b) (hp : b.st = .pending) :
    let d1 := { dequeue d h 0x0101 with cmd := { (dequeue d h 0x0101).cmd with sent := (dequeue d h 0x0101).cmd.sent.filter (· ≠ sc) } }
    parentReply d h St.ok = bucketOpened (bucketPut (answerOpens d1 b St.ok) sc.key { b with st := .opened, held := [] }) sc.key := by
  have hb' : bucketAt { dequeue d h 0x0101 with cmd := { (dequeue d h 0x0101).cmd with sent := (dequeue d h 0x0101).cmd.sent.filter (· ≠ sc) } } sc.key
    = some b := hb
  simp only [parentReply, hf, hb', hp, ne_eq, not_true_eq_false, ↓reduceIte]

theorem pendingTimeout_of_lapsed {d : Dev} {k : Nat} {b : Bucket} (hb : bucketAt d k = some b) (hp : b.st = .pending)
    (ht : b.pendAt + max 1 b.grp.late * tickLen d ≤ ns d) :
    pendingTimeout d k = answerAborts (answerOpens (bucketSet { d with cmd := { d.cmd with
      sent := d.cmd.sent.filter (fun x => !(decide (x.key = k ∧ x.opcode = 0x0101))) } } k none) b St.incomplete) b St.noSuchBucket := by
  unfold pendingTimeout
  rw [hb]
  dsimp only
  rw [if_neg (by simp only [hp, ne_eq, not_true_eq_false, false_or]; omega)]

/-! ## The meanings -/

theorem exec_bucketOpen {s : State} (h : CmdHdr) (p : List Byte) :
    exec (.bucketOpen h p) s = act (runCmd ⟨0x0101, false, false⟩ h p fun d _ => openJoins (bucketOpen d h p) (oKey p)) s := rfl

theorem exec_parentOpenReply {s : State} (h : CmdHdr) (st : BitVec 16) (p : List Byte) (ha : alive s.dev = true) :
    exec (.parentOpenReply h st p) s = .next (s.after (parentReply s.dev h st.toNat)) := act_next (f := fun d => parentReply d h st.toNat) ha

theorem exec_bucketPendingTimeout {s : State} (k : BKey) (ha : alive s.dev = true) :
    exec (.bucketPendingTimeout k) s = .next (s.after (pendingTimeout s.dev (keyOf k))) := act_next (f := fun d => pendingTimeout d (keyOf k)) ha

/-- Settles O21: the first open passes every refusal and answers, and each end of a PENDING entry takes its own case. -/
theorem bucketsOpen : Obligations.BucketsOpen := by
  unfold Obligations.BucketsOpen
  intro s h p
  refine ⟨?first, ?reply, ?lapse⟩
  case first =>
    intro d g k sl i d1 hadm hl hc ha hw ht he hb hs hd hn hq hacc hsh b hled hrep hm hp b1
    have hbody : openJoins (bucketOpen d h p) k = .done (joinsHeld _ k) _ :=
      congrArg (openJoins · k) ((bucketOpen_of_first rfl hl hc ha hw ht he hb hs).trans
        (firstOpen_of_room hd hn hq hacc (eq_ok_of_toOption hsh) hled hrep hm hp))
    rw [exec_bucketOpen]
    exact ⟨cmd_done hadm rfl hbody, newBucket_st hp, rfl, rfl, rfl, newBucket_openers hs, rfl, rfl⟩
  case reply =>
    intro d sc b ha hf d1 hb hp
    have hok : (BitVec.ofNat 16 St.ok).toNat = St.ok := rfl
    rw [exec_parentOpenReply _ _ _ ha, hok, parentReply_ok_of_pending hf hb hp]
  case lapse =>
    intro d k b ha hb hp ht
    rw [exec_bucketPendingTimeout k ha, pendingTimeout_of_lapsed hb hp ht]

end Sys2Proof.Machine
end

section
/-! PROOFS. Buckets end (R134, R143, R144, R169, R170, R188, R189): LATE_LIMIT, BUCKET_CHECKS_COMPLETE, COMMIT_POINT and BUCKET_ABORT, each in the
case that its conditions leave. -/

namespace Sys2Proof.Machine

/-! ## LATE_LIMIT (R144, R145) -/

section
variable {b : Bucket}

theorem chunkAt_of_no_chunks (h : b.chunks = []) (c : Nat) : chunkAt b c = none := by simp only [chunkAt, h, List.find?_nil, Option.map_none]

/-- The late limit acts on every chunk of a bucket for which no block came. -/
theorem chunkOpen_of_no_chunks (h : b.chunks = []) (c : Nat) : chunkOpen b c = true := by simp only [chunkOpen, chunkAt_of_no_chunks h]

theorem filter_chunkOpen_of_no_chunks (h : b.chunks = []) : (List.range (nodeChunks b)).filter (chunkOpen b) = List.range (nodeChunks b) :=
  List.filter_eq_self.mpr fun c _ => chunkOpen_of_no_chunks h c

/-- Under policy ABORT without a quorum every short close is a cause of abort. -/
theorem shortCause_of_abort {pol : Nat} (hs : polShort pol = 0) (hq : polQuorum pol = 0) (wp we : Nat) : shortCause pol wp we = some 1 := by
  simp only [shortCause, hs, hq, ne_eq, not_true_eq_false, false_and, ↓reduceIte]

/-- Where every element gives the same, a list that has one gives it. -/
theorem findSome?_const {α β : Type} {l : List α} {f : α → Option β} {v : β} (hl : l ≠ []) (hf : ∀ a ∈ l, f a = some v) : l.findSome? f = some v := by
  cases l with
  | nil => exact absurd rfl hl
  | cons a l => simp only [List.findSome?_cons, hf a List.mem_cons_self]

/-- At the limit of an OPEN bucket for which no block came, policy ABORT ends it. -/
theorem lateLimit_of_abort {d : Dev} {k : Nat} (hb : bucketAt d k = some b) (hs : b.st = .opened) (hd : b.lateDone = false)
    (ht : tickAtOrAfter d b.late ≤ tickIdx d) (ho : bOp b ≠ 6) (hcopy : isCopy b = false) (hr : polReplay b.grp.policy = false)
    (hp : polShort b.grp.policy = 0) (hq : polQuorum b.grp.policy = 0) (hc : b.chunks = []) (hn : 0 < nodeChunks b) :
    lateLimit d k = abortHere (bucketPut (bump d Reg.SEQ_XCHK_INCOMPLETE_CNT (xchkLeft b)) k { b with lateDone := true }) k 1 none := by
  have hne : List.range (nodeChunks b) ≠ [] := fun h0 => Nat.ne_of_gt hn (List.range_eq_nil.mp h0)
  have hdue : ¬ (b.lateDone = true ∨ tickIdx d < tickAtOrAfter d b.late ∨ ¬ (b.st = .opened ∨ b.st = .closed)) := by
    simp [hd, hs, Nat.not_lt.mpr ht]
  have hopen : (List.range (nodeChunks { b with lateDone := true })).filter (chunkOpen { b with lateDone := true }) = List.range (nodeChunks b) :=
    filter_chunkOpen_of_no_chunks hc
  have hop : ¬ bOp { b with lateDone := true } = 6 := ho
  have hsum : ¬ isCopy { b with lateDone := true } = true := Bool.eq_false_iff.mp hcopy
  unfold lateLimit
  rw [hb]
  dsimp only
  rw [if_neg hdue, if_neg (by simp [hs]), if_neg hop, hopen, if_neg (fun h0 => hne (List.isEmpty_iff.mp h0)), if_neg (by simp [hr]),
    if_neg hsum, if_neg (by simp [hc]), findSome?_const hne fun c _ => shortCause_of_abort hp hq _ _]

/-! ## BUCKET_CHECKS_COMPLETE and COMMIT_POINT (R169, R170) -/

/-- A node with a parent reports a CLOSED bucket whose checks and children have passed. -/
theorem checksComplete_of_parent {d : Dev} {k : Nat} (hb : bucketAt d k = some b) (hs : b.st = .closed) (hc : checksDone b = true)
    (hch : childrenPassed b = true) (hp : hasParent b.grp = true) (hi : isInkRoot b.grp = false) :
    checksComplete d k = bucketPut (sendReport d k b) k { b with st := .reported } := by
  simp only [checksComplete, hb, hs, hc, hch, hp, hi, ne_eq, not_true_eq_false, Bool.not_true, Bool.false_eq_true, or_self, false_and, ↓reduceIte]

/-- The commit point of an ink root outside a metro, for a bucket that accumulates nothing. -/
theorem commitPoint_of_plain_root {d : Dev} {k : Nat} (hr : running d = true) (hb : bucketAt d k = some b) (hc : commitReady k b = true)
    (hg : gradGate d b = (true, d)) (hm : inMetro b.grp = false) (ho : bOp b ≠ 5) :
    let bm := rootBitmaps k b
    let fl := if anyShort b then 0x80 else 0
    commitPoint d k = inkDone (ownersNotice d k b.grp b.attempt ⟨0x0301, fl, 0, b.eref, 0, [], segsOf 0 (bmTotal b) bm.1 ++ segsOf 1 (bmTotal b) bm.2⟩ none)
      k fl 0 bm.1 bm.2 (ones (bmTotal b)) := by
  simp only [commitPoint, hb, hr, hc, hg, hm, ho, Bool.not_true, Bool.false_eq_true, or_self, false_and, Nat.add_zero, ↓reduceIte]

end

/-! ## BUCKET_ABORT (R188, R189) -/

section
variable {d : Dev} {h : CmdHdr} {p : List Byte}

/-- The layout of a BUCKET_ABORT (R10). -/
theorem abortChecks_pass (hx : field p 0 2 < 4096) (h6 : byteAt p 6 % 128 = 0) (h7 : byteAt p 7 = 0) :
    firstBad [(0, decide (field p 0 2 < 4096)), (6, decide (byteAt p 6 % 128 = 0)), (7, decide (byteAt p 7 = 0))] = none := by simp [firstBad, hx, h6, h7]

variable (hl : p.length = 8) (hx : field p 0 2 < 4096) (h6 : byteAt p 6 % 128 = 0) (h7 : byteAt p 7 = 0)
include hl hx h6 h7

theorem bucketAbort_of_free_group (hf : (groupAt d (oCtx p % 4096)).st = 0) : bucketAbort d h p = .err St.noSuchGroup := by
  unfold bucketAbort
  rw [needLen_pass _ hl]
  dsimp only
  rw [checks_of_firstBad_none _ (abortChecks_pass hx h6 h7), if_pos hf]

variable (hs : (groupAt d (oCtx p % 4096)).st ≠ 0) (hw : (groupAt d (oCtx p % 4096)).world = true → h.world = true)
include hs hw

/-- At the ink root the request is held and the bucket aborted with cause 3. -/
theorem bucketAbort_of_ink_root {b : Bucket} (hb : bucketAt d (oKey p) = some b) (hst : b.st = .opened ∨ b.st = .closed ∨ b.st = .reported)
    (hi : isInkRoot b.grp = true) :
    bucketAbort d h p = .hold (abortHere (bucketPut (recordWait d h 0x0102 p) (oKey p) { b with aborts := b.aborts ++ [(h, p)] }) (oKey p) 3 none) := by
  unfold bucketAbort
  rw [needLen_pass _ hl]
  dsimp only
  rw [checks_of_firstBad_none _ (abortChecks_pass hx h6 h7), if_neg hs, groupWorldOk_of_imp hw, if_neg (by decide), hb]
  rcases hst with hst | hst | hst <;> simp only [hst, hi, ↓reduceIte]

/-- A bucket that is neither held nor remembered. -/
theorem bucketAbort_of_unknown_bucket (hb : bucketAt d (oKey p) = none) (ho : ∀ o ∈ d.seq.outcomes, o.1 ≠ oKey p) :
    bucketAbort d h p = .err St.noSuchBucket := by
  have hnone : d.seq.outcomes.reverse.find? (fun o => decide (o.1 = oKey p)) = none := by simpa using ho
  unfold bucketAbort
  rw [needLen_pass _ hl]
  dsimp only
  rw [checks_of_firstBad_none _ (abortChecks_pass hx h6 h7), if_neg hs, groupWorldOk_of_imp hw, if_neg (by decide), hb, hnone]
  rfl

end

/-! ## The meanings -/

section
variable {s : State} (k : BKey) (ha : alive s.dev = true)
include ha

theorem exec_lateLimit : exec (.lateLimit k) s = .next (s.after (lateLimit s.dev (keyOf k))) := act_next (f := fun d => lateLimit d (keyOf k)) ha

theorem exec_bucketChecksComplete : exec (.bucketChecksComplete k) s = .next (s.after (checksComplete s.dev (keyOf k))) :=
  act_next (f := fun d => checksComplete d (keyOf k)) ha

theorem exec_commitPoint : exec (.commitPoint k) s = .next (s.after (commitPoint s.dev (keyOf k))) := act_next (f := fun d => commitPoint d (keyOf k)) ha

end

theorem exec_bucketAbort {s : State} (h : CmdHdr) (p : List Byte) :
    exec (.bucketAbort h p) s = act (runCmd ⟨0x0102, false, false⟩ h p fun d _ => bucketAbort d h p) s := rfl

/-- Settles O22: each command takes the one case that its conditions leave, and policy ABORT finds its cause in the first chunk. -/
theorem bucketsEnd : Obligations.BucketsEnd := by
  unfold Obligations.BucketsEnd
  intro s
  refine ⟨?late, ?checks, ?commit, ?abort⟩
  case late =>
    intro k b ha hb hs hd ht ho hcopy hr hp hq hc hn
    rw [exec_lateLimit k ha, lateLimit_of_abort hb hs hd ht ho hcopy hr hp hq hc hn]
  case checks =>
    intro k b ha hb hs hc hch hp hi
    rw [exec_bucketChecksComplete k ha, checksComplete_of_parent hb hs hc hch hp hi]
  case commit =>
    intro k b bm fl hr hb hc hg hm ho
    rw [exec_commitPoint k (alive_of_running hr).1, commitPoint_of_plain_root hr hb hc hg hm ho]
  case abort =>
    intro h p d g k hadm hl hx h6 h7
    rw [exec_bucketAbort]
    refine ⟨fun hf => cmd_err hadm (bucketAbort_of_free_group hl hx h6 h7 hf), fun hs hw => ⟨fun b hb hst hi => ?_, fun hb ho => ?_⟩⟩
    · exact cmd_hold hadm (bucketAbort_of_ink_root hl hx h6 h7 hs hw hb hst hi)
    · exact cmd_err hadm (bucketAbort_of_unknown_bucket hl hx h6 h7 hs hw hb ho)

end Sys2Proof.Machine
end

section
/-! PROOFS. Notices (R165 to R168, R170, R174 to R176, R184, R185, R189): a part is dropped, repeated or acted on once, and each notice acts on its
bucket as the bucket stands. -/

namespace Sys2Proof.Machine

/-! ## Reception (R167, R168) -/

section
variable {d : Dev} {h : CmdHdr} {op : Nat} {p : List Byte}

/-- No part of this notice is held. -/
def NoPartHeld (d : Dev) (src op : Nat) (p : List Byte) : Prop :=
  ∀ n ∈ d.seq.notIn, ¬ (n.src = src ∧ n.op = op ∧ n.key = nKey p ∧ n.att = nAtt p)

/-- The parts that were acted on are kept apart from those that are held. -/
theorem noPartHeld_with_seen (d : Dev) (xs : List SeenPart) (src op : Nat) (p : List Byte) :
    NoPartHeld { d with seq := { d.seq with seen := xs } } src op p ↔ NoPartHeld d src op p := Iff.rfl

/-- A notice of one part with a well-formed layout and the world of its group, no part of which is held or was acted on before. -/
def NewNotice (d : Dev) (h : CmdHdr) (op : Nat) (p : List Byte) : Prop :=
  alive d = true ∧ noticeOk p = true ∧ noticeWorld (dequeue d h op) h (kCtx (nKey p)) = true ∧ nCount p = 1 ∧ nPart p = 0
    ∧ NoPartHeld (noticed d h op p) h.src.toNat op p ∧ NoPartHeld (dequeue d h op) h.src.toNat op p
    ∧ noticeSeen (noticeAcked (dequeue d h op) h op p) h.src.toNat op p = false

/-- Whether a held notice is the one of which this part comes, by name and by time of issue. -/
def sameNotice (src op : Nat) (p : List Byte) (n : NoticeIn) : Bool :=
  decide (n.src = src ∧ n.op = op ∧ n.key = nKey p ∧ n.att = nAtt p) && n.parts.all (fun x => decide (nTime x.2 = nTime p))

theorem sameNotice_of_not_held {src : Nat} (hd : NoPartHeld d src op p) : ∀ n ∈ d.seq.notIn, sameNotice src op p n = false := by
  intro n hn
  simp only [sameNotice, hd n hn, decide_false, Bool.false_and]

theorem find?_sameNotice_of_not_held {src : Nat} (hd : NoPartHeld d src op p) : d.seq.notIn.find? (sameNotice src op p) = none :=
  List.find?_eq_none.mpr fun n hn => Bool.eq_false_iff.mp (sameNotice_of_not_held hd n hn)

theorem filter_sameNotice_of_not_held {src : Nat} (hd : NoPartHeld d src op p) :
    d.seq.notIn.filter (fun n => !sameNotice src op p n) = d.seq.notIn :=
  List.filter_eq_self.mpr fun n hn => by rw [sameNotice_of_not_held hd n hn, Bool.not_false]

variable (act : List Byte → List (List Byte) → Dev → Dev)

/-- A part that was not acted on before, over a device that has acknowledged it: it is marked, and the notice acts once all of its `parts` are held. -/
def newPart (op : Nat) (src : Nat) (p : List Byte) (parts : List (Nat × List Byte)) (d : Dev) : Dev :=
  let e := { d with seq := { d.seq with seen := d.seq.seen ++ [(⟨src, nKey p, nAtt p, op, nPart p, nTime p, false⟩ : SeenPart)] } }
  let rest := e.seq.notIn.filter (fun n => !sameNotice src op p n)
  if parts.length < nCount p then
    { e with seq := { e.seq with notIn := rest ++ [(⟨src, op, nKey p, nAtt p, nCount p, parts⟩ : NoticeIn)] } }
  else
    let at' := fun i => (parts.find? (fun x => decide (x.1 = i))).map (·.2)
    act ((at' 0).getD p) ((List.range (nCount p)).flatMap (fun i => match at' i with | some q => nSegs q | none => []))
      { e with seq := { e.seq with notIn := rest } }

/-- Reception of a notice part: dropped, acknowledged as a repeat, or acknowledged and taken (R167, R168). -/
theorem notice_eq (d : Dev) (h : CmdHdr) (op : Nat) (p : List Byte) :
    let e := dequeue d h op
    let got := e.seq.notIn.find? (sameNotice h.src.toNat op p)
    notice op act h p d =
      if (!noticeOk p || !noticeWorld e h (kCtx (nKey p)) || (match got with | some n => decide (n.count ≠ nCount p) | none => false)) = true then
        bump e Reg.CMD_DROP_CNT
      else if noticeSeen (noticeAcked e h op p) h.src.toNat op p = true then bump (noticeAcked e h op p) Reg.MTR_NOTICE_DUP_CNT
      else newPart act op h.src.toNat p ((match got with | some n => n.parts | none => []) ++ [(nPart p, p)]) (noticeAcked e h op p) := by
  intro e got
  rfl

/-- A notice with a malformed layout is dropped (R167). -/
theorem notice_of_malformed (hok : noticeOk p = false) : notice op act h p d = bump (dequeue d h op) Reg.CMD_DROP_CNT := by
  rw [notice_eq, hok, Bool.not_false, Bool.true_or, Bool.true_or, if_pos rfl]

/-- A part of a well-formed notice of which none is held. -/
theorem notice_of_unheld (hok : noticeOk p = true) (hw : noticeWorld (dequeue d h op) h (kCtx (nKey p)) = true)
    (hd : NoPartHeld (dequeue d h op) h.src.toNat op p) :
    let e := noticeAcked (dequeue d h op) h op p
    notice op act h p d = if noticeSeen e h.src.toNat op p = true then bump e Reg.MTR_NOTICE_DUP_CNT
      else newPart act op h.src.toNat p [(nPart p, p)] e := by
  intro e
  rw [notice_eq, find?_sameNotice_of_not_held hd, hok, hw]
  exact if_neg Bool.false_ne_true

/-- The one part of a notice is its whole: the notice acts. -/
theorem newPart_of_single {src : Nat} (hc : nCount p = 1) (hp : nPart p = 0) (hd : NoPartHeld d src op p) :
    newPart act op src p [(nPart p, p)] d = act p (nSegs p)
      { d with seq := { d.seq with seen := d.seq.seen ++ [(⟨src, nKey p, nAtt p, op, nPart p, nTime p, false⟩ : SeenPart)] } } := by
  simp only [newPart, hc, hp, filter_sameNotice_of_not_held hd, List.length_singleton, Nat.lt_irrefl, List.range_one, List.flatMap_singleton,
    List.find?_cons, decide_true, Option.map_some, Option.getD_some, ↓reduceIte]

/-- A part that was acted on before is acknowledged again and counted (R168). -/
theorem notice_of_seen (hok : noticeOk p = true) (hw : noticeWorld (dequeue d h op) h (kCtx (nKey p)) = true)
    (hd : NoPartHeld (dequeue d h op) h.src.toNat op p) (hs : noticeSeen (noticeAcked (dequeue d h op) h op p) h.src.toNat op p = true) :
    notice op act h p d = bump (noticeAcked (dequeue d h op) h op p) Reg.MTR_NOTICE_DUP_CNT := by
  rw [notice_of_unheld act hok hw hd, if_pos hs]

/-- A new notice of one part acts on the device that has acknowledged and marked it. -/
theorem notice_of_new (hn : NewNotice d h op p) : notice op act h p d = act p (nSegs p) (noticed d h op p) := by
  obtain ⟨-, hok, hw, hc, hp, hN, hd, hs⟩ := hn
  unfold noticed at hN ⊢
  rw [notice_of_unheld act hok hw hd, if_neg (Bool.eq_false_iff.mp hs), newPart_of_single act hc hp ((noPartHeld_with_seen ..).mp hN)]

end

/-! ## What each notice does -/

section
variable {d : Dev} {b : Bucket} {src : Nat} {p : List Byte} (segs : List (List Byte)) (hb : bucketAt d (nKey p) = some b)
include hb

/-- INK of the present attempt, from the source of the bucket's outcome (R171). -/
theorem inkAct_of_present (hab : fromAbove (nKey p) b src = true) (hat : b.attempt = nAtt p) (hst : b.st ≠ .pending) (ho : bOp b ≠ 5) :
    inkAct src p segs d = inkDone d (nKey p) (nFlags p &&& 0xF0) (nMicro p) (bitmapOf 0 (bmTotal b) segs) (bitmapOf 1 (bmTotal b) segs)
      (bitmapOf 2 (bmTotal b) segs) := by
  simp only [inkAct, hb, hab, hat, hst, ho, Bool.not_true, Bool.false_eq_true, ne_eq, not_true_eq_false, false_and, or_self, ↓reduceIte]

/-- ERASE of the present attempt, before the bucket's end (R176). -/
theorem eraseAct_of_present (hab : fromAbove (nKey p) b src = true) (hat : b.attempt = nAtt p)
    (hst : b.st = .opened ∨ b.st = .closed ∨ b.st = .reported) :
    eraseAct src p segs d = eraseHere d (nKey p) (nCause p) (field (nExt p) 0 8 + (if field (nExt p) 8 2 = 0 then 0 else 1)) (some src) := by
  simp only [eraseAct, hb, hab, hat, hst, Bool.not_true, Bool.false_eq_true, ne_eq, not_true_eq_false, or_self, ↓reduceIte]

/-- ABORTED from the parent (R188). -/
theorem abortedAct_of_parent (hp : hasParent b.grp = true) (hs : src = b.grp.parent) :
    abortedAct src p segs d = abortHere d (nKey p) (nCause p) (some src) := by
  simp only [abortedAct, hb, hp, hs, decide_true, Bool.and_self, Bool.true_or, ↓reduceIte]

/-- A passing CHECK_REPORT of a child replaces the one that it sent before (R170, R175). -/
theorem reportAct_of_child (hc : ∃ x ∈ b.grp.slots, x.child = true ∧ x.prim = src) (hat : b.attempt = nAtt p)
    (hst : b.st = .opened ∨ b.st = .closed) (h0 : nCause p = 0) :
    let m := if (rankOf (kCtx (nKey p)) b.grp src).isSome then bmTotal b else b.grp.members
    reportAct src p segs d = bucketPut d (nKey p)
      { b with reports := b.reports.filter (fun x => decide (x.1 ≠ src)) ++ [(src, bit (nFlags p) 7, bitmapOf 0 m segs, bitmapOf 1 m segs)] } := by
  have hknown : b.grp.slots.any (fun x => x.child && decide (x.prim = src)) = true := by
    obtain ⟨x, hx, hchild, hprim⟩ := hc
    exact List.any_eq_true.mpr ⟨x, hx, by rw [hchild, decide_eq_true hprim, Bool.and_self]⟩
  have hlive : ¬ (b.st = .pending ∨ b.st = .inked ∨ b.st = .aborted) := by
    rcases hst with hst | hst <;> simp [hst]
  simp only [reportAct, hb, hknown, hlive, hat, h0, Bool.true_or, Bool.not_true, Bool.false_eq_true, ne_eq, not_true_eq_false, or_self, ↓reduceIte]

/-- The first METRO_JOIN of a rank declares its members (R179). -/
theorem joinAct_of_first {r : Nat} (hr : rankOf (kCtx (nKey p)) b.grp src = some r) (hj : ∀ j ∈ b.mJoin, j.1 ≠ r) :
    joinAct src p segs d = bucketPut d (nKey p) { b with mJoin := tput b.mJoin r (field (nExt p) 0 4) } := by
  have hnone : b.mJoin.find? (fun j => decide (j.1 = r)) = none := List.find?_eq_none.mpr fun j hm => by simpa using hj j hm
  simp only [joinAct, joinTake, hb, hr, hnone]

/-- An ERASE_REQUEST after the commit point comes too late (R189). -/
theorem eraseReqAct_of_inked (hst : b.st = .inked) : eraseReqAct p segs d = raise (bump d Reg.MTR_LATE_ERASE_REQ_CNT) 805 := by
  simp only [eraseReqAct, hb, hst, ↓reduceIte]

/-- An ERASE_REQUEST of the present attempt, before the bucket's end, is a cause of erasure (R175). -/
theorem eraseReqAct_of_present (hst : b.st = .opened ∨ b.st = .closed ∨ b.st = .reported) (hat : b.attempt = nAtt p) :
    eraseReqAct p segs d = detectCause d (nKey p) 9 [] := by
  have hink : ¬ b.st = .inked := by rcases hst with hst | hst | hst <;> simp [hst]
  have hend : ¬ (b.st = .pending ∨ b.st = .aborted) := by rcases hst with hst | hst | hst <;> simp [hst]
  simp only [eraseReqAct, hb, hink, hend, hat, ne_eq, not_true_eq_false, ↓reduceIte]

end

section
variable {d : Dev} {b : Bucket} {src r : Nat} {p : List Byte} (segs : List (List Byte)) (hb : anyBucket d (nKey p) = some b)
  (hr : rankOf (kCtx (nKey p)) b.grp src = some r) (hat : b.attempt = nAtt p)
include hb hr hat

/-- METRO_RESEND of an owned chunk that was sent: the chunk is narrowed again, for the asking owner only (R184). -/
theorem resendAct_of_sent {e : Dev} {xs : List Exact × List (List Byte)} (hreg : b.mReg ≠ 0) (ho : ownsChunk b (field (nExt p) 0 4) = true)
    (hout : (mChunkAt b (field (nExt p) 0 4)).out = true) (hx : metroBlocks d (nKey p) b (field (nExt p) 0 4) = some xs)
    (he : sendAll d (nKey p) b.attempt (homeOf (nKey p) (field (nExt p) 0 4) % 128 / 8) (chunkCorr (nKey p) (field (nExt p) 0 4)) 2 2 src xs.2 = some e) :
    resendAct src p segs d = e := by
  rw [hat] at he
  simp only [resendAct, hb, hr, hat, hreg, ho, hout, hx, he, Option.isNone_some, Bool.not_true, Bool.false_eq_true, ne_eq, not_true_eq_false, or_self,
    ↓reduceIte]

/-- The first METRO_GATHERED of a rank confirms it (R185). -/
theorem gatheredAct_of_first (hm : byteAt (nExt p) 0 = b.grp.metroRank) (hc : b.mConf.contains r = false) :
    gatheredAct src p segs d = metroRelease (anyPut d (nKey p) { b with mConf := b.mConf ++ [r] }) (nKey p) := by
  simp only [gatheredAct, hb, hr, hat, hm, hc, Bool.false_eq_true, ne_eq, not_true_eq_false, or_self, ↓reduceIte]

end

/-- An acknowledgement with a well-formed layout ends the repeats of the first part that it names (R168). -/
theorem ackAct_of_wellformed {d : Dev} {h : CmdHdr} {p : List Byte} (hl : p.length = 10) (hx : field p 0 2 < 4096)
    (hw : noticeWorld (dequeue d h 0x0308) h (kCtx (nKey p)) = true) :
    let e := dequeue d h 0x0308
    ackAct d h p = { e with seq := { e.seq with notOut := e.seq.notOut.eraseP (fun n => decide
      (n.dst / 16 = h.src.toNat / 16 ∧ n.key = nKey p ∧ n.att = byteAt p 6 ∧ n.part = byteAt p 7 ∧ n.op = field p 8 2)) } } := by
  simp only [ackAct, hl, ge_iff_le, Nat.not_le.mpr hx, hw, Bool.not_true, Bool.false_eq_true, ne_eq, not_true_eq_false, or_self, ↓reduceIte]

/-! ## The meanings -/

/-- A command that is a new notice of one part does what the notice does. -/
theorem exec_of_new_notice {s : State} {c : Instr} {h : CmdHdr} {op : Nat} {p : List Byte} {e : Dev} {f : List Byte → List (List Byte) → Dev → Dev}
    (hc : exec c s = act (notice op f h p) s) (hn : NewNotice s.dev h op p) (he : f p (nSegs p) (noticed s.dev h op p) = e) :
    exec c s = .next (s.after e) := by
  rw [hc, act_next hn.1, notice_of_new f hn, he]

/-- Each of the eight notices is received in the one way. -/
theorem exec_notice {h : CmdHdr} {p : List Byte} {c : Instr} {op : Nat} (s : State)
    (hc : (c, op) ∈ [(Instr.ink h p, 0x0301), (.erase h p, 0x0302), (.aborted h p, 0x0303), (.checkReport h p, 0x0304), (.metroJoin h p, 0x0305),
      (.metroResend h p, 0x0306), (.eraseRequest h p, 0x0307), (.metroGathered h p, 0x0309)]) :
    ∃ f, exec c s = act (notice op f h p) s := by
  simp only [List.mem_cons, Prod.mk.injEq, List.not_mem_nil, or_false] at hc
  rcases hc with ⟨rfl, rfl⟩ | ⟨rfl, rfl⟩ | ⟨rfl, rfl⟩ | ⟨rfl, rfl⟩ | ⟨rfl, rfl⟩ | ⟨rfl, rfl⟩ | ⟨rfl, rfl⟩ |
    ⟨rfl, rfl⟩ <;> exact ⟨_, rfl⟩

theorem exec_noticeAck {s : State} (h : CmdHdr) (p : List Byte) (ha : alive s.dev = true) :
    exec (.noticeAck h p) s = .next (s.after (ackAct s.dev h p)) := act_next (f := fun d => ackAct d h p) ha

/-- Settles O23: a new notice reaches its own act, which takes the one case that the bucket leaves; any other part stops at reception. -/
theorem noticesActOncePerPart : Obligations.NoticesActOncePerPart := by
  unfold Obligations.NoticesActOncePerPart
  refine ⟨fun s h p b => ?_, fun s h p c op hc => ?_⟩
  · intro src k N new
    refine ⟨?ink, ?erase, ?aborted, ?report, ?join, ?resend, ?request, ?gathered, ?ack⟩
    case ink => exact fun hn hb hab hat hst ho => exec_of_new_notice rfl hn (inkAct_of_present _ hb hab hat hst ho)
    case erase => exact fun hn hb hab hat hst => exec_of_new_notice rfl hn (eraseAct_of_present _ hb hab hat hst)
    case aborted => exact fun hn hb hp hs => exec_of_new_notice rfl hn (abortedAct_of_parent _ hb hp hs)
    case report => exact fun hn hb hc hat hst h0 => exec_of_new_notice rfl hn (reportAct_of_child _ hb hc hat hst h0)
    case join => exact fun r hn hb hr hj => exec_of_new_notice rfl hn (joinAct_of_first _ hb hr hj)
    case resend => exact fun r xs e hn hb hat hreg ho hout hr hx he => exec_of_new_notice rfl hn (resendAct_of_sent _ hb hr hat hreg ho hout hx he)
    case request =>
      exact fun hn hb => ⟨fun hst => exec_of_new_notice (f := eraseReqAct) rfl hn (eraseReqAct_of_inked _ hb hst),
        fun hst hat => exec_of_new_notice (f := eraseReqAct) rfl hn (eraseReqAct_of_present _ hb hst hat)⟩
    case gathered => exact fun r hn hb hr hat hm hc => exec_of_new_notice rfl hn (gatheredAct_of_first _ hb hr hat hm hc)
    case ack =>
      intro d ha hl hx hw
      rw [exec_noticeAck h p ha, ackAct_of_wellformed hl hx hw]
  · intro d ha
    obtain ⟨f, hf⟩ := exec_notice s hc
    rw [hf, act_next ha]
    exact ⟨fun hok => by rw [notice_of_malformed f hok], fun hok hw hd hs => by rw [notice_of_seen f hok hw hd hs]⟩

end Sys2Proof.Machine
end

section
/-! PROOFS. The notices' timers and the metro side (R168, R172, R180, R182 to R185): each event in the case that its conditions leave. -/

namespace Sys2Proof.Machine

/-! ## Notices repeat, and INK leaves behind the pencil (R168, R172) -/

section
variable {d : Dev} {n : Nat} {o : NoticeOut} (ho : d.seq.notOut[n]? = some o)
  (ht : o.at_ + max 1 (fget d Reg.MTR_TIMERS Fd.MTR_TIMERS_notice_retry_ticks) * tickLen d ≤ ns d)
include ho ht

/-- A part that was not acknowledged in time is sent again while it has tries left. -/
theorem noticeRetry_of_tries (hn : o.tries < max 1 (fget d Reg.MTR_CTRL Fd.MTR_CTRL_notice_tries)) :
    noticeRetry d n = sendPart (bump { d with seq := { d.seq with notOut := d.seq.notOut.set n { o with tries := o.tries + 1, at_ := ns d } } }
      Reg.MTR_NOTICE_RETRY_CNT) o.dst o.op o.key o.world o.params (decide (o.op = 0x0302 ∨ o.op = 0x0303)) := by
  simp only [noticeRetry, ho, fget1, Nat.not_lt.mpr ht, hn, ↓reduceIte]

/-- After its last try a part is given up. -/
theorem noticeRetry_of_last (hn : max 1 (fget d Reg.MTR_CTRL Fd.MTR_CTRL_notice_tries) ≤ o.tries) :
    noticeRetry d n = raise { d with seq := { d.seq with notOut := d.seq.notOut.eraseIdx n } } 803 := by
  simp only [noticeRetry, ho, fget1, Nat.not_lt.mpr ht, Nat.not_lt.mpr hn, ↓reduceIte]

end

/-- The destinations that an INK has on a port. -/
def inkDsts (r : InkRec) (port : Nat) : List Nat := (r.ports.filter (fun x => decide (x.1 = port))).flatMap (·.2)

/-- Whether a port is live does not depend on the sequencer. -/
theorem portLive_with_inks (d : Dev) (xs : List InkRec) (port : Nat) : portLive { d with seq := { d.seq with inks := xs } } port = portLive d port := rfl

/-- The INK of an attempt goes out on a live port that its pencil passes have left, and into the record with the last port. -/
theorem inkRelease_of_left {d : Dev} {k port : Nat} {r : InkRec} (pubDone : Bool) (hr : running d = true)
    (hf : d.seq.inks.find? (fun x => decide (x.key = k) && x.ports.any (fun y => decide (y.1 = port))) = some r)
    (hw : passWaits d (some port) (pencilMark k r.att) = false) (hg : gathersHeld d k = true) (hp : r.pub = false) (hl : portLive d port = true) :
    let left := { r with ports := r.ports.filter (fun y => decide (y.1 ≠ port)) }
    let out := (inkDsts r port).foldl (fun e dst => sendNotice e dst k r.att r.grp.world (inkMsg r))
      { d with seq := { d.seq with inks := d.seq.inks.map (fun x => if x = r then left else x) } }
    inkRelease d k port pubDone = if left.ports = [] then inkEntry out left else out := by
  simp only [inkRelease, hf, hr, hw, hg, hp, portLive_with_inks, hl, inkDsts, List.isEmpty_iff, Bool.not_true, Bool.false_eq_true, false_and, or_self,
    ↓reduceIte]

/-! ## Passes that wait, and groups that are late (R180, R182) -/

/-- The one pass that waits is dropped once it waited too long. -/
theorem metroHold_of_single {d : Dev} {p : ConvPass} {k : Nat} (hm : d.seq.mHeld = [p]) (hk : passKey p.hdr = k)
    (ht : p.at_ + max 1 (fget d Reg.MTR_TIMERS Fd.MTR_TIMERS_hold_ticks) * tickLen d ≤ ns d) :
    metroHold d k = raise (bump (hpoolFreeGrans { d with seq := { d.seq with mHeld := [] } } 1 p.grans) Reg.MTR_HOLD_DROP_CNT p.blocks.length) 802 := by
  have hdue : decide (passKey p.hdr = k ∧ p.at_ + fget1 d Reg.MTR_TIMERS Fd.MTR_TIMERS_hold_ticks * tickLen d ≤ ns d) = true := decide_eq_true ⟨hk, ht⟩
  simp only [metroHold, hm, List.filter_cons, List.filter_nil, hdue, Bool.not_true, Bool.false_eq_true, ↓reduceIte, List.foldl_cons, List.foldl_nil]

/-- With an owned chunk not closed, a group that has not joined by the limit aborts the bucket. -/
theorem metroLate_of_missing {d : Dev} {k : Nat} {b : Bucket} (hb : bucketAt d k = some b) (hs : metroSums b = true) (hreg : b.mReg ≠ 0)
    (hd : b.mLateDone = false) (hst : b.st = .opened ∨ b.st = .closed)
    (ht : tickAtOrAfter d (b.late + max 1 (fget d Reg.MTR_CTRL Fd.MTR_CTRL_metro_late_ticks) * tickLen d) ≤ tickIdx d)
    (hc : ∃ c ∈ ownChunks b, (mChunkAt b c).closed = false) (ho : ∃ o ∈ otherOwners (kCtx k) b.grp, ∀ j ∈ b.mJoin, j.1 ≠ o.1) :
    metroLate d k = abortHere (raise (bucketPut d k { b with mLateDone := true }) 801) k 7 none := by
  have hopen : ((ownChunks b).filter (fun c => !(mChunkAt b c).closed)).isEmpty = false := by
    obtain ⟨c, hc, hclosed⟩ := hc
    exact List.isEmpty_eq_false_iff.mpr (List.ne_nil_of_mem (List.mem_filter.mpr ⟨hc, by rw [hclosed, Bool.not_false]⟩))
  have hmiss : (otherOwners (kCtx k) b.grp).any (fun o => !(b.mJoin.any (fun j => decide (j.1 = o.1)))) = true := by
    obtain ⟨o, ho, hj⟩ := ho
    exact List.any_eq_true.mpr ⟨o, ho, by simpa using hj⟩
  simp only [metroLate, hb, fget1, hs, hreg, hd, hst, Nat.not_lt.mpr ht, hopen, hmiss, Bool.not_true, Bool.false_eq_true, not_true_eq_false, or_self,
    ↓reduceIte]

/-! ## A chunk of the metro stage closes (R183) -/

/-- What a narrowed chunk leaves: its row in the gradient stream, and the mark that it went out. -/
def metroOutDone (d : Dev) (k c : Nat) (b : Bucket) (xs : List Exact) : Dev :=
  bucketMod (gradRow d b (c * 64 * fmtElems (bFmt b)) xs) k (fun b' => mChunkPut b' c { mChunkAt b' c with out := true })

section
variable {d : Dev} {k c : Nat} {b : Bucket} {xs : List Exact} {bs : List (List Byte)} (hr : running d = true) (hb : bucketAt d k = some b)
  (hm : inMetro b.grp = true) (ho : ownsChunk b c = true) (hc : metroReady k b c = true) (hst : b.st = .opened ∨ b.st = .closed ∨ b.st = .reported)
  (h7 : bOp b ≠ 7) (hx : metroBlocks d k b c = some (xs, bs))
include hr hb hm ho hc hst h7 hx

/-- Under REDUCE_TO_SHARD a chunk goes into the gradient stream only. -/
theorem metroClose_of_shard (h4 : outOp b = 4) : metroClose d k c false = metroOutDone d k c b xs := by
  simp only [metroClose, metroOutDone, hb, hr, hm, ho, hc, hst, hx, h4, h7, Bool.not_true, Bool.false_eq_true, not_true_eq_false, or_self, ↓reduceIte]

/-- Otherwise it goes to the own group as pencil, and to every other owner. -/
theorem metroClose_of_sent {o1 o2 : Dev} (h4 : outOp b ≠ 4) (hf : tget false d.int.eFenced (homeOf k c % 128) = false)
    (h1 : multicastAll d k b.attempt (homeOf k c % 128 / 8) (chunkCorr k c) 2 1 (pencilMark k b.attempt) (resultTo d b c) bs = some o1)
    (h2 : (otherOwners (kCtx k) b.grp).foldl
      (fun (o : Option Dev) w => o.bind (fun e => sendAll e k b.attempt (homeOf k c % 128 / 8) (chunkCorr k c) 2 2 w.2 bs)) (some o1) = some o2) :
    metroClose d k c false = metroOutDone o2 k c b xs := by
  simp only [metroClose, metroOutDone, hb, hr, hm, ho, hc, hst, hx, h4, h7, hf, h1, h2, Bool.not_true, Bool.false_eq_true, not_true_eq_false, or_self,
    ↓reduceIte]

end

/-! ## All-gathered passes (R184, R185) -/

/-- The chunk that a pass brings, by its first block. -/
def gatherChunk (b : Bucket) (p : ConvPass) : Nat :=
  let first := p.blocks.headD []
  elemChunk b (blkSeq first * (if blkFmt first = 4 then 256 else max 1 (fmtElems (blkFmt first))))

/-- What came of a chunk, with the blocks of a further pass. -/
def gatherMarked (b b' : Bucket) (p : ConvPass) : Bucket :=
  let c := gatherChunk b p
  let g := tget GChunk.init b.mGot c
  let qs := (p.blocks.filter (fun x => decide (blkFmt x ≠ 4))).map blkSeq
  { b' with mGot := tset GChunk.init b'.mGot c { g with got := g.got ++ qs.filter (fun q => !(g.got.contains q)) } }

/-- Buckets do not depend on the passes that wait, nor on the pool. -/
theorem anyBucket_gatherTaken (d : Dev) (rest : List ConvPass) (c st n k : Nat) :
    anyBucket (poolFreeGrans { d with seq := { d.seq with gathers := rest } } c st n) k = anyBucket d k := by
  simp only [anyBucket, bucketAt, lingerAt, (poolFreeGrans_padsKept ..).seq]

section
variable {d : Dev} {p : ConvPass} {rest : List ConvPass} (hr : running d = true) (hg : d.seq.gathers = p :: rest)
include hr hg

/-- A pass for no bucket only gives its granules back. -/
theorem gatherNext_of_no_bucket (hb : anyBucket d (passKey p.hdr) = none) :
    gatherNext d = poolFreeGrans { d with seq := { d.seq with gathers := rest } } 1 (p.link / 8) p.grans := by
  simp only [gatherNext, hg, hr, anyBucket_gatherTaken, hb, Bool.not_true, Bool.false_eq_true, ↓reduceIte]

/-- An intact pass of another owner's chunk is multicast, and what came of the chunk is marked. -/
theorem gatherNext_of_intact {b b' : Bucket} {d1 o : Dev} {k c rank : Nat}
    (hd : poolFreeGrans { d with seq := { d.seq with gathers := rest } } 1 (p.link / 8) p.grans = d1) (hk : passKey p.hdr = k) (hc : gatherChunk b p = c)
    (hb : anyBucket d1 k = some b) (hrank : rankOf (kCtx k) b.grp (fSrc p.hdr) = some rank) (hat : b.attempt = passAtt p.hdr) (hst : b.st ≠ .aborted)
    (h7 : bOp b ≠ 7) (hok : ∀ x ∈ p.blocks, blkOk x = true) (howner : metroRankOf b c = rank) (hl : (tget GChunk.init b.mGot c).lapsed = false)
    (hsent : multicast d1 k b.attempt (p.link / 8) (chunkCorr k c) 2 1 (mgmtCoord d1) (pencilMark k b.attempt) (resultTo d1 b c) p.blocks = some o)
    (hb' : anyBucket o k = some b') : gatherNext d = gatherConfirm (anyPut o k (gatherMarked b b' p)) k rank (fSrc p.hdr) := by
  have hbad : p.blocks.find? (fun x => !blkOk x) = none := List.find?_eq_none.mpr fun x hx => by rw [hok x hx]; decide
  rw [hat] at hsent
  unfold gatherChunk at hc
  simp only [gatherNext, gatherMarked, gatherChunk, hg, hr, hd, hk, hb, hrank, hat, hst, hbad, hc, howner, hl, hsent, hb', h7, Bool.not_true,
    Bool.false_eq_true, ne_eq, not_true_eq_false, or_self, ↓reduceIte]

end

/-- The region is given up once the hold time is over after INK. -/
theorem gatherLapse_of_due {d : Dev} {k : Nat} {b : Bucket} (hb : anyBucket d k = some b) (hst : b.st = .inked) (hreg : b.mReg ≠ 0)
    (ht : b.inkAt + max 1 (fget d Reg.MTR_TIMERS Fd.MTR_TIMERS_hold_ticks) * tickLen d ≤ ns d) :
    gatherLapse d k = metroRelease (raise (bump (anyPut (dropMetro d b) k { b with mReg := 0 }) Reg.MTR_GATHER_LAPSE_CNT) 806) k := by
  simp only [gatherLapse, hb, hst, hreg, fget1, Nat.not_lt.mpr ht, ne_eq, not_true_eq_false, or_self, ↓reduceIte]

/-! ## The meanings -/

section
variable {s : State} (k : BKey) (ha : alive s.dev = true)
include ha

theorem exec_noticeRetryTimeout (n : Nat) : exec (.noticeRetryTimeout n) s = .next (s.after (noticeRetry s.dev n)) :=
  act_next (f := fun d => noticeRetry d n) ha

theorem exec_inkPortRelease (port : BitVec 7) :
    exec (.inkPortRelease k port) s = .next (s.after (inkRelease s.dev (keyOf k) port.toNat (pubComplete s.dev (keyOf k)))) :=
  act_next (f := fun d => inkRelease d (keyOf k) port.toNat (pubComplete d (keyOf k))) ha

theorem exec_metroHoldTimeout : exec (.metroHoldTimeout k) s = .next (s.after (metroHold s.dev (keyOf k))) := act_next (f := fun d => metroHold d (keyOf k)) ha

theorem exec_metroLateLimit : exec (.metroLateLimit k) s = .next (s.after (metroLate s.dev (keyOf k))) := act_next (f := fun d => metroLate d (keyOf k)) ha

theorem exec_metroChunkClose (c : BitVec 18) (dup : Bool) :
    exec (.metroChunkClose ⟨⟨k, c⟩, dup⟩) s = .next (s.after (metroClose s.dev (keyOf k) c.toNat dup)) :=
  act_next (f := fun d => metroClose d (keyOf k) c.toNat dup) ha

theorem exec_metroGatherReceive : exec .metroGatherReceive s = .next (s.after (gatherNext s.dev)) := act_next ha

theorem exec_metroGatherLapse : exec (.metroGatherLapse k) s = .next (s.after (gatherLapse s.dev (keyOf k))) :=
  act_next (f := fun d => gatherLapse d (keyOf k)) ha

end

/-- Settles O24: each timer and each event of the metro stage takes the one case that its conditions leave. -/
theorem metroTimersAct : Obligations.MetroTimersAct := by
  unfold Obligations.MetroTimersAct
  intro s k d kk
  refine ⟨?retry, ?ink, ?hold, ?late, ?close, ?gather, ?stray, ?lapse⟩
  case retry =>
    intro n o ha ho ht
    rw [exec_noticeRetryTimeout ha]
    exact ⟨fun hn => by rw [noticeRetry_of_tries ho ht hn], fun hn => by rw [noticeRetry_of_last ho ht hn]⟩
  case ink =>
    intro port r hr hf hw hg hp hl left out
    rw [exec_inkPortRelease k (alive_of_running hr).1, inkRelease_of_left _ hr hf hw hg hp hl]
    rfl
  case hold =>
    intro p ha hm hk ht
    rw [exec_metroHoldTimeout k ha, metroHold_of_single hm hk ht]
  case late =>
    intro b ha hb hs hreg hd hst ht hc ho
    rw [exec_metroLateLimit k ha, metroLate_of_missing hb hs hreg hd hst ht hc ho]
  case close =>
    intro c b xs bs o1 o2 hr hb hm ho hc hst h7 hx done
    rw [exec_metroChunkClose k (alive_of_running hr).1]
    constructor
    · intro h4
      rw [metroClose_of_shard hr hb hm ho hc hst h7 hx h4]
      rfl
    · intro h4 hf h1 h2
      rw [metroClose_of_sent hr hb hm ho hc hst h7 hx h4 hf h1 h2]
      rfl
  case gather =>
    intro p rest b b' rank o hr hg d1 key first c g qs hb hrank hat hst h7 hok howner hl hsent hb'
    rw [exec_metroGatherReceive (alive_of_running hr).1, gatherNext_of_intact hr hg rfl rfl rfl hb hrank hat hst h7 hok howner hl hsent hb']
    rfl
  case stray =>
    intro p rest hr hg hb
    rw [exec_metroGatherReceive (alive_of_running hr).1, gatherNext_of_no_bucket hr hg hb]
  case lapse =>
    intro b ha hb hst hreg ht
    rw [exec_metroGatherLapse k ha, gatherLapse_of_due hb hst hreg ht]

end Sys2Proof.Machine
end

section
/-! PROOFS. The shard, lesson and norm commands (R195, R196, R206, R209, R213, R216): what each body answers in the case that its conditions leave. -/

namespace Sys2Proof.Machine

/-! ## The shard that a command names (R195, R196, R213) -/

@[simp] theorem shardAt_shardPut_self (d : Dev) (i : Nat) (x : Shard) : shardAt (shardPut d i x) i = some x := by
  simp only [shardAt, shardPut, tget_tset_self]

theorem withShard_of_bound {d : Dev} {i : Nat} {w : Bool} {x : Shard} (k : Shard → Ans) (hi : i < 1024) (hx : shardAt d i = some x)
    (hw : x.world = true → w = true) : withShard d i w k = k x := by
  have hworld : ¬ (x.world = true ∧ (!w) = true) := fun ⟨hs, hn⟩ => by simp [hw hs] at hn
  simp only [withShard, ge_iff_le, Nat.not_le.mpr hi, hx, hworld, ↓reduceIte]

/-- The one layout test of the commands that name a shard and have two reserved bytes after it. -/
theorem firstBad_reserved_of_zero {p : List Byte} (h0 : field p 2 2 = 0) : firstBad [(2, decide (field p 2 2 = 0))] = none := by
  simp only [firstBad, h0, decide_true, ↓reduceIte]

/-- No bucket of the shard's context carries its tag. -/
theorem any_bucketsOf_tag_eq_false {d : Dev} {ctx tag : Nat} (hb : ∀ b ∈ bucketsOf d ctx, kTag b.1 ≠ tag) :
    (bucketsOf d ctx).any (fun b => decide (kTag b.1 = tag)) = false :=
  List.any_eq_false.mpr fun b hm => by simpa using hb b hm

/-- A device that a shard has left: its descriptor, its gradient staging and its partner streams are free. -/
def shardFreed (d : Dev) (i : Nat) : Dev :=
  let mine := fun (k : Nat) => decide (k % 65536 = i ∧ 1 ≤ k / 65536 ∧ k / 65536 ≤ 4)
  { d with
    lsn := { d.lsn with shards := tset none d.lsn.shards i none, grad := d.lsn.grad.filter (fun e => !(decide (e.1 / 2 ^ 32 = i))) }
    ckp := { d.ckp with
      outbox := d.ckp.outbox.filter (fun e => !mine e.1), outs := d.ckp.outs.filter (fun e => !mine e.1)
      whole := d.ckp.whole.filter (fun e => !mine e.1), unmirrored := tset false d.ckp.unmirrored i false } }

@[simp] theorem shardAt_shardFreed_self (d : Dev) (i : Nat) : shardAt (shardFreed d i) i = none := by
  simp only [shardAt, shardFreed, tget_tset_self]

theorem shardAt_shardFreed_ne (d : Dev) {i j : Nat} (h : j ≠ i) : shardAt (shardFreed d i) j = shardAt d j := by
  simp only [shardAt, shardFreed, tget_tset_ne _ _ _ _ h]

theorem shard_ne_of_mem_grad_shardFreed {d : Dev} {i : Nat} {g : Nat × Nat} (h : g ∈ (shardFreed d i).lsn.grad) : g.1 / 2 ^ 32 ≠ i := by
  simpa using (List.mem_filter.mp h).2

section
variable {d : Dev} {h : CmdHdr} {p : List Byte} {x : Shard} (hi : field p 0 2 < 1024) (hx : shardAt d (field p 0 2) = some x)
  (hw : x.world = true → h.world = true)
include hi hx hw

theorem shardQuery_of_bound (hl : p.length = 2) :
    shardQuery d h p = .done d (bindBytes x ++ beBytes 1 x.world.toNat ++ [0] ++ beBytes 4 x.lastStep) := by
  unfold shardQuery
  rw [needLen_pass _ hl, withShard_of_bound _ hi hx hw]

theorem shardScalars_of_bound (hl : p.length = 64) (h0 : field p 2 2 = 0) :
    shardScalars d h p = .done (shardPut d (field p 0 2) { x with pend := some (field p 4 4, (List.range 14).map fun j => field p (8 + 4 * j) 4) }) [] := by
  unfold shardScalars
  rw [needLen_pass _ hl, checks_of_firstBad_none _ (firstBad_reserved_of_zero h0), withShard_of_bound _ hi hx hw]

/-- A shard that no bucket drives can go. -/
theorem shardUnbind_of_undriven (hl : p.length = 2) (hb : ∀ b ∈ bucketsOf d x.ctx, kTag b.1 ≠ x.tag) :
    shardUnbind d h p = .done (shardFreed d (field p 0 2)) [] := by
  unfold shardUnbind
  rw [needLen_pass _ hl, withShard_of_bound _ hi hx hw, any_bucketsOf_tag_eq_false hb]
  rfl

end

/-! ## SHARD_REPUBLISH (R216) -/

/-- The unit of elements in which a published block lies. -/
def repubUnit (d : Dev) (x : Shard) (rf q : Nat) : Nat × Nat := pubUnit (shardSpan d x) (pubFmt rf) (q * fmtElems (pubFmt rf))

/-- The blocks that a republication of one block sends: the block, and under KB8 the scale block ahead of it. -/
def repubBlocks (d : Dev) (x : Shard) (rf : Nat) (cvt : Option Nat) (q : Nat) : List (List Byte) :=
  let u := repubUnit d x rf q
  (pubBlocks (pubFmt rf) u.1 (lessonToss (lessonAt d x.lesson)) x.lastEref (pubStored d x cvt u.1 (u.2 - u.1)).1 (fun j => tget 0 x.flags j)).filter
    (fun b => decide (blkFmt b = 4) || [q].contains (blkSeq b))

/-- The debt of a republication of one block to its requester. -/
def repubOwed (d : Dev) (h : CmdHdr) (x : Shard) (rf : Nat) (cvt : Option Nat) (q : Nat) : Owed :=
  ⟨x.lastKey, x.lastAtt, h.src.toNat, chunkCorr x.lastKey ((repubUnit d x rf q).1 / (64 * fmtElems x.fmt)), repubBlocks d x rf cvt q⟩

/-- Blocks that fit one pass make one piece. -/
theorem pieces_of_short {α : Type} {k : Nat} {xs : List α} (hne : xs ≠ []) (hk : xs.length ≤ k) : pieces k (xs.length + 1) xs = [xs] := by
  cases xs with
  | nil => exact absurd rfl hne
  | cons y ys => simp only [pieces, List.isEmpty_cons, List.take_of_length_le hk, List.drop_of_length_le hk, List.length_cons, List.isEmpty_nil,
      Bool.false_eq_true, ↓reduceIte]

/-- The recursion as a functional. Where the kernel unfolds `owedSend` at an application it evaluates `sendPass` on the way, which is out of its
reach; so the two lemmas below unfold the body and the recursion apart, with `sendPass` and then the body behind an existential. -/
theorem owedSend_eq : owedSend = fun n d => Nat.brecOn (motive := fun _ => Dev → Dev) n owedSend._f d := by
  delta owedSend
  rfl

theorem owedSend_body_of_paid {d e : Dev} {o : Owed} {rest : List Owed} {n : Nat} (b : Nat.below (motive := fun _ => Dev → Dev) (n + 1))
    (ho : d.lsn.owed = o :: rest) (hs : sendPass d o.key o.att 48 o.corr 3 3 o.dst none o.blocks = some e) :
    owedSend._f (n + 1) b d = b.1 { e with lsn := { e.lsn with owed := rest } } := by
  unfold owedSend._f
  obtain ⟨send, hsend⟩ : ∃ f, f = sendPass := ⟨_, rfl⟩
  rw [← hsend] at hs ⊢
  simp only [ho, hs]

/-- The oldest debt is paid by the pass that takes it. -/
theorem owedSend_succ_of_paid {d e : Dev} {o : Owed} {rest : List Owed} (n : Nat) (ho : d.lsn.owed = o :: rest)
    (hs : sendPass d o.key o.att 48 o.corr 3 3 o.dst none o.blocks = some e) :
    owedSend (n + 1) d = owedSend n { e with lsn := { e.lsn with owed := rest } } := by
  have hbody := fun b => owedSend_body_of_paid (n := n) b ho hs
  rw [owedSend_eq]
  obtain ⟨F, hF⟩ : ∃ F, F = owedSend._f := ⟨_, rfl⟩
  rw [← hF] at hbody ⊢
  exact (congrFun (Nat.brecOn.eq (n + 1) F) d).trans (hbody _)

theorem owedSend_zero (d : Dev) : owedSend 0 d = d := rfl

section
variable {d : Dev} {h : CmdHdr} {p : List Byte} {x : Shard} {rf : Nat} {cvt : Option Nat} (hi : field p 0 2 < 1024)
  (hx : shardAt d (field p 0 2) = some x) (hw : x.world = true → h.world = true) (hl : p.length = 16) (h0 : field p 2 2 = 0)
  (hpub : lessonPub (lessonAt d x.lesson) = some (rf, cvt))
include hi hx hw hl h0 hpub

theorem shardRepublish_of_other_step (hs : x.ran = false ∨ x.lastStep ≠ field p 4 4) : shardRepublish d h p = .err St.pubGone := by
  have hgone : (!x.ran) = true ∨ x.lastStep ≠ field p 4 4 := hs.imp_left fun hr => by rw [hr, Bool.not_false]
  unfold shardRepublish
  rw [needLen_pass _ hl, checks_of_firstBad_none _ (firstBad_reserved_of_zero h0), withShard_of_bound _ hi hx hw]
  simp only [hpub, hgone, ↓reduceIte]

section
variable (ho : d.lsn.owed = []) (hran : x.ran = true) (hs : x.lastStep = field p 4 4)
  (hlo : (shardSpan d x).1 ≤ field p 8 4 * fmtElems (pubFmt rf))
include ho hran hs hlo

theorem shardRepublish_of_empty (hn : field p 12 4 = 0) (hhi : field p 8 4 * fmtElems (pubFmt rf) < (shardSpan d x).1 + (shardSpan d x).2) :
    shardRepublish d h p = .done (bump d Reg.LSN_REPUBLISH_CNT) [] := by
  have hin : ¬ (field p 8 4 * fmtElems (pubFmt rf) < (shardSpan d x).1
      ∨ (field p 8 4 + 0) * fmtElems (pubFmt rf) ≥ (shardSpan d x).1 + (shardSpan d x).2 + fmtElems (pubFmt rf)) := by
    rw [Nat.add_zero]
    omega
  unfold shardRepublish
  rw [needLen_pass _ hl, checks_of_firstBad_none _ (firstBad_reserved_of_zero h0), withShard_of_bound _ hi hx hw]
  simp only [hpub, hran, hs, hin, hn, ho, Bool.not_true, Bool.false_eq_true, ne_eq, not_true_eq_false, or_self, ↓reduceIte, List.range_zero, List.map_nil,
    List.filter_nil, List.foldl_nil, List.length_nil, owedSend_zero]

/-- One block that was published and whose weights are intact goes to the requester at once. -/
theorem shardRepublish_of_single {m : Nat} {r : Region} {e : Dev} (hn : field p 12 4 = 1)
    (hhi : (field p 8 4 + 1) * fmtElems (pubFmt rf) < (shardSpan d x).1 + (shardSpan d x).2 + fmtElems (pubFmt rf))
    (hbit : bit (tget 0 x.flags (field p 8 4)) 0 = true) (hr : regionOf d x.w.handle = some (m, r))
    (hp : regionPoisoned d r (x.w.off + 4 * (field p 8 4 * fmtElems (pubFmt rf) - (shardSpan d x).1)) (4 * fmtElems (pubFmt rf)) = false)
    (hne : repubBlocks d x rf cvt (field p 8 4) ≠ []) (h8 : (repubBlocks d x rf cvt (field p 8 4)).length ≤ 8)
    (hsend : sendPass (bump { d with lsn := { d.lsn with owed := [repubOwed d h x rf cvt (field p 8 4)] } } Reg.LSN_REPUBLISH_CNT) x.lastKey x.lastAtt 48
      (repubOwed d h x rf cvt (field p 8 4)).corr 3 3 h.src.toNat none (repubBlocks d x rf cvt (field p 8 4)) = some e) :
    shardRepublish d h p = .done { e with lsn := { e.lsn with owed := [] } } [] := by
  have hin : ¬ (field p 8 4 * fmtElems (pubFmt rf) < (shardSpan d x).1
      ∨ (field p 8 4 + 1) * fmtElems (pubFmt rf) ≥ (shardSpan d x).1 + (shardSpan d x).2 + fmtElems (pubFmt rf)) := by
    omega
  have hpieces := pieces_of_short hne h8
  have hpaid := owedSend_succ_of_paid (o := repubOwed d h x rf cvt (field p 8 4)) 0 rfl hsend
  rw [owedSend_zero] at hpaid
  unfold repubOwed at hpaid
  unfold repubBlocks repubUnit at hpieces hpaid
  unfold shardRepublish
  rw [needLen_pass _ hl, checks_of_firstBad_none _ (firstBad_reserved_of_zero h0), withShard_of_bound _ hi hx hw]
  simp only [hpub, hran, hs, hin, hn, ho, hr, hp, hbit, Bool.not_true, Bool.not_false, Bool.and_self, Bool.false_eq_true, ne_eq, not_true_eq_false, or_self,
    ↓reduceIte, List.range_one, List.map_cons, List.map_nil, Nat.add_zero, List.filter_cons_of_pos, List.filter_nil, List.foldl_cons, List.foldl_nil,
    List.contains_nil, List.nil_append, hpieces, List.length_singleton, hpaid]

end

end

/-! ## SHARD_BIND (R195, R196) -/

/-- A stream lies in a region of the requester's world, within its bytes. -/
def streamHeld (d : Dev) (w : Bool) (y : StreamE × Nat) : Bool :=
  (regionOf d y.1.handle).any (fun m => decide (m.2.secure = w ∧ y.1.off + y.2 ≤ regionBytes m.2))

theorem regionOf_of_streamHeld {d : Dev} {w : Bool} {y : StreamE × Nat} (h : streamHeld d w y = true) :
    ∃ m r, regionOf d y.1.handle = some (m, r) ∧ r.secure = w ∧ y.1.off + y.2 ≤ regionBytes r := by
  unfold streamHeld at h
  cases hr : regionOf d y.1.handle with
  | none => simp only [hr, Option.any_none, Bool.false_eq_true] at h
  | some m =>
    rw [hr, Option.any_some, decide_eq_true_eq] at h
    exact ⟨m.1, m.2, rfl, h⟩

/-- No stream meets a refusal that a held one does not meet. -/
theorem any_regions_eq_false {d : Dev} {w : Bool} {ys : List (StreamE × Nat)} {q : (StreamE × Nat) × Option (Nat × Region) → Bool}
    (h : ∀ y ∈ ys, streamHeld d w y = true)
    (hq : ∀ y m r, r.secure = w → y.1.off + y.2 ≤ regionBytes r → q (y, some (m, r)) = false) :
    (ys.map (fun y => (y, regionOf d y.1.handle))).any q = false := by
  refine List.any_eq_false.mpr fun z hz => ?_
  obtain ⟨y, hy, rfl⟩ := List.mem_map.mp hz
  obtain ⟨m, r, hr, hsec, hlen⟩ := regionOf_of_streamHeld (h y hy)
  rw [hr, hq y m r hsec hlen]
  exact Bool.false_ne_true

/-- The lowest number is the first free one that is found. -/
theorem find?_shard_of_zero_free {d : Dev} (h : shardAt d 0 = none) : (List.range 1024).find? (fun i => (shardAt d i).isNone) = some 0 := by
  rw [List.find?_range_eq_some]
  exact ⟨by rw [h]; rfl, List.mem_range.mpr (by omega), fun j hj => absurd hj (Nat.not_lt_zero j)⟩

/-- The binding of the first shard, for which every table has room (R195). -/
theorem shardBind_of_room {d : Dev} {h : CmdHdr} {p : List Byte} {x : Shard} {g : Group} (hx : bindShard p h.world = x) (hg : groupAt d x.ctx = g)
    (hl : p.length = 88) (hc : firstBad (bindChecks p) = none) (hst : g.st = 1) (hrole : g.role = 2 ∨ g.role = 3) (hw : g.world = true → h.world = true)
    (hreg : ∀ y ∈ shardStreams x (shardSpan d x).2, streamHeld d h.world y = true) (hfree : boundShard d x.ctx x.tag = none)
    (hb : ∀ b ∈ bucketsOf d x.ctx, kTag b.1 ≠ x.tag) (hmeet : anyMeet (streamRanges x (shardSpan d x).2) = false)
    (hnone : ∀ e ∈ d.lsn.shards, e.2 = none) (hstage : stageOf d x ≤ stageFree d) (hless : lessonAt d x.lesson ≠ [])
    (hs1 : (lessonStores (lessonAt d x.lesson)).contains 1 = true → x.s1.fmt ≠ 0)
    (hs2 : (lessonStores (lessonAt d x.lesson)).contains 2 = true → x.s2.fmt ≠ 0) (h0 : shardAt d 0 = none) (hm : mirSending d = false) :
    shardBind d h p = .done (shardPut d 0 x) (beBytes 2 0) := by
  have hmir : mirSending (shardPut d 0 x) = false := hm
  unfold shardBind
  rw [needLen_pass _ hl, checks_of_firstBad_none _ hc, hx]
  dsimp only
  rw [hg, if_neg ?role, if_neg ?noRegion, if_neg ?world, if_neg ?busy, if_neg ?conflict, if_neg (Nat.not_lt.mpr hstage), if_neg ?lesson,
    find?_shard_of_zero_free h0]
  · dsimp only
    rw [hmir, if_neg Bool.false_ne_true]
  case role => simp only [hst, hrole, ne_eq, not_true_eq_false, or_self, not_false_eq_true]
  case noRegion => exact Bool.eq_false_iff.mp (any_regions_eq_false hreg fun _ _ _ _ _ => rfl)
  case world =>
    rintro (⟨hgw, hn⟩ | hr)
    · simp [hw hgw] at hn
    · refine Bool.eq_false_iff.mp (any_regions_eq_false hreg fun y m r hsec _ => ?_) hr
      simp only [hsec, bne_self_eq_false]
  case busy => simp only [hfree, any_bucketsOf_tag_eq_false hb, Option.isSome_none, Bool.false_eq_true, or_self, not_false_eq_true]
  case conflict =>
    rintro (hr | hr | hr)
    · exact Bool.eq_false_iff.mp (any_regions_eq_false hreg fun y m r _ hlen => decide_eq_false (Nat.not_lt.mpr hlen)) hr
    · exact Bool.eq_false_iff.mp hmeet hr
    · obtain ⟨a, -, hr⟩ := List.any_eq_true.mp hr
      obtain ⟨b, hb, -⟩ := List.any_eq_true.mp hr
      obtain ⟨e, he, hb⟩ := List.mem_flatMap.mp hb
      rw [hnone e he] at hb
      exact absurd hb List.not_mem_nil
  case lesson =>
    rintro (hr | ⟨hr, hf⟩ | ⟨hr, hf⟩)
    · exact hless hr
    · exact hs1 hr hf
    · exact hs2 hr hf

/-! ## Lessons and norm bindings (R206, R209) -/

/-- A lesson that R206 allows takes a slot that no shard uses. -/
theorem lessonLoad_of_unused {d : Dev} {h : CmdHdr} {p : List Byte} {ws : List Nat} (hws : (List.range (byteAt p 1)).map (fun i => field p (8 + 8 * i) 8) = ws)
    (hl : p.length = 8 + 8 * byteAt p 1) (hi : byteAt p 0 ≤ 31) (hn : 1 ≤ byteAt p 1 ∧ byteAt p 1 ≤ 64) (h0 : field p 2 6 = 0)
    (hc : lessonCheck ws = none) (hu : ∀ e ∈ d.lsn.shards, e.2.map (fun x => x.lesson) ≠ some (byteAt p 0)) :
    lessonLoad d h p = .done { d with lsn := { d.lsn with slots := tset [] d.lsn.slots (byteAt p 0) ws } } [] := by
  have hchk : firstBad [(0, decide (byteAt p 0 ≤ 31)), (1, decide (1 ≤ byteAt p 1 ∧ byteAt p 1 ≤ 64)), (2, decide (field p 2 6 = 0))] = none := by
    simp only [firstBad, hi, hn, h0, and_self, decide_true, ↓reduceIte]
  unfold lessonLoad
  rw [if_neg (by omega), checks_of_firstBad_none _ hchk, needLen_pass _ hl]
  dsimp only
  rw [hws, hc]
  refine if_neg fun hany => ?_
  obtain ⟨e, he, hs⟩ := List.any_eq_true.mp hany
  refine hu e he ?_
  cases hes : e.2 with
  | none => simp [hes] at hs
  | some y => simpa [hes] using hs

theorem lessonQuery_of_slot {d : Dev} {h : CmdHdr} {p : List Byte} (hl : p.length = 1) (hi : byteAt p 0 ≤ 31) :
    let ws := lessonAt d (byteAt p 0)
    lessonQuery d h p = .done d (beBytes 1 ws.length ++ beBytes 3 0 ++ beBytes 4 (crc32c (lessonBytes ws)) ++ lessonBytes ws) := by
  have hchk : firstBad [(0, decide (byteAt p 0 ≤ 31))] = none := by simp only [firstBad, hi, decide_true, ↓reduceIte]
  unfold lessonQuery
  rw [needLen_pass _ hl, checks_of_firstBad_none _ hchk]

section
variable {d : Dev} {h : CmdHdr} {p : List Byte} (hl : p.length = 8) (hi : byteAt p 0 ≤ 15) (h1 : byteAt p 1 % 128 = 0) (hg : field p 2 2 < 4096)
  (h6 : field p 6 2 = 0)
include hi h1 hg h6

theorem firstBad_normBind : firstBad [(0, decide (byteAt p 0 ≤ 15)), (1, decide (byteAt p 1 % 128 = 0)), (2, decide (field p 2 2 < 4096)),
    (6, decide (field p 6 2 = 0))] = none := by
  simp only [firstBad, hi, h1, hg, h6, decide_true, ↓reduceIte]

include hl

/-- Without valid a norm binding is cleared. -/
theorem normBind_of_clear (hv : bit (byteAt p 1) 7 = false) : normBind d h p = .done (normPut d (byteAt p 0) Norm.free) [] := by
  unfold normBind
  rw [needLen_pass _ hl, checks_of_firstBad_none _ (firstBad_normBind hi h1 hg h6)]
  simp only [hv, Bool.not_false, ↓reduceIte]

/-- A context in use of which this switch is itself a member takes the binding. -/
theorem normBind_of_member (hv : bit (byteAt p 1) 7 = true) (hst : (groupAt d (field p 2 2)).st ≠ 0)
    (hw : (groupAt d (field p 2 2)).world = true → h.world = true)
    (hm : ∃ x ∈ (groupAt d (field p 2 2)).slots, x.child = false ∧ (x.prim = mgmtCoord d ∨ x.sub = mgmtCoord d)) :
    normBind d h p = .done (normPut d (byteAt p 0) { Norm.free with valid := true, ctx := field p 2 2, tag := field p 4 2 }) [] := by
  have hany : (groupAt d (field p 2 2)).slots.any (fun s => !s.child && (decide (s.prim = mgmtCoord d) || decide (s.sub = mgmtCoord d))) = true := by
    obtain ⟨x, hx, hc, hd⟩ := hm
    exact List.any_eq_true.mpr ⟨x, hx, by simpa [hc] using hd⟩
  unfold normBind
  rw [needLen_pass _ hl, checks_of_firstBad_none _ (firstBad_normBind hi h1 hg h6)]
  simp only [hv, hst, groupWorldOk_of_imp hw, hany, Bool.not_true, Bool.false_eq_true, ↓reduceIte]

end

/-! ## The meanings -/

section
variable {s : State} (h : CmdHdr) (p : List Byte)

theorem exec_shardBind : exec (.shardBind h p) s = act (runCmd ⟨0x0401, false, false⟩ h p fun d _ => unlessDraining d (shardBind d h p)) s := rfl

theorem exec_shardUnbind : exec (.shardUnbind h p) s = act (runCmd ⟨0x0402, false, false⟩ h p fun d _ => shardUnbind d h p) s := rfl

theorem exec_shardQuery : exec (.shardQuery h p) s = act (runCmd ⟨0x0403, false, true⟩ h p fun d _ => shardQuery d h p) s := rfl

theorem exec_shardScalars : exec (.shardScalars h p) s = act (runCmd ⟨0x0404, false, false⟩ h p fun d _ => shardScalars d h p) s := rfl

theorem exec_shardRepublish : exec (.shardRepublish h p) s = act (runCmd ⟨0x0405, false, false⟩ h p fun d _ => shardRepublish d h p) s := rfl

theorem exec_lessonLoad : exec (.lessonLoad h p) s = act (runCmd ⟨0x0410, false, false⟩ h p fun d _ => lessonLoad d h p) s := rfl

theorem exec_lessonQuery : exec (.lessonQuery h p) s = act (runCmd ⟨0x0411, false, true⟩ h p fun d _ => lessonQuery d h p) s := rfl

theorem exec_normBind : exec (.normBind h p) s = act (runCmd ⟨0x0412, false, false⟩ h p fun d _ => normBind d h p) s := rfl

end

theorem unlessDraining_of_not {d : Dev} (a : Ans) (h : draining d = false) : unlessDraining d a = a := by
  simp only [unlessDraining, h, Bool.not_false, ↓reduceIte]

/-- Settles O25: each body takes the one case that its conditions leave. -/
theorem shardsAndLessonsAreNamed : Obligations.ShardsAndLessonsAreNamed := by
  unfold Obligations.ShardsAndLessonsAreNamed
  refine ⟨fun s h p x => ?_, fun s h p => ⟨?bind, ?load, ?lesson, ?norm⟩⟩
  · intro i ok
    refine ⟨?query, ?scalars, ?unbind, ?republish⟩
    case query =>
      intro ⟨hadm, hi, hx, hw⟩ hl
      rw [exec_shardQuery]
      exact cmd_query hadm rfl (shardQuery_of_bound hi hx hw hl)
    case scalars =>
      intro ⟨hadm, hi, hx, hw⟩ hl h0
      rw [exec_shardScalars]
      exact cmd_done hadm rfl (shardScalars_of_bound hi hx hw hl h0)
    case unbind =>
      intro ⟨hadm, hi, hx, hw⟩ hl hb
      rw [exec_shardUnbind]
      exact ⟨_, cmd_done hadm rfl (shardUnbind_of_undriven hi hx hw hl hb), shardAt_shardFreed_self .., fun j hj => shardAt_shardFreed_ne _ hj,
        fun g hg => shard_ne_of_mem_grad_shardFreed hg, rfl⟩
    case republish =>
      intro ⟨hadm, hi, hx, hw⟩ hl h0 rf cvt hpub
      rw [exec_shardRepublish]
      refine ⟨fun hs => cmd_err hadm (shardRepublish_of_other_step hi hx hw hl h0 hpub hs), fun ho hran hs hn hlo hhi =>
        cmd_done hadm rfl (shardRepublish_of_empty hi hx hw hl h0 hpub ho hran hs hlo hn hhi), ?_⟩
      intro d fmt el q u w blks corr d1 m r e ho hran hs hn hlo hhi hbit hr hp hne h8 hsend
      exact cmd_done hadm rfl (shardRepublish_of_single hi hx hw hl h0 hpub ho hran hs hlo hn hhi hbit hr hp hne h8 hsend)
  case bind =>
    intro d x n g ranges stores i hadm hd hl hc hst hrole hw hreg hfree hb hmeet hnone hstage hless hs1 hs2 hi h0 hm
    subst hi
    have hbody := shardBind_of_room rfl rfl hl hc hst hrole hw hreg hfree hb hmeet hnone hstage hless hs1 hs2 h0 hm
    rw [exec_shardBind]
    exact cmd_done hadm rfl ((unlessDraining_of_not _ hd).trans hbody)
  case load =>
    intro d n ws hadm hl hi hn1 hn2 h0 hc hu
    rw [exec_lessonLoad]
    exact cmd_done hadm rfl (lessonLoad_of_unused rfl hl hi ⟨hn1, hn2⟩ h0 hc hu)
  case lesson =>
    intro d ws hadm hl hi
    rw [exec_lessonQuery]
    exact cmd_query hadm rfl (lessonQuery_of_slot hl hi)
  case norm =>
    intro d g hadm hl hi h1 hg h6
    rw [exec_normBind]
    exact ⟨fun hv => cmd_done hadm rfl (normBind_of_clear hl hi h1 hg h6 hv),
      fun hv hst hw hm => cmd_done hadm rfl (normBind_of_member hl hi h1 hg h6 hv hst hw hm)⟩

end Sys2Proof.Machine
end

section
/-! PROOFS. Runs advance (R207 to R214): their start, rows on engines, the engines' tests, the stall of a READY run, and the norm pass. -/

namespace Sys2Proof.Machine

/-! ## What an entry of the log leaves: bell time stays -/

theorem regionWrite_clk (d : Dev) (r : Region) (o : Nat) (bs : List Byte) : (regionWrite d r o bs).clk = d.clk := by
  unfold regionWrite
  refine List.foldlRecOn (motive := fun e : Dev => e.clk = d.clk) _ _
    (List.foldlRecOn (motive := fun e : Dev => e.clk = d.clk) _ _ rfl fun e he i _ => ?_) fun e he i _ => ?_
  all_goals
    dsimp only
    split <;> exact he

theorem replayCompare_clk (d : Dev) (e : List Byte) : (replayCompare d e).clk = d.clk := by
  unfold replayCompare
  split
  · rfl
  · dsimp only
    split
    · rfl
    · split
      · rfl
      · split
        · rfl
        · rw [unitFault, raise_clk, fset_clk, fset_clk, rg64Put_clk, bump_clk]

theorem append_clk (d : Dev) (typ ctx epoch step : Nat) (body : List Byte) (time : Option (List Byte)) :
    (append d typ ctx epoch step body time).clk = d.clk := by
  unfold append
  extract_lets seq e d1 lap off need d2 r d3 d4 fill src d5 mark
  have hd2 : d2.clk = d.clk := replayCompare_clk ..
  by_cases hroom : logUsed d + need > logSize d
  · rw [if_pos hroom, raise_clk, fset_clk, bump_clk, hd2]
  · rw [if_neg hroom]
    have hd3 : d3.clk = d.clk := by
      rw [bump_clk]
      split
      · rw [regionWrite_clk]
        split
        · rw [regionWrite_clk, hd2]
        · exact hd2
      · exact hd2
    have hd5 : d5.clk = d.clk := by
      dsimp only [d5]
      split <;> exact hd3
    split
    · rw [raise_clk, hd5]
    · exact hd5

@[simp] theorem shardPut_clk (d : Dev) (i : Nat) (x : Shard) : (shardPut d i x).clk = d.clk := rfl

/-- Bell time while a run's entry and shard are put down. -/
theorem ns_shardPut_append (d : Dev) (typ ctx epoch step : Nat) (body : List Byte) (i : Nat) (x : Shard) :
    ns (shardPut (append d typ ctx epoch step body) i x) = ns d :=
  ns_congr ((shardPut_clk ..).trans (append_clk ..))

/-! ## The start of a run (R211 to R213) -/

/-- The shard with the table that is in force at a step (R213). -/
def tableAt (x : Shard) (step : Nat) : Shard :=
  match x.pend with
  | some (from', t) => if from' ≤ step then { x with cur := t, pend := none } else x
  | none => x

/-- The scalars of a run: the table, the clip factor, the step and the norm. -/
def runScalars (x : Shard) (r : Run) (step : Nat) : List Nat :=
  (tableAt x step).cur ++ [r.clip.2, (encodeKf32 (ofInt (step : Nat))).1, r.clip.1]

/-- The body of the RUN entry of a run that is not skipped. -/
def runEntry (d : Dev) (i : Nat) (x : Shard) (r : Run) (step : Nat) : List Byte :=
  let x1 := tableAt x step
  beBytes 2 i ++ beBytes 1 x1.lesson ++ beBytes 1 0 ++ beBytes 4 (crc32c (lessonBytes (lessonAt d x1.lesson))) ++ (runScalars x r step).flatMap (beBytes 4)

/-- The shard of a run that has started. -/
def shardRun (x : Shard) (r : Run) (b : Bucket) : Shard :=
  { tableAt x (bStep b) with
    lastStep := bStep b, ran := true, status := 0, lastKey := r.key, lastAtt := r.att, lastEref := if inMetro b.grp then b.mEref else b.eref
    seed := b.seed, flags := [] }

/-- The device with the RUN entry appended and the shard's run noted. -/
def runNoted (d : Dev) (i : Nat) (x : Shard) (r : Run) (b : Bucket) : Dev :=
  shardPut (append d 0x07 (kCtx r.key) (kEpoch r.key) (bStep b) (runEntry d i x r (bStep b))) i (shardRun x r b)

/-- Outside replay no recorded entry leads a run. -/
theorem runRecord_of_no_replay {d : Dev} {b : Bucket} (i : Nat) (h : polReplay b.grp.policy = false) : runRecord d i b = none := by
  simp only [runRecord, h, Bool.false_eq_true, ↓reduceIte]

/-- A norm that is a number gives no reason to skip. -/
theorem clipBad_eq_false {clip : Bool} {n : Nat} (h : clip = false ∨ (isNan n = false ∧ n ≠ kInf)) : (clip && (isNan n || n == kInf)) = false := by
  rcases h with h | ⟨hn, hi⟩
  · rw [h, Bool.false_and]
  · rw [hn, beq_eq_false_iff_ne.mpr hi, Bool.or_self, Bool.and_false]

theorem runStart_of_ready {d : Dev} {i : Nat} {r : Run} {x : Shard} {b : Bucket} (hd : running d = true)
    (hen : fbit d Reg.LSN_CTRL Fd.LSN_CTRL_run_en = true) (hr : runOf d i = some r) (hx : shardAt d i = some x) (hb : bucketAt d r.key = some b)
    (hst : r.st = .ready) (hclip : x.clip = false ∨ (isNan r.clip.1 = false ∧ r.clip.1 ≠ kInf)) (hrep : polReplay b.grp.policy = false)
    (hp : partnerState (runNoted d i x r b) ≠ 2) :
    runStart d i = runMod (bump (runNoted d i x r b) Reg.LSN_RUN_CNT) i
      (fun z => { z with st := .running, s := runScalars x r (bStep b), wait := ns d }) := by
  unfold runStart
  simp -zeta only [hr, hx, hb]
  extract_lets step waits c bad rec' skip x1 tbl sc body er d1 d2 d3 d4 d5
  have hx1 : x1 = tableAt x (bStep b) := rfl
  have hrec : rec' = none := runRecord_of_no_replay i hrep
  have hwaits : waits = false := by simp only [waits, hst, reduceCtorEq, decide_false, Bool.false_and, Bool.or_self]
  have hskip : skip = false := by
    simp only [skip, hrec, hst, bad, c, clipBad_eq_false hclip, reduceCtorEq, decide_false, Bool.false_and, Bool.or_self]
  have hsc : sc = runScalars x r (bStep b) := by
    simp only [sc, tbl, hrec, hx1, c, step]
    rfl
  have hbody : body = runEntry d i x r (bStep b) := by
    simp only [body, hsc, hskip, hx1]
    rfl
  have hd2 : d2 = runNoted d i x r b := by
    simp only [d2, d1, hbody, hskip, hx1, er, step, Bool.false_eq_true, ↓reduceIte]
    rfl
  have hd3 : d3 = runNoted d i x r b := (if_neg (hd2 ▸ hp)).trans hd2
  have hns : ns (runNoted d i x r b) = ns d := ns_shardPut_append ..
  simp only [hd, hen, hwaits, hskip, d5, d4, hd3, hns, hsc, Bool.not_true, Bool.false_eq_true, or_self, false_and, ↓reduceIte]

/-! ## Engines and their registers (R201, R227) -/

@[simp] theorem engRow_engPut_self (d : Dev) (e : Nat) (x : Option EngRow) : engRow (engPut d e x) e = x := by
  simp only [engRow, engPut, fset_lsn, tget_tset_self]

/-- Runs are kept apart from the rows of the engines. -/
@[simp] theorem engRow_runMod (d : Dev) (i e : Nat) (f : Run → Run) : engRow (runMod d i f) e = engRow d e := rfl

@[simp] theorem runMod_regs (d : Dev) (i : Nat) (f : Run → Run) : (runMod d i f).regs = d.regs := rfl
@[simp] theorem runMod_mem (d : Dev) (i : Nat) (f : Run → Run) : (runMod d i f).mem = d.mem := rfl
@[simp] theorem runMod_seq (d : Dev) (i : Nat) (f : Run → Run) : (runMod d i f).seq = d.seq := rfl
@[simp] theorem engPut_mem (d : Dev) (e : Nat) (x : Option EngRow) : (engPut d e x).mem = d.mem := by simp only [engPut, fset_mem]
@[simp] theorem engPut_seq (d : Dev) (e : Nat) (x : Option EngRow) : (engPut d e x).seq = d.seq := by simp only [engPut, fset_seq]

theorem fget_shard_engPut (d : Dev) (e : Nat) (x : EngRow) :
    fget (engPut d e (some x)) (Reg.LSN_ENG_STATUS e) Fd.LSN_ENG_STATUS_shard = x.shard % 1024 := by
  unfold engPut
  exact fget_fset_self _ _ Fd.LSN_ENG_STATUS_shard _ (by decide) (by decide)

theorem fbit_busy_engPut (d : Dev) (e : Nat) (x : EngRow) : fbit (engPut d e (some x)) (Reg.LSN_ENG_STATUS e) Fd.LSN_ENG_STATUS_busy = true := by
  apply fbit_of_fget_eq_one
  unfold engPut
  rw [fget_fset_above _ _ Fd.LSN_ENG_STATUS_shard (11, 11) _ (by decide) (by decide) (by decide) (by decide)]
  exact fget_fset_self _ _ (11, 11) 1 (by decide) (by decide)

theorem rg_engPut_ne (d : Dev) {e a : Nat} (x : Option EngRow) (h : a ≠ Reg.LSN_ENG_STATUS e) : rg (engPut d e x) a = rg d a := by
  unfold engPut
  rw [rg_fset_ne _ _ _ h, rg_fset_ne _ _ _ h]
  rfl

theorem engState_engTo_self (d : Dev) (e : Nat) {v : Nat} (h : v < 16) : engState (engTo d e v) e = v :=
  (fget_fset_self d _ Fd.LSN_ENG_STATUS_state v (by decide) (by decide)).trans (Nat.mod_eq_of_lt h)

/-- A free ACTIVE engine that does not drain takes the row that is picked for it. -/
theorem engineRowStart_of_picked {d : Dev} {e i k : Nat} {r : Run} (hd : running d = true) (hs : engState d e = 0) (hfree : engRow d e = none)
    (hdr : draining1 d .engine e = false) (hpick : pickRun d e = some (i, k, r)) :
    engineRowStart d e = runMod (engPut d e (some ⟨i, k⟩)) i (fun _ => { r with wait := ns d }) := by
  simp only [engineRowStart, hd, hs, hfree, hdr, hpick, Bool.not_true, Bool.false_eq_true, ne_eq, not_true_eq_false, Option.isSome_none, or_self,
    ↓reduceIte]

/-! ## A row completes (R207) -/

/-- The stores of a row, in order, with the flags that they gather. -/
def rowStores (d : Dev) (z : EngRow) (x : Shard) (o : LRow) : Nat × Dev :=
  o.stores.foldl (fun (a : Nat × Dev) st => let y := rowStore a.2 z.shard x z.row st; (a.1 ||| y.1, y.2)) (o.flags, d)

/-- A run with a row done: what the row publishes is kept. -/
def rowDone (o : LRow) (k flags t : Nat) (r : Run) : Run :=
  { r with done := r.done + 1, wait := t, pubs := match o.pub with | some (_, ws) => r.pubs ++ [(k, ws, sticky flags)] | none => r.pubs }

section
variable {d d1 : Dev} {e : Nat} {z : EngRow} {r : Run} {x : Shard} (hd : running d = true) (hz : engRow d e = some z) (hd1 : engPut d e none = d1)
  (hr : runOf d1 z.shard = some r) (hx : shardAt d1 z.shard = some x)
include hd hz hd1 hr hx

/-- A row whose lines are intact runs the lesson, stores and is done. -/
theorem engineRowComplete_of_intact (hl : rowLost d1 x z.row = false) :
    let o := rowRun d1 z.shard x r z.row
    let w := rowStores d1 z x o
    engineRowComplete d e .none = runMod w.2 z.shard (rowDone o z.row w.1 (ns d1)) := by
  have hce : countCe d .none = d := rfl
  have hlane : laneFault .none = none := rfl
  simp only [engineRowComplete, hz, hd, hce, hd1, hr, hx, hlane, hl, Bool.not_true, Bool.false_eq_true, ↓reduceIte]
  rfl

/-- A row whose residue check failed is kept for another engine, and its engine is benched. -/
theorem engineRowComplete_of_residue {u : Upset} (hce : countCe d u = d) (hu : laneFault u = some Fd.LSN_ENG_FAULT_residue_fail) :
    let d2 := benchEngine (bump d1 Reg.LSN_ROW_RETRY_CNT) e Fd.LSN_ENG_FAULT_residue_fail
    engineRowComplete d e u = runMod d2 z.shard (fun r => { r with redo := r.redo ++ [(z.row, e)], wait := ns d2 }) := by
  have hne : ¬ Fd.LSN_ENG_FAULT_residue_fail = Fd.LSN_ENG_FAULT_class_mismatch := by decide
  simp only [engineRowComplete, hz, hd, hce, hd1, hr, hx, hu, hne, Bool.not_true, Bool.false_eq_true, ↓reduceIte]

/-- After a class mismatch the benched engine is tested. -/
theorem engineRowComplete_of_class {u : Upset} (hce : countCe d u = d) (hu : laneFault u = some Fd.LSN_ENG_FAULT_class_mismatch) :
    let d2 := benchEngine (bump d1 Reg.LSN_ROW_RETRY_CNT) e Fd.LSN_ENG_FAULT_class_mismatch
    engineRowComplete d e u = runMod (queueTest d2 .engine e false) z.shard (fun r => { r with redo := r.redo ++ [(z.row, e)], wait := ns d2 }) := by
  simp only [engineRowComplete, hz, hd, hce, hd1, hr, hx, hu, Bool.not_true, Bool.false_eq_true, ↓reduceIte]

end

theorem laneFault_flip (i : BitVec 8) {b : BitVec 128} (h : b ≠ 0) : laneFault (.flip i b) = some Fd.LSN_ENG_FAULT_residue_fail := if_neg h

theorem laneFault_cls {b : BitVec 2} (h : b ≠ 0) : laneFault (.cls b) = some Fd.LSN_ENG_FAULT_class_mismatch := if_neg h

/-! ## Tests of engines, stalls (R207, R214) -/

section
variable {d : Dev} {e : Nat} (hs : engState d e = 1 ∨ engState d e = 2) (hf : ftHas d .engine e = false)
include hs hf

/-- A tested engine that passes is ACTIVE. -/
theorem engineKatEnd_of_pass : engineKatEnd d e true = engTo d e 0 := by
  simp only [engineKatEnd, hs, hf, Bool.false_eq_true, not_true_eq_false, or_self, ↓reduceIte]

/-- A tested engine that fails is BAD. -/
theorem engineKatEnd_of_fail : engineKatEnd d e false = unitFault (engTo d e 3) (Reg.LSN_ENG_FAULT e) Fd.LSN_ENG_FAULT_kat_fail (808 + e) := by
  simp only [engineKatEnd, hs, hf, Bool.false_eq_true, not_true_eq_false, or_self, ↓reduceIte]

end

theorem runStall_of_ready {d : Dev} {i : Nat} {r : Run} {x : Shard} (hr : runOf d i = some r) (hx : shardAt d i = some x) (hst : r.st = .ready)
    (hn : r.noted = false) (ht : r.wait + max 1 (fget d Reg.LSN_CTRL Fd.LSN_CTRL_stall_ticks) * tickLen d ≤ ns d) :
    runStall d i = raise (runMod d i (fun z => { z with noted := true })) 874 := by
  simp only [runStall, hr, hx, hst, hn, fget1, Nat.not_lt.mpr ht, decide_true, Bool.true_or, Bool.not_true, Bool.false_eq_true, or_self, ↓reduceIte]

/-! ## The norm pass (R209, R210) -/

/-- Sum, RM16 and flags of a binding's slot once a shard's gradient has been added. -/
def normSum (d : Dev) (i : Nat) (x : Shard) : Kz × Nat × Nat :=
  let n := normAt d x.normBind
  let rm := tget 0xFFFF n.rm x.normSlot
  (List.range (shardSpan d x).2).foldl
    (fun a j => normAdd (s128 (normEref d n x.normSlot)) a (field (gradBytes d i x 0 (shardSpan d x).2) (4 * j) 4))
    (tget Kz.zero n.sums x.normSlot, if rm = 0xFFFF then 0 else rm, n.flags)

/-- The binding with a further shard. -/
def normJoined (d : Dev) (i : Nat) (x : Shard) : Norm :=
  let n := normAt d x.normBind
  let a := normSum d i x
  { n with sums := tset Kz.zero n.sums x.normSlot a.1, rm := tset 0xFFFF n.rm x.normSlot a.2.1, flags := a.2.2, shards := n.shards ++ [i] }

/-- A shard whose gradient is staged joins a binding of its step that other shards have joined. -/
theorem normPassDone_of_further {d : Dev} {i : Nat} {r : Run} {x : Shard} {b : Bucket} (hd : running d = true) (hr : runOf d i = some r)
    (hx : shardAt d i = some x) (hb : bucketAt d r.key = some b) (hst : r.st = .norm) (hn : r.normed = false)
    (hv : (normAt d x.normBind).valid = true) (hs : (normAt d x.normBind).step = bStep b) (hne : (normAt d x.normBind).shards ≠ [])
    (hg : x.gPlace = false) :
    normPassDone d i = runMod (normPut d x.normBind (normJoined d i x)) i (fun z => { z with normed := true }) := by
  have hfirst : (normAt d x.normBind).shards.isEmpty = false := List.isEmpty_eq_false_iff.mpr hne
  simp only [normPassDone, normJoined, normSum, hr, hx, hb, hd, hst, hn, hv, hs, hg, hfirst, Bool.not_true, Bool.false_and, Bool.false_eq_true, ne_eq,
    not_true_eq_false, or_self, false_and, ↓reduceIte]

/-! ## The meanings -/

section
variable {s : State} (ha : alive s.dev = true)
include ha

theorem exec_runStart (i : BitVec 10) : exec (.runStart i) s = .next (s.after (runStart s.dev i.toNat)) := act_next (f := fun d => runStart d i.toNat) ha

theorem exec_engineRowStart (e : Fin 64) : exec (.engineRowStart e) s = .next (s.after (engineRowStart s.dev e.val)) :=
  act_next (f := fun d => engineRowStart d e.val) ha

theorem exec_engineRowComplete (e : Fin 64) (u : Upset) :
    exec (.engineRowComplete e u) s = .next (s.after (sweepAborted (engineRowComplete s.dev e.val u))) :=
  act_next (f := fun d => sweepAborted (engineRowComplete d e.val u)) ha

theorem exec_engineKatEnd (e : Fin 64) (pass : Bool) : exec (.engineKatEnd e pass) s = .next (s.after (engineKatEnd s.dev e.val pass)) :=
  act_next (f := fun d => engineKatEnd d e.val pass) ha

theorem exec_runStallTimeout (i : BitVec 10) : exec (.runStallTimeout i) s = .next (s.after (runStall s.dev i.toNat)) :=
  act_next (f := fun d => runStall d i.toNat) ha

theorem exec_normPassDone (i : BitVec 10) : exec (.normPassDone i) s = .next (s.after (normPassDone s.dev i.toNat)) :=
  act_next (f := fun d => normPassDone d i.toNat) ha

end

/-- Settles O26: each event takes the one case that its conditions leave. -/
theorem runsAdvance : Obligations.RunsAdvance := by
  unfold Obligations.RunsAdvance
  intro s d
  refine ⟨?start, ?row, ?complete, ?kat, ?stall, ?norm⟩
  case start =>
    intro i r x b step x1 sc body x2 hd hen hr hx hb hst hclip hrep hp
    have hsc : sc = runScalars x r step := rfl
    have hbody : body = runEntry d i.toNat x r step := rfl
    have hx2 : x2 = shardRun x r b := rfl
    have hnoted : shardPut (append d 0x07 (kCtx r.key) (kEpoch r.key) step body) i.toNat x2 = runNoted d i.toNat x r b := by
      rw [hbody, hx2]
      rfl
    rw [hnoted] at hp
    simp only [ns_shardPut_append, hnoted, hsc]
    rw [exec_runStart (alive_of_running hd).1, runStart_of_ready hd hen hr hx hb hst hclip hrep hp]
  case row =>
    intro e i k r hd hs hfree hdr hpick
    rw [exec_engineRowStart (alive_of_running hd).1, engineRowStart_of_picked hd hs hfree hdr hpick]
    refine ⟨_, rfl, ?_, ?_, ?_, fun a h => ?_, ?_, ?_⟩
    · rw [engRow_runMod, engRow_engPut_self]
    · rw [fbit_congr (runMod_regs ..), fbit_busy_engPut]
    · rw [fget_congr (runMod_regs ..), fget_shard_engPut]
    · rw [rg_congr (runMod_regs ..), rg_engPut_ne d _ h]
    · rw [runMod_mem, engPut_mem]
    · rw [runMod_seq, engPut_seq]
  case complete =>
    intro e z r x d1 o w hd hz hr hx
    have ha := (alive_of_running hd).1
    refine ⟨fun hl => ?_, fun i b hb => ?_, fun b hb => ?_⟩
    · rw [exec_engineRowComplete ha, engineRowComplete_of_intact hd hz rfl hr hx hl]
      rfl
    · rw [exec_engineRowComplete ha, engineRowComplete_of_residue hd hz rfl hr hx rfl (laneFault_flip i hb)]
    · rw [exec_engineRowComplete ha, engineRowComplete_of_class hd hz rfl hr hx rfl (laneFault_cls hb)]
  case kat =>
    intro e ha hs hf
    rw [exec_engineKatEnd ha, exec_engineKatEnd ha, engineKatEnd_of_pass hs hf, engineKatEnd_of_fail hs hf]
    exact ⟨rfl, engState_engTo_self _ _ (by decide), fset_onlyRegs .., rfl⟩
  case stall =>
    intro i r x ha hr hx hst hn ht
    rw [exec_runStallTimeout ha, runStall_of_ready hr hx hst hn ht]
  case norm =>
    intro i r x b hd hr hx hb hst hn hv hs hne hg
    rw [exec_normPassDone (alive_of_running hd).1, normPassDone_of_further hd hr hx hb hst hn hv hs hne hg]
    exact ⟨_, normJoined d i.toNat x, rfl, rfl, rfl, hv, rfl, tget_tset_self ..⟩

end Sys2Proof.Machine
end

section
/-! PROOFS. Huddles gather (R230, R231, R233 to R236, R240, R501, R502): the group commands, frames at the web, the deadlines of instances, and units
that are fenced and whose groups move, each in the case that its conditions leave. -/

namespace Sys2Proof.Machine

/-! ## HUDDLE_CREATE, HUDDLE_MODIFY, HUDDLE_QUERY, HUDDLE_DESTROY (R231, R501, R502) -/

/-- The lowest invalid huddle group is the first that is found. -/
theorem find?_invalid_of_lowest {d : Dev} {i n : Nat} (hi : i < n) (hf : (hgroupAt d i).valid = false)
    (hlow : ∀ j, j < i → (hgroupAt d j).valid = true) :
    (List.range n).find? (fun j => !(hgroupAt d j).valid) = some i := by
  rw [List.find?_range_eq_some]
  exact ⟨by rw [hf, Bool.not_false], List.mem_range.mpr hi, fun j hj => by rw [hlow j hj, Bool.not_true, Bool.not_false]⟩

theorem withHud_of_valid {d : Dev} {i : Nat} {w : Bool} (k : HGroup → Ans) (hi : i < 256) (hv : (hgroupAt d i).valid = true)
    (hw : (hgroupAt d i).world = true → w = true) : withHud d i w k = k (hgroupAt d i) := by
  have hworld : ¬ ((hgroupAt d i).world = true ∧ (!w) = true) := fun ⟨hg, hn⟩ => by simp [hw hg] at hn
  simp only [withHud, ge_iff_le, Nat.not_le.mpr hi, hv, hworld, Bool.not_true, Bool.false_eq_true, ↓reduceIte]

/-- The group that a HUDDLE_CREATE sets: the fields of its body over the defaults. -/
def createdHud (h : CmdHdr) (p : List Byte) : HGroup := hudBody (field p 0 4) p { HGroup.free with valid := true, world := h.world }

/-- A group that its body does not name takes the lowest invalid number. -/
theorem hudCreate_of_lowest {d : Dev} {h : CmdHdr} {p : List Byte} {i : Nat} (hl : 72 ≤ p.length) (hm : (field p 0 4).testBit 16 = false)
    (hc : firstBad (hudChecks true (field p 0 4) p (createdHud h p)) = none) (hw : (createdHud h p).world = true → h.world = true)
    (hd : draining d = false) (hi : i < 256) (hf : (hgroupAt d i).valid = false) (hlow : ∀ j, j < i → (hgroupAt d j).valid = true) :
    hudCreate d h p = .done (hgroupPut d i (createdHud h p)) (beBytes 2 i) := by
  have hworld : ¬ ((createdHud h p).world = true ∧ (!h.world) = true) := fun ⟨hg, hn⟩ => by simp [hw hg] at hn
  unfold createdHud at hc hworld
  simp only [hudCreate, createdHud, Nat.not_lt.mpr hl, checks_of_firstBad_none _ hc, hworld, hd, hm, find?_invalid_of_lowest hi hf hlow,
    Bool.false_eq_true, ↓reduceIte]

section
variable {d : Dev} {h : CmdHdr} {p : List Byte}

theorem hudModify_of_idle (hl : 72 ≤ p.length) (hi : field p 4 2 < 256) (hv : (hgroupAt d (field p 4 2)).valid = true)
    (hw : (hgroupAt d (field p 4 2)).world = true → h.world = true) (hm : firstBad (hudModifyChecks (field p 0 4) p) = none)
    (hc : firstBad (hudChecks false (field p 0 4) p (hudBody (field p 0 4) p (hgroupAt d (field p 4 2)))) = none)
    (hb : hudBusy d (field p 4 2) = false) :
    let e := ((hgroupAt d (field p 4 2)).epoch + 1) % 65536
    hudModify d h p = .done (hgroupPut d (field p 4 2) { hudBody (field p 0 4) p (hgroupAt d (field p 4 2)) with epoch := e }) (beBytes 2 e) := by
  simp only [hudModify, Nat.not_lt.mpr hl, checks_of_firstBad_none _ hm, withHud_of_valid _ hi hv hw, checks_of_firstBad_none _ hc, hb,
    Bool.false_eq_true, ↓reduceIte]

/-- Exported bytes end with their check, so there are some. -/
theorem hudExport_isEmpty (i : Nat) (g : HGroup) : (hudExport i g).isEmpty = false := by
  rw [List.isEmpty_eq_false_iff]
  exact List.append_ne_nil_of_right_ne_nil _ fun h => absurd (congrArg List.length h) (by rw [beBytes_length]; decide)

theorem hudQuery_of_valid (hl : p.length = 2) (hi : field p 0 2 < 256) (hv : (hgroupAt d (field p 0 2)).valid = true)
    (hw : (hgroupAt d (field p 0 2)).world = true → h.world = true) :
    let bs := hudExport (field p 0 2) (hgroupAt d (field p 0 2))
    hudQuery d h p = .parts d (chunksOf 2048 (bs.length + 1) bs) := by
  simp only [hudQuery, needLen_pass _ hl, withHud_of_valid _ hi hv hw, longReply, hudExport_isEmpty, Bool.false_eq_true, ↓reduceIte]

theorem hudDestroy_of_valid (hl : p.length = 2) (hi : field p 0 2 < 256) (hv : (hgroupAt d (field p 0 2)).valid = true)
    (hw : (hgroupAt d (field p 0 2)).world = true → h.world = true) :
    hudDestroy d h p = if hudBusy d (field p 0 2) then .err St.groupBusy else .done (hgroupPut d (field p 0 2) HGroup.free) [] := by
  simp only [hudDestroy, needLen_pass _ hl, withHud_of_valid _ hi hv hw]

end

/-! ## HUDDLE_FRAME_RECEIVE (R232, R233) -/

/-- The slot of a huddle group that a frame's source names, with its number. -/
def hudSlotOf (g : HGroup) (src : Nat) : Option (Nat × SlotE) :=
  (List.range g.slots.length).findSome? (fun i => (g.slots[i]?).bind (fun s => if s.prim = src then some (i, s) else none))

theorem hudSlotOf_of_foreign {g : HGroup} {src : Nat} (h : ∀ x ∈ g.slots, x.prim ≠ src) : hudSlotOf g src = none := by
  refine List.findSome?_eq_none_iff.mpr fun i _ => ?_
  cases hs : g.slots[i]? with
  | none => rfl
  | some x => exact if_neg (h x (List.mem_of_getElem? hs))

theorem hudSlotOf_of_first {g : HGroup} {src : Nat} {sl : SlotE} {more : List SlotE} (hs : g.slots = sl :: more) (hp : sl.prim = src) :
    hudSlotOf g src = some (0, sl) := by
  simp [hudSlotOf, hs, hp, List.range_succ_eq_map]

/-- The device with its front frame taken from the web. -/
def webTaken (d : Dev) (rest : List HFrame) : Dev := { d with hud := { d.hud with inQ := rest } }

section
variable {d : Dev} {f : HFrame} {rest : List HFrame} {g : HGroup} (u : Upset) (hr : running d = true) (hq : d.hud.inQ = f :: rest)
  (hg : hgroupAt d (byteAt f.bytes 32) = g)
include hr hq hg

theorem hudReceive_of_invalid (hv : g.valid = false) : hudReceive d u = hudConflict (webTaken d rest) := by
  subst hg
  simp only [hgroupAt] at hv
  simp only [hudReceive, hgroupAt, webTaken, hq, hr, hv, Bool.not_true, Bool.not_false, Bool.false_eq_true, true_or, ↓reduceIte]

variable (hv : g.valid = true) (hc : fVc f.bytes = 0)
include hv hc

/-- A contribution or a partial whose source has no slot. -/
theorem hudReceive_of_foreign (hk : hudKind f.bytes = 0 ∨ hudKind f.bytes = 1) (hs : hudSlotOf g (fSrc f.bytes) = none) :
    hudReceive d u = bump (webTaken d rest) Reg.SEQ_FOREIGN_CNT := by
  subst hg
  simp only [hgroupAt, hudSlotOf] at hv hs
  rcases hk with hk | hk <;>
    simp only [hudReceive, hgroupAt, webTaken, hq, hr, hv, hc, hs, hk, Bool.not_true, Bool.false_eq_true, ne_eq, not_true_eq_false, or_self,
      ↓reduceIte]

/-- A contribution is for the slot of its source. -/
theorem hudReceive_of_member {i : Nat} {sl : SlotE} (hk : hudKind f.bytes = 0) (hs : hudSlotOf g (fSrc f.bytes) = some (i, sl)) :
    hudReceive d u = hudSlotFrame (webTaken d rest) f (byteAt f.bytes 32) g i sl u := by
  subst hg
  simp only [hgroupAt, hudSlotOf] at hv hs
  simp only [hudReceive, hgroupAt, webTaken, hq, hr, hv, hc, hs, hk, Bool.not_true, Bool.false_eq_true, ne_eq, not_true_eq_false, or_self,
    ↓reduceIte]

end

/-- A contribution that fits its group, comes neither early nor late and finds its slot waiting is converted and added at once. -/
theorem hudSlotFrame_of_waiting {d : Dev} {f : HFrame} {gi i : Nat} {g : HGroup} {sl : SlotE} {x : HInst} (u : Upset) (hm : sl.child = false)
    (hk : hudKind f.bytes = 0) (he : field f.bytes 34 2 = g.epoch) (hf : byteAt f.bytes 46 = g.fmt)
    (hl : 8 * (byteAt f.bytes 47 + 1) = hBytes g false) (ht : fullTick (tickIdx d) (field f.bytes 36 4) ≤ tickIdx d + 1)
    (hcl : ∀ c ∈ g.closed, c.1 ≠ fullTick (tickIdx d) (field f.bytes 36 4))
    (hx : hinstAt d gi (fullTick (tickIdx d) (field f.bytes 36 4)) = some x) (hfi : x.filled.contains i = false) (hab : x.absent.contains i = false)
    (ho : hudOut d x.unit = false) :
    hudSlotFrame d f gi g i sl u = hudFill d x i false f.bytes u := by
  have hopen : g.closed.any (fun c => decide (c.1 = fullTick (tickIdx d) (field f.bytes 36 4) ∧ tickIdx d < c.2 + 8)) = false :=
    List.any_eq_false.mpr fun c hc => by simp [hcl c hc]
  simp only [hudSlotFrame, hm, hk, he, hf, hl, hopen, hx, hfi, hab, ho, gt_iff_lt, Nat.not_lt.mpr ht, beq_self_eq_true, Bool.or_true, Bool.not_true,
    decide_true, and_self, Nat.reduceEqDiff, Bool.false_eq_true, ne_eq, not_true_eq_false, or_self, ↓reduceIte]

/-! ## The deadlines (R234, R235) -/

/-- What is found has the group and the start by which it was looked up. -/
theorem hinstAt_names {d : Dev} {g s : Nat} {x : HInst} (h : hinstAt d g s = some x) : x.group = g ∧ x.start = s := by
  simpa using List.find?_some h

/-- What the close is to meet touches instances alone. -/
theorem hudUpset_only (d : Dev) (g s : Nat) (u : Upset) : ∃ is, hudUpset d g s u = { d with hud := { d.hud with inst := is } } := by
  unfold hudUpset
  split
  · exact ⟨_, rfl⟩
  · exact ⟨_, rfl⟩

@[simp] theorem hgroupAt_hudUpset (d : Dev) (g s : Nat) (u : Upset) (i : Nat) : hgroupAt (hudUpset d g s u) i = hgroupAt d i := by
  obtain ⟨is, h⟩ := hudUpset_only d g s u
  rw [h]
  rfl

@[simp] theorem tickIdx_hudUpset (d : Dev) (g s : Nat) (u : Upset) : tickIdx (hudUpset d g s u) = tickIdx d := by
  obtain ⟨is, h⟩ := hudUpset_only d g s u
  rw [h]
  rfl

section
variable {d : Dev} {g s : Nat} {u : Upset} {x : HInst} (hx : hinstAt (hudUpset d g s u) g s = some x)
include hx

section
variable (ht : x.start + 1 + x.carries ≤ tickIdx d) (hs : hudSlots (hgroupAt d x.group) false x ≠ [])
include ht hs

/-- A member deadline with slots that wait and a carry left. -/
theorem hudMember_of_carry (hc : x.carries < (hgroupAt d x.group).carry) :
    hudMember d g s u = hudCheck (hinstMod (bump (hudUpset d g s u) Reg.HUD_CARRY_CNT) x.group x.start
      (fun y => { y with carries := y.carries + 1 })) g s := by
  simp only [hudMember, hudMemberStep, hx, tickIdx_hudUpset, hgroupAt_hudUpset, Nat.not_lt.mpr ht, List.isEmpty_iff, hs, hc, ↓reduceIte]

/-- A member deadline with slots that wait and no carry left. -/
theorem hudMember_of_last (hc : (hgroupAt d x.group).carry ≤ x.carries) :
    hudMember d g s u = hudCheck (hinstMod (hudUpset d g s u) x.group x.start
      (fun y => hudAbsent (hgroupAt d x.group) y (hudSlots (hgroupAt d x.group) false x))) g s := by
  simp only [hudMember, hudMemberStep, hx, tickIdx_hudUpset, hgroupAt_hudUpset, Nat.not_lt.mpr ht, List.isEmpty_iff, hs, Nat.not_lt.mpr hc,
    ↓reduceIte]

end

/-- The child deadline with CHILD slots that wait: each raises FS_897 and is absent. -/
theorem hudChild_of_waiting (ht : x.start + 1 + (hgroupAt d g).carry + (hgroupAt d g).childT ≤ tickIdx d)
    (hs : hudSlots (hgroupAt d g) true x ≠ []) :
    hudChild d g s u = hudCheck (hinstMod ((hudSlots (hgroupAt d g) true x).foldl (fun e _ => raise e 897) (hudUpset d g s u)) g s
      (fun y => hudAbsent (hgroupAt d g) y (hudSlots (hgroupAt d g) true x))) g s := by
  simp only [hudChild, hx, tickIdx_hudUpset, hgroupAt_hudUpset, Nat.not_lt.mpr ht, List.isEmpty_iff, hs, or_self, ↓reduceIte]

end

/-! ## HUDDLE_FENCE_GO (R240, R248) -/

/-- A field that takes the value it holds leaves the number as it is. -/
theorem putBits_bits_self (n : Nat) {hi lo : Nat} (h : lo ≤ hi) : putBits n hi lo (bits n hi lo) = n := by
  have hpow : 2 ^ (hi + 1) = 2 ^ lo * 2 ^ (hi + 1 - lo) := by rw [← Nat.pow_add, Nat.add_sub_cancel' (Nat.le_succ_of_le h)]
  calc putBits n hi lo (bits n hi lo)
      _ = n / 2 ^ (hi + 1) * 2 ^ (hi + 1) + bits n hi lo * 2 ^ lo + n % 2 ^ lo := by rw [putBits_eq _ _ h, Nat.mod_eq_of_lt (bits_lt n hi lo)]
      _ = (n / 2 ^ lo / 2 ^ (hi + 1 - lo) * 2 ^ (hi + 1 - lo) + n / 2 ^ lo % 2 ^ (hi + 1 - lo)) * 2 ^ lo + n % 2 ^ lo := by
        rw [Nat.div_div_eq_div_mul, hpow, bits, Nat.shiftRight_eq_div_pow, Nat.add_mul, Nat.mul_assoc, Nat.mul_comm (2 ^ (hi + 1 - lo))]
      _ = n := by rw [Nat.div_add_mod', Nat.div_add_mod']

/-- What a write of HUD_CTRL comes to where nothing of it is refused. -/
theorem wordWrite_hudCtrl (old v : Nat) :
    wordWrite [⟨8, 8, .rw, false, false, 1⟩, ⟨4, 4, .trig, true, true, 0⟩, ⟨3, 0, .rw, true, false, 0⟩] old v true true
      = ⟨putBits (putBits old 8 8 (bits v 8 8)) 3 0 (bits v 3 0), putBits 0 4 4 (bits v 4 4), false, false, false⟩ := by
  simp [wordWrite, fldWrite]

/-- With the unlock of its block, a secure whole word comes to a register that is neither posted nor part of a multi-word field. -/
theorem busWrite_of_unlocked {d : Dev} {who : Req} {a inst : Nat} {b : BlkRow} {fs : List Fld} (v : Nat) (hbus : BusReady d)
    (hs : reqSecure d who = true) (hu : Unlocked d who (blkBase a)) (ha : blkBase a + a % 0x1000 = a) (hop : a % 0x4000 / 0x1000 = 0)
    (hb : blkOf a = some (b, inst)) (hf : regFlds a = some fs) (hp : b.posted = false) (hk : b.kind ≠ 0x06) (hm : multiWord a = none)
    (hst : a ≠ Reg.BLK_STATUS (blkBase a)) (hsit : Reg.SIT_CTRL ≠ Reg.BLK_STATUS (blkBase a)) :
    busWrite d who a v 15 = applyReg (consume d who (blkBase a)).2 who b.kind inst a (wordWrite fs (rg d a) v true true) := by
  have hs' : reqSecure (consume d who (blkBase a)).2 who = true := by
    rw [← hs]
    simp only [reqSecure, fbit, rg_consume_ne d who hsit]
  rw [busWrite_of_secure v hbus hs ha hb hf hp, show (consume d who (blkBase a)).1 = true from hu, regWrite_of_granted v hs' ha hop hb hf hk hm,
    rg_consume_ne d who hst]

/-- A write of HUD_CTRL that sets fence_go and keeps spill_en fences the unit it names. -/
theorem busWrite_hudCtrl_go {d : Dev} {who : Req} {v : Nat} (hbus : BusReady d) (hs : reqSecure d who = true) (hu : Unlocked d who 0x02C000)
    (hgo : bits v 4 4 = 1) (hsp : bits v 8 8 = fget d Reg.HUD_CTRL Fd.HUD_CTRL_spill_en) :
    busWrite d who Reg.HUD_CTRL v 15
      = hudFence (rgPut (consume d who 0x02C000).2 Reg.HUD_CTRL (putBits (rg d Reg.HUD_CTRL) 3 0 (bits v 3 0))) (bits v 3 0) := by
  have hblk : blkOf Reg.HUD_CTRL = some (⟨0x0C, 0x02C000, 1, false⟩, 0) := by decide +kernel
  have hflds : regFlds Reg.HUD_CTRL
      = some [⟨8, 8, .rw, false, false, 1⟩, ⟨4, 4, .trig, true, true, 0⟩, ⟨3, 0, .rw, true, false, 0⟩] := by decide +kernel
  have hbase : blkBase Reg.HUD_CTRL = 0x02C000 := by decide
  have hkeep : putBits (rg d Reg.HUD_CTRL) 8 8 (bits v 8 8) = rg d Reg.HUD_CTRL := by
    rw [hsp]
    exact putBits_bits_self _ (by decide)
  have hbit : bit (putBits 0 4 4 1) 4 = true := by decide
  have hunit : bits (putBits (rg d Reg.HUD_CTRL) 3 0 (bits v 3 0)) 3 0 = bits v 3 0 := bits_putBits_of_lt _ (by decide) (bits_lt v 3 0)
  rw [busWrite_of_unlocked v hbus hs (hbase ▸ hu) (by decide) (by decide) hblk hflds rfl (by decide) (by decide +kernel) (by decide) (by decide),
    hbase, wordWrite_hudCtrl, hkeep, hgo]
  simp only [applyReg, show Reg.HUD_CTRL % 0x4000 = 0x100 by decide, hbit, hunit, Nat.reduceEqDiff, Nat.reduceLT, and_self, ↓reduceIte]

/-! ## HUDDLE_GROUP_MOVE (R240) -/

/-- The table of served groups after those that p names were given the unit v. -/
def movedInto (p : Nat → Bool) (v : Option Nat) (gs : List Nat) (m : List (Nat × Option Nat)) : List (Nat × Option Nat) :=
  gs.foldl (fun m g => if p g then tset none m g v else m) m

theorem tget_movedInto (p : Nat → Bool) (v : Option Nat) (gs : List Nat) (m : List (Nat × Option Nat)) (g : Nat) :
    tget none (movedInto p v gs m) g = if g ∈ gs ∧ p g = true then v else tget none m g := by
  induction gs generalizing m with
  | nil => simp [movedInto]
  | cons a gs ih =>
    change tget none (movedInto p v gs (if p a = true then tset none m a v else m)) g = _
    rw [ih]
    by_cases ha : g = a
    · subst ha
      cases hp : p g <;> simp
    · have hrest : tget none (if p a = true then tset none m a v else m) g = tget none m g := by
        split
        · exact tget_tset_ne _ _ _ _ ha
        · rfl
      simp only [hrest, List.mem_cons, ha, false_or]

/-- The device whose groups that p names are served by unit v, none of them awaiting the move of unit u. -/
def unitsMoved (d : Dev) (u : Nat) (p : Nat → Bool) (v : Option Nat) : Dev :=
  { d with hud := { d.hud with moved := movedInto p v (List.range 256) d.hud.moved, moveAt := tset none d.hud.moveAt u none } }

theorem foldl_moved (e : Dev) (p : Nat → Bool) (v : Option Nat) (gs : List Nat) :
    gs.foldl (fun d g => if p g then { d with hud := { d.hud with moved := tset none d.hud.moved g v } } else d) e
      = { e with hud := { e.hud with moved := movedInto p v gs e.hud.moved } } := by
  refine List.foldl_hom (l := gs) (init := e.hud.moved) (fun m => ({ e with hud := { e.hud with moved := m } } : Dev)) fun m g => ?_
  split <;> rfl

/-- From the tick boundary after its fence, the groups of a unit that is not ACTIVE go to the next ACTIVE one. -/
theorem hudMove_of_next {d : Dev} {u t v : Nat} (hm : tget none d.hud.moveAt u = some t) (ht : t < tickIdx d) (hs : hudState d u ≠ 0)
    (hv : ((List.range 15).map (fun i => (u + 1 + i) % 16)).find? (fun v => decide (hudState d v = 0)) = some v) :
    hudMove d u = unitsMoved d u (fun g => decide (hudUnit d g = u)) (some v) := by
  simp only [hudMove, hm, Nat.not_le.mpr ht, hs, hv, foldl_moved, unitsMoved, ↓reduceIte]

theorem hudUnit_unitsMoved (d : Dev) (u v : Nat) (p : Nat → Bool) {g : Nat} (hg : g < 256) :
    hudUnit (unitsMoved d u p (some v)) g = if p g then v else hudUnit d g := by
  simp only [hudUnit, unitsMoved, tget_movedInto, List.mem_range, hg, true_and]
  split <;> rfl

/-! ## The meanings -/

section
variable {s : State} (h : CmdHdr) (p : List Byte)

theorem exec_huddleCreate : exec (.huddleCreate h p) s = act (runCmd ⟨0x0201, false, false⟩ h p fun d _ => hudCreate d h p) s := rfl

theorem exec_huddleModify : exec (.huddleModify h p) s = act (runCmd ⟨0x0202, false, false⟩ h p fun d _ => hudModify d h p) s := rfl

theorem exec_huddleQuery : exec (.huddleQuery h p) s = act (runCmd ⟨0x0203, false, true⟩ h p fun d _ => hudQuery d h p) s := rfl

theorem exec_huddleDestroy : exec (.huddleDestroy h p) s = act (runCmd ⟨0x0204, false, false⟩ h p fun d _ => hudDestroy d h p) s := rfl

end

section
variable {s : State} (ha : alive s.dev = true)
include ha

theorem exec_huddleFrameReceive (u : Upset) : exec (.huddleFrameReceive u) s = .next (s.after (hudReceive s.dev u)) :=
  act_next (f := fun d => hudReceive d u) ha

theorem exec_huddleMemberDeadline (g : BitVec 8) (start : BitVec 32) (u : Upset) :
    exec (.huddleMemberDeadline g ⟨start, u⟩) s = .next (s.after (hudMember s.dev g.toNat (fullTick (tickIdx s.dev) start.toNat) u)) :=
  act_next (f := fun d => hudMember d g.toNat (fullTick (tickIdx d) start.toNat) u) ha

theorem exec_huddleChildDeadline (g : BitVec 8) (start : BitVec 32) (u : Upset) :
    exec (.huddleChildDeadline g ⟨start, u⟩) s = .next (s.after (hudChild s.dev g.toNat (fullTick (tickIdx s.dev) start.toNat) u)) :=
  act_next (f := fun d => hudChild d g.toNat (fullTick (tickIdx d) start.toNat) u) ha

theorem exec_huddleFenceGo (who : Req) (v : Word) : exec (.huddleFenceGo who v) s = .next (s.after (busWrite s.dev who Reg.HUD_CTRL v.toNat 15)) :=
  actReg_next (f := fun d => busWrite d who Reg.HUD_CTRL v.toNat 15) ha

theorem exec_huddleGroupMove (u : BitVec 4) : exec (.huddleGroupMove u) s = .next (s.after (hudMove s.dev u.toNat)) :=
  act_next (f := fun d => hudMove d u.toNat) ha

end

/-- Settles O27: each command and each event takes the one case that its conditions leave. -/
theorem huddlesGather : Obligations.HuddlesGather := by
  unfold Obligations.HuddlesGather
  refine ⟨fun s h p => ⟨?create, ?modify, ?query, ?destroy⟩, fun s => ⟨?frame, ?deadlines, ?fence, ?move⟩⟩
  case create =>
    intro d mask g i hadm hl hm hc hw hd hi hf hlow
    rw [exec_huddleCreate]
    exact cmd_done hadm rfl (hudCreate_of_lowest hl hm hc hw hd hi hf hlow)
  case modify =>
    intro d mask i old g e hadm hl _ _ hi hv hw hm hc hb
    rw [exec_huddleModify]
    exact cmd_done hadm rfl (hudModify_of_idle hl hi hv hw hm hc hb)
  case query =>
    intro d g bs hadm hl hi hv hw
    rw [exec_huddleQuery]
    exact cmd_query_parts hadm rfl (hudQuery_of_valid hl hi hv hw)
  case destroy =>
    intro d i hadm hl hi hv hw
    have hbody := hudDestroy_of_valid (h := h) hl hi hv hw
    rw [exec_huddleDestroy]
    constructor
    · intro hb
      rw [if_neg (Bool.eq_false_iff.mp hb)] at hbody
      exact cmd_done hadm rfl hbody
    · intro hb
      rw [if_pos hb] at hbody
      exact cmd_err hadm hbody
  case frame =>
    intro f rest u d1 gi g st hr hq
    rw [exec_huddleFrameReceive (alive_of_running hr).1]
    refine ⟨fun hv => ?_, fun hv hc hk hs => ?_, fun sl more x hv hc hs hp hm hk he hf hl ht hcl hx hfi hab ho => ?_⟩
    · rw [hudReceive_of_invalid u hr hq rfl hv]
      rfl
    · rw [hudReceive_of_foreign u hr hq rfl hv hc hk (hudSlotOf_of_foreign hs)]
      rfl
    · rw [hudReceive_of_member u hr hq rfl hv hc hk (hudSlotOf_of_first hs hp),
        hudSlotFrame_of_waiting (d := webTaken s.dev rest) u hm hk he hf hl ht hcl hx hfi hab ho]
      rfl
  case deadlines =>
    intro g start u x t e hg ha hx
    refine ⟨fun ht hs => ⟨fun hc => ?_, fun hc => ?_⟩, fun sl hs ht => ?_⟩
    · rw [exec_huddleMemberDeadline ha, hudMember_of_carry hx ht hs hc]
    · rw [exec_huddleMemberDeadline ha, hudMember_of_last hx ht hs hc]
    · obtain ⟨hgrp, -⟩ := hinstAt_names hx
      simp only [hg, hgrp] at hs ht ⊢
      rw [exec_huddleChildDeadline ha, hudChild_of_waiting hx ht (by rw [hs]; exact List.cons_ne_nil _ _), hs]
      rfl
  case fence =>
    intro who v hbus hs hu hgo hsp
    rw [exec_huddleFenceGo hbus.1, busWrite_hudCtrl_go hbus hs hu hgo hsp]
  case move =>
    intro u t v ha hm ht hs hv _
    rw [exec_huddleGroupMove ha, hudMove_of_next hm ht hs hv]
    refine ⟨_, rfl, fun g hg hu => ?_, fun g hg hu => ?_, rfl⟩
    · rw [hudUnit_unitsMoved _ _ _ _ hg, if_pos (decide_eq_true hu)]
    · rw [hudUnit_unitsMoved _ _ _ _ hg, if_neg (by simpa using hu)]

end Sys2Proof.Machine
end

section
/-! PROOFS. The device after a power-on reset (R254, R390, R445, R528, R543, R567, R570), and what every command packet meets before its body runs
(R269, R460, R487, R495, R534). -/

namespace Sys2Proof.Machine

/-! ## The reset -/

/-- Settles O2: every clause is a fact about the one device that the reset leaves, so it is evaluated. -/
theorem resetLeavesTheSpecsValues : Obligations.ResetLeavesTheSpecsValues := by
  unfold Obligations.ResetLeavesTheSpecsValues
  intro d
  have hports : ∀ p, p < 128 → portEn d p = false := by decide +kernel
  have hlinks : ∀ l, l < 128 → linkStep d l = 0 := by decide +kernel
  have hquota : (List.range 4).map (fun k => fget d (Reg.MEM_QUOTA k) Fd.MEM_QUOTA_quota) = [0x180, 0x200, 0x060, 0x020] := by decide +kernel
  have hpools : poolFree d.mem.sram = 3728270 ∧ poolFree d.mem.hpool = 16777216 := by decide +kernel
  refine ⟨rfl, rfl, ?_, rfl, ?_, rfl, ?_, rfl, ?_, ?_, ?_, hquota, ?_, ?_, ?_, rfl, rfl, rfl, rfl, rfl, ?_, rfl, hports, hlinks, hpools⟩
  all_goals decide +kernel

/-! ## Before the body of a command (R487, R495, R460, R534) -/

section
variable {row : Row} {h : CmdHdr} {d : Dev} (p : List Byte) (body : Dev → ReplyTo → Ans)

/-- While the pair restarts, a command of Sitonel's stays queued. -/
theorem runCmd_of_restarting (hop : seqDecoded row.code = false) (hr : fbit d Reg.SIT_STATUS Fd.SIT_STATUS_restarting = true) :
    runCmd row h p body d = d := by
  simp only [runCmd, hop, hr, Bool.not_false, and_self, ↓reduceIte]

variable (hgo : seqDecoded row.code = true ∨ fbit d Reg.SIT_STATUS Fd.SIT_STATUS_restarting = false)
include hgo

/-- A command starts unless it is Sitonel's and the pair restarts. -/
theorem not_restarting : ¬((!seqDecoded row.code) = true ∧ fbit d Reg.SIT_STATUS Fd.SIT_STATUS_restarting = true) := by
  rintro ⟨hop, hr⟩
  rcases hgo with h | h
  · simp [h] at hop
  · simp [h] at hr

theorem runCmd_of_worldDenied
    (hw : (h.world = true ∧ secureOk (dequeue d h row.code) h.via = false) ∨ (h.world = false ∧ row.secure = true)) :
    runCmd row h p body d = reply (dequeue d h row.code) (hdrReply h row.code) St.worldDenied [] := by
  rw [runCmd, if_neg (not_restarting hgo)]
  rcases hw with ⟨hw, hvia⟩ | ⟨hw, hrow⟩
  · rw [if_pos (by simp [hw, hvia])]
  · rw [if_neg (by simp [hw]), if_pos (by simp [hw, hrow])]

theorem runCmd_of_logFull (hvia : h.world = true → secureOk (dequeue d h row.code) h.via = true) (hrow : row.secure = true → h.world = true)
    (hq : row.query = false) (hl : logFull (dequeue d h row.code) = true) :
    runCmd row h p body d = reply (bump (dequeue d h row.code) Reg.LOG_REFUSE_CNT) (hdrReply h row.code) St.logFull [] := by
  have hworld : ¬(h.world = true ∧ (!secureOk (dequeue d h row.code) h.via) = true) := fun ⟨hw, hn⟩ => by simp [hvia hw] at hn
  have hsecure : ¬(row.secure = true ∧ (!h.world) = true) := fun ⟨hs, hn⟩ => by simp [hrow hs] at hn
  rw [runCmd, if_neg (not_restarting hgo), if_neg hworld, if_neg hsecure, if_pos (by simp [hq, hl])]

end

/-- A row of the opcode tables is run as a command packet with its code, its world and its kind. -/
def RunsAsRow (h : CmdHdr) (p : List Byte) (r : Instr × Nat × Bool × Bool) : Prop :=
  ∃ body, ∀ s, exec r.1 s = act (runCmd ⟨r.2.1, r.2.2.1, r.2.2.2⟩ h p body) s

/-- One byte as a field (R9). -/
theorem field_one (p : List Byte) : field p 0 1 = byteAt p 0 := by
  cases p with
  | nil => rfl
  | cons b bs => simp [field, byteAt, beNat]

/-- Settles O7: every row runs its packet by `runCmd`, whose guards come in the order of the clauses. -/
theorem commandsKeepTheirWorld : Obligations.CommandsKeepTheirWorld := by
  unfold Obligations.CommandsKeepTheirWorld
  intro s h p b x y c op secure query hmem d allowed ha
  have hrow : RunsAsRow h p (c, op, secure, query) := by
    rw [← field_one] at hmem
    revert hmem
    generalize (c, op, secure, query) = r
    revert r
    simp only [List.forall_mem_cons, List.not_mem_nil, false_implies, implies_true, and_true]
    and_intros
    all_goals exact ⟨_, fun _ => rfl⟩
  obtain ⟨body, hexec⟩ := hrow
  have hallowed : secureOk d h.via = allowed := rfl
  clear_value allowed
  subst hallowed
  rw [hexec, act_next ha]
  refine ⟨fun hop hr => by rw [runCmd_of_restarting (row := ⟨op, secure, query⟩) p body hop hr], fun hgo => ⟨fun hw => ?_, fun hvia hsec hq hl => ?_⟩⟩
  · rw [runCmd_of_worldDenied (row := ⟨op, secure, query⟩) p body hgo hw]
  · rw [runCmd_of_logFull (row := ⟨op, secure, query⟩) p body hgo hvia hsec hq hl]

end Sys2Proof.Machine
end

section
/-! PROOFS. Fields of one register that lie apart, and the replay commands (R270, R487). -/

namespace Sys2Proof.Machine

/-! ## Fields of one register -/

/-- Two fields of 32-bit words that share no bit. -/
abbrev FldsApart (f g : Nat × Nat) : Prop := f.2 ≤ f.1 ∧ f.1 < 32 ∧ g.2 ≤ g.1 ∧ g.1 < 32 ∧ (f.1 < g.2 ∨ g.1 < f.2)

/-- A field stays where one that lies apart from it is set, in its own register or in another. -/
theorem fget_fset_apart (d : Dev) (a b : Nat) {f g : Nat × Nat} (v : Nat) (h : FldsApart f g) : fget (fset d a f v) b g = fget d b g := by
  obtain ⟨hf, hf32, hg, hg32, hlt⟩ := h
  by_cases hb : b = a
  · subst hb
    rcases hlt with hlt | hlt
    · exact fget_fset_above d b f g v hlt hg32 hg hf
    · exact fget_fset_below d b f g v hlt hf32 hg hf
  · exact fget_fset_ne d f g v hb

/-- A one-bit field is the bit that it reads as a number. -/
theorem fbit_eq_decide (d : Dev) (a : Nat) (f : Nat × Nat) : fbit d a f = decide (fget d a (f.2, f.2) = 1) := testBit_eq_bits _ _

theorem fbit_fset_apart (d : Dev) (a b : Nat) {f g : Nat × Nat} (v : Nat) (h : FldsApart f (g.2, g.2)) : fbit (fset d a f v) b g = fbit d b g := by
  rw [fbit_eq_decide, fbit_eq_decide, fget_fset_apart d a b v h]

theorem fbit_fset_ne (d : Dev) {a b : Nat} (f g : Nat × Nat) (v : Nat) (h : b ≠ a) : fbit (fset d a f v) b g = fbit d b g := by
  simp only [fbit, rg_fset_ne d f v h]

theorem fbit_fset_self (d : Dev) (a : Nat) {f : Nat × Nat} (v : Nat) (hf : f.1 = f.2) (h : f.2 < 32) :
    fbit (fset d a f v) a f = decide (v % 2 = 1) := by
  obtain ⟨i, j⟩ := f
  obtain rfl : i = j := hf
  rw [fbit_eq_decide, fget_fset_self d a (i, i) v h (Nat.le_refl i), Nat.add_sub_cancel_left, Nat.pow_one]

/-! ## Replay (R270) -/

/-- The handle of a region has its reserved bits 0. -/
theorem handleOk_of_regionOf {d : Dev} {h n : Nat} {r : Region} (hr : regionOf d h = some (n, r)) : handleOk h = true := by
  unfold regionOf at hr
  dsimp only at hr
  split at hr
  · next hok => exact decide_eq_true hok.2.1
  · cases hr

/-- The recorded entries of a region whose sequence lies in the range that REPLAY_START gives. -/
def replayRange (d : Dev) (p : List Byte) (r : Region) : List (List Byte) :=
  (walkEntries d r (d.mem.hbm.length + 1) 0).filter fun e => decide (field p 4 6 ≤ field e 4 6 ∧ field e 4 6 ≤ field p 10 6)

/-- The device with another state of the bell beside its registers. -/
def bellPut (d : Dev) (x : Bell) : Dev := { d with bell := x }

@[simp] theorem bellPut_bell (d : Dev) (x : Bell) : (bellPut d x).bell = x := rfl
@[simp] theorem bellPut_regs (d : Dev) (x : Bell) : (bellPut d x).regs = d.regs := rfl

/-- The device that replays entries `es` with the offset given. -/
def replaying (d : Dev) (p : List Byte) (es : List (List Byte)) : Dev :=
  bellPut (fset d Reg.REPLAY_CTRL Fd.REPLAY_CTRL_active 1)
    { (fset d Reg.REPLAY_CTRL Fd.REPLAY_CTRL_active 1).bell with replay := es, repOff := signed 64 (field p 16 8), repDone := [], repRegion := field p 0 4 }

/-- The device whose replay has ended. -/
def replayEnded (d : Dev) : Dev :=
  bellPut (fset d Reg.REPLAY_CTRL Fd.REPLAY_CTRL_active 0) { d.bell with replay := [], repDone := [], repRegion := 0 }

theorem replayActive_replaying (d : Dev) (p : List Byte) (es : List (List Byte)) : replayActive (replaying d p es) = true := by
  rw [replayActive, replaying, fbit_congr (bellPut_regs ..), fbit_fset_self _ _ _ rfl (by decide), decide_eq_true rfl]

theorem replaying_bell (d : Dev) (p : List Byte) (es : List (List Byte)) :
    (replaying d p es).bell = { d.bell with replay := es, repOff := signed 64 (field p 16 8), repDone := [], repRegion := field p 0 4 } := by
  rw [replaying, bellPut_bell, fset_bell]

theorem replayActive_replayEnded (d : Dev) : replayActive (replayEnded d) = false := by
  rw [replayActive, replayEnded, fbit_congr (bellPut_regs ..), fbit_fset_self _ _ _ rfl (by decide), decide_eq_false (by decide)]

/-- REPLAY_START over a region of the requester's world: one replay at a time. -/
theorem replayStart_of_region {d : Dev} {h : CmdHdr} {p : List Byte} {n : Nat} {r : Region} (hl : p.length = 28)
    (hr : regionOf d (field p 0 4) = some (n, r)) (hw : r.secure = h.world) (h0 : field p 24 4 = 0) :
    replayStart d h p = if replayActive d then .err St.replayBusy else .done (replaying d p (replayRange d p r)) [] := by
  have hchk : firstBad [(2, handleOk (field p 0 4)), (24, decide (field p 24 4 = 0))] = none := by
    simp only [firstBad, handleOk_of_regionOf hr, h0, decide_true, ↓reduceIte]
  rw [replayStart, needLen_pass _ hl, checks_of_firstBad_none _ hchk, hr]
  simp only [hw, ne_eq, not_true_eq_false, ↓reduceIte]
  rfl

theorem replayStop_of_empty (d : Dev) : replayStop d [] = .done (replayEnded d) [] := needLen_pass _ rfl

section
variable {s : State} (h : CmdHdr) (p : List Byte)

theorem exec_replayStart : exec (.replayStart h p) s = act (runCmd ⟨0x0610, false, false⟩ h p fun d _ => replayStart d h p) s := rfl

theorem exec_replayStop : exec (.replayStop h p) s = act (runCmd ⟨0x0611, false, false⟩ h p fun d _ => replayStop d p) s := rfl

end

/-- Settles O30: the bodies of the two commands in the cases that their conditions leave. -/
theorem replayCommands : Obligations.ReplayCommands := by
  unfold Obligations.ReplayCommands
  intro s h p
  refine ⟨?start, ?stop⟩
  case start =>
    intro d n r hadm hl hr hw h0
    have hbody := replayStart_of_region hl hr hw h0
    rw [exec_replayStart]
    refine ⟨fun hoff => ⟨replaying d p (replayRange d p r), ?_, replayActive_replaying .., replaying_bell ..⟩, fun hon => ?_⟩
    · rw [hoff] at hbody
      exact cmd_done hadm rfl hbody
    · rw [hon] at hbody
      exact cmd_err hadm hbody
  case stop =>
    intro d hadm hp
    subst hp
    rw [exec_replayStop]
    exact ⟨replayEnded d, cmd_done hadm rfl (replayStop_of_empty d), replayActive_replayEnded d, rfl⟩

end Sys2Proof.Machine
end

section
/-! PROOFS. Writes of the bell's registers by a secure requester (R254, R263, R264, R275): what a write whose locked fields are granted comes to,
and what each register of the bell does with it. -/

namespace Sys2Proof.Machine

/-! ## Writes whose locked fields are granted (R14, R517) -/

/-- No field that asks for an unlock is refused: the writer holds one, or the write changes no such field. -/
def Granted (fs : List Fld) (old v : Nat) (u : Bool) : Prop :=
  u = true ∨ ∀ g ∈ fs, g.lock = true → fldChange g (bits old g.hi g.lo) (bits v g.hi g.lo) = false

section
variable {fs : List Fld} {old v : Nat} {u : Bool} (hg : Granted fs old v u)
include hg

theorem wordWrite_lock_of_granted : (wordWrite fs old v u true).lock = false := by
  refine Bool.eq_false_iff.mpr fun hlock => ?_
  obtain ⟨hu, g, hmem, hl, hc⟩ := (wordWrite_lock_iff ..).mp hlock
  rcases hg with h | h
  · exact Bool.noConfusion (h.symm.trans hu)
  · exact Bool.noConfusion ((h g hmem hl).symm.trans hc)

/-- Every field comes to what its access code makes of a secure write. -/
theorem wordWrite_of_granted {f : Fld} (hfs : FieldsDescend fs) (hf : f ∈ fs) :
    bits (wordWrite fs old v u true).new f.hi f.lo = fldKept f (bits old f.hi f.lo) (bits v f.hi f.lo)
      ∧ bits (wordWrite fs old v u true).act f.hi f.lo = fldActs f (bits v f.hi f.lo) := by
  refine wordWrite_of_not_stopped old v u true hfs hf ?_
  rintro ⟨hc, ⟨hl, hu⟩ | ⟨-, hs⟩⟩
  · rcases hg with h | h
    · exact Bool.noConfusion (h.symm.trans hu)
    · exact Bool.noConfusion ((h f hf hl).symm.trans hc)
  · exact Bool.noConfusion hs

end

theorem wordWrite_deny_of_secure (fs : List Fld) (old v : Nat) (u : Bool) : (wordWrite fs old v u true).deny = false :=
  Bool.eq_false_iff.mpr fun h => absurd ((wordWrite_deny_iff ..).mp h).1 (by decide)

/-! ## The bell's block -/

/-- The base of the bell's block, and its row of the block map (R511). -/
abbrev bellBase : Nat := 0x01C000
abbrev bellBlk : BlkRow := ⟨0x08, 0x01C000, 1, false⟩

/-- The device after a write has used the unlock of the bell's block. -/
def bellSpent (d : Dev) (who : Req) : Dev := (consume d who bellBase).2

/-- What a secure write of v comes to at a register of the bell with fields `fs`. -/
def bellWord (d : Dev) (who : Req) (a : Nat) (fs : List Fld) (v : Nat) : Wr :=
  wordWrite fs (rg d a) v (fbit d (Reg.BLK_STATUS bellBase) (unlockFld who)) true

section
variable (d : Dev) (who : Req)

@[simp] theorem bellSpent_bell : (bellSpent d who).bell = d.bell := fset_bell ..
@[simp] theorem bellSpent_clk : (bellSpent d who).clk = d.clk := fset_clk ..
@[simp] theorem bellSpent_bus : (bellSpent d who).bus = d.bus := fset_bus ..

theorem rg_bellSpent {a : Nat} (h : a ≠ 0x01C004) : rg (bellSpent d who) a = rg d a := rg_consume_ne d who h

end

/-- A granted write at a register of the bell that is no part of a multi-word field reaches it, and uses the unlock. -/
theorem busWrite_bell {d : Dev} {who : Req} {a : Nat} {fs : List Fld} (v : Nat) (hbus : BusReady d) (hs : reqSecure d who = true)
    (hb : blkOf a = some (bellBlk, 0)) (hf : regFlds a = some fs) (hbase : blkBase a = bellBase) (ha : bellBase + a % 0x1000 = a)
    (hop : a % 0x4000 / 0x1000 = 0) (hm : multiWord a = none) (hst : a ≠ 0x01C004)
    (hg : Granted fs (rg d a) v (fbit d (Reg.BLK_STATUS bellBase) (unlockFld who))) :
    busWrite d who a v 15 = applyReg (bellSpent d who) who 0x08 0 a (bellWord d who a fs v) := by
  have hs' : reqSecure (bellSpent d who) who = true := by
    rw [← hs]
    simp only [reqSecure, fbit, rg_bellSpent d who (show Reg.SIT_CTRL ≠ 0x01C004 by decide)]
  have hw : wordWrite fs (rg (bellSpent d who) a) v (fbit d (Reg.BLK_STATUS bellBase) (unlockFld who)) true = bellWord d who a fs v := by
    rw [rg_bellSpent d who hst, bellWord]
  have hlock : (bellWord d who a fs v).lock = false := wordWrite_lock_of_granted hg
  have hdeny : (bellWord d who a fs v).deny = false := wordWrite_deny_of_secure ..
  rw [busWrite_of_secure v hbus hs (by rw [hbase, ha]) hb hf rfl, hbase]
  change regWrite (bellSpent d who) who a v (fbit d (Reg.BLK_STATUS bellBase) (unlockFld who)) = _
  simp only [regWrite, hbase, ha, hb, hf, hs', hop, aliasWord, hw, hlock, hdeny, hm, ite_self, Bool.false_eq_true, Nat.reduceEqDiff, false_and,
    ↓reduceIte]

/-! ## A word that is stored -/

theorem fget_rgPut_self (d : Dev) (a n : Nat) {f : Nat × Nat} (hl : f.2 ≤ f.1) (h : f.1 < 32) : fget (rgPut d a n) a f = bits n f.1 f.2 := by
  rw [fget, rg_rgPut_self, bits_mod n hl h]

theorem fget_rgPut_ne (d : Dev) {a b : Nat} (n : Nat) (f : Nat × Nat) (h : b ≠ a) : fget (rgPut d a n) b f = fget d b f := by
  rw [fget, rg_rgPut_ne d n h, fget]

theorem fbit_rgPut_self (d : Dev) (a n : Nat) {f : Nat × Nat} (h : f.2 < 32) : fbit (rgPut d a n) a f = bit n f.2 := by
  rw [fbit_eq_decide, fget_rgPut_self d a n (Nat.le_refl _) h]
  exact (testBit_eq_bits ..).symm

theorem fbit_rgPut_ne (d : Dev) {a b : Nat} (n : Nat) (f : Nat × Nat) (h : b ≠ a) : fbit (rgPut d a n) b f = fbit d b f := by
  rw [fbit, rg_rgPut_ne d n h, fbit]

/-- A bit is 0 where its one-bit field reads 0, and 1 where it reads 1. -/
theorem bit_of_bits_eq_zero {n i : Nat} (h : bits n i i = 0) : bit n i = false := by rw [bit, testBit_eq_bits, h, decide_eq_false (by decide)]
theorem bit_of_bits_eq_one {n i : Nat} (h : bits n i i = 1) : bit n i = true := by rw [bit, testBit_eq_bits, h, decide_eq_true rfl]

theorem rg64_congr {d e : Dev} {a : Nat} (h0 : rg e a = rg d a) (h1 : rg e (a + 4) = rg d (a + 4)) : rg64 e a = rg64 d a := by
  rw [rg64, h0, h1, rg64]

theorem tickLen_congr {d e : Dev} (h : rg e Reg.BELL_TICK = rg d Reg.BELL_TICK) : tickLen e = tickLen d := by
  rw [tickLen, fget, h, tickLen, fget]

/-! ## BELL_CTRL (R254, R275) -/

/-- The fields of BELL_CTRL. -/
def bellCtrlFlds : List Fld := [⟨15, 8, .rw, false, false, 8⟩, ⟨7, 7, .rw, false, false, 0⟩, ⟨6, 6, .rw, false, false, 0⟩,
  ⟨5, 5, .trig, true, false, 0⟩, ⟨4, 4, .rw, false, false, 0⟩, ⟨1, 0, .rw, false, false, 0⟩]

theorem regFlds_bellCtrl : regFlds Reg.BELL_CTRL = some bellCtrlFlds := by decide +kernel

theorem applyReg_bellCtrl (d : Dev) (who : Req) (w : Wr) :
    applyReg d who 0x08 0 Reg.BELL_CTRL w = bellCtrl d (rg d Reg.BELL_CTRL) w := by
  simp only [applyReg, show Reg.BELL_CTRL % 0x4000 = 0x100 by decide, Nat.reduceEqDiff, Nat.reduceLT, ↓reduceIte]

/-- Of BELL_CTRL only set_go asks for an unlock. -/
theorem granted_bellCtrl {old v : Nat} {u : Bool} (h : u = true ∨ bits v 5 5 = 0) : Granted bellCtrlFlds old v u := by
  refine h.imp_right fun h5 g hmem hl => ?_
  simp only [bellCtrlFlds, List.mem_cons, List.not_mem_nil, or_false] at hmem
  rcases hmem with rfl | rfl | rfl | rfl | rfl | rfl
  case inr.inr.inr.inl => exact decide_eq_false (by simpa using h5)
  all_goals cases hl

/-- What a granted write of BELL_CTRL stores and what of it acts. -/
theorem bellWord_ctrl {d : Dev} {who : Req} {v : Nat} (h : Unlocked d who bellBase ∨ bits v 5 5 = 0) :
    bits (bellWord d who Reg.BELL_CTRL bellCtrlFlds v).new 4 4 = bits v 4 4
      ∧ bits (bellWord d who Reg.BELL_CTRL bellCtrlFlds v).new 1 0 = bits v 1 0
      ∧ bits (bellWord d who Reg.BELL_CTRL bellCtrlFlds v).act 5 5 = bits v 5 5 := by
  have hg : Granted bellCtrlFlds (rg d Reg.BELL_CTRL) v (fbit d (Reg.BLK_STATUS bellBase) (unlockFld who)) := granted_bellCtrl h
  have hfs := regFlds_descend regFlds_bellCtrl
  exact ⟨(wordWrite_of_granted hg (f := ⟨4, 4, .rw, false, false, 0⟩) hfs (by simp [bellCtrlFlds])).1,
    (wordWrite_of_granted hg (f := ⟨1, 0, .rw, false, false, 0⟩) hfs (by simp [bellCtrlFlds])).1,
    (wordWrite_of_granted hg (f := ⟨5, 5, .trig, true, false, 0⟩) hfs (by simp [bellCtrlFlds])).2⟩

theorem busWrite_bellCtrl {d : Dev} {who : Req} {v : Nat} (hbus : BusReady d) (hs : reqSecure d who = true)
    (h : Unlocked d who bellBase ∨ bits v 5 5 = 0) :
    busWrite d who Reg.BELL_CTRL v 15
      = bellCtrl (bellSpent d who) (rg d Reg.BELL_CTRL) (bellWord d who Reg.BELL_CTRL bellCtrlFlds v) := by
  rw [busWrite_bell v hbus hs (by decide +kernel) regFlds_bellCtrl (by decide) (by decide) (by decide) (by decide +kernel) (by decide)
    (granted_bellCtrl h), applyReg_bellCtrl, rg_bellSpent d who (by decide)]

section
variable {d : Dev} {old : Nat} {w : Wr}

/-- A write that turns enable on. -/
theorem bellCtrl_of_enabled (ho : bit old 4 = false) (hn : bit w.new 4 = true) (hgo : bit w.act 5 = false) :
    ∃ x, bellCtrl d old w = bellEnable x true ∧ x.regs = (rgPut d Reg.BELL_CTRL w.new).regs := by
  simp only [bellCtrl, ho, hn, hgo, Bool.false_eq_true, Bool.true_eq_false, ne_eq, not_false_eq_true, ↓reduceIte]
  refine ⟨_, rfl, ?_⟩
  split <;> rfl

/-- A write that turns enable off; the role stands while the old enable is 1. -/
theorem bellCtrl_of_disabled (ho : bit old 4 = true) (hn : bit w.new 4 = false) (hgo : bit w.act 5 = false) :
    ∃ x, bellCtrl d old w = bellEnable x false := by
  have hnew : bit (putBits w.new 1 0 (bits old 1 0)) 4 = false := by
    rw [bit, testBit_eq_bits, bits_putBits_above _ _ (by decide) (by decide), ← testBit_eq_bits]
    exact hn
  simp only [bellCtrl, ho, hnew, hgo, Bool.false_eq_true, ne_eq, not_false_eq_true, ↓reduceIte]
  exact ⟨_, rfl⟩

/-- A write of set_go that leaves enable 0: beside the counter only the time of the last PPS edge may be taken anew. -/
theorem bellCtrl_of_set (ho : bit old 4 = false) (hn : bit w.new 4 = false) (hgo : bit w.act 5 = true) :
    ∃ t, bellCtrl d old w =
      let e := bellSet (rgPut d Reg.BELL_CTRL w.new)
      bellPut e { e.bell with ppsSeen := t } := by
  simp only [bellCtrl, ho, hn, hgo, ne_eq, not_true_eq_false, Bool.false_eq_true, ↓reduceIte]
  split
  · exact ⟨_, rfl⟩
  · exact ⟨_, rfl⟩

end

/-- The state that an enable takes (R254): a MASTER without PPS is LOCKED, any other bell acquires. -/
def enabledState (d : Dev) : Nat := if isMaster d = true ∧ ppsEn d = false then 2 else 1

/-- The bell has seen its parent's link in service. -/
def upNoted (d : Dev) (l : Nat) : Dev := if bellServes d l ∧ !d.bell.upSeen then bellPut d { d.bell with upSeen := true } else d

theorem upNoted_cases (d : Dev) (l : Nat) : upNoted d l = d ∨ upNoted d l = bellPut d { d.bell with upSeen := true } := by
  unfold upNoted
  split
  · exact .inr rfl
  · exact .inl rfl

/-- BELL_STATUS shows parent entry k with link l, and it is the active one (R253, R258). -/
def parentShown (d : Dev) (k l : Nat) : Dev :=
  let e := fset (fset d Reg.BELL_STATUS Fd.BELL_STATUS_parent_idx k) Reg.BELL_STATUS Fd.BELL_STATUS_parent_link l
  bellPut e { e.bell with parent := some (k, l) }

theorem rg_parentShown (d : Dev) (k l : Nat) {a : Nat} (h : a ≠ Reg.BELL_STATUS) : rg (parentShown d k l) a = rg d a := by
  rw [parentShown, rg_congr (bellPut_regs ..), rg_fset_ne _ _ _ h, rg_fset_ne _ _ _ h]

theorem bellState_parentShown (d : Dev) (k l : Nat) : bellState (parentShown d k l) = bellState d := by
  rw [bellState, parentShown, fget_congr (bellPut_regs ..), fget_fset_apart _ _ _ _ (by decide), fget_fset_apart _ _ _ _ (by decide), bellState]

/-- A look at the parents where entry k with link l is active (R258). -/
theorem bellWatch_of_active {d : Dev} {k l : Nat} (hs : bellState d ≠ 0) (ha : activeParent d = some (k, l)) :
    bellWatch d = if (upNoted d l).bell.parent = some (k, l) then upNoted d l
      else if (upNoted d l).bell.parent.isSome then bellEntry (bump (parentShown (upNoted d l) k l) Reg.BELL_PARENT_SWITCH_CNT) 3 (k * 256 + l)
      else parentShown (upNoted d l) k l := by
  simp only [bellWatch, hs, ha, ↓reduceIte]
  rfl

/-- What a look at the parents can do (R254, R258). -/
theorem bellWatch_cases (d : Dev) :
    bellWatch d = d
      ∨ (bellState d = 2 ∧ isMaster d = false ∧ bellWatch d = holdover d)
      ∨ ∃ k l, bellWatch d = upNoted d l ∨ bellWatch d = parentShown (upNoted d l) k l
        ∨ ((upNoted d l).bell.parent.isSome = true
          ∧ bellWatch d = bellEntry (bump (parentShown (upNoted d l) k l) Reg.BELL_PARENT_SWITCH_CNT) 3 (k * 256 + l)) := by
  by_cases hs : bellState d = 0
  · exact .inl (if_pos hs)
  · cases ha : activeParent d with
    | none =>
      have hw : bellWatch d = if bellState d = 2 ∧ (!isMaster d) = true then holdover d else d := by simp only [bellWatch, hs, ha, ↓reduceIte]
      rw [hw]
      split
      · next h => exact .inr (.inl ⟨h.1, by simpa using h.2, rfl⟩)
      · exact .inl rfl
    | some x =>
      obtain ⟨k, l⟩ := x
      refine .inr (.inr ⟨k, l, ?_⟩)
      rw [bellWatch_of_active hs ha]
      split
      · exact .inl rfl
      · split
        · next h => exact .inr (.inr ⟨h, rfl⟩)
        · exact .inr (.inl rfl)

/-- Where no parent was active and no FOLLOWER is LOCKED, a look at the parents changes what BELL_STATUS shows of them alone. -/
theorem bellWatch_of_fresh {d : Dev} (hp : d.bell.parent = none) (hs : bellState d = 2 → isMaster d = true) :
    bellState (bellWatch d) = bellState d ∧ ∀ a, a ≠ Reg.BELL_STATUS → rg (bellWatch d) a = rg d a := by
  have hup : ∀ l, (upNoted d l).regs = d.regs ∧ (upNoted d l).bell.parent = none := fun l => by
    rcases upNoted_cases d l with h | h <;> rw [h] <;> exact ⟨rfl, hp⟩
  rcases bellWatch_cases d with h | ⟨h2, hm, -⟩ | ⟨k, l, h | h | ⟨hsome, -⟩⟩
  · rw [h]
    exact ⟨rfl, fun _ _ => rfl⟩
  · rw [hs h2] at hm
    cases hm
  · rw [h]
    exact ⟨fget_congr (hup l).1 _ _, fun a _ => rg_congr (hup l).1 a⟩
  · rw [h, bellState_parentShown]
    exact ⟨fget_congr (hup l).1 _ _, fun a ha => (rg_parentShown _ k l ha).trans (rg_congr (hup l).1 a)⟩
  · rw [(hup l).2] at hsome
    cases hsome

theorem bellState_bellTo (d : Dev) {v : Nat} (h : v < 16) : bellState (bellTo d v) = v := by
  rw [bellState, bellTo, fget_fset_self _ _ _ _ (by decide) (by decide)]
  exact Nat.mod_eq_of_lt h

theorem rg_bellTo (d : Dev) (v : Nat) {a : Nat} (h : a ≠ Reg.BELL_STATUS) : rg (bellTo d v) a = rg d a := rg_fset_ne d _ _ h

theorem isMaster_congr {d e : Dev} (h : rg e Reg.BELL_CTRL = rg d Reg.BELL_CTRL) : isMaster e = isMaster d := by
  rw [isMaster, fget, h, isMaster, fget]

theorem ppsEn_congr {d e : Dev} (h : rg e Reg.BELL_CTRL = rg d Reg.BELL_CTRL) : ppsEn e = ppsEn d := by
  rw [ppsEn, fbit, h, ppsEn, fbit]

/-- The bell beside its registers as a change of enable leaves it. -/
def bellFresh (d : Dev) : Dev :=
  bellPut d { d.bell with good := 0, wasSet := false, incs := [], ppsSeen := ns d, parent := none, upSeen := false }

theorem bellEnable_true (d : Dev) : bellState (bellEnable d true) = enabledState d ∧ ∀ a, a ≠ Reg.BELL_STATUS → rg (bellEnable d true) a = rg d a := by
  have hen : bellEnable d true = bellWatch (bellTo (bellFresh d) (enabledState (bellFresh d))) := by
    simp only [bellEnable, enabledState, ↓reduceIte, Bool.not_eq_true']
    rfl
  have hctrl : rg (bellFresh d) Reg.BELL_CTRL = rg d Reg.BELL_CTRL := rfl
  have hst : enabledState (bellFresh d) = enabledState d := by
    rw [enabledState, isMaster_congr hctrl, ppsEn_congr hctrl, enabledState]
  have hlt : enabledState d < 16 := by
    unfold enabledState
    split <;> decide
  have hto := bellState_bellTo (bellFresh d) hlt
  have hm : enabledState d = 2 → isMaster d = true := by
    unfold enabledState
    split
    · next h => exact fun _ => h.1
    · exact fun h => absurd h (by decide)
  have hmaster : isMaster (bellTo (bellFresh d) (enabledState d)) = isMaster d := isMaster_congr ((rg_bellTo _ _ (by decide)).trans hctrl)
  obtain ⟨hstate, hrest⟩ := bellWatch_of_fresh (d := bellTo (bellFresh d) (enabledState d)) rfl (by rw [hto, hmaster]; exact hm)
  rw [hen, hst]
  exact ⟨hstate.trans hto, fun a ha => (hrest a ha).trans ((rg_bellTo _ _ ha).trans rfl)⟩

theorem bellEnable_false (d : Dev) : bellState (bellEnable d false) = 0 ∧ rg (bellEnable d false) Reg.BELL_INC = incNom := by
  have hen : bellEnable d false = rgPut (bellTo (bellFresh d) 0) Reg.BELL_INC incNom := by
    simp only [bellEnable, Bool.false_eq_true, ↓reduceIte]
    rfl
  rw [hen]
  refine ⟨?_, ?_⟩
  · rw [bellState, fget_rgPut_ne _ _ _ (by decide)]
    exact bellState_bellTo _ (by decide)
  · rw [rg_rgPut_self]
    decide

/-- set_go in FREE, before any link was admitted, loads the counter (R252, R275). -/
theorem bellSet_of_free {d : Dev} (hs : bellState d = 0) (hu : d.clk.inUse = false) : bellSet d = bellLoad d (rg64 d Reg.BELL_SET_0 * 2 ^ 32) := by
  rw [bellSet, if_pos ⟨hs, by rw [hu]; rfl⟩]

end Sys2Proof.Machine
end

section
/-! PROOFS. BELL_TICK, BELL_STEP_CTRL and BELL_STEP_ORIGIN (R263, R264, R513), the set of the counter, and the writes of the bell's registers. -/

namespace Sys2Proof.Machine

/-! ## BELL_TICK (R263) -/

/-- The fields of BELL_TICK. -/
def bellTickFlds : List Fld := [⟨31, 31, .ro, false, false, 0⟩, ⟨30, 30, .w1c, false, false, 0⟩, ⟨6, 4, .rw, false, false, 2⟩,
  ⟨3, 3, .trig, true, false, 0⟩, ⟨2, 0, .ro, false, false, 2⟩]

theorem regFlds_bellTick : regFlds Reg.BELL_TICK = some bellTickFlds := by decide +kernel

theorem applyReg_bellTick (d : Dev) (who : Req) (w : Wr) :
    applyReg d who 0x08 0 Reg.BELL_TICK w =
      if bit w.act 3 then tickGo (rgPut d Reg.BELL_TICK w.new) (rg d Reg.BELL_TICK) else rgPut d Reg.BELL_TICK w.new := by
  simp only [applyReg, show Reg.BELL_TICK % 0x4000 = 0x12C by decide, Nat.reduceEqDiff, Nat.reduceLT, ↓reduceIte]

/-- What a write of BELL_TICK with the unlock stores and what of it acts: the length in force is read only. -/
theorem bellWord_tick {d : Dev} {who : Req} (v : Nat) (hu : Unlocked d who bellBase) :
    bits (bellWord d who Reg.BELL_TICK bellTickFlds v).new 6 4 = bits v 6 4
      ∧ bits (bellWord d who Reg.BELL_TICK bellTickFlds v).new 2 0 = bits (rg d Reg.BELL_TICK) 2 0
      ∧ bits (bellWord d who Reg.BELL_TICK bellTickFlds v).act 3 3 = bits v 3 3 := by
  have hg : Granted bellTickFlds (rg d Reg.BELL_TICK) v (fbit d (Reg.BLK_STATUS bellBase) (unlockFld who)) := .inl hu
  have hfs := regFlds_descend regFlds_bellTick
  exact ⟨(wordWrite_of_granted hg (f := ⟨6, 4, .rw, false, false, 2⟩) hfs (by simp [bellTickFlds])).1,
    (wordWrite_of_granted hg (f := ⟨2, 0, .ro, false, false, 2⟩) hfs (by simp [bellTickFlds])).1,
    (wordWrite_of_granted hg (f := ⟨3, 3, .trig, true, false, 0⟩) hfs (by simp [bellTickFlds])).2⟩

/-- The device with a tick change armed: length code `sel` from t ns on. -/
def tickArmed (d : Dev) (sel t : Nat) : Dev := fset (bellPut d { d.bell with tickArm := some (sel, t) }) Reg.BELL_TICK Fd.BELL_TICK_pend 1

/-- go with a length that exists and a time that the device can keep arms the change. -/
theorem tickGo_of_valid {d : Dev} (old : Nat) (hs : fget d Reg.BELL_TICK Fd.BELL_TICK_next_sel ≤ 5) (hm : rg64 d Reg.BELL_TICK_AT_0 % 8192 = 0)
    (ht : ns d + 8192 < rg64 d Reg.BELL_TICK_AT_0) :
    tickGo d old = tickArmed d (fget d Reg.BELL_TICK Fd.BELL_TICK_next_sel) (rg64 d Reg.BELL_TICK_AT_0) :=
  if_pos ⟨hs, hm, ht⟩

/-- A write of BELL_TICK with go arms the change that it names (R263). -/
theorem busWrite_bellTick_go {d : Dev} {who : Req} {v : Nat} (hbus : BusReady d) (hs : reqSecure d who = true) (hu : Unlocked d who bellBase)
    (hgo : bits v 3 3 = 1) (hsel : bits v 6 4 ≤ 5) (hm : rg64 d Reg.BELL_TICK_AT_0 % 8192 = 0) (ht : ns d + 8192 < rg64 d Reg.BELL_TICK_AT_0) :
    busWrite d who Reg.BELL_TICK v 15
      = tickArmed (rgPut (bellSpent d who) Reg.BELL_TICK (bellWord d who Reg.BELL_TICK bellTickFlds v).new) (bits v 6 4)
        (rg64 d Reg.BELL_TICK_AT_0) := by
  obtain ⟨hsel', -, hact⟩ := bellWord_tick v hu
  rw [busWrite_bell v hbus hs (by decide +kernel) regFlds_bellTick (by decide) (by decide) (by decide) (by decide +kernel) (by decide) (.inl hu),
    applyReg_bellTick, if_pos (bit_of_bits_eq_one (hact.trans hgo))]
  generalize (bellWord d who Reg.BELL_TICK bellTickFlds v).new = n at hsel'
  have hat : rg64 (rgPut (bellSpent d who) Reg.BELL_TICK n) Reg.BELL_TICK_AT_0 = rg64 d Reg.BELL_TICK_AT_0 :=
    rg64_congr ((rg_rgPut_ne _ _ (by decide)).trans (rg_bellSpent d who (by decide)))
      ((rg_rgPut_ne _ _ (by decide)).trans (rg_bellSpent d who (by decide)))
  have hns : ns (rgPut (bellSpent d who) Reg.BELL_TICK n) = ns d := ns_congr ((rgPut_clk ..).trans (bellSpent_clk ..))
  have hnext : fget (rgPut (bellSpent d who) Reg.BELL_TICK n) Reg.BELL_TICK Fd.BELL_TICK_next_sel = bits v 6 4 :=
    (fget_rgPut_self _ _ _ (by decide) (by decide)).trans hsel'
  rw [tickGo_of_valid _ (by rwa [hnext]) (by rwa [hat]) (by rwa [hat, hns]), hat, hnext]

/-- Arming a change leaves the length in force. -/
theorem tickLen_tickArmed (d : Dev) (sel t : Nat) : tickLen (tickArmed d sel t) = tickLen d := by
  rw [tickLen, tickArmed, fget_fset_apart _ _ _ _ (by decide), fget_congr (bellPut_regs ..), tickLen]

theorem tickArmed_bell (d : Dev) (sel t : Nat) : (tickArmed d sel t).bell = { d.bell with tickArm := some (sel, t) } := by
  rw [tickArmed, fset_bell, bellPut_bell]

theorem fbit_pend_tickArmed (d : Dev) (sel t : Nat) : fbit (tickArmed d sel t) Reg.BELL_TICK Fd.BELL_TICK_pend = true := by
  rw [tickArmed, fbit_fset_self _ _ _ rfl (by decide), decide_eq_true rfl]

/-! ## BELL_STEP_CTRL (R264) -/

/-- The fields of BELL_STEP_CTRL. -/
def bellStepFlds : List Fld := [⟨31, 31, .rw, false, false, 0⟩, ⟨30, 30, .w1c, false, false, 0⟩, ⟨19, 0, .rw, false, false, 0⟩]

theorem regFlds_bellStep : regFlds Reg.BELL_STEP_CTRL = some bellStepFlds := by decide +kernel

theorem applyReg_bellStep (d : Dev) (who : Req) (w : Wr) :
    applyReg d who 0x08 0 Reg.BELL_STEP_CTRL w = stepCtrl d (rg d Reg.BELL_STEP_CTRL) w.new := by
  simp only [applyReg, show Reg.BELL_STEP_CTRL % 0x4000 = 0x138 by decide, Nat.reduceEqDiff, Nat.reduceLT, ↓reduceIte]

/-- No field of BELL_STEP_CTRL asks for an unlock. -/
theorem granted_bellStep (old v : Nat) (u : Bool) : Granted bellStepFlds old v u := by
  refine .inr fun g hmem hl => ?_
  simp only [bellStepFlds, List.mem_cons, List.not_mem_nil, or_false] at hmem
  rcases hmem with rfl | rfl | rfl
  all_goals cases hl

theorem bellWord_step (d : Dev) (who : Req) (v : Nat) :
    bits (bellWord d who Reg.BELL_STEP_CTRL bellStepFlds v).new 31 31 = bits v 31 31
      ∧ bits (bellWord d who Reg.BELL_STEP_CTRL bellStepFlds v).new 19 0 = bits v 19 0 := by
  have hg := granted_bellStep (rg d Reg.BELL_STEP_CTRL) v (fbit d (Reg.BLK_STATUS bellBase) (unlockFld who))
  have hfs := regFlds_descend regFlds_bellStep
  exact ⟨(wordWrite_of_granted hg (f := ⟨31, 31, .rw, false, false, 0⟩) hfs (by simp [bellStepFlds])).1,
    (wordWrite_of_granted hg (f := ⟨19, 0, .rw, false, false, 0⟩) hfs (by simp [bellStepFlds])).1⟩

/-- The device with step ticks of period p and origin o armed. -/
def stepsArmed (d : Dev) (p o : Nat) : Dev :=
  bellPut (fset d Reg.BELL_STEP_CTRL Fd.BELL_STEP_CTRL_arm 1) { d.bell with stepIn := some (p, o), stepNext := none, stepAt := some (tickIdx d) }

/-- The device whose arming was refused: the word before the write, and err. -/
def stepsRefused (d : Dev) (old : Nat) : Dev := fset (rgPut d Reg.BELL_STEP_CTRL old) Reg.BELL_STEP_CTRL Fd.BELL_STEP_CTRL_err 1

theorem stepArm_eq (d : Dev) (old : Nat) :
    stepArm d old = if rg64 d Reg.BELL_STEP_ORIGIN_0 % tickLen d = 0
      then stepsArmed d (fget1 d Reg.BELL_STEP_CTRL Fd.BELL_STEP_CTRL_period) (rg64 d Reg.BELL_STEP_ORIGIN_0) else stepsRefused d old := rfl

theorem stepArmed_stepsArmed (d : Dev) (p o : Nat) : stepArmed (stepsArmed d p o) = true := by
  rw [stepArmed, stepsArmed, fbit_congr (bellPut_regs ..), fbit_fset_self _ _ _ rfl (by decide), decide_eq_true rfl]

theorem stepArmed_stepsRefused {d : Dev} {old : Nat} (h : bit old 31 = false) : stepArmed (stepsRefused d old) = false := by
  rw [stepArmed, stepsRefused, fbit_fset_apart _ _ _ _ (by decide), fbit_rgPut_self _ _ _ (by decide)]
  exact h

theorem fbit_err_stepsRefused (d : Dev) (old : Nat) : fbit (stepsRefused d old) Reg.BELL_STEP_CTRL Fd.BELL_STEP_CTRL_err = true := by
  rw [stepsRefused, fbit_fset_self _ _ _ rfl (by decide), decide_eq_true rfl]

theorem stepsRefused_bell (d : Dev) (old : Nat) : (stepsRefused d old).bell = d.bell := by rw [stepsRefused, fset_bell, rgPut_bell]

/-- A write that sets arm while step ticks are not armed arms them where their origin stands on a tick boundary (R264). -/
theorem busWrite_bellStep_arm {d : Dev} {who : Req} {v : Nat} (hbus : BusReady d) (hs : reqSecure d who = true) (hv : bits v 31 31 = 1)
    (ha : fbit d Reg.BELL_STEP_CTRL Fd.BELL_STEP_CTRL_arm = false) :
    let x := rgPut (bellSpent d who) Reg.BELL_STEP_CTRL (bellWord d who Reg.BELL_STEP_CTRL bellStepFlds v).new
    tickIdx x = tickIdx d ∧ x.bell = d.bell
      ∧ busWrite d who Reg.BELL_STEP_CTRL v 15 = if rg64 d Reg.BELL_STEP_ORIGIN_0 % tickLen d = 0
        then stepsArmed x (max 1 (bits v 19 0)) (rg64 d Reg.BELL_STEP_ORIGIN_0) else stepsRefused x (rg d Reg.BELL_STEP_CTRL) := by
  obtain ⟨harm, hper⟩ := bellWord_step d who v
  rw [busWrite_bell v hbus hs (by decide +kernel) regFlds_bellStep (by decide) (by decide) (by decide) (by decide +kernel) (by decide)
    (granted_bellStep ..), applyReg_bellStep, rg_bellSpent d who (by decide)]
  generalize (bellWord d who Reg.BELL_STEP_CTRL bellStepFlds v).new = n at harm hper
  intro x
  have hold : bit (rg d Reg.BELL_STEP_CTRL) 31 = false := ha
  have horg : rg64 x Reg.BELL_STEP_ORIGIN_0 = rg64 d Reg.BELL_STEP_ORIGIN_0 :=
    rg64_congr ((rg_rgPut_ne _ _ (by decide)).trans (rg_bellSpent d who (by decide)))
      ((rg_rgPut_ne _ _ (by decide)).trans (rg_bellSpent d who (by decide)))
  have hlen : tickLen x = tickLen d := tickLen_congr ((rg_rgPut_ne _ _ (by decide)).trans (rg_bellSpent d who (by decide)))
  have hns : ns x = ns d := ns_congr ((rgPut_clk ..).trans (bellSpent_clk ..))
  have hperiod : fget1 x Reg.BELL_STEP_CTRL Fd.BELL_STEP_CTRL_period = max 1 (bits v 19 0) :=
    congrArg (max 1) ((fget_rgPut_self _ _ _ (by decide) (by decide)).trans hper)
  have hctrl : stepCtrl (bellSpent d who) (rg d Reg.BELL_STEP_CTRL) n = stepArm x (rg d Reg.BELL_STEP_CTRL) := by
    simp only [stepCtrl, hold, bit_of_bits_eq_one (harm.trans hv)]
    rfl
  refine ⟨by rw [tickIdx, hns, hlen, tickIdx], (rgPut_bell ..).trans (bellSpent_bell ..), ?_⟩
  rw [hctrl, stepArm_eq, horg, hlen, hperiod]

/-! ## BELL_STEP_ORIGIN (R264, R513) -/

/-- The field of a word that is stored whole. -/
def wholeFlds : List Fld := [⟨31, 0, .rw, false, false, 0⟩]

theorem regFlds_stepOrigin1 : regFlds Reg.BELL_STEP_ORIGIN_1 = some wholeFlds := by decide +kernel

/-- A write of a word that is stored whole. -/
theorem wordWrite_whole {old v : Nat} (u : Bool) (ho : old < 2 ^ 32) (hv : v < 2 ^ 32) :
    wordWrite wholeFlds old v u true = ⟨v, 0, false, false, false⟩ := by
  have hput : putBits old 31 0 (bits v 31 0) = v := by
    rw [putBits_eq _ _ (by decide)]
    simp only [bits, Nat.shiftRight_zero]
    omega
  simp only [wordWrite, wholeFlds, fldWrite, hput, List.foldl_cons, List.foldl_nil, Bool.and_false, Bool.false_and, Bool.not_true, Bool.or_self,
    Bool.false_eq_true, ↓reduceIte]

/-- The device after the word that waited under a key was taken (R513). -/
def heldTaken (d : Dev) (k : Nat) : Dev := { d with bus := { d.bus with held := tset none d.bus.held k none } }

/-- The write of the origin's highest word reaches both words while step ticks are not armed. -/
theorem applyPair_stepOrigin {d : Dev} (who : Req) (w : Wr) (ha : stepArmed d = false) :
    applyPair d who Reg.BELL_STEP_ORIGIN_0 w
      = rg64Put (heldTaken d (busKey who Reg.BELL_STEP_ORIGIN_0)) Reg.BELL_STEP_ORIGIN_0
        ((tget none d.bus.held (busKey who Reg.BELL_STEP_ORIGIN_0)).getD (rg d Reg.BELL_STEP_ORIGIN_0) + 2 ^ 32 * w.new) := by
  have harm : ¬stepArmed (heldTaken d (busKey who Reg.BELL_STEP_ORIGIN_0)) = true := fun h => Bool.noConfusion (h.symm.trans ha)
  simp only [applyPair, ↓reduceIte]
  exact if_neg harm

/-- The write of the origin's highest word while step ticks are not armed: both words take their value, the lowest the one that its own write left
to wait. -/
theorem busWrite_stepOrigin1 {d : Dev} {who : Req} {v : Nat} (hbus : BusReady d) (hs : reqSecure d who = true) (hv : v < 2 ^ 32)
    (ha : stepArmed d = false) :
    busWrite d who Reg.BELL_STEP_ORIGIN_1 v 15
      = rg64Put (heldTaken (bellSpent d who) (busKey who Reg.BELL_STEP_ORIGIN_0)) Reg.BELL_STEP_ORIGIN_0
        ((tget none d.bus.held (busKey who Reg.BELL_STEP_ORIGIN_0)).getD (rg d Reg.BELL_STEP_ORIGIN_0) + 2 ^ 32 * v) := by
  have hs' : reqSecure (bellSpent d who) who = true := by
    rw [← hs]
    simp only [reqSecure, fbit, rg_bellSpent d who (show Reg.SIT_CTRL ≠ 0x01C004 by decide)]
  have hb : blkOf Reg.BELL_STEP_ORIGIN_1 = some (bellBlk, 0) := by decide +kernel
  have hm : multiWord Reg.BELL_STEP_ORIGIN_1 = some (Reg.BELL_STEP_ORIGIN_0, 2) := by decide +kernel
  have hbase : blkBase Reg.BELL_STEP_ORIGIN_1 = bellBase := by decide
  have ha1 : bellBase + Reg.BELL_STEP_ORIGIN_1 % 0x1000 = Reg.BELL_STEP_ORIGIN_1 := by decide
  have hop : Reg.BELL_STEP_ORIGIN_1 % 0x4000 / 0x1000 = 0 := by decide
  have hrw : wholeFlds.any (fun f => decide (f.acc = .rw)) = true := by decide
  have hne : Reg.BELL_STEP_ORIGIN_1 ≠ Reg.BELL_STEP_ORIGIN_0 := by decide
  have hw := fun u => wordWrite_whole u (rg_lt (bellSpent d who) Reg.BELL_STEP_ORIGIN_1) hv
  have hlow : rg (bellSpent d who) Reg.BELL_STEP_ORIGIN_0 = rg d Reg.BELL_STEP_ORIGIN_0 := rg_bellSpent d who (by decide)
  have harm : stepArmed (bellSpent d who) = false := by
    rw [← ha, stepArmed, fbit, rg_bellSpent d who (by decide), stepArmed, fbit]
  have hreg : ∀ u, regWrite (bellSpent d who) who Reg.BELL_STEP_ORIGIN_1 v u
      = applyPair (bellSpent d who) who Reg.BELL_STEP_ORIGIN_0 ⟨v, 0, false, false, false⟩ := fun u => by
    simp only [regWrite, hbase, ha1, hb, regFlds_stepOrigin1, hs', hop, aliasWord, hw, hm, hrw, hne, Bool.false_eq_true, Nat.reduceEqDiff, false_and,
      ↓reduceIte]
  rw [busWrite_of_secure v hbus hs (by rw [hbase, ha1]) hb regFlds_stepOrigin1 rfl, hbase]
  refine (hreg _).trans ?_
  rw [applyPair_stepOrigin who _ harm, hlow, bellSpent_bus]

/-! ## The counter is set (R254, R275) -/

theorem bellPut_clk (d : Dev) (x : Bell) : (bellPut d x).clk = d.clk := rfl

theorem bellLoad_clk (d : Dev) (t : Nat) :
    (bellLoad d t).clk = { d.clk with now := t % 2 ^ 96, ticked := t % 2 ^ 96 / 2 ^ 32 / tickLen d } := rfl

theorem bellLoad_bell (d : Dev) (t : Nat) :
    (bellLoad d t).bell = { d.bell with
      ppsOut := d.bell.ppsOut.map (fun x => x + t % 2 ^ 96 / 2 ^ 32 - ns d), ppsSec := none, stepAt := some (t % 2 ^ 96 / 2 ^ 32 / tickLen d) } := rfl

/-! ## The meanings -/

section
variable {s : State} (who : Req) (v : Word) (ha : alive s.dev = true)
include ha

theorem exec_bellEnable : exec (.bellEnable who v) s = .next (s.after (busWrite s.dev who Reg.BELL_CTRL v.toNat 15)) :=
  actReg_next (f := fun d => busWrite d who Reg.BELL_CTRL v.toNat 15) ha

theorem exec_bellSetGo : exec (.bellSetGo who v) s = .next (s.after (busWrite s.dev who Reg.BELL_CTRL v.toNat 15)) :=
  actReg_next (f := fun d => busWrite d who Reg.BELL_CTRL v.toNat 15) ha

theorem exec_bellTickGo : exec (.bellTickGo who v) s = .next (s.after (busWrite s.dev who Reg.BELL_TICK v.toNat 15)) :=
  actReg_next (f := fun d => busWrite d who Reg.BELL_TICK v.toNat 15) ha

theorem exec_bellStepArm : exec (.bellStepArm who v) s = .next (s.after (busWrite s.dev who Reg.BELL_STEP_CTRL v.toNat 15)) :=
  actReg_next (f := fun d => busWrite d who Reg.BELL_STEP_CTRL v.toNat 15) ha

theorem exec_bellStepOriginWrite :
    exec (.bellStepOriginWrite who v) s = .next (s.after (busWrite s.dev who Reg.BELL_STEP_ORIGIN_1 v.toNat 15)) :=
  actReg_next (f := fun d => busWrite d who Reg.BELL_STEP_ORIGIN_1 v.toNat 15) ha

end

/-- The highest bit of a word as a field. -/
theorem bits_of_msb {v : Word} (h : v.msb = true) : bits v.toNat 31 31 = 1 := by
  have hlt := v.isLt
  rw [BitVec.msb_eq_decide, decide_eq_true_eq] at h
  unfold bits
  omega

/-- A one-bit field of BELL_CTRL that reads as the number x. -/
theorem bit_of_fget {d : Dev} {a i : Nat} {b : Bool} (h : fget d a (i, i) = b.toNat) : bit (rg d a) i = b := by
  cases b with
  | false => exact bit_of_bits_eq_zero h
  | true => exact bit_of_bits_eq_one h

/-- Settles O29: each write is granted, and its register does what the written fields ask for. -/
theorem bellRegisterWrites : Obligations.BellRegisterWrites := by
  unfold Obligations.BellRegisterWrites
  intro s who v d hbus hs
  refine ⟨?on, ?off, ?set, ?tick, ?arm, ?origin⟩
  case on =>
    intro hv hgo ho _ _
    obtain ⟨hn, hrole, hact⟩ := bellWord_ctrl (d := d) (who := who) (.inr hgo)
    rw [exec_bellEnable who v hbus.1, busWrite_bellCtrl hbus hs (.inr hgo)]
    obtain ⟨x, hx, hregs⟩ := bellCtrl_of_enabled (d := bellSpent d who) (bit_of_fget (b := false) ho) (bit_of_bits_eq_one (hn.trans hv))
      (bit_of_bits_eq_zero (hact.trans hgo))
    obtain ⟨hstate, hrest⟩ := bellEnable_true x
    have hctrl := hrest Reg.BELL_CTRL (by decide)
    have hfld : ∀ f : Nat × Nat, f.2 ≤ f.1 → f.1 < 32 → fget (bellEnable x true) Reg.BELL_CTRL f
        = bits (bellWord d who Reg.BELL_CTRL bellCtrlFlds v.toNat).new f.1 f.2 := fun f hl h => by
      rw [fget, hctrl, rg_congr hregs]
      exact fget_rgPut_self _ _ _ hl h
    refine ⟨bellEnable x true, by rw [hx], ?_, (hfld (4, 4) (by decide) (by decide)).trans (hn.trans hv),
      (hfld (1, 0) (by decide) (by decide)).trans hrole⟩
    rw [isMaster_congr hctrl, ppsEn_congr hctrl]
    exact hstate
  case off =>
    intro hv hgo ho
    obtain ⟨hn, -, hact⟩ := bellWord_ctrl (d := d) (who := who) (.inr hgo)
    rw [exec_bellEnable who v hbus.1, busWrite_bellCtrl hbus hs (.inr hgo)]
    obtain ⟨x, hx⟩ := bellCtrl_of_disabled (d := bellSpent d who) (bit_of_fget (b := true) ho) (bit_of_bits_eq_zero (hn.trans hv))
      (bit_of_bits_eq_zero (hact.trans hgo))
    exact ⟨bellEnable x false, by rw [hx], bellEnable_false x⟩
  case set =>
    intro hu hgo hv ho hfree huse t
    obtain ⟨hn, -, hact⟩ := bellWord_ctrl (d := d) (who := who) (.inl hu)
    rw [exec_bellSetGo who v hbus.1, busWrite_bellCtrl hbus hs (.inl hu)]
    obtain ⟨u, hx⟩ := bellCtrl_of_set (d := bellSpent d who) (bit_of_fget (b := false) ho) (bit_of_bits_eq_zero (hn.trans hv))
      (bit_of_bits_eq_one (hact.trans hgo))
    rw [hx]
    generalize (bellWord d who Reg.BELL_CTRL bellCtrlFlds v.toNat).new = n
    have hstate : bellState (rgPut (bellSpent d who) Reg.BELL_CTRL n) = 0 := by
      rw [bellState, fget_rgPut_ne _ _ _ (by decide), fget, rg_bellSpent d who (by decide)]
      exact hfree
    have hclk : (rgPut (bellSpent d who) Reg.BELL_CTRL n).clk = d.clk := (rgPut_clk ..).trans (bellSpent_clk ..)
    have hbell : (rgPut (bellSpent d who) Reg.BELL_CTRL n).bell = d.bell := (rgPut_bell ..).trans (bellSpent_bell ..)
    have hat : rg64 (rgPut (bellSpent d who) Reg.BELL_CTRL n) Reg.BELL_SET_0 = rg64 d Reg.BELL_SET_0 :=
      rg64_congr ((rg_rgPut_ne _ _ (by decide)).trans (rg_bellSpent d who (by decide)))
        ((rg_rgPut_ne _ _ (by decide)).trans (rg_bellSpent d who (by decide)))
    have hlen : tickLen (rgPut (bellSpent d who) Reg.BELL_CTRL n) = tickLen d :=
      tickLen_congr ((rg_rgPut_ne _ _ (by decide)).trans (rg_bellSpent d who (by decide)))
    have hns : ns (rgPut (bellSpent d who) Reg.BELL_CTRL n) = ns d := ns_congr hclk
    rw [bellSet_of_free hstate (by rw [hclk]; exact huse), hat]
    refine ⟨_, rfl, ?_, ?_⟩
    · rw [bellPut_clk, bellLoad_clk, hclk, hlen]
    · rw [bellPut_bell, bellLoad_bell, hbell, hlen, hns]
  case tick =>
    intro hu hgo hsel hm ht
    rw [exec_bellTickGo who v hbus.1, busWrite_bellTick_go hbus hs hu hgo hsel hm ht]
    obtain ⟨-, hlen, -⟩ := bellWord_tick (d := d) (who := who) v.toNat hu
    refine ⟨_, rfl, ?_, fbit_pend_tickArmed .., ?_⟩
    · rw [tickArmed_bell, rgPut_bell, bellSpent_bell]
    · rw [tickLen_tickArmed, tickLen, fget_rgPut_self _ _ _ (by decide) (by decide)]
      exact congrArg tickOf hlen
  case arm =>
    intro hv ha
    obtain ⟨hidx, hbell, hw⟩ := busWrite_bellStep_arm hbus hs (bits_of_msb hv) ha
    rw [exec_bellStepArm who v hbus.1, hw]
    refine ⟨fun h0 => ?_, fun h0 => ?_⟩
    · rw [if_pos h0]
      refine ⟨_, rfl, stepArmed_stepsArmed .., ?_⟩
      rw [stepsArmed, bellPut_bell, hbell, hidx]
    · rw [if_neg h0]
      exact ⟨_, rfl, stepArmed_stepsRefused ha, fbit_err_stepsRefused .., (stepsRefused_bell ..).trans hbell⟩
  case origin =>
    intro low ha hlow
    have hlt := v.isLt
    rw [exec_bellStepOriginWrite who v hbus.1, busWrite_stepOrigin1 hbus hs hlt ha]
    exact ⟨_, rfl, rg64_rg64Put_self _ _ (by omega), (rg64Put_bell ..).trans (bellSpent_bell d who)⟩

end Sys2Proof.Machine
end

section
/-! PROOFS. What a look at the bell's parents leaves alone: a raise, an entry of the log and the bell's own registers touch no link, neither bell time
nor the package (R253, R254, R258, R266, R445). -/

namespace Sys2Proof.Machine

/-- Registers of the links and of the blocks behind them, and TOP_STATUS. -/
abbrev LinkReg (a : Nat) : Prop := a = Reg.TOP_STATUS ∨ 0x080000 ≤ a

/-- Between two devices the links with their registers, bell time and the package are the same. -/
structure LinksKept (d e : Dev) : Prop where
  lnk : e.lnk = d.lnk
  clk : e.clk = d.clk
  pkg : e.pkg = d.pkg
  reg : ∀ a, LinkReg a → rg e a = rg d a

namespace LinksKept

theorem refl (d : Dev) : LinksKept d d := ⟨rfl, rfl, rfl, fun _ _ => rfl⟩

theorem trans {d e f : Dev} (h : LinksKept d e) (g : LinksKept e f) : LinksKept d f :=
  ⟨g.lnk.trans h.lnk, g.clk.trans h.clk, g.pkg.trans h.pkg, fun a ha => (g.reg a ha).trans (h.reg a ha)⟩

/-- A device that has the registers of another. -/
theorem of_regs {d e : Dev} (hl : e.lnk = d.lnk) (hc : e.clk = d.clk) (hp : e.pkg = d.pkg) (hr : e.regs = d.regs) : LinksKept d e :=
  ⟨hl, hc, hp, fun a _ => rg_congr hr a⟩

theorem rgPut (d : Dev) {a : Nat} (v : Nat) (h : ¬LinkReg a) : LinksKept d (rgPut d a v) :=
  ⟨rgPut_lnk .., rgPut_clk .., rgPut_pkg .., fun _ hb => rg_rgPut_ne d v fun hba => h (hba ▸ hb)⟩

theorem fset (d : Dev) {a : Nat} (f : Nat × Nat) (v : Nat) (h : ¬LinkReg a) : LinksKept d (fset d a f v) := rgPut d _ h

theorem bump (d : Dev) {a : Nat} (k : Nat) (h : ¬LinkReg a) : LinksKept d (bump d a k) := rgPut d _ h

theorem rg64Put (d : Dev) {a : Nat} (v : Nat) (h : ¬LinkReg a) (h4 : ¬LinkReg (a + 4)) : LinksKept d (rg64Put d a v) :=
  (rgPut d _ h).trans (rgPut _ _ h4)

theorem srcPut (d : Dev) (n : Nat) (x : Src) : LinksKept d (srcPut d n x) := of_regs rfl rfl rfl rfl

theorem bellPut (d : Dev) (x : Bell) : LinksKept d (bellPut d x) := of_regs rfl rfl rfl rfl

/-! ## A raise (R445, R449) -/

theorem refWrite (d : Dev) (n ev : Nat) : LinksKept d (refWrite d n ev).1 := by
  unfold Machine.refWrite
  split
  · have hring : LinksKept d { d with ref := { d.ref with ring := d.ref.ring ++ [refRecord d n ev] } } := of_regs rfl rfl rfl rfl
    exact hring.trans (fset _ _ _ (by decide))
  · exact trans (bump d 1 (by decide)) (fset _ _ _ (by decide))

theorem raise1 (d : Dev) (n : Nat) : LinksKept d (raise1 d n).1 := by
  have hcount : LinksKept d (Machine.bump d Reg.REF_RAISE_CNT) := bump d 1 (by decide)
  unfold Machine.raise1
  simp only
  split
  · exact srcPut ..
  · split
    · split
      · exact (hcount.trans (srcPut ..)).trans (refWrite ..)
      · refine LinksKept.trans ?_ (refWrite ..)
        split
        · exact hcount.trans (of_regs rfl rfl rfl rfl)
        · exact hcount.trans (srcPut ..)
    · exact hcount.trans (srcPut ..)

theorem raise (d : Dev) (n : Nat) : LinksKept d (raise d n) := by
  unfold Machine.raise
  simp only
  split
  · exact (raise1 d n).trans (raise1 _ 957)
  · exact raise1 d n

theorem unitFault (d : Dev) {a : Nat} (f : Nat × Nat) (n : Nat) (h : ¬LinkReg a) : LinksKept d (unitFault d a f n) :=
  (fset d f 1 h).trans (raise _ n)

/-! ## An entry of the log (R266, R272) -/

theorem regionWrite (d : Dev) (r : Region) (o : Nat) (bs : List Byte) : LinksKept d (regionWrite d r o bs) := by
  unfold Machine.regionWrite
  refine List.foldlRecOn (motive := LinksKept d) _ _ (List.foldlRecOn (motive := LinksKept d) _ _ (refl d) fun e he i _ => ?_) fun e he i _ => ?_
  all_goals
    dsimp only
    split
  · exact he
  · exact he.trans (of_regs rfl rfl rfl rfl)
  · exact he.trans (of_regs rfl rfl rfl rfl)
  · exact he

theorem replayCompare (d : Dev) (e : List Byte) : LinksKept d (replayCompare d e) := by
  unfold Machine.replayCompare
  split
  · exact refl d
  · dsimp only
    split
    · exact refl d
    · next i _ =>
      have hdone : LinksKept d { d with bell := { d.bell with repDone := i :: d.bell.repDone } } := of_regs rfl rfl rfl rfl
      split
      · exact hdone
      · split
        · exact hdone.trans (bump _ _ (by decide))
        · exact (((hdone.trans (bump _ _ (by decide))).trans (rg64Put _ _ (by decide) (by decide))).trans (fset _ _ _ (by decide))).trans
            (unitFault _ _ _ (by decide))

theorem append (d : Dev) (typ ctx epoch step : Nat) (body : List Byte) (time : Option (List Byte)) :
    LinksKept d (append d typ ctx epoch step body time) := by
  unfold Machine.append
  extract_lets seq e d1 lap off need d2 r d3 d4 fill src d5 mark
  have hd2 : LinksKept d d2 := (rg64Put d _ (by decide) (by decide)).trans (replayCompare ..)
  split
  · exact ((hd2.trans (bump _ _ (by decide))).trans (fset _ _ _ (by decide))).trans (raise ..)
  · have hd3 : LinksKept d d3 := by
      refine LinksKept.trans ?_ (bump _ _ (by decide))
      split
      · refine LinksKept.trans ?_ (regionWrite ..)
        split
        · exact hd2.trans (regionWrite ..)
        · exact hd2
      · exact hd2
    have hd5 : LinksKept d d5 := by
      dsimp only [d5]
      split <;> exact hd3.trans (of_regs rfl rfl rfl rfl)
    split
    · exact hd5.trans (raise ..)
    · exact hd5

theorem bellEntry (d : Dev) (ev value : Nat) (time : Option Nat) : LinksKept d (bellEntry d ev value time) := append ..

/-! ## The bell's parents (R254, R258) -/

theorem holdover (d : Dev) : LinksKept d (holdover d) :=
  ((((fset d _ _ (by decide)).trans (rgPut _ _ (by decide))).trans (bump _ _ (by decide))).trans (unitFault _ _ _ (by decide))).trans (bellEntry ..)

theorem upNoted (d : Dev) (l : Nat) : LinksKept d (upNoted d l) := by
  rcases upNoted_cases d l with h | h
  · rw [h]
    exact refl d
  · rw [h]
    exact of_regs rfl rfl rfl rfl

theorem parentShown (d : Dev) (k l : Nat) : LinksKept d (parentShown d k l) :=
  trans (trans (fset d _ _ (by decide)) (fset _ _ _ (by decide))) (bellPut _ _)

theorem bellWatch (d : Dev) : LinksKept d (bellWatch d) := by
  rcases bellWatch_cases d with h | ⟨-, -, h⟩ | ⟨k, l, h | h | ⟨-, h⟩⟩
  · rw [h]
    exact refl d
  · rw [h]
    exact holdover d
  · rw [h]
    exact upNoted d l
  · rw [h]
    exact (upNoted d l).trans (parentShown ..)
  · rw [h]
    exact (((upNoted d l).trans (parentShown ..)).trans (bump _ _ (by decide))).trans (bellEntry ..)

end LinksKept

end Sys2Proof.Machine
end

section
/-! PROOFS. Links come and go (R257, R403, R408 to R411, R418): the steps of bring-up, their timeouts, admission, and how a link leaves service. -/

namespace Sys2Proof.Machine

/-! ## The registers of a link -/

theorem linkReg_ctrl (l : Nat) : LinkReg (Reg.LINK_CTRL l) := .inr (by unfold Reg.LINK_CTRL; omega)
theorem linkReg_status (l : Nat) : LinkReg (Reg.LINK_STATUS l) := .inr (by unfold Reg.LINK_STATUS; omega)

theorem linkCtrl_ne_status (l : Nat) : Reg.LINK_CTRL l ≠ Reg.LINK_STATUS l := by unfold Reg.LINK_CTRL Reg.LINK_STATUS; omega
theorem linkCtrl_ne_fault (l : Nat) : Reg.LINK_CTRL l ≠ Reg.LINK_FAULT l := by unfold Reg.LINK_CTRL Reg.LINK_FAULT; omega
theorem topStatus_ne_linkStatus (l : Nat) : Reg.TOP_STATUS ≠ Reg.LINK_STATUS l := by unfold Reg.TOP_STATUS Reg.LINK_STATUS; omega

theorem linkStep_congr {d e : Dev} {l : Nat} (h : rg e (Reg.LINK_STATUS l) = rg d (Reg.LINK_STATUS l)) : linkStep e l = linkStep d l := by
  rw [linkStep, fget, h, linkStep, fget]

theorem linkCarries_congr {d e : Dev} {l : Nat} (h : linkStep e l = linkStep d l) : linkCarries e l = linkCarries d l := by
  rw [linkCarries, h, linkCarries]

theorem linkLoop_congr {d e : Dev} {l : Nat} (h : rg e (Reg.LINK_CTRL l) = rg d (Reg.LINK_CTRL l)) : linkLoop e l = linkLoop d l := by
  rw [linkLoop, fget, h, linkLoop, fget]

/-- The step of a link stays where a field of its status below the step is set. -/
theorem linkStep_fset (d : Dev) (a l : Nat) {f : Nat × Nat} (v : Nat) (h : FldsApart f Fd.LINK_STATUS_step) : linkStep (fset d a f v) l = linkStep d l :=
  fget_fset_apart d a _ v h

/-! ## The state of a link beside its registers -/

@[simp] theorem dynOf_dynMod_self (d : Dev) (l : Nat) (f : LinkDyn → LinkDyn) : dynOf (dynMod d l f) l = f (dynOf d l) := dynOf_dynPut_self ..

@[simp] theorem dynMod_regs (d : Dev) (l : Nat) (f : LinkDyn → LinkDyn) : (dynMod d l f).regs = d.regs := rfl
@[simp] theorem dynMod_clk (d : Dev) (l : Nat) (f : LinkDyn → LinkDyn) : (dynMod d l f).clk = d.clk := rfl
@[simp] theorem dynMod_pkg (d : Dev) (l : Nat) (f : LinkDyn → LinkDyn) : (dynMod d l f).pkg = d.pkg := rfl

theorem dynOf_congr {d e : Dev} (h : e.lnk = d.lnk) (l : Nat) : dynOf e l = dynOf d l := by rw [dynOf, h, dynOf]

theorem linkStep_dynMod (d : Dev) (l m : Nat) (f : LinkDyn → LinkDyn) : linkStep (dynMod d l f) m = linkStep d m := fget_congr (dynMod_regs ..) _ _

/-- A link enters a step other than the two at which a message leaves (R407, R408). -/
theorem stepTo_of_silent (d : Dev) (l : Nat) {s : Nat} (h5 : s ≠ 5) (h6 : s ≠ 6) :
    stepTo d l s = fset (dynMod d l (fun x => { x with stepAt := ns d })) (Reg.LINK_STATUS l) Fd.LINK_STATUS_step s := by
  simp only [stepTo, h5, h6, false_and, ↓reduceIte]

section
variable (d : Dev) (l : Nat) {s : Nat} (h5 : s ≠ 5) (h6 : s ≠ 6)
include h5 h6

theorem linkStep_stepTo (h : s < 16) : linkStep (stepTo d l s) l = s := by
  rw [stepTo_of_silent d l h5 h6, linkStep, fget_fset_self _ _ _ _ (by decide) (by decide)]
  exact Nat.mod_eq_of_lt h

theorem dynOf_stepTo : dynOf (stepTo d l s) l = { dynOf d l with stepAt := ns d } := by
  rw [stepTo_of_silent d l h5 h6, dynOf_congr (fset_lnk ..), dynOf_dynMod_self]

theorem rg_stepTo {a : Nat} (h : a ≠ Reg.LINK_STATUS l) : rg (stepTo d l s) a = rg d a := by
  rw [stepTo_of_silent d l h5 h6, rg_fset_ne _ _ _ h, rg_congr (dynMod_regs ..)]

theorem fget_stepTo {f : Nat × Nat} (h : FldsApart Fd.LINK_STATUS_step f) : fget (stepTo d l s) (Reg.LINK_STATUS l) f = fget d (Reg.LINK_STATUS l) f := by
  rw [stepTo_of_silent d l h5 h6, fget_fset_apart _ _ _ _ h, fget_congr (dynMod_regs ..)]

theorem fbit_stepTo {f : Nat × Nat} (h : FldsApart Fd.LINK_STATUS_step (f.2, f.2)) :
    fbit (stepTo d l s) (Reg.LINK_STATUS l) f = fbit d (Reg.LINK_STATUS l) f := by
  rw [fbit_eq_decide, fget_stepTo d l h5 h6 h, fbit_eq_decide]

theorem stepTo_clk : (stepTo d l s).clk = d.clk := by rw [stepTo_of_silent d l h5 h6, fset_clk, dynMod_clk]
theorem stepTo_pkg : (stepTo d l s).pkg = d.pkg := by rw [stepTo_of_silent d l h5 h6, fset_pkg, dynMod_pkg]

end

/-! ## A change of a link's state and of listed registers -/

/-- Between two devices nothing differs but the links' state and the registers listed. -/
abbrev LinkOnly (as : List Nat) (d e : Dev) : Prop := OnlyRegs as { d with lnk := e.lnk } e

theorem LinkOnly.trans {as : List Nat} {d e f : Dev} (h : LinkOnly as d e) (g : LinkOnly as e f) : LinkOnly as d f := by
  obtain ⟨hd, hrd⟩ := h
  obtain ⟨he, hre⟩ := g
  have hd' : ({ e with regs := d.regs, lnk := f.lnk } : Dev) = { d with lnk := f.lnk } := congrArg (fun x : Dev => { x with lnk := f.lnk }) hd
  exact ⟨(congrArg (fun x : Dev => { x with regs := d.regs }) he).trans hd', fun b hb => (hre b hb).trans (hrd b hb)⟩

theorem LinkOnly.fset (d : Dev) (a : Nat) (f : Nat × Nat) (v : Nat) : LinkOnly [a] d (fset d a f v) :=
  ⟨rfl, fun _ hb => rg_fset_ne d f v (by simpa using hb)⟩

theorem LinkOnly.dynMod (as : List Nat) (d : Dev) (l : Nat) (f : LinkDyn → LinkDyn) : LinkOnly as d (dynMod d l f) := ⟨rfl, fun _ _ => rfl⟩

theorem LinkOnly.stepTo (d : Dev) (l : Nat) {s : Nat} (h5 : s ≠ 5) (h6 : s ≠ 6) : LinkOnly [Reg.LINK_STATUS l] d (stepTo d l s) := by
  rw [stepTo_of_silent d l h5 h6]
  exact (LinkOnly.dynMod ..).trans (LinkOnly.fset ..)

/-! ## A link that is out of service stops, and bring-up starts again -/

section
variable {d : Dev} {l s : Nat} (hc : linkCarries d l = false) (h5 : s ≠ 5) (h6 : s ≠ 6)
include hc

/-- The device after a link that is not in service has stopped, before the bell looks at its parents. -/
theorem linkStop_of_idle : linkStop d l s = bellWatch (stepTo (dynMod d l (fun x => { x with restart := none, held := false, drain := none })) l s) := by
  simp only [linkStop, hc, Bool.false_eq_true, ↓reduceIte]

include h5 h6

theorem linkStep_linkStop_idle (h : s < 16) : linkStep (linkStop d l s) l = s := by
  rw [linkStop_of_idle hc, linkStep_congr ((LinksKept.bellWatch _).reg _ (linkReg_status l)), linkStep_stepTo _ l h5 h6 h]

theorem dynOf_linkStop_idle :
    dynOf (linkStop d l s) l = { dynOf d l with restart := none, held := false, drain := none, stepAt := ns d } := by
  rw [linkStop_of_idle hc, dynOf_congr (LinksKept.bellWatch _).lnk, dynOf_stepTo _ l h5 h6, dynOf_dynMod_self, ns_congr (dynMod_clk ..)]

theorem rg_linkStop_idle {a : Nat} (ha : LinkReg a) (hne : a ≠ Reg.LINK_STATUS l) : rg (linkStop d l s) a = rg d a := by
  rw [linkStop_of_idle hc, (LinksKept.bellWatch _).reg a ha, rg_stepTo _ l h5 h6 hne, rg_congr (dynMod_regs ..)]

theorem fbit_linkStop_idle {f : Nat × Nat} (h : FldsApart Fd.LINK_STATUS_step (f.2, f.2)) :
    fbit (linkStop d l s) (Reg.LINK_STATUS l) f = fbit d (Reg.LINK_STATUS l) f := by
  rw [linkStop_of_idle hc, fbit, (LinksKept.bellWatch _).reg _ (linkReg_status l), ← fbit, fbit_stepTo _ l h5 h6 h, fbit_congr (dynMod_regs ..)]

theorem linkStop_idle_pkg : (linkStop d l s).pkg = d.pkg := by
  rw [linkStop_of_idle hc, (LinksKept.bellWatch _).pkg, stepTo_pkg _ l h5 h6, dynMod_pkg]

/-- Whether bring-up may run does not depend on the step. -/
theorem canBring_linkStop_idle : canBring (linkStop d l s) l = canBring d l := by
  have hctrl := rg_linkStop_idle (s := s) hc h5 h6 (linkReg_ctrl l) (linkCtrl_ne_status l)
  have htop := rg_linkStop_idle (s := s) hc h5 h6 (.inl rfl) (topStatus_ne_linkStatus l)
  have hdyn := dynOf_linkStop_idle (s := s) hc h5 h6
  have hpres := fbit_linkStop_idle (s := s) hc h5 h6 (f := Fd.LINK_STATUS_present) (by decide)
  have hlatch := fbit_linkStop_idle (s := s) hc h5 h6 (f := Fd.LINK_STATUS_latch_closed) (by decide)
  simp only [canBring, linkCtl, fbit, linkLoop_congr hctrl, hctrl, htop, hdyn, linkStop_idle_pkg hc h5 h6]
  simp only [fbit] at hpres hlatch
  rw [hpres, hlatch]

end

@[simp] theorem bellPut_lnk (d : Dev) (x : Bell) : (bellPut d x).lnk = d.lnk := rfl

/-- Bring-up begins at step 1, with the bell's measurements of the link forgotten (R257, R408). -/
def broughtUp (d : Dev) (l : Nat) : Dev :=
  stepTo (bellPut d { d.bell with links := tset BellLink.init d.bell.links l { bellLink d l with dIn := [], off := [], rx := none } }) l 1

theorem linkStep_broughtUp (d : Dev) (l : Nat) : linkStep (broughtUp d l) l = 1 := linkStep_stepTo _ l (by decide) (by decide) (by decide)

theorem dynOf_broughtUp (d : Dev) (l : Nat) : dynOf (broughtUp d l) l = { dynOf d l with stepAt := ns d } := by
  rw [broughtUp, dynOf_stepTo _ l (by decide) (by decide), dynOf_congr (bellPut_lnk ..), ns_congr (bellPut_clk ..)]

theorem fbit_broughtUp (d : Dev) (l : Nat) {f : Nat × Nat} (h : FldsApart Fd.LINK_STATUS_step (f.2, f.2)) :
    fbit (broughtUp d l) (Reg.LINK_STATUS l) f = fbit d (Reg.LINK_STATUS l) f := by
  rw [broughtUp, fbit_stepTo _ l (by decide) (by decide) h, fbit_congr (bellPut_regs ..)]

/-- A link that is not in service: bring-up starts where it may run, else the link is DOWN, or LOOPBACK while one is selected. -/
theorem linkRestart_of_idle {d : Dev} {l : Nat} (hc : linkCarries d l = false) :
    linkRestart d l = if canBring d l then broughtUp (linkStop d l (if linkLoop d l ≠ 0 then 11 else 0)) l
      else linkStop d l (if linkLoop d l ≠ 0 then 11 else 0) := by
  have hcan : canBring (linkStop d l (if linkLoop d l ≠ 0 then 11 else 0)) l = canBring d l := by
    split
    · exact canBring_linkStop_idle hc (by decide) (by decide)
    · exact canBring_linkStop_idle hc (by decide) (by decide)
  rw [linkRestart, hcan]
  rfl

/-- What a restart leaves of a link that is not in service. -/
structure Restarted (d : Dev) (l : Nat) (e : Dev) : Prop where
  step : linkStep e l = if canBring d l then 1 else if linkLoop d l ≠ 0 then 11 else 0
  restart : (dynOf e l).restart = none
  powered : (dynOf e l).powered = (dynOf d l).powered
  present : fbit e (Reg.LINK_STATUS l) Fd.LINK_STATUS_present = fbit d (Reg.LINK_STATUS l) Fd.LINK_STATUS_present
  latch : fbit e (Reg.LINK_STATUS l) Fd.LINK_STATUS_latch_closed = fbit d (Reg.LINK_STATUS l) Fd.LINK_STATUS_latch_closed

theorem restarted_of_idle {d : Dev} {l : Nat} (hc : linkCarries d l = false) : Restarted d l (linkRestart d l) := by
  have hs : ∃ s, (if linkLoop d l ≠ 0 then 11 else 0) = s ∧ s ≠ 5 ∧ s ≠ 6 ∧ s < 16 := ⟨_, rfl, by split <;> decide⟩
  obtain ⟨s, hs, h5, h6, h16⟩ := hs
  rw [linkRestart_of_idle hc, hs]
  have hdyn := dynOf_linkStop_idle hc h5 h6
  have hpres := fbit_linkStop_idle hc h5 h6 (f := Fd.LINK_STATUS_present) (by decide)
  have hlatch := fbit_linkStop_idle hc h5 h6 (f := Fd.LINK_STATUS_latch_closed) (by decide)
  split
  · next hcan =>
    refine ⟨?_, ?_, ?_, ?_, ?_⟩
    · rw [if_pos hcan, linkStep_broughtUp]
    · rw [dynOf_broughtUp, hdyn]
    · rw [dynOf_broughtUp, hdyn]
    · rw [fbit_broughtUp _ l (by decide), hpres]
    · rw [fbit_broughtUp _ l (by decide), hlatch]
  · next hcan =>
    refine ⟨?_, ?_, ?_, hpres, hlatch⟩
    · rw [if_neg hcan, hs, linkStep_linkStop_idle hc h5 h6 h16]
    · rw [hdyn]
    · rw [hdyn]

end Sys2Proof.Machine
end

section
/-! PROOFS. The happenings of links (R257, R403, R408 to R411, R418), each in the case that its conditions leave. -/

namespace Sys2Proof.Machine

/-! ## BRINGUP_STEP_COMPLETE (R408, R409) -/

section
variable {d : Dev} {l : Nat} (i : BringInfo)

theorem bringStep_of_early (h : linkStep d l = 1 ∨ linkStep d l = 2) : bringStep d l i = stepTo d l (linkStep d l + 1) := by
  rcases h with h | h
  · simp only [bringStep, h]
  · simp only [bringStep, h]

theorem bringStep_of_three (h : linkStep d l = 3) :
    bringStep d l i = stepTo (fset d (Reg.LINK_LANES l) Fd.LINK_LANES_polarity i.polarity.toNat) l 4 := by
  simp only [bringStep, h]

/-- Step 4 ends with the lane order that it found, or waits for its timeout with lane_map. -/
theorem bringStep_of_four (h : linkStep d l = 4) :
    bringStep d l i = if laneOrderOk l (i.lanes.toList.map BitVec.toNat)
      then stepTo (fset d (Reg.LINK_LANES l) Fd.LINK_LANES_lane_map (lanesWord (i.lanes.toList.map BitVec.toNat))) l 5
      else linkFault d l Fd.LINK_FAULT_lane_map := by
  simp only [bringStep, h]

theorem bringStep_of_five (h : linkStep d l = 5) : bringStep d l i = stepTo d l (if linkEther d l = true then 7 else 6) := by
  simp only [bringStep, h]
  split
  · rfl
  · rfl

theorem bringStep_of_six (h : linkStep d l = 6) (hh : (dynOf d l).held = false) :
    bringStep d l i = identTake d l i.peer.toNat i.peerLink.toNat i.serial.toNat := by
  simp only [bringStep, h, hh, Bool.false_eq_true, ↓reduceIte]

theorem bringStep_of_seven (h : linkStep d l = 7) (hd : delayKnown d l = true) (hb : bellAdmits d = true) : bringStep d l i = stepTo d l 8 := by
  simp only [bringStep, h, hd, hb, and_self, ↓reduceIte]

end

/-- A T-link corrects the straight and the reversed order, a G-link any (R404, R409). -/
theorem laneOrderOk_of_known {l : Nat} {lanes : List Nat}
    (h : lanes = [0, 1, 2, 3, 4, 5, 6, 7] ∨ lanes = [7, 6, 5, 4, 3, 2, 1, 0] ∨ (96 ≤ l ∧ ∀ j, j < 8 → j ∈ lanes)) : laneOrderOk l lanes = true := by
  unfold laneOrderOk
  rcases h with rfl | rfl | ⟨hl, hall⟩
  · split <;> decide
  · split <;> decide
  · rw [if_neg (by omega), List.all_eq_true]
    exact fun j hj => List.contains_iff_mem.mpr (hall j (List.mem_range.mp hj))

theorem laneOrderOk_of_wrong {l : Nat} {lanes : List Nat} (hl : l < 96) (h0 : lanes ≠ [0, 1, 2, 3, 4, 5, 6, 7])
    (h7 : lanes ≠ [7, 6, 5, 4, 3, 2, 1, 0]) : laneOrderOk l lanes = false := by
  rw [laneOrderOk, if_pos hl, decide_eq_false h0, decide_eq_false h7, Bool.or_self]

/-! ## BRINGUP_STEP_TIMEOUT, BRINGUP_RESTART (R411) -/

/-- Tries used once another step has run over its time. -/
def triesNext (d : Dev) (l : Nat) : Nat := min 15 (fget d (Reg.LINK_STATUS l) Fd.LINK_STATUS_tries_used + 1)

/-- The device with the timeout of a step noted and its try counted. -/
def stepLost (d : Dev) (l : Nat) : Dev :=
  fset (fset d (Reg.LINK_FAULT l) Fd.LINK_FAULT_step_timeout 1) (Reg.LINK_STATUS l) Fd.LINK_STATUS_tries_used (triesNext d l)

theorem tries_stepLost (d : Dev) (l : Nat) :
    fget1 (stepLost d l) (Reg.LINK_CTRL l) Fd.LINK_CTRL_tries = max 1 (fget d (Reg.LINK_CTRL l) Fd.LINK_CTRL_tries) := by
  rw [fget1, stepLost, fget_fset_ne _ _ _ _ (linkCtrl_ne_status l), fget_fset_ne _ _ _ _ (linkCtrl_ne_fault l)]

/-- A step that has run over its time, and that nothing holds. -/
theorem bringTimeout_of_over {d : Dev} {l : Nat} (h1 : 1 ≤ linkStep d l) (h7 : linkStep d l ≤ 7)
    (hd : linkStep d l = 7 → delayKnown d l = false) (hh : (dynOf d l).held = false)
    (ht : (dynOf d l).stepAt + stepLimit (linkStep d l) ≤ ns d) :
    bringTimeout d l = if max 1 (fget d (Reg.LINK_CTRL l) Fd.LINK_CTRL_tries) ≤ triesNext d l
      then linkFault (linkStop (stepLost d l) l 12) l Fd.LINK_FAULT_failed
      else dynMod (linkStop (stepLost d l) l 0) l (fun x => { x with restart := some (ns (linkStop (stepLost d l) l 0) + 1000000) }) := by
  have hgo : ¬(linkStep d l = 0 ∨ 7 < linkStep d l ∨ (dynOf d l).held = true ∨ (linkStep d l = 7 ∧ delayKnown d l = true)
      ∨ ns d < (dynOf d l).stepAt + stepLimit (linkStep d l)) := by
    rintro (h | h | h | ⟨h, hk⟩ | h)
    · omega
    · omega
    · exact Bool.noConfusion (h.symm.trans hh)
    · exact Bool.noConfusion (hk.symm.trans (hd h))
    · omega
  rw [bringTimeout, if_neg hgo, ← tries_stepLost]
  rfl

theorem bringRestart_of_due {d : Dev} {l t : Nat} (hr : (dynOf d l).restart = some t) (ht : t ≤ ns d) : bringRestart d l = linkRestart d l := by
  simp only [bringRestart, hr, ht, ↓reduceIte]

theorem linkCarries_of_down {d : Dev} {l : Nat} (h : linkStep d l = 0) : linkCarries d l = false := by
  rw [linkCarries, h]
  decide

/-! ## LINK_ADMIT (R257, R401) -/

/-- The device whose link has entered service, before the device is marked as in use. -/
def linkServing (d : Dev) (l : Nat) : Dev := fset (stepTo d l 9) (Reg.LINK_STATUS l) Fd.LINK_STATUS_tries_used 0

theorem linkServing_clk (d : Dev) (l : Nat) : (linkServing d l).clk = d.clk := (fset_clk ..).trans (stepTo_clk d l (by decide) (by decide))

theorem linkStep_linkServing (d : Dev) (l : Nat) : linkStep (linkServing d l) l = 9 := by
  rw [linkServing, linkStep_fset _ _ _ _ (by decide), linkStep_stepTo d l (by decide) (by decide) (by decide)]

theorem tries_linkServing (d : Dev) (l : Nat) : fget (linkServing d l) (Reg.LINK_STATUS l) Fd.LINK_STATUS_tries_used = 0 :=
  (fget_fset_self _ _ _ _ (by decide) (by decide)).trans (Nat.zero_mod _)

theorem linkServing_only (d : Dev) (l : Nat) : LinkOnly [Reg.LINK_STATUS l] d (linkServing d l) :=
  (LinkOnly.stepTo d l (by decide) (by decide)).trans (LinkOnly.fset ..)

/-- The device with a mark that a link was admitted (R252). -/
def inUse (d : Dev) (c : Clock) : Dev := { d with clk := { c with inUse := true } }

theorem inUse_regs (d : Dev) (c : Clock) : (inUse d c).regs = d.regs := rfl

theorem linkAdmit_of_waiting {d : Dev} {l : Nat} (h : linkStep d l = 8 ∨ (linkStep d l = 7 ∧ delayKnown d l = true)) (hb : bellAdmits d = true) :
    linkAdmit d l = bellWatch (inUse (linkServing d l) d.clk) := by
  rw [← linkServing_clk d l]
  exact if_pos ⟨h, hb⟩

/-! ## A link leaves service (R403, R418) -/

theorem linkCarries_of_step {d : Dev} {l : Nat} (h : linkStep d l = 9 ∨ linkStep d l = 10) : linkCarries d l = true := decide_eq_true h

theorem lockLost_of_carries {d : Dev} {l : Nat} (h : linkCarries d l = true) : lockLost d l = linkRestart (linkFault d l Fd.LINK_FAULT_lock_lost) l :=
  if_pos h

/-- A margin below the least one is reported, and nothing else. -/
theorem marginMeasure_of_carries {d : Dev} {l : Nat} (ms : List (BitVec 8)) (h : linkCarries d l = true) :
    marginMeasure d l (ms.map (·.toNat)) =
      if ∃ m ∈ ms, m.toNat < fget d (Reg.LINK_CTRL l) Fd.LINK_CTRL_margin_min then linkFault d l Fd.LINK_FAULT_margin_low else d := by
  have hany : (ms.map (·.toNat)).any (fun m => decide (m < fget d (Reg.LINK_CTRL l) Fd.LINK_CTRL_margin_min)) = true
      ↔ ∃ m ∈ ms, m.toNat < fget d (Reg.LINK_CTRL l) Fd.LINK_CTRL_margin_min := by
    simp
  simp only [marginMeasure, h, hany, true_and]

/-- The device whose link drains for at most 10 µs with its latch open. -/
def latchOpened (d : Dev) (l : Nat) : Dev :=
  stepTo (dynMod (fset d (Reg.LINK_STATUS l) Fd.LINK_STATUS_latch_closed 0) l
    (fun x => { x with drain := some (ns (fset d (Reg.LINK_STATUS l) Fd.LINK_STATUS_latch_closed 0) + 10000), again := false, powered := false })) l 10

theorem moduleLatch_of_serving {d : Dev} {l : Nat} (h : linkStep d l = 9) : moduleLatch d l = latchOpened d l := by
  have hstep : linkStep (fset d (Reg.LINK_STATUS l) Fd.LINK_STATUS_latch_closed 0) l = 9 := (linkStep_fset d _ l 0 (by decide)).trans h
  simp only [moduleLatch, hstep]
  rfl

theorem latchOpened_only (d : Dev) (l : Nat) : LinkOnly [Reg.LINK_STATUS l] d (latchOpened d l) := by
  have hlatch : LinkOnly [Reg.LINK_STATUS l] d (fset d (Reg.LINK_STATUS l) Fd.LINK_STATUS_latch_closed 0) := LinkOnly.fset ..
  rw [latchOpened]
  exact (hlatch.trans (LinkOnly.dynMod ..)).trans (LinkOnly.stepTo _ l (by decide) (by decide))

theorem drain_latchOpened (d : Dev) (l : Nat) : (dynOf (latchOpened d l) l).drain = some (ns d + 10000) := by
  rw [latchOpened, dynOf_stepTo _ l (by decide) (by decide), dynOf_dynMod_self, ns_congr (fset_clk ..)]

theorem latch_latchOpened (d : Dev) (l : Nat) : fbit (latchOpened d l) (Reg.LINK_STATUS l) Fd.LINK_STATUS_latch_closed = false := by
  rw [latchOpened, fbit_stepTo _ l (by decide) (by decide) (by decide), fbit_congr (dynMod_regs ..), fbit_fset_self _ _ _ rfl (by decide),
    decide_eq_false (by decide)]

theorem drainEnd_of_over {d : Dev} {l t : Nat} (hs : linkStep d l = 10) (hd : (dynOf d l).drain = some t) (ht : t ≤ ns d) :
    drainEnd d l = if (dynOf d l).again = true then linkRestart (dynMod (linkDown d l 0) l (fun y => { y with again := false })) l
      else dynMod (linkDown d l 0) l (fun y => { y with again := false }) := by
  simp only [drainEnd, hd, hs, ht, true_or, and_self, ↓reduceIte]

/-- The device whose module is known to be gone. -/
def moduleGone (d : Dev) (l : Nat) : Dev :=
  fset (fset (dynMod d l (fun x => { x with powered := false, again := false })) (Reg.LINK_STATUS l) Fd.LINK_STATUS_present 0)
    (Reg.LINK_STATUS l) Fd.LINK_STATUS_latch_closed 0

theorem linkStep_moduleGone (d : Dev) (l : Nat) : linkStep (moduleGone d l) l = linkStep d l := by
  rw [moduleGone, linkStep_fset _ _ _ _ (by decide), linkStep_fset _ _ _ _ (by decide), linkStep_dynMod]

theorem rg_moduleGone (d : Dev) {a l : Nat} (h : a ≠ Reg.LINK_STATUS l) : rg (moduleGone d l) a = rg d a := by
  rw [moduleGone, rg_fset_ne _ _ _ h, rg_fset_ne _ _ _ h, rg_congr (dynMod_regs ..)]

theorem moduleRemoved_of_carries {d : Dev} {l : Nat} (hc : linkCarries d l = true) (hl : linkLoop d l = 0) :
    moduleRemoved d l = linkStop (linkFault (moduleGone d l) l Fd.LINK_FAULT_removed) l 0 := by
  have hcarries : linkCarries (moduleGone d l) l = true := (linkCarries_congr (linkStep_moduleGone d l)).trans hc
  have hctrl : rg (linkFault (moduleGone d l) l Fd.LINK_FAULT_removed) (Reg.LINK_CTRL l) = rg d (Reg.LINK_CTRL l) := by
    rw [linkFault, unitFault, (LinksKept.raise ..).reg _ (linkReg_ctrl l), rg_fset_ne _ _ _ (linkCtrl_ne_fault l),
      rg_moduleGone d (linkCtrl_ne_status l)]
  have hloop : linkLoop (linkFault (moduleGone d l) l Fd.LINK_FAULT_removed) l = 0 := (linkLoop_congr hctrl).trans hl
  have hform : moduleRemoved d l =
      let x := if linkCarries (moduleGone d l) l then linkFault (moduleGone d l) l Fd.LINK_FAULT_removed else moduleGone d l
      if linkLoop x l ≠ 0 then x else linkStop x l 0 := rfl
  rw [hform, hcarries]
  simp only [hloop, ne_eq, not_true_eq_false, ↓reduceIte]

/-! ## MODULE_INSERT (R418) -/

/-- The device whose module is there, latched and powered. -/
def modulePowered (d : Dev) (l : Nat) : Dev :=
  dynMod (fset (fset d (Reg.LINK_STATUS l) Fd.LINK_STATUS_present 1) (Reg.LINK_STATUS l) Fd.LINK_STATUS_latch_closed 1) l
    (fun x => { x with powered := true })

section
variable (d : Dev) (l : Nat)

theorem linkStep_modulePowered : linkStep (modulePowered d l) l = linkStep d l := by
  rw [modulePowered, linkStep_dynMod, linkStep_fset _ _ _ _ (by decide), linkStep_fset _ _ _ _ (by decide)]

theorem present_modulePowered : fbit (modulePowered d l) (Reg.LINK_STATUS l) Fd.LINK_STATUS_present = true := by
  rw [modulePowered, fbit_congr (dynMod_regs ..), fbit_fset_apart _ _ _ _ (by decide), fbit_fset_self _ _ _ rfl (by decide), decide_eq_true rfl]

theorem latch_modulePowered : fbit (modulePowered d l) (Reg.LINK_STATUS l) Fd.LINK_STATUS_latch_closed = true := by
  rw [modulePowered, fbit_congr (dynMod_regs ..), fbit_fset_self _ _ _ rfl (by decide), decide_eq_true rfl]

theorem dynOf_modulePowered : dynOf (modulePowered d l) l = { dynOf d l with powered := true } := by
  rw [modulePowered, dynOf_dynMod_self, dynOf_congr (fset_lnk ..), dynOf_congr (fset_lnk ..)]

theorem rg_modulePowered {a : Nat} (h : a ≠ Reg.LINK_STATUS l) : rg (modulePowered d l) a = rg d a := by
  rw [modulePowered, rg_congr (dynMod_regs ..), rg_fset_ne _ _ _ h, rg_fset_ne _ _ _ h]

theorem modulePowered_pkg : (modulePowered d l).pkg = d.pkg := by rw [modulePowered, dynMod_pkg, fset_pkg, fset_pkg]

/-- With its module there, latched and powered, bring-up of a link asks for the rest of R408. -/
theorem canBring_modulePowered :
    canBring (modulePowered d l) l = true ↔ linkCtl d l Fd.LINK_CTRL_en = true ∧ linkLoop d l = 0 ∧ (dynOf d l).fenced = false
      ∧ fbit d Reg.TOP_STATUS Fd.TOP_STATUS_ready = true ∧ tget false d.pkg.lost (l / 16) = false := by
  have hctrl := rg_modulePowered d l (linkCtrl_ne_status l)
  have htop := rg_modulePowered d l (topStatus_ne_linkStatus l)
  have hen : linkCtl (modulePowered d l) l Fd.LINK_CTRL_en = linkCtl d l Fd.LINK_CTRL_en := by rw [linkCtl, fbit, hctrl, linkCtl, fbit]
  have hready : fbit (modulePowered d l) Reg.TOP_STATUS Fd.TOP_STATUS_ready = fbit d Reg.TOP_STATUS Fd.TOP_STATUS_ready := by rw [fbit, htop, fbit]
  simp only [canBring, hen, hready, linkLoop_congr hctrl, present_modulePowered, latch_modulePowered, dynOf_modulePowered, modulePowered_pkg,
    Bool.and_true, Bool.and_eq_true, decide_eq_true_eq, Bool.not_eq_true', and_assoc]

end

theorem moduleInsert_of_down {d : Dev} {l : Nat} (h : linkStep d l = 0) :
    moduleInsert d l = if linkCtl d l Fd.LINK_CTRL_auto_up then linkRestart (modulePowered d l) l else modulePowered d l := by
  have hlatch : latchClosed d l = fset (fset d (Reg.LINK_STATUS l) Fd.LINK_STATUS_present 1) (Reg.LINK_STATUS l) Fd.LINK_STATUS_latch_closed 1 := by
    have hstep : linkStep (fset (fset d (Reg.LINK_STATUS l) Fd.LINK_STATUS_present 1) (Reg.LINK_STATUS l) Fd.LINK_STATUS_latch_closed 1) l = 0 := by
      rw [linkStep_fset _ _ _ _ (by decide), linkStep_fset _ _ _ _ (by decide), h]
    simp only [latchClosed, hstep, Nat.reduceEqDiff, ↓reduceIte]
  have hstep : linkStep (modulePowered d l) l = 0 := (linkStep_modulePowered d l).trans h
  have hauto : linkCtl (modulePowered d l) l Fd.LINK_CTRL_auto_up = linkCtl d l Fd.LINK_CTRL_auto_up := by
    rw [linkCtl, fbit, rg_modulePowered d l (linkCtrl_ne_status l), linkCtl, fbit]
  have hform : moduleInsert d l =
      let x := dynMod (latchClosed d l) l (fun x => { x with powered := true })
      if linkStep x l = 0 ∧ linkCtl x l Fd.LINK_CTRL_auto_up = true then linkRestart x l else x := rfl
  rw [hform, hlatch]
  change (if linkStep (modulePowered d l) l = 0 ∧ linkCtl (modulePowered d l) l Fd.LINK_CTRL_auto_up = true then linkRestart (modulePowered d l) l
    else modulePowered d l) = _
  simp only [hstep, hauto, true_and]

end Sys2Proof.Machine
end

section
/-! PROOFS. The happenings of links as instructions, and what they are shown to leave (R257, R408, R411, R418). -/

namespace Sys2Proof.Machine

section
variable {s : State} (l : Fin 128) (ha : alive s.dev = true)
include ha

theorem exec_bringupStepComplete (i : BringInfo) : exec (.bringupStepComplete l i) s = .next (s.after (bringStep s.dev l.val i)) :=
  act_next (f := fun d => bringStep d l.val i) ha

theorem exec_bringupStepTimeout : exec (.bringupStepTimeout l) s = .next (s.after (bringTimeout s.dev l.val)) :=
  act_next (f := fun d => bringTimeout d l.val) ha

theorem exec_bringupRestart : exec (.bringupRestart l) s = .next (s.after (bringRestart s.dev l.val)) :=
  act_next (f := fun d => bringRestart d l.val) ha

theorem exec_linkAdmit : exec (.linkAdmit l) s = .next (s.after (linkAdmit s.dev l.val)) :=
  act_next (f := fun d => linkAdmit d l.val) ha

theorem exec_laneLockLost : exec (.laneLockLost l) s = .next (s.after (lockLost s.dev l.val)) :=
  act_next (f := fun d => lockLost d l.val) ha

theorem exec_marginMeasure (ms : Vector (BitVec 8) 8) :
    exec (.marginMeasure l ms) s = .next (s.after (marginMeasure s.dev l.val (ms.toList.map (·.toNat)))) := by
  have harm : exec (.marginMeasure l ms) s = act (fun d => marginMeasure d l.val (ms.toList.map (·.toNat))) s := rfl
  rw [harm, act_next ha]

theorem exec_moduleLatchOpen : exec (.moduleLatchOpen l) s = .next (s.after (moduleLatch s.dev l.val)) :=
  act_next (f := fun d => moduleLatch d l.val) ha

theorem exec_linkDrainEnd : exec (.linkDrainEnd l) s = .next (s.after (drainEnd s.dev l.val)) :=
  act_next (f := fun d => drainEnd d l.val) ha

theorem exec_moduleRemoved : exec (.moduleRemoved l) s = .next (s.after (moduleRemoved s.dev l.val)) :=
  act_next (f := fun d => moduleRemoved d l.val) ha

theorem exec_moduleInsert : exec (.moduleInsert l) s = .next (s.after (moduleInsert s.dev l.val)) :=
  act_next (f := fun d => moduleInsert d l.val) ha

end

/-- A link admitted by the bell is in service, with no try used. -/
theorem linkAdmit_serves {d : Dev} {l : Nat} (h : linkStep d l = 8 ∨ (linkStep d l = 7 ∧ delayKnown d l = true)) (hb : bellAdmits d = true) :
    linkStep (linkAdmit d l) l = 9 ∧ fget (linkAdmit d l) (Reg.LINK_STATUS l) Fd.LINK_STATUS_tries_used = 0 ∧ (linkAdmit d l).clk.inUse = true := by
  have hkept := LinksKept.bellWatch (inUse (linkServing d l) d.clk)
  have hst : rg (bellWatch (inUse (linkServing d l) d.clk)) (Reg.LINK_STATUS l) = rg (linkServing d l) (Reg.LINK_STATUS l) :=
    (hkept.reg _ (linkReg_status l)).trans (rg_congr (inUse_regs ..) _)
  rw [linkAdmit_of_waiting h hb]
  refine ⟨?_, ?_, ?_⟩
  · rw [linkStep_congr hst, linkStep_linkServing]
  · rw [fget, hst, ← fget, tries_linkServing]
  · rw [hkept.clk, inUse]

/-- Where a module inserted in the cage of a DOWN link leaves that link (R418). -/
theorem moduleInsert_shows {d : Dev} {l : Nat} (h : linkStep d l = 0) :
    fbit (moduleInsert d l) (Reg.LINK_STATUS l) Fd.LINK_STATUS_present = true
      ∧ fbit (moduleInsert d l) (Reg.LINK_STATUS l) Fd.LINK_STATUS_latch_closed = true
      ∧ (dynOf (moduleInsert d l) l).powered = true
      ∧ linkStep (moduleInsert d l) l = if linkCtl d l Fd.LINK_CTRL_auto_up = true then
          (if canBring (modulePowered d l) l then 1 else if linkLoop d l ≠ 0 then 11 else 0) else 0 := by
  have hstep := (linkStep_modulePowered d l).trans h
  have hpow : (dynOf (modulePowered d l) l).powered = true := by rw [dynOf_modulePowered]
  rw [moduleInsert_of_down h]
  cases hauto : linkCtl d l Fd.LINK_CTRL_auto_up with
  | false =>
    simp only [Bool.false_eq_true, ↓reduceIte]
    exact ⟨present_modulePowered d l, latch_modulePowered d l, hpow, hstep⟩
  | true =>
    obtain ⟨hs, -, hp, hpres, hlatch⟩ := restarted_of_idle (linkCarries_of_down hstep)
    rw [linkLoop_congr (rg_modulePowered d l (linkCtrl_ne_status l))] at hs
    simp only [↓reduceIte]
    exact ⟨hpres.trans (present_modulePowered d l), hlatch.trans (latch_modulePowered d l), hp.trans hpow, hs⟩

/-- The step at which an inserted module leaves a DOWN link, by all that auto_up and bring-up ask for (R408, R418). -/
theorem linkStep_moduleInsert {d : Dev} {l : Nat} (h : linkStep d l = 0) :
    linkStep (moduleInsert d l) l = if linkCtl d l Fd.LINK_CTRL_auto_up = true ∧ linkCtl d l Fd.LINK_CTRL_en = true ∧ linkLoop d l = 0
        ∧ (dynOf d l).fenced = false ∧ fbit d Reg.TOP_STATUS Fd.TOP_STATUS_ready = true ∧ tget false d.pkg.lost (l / 16) = false then 1
      else if linkCtl d l Fd.LINK_CTRL_auto_up = true ∧ linkLoop d l ≠ 0 then 11 else 0 := by
  obtain ⟨-, -, -, hs⟩ := moduleInsert_shows h
  rw [hs]
  simp only [canBring_modulePowered]
  cases linkCtl d l Fd.LINK_CTRL_auto_up with
  | false => simp only [Bool.false_eq_true, false_and, ↓reduceIte]
  | true => simp only [true_and, ↓reduceIte]

/-- Settles O38: each happening in the cases that its conditions leave. -/
theorem linksComeAndGo : Obligations.LinksComeAndGo := by
  unfold Obligations.LinksComeAndGo
  refine ⟨fun s l => ⟨?complete, ?timeout, ?restart, ?service⟩, fun s l => ⟨?lock, ?margin, ?latch, ?drain, ?removed, ?insert⟩⟩
  case complete =>
    intro i ha
    rw [exec_bringupStepComplete l ha]
    refine ⟨fun h => by rw [bringStep_of_early i h], fun h => by rw [bringStep_of_three i h], fun h hl => ?_, fun h hl h0 h7 => ?_,
      fun h => by rw [bringStep_of_five i h], fun h hh => by rw [bringStep_of_six i h hh], fun h hd hb => by rw [bringStep_of_seven i h hd hb]⟩
    · rw [bringStep_of_four i h, laneOrderOk_of_known hl, if_pos rfl]
    · rw [bringStep_of_four i h, laneOrderOk_of_wrong hl h0 h7, if_neg Bool.false_ne_true, linkFault]
  case timeout =>
    intro ha h1 h7 hd hh ht
    have hover := bringTimeout_of_over h1 h7 hd hh ht
    rw [triesNext] at hover
    rw [exec_bringupStepTimeout l ha, hover]
    refine ⟨fun hn => ?_, fun hn => ?_⟩
    · rw [if_neg (Nat.not_le_of_lt hn), stepLost, triesNext]
    · rw [if_pos hn, linkFault, stepLost, triesNext]
  case restart =>
    intro t ha hr ht h0 hl
    obtain ⟨hstep, hrest, -, -, -⟩ := restarted_of_idle (linkCarries_of_down h0)
    refine ⟨_, exec_bringupRestart l ha, ?_, ?_⟩
    · rw [bringRestart_of_due hr ht, hstep, if_neg (not_not_intro hl)]
    · rw [bringRestart_of_due hr ht, hrest]
  case service =>
    intro ha hw hb
    obtain ⟨hstep, htries, huse⟩ := linkAdmit_serves hw hb
    exact ⟨linkServing s.dev l.val, _, exec_linkAdmit l ha, linkAdmit_of_waiting hw hb, hstep, htries, huse, linkStep_linkServing .., tries_linkServing ..,
      linkServing_only ..⟩
  case lock =>
    intro ha hc
    rw [exec_laneLockLost l ha, lockLost_of_carries hc, linkFault]
  case margin =>
    intro ms ha hc
    rw [exec_marginMeasure l ha, marginMeasure_of_carries ms.toList hc, linkFault]
  case latch =>
    intro ha h9
    refine ⟨_, exec_moduleLatchOpen l ha, ?_⟩
    rw [moduleLatch_of_serving h9]
    exact ⟨linkStep_stepTo _ _ (by decide) (by decide) (by decide), drain_latchOpened .., latch_latchOpened .., latchOpened_only ..⟩
  case drain =>
    intro t ha h10 hd ht
    rw [exec_linkDrainEnd l ha, drainEnd_of_over h10 hd ht]
  case removed =>
    intro ha hc hl
    rw [exec_moduleRemoved l ha, moduleRemoved_of_carries hc hl, moduleGone, linkFault]
  case insert =>
    intro ha h0
    obtain ⟨hpres, hlatch, hpow, -⟩ := moduleInsert_shows h0
    exact ⟨_, exec_moduleInsert l ha, hpres, hlatch, hpow, linkStep_moduleInsert h0⟩

end Sys2Proof.Machine
end

section
/-! PROOFS. Bell words (R251, R253, R255, R256, R258, R399, R401): the word that is sent, the exchange that an echo completes, and steering. -/

namespace Sys2Proof.Machine

/-! ## The active parent (R253) -/

/-- A parent entry with its link, where it is valid and its link is as `p` asks. -/
def parentEntry (d : Dev) (p : Nat → Bool) (k : Nat) : Option (Nat × Nat) :=
  if fbit d (Reg.BELL_PARENT k) Fd.BELL_PARENT_valid ∧ p (fget d (Reg.BELL_PARENT k) Fd.BELL_PARENT_link)
    then some (k, fget d (Reg.BELL_PARENT k) Fd.BELL_PARENT_link) else none

theorem parentEntry_congr {d e : Dev} (p : Nat → Bool) {k : Nat} (h : rg e (Reg.BELL_PARENT k) = rg d (Reg.BELL_PARENT k)) :
    parentEntry e p k = parentEntry d p k := by
  unfold parentEntry fbit fget
  rw [h]

theorem parentWith_congr {d e : Dev} (p : Nat → Bool) (hk : ∀ k, k < 4 → rg e (Reg.BELL_PARENT k) = rg d (Reg.BELL_PARENT k)) :
    parentWith e p = parentWith d p := by
  have hform : ∀ d, parentWith d p = [0, 1, 2, 3].findSome? (parentEntry d p) := fun _ => rfl
  have hentry : ∀ k, k < 4 → parentEntry e p k = parentEntry d p k := fun k h => parentEntry_congr p (hk k h)
  simp only [hform, List.findSome?, hentry 0 (by decide), hentry 1 (by decide), hentry 2 (by decide), hentry 3 (by decide)]

/-- The active parent depends on the parent entries, the steps of the links, the bell's state and whether a parent's link was seen in service. -/
theorem activeParent_congr {d e : Dev} (hk : ∀ k, k < 4 → rg e (Reg.BELL_PARENT k) = rg d (Reg.BELL_PARENT k))
    (hs : ∀ m, linkStep e m = linkStep d m) (hb : bellState e = bellState d) (hu : e.bell.upSeen = d.bell.upSeen) :
    activeParent e = activeParent d := by
  have hserves : bellServes e = bellServes d := funext fun m => by rw [bellServes, hs, bellServes]
  have hflows : bellFlows e = bellFlows d := funext fun m => by rw [bellFlows, hs, bellFlows]
  simp only [activeParent, parentWith_congr _ hk, hserves, hflows, hb, hu]

theorem bellWatch_of_off {d : Dev} (h : bellState d = 0) : bellWatch d = d := if_pos h

/-! ## BELL_WORD_SEND (R255, R399) -/

/-- The time of the last word received, the delay since and whether there was one, as a word carries them. -/
def wordEcho (d : Dev) (x : BellLink) : Nat × Nat × Nat := match x.rx with
  | some (t, a) => (t, ns256 d - a, 8)
  | none => (0, 0, 0)

/-- The word that leaves now on a link. -/
def wordNow (d : Dev) (x : BellLink) : List Byte :=
  beBytes 6 (ns256 d) ++ beBytes 6 (wordEcho d x).1 ++ beBytes 3 (wordEcho d x).2.1 ++ beBytes 1 (x.seq * 16 + (wordEcho d x).2.2)

/-- The device with a word sent as the body of a BELL message. -/
def wordSent (d : Dev) (l : Nat) : Dev :=
  emit (sendMessage (bellLinkPut d l { bellLink d l with seq := ((bellLink d l).seq + 1) % 16, sent := ns d }) l 1 false (wordNow d (bellLink d l)))
    (.bellWord l (wordNow d (bellLink d l)))

theorem wordSend_of_due {d : Dev} {l : Nat} (ha : alive d = true) (hf : bellFlows d l = true)
    (hd : (bellLink d l).sent = 0 ∨ (bellLink d l).sent + 128 * max 1 (fget d Reg.BELL_CTRL Fd.BELL_CTRL_xchg) ≤ ns d) : wordSend d l = wordSent d l := by
  have hdue : ¬(ns d < (bellLink d l).sent + 128 * fget1 d Reg.BELL_CTRL Fd.BELL_CTRL_xchg ∧ (bellLink d l).sent ≠ 0) := by
    rw [fget1]
    omega
  simp only [wordSend, ha, hf, hdue, Bool.not_true, Bool.or_self, decide_false, Bool.false_eq_true, ↓reduceIte]
  rfl

/-! ## BELL_WORD_RECEIVE (R255, R256, R401) -/

@[simp] theorem bellLink_bellLinkPut_self (d : Dev) (l : Nat) (x : BellLink) : bellLink (bellLinkPut d l x) l = x := tget_tset_self ..
@[simp] theorem bellLinkPut_regs (d : Dev) (l : Nat) (x : BellLink) : (bellLinkPut d l x).regs = d.regs := rfl

theorem bellLink_congr {d e : Dev} (h : e.bell = d.bell) (l : Nat) : bellLink e l = bellLink d l := by rw [bellLink, h, bellLink]

/-- The delay in that a word's echo gives, in 2^-8 ns: half the round trip with the link's asymmetry (R256). -/
def delayIn (t asym : Nat) (w : List Byte) : Int :=
  (((t : Int) - (rebuild48 t (field w 6 6) : Nat)) - (field w 12 3 : Nat) + signed 32 asym) / 2

/-- What is known of a link with one more exchange, whose word was sent at `tx` and came at `t`. -/
def exchanged (x : BellLink) (t tx : Nat) (din : Int) : BellLink :=
  { x with dIn := (x.dIn ++ [din]).drop (x.dIn.length + 1 - 16), off := (x.off ++ [(t : Int) - (tx : Nat) - din]).drop (x.off.length + 1 - 16) }

/-- The device with the time of a word noted and its exchange counted. -/
def wordNoted (d : Dev) (l tx t : Nat) : Dev := bump (bellLinkPut d l { bellLink d l with rx := some (tx, t) }) Reg.BELL_XCHG_CNT

/-- The device with a link known as x and its delay shown. -/
def delayShown (d : Dev) (l : Nat) (x : BellLink) : Dev :=
  longReach (rgPut (bellLinkPut d l x) (Reg.BELL_LINK_DELAY l) (unsigned 32 (median x.dIn))) l

section
variable (d : Dev) (l : Nat) (tx t : Nat)

theorem bellLink_wordNoted : bellLink (wordNoted d l tx t) l = { bellLink d l with rx := some (tx, t) } := by
  rw [wordNoted, bellLink_congr (bump_bell ..), bellLink_bellLinkPut_self]

theorem rg_wordNoted_self : rg (wordNoted d l tx t) Reg.BELL_XCHG_CNT = satInc (rg d Reg.BELL_XCHG_CNT) 1 := by
  rw [wordNoted, rg_bump_self, rg_congr (bellLinkPut_regs ..)]

theorem rg_wordNoted_ne {a : Nat} (h : a ≠ Reg.BELL_XCHG_CNT) : rg (wordNoted d l tx t) a = rg d a := by
  rw [wordNoted, rg_bump_ne _ _ h, rg_congr (bellLinkPut_regs ..)]

end

section
variable (d : Dev) (l : Nat) (x : BellLink)

theorem bellLink_delayShown : bellLink (delayShown d l x) l = x := by
  rw [delayShown, longReach, bellLink_congr (fset_bell ..), bellLink_congr (rgPut_bell ..), bellLink_bellLinkPut_self]

theorem linkDelay_ne_status (m : Nat) (hl : l < 128) : Reg.BELL_LINK_DELAY l ≠ Reg.LINK_STATUS m := by
  unfold Reg.BELL_LINK_DELAY Reg.LINK_STATUS
  omega

theorem rg_delayShown_delay (hl : l < 128) : rg (delayShown d l x) (Reg.BELL_LINK_DELAY l) = unsigned 32 (median x.dIn) := by
  rw [delayShown, longReach, rg_fset_ne _ _ _ (linkDelay_ne_status l l hl), rg_rgPut_self, Nat.mod_eq_of_lt (unsigned_lt 32 _)]

theorem rg_delayShown_ne {a : Nat} (h : a ≠ Reg.BELL_LINK_DELAY l) (hst : a ≠ Reg.LINK_STATUS l) : rg (delayShown d l x) a = rg d a := by
  rw [delayShown, longReach, rg_fset_ne _ _ _ hst, rg_rgPut_ne _ _ h, rg_congr (bellLinkPut_regs ..)]

theorem longReach_delayShown :
    fbit (delayShown d l x) (Reg.LINK_STATUS l) Fd.LINK_STATUS_long_reach = decide (500 * 256 < signed 32 (unsigned 32 (median x.dIn))) := by
  rw [delayShown, longReach, fbit_fset_self _ _ _ rfl (by decide), rg_rgPut_self, Nat.mod_eq_of_lt (unsigned_lt 32 _)]
  by_cases h : 500 * 256 < signed 32 (unsigned 32 (median x.dIn))
  · rw [if_pos h, decide_eq_true h, decide_eq_true rfl]
  · rw [if_neg h, decide_eq_false h, decide_eq_false (by decide)]

theorem linkStep_delayShown (m : Nat) (hl : l < 128) : linkStep (delayShown d l x) m = linkStep d m := by
  rw [delayShown, longReach, linkStep_fset _ _ _ _ (by decide), linkStep_congr (rg_rgPut_ne _ _ (linkDelay_ne_status l m hl).symm),
    linkStep_congr (rg_congr (bellLinkPut_regs ..) _)]

end

/-- What is known of a link once its word has been taken in. -/
def linkHeard (d : Dev) (l : Nat) (w : List Byte) : BellLink :=
  exchanged { bellLink d l with rx := some (rebuild48 (ns256 d) (field w 0 6), ns256 d) } (ns256 d) (rebuild48 (ns256 d) (field w 0 6))
    (delayIn (ns256 d) (rg d (Reg.BELL_LINK_ASYM l)) w)

/-- The device with an exchange taken in, before its offset is followed. -/
def wordHeard (d : Dev) (l : Nat) (w : List Byte) : Dev :=
  delayShown (wordNoted d l (rebuild48 (ns256 d) (field w 0 6)) (ns256 d)) l (linkHeard d l w)

section
variable (d : Dev) {l : Nat} (w : List Byte)

theorem rg_wordHeard_ne {a : Nat} (hd : a ≠ Reg.BELL_LINK_DELAY l) (hx : a ≠ Reg.BELL_XCHG_CNT) (hs : a ≠ Reg.LINK_STATUS l) :
    rg (wordHeard d l w) a = rg d a := by
  rw [wordHeard, rg_delayShown_ne _ _ _ hd hs, rg_wordNoted_ne _ _ _ _ hx]

variable (hl : l < 128)
include hl

theorem linkAsym_ne_xchg : Reg.BELL_LINK_ASYM l ≠ Reg.BELL_XCHG_CNT := by unfold Reg.BELL_LINK_ASYM Reg.BELL_XCHG_CNT; omega
theorem linkDelay_ne_xchg : Reg.BELL_LINK_DELAY l ≠ Reg.BELL_XCHG_CNT := by unfold Reg.BELL_LINK_DELAY Reg.BELL_XCHG_CNT; omega

theorem rg_wordHeard_bell {a : Nat} (ha : a < 0x01C400) : rg (wordHeard d l w) a = rg d a := by
  refine rg_wordHeard_ne d w ?_ ?_ ?_
  · unfold Reg.BELL_LINK_DELAY
    omega
  · unfold Reg.BELL_XCHG_CNT
    omega
  · unfold Reg.LINK_STATUS
    omega

theorem rg_wordHeard_xchg : rg (wordHeard d l w) Reg.BELL_XCHG_CNT = satInc (rg d Reg.BELL_XCHG_CNT) 1 := by
  have hst : Reg.BELL_XCHG_CNT ≠ Reg.LINK_STATUS l := by
    unfold Reg.BELL_XCHG_CNT Reg.LINK_STATUS
    omega
  rw [wordHeard, rg_delayShown_ne _ _ _ (linkDelay_ne_xchg hl).symm hst, rg_wordNoted_self]

theorem bellState_wordHeard : bellState (wordHeard d l w) = bellState d := by
  rw [bellState, fget, rg_wordHeard_bell d w hl (by decide), bellState, fget]

theorem activeParent_wordHeard : activeParent (wordHeard d l w) = activeParent d := by
  have hpar : ∀ k, k < 4 → rg (wordHeard d l w) (Reg.BELL_PARENT k) = rg d (Reg.BELL_PARENT k) := fun k hk =>
    rg_wordHeard_bell d w hl (by unfold Reg.BELL_PARENT; omega)
  have hstep : ∀ m, linkStep (wordHeard d l w) m = linkStep d m := fun m => by
    have hm : Reg.LINK_STATUS m ≠ Reg.BELL_XCHG_CNT := by
      unfold Reg.LINK_STATUS Reg.BELL_XCHG_CNT
      omega
    rw [wordHeard, linkStep_delayShown _ _ _ _ hl, linkStep_congr (rg_wordNoted_ne _ _ _ _ hm)]
  exact activeParent_congr hpar hstep (bellState_wordHeard d w hl) rfl

end

/-- Between two devices nothing differs but registers and what the bell has measured of links. -/
def Measured (d e : Dev) : Prop := ({ e with regs := d.regs, bell := { e.bell with links := d.bell.links } } : Dev) = d

theorem Measured.trans {d e f : Dev} (h : Measured d e) (g : Measured e f) : Measured d f :=
  Eq.trans (congrArg (fun x : Dev => { x with regs := d.regs, bell := { x.bell with links := d.bell.links } }) g) h

theorem measured_rgPut (d : Dev) (a v : Nat) : Measured d (rgPut d a v) := rfl

theorem measured_bellLinkPut (d : Dev) (l : Nat) (x : BellLink) : Measured d (bellLinkPut d l x) := rfl

theorem measured_wordHeard (d : Dev) (l : Nat) (w : List Byte) : Measured d (wordHeard d l w) := by
  rw [wordHeard, delayShown, longReach, wordNoted, bump, fset]
  exact ((((measured_bellLinkPut ..).trans (measured_rgPut ..)).trans (measured_bellLinkPut ..)).trans (measured_rgPut ..)).trans (measured_rgPut ..)

/-- An echo that comes to a bell in FREE without an active parent is taken in and not followed. -/
theorem wordReceive_of_free {d : Dev} {l : Nat} {w : List Byte} (hl : l < 128) (ha : alive d = true) (hf : bellFlows d l = true)
    (hb : bit (byteAt w 15) 3 = true) (hs : bellState d = 0) (hp : activeParent d = none) : wordReceive d l w = wordHeard d l w := by
  have hwatch := bellWatch_of_off ((bellState_wordHeard d w hl).trans hs)
  have hpar := (activeParent_wordHeard d w hl).trans hp
  have hlink := bellLink_wordNoted d l (rebuild48 (ns256 d) (field w 0 6)) (ns256 d)
  have hasym := rg_wordNoted_ne d l (rebuild48 (ns256 d) (field w 0 6)) (ns256 d) (linkAsym_ne_xchg hl)
  simp only [wordHeard, linkHeard, wordNoted, delayShown, exchanged, delayIn] at hwatch hpar hlink hasym ⊢
  simp only [wordReceive, ha, hf, hb, Bool.not_true, Bool.or_self, Bool.false_eq_true, ↓reduceIte, hlink, hasym, hwatch, hpar]

/-! ## Steering (R251, R258) -/

/-- The increment that an offset in 2^-8 ns asks for, where v is free within 1,000 ns. -/
def incFor (off : Int) (v : Nat) : Nat :=
  if off > 0 then max incMin (min (if off.natAbs > 1000 * 256 then incMin else v) (incNom - 1))
  else if off < 0 then min incMax (max (if off.natAbs > 1000 * 256 then incMax else v) (incNom + 1)) else incNom

theorem incFor_bounds (off : Int) (v : Nat) :
    incMin ≤ incFor off v ∧ incFor off v ≤ incMax ∧ (0 < off → incFor off v < incNom) ∧ (off < 0 → incNom < incFor off v)
      ∧ (1000 * 256 < off → incFor off v = incMin) ∧ (off < -(1000 * 256) → incFor off v = incMax) := by
  unfold incFor incMin incMax incNom
  split
  · split <;> omega
  · split
    · split <;> omega
    · omega

theorem inc_steer (d : Dev) (off : Int) : rg (steer d off) Reg.BELL_INC = incFor off (Config.steerFree off d.free) := by
  obtain ⟨-, hmax, -⟩ := incFor_bounds off (Config.steerFree off d.free)
  have hlt : incFor off (Config.steerFree off d.free) < 2 ^ 32 := Nat.lt_of_le_of_lt hmax (by decide)
  rw [← Nat.mod_eq_of_lt hlt, steer, rg_rgPut_self]
  unfold incFor
  by_cases h : off > 0
  · simp only [h, ↓reduceIte]
  · simp only [h, ↓reduceIte]

end Sys2Proof.Machine
end

section
/-! PROOFS. The bell's happenings (R260, R261, R263, R264): external time, changes of the tick and step ticks. -/

namespace Sys2Proof.Machine

/-! ## External time (R260, R261) -/

theorem ns256_congr {d e : Dev} (h : e.clk = d.clk) : ns256 e = ns256 d := by rw [ns256, h, ns256]

/-- The signed distance to the nearest whole second, in 2^-8 ns. -/
def ppsOffset (d : Dev) : Int :=
  if 2 * (ns256 d % (256 * 1000000000)) < 256 * 1000000000 then ((ns256 d % (256 * 1000000000) : Nat) : Int)
  else ((ns256 d % (256 * 1000000000) : Nat) : Int) - ((256 * 1000000000 : Nat) : Int)

/-- The device that has seen a PPS edge. -/
def ppsMarked (d : Dev) : Dev := fset d Reg.BELL_STATUS Fd.BELL_STATUS_pps_seen 1

/-- The device that has seen a PPS edge and shows its offset. -/
def ppsShown (d : Dev) : Dev := rgPut (ppsMarked d) Reg.BELL_PPS_ERR (unsigned 32 (ppsOffset d))

theorem rg_ppsMarked_ctrl (d : Dev) : rg (ppsMarked d) Reg.BELL_CTRL = rg d Reg.BELL_CTRL := rg_fset_ne d _ _ (by decide)

theorem rg_ppsShown_ctrl (d : Dev) : rg (ppsShown d) Reg.BELL_CTRL = rg d Reg.BELL_CTRL :=
  (rg_rgPut_ne _ _ (by decide)).trans (rg_ppsMarked_ctrl d)

theorem ppsEdge_of_follower {d : Dev} (ha : alive d = true) (hp : ppsEn d = true) (hm : isMaster d = false) : ppsEdge d = ppsShown d := by
  have hen : ppsEn (ppsMarked d) = true := (ppsEn_congr (rg_ppsMarked_ctrl d)).trans hp
  have hns : ns256 (ppsMarked d) = ns256 d := ns256_congr (fset_clk ..)
  have hrole : isMaster (ppsShown d) = false := (isMaster_congr (rg_ppsShown_ctrl d)).trans hm
  simp only [ppsShown, ppsOffset, ppsMarked] at hen hns hrole ⊢
  simp only [ppsEdge, ha, hen, hns, hrole, Bool.not_true, Bool.not_false, Bool.false_eq_true, ↓reduceIte]

theorem rg_ppsShown_err (d : Dev) : rg (ppsShown d) Reg.BELL_PPS_ERR = unsigned 32 (ppsOffset d) := by
  rw [ppsShown, rg_rgPut_self, Nat.mod_eq_of_lt (unsigned_lt 32 _)]

theorem seen_ppsShown (d : Dev) : fbit (ppsShown d) Reg.BELL_STATUS Fd.BELL_STATUS_pps_seen = true := by
  rw [ppsShown, fbit_rgPut_ne _ _ _ (by decide), ppsMarked, fbit_fset_self _ _ _ rfl (by decide), decide_eq_true rfl]

theorem rgPut_onlyRegs (d : Dev) (a v : Nat) : OnlyRegs [a] d (rgPut d a v) :=
  ⟨rfl, fun _ hb => rg_rgPut_ne d v (by simpa using hb)⟩

theorem ppsShown_only (d : Dev) : OnlyRegs [Reg.BELL_STATUS, Reg.BELL_PPS_ERR] d (ppsShown d) := by
  have hmark : OnlyRegs [Reg.BELL_STATUS, Reg.BELL_PPS_ERR] d (ppsMarked d) := (fset_onlyRegs ..).mono (by simp)
  exact hmark.trans ((rgPut_onlyRegs ..).mono (by simp))

/-- A MASTER in ACQUIRE or LOCKED that has missed PPS for three seconds. -/
theorem ppsMiss_of_late {d : Dev} (ha : alive d = true) (hp : ppsEn d = true) (hm : isMaster d = true) (hs : bellState d = 1 ∨ bellState d = 2)
    (ht : d.bell.ppsSeen + 3000000000 ≤ ns d) :
    ppsMiss d = holdover (bellEntry (unitFault (bump d Reg.BELL_PPS_MISS_CNT) Reg.BELL_FAULT Fd.BELL_FAULT_pps_missing 907) 4 (d.bell.ppsAt.getD 0)) := by
  have hbell : (unitFault (bump d Reg.BELL_PPS_MISS_CNT) Reg.BELL_FAULT Fd.BELL_FAULT_pps_missing 907).bell = d.bell := by
    rw [unitFault, raise_bell, fset_bell, bump_bell]
  simp only [ppsMiss, ha, hp, hm, hs, Nat.not_lt.mpr ht, hbell, Bool.not_true, Bool.or_self, decide_true, decide_false, Bool.false_eq_true, ↓reduceIte]

theorem ppsOut_of_edge {d : Dev} (ha : alive d = true) (he : fbit d Reg.BELL_CTRL Fd.BELL_CTRL_pps_out_en = true)
    (hn : d.bell.ppsSec ≠ some ((ns d + 2) / 1000000000)) (ht : ns d ≤ (ns d + 2) / 1000000000 * 1000000000 + 2) :
    ppsOut d = emit (bellPut d { d.bell with ppsOut := some ((ns d + 2) / 1000000000 * 1000000000 + 100000000), ppsSec := some ((ns d + 2) / 1000000000) })
      (.pps true) := by
  simp only [ppsOut, ht, ppsRise, ha, he, hn, Bool.not_true, Bool.or_self, decide_false, Bool.false_eq_true, ↓reduceIte]
  rfl

/-! ## TICK_CHANGE_EFFECT (R263) -/

/-- The device with no change of the tick armed. -/
def tickDisarmed (d : Dev) : Dev := fset (bellPut d { d.bell with tickArm := none }) Reg.BELL_TICK Fd.BELL_TICK_pend 0

theorem fbit_tickDisarmed (d : Dev) {a : Nat} (f : Nat × Nat) (h : a ≠ Reg.BELL_TICK) : fbit (tickDisarmed d) a f = fbit d a f := by
  rw [tickDisarmed, fbit_fset_ne _ _ _ _ h, fbit_congr (bellPut_regs ..)]

theorem stepArmed_tickDisarmed (d : Dev) : stepArmed (tickDisarmed d) = stepArmed d := fbit_tickDisarmed d _ (by decide)

section
variable {d : Dev} {sel t : Nat} (harm : d.bell.tickArm = some (sel, t)) (ht : t ≤ ns d)
include harm ht

/-- An armed step refuses the change. -/
theorem tickEffect_of_armed (busy : Bool) (hs : stepArmed d = true) : tickEffect d busy =
    unitFault (fset (tickDisarmed d) Reg.BELL_TICK Fd.BELL_TICK_err 1) Reg.BELL_FAULT Fd.BELL_FAULT_tick_refused 909 := by
  have hstep := (stepArmed_tickDisarmed d).trans hs
  simp only [tickDisarmed, bellPut] at hstep ⊢
  simp only [tickEffect, harm, Nat.not_lt.mpr ht, hstep, or_true, ↓reduceIte]

/-- Nothing refuses the change: the new length is in force from its time on. -/
theorem tickEffect_of_quiet (hg : ∀ p ∈ List.range 128, fbit d (Reg.TM_GATE_STATUS p) Fd.TM_GATE_STATUS_en = false) (hs : stepArmed d = false) :
    tickEffect d false =
      let f := fset (tickDisarmed d) Reg.BELL_TICK Fd.BELL_TICK_sel sel
      bellEntry { f with clk := { f.clk with ticked := t / tickOf sel, slotTick := t / tickOf sel } } 0 (tickOf sel) (some t) := by
  have hstep := (stepArmed_tickDisarmed d).trans hs
  have hgates : (List.range 128).any (fun p => fbit (tickDisarmed d) (Reg.TM_GATE_STATUS p) Fd.TM_GATE_STATUS_en) = false := by
    refine List.any_eq_false.mpr fun p hp => ?_
    rw [fbit_tickDisarmed d _ (by unfold Reg.TM_GATE_STATUS Reg.BELL_TICK; omega), hg p hp]
    exact Bool.false_ne_true
  simp only [tickDisarmed, bellPut] at hstep hgates ⊢
  simp only [tickEffect, harm, Nat.not_lt.mpr ht, hstep, hgates, Bool.false_eq_true, or_self, ↓reduceIte]

end

/-- The new length is in force. -/
theorem tickLen_fset_sel (d : Dev) {sel : Nat} (h : sel ≤ 5) : tickLen (fset d Reg.BELL_TICK Fd.BELL_TICK_sel sel) = tickOf sel := by
  rw [tickLen, fget_fset_self _ _ _ _ (by decide) (by decide)]
  exact congrArg tickOf (Nat.mod_eq_of_lt (Nat.lt_of_le_of_lt h (by decide)))

/-! ## STEP_TICK (R264, R268) -/

/-- The STEP entry of step c on a device. -/
def stepBody (d : Dev) (c : Nat) : List Byte :=
  beBytes 4 c ++ beBytes 2 (fwMajor d (runningSlot d)) ++ beBytes 4 (fwBuild d (runningSlot d))
    ++ beBytes 1 (fget d Reg.BELL_TICK Fd.BELL_TICK_sel) ++ beBytes 4 (mapCrc d) ++ beBytes 4 (rg d Reg.BELL_TT_ID)

/-- The device with step c counted and its entry appended. -/
def stepLogged (d : Dev) (c : Nat) : Dev :=
  append (rgPut d Reg.BELL_STEP_CNT c) 0x08 0 0 c (stepBody (rgPut d Reg.BELL_STEP_CNT c) c)

/-- The device whose present tick is stamped; a period or origin written while armed comes into force. -/
def stepStamped (f : Dev) : Dev :=
  bellPut f { f.bell with stepAt := some (tickIdx f), stepIn := (match f.bell.stepNext with | some x => some x | none => f.bell.stepIn), stepNext := none }

theorem stepDue_of_boundary {d : Dev} {p o : Nat} (hin : d.bell.stepIn = some (p, o)) (harm : stepArmed d = true) (hle : o / tickLen d ≤ tickIdx d)
    (hmod : (tickIdx d - o / tickLen d) % p = 0) (hat : d.bell.stepAt ≠ some (tickIdx d)) : stepDue d = true := by
  simp only [stepDue, hin, harm, hle, hmod, hat, ne_eq, not_false_eq_true, and_self, decide_true, Bool.and_self]

theorem stepStamp_of_due {d : Dev} (h : stepDue d = true) : stepStamp d = stepStamped (stepLogged d ((rg d Reg.BELL_STEP_CNT + 1) % 2 ^ 32)) := by
  rw [stepStamped, stepLogged, stepBody]
  simp only [stepStamp, h, Bool.not_true, Bool.false_eq_true, ↓reduceIte]
  generalize append _ _ _ _ _ _ = f
  rfl

/-! ## The bell's happenings as instructions -/

section
variable {s : State} (ha : alive s.dev = true)
include ha

theorem exec_bellWordSend (l : Fin 128) : exec (.bellWordSend l) s = .next (s.after (wordSend s.dev l.val)) :=
  act_next (f := fun d => wordSend d l.val) ha

theorem exec_bellWordReceive (l : Fin 128) (w : List Byte) : exec (.bellWordReceive l w) s = .next (s.after (wordReceive s.dev l.val w)) :=
  act_next (f := fun d => wordReceive d l.val w) ha

theorem exec_ppsEdge : exec .ppsEdge s = .next (s.after (ppsEdge s.dev)) := act_next (f := ppsEdge) ha

theorem exec_ppsMiss : exec .ppsMiss s = .next (s.after (ppsMiss s.dev)) := act_next (f := ppsMiss) ha

theorem exec_ppsOutEdge : exec .ppsOutEdge s = .next (s.after (ppsOut s.dev)) := act_next (f := ppsOut) ha

theorem exec_tickChangeEffect :
    exec .tickChangeEffect s = .next (s.after (tickEffect s.dev (s.dev.hud.groups.any (fun g => g.2.valid)))) :=
  act_next (f := fun d => tickEffect d (d.hud.groups.any (fun g => g.2.valid))) ha

theorem exec_stepTick : exec .stepTick s = .next (s.after (stepStamp s.dev)) := act_next (f := stepStamp) ha

end

/-- Settles O28: each word and happening in the cases that its conditions leave. -/
theorem bellFollowsItsParent : Obligations.BellFollowsItsParent := by
  unfold Obligations.BellFollowsItsParent
  refine ⟨fun s l => ⟨?send, ?receive, ?steering⟩, fun s => ⟨?edge, ?miss, ?out, ?tick, ?step⟩⟩
  case send =>
    intro _ ha hf hd
    rw [exec_bellWordSend ha, wordSend_of_due ha hf hd]
    rfl
  case receive =>
    intro w ha hf hb hp hs
    refine ⟨_, exec_bellWordReceive ha l w, ?_⟩
    rw [wordReceive_of_free l.isLt ha hf hb hs hp]
    exact ⟨bellLink_delayShown .., rg_delayShown_delay _ _ _ l.isLt, rg_wordHeard_xchg _ w l.isLt, longReach_delayShown ..,
      fun _ hd hx hst => rg_wordHeard_ne _ w hd hx hst, measured_wordHeard ..⟩
  case steering =>
    intro off
    simp only [inc_steer]
    exact incFor_bounds ..
  case edge =>
    intro ha hp hm
    refine ⟨_, exec_ppsEdge ha, ?_⟩
    rw [ppsEdge_of_follower ha hp hm]
    exact ⟨rg_ppsShown_err _, seen_ppsShown _, ppsShown_only _⟩
  case miss =>
    intro ha hp hm hs ht
    rw [exec_ppsMiss ha, ppsMiss_of_late ha hp hm hs ht]
  case out =>
    intro ha he _ hn ht
    rw [exec_ppsOutEdge ha, ppsOut_of_edge ha he hn ht, bellPut]
  case tick =>
    intro sel t ha harm ht hsel
    rw [exec_tickChangeEffect ha]
    refine ⟨fun hgr hga hst => ⟨?_, tickLen_fset_sel _ hsel⟩, fun hst => ?_⟩
    · have hbusy : s.dev.hud.groups.any (fun g => g.2.valid) = false :=
        List.any_eq_false.mpr fun g hg => Bool.not_eq_true _ ▸ hgr g hg
      rw [hbusy, tickEffect_of_quiet harm ht hga hst, tickDisarmed, bellPut]
    · rw [tickEffect_of_armed harm ht _ hst, tickDisarmed, bellPut]
  case step =>
    intro p o ha hin harm _ hle hmod hat c e f
    have hstamp : stepStamp s.dev = stepStamped f := stepStamp_of_due (stepDue_of_boundary hin harm hle hmod hat)
    rw [exec_stepTick ha, hstamp]
    clear_value f
    rfl

end Sys2Proof.Machine
end

section
/-! PROOFS. Secure writes of registers none of whose fields asks for an unlock (R14, R512, R517): they reach the register whole. -/

namespace Sys2Proof.Machine

/-! ## A secure write that needs no unlock -/

/-- A register of a block's own, assigned with fields `fs`, that a secure write reaches whole: writes of the block are not posted, the register is no
part of a multi-word field, and none of its fields asks for an unlock. -/
structure OpenReg (a : Nat) (b : BlkRow) (fs : List Fld) : Prop where
  blk : blkOf a = some (b, 0)
  flds : regFlds a = some fs
  single : multiWord a = none
  low : 0x100 ≤ a % 0x4000
  high : a % 0x4000 < 0x1000
  notPosted : b.posted = false
  notCmd : b.kind ≠ 0x06
  noLock : ∀ g ∈ fs, g.lock = false

/-- Some field of `fs` at these bits is read and written. -/
abbrev RwFld (fs : List Fld) (hi lo : Nat) : Prop := ∃ f ∈ fs, f.hi = hi ∧ f.lo = lo ∧ f.acc = .rw

/-- The device after a write at a register has used the requester's unlock of its block. -/
def unlockSpent (d : Dev) (who : Req) (a : Nat) : Dev := (consume d who (blkBase a)).2

/-- What a secure write of v comes to at a register with fields `fs`. -/
def secureWord (d : Dev) (who : Req) (a : Nat) (fs : List Fld) (v : Nat) : Wr :=
  wordWrite fs (rg d a) v (fbit d (Reg.BLK_STATUS (blkBase a)) (unlockFld who)) true

/-- Only the status of the block tells that an unlock was used. -/
theorem rg_unlockSpent (d : Dev) (who : Req) {a c : Nat} (h : c ≠ Reg.BLK_STATUS (blkBase a)) : rg (unlockSpent d who a) c = rg d c :=
  rg_consume_ne d who h

theorem unlockSpent_onlyRegs (d : Dev) (who : Req) (a : Nat) : OnlyRegs [Reg.BLK_STATUS (blkBase a)] d (unlockSpent d who a) :=
  fset_onlyRegs ..

/-- The device after a secure write of v at a register with fields `fs` that stores what the write comes to. -/
def wordStored (d : Dev) (who : Req) (a : Nat) (fs : List Fld) (v : Nat) : Dev := rgPut (unlockSpent d who a) a (secureWord d who a fs v).new

theorem wordStored_onlyRegs (d : Dev) (who : Req) (a : Nat) (fs : List Fld) (v : Nat) :
    OnlyRegs [a, Reg.BLK_STATUS (blkBase a)] d (wordStored d who a fs v) :=
  ((unlockSpent_onlyRegs ..).mono (by simp)).trans ((rgPut_onlyRegs ..).mono (by simp))

section
variable {d : Dev} {who : Req} {a : Nat} {b : BlkRow} {fs : List Fld} (ho : OpenReg a b fs) (v : Nat)
include ho

theorem OpenReg.ne_status : a ≠ Reg.BLK_STATUS (blkBase a) := by
  have hlow := ho.low
  unfold Reg.BLK_STATUS blkBase
  omega

theorem OpenReg.rg_spent : rg (unlockSpent d who a) a = rg d a := rg_unlockSpent d who ho.ne_status

theorem OpenReg.granted (old : Nat) (u : Bool) : Granted fs old v u :=
  .inr fun g hg hl => Bool.noConfusion (hl.symm.trans (ho.noLock g hg))

/-- A secure write reaches the register, and uses the unlock. -/
theorem OpenReg.busWrite_eq (hbus : BusReady d) (hs : reqSecure d who = true) :
    busWrite d who a v 15 = applyReg (unlockSpent d who a) who b.kind 0 a (secureWord d who a fs v) := by
  have hlow := ho.low
  have hhigh := ho.high
  have hown : blkBase a + a % 0x1000 = a := by unfold blkBase; omega
  have hop : a % 0x4000 / 0x1000 = 0 := by omega
  have hctrl : Reg.SIT_CTRL ≠ Reg.BLK_STATUS (blkBase a) := by unfold Reg.SIT_CTRL Reg.BLK_STATUS blkBase; omega
  have hs' : reqSecure (unlockSpent d who a) who = true := by
    rw [← hs]
    simp only [reqSecure, fbit, rg_unlockSpent d who hctrl]
  have hw : wordWrite fs (rg (unlockSpent d who a) a) v (fbit d (Reg.BLK_STATUS (blkBase a)) (unlockFld who)) true = secureWord d who a fs v := by
    rw [ho.rg_spent, secureWord]
  have hlock : (secureWord d who a fs v).lock = false := wordWrite_lock_of_granted (ho.granted v ..)
  have hdeny : (secureWord d who a fs v).deny = false := wordWrite_deny_of_secure ..
  rw [busWrite_of_secure v hbus hs hown ho.blk ho.flds ho.notPosted]
  change regWrite (unlockSpent d who a) who a v (fbit d (Reg.BLK_STATUS (blkBase a)) (unlockFld who)) = _
  simp only [regWrite, hown, ho.blk, ho.flds, hs', hop, aliasWord, hw, hlock, hdeny, ho.single, ho.notCmd, ite_self, Bool.false_eq_true, false_and,
    ↓reduceIte]

/-- What such a write makes of a field, and what of the field acts. -/
theorem OpenReg.secureWord_field {f : Fld} (hf : f ∈ fs) :
    bits (secureWord d who a fs v).new f.hi f.lo = fldKept f (bits (rg d a) f.hi f.lo) (bits v f.hi f.lo)
      ∧ bits (secureWord d who a fs v).act f.hi f.lo = fldActs f (bits v f.hi f.lo) :=
  wordWrite_of_granted (ho.granted v ..) (regFlds_descend ho.flds) hf

/-- A field that is read and written takes the written value. -/
theorem OpenReg.secureWord_rw {hi lo : Nat} (hf : RwFld fs hi lo) : bits (secureWord d who a fs v).new hi lo = bits v hi lo := by
  obtain ⟨f, hmem, rfl, rfl, hacc⟩ := hf
  rw [(ho.secureWord_field v hmem).1, fldKept, hacc]

theorem OpenReg.fget_wordStored {hi lo : Nat} (hf : RwFld fs hi lo) (hlo : lo ≤ hi) (hhi : hi < 32) :
    fget (wordStored d who a fs v) a (hi, lo) = bits v hi lo := by
  rw [wordStored, fget_rgPut_self _ _ _ hlo hhi]
  exact ho.secureWord_rw v hf

theorem OpenReg.fbit_wordStored {i : Nat} (hf : RwFld fs i i) (hi : i < 32) (hv : bits v i i = 1) :
    fbit (wordStored d who a fs v) a (i, i) = true := by
  rw [fbit_eq_decide, ho.fget_wordStored v hf (Nat.le_refl i) hi, hv, decide_eq_true rfl]

end

end Sys2Proof.Machine
end

section
/-! PROOFS. The port registers (R284, R303, R311, R321, R322, R341, R350): what each does with a secure write, and the change of a port's mode. -/

namespace Sys2Proof.Machine

/-! ## PORT_CFG (R284, R321) -/

/-- The rows of the block map for routing and for queues (R511). -/
abbrev rteBlk : BlkRow := ⟨0x0E, 0x034000, 1, false⟩
abbrev tmBlk : BlkRow := ⟨0x0F, 0x038000, 1, false⟩

/-- The fields of PORT_CFG. -/
def portCfgFlds : List Fld := [⟨31, 31, .rw, false, false, 0⟩, ⟨30, 28, .rw, false, false, 0⟩, ⟨27, 27, .rw, false, false, 1⟩,
  ⟨26, 26, .w1c, false, false, 0⟩, ⟨25, 25, .ro, false, false, 0⟩, ⟨20, 16, .ro, false, false, 0⟩, ⟨15, 8, .ro, false, false, 0⟩]

theorem portCfg_assigned : ∀ i : Fin 128, blkOf (Reg.PORT_CFG i) = some (rteBlk, 0) ∧ regFlds (Reg.PORT_CFG i) = some portCfgFlds
    ∧ multiWord (Reg.PORT_CFG i) = none := by decide +kernel

theorem openReg_portCfg (i : Fin 128) : OpenReg (Reg.PORT_CFG i) rteBlk portCfgFlds where
  blk := (portCfg_assigned i).1
  flds := (portCfg_assigned i).2.1
  single := (portCfg_assigned i).2.2
  low := by unfold Reg.PORT_CFG; omega
  high := by unfold Reg.PORT_CFG; omega
  notPosted := rfl
  notCmd := by decide
  noLock := by decide

theorem applyReg_portCfg (d : Dev) (who : Req) (i : Fin 128) (w : Wr) : applyReg d who 0x0E 0 (Reg.PORT_CFG i) w = portCfgWrite d i w.new := by
  have hoff : Reg.PORT_CFG i % 0x4000 = 0x500 + 4 * i := by unfold Reg.PORT_CFG; omega
  have hidx : (0x500 + 4 * i.val - 0x500) / 4 = i := by omega
  have hne : ∀ k < 0x500, 0x500 + 4 * i.val ≠ k := by omega
  have hcommon : ¬0x500 + 4 * i.val < 0x100 := by omega
  have hin : 0x500 ≤ 0x500 + 4 * i.val ∧ 0x500 + 4 * i.val < 0x700 := by omega
  simp only [applyReg, hoff, hidx, hne, hcommon, hin, and_self, Nat.reduceLT, ↓reduceIte]

/-- An enabling write of a port whose members agree, its mode as before, stores the word. -/
theorem portCfgWrite_of_enabling {d : Dev} {p n : Nat} (ho : bit (rg d (Reg.PORT_CFG p)) 31 = false) (hk : bits n 30 28 ≤ 3)
    (hm : bit n 27 = bit (rg d (Reg.PORT_CFG p)) 27) (hok : memberOk d p (bits n 30 28) = true) :
    portCfgWrite d p n = rgPut d (Reg.PORT_CFG p) n := by
  have hk4 : ¬4 ≤ bits n 30 28 := by omega
  simp only [portCfgWrite, ho, hok, hm, hk4, decide_false, Bool.or_self, Bool.and_false, Bool.false_and, Bool.not_true, Bool.false_eq_true, ne_eq,
    not_true_eq_false, false_and, ↓reduceIte]

/-- One bit of a word that agrees with one of another as fields do. -/
theorem bit_eq_of_bits_eq {m n i : Nat} (h : bits m i i = bits n i i) : bit m i = bit n i := by
  rw [bit, testBit_eq_bits, h, ← testBit_eq_bits, bit]

theorem blkBase_portCfg (i : Fin 128) : blkBase (Reg.PORT_CFG i) = 0x034000 := by unfold blkBase Reg.PORT_CFG; omega

/-- An enabling write stores its word. -/
theorem busWrite_portCfg_of_enabling {d : Dev} {who : Req} {v : Nat} (i : Fin 128) (hbus : BusReady d) (hs : reqSecure d who = true)
    (ho : fbit d (Reg.PORT_CFG i) Fd.PORT_CFG_en = false) (hk : bits v 30 28 ≤ 3) (hm : bits v 27 27 = fget d (Reg.PORT_CFG i) Fd.PORT_CFG_mode)
    (hok : memberOk (consume d who 0x034000).2 i (bits v 30 28) = true) :
    busWrite d who (Reg.PORT_CFG i) v 15 = wordStored d who (Reg.PORT_CFG i) portCfgFlds v := by
  have hopen := openReg_portCfg i
  have hkind := hopen.secureWord_rw (d := d) (who := who) v (hi := 30) (lo := 28) (by decide)
  have hmode := hopen.secureWord_rw (d := d) (who := who) v (hi := 27) (lo := 27) (by decide)
  rw [hopen.busWrite_eq v hbus hs, applyReg_portCfg]
  refine portCfgWrite_of_enabling ?_ ?_ ?_ ?_
  · rw [hopen.rg_spent]
    exact ho
  · rwa [hkind]
  · rw [hopen.rg_spent]
    exact bit_eq_of_bits_eq (hmode.trans hm)
  · rwa [hkind, unlockSpent, blkBase_portCfg]

/-- The use of an unlock at a register of routing or of queues touches no port's configuration. -/
theorem rg_portCfg_unlockSpent {d : Dev} {who : Req} {a p : Nat} (hb : blkBase a = 0x034000 ∨ blkBase a = 0x038000) (hp : p < 128) :
    rg (unlockSpent d who a) (Reg.PORT_CFG p) = rg d (Reg.PORT_CFG p) :=
  rg_unlockSpent d who (by unfold Reg.PORT_CFG Reg.BLK_STATUS; omega)

theorem portEn_unlockSpent {d : Dev} {who : Req} {a p : Nat} (hb : blkBase a = 0x034000 ∨ blkBase a = 0x038000) (hp : p < 128) :
    portEn (unlockSpent d who a) p = portEn d p := by
  rw [portEn, fbit, rg_portCfg_unlockSpent hb hp, portEn, fbit]

theorem portKind_unlockSpent {d : Dev} {who : Req} {a p : Nat} (hb : blkBase a = 0x034000 ∨ blkBase a = 0x038000) (hp : p < 128) :
    portKind (unlockSpent d who a) p = portKind d p := by
  rw [portKind, fget, rg_portCfg_unlockSpent hb hp, portKind, fget]

/-! ## LINK_PORT (R284, R322) -/

/-- The fields of LINK_PORT. -/
def linkPortFlds : List Fld := [⟨31, 31, .rw, false, false, 0⟩, ⟨30, 30, .rw, false, false, 0⟩, ⟨29, 29, .w1c, false, false, 0⟩,
  ⟨22, 16, .rw, false, false, 0⟩, ⟨6, 0, .rw, false, false, 0⟩]

theorem linkPort_assigned : ∀ l : Fin 128, blkOf (Reg.LINK_PORT l) = some (rteBlk, 0) ∧ regFlds (Reg.LINK_PORT l) = some linkPortFlds
    ∧ multiWord (Reg.LINK_PORT l) = none := by decide +kernel

theorem openReg_linkPort (l : Fin 128) : OpenReg (Reg.LINK_PORT l) rteBlk linkPortFlds where
  blk := (linkPort_assigned l).1
  flds := (linkPort_assigned l).2.1
  single := (linkPort_assigned l).2.2
  low := by unfold Reg.LINK_PORT; omega
  high := by unfold Reg.LINK_PORT; omega
  notPosted := rfl
  notCmd := by decide
  noLock := by decide

theorem applyReg_linkPort (d : Dev) (who : Req) (l : Fin 128) (w : Wr) : applyReg d who 0x0E 0 (Reg.LINK_PORT l) w = linkPortWrite d l w.new := by
  have hoff : Reg.LINK_PORT l % 0x4000 = 0xA00 + 4 * l := by unfold Reg.LINK_PORT; omega
  have hidx : (0xA00 + 4 * l.val - 0xA00) / 4 = l := by omega
  have hne : ∀ k < 0xA00, 0xA00 + 4 * l.val ≠ k := by omega
  have hcommon : ¬0xA00 + 4 * l.val < 0x100 := by omega
  have hport : ¬0xA00 + 4 * l.val < 0x700 := by omega
  have hin : 0xA00 ≤ 0xA00 + 4 * l.val ∧ 0xA00 + 4 * l.val < 0xC00 := by omega
  simp only [applyReg, hoff, hidx, hne, hcommon, hport, hin, and_false, and_self, Nat.reduceLT, ↓reduceIte]

/-- While no port is enabled a write stores its word, but for split on a T-link. -/
theorem linkPortWrite_of_disabled {d : Dev} {l n : Nat} (hp : ∀ q < 128, portEn d q = false) (hsplit : l < 96 → bit n 30 = false) :
    linkPortWrite d l n = rgPut d (Reg.LINK_PORT l) n := by
  have hfield : ∀ (w hi lo : Nat), hi + 1 - lo = 7 → portEn d (bits w hi lo) = false := fun w hi lo h =>
    hp _ (Nat.lt_of_lt_of_eq (bits_lt w hi lo) (congrArg (2 ^ ·) h))
  have hbusy : ∀ w, (((if bit w 31 then [bits w 6 0] else []) ++ (if bit w 30 then [bits w 22 16] else [])).any (portEn d)) = false := fun w => by
    refine List.any_eq_false.mpr fun q hq => Bool.eq_false_iff.mp ?_
    rcases List.mem_append.mp hq with h | h
    all_goals
      split at h
      · rw [List.mem_singleton.mp h]
        exact hfield _ _ _ rfl
      · cases h
  have ht : (decide (l < 96) && bit n 30) = false := by
    by_cases hl : l < 96
    · rw [hsplit hl, Bool.and_false]
    · rw [decide_eq_false hl, Bool.false_and]
  rw [linkPortWrite]
  simp only [List.any_append (xs := _ ++ _), hbusy, ht, Bool.or_self, Bool.false_eq_true, ↓reduceIte]

theorem blkBase_linkPort (l : Fin 128) : blkBase (Reg.LINK_PORT l) = 0x034000 := by unfold blkBase Reg.LINK_PORT; omega

/-- A write of LINK_PORT while no port is enabled stores its word. -/
theorem busWrite_linkPort_of_disabled {d : Dev} {who : Req} {v : Nat} (l : Fin 128) (hbus : BusReady d) (hs : reqSecure d who = true)
    (hp : ∀ q < 128, portEn d q = false) (hsplit : l.val < 96 → bits v 30 30 = 0) :
    busWrite d who (Reg.LINK_PORT l) v 15 = wordStored d who (Reg.LINK_PORT l) linkPortFlds v := by
  have hopen := openReg_linkPort l
  have hsp := hopen.secureWord_rw (d := d) (who := who) v (hi := 30) (lo := 30) (by decide)
  rw [hopen.busWrite_eq v hbus hs, applyReg_linkPort]
  refine linkPortWrite_of_disabled (fun q hq => ?_) fun hl => bit_of_bits_eq_zero (hsp.trans (hsplit hl))
  rw [portEn_unlockSpent (.inl (blkBase_linkPort l)) hq]
  exact hp q hq

/-! ## RTE_CTRL (R303, R316) -/

/-- The fields of RTE_CTRL. -/
def rteCtrlFlds : List Fld := [⟨23, 16, .rw, false, false, 0x10⟩, ⟨4, 4, .trig, false, false, 0⟩, ⟨3, 3, .rw, false, false, 1⟩,
  ⟨2, 2, .rw, false, false, 1⟩, ⟨1, 1, .rw, false, false, 1⟩]

theorem openReg_rteCtrl : OpenReg Reg.RTE_CTRL rteBlk rteCtrlFlds where
  blk := by decide +kernel
  flds := by decide +kernel
  single := by decide +kernel
  low := by decide
  high := by decide
  notPosted := rfl
  notCmd := by decide
  noLock := by decide

theorem applyReg_rteCtrl (d : Dev) (who : Req) (w : Wr) :
    applyReg d who 0x0E 0 Reg.RTE_CTRL w
      = if bit w.act 4 then resync (rgPut d Reg.RTE_CTRL w.new) else rgPut d Reg.RTE_CTRL w.new := by
  simp only [applyReg, show Reg.RTE_CTRL % 0x4000 = 0x100 by decide, Nat.reduceEqDiff, Nat.reduceLT, ↓reduceIte]

/-- A write that sets resync stores its word and forgets which flows have carried SYN. -/
theorem busWrite_rteCtrl_resync {d : Dev} {who : Req} {v : Nat} (hbus : BusReady d) (hs : reqSecure d who = true) (hv : bits v 4 4 = 1) :
    busWrite d who Reg.RTE_CTRL v 15
      = resync (wordStored d who Reg.RTE_CTRL rteCtrlFlds v) := by
  have hact := (openReg_rteCtrl.secureWord_field (d := d) (who := who) v (f := ⟨4, 4, .trig, false, false, 0⟩) (by simp [rteCtrlFlds])).2
  rw [openReg_rteCtrl.busWrite_eq v hbus hs, applyReg_rteCtrl, if_pos (bit_of_bits_eq_one (hact.trans hv)), wordStored]

/-! ## TM_MIRROR_CTRL (R341, R350) -/

/-- The fields of TM_MIRROR_CTRL. -/
def mirrorFlds : List Fld := [⟨31, 31, .rw, false, false, 0⟩, ⟨30, 29, .rw, false, false, 0⟩, ⟨28, 28, .rw, false, false, 0⟩,
  ⟨27, 27, .w1c, false, false, 0⟩, ⟨26, 20, .rw, false, false, 0⟩, ⟨19, 13, .rw, false, false, 0⟩, ⟨12, 10, .rw, false, false, 7⟩,
  ⟨7, 0, .rw, false, false, 0xFE⟩]

theorem mirror_assigned : ∀ m : Fin 4, blkOf (Reg.TM_MIRROR_CTRL m) = some (tmBlk, 0) ∧ regFlds (Reg.TM_MIRROR_CTRL m) = some mirrorFlds
    ∧ multiWord (Reg.TM_MIRROR_CTRL m) = none := by decide +kernel

theorem openReg_mirror (m : Fin 4) : OpenReg (Reg.TM_MIRROR_CTRL m) tmBlk mirrorFlds where
  blk := (mirror_assigned m).1
  flds := (mirror_assigned m).2.1
  single := (mirror_assigned m).2.2
  low := by unfold Reg.TM_MIRROR_CTRL; omega
  high := by unfold Reg.TM_MIRROR_CTRL; omega
  notPosted := rfl
  notCmd := by decide
  noLock := by decide

theorem applyReg_mirror (d : Dev) (who : Req) (m : Fin 4) (w : Wr) : applyReg d who 0x0F 0 (Reg.TM_MIRROR_CTRL m) w = mirrorWrite d m w.new := by
  have hoff : Reg.TM_MIRROR_CTRL m % 0x4000 = 0x400 + 16 * m := by unfold Reg.TM_MIRROR_CTRL; omega
  have hidx : (0x400 + 16 * m.val - 0x400) / 16 = m := by omega
  have hne : ∀ k < 0x400, 0x400 + 16 * m.val ≠ k := by omega
  have hcommon : ¬0x400 + 16 * m.val < 0x100 := by omega
  have hgate : ¬0x400 + 16 * m.val < 0x400 := by omega
  have hin : 0x400 + 16 * m.val = 0x400 ∨ 0x400 + 16 * m.val = 0x410 ∨ 0x400 + 16 * m.val = 0x420 ∨ 0x400 + 16 * m.val = 0x430 := by omega
  simp only [applyReg, hoff, hidx, hne, hcommon, hgate, if_pos hin, and_false, Nat.reduceLT, ↓reduceIte]

/-- A session with a source and a VC that R350 allows is enabled toward an enabled ENDPOINT or RESERVED port: the word is stored. -/
theorem mirrorWrite_of_allowed {d : Dev} {m n : Nat} (hsrc : bits n 30 29 ≠ 3) (hvc : bits n 12 10 ≠ 0) (hp : portEn d (bits n 19 13) = true)
    (hk : portKind d (bits n 19 13) = 0 ∨ portKind d (bits n 19 13) = 3) : mirrorWrite d m n = rgPut d (Reg.TM_MIRROR_CTRL m) n := by
  simp only [mirrorWrite, hsrc, hvc, hp, hk, decide_true, decide_false, Bool.and_self, Bool.not_true, Bool.and_false, Bool.or_self,
    Bool.false_eq_true, ↓reduceIte]

theorem blkBase_mirror (m : Fin 4) : blkBase (Reg.TM_MIRROR_CTRL m) = 0x038000 := by unfold blkBase Reg.TM_MIRROR_CTRL; omega

/-- A write of a mirror session that R341 and R350 allow stores its word. -/
theorem busWrite_mirror_of_allowed {d : Dev} {who : Req} {v : Nat} (m : Fin 4) (hbus : BusReady d) (hs : reqSecure d who = true)
    (hsrc : bits v 30 29 ≠ 3) (hvc : bits v 12 10 ≠ 0) (hp : portEn d (bits v 19 13) = true)
    (hk : portKind d (bits v 19 13) = 0 ∨ portKind d (bits v 19 13) = 3) :
    busWrite d who (Reg.TM_MIRROR_CTRL m) v 15 = wordStored d who (Reg.TM_MIRROR_CTRL m) mirrorFlds v := by
  have hopen := openReg_mirror m
  have hsource := hopen.secureWord_rw (d := d) (who := who) v (hi := 30) (lo := 29) (by decide)
  have hport := hopen.secureWord_rw (d := d) (who := who) v (hi := 19) (lo := 13) (by decide)
  have hvcs := hopen.secureWord_rw (d := d) (who := who) v (hi := 12) (lo := 10) (by decide)
  have hlt : bits v 19 13 < 128 := bits_lt v 19 13
  rw [hopen.busWrite_eq v hbus hs, applyReg_mirror]
  refine mirrorWrite_of_allowed ?_ ?_ ?_ ?_
  · rwa [hsource]
  · rwa [hvcs]
  · rwa [hport, portEn_unlockSpent (.inr (blkBase_mirror m)) hlt]
  · rwa [hport, portKind_unlockSpent (.inr (blkBase_mirror m)) hlt]

/-! ## PORT_MODE_CHANGE (R284, R313) -/

/-- A mode written before the present tick comes into force. -/
theorem portMode_of_earlier {d : Dev} {p m : Nat} (hm : tget none d.rte.modeNext p = some m) (ht : m / 2 < tickIdx d) :
    portMode d p = { d with rte := { d.rte with
      modeNext := tset none d.rte.modeNext p none, modeNow := tset 1 d.rte.modeNow p (m % 2),
      ecn := if m % 2 = 0 then (List.range 8).foldl (fun x v => tdel x (p * 8 + v)) d.rte.ecn else d.rte.ecn } } := by
  rw [portMode, hm]
  exact if_pos ht

/-! ## The meanings -/

section
variable {s : State} (who : Req) (v : Word) (ha : alive s.dev = true)
include ha

theorem exec_portEnable (port : BitVec 7) :
    exec (.portEnable who port v) s = .next (s.after (busWrite s.dev who (Reg.PORT_CFG port.toNat) v.toNat 15)) :=
  actReg_next (f := fun d => busWrite d who (Reg.PORT_CFG port.toNat) v.toNat 15) ha

theorem exec_linkPortWrite (l : Fin 128) :
    exec (.linkPortWrite who l v) s = .next (s.after (busWrite s.dev who (Reg.LINK_PORT l) v.toNat 15)) :=
  actReg_next (f := fun d => busWrite d who (Reg.LINK_PORT l) v.toNat 15) ha

theorem exec_rteResync : exec (.rteResync who v) s = .next (s.after (busWrite s.dev who Reg.RTE_CTRL v.toNat 15)) :=
  actReg_next (f := fun d => busWrite d who Reg.RTE_CTRL v.toNat 15) ha

theorem exec_mirrorEnable (m : BitVec 2) :
    exec (.mirrorEnable who m v) s = .next (s.after (busWrite s.dev who (Reg.TM_MIRROR_CTRL m.toNat) v.toNat 15)) :=
  actReg_next (f := fun d => busWrite d who (Reg.TM_MIRROR_CTRL m.toNat) v.toNat 15) ha

end

theorem exec_portModeChange {s : State} (port : BitVec 7) (ha : alive s.dev = true) :
    exec (.portModeChange port) s = .next (s.after (portMode s.dev port.toNat)) :=
  act_next (f := fun d => portMode d port.toNat) ha

/-- Settles O11: each write reaches its register, which takes the one case that the conditions leave. -/
theorem portRegisterWrites : Obligations.PortRegisterWrites := by
  unfold Obligations.PortRegisterWrites
  intro s who v
  refine ⟨?enable, ?member, ?resync, ?mirror, ?mode⟩
  case enable =>
    intro port a hbus hs ho hv hk hm hok
    have hopen : OpenReg a rteBlk portCfgFlds := openReg_portCfg port.toFin
    have hw : busWrite s.dev who (Reg.PORT_CFG port.toNat) v.toNat 15 = wordStored s.dev who a portCfgFlds v.toNat :=
      busWrite_portCfg_of_enabling port.toFin hbus hs ho hk hm hok
    have honly := wordStored_onlyRegs s.dev who a portCfgFlds v.toNat
    rw [show blkBase a = 0x034000 from blkBase_portCfg port.toFin] at honly
    rw [exec_portEnable who v hbus.1, hw]
    exact ⟨_, rfl, hopen.fbit_wordStored _ (by decide) (by decide) (bits_of_msb hv),
      hopen.fget_wordStored _ (by decide) (by decide) (by decide), honly⟩
  case member =>
    intro l a hbus hs hp hsplit
    have hopen : OpenReg a rteBlk linkPortFlds := openReg_linkPort l
    have honly := wordStored_onlyRegs s.dev who a linkPortFlds v.toNat
    rw [show blkBase a = 0x034000 from blkBase_linkPort l] at honly
    rw [exec_linkPortWrite who v hbus.1, busWrite_linkPort_of_disabled l hbus hs (fun q hq => hp q (List.mem_range.mpr hq)) hsplit]
    exact ⟨_, rfl, hopen.fget_wordStored _ (by decide) (by decide) (by decide), hopen.fget_wordStored _ (by decide) (by decide) (by decide),
      hopen.fget_wordStored _ (by decide) (by decide) (by decide), hopen.fget_wordStored _ (by decide) (by decide) (by decide), honly⟩
  case resync =>
    intro hbus hs hv
    rw [exec_rteResync who v hbus.1, busWrite_rteCtrl_resync hbus hs hv]
    exact ⟨_, rfl, rfl, rfl⟩
  case mirror =>
    intro m a hbus hs hv hsrc hvc hp hk
    have hopen : OpenReg a tmBlk mirrorFlds := openReg_mirror m.toFin
    have hw : busWrite s.dev who (Reg.TM_MIRROR_CTRL m.toNat) v.toNat 15 = wordStored s.dev who a mirrorFlds v.toNat :=
      busWrite_mirror_of_allowed m.toFin hbus hs hsrc hvc hp hk
    have honly := wordStored_onlyRegs s.dev who a mirrorFlds v.toNat
    rw [show blkBase a = 0x038000 from blkBase_mirror m.toFin] at honly
    rw [exec_mirrorEnable who v hbus.1, hw]
    exact ⟨_, rfl, hopen.fbit_wordStored _ (by decide) (by decide) (bits_of_msb hv), hopen.fget_wordStored _ (by decide) (by decide) (by decide),
      hopen.fget_wordStored _ (by decide) (by decide) (by decide), hopen.fget_wordStored _ (by decide) (by decide) (by decide), honly⟩
  case mode =>
    intro port m ha hm ht
    rw [exec_portModeChange port ha, portMode_of_earlier hm ht]

end Sys2Proof.Machine
end

section
/-! PROOFS. What a frame that the device sends itself, an entry of the log and a late reply leave alone: no link and no connection of the flash
tier changes (R268, R294, R295, R303, R312, R487). -/

namespace Sys2Proof.Machine

theorem raiseOnce_lnk (d : Dev) (n k : Nat) : (raiseOnce d n k).lnk = d.lnk := by
  unfold raiseOnce
  split
  · rfl
  · rw [raise_lnk]

theorem poolAlloc_lnk (d : Dev) (c st n : Nat) : (poolAlloc d c st n).2.lnk = d.lnk := by
  unfold poolAlloc
  dsimp only
  split
  · rfl
  · exact (raiseOnce_lnk ..).trans (bump_lnk ..)

theorem stamp_lnk (d : Dev) (b : List Byte) : (stamp d b).2.lnk = d.lnk := by
  unfold stamp
  dsimp only
  split <;> rfl

theorem takeEcho_lnk (d : Dev) (b : List Byte) : (takeEcho d b).2.lnk = d.lnk := by
  unfold takeEcho
  split <;> rfl

theorem unreachable_lnk (d : Dev) : (unreachable d).lnk = d.lnk := (raise_lnk ..).trans (bump_lnk ..)

theorem cargoOrd_lnk (d : Dev) (c : Cargo) : (cargoOrd d c).2.lnk = d.lnk := by
  unfold cargoOrd
  split <;> rfl

theorem slotsFor_lnk (d : Dev) (corr src dst len : Nat) (c : Cargo) : (slotsFor d corr src dst len c).lnk = d.lnk := cargoOrd_lnk d c

theorem sendFrom_lnk (d : Dev) (st : Nat) (path : Path) (b : List Byte) (colour cls grans : Nat) (buf : Option Nat) (fence orig : Bool)
    (pass : Option (Nat × Nat)) : (sendFrom d st path b colour cls grans buf fence orig pass).lnk = d.lnk := by
  unfold sendFrom
  extract_lets o b' d' f free
  have hd' : d'.lnk = d.lnk := by
    dsimp only [d', o]
    split
    · exact takeEcho_lnk ..
    · rfl
  have hfree : (free d').lnk = d.lnk := by
    dsimp only [free]
    split
    · exact (release_padsKept ..).lnk.trans hd'
    · exact hd'
  split
  case h_1 => exact (slotsFor_lnk ..).trans hfree
  case h_2 => exact (slotsFor_lnk ..).trans hfree
  case h_3 =>
    split
    · exact (unreachable_lnk _).trans hfree
    · exact (slotsFor_lnk ..).trans hd'
  case h_4 =>
    split
    · exact (unreachable_lnk _).trans hfree
    · split
      · split
        · exact ((slotsFor_lnk ..).trans (bump_lnk ..)).trans hd'
        · exact (slotsFor_lnk ..).trans hd'
      · exact (slotsFor_lnk ..).trans hd'
  case h_5 => exact hfree
  case h_6 => exact (unreachable_lnk _).trans hfree

/-- A frame that the device originates is refused by its quota, or stamped and sent. -/
theorem originate_cases (d : Dev) (b : List Byte) (fence : Bool) (pass : Option (Nat × Nat)) :
    (∃ n, originate d b fence pass = (poolAlloc d 3 0 n).2)
      ∨ ∃ n c, originate d b fence pass
        = sendFrom (stamp (poolAlloc d 3 0 n).2 c).2 stMgmt (.port 127) (stamp (poolAlloc d 3 0 n).2 c).1 0 3 n none fence true pass := by
  cases h : (poolAlloc d 3 0 (gransOf (fLen (padMin 56 b)))).1 with
  | false =>
    refine .inl ⟨gransOf (fLen (padMin 56 b)), ?_⟩
    simp only [originate, h, Bool.not_false, ↓reduceIte]
  | true =>
    refine .inr ⟨gransOf (fLen (padMin 56 b)), padMin 56 b, ?_⟩
    simp only [originate, h, Bool.not_true, Bool.false_eq_true, ↓reduceIte]

theorem originate_lnk (d : Dev) (b : List Byte) (fence : Bool) (pass : Option (Nat × Nat)) : (originate d b fence pass).lnk = d.lnk := by
  rcases originate_cases d b fence pass with ⟨n, h⟩ | ⟨n, c, h⟩
  · rw [h, poolAlloc_lnk]
  · rw [h, sendFrom_lnk, stamp_lnk, poolAlloc_lnk]

theorem reply_lnk (d : Dev) (r : ReplyTo) (status : Nat) (fields : List Byte) (time : Option Nat) : (reply d r status fields time).lnk = d.lnk := by
  have hcount : (countReply d status).lnk = d.lnk := by
    unfold countReply
    split <;> exact bump_lnk ..
  exact (originate_lnk ..).trans hcount

theorem recFlush_lnk (d : Dev) : (recFlush d).lnk = d.lnk := by
  unfold recFlush
  refine List.foldlRecOn (motive := fun e : Dev => e.lnk = d.lnk) _ _ rfl fun e he r _ => ?_
  split
  · exact (LinksKept.append ..).lnk.trans he
  · exact he

theorem recSettle_lnk (d : Dev) (r : ReplyTo) (status : Option Nat) : (recSettle d r status).lnk = d.lnk := by
  unfold recSettle
  split
  · exact recFlush_lnk _
  · rfl

theorem replyLate_lnk (d : Dev) (r : ReplyTo) (status : Nat) (fields : List Byte) : (replyLate d r status fields).lnk = d.lnk :=
  (reply_lnk ..).trans (recSettle_lnk ..)

/-- The end of a transfer answers its requester or the running checkpoint alone. -/
theorem xferEnd_lnk (d : Dev) (c : Nat) (t : Transfer) (good : Bool) : (xferEnd d c t good).lnk = d.lnk := by
  unfold xferEnd
  split
  · exact replyLate_lnk ..
  · split <;> rfl

end Sys2Proof.Machine
end

section
/-! PROOFS. A fault of a unit is set in its register, and the raise that follows touches the referee's own registers alone (R445, R449). -/

namespace Sys2Proof.Machine

/-- The registers that a raise may touch. -/
abbrev RefReg (a : Nat) : Prop := a = Reg.REF_RAISE_CNT ∨ a = Reg.REF_RING_HEAD ∨ a = Reg.REF_RING_DROP_CNT ∨ a = Reg.REF_STATUS

section
variable {a : Nat} (h : ¬RefReg a)
include h

theorem rg_refWrite_ne (d : Dev) (n ev : Nat) : rg (refWrite d n ev).1 a = rg d a := by
  simp only [RefReg, not_or] at h
  obtain ⟨-, hhead, hdrop, hstatus⟩ := h
  unfold refWrite
  split
  · exact rg_fset_ne _ _ _ hhead
  · exact (rg_fset_ne _ _ _ hstatus).trans (rg_bump_ne _ _ hdrop)

theorem rg_raise1_ne (d : Dev) (n : Nat) : rg (raise1 d n).1 a = rg d a := by
  have hcount : rg (bump d Reg.REF_RAISE_CNT) a = rg d a := rg_bump_ne _ _ fun e => h (.inl e)
  unfold raise1
  dsimp only
  split
  · rfl
  · split
    · split
      · exact (rg_refWrite_ne h ..).trans hcount
      · refine (rg_refWrite_ne h ..).trans ?_
        split <;> exact hcount
    · exact hcount

theorem rg_raise_ne (d : Dev) (n : Nat) : rg (raise d n) a = rg d a := by
  unfold raise
  dsimp only
  split
  · exact (rg_raise1_ne h ..).trans (rg_raise1_ne h ..)
  · exact rg_raise1_ne h ..

/-- The fault shows in its unit's register. -/
theorem fbit_unitFault_self (d : Dev) {f : Nat × Nat} (n : Nat) (hf : f.1 = f.2) (h32 : f.2 < 32) : fbit (unitFault d a f n) a f = true := by
  rw [unitFault, fbit, rg_raise_ne h, ← fbit, fbit_fset_self _ _ _ hf h32, decide_eq_true rfl]

end

theorem unitFault_lnk (d : Dev) (a : Nat) (f : Nat × Nat) (n : Nat) : (unitFault d a f n).lnk = d.lnk := (raise_lnk ..).trans (fset_lnk ..)

end Sys2Proof.Machine
end

section
/-! PROOFS. The happenings of a flash connection (R313, R416, R417), each in the case that its conditions leave. -/

namespace Sys2Proof.Machine

@[simp] theorem flashAt_flashPut_self (d : Dev) (c : Nat) (x : Option Flash) : flashAt (flashPut d c x) c = x := tget_tset_self ..

theorem flashAt_congr {d e : Dev} (h : e.lnk = d.lnk) (c : Nat) : flashAt e c = flashAt d c := by rw [flashAt, h, flashAt]

/-- The first element of a list with a property is taken out from behind those without it. -/
theorem ltake_append_cons {α : Type} {p : α → Bool} {pre : List α} {t : α} (post : List α) (hpre : ∀ u ∈ pre, p u = false)
    (ht : p t = true) : ltake p (pre ++ t :: post) = some (t, pre ++ post) := by
  induction pre with
  | nil => exact if_pos ht
  | cons u pre ih =>
    obtain ⟨hu, hpre⟩ := List.forall_mem_cons.mp hpre
    simp only [List.cons_append, ltake, hu, ih hpre, Bool.false_eq_true, ↓reduceIte]

section
variable {d : Dev} {c : Nat} {x : Flash} (hx : flashAt d c = some x)
include hx

section
variable (he : x.error = false)
include he

/-! ## ROCE_ACK_TIMEOUT, FLASH_KEEPALIVE_LAPSE -/

/-- A connection fails: its transfers end, conn_failed is set. -/
theorem flashError_of_open :
    flashError d c = rsvFault (x.xfers.foldl (fun d t => xferEnd d c t false) (flashPut d c (some { x with error := true, xfers := [], out := [] })))
      x.entry Fd.RSV_FAULT_conn_failed := by
  simp only [flashError, hx, he, Bool.false_eq_true, ↓reduceIte]

theorem flashAt_flashError : flashAt (flashError d c) c = some { x with error := true, xfers := [], out := [] } := by
  have hends : ∀ (e : Dev) (ts : List Transfer), (ts.foldl (fun d t => xferEnd d c t false) e).lnk = e.lnk := fun e ts =>
    List.foldlRecOn (motive := fun y : Dev => y.lnk = e.lnk) _ _ rfl fun y hy t _ => (xferEnd_lnk ..).trans hy
  rw [flashError_of_open hx he, rsvFault, flashAt_congr ((unitFault_lnk ..).trans (hends ..)), flashAt_flashPut_self]

theorem conn_failed_flashError : fbit (flashError d c) (Reg.RSV_FAULT x.entry) Fd.RSV_FAULT_conn_failed = true := by
  have hreg : ¬RefReg (Reg.RSV_FAULT x.entry) := by
    unfold RefReg Reg.RSV_FAULT Reg.REF_RAISE_CNT Reg.REF_RING_HEAD Reg.REF_RING_DROP_CNT Reg.REF_STATUS
    omega
  rw [flashError_of_open hx he, rsvFault]
  exact fbit_unitFault_self hreg _ _ rfl (by decide)

section
variable (hs : ∃ t ∈ x.xfers, t.sent = true) (ht : x.at_ + 4096 * 2 ^ fget d (Reg.RSV_CFG x.entry) Fd.RSV_CFG_ack_exp ≤ ns d)
include hs ht

theorem roceTimeout_of_due : roceTimeout d c = if x.tries ≥ 7 then flashError d c
    else emit (flashPut d c (some { x with tries := x.tries + 1, at_ := ns d })) (.roce c 7 []) := by
  have hany : x.xfers.any (·.sent) = true := List.any_eq_true.mpr hs
  simp only [roceTimeout, hx, he, hany, Nat.not_lt.mpr ht, Bool.not_true, Bool.false_eq_true, or_self, ↓reduceIte]

theorem roceTimeout_of_retry (hn : x.tries < 7) :
    roceTimeout d c = emit (flashPut d c (some { x with tries := x.tries + 1, at_ := ns d })) (.roce c 7 []) := by
  rw [roceTimeout_of_due hx he hs ht, if_neg (by omega)]

theorem roceTimeout_of_spent (hn : 7 ≤ x.tries) : roceTimeout d c = flashError d c := by
  rw [roceTimeout_of_due hx he hs ht, if_pos hn]

end

/-! ## RDMA_ACCESS (R416) -/

section
variable {hd off len i : Nat} {r : Region} (hr : regionOf d hd = some (i, r))
include hr

section
variable (hb : ∃ t ∈ x.xfers, t.region = hd) (hc : r.cls = 6) (hlen : off + len ≤ regionBytes r)
include hb hc hlen

theorem rdmaAccess_write (data : List Byte) :
    rdmaAccess d c true hd off len data
      = flashPut (regionWrite d r off (padTo 1 (data.take len))) c (some { x with at_ := ns d, tries := 0, out := x.out ++ [(6, [])] }) := by
  have hany : x.xfers.any (fun t => decide (t.region = hd)) = true := by simpa using hb
  simp only [rdmaAccess, hx, he, hr, hany, hc, Nat.not_lt.mpr hlen, ne_eq, not_true_eq_false, Bool.not_true, Bool.false_eq_true, or_self,
    ↓reduceIte]

theorem rdmaAccess_read (data : List Byte) :
    rdmaAccess d c false hd off len data
      = flashPut d c (some { x with at_ := ns d, tries := 0, out := x.out ++ [(4, deliverBytes d r off len)] }) := by
  have hany : x.xfers.any (fun t => decide (t.region = hd)) = true := by simpa using hb
  simp only [rdmaAccess, hx, he, hr, hany, hc, Nat.not_lt.mpr hlen, ne_eq, not_true_eq_false, Bool.not_true, Bool.false_eq_true, or_self,
    ↓reduceIte]

end

/-- An access outside the regions that outstanding transfers bind is refused and counted. -/
theorem rdmaAccess_of_unbound (w : Bool) (data : List Byte)
    (hn : (∀ t ∈ x.xfers, t.region ≠ hd) ∨ r.cls ≠ 6 ∨ regionBytes r < off + len) :
    rdmaAccess d c w hd off len data
      = rsvFault (bump (flashPut d c (some { x with at_ := ns d, tries := 0, out := x.out ++ [(5, [])] })) Reg.RSV_DROP_CNT) x.entry
        Fd.RSV_FAULT_bad_access := by
  have hbad : (!x.xfers.any (fun t => decide (t.region = hd))) = true ∨ r.cls ≠ 6 ∨ off + len > regionBytes r := by
    refine hn.imp_left fun h => ?_
    rw [Bool.not_eq_true', List.any_eq_false]
    exact fun t ht => by simpa using h t ht
  simp only [rdmaAccess, hx, he, hr, if_pos hbad, Bool.false_eq_true, ↓reduceIte]

end

end

/-! ## ROCE_CNP_RECEIVE (R313, R417) -/

/-- The first notification, or one that comes a hold time after the last cut, cuts the rate. -/
theorem roceCnp_of_cut (hh : ∀ t, x.rate.cutAt = some t → t + 64 * fget1 d Reg.RTE_ECN Fd.RTE_ECN_hold ≤ ns d) :
    roceCnp d c = flashPut d c (some { x with rate := { x.rate with
      last := ns d, rate := some (max (flashFull d x / 64) (x.rate.rate.getD (flashFull d x) * 7 / 8)), cutAt := some (ns d) } }) := by
  cases hcut : x.rate.cutAt with
  | none => simp only [roceCnp, hx, hcut, ↓reduceIte]
  | some t => simp only [roceCnp, hx, hcut, hh t hcut, decide_true, ↓reduceIte]

theorem roceCnp_of_hold (hh : ¬∀ t, x.rate.cutAt = some t → t + 64 * fget1 d Reg.RTE_ECN Fd.RTE_ECN_hold ≤ ns d) :
    roceCnp d c = flashPut d c (some { x with rate := { x.rate with last := ns d } }) := by
  obtain ⟨t, hh⟩ := Classical.not_forall.mp hh
  obtain ⟨hcut, hn⟩ := Classical.not_imp.mp hh
  simp only [roceCnp, hx, hcut, hn, decide_false, Bool.false_eq_true, ↓reduceIte]

/-! ## FLASH_TRANSFER_COMPLETE (R417) -/

/-- The oldest transfer that was sent ends, and its requester is answered. -/
theorem flashComplete_of_sent {pre post : List Transfer} {t : Transfer} {r : ReplyTo} (ok : Bool) (hxs : x.xfers = pre ++ t :: post)
    (hpre : ∀ u ∈ pre, u.sent = false) (ht : t.sent = true) (hr : t.reply = some r) (hm : t.manif = false) :
    flashComplete d c ok = replyLate (flashPut d c (some { x with xfers := pre ++ post, tries := 0, at_ := ns d })) r
      (if ok = true then St.ok else St.flashFailed) [] := by
  have htake : ltake (fun t : Transfer => t.sent) x.xfers = some (t, pre ++ post) := hxs ▸ ltake_append_cons post hpre ht
  cases ok <;> simp only [flashComplete, hx, htake, xferEnd, hr, hm, Bool.not_true, Bool.not_false, Bool.false_eq_true, ↓reduceIte]

end

/-! ## PFC_PAUSE_RECEIVE (R417) -/

/-- A pause on the link of an entry holds it where its priority is the honoured one. -/
theorem pfcPause_of_entry {d : Dev} {l r : Nat} (prio t : Nat) (hr : rsvOf d l = some r) :
    pfcPause d l prio t = if fbit d (Reg.RSV_CFG r) Fd.RSV_CFG_pfc_en = true ∧ fget d (Reg.RSV_CFG r) Fd.RSV_CFG_pfc_prio = prio then
        { d with tm := { d.tm with paused := tset 0 d.tm.paused (r * 8 + prio) (if t = 0 then 0 else ns d + t) } }
      else d := by
  simp only [pfcPause, hr]

end Sys2Proof.Machine
end

section
/-! PROOFS. The flash commands of a secure requester (R416, R417): what each body answers in the case that its conditions leave. -/

namespace Sys2Proof.Machine

/-! ## FLASH_CONNECT -/

/-- The layout of FLASH_CONNECT: an entry, a depth of 1 to 128, the IP version 4 or 6, and 0 in the bytes that are not used. -/
structure ConnectOk (p : List Byte) : Prop where
  len : p.length = 248
  entry : byteAt p 0 < 4
  depthLow : 1 ≤ byteAt p 1
  depthHigh : byteAt p 1 ≤ 128
  version : byteAt p 2 = 6 ∨ (byteAt p 2 = 4 ∧ (p.drop 4).take 12 = List.replicate 12 0)
  zero : byteAt p 3 = 0

/-- The connection that FLASH_CONNECT makes. -/
def connected (d : Dev) (p : List Byte) (bs cap : Nat) : Flash := ⟨byteAt p 0, byteAt p 1, p, bs, cap, false, [], [], 0, ns d, EcnRate.init⟩

theorem ConnectOk.checks {p : List Byte} (hp : ConnectOk p) (a : Ans) :
    checks [(0, decide (byteAt p 0 < 4)), (1, decide (1 ≤ byteAt p 1 ∧ byteAt p 1 ≤ 128)), (2, decide (byteAt p 2 = 4 ∨ byteAt p 2 = 6)),
      (3, decide (byteAt p 3 = 0)), (4, decide (byteAt p 2 = 6 ∨ (p.drop 4).take 12 = List.replicate 12 0))] a = a := by
  obtain ⟨-, hentry, hlow, hhigh, hfam, hzero⟩ := hp
  refine checks_pass a fun x hx => ?_
  simp only [List.mem_cons, List.not_mem_nil, or_false] at hx
  rcases hx with rfl | rfl | rfl | rfl | rfl
  · exact decide_eq_true hentry
  · exact decide_eq_true ⟨hlow, hhigh⟩
  · exact decide_eq_true (hfam.symm.imp_left (·.1))
  · exact decide_eq_true hzero
  · exact decide_eq_true (hfam.imp_right (·.2))

section
variable {d : Dev} {p : List Byte} (hp : ConnectOk p) (bs cap : Nat)
include hp

theorem flashConnect_of_full (ok : Bool) (hfull : 64 ≤ d.lnk.flash.length) : flashConnect d p bs cap ok = .err St.noFlashConnection := by
  simp only [flashConnect, needLen_pass _ hp.len, hp.checks, flashUsed, ge_iff_le, hfull, ↓reduceIte]

section
variable (hroom : d.lnk.flash.length < 64)
include hroom

theorem flashConnect_of_unserved (ok : Bool) (hno : flashEntry d (byteAt p 0) = false ∨ ok = false) :
    flashConnect d p bs cap ok = .err St.flashFailed := by
  have hno' : (!flashEntry d (byteAt p 0)) = true ∨ (!ok) = true := by simpa only [Bool.not_eq_true'] using hno
  simp only [flashConnect, needLen_pass _ hp.len, hp.checks, flashUsed, ge_iff_le, Nat.not_le.mpr hroom, hno', ↓reduceIte]

/-- The lowest connection that is free is taken. -/
theorem flashConnect_of_free {c : Nat} (he : flashEntry d (byteAt p 0) = true) (hc : c < 64) (hfree : flashAt d c = none)
    (hlow : ∀ k < c, flashAt d k ≠ none) :
    flashConnect d p bs cap true = .done (emit (flashPut d c (some (connected d p bs cap))) (.roce c 0 p))
      (beBytes 1 c ++ beBytes 3 0 ++ beBytes 4 bs ++ beBytes 8 cap) := by
  have hfind : (List.range 64).find? (fun c => decide (flashAt d c = none)) = some c := by
    rw [List.find?_range_eq_some]
    exact ⟨decide_eq_true hfree, List.mem_range.mpr hc, fun k hk => by simpa using hlow k hk⟩
  simp only [flashConnect, needLen_pass _ hp.len, hp.checks, flashUsed, ge_iff_le, Nat.not_le.mpr hroom, he, hfind, Bool.not_true,
    Bool.false_eq_true, or_self, ↓reduceIte]
  rfl

end

end

/-! ## FLASH_DISCONNECT -/

theorem withFlash_of_conn {d : Dev} {c : Nat} {x : Flash} (k : Flash → Ans) (hc : c < 64) (hx : flashAt d c = some x) : withFlash d c k = k x := by
  rw [withFlash, if_neg (Nat.not_le.mpr hc), hx]

/-- A connection without transfers is freed. -/
theorem flashDisconnect_of_quiet {d : Dev} {p : List Byte} {x : Flash} (hl : p.length = 1) (hc : byteAt p 0 < 64)
    (hx : flashAt d (byteAt p 0) = some x) (hn : x.xfers = []) :
    flashDisconnect d p = .done (emit (flashPut d (byteAt p 0) none) (.roce (byteAt p 0) 1 [])) [] := by
  rw [flashDisconnect, needLen_pass _ hl, withFlash_of_conn _ hc hx]
  simp only [hn, List.foldl_nil]

/-! ## FLASH_READ, FLASH_WRITE -/

/-- The layout of FLASH_READ and FLASH_WRITE, which name connection x and region g of class CHECKPOINT that holds the blocks. -/
structure MoveOk (d : Dev) (p : List Byte) (x : Flash) (g : Region) : Prop where
  conn : byteAt p 0 < 64
  zero : field p 1 3 = 0
  found : flashAt d (byteAt p 0) = some x
  region : ∃ i, regionOf d (field p 16 4) = some (i, g)
  cls : g.cls = 6
  fits : field p 20 8 + field p 12 4 * x.bsize ≤ regionBytes g

/-- The transfer that FLASH_READ or FLASH_WRITE asks for. -/
def askedTransfer (p : List Byte) (w : Bool) (r : ReplyTo) : Transfer :=
  ⟨w, field p 4 8, field p 12 4, field p 16 4, field p 20 8, false, some r, false⟩

/-- What such a command answers to the outcome of queueing its transfer. -/
def queueAnswer : Except Nat Dev → Ans
  | .error st => .err st
  | .ok e => .later e

/-- The connection with one more transfer, which is the present request where it is the only one. -/
def withTransfer (d : Dev) (x : Flash) (t : Transfer) : Flash :=
  { x with xfers := x.xfers ++ [t], at_ := if x.xfers = [] then ns d else x.at_ }

section
variable {d : Dev} {p : List Byte} {x : Flash} {g : Region} (hp : MoveOk d p x g) (w : Bool) (r : ReplyTo)

section
include hp

theorem MoveOk.checks (a : Ans) :
    checks [(0, decide (byteAt p 0 < 64)), (1, decide (field p 1 3 = 0)), (16 + 2, handleOk (field p 16 4))] a = a := by
  obtain ⟨i, hr⟩ := hp.region
  refine checks_pass a fun y hy => ?_
  simp only [List.mem_cons, List.not_mem_nil, or_false] at hy
  rcases hy with rfl | rfl | rfl
  · exact decide_eq_true hp.conn
  · exact decide_eq_true hp.zero
  · exact handleOk_of_regionOf hr

/-- With its layout in order the command turns on whether the connection queues the transfer. -/
theorem flashMove_of_layout :
    flashMove d r p w false 16 (field p 20 8) = queueAnswer (xferQueue d (byteAt p 0) x (askedTransfer p w r)) := by
  obtain ⟨i, hr⟩ := hp.region
  simp only [flashMove, hp.checks, withFlash_of_conn _ hp.conn hp.found, hr, hp.cls, ne_eq, not_true_eq_false, gt_iff_lt, Nat.not_lt.mpr hp.fits,
    ↓reduceIte]
  rfl

end

variable {c : Nat} (t : Transfer)

theorem xferQueue_of_error (he : x.error = true) : xferQueue d c x t = .error St.flashFailed := by rw [xferQueue, if_pos he]

section
variable (he : x.error = false)
include he

theorem xferQueue_of_full (hn : x.depth ≤ x.xfers.length) : xferQueue d c x t = .error St.flashQueueFull := by
  simp only [xferQueue, he, ge_iff_le, hn, Bool.false_eq_true, ↓reduceIte]

theorem xferQueue_of_room (hn : x.xfers.length < x.depth) : xferQueue d c x t = .ok (flashPut d c (some (withTransfer d x t))) := by
  simp only [xferQueue, he, ge_iff_le, Nat.not_le.mpr hn, withTransfer, List.isEmpty_iff, Bool.false_eq_true, ↓reduceIte]

end

end

/-! ## The meanings -/

section
variable {s : State} (c : BitVec 6) (ha : alive s.dev = true)
include ha

theorem exec_roceAckTimeout : exec (.roceAckTimeout c) s = .next (s.after (roceTimeout s.dev c.toNat)) :=
  act_next (f := fun d => roceTimeout d c.toNat) ha

theorem exec_flashKeepaliveLapse : exec (.flashKeepaliveLapse c) s = .next (s.after (flashError s.dev c.toNat)) :=
  act_next (f := fun d => flashError d c.toNat) ha

theorem exec_roceCnpReceive : exec (.roceCnpReceive c) s = .next (s.after (roceCnp s.dev c.toNat)) :=
  act_next (f := fun d => roceCnp d c.toNat) ha

theorem exec_pfcPauseReceive (l : Fin 128) (prio : BitVec 3) (t : BitVec 32) :
    exec (.pfcPauseReceive l prio t) s = .next (s.after (pfcPause s.dev l prio.toNat t.toNat)) :=
  act_next (f := fun d => pfcPause d l prio.toNat t.toNat) ha

theorem exec_rdmaAccess (w : Bool) (hd : Word) (off : BitVec 64) (len : BitVec 32) (data : List Byte) :
    exec (.rdmaAccess c w hd off len data) s = .next (s.after (rdmaAccess s.dev c.toNat w hd.toNat off.toNat len.toNat data)) :=
  act_next (f := fun d => rdmaAccess d c.toNat w hd.toNat off.toNat len.toNat data) ha

theorem exec_flashTransferComplete (ok : Bool) :
    exec (.flashTransferComplete c ok) s = .next (s.after (flashComplete s.dev c.toNat ok)) :=
  act_next (f := fun d => flashComplete d c.toNat ok) ha

end

section
variable {s : State} (h : CmdHdr) (p : List Byte)

theorem exec_flashConnect (bs : BitVec 32) (cap : BitVec 64) (ok : Bool) :
    exec (.flashConnect h p bs cap ok) s = act (runCmd ⟨0x0730, true, false⟩ h p fun d _ => flashConnect d p bs.toNat cap.toNat ok) s := rfl

theorem exec_flashDisconnect : exec (.flashDisconnect h p) s = act (runCmd ⟨0x0731, true, false⟩ h p fun d _ => flashDisconnect d p) s := rfl

/-- FLASH_READ and FLASH_WRITE of 28 bytes run one body. -/
theorem exec_flashMove (hl : p.length = 28) {op : Nat} {w : Bool} {c : Instr}
    (hc : (op = 0x0732 ∧ w = false ∧ c = .flashRead h p) ∨ (op = 0x0733 ∧ w = true ∧ c = .flashWrite h p)) :
    exec c s = act (runCmd ⟨op, true, false⟩ h p fun d r => flashMove d r p w false 16 (field p 20 8)) s := by
  rcases hc with ⟨rfl, rfl, rfl⟩ | ⟨rfl, rfl, rfl⟩
  · have hbody : (fun d r => flashRead d r p) = fun d r => flashMove d r p false false 16 (field p 20 8) :=
      funext fun d => funext fun r => needLen_pass _ hl
    rw [← hbody]
    rfl
  · have hbody : (fun d r => flashWrite d r p) = fun d r => flashMove d r p true false 16 (field p 20 8) :=
      funext fun d => funext fun r => needLen_pass _ hl
    rw [← hbody]
    rfl

end

/-- Settles O40: each happening and each command takes the one case that its conditions leave. -/
theorem flashConnectionsServe : Obligations.FlashConnectionsServe := by
  unfold Obligations.FlashConnectionsServe
  refine ⟨?happenings, fun s h p => ⟨?connect, ?disconnect, ?move⟩⟩
  case happenings =>
    intro s c x d put full ha hx he _
    refine ⟨?timeout, ?lapse, ?cnp, ?pause, ?access, ?complete⟩
    case timeout =>
      intro hs ht
      rw [exec_roceAckTimeout c ha, exec_flashKeepaliveLapse c ha]
      refine ⟨fun hn => ?_, fun hn => ?_⟩
      · rw [roceTimeout_of_retry hx he hs ht hn]
        rfl
      · rw [roceTimeout_of_spent hx he hs ht hn]
    case lapse => exact ⟨_, exec_flashKeepaliveLapse c ha, flashAt_flashError hx he, conn_failed_flashError hx he⟩
    case cnp =>
      rw [exec_roceCnpReceive c ha]
      split
      · next hh =>
        rw [roceCnp_of_cut hx hh]
        rfl
      · next hh =>
        rw [roceCnp_of_hold hx hh]
        rfl
    case pause =>
      intro l prio t r hr
      have hzero : t.toNat = 0 ↔ t = 0 := BitVec.toNat_inj (y := 0)
      rw [exec_pfcPauseReceive ha l prio t, pfcPause_of_entry _ _ hr]
      simp only [hzero]
    case access =>
      intro w hd off len data i r hr
      rw [exec_rdmaAccess c ha]
      refine ⟨fun hb hc hlen => ?_, fun hn => ?_⟩
      · cases w with
        | true =>
          rw [rdmaAccess_write hx he hr hb hc hlen]
          rfl
        | false =>
          rw [rdmaAccess_read hx he hr hb hc hlen]
          rfl
      · rw [rdmaAccess_of_unbound hx he hr _ _ hn]
        rfl
    case complete =>
      intro pre post t r ok hxs hpre ht hr hm
      rw [exec_flashTransferComplete c ha, flashComplete_of_sent hx ok hxs hpre ht hr hm]
      rfl
  case connect =>
    intro d bs cap ok hadm hlen hentry hlow hhigh hfam hzero
    have hp : ConnectOk p := ⟨hlen, hentry, hlow, hhigh, hfam, hzero⟩
    rw [exec_flashConnect]
    refine ⟨fun c hroom he hok hc hfree hleast => ?_, fun hfull => ?_, fun hroom hno => ?_⟩
    · subst hok
      exact cmd_done hadm rfl (flashConnect_of_free hp _ _ hroom he hc hfree hleast)
    · exact cmd_err hadm (flashConnect_of_full hp _ _ ok hfull)
    · exact cmd_err hadm (flashConnect_of_unserved hp _ _ hroom ok hno)
  case disconnect =>
    intro d x hadm hl hc hx hn
    rw [exec_flashDisconnect]
    exact cmd_done hadm rfl (flashDisconnect_of_quiet hl hc hx hn)
  case move =>
    intro op w c hcmd d x i g hadm hl hc hzero hx hr hcls hfits
    have hp : MoveOk d p x g := ⟨hc, hzero, hx, ⟨i, hr⟩, hcls, hfits⟩
    have hmove := flashMove_of_layout hp w (hdrReply h op)
    rw [exec_flashMove h p hl hcmd]
    refine ⟨fun he hn => ?_, fun he hn => ?_, fun he => ?_⟩
    · rw [xferQueue_of_room _ he hn] at hmove
      exact cmd_later hadm rfl hmove
    · rw [xferQueue_of_full _ he hn] at hmove
      exact cmd_err hadm hmove
    · rw [xferQueue_of_error _ he] at hmove
      exact cmd_err hadm hmove

end Sys2Proof.Machine
end

section
/-! PROOFS. The refill of shapers and policers (R330, R331, R336): a walk over a table that rewrites every listed key once. -/

namespace Sys2Proof.Machine

/-! ## A table whose keys are rewritten one after another -/

section
variable {α : Type}

/-- A key that reads as something else than the default is listed. -/
theorem mem_keys_of_tget_ne {z : α} {m : List (Nat × α)} {x : Nat} (h : tget z m x ≠ z) : x ∈ m.map (·.1) := by
  induction m with
  | nil => exact absurd rfl h
  | cons e m ih =>
    obtain ⟨j, w⟩ := e
    by_cases hx : x = j
    · exact hx ▸ List.mem_cons_self ..
    · rw [tget, if_neg hx] at h
      exact List.mem_cons_of_mem _ (ih h)

/-- Rising keys are distinct. -/
theorem keys_nodup_of_rising {m : List (Nat × α)} (h : rising m = true) : (m.map (·.1)).Nodup := by
  induction m with
  | nil => exact List.nodup_nil
  | cons e m ih =>
    refine List.nodup_cons.mpr ⟨fun he => ?_, ih (rising_tail h)⟩
    obtain ⟨f, hf, hfe⟩ := List.mem_map.mp he
    exact absurd (rising_head h f hf) (Nat.not_lt.mpr (Nat.le_of_eq hfe))

theorem keys_nodup_of_twf [DecidableEq α] {z : α} {m : List (Nat × α)} (h : twf z m = true) : (m.map (·.1)).Nodup := by
  rw [twf, Bool.and_eq_true] at h
  exact keys_nodup_of_rising h.1

section
variable [DecidableEq α] (z : α) (g : Nat → α → α)

/-- The table after the keys `ks` are rewritten in turn. -/
def tmodAll (ks : List Nat) (m : List (Nat × α)) : List (Nat × α) := ks.foldl (fun t y => tmod z t y (g y)) m

theorem tget_tmodAll_of_not_mem {ks : List Nat} {x : Nat} (m : List (Nat × α)) (h : x ∉ ks) : tget z (tmodAll z g ks m) x = tget z m x := by
  induction ks generalizing m with
  | nil => rfl
  | cons y ks ih =>
    rw [List.mem_cons, not_or] at h
    exact (ih _ h.2).trans (tget_tset_ne z z m _ h.1)

/-- A key that stands once among them is rewritten once. -/
theorem tget_tmodAll_of_once {xs ys : List Nat} {x : Nat} (m : List (Nat × α)) (hn : xs.Nodup) (hx : x ∈ xs) (hy : x ∉ ys) :
    tget z (tmodAll z g (xs ++ ys) m) x = g x (tget z m x) := by
  obtain ⟨l, r, rfl⟩ := List.append_of_mem hx
  obtain ⟨hl, hr⟩ : x ∉ l ∧ x ∉ r := by
    obtain ⟨-, hr, hlr⟩ := List.nodup_append.mp hn
    exact ⟨fun hl => hlr x hl x (List.mem_cons_self ..) rfl, (List.nodup_cons.mp hr).1⟩
  have hrest : x ∉ r ++ ys := by simp [hr, hy]
  have hsplit : tmodAll z g (l ++ x :: r ++ ys) m = tmodAll z g (r ++ ys) (tmod z (tmodAll z g l m) x (g x)) := by
    simp only [tmodAll, List.append_assoc, List.foldl_append, List.cons_append, List.foldl_cons]
  rw [hsplit, tget_tmodAll_of_not_mem z g _ hrest, tmod, tget_tset_self, tget_tmodAll_of_not_mem z g _ hl]

end

end

/-! ## Shapers (R330, R331) -/

/-- The shaper that an entry of the table stands for (log 6). -/
def shaperIn (e v : Nat) (o : Option Shaper) : Shaper := o.getD ⟨bucketOf (resetWord (shapeReg e v)), resetWord (shapeReg e v)⟩

theorem shaperOf_eq (d : Dev) (e v : Nat) : shaperOf d e v = shaperIn e v (tget none d.tm.shapers (e * 8 + v)) := by
  rw [shaperOf]
  cases tget none d.tm.shapers (e * 8 + v) <;> rfl

/-- A shaper after k refills (R331). -/
def shaperRefilled (d : Dev) (k e v : Nat) (s : Shaper) : Shaper :=
  let w := BitVec.ofNat 32 (rg d (shapeReg e v))
  if w.msb then ⟨min (bucketOf w) ((if s.word.msb then s.tok else bucketOf w) + (k * min (bits w.toNat 15 0) (egRate d e) : Nat)), w⟩ else ⟨0, w⟩

/-- A device with another table of shapers. -/
def withShapers (d : Dev) (m : List (Nat × Option Shaper)) : Dev := { d with tm := { d.tm with shapers := m } }

theorem refill1_eq (d : Dev) (k e v : Nat) : refill1 d k e v = shaperPut d e v (shaperRefilled d k e v (shaperOf d e v)) := by
  simp only [refill1, shaperRefilled, Int.natCast_mul]
  split <;> rfl

/-- A refill of the shaper under a key rewrites that key. -/
theorem refill1_withShapers (d : Dev) (k x : Nat) (m : List (Nat × Option Shaper)) :
    refill1 (withShapers d m) k (x / 8) (x % 8)
      = withShapers d (tmod none m x fun o => some (shaperRefilled d k (x / 8) (x % 8) (shaperIn (x / 8) (x % 8) o))) := by
  rw [refill1_eq, shaperOf_eq, shaperPut, Nat.div_add_mod']
  rfl

/-- The keys that a refill of the shapers visits: those listed, then those whose register was written. -/
def shaperKeys (d : Dev) : List Nat :=
  d.tm.shapers.map (·.1) ++ (d.regs.filterMap (fun r => shapeKey r.1)).filter (fun x => tget none d.tm.shapers x = none)

theorem refillShapers_of_due {d : Dev} {k : Nat} (hk : ns d / 80 - d.tm.refill = k) (h : 0 < k) :
    refillShapers d = { d with tm := { d.tm with
      shapers := tmodAll none (fun x o => some (shaperRefilled d k (x / 8) (x % 8) (shaperIn (x / 8) (x % 8) o))) (shaperKeys d) d.tm.shapers
      refill := ns d / 80 } } := by
  have hfold := List.foldl_hom (l := shaperKeys d) (init := d.tm.shapers) (withShapers d) (g₂ := fun e x => refill1 e k (x / 8) (x % 8))
    fun m x => refill1_withShapers d k x m
  rw [refillShapers, hk]
  refine (if_neg (Nat.pos_iff_ne_zero.mp h)).trans ?_
  exact (congrArg (fun e : Dev => { e with tm := { e.tm with refill := ns e / 80 } }) hfold).trans rfl

/-- A shaper that is listed is refilled once. -/
theorem shaperOf_refillShapers {d : Dev} {k e v : Nat} {sh : Shaper} (hw : twf none d.tm.shapers = true) (hv : v < 8)
    (hs : tget none d.tm.shapers (e * 8 + v) = some sh) (hk : ns d / 80 - d.tm.refill = k) (h : 0 < k) :
    shaperOf (refillShapers d) e v = shaperRefilled d k e v sh := by
  have he : (e * 8 + v) / 8 = e := by omega
  have hm : (e * 8 + v) % 8 = v := by omega
  have hlisted : e * 8 + v ∈ d.tm.shapers.map (·.1) := mem_keys_of_tget_ne (z := none) (by rw [hs]; exact Option.some_ne_none sh)
  rw [refillShapers_of_due hk h, shaperOf_eq]
  dsimp only
  rw [shaperKeys, tget_tmodAll_of_once _ _ _ (keys_nodup_of_twf hw) hlisted (by simp [hs]), hs, he, hm]
  rfl

/-! ## Policers (R336) -/

/-- A policer after k refills (R336). -/
def polRefilled (d : Dev) (k p v : Nat) (x : Policer) : Policer :=
  let c := BitVec.ofNat 32 (rg d (Reg.TMP_CFG p v))
  let r := BitVec.ofNat 32 (rg d (Reg.TMP_RATE p v))
  let pir := bits r.toNat 31 16
  if c.msb = true ∧ x.cfg.msb = false then ⟨cbsOf c, pbsOf c, c, r⟩
  else ⟨min (cbsOf c) (x.tc + k * min (bits r.toNat 15 0) pir), min (pbsOf c) (x.tp + k * pir), c, r⟩

/-- A device with another table of policers. -/
def withPols (d : Dev) (m : List (Nat × Policer)) : Dev := { d with tm := { d.tm with pols := m } }

theorem polRefill1_eq (d : Dev) (k p v : Nat) : polRefill1 d k p v = polPut d p v (polRefilled d k p v (polOf d p v)) := by
  simp only [polRefill1, polRefilled, Bool.and_eq_true, Bool.not_eq_true']
  split <;> rfl

/-- A refill of the policer under a key rewrites that key. -/
theorem polRefill1_withPols (d : Dev) (k x : Nat) (m : List (Nat × Policer)) :
    polRefill1 (withPols d m) k (x / 8) (x % 8) = withPols d (tmod Policer.init m x (polRefilled d k (x / 8) (x % 8))) := by
  rw [polRefill1_eq, polOf, polPut, Nat.div_add_mod']
  rfl

/-- The keys that a refill of the policers visits: those listed, then those whose registers were written. -/
def polKeys (d : Dev) : List Nat :=
  d.tm.pols.map (·.1) ++ (d.regs.filterMap (fun r => polKey r.1)).filter (fun x => tget Policer.init d.tm.pols x = Policer.init)

theorem refillPolicers_of_due {d : Dev} {k : Nat} (hk : ns d / 80 - d.tm.polAt = k) (h : 0 < k) :
    refillPolicers d = { d with tm := { d.tm with
      pols := tmodAll Policer.init (fun x => polRefilled d k (x / 8) (x % 8)) (polKeys d) d.tm.pols
      polAt := ns d / 80 } } := by
  have hfold := List.foldl_hom (l := polKeys d) (init := d.tm.pols) (withPols d) (g₂ := fun e x => polRefill1 e k (x / 8) (x % 8))
    fun m x => polRefill1_withPols d k x m
  rw [refillPolicers, hk]
  refine (if_neg (Nat.pos_iff_ne_zero.mp h)).trans ?_
  exact (congrArg (fun e : Dev => { e with tm := { e.tm with polAt := ns e / 80 } }) hfold).trans rfl

/-- A policer that is listed is refilled once. -/
theorem polOf_refillPolicers {d : Dev} {k p v : Nat} (hw : twf Policer.init d.tm.pols = true) (hv : v < 8) (hx : polOf d p v ≠ Policer.init)
    (hk : ns d / 80 - d.tm.polAt = k) (h : 0 < k) : polOf (refillPolicers d) p v = polRefilled d k p v (polOf d p v) := by
  have he : (p * 8 + v) / 8 = p := by omega
  have hm : (p * 8 + v) % 8 = v := by omega
  rw [polOf] at hx
  rw [refillPolicers_of_due hk h, polOf]
  dsimp only
  rw [polKeys, tget_tmodAll_of_once _ _ _ (keys_nodup_of_twf hw) (mem_keys_of_tget_ne hx) (by simp [hx]), he, hm, polOf]

/-! ## The meanings -/

section
variable {s : State} (ha : alive s.dev = true)
include ha

theorem exec_shaperRefill : exec .shaperRefill s = .next (s.after (refillShapers s.dev)) := act_next (f := refillShapers) ha

theorem exec_policerRefill : exec .policerRefill s = .next (s.after (refillPolicers s.dev)) := act_next (f := refillPolicers) ha

end

/-- Settles O10: the walk visits a listed key once, and changes nothing but its table and the time of the refill. -/
theorem tokensAreRefilled : Obligations.TokensAreRefilled := by
  unfold Obligations.TokensAreRefilled
  refine ⟨?shapers, ?policers⟩
  case shapers =>
    intro s e v sh d k w ha hw _ hv hs hk
    refine ⟨_, exec_shaperRefill ha, shaperOf_refillShapers hw hv hs rfl hk, ?_⟩
    rw [refillShapers_of_due rfl hk]
  case policers =>
    intro s p v d k x c r pir ha hw _ hv hx hk
    refine ⟨_, exec_policerRefill ha, polOf_refillPolicers hw hv hx rfl hk, ?_⟩
    rw [refillPolicers_of_due rfl hk]

end Sys2Proof.Machine
end

section
/-! PROOFS. Time gates (R332, R333, R349): the entry in force, and what each happening of a port's gates leaves alone. -/

namespace Sys2Proof.Machine

/-! ## The entry in force (R332, R333) -/

theorem cycleOf_append (l r : List Word) : cycleOf (l ++ r) = cycleOf l + cycleOf r := by
  rw [cycleOf, List.foldl_append]
  exact List.foldl_hom (l := r) (init := 0) (cycleOf l + ·) fun n w => Nat.add_assoc ..

theorem cycleOf_cons (w : Word) (l : List Word) : cycleOf (w :: l) = entTicks w + cycleOf l := by
  rw [← List.singleton_append, cycleOf_append, cycleOf, List.foldl_cons, Nat.zero_add, List.foldl_nil]

/-- The entry whose span, counted from `t`, holds a tick of the cycle. -/
theorem entryAt_of_span {l : List Word} {i pos : Nat} (j t : Nat) (hi : i < l.length) (hlo : t + cycleOf (l.take i) ≤ pos)
    (hhi : pos < t + cycleOf (l.take (i + 1))) : (entryAt l j pos t).1 = j + i := by
  induction l generalizing i j t with
  | nil => exact absurd hi (Nat.not_lt_zero i)
  | cons w l ih =>
    rw [List.take_succ_cons, cycleOf_cons] at hhi
    cases i with
    | zero =>
      have hspan : pos < t + entTicks w := hhi
      rw [entryAt, if_pos hspan, Nat.add_zero]
    | succ i =>
      rw [List.take_succ_cons, cycleOf_cons] at hlo
      have hpast : ¬pos < t + entTicks w := by omega
      rw [entryAt, if_neg hpast, ih (j + 1) (t + entTicks w) (Nat.lt_of_succ_lt_succ hi) (by omega) (by omega)]
      omega

/-- From the base on, the tick of the cycle is the number of ticks since the base. -/
theorem tick_mod_cycle {t b c : Nat} (h : b ≤ t) (hc : 0 < c) : (t + c - b % c) % c = (t - b) % c := by
  have hdiv : b / c * c + b % c = b := Nat.div_add_mod' b c
  have hlt : b % c < c := Nat.mod_lt b hc
  have hsum : t + c - b % c = (t - b) + c * (b / c + 1) := by
    rw [Nat.mul_add, Nat.mul_comm c (b / c)]
    omega
  rw [hsum, Nat.add_mul_mod_self_left]

theorem entryInForce_of_span {g : Gate} {t i : Nat} (hb : g.base ≤ t) (hi : i < g.oper.length)
    (hlo : cycleOf (g.oper.take i) ≤ (t - g.base) % cycleOf g.oper) (hhi : (t - g.base) % cycleOf g.oper < cycleOf (g.oper.take (i + 1))) :
    (entryInForce g t).1 = i := by
  have hsum : cycleOf g.oper = cycleOf (g.oper.take (i + 1)) + cycleOf (g.oper.drop (i + 1)) := by
    rw [← cycleOf_append, List.take_append_drop]
  have hc : 0 < cycleOf g.oper := by omega
  have hmax : max 1 (cycleOf g.oper) = cycleOf g.oper := Nat.max_eq_right hc
  simp only [entryInForce, hmax, tick_mod_cycle hb hc]
  rw [entryAt_of_span 0 0 hi (by omega) (by omega), Nat.zero_add]

/-! ## GATE_ENTRY_CHANGE (R333, R349) -/

/-- TM_GATE_STATUS of port p shows entry i and the gates `o`. -/
def gateShown (d : Dev) (p i o : Nat) : Dev :=
  fset (fset d (Reg.TM_GATE_STATUS p) Fd.TM_GATE_STATUS_entry i) (Reg.TM_GATE_STATUS p) Fd.TM_GATE_STATUS_open o

section
variable (d : Dev) (p : Nat)

theorem gateShown_onlyRegs (i o : Nat) : OnlyRegs [Reg.TM_GATE_STATUS p] d (gateShown d p i o) := (fset_onlyRegs ..).trans (fset_onlyRegs ..)

theorem fbit_gateShown (i o : Nat) {f : Nat × Nat} (h : 24 < f.2 ∧ f.2 < 32) :
    fbit (gateShown d p i o) (Reg.TM_GATE_STATUS p) f = fbit d (Reg.TM_GATE_STATUS p) f := by
  obtain ⟨hlo, hhi⟩ := h
  have hentry : FldsApart Fd.TM_GATE_STATUS_entry (f.2, f.2) := ⟨by decide, by decide, Nat.le_refl _, hhi, .inl hlo⟩
  have hopen : FldsApart Fd.TM_GATE_STATUS_open (f.2, f.2) := ⟨by decide, by decide, Nat.le_refl _, hhi, .inl (Nat.lt_trans (by decide) hlo)⟩
  rw [gateShown, fbit_fset_apart _ _ _ _ hopen, fbit_fset_apart _ _ _ _ hentry]

theorem entry_gateShown {i : Nat} (o : Nat) (h : i < 512) :
    fget (gateShown d p i o) (Reg.TM_GATE_STATUS p) Fd.TM_GATE_STATUS_entry = i := by
  rw [gateShown, fget_fset_apart _ _ _ _ (by decide), fget_fset_self _ _ _ _ (by decide) (by decide)]
  exact Nat.mod_eq_of_lt h

theorem open_gateShown (i : Nat) {o : Nat} (h : o < 256) :
    fget (gateShown d p i o) (Reg.TM_GATE_STATUS p) Fd.TM_GATE_STATUS_open = o := by
  rw [gateShown, fget_fset_self _ _ _ _ (by decide) (by decide)]
  exact Nat.mod_eq_of_lt h

end

theorem gateAdvance_of_enabled {d : Dev} {p i : Nat} (h : fbit d (Reg.TM_GATE_STATUS p) Fd.TM_GATE_STATUS_en = true)
    (hi : (entryInForce (gateOf d p) (tickIdx d)).1 = i) : gateAdvance d p = gateShown d p i (entOpen ((gateOf d p).oper.getD i 0)) := by
  simp only [gateAdvance, h, hi, ↓reduceIte, gateShown]

/-! ## The frame of a port's gates -/

/-- What differs between two devices is the gates of port p and registers listed. -/
def GatesOnly (p : Nat) (as : List Nat) (d e : Dev) : Prop :=
  (∀ q, q ≠ p → gateOf e q = gateOf d q) ∧ (∀ b, b ∉ as → rg e b = rg d b) ∧ { e with regs := d.regs, tm := { e.tm with gates := d.tm.gates } } = d

section
variable {d e : Dev} {p : Nat} {g : Gate} {as : List Nat} (h : OnlyRegs as (gatePut d p g) e)
include h

theorem tm_of_gatePut : e.tm = (gatePut d p g).tm := by
  have htm := congrArg (fun x : Dev => x.tm) h.1
  exact htm

theorem gateOf_of_gatePut : gateOf e p = g := by rw [gateOf, tm_of_gatePut h, gatePut, tget_tset_self]

theorem gatesOnly_of_gatePut : GatesOnly p as d e := by
  refine ⟨fun q hq => ?_, h.2, ?_⟩
  · rw [gateOf, tm_of_gatePut h, gatePut, tget_tset_ne _ _ _ _ hq, gateOf]
  · exact congrArg (fun x : Dev => { x with tm := { x.tm with gates := d.tm.gates } }) h.1

end

/-! ## GATE_LIST_ACTIVATE (R333) -/

/-- The device whose port p has its pending list in force. -/
def gateEnabled (d : Dev) (p : Nat) (l : List Word) (b : Nat) : Dev :=
  fset (fset (gatePut d p { gateOf d p with oper := l, base := b, pend := none }) (Reg.TM_GATE_STATUS p) Fd.TM_GATE_STATUS_en 1)
    (Reg.TM_GATE_STATUS p) Fd.TM_GATE_STATUS_pend 0

section
variable (d : Dev) (p : Nat) (l : List Word) (b : Nat)

theorem en_gateEnabled : fbit (gateEnabled d p l b) (Reg.TM_GATE_STATUS p) Fd.TM_GATE_STATUS_en = true := by
  rw [gateEnabled, fbit_fset_apart _ _ _ _ (by decide), fbit_fset_self _ _ _ rfl (by decide)]
  rfl

theorem pend_gateEnabled : fbit (gateEnabled d p l b) (Reg.TM_GATE_STATUS p) Fd.TM_GATE_STATUS_pend = false := by
  rw [gateEnabled, fbit_fset_self _ _ _ rfl (by decide)]
  rfl

theorem gateEnabled_onlyRegs :
    OnlyRegs [Reg.TM_GATE_STATUS p] (gatePut d p { gateOf d p with oper := l, base := b, pend := none }) (gateEnabled d p l b) :=
  (fset_onlyRegs ..).trans (fset_onlyRegs ..)

end

theorem gateActivate_of_due {d : Dev} {p b : Nat} {l : List Word} (hl : (gateOf d p).pend = some (l, b)) (hb : b ≤ tickIdx d) :
    ∃ i o, gateActivate d p = gateShown (gateEnabled d p l b) p i o := by
  refine ⟨_, _, Eq.trans ?_ (gateAdvance_of_enabled (en_gateEnabled d p l b) rfl)⟩
  simp only [gateActivate, hl, hb, ↓reduceIte, gateEnabled]

/-! ## GATE_DISABLE_TAKE_EFFECT (R333) -/

/-- The device whose port p has no list in force and every VC open. -/
def gateOpened (d : Dev) (p : Nat) : Dev :=
  gateShown (fset (gatePut d p { gateOf d p with oper := [], base := 0, disable := none }) (Reg.TM_GATE_STATUS p) Fd.TM_GATE_STATUS_en 0) p 0 0xFF

theorem gateDisableEffect_of_due {d : Dev} {p t : Nat} (ht : (gateOf d p).disable = some t) (hle : t ≤ tickIdx d) :
    gateDisableEffect d p = gateOpened d p := by
  simp only [gateDisableEffect, ht, hle, ↓reduceIte, gateOpened, gateShown]

theorem gateOpened_onlyRegs (d : Dev) (p : Nat) :
    OnlyRegs [Reg.TM_GATE_STATUS p] (gatePut d p { gateOf d p with oper := [], base := 0, disable := none }) (gateOpened d p) :=
  (fset_onlyRegs ..).trans (gateShown_onlyRegs ..)

theorem en_gateOpened (d : Dev) (p : Nat) : fbit (gateOpened d p) (Reg.TM_GATE_STATUS p) Fd.TM_GATE_STATUS_en = false := by
  rw [gateOpened, fbit_gateShown _ _ _ _ (by decide), fbit_fset_self _ _ _ rfl (by decide)]
  rfl

/-! ## GATE_DISABLE, a write of TM_GATE_STATUS (R333, R349) -/

/-- The fields of TM_GATE_STATUS. -/
def gateStatusFlds : List Fld := [⟨31, 31, .rw, false, false, 0⟩, ⟨30, 30, .ro, false, false, 0⟩, ⟨24, 16, .ro, false, false, 0⟩,
  ⟨7, 0, .ro, false, false, 0xFF⟩]

theorem gateStatus_assigned : ∀ p : Fin 128, blkOf (Reg.TM_GATE_STATUS p) = some (tmBlk, 0) ∧ regFlds (Reg.TM_GATE_STATUS p) = some gateStatusFlds
    ∧ multiWord (Reg.TM_GATE_STATUS p) = none := by decide +kernel

theorem openReg_gateStatus (p : Fin 128) : OpenReg (Reg.TM_GATE_STATUS p) tmBlk gateStatusFlds where
  blk := (gateStatus_assigned p).1
  flds := (gateStatus_assigned p).2.1
  single := (gateStatus_assigned p).2.2
  low := by unfold Reg.TM_GATE_STATUS; omega
  high := by unfold Reg.TM_GATE_STATUS; omega
  notPosted := rfl
  notCmd := by decide
  noLock := by decide

theorem blkBase_gateStatus (p : Fin 128) : blkBase (Reg.TM_GATE_STATUS p) = 0x038000 := by unfold blkBase Reg.TM_GATE_STATUS; omega

/-- A word whose en is 0 disables the port's gates. -/
theorem applyReg_gateStatus {w : Wr} (d : Dev) (who : Req) (p : Fin 128) (hw : bit w.new 31 = false) :
    applyReg d who 0x0F 0 (Reg.TM_GATE_STATUS p) w = gateDisable d p := by
  have hoff : Reg.TM_GATE_STATUS p % 0x4000 = 0x200 + 4 * p := by unfold Reg.TM_GATE_STATUS; omega
  have hidx : (0x200 + 4 * p.val - 0x200) / 4 = p := by omega
  have hne : ∀ k < 0x200, 0x200 + 4 * p.val ≠ k := by omega
  have hcommon : ¬0x200 + 4 * p.val < 0x100 := by omega
  have hin : 0x200 ≤ 0x200 + 4 * p.val ∧ 0x200 + 4 * p.val < 0x400 := by omega
  simp only [applyReg, hoff, hidx, hne, hcommon, if_pos hin, hw, Nat.reduceLT, Bool.false_eq_true, ↓reduceIte]

/-- The gates of port p after a write of 0 to en. -/
def gateStopped (d : Dev) (p : Nat) : Gate :=
  { gateOf d p with
    pend := none
    disable := if fbit d (Reg.TM_GATE_STATUS p) Fd.TM_GATE_STATUS_en then some (tickIdx d + 1) else (gateOf d p).disable }

section
variable {d : Dev} {who : Req} {v : Nat} (p : Fin 128)

/-- The use of an unlock does not touch what the write reads. -/
theorem gateStopped_unlockSpent : gateStopped (unlockSpent d who (Reg.TM_GATE_STATUS p)) p = gateStopped d p := by
  have hrg : rg (unlockSpent d who (Reg.TM_GATE_STATUS p)) (Reg.TM_GATE_STATUS p) = rg d (Reg.TM_GATE_STATUS p) := (openReg_gateStatus p).rg_spent
  have htick : tickIdx (unlockSpent d who (Reg.TM_GATE_STATUS p)) = tickIdx d := by
    have hne : Reg.BELL_TICK ≠ Reg.BLK_STATUS (blkBase (Reg.TM_GATE_STATUS p)) := by rw [blkBase_gateStatus]; decide
    rw [tickIdx, tickLen_congr (rg_unlockSpent d who hne)]
    rfl
  simp only [gateStopped, fbit, hrg, htick]
  rfl

/-- The device after a write of 0 to en has used the requester's unlock. -/
def gateClosed (d : Dev) (who : Req) (p : Nat) : Dev :=
  fset (gatePut (unlockSpent d who (Reg.TM_GATE_STATUS p)) p (gateStopped d p)) (Reg.TM_GATE_STATUS p) Fd.TM_GATE_STATUS_pend 0

theorem busWrite_gateStatus_of_zero (hbus : BusReady d) (hs : reqSecure d who = true) (hv : v < 2 ^ 31) :
    busWrite d who (Reg.TM_GATE_STATUS p) v 15 = gateClosed d who p := by
  have hopen := openReg_gateStatus p
  have hen : bits (secureWord d who (Reg.TM_GATE_STATUS p) gateStatusFlds v).new 31 31 = 0 := by
    have hv31 : v >>> 31 = 0 := (Nat.shiftRight_eq_div_pow v 31).trans (Nat.div_eq_of_lt hv)
    refine (hopen.secureWord_rw v (by decide)).trans ?_
    simp only [bits, hv31, Nat.zero_mod]
  rw [hopen.busWrite_eq v hbus hs, applyReg_gateStatus _ who p (bit_of_bits_eq_zero hen), gateClosed, ← gateStopped_unlockSpent (who := who) p]
  rfl

theorem gateClosed_onlyRegs : OnlyRegs [Reg.TM_GATE_STATUS p, 0x038004] (gatePut d p (gateStopped d p)) (gateClosed d who p) := by
  have hspent := unlockSpent_onlyRegs (gatePut d p (gateStopped d p)) who (Reg.TM_GATE_STATUS p)
  rw [show Reg.BLK_STATUS (blkBase (Reg.TM_GATE_STATUS p)) = 0x038004 by rw [blkBase_gateStatus]; rfl] at hspent
  exact (hspent.mono (by simp)).trans ((fset_onlyRegs ..).mono (by simp))

theorem en_gateClosed : fbit (gateClosed d who p) (Reg.TM_GATE_STATUS p) Fd.TM_GATE_STATUS_en
    = fbit d (Reg.TM_GATE_STATUS p) Fd.TM_GATE_STATUS_en := by
  rw [gateClosed, fbit_fset_apart _ _ _ _ (by decide)]
  exact congrArg (Nat.testBit · _) (openReg_gateStatus p).rg_spent

theorem pend_gateClosed : fbit (gateClosed d who p) (Reg.TM_GATE_STATUS p) Fd.TM_GATE_STATUS_pend = false := by
  rw [gateClosed, fbit_fset_self _ _ _ rfl (by decide)]
  rfl

end

/-! ## GATE_LOAD (R332, R333) -/

/-- The entries that a GATE_LOAD holds. -/
def gateEntries (p : List Byte) : List Nat := (List.range (field p 2 2)).map fun i => field p (16 + 4 * i) 4

/-- A GATE_LOAD of 1 to 512 entries in its layout, each with a span. -/
structure GateListOk (p : List Byte) : Prop where
  len : p.length = 16 + 4 * field p 2 2
  nonempty : 1 ≤ field p 2 2
  few : field p 2 2 ≤ 512
  port : byteAt p 0 < 128
  zero : byteAt p 1 = 0
  tail : field p 14 2 = 0
  spans : ∀ w ∈ gateEntries p, bits w 23 20 = 0 ∧ bits w 19 0 ≠ 0

/-- No entry of such a list is malformed. -/
theorem GateListOk.no_bad {p : List Byte} (h : GateListOk p) : ((List.range (field p 2 2)).find? fun i =>
    decide (bits ((gateEntries p).getD i 0) 23 20 ≠ 0 ∨ bits ((gateEntries p).getD i 0) 19 0 = 0)) = none := by
  refine List.find?_eq_none.mpr fun i hi => ?_
  have hlen : i < (gateEntries p).length := by
    rw [gateEntries, List.length_map]
    rwa [List.mem_range, ← List.length_range (n := field p 2 2)] at hi
  obtain ⟨hzero, hspan⟩ := h.spans _ (List.getElem_mem hlen)
  have hget : (gateEntries p).getD i 0 = (gateEntries p)[i] := by
    rw [List.getD_eq_getElem?_getD, List.getElem?_eq_getElem hlen, Option.getD_some]
  simp only [hget, hzero, hspan, ne_eq, not_true_eq_false, or_self, decide_false, Bool.false_eq_true, not_false_eq_true]

/-- The device whose port holds the loaded list as its pending one. -/
def gateListed (d : Dev) (p : List Byte) : Dev :=
  fset (gatePut d (byteAt p 0) { gateOf d (byteAt p 0) with pend := some ((gateEntries p).map (BitVec.ofNat 32), field p 4 8 / tickLen d) })
    (Reg.TM_GATE_STATUS (byteAt p 0)) Fd.TM_GATE_STATUS_pend 1

/-- What a list in its layout comes to. -/
theorem gateLoad_of_layout {p : List Byte} (d : Dev) (h : GateListOk p) (hfrac : field p 12 2 = 0) (hbase : field p 4 8 % tickLen d = 0) :
    gateLoad d p = if field p 4 8 < ns d + 2 * tickLen d then .err St.gateTime else .done (gateListed d p) [] := by
  have hfirst : firstBad [(0, decide (byteAt p 0 < 128)), (1, decide (byteAt p 1 = 0)), (2, decide (1 ≤ field p 2 2 ∧ field p 2 2 ≤ 512)),
      (14, decide (field p 14 2 = 0))] = none := by
    simp only [firstBad, h.port, h.zero, h.nonempty, h.few, h.tail, and_self, decide_true, ↓reduceIte]
  have hbad := h.no_bad
  rw [gateEntries] at hbad
  simp only [gateLoad]
  rw [checks_of_firstBad_none _ hfirst, needLen_pass _ h.len, hbad]
  simp only [hfrac, hbase, ne_eq, not_true_eq_false, false_or]
  rfl

/-! ## The meanings -/

section
variable {s : State} (port : BitVec 7) (ha : alive s.dev = true)
include ha

theorem exec_gateEntryChange : exec (.gateEntryChange port) s = .next (s.after (gateAdvance s.dev port.toNat)) :=
  act_next (f := fun d => gateAdvance d port.toNat) ha

theorem exec_gateListActivate : exec (.gateListActivate port) s = .next (s.after (gateActivate s.dev port.toNat)) :=
  act_next (f := fun d => gateActivate d port.toNat) ha

theorem exec_gateDisableTakeEffect : exec (.gateDisableTakeEffect port) s = .next (s.after (gateDisableEffect s.dev port.toNat)) :=
  act_next (f := fun d => gateDisableEffect d port.toNat) ha

theorem exec_gateDisable (who : Req) (v : Word) :
    exec (.gateDisable who port v) s = .next (s.after (busWrite s.dev who (Reg.TM_GATE_STATUS port.toNat) v.toNat 15)) :=
  actReg_next (f := fun d => busWrite d who (Reg.TM_GATE_STATUS port.toNat) v.toNat 15) ha

end

theorem exec_gateLoad (h : CmdHdr) (p : List Byte) (s : State) :
    exec (.gateLoad h p) s = act (runCmd ⟨0x0601, true, false⟩ h p fun d _ => gateLoad d p) s := rfl

/-- Settles O9: the entry in force is the one that the walk over the list meets, and each happening sets the port's gates and its register. -/
theorem gatesFollowTheirLists : Obligations.GatesFollowTheirLists := by
  unfold Obligations.GatesFollowTheirLists
  refine ⟨?advance, fun s port => ⟨?activate, ?effect, ?disable⟩, ?load⟩
  case advance =>
    intro s port i d a l t0 pos ha hen hlen hi hbase hlo hhi
    have hshown := gateAdvance_of_enabled hen (entryInForce_of_span (g := gateOf d port.toNat) hbase hi hlo hhi)
    rw [exec_gateEntryChange port ha, hshown]
    exact ⟨_, rfl, entry_gateShown _ _ _ (Nat.lt_of_lt_of_le hi hlen), open_gateShown _ _ _ (bits_lt ..),
      (fbit_gateShown _ _ _ _ (by decide)).trans hen, gateShown_onlyRegs ..⟩
  case activate =>
    intro ha l b hl hb
    obtain ⟨i, o, hact⟩ := gateActivate_of_due hl hb
    have honly := (gateEnabled_onlyRegs s.dev port.toNat l b).trans (gateShown_onlyRegs _ port.toNat i o)
    obtain ⟨hports, hregs, hrest⟩ := gatesOnly_of_gatePut honly
    rw [exec_gateListActivate port ha, hact]
    exact ⟨_, rfl, gateOf_of_gatePut honly, (fbit_gateShown _ _ _ _ (by decide)).trans (en_gateEnabled ..),
      (fbit_gateShown _ _ _ _ (by decide)).trans (pend_gateEnabled ..), hports, fun b hb => hregs b (by simpa using hb), hrest⟩
  case effect =>
    intro ha t ht hle
    have honly := gateOpened_onlyRegs s.dev port.toNat
    obtain ⟨hports, hregs, hrest⟩ := gatesOnly_of_gatePut honly
    rw [exec_gateDisableTakeEffect port ha, gateDisableEffect_of_due ht hle]
    exact ⟨_, rfl, gateOf_of_gatePut honly, en_gateOpened .., open_gateShown _ _ _ (by decide), hports,
      fun b hb => hregs b (by simpa using hb), hrest⟩
  case disable =>
    intro who v hbus hs hv
    have hwrite : busWrite s.dev who (Reg.TM_GATE_STATUS port.toNat) v.toNat 15 = gateClosed s.dev who port.toNat :=
      busWrite_gateStatus_of_zero port.toFin hbus hs hv
    have honly : OnlyRegs [Reg.TM_GATE_STATUS port.toNat, 0x038004] _ (gateClosed s.dev who port.toNat) := gateClosed_onlyRegs port.toFin
    obtain ⟨hports, hregs, hrest⟩ := gatesOnly_of_gatePut honly
    rw [exec_gateDisable port hbus.1, hwrite]
    exact ⟨_, rfl, gateOf_of_gatePut honly, en_gateClosed port.toFin, pend_gateClosed port.toFin, hports,
      fun b hb hst => hregs b (by simp [hb, hst]), hrest⟩
  case load =>
    intro s h p d port n es base hadm hlen hsome hfew hport hzero htail hspans hfrac hbase
    have hload := gateLoad_of_layout d (p := p) ⟨hlen, hsome, hfew, hport, hzero, htail, hspans⟩ hfrac hbase
    rw [exec_gateLoad]
    refine ⟨fun hfar => ?_, fun hnear => ?_⟩
    · rw [if_neg (Nat.not_lt.mpr hfar)] at hload
      exact cmd_done hadm rfl hload
    · rw [if_pos hnear] at hload
      exact cmd_err hadm hload

end Sys2Proof.Machine
end

section
/-! PROOFS. The block as a whole (R546, R561, R563, R564, R568, R570): the form of every command's meaning, and what follows from it for the stops,
for FAULT_N, and for a device that is off, held or dead. -/

namespace Sys2Proof.Machine

/-! ## The form of a meaning -/

/-- The happenings of the supplies, of the clocks and of the reset pins, which act whatever the phase. -/
def atPins : Instr → Bool
  | .railRise .. | .powerLoss .. | .powerOnReset .. | .refclkLoss _ | .refclkReturn _ | .thermtrip _ | .porstNLow => true
  | _ => false

/-- Every other command acts on a device that runs, or is an access of the register bus. -/
theorem exec_form (c : Instr) (s : State) (h : atPins c = false) : (∃ f, exec c s = act f s) ∨ ∃ f, exec c s = actReg f s := by
  cases c
  case railRise | powerLoss | powerOnReset | refclkLoss | refclkReturn | thermtrip | porstNLow => cases h
  case bellEnable | bellSetGo | bellTickGo | bellStepArm | bellStepOriginWrite | rfabBenchGo | gateDisable | portEnable | linkPortWrite | rteResync
      | mirrorEnable | huddleFenceGo | linkEnable | linkRetrain | linkLoopbackSelect | linkPrbsEnable | linkExpectWrite | hbmFence | hbmUnfence
      | memQuotaWrite | memThermCfgWrite | refAck | refClear | refRaise | ckpMirrorDisable | setAliasWrite | clearAliasWrite | toggleAliasWrite
      | blkUnlock | cntClear | postedWriteDone | multiwordLatchRead | registerWrite | sitBlkWorldWrite | fabricReset | haltGo | cmdRxEnable =>
    exact .inr ⟨_, by unfold exec; rfl⟩
  all_goals exact .inl ⟨_, by unfold exec; rfl⟩

/-- What a command on a device that runs leaves, by what its effect comes to. -/
theorem act_of_eq {f : Dev → Dev} {s : State} {e : Dev} (ha : alive s.dev = true) (h : f s.dev = e) : act f s = .next (s.after e) := by
  rw [act_next ha, h]

theorem actReg_of_eq {f : Dev → Dev} {s : State} {e : Dev} (ha : alive s.dev = true) (h : f s.dev = e) : actReg f s = .next (s.after e) := by
  rw [actReg_next ha, h]

/-- A stop of the supplies that the manual gives no effect (R561, R564). -/
def SupplyStop (c : Instr) (s : State) : Prop :=
  (∃ i mv, c = .railRise i mv ∧ railMax i.val < mv.toNat ∧ exec c s = .fault .overAbsoluteMax)
    ∨ ∃ i ms, c = .powerLoss i ms ∧ fallBreaks s.dev i.val = true ∧ 10 < ms.toNat ∧ railUpLater s.dev i.val = true ∧ exec c s = .fault .unplannedFall

theorem exec_railRise (i : Fin 10) (mv : BitVec 16) (s : State) :
    exec (.railRise i mv) s = if railMax i.val < mv.toNat then .fault .overAbsoluteMax else .next (s.after (railRise s.dev i.val mv.toNat)) := rfl

theorem exec_powerLoss (i : Fin 10) (ms : BitVec 16) (s : State) :
    exec (.powerLoss i ms) s = if fallBreaks s.dev i.val = true ∧ 10 < ms.toNat ∧ railUpLater s.dev i.val = true then .fault .unplannedFall
      else .next (s.after (powerLoss s.dev i.val)) := rfl

/-- What a command can answer: an effect that settles, nothing, or a stop of the supplies. -/
theorem exec_cases (c : Instr) (s : State) : (∃ e, exec c s = .next (s.after e)) ∨ exec c s = .next s ∨ SupplyStop c s := by
  cases h : atPins c
  case false =>
    rcases exec_form c s h with ⟨f, hf⟩ | ⟨f, hf⟩
    · rcases act_cases f s with ⟨-, ha⟩ | ⟨-, ha⟩
      · exact .inl ⟨_, hf.trans ha⟩
      · exact .inr (.inl (hf.trans ha))
    · rcases actReg_cases f s with ha | ha
      · exact .inl ⟨_, hf.trans ha⟩
      · exact .inr (.inl (hf.trans ha))
  case true =>
    cases c
    case railRise i mv =>
      by_cases hv : railMax i.val < mv.toNat
      · exact .inr (.inr (.inl ⟨i, mv, rfl, hv, by rw [exec_railRise, if_pos hv]⟩))
      · exact .inl ⟨_, by rw [exec_railRise, if_neg hv]⟩
    case powerLoss i ms =>
      by_cases hv : fallBreaks s.dev i.val = true ∧ 10 < ms.toNat ∧ railUpLater s.dev i.val = true
      · exact .inr (.inr (.inr ⟨i, ms, rfl, hv.1, hv.2.1, hv.2.2, by rw [exec_powerLoss, if_pos hv]⟩))
      · exact .inl ⟨_, by rw [exec_powerLoss, if_neg hv]⟩
    case powerOnReset | refclkLoss | refclkReturn | thermtrip | porstNLow => exact .inl ⟨_, rfl⟩
    all_goals cases h

/-- Settles O3: by what a command can answer. -/
theorem onlySuppliesCanStop : Obligations.OnlySuppliesCanStop := by
  unfold Obligations.OnlySuppliesCanStop
  intro c s
  rcases exec_cases c s with ⟨e, he⟩ | he | hstop
  · exact .inl ⟨_, he, rfl⟩
  · exact .inl ⟨s, he, rfl⟩
  · exact .inr hstop

/-! ## FAULT_N (R570) -/

/-- FAULT_N follows HALT. -/
def FaultPinned (d : Dev) : Prop := d.pkg.faultN = !halted d

/-- Whatever settles, FAULT_N follows HALT afterwards. -/
theorem faultPinned_settle (d : Dev) : FaultPinned (settle d) := pinFault_faultN _

theorem faultPinned_exec {c : Instr} {s t : State} (h : FaultPinned s.dev) (ht : exec c s = .next t) : FaultPinned t.dev := by
  rcases exec_cases c s with ⟨e, he⟩ | he | ⟨i, mv, -, -, he⟩ | ⟨i, ms, -, -, -, -, he⟩
  · obtain rfl := Host.Outcome.next.inj (he.symm.trans ht)
    exact faultPinned_settle e
  · obtain rfl := Host.Outcome.next.inj (he.symm.trans ht)
    exact h
  · cases he.symm.trans ht
  · cases he.symm.trans ht

/-- One fabric cycle settles, too. -/
theorem faultPinned_idle {s : State} (h : FaultPinned s.dev) : FaultPinned (idle s).dev := by
  unfold idle
  split
  · exact faultPinned_settle _
  · exact h

/-- Settles O5: every command that changes the device ends by driving the pin. -/
theorem faultPinFollowsHalt : Obligations.FaultPinFollowsHalt := by
  unfold Obligations.FaultPinFollowsHalt
  intro s t h ht
  unfold step at ht
  split at ht
  · obtain rfl := Host.Outcome.next.inj ht
    exact faultPinned_idle h
  · next rest _ => exact faultPinned_exec (s := { s with pending := rest }) h ht

/-! ## A device that is off, held or dead (R546, R563, R568) -/

theorem actReg_idle {f : Dev → Dev} {s : State} (h : alive s.dev = false) (hd : s.dev.pkg.phase ≠ .dead) : actReg f s = .next s := by
  simp [actReg, h, hd]

theorem alive_of_phase {d : Dev} (h : d.pkg.phase = .off ∨ d.pkg.phase = .held ∨ d.pkg.phase = .dead) : alive d = false := by
  rcases h with h | h | h <;> simp [alive, h]

/-- An address of a block's normal range is its own. -/
theorem blkBase_add_own {a : Nat} (h : a % 0x4000 < 0x1000) : blkBase a + a % 0x1000 = a := by
  unfold blkBase
  omega

/-- Where no image verifies, a block other than Sitonel's takes no write. -/
theorem busWrite_of_dead {d : Dev} {who : Req} {a v be : Nat} {b : BlkRow} {i : Nat} (hd : d.pkg.phase = .dead) (ha : a % 0x4000 < 0x1000)
    (hb : blkOf a = some (b, i)) (hk : b.kind ≠ 2) : busWrite d who a v be = d := by
  have hans : blkAnswers d b.kind = false := by simp [blkAnswers, hd, hk]
  unfold busWrite
  simp only [blkBase_add_own ha, hb, hd, decide_true, ↓reduceIte]
  split
  · rfl
  · cases regFlds a with
    | none => rfl
    | some fs => simp only [hans, Bool.not_false, ↓reduceIte]

/-- Settles O6: by the form of every meaning, and by the writes that a dead device's blocks take. -/
theorem heldAndDeadDevicesStand : Obligations.HeldAndDeadDevicesStand := by
  unfold Obligations.HeldAndDeadDevicesStand
  intro c s
  refine ⟨?held, ?dead⟩
  case held =>
    intro hphase hrise hloss hpor hclk hret htrip hlow
    have hpins : atPins c = false := by
      cases c
      case railRise i mv => exact absurd rfl (hrise i mv)
      case powerLoss i ms => exact absurd rfl (hloss i ms)
      case powerOnReset a b => exact absurd rfl (hpor a b)
      case refclkLoss i => exact absurd rfl (hclk i)
      case refclkReturn i => exact absurd rfl (hret i)
      case thermtrip t => exact absurd rfl (htrip t)
      case porstNLow => exact absurd rfl hlow
      all_goals rfl
    have halive : alive s.dev = false := alive_of_phase (hphase.imp_right .inl)
    have hnd : s.dev.pkg.phase ≠ .dead := by rcases hphase with h | h <;> simp [h]
    rcases exec_form c s hpins with ⟨f, hf⟩ | ⟨f, hf⟩
    · exact hf.trans (act_idle halive)
    · exact hf.trans (actReg_idle halive hnd)
  case dead =>
    intro hd
    have halive : alive s.dev = false := alive_of_phase (.inr (.inr hd))
    refine ⟨fun h p => ⟨act_idle halive, act_idle halive, act_idle halive⟩, fun who addr v be b i ha hb hk => ?_⟩
    have hw := busWrite_of_dead (who := who) (v := v.toNat) (be := be.toNat) hd ha hb hk
    change actReg (fun d => busWrite d who addr.toNat v.toNat be.toNat) s = _
    simp only [actReg, hd, decide_true, Bool.or_true, ↓reduceIte, hw]
    rfl

/-! ## One step -/

/-- The device once bell time has risen by one increment (R251). -/
def cyclePassed (d : Dev) : Dev := ppsPass { d with clk := { d.clk with now := d.clk.now + rg d Reg.BELL_INC } } (ns d)

theorem halted_cyclePassed (d : Dev) : halted (cyclePassed d) = halted d := fbit_congr (ppsPass_regs ..) _ _

theorem ticked_cyclePassed (d : Dev) : (cyclePassed d).clk.ticked = d.clk.ticked := by rw [cyclePassed, ppsPass_clk]

/-- A cycle of a halted fabric in which no tick boundary is crossed: bell time and BELL_PPS_OUT alone move. -/
theorem fabricCycle_of_halted {d : Dev} (hh : halted d = true) (ht : tickIdx (cyclePassed d) = d.clk.ticked) : fabricCycle d = cyclePassed d := by
  have hrun : running (cyclePassed d) = false := by simp [running, halted_cyclePassed, hh]
  have hcycle : fabricCycle d =
      (let e := if running (cyclePassed d) then cwPumpAll (cyclePassed d) else cyclePassed d
      if tickIdx e = e.clk.ticked then e else tickActions e) := by
    unfold fabricCycle
    rw [hh, Bool.true_or, if_pos rfl]
    rfl
  simp only [hcycle, hrun, ticked_cyclePassed, ht, Bool.false_eq_true, ↓reduceIte]

theorem idle_of_alive {s : State} (h : alive s.dev = true) : idle s = s.after (fabricCycle s.dev) := if_pos h
theorem idle_of_not_alive {s : State} (h : alive s.dev = false) : idle s = s := if_neg (Bool.eq_false_iff.mp h)

theorem step_of_empty {s : State} (h : s.pending = []) : step s = .next (idle s) := by simp only [step, h]

/-- Settles O1: by the two cases of a step. -/
theorem stepRunsTheFrontCommand : Obligations.StepRunsTheFrontCommand := by
  unfold Obligations.StepRunsTheFrontCommand
  intro s
  refine ⟨fun c rest => rfl, fun hp ha => ?_, fun hp ha hh => ?_⟩
  · rw [step_of_empty hp, idle_of_not_alive ha]
  · intro d ht
    rw [step_of_empty hp, idle_of_alive ha, fabricCycle_of_halted hh ht]
    rfl

end Sys2Proof.Machine
end
section
/-! PROOFS. What settles where nothing that `Quiet` lists is due: a bucket that is INKED, whose attempt has left and which no run and no publication holds back, is retired when a
command settles (R134), though none of what `Quiet` lists is due. -/

namespace Sys2Proof.Machine

/-- An INKED bucket, without chunks and with nothing left to send. -/
def inkedBucket : Bucket :=
  { st := .inked, attempt := 0, grp := Group.free, params := [], openAt := 0, pendAt := 0, late := 0, eref := 0, seed := 0, xchk := false, rm := 0,
    chunks := [], held := [], aborts := [], reports := [], cause := none, skipped := 0, primOnly := [], noted := false, openers := [], mReg := 0,
    mEref := 0, mJoin := [], mChunks := [], mGot := [], mConf := [], mSent := [], inkAt := 0, shard := none, lateDone := false, mLateDone := false,
    pubElems := 0 }

/-- The device after a power-on reset with that bucket open under key 0. -/
def inkedDev : Dev := { Dev.reset with seq := { Dev.reset.seq with buckets := [(0, some inkedBucket)] } }

theorem quiet_inkedDev : Quiet inkedDev := by decide +kernel

/-- The settling retires the bucket. -/
theorem settle_inkedDev_buckets : (settle inkedDev).seq.buckets = [] := by decide +kernel

/-- Refutes O4: nothing that `Quiet` names is due on `inkedDev`, and its INKED bucket is retired all the same. -/
theorem not_nothingDueSettlesToNothing : ¬ Obligations.NothingDueSettlesToNothing := by
  unfold Obligations.NothingDueSettlesToNothing
  intro h
  have hkept : (settle inkedDev).seq.buckets = [(0, some inkedBucket)] := by rw [h inkedDev quiet_inkedDev]; rfl
  exact absurd (settle_inkedDev_buckets.symm.trans hkept) (List.cons_ne_nil _ _).symm

end Sys2Proof.Machine
end

section
/-! PROOFS. What a raise and a record of the referee leave of the sources (R445, R449): a record touches the ring and its registers, a raise its own
source, and a second one FS_957 alone, where the ring is full. -/

namespace Sys2Proof.Machine

theorem srcOf_congr {d e : Dev} (h : e.ref.src = d.ref.src) (n : Nat) : srcOf e n = srcOf d n := by rw [srcOf, h, srcOf]

theorem sev_congr {d e : Dev} {n : Nat} (h : rg e (Reg.REF_SEV (n / 8)) = rg d (Reg.REF_SEV (n / 8))) : sev e n = sev d n := by rw [sev, h, sev]

@[simp] theorem rgPut_src (d : Dev) (a v n : Nat) : srcOf (rgPut d a v) n = srcOf d n := rfl
@[simp] theorem fset_src (d : Dev) (a : Nat) (f : Nat × Nat) (v n : Nat) : srcOf (fset d a f v) n = srcOf d n := rfl
@[simp] theorem bump_src (d : Dev) (a k n : Nat) : srcOf (bump d a k) n = srcOf d n := rfl

theorem sev_lt (d : Dev) (n : Nat) : sev d n < 16 := by
  have h : 4 * (n % 8) + 3 + 1 - 4 * (n % 8) = 4 := by omega
  have hlt := bits_lt (rg d (Reg.REF_SEV (n / 8))) (4 * (n % 8) + 3) (4 * (n % 8))
  rwa [h] at hlt

/-! ## The ring -/

/-- Where the ring has room a record is appended. -/
theorem refWrite_of_room {d : Dev} (n ev : Nat) (h : d.ref.ring.length < 4096) :
    refWrite d n ev = (fset { d with ref := { d.ref with ring := d.ref.ring ++ [refRecord d n ev] } } Reg.REF_RING_HEAD Fd.REF_RING_HEAD_head
      ((fget d Reg.REF_RING_HEAD Fd.REF_RING_HEAD_head + 1) % 4096), false) := by rw [refWrite, if_pos h]

theorem refWrite_of_full {d : Dev} (n ev : Nat) (h : ¬d.ref.ring.length < 4096) :
    refWrite d n ev = (fset (bump d Reg.REF_RING_DROP_CNT) Reg.REF_STATUS Fd.REF_STATUS_ring_full 1, true) := by rw [refWrite, if_neg h]

@[simp] theorem refWrite_src (d : Dev) (n ev m : Nat) : srcOf (refWrite d n ev).1 m = srcOf d m := by
  unfold refWrite
  split
  · exact fset_src ..
  · rw [fset_src, bump_src]

/-- A record has 32 bytes, and shows its source, the event and the source's severity (R449). -/
theorem refRecord_shows (d : Dev) {n ev : Nat} (hn : n < 65536) (hev : ev < 256) :
    (refRecord d n ev).length = 32 ∧ field (refRecord d n ev) 10 2 = n ∧ byteAt (refRecord d n ev) 12 = ev ∧ byteAt (refRecord d n ev) 13 = sev d n := by
  have hsev : sev d n < 256 := Nat.lt_trans (sev_lt d n) (by decide)
  have htime : (timeBytes d).length = 10 := by simp [timeBytes]
  obtain ⟨c, hc⟩ : ∃ c, refRecord d n ev = timeBytes d ++ beBytes 2 n ++ beBytes 1 ev ++ beBytes 1 (sev d n) ++ beBytes 2 0 ++ beBytes 4 (faultReg d n)
      ++ beBytes 4 (srcOf d n).count ++ beBytes 4 0 ++ beBytes 4 c := ⟨_, rfl⟩
  have hbyte (x : Nat) : beBytes 1 x = [BitVec.ofNat 8 x] := rfl
  rw [hc]
  simp only [List.append_assoc]
  refine ⟨?_, ?_, ?_, ?_⟩
  · simp [htime]
  · rw [← List.append_assoc, field_at _ _ _ _ 2 htime (by simp), beNat_beBytes]
    exact Nat.mod_eq_of_lt hn
  · simp [byteAt, hbyte, htime, Nat.mod_eq_of_lt hev]
  · simp [byteAt, hbyte, htime, Nat.mod_eq_of_lt hsev]

/-! ## A raise -/

/-- The source as its raise counts it. -/
def srcCounted (d : Dev) (n : Nat) : Src := { srcOf d n with count := satInc (srcOf d n).count 1 }

/-- What a raise makes of its source. -/
def srcRaised (d : Dev) (n : Nat) : Src :=
  if sev d n = 15 then srcCounted d n
  else match (srcOf d n).st with
    | .idle => if sev d n = 0 then { srcCounted d n with last := ns d, st := .fault, lateOk := false, sev := 0 }
      else { srcCounted d n with last := ns d, st := .window, until_ := ns d + windowNs d (sev d n), lateOk := false, sev := sev d n }
    | _ => { srcCounted d n with last := ns d }

/-- A raise of a source that is OFF (R444). -/
theorem raise1_of_off {d : Dev} {n : Nat} (hv : sev d n = 15) : raise1 d n = (srcPut d n (srcRaised d n), false) := by
  simp only [raise1, srcRaised, srcCounted, hv, ↓reduceIte]

/-- A raise of a source that is not in IDLE (R445). -/
theorem raise1_of_busy {d : Dev} {n : Nat} (hv : sev d n ≠ 15) (hs : (srcOf d n).st ≠ .idle) :
    raise1 d n = (srcPut (bump d Reg.REF_RAISE_CNT) n (srcRaised d n), false) := by
  unfold raise1 srcRaised srcCounted
  rw [if_neg hv, if_neg hv]
  dsimp only
  cases h : (srcOf d n).st with
  | idle => exact absurd h hs
  | window => rfl
  | fault => rfl
  | sticky => rfl

/-- The device whose source a raise takes out of IDLE, before the record. -/
def raiseOpened (d : Dev) (n : Nat) : Dev :=
  let e := srcPut (bump d Reg.REF_RAISE_CNT) n (srcRaised d n)
  if sev d n ≠ 0 ∧ windowNs d (sev d n) = 0 then { e with ref := { e.ref with due := e.ref.due ++ [n] } } else e

theorem windowNs_bump_raise (d : Dev) (v : Nat) (h : v ≤ 16) : windowNs (bump d Reg.REF_RAISE_CNT) v = windowNs d v := by
  unfold windowNs fget
  rw [rg_bump_ne _ _ (by unfold Reg.REF_WINDOW Reg.REF_RAISE_CNT; omega)]

/-- A raise of a source in IDLE (R445). -/
theorem raise1_of_idle {d : Dev} {n : Nat} (hv : sev d n ≠ 15) (hs : (srcOf d n).st = .idle) : raise1 d n = refWrite (raiseOpened d n) n 0 := by
  have hw := windowNs_bump_raise d (sev d n) (Nat.le_of_lt (sev_lt d n))
  have hsrc : srcOf (bump d Reg.REF_RAISE_CNT) n = srcOf d n := rfl
  have hns : ns (bump d Reg.REF_RAISE_CNT) = ns d := rfl
  unfold raise1 raiseOpened srcRaised srcCounted
  rw [if_neg hv, if_neg hv, hs]
  by_cases h0 : sev d n = 0
  · simp only [h0, hns, ne_eq, not_true_eq_false, false_and, ↓reduceIte]
  · have hns' (x : Src) : windowNs (srcPut (bump d Reg.REF_RAISE_CNT) n x) (sev d n) = windowNs d (sev d n) := hw
    by_cases h1 : windowNs d (sev d n) = 0
    · simp only [h0, h1, hns', hw, hns, ne_eq, not_false_eq_true, true_and, ↓reduceIte]
    · simp only [h0, h1, hns', hw, hns, ne_eq, not_false_eq_true, true_and, ↓reduceIte]

@[simp] theorem raiseOpened_ring (d : Dev) (n : Nat) : (raiseOpened d n).ref.ring = d.ref.ring := by unfold raiseOpened; dsimp only; split <;> rfl
@[simp] theorem raiseOpened_regs (d : Dev) (n : Nat) : (raiseOpened d n).regs = (bump d Reg.REF_RAISE_CNT).regs := by unfold raiseOpened; dsimp only; split <;> rfl
theorem raiseOpened_src (d : Dev) (n m : Nat) : srcOf (raiseOpened d n) m = srcOf (srcPut d n (srcRaised d n)) m := by
  unfold raiseOpened; dsimp only; split <;> rfl

/-- What can become of a raise: the source is OFF, not in IDLE, or leaves IDLE with a record. -/
theorem raise1_cases (d : Dev) (n : Nat) :
    (sev d n = 15 ∧ raise1 d n = (srcPut d n (srcRaised d n), false))
      ∨ (sev d n ≠ 15 ∧ (srcOf d n).st ≠ .idle ∧ raise1 d n = (srcPut (bump d Reg.REF_RAISE_CNT) n (srcRaised d n), false))
      ∨ (sev d n ≠ 15 ∧ (srcOf d n).st = .idle ∧ raise1 d n = refWrite (raiseOpened d n) n 0) := by
  by_cases hv : sev d n = 15
  · exact .inl ⟨hv, raise1_of_off hv⟩
  · by_cases hs : (srcOf d n).st = .idle
    · exact .inr (.inr ⟨hv, hs, raise1_of_idle hv hs⟩)
    · exact .inr (.inl ⟨hv, hs, raise1_of_busy hv hs⟩)

/-- A raise changes its own source alone. -/
theorem raise1_src (d : Dev) (n m : Nat) : srcOf (raise1 d n).1 m = srcOf (srcPut d n (srcRaised d n)) m := by
  rcases raise1_cases d n with ⟨-, h⟩ | ⟨-, -, h⟩ | ⟨-, -, h⟩
  · rw [h]
  · rw [h]
    rfl
  · rw [h, refWrite_src, raiseOpened_src]

/-- A source other than those raised, FS_957 among them, keeps its state. -/
theorem raise_src_ne (d : Dev) {n m : Nat} (h : m ≠ n) (h957 : m ≠ 957) : srcOf (raise d n) m = srcOf d m := by
  have h1 : srcOf (raise1 d n).1 m = srcOf d m := by rw [raise1_src, srcOf_srcPut_ne _ _ h]
  unfold raise
  dsimp only
  split
  · rw [raise1_src, srcOf_srcPut_ne _ _ h957, h1]
  · exact h1

theorem raise_src_self (d : Dev) {n : Nat} (h957 : n ≠ 957) : srcOf (raise d n) n = srcRaised d n := by
  have h1 : srcOf (raise1 d n).1 n = srcRaised d n := by rw [raise1_src, srcOf_srcPut_self]
  unfold raise
  dsimp only
  split
  · rw [raise1_src, srcOf_srcPut_ne _ _ h957, h1]
  · exact h1

theorem srcRaised_count (d : Dev) (n : Nat) : (srcRaised d n).count = satInc (srcOf d n).count 1 := by
  unfold srcRaised
  split
  · rfl
  · cases (srcOf d n).st with
    | idle => dsimp only; split <;> rfl
    | _ => rfl

/-- Every raise is counted (R445). -/
theorem raise_count_self (d : Dev) {n : Nat} (h957 : n ≠ 957) : (srcOf (raise d n) n).count = satInc (srcOf d n).count 1 := by
  rw [raise_src_self d h957, srcRaised_count]

/-- No record was refused: a raise is its source's own pass. -/
theorem raise_of_taken {d e : Dev} {n : Nat} (h : raise1 d n = (e, false)) : raise d n = e := by
  simp only [raise, h, Bool.false_eq_true, ↓reduceIte]

/-- A record with room in the ring raises nothing. -/
theorem refNote_of_room {d : Dev} (n ev : Nat) (h : d.ref.ring.length < 4096) : refNote d n ev = (refWrite d n ev).1 := by
  simp only [refNote, refWrite_of_room n ev h, Bool.false_eq_true, ↓reduceIte]

theorem satInc_satInc (n j k : Nat) : satInc (satInc n j) k = satInc n (j + k) := by
  unfold satInc
  omega

end Sys2Proof.Machine
end

section
/-! PROOFS. The audit of the pools, and the banks that pointers are fetched from (R362, R365). -/

namespace Sys2Proof.Machine

/-! ## ROLL_CALL (R365) -/

/-- A pool's difference other than 0 sets diff_seen, is counted and raises FS_944. -/
def diffReported (x : Int) (d : Dev) : Dev :=
  if x = 0 then d else raise (bump (fset d Reg.MEM_ROLLCALL Fd.MEM_ROLLCALL_diff_seen 1) Reg.MEM_ROLLCALL_CNT) 944

/-- How many of its arguments the report counts. -/
abbrev diffNumber (x : Int) : Nat := if x = 0 then 0 else 1

section
variable (x : Int) (d : Dev)

theorem diffReported_mem : (diffReported x d).mem = d.mem := by
  unfold diffReported
  split
  · rfl
  · rw [raise_mem, bump_mem, fset_mem]

theorem rg_diffReported {a : Nat} (hr : ¬RefReg a) (h : a ≠ Reg.MEM_ROLLCALL) (hc : a ≠ Reg.MEM_ROLLCALL_CNT) : rg (diffReported x d) a = rg d a := by
  unfold diffReported
  split
  · rfl
  · rw [rg_raise_ne hr, rg_bump_ne _ _ hc, rg_fset_ne _ _ _ h]

theorem rg_diffReported_cnt : rg (diffReported x d) Reg.MEM_ROLLCALL_CNT = satInc (rg d Reg.MEM_ROLLCALL_CNT) (diffNumber x) := by
  unfold diffReported diffNumber
  split
  · exact (Nat.min_eq_left (Nat.le_of_lt_succ (rg_lt d _))).symm
  · rw [rg_raise_ne (by decide), rg_bump_self, rg_fset_ne _ _ _ (by decide)]

theorem seen_diffReported (h : x ≠ 0 ∨ fbit d Reg.MEM_ROLLCALL Fd.MEM_ROLLCALL_diff_seen = true) :
    fbit (diffReported x d) Reg.MEM_ROLLCALL Fd.MEM_ROLLCALL_diff_seen = true := by
  unfold diffReported
  split
  · next h0 => exact h.resolve_left fun hx => hx h0
  · rw [fbit, rg_raise_ne (by decide), rg_bump_ne _ _ (by decide), ← fbit, fbit_fset_self _ _ _ rfl (by decide), decide_eq_true rfl]

theorem count_diffReported : (srcOf (diffReported x d) 944).count = if x = 0 then (srcOf d 944).count else satInc (srcOf d 944).count 1 := by
  unfold diffReported
  split
  · rfl
  · rw [raise_count_self _ (by decide), bump_src, fset_src]

end

/-- The differences of the two pools. -/
abbrev sramDiff (d : Dev) : Int := poolDiff d.mem.sram sramTotal
abbrev hpoolDiff (d : Dev) : Int := poolDiff d.mem.hpool hpoolTotal

/-- The device once the audit of this tick has left its differences. -/
def audited (d : Dev) : Dev :=
  rgPut (rgPut { d with mem := { d.mem with callAt := tickIdx d } } Reg.MEM_ROLLCALL_DIFF (unsigned 32 (sramDiff d))) Reg.MEM_HROLLCALL_DIFF
    (unsigned 32 (hpoolDiff d))

theorem rollCall_of_due {d : Dev} (ha : alive d = true) (hen : fbit d Reg.MEM_CTRL Fd.MEM_CTRL_rollcall_en = true)
    (hat : d.mem.callAt + max 1 (fget d Reg.MEM_ROLLCALL Fd.MEM_ROLLCALL_interval) ≤ tickIdx d) :
    rollCall d = diffReported (hpoolDiff d) (diffReported (sramDiff d) (audited d)) := by
  simp only [rollCall, ha, hen, fget1, Nat.not_lt.mpr hat, Bool.not_true, Bool.or_self, decide_false, Bool.false_eq_true, ↓reduceIte]
  rfl

theorem audited_only (d : Dev) :
    OnlyRegs [Reg.MEM_ROLLCALL_DIFF, Reg.MEM_HROLLCALL_DIFF] { d with mem := { d.mem with callAt := tickIdx d } } (audited d) :=
  ((rgPut_onlyRegs ..).mono (by simp)).trans ((rgPut_onlyRegs ..).mono (by simp))

theorem rg_audited_ne (d : Dev) {a : Nat} (h : a ≠ Reg.MEM_ROLLCALL_DIFF) (hh : a ≠ Reg.MEM_HROLLCALL_DIFF) : rg (audited d) a = rg d a :=
  (audited_only d).2 a (by simp [h, hh])

theorem exec_rollCall (s : State) : exec .rollCall s = act rollCall s := rfl

/-! ## POOL_BANK_FETCH (R362) -/

/-- A pool whose bank takes pointers from the ring or gives some back. -/
def bankBalanced (p : Pool) (i : Nat) : Pool :=
  if p.banks.getD i 0 < 64 then { p with banks := p.banks.modify i (· + min 64 p.ring), ring := p.ring - min 64 p.ring }
  else if 192 < p.banks.getD i 0 then { p with banks := p.banks.modify i (· - 64), ring := p.ring + 64 } else p

theorem bankFetch_sram {d : Dev} (bank : BitVec 4) (ha : alive d = true) :
    bankFetch false bank d = { d with mem := { d.mem with sram := bankBalanced d.mem.sram bank.toNat } } := by
  simp only [bankFetch, ha, Bool.not_true, Bool.false_eq_true, ↓reduceIte]
  rfl

theorem bankFetch_hpool {d : Dev} (bank : BitVec 4) (ha : alive d = true) :
    bankFetch true bank d = { d with mem := { d.mem with hpool := bankBalanced d.mem.hpool bank.toNat } } := by
  simp only [bankFetch, ha, Bool.not_true, Bool.false_eq_true, ↓reduceIte]
  rfl

theorem exec_poolBankFetch (hbm : Bool) (bank : BitVec 4) (s : State) : exec (.poolBankFetch hbm bank) s = act (bankFetch hbm bank) s := rfl

/-- Settles O31: by what the report of each pool's difference leaves, and by the balance of a bank. -/
theorem poolsAreAudited : Obligations.PoolsAreAudited := by
  unfold Obligations.PoolsAreAudited
  intro s d
  refine ⟨?audit, ?fetch⟩
  case audit =>
    intro a b halive hen hat
    refine ⟨diffReported b (diffReported a (audited d)), ?_, ?_, ?_, ?_, ?_, ?_⟩
    · rw [exec_rollCall, act_next halive]
      exact congrArg (fun e => Host.Outcome.next (s.after e)) (rollCall_of_due halive hen hat)
    · rw [rg_diffReported _ _ (by decide) (by decide) (by decide), rg_diffReported _ _ (by decide) (by decide) (by decide), audited,
        rg_rgPut_ne _ _ (by decide), rg_rgPut_self]
      exact Nat.mod_eq_of_lt (unsigned_lt ..)
    · rw [rg_diffReported _ _ (by decide) (by decide) (by decide), rg_diffReported _ _ (by decide) (by decide) (by decide), audited,
        rg_rgPut_self]
      exact Nat.mod_eq_of_lt (unsigned_lt ..)
    · rw [diffReported_mem, diffReported_mem, audited, rgPut_mem, rgPut_mem]
    · intro ha hb
      rw [diffReported, if_pos hb, diffReported, if_pos ha]
      exact audited_only d
    · intro hne
      refine ⟨?_, ?_, ?_⟩
      · exact seen_diffReported _ _ (hne.symm.imp_right fun h => seen_diffReported _ _ (.inl h))
      · rw [rg_diffReported_cnt, rg_diffReported_cnt, satInc_satInc, rg_audited_ne d (by decide) (by decide)]
      · have hsrc : (srcOf (audited d) 944).count = (srcOf d 944).count := rfl
        rw [count_diffReported, count_diffReported, hsrc]
        by_cases ha : a = 0
        · rw [if_pos ha, if_pos ha, if_neg (hne.resolve_left (not_not_intro ha)), if_neg (hne.resolve_left (not_not_intro ha))]
        · by_cases hb : b = 0
          · rw [if_neg ha, if_neg ha, if_pos hb, if_pos hb]
          · rw [if_neg ha, if_neg ha, if_neg hb, if_neg hb, satInc_satInc]
  case fetch =>
    intro bank halive c h
    rw [exec_poolBankFetch, exec_poolBankFetch, act_next halive, act_next halive, bankFetch_sram bank halive, bankFetch_hpool bank halive]
    exact ⟨rfl, rfl⟩

end Sys2Proof.Machine
end

section
/-! PROOFS. Stacks are tended (R380, R383, R384, R385): the scrub, the thermal states, and the shares that move. -/

namespace Sys2Proof.Machine

/-! ## Cells that move -/

/-- A table filtered by its keys. -/
theorem tget_filter_key {α : Type} (z : α) (q : Nat → Bool) (m : List (Nat × α)) (k : Nat) :
    tget z (m.filter fun e => q e.1) k = if q k = true then tget z m k else z := by
  induction m with
  | nil => simp
  | cons e m ih =>
    obtain ⟨j, w⟩ := e
    by_cases hk : k = j
    · subst hk
      cases hq : q k <;> simp [hq, ih, tget]
    · cases hq : q j <;> simp [hq, ih, tget, hk]

/-- A key that a table does not list reads as the default. -/
theorem tget_of_not_mem {α : Type} (z : α) {m : List (Nat × α)} {k : Nat} (h : k ∉ m.map (·.1)) : tget z m k = z := by
  induction m with
  | nil => rfl
  | cons e m ih =>
    obtain ⟨j, w⟩ := e
    simp only [List.map_cons, List.mem_cons, not_or] at h
    simp [tget, h.1, ih h.2]

section
variable {α : Type} (z : α) {src dst : Nat}

/-- What the destination's keys read as once cells from `src` upward have been put there one after another. -/
theorem tget_putMoved_in {xs : List (Nat × α)} (hk : ∀ e ∈ xs, src ≤ e.1) (hn : (xs.map (·.1)).Nodup) (rest : List (Nat × α)) (i : Nat) :
    tget z (xs.foldl (fun m e => tput m (e.1 - src + dst) e.2) rest) (dst + i) = tget (tget z rest (dst + i)) xs (src + i) := by
  induction xs generalizing rest with
  | nil => rfl
  | cons e xs ih =>
    obtain ⟨j, w⟩ := e
    obtain ⟨hj, hk⟩ := List.forall_mem_cons.mp hk
    obtain ⟨hnot, hn⟩ := List.nodup_cons.mp hn
    rw [List.foldl_cons, ih hk hn]
    by_cases hij : src + i = j
    · subst hij
      have hkey : src + i - src + dst = dst + i := by omega
      rw [hkey, tget_tput_self, tget_of_not_mem _ hnot, tget, if_pos rfl]
    · have hkey : dst + i ≠ j - src + dst := by
        have : src ≤ j := hj
        omega
      simp [tget, hij, tget_tput_ne _ _ _ hkey]

/-- Keys beside the destination read as before. -/
theorem tget_putMoved_out {n : Nat} {xs : List (Nat × α)} (hk : ∀ e ∈ xs, src ≤ e.1 ∧ e.1 < src + n) (rest : List (Nat × α)) {k : Nat}
    (h : ¬(dst ≤ k ∧ k < dst + n)) : tget z (xs.foldl (fun m e => tput m (e.1 - src + dst) e.2) rest) k = tget z rest k := by
  induction xs generalizing rest with
  | nil => rfl
  | cons e xs ih =>
    obtain ⟨hj, hk⟩ := List.forall_mem_cons.mp hk
    rw [List.foldl_cons, ih hk, tget_tput_ne]
    omega

/-- A run that has moved reads at its destination as its source read, and every other key reads as before. -/
theorem tget_moveCells [DecidableEq α] {m : List (Nat × α)} (h : twf z m = true) (n k : Nat) :
    tget z (moveCells m src dst n tput) k = if dst ≤ k ∧ k < dst + n then tget z m (src + (k - dst)) else tget z m k := by
  have hsrc : ∀ e ∈ m.filter (fun e => decide (src ≤ e.1 ∧ e.1 < src + n)), src ≤ e.1 ∧ e.1 < src + n := fun e he => of_decide_eq_true (List.mem_filter.mp he).2
  have hnodup : ((m.filter fun e => decide (src ≤ e.1 ∧ e.1 < src + n)).map (·.1)).Nodup :=
    (keys_nodup_of_twf h).sublist ((List.filter_sublist).map _)
  unfold moveCells
  dsimp only
  split
  · next hin =>
    obtain ⟨i, rfl⟩ := Nat.exists_eq_add_of_le hin.1
    rw [tget_putMoved_in z (fun e he => (hsrc e he).1) hnodup,
      tget_filter_key z (fun j => !decide (dst ≤ j ∧ j < dst + n)), tget_filter_key _ (fun j => decide (src ≤ j ∧ j < src + n))]
    have hi : i < n := by omega
    simp [hi]
  · next hout =>
    rw [tget_putMoved_out z hsrc _ hout, tget_filter_key z (fun j => !decide (dst ≤ j ∧ j < dst + n))]
    simp only [hout, decide_false, Bool.not_false, ↓reduceIte]

end

/-! ## SCRUB_PASS (R380) -/

/-- The device whose stack begins a scrub. -/
def scrubBegun (d : Dev) (k : Nat) : Dev :=
  { d with mem := { d.mem with
      scrubAt := tset 0 d.mem.scrubAt k (ns d), rowCe := d.mem.rowCe.filter (fun c => c.1 / (64 * 1310720) ≠ k) } }

theorem scrubPass_of_due {d : Dev} {k : BitVec 4} (es : List (Fin 1342177280 × List SymErr)) (hr : running d = true)
    (hen : fbit d Reg.MEM_CTRL Fd.MEM_CTRL_scrub_en = true) (hf : stkFenced d k.toNat = false)
    (hat : tget 0 d.mem.scrubAt k.toNat + max 1 (fget d Reg.MEM_SCRUB Fd.MEM_SCRUB_hours) * 3600000000000 ≤ ns d) :
    scrubPass k es d = es.foldl (fun d e => if scrubbed d (k.toNat * stackLines + e.1.val) then (readLine d (k.toNat * stackLines + e.1.val) e.2).2 else d)
      (scrubBegun d k.toNat) := by
  simp only [scrubPass, hr, hen, hf, fget1, Nat.not_lt.mpr hat, Bool.not_true, Bool.or_self, decide_false, Bool.false_eq_true, ↓reduceIte]
  rfl

theorem exec_scrubPass (k : BitVec 4) (es : List (Fin 1342177280 × List SymErr)) (s : State) :
    exec (.scrubPass k es) s = act (scrubPass k es) s := rfl

/-! ## HBM_TEMP_SAMPLE (R383) -/

/-- The device whose stack shows a temperature. -/
abbrev tempShown (d : Dev) (k t : Nat) : Dev := fset d (Reg.HBM_STK_STATUS k) Fd.HBM_STK_STATUS_temp t

/-- The same in thermal state x. -/
abbrev tempInto (d : Dev) (k t x : Nat) : Dev := fset (tempShown d k t) (Reg.HBM_STK_STATUS k) Fd.HBM_STK_STATUS_state x

/-- The three thresholds. -/
abbrev warmOf (d : Dev) : Nat := fget d Reg.MEM_THERM_CFG Fd.MEM_THERM_CFG_warm
abbrev hotOf (d : Dev) : Nat := fget d Reg.MEM_THERM_CFG Fd.MEM_THERM_CFG_hot
abbrev critOf (d : Dev) : Nat := fget d Reg.MEM_THERM_CFG Fd.MEM_THERM_CFG_crit

/-- A HOT stack that has cooled down: the moves off it that its heat began end, unless it is about to be fenced. -/
def tempCooled (d : Dev) (k t : Nat) : Dev :=
  let e := tempShown d k t
  let e := if tget false e.mem.fencing k then e
    else evacBits { e with mem := { e.mem with evacs := e.mem.evacs.filter (fun v => ¬(v.why = .hot ∧ evacSrc e v = k)) } }
  fset e (Reg.HBM_STK_STATUS k) Fd.HBM_STK_STATUS_state 1

/-- The ladder of the thermal states. -/
theorem tempSample_eq {d : Dev} (k t : Nat) (ha : alive d = true) :
    tempSample d k t = if stkState d k = 4 then tempShown d k t
      else if 95 ≤ t then fenceStack (tempShown d k t) k
      else if stkState d k = 3 then tempShown d k t
      else if critOf d ≤ t then fenceBegin (stkFault (tempInto d k t 3) k Fd.HBM_STK_FAULT_critical) k
      else if hotOf d ≤ t then
        if stkState d k = 2 then tempShown d k t else evacStack (stkFault (tempInto d k t 2) k Fd.HBM_STK_FAULT_hot) k .hot
      else if stkState d k = 2 ∧ hotOf d ≤ t + 3 then tempShown d k t
      else if stkState d k = 2 then tempCooled d k t
      else if warmOf d ≤ t ∨ (stkState d k = 1 ∧ warmOf d ≤ t + 3) then tempInto d k t 1 else tempInto d k t 0 := by
  simp only [tempSample, ha, Bool.not_true, Bool.false_eq_true, ↓reduceIte, tempCooled, ge_iff_le]

/-- At 95 °C a stack is fenced whatever the thresholds. -/
theorem tempSample_of_melting {d : Dev} {k t : Nat} (ha : alive d = true) (ht : 95 ≤ t) (hs : stkState d k ≠ 4) :
    tempSample d k t = fenceStack (tempShown d k t) k := by
  rw [tempSample_eq k t ha, if_neg hs, if_pos ht]

theorem exec_hbmTempSample (k : BitVec 4) (t : BitVec 8) (s : State) :
    exec (.hbmTempSample k t) s = act (fun d => tempSample d k.toNat t.toNat) s := rfl

/-! ## EVAC_RETRY, EVAC_SHARE_DONE (R384, R385) -/

/-- A share that moves off a granule to be retired may stay on its stack (R382, R385). -/
def staysOnStack (w : EvacWhy) : Bool := match w with
  | .retire _ => true
  | _ => false

/-- A single move that waits for a destination looks for one on NORMAL and then WARM stacks. -/
theorem evacRetry_of_waiting {d : Dev} {v : Evac} (hv : d.mem.evacs = [v]) (hd : v.dest = none) :
    evacRetry d = { d with mem := { d.mem with
      evacs := [{ v with dest := evacDest d (evacSrc d v) (runLen (regionAt d v.region)) (staysOnStack v.why) [0, 1] }] } } := by
  simp only [evacRetry, hv, List.length_singleton, List.range_one, List.foldl_cons, List.foldl_nil, List.getElem?_cons_zero, hd, Option.isSome_none,
    Bool.false_eq_true, ↓reduceIte, List.set_cons_zero]
  rfl

/-- The registers that show the state of the stacks. -/
abbrev stackRegs : List Nat := (List.range 16).map Reg.HBM_STK_STATUS

/-- The evacuating bits of the stacks follow the moves, and nothing else does. -/
theorem evacBits_only (d : Dev) : OnlyRegs stackRegs d (evacBits d) := by
  unfold evacBits
  refine List.foldlRecOn (motive := OnlyRegs stackRegs d) _ _ ⟨rfl, fun _ _ => rfl⟩ fun e he k hk => ?_
  dsimp only
  split
  · exact he
  · exact he.trans ((fset_onlyRegs ..).mono (List.cons_subset.mpr ⟨List.mem_map_of_mem hk, List.nil_subset _⟩))

theorem evacBits_mem (d : Dev) : (evacBits d).mem = d.mem := congrArg (·.mem) (evacBits_only d).1

theorem rg_evacBits (d : Dev) {a : Nat} (h : a ∉ stackRegs) : rg (evacBits d) a = rg d a := (evacBits_only d).2 a h

theorem regionAt_congr {d e : Dev} (h : e.mem.regions = d.mem.regions) (i : Nat) : regionAt e i = regionAt d i := by rw [regionAt, h, regionAt]

@[simp] theorem regionAt_regionPut_self (d : Dev) (i : Nat) (r : Region) : regionAt (regionPut d i r) i = r := tget_tset_self ..
theorem regionAt_regionPut_ne (d : Dev) {i j : Nat} (r : Region) (h : j ≠ i) : regionAt (regionPut d i r) j = regionAt d j := tget_tset_ne _ _ _ _ h

/-- The start of a way's share on its stack, in lines. -/
abbrev wayLine (w : Nat × Nat) : Nat := w.1 * stackLines + w.2 * granLines

/-- The device whose share has been copied to way t of its region, before the bits of the stacks follow. -/
def shareMoved (d : Dev) (i w : Nat) (t : Nat × Nat) : Dev :=
  let r := regionAt d i
  let s := r.ways.getD w (0, 0)
  let n := runLen r * granLines
  bump (regionPut { d with mem := { d.mem with
      hbm := moveCells d.mem.hbm (64 * wayLine s) (64 * wayLine t) (64 * n) tput, poison := moveCells d.mem.poison (wayLine s) (wayLine t) n tput,
      shadow := moveCells d.mem.shadow (wayLine s) (wayLine t) n tput, evacs := [] } } i { r with ways := r.ways.set w t }) Reg.MEM_EVAC_CNT

/-- A hot share that is the only move, off a stack that is not about to be fenced. -/
theorem evacDone_of_hot {d : Dev} {i w : Nat} {v : Evac} {t : Nat × Nat} (hv : d.mem.evacs = [v]) (hi : v.region = i) (hw : v.way = w)
    (hd : v.dest = some t) (hy : v.why = .hot) (hf : tget false d.mem.fencing ((regionAt d i).ways.getD w (0, 0)).1 = false) :
    evacDone d i w = evacBits (shareMoved d i w t) := by
  have hfen : tget false (evacBits (shareMoved d i w t)).mem.fencing ((regionAt d i).ways.getD w (0, 0)).1 = false := by
    rw [evacBits_mem]
    exact hf
  have hfound : d.mem.evacs.find? (fun v => decide (v.region = i ∧ v.way = w)) = some v := by simp [hv, hi, hw]
  have hleft : d.mem.evacs.filter (fun x => ¬(x.region = i ∧ x.way = w)) = [] := by simp [hv, hi, hw]
  have hform : evacDone d i w = fenceCheck (evacBits (shareMoved d i w t)) ((regionAt d i).ways.getD w (0, 0)).1 := by
    simp only [evacDone, hfound, hd, hy, hleft, shareMoved]
  rw [hform, fenceCheck, hfen]
  simp only [Bool.false_eq_true, false_and, ↓reduceIte]

theorem exec_evacRetry (s : State) : exec .evacRetry s = act evacRetry s := rfl

theorem exec_evacShareDone (i : BitVec 12) (w : BitVec 4) (s : State) :
    exec (.evacShareDone i w) s = act (fun d => evacDone d i.toNat w.toNat) s := rfl

/-- Settles O34: the scrub of the lines it names, the ladder of the thermal states, and the cells that a share takes along. -/
theorem stacksAreTended : Obligations.StacksAreTended := by
  unfold Obligations.StacksAreTended
  intro s d
  refine ⟨?scrub, ?temp, ?retry, ?share⟩
  case scrub =>
    intro k l es hr hen hf hat e
    rw [exec_scrubPass, exec_scrubPass]
    refine ⟨act_of_eq (alive_of_running hr).1 (scrubPass_of_due [] hr hen hf hat), fun hs => act_of_eq (alive_of_running hr).1 ?_⟩
    rw [scrubPass_of_due [(l, es)] hr hen hf hat, List.foldl_cons, List.foldl_nil]
    exact if_pos hs
  case temp =>
    intro k t ha warm hot crit n e into flt hwh hhc hc94
    have hstep {x : Dev} (h : tempSample d k.toNat t.toNat = x) : exec (.hbmTempSample k t) s = .next (s.after x) := by
      rw [exec_hbmTempSample]
      exact act_of_eq ha h
    have hladder := tempSample_eq k.toNat t.toNat ha
    have hwarm : warmOf d = warm := rfl
    have hhot : hotOf d = hot := rfl
    have hcrit : critOf d = crit := rfl
    have hn : t.toNat = n := rfl
    rw [hwarm, hhot, hcrit, hn] at hladder
    refine ⟨fun ht hs => hstep ?_, fun h => hstep ?_, fun h1 h2 hs => hstep ?_, fun h1 h2 hs => hstep ?_, fun h1 h2 hs => hstep ?_,
      fun h1 h2 hs => hstep ?_, fun h1 h2 hs => hstep ?_, fun h1 hs => hstep ?_, fun h1 hs => hstep ?_⟩
    · rw [hn, hladder, if_neg hs, if_pos ht]
    · rw [hn, hladder]
      rcases h with h | ⟨h, ht⟩
      · rw [if_pos h]
      · rw [if_neg (by omega), if_neg (by omega), if_pos h]
    · rw [hn, hladder, if_neg (by omega), if_neg (by omega), if_neg (by omega), if_pos h1]
      rfl
    · rw [hn, hladder, if_neg (by omega), if_neg (by omega), if_neg (by omega), if_neg (by omega), if_pos h1, if_neg (by omega)]
      rfl
    · rw [hn, hladder, if_neg (by omega), if_neg (by omega), if_neg (by omega), if_neg (by omega)]
      by_cases hge : hot ≤ n
      · rw [if_pos hge, if_pos hs]
      · rw [if_neg hge, if_pos ⟨hs, h1⟩]
    · rw [hn, hladder, if_neg (by omega), if_neg (by omega), if_neg (by omega), if_neg (by omega), if_neg (by omega), if_neg (by omega),
        if_neg (by omega), if_pos (.inl h1)]
    · rw [hn, hladder, if_neg (by omega), if_neg (by omega), if_neg (by omega), if_neg (by omega), if_neg (by omega), if_neg (by omega),
        if_neg (by omega), if_pos (.inr ⟨hs, h2⟩)]
    · rw [hn, hladder, if_neg (by omega), if_neg (by omega), if_neg (by omega), if_neg (by omega), if_neg (by omega), if_neg (by omega),
        if_neg (by omega), if_neg (by omega)]
    · rw [hn, hladder, if_neg (by omega), if_neg (by omega), if_neg (by omega), if_neg (by omega), if_neg (by omega), if_neg (by omega),
        if_neg (by omega), if_neg (by omega)]
  case retry =>
    intro v ha hv hd same
    rw [exec_evacRetry]
    exact act_of_eq ha (evacRetry_of_waiting hv hd)
  case share =>
    intro i w v t ha hwf hv hi hw hd hy r n a b hf
    have hdone := evacDone_of_hot hv hi hw hd hy hf
    rw [exec_evacShareDone]
    refine ⟨evacBits (shareMoved d i.toNat w.toNat t), act_of_eq ha hdone, ?_, ?_, ?_, fun k => ?_, fun j hj => ?_⟩
    · rw [regionAt_congr (congrArg (·.regions) (evacBits_mem _))]
      exact regionAt_regionPut_self ..
    · rw [evacBits_mem]
      rfl
    · rw [rg_evacBits _ (by decide), shareMoved, rg_bump_self]
      rfl
    · rw [evacBits_mem]
      exact tget_moveCells _ hwf _ k
    · rw [regionAt_congr (congrArg (·.regions) (evacBits_mem _))]
      exact regionAt_regionPut_ne _ _ hj

end Sys2Proof.Machine
end

section
/-! PROOFS. Memory limits are kept (R390, R391): what a secure write makes of a quota and of the thresholds. -/

namespace Sys2Proof.Machine

/-! ## Bits of a register that a secure write reaches whole -/

section
variable {d : Dev} {who : Req} {a : Nat} {b : BlkRow} {fs : List Fld} (v : Nat)

/-- Bits that no field assigns keep their value (R512). -/
theorem secureWord_unassigned {hi lo : Nat} (hf : lo ≤ hi) (h : ∀ g ∈ fs, g.lo ≤ g.hi ∧ (g.hi < lo ∨ hi < g.lo)) :
    bits (secureWord d who a fs v).new hi lo = bits (rg d a) hi lo :=
  (foldl_fldWrite_of_apart (rg d a) v _ true ⟨rg d a, 0, false, false, false⟩ (f := ⟨hi, lo, .ro, false, false, 0⟩) hf fs h).1

/-- A bit that a written 1 clears. -/
theorem OpenReg.secureWord_w1c (ho : OpenReg a b fs) {i : Nat} {l s : Bool} {r : Nat} (hf : (⟨i, i, .w1c, l, s, r⟩ : Fld) ∈ fs) :
    bit (secureWord d who a fs v).new i = (bit (rg d a) i && !bit v i) := by
  have hfld := (ho.secureWord_field (d := d) (who := who) v hf).1
  have hval : fldKept ⟨i, i, .w1c, l, s, r⟩ (bits (rg d a) i i) (bits v i i) = bits (rg d a) i i - (bits (rg d a) i i &&& bits v i i) := rfl
  have hold := bits_lt (rg d a) i i
  have hnew := bits_lt v i i
  rw [Nat.add_sub_cancel_left] at hold hnew
  dsimp only at hfld
  simp only [bit, testBit_eq_bits, hfld, hval]
  generalize bits (rg d a) i i = x at hold
  generalize bits v i i = y at hnew
  interval_cases x <;> interval_cases y <;> rfl

end

/-! ## MEM_QUOTA (R390) -/

/-- The row of the block map for HBM (R511), and the fields of MEM_QUOTA and MEM_THERM_CFG. -/
abbrev memBlk : BlkRow := ⟨0x10, 0x03C000, 1, false⟩
def quotaFlds : List Fld := [⟨31, 31, .w1c, false, true, 0⟩, ⟨10, 0, .rw, false, true, 0⟩]
def thermFlds : List Fld := [⟨31, 31, .w1c, false, true, 0⟩, ⟨23, 16, .rw, false, true, 0x5D⟩, ⟨15, 8, .rw, false, true, 0x5A⟩, ⟨7, 0, .rw, false, true, 0x55⟩]

theorem quota_assigned : ∀ k : Fin 4, blkOf (Reg.MEM_QUOTA k) = some (memBlk, 0) ∧ regFlds (Reg.MEM_QUOTA k) = some quotaFlds
    ∧ multiWord (Reg.MEM_QUOTA k) = none := by decide +kernel

theorem openReg_quota (k : Fin 4) : OpenReg (Reg.MEM_QUOTA k) memBlk quotaFlds where
  blk := (quota_assigned k).1
  flds := (quota_assigned k).2.1
  single := (quota_assigned k).2.2
  low := by unfold Reg.MEM_QUOTA; omega
  high := by unfold Reg.MEM_QUOTA; omega
  notPosted := rfl
  notCmd := by decide
  noLock := by decide

theorem openReg_therm : OpenReg Reg.MEM_THERM_CFG memBlk thermFlds where
  blk := by decide +kernel
  flds := by decide +kernel
  single := by decide +kernel
  low := by decide
  high := by decide
  notPosted := rfl
  notCmd := by decide
  noLock := by decide

theorem applyReg_quota (d : Dev) (who : Req) (k : Fin 4) (w : Wr) :
    applyReg d who 0x10 0 (Reg.MEM_QUOTA k) w = quotaWrite d k (rg d (Reg.MEM_QUOTA k)) w.new := by
  have hoff : Reg.MEM_QUOTA k % 0x4000 = 0x110 + 4 * k := by unfold Reg.MEM_QUOTA; omega
  have hidx : (0x110 + 4 * k.val - 0x110) / 4 = k := by omega
  have hne : ∀ j < 0x110, 0x110 + 4 * k.val ≠ j := by omega
  have hcommon : ¬0x110 + 4 * k.val < 0x100 := by omega
  have hin : 0x110 ≤ 0x110 + 4 * k.val ∧ 0x110 + 4 * k.val < 0x120 := by omega
  simp only [applyReg, hoff, hidx, hne, hcommon, hin, and_self, Nat.reduceLT, ↓reduceIte]

theorem applyReg_therm (d : Dev) (who : Req) (w : Wr) :
    applyReg d who 0x10 0 Reg.MEM_THERM_CFG w = thermWrite d (rg d Reg.MEM_THERM_CFG) w.new := by
  simp only [applyReg, show Reg.MEM_THERM_CFG % 0x4000 = 0x13C by decide, Nat.reduceLT, Nat.reduceEqDiff, Nat.reduceLeDiff, and_false, ↓reduceIte]

/-- The word with the refused field as before and err set. -/
abbrev refusedWord (new old hi : Nat) : Nat := putBit (putBits new hi 0 (bits old hi 0)) 31 true

section
variable (new old : Nat) {hi : Nat} (h : hi < 30)
include h

theorem bits_refusedWord : bits (refusedWord new old hi) hi 0 = bits old hi 0 := by
  rw [refusedWord, putBit, bits_putBits_below _ _ (Nat.le_refl _) (Nat.zero_le _) (by omega), bits_putBits_of_lt _ (Nat.zero_le _) (bits_lt ..)]

theorem bits_refusedWord_above : bits (refusedWord new old hi) 30 (hi + 1) = bits new 30 (hi + 1) := by
  rw [refusedWord, putBit, bits_putBits_below _ _ (Nat.le_refl _) (by omega) (by omega), bits_putBits_above _ _ (Nat.zero_le _) (Nat.lt_succ_self _)]

omit h in
theorem bit_refusedWord : bit (refusedWord new old hi) 31 = true := by
  rw [bit, testBit_eq_bits, refusedWord, putBit, bits_putBits_self _ _ (Nat.le_refl _)]
  rfl

end

/-- What the quotas of the other pools come to. -/
def otherQuotas (d : Dev) (k : Nat) : Nat := (List.range 4).foldl (fun s j => if j = k then s else s + fget d (Reg.MEM_QUOTA j) Fd.MEM_QUOTA_quota) 0

theorem otherQuotas_eq_filter (d : Dev) (k : Nat) :
    otherQuotas d k = ((List.range 4).filter (· ≠ k)).foldl (fun a j => a + fget d (Reg.MEM_QUOTA j) Fd.MEM_QUOTA_quota) 0 := by
  rw [otherQuotas, List.foldl_filter]
  congr 1
  funext s j
  by_cases h : j = k <;> simp [h]

theorem otherQuotas_unlockSpent (d : Dev) (who : Req) (a k : Nat) (h : ∀ j, Reg.MEM_QUOTA j ≠ Reg.BLK_STATUS (blkBase a)) :
    otherQuotas (unlockSpent d who a) k = otherQuotas d k := by
  simp only [otherQuotas, fget, rg_unlockSpent d who (h _)]

theorem quotaWrite_of_fitting {d : Dev} {k old new : Nat} (h : otherQuotas d k + bits new 10 0 ≤ 1024) : quotaWrite d k old new = rgPut d (Reg.MEM_QUOTA k) new :=
  if_pos h

theorem quotaWrite_of_excess {d : Dev} {k old new : Nat} (h : 1024 < otherQuotas d k + bits new 10 0) :
    quotaWrite d k old new = rgPut d (Reg.MEM_QUOTA k) (refusedWord new old 10) := if_neg (Nat.not_le.mpr h)

/-- The device after a secure write of v at a register that stores `n`. -/
abbrev storedAt (d : Dev) (who : Req) (a n : Nat) : Dev := rgPut (unlockSpent d who a) a n

theorem storedAt_onlyRegs (d : Dev) (who : Req) (a n : Nat) : OnlyRegs [a, Reg.BLK_STATUS (blkBase a)] d (storedAt d who a n) :=
  ((unlockSpent_onlyRegs ..).mono (by simp)).trans ((rgPut_onlyRegs ..).mono (by simp))

/-- The ordering of the thresholds (R391). -/
abbrev thermOrdered (n : Nat) : Prop := bits n 7 0 < bits n 15 8 ∧ bits n 15 8 < bits n 23 16 ∧ bits n 23 16 ≤ 94

theorem thermWrite_of_ordered {d : Dev} {old new : Nat} (h : thermOrdered new) : thermWrite d old new = rgPut d Reg.MEM_THERM_CFG new := if_pos h
theorem thermWrite_of_not_ordered {d : Dev} {old new : Nat} (h : ¬thermOrdered new) :
    thermWrite d old new = rgPut d Reg.MEM_THERM_CFG (refusedWord new old 23) := if_neg h

/-- Words whose three lowest bytes agree agree in the three together. -/
theorem bits_23_of_bytes {m n : Nat} (h0 : bits m 7 0 = bits n 7 0) (h1 : bits m 15 8 = bits n 15 8) (h2 : bits m 23 16 = bits n 23 16) :
    bits m 23 0 = bits n 23 0 := by
  simp only [bits, Nat.shiftRight_eq_div_pow] at *
  omega

theorem exec_memQuotaWrite (who : Req) (k : BitVec 2) (v : Word) (s : State) :
    exec (.memQuotaWrite who k v) s = actReg (fun d => busWrite d who (Reg.MEM_QUOTA k.toNat) v.toNat 15) s := rfl

theorem exec_memThermCfgWrite (who : Req) (v : Word) (s : State) :
    exec (.memThermCfgWrite who v) s = actReg (fun d => busWrite d who Reg.MEM_THERM_CFG v.toNat 15) s := rfl

theorem bit_31_of_msb (v : Word) : bit v.toNat 31 = v.msb := by
  rw [bit, BitVec.msb_eq_getLsbD_last]
  rfl

section
variable {d : Dev} {who : Req} (v : Word) (hbus : BusReady d) (hs : reqSecure d who = true)
include hbus hs

/-- What a secure write of a quota stores (R390). -/
theorem busWrite_quota (k : Fin 4) :
    let w := (secureWord d who (Reg.MEM_QUOTA k) quotaFlds v.toNat).new
    busWrite d who (Reg.MEM_QUOTA k) v.toNat 15
      = storedAt d who (Reg.MEM_QUOTA k) (if otherQuotas d k + bits v.toNat 10 0 ≤ 1024 then w else refusedWord w (rg d (Reg.MEM_QUOTA k)) 10) := by
  intro w
  have ho := openReg_quota k
  have hnew : bits w 10 0 = bits v.toNat 10 0 := ho.secureWord_rw v.toNat (by decide)
  have hsum : otherQuotas (unlockSpent d who (Reg.MEM_QUOTA k)) k = otherQuotas d k :=
    otherQuotas_unlockSpent _ _ _ _ fun j => by unfold Reg.MEM_QUOTA Reg.BLK_STATUS blkBase; omega
  rw [ho.busWrite_eq v.toNat hbus hs, applyReg_quota, ho.rg_spent]
  split
  · next h => exact quotaWrite_of_fitting (by rwa [hsum, hnew])
  · next h => exact quotaWrite_of_excess (by rw [hsum, hnew]; omega)

/-- What a secure write of the thresholds stores (R391). -/
theorem busWrite_therm :
    let w := (secureWord d who Reg.MEM_THERM_CFG thermFlds v.toNat).new
    busWrite d who Reg.MEM_THERM_CFG v.toNat 15
      = storedAt d who Reg.MEM_THERM_CFG (if thermOrdered v.toNat then w else refusedWord w (rg d Reg.MEM_THERM_CFG) 23) := by
  intro w
  have ho := openReg_therm
  have hwarm : bits w 7 0 = bits v.toNat 7 0 := ho.secureWord_rw v.toNat (by decide)
  have hhot : bits w 15 8 = bits v.toNat 15 8 := ho.secureWord_rw v.toNat (by decide)
  have hcrit : bits w 23 16 = bits v.toNat 23 16 := ho.secureWord_rw v.toNat (by decide)
  have hord : thermOrdered w ↔ thermOrdered v.toNat := by rw [thermOrdered, hwarm, hhot, hcrit]
  rw [ho.busWrite_eq v.toNat hbus hs, applyReg_therm, ho.rg_spent]
  split
  · next h => exact thermWrite_of_ordered (hord.mpr h)
  · next h => exact thermWrite_of_not_ordered (mt hord.mp h)

end

/-- A refused write keeps the fields and sets err (R390, R391). -/
theorem refused_stored (d : Dev) (who : Req) (a new old : Nat) {hi : Nat} (h : hi < 30) :
    let e := storedAt d who a (refusedWord new old hi)
    fget e a (hi, 0) = bits old hi 0 ∧ fget e a (30, hi + 1) = bits new 30 (hi + 1) ∧ fbit e a (31, 31) = true :=
  ⟨(fget_rgPut_self _ _ _ (Nat.zero_le _) (by omega)).trans (bits_refusedWord new old h),
    (fget_rgPut_self _ _ _ (by omega) (by omega)).trans (bits_refusedWord_above new old h),
    (fbit_rgPut_self _ _ _ (by omega)).trans (bit_refusedWord new old)⟩

/-- Settles O35: a write stores its word, or the word with the refused field as before and err set. -/
theorem memoryLimitsAreKept : Obligations.MemoryLimitsAreKept := by
  unfold Obligations.MemoryLimitsAreKept
  intro s who v d st hbus hs
  refine ⟨fun k => ?quota, ?therm, fun k t ht hst => ?melting, by decide +kernel, by decide +kernel⟩
  case quota =>
    intro others
    have ho : OpenReg (Reg.MEM_QUOTA k.toNat) memBlk quotaFlds := openReg_quota k.toFin
    have hothers : others = otherQuotas d k.toNat := (otherQuotas_eq_filter ..).symm
    have hfit := busWrite_quota v hbus hs k.toFin
    rw [BitVec.val_toFin] at hfit
    dsimp only at hfit
    have hgap : bits (secureWord d who (Reg.MEM_QUOTA k.toNat) quotaFlds v.toNat).new 30 11 = bits (rg d (Reg.MEM_QUOTA k.toNat)) 30 11 :=
      secureWord_unassigned v.toNat (by decide) (by decide)
    have hval : bits (secureWord d who (Reg.MEM_QUOTA k.toNat) quotaFlds v.toNat).new 10 0 = bits v.toNat 10 0 := ho.secureWord_rw v.toNat (by decide)
    have herr := ho.secureWord_w1c (d := d) (who := who) v.toNat (i := 31) (l := false) (s := true) (r := 0) (by decide)
    rw [bit_31_of_msb] at herr
    have hblk : st = Reg.BLK_STATUS (blkBase (Reg.MEM_QUOTA k.toNat)) := by
      have := k.isLt
      unfold st Reg.BLK_STATUS blkBase Reg.MEM_CTRL Reg.MEM_QUOTA
      omega
    rw [exec_memQuotaWrite, hothers, hblk]
    clear_value others
    generalize hw : (secureWord d who (Reg.MEM_QUOTA k.toNat) quotaFlds v.toNat).new = w at hfit hgap hval herr
    by_cases hle : otherQuotas d k.toNat + bits v.toNat 10 0 ≤ 1024
    · rw [if_pos hle] at hfit
      refine ⟨_, actReg_of_eq hbus.1 hfit, storedAt_onlyRegs .., fun _ => ⟨?_, ?_⟩, ?_, fun h => absurd h (Nat.not_lt.mpr hle)⟩
      · exact (fget_rgPut_self _ _ _ (by decide) (by decide)).trans hval
      · exact (fbit_rgPut_self _ _ _ (by decide)).trans herr
      · exact (fget_rgPut_self _ _ _ (by decide) (by decide)).trans hgap
    · rw [if_neg hle] at hfit
      obtain ⟨hkept, hbetween, hmark⟩ := refused_stored d who (Reg.MEM_QUOTA k.toNat) w (rg d (Reg.MEM_QUOTA k.toNat)) (hi := 10) (by decide)
      exact ⟨_, actReg_of_eq hbus.1 hfit, storedAt_onlyRegs .., fun h => absurd h hle, hbetween.trans hgap, fun _ => ⟨hkept, hmark⟩⟩
  case therm =>
    have ho := openReg_therm
    have hfit := busWrite_therm v hbus hs
    dsimp only at hfit
    have hgap : bits (secureWord d who Reg.MEM_THERM_CFG thermFlds v.toNat).new 30 24 = bits (rg d Reg.MEM_THERM_CFG) 30 24 :=
      secureWord_unassigned v.toNat (by decide) (by decide)
    have hval : bits (secureWord d who Reg.MEM_THERM_CFG thermFlds v.toNat).new 23 0 = bits v.toNat 23 0 :=
      bits_23_of_bytes (ho.secureWord_rw v.toNat (by decide)) (ho.secureWord_rw v.toNat (by decide)) (ho.secureWord_rw v.toNat (by decide))
    have herr := ho.secureWord_w1c (d := d) (who := who) v.toNat (i := 31) (l := false) (s := true) (r := 0) (by decide)
    rw [bit_31_of_msb] at herr
    have hblk : st = Reg.BLK_STATUS (blkBase Reg.MEM_THERM_CFG) := by decide
    rw [exec_memThermCfgWrite, hblk]
    clear_value st
    generalize hw : (secureWord d who Reg.MEM_THERM_CFG thermFlds v.toNat).new = w at hfit hgap hval herr
    by_cases hord : thermOrdered v.toNat
    · rw [if_pos hord] at hfit
      refine ⟨_, actReg_of_eq hbus.1 hfit, storedAt_onlyRegs .., fun _ => ⟨?_, ?_⟩, ?_, fun h => absurd hord h⟩
      · exact (fget_rgPut_self _ _ _ (by decide) (by decide)).trans hval
      · exact (fbit_rgPut_self _ _ _ (by decide)).trans herr
      · exact (fget_rgPut_self _ _ _ (by decide) (by decide)).trans hgap
    · rw [if_neg hord] at hfit
      obtain ⟨hkept, hbetween, hmark⟩ := refused_stored d who Reg.MEM_THERM_CFG w (rg d Reg.MEM_THERM_CFG) (hi := 23) (by decide)
      exact ⟨_, actReg_of_eq hbus.1 hfit, storedAt_onlyRegs .., fun h => absurd h hord, hbetween.trans hgap, fun _ => ⟨hkept, hmark⟩⟩
  case melting =>
    rw [exec_hbmTempSample]
    exact act_of_eq hbus.1 (tempSample_of_melting hbus.1 ht hst)

end Sys2Proof.Machine
end

section
/-! PROOFS. The referee's command registers (R445, R448, R450): what a write of each comes to, and the record that Sitonel takes. -/

namespace Sys2Proof.Machine

/-! ## Writes of the command registers -/

/-- The row of the block map for the referee (R511), and the field of a command register. -/
abbrev refBlk : BlkRow := ⟨0x05, 0x010000, 1, false⟩
def refCmdFlds (lock sec : Bool) : List Fld := [⟨9, 0, .cmd, lock, sec, 0⟩]

/-- The device whose requester has used the unlock of the referee's block. -/
abbrev refSpent (d : Dev) (who : Req) : Dev := (consume d who 0x010000).2

/-- A command register keeps nothing: the written number acts. -/
theorem wordWrite_refCmd (lock sec : Bool) (old v : Nat) : wordWrite (refCmdFlds lock sec) old v true true = ⟨old, putBits 0 9 0 (bits v 9 0), true, false, false⟩ := by
  simp [refCmdFlds, wordWrite, fldWrite]

section
variable {d : Dev} {who : Req} {v n : Nat} (hbus : BusReady d) (hs : reqSecure d who = true) (hu : Unlocked d who 0x010000) (hn : bits v 9 0 = n)
include hbus hs hu hn

/-- With the unlock, a write of a command register of the referee acts on the number in its lowest ten bits. -/
theorem busWrite_refCmd {a : Nat} {lock sec : Bool} (hb : blkOf a = some (refBlk, 0)) (hf : regFlds a = some (refCmdFlds lock sec)) (hbase : blkBase a = 0x010000)
    (ha : 0x010000 + a % 0x1000 = a) (hop : a % 0x4000 / 0x1000 = 0) (hm : multiWord a = none) (hst : a ≠ Reg.BLK_STATUS 0x010000) :
    ∃ w : Wr, w.cmd = true ∧ w.act = n ∧ busWrite d who a v 15 = applyReg (refSpent d who) who 0x05 0 a w := by
  have hlt := bits_lt v 9 0
  refine ⟨⟨rg d a, putBits 0 9 0 (bits v 9 0), true, false, false⟩, rfl, ?_, ?_⟩
  rotate_left
  · rw [busWrite_of_unlocked v hbus hs (hbase ▸ hu) (hbase ▸ ha) hop hb hf rfl (by decide) hm (hbase ▸ hst) (by rw [hbase]; decide), hbase,
      wordWrite_refCmd]
  · dsimp only
    rw [← hn]
    simpa [putBits] using hlt

theorem busWrite_refAck : busWrite d who Reg.REF_ACK v 15 = refAck (refSpent d who) n := by
  obtain ⟨w, hc, rfl, hw⟩ := busWrite_refCmd hbus hs hu hn (a := Reg.REF_ACK) (lock := false) (sec := false) (by decide +kernel) (by decide +kernel) (by decide) (by decide) (by decide)
    (by decide +kernel) (by decide)
  rw [hw]
  simp only [applyReg, show Reg.REF_ACK % 0x4000 = 0x108 by decide, hc, Nat.reduceEqDiff, Nat.reduceLT, ↓reduceIte]

theorem busWrite_refClear : busWrite d who Reg.REF_CLEAR v 15 = refClear (refSpent d who) n := by
  obtain ⟨w, hc, rfl, hw⟩ := busWrite_refCmd hbus hs hu hn (a := Reg.REF_CLEAR) (lock := true) (sec := true) (by decide +kernel) (by decide +kernel) (by decide) (by decide) (by decide)
    (by decide +kernel) (by decide)
  rw [hw]
  simp only [applyReg, show Reg.REF_CLEAR % 0x4000 = 0x10C by decide, hc, Nat.reduceEqDiff, Nat.reduceLT, ↓reduceIte]

theorem busWrite_refRaise : busWrite d who Reg.REF_RAISE v 15 = refRaise (refSpent d who) n := by
  obtain ⟨w, hc, rfl, hw⟩ := busWrite_refCmd hbus hs hu hn (a := Reg.REF_RAISE) (lock := false) (sec := true) (by decide +kernel) (by decide +kernel) (by decide) (by decide) (by decide)
    (by decide +kernel) (by decide)
  rw [hw]
  simp only [applyReg, show Reg.REF_RAISE % 0x4000 = 0x110 by decide, hc, Nat.reduceEqDiff, Nat.reduceLT, ↓reduceIte]

end

theorem exec_refAck (who : Req) (v : Word) (s : State) : exec (.refAck who v) s = actReg (fun d => busWrite d who Reg.REF_ACK v.toNat 15) s := rfl
theorem exec_refClear (who : Req) (v : Word) (s : State) : exec (.refClear who v) s = actReg (fun d => busWrite d who Reg.REF_CLEAR v.toNat 15) s := rfl
theorem exec_refRaise (who : Req) (v : Word) (s : State) : exec (.refRaise who v) s = actReg (fun d => busWrite d who Reg.REF_RAISE v.toNat 15) s := rfl
theorem exec_refRecordCopy (s : State) : exec .refRecordCopy s = act recordCopy s := rfl

/-! ## What the commands do (R445, R448, R450) -/

section
variable {d : Dev} {n : Nat}

theorem refAck_of_window (h : (srcOf d n).st = .window) : refAck d n = refNote (srcPut d n { srcOf d n with st := .fault, lateOk := false }) n 1 := if_pos h

theorem refAck_of_late (h : (srcOf d n).st = .fault) (hl : (srcOf d n).lateOk = true) :
    refAck d n = refNote (bump (srcPut d n { srcOf d n with lateOk := false }) Reg.REF_LATE_ACK_CNT) n 2 := by
  simp only [refAck, h, hl, reduceCtorEq, and_self, ↓reduceIte]

theorem refAck_of_stray (h : (srcOf d n).st ≠ .window) (hl : ¬((srcOf d n).st = .fault ∧ (srcOf d n).lateOk = true)) :
    refAck d n = bump d Reg.REF_STRAY_ACK_CNT := by
  simp only [refAck, h, hl, ↓reduceIte]

/-- A source that leaves FAULT or STICKY and whose unit no fence holds. -/
theorem srcLeave_of_unfenced {c : Src} (d : Dev) (n : Nat) (h : c.fenced = false) :
    srcLeave d n c = srcPut d n { c with st := .idle, lateOk := false, fenced := false } := by
  simp only [srcLeave, h, Bool.false_eq_true, ↓reduceIte]

theorem refClear_of_fault (h : (srcOf d n).st = .fault ∨ (srcOf d n).st = .sticky) (hf : (srcOf d n).fenced = false) :
    refClear d n = srcPut (refNote d n 6) n { srcOf d n with st := .idle, lateOk := false, fenced := false, recov := [] } := by
  rw [refClear]
  dsimp only
  rw [if_pos h, srcLeave_of_unfenced]
  exact hf

theorem refClear_of_kept (h : (srcOf d n).st = .window ∨ (srcOf d n).st = .idle) : refClear d n = d := by
  refine if_neg ?_
  rcases h with h | h <;> simp [h]

theorem recordCopy_of_cons {r : List Byte} {rest : List (List Byte)} (hr : d.ref.ring = r :: rest) (hs : d.sit.restart = none) :
    recordCopy d = (let f := event { d with ref := { d.ref with ring := rest } } 0 0 [] (some (r.take 28))
      fset f Reg.REF_RING_TAIL Fd.REF_RING_TAIL_tail ((fget f Reg.REF_RING_TAIL Fd.REF_RING_TAIL_tail + 1) % 4096)) := by
  simp only [recordCopy, hr, hs, Option.isSome_none, Bool.false_eq_true, ↓reduceIte]

end

/-- Settles O42: each write acts through its command, and the use of the unlock touches no source. -/
theorem refereeCommandsAct : Obligations.RefereeCommandsAct := by
  unfold Obligations.RefereeCommandsAct
  intro s who n v
  refine ⟨?writes, ?copy⟩
  case writes =>
    intro hbus hs hu hn
    have hack := busWrite_refAck hbus hs hu hn
    have hclear := busWrite_refClear hbus hs hu hn
    have hraise := busWrite_refRaise hbus hs hu hn
    have hsrc : srcOf (refSpent s.dev who) n.toNat = srcOf s.dev n.toNat := fset_src ..
    have hlt := n.isLt
    rw [exec_refAck, exec_refClear, exec_refRaise]
    refine ⟨fun h => actReg_of_eq hbus.1 (hack.trans ?_), fun h hl => actReg_of_eq hbus.1 (hack.trans ?_), fun h hl => actReg_of_eq hbus.1 (hack.trans ?_),
      fun h hf => actReg_of_eq hbus.1 (hclear.trans ?_), fun h => actReg_of_eq hbus.1 (hclear.trans ?_), fun h => actReg_of_eq hbus.1 (hraise.trans ?_),
      fun h => actReg_of_eq hbus.1 (hraise.trans ?_)⟩
    · rw [refAck_of_window (by rw [hsrc]; exact h), hsrc]
    · rw [refAck_of_late (by rw [hsrc]; exact h) (by rw [hsrc]; exact hl), hsrc]
    · exact refAck_of_stray (by rw [hsrc]; exact h) (by rw [hsrc]; exact hl)
    · rw [refClear_of_fault (by rw [hsrc]; exact h) (by rw [hsrc]; exact hf), hsrc]
    · exact refClear_of_kept (by rw [hsrc]; exact h)
    · exact if_pos ⟨h, by omega⟩
    · exact if_neg (by omega)
  case copy =>
    intro r rest ha hr hs
    rw [exec_refRecordCopy]
    exact act_of_eq ha (recordCopy_of_cons hr hs)

end Sys2Proof.Machine
end

section
/-! PROOFS. Rails rise and fall (R561, R563, R564): what the supply monitor latches, and what a loss of the supplies leaves. -/

namespace Sys2Proof.Machine

/-! ## The supply monitor (R563) -/

/-- The device with its package in another state. -/
def pkgPut (d : Dev) (p : Package) : Dev := { d with pkg := p }

@[simp] theorem pkgPut_pkg (d : Dev) (p : Package) : (pkgPut d p).pkg = p := rfl

/-- The device once a monitor that sees every later rail down has forgotten a violation. -/
def orderForgot (d : Dev) : Dev := if railsDown d then pkgPut d { d.pkg with order := false } else d

/-- The rails above 0.2 V before their turn. -/
def railsEarly (d : Dev) : List Nat := (List.range 10).filter fun i => decide (200 < railMv d i) && !railMayRise d i

/-- The rails that PWR_SEQ_STATUS names, and those that rose early. -/
def earlyMask (d : Dev) : Nat := (railsEarly d).foldl (fun a i => a ||| 2 ^ i) (fget d Reg.PWR_SEQ_STATUS Fd.PWR_SEQ_STATUS_err_rail)

/-- The device whose PWR_SEQ_STATUS shows a violation. -/
def violationShown (d : Dev) : Dev :=
  fset (fset d Reg.PWR_SEQ_STATUS Fd.PWR_SEQ_STATUS_err_rail (earlyMask d)) Reg.PWR_SEQ_STATUS Fd.PWR_SEQ_STATUS_order_err 1

/-- The device with a violation latched. -/
def violationLatched (d : Dev) : Dev := pkgPut (violationShown d) { (violationShown d).pkg with order := true }

/-- The device once the monitor has looked at the order. -/
def orderWatched (d : Dev) : Dev := if (railsEarly d).isEmpty then d else violationLatched d

/-- The device held by PORST_N alone where every rail stands in order. -/
def heldWhereOk (d : Dev) : Dev := if railsOk d ∧ !d.pkg.order then pkgPut d { d.pkg with phase := .held } else d

theorem supplyWatch_eq (d : Dev) : supplyWatch d = if (orderForgot d).pkg.phase ≠ .off ∨ !railOk 0 (railMv (orderForgot d) 0) then orderForgot d
    else heldWhereOk (orderWatched (orderForgot d)) := by
  unfold supplyWatch
  rfl

section
variable (d : Dev)

theorem orderForgot_rails : (orderForgot d).pkg.rails = d.pkg.rails := by unfold orderForgot; split <;> rfl
theorem orderForgot_phase : (orderForgot d).pkg.phase = d.pkg.phase := by unfold orderForgot; split <;> rfl
theorem orderForgot_regs : (orderForgot d).regs = d.regs := by unfold orderForgot; split <;> rfl

theorem violationShown_onlyRegs : OnlyRegs [Reg.PWR_SEQ_STATUS] d (violationShown d) := (fset_onlyRegs ..).trans (fset_onlyRegs ..)
theorem violationLatched_pkg : (violationLatched d).pkg = { d.pkg with order := true } := by
  rw [violationLatched, pkgPut_pkg, show (violationShown d).pkg = d.pkg from congrArg (·.pkg) (violationShown_onlyRegs d).1]

omit d in
theorem orderWatched_of_none {d : Dev} (h : railsEarly d = []) : orderWatched d = d := if_pos (List.isEmpty_iff.mpr h)
omit d in
theorem orderWatched_of_early {d : Dev} {i : Nat} (h : i ∈ railsEarly d) : orderWatched d = violationLatched d :=
  if_neg fun he => List.ne_nil_of_mem h (List.isEmpty_iff.mp he)

theorem orderWatched_pkg_cases : (orderWatched d).pkg = d.pkg ∨ (orderWatched d).pkg = { d.pkg with order := true } := by
  unfold orderWatched
  split
  · exact .inl rfl
  · exact .inr (violationLatched_pkg d)

theorem orderWatched_rails : (orderWatched d).pkg.rails = d.pkg.rails := by rcases orderWatched_pkg_cases d with h | h <;> rw [h]
theorem orderWatched_phase : (orderWatched d).pkg.phase = d.pkg.phase := by rcases orderWatched_pkg_cases d with h | h <;> rw [h]

theorem orderForgot_of_kept (h : d.pkg.order = false) : (orderForgot d).pkg.order = false := by
  unfold orderForgot
  split
  · rfl
  · exact h

end

theorem supplyWatch_of_up {d : Dev} (h : d.pkg.phase ≠ .off) : supplyWatch d = orderForgot d := by
  rw [supplyWatch_eq, if_pos (.inl ((orderForgot_phase d).trans_ne h))]

/-- Rails in common: the monitor sees the same. -/
theorem railMv_congr {d e : Dev} (h : e.pkg.rails = d.pkg.rails) (i : Nat) : railMv e i = railMv d i := by rw [railMv, h, railMv]

theorem railsOk_congr {d e : Dev} (h : e.pkg.rails = d.pkg.rails) : railsOk e = railsOk d := by simp only [railsOk, railMv_congr h]

theorem railsEarly_congr {d e : Dev} (h : e.pkg.rails = d.pkg.rails) : railsEarly e = railsEarly d := by
  simp only [railsEarly, railMayRise, railMv_congr h]

/-- The monitor latches violations and tells whether PORST_N alone holds the device; nothing else of the device changes. -/
structure Watched (d e : Dev) : Prop where
  rails : e.pkg.rails = d.pkg.rails
  therm : e.pkg.thermN = d.pkg.thermN
  rest : { e with regs := d.regs, pkg := d.pkg } = d

theorem Watched.trans {d e f : Dev} (h : Watched d e) (g : Watched e f) : Watched d f where
  rails := g.rails.trans h.rails
  therm := g.therm.trans h.therm
  rest := by
    rw [← h.rest, ← g.rest]

theorem watched_pkgPut (d : Dev) {p : Package} (hr : p.rails = d.pkg.rails) (ht : p.thermN = d.pkg.thermN) : Watched d (pkgPut d p) := ⟨hr, ht, rfl⟩

theorem watched_orderForgot (d : Dev) : Watched d (orderForgot d) := by
  unfold orderForgot
  split
  · exact watched_pkgPut d rfl rfl
  · exact ⟨rfl, rfl, rfl⟩

theorem watched_of_onlyRegs {as : List Nat} {d e : Dev} (h : OnlyRegs as d e) : Watched d e :=
  ⟨congrArg (·.pkg.rails) h.1, congrArg (·.pkg.thermN) h.1, congrArg (fun x : Dev => { x with pkg := d.pkg }) h.1⟩

theorem watched_violationLatched (d : Dev) : Watched d (violationLatched d) :=
  (watched_of_onlyRegs (violationShown_onlyRegs d)).trans (watched_pkgPut _ rfl rfl)

theorem watched_orderWatched (d : Dev) : Watched d (orderWatched d) := by
  unfold orderWatched
  split
  · exact ⟨rfl, rfl, rfl⟩
  · exact watched_violationLatched d

theorem watched_heldWhereOk (d : Dev) : Watched d (heldWhereOk d) := by
  unfold heldWhereOk
  split
  · exact watched_pkgPut d rfl rfl
  · exact ⟨rfl, rfl, rfl⟩

theorem watched_supplyWatch (d : Dev) : Watched d (supplyWatch d) := by
  have h := (watched_orderForgot d).trans (watched_orderWatched (orderForgot d))
  rw [supplyWatch_eq]
  split
  · exact watched_orderForgot d
  · exact h.trans (watched_heldWhereOk _)

/-- Where a rail is out of tolerance the device stays without its rails. -/
theorem supplyWatch_phase_of_out {d : Dev} (hp : d.pkg.phase = .off) (h : railsOk d = false) : (supplyWatch d).pkg.phase = .off := by
  have hf : (orderForgot d).pkg.phase = .off := (orderForgot_phase d).trans hp
  have hout : railsOk (orderWatched (orderForgot d)) = false := by
    rw [railsOk_congr ((orderWatched_rails _).trans (orderForgot_rails d)), h]
  rw [supplyWatch_eq]
  split
  · exact hf
  · rw [heldWhereOk, if_neg (by simp [hout])]
    exact (orderWatched_phase _).trans hf

/-- With every rail within tolerance and no violation the device is held by PORST_N alone. -/
theorem supplyWatch_phase_of_ok {d : Dev} (hp : d.pkg.phase = .off) (ho : d.pkg.order = false) (h : railsOk d = true) :
    (supplyWatch d).pkg.phase = .held := by
  have hrails := orderForgot_rails d
  have hall : ∀ j < 10, railOk j (railMv d j) = true := fun j hj => List.all_eq_true.mp h j (List.mem_range.mpr hj)
  have hmay (i : Nat) : railMayRise d i = true := List.all_eq_true.mpr fun j hj => by rw [hall j (List.mem_range.mp hj), Bool.or_true]
  have hnone : railsEarly d = [] := List.filter_eq_nil_iff.mpr fun i _ => by simp [hmay]
  rw [supplyWatch_eq, orderWatched_of_none ((railsEarly_congr hrails).trans hnone), if_neg, heldWhereOk, if_pos, pkgPut_pkg]
  · simp [railsOk_congr hrails, h, orderForgot_of_kept d ho]
  · simp [(orderForgot_phase d).trans hp, railMv_congr hrails, hall 0 (by decide)]

/-! ## A violation (R563) -/

theorem testBit_foldl_or {i : Nat} (l : List Nat) (n : Nat) (h : i ∈ l ∨ n.testBit i = true) : (l.foldl (fun a j => a ||| 2 ^ j) n).testBit i = true := by
  induction l generalizing n with
  | nil => exact h.resolve_left List.not_mem_nil
  | cons j l ih =>
    refine ih _ ?_
    rcases h with h | h
    · rcases List.mem_cons.mp h with rfl | h
      · exact .inr (by simp)
      · exact .inl h
    · exact .inr (by simp [h])

theorem testBit_mod_of_lt (n : Nat) {i k : Nat} (h : i < k) : (n % 2 ^ k).testBit i = n.testBit i := by
  rw [Nat.testBit_mod_two_pow, decide_eq_true h, Bool.true_and]

/-- A latched violation shows, and names the rail. -/
theorem violationLatched_shows {d : Dev} {i : Nat} (hi : i < 10) (h : i ∈ railsEarly d) :
    fbit (violationLatched d) Reg.PWR_SEQ_STATUS Fd.PWR_SEQ_STATUS_order_err = true
      ∧ (fget (violationLatched d) Reg.PWR_SEQ_STATUS Fd.PWR_SEQ_STATUS_err_rail).testBit i = true := by
  have herr : fbit (violationShown d) Reg.PWR_SEQ_STATUS Fd.PWR_SEQ_STATUS_order_err = true := fbit_fset_self _ _ 1 rfl (by decide)
  have hrail : fget (violationShown d) Reg.PWR_SEQ_STATUS Fd.PWR_SEQ_STATUS_err_rail = earlyMask d % 2 ^ 10 :=
    (fget_fset_apart _ _ _ _ (by decide)).trans (fget_fset_self _ _ _ _ (by decide) (by decide))
  have hregs : (violationLatched d).regs = (violationShown d).regs := by
    unfold violationLatched
    generalize violationShown d = e
    rfl
  rw [fbit_congr hregs, fget_congr hregs, hrail, testBit_mod_of_lt _ hi]
  exact ⟨herr, testBit_foldl_or _ _ (.inl h)⟩

/-- A rail above 0.2 V before its turn is latched, and the device stays without its rails. -/
theorem supplyWatch_of_early {d : Dev} {i : Nat} (hp : d.pkg.phase = .off) (h0 : railOk 0 (railMv d 0) = true) (hi : i < 10)
    (hv : 200 < railMv d i) (hr : railMayRise d i = false) : supplyWatch d = violationLatched (orderForgot d) := by
  have hrails := orderForgot_rails d
  have hmem : i ∈ railsEarly d := List.mem_filter.mpr ⟨List.mem_range.mpr hi, by simp [hv, hr]⟩
  rw [supplyWatch_eq, orderWatched_of_early ((railsEarly_congr hrails).symm ▸ hmem), if_neg, heldWhereOk, if_neg]
  · simp [violationLatched_pkg]
  · simp [(orderForgot_phase d).trans hp, railMv_congr hrails, h0]

/-! ## What a loss of the supplies leaves (R564, R567) -/

/-- The registers of retired and repaired rows. -/
abbrev retiredRegs : List Nat := (List.range 16).map Reg.HBM_STK_RETIRED

/-- What a reset keeps of HBM beside its contents, before the registers that count it. -/
def rowsKept (d e : Dev) : Dev := { e with mem := { e.mem with retired := d.mem.retired, spares := d.mem.spares } }

theorem keepHbm_only (d e : Dev) : OnlyRegs retiredRegs (rowsKept d e) (keepHbm d e) := by
  refine List.foldlRecOn (motive := OnlyRegs retiredRegs (rowsKept d e)) _ _ ⟨rfl, fun _ _ => rfl⟩ fun x hx k hk => ?_
  exact hx.trans ((rgPut_onlyRegs ..).mono (List.cons_subset.mpr ⟨List.mem_map_of_mem hk, List.nil_subset _⟩))

/-- What a loss of the supplies or PORST_N leaves: the flash, and the package's pins. -/
structure Emptied (d : Dev) (p : Package) (e : Dev) : Prop where
  pkg : e.pkg = p
  hbm : e.mem.hbm = []
  regions : e.mem.regions = []
  retired : e.mem.retired = d.mem.retired
  log : e.log = []
  seq : e.seq = Dev.reset.seq
  cmd : e.cmd = Dev.reset.cmd
  clk : e.clk = Dev.reset.clk
  src : e.ref.src = []
  fw : e.sit.fw = d.sit.fw
  events : e.sit.events = d.sit.events
  leaves : e.sit.leaves = d.sit.leaves

/-- What is emptied before the registers of HBM are restored. -/
def lossBase (d : Dev) (ph : Phase) : Dev :=
  { Dev.reset with
    regs := d.regs.filter (fun e => decide (e.1 = Reg.PWR_SEQ_STATUS ∨ e.1 = Reg.CLK_STATUS ∨ e.1 = Reg.SIT_FW_STATUS))
    sit := sitFlash d, pkg := { d.pkg with phase := ph }, wire := d.wire, free := d.free }

theorem contentsLost_eq (d : Dev) (ph : Phase) : contentsLost d ph = keepHbm d (lossBase d ph) := rfl

/-- A function of the device that no register enters. -/
abbrev RegFree {α : Type} (g : Dev → α) : Prop := ∀ x r, g { x with regs := r } = g x

theorem OnlyRegs.congr {as : List Nat} {d e : Dev} (h : OnlyRegs as d e) {α : Type} (g : Dev → α) (hg : RegFree g) : g e = g d :=
  (hg e d.regs).symm.trans (congrArg g h.1)

theorem emptied_of_onlyRegs {as : List Nat} {d e f : Dev} {p : Package} (h : Emptied d p e) (ho : OnlyRegs as e f) : Emptied d p f where
  pkg := (ho.congr (·.pkg) fun _ _ => rfl).trans h.pkg
  hbm := (ho.congr (·.mem.hbm) fun _ _ => rfl).trans h.hbm
  regions := (ho.congr (·.mem.regions) fun _ _ => rfl).trans h.regions
  retired := (ho.congr (·.mem.retired) fun _ _ => rfl).trans h.retired
  log := (ho.congr (·.log) fun _ _ => rfl).trans h.log
  seq := (ho.congr (·.seq) fun _ _ => rfl).trans h.seq
  cmd := (ho.congr (·.cmd) fun _ _ => rfl).trans h.cmd
  clk := (ho.congr (·.clk) fun _ _ => rfl).trans h.clk
  src := (ho.congr (·.ref.src) fun _ _ => rfl).trans h.src
  fw := (ho.congr (·.sit.fw) fun _ _ => rfl).trans h.fw
  events := (ho.congr (·.sit.events) fun _ _ => rfl).trans h.events
  leaves := (ho.congr (·.sit.leaves) fun _ _ => rfl).trans h.leaves

theorem emptied_contentsLost (d : Dev) (ph : Phase) : Emptied d { d.pkg with phase := ph } (contentsLost d ph) := by
  have hbase : Emptied d { d.pkg with phase := ph } (rowsKept d (lossBase d ph)) := ⟨rfl, rfl, rfl, rfl, rfl, rfl, rfl, rfl, rfl, rfl, rfl, rfl⟩
  rw [contentsLost_eq]
  exact emptied_of_onlyRegs hbase (keepHbm_only d _)

/-- What the monitor leaves of a device without contents. -/
theorem emptied_of_watched {d e f : Dev} {p : Package} (h : Emptied d p e) (hw : Watched e f) : Emptied d f.pkg f := by
  have hf {α : Type} (g : Dev → α) (hg : ∀ x r q, g { x with regs := r, pkg := q } = g x) : g f = g e := (hg f e.regs e.pkg).symm.trans (congrArg g hw.rest)
  exact ⟨rfl, (hf (·.mem.hbm) fun _ _ _ => rfl).trans h.hbm, (hf (·.mem.regions) fun _ _ _ => rfl).trans h.regions,
    (hf (·.mem.retired) fun _ _ _ => rfl).trans h.retired, (hf (·.log) fun _ _ _ => rfl).trans h.log, (hf (·.seq) fun _ _ _ => rfl).trans h.seq,
    (hf (·.cmd) fun _ _ _ => rfl).trans h.cmd, (hf (·.clk) fun _ _ _ => rfl).trans h.clk, (hf (·.ref.src) fun _ _ _ => rfl).trans h.src,
    (hf (·.sit.fw) fun _ _ _ => rfl).trans h.fw, (hf (·.sit.events) fun _ _ _ => rfl).trans h.events,
    (hf (·.sit.leaves) fun _ _ _ => rfl).trans h.leaves⟩

/-- The device whose rail i is down, before its contents are lost. -/
def railDown (d : Dev) (i : Nat) : Dev := pkgPut d { d.pkg with rails := d.pkg.rails.set i 0, thermN := d.pkg.thermN || decide (i = 6) }

/-- The same without its contents. -/
def lossLatched (d : Dev) (i : Nat) : Dev :=
  let e := contentsLost (railDown d i) .off
  if i = 0 then rgPut (rgPut e Reg.PWR_SEQ_STATUS 0) Reg.CLK_STATUS 0 else e

theorem powerLoss_eq (d : Dev) (i : Nat) : powerLoss d i = supplyWatch (lossLatched d i) := rfl

theorem emptied_lossLatched (d : Dev) (i : Nat) : Emptied (railDown d i) { (railDown d i).pkg with phase := .off } (lossLatched d i) := by
  have h := emptied_contentsLost (railDown d i) .off
  unfold lossLatched
  dsimp only
  split
  · exact emptied_of_onlyRegs (emptied_of_onlyRegs h (rgPut_onlyRegs ..)) (rgPut_onlyRegs ..)
  · exact h

theorem railOk_zero : ∀ i : Fin 10, ¬railOk i 0 = true := by decide

/-- A rail that is down is out of tolerance. -/
theorem railsOk_of_down {d : Dev} {i : Nat} (hi : i < 10) (h : railMv d i = 0) : railsOk d = false := by
  refine List.all_eq_false.mpr ⟨i, List.mem_range.mpr hi, ?_⟩
  rw [h]
  exact railOk_zero ⟨i, hi⟩

theorem railMv_set_zero (rs : List Nat) (i : Nat) : (rs.set i 0).getD i 0 = 0 := by
  by_cases h : i < rs.length <;> simp [List.getD_eq_getElem?_getD, h]

/-- Settles O60: by what the monitor sees, and by what a loss of the supplies leaves. -/
theorem railsRiseAndFall : Obligations.RailsRiseAndFall := by
  unfold Obligations.RailsRiseAndFall
  intro s i mv ms d up
  rw [exec_railRise, exec_powerLoss]
  refine ⟨fun h => if_pos h, fun h => ?rise, fun hb ht hl => if_pos ⟨hb, ht, hl⟩, fun h => ?fall⟩
  case rise =>
    have hw := watched_supplyWatch up
    refine ⟨supplyWatch up, if_neg (Nat.not_lt.mpr h), hw.rails, fun hp ho hr => supplyWatch_phase_of_ok hp ho hr, fun hp h0 hv hm _ => ?_, fun hp => ?_⟩
    · have hfp : (orderForgot up).pkg.phase = .off := (orderForgot_phase up).trans hp
      have hmem : i.val ∈ railsEarly (orderForgot up) := by
        rw [railsEarly_congr (orderForgot_rails up)]
        exact List.mem_filter.mpr ⟨List.mem_range.mpr i.isLt, by simp [hv, hm]⟩
      obtain ⟨herr, hrail⟩ := violationLatched_shows i.isLt hmem
      rw [supplyWatch_of_early (d := up) hp h0 i.isLt hv hm, violationLatched_pkg]
      exact ⟨herr, hrail, hfp⟩
    · rw [supplyWatch_of_up (d := up) hp]
      exact ⟨orderForgot_phase up, orderForgot_regs up⟩
  case fall =>
    have hcond : ¬(fallBreaks d i.val = true ∧ 10 < ms.toNat ∧ railUpLater d i.val = true) := by
      rintro ⟨hb, ht, hl⟩
      rcases h with h | h | h
      · exact Bool.noConfusion (h.symm.trans hb)
      · omega
      · exact Bool.noConfusion (h.symm.trans hl)
    have hlost := emptied_lossLatched d i.val
    have hw := watched_supplyWatch (lossLatched d i.val)
    have hleft := emptied_of_watched hlost hw
    have hrails : (lossLatched d i.val).pkg.rails = d.pkg.rails.set i.val 0 := congrArg (·.rails) hlost.pkg
    have hphase : (supplyWatch (lossLatched d i.val)).pkg.phase = .off := by
      refine supplyWatch_phase_of_out (congrArg (·.phase) hlost.pkg) (railsOk_of_down i.isLt ?_)
      rw [railMv, hrails, railMv_set_zero]
    refine ⟨powerLoss d i.val, if_neg hcond, ?_⟩
    rw [powerLoss_eq]
    exact ⟨hw.rails.trans hrails, hleft.hbm, hleft.log, hleft.seq, hleft.fw, hleft.events, hleft.retired, alive_of_phase (.inl hphase),
      fun h6 => hw.therm.trans ((congrArg (·.thermN) hlost.pkg).trans (by simp [railDown, h6]))⟩

end Sys2Proof.Machine
end

section
/-! PROOFS. What frames, records, buckets, memory and the bell leave alone: the registers of TOP, Sitonel, PCI Express, the sensors, the ports and the
links, and the state of the bus, the clocks, the tests, the links, Sitonel and the package. -/

namespace Sys2Proof.Machine

/-- The four registers of the referee's windows (R455). -/
abbrev WindowReg (a : Nat) : Prop := 0x010120 ≤ a ∧ a < 0x010130

/-- Registers between the referee's and those of the ports, but for the referee's status and windows. -/
abbrev InnerReg (a : Nat) : Prop := 0x010000 ≤ a ∧ a < 0x040000 ∧ a ≠ Reg.REF_STATUS ∧ ¬WindowReg a

/-- The registers that lie beside those. -/
abbrev OuterReg (a : Nat) : Prop := a < 0x010000 ∨ 0x040000 ≤ a

/-- The parts of the device beside its traffic, its memory, its commands and its sequencer. -/
def outerPart (d : Dev) : Bus × Clock × Integrity × Links × Sitonel × Package := (d.bus, d.clk, d.int, d.lnk, d.sit, d.pkg)

theorem outerPart_rgPut (d : Dev) (a v : Nat) : outerPart (rgPut d a v) = outerPart d := rfl

/-- Between two devices the outer registers, the outer parts, HALT and the referee's windows are the same. -/
structure OuterKept (d e : Dev) : Prop where
  part : outerPart e = outerPart d
  reg : ∀ a, OuterReg a → rg e a = rg d a
  halt : halted e = halted d
  windows : ∀ a, WindowReg a → rg e a = rg d a

namespace OuterKept

theorem refl (d : Dev) : OuterKept d d := ⟨rfl, fun _ _ => rfl, rfl, fun _ _ => rfl⟩

theorem trans {d e f : Dev} (h : OuterKept d e) (g : OuterKept e f) : OuterKept d f :=
  ⟨g.part.trans h.part, fun a ha => (g.reg a ha).trans (h.reg a ha), g.halt.trans h.halt,
    fun a ha => (g.windows a ha).trans (h.windows a ha)⟩

/-- A change beside the registers and the outer parts. -/
theorem of_inner {d e : Dev} (hp : outerPart e = outerPart d) (hr : e.regs = d.regs) : OuterKept d e :=
  ⟨hp, fun a _ => rg_congr hr a, fbit_congr hr _ _, fun a _ => rg_congr hr a⟩

section
variable {d e : Dev} (h : OuterKept d e)
include h

theorem bus : e.bus = d.bus := congrArg (·.1) h.part
theorem clk : e.clk = d.clk := congrArg (·.2.1) h.part
theorem int : e.int = d.int := congrArg (·.2.2.1) h.part
theorem lnk : e.lnk = d.lnk := congrArg (·.2.2.2.1) h.part
theorem sit : e.sit = d.sit := congrArg (·.2.2.2.2.1) h.part
theorem pkg : e.pkg = d.pkg := congrArg (·.2.2.2.2.2) h.part

end

/-- A run of steps each of which keeps the outer parts. -/
theorem foldl {α : Type} (l : List α) {f : Dev → α → Dev} (d : Dev) (h : ∀ e x, OuterKept e (f e x)) : OuterKept d (l.foldl f d) :=
  List.foldlRecOn (motive := OuterKept d) l f (refl d) fun e he x _ => he.trans (h e x)

/-- A choice between two ways that keep them. -/
theorem ite {d e f : Dev} (p : Prop) [Decidable p] (h : OuterKept d e) (g : OuterKept d f) : OuterKept d (if p then e else f) := by
  split
  · exact h
  · exact g

/-! ## Registers -/

theorem rgPut (d : Dev) {a : Nat} (v : Nat) (h : InnerReg a) : OuterKept d (rgPut d a v) :=
  ⟨outerPart_rgPut .., fun _ hb => rg_rgPut_ne d v (by unfold OuterReg at hb; omega), fbit_rgPut_ne d v _ h.2.2.1.symm,
    fun _ hb => rg_rgPut_ne d v fun he => h.2.2.2 (he ▸ hb)⟩

theorem fset (d : Dev) {a : Nat} (f : Nat × Nat) (v : Nat) (h : InnerReg a) : OuterKept d (fset d a f v) := rgPut d _ h

theorem bump (d : Dev) {a : Nat} (k : Nat) (h : InnerReg a) : OuterKept d (bump d a k) := rgPut d _ h

theorem rg64Put (d : Dev) {a : Nat} (v : Nat) (h : InnerReg a) (h4 : InnerReg (a + 4)) : OuterKept d (rg64Put d a v) :=
  (rgPut d _ h).trans (rgPut _ _ h4)

/-! ## A raise (R445, R449) -/

theorem srcPut (d : Dev) (n : Nat) (x : Src) : OuterKept d (srcPut d n x) := of_inner rfl rfl

/-- A full ring shows in the referee's status, apart from HALT. -/
theorem ringFull (d : Dev) : OuterKept d (Machine.fset d Reg.REF_STATUS Fd.REF_STATUS_ring_full 1) := by
  have hout : ∀ a, OuterReg a → a ≠ Reg.REF_STATUS := fun a ha => by unfold Reg.REF_STATUS; omega
  have hwindow : ∀ a, WindowReg a → a ≠ Reg.REF_STATUS := fun a ha => by unfold Reg.REF_STATUS; omega
  have hhalt : halted (Machine.fset d Reg.REF_STATUS Fd.REF_STATUS_ring_full 1) = halted d := fbit_fset_apart d _ _ 1 (by decide)
  exact ⟨outerPart_rgPut .., fun a ha => rg_fset_ne d _ _ (hout a ha), hhalt, fun a ha => rg_fset_ne d _ _ (hwindow a ha)⟩

theorem refWrite (d : Dev) (n ev : Nat) : OuterKept d (refWrite d n ev).1 := by
  unfold Machine.refWrite
  split
  · have hring : OuterKept d { d with ref := { d.ref with ring := d.ref.ring ++ [refRecord d n ev] } } := of_inner rfl rfl
    exact hring.trans (fset _ _ _ (by decide))
  · exact (bump d 1 (by decide)).trans (ringFull _)

theorem raise1 (d : Dev) (n : Nat) : OuterKept d (raise1 d n).1 := by
  have hcount : OuterKept d (Machine.bump d Reg.REF_RAISE_CNT) := bump d 1 (by decide)
  unfold Machine.raise1
  simp only
  split
  · exact srcPut ..
  · split
    · split
      · exact (hcount.trans (srcPut ..)).trans (refWrite ..)
      · refine OuterKept.trans ?_ (refWrite ..)
        split
        · exact hcount.trans (of_inner rfl rfl)
        · exact hcount.trans (srcPut ..)
    · exact hcount.trans (srcPut ..)

theorem raise (d : Dev) (n : Nat) : OuterKept d (raise d n) := by
  unfold Machine.raise
  simp only
  split
  · exact (raise1 d n).trans (raise1 _ 957)
  · exact raise1 d n

theorem raiseOnce (d : Dev) (n k : Nat) : OuterKept d (raiseOnce d n k) := by
  unfold Machine.raiseOnce
  split
  · exact refl d
  · have hmark : OuterKept d { d with ref := { d.ref with once := tset false d.ref.once (n * 65536 + k) true } } := of_inner rfl rfl
    exact hmark.trans (raise _ n)

theorem unitFault (d : Dev) {a : Nat} (f : Nat × Nat) (n : Nat) (h : InnerReg a) : OuterKept d (unitFault d a f n) :=
  (fset d f 1 h).trans (raise _ n)

/-! ## Memory (R362, R366) -/

theorem poolFreeGrans (d : Dev) (c st n : Nat) : OuterKept d (poolFreeGrans d c st n) := by
  unfold Machine.poolFreeGrans
  dsimp only
  split
  · exact of_inner rfl rfl
  · refine OuterKept.trans ?_ (bump _ _ (by decide))
    exact of_inner rfl rfl

theorem hpoolFreeGrans (d : Dev) (c n : Nat) : OuterKept d (hpoolFreeGrans d c n) := by
  unfold Machine.hpoolFreeGrans
  dsimp only
  split
  · exact of_inner rfl rfl
  · refine OuterKept.trans ?_ (bump _ _ (by decide))
    exact of_inner rfl rfl

theorem poolAlloc (d : Dev) (c st n : Nat) : OuterKept d (poolAlloc d c st n).2 := by
  unfold Machine.poolAlloc
  dsimp only
  split
  · exact of_inner rfl rfl
  · exact (bump d 1 (by decide)).trans (raiseOnce ..)

theorem regionWrite (d : Dev) (r : Region) (o : Nat) (bs : List Byte) : OuterKept d (regionWrite d r o bs) := by
  unfold Machine.regionWrite
  refine (foldl _ d fun e i => ?_).trans (foldl _ _ fun e i => ?_)
  all_goals
    dsimp only
    split
  · exact refl e
  · exact of_inner rfl rfl
  · exact of_inner rfl rfl
  · exact refl e

theorem dropRegion (d : Dev) (i : Nat) : OuterKept d (dropRegion d i) := of_inner rfl rfl

/-! ## The log (R266, R272, R487) -/

theorem replayCompare (d : Dev) (e : List Byte) : OuterKept d (replayCompare d e) := by
  unfold Machine.replayCompare
  split
  · exact refl d
  · dsimp only
    split
    · exact refl d
    · next i _ =>
      have hdone : OuterKept d { d with bell := { d.bell with repDone := i :: d.bell.repDone } } := of_inner rfl rfl
      split
      · exact hdone
      · split
        · exact hdone.trans (bump _ _ (by decide))
        · exact (((hdone.trans (bump _ _ (by decide))).trans (rg64Put _ _ (by decide) (by decide))).trans (fset _ _ _ (by decide))).trans
            (unitFault _ _ _ (by decide))

theorem append (d : Dev) (typ ctx epoch step : Nat) (body : List Byte) (time : Option (List Byte)) :
    OuterKept d (append d typ ctx epoch step body time) := by
  unfold Machine.append
  extract_lets seq e d1 lap off need d2 r d3 d4 fill src d5 mark
  have hd2 : OuterKept d d2 := (rg64Put d _ (by decide) (by decide)).trans (replayCompare ..)
  split
  · exact ((hd2.trans (bump _ _ (by decide))).trans (fset _ _ _ (by decide))).trans (raise ..)
  · have hd3 : OuterKept d d3 := by
      refine OuterKept.trans ?_ (bump _ _ (by decide))
      split
      · refine OuterKept.trans ?_ (regionWrite ..)
        split
        · exact hd2.trans (regionWrite ..)
        · exact hd2
      · exact hd2
    have hd5 : OuterKept d d5 := by
      dsimp only [d5]
      split <;> exact hd3.trans (of_inner rfl rfl)
    split
    · exact hd5.trans (raise ..)
    · exact hd5

theorem bellEntry (d : Dev) (ev value : Nat) (time : Option Nat) : OuterKept d (bellEntry d ev value time) := append ..

theorem recFlush (d : Dev) : OuterKept d (recFlush d) := by
  unfold Machine.recFlush
  have hrest : OuterKept d { d with cmd := { d.cmd with recs := (recSplit d.cmd.recs).2 } } := of_inner rfl rfl
  refine hrest.trans (foldl _ _ fun e r => ?_)
  split
  · exact append ..
  · exact refl e

theorem recSettle (d : Dev) (r : ReplyTo) (status : Option Nat) : OuterKept d (recSettle d r status) := by
  unfold Machine.recSettle
  split
  · next i _ =>
    have hmark : OuterKept d { d with cmd := { d.cmd with recs := d.cmd.recs.modify i (fun x => { x with status := some status }) } } := of_inner rfl rfl
    exact hmark.trans (recFlush _)
  · exact refl d

/-! ## Frames that the device sends (R294, R295, R303, R312) -/

theorem stamp (d : Dev) (b : List Byte) : OuterKept d (stamp d b).2 := by
  unfold Machine.stamp
  dsimp only
  split
  · exact of_inner rfl rfl
  · exact refl d

theorem takeEcho (d : Dev) (b : List Byte) : OuterKept d (takeEcho d b).2 := by
  unfold Machine.takeEcho
  split
  · exact of_inner rfl rfl
  · exact refl d

theorem unreachable (d : Dev) : OuterKept d (unreachable d) := (bump d 1 (by decide)).trans (raise ..)

theorem cargoOrd (d : Dev) (c : Cargo) : OuterKept d (cargoOrd d c).2 := by
  unfold Machine.cargoOrd
  split
  · exact of_inner rfl rfl
  · exact refl d

theorem slotsFor (d : Dev) (corr src dst len : Nat) (c : Cargo) : OuterKept d (slotsFor d corr src dst len c) := by
  have hslots : OuterKept (Machine.cargoOrd d c).2 (Machine.slotsFor d corr src dst len c) := of_inner rfl rfl
  exact (cargoOrd d c).trans hslots

theorem bufDrop (d : Dev) (i st : Nat) : OuterKept d (bufDrop d i st) := by
  unfold Machine.bufDrop
  dsimp only
  split
  · refine OuterKept.trans ?_ (poolFreeGrans ..)
    exact of_inner rfl rfl
  · exact of_inner rfl rfl

theorem release (d : Dev) (e : Nat) (f : QFrame) : OuterKept d (release d e f) := by
  unfold Machine.release
  split
  · exact bufDrop ..
  · split
    · exact refl d
    · exact poolFreeGrans ..

theorem sendFrom (d : Dev) (st : Nat) (path : Path) (b : List Byte) (colour cls grans : Nat) (buf : Option Nat) (fence orig : Bool)
    (pass : Option (Nat × Nat)) : OuterKept d (sendFrom d st path b colour cls grans buf fence orig pass) := by
  unfold Machine.sendFrom
  extract_lets o b' d' f free
  have hd' : OuterKept d d' := by
    dsimp only [d', o]
    split
    · exact takeEcho ..
    · exact refl d
  have hfree : OuterKept d (free d') := by
    dsimp only [free]
    split
    · exact hd'.trans (release ..)
    · exact hd'
  split
  case h_1 => exact hfree.trans (slotsFor ..)
  case h_2 => exact hfree.trans (slotsFor ..)
  case h_3 p _ =>
    split
    · exact hfree.trans (unreachable _)
    · next e _ =>
      have hflow : OuterKept d (flowFence d' p e b').2 := hd'.trans (of_inner rfl rfl)
      exact hflow.trans (slotsFor ..)
  case h_4 =>
    split
    · exact hfree.trans (unreachable _)
    · split
      · split
        · exact (hd'.trans (bump _ _ (by decide))).trans (slotsFor ..)
        · exact hd'.trans (slotsFor ..)
      · exact hd'.trans (slotsFor ..)
  case h_5 => exact hfree
  case h_6 => exact hfree.trans (unreachable _)

theorem originate (d : Dev) (b : List Byte) (fence : Bool) (pass : Option (Nat × Nat)) : OuterKept d (originate d b fence pass) := by
  rcases originate_cases d b fence pass with ⟨n, h⟩ | ⟨n, c, h⟩
  · rw [h]
    exact poolAlloc ..
  · rw [h]
    exact ((poolAlloc ..).trans (stamp ..)).trans (sendFrom ..)

theorem countReply (d : Dev) (status : Nat) : OuterKept d (countReply d status) := by
  unfold Machine.countReply
  split <;> exact bump _ _ (by decide)

theorem reply (d : Dev) (r : ReplyTo) (status : Nat) (fields : List Byte) (time : Option Nat) : OuterKept d (reply d r status fields time) :=
  (countReply d status).trans (originate ..)

theorem replyLate (d : Dev) (r : ReplyTo) (status : Nat) (fields : List Byte) : OuterKept d (replyLate d r status fields) :=
  (recSettle ..).trans (reply ..)

/-! ## Notices of a bucket (R126, R137) -/

theorem sendPart (d : Dev) (dst op key : Nat) (world : Bool) (p : List Byte) (fence : Bool) : OuterKept d (sendPart d dst op key world p fence) := by
  unfold Machine.sendPart
  dsimp only
  refine OuterKept.trans ?_ (originate ..)
  exact of_inner rfl rfl

theorem sendParts (d : Dev) (dst op key att : Nat) (world : Bool) (ps : List (List Byte)) (fence : Bool) :
    OuterKept d (sendParts d dst op key att world ps fence) := by
  refine foldl _ d fun e p => ?_
  refine OuterKept.trans ?_ (sendPart ..)
  exact of_inner rfl rfl

theorem sendNotice (d : Dev) (dst key att : Nat) (world : Bool) (m : NMsg) : OuterKept d (sendNotice d dst key att world m) := sendParts ..

theorem fanNotice (d : Dev) (key : Nat) (g : Group) (att : Nat) (m : NMsg) (except : Option Nat) : OuterKept d (fanNotice d key g att m except) :=
  foldl _ d fun e _ => foldl _ e fun f _ => ite _ (refl f) (sendNotice ..)

theorem ownersNotice (d : Dev) (key : Nat) (g : Group) (att : Nat) (m : NMsg) (except : Option Nat) :
    OuterKept d (ownersNotice d key g att m except) :=
  foldl _ d fun e _ => ite _ (refl e) (sendNotice ..)

/-! ## The abort of a bucket (R52, R53) -/

theorem freeLanes (d : Dev) (bs : List LBlk) : OuterKept d (freeLanes d bs) := ite _ (refl d) (poolFreeGrans ..)

theorem freeWaits (d : Dev) (b : Bucket) : OuterKept d (freeWaits d b) := foldl _ d fun e _ => freeLanes e _

theorem purge (d : Dev) (k att : Nat) (cs : Option Nat) : OuterKept d (purge d k att cs) := by
  refine foldl _ d fun e x => ?_
  refine OuterKept.trans ?_ (freeLanes ..)
  exact of_inner rfl rfl

theorem purgePass (d : Dev) (mark : Nat × Nat) : OuterKept d (purgePass d mark) := by
  unfold Machine.purgePass
  extract_lets hit slotHit fromSlots fromQs qs src d1 src' d2
  have hd2 : OuterKept d d2 := of_inner rfl rfl
  exact hd2.trans (foldl (fromSlots ++ fromQs) d2 fun e x => release e x.1 x.2)

theorem dropScales (d : Dev) (k att : Nat) : OuterKept d (dropScales d k att) := of_inner rfl rfl

theorem dropMetro (d : Dev) (b : Bucket) : OuterKept d (dropMetro d b) := ite _ (refl d) (dropRegion ..)

theorem mirFinish (d : Dev) (k : Nat) (content : List Byte) : OuterKept d (mirFinish d k content) := by
  unfold Machine.mirFinish
  dsimp only
  split <;> exact of_inner rfl rfl

theorem wholePut (d : Dev) (stream i : Nat) (b : Bool) : OuterKept d (wholePut d stream i b) := of_inner rfl rfl

theorem gradEnd (d : Dev) (b : Bucket) : OuterKept d (gradEnd d b) := by
  unfold Machine.gradEnd
  split
  · exact refl d
  · split
    · exact refl d
    · exact ite _ (refl d) ((ite _ (mirFinish ..) (refl d)).trans (wholePut ..))

theorem normAborted (d : Dev) (k step : Nat) : OuterKept d (normAborted d k step) := by
  unfold Machine.normAborted
  refine foldl _ d fun e x => ?_
  have hmark : OuterKept e { e with lsn := { e.lsn with norms := tset Norm.free e.lsn.norms x.1 { x.2 with aborted := some step } } } := of_inner rfl rfl
  refine hmark.trans (foldl _ _ fun f r => ?_)
  refine ite _ ?_ (refl f)
  refine OuterKept.trans ?_ (raise ..)
  exact of_inner rfl rfl

theorem answerOpens (d : Dev) (b : Bucket) (status : Nat) : OuterKept d (answerOpens d b status) := by
  refine foldl _ d fun e x => ?_
  dsimp only
  exact ite _ (replyLate ..) ((recSettle ..).trans (reply ..))

theorem answerAborts (d : Dev) (b : Bucket) (status : Nat) : OuterKept d (answerAborts d b status) :=
  foldl _ d fun _ _ => (recSettle ..).trans (reply ..)

theorem recordSubst (d : Dev) (k : Nat) (b : Bucket) : OuterKept d (recordSubst d k b) := by
  refine foldl _ d fun e x => foldl _ e fun f s => ?_
  dsimp only
  exact ite _ (refl f) (append ..)

theorem recordBucket (d : Dev) (k : Nat) (b : Bucket) (outcome cause : Nat) : OuterKept d (recordBucket d k b outcome cause) :=
  (recordSubst ..).trans (append ..)

theorem outcome (d : Dev) (k : Nat) (aborted : Bool) : OuterKept d (outcome d k aborted) := by
  unfold Machine.outcome
  extract_lets full d1
  have h1 : OuterKept d d1 := ite _ (bump d 1 (by decide)) (refl d)
  exact h1.trans (of_inner rfl rfl)

theorem bucketPut (d : Dev) (k : Nat) (b : Bucket) : OuterKept d (bucketPut d k b) := of_inner rfl rfl

theorem bucketMod (d : Dev) (k : Nat) (f : Bucket → Bucket) : OuterKept d (bucketMod d k f) := by
  unfold Machine.bucketMod
  split
  · exact bucketPut ..
  · exact refl d

theorem abortHere (d : Dev) (k cause : Nat) (from' : Option Nat) : OuterKept d (abortHere d k cause from') := by
  unfold Machine.abortHere
  split
  · exact refl d
  · next b _ =>
    split
    · exact refl d
    · extract_lets g status d1 d2 d3 d4 d5 m d6 d7
      have h1 : OuterKept d d1 := ite _ (refl d) (recordBucket ..)
      have h2 : OuterKept d d2 := (((((h1.trans (purge ..)).trans (purgePass ..)).trans (dropScales ..)).trans (freeWaits ..)).trans (dropMetro ..)).trans (gradEnd ..)
      have h4 : OuterKept d d4 :=
        (((h2.trans (normAborted ..)).trans (bump _ _ (by decide))).trans (answerOpens ..)).trans (answerAborts ..)
      have h6 : OuterKept d d6 := (h4.trans (bucketPut ..)).trans (fanNotice ..)
      have h7 : OuterKept d d7 := ite _ (h6.trans (sendNotice ..)) h6
      exact (h7.trans (ownersNotice ..)).trans (outcome ..)

theorem groupPut (d : Dev) (i : Nat) (g : Group) : OuterKept d (groupPut d i g) := of_inner rfl rfl

theorem advanceEpoch (d : Dev) (ctx : Nat) (fence : Bool) : OuterKept d ((advanceEpoch d ctx fence).getD d) := by
  unfold Machine.advanceEpoch
  dsimp only
  split
  · exact groupPut ..
  · split
    · exact (foldl _ d fun e x => abortHere ..).trans (groupPut ..)
    · exact refl d

theorem portFenced (d : Dev) (p : Nat) : OuterKept d (portFenced d p) := foldl _ d fun e _ => ite _ (advanceEpoch ..) (refl e)

theorem hudPortFenced (d : Dev) (p : Nat) : OuterKept d (hudPortFenced d p) := by
  refine foldl _ d fun e x => ite _ ?_ (refl e)
  exact of_inner rfl rfl

theorem inkEntry (d : Dev) (r : InkRec) : OuterKept d (inkEntry d r) := ite _ (refl d) (append ..)

theorem markSkipped (d : Dev) (k att p n : Nat) : OuterKept d (markSkipped d k att p n) := by
  unfold Machine.markSkipped
  split
  · exact refl d
  · extract_lets d1
    have h1 : OuterKept d d1 := (bump d n (by decide)).trans (bucketMod ..)
    split
    · exact h1
    · next r _ =>
      extract_lets s d2
      have h2 : OuterKept d d2 := h1.trans (of_inner rfl rfl)
      exact ite _ (h2.trans (inkEntry ..)) h2

/-! ## Queues of an egress (R322, R411) -/

theorem emit (d : Dev) (w : Wire) : OuterKept d (emit d w) := of_inner rfl rfl

theorem capture (d : Dev) (dir e port v ev : Nat) (b : List Byte) : OuterKept d (capture d dir e port v ev b) := by
  unfold Machine.capture
  extract_lets c sel r r' lost
  have hlost : OuterKept d lost := (bump d 1 (by decide)).trans (raiseOnce ..)
  split
  · exact refl d
  · split
    · exact hlost
    · exact ite _ hlost (((regionWrite ..).trans (rgPut _ _ (by decide))).trans (bump _ _ (by decide)))

theorem retag (d : Dev) (e v : Nat) (wake : Bool) : OuterKept d (retag d e v wake) := by
  unfold Machine.retag
  split
  · exact refl d
  · split
    · exact refl d
    · dsimp only
      split
      · exact refl d
      · exact of_inner rfl rfl

theorem pushQ (d : Dev) (e v : Nat) (f : QFrame) : OuterKept d (pushQ d e v f) := by
  unfold Machine.pushQ
  extract_lets k wake q src d1 lo t s d2
  refine OuterKept.trans ?_ (retag ..)
  dsimp only [d2]
  split <;> exact of_inner rfl rfl

theorem enqueue (d : Dev) (e : Nat) (f : QFrame) : OuterKept d (enqueue d e f) := by
  unfold Machine.enqueue
  extract_lets v lim p
  split
  · split
    · exact (((release ..).trans (bump _ _ (by decide))).trans (raiseOnce ..)).trans (capture ..)
    · exact (((release ..).trans (bump _ _ (by decide))).trans (raiseOnce ..)).trans (capture ..)
  · exact pushQ ..

theorem drainMetro (d : Dev) (p : Nat) : OuterKept d (drainMetro d p) := by
  unfold Machine.drainMetro
  split
  · exact refl d
  · next e inHbm f fs _ =>
    split
    · exact refl d
    · have hq : OuterKept d { d with tm := { d.tm with metroQ := tset [] d.tm.metroQ p fs } } := of_inner rfl rfl
      exact ite _ ((hq.trans (ite _ (hpoolFreeGrans ..) (refl _))).trans (enqueue ..)) (refl d)

theorem flushMetro (d : Dev) (p : Nat) : OuterKept d (flushMetro d p) := by
  unfold Machine.flushMetro
  have hq : OuterKept d { d with tm := { d.tm with metroQ := tdel d.tm.metroQ p } } := of_inner rfl rfl
  exact (hq.trans (foldl _ _ fun _ _ => ite _ (hpoolFreeGrans ..) (release ..))).trans (bump _ _ (by decide))

theorem flushEgress (d : Dev) (e : Nat) : OuterKept d (flushEgress d e) := by
  unfold Machine.flushEgress
  extract_lets fs p src d1 qs lo src' d2 d3 d4 d5
  have h1 : OuterKept d d1 := by
    dsimp only [d1]
    split
    · split
      · exact of_inner rfl rfl
      · exact refl d
    · exact refl d
  have h2 : OuterKept d d2 := by
    clear_value qs lo d1
    exact h1.trans (of_inner rfl rfl)
  clear_value d2
  have h3 : OuterKept d d3 := h2.trans (foldl fs d2 fun f x => release f e x.2)
  have h4 : OuterKept d d4 := h3.trans (bump d3 fs.length (by decide))
  have h5 : OuterKept d d5 := ite _ (h4.trans (foldl _ _ fun _ _ => capture ..)) (h4.trans (capture ..))
  exact ite _ h5 (h5.trans (raise ..))

/-! ## The bell's parents (R254, R258) -/

theorem holdover (d : Dev) : OuterKept d (holdover d) :=
  ((((fset d _ _ (by decide)).trans (rgPut _ _ (by decide))).trans (bump _ _ (by decide))).trans (unitFault _ _ _ (by decide))).trans (bellEntry ..)

theorem bellWatch (d : Dev) : OuterKept d (bellWatch d) := by
  have hup (l : Nat) : OuterKept d (upNoted d l) := by
    rcases upNoted_cases d l with h | h
    · rw [h]
      exact refl d
    · rw [h]
      exact of_inner rfl rfl
  have hshown (k l : Nat) : OuterKept d (parentShown (upNoted d l) k l) := by
    have hidx : OuterKept (upNoted d l) (Machine.fset (upNoted d l) Reg.BELL_STATUS Fd.BELL_STATUS_parent_idx k) := fset _ _ _ (by decide)
    exact (((hup l).trans hidx).trans (fset _ Fd.BELL_STATUS_parent_link l (by decide))).trans (of_inner rfl rfl)
  rcases bellWatch_cases d with h | ⟨-, -, h⟩ | ⟨k, l, h | h | ⟨-, h⟩⟩
  · rw [h]
    exact refl d
  · rw [h]
    exact holdover d
  · rw [h]
    exact hup l
  · rw [h]
    exact hshown k l
  · rw [h]
    exact ((hshown k l).trans (bump _ _ (by decide))).trans (bellEntry ..)

end OuterKept

end Sys2Proof.Machine
end

section
/-! PROOFS. How a link stops and starts again, in service or not (R403, R408 to R411): what of its own it keeps, and that every other link stays as
it was. -/

namespace Sys2Proof.Machine

/-! ## What a stop leaves -/

/-- The registers of its own that a stop of link l changes. -/
abbrev StopReg (l a : Nat) : Prop := a = Reg.LINK_STATUS l ∨ a = Reg.LINK_FAULT l

/-- Beside the step of link l, its faults and its transfers in progress, the outer parts and HALT are the same. -/
structure LinkLeft (l : Nat) (d e : Dev) : Prop where
  bus : e.bus = d.bus
  clk : e.clk = d.clk
  int : e.int = d.int
  sit : e.sit = d.sit
  pkg : e.pkg = d.pkg
  reg : ∀ a, OuterReg a → ¬StopReg l a → rg e a = rg d a
  status : ∀ f, FldsApart Fd.LINK_STATUS_step f → fget e (Reg.LINK_STATUS l) f = fget d (Reg.LINK_STATUS l) f
  dyn : ∀ m, m ≠ l → dynOf e m = dynOf d m
  fenced : (dynOf e l).fenced = (dynOf d l).fenced
  powered : (dynOf e l).powered = (dynOf d l).powered
  halt : halted e = halted d
  windows : ∀ a, WindowReg a → rg e a = rg d a

theorem outerReg_link {l a : Nat} (h : StopReg l a) : OuterReg a := by
  rcases h with rfl | rfl
  · exact .inr (by unfold Reg.LINK_STATUS; omega)
  · exact .inr (by unfold Reg.LINK_FAULT; omega)

theorem refStatus_not_link (l : Nat) : Reg.REF_STATUS ≠ Reg.LINK_STATUS l ∧ Reg.REF_STATUS ≠ Reg.LINK_FAULT l := by
  unfold Reg.REF_STATUS Reg.LINK_STATUS Reg.LINK_FAULT
  omega

theorem windowReg_not_link {l a : Nat} (h : WindowReg a) : a ≠ Reg.LINK_STATUS l ∧ a ≠ Reg.LINK_FAULT l := by
  unfold Reg.LINK_STATUS Reg.LINK_FAULT
  omega

namespace LinkLeft

variable {l : Nat} {d e f : Dev}

theorem refl (l : Nat) (d : Dev) : LinkLeft l d d := ⟨rfl, rfl, rfl, rfl, rfl, fun _ _ _ => rfl, fun _ _ => rfl, fun _ _ => rfl, rfl, rfl, rfl, fun _ _ => rfl⟩

theorem trans (h : LinkLeft l d e) (g : LinkLeft l e f) : LinkLeft l d f :=
  ⟨g.bus.trans h.bus, g.clk.trans h.clk, g.int.trans h.int, g.sit.trans h.sit, g.pkg.trans h.pkg, fun a ha hn => (g.reg a ha hn).trans (h.reg a ha hn),
    fun x hx => (g.status x hx).trans (h.status x hx), fun m hm => (g.dyn m hm).trans (h.dyn m hm), g.fenced.trans h.fenced, g.powered.trans h.powered,
    g.halt.trans h.halt, fun a ha => (g.windows a ha).trans (h.windows a ha)⟩

theorem of_outer (h : OuterKept d e) : LinkLeft l d e :=
  have hdyn (m : Nat) : dynOf e m = dynOf d m := dynOf_congr h.lnk m
  ⟨h.bus, h.clk, h.int, h.sit, h.pkg, fun a ha _ => h.reg a ha, fun x _ => by rw [fget, h.reg _ (outerReg_link (.inl rfl)), fget], fun m _ => hdyn m,
    congrArg (·.fenced) (hdyn l), congrArg (·.powered) (hdyn l), h.halt, h.windows⟩

/-- The step shown changes. -/
theorem step (d : Dev) (l s : Nat) : LinkLeft l d (fset d (Reg.LINK_STATUS l) Fd.LINK_STATUS_step s) := by
  have hhalt : halted (fset d (Reg.LINK_STATUS l) Fd.LINK_STATUS_step s) = halted d := fbit_fset_ne _ _ _ _ (refStatus_not_link l).1
  exact ⟨fset_bus .., fset_clk .., fset_int .., fset_sit .., fset_pkg .., fun a _ hn => rg_fset_ne d _ _ fun h => hn (.inl h),
    fun x hx => fget_fset_apart d _ _ s hx, fun m _ => dynOf_congr (fset_lnk ..) m, congrArg (·.fenced) (dynOf_congr (fset_lnk ..) l),
    congrArg (·.powered) (dynOf_congr (fset_lnk ..) l), hhalt,
    fun a ha => rg_fset_ne d _ _ (windowReg_not_link ha).1⟩

/-- The state beside the registers changes, but for the fence and the power. -/
theorem dynMod (d : Dev) (l : Nat) {g : LinkDyn → LinkDyn} (hf : (g (dynOf d l)).fenced = (dynOf d l).fenced)
    (hp : (g (dynOf d l)).powered = (dynOf d l).powered) : LinkLeft l d (dynMod d l g) :=
  ⟨rfl, rfl, rfl, rfl, rfl, fun _ _ _ => rfl, fun _ _ => rfl, fun m hm => tget_tset_ne _ _ _ _ hm, by rw [dynOf_dynMod_self, hf], by rw [dynOf_dynMod_self, hp], rfl,
    fun _ _ => rfl⟩

end LinkLeft

theorem linkStep_outer {d e : Dev} (h : OuterKept d e) (l : Nat) : linkStep e l = linkStep d l := linkStep_congr (h.reg _ (outerReg_link (.inl rfl)))

/-! ## A stop -/

/-- A link in service that leaves it: its queues are flushed (R411). -/
theorem linkLeave_form (d : Dev) (l st : Nat) : OuterKept (fset d (Reg.LINK_STATUS l) Fd.LINK_STATUS_step st) (linkLeave d l st) := by
  unfold linkLeave
  dsimp only
  refine (OuterKept.foldl _ _ fun e x => OuterKept.flushEgress e x).trans (OuterKept.foldl _ _ fun e x => ?_)
  split
  · exact .refl e
  · split
    · exact (OuterKept.foldl _ _ fun e x => OuterKept.flushEgress e x).trans (OuterKept.flushMetro ..)
    · exact OuterKept.foldl _ _ fun e _ => OuterKept.drainMetro e _

/-- What a link's transfers in progress come to when it goes down. -/
def transfersDropped (x : LinkDyn) : LinkDyn :=
  { x with drain := none, restart := none, held := false, nak := false, uncorr := [], naks := [], nakAck := none, txw := [], rxBuf := [], rxCut := false }

theorem linkDown_form (d : Dev) (l st : Nat) : OuterKept (dynMod (linkLeave d l st) l transfersDropped) (linkDown d l st) := by
  unfold linkDown
  extract_lets egs down marks d1 d2 d3
  have hmarks : OuterKept d2 d3 := OuterKept.foldl _ _ fun e m => OuterKept.foldl _ _ fun f k => OuterKept.markSkipped ..
  exact (hmarks.trans (OuterKept.foldl _ _ fun e p => (OuterKept.portFenced e p).trans (OuterKept.hudPortFenced _ p))).trans (OuterKept.bellWatch _)

theorem linkStep_fset_step (d : Dev) (l : Nat) {s : Nat} (h : s < 16) : linkStep (fset d (Reg.LINK_STATUS l) Fd.LINK_STATUS_step s) l = s := by
  rw [linkStep, fget_fset_self _ _ _ _ (by decide) (by decide)]
  exact Nat.mod_eq_of_lt h

theorem linkDown_left (d : Dev) (l st : Nat) : LinkLeft l d (linkDown d l st) := by
  have hleave : LinkLeft l d (linkLeave d l st) := (LinkLeft.step d l st).trans (.of_outer (linkLeave_form d l st))
  exact (hleave.trans (.dynMod _ l rfl rfl)).trans (.of_outer (linkDown_form d l st))

theorem linkStep_linkDown (d : Dev) (l : Nat) {st : Nat} (h : st < 16) : linkStep (linkDown d l st) l = st := by
  rw [linkStep_outer (linkDown_form d l st), linkStep_dynMod, linkStep_outer (linkLeave_form d l st), linkStep_fset_step d l h]

section
variable (d : Dev) (l : Nat) {s : Nat} (h5 : s ≠ 5) (h6 : s ≠ 6)
include h5 h6

theorem stepTo_left : LinkLeft l d (stepTo d l s) := by
  rw [stepTo_of_silent d l h5 h6]
  exact (LinkLeft.dynMod d l rfl rfl).trans (.step ..)

/-- A stop, whether the link was in service or not. -/
theorem linkStop_left : LinkLeft l d (linkStop d l s) := by
  unfold linkStop
  split
  · exact linkDown_left ..
  · exact ((LinkLeft.dynMod d l rfl rfl).trans (stepTo_left _ l h5 h6)).trans (.of_outer (OuterKept.bellWatch _))

theorem linkStep_linkStop (h : s < 16) : linkStep (linkStop d l s) l = s := by
  unfold linkStop
  split
  · exact linkStep_linkDown d l h
  · rw [linkStep_outer (OuterKept.bellWatch _), linkStep_stepTo _ l h5 h6 h]

end

/-! ## Bring-up begins again (R408, R411) -/

theorem fbit_of_status {d e : Dev} {l : Nat} (h : LinkLeft l d e) {f : Nat × Nat} (hf : FldsApart Fd.LINK_STATUS_step (f.2, f.2)) :
    fbit e (Reg.LINK_STATUS l) f = fbit d (Reg.LINK_STATUS l) f := by rw [fbit_eq_decide, h.status _ hf, fbit_eq_decide]

theorem not_stopReg_ctrl (l m : Nat) : ¬StopReg l (Reg.LINK_CTRL m) := by
  unfold StopReg Reg.LINK_CTRL Reg.LINK_STATUS Reg.LINK_FAULT
  omega

theorem not_stopReg_top (l : Nat) : ¬StopReg l Reg.TOP_STATUS := by
  unfold StopReg Reg.TOP_STATUS Reg.LINK_STATUS Reg.LINK_FAULT
  omega

theorem outerReg_ctrl (m : Nat) : OuterReg (Reg.LINK_CTRL m) := .inr (by unfold Reg.LINK_CTRL; omega)

/-- The configuration of a link is no matter of its stop. -/
theorem LinkLeft.ctrl {d e : Dev} {l : Nat} (h : LinkLeft l d e) (m : Nat) : rg e (Reg.LINK_CTRL m) = rg d (Reg.LINK_CTRL m) :=
  h.reg _ (outerReg_ctrl m) (not_stopReg_ctrl l m)

theorem LinkLeft.top {d e : Dev} {l : Nat} (h : LinkLeft l d e) : rg e Reg.TOP_STATUS = rg d Reg.TOP_STATUS := h.reg _ (.inl (by decide)) (not_stopReg_top l)

/-- Other links show what they showed. -/
theorem LinkLeft.other {d e : Dev} {l m : Nat} (h : LinkLeft l d e) (hm : m ≠ l) (hm128 : m < 128) (hl : l < 128) : linkStep e m = linkStep d m :=
  linkStep_congr (h.reg _ (outerReg_link (.inl rfl)) (by unfold StopReg Reg.LINK_STATUS Reg.LINK_FAULT; omega))

theorem LinkLeft.canBring {d e : Dev} {l : Nat} (h : LinkLeft l d e) : canBring e l = canBring d l := by
  have hpres := fbit_of_status h (f := Fd.LINK_STATUS_present) (by decide)
  have hlatch := fbit_of_status h (f := Fd.LINK_STATUS_latch_closed) (by decide)
  simp only [Machine.canBring, linkCtl, linkLoop_congr (h.ctrl l), hpres, hlatch, h.powered, h.fenced, h.pkg]
  simp only [fbit, h.ctrl l, h.top]

/-- The step at which a link stands once it has been restarted. -/
def restartStep (d : Dev) (l : Nat) : Nat := if canBring d l then 1 else if linkLoop d l ≠ 0 then 11 else 0

theorem stopStep_mem (d : Dev) (l : Nat) : (if linkLoop d l ≠ 0 then 11 else 0) ≠ 5 ∧ (if linkLoop d l ≠ 0 then 11 else 0) ≠ 6
    ∧ (if linkLoop d l ≠ 0 then 11 else 0) < 16 := by
  split <;> decide

theorem linkRestart_form (d : Dev) (l : Nat) : linkRestart d l
    = if canBring d l then broughtUp (linkStop d l (if linkLoop d l ≠ 0 then 11 else 0)) l else linkStop d l (if linkLoop d l ≠ 0 then 11 else 0) := by
  obtain ⟨h5, h6, -⟩ := stopStep_mem d l
  rw [linkRestart, (linkStop_left d l h5 h6).canBring]
  rfl

theorem broughtUp_left (d : Dev) (l : Nat) : LinkLeft l d (broughtUp d l) := by
  have hbell (x : Bell) : LinkLeft l d (bellPut d x) := .of_outer (.of_inner rfl rfl)
  exact (hbell _).trans (stepTo_left _ l (by decide) (by decide))

theorem linkRestart_left (d : Dev) (l : Nat) : LinkLeft l d (linkRestart d l) := by
  obtain ⟨h5, h6, -⟩ := stopStep_mem d l
  have hstop := linkStop_left d l h5 h6
  rw [linkRestart_form]
  split
  · exact hstop.trans (broughtUp_left ..)
  · exact hstop

theorem linkStep_linkRestart (d : Dev) (l : Nat) : linkStep (linkRestart d l) l = restartStep d l := by
  obtain ⟨h5, h6, h16⟩ := stopStep_mem d l
  rw [linkRestart_form, restartStep]
  split
  · exact linkStep_broughtUp ..
  · exact linkStep_linkStop d l h5 h6 h16

/-- A restarted link is not in service. -/
theorem linkCarries_linkRestart (d : Dev) (l : Nat) : linkCarries (linkRestart d l) l = false := by
  rw [linkCarries, linkStep_linkRestart, restartStep]
  split
  · decide
  · split <;> decide

/-! ## A fault of a link (R411) -/

theorem linkFault_left (d : Dev) (l : Nat) (f : Nat × Nat) : LinkLeft l d (linkFault d l f) := by
  have hne : Reg.LINK_STATUS l ≠ Reg.LINK_FAULT l := by unfold Reg.LINK_STATUS Reg.LINK_FAULT; omega
  have hhalt : halted (fset d (Reg.LINK_FAULT l) f 1) = halted d := fbit_fset_ne _ _ _ _ (refStatus_not_link l).2
  have hset : LinkLeft l d (fset d (Reg.LINK_FAULT l) f 1) :=
    ⟨fset_bus .., fset_clk .., fset_int .., fset_sit .., fset_pkg .., fun a _ hn => rg_fset_ne d _ _ fun h => hn (.inr h),
      fun x _ => fget_fset_ne d _ _ 1 hne, fun m _ => dynOf_congr (fset_lnk ..) m, congrArg (·.fenced) (dynOf_congr (fset_lnk ..) l),
      congrArg (·.powered) (dynOf_congr (fset_lnk ..) l), hhalt,
      fun a ha => rg_fset_ne d _ _ (windowReg_not_link ha).2⟩
  exact hset.trans (.of_outer (OuterKept.raise _ l))

/-- A fence of a link stops it (R446). -/
theorem linkFence_fenced (d : Dev) (l : Nat) : (dynOf (linkFence d l) l).fenced = true := by
  rw [linkFence, (linkStop_left _ l (by decide) (by decide)).fenced, dynOf_dynMod_self]

theorem linkStep_linkFence (d : Dev) (l : Nat) : linkStep (linkFence d l) l = 0 := linkStep_linkStop _ l (by decide) (by decide) (by decide)

end Sys2Proof.Machine
end

section
/-! PROOFS. Faults open and end windows (R444 to R448): a raise takes its source out of IDLE, a window that ends runs the action of its severity, and
a quiet period brings the source back. -/

namespace Sys2Proof.Machine

/-! ## FAULT_RAISE (R444, R445) -/

theorem exec_faultRaise (n : BitVec 10) (s : State) :
    exec (.faultRaise n) s = act (fun d => raise (if n = 946 then bump d Reg.MEM_SRAM_UE_CNT else d) n.toNat) s := rfl

/-- With room in the ring no record is refused. -/
theorem raise_of_room {d : Dev} (n : Nat) (h : d.ref.ring.length < 4096) : raise d n = (raise1 d n).1 := by
  refine raise_of_taken (Prod.ext rfl ?_)
  rcases raise1_cases d n with ⟨-, hr⟩ | ⟨-, -, hr⟩ | ⟨-, -, hr⟩
  · rw [hr]
  · rw [hr]
  · rw [hr, refWrite_of_room _ _ (by rwa [raiseOpened_ring])]

theorem raise_of_off {d : Dev} {n : Nat} (hv : sev d n = 15) : raise d n = srcPut d n (srcCounted d n) := by
  rw [raise_of_taken (raise1_of_off hv), srcRaised, if_pos hv]

theorem raise_of_busy {d : Dev} {n : Nat} (hv : sev d n ≠ 15) (hs : (srcOf d n).st ≠ .idle) :
    raise d n = srcPut (bump d Reg.REF_RAISE_CNT) n (srcRaised d n) := raise_of_taken (raise1_of_busy hv hs)

theorem raise_of_idle {d : Dev} {n : Nat} (h : d.ref.ring.length < 4096) (hv : sev d n ≠ 15) (hs : (srcOf d n).st = .idle) :
    raise d n = (refWrite (raiseOpened d n) n 0).1 := by rw [raise_of_room n h, raise1_of_idle hv hs]

theorem srcRaised_of_busy {d : Dev} {n : Nat} (hv : sev d n ≠ 15) (hs : (srcOf d n).st ≠ .idle) :
    srcRaised d n = { srcCounted d n with last := ns d } := by
  unfold srcRaised
  rw [if_neg hv]
  cases h : (srcOf d n).st with
  | idle => exact absurd h hs
  | _ => rfl

theorem srcRaised_of_note {d : Dev} {n : Nat} (hv : sev d n = 0) (hs : (srcOf d n).st = .idle) :
    srcRaised d n = { srcCounted d n with last := ns d, st := .fault, lateOk := false, sev := 0 } := by
  simp only [srcRaised, hv, hs, OfNat.zero_ne_ofNat, ↓reduceIte]

theorem srcRaised_of_window {d : Dev} {n : Nat} (h0 : sev d n ≠ 0) (hv : sev d n ≠ 15) (hs : (srcOf d n).st = .idle) :
    srcRaised d n = { srcCounted d n with last := ns d, st := .window, until_ := ns d + windowNs d (sev d n), lateOk := false, sev := sev d n } := by
  simp only [srcRaised, h0, hv, hs, ↓reduceIte]

section
variable {d : Dev} {n : Nat} (h : d.ref.ring.length < 4096) (hv : sev d n ≠ 15) (hs : (srcOf d n).st = .idle)
include h hv hs

/-- What a raise of a source in IDLE leaves in the source, and in the counter of raises. -/
theorem raise_idle_src : srcOf (raise d n) n = srcRaised d n := by
  rw [raise_of_idle h hv hs, refWrite_src, raiseOpened_src, srcOf_srcPut_self]

theorem raise_idle_count : rg (raise d n) Reg.REF_RAISE_CNT = satInc (rg d Reg.REF_RAISE_CNT) 1 := by
  rw [raise_of_idle h hv hs, refWrite_of_room _ _ (by rwa [raiseOpened_ring]), rg_fset_ne _ _ _ (by decide)]
  exact (rg_congr (raiseOpened_regs d n) _).trans (rg_bump_self ..)

theorem raise_idle_ring : (raise d n).ref.ring = d.ref.ring ++ [refRecord (raiseOpened d n) n 0] := by
  rw [raise_of_idle h hv hs, refWrite_of_room _ _ (by rwa [raiseOpened_ring]), fset_ref, raiseOpened_ring]

end

theorem refSev_ne (n : BitVec 10) {a : Nat} (h : a < 0x010200 ∨ 0x010400 ≤ a) : Reg.REF_SEV (n.toNat / 8) ≠ a := by
  have := n.isLt
  unfold Reg.REF_SEV
  omega

/-- The register of severities is no matter of a counter. -/
theorem sev_bump (d : Dev) (n : BitVec 10) {a : Nat} (k : Nat) (h : a < 0x010200 ∨ 0x010400 ≤ a) : sev (bump d a k) n.toNat = sev d n.toNat :=
  sev_congr (rg_bump_ne _ _ (refSev_ne n h))

theorem sev_raiseOpened (d : Dev) (n : BitVec 10) : sev (raiseOpened d n.toNat) n.toNat = sev d n.toNat :=
  (sev_congr (rg_congr (raiseOpened_regs d n.toNat) _)).trans (sev_bump d n 1 (by decide))

/-- The device on which the fault is raised: one of the buffer's memory is counted there, too. -/
def faultCounted (d : Dev) (n : BitVec 10) : Dev := if n = 946 then bump d Reg.MEM_SRAM_UE_CNT else d

section
variable (d : Dev) (n : BitVec 10)

theorem faultCounted_ref : (faultCounted d n).ref = d.ref := by unfold faultCounted; split <;> rfl
theorem faultCounted_ns : ns (faultCounted d n) = ns d := by unfold faultCounted; split <;> rfl
theorem faultCounted_src (m : Nat) : srcOf (faultCounted d n) m = srcOf d m := srcOf_congr (congrArg (·.src) (faultCounted_ref d n)) m

theorem rg_faultCounted {a : Nat} (h : a ≠ Reg.MEM_SRAM_UE_CNT) : rg (faultCounted d n) a = rg d a := by
  unfold faultCounted
  split
  · exact rg_bump_ne _ _ h
  · rfl

theorem faultCounted_sev : sev (faultCounted d n) n.toNat = sev d n.toNat := sev_congr (rg_faultCounted d n (refSev_ne n (by decide)))

theorem faultCounted_window {v : Nat} (h : v ≤ 4) : windowNs (faultCounted d n) v = windowNs d v := by
  rw [windowNs, fget, rg_faultCounted d n (by unfold Reg.REF_WINDOW Reg.MEM_SRAM_UE_CNT; omega), windowNs, fget]

theorem faultCounted_counted : srcCounted (faultCounted d n) n.toNat = srcCounted d n.toNat := by rw [srcCounted, faultCounted_src, srcCounted]

end

theorem exec_faultRaise_of_alive {n : BitVec 10} {s : State} (ha : alive s.dev = true) :
    exec (.faultRaise n) s = .next (s.after (raise (faultCounted s.dev n) n.toNat)) := by
  rw [exec_faultRaise]
  exact act_of_eq ha rfl

/-! ## A window that ends (R445 to R447) -/

theorem exec_refWindowEnd (n : BitVec 10) (s : State) : exec (.refWindowEnd n) s = act (fun d => windowEnd d n.toNat) s := rfl
theorem exec_refQuietExpire (n : BitVec 10) (s : State) : exec (.refQuietExpire n) s = act (fun d => refQuiet d n.toNat) s := rfl

/-- The device whose source enters FAULT as its window ends. -/
def windowEnded (d : Dev) (n : Nat) : Dev := srcPut d n { srcOf d n with st := .fault, lateOk := true }

/-- The same with the action counted and recorded. -/
def actionNoted (d : Dev) (n : Nat) : Dev := refNote (bump (windowEnded d n) Reg.REF_ACTION_CNT) n 3

theorem windowEnd_of_due {d : Dev} {n : Nat} (hs : (srcOf d n).st = .window) (hu : (srcOf d n).until_ ≤ ns d) :
    windowEnd d n = if fbit d (Reg.REF_WINDOW ((srcOf d n).sev - 1)) Fd.REF_WINDOW_act_en then severityAction (actionNoted d n) n (srcOf d n).sev
      else refNote (windowEnded d n) n 8 := by
  unfold windowEnd
  dsimp only
  rw [if_neg (by simp [hs, hu])]
  rfl

theorem fenceUnit_of_none (d : Dev) {n : Nat} (h : 944 ≤ n) : fenceUnit d n = (d, false) := by
  unfold fenceUnit
  rw [if_neg (by omega), if_neg (by omega), if_neg (by omega), if_neg (by omega), if_neg (by omega), if_neg (by omega), if_neg (by omega),
    if_neg (by omega)]

/-- A unit that cannot be fenced is degraded. -/
theorem severityAction_three_of_none (d : Dev) {n : Nat} (h : 944 ≤ n) : severityAction d n 3 = degradeAction d n := by
  simp only [severityAction, fenceUnit_of_none d h, Bool.false_eq_true, ↓reduceIte]

/-- The device whose link is fenced, as its source shows. -/
def linkFenced (d : Dev) (n : Nat) : Dev := srcPut (linkFence d n) n { srcOf (linkFence d n) n with fenced := true }

theorem severityAction_three_of_link (d : Dev) {n : Nat} (h : n < 128) : severityAction d n 3 = linkFenced d n := by
  simp only [severityAction, fenceUnit, h, ↓reduceIte, linkFenced]

theorem linkFenced_shows (d : Dev) (n : Nat) :
    (dynOf (linkFenced d n) n).fenced = true ∧ linkCarries (linkFenced d n) n = false ∧ (srcOf (linkFenced d n) n).fenced = true := by
  refine ⟨?_, ?_, ?_⟩
  · rw [dynOf_congr (show (linkFenced d n).lnk = (linkFence d n).lnk from rfl), linkFence_fenced]
  · exact linkCarries_of_down ((linkStep_congr (d := linkFence d n) rfl).trans (linkStep_linkFence d n))
  · rw [linkFenced, srcOf_srcPut_self]

/-! ## A quiet period (R448) -/

/-- The recoveries that a source still counts. -/
def recoveries (d : Dev) (n : Nat) : List Nat :=
  (srcOf d n).recov.filter fun t => decide (ns d ≤ t + 3600 * 10 ^ 9 * max 1 (fget d Reg.REF_QUIET Fd.REF_QUIET_sticky_hours))

theorem refQuiet_of_quiet {d : Dev} {n : Nat} (hs : (srcOf d n).st = .fault)
    (hq : (srcOf d n).last + 100000000 * max 1 (fget d Reg.REF_QUIET Fd.REF_QUIET_quiet) ≤ ns d) :
    refQuiet d n = if max 1 (fget d Reg.REF_QUIET Fd.REF_QUIET_sticky_count) ≤ (recoveries d n).length + 1 then
        bump (refNote (srcPut d n { srcOf d n with st := .sticky, lateOk := false, recov := recoveries d n }) n 5) Reg.REF_STICKY_CNT
      else bump (srcLeave (refNote d n 4) n { srcOf d n with recov := recoveries d n ++ [ns d] }) Reg.REF_RECOVERY_CNT := by
  unfold refQuiet
  dsimp only
  rw [if_neg]
  · rfl
  · rw [hs, fget1]
    simpa using hq

/-- Settles O41: by the three fates of a raise, by the severities, and by the count of recoveries. -/
theorem faultsOpenAndEndWindows : Obligations.FaultsOpenAndEndWindows := by
  unfold Obligations.FaultsOpenAndEndWindows
  refine ⟨fun s n => ?raises, fun s n => ?windows⟩
  case raises =>
    intro d c v ha
    have hsrc := faultCounted_src d n
    have hsev : sev (faultCounted d n) n.toNat = v := faultCounted_sev d n
    have hring : (faultCounted d n).ref.ring = d.ref.ring := congrArg (·.ring) (faultCounted_ref d n)
    have hcnt : rg (faultCounted d n) Reg.REF_RAISE_CNT = rg d Reg.REF_RAISE_CNT := rg_faultCounted d n (by decide)
    have hst : (srcOf (faultCounted d n) n.toNat).st = c.st := congrArg (·.st) (hsrc n.toNat)
    refine ⟨_, exec_faultRaise_of_alive ha, fun hv => ?off, fun hv hs => ?busy, fun hr hs hv => ?note, fun hr hs h1 h4 => ?window, fun hr m hm => ?others⟩
    case off =>
      rw [raise_of_off (hsev.trans hv)]
      refine ⟨?_, fun r hne => rg_faultCounted d n hne, hring⟩
      rw [srcOf_srcPut_self, faultCounted_counted]
      rfl
    case busy =>
      have hs' : (srcOf (faultCounted d n) n.toNat).st ≠ .idle := by rwa [hst]
      rw [raise_of_busy (by omega) hs', srcRaised_of_busy (by omega) hs']
      refine ⟨?_, hring, ?_⟩
      · rw [srcOf_srcPut_self, faultCounted_counted, faultCounted_ns]
        rfl
      · exact (rg_bump_self ..).trans (by rw [hcnt])
    case note =>
      have hroom : (faultCounted d n).ref.ring.length < 4096 := by rwa [hring]
      have hidle := hst.trans hs
      rw [raise_idle_src hroom (by omega) hidle, raise_idle_count hroom (by omega) hidle, srcRaised_of_note (hsev.trans hv) hidle, hcnt,
        faultCounted_counted, faultCounted_ns]
      exact ⟨rfl, rfl⟩
    case window =>
      have hroom : (faultCounted d n).ref.ring.length < 4096 := by rwa [hring]
      have hidle := hst.trans hs
      have hn := n.isLt
      obtain ⟨hlen, hnum, hev, hval⟩ := refRecord_shows (raiseOpened (faultCounted d n) n.toNat) (n := n.toNat) (ev := 0) (by omega) (by decide)
      rw [sev_raiseOpened, hsev] at hval
      rw [raise_idle_src hroom (by omega) hidle, raise_idle_count hroom (by omega) hidle, raise_idle_ring hroom (by omega) hidle,
        srcRaised_of_window (by omega) (by omega) hidle, hsev, hcnt, hring, faultCounted_counted, faultCounted_ns, faultCounted_window d n h4]
      exact ⟨rfl, rfl, _, rfl, hlen, hnum, hev, hval⟩
    case others =>
      rw [raise_of_room _ (by rwa [hring]), raise1_src, srcOf_srcPut_ne _ _ hm, hsrc]
  case windows =>
    intro d c span hist ha
    rw [exec_refWindowEnd, exec_refQuietExpire]
    refine ⟨fun hs hu => ?ends, fun hs hq => ?quiet⟩
    case ends =>
      have hend := windowEnd_of_due hs hu
      refine ⟨fun h => act_of_eq ha (hend.trans (if_neg (Bool.eq_false_iff.mp h))), fun h => ?_⟩
      have hact : ∀ v, c.sev = v → windowEnd d n.toNat = severityAction (actionNoted d n.toNat) n.toNat v := fun v hv => hv ▸ hend.trans (if_pos h)
      refine ⟨fun hv => act_of_eq ha (hact 1 hv), fun hv => ?_, fun hv => act_of_eq ha (hact 4 hv), fun hv hn => ?_⟩
      · rcases hv with hv | ⟨hv, hn⟩
        · exact act_of_eq ha (hact 2 hv)
        · exact act_of_eq ha ((hact 3 hv).trans (severityAction_three_of_none _ hn))
      · exact ⟨_, act_of_eq ha ((hact 3 hv).trans (severityAction_three_of_link _ hn)), linkFenced_shows ..⟩
    case quiet =>
      have hquiet := refQuiet_of_quiet hs hq
      refine ⟨fun hn hf => act_of_eq ha (hquiet.trans ((if_neg (Nat.not_le.mpr hn)).trans ?_)), fun hn => act_of_eq ha (hquiet.trans (if_pos hn))⟩
      rw [srcLeave_of_unfenced]
      · rfl
      · exact hf

end Sys2Proof.Machine
end

section
/-! PROOFS. The PCI Express function and the reference clocks (R541, R566, R567, R570). -/

namespace Sys2Proof.Machine

/-! ## Frames for the host that are dropped (R498) -/

/-- The registers that a dropped frame touches. -/
abbrev DropReg (a : Nat) : Prop := RefReg a ∨ a = Reg.CMD_RX_DROP_CNT ∨ a = Reg.MEM_EXTRA_FREE_CNT

/-- What a dropped frame leaves beside the registers. -/
def dropPart (d : Dev) : Bus × Traffic × Commands × Sequencer × Sitonel × Package × List LogEnt := (d.bus, d.tm, d.cmd, d.seq, d.sit, d.pkg, d.log)

/-- Between two devices only what a dropped frame touches may differ. -/
structure DropKept (d e : Dev) : Prop where
  part : dropPart e = dropPart d
  reg : ∀ a, ¬DropReg a → rg e a = rg d a

theorem DropKept.refl (d : Dev) : DropKept d d := ⟨rfl, fun _ _ => rfl⟩

theorem DropKept.trans {d e f : Dev} (h : DropKept d e) (g : DropKept e f) : DropKept d f :=
  ⟨g.part.trans h.part, fun a ha => (g.reg a ha).trans (h.reg a ha)⟩

theorem DropKept.foldl {α : Type} (l : List α) {f : Dev → α → Dev} (d : Dev) (h : ∀ e x, DropKept e (f e x)) : DropKept d (l.foldl f d) :=
  List.foldlRecOn (motive := DropKept d) l f (.refl d) fun e he x _ => he.trans (h e x)

theorem dropPart_rgPut (d : Dev) (a v : Nat) : dropPart (rgPut d a v) = dropPart d := rfl

theorem dropKept_bump (d : Dev) {a : Nat} (h : DropReg a) : DropKept d (bump d a) :=
  ⟨dropPart_rgPut .., fun _ hb => rg_bump_ne _ _ fun he => hb (he ▸ h)⟩

theorem dropKept_raise (d : Dev) (n : Nat) : DropKept d (raise d n) := by
  refine ⟨?_, fun a ha => rg_raise_ne (fun h => ha (.inl h)) d n⟩
  unfold dropPart
  rw [raise_bus, raise_tm, raise_cmd, raise_seq, raise_sit, raise_pkg, raise_log]

theorem dropKept_hostDrop (d : Dev) : DropKept d (hostDrop d) := by
  have hcount : DropKept d (bump d Reg.CMD_RX_DROP_CNT) := dropKept_bump d (.inr (.inl rfl))
  unfold hostDrop raiseOnce
  split
  · exact hcount
  · refine (hcount.trans ?_).trans (dropKept_raise _ 969)
    exact ⟨rfl, fun _ _ => rfl⟩

theorem dropKept_poolFreeGrans (d : Dev) (c st n : Nat) : DropKept d (poolFreeGrans d c st n) := by
  unfold poolFreeGrans
  dsimp only
  split
  · exact ⟨rfl, fun _ _ => rfl⟩
  · refine DropKept.trans ?_ ⟨dropPart_rgPut .., fun _ hb => rg_bump_ne _ _ fun he => hb (he ▸ .inr (.inr rfl))⟩
    exact ⟨rfl, fun _ _ => rfl⟩

theorem pkgPut_regs (d : Dev) (p : Package) : (pkgPut d p).regs = d.regs := rfl

/-- The device with nothing waiting for the host. -/
def rxEmptied (d : Dev) : Dev := { d with cmd := { d.cmd with rxWait := [] } }

theorem rxOff_kept (d : Dev) : DropKept (rxEmptied d) (rxOff d) :=
  DropKept.foldl _ _ fun e _ => (dropKept_poolFreeGrans e ..).trans (dropKept_hostDrop _)

section
variable {d e : Dev} (h : DropKept d e)
include h

theorem DropKept.bus : e.bus = d.bus := congrArg (·.1) h.part
theorem DropKept.tm : e.tm = d.tm := congrArg (·.2.1) h.part
theorem DropKept.cmd : e.cmd = d.cmd := congrArg (·.2.2.1) h.part
theorem DropKept.seq : e.seq = d.seq := congrArg (·.2.2.2.1) h.part
theorem DropKept.sit : e.sit = d.sit := congrArg (·.2.2.2.2.1) h.part
theorem DropKept.pkg : e.pkg = d.pkg := congrArg (·.2.2.2.2.2.1) h.part
theorem DropKept.log : e.log = d.log := congrArg (·.2.2.2.2.2.2) h.part
theorem DropKept.fbit {a : Nat} (ha : ¬DropReg a) (f : Nat × Nat) : fbit e a f = fbit d a f := by rw [Machine.fbit, h.reg a ha, Machine.fbit]

end

theorem rxEmptied_regs (d : Dev) : (rxEmptied d).regs = d.regs := rfl

theorem fbit_rxOff (d : Dev) {a : Nat} (ha : ¬DropReg a) (f : Nat × Nat) : fbit (rxOff d) a f = fbit d a f :=
  ((rxOff_kept d).fbit ha f).trans (fbit_congr (rxEmptied_regs d) a f)

/-! ## Function Level Reset (R541) -/

/-- The latches that are Sitonel's. -/
def mgmtLatches (l : List (Nat × Option Nat)) : List (Nat × Option Nat) := l.filter fun e => e.1 % 2 ≠ 0

theorem tget_mgmtLatches_host (l : List (Nat × Option Nat)) (a : Nat) : tget none (mgmtLatches l) (busKey .host a) = none := by
  have hkey : busKey .host a % 2 = 0 := by
    unfold busKey isMgmt
    simp
  unfold mgmtLatches
  rw [tget_filter_key none (fun k => decide (k % 2 ≠ 0)), if_neg (by simp [hkey])]

theorem tget_mgmtLatches_mgmt (l : List (Nat × Option Nat)) (a : Nat) : tget none (mgmtLatches l) (busKey .mgmt a) = tget none l (busKey .mgmt a) := by
  have hkey : busKey .mgmt a % 2 = 1 := by
    unfold busKey isMgmt
    simp [Nat.add_mod]
  unfold mgmtLatches
  rw [tget_filter_key none (fun k => decide (k % 2 ≠ 0)), if_pos (by simp [hkey])]

/-- The device without the host's latches and frames in the submit window. -/
def hostForgot (d : Dev) : Dev := { d with bus := { d.bus with latch := mgmtLatches d.bus.latch }, cmd := { d.cmd with slots := [], subQ := [] } }

/-- The host's unlock of every block is taken back. -/
def hostLocked (d : Dev) : Dev := blkBases.foldl (fun d b => fset d (Reg.BLK_STATUS b) Fd.BLK_STATUS_unlocked_host 0) d

/-- The same with the receive path off. -/
def hostShut (d : Dev) : Dev := fset (hostLocked (hostForgot d)) Reg.CMD_CTRL Fd.CMD_CTRL_rx_en 0

theorem flr_eq (d : Dev) : flr d = rxOff (hostShut d) := rfl

/-- A bit that is cleared in every register of a list reads 0 there. -/
theorem fbit_foldl_cleared {f : Nat × Nat} (hf : f.1 = f.2) (h32 : f.2 < 32) (g : Nat → Nat) (l : List Nat) (d : Dev) {a : Nat}
    (h : fbit d a f = false ∨ ∃ b ∈ l, g b = a) : fbit (l.foldl (fun d b => fset d (g b) f 0) d) a f = false := by
  induction l generalizing d with
  | nil =>
    rcases h with h | ⟨b, hb, -⟩
    · exact h
    · cases hb
  | cons b l ih =>
    refine ih _ ?_
    by_cases hab : a = g b
    · subst hab
      exact .inl (fbit_fset_self _ _ 0 hf h32)
    · rcases h with h | ⟨x, hx, rfl⟩
      · exact .inl ((fbit_fset_ne _ _ _ _ hab).trans h)
      · rcases List.mem_cons.mp hx with rfl | hx
        · exact absurd rfl hab
        · exact .inr ⟨x, hx, rfl⟩

theorem hostLocked_onlyRegs (d : Dev) : OnlyRegs (blkBases.map Reg.BLK_STATUS) d (hostLocked d) := by
  refine List.foldlRecOn (motive := OnlyRegs (blkBases.map Reg.BLK_STATUS) d) _ _ ⟨rfl, fun _ _ => rfl⟩ fun e he b hb => ?_
  exact he.trans ((fset_onlyRegs ..).mono (List.cons_subset.mpr ⟨List.mem_map_of_mem hb, List.nil_subset _⟩))

theorem blkBases_apart : ∀ b ∈ blkBases, Reg.BLK_STATUS b ≠ Reg.CMD_CTRL ∧ ¬DropReg (Reg.BLK_STATUS b) := by decide

/-- What a Function Level Reset leaves, but for the frames that wait for the host. -/
structure HostShut (d e : Dev) : Prop where
  rxEn : fbit e Reg.CMD_CTRL Fd.CMD_CTRL_rx_en = false
  slots : e.cmd.slots = []
  subQ : e.cmd.subQ = []
  latch : e.bus.latch = mgmtLatches d.bus.latch
  unlocked : ∀ b ∈ blkBases, fbit e (Reg.BLK_STATUS b) Fd.BLK_STATUS_unlocked_host = false
  tm : e.tm = d.tm
  seq : e.seq = d.seq
  sit : e.sit = d.sit
  log : e.log = d.log

/-- What a Function Level Reset leaves. -/
structure FunctionReset (d e : Dev) : Prop extends HostShut d e where
  rxWait : e.cmd.rxWait = []

theorem hostShut_field (d : Dev) {α : Type} (g : Dev → α) (hg : RegFree g) : g (hostShut d) = g (hostForgot d) :=
  ((fset_onlyRegs ..).congr g hg).trans ((hostLocked_onlyRegs (hostForgot d)).congr g hg)

theorem hostShut_rxEn (d : Dev) : fbit (hostShut d) Reg.CMD_CTRL Fd.CMD_CTRL_rx_en = false := by
  unfold hostShut
  generalize hostLocked (hostForgot d) = e
  exact fbit_fset_self e _ 0 rfl (by decide)

theorem hostShut_unlocked (d : Dev) {b : Nat} (hb : b ∈ blkBases) : fbit (hostShut d) (Reg.BLK_STATUS b) Fd.BLK_STATUS_unlocked_host = false :=
  (fbit_fset_ne _ _ _ _ (blkBases_apart b hb).1).trans (fbit_foldl_cleared rfl (by decide) Reg.BLK_STATUS blkBases (hostForgot d) (.inr ⟨b, hb, rfl⟩))

theorem hostShut_shut (d : Dev) : HostShut d (hostShut d) where
  rxEn := hostShut_rxEn d
  slots := hostShut_field d (·.cmd.slots) fun _ _ => rfl
  subQ := hostShut_field d (·.cmd.subQ) fun _ _ => rfl
  latch := hostShut_field d (·.bus.latch) fun _ _ => rfl
  unlocked _ hb := hostShut_unlocked d hb
  tm := hostShut_field d (·.tm) fun _ _ => rfl
  seq := hostShut_field d (·.seq) fun _ _ => rfl
  sit := hostShut_field d (·.sit) fun _ _ => rfl
  log := hostShut_field d (·.log) fun _ _ => rfl

theorem HostShut.rxOff {d e : Dev} (h : HostShut d e) : FunctionReset d (rxOff e) where
  rxEn := (fbit_rxOff e (by decide) _).trans h.rxEn
  slots := (congrArg (·.slots) (rxOff_kept e).cmd).trans h.slots
  subQ := (congrArg (·.subQ) (rxOff_kept e).cmd).trans h.subQ
  rxWait := congrArg (·.rxWait) (rxOff_kept e).cmd
  latch := (congrArg (·.latch) (rxOff_kept e).bus).trans h.latch
  unlocked b hb := (fbit_rxOff e (blkBases_apart b hb).2 _).trans (h.unlocked b hb)
  tm := (rxOff_kept e).tm.trans h.tm
  seq := (rxOff_kept e).seq.trans h.seq
  sit := (rxOff_kept e).sit.trans h.sit
  log := (rxOff_kept e).log.trans h.log

theorem flr_reset (d : Dev) : FunctionReset d (flr d) := flr_eq d ▸ (hostShut_shut d).rxOff

theorem hostShut_pkg (d : Dev) : (hostShut d).pkg = d.pkg := hostShut_field d (·.pkg) fun _ _ => rfl
theorem rxOff_pkg (d : Dev) : (rxOff d).pkg = d.pkg := (rxOff_kept d).pkg
theorem flr_pkg (d : Dev) : (flr d).pkg = d.pkg := by rw [flr_eq, rxOff_pkg, hostShut_pkg]

theorem FunctionReset.pkgPut {d e : Dev} (h : FunctionReset d e) (p : Package) : FunctionReset d (pkgPut e p) :=
  ⟨⟨h.rxEn, h.slots, h.subQ, h.latch, h.unlocked, h.tm, h.seq, h.sit, h.log⟩, h.rxWait⟩

/-- PCIE_PERST_N resets the function, and the link retrains (R567). -/
theorem perst_eq (d : Dev) : perst d = pkgPut (flr d) { (flr d).pkg with pcieUp := false, busM := false } := rfl

/-- The device without what waits for the host, its package in another state. -/
theorem rxOff_pkgPut (d : Dev) (p : Package) : (rxOff (pkgPut d p)).pkg = p ∧ (rxOff (pkgPut d p)).cmd = { d.cmd with rxWait := [] } :=
  ⟨(rxOff_kept _).pkg, (rxOff_kept _).cmd⟩

/-- The device whose PCI Express link is down, with nothing waiting for the host. -/
def hostDown (d : Dev) : Dev := rxOff (pkgPut d { d.pkg with pcieUp := false })

theorem pcieDown_eq (d : Dev) : pcieDown d = raise (hostDown d) 985 := rfl
theorem hostDown_pkg (d : Dev) : (hostDown d).pkg = { d.pkg with pcieUp := false } := (rxOff_pkgPut d _).1
theorem fbit_hostDown (d : Dev) {a : Nat} (ha : ¬DropReg a) (f : Nat × Nat) : fbit (hostDown d) a f = fbit d a f :=
  (fbit_rxOff _ ha f).trans (fbit_congr (pkgPut_regs ..) a f)

theorem exec_functionLevelReset (s : State) : exec .functionLevelReset s = act flr s := rfl
theorem exec_pciePerst (s : State) : exec .pciePerst s = act perst s := rfl
theorem exec_pcieLinkUp (s : State) : exec .pcieLinkUp s = act pcieUp s := rfl
theorem exec_pcieLinkDown (s : State) : exec .pcieLinkDown s = act pcieDown s := rfl
theorem exec_busMasteringChange (on : Bool) (s : State) : exec (.busMasteringChange on) s = act (fun d => busMaster d on) s := rfl
theorem exec_refclkLoss (i : Fin 10) (s : State) : exec (.refclkLoss i) s = .next (s.after (refclkLoss s.dev i.val)) := rfl
theorem exec_refclkReturn (i : Fin 10) (s : State) : exec (.refclkReturn i) s = .next (s.after (refclkReturn s.dev i.val)) := rfl
theorem exec_thermtrip (t : BitVec 32) (s : State) : exec (.thermtrip t) s = .next (s.after (thermtrip s.dev t.toInt)) := rfl

/-! ## Reference clocks (R565, R566) -/

/-- The device that shows the clock of lane input i as lost. -/
def laneRefLost (d : Dev) (i : Nat) : Dev :=
  fset (refLost d i true) Reg.CLK_STATUS Fd.CLK_STATUS_lane_ref_lost (fget (refLost d i true) Reg.CLK_STATUS Fd.CLK_STATUS_lane_ref_lost ||| 2 ^ i)

/-- A link that loses its clock leaves service, or starts bring-up again. -/
def refLink (d : Dev) (l : Nat) : Dev := if linkCarries d l then lockLost d l else if 1 ≤ linkStep d l ∧ linkStep d l ≤ 8 then linkRestart d l else d

/-- The links of lane input i, after its loss. -/
def laneLinks (d : Dev) (i : Nat) : Dev := (List.range 16).foldl (fun d j => refLink d (16 * i + j)) (laneRefLost d i)

/-- The device that shows the clock of PCI Express as lost. -/
def pcieRefLost (d : Dev) : Dev := fset d Reg.CLK_STATUS Fd.CLK_STATUS_pcie_ref_lost 1

/-- The device that shows the management clock as lost, and runs on the oscillator. -/
def mgmtRefLost (d : Dev) : Dev := fset (fset d Reg.CLK_STATUS Fd.CLK_STATUS_mgmt_ref_lost 1) Reg.CLK_STATUS Fd.CLK_STATUS_mgmt_on_osc 1

theorem refclkLoss_eq (d : Dev) (i : Nat) : refclkLoss d i = if i = 9 then mgmtRefLost (refLost d i true)
    else if i = 8 then pcieDown (pcieRefLost (refLost d i true))
    else if i = 0 then haltAction (laneLinks d i) else laneLinks d i := by
  unfold refclkLoss
  rfl

theorem refclkLoss_of_lane (d : Dev) {i : Nat} (h : i < 8) : refclkLoss d i = if i = 0 then haltAction (laneLinks d i) else laneLinks d i := by
  rw [refclkLoss_eq, if_neg (by omega), if_neg (by omega)]

theorem refLink_left (d : Dev) (l : Nat) : LinkLeft l d (refLink d l) ∧ linkCarries (refLink d l) l = false := by
  unfold refLink
  split
  · next h =>
    rw [lockLost_of_carries h]
    exact ⟨(linkFault_left ..).trans (linkRestart_left ..), linkCarries_linkRestart ..⟩
  · next h =>
    split
    · exact ⟨linkRestart_left .., linkCarries_linkRestart ..⟩
    · exact ⟨.refl l d, Bool.eq_false_iff.mpr h⟩

/-- What the first n links of an input leave behind that lost their clock. -/
structure LanesDown (i n : Nat) (d e : Dev) : Prop where
  pkg : e.pkg = d.pkg
  clocks : rg e Reg.CLK_STATUS = rg d Reg.CLK_STATUS
  down : ∀ j, j < n → linkCarries e (16 * i + j) = false

theorem not_stopReg_clk (l : Nat) : ¬StopReg l Reg.CLK_STATUS := by
  unfold StopReg Reg.CLK_STATUS Reg.LINK_STATUS Reg.LINK_FAULT
  omega

theorem lanesDown_of_input (d : Dev) {i n : Nat} (hi : i < 8) (hn : n ≤ 16) :
    LanesDown i n d ((List.range n).foldl (fun d j => refLink d (16 * i + j)) d) := by
  induction n with
  | zero => exact ⟨rfl, rfl, fun _ hj => absurd hj (Nat.not_lt_zero _)⟩
  | succ n ih =>
    rw [List.range_succ, List.foldl_append, List.foldl_cons, List.foldl_nil]
    have hprev := ih (by omega)
    generalize (List.range n).foldl (fun d j => refLink d (16 * i + j)) d = e at hprev
    obtain ⟨hleft, hself⟩ := refLink_left e (16 * i + n)
    refine ⟨hleft.pkg.trans hprev.pkg, (hleft.reg _ (.inl (by decide)) (not_stopReg_clk _)).trans hprev.clocks, fun j hj => ?_⟩
    by_cases hjn : j = n
    · subst hjn
      exact hself
    · rw [linkCarries_congr (hleft.other (m := 16 * i + j) (by omega) (by omega) (by omega))]
      exact hprev.down j (by omega)

theorem lost_refLost (d : Dev) (i : Nat) (b : Bool) : tget false (refLost d i b).pkg.lost i = b := tget_tset_self ..

/-- A lane clock that is lost shows, and takes its links out of service. -/
theorem refclkLoss_lane_shows (d : Dev) {i : Nat} (hi : i < 8) :
    tget false (refclkLoss d i).pkg.lost i = true ∧ (fget (refclkLoss d i) Reg.CLK_STATUS Fd.CLK_STATUS_lane_ref_lost).testBit i = true
      ∧ (∀ j, j < 16 → linkCarries (refclkLoss d i) (16 * i + j) = false) ∧ (i = 0 → halted (refclkLoss d i) = true) := by
  have hdown : LanesDown i 16 (laneRefLost d i) (laneLinks d i) := lanesDown_of_input (laneRefLost d i) hi (Nat.le_refl 16)
  have hlost : tget false (laneRefLost d i).pkg.lost i = true := lost_refLost d i true
  have hshown : (fget (laneRefLost d i) Reg.CLK_STATUS Fd.CLK_STATUS_lane_ref_lost).testBit i = true := by
    unfold laneRefLost
    generalize refLost d i true = e
    rw [fget_fset_self _ _ _ _ (by decide) (by decide)]
    exact (testBit_mod_of_lt _ hi).trans (by simp)
  rw [refclkLoss_of_lane d hi]
  generalize laneLinks d i = e at hdown
  have hclk : fget e Reg.CLK_STATUS Fd.CLK_STATUS_lane_ref_lost = fget (laneRefLost d i) Reg.CLK_STATUS Fd.CLK_STATUS_lane_ref_lost := by
    rw [fget, hdown.clocks, fget]
  split
  · have hne : Reg.CLK_STATUS ≠ Reg.REF_STATUS := by decide
    have hstep (j : Nat) : linkStep (haltAction e) (16 * i + j) = linkStep e (16 * i + j) := fget_fset_ne _ _ _ _ (refStatus_not_link _).1.symm
    refine ⟨?_, ?_, fun j hj => ?_, fun _ => fbit_fset_self _ _ 1 rfl (by decide)⟩
    · rw [haltAction, fset_pkg, hdown.pkg, hlost]
    · rw [haltAction, fget_fset_ne _ _ _ _ hne, hclk, hshown]
    · rw [linkCarries_congr (hstep j), hdown.down j hj]
  · next h0 => exact ⟨by rw [hdown.pkg, hlost], by rw [hclk, hshown], hdown.down, fun h => absurd h h0⟩

/-- The clock of PCI Express that is lost shows, and takes the link down. -/
theorem refclkLoss_pcie_shows (d : Dev) : tget false (refclkLoss d 8).pkg.lost 8 = true
    ∧ fbit (refclkLoss d 8) Reg.CLK_STATUS Fd.CLK_STATUS_pcie_ref_lost = true ∧ (refclkLoss d 8).pkg.pcieUp = false := by
  have hlost := lost_refLost d 8 true
  rw [refclkLoss_eq, if_neg (by decide), if_pos rfl]
  generalize refLost d 8 true = e at hlost
  have hshown : fbit (pcieRefLost e) Reg.CLK_STATUS Fd.CLK_STATUS_pcie_ref_lost = true := fbit_fset_self _ _ 1 rfl (by decide)
  have hpkg : (pcieRefLost e).pkg = e.pkg := fset_pkg ..
  rw [pcieDown_eq, raise_pkg, (dropKept_raise _ _).fbit (by decide), hostDown_pkg, fbit_hostDown _ (by decide), hpkg]
  exact ⟨hlost, hshown, rfl⟩

theorem refclkLoss_mgmt_shows (d : Dev) : tget false (refclkLoss d 9).pkg.lost 9 = true
    ∧ fbit (refclkLoss d 9) Reg.CLK_STATUS Fd.CLK_STATUS_mgmt_ref_lost = true ∧ fbit (refclkLoss d 9) Reg.CLK_STATUS Fd.CLK_STATUS_mgmt_on_osc = true := by
  have hlost := lost_refLost d 9 true
  rw [refclkLoss_eq, if_pos rfl]
  generalize refLost d 9 true = e at hlost
  have href : fbit (mgmtRefLost e) Reg.CLK_STATUS Fd.CLK_STATUS_mgmt_ref_lost = true :=
    (fbit_fset_apart _ _ _ _ (by decide)).trans (fbit_fset_self _ _ 1 rfl (by decide))
  have hosc : fbit (mgmtRefLost e) Reg.CLK_STATUS Fd.CLK_STATUS_mgmt_on_osc = true := fbit_fset_self _ _ 1 rfl (by decide)
  exact ⟨hlost, href, hosc⟩

/-! ## A clock that returns (R566) -/

/-- The word that a write of LINK_CTRL stores: what R412 and R413 refuse keeps its value, and sets err. -/
def ctrlWord (d : Dev) (l new : Nat) : Nat :=
  let old := rg d (Reg.LINK_CTRL l)
  let badLoop := decide (bits new 27 25 ≥ 4)
  let badMode := decide (l < 96 ∧ (bits new 19 19 = 1 ∨ bits new 17 17 = 1))
  let badPrbs := linkCarries d l && decide (bits new 24 24 ≠ bits old 24 24)
  let w := if badLoop then putBits new 27 25 (bits old 27 25) else new
  let w := if badMode then putBits (putBits w 19 19 0) 17 17 0 else w
  let w := if badPrbs then putBits w 24 24 (bits old 24 24) else w
  if badLoop || badMode || badPrbs then putBits w 18 18 1 else w

/-- The device with the word stored and, for a retrain, counted and its fence lifted. -/
def ctrlStored (d : Dev) (l new v : Nat) : Dev :=
  let e := rgPut d (Reg.LINK_CTRL l) (ctrlWord d l new)
  if bit v 29 then
    dynMod (fset (bump e (Reg.LINK_RETRAIN_CNT l)) (Reg.LINK_STATUS l) Fd.LINK_STATUS_tries_used 0) l (fun x => { x with fenced := false })
  else e

theorem linkCtrlWrite_eq (d : Dev) (l new v : Nat) : linkCtrlWrite d l new v =
    if bits (ctrlWord d l new) 27 25 ≠ 0 then
      (if bits (rg d (Reg.LINK_CTRL l)) 27 25 = 0 ∨ bit v 29 then linkStop (ctrlStored d l new v) l 11 else ctrlStored d l new v)
    else if !bit (ctrlWord d l new) 31 then (if linkStep (ctrlStored d l new v) l = 0 then ctrlStored d l new v else linkStop (ctrlStored d l new v) l 0)
    else if bit v 29 ∨ bits (rg d (Reg.LINK_CTRL l)) 27 25 ≠ 0 ∨ (!bit (rg d (Reg.LINK_CTRL l)) 31 ∧ linkStep (ctrlStored d l new v) l = 0) then
      linkRestart (ctrlStored d l new v) l
    else ctrlStored d l new v := rfl

/-- Once the word is stored, the link stays, stops or starts again. -/
theorem linkCtrlWrite_left (d : Dev) (l new v : Nat) : LinkLeft l (ctrlStored d l new v) (linkCtrlWrite d l new v) := by
  rw [linkCtrlWrite_eq]
  generalize ctrlStored d l new v = e
  split
  · split
    · exact linkStop_left e l (by decide) (by decide)
    · exact .refl l e
  · split
    · split
      · exact .refl l e
      · exact linkStop_left e l (by decide) (by decide)
    · split
      · exact linkRestart_left e l
      · exact .refl l e

theorem ctrlStored_pkg (d : Dev) (l new v : Nat) : (ctrlStored d l new v).pkg = d.pkg := by
  unfold ctrlStored
  dsimp only
  split
  · rw [dynMod_pkg, fset_pkg, bump_pkg, rgPut_pkg]
  · rw [rgPut_pkg]

theorem linkRetrain_pkg (d : Dev) (l : Nat) : (linkRetrain d l).pkg = d.pkg := (linkCtrlWrite_left ..).pkg.trans (ctrlStored_pkg ..)

/-- The links of lane input i that are enabled retrain. -/
def laneRetrained (d : Dev) (i : Nat) : Dev :=
  (List.range 16).foldl (fun d j => if linkCtl d (16 * i + j) Fd.LINK_CTRL_en then linkRetrain d (16 * i + j) else d) d

theorem laneRetrained_pkg (d : Dev) (i : Nat) : (laneRetrained d i).pkg = d.pkg := by
  refine List.foldlRecOn (motive := fun e : Dev => e.pkg = d.pkg) _ _ rfl fun e he j _ => ?_
  split
  · exact (linkRetrain_pkg ..).trans he
  · exact he

theorem refclkReturn_of_kept {d : Dev} {i : Nat} (h : tget false d.pkg.lost i = false) : refclkReturn d i = d := by
  simp only [refclkReturn, h, Bool.not_false, ↓reduceIte]

theorem refclkReturn_of_lost {d : Dev} {i : Nat} (h : tget false d.pkg.lost i = true) : refclkReturn d i =
    if i = 9 then fset (refLost d i false) Reg.CLK_STATUS Fd.CLK_STATUS_mgmt_on_osc 0
    else if i = 8 then refLost d i false else laneRetrained (refLost d i false) i := by
  simp only [refclkReturn, h, Bool.not_true, Bool.false_eq_true, ↓reduceIte]
  rfl

theorem refclkReturn_lost (d : Dev) (i : Nat) : tget false (refclkReturn d i).pkg.lost i = false := by
  cases h : tget false d.pkg.lost i with
  | false => rw [refclkReturn_of_kept h, h]
  | true =>
    have hback := lost_refLost d i false
    rw [refclkReturn_of_lost h]
    generalize refLost d i false = e at hback
    split
    · rw [fset_pkg, hback]
    · split
      · exact hback
      · rw [laneRetrained_pkg, hback]

/-- The management clock that returns ends the use of the oscillator. -/
theorem refclkReturn_mgmt {d : Dev} (h : tget false d.pkg.lost 9 = true) :
    fbit (refclkReturn d 9) Reg.CLK_STATUS Fd.CLK_STATUS_mgmt_on_osc = false := by
  rw [refclkReturn_of_lost h, if_pos rfl]
  exact fbit_fset_self _ _ 0 rfl (by decide)

/-- Settles O58: by what a reset of the function leaves, and by the clocks one after another. -/
theorem theFunctionAndTheClocks : Obligations.TheFunctionAndTheClocks := by
  unfold Obligations.TheFunctionAndTheClocks
  intro s d flrd
  have hflrd {e : Dev} (h : FunctionReset d e) : flrd e :=
    ⟨h.rxEn, h.slots, h.subQ, h.rxWait, fun a => by rw [h.latch, tget_mgmtLatches_host], fun a => by rw [h.latch, tget_mgmtLatches_mgmt], h.unlocked,
      h.seq, h.sit, h.tm, h.log⟩
  refine ⟨fun ha => ⟨?_, ?_, ?_, ?_, ?_, ?_⟩, fun i => ?_, fun i => ?_, fun t => ?_⟩
  · rw [exec_functionLevelReset]
    exact ⟨_, act_of_eq ha rfl, hflrd (flr_reset d), flr_pkg d⟩
  · rw [exec_pciePerst]
    exact ⟨_, act_of_eq ha (perst_eq d), hflrd ((flr_reset d).pkgPut _), by rw [pkgPut_pkg, flr_pkg]⟩
  · rw [exec_pcieLinkUp]
    exact act_of_eq ha rfl
  · rw [exec_pcieLinkDown]
    exact ⟨_, act_of_eq ha (pcieDown_eq d), rxOff_pkgPut ..⟩
  · rw [exec_busMasteringChange]
    exact act_of_eq ha rfl
  · rw [exec_busMasteringChange]
    have hoff : busMaster d false = rxOff (pkgPut d { d.pkg with busM := false }) := rfl
    exact ⟨_, act_of_eq ha hoff, rxOff_pkgPut ..⟩
  · have hi := i.isLt
    refine ⟨refclkLoss d i.val, exec_refclkLoss i s, ?_⟩
    by_cases h8 : i.val < 8
    · obtain ⟨hlost, hshown, hdown, hhalt⟩ := refclkLoss_lane_shows d h8
      exact ⟨hlost, fun h => absurd h (by omega), fun h => absurd h (by omega), fun _ => ⟨hshown, hdown⟩, hhalt⟩
    · by_cases h9 : i.val = 9
      · obtain ⟨hlost, hshown, hosc⟩ := refclkLoss_mgmt_shows d
        rw [h9]
        exact ⟨hlost, fun _ => ⟨hshown, hosc⟩, fun h => absurd h (by decide), fun h => absurd h (by decide), fun h => absurd h (by decide)⟩
      · obtain ⟨hlost, hshown, hup⟩ := refclkLoss_pcie_shows d
        rw [show i.val = 8 by omega]
        exact ⟨hlost, fun h => absurd h (by decide), fun _ => ⟨hshown, hup⟩, fun h => absurd h (by decide), fun h => absurd h (by decide)⟩
  · refine ⟨refclkReturn d i.val, exec_refclkReturn i s, refclkReturn_lost d i.val, fun h9 hl => ?_, refclkReturn_of_kept⟩
    rw [h9]
    exact refclkReturn_mgmt hl
  · rw [exec_thermtrip]
    rfl

end Sys2Proof.Machine
end

section
/-! PROOFS. Sitonel's own state and registers (R534 to R538): what an entry of its event log, the lights, a retrain and the end of its long commands
leave. -/

namespace Sys2Proof.Machine

/-! ## Sitonel beside its event log -/

/-- Sitonel's state without its event log. -/
def sitRest (d : Dev) : Sitonel := { d.sit with events := [], evNext := 0, evOver := none }

/-- The registers of Sitonel's block, but for the counter of overwritten events. -/
abbrev SitReg (a : Nat) : Prop := 0x004000 ≤ a ∧ a < 0x008000 ∧ a ≠ Reg.SIT_EVT_OVERWRITE_CNT

/-- Between two devices Sitonel's registers and its state beside the event log are the same. -/
structure SitKept (d e : Dev) : Prop where
  rest : sitRest e = sitRest d
  reg : ∀ a, SitReg a → rg e a = rg d a

namespace SitKept

theorem refl (d : Dev) : SitKept d d := ⟨rfl, fun _ _ => rfl⟩

theorem trans {d e f : Dev} (h : SitKept d e) (g : SitKept e f) : SitKept d f := ⟨g.rest.trans h.rest, fun a ha => (g.reg a ha).trans (h.reg a ha)⟩

theorem of_outer {d e : Dev} (h : OuterKept d e) : SitKept d e :=
  ⟨by rw [sitRest, h.sit, sitRest], fun a ha => h.reg a (.inl (by unfold SitReg at ha; omega))⟩

theorem of_inner {d e : Dev} (hs : sitRest e = sitRest d) (hr : e.regs = d.regs) : SitKept d e := ⟨hs, fun a _ => rg_congr hr a⟩

theorem foldl {α : Type} (l : List α) {f : Dev → α → Dev} (d : Dev) (h : ∀ e x, SitKept e (f e x)) : SitKept d (l.foldl f d) :=
  List.foldlRecOn (motive := SitKept d) l f (refl d) fun e he x _ => he.trans (h e x)

theorem rgPut (d : Dev) {a : Nat} (v : Nat) (h : ¬SitReg a) : SitKept d (rgPut d a v) :=
  ⟨rfl, fun _ hb => rg_rgPut_ne d v fun he => h (he ▸ hb)⟩

theorem fset (d : Dev) {a : Nat} (f : Nat × Nat) (v : Nat) (h : ¬SitReg a) : SitKept d (fset d a f v) := rgPut d _ h
theorem bump (d : Dev) {a : Nat} (k : Nat) (h : ¬SitReg a) : SitKept d (bump d a k) := rgPut d _ h

theorem of_left {l : Nat} {d e : Dev} (h : LinkLeft l d e) : SitKept d e := by
  refine ⟨by rw [sitRest, h.sit, sitRest], fun a ha => h.reg a (.inl (by unfold SitReg at ha; omega)) ?_⟩
  unfold SitReg at ha
  unfold StopReg Reg.LINK_STATUS Reg.LINK_FAULT
  omega

section
variable {d e : Dev} (h : SitKept d e)
include h

theorem fget {a : Nat} (ha : SitReg a) (f : Nat × Nat) : fget e a f = fget d a f := by rw [Machine.fget, h.reg a ha, Machine.fget]
theorem fbit {a : Nat} (ha : SitReg a) (f : Nat × Nat) : fbit e a f = fbit d a f := by rw [Machine.fbit, h.reg a ha, Machine.fbit]

theorem runningSlot : runningSlot e = runningSlot d := h.fget (by decide) _
theorem confirmedSlot : confirmedSlot e = confirmedSlot d := h.fget (by decide) _
theorem draining : draining e = draining d := h.fbit (by decide) _
theorem restart : e.sit.restart = d.sit.restart := congrArg (·.restart) h.rest
theorem trial : e.sit.trial = d.sit.trial := congrArg (·.trial) h.rest
theorem batch : e.sit.batch = d.sit.batch := congrArg (·.batch) h.rest
theorem drain : e.sit.drain = d.sit.drain := congrArg (·.drain) h.rest
theorem handler : e.sit.handler = d.sit.handler := congrArg (·.handler) h.rest
theorem locate : e.sit.locate = d.sit.locate := congrArg (·.locate) h.rest

end

end SitKept

/-! ## An entry of the event log (R536) -/

/-- The record of an event. -/
def eventRecord (d : Dev) (cls kind : Nat) (what : List Nat) (data : Option (List Byte)) : List Byte :=
  let body := match data with
    | some b => (padMin 42 b).take 42
    | none => (List.range 42).map (Config.eventData cls kind what d.sit.evNext)
  let r := timeBytes d ++ beBytes 4 d.sit.evNext ++ beBytes 1 cls ++ [0] ++ beBytes 2 (Config.eventCode cls kind) ++ body
  r ++ beBytes 4 (crc32c r)

/-- The device with a record appended, the oldest gone where the log is full. -/
def eventAppended (d : Dev) (r : List Byte) : Dev :=
  { d with sit := { d.sit with
      events := (if decide (262144 ≤ d.sit.events.length) then d.sit.events.drop 1 else d.sit.events) ++ [r], evNext := (d.sit.evNext + 1) % 2 ^ 32 } }

/-- The device that has noted when it reported a full log. -/
def overNoted (d : Dev) : Dev := { d with sit := { d.sit with evOver := some (ns d) } }

/-- The full log is reported. -/
def overDue (d : Dev) : Bool := match d.sit.evOver with | some t => decide (t + 3600 * 10 ^ 9 ≤ ns d) | none => true

/-- A full log's record is counted, and reported at most once an hour. -/
def eventLost (e : Dev) : Dev :=
  if overDue (bump e Reg.SIT_EVT_OVERWRITE_CNT) = true then raise (overNoted (bump e Reg.SIT_EVT_OVERWRITE_CNT)) 975
  else bump e Reg.SIT_EVT_OVERWRITE_CNT

theorem event_eq (d : Dev) (cls kind : Nat) (what : List Nat) (data : Option (List Byte)) :
    event d cls kind what data = if (!decide (262144 ≤ d.sit.events.length)) = true then eventAppended d (eventRecord d cls kind what data)
      else eventLost (eventAppended d (eventRecord d cls kind what data)) := rfl

theorem event_of_room {d : Dev} (h : d.sit.events.length < 262144) (cls kind : Nat) (what : List Nat) (data : Option (List Byte)) :
    event d cls kind what data = eventAppended d (eventRecord d cls kind what data) := by
  rw [event_eq, if_pos (by simpa using h)]

theorem sitRest_eventAppended (d : Dev) (r : List Byte) : sitRest (eventAppended d r) = sitRest d := rfl
theorem eventAppended_regs (d : Dev) (r : List Byte) : (eventAppended d r).regs = d.regs := rfl
theorem sitRest_overNoted (d : Dev) : sitRest (overNoted d) = sitRest d := rfl
theorem overNoted_regs (d : Dev) : (overNoted d).regs = d.regs := rfl

theorem not_sitReg_overwriteCnt : ¬SitReg Reg.SIT_EVT_OVERWRITE_CNT := by unfold SitReg; simp

theorem SitKept.eventLost (e : Dev) : SitKept e (eventLost e) := by
  have hover : SitKept e (Machine.bump e Reg.SIT_EVT_OVERWRITE_CNT) := .bump e 1 not_sitReg_overwriteCnt
  unfold Machine.eventLost
  split
  · exact (hover.trans (.of_inner (sitRest_overNoted _) (overNoted_regs _))).trans (.of_outer (.raise ..))
  · exact hover

theorem SitKept.event (d : Dev) (cls kind : Nat) (what : List Nat) (data : Option (List Byte)) : SitKept d (event d cls kind what data) := by
  have happ (r : List Byte) : SitKept d (eventAppended d r) := .of_inner (sitRest_eventAppended d r) (eventAppended_regs d r)
  rw [event_eq]
  split
  · exact happ _
  · exact (happ _).trans (.eventLost _)

/-! ## Lights of the ports (R419) -/

/-- The registers of the lights. -/
abbrev ledRegs : List Nat := (List.range 128).map Reg.PORT_LED

/-- A field of every light takes a value. -/
def ledsSet (d : Dev) (f : Nat × Nat) (v : Nat) : Dev := (List.range 128).foldl (fun d p => fset d (Reg.PORT_LED p) f v) d

theorem ledsFault_eq (d : Dev) (v : Nat) : ledsFault d v = ledsSet d Fd.PORT_LED_fault_sw v := rfl
theorem ledsLocate_eq (d : Dev) (on : Bool) : ledsLocate d on = ledsSet d Fd.PORT_LED_locate on.toNat := rfl

theorem ledsSet_onlyRegs (d : Dev) (f : Nat × Nat) (v : Nat) : OnlyRegs ledRegs d (ledsSet d f v) := by
  refine List.foldlRecOn (motive := OnlyRegs ledRegs d) _ _ ⟨rfl, fun _ _ => rfl⟩ fun e he b hb => ?_
  exact he.trans ((fset_onlyRegs ..).mono (List.cons_subset.mpr ⟨List.mem_map_of_mem hb, List.nil_subset _⟩))

theorem portLed_inj {p q : Nat} (h : Reg.PORT_LED p = Reg.PORT_LED q) : p = q := by
  unfold Reg.PORT_LED at h
  omega

/-- Lights set one after another: each takes its value once. -/
theorem rg_foldl_led (f : Nat × Nat) (v n : Nat) (d : Dev) (q : Nat) :
    rg ((List.range n).foldl (fun d p => fset d (Reg.PORT_LED p) f v) d) (Reg.PORT_LED q)
      = if q < n then putBits (rg d (Reg.PORT_LED q)) f.1 f.2 v % 2 ^ 32 else rg d (Reg.PORT_LED q) := by
  induction n with
  | zero => rfl
  | succ n ih =>
    rw [List.range_succ, List.foldl_append, List.foldl_cons, List.foldl_nil]
    by_cases hq : q = n
    · subst hq
      rw [rg_fset_self, ih, if_neg (Nat.lt_irrefl q), if_pos (Nat.lt_succ_self q)]
    · rw [rg_fset_ne _ _ _ fun h => hq (portLed_inj h), ih]
      by_cases hlt : q < n
      · rw [if_pos hlt, if_pos (Nat.lt_succ_of_lt hlt)]
      · rw [if_neg hlt, if_neg (by omega)]

theorem rg_ledsSet (d : Dev) (f : Nat × Nat) (v : Nat) {q : Nat} (h : q < 128) :
    rg (ledsSet d f v) (Reg.PORT_LED q) = putBits (rg d (Reg.PORT_LED q)) f.1 f.2 v % 2 ^ 32 := (rg_foldl_led f v 128 d q).trans (if_pos h)

theorem sitReg_not_led {a : Nat} (h : SitReg a) : a ∉ ledRegs := by
  intro hm
  obtain ⟨p, -, rfl⟩ := List.mem_map.mp hm
  unfold SitReg Reg.PORT_LED at h
  omega

theorem SitKept.ledsSet (d : Dev) (f : Nat × Nat) (v : Nat) : SitKept d (ledsSet d f v) :=
  ⟨(ledsSet_onlyRegs d f v).congr sitRest (fun _ _ => rfl), fun a ha => (ledsSet_onlyRegs d f v).2 a (sitReg_not_led ha)⟩

/-! ## A retrain that Sitonel begins (R535) -/

theorem not_sitReg_of_link {a : Nat} (h : 0x080000 ≤ a) : ¬SitReg a := by unfold SitReg; omega

theorem SitKept.dynMod (d : Dev) (l : Nat) (f : LinkDyn → LinkDyn) : SitKept d (dynMod d l f) := .of_inner rfl rfl

theorem SitKept.ctrlStored (d : Dev) (l new v : Nat) : SitKept d (ctrlStored d l new v) := by
  have hput (w : Nat) : SitKept d (Machine.rgPut d (Reg.LINK_CTRL l) w) := .rgPut d w (not_sitReg_of_link (by unfold Reg.LINK_CTRL; omega))
  unfold Machine.ctrlStored
  dsimp only
  split
  · have hcnt : ¬SitReg (Reg.LINK_RETRAIN_CNT l) := not_sitReg_of_link (by unfold Reg.LINK_RETRAIN_CNT; omega)
    have hst : ¬SitReg (Reg.LINK_STATUS l) := not_sitReg_of_link (by unfold Reg.LINK_STATUS; omega)
    have hset := ((hput (ctrlWord d l new)).trans (.bump _ 1 hcnt)).trans (.fset _ Fd.LINK_STATUS_tries_used 0 hst)
    exact hset.trans (.dynMod _ _ _)
  · exact hput _

theorem SitKept.linkRetrain (d : Dev) (l : Nat) : SitKept d (linkRetrain d l) :=
  (SitKept.ctrlStored d l _ _).trans (.of_left (linkCtrlWrite_left ..))

theorem SitKept.handlerRun (d : Dev) (n : Nat) (deg : Bool) : SitKept d (handlerRun d n deg) := by
  unfold Machine.handlerRun
  extract_lets e
  have he : SitKept d e := .event ..
  split
  · exact he
  · split
    · exact he.trans (.linkRetrain ..)
    · split
      · exact he.trans (.of_inner rfl rfl)
      · exact he

/-! ## The end of the long commands (R534) -/

theorem OuterKept.recUnanswered (d : Dev) (r : ReplyTo) : OuterKept d (recUnanswered d r) := by
  have hfree : OuterKept d { d with free := d.free + 1 } := .of_inner rfl rfl
  exact hfree.trans (.recSettle ..)

/-- The device whose long commands are forgotten. -/
def longForgot (d : Dev) : Dev :=
  { d with
    sit := { d.sit with drain := none, batch := [] }
    ckp := { d.ckp with running := none }
    int := { d.int with queue := d.int.queue.map (fun e => { e with reqs := [] }), kat := [] }
    lnk := { d.lnk with flash := d.lnk.flash.map (fun e => (e.1, e.2.map (fun x => { x with xfers := x.xfers.map (fun t => { t with reply := none }) }))) } }

/-- The device whose drain has ended. -/
def drainEnded (d : Dev) : Dev := if draining d then ledsFault (fset d Reg.SIT_STATUS Fd.SIT_STATUS_draining 0) 0 else d

/-- The device whose long commands' entries stand without an answer. -/
def longUnanswered (d : Dev) : Dev := (longAsked d).foldl recUnanswered d

theorem abandonLong_eq (d : Dev) : abandonLong d = longForgot (drainEnded (longUnanswered d)) := rfl

theorem OuterKept.longUnanswered (d : Dev) : OuterKept d (longUnanswered d) := .foldl _ _ .recUnanswered

/-- The end of a drain changes Sitonel's status alone of its registers. -/
theorem drainEnded_regs (d : Dev) {a : Nat} (h : SitReg a) (hs : a ≠ Reg.SIT_STATUS) : rg (drainEnded d) a = rg d a := by
  unfold drainEnded
  split
  · exact ((SitKept.ledsSet _ _ _).reg a h).trans (rg_fset_ne _ _ _ hs)
  · rfl

theorem drainEnded_draining (d : Dev) : draining (drainEnded d) = false := by
  unfold drainEnded
  split
  · exact (SitKept.ledsSet _ _ _).draining.trans (fbit_fset_self _ _ 0 rfl (by decide))
  · next h => exact Bool.eq_false_iff.mpr h

theorem drainEnded_rest (d : Dev) : sitRest (drainEnded d) = sitRest d := by
  unfold drainEnded
  split
  · exact (SitKept.ledsSet _ _ _).rest.trans (congrArg (fun x => { x with events := [], evNext := 0, evOver := none }) (fset_sit ..))
  · rfl

/-- What the end of the long commands leaves. -/
structure Abandoned (d e : Dev) : Prop where
  reg : ∀ a, SitReg a → a ≠ Reg.SIT_STATUS → rg e a = rg d a
  running : e.ckp.running = none
  batch : e.sit.batch = []
  drain : e.sit.drain = none
  draining : draining e = false

theorem longForgot_regs (d : Dev) : (longForgot d).regs = d.regs := rfl

theorem abandonLong_abandoned (d : Dev) : Abandoned d (abandonLong d) := by
  rw [abandonLong_eq]
  have hreg (a : Nat) (ha : SitReg a) (hs : a ≠ Reg.SIT_STATUS) : rg (drainEnded (longUnanswered d)) a = rg d a :=
    (drainEnded_regs _ ha hs).trans ((SitKept.of_outer (.longUnanswered d)).reg a ha)
  have hdrain := drainEnded_draining (longUnanswered d)
  generalize drainEnded (longUnanswered d) = e at hreg hdrain
  exact ⟨fun a ha hs => (rg_congr (longForgot_regs e) a).trans (hreg a ha hs), rfl, rfl, rfl, (fbit_congr (longForgot_regs e) _ _).trans hdrain⟩

/-! ## A restart of the pair (R534, R549) -/

/-- The requester that a restart in progress owes an answer. -/
def restartOwed (d : Dev) : Option ReplyTo := match d.sit.restart with | some r => r.reply | none => none

/-- An activation that has not been confirmed goes back. -/
def goesBack (d : Dev) : Bool := (match d.sit.restart with | some r => r.prev.isSome | none => false) || d.sit.trial.isSome

/-- The device whose next start is from the confirmed slot. -/
def confirmedNext (d : Dev) (owed : Option ReplyTo) : Dev := { d with sit := { d.sit with restart := some ⟨confirmedSlot d, none, owed⟩, trial := none } }

/-- The device that restarts from the confirmed slot. -/
def restartBegun (d : Dev) (owed : Option ReplyTo) : Dev := restarting (confirmedNext d owed) true

theorem pairRestart_eq (d : Dev) : pairRestart d = if goesBack d then
      raise (fset (restartBegun (abandonLong d) (restartOwed d)) Reg.SIT_FW_STATUS Fd.SIT_FW_STATUS_reverted 1) 980
    else restartBegun (abandonLong d) (restartOwed d) := rfl

/-- What a restart of the pair leaves. -/
structure PairRestarted (d e : Dev) : Prop where
  restart : e.sit.restart = some ⟨confirmedSlot d, none, restartOwed d⟩
  trial : e.sit.trial = none
  running : e.ckp.running = none
  batch : e.sit.batch = []
  drain : e.sit.drain = none
  restarting : fbit e Reg.SIT_STATUS Fd.SIT_STATUS_restarting = true
  draining : draining e = false
  lockstep : rg e Reg.SIT_LOCKSTEP_CNT = rg d Reg.SIT_LOCKSTEP_CNT

theorem confirmedNext_regs (d : Dev) (owed : Option ReplyTo) : (confirmedNext d owed).regs = d.regs := rfl

theorem Abandoned.confirmedSlot {d e : Dev} (h : Abandoned d e) : confirmedSlot e = confirmedSlot d := by
  rw [Machine.confirmedSlot, fget, h.reg _ (by decide) (by decide), Machine.confirmedSlot, fget]

theorem restartBegun_restarted {d e : Dev} (h : Abandoned d e) : PairRestarted d (restartBegun e (restartOwed d)) := by
  have hsit : (restartBegun e (restartOwed d)).sit = (confirmedNext e (restartOwed d)).sit := fset_sit ..
  have hckp : (restartBegun e (restartOwed d)).ckp = e.ckp := fset_ckp ..
  have hreg (a : Nat) (ha : a ≠ Reg.SIT_STATUS) : rg (restartBegun e (restartOwed d)) a = rg e a :=
    (rg_fset_ne _ _ _ ha).trans (rg_congr (confirmedNext_regs ..) a)
  have hdrain : draining (restartBegun e (restartOwed d)) = draining e :=
    (fbit_fset_apart _ _ _ _ (by decide)).trans (fbit_congr (confirmedNext_regs ..) _ _)
  have hset : fbit (restartBegun e (restartOwed d)) Reg.SIT_STATUS Fd.SIT_STATUS_restarting = true := fbit_fset_self _ _ 1 rfl (by decide)
  generalize restartBegun e (restartOwed d) = f at hsit hckp hreg hdrain hset
  refine ⟨by rw [hsit, confirmedNext, h.confirmedSlot], by rw [hsit, confirmedNext], by rw [hckp, h.running], by rw [hsit, confirmedNext, h.batch],
    by rw [hsit, confirmedNext, h.drain], hset, by rw [hdrain, h.draining], ?_⟩
  rw [hreg _ (by decide), h.reg _ (by decide) (by decide)]

theorem PairRestarted.reverted {d e : Dev} (h : PairRestarted d e) : PairRestarted d (raise (fset e Reg.SIT_FW_STATUS Fd.SIT_FW_STATUS_reverted 1) 980) := by
  have hraise := SitKept.of_outer (.raise (fset e Reg.SIT_FW_STATUS Fd.SIT_FW_STATUS_reverted 1) 980)
  have hne : Reg.SIT_STATUS ≠ Reg.SIT_FW_STATUS := by decide
  refine ⟨?_, ?_, ?_, ?_, ?_, ?_, ?_, ?_⟩
  · rw [raise_sit, fset_sit, h.restart]
  · rw [raise_sit, fset_sit, h.trial]
  · rw [raise_ckp, fset_ckp, h.running]
  · rw [raise_sit, fset_sit, h.batch]
  · rw [raise_sit, fset_sit, h.drain]
  · rw [hraise.fbit (by decide), fbit_fset_ne _ _ _ _ hne, h.restarting]
  · rw [hraise.draining]
    exact (fbit_fset_ne _ _ _ _ hne).trans h.draining
  · rw [hraise.reg _ (by decide), rg_fset_ne _ _ _ (by decide), h.lockstep]

theorem pairRestart_restarted (d : Dev) : PairRestarted d (pairRestart d) := by
  have h := restartBegun_restarted (abandonLong_abandoned d)
  rw [pairRestart_eq]
  split
  · exact h.reverted
  · exact h

end Sys2Proof.Machine
end

section
/-! PROOFS. Samples, the restart of the pair and its end (R534, R536, R538). -/

namespace Sys2Proof.Machine

/-! ## Samples (R538) -/

theorem exec_sensorSample_one (i : BitVec 7) (st : BitVec 2) (v : BitVec 32) (s : State) :
    exec (.sensorSample [(i, st, v)]) s = act (fun d => sensorSample d [(i.toNat, st.toNat, v.toNat)]) s := rfl

/-- The device with a sensor's reading. -/
def sensorPut (d : Dev) (i : Nat) (x : Sensor) : Dev := { d with sit := { d.sit with sensors := tset Sensor.init d.sit.sensors i x } }

/-- One reading: a valid one is kept with its time, a failed one marks the sensor, a stale one renews nothing. -/
theorem sensorSample_one (d : Dev) {i : Nat} (h : sensorKnown i = true) (st v : Nat) : sensorSample d [(i, st, v)] =
    if st = 0 then sensorPut d i ⟨0, v, ns d⟩ else if st = 2 then sensorPut d i { sensorAt d i with st := 2, val := v } else d := by
  unfold sensorSample
  rw [List.foldl_cons, List.foldl_nil, h]
  rfl

theorem sensorSample_sampled {s : State} {i : BitVec 7} (ha : alive s.dev = true) (h : sensorKnown i.toNat = true) (v : BitVec 32) :
    exec (.sensorSample [(i, 0, v)]) s = .next (s.after (sensorPut s.dev i.toNat ⟨0, v.toNat, ns s.dev⟩))
      ∧ exec (.sensorSample [(i, 2, v)]) s = .next (s.after (sensorPut s.dev i.toNat { sensorAt s.dev i.toNat with st := 2, val := v.toNat }))
      ∧ exec (.sensorSample [(i, 1, v)]) s = .next (s.after s.dev) := by
  refine ⟨?_, ?_, ?_⟩
  · rw [exec_sensorSample_one]
    exact act_of_eq ha ((sensorSample_one _ h _ _).trans (if_pos rfl))
  · rw [exec_sensorSample_one]
    exact act_of_eq ha (((sensorSample_one _ h _ _).trans (if_neg (by decide))).trans (if_pos rfl))
  · rw [exec_sensorSample_one]
    exact act_of_eq ha (((sensorSample_one _ h _ _).trans (if_neg (by decide))).trans (if_neg (by decide)))

/-! ## LOCKSTEP_MISMATCH (R534) -/

theorem exec_lockstepMismatch (s : State) : exec .lockstepMismatch s = act lockstep s := rfl

theorem SitKept.owed {d e : Dev} (h : SitKept d e) : restartOwed e = restartOwed d := by rw [restartOwed, h.restart, restartOwed]

/-- What leads to the restart of the pair leaves Sitonel but for its counter. -/
theorem lockstep_restarted (d : Dev) : PairRestarted (bump d Reg.SIT_LOCKSTEP_CNT) (lockstep d) := by
  have hkept : SitKept (bump d Reg.SIT_LOCKSTEP_CNT) (raise (event (bump d Reg.SIT_LOCKSTEP_CNT) 5 0) 974) :=
    (SitKept.event ..).trans (.of_outer (.raise ..))
  obtain ⟨hr, ht, hc, hb, hd, hs, hg, hl⟩ := pairRestart_restarted (raise (event (bump d Reg.SIT_LOCKSTEP_CNT) 5 0) 974)
  rw [hkept.confirmedSlot, hkept.owed] at hr
  rw [hkept.reg _ (by decide)] at hl
  exact ⟨hr, ht, hc, hb, hd, hs, hg, hl⟩

/-! ## SITONEL_RESTART_DONE (R534, R548, R549) -/

theorem exec_sitonelRestartDone (ok : Bool) (s : State) : exec (.sitonelRestartDone ok) s = act (fun d => restartDone d ok) s := rfl

/-- Sitonel's state once a restart has ended. -/
def startedState (d : Dev) (r : Restart) : Dev :=
  { d with sit := { d.sit with restart := none, handler := [], trial := r.prev.map (fun s => (s, ns d + 10 * 10 ^ 9)) } }

/-- The device that runs the started slot. -/
def slotStarted (d : Dev) (r : Restart) : Dev := restarting (startedState (fset d Reg.SIT_FW_STATUS Fd.SIT_FW_STATUS_running r.slot) r) false

/-- The device that has answered what the restart owed. -/
def startAnswered (d : Dev) (r : Restart) : Dev :=
  match r.reply with
  | some q => replyLate d q (if r.prev.isSome then St.ok else St.imageInvalid) []
  | none => d

theorem restartDone_eq {d : Dev} {r : Restart} (h : d.sit.restart = some r) (good : Bool) : restartDone d good =
    if good then d.sit.handler.foldl (fun d h => handlerRun d h.1 h.2) (event (startAnswered (slotStarted d r) r) 2 1 [r.slot])
    else if r.prev.isSome then pairRestart d
    else { d with sit := { d.sit with fails := d.sit.fails.filter (fun t => decide (ns d < t + 600 * 10 ^ 9)) ++ [ns d] } } := by
  unfold restartDone
  rw [h]
  rfl

theorem OuterKept.startAnswered (d : Dev) (r : Restart) : OuterKept d (startAnswered d r) := by
  unfold Machine.startAnswered
  split
  · exact .replyLate ..
  · exact .refl _

/-- What follows the start leaves Sitonel as it stands then. -/
theorem restartDone_kept {d : Dev} {r : Restart} (h : d.sit.restart = some r) : SitKept (slotStarted d r) (restartDone d true) := by
  rw [restartDone_eq h, if_pos rfl]
  have hans : SitKept (slotStarted d r) (event (startAnswered (slotStarted d r) r) 2 1 [r.slot]) := (SitKept.of_outer (.startAnswered ..)).trans (.event ..)
  exact hans.trans (.foldl _ _ fun e x => .handlerRun e x.1 x.2)

theorem startedState_regs (d : Dev) (r : Restart) : (startedState d r).regs = d.regs := rfl

theorem runningSlot_slotStarted {d : Dev} {r : Restart} (h : r.slot < 2) : runningSlot (slotStarted d r) = r.slot := by
  have hne : Reg.SIT_FW_STATUS ≠ Reg.SIT_STATUS := by decide
  calc runningSlot (slotStarted d r)
      = fget (startedState (fset d Reg.SIT_FW_STATUS Fd.SIT_FW_STATUS_running r.slot) r) Reg.SIT_FW_STATUS Fd.SIT_FW_STATUS_running := fget_fset_ne _ _ _ _ hne
    _ = fget (fset d Reg.SIT_FW_STATUS Fd.SIT_FW_STATUS_running r.slot) Reg.SIT_FW_STATUS Fd.SIT_FW_STATUS_running := fget_congr (startedState_regs ..) _ _
    _ = r.slot % 2 := fget_fset_self _ _ _ _ (by decide) (by decide)
    _ = r.slot := Nat.mod_eq_of_lt h

theorem restarting_false (d : Dev) : fbit (restarting d false) Reg.SIT_STATUS Fd.SIT_STATUS_restarting = false := fbit_fset_self _ _ 0 rfl (by decide)

theorem slotStarted_sit (d : Dev) (r : Restart) :
    (slotStarted d r).sit = { d.sit with restart := none, handler := [], trial := r.prev.map (fun s => (s, ns d + 10 * 10 ^ 9)) } := by
  have hs : (fset d Reg.SIT_FW_STATUS Fd.SIT_FW_STATUS_running r.slot).sit = d.sit := fset_sit ..
  have hn : ns (fset d Reg.SIT_FW_STATUS Fd.SIT_FW_STATUS_running r.slot) = ns d := ns_congr (fset_clk ..)
  unfold slotStarted restarting
  rw [fset_sit]
  generalize fset d Reg.SIT_FW_STATUS Fd.SIT_FW_STATUS_running r.slot = e at hs hn
  rw [startedState, hs, hn]

/-- Settles O49: each happening leaves Sitonel's state and registers as the frame of its effects (SitKept) says. -/
theorem sitonelSamplesAndRestarts : Obligations.SitonelSamplesAndRestarts := by
  unfold Obligations.SitonelSamplesAndRestarts
  intro s
  dsimp only
  refine ⟨?_, ?_, ?_, ?_⟩
  · intro i v ha hk
    exact sensorSample_sampled ha hk v
  · intro ha
    obtain ⟨hr, -, hc, hb, hd, hs, hg, hl⟩ := lockstep_restarted s.dev
    refine ⟨lockstep s.dev, by rw [exec_lockstepMismatch]; exact act_of_eq ha rfl, ⟨_, hr, ?_, rfl⟩, hs, by rw [hl, rg_bump_self], hc, hb, hd, hg⟩
    rw [confirmedSlot, fget, rg_bump_ne s.dev 1 (by decide), confirmedSlot, fget]
  · intro r ha hr hslot
    have hkept := restartDone_kept hr
    have hsit := slotStarted_sit s.dev r
    refine ⟨restartDone s.dev true, by rw [exec_sitonelRestartDone]; exact act_of_eq ha rfl, ?_, ?_, fun _ => ?_, ?_⟩
    · rw [hkept.restart, hsit]
    · rw [hkept.runningSlot, runningSlot_slotStarted hslot]
    · rw [hkept.fbit (by decide)]
      exact restarting_false _
    · rw [hkept.trial, hsit]
  · intro r ha hr hp
    rw [exec_sitonelRestartDone]
    have hno : ¬r.prev.isSome = true := by simp [hp]
    exact act_of_eq ha ((restartDone_eq hr false).trans ((if_neg (by decide)).trans (if_neg hno)))

end Sys2Proof.Machine
end

section
/-! PROOFS. Firmware (R545 to R549): the bytes of a slot, its validity, and what a load, an activation, a confirmation and a revert leave. -/

namespace Sys2Proof.Machine

/-! ## The bytes of a slot (R547) -/

/-- Flash with bytes stored from an address on. -/
def fwStored (m : List (Nat × Option Byte)) (o : Nat) (l : List Byte) : List (Nat × Option Byte) :=
  (l.foldl (fun a b => (a.1 + 1, tset none a.2 a.1 (some b))) (o, m)).2

theorem fwStored_cons (m : List (Nat × Option Byte)) (o : Nat) (b : Byte) (l : List Byte) :
    fwStored m o (b :: l) = fwStored (tset none m o (some b)) (o + 1) l := rfl

theorem tget_fwStored (l : List Byte) (m : List (Nat × Option Byte)) (o k : Nat) :
    tget none (fwStored m o l) k = if o ≤ k ∧ k < o + l.length then some (l.getD (k - o) 0) else tget none m k := by
  induction l generalizing m o with
  | nil => rw [if_neg (by simp)]; rfl
  | cons b l ih =>
    rw [fwStored_cons, ih, List.length_cons]
    by_cases hk : k = o
    · subst hk
      rw [if_neg (by omega), if_pos (by omega), tget_tset_self, Nat.sub_self, List.getD_cons_zero]
    · rw [tget_tset_ne _ _ _ _ hk]
      by_cases hin : o + 1 ≤ k ∧ k < o + 1 + l.length
      · have hsub : k - o = k - (o + 1) + 1 := by omega
        rw [if_pos hin, if_pos (by omega), hsub, List.getD_cons_succ]
      · rw [if_neg hin, if_neg (by omega)]

/-- The device whose flash takes bytes at an offset of a slot. -/
def slotWritten (d : Dev) (s o : Nat) (l : List Byte) : Dev := { d with sit := { d.sit with fw := fwStored d.sit.fw (s * 2 ^ 24 + o) l } }

theorem slotWritten_regs (d : Dev) (s o : Nat) (l : List Byte) : (slotWritten d s o l).regs = d.regs := rfl

/-- A slot reads as its bytes that were stored, elsewhere as before. -/
theorem fwByte_slotWritten (d : Dev) (s o i : Nat) (l : List Byte) :
    fwByte (slotWritten d s o l) s i = if o ≤ i ∧ i < o + l.length then l.getD (i - o) 0 else fwByte d s i := by
  have hsub : s * 2 ^ 24 + i - (s * 2 ^ 24 + o) = i - o := by omega
  unfold fwByte slotWritten
  rw [tget_fwStored, hsub]
  by_cases hin : o ≤ i ∧ i < o + l.length
  · rw [if_pos hin, if_pos (by omega), Option.getD_some]
  · rw [if_neg hin, if_neg (by omega)]

/-- Bytes stored in one slot leave the other. -/
theorem fwByte_slotWritten_other {o : Nat} {l : List Byte} (h : o + l.length ≤ 2 ^ 24) (d : Dev) {s t i : Nat} (hne : s ≠ t) (hi : i < 2 ^ 24) :
    fwByte (slotWritten d s o l) t i = fwByte d t i := by
  unfold fwByte slotWritten
  rw [tget_fwStored, if_neg (by omega)]

theorem SitKept.fwByte {d e : Dev} (h : SitKept d e) (s i : Nat) : fwByte e s i = fwByte d s i := by
  have hfw : e.sit.fw = d.sit.fw := congrArg (·.fw) h.rest
  rw [Machine.fwByte, hfw, Machine.fwByte]

theorem slotMark_sit (d : Dev) (s : Nat) (b : Bool) : (slotMark d s b).sit = d.sit := fset_sit ..

theorem fwByte_slotMark (d : Dev) (t : Nat) (b : Bool) (s i : Nat) : fwByte (slotMark d t b) s i = fwByte d s i := by rw [fwByte, slotMark_sit, fwByte]

theorem slotValid_slotMark (d : Dev) (s : Nat) (b : Bool) : slotValid (slotMark d s b) s = b := by
  unfold slotValid slotMark
  have hval : decide (b.toNat % 2 = 1) = b := by cases b <;> rfl
  by_cases h : s = 0
  · rw [if_pos h, fbit_fset_self _ _ _ rfl (by decide), hval]
  · rw [if_neg h, fbit_fset_self _ _ _ rfl (by decide), hval]

theorem SitKept.slotValid {d e : Dev} (h : SitKept d e) (s : Nat) : slotValid e s = slotValid d s := h.fbit (by decide) _

/-! ## FW_LOAD (R547) -/

theorem exec_fwLoad (h : CmdHdr) (p : List Byte) (s : State) : exec (.fwLoad h p) s = act (runCmd ⟨0x0820, true, false⟩ h p (fun d _ => fwLoad d p)) s := rfl

/-- The device that a load into a slot leaves. -/
def fwLoaded (d : Dev) (p : List Byte) : Dev :=
  event (slotMark (slotWritten d (field p 0 1) (field p 4 4) (p.drop 8)) (field p 0 1) false) 2 0 [field p 0 1]

/-- A load of a fitting layout: into the slot that runs, or while Sitonel is busy, it is refused. -/
theorem fwLoad_eq {d : Dev} {p : List Byte} (hl : 8 ≤ p.length) (ht : field p 0 1 ≤ 1) (h0 : field p 1 3 = 0) (hfit : field p 4 4 + (p.length - 8) ≤ 2 ^ 24) :
    fwLoad d p = if field p 0 1 = runningSlot d ∨ draining d ∨ d.sit.restart.isSome then .err St.updateBusy else .done (fwLoaded d p) [] := by
  have hchecks : firstBad [(0, decide (p.length < 1 ∨ field p 0 1 ≤ 1)), (1, decide (field p 1 3 = 0)), (4, decide (field p 4 4 + (p.length - 8) ≤ 2 ^ 24))] = none := by
    simp only [firstBad, ht, h0, hfit, or_true, decide_true, ↓reduceIte]
  unfold fwLoad
  dsimp only
  rw [checks_of_firstBad_none _ hchecks, if_neg (Nat.not_lt.mpr hl)]
  rfl

theorem fwLoaded_loaded (d : Dev) {p : List Byte} (ht : field p 0 1 ≤ 1) (hfit : field p 4 4 + (p.length - 8) ≤ 2 ^ 24) :
    slotValid (fwLoaded d p) (field p 0 1) = false
      ∧ (∀ i, i < 2 ^ 24 → fwByte (fwLoaded d p) (field p 0 1) i =
        if field p 4 4 ≤ i ∧ i < field p 4 4 + (p.length - 8) then p.getD (8 + (i - field p 4 4)) 0 else fwByte d (field p 0 1) i)
      ∧ (∀ i, i < 2 ^ 24 → fwByte (fwLoaded d p) (1 - field p 0 1) i = fwByte d (1 - field p 0 1) i) := by
  have hlen : (p.drop 8).length = p.length - 8 := List.length_drop
  have hfit' : field p 4 4 + (p.drop 8).length ≤ 2 ^ 24 := hlen ▸ hfit
  have hkept : SitKept (slotMark (slotWritten d (field p 0 1) (field p 4 4) (p.drop 8)) (field p 0 1) false) (fwLoaded d p) := .event ..
  refine ⟨?_, fun i _ => ?_, fun i hi => ?_⟩
  · rw [hkept.slotValid, slotValid_slotMark]
  · have hget (j : Nat) : (p.drop 8).getD j 0 = p.getD (8 + j) 0 := by simp only [List.getD_eq_getElem?_getD, List.getElem?_drop]
    rw [hkept.fwByte, fwByte_slotMark, fwByte_slotWritten, hlen, hget]
  · rw [hkept.fwByte, fwByte_slotMark, fwByte_slotWritten_other hfit' d (by omega) hi]

/-! ## FW_ACTIVATE (R548) -/

theorem exec_fwActivate (h : CmdHdr) (p : List Byte) (ok : Bool) (s : State) :
    exec (.fwActivate h p ok) s = act (runCmd ⟨0x0821, true, false⟩ h p (fun d r => fwActivate d r p ok)) s := rfl

theorem fwActivate_eq {p : List Byte} (hl : p.length = 1) (ht : field p 0 1 ≤ 1) (d : Dev) (r : ReplyTo) (ok : Bool) : fwActivate d r p ok =
    (if !fwVerifies d (field p 0 1) ok then .err St.imageInvalid
    else if longRunning d then .err St.updateBusy
    else if fwMajor d (field p 0 1) ≠ fwMajor d (runningSlot d) ∧ !d.seq.buckets.isEmpty then .err St.updateBusy
    else
      let d := slotMark d (field p 0 1) true
      .later (restarting (event { d with sit := { d.sit with restart := some ⟨field p 0 1, some (confirmedSlot d), some r⟩ } } 2 4 [field p 0 1]) true)) := by
  have hchecks : firstBad [(0, decide (p.length < 1 ∨ field p 0 1 ≤ 1))] = none := by simp only [firstBad, ht, or_true, decide_true, ↓reduceIte]
  unfold fwActivate
  dsimp only
  rw [checks_of_firstBad_none _ hchecks, needLen_pass _ hl]

/-! ## FW_CONFIRM and FW_REVERT (R548, R549) -/

theorem exec_fwConfirm (s : State) : exec .fwConfirm s = act fwConfirm s := rfl
theorem exec_fwRevert (s : State) : exec .fwRevert s = act fwRevert s := rfl

theorem runningSlot_lt (d : Dev) : runningSlot d < 2 := bits_lt ..

/-- The device without a trial whose confirmed slot is the one that runs. -/
def slotConfirmed (d : Dev) : Dev := fset { d with sit := { d.sit with trial := none } } Reg.SIT_FW_STATUS Fd.SIT_FW_STATUS_confirmed (runningSlot d)

theorem fwConfirm_eq {d : Dev} {x : Nat × Nat} (ht : d.sit.trial = some x) (hr : d.sit.restart = none) (hx : x.2 ≤ ns d) : ∃ m, fwConfirm d =
    event (fset (slotConfirmed d) Reg.SIT_FW_STATUS Fd.SIT_FW_STATUS_min_sec m) 2 3 [runningSlot d] := by
  have hno : ¬(ns d < x.2 ∨ d.sit.restart.isSome) := by
    rw [hr]
    simpa using hx
  unfold fwConfirm
  rw [ht]
  dsimp only
  rw [if_neg hno]
  exact ⟨_, rfl⟩

theorem fwConfirm_confirmed {d : Dev} {x : Nat × Nat} (ht : d.sit.trial = some x) (hr : d.sit.restart = none) (hx : x.2 ≤ ns d) :
    confirmedSlot (fwConfirm d) = runningSlot d ∧ (fwConfirm d).sit.trial = none := by
  obtain ⟨m, hm⟩ := fwConfirm_eq ht hr hx
  have hkept : SitKept (fset (slotConfirmed d) Reg.SIT_FW_STATUS Fd.SIT_FW_STATUS_min_sec m) (fwConfirm d) := hm ▸ .event ..
  have hslot : confirmedSlot (slotConfirmed d) = runningSlot d :=
    (fget_fset_self _ _ _ _ (by decide) (by decide)).trans (Nat.mod_eq_of_lt (runningSlot_lt d))
  have htrial : (slotConfirmed d).sit.trial = none := by rw [slotConfirmed, fset_sit]
  constructor
  · rw [hkept.confirmedSlot]
    exact (fget_fset_apart _ _ _ _ (by decide)).trans hslot
  · rw [hkept.trial, fset_sit, htrial]

/-! ## Sources that an entry of the log leaves

An entry of the command record can raise the log's own sources alone, and FS_957, FS_975 and FS_908 with them. -/

/-- The sources that an entry of a log can raise. -/
abbrev LogSource (n : Nat) : Prop := n = 908 ∨ n = 957 ∨ n = 975 ∨ n = 1001 ∨ n = 1002

/-- The other sources are as they were. -/
structure SourcesLeft (d e : Dev) : Prop where
  src : ∀ n, ¬LogSource n → srcOf e n = srcOf d n

namespace SourcesLeft

theorem refl (d : Dev) : SourcesLeft d d := ⟨fun _ _ => rfl⟩
theorem trans {d e f : Dev} (h : SourcesLeft d e) (g : SourcesLeft e f) : SourcesLeft d f := ⟨fun n hn => (g.src n hn).trans (h.src n hn)⟩
theorem of_ref {d e : Dev} (h : e.ref = d.ref) : SourcesLeft d e := ⟨fun n _ => srcOf_congr (congrArg (·.src) h) n⟩

theorem foldl {α : Type} (l : List α) {f : Dev → α → Dev} (d : Dev) (h : ∀ e x, SourcesLeft e (f e x)) : SourcesLeft d (l.foldl f d) :=
  List.foldlRecOn (motive := SourcesLeft d) l f (refl d) fun e he x _ => he.trans (h e x)

theorem raise (d : Dev) {k : Nat} (h : LogSource k) : SourcesLeft d (raise d k) := by
  refine ⟨fun n hn => ?_⟩
  exact raise_src_ne d (fun he => hn (he ▸ h)) fun he => hn (.inr (.inl he))

theorem regionWrite (d : Dev) (r : Region) (o : Nat) (bs : List Byte) : SourcesLeft d (regionWrite d r o bs) := by
  unfold Machine.regionWrite
  refine trans (foldl _ _ fun e i => ?_) (foldl _ _ fun e i => ?_)
  all_goals
    dsimp only
    split
  · exact refl _
  · exact of_ref rfl
  · exact of_ref rfl
  · exact refl _

theorem replayCompare (d : Dev) (e : List Byte) : SourcesLeft d (replayCompare d e) := by
  unfold Machine.replayCompare
  split
  · exact refl d
  · dsimp only
    split
    · exact refl d
    · next i _ =>
      have hdone : SourcesLeft d { d with bell := { d.bell with repDone := i :: d.bell.repDone } } := of_ref rfl
      split
      · exact hdone
      · split
        · exact hdone.trans (of_ref (bump_ref ..))
        · refine hdone.trans (trans (of_ref ?_) (raise _ (.inl rfl)))
          rw [fset_ref, fset_ref, rg64Put_ref, bump_ref]

theorem append (d : Dev) (typ ctx epoch step : Nat) (body : List Byte) (time : Option (List Byte)) :
    SourcesLeft d (append d typ ctx epoch step body time) := by
  unfold Machine.append
  extract_lets seq e d1 lap off need d2 r d3 d4 fill src d5 mark
  have hd2 : SourcesLeft d d2 := (of_ref (rg64Put_ref ..)).trans (replayCompare ..)
  split
  · refine hd2.trans (trans (of_ref ?_) (raise _ (by decide)))
    rw [fset_ref, bump_ref]
  · have hd3 : SourcesLeft d d3 := by
      refine trans ?_ (of_ref (bump_ref ..))
      split
      · refine trans ?_ (regionWrite ..)
        split
        · exact hd2.trans (regionWrite ..)
        · exact hd2
      · exact hd2
    have hd5 : SourcesLeft d d5 := by
      dsimp only [d5]
      split <;> exact hd3.trans (of_ref rfl)
    split
    · exact hd5.trans (raise _ (by decide))
    · exact hd5

theorem recs (d : Dev) (q : List RecWait) : SourcesLeft d { d with cmd := { d.cmd with recs := q } } := of_ref rfl

theorem recFlush (d : Dev) : SourcesLeft d (recFlush d) := by
  unfold Machine.recFlush
  dsimp only
  refine (recs d _).trans (foldl _ _ fun e r => ?_)
  split
  · exact append ..
  · exact refl _

theorem recSettle (d : Dev) (r : ReplyTo) (st : Option Nat) : SourcesLeft d (recSettle d r st) := by
  unfold Machine.recSettle
  split
  · exact (recs d _).trans (recFlush _)
  · exact refl d

theorem event (d : Dev) (cls kind : Nat) (what : List Nat) (data : Option (List Byte)) : SourcesLeft d (event d cls kind what data) := by
  have happ (r : List Byte) : SourcesLeft d (eventAppended d r) := of_ref rfl
  rw [event_eq]
  split
  · exact happ _
  · refine (happ (eventRecord d cls kind what data)).trans ?_
    generalize eventAppended d _ = e
    have hcnt : SourcesLeft e (Machine.bump e Reg.SIT_EVT_OVERWRITE_CNT) := of_ref (bump_ref ..)
    have hnoted (x : Dev) : SourcesLeft x (overNoted x) := of_ref rfl
    unfold eventLost
    split
    · exact (hcnt.trans (hnoted _)).trans (raise _ (by decide))
    · exact hcnt

theorem free (d : Dev) : SourcesLeft d { d with free := d.free + 1 } := of_ref rfl

theorem longUnanswered (d : Dev) : SourcesLeft d (longUnanswered d) := 
  foldl _ _ fun e _ => (free e).trans (recSettle ..)

theorem ledsSet (d : Dev) (f : Nat × Nat) (v : Nat) : SourcesLeft d (ledsSet d f v) := foldl _ _ fun _ _ => of_ref (fset_ref ..)

theorem drainEnded (d : Dev) : SourcesLeft d (drainEnded d) := by
  unfold Machine.drainEnded
  split
  · exact trans (of_ref (fset_ref ..)) (ledsSet ..)
  · exact refl d

theorem longForgot (d : Dev) : SourcesLeft d (longForgot d) := of_ref rfl

theorem restartBegun (d : Dev) (owed : Option ReplyTo) : SourcesLeft d (restartBegun d owed) := trans (of_ref rfl) (of_ref (fset_ref ..))

theorem abandonLong (d : Dev) : SourcesLeft d (abandonLong d) := by
  rw [abandonLong_eq]
  exact ((longUnanswered d).trans (drainEnded _)).trans (longForgot _)

end SourcesLeft

/-! ## A restart that goes back (R549) -/

theorem goesBack_of_trial {d : Dev} {x : Nat × Nat} (h : d.sit.trial = some x) : goesBack d = true := by
  unfold goesBack
  rw [h, Option.isSome_some, Bool.or_true]

/-- The device that goes back to the confirmed slot, before FS_980. -/
def wentBack (d : Dev) : Dev := fset (restartBegun (abandonLong d) (restartOwed d)) Reg.SIT_FW_STATUS Fd.SIT_FW_STATUS_reverted 1

theorem pairRestart_of_back {d : Dev} (h : goesBack d = true) : pairRestart d = raise (wentBack d) 980 := by
  rw [pairRestart_eq, if_pos h, wentBack]

theorem SourcesLeft.wentBack (d : Dev) : SourcesLeft d (wentBack d) := ((abandonLong d).trans (restartBegun _ _)).trans (of_ref (fset_ref ..))

theorem pairRestart_reverted {d : Dev} (h : goesBack d = true) :
    fbit (pairRestart d) Reg.SIT_FW_STATUS Fd.SIT_FW_STATUS_reverted = true ∧ (srcOf (pairRestart d) 980).count = satInc (srcOf d 980).count 1 := by
  rw [pairRestart_of_back h]
  constructor
  · rw [(SitKept.of_outer (.raise (wentBack d) 980)).fbit (by decide)]
    exact fbit_fset_self _ _ 1 rfl (by decide)
  · rw [raise_count_self _ (by decide), (SourcesLeft.wentBack d).src 980 (by decide)]

theorem fwRevert_of_trial {d : Dev} {x : Nat × Nat} (h : d.sit.trial = some x) : fwRevert d = pairRestart (event d 2 2) := by
  unfold fwRevert
  dsimp only
  exact if_pos (.inr (by rw [h]; rfl))

/-- Settles O51: the flash reads as what was stored (tget_fwStored), and a revert is a restart of the pair that goes back. -/
theorem firmwareChangesHands : Obligations.FirmwareChangesHands := by
  unfold Obligations.FirmwareChangesHands
  intro s h p
  refine ⟨?_, ?_, ?_⟩
  · intro d t had hl ht h0 hfit hdr hrs
    have heq := fwLoad_eq hl ht h0 hfit (d := d)
    refine ⟨fun hne _ => ⟨fwLoaded d p, ?_, fwLoaded_loaded d ht hfit⟩, fun he => ?_⟩
    · have hno : ¬(field p 0 1 = runningSlot d ∨ draining d = true ∨ d.sit.restart.isSome = true) := by
        rw [hdr, hrs]
        simpa using hne
      rw [exec_fwLoad]
      exact cmd_done had rfl (heq.trans (if_neg hno))
    · rw [exec_fwLoad]
      exact cmd_err had (heq.trans (if_pos (.inl he)))
  · intro d t ok had hl ht
    have heq := fwActivate_eq hl ht d (hdrReply h 0x0821) ok
    refine ⟨fun hv => ?_, fun hv hlong => ?_, fun hv hlong hm => ?_⟩
    all_goals rw [exec_fwActivate]
    · exact cmd_err had (heq.trans (if_pos (by rw [hv]; rfl)))
    · exact cmd_err had (heq.trans ((if_neg (by rw [hv]; decide)).trans (if_pos hlong)))
    · have hno : ¬(fwMajor d (field p 0 1) ≠ fwMajor d (runningSlot d) ∧ (!d.seq.buckets.isEmpty) = true) := by
        rintro ⟨h1, h2⟩
        rcases hm with hm | hm
        · rw [hm] at h2
          exact absurd h2 (by decide)
        · exact h1 hm
      exact cmd_later had rfl (heq.trans ((if_neg (by rw [hv]; decide)).trans ((if_neg (by rw [hlong]; decide)).trans (if_neg hno))))
  · intro x ha ht hr
    refine ⟨fun hx => ⟨fwConfirm s.dev, ?_, fwConfirm_confirmed ht hr hx⟩, fwRevert s.dev, ?_, ?_⟩
    · rw [exec_fwConfirm]
      exact act_of_eq ha rfl
    · rw [exec_fwRevert]
      exact act_of_eq ha rfl
    · have hkept : SitKept s.dev (event s.dev 2 2) := .event ..
      have hres := pairRestart_restarted (event s.dev 2 2)
      obtain ⟨hrev, hcount⟩ := pairRestart_reverted (goesBack_of_trial (hkept.trial.trans ht))
      rw [fwRevert_of_trial ht]
      refine ⟨hrev, hres.trial, ⟨_, hres.restart, hkept.confirmedSlot⟩, ?_⟩
      rw [hcount, (SourcesLeft.event s.dev ..).src 980 (by decide)]

end Sys2Proof.Machine
end

section
/-! PROOFS. The lights of the ports, the service drain and the button (R419, R554, R555). -/

namespace Sys2Proof.Machine

/-! ## Lights -/

theorem putBits_lt {n hi lo : Nat} (v : Nat) (hn : n < 2 ^ 32) (h : lo ≤ hi) (hh : hi < 32) : putBits n hi lo v < 2 ^ 32 := by
  have hw : 2 ^ 32 = 2 ^ (31 - hi) * 2 ^ (hi + 1) := by rw [← Nat.pow_add]; congr 1; omega
  have hq : n / 2 ^ (hi + 1) < 2 ^ (31 - hi) := Nat.div_lt_of_lt_mul (by rwa [Nat.mul_comm, ← hw])
  have hlow := low_lt n v h
  have hmul : (n / 2 ^ (hi + 1) + 1) * 2 ^ (hi + 1) ≤ 2 ^ (31 - hi) * 2 ^ (hi + 1) := Nat.mul_le_mul_right _ hq
  rw [Nat.add_mul, Nat.one_mul] at hmul
  rw [putBits_eq n v h, hw]
  omega

/-- A light's field takes its value, and the rest of its word stays. -/
theorem rg_ledsSet_put (d : Dev) {f : Nat × Nat} (hl : f.2 ≤ f.1) (hf : f.1 < 32) (v : Nat) {q : Nat} (h : q < 128) :
    rg (ledsSet d f v) (Reg.PORT_LED q) = putBits (rg d (Reg.PORT_LED q)) f.1 f.2 v := by
  rw [rg_ledsSet d f v h, Nat.mod_eq_of_lt (putBits_lt v (rg_lt d _) hl hf)]

theorem rg_ledsSet_fset (d : Dev) (f : Nat × Nat) (v : Nat) {q : Nat} (h : q < 128) :
    rg (ledsSet d f v) (Reg.PORT_LED q) = rg (fset d (Reg.PORT_LED q) f v) (Reg.PORT_LED q) := by rw [rg_ledsSet d f v h, rg_fset_self]

theorem fget_ledsSet (d : Dev) (f g : Nat × Nat) (v : Nat) {q : Nat} (h : q < 128) :
    fget (ledsSet d f v) (Reg.PORT_LED q) g = fget (fset d (Reg.PORT_LED q) f v) (Reg.PORT_LED q) g := by rw [fget, rg_ledsSet_fset d f v h, fget]

theorem fbit_ledsSet (d : Dev) (f g : Nat × Nat) (v : Nat) {q : Nat} (h : q < 128) :
    fbit (ledsSet d f v) (Reg.PORT_LED q) g = fbit (fset d (Reg.PORT_LED q) f v) (Reg.PORT_LED q) g := by rw [fbit, rg_ledsSet_fset d f v h, fbit]

theorem ledsSet_sit (d : Dev) (f : Nat × Nat) (v : Nat) : (ledsSet d f v).sit = d.sit := (ledsSet_onlyRegs d f v).congr (·.sit) fun _ _ => rfl
theorem ledsSet_clk (d : Dev) (f : Nat × Nat) (v : Nat) : (ledsSet d f v).clk = d.clk := (ledsSet_onlyRegs d f v).congr (·.clk) fun _ _ => rfl

theorem status_ne_led (q : Nat) : Reg.PORT_LED q ≠ Reg.SIT_STATUS := by
  unfold Reg.PORT_LED Reg.SIT_STATUS
  omega

/-! ## The drain (R555) -/

theorem exec_serviceDrain (h : CmdHdr) (p : List Byte) (s : State) :
    exec (.serviceDrain h p) s = act (runCmd ⟨0x0830, true, false⟩ h p (fun d r => serviceDrain d r p)) s := rfl
theorem exec_serviceDrainComplete (s : State) : exec .serviceDrainComplete s = act drainDone s := rfl

/-- The device whose drain is owed an answer. -/
def drainPut (d : Dev) (r : Option ReplyTo) : Dev := { d with sit := { d.sit with drain := r } }

theorem drainPut_regs (d : Dev) (r : Option ReplyTo) : (drainPut d r).regs = d.regs := rfl

/-- The device whose status shows a drain. -/
def drainShown (d : Dev) : Dev := fset (fset d Reg.SIT_STATUS Fd.SIT_STATUS_draining 1) Reg.SIT_STATUS Fd.SIT_STATUS_drained 0

theorem drainStart_eq (d : Dev) (r : Option ReplyTo) : drainStart d r = ledsSet (drainPut (drainShown d) r) Fd.PORT_LED_fault_sw 3 := rfl

theorem drainShown_sit (d : Dev) : (drainShown d).sit = d.sit := by rw [drainShown, fset_sit, fset_sit]
theorem rg_drainShown (d : Dev) {a : Nat} (h : a ≠ Reg.SIT_STATUS) : rg (drainShown d) a = rg d a := by rw [drainShown, rg_fset_ne _ _ _ h, rg_fset_ne _ _ _ h]

theorem draining_drainShown (d : Dev) : draining (drainShown d) = true :=
  (fbit_fset_apart _ _ _ _ (by decide)).trans (fbit_fset_self _ _ 1 rfl (by decide))

theorem drained_drainShown (d : Dev) : fbit (drainShown d) Reg.SIT_STATUS Fd.SIT_STATUS_drained = false := fbit_fset_self _ _ 0 rfl (by decide)

/-- The start of a drain shows it and has every fault light blink. -/
structure DrainBegun (d e : Dev) (r : Option ReplyTo) : Prop where
  draining : draining e = true
  drained : fbit e Reg.SIT_STATUS Fd.SIT_STATUS_drained = false
  sit : e.sit = { d.sit with drain := r }
  lights : ∀ q, q < 128 → rg e (Reg.PORT_LED q) = putBits (rg d (Reg.PORT_LED q)) Fd.PORT_LED_fault_sw.1 Fd.PORT_LED_fault_sw.2 3

theorem drainStart_begun (d : Dev) (r : Option ReplyTo) : DrainBegun d (drainStart d r) r := by
  have hput : SitKept (drainPut (drainShown d) r) (drainStart d r) := .ledsSet ..
  refine ⟨?_, ?_, ?_, fun q hq => ?_⟩
  · rw [hput.draining]
    exact (fbit_congr (drainPut_regs ..) _ _).trans (draining_drainShown d)
  · rw [hput.fbit (by decide)]
    exact (fbit_congr (drainPut_regs ..) _ _).trans (drained_drainShown d)
  · rw [drainStart_eq, ledsSet_sit, drainPut, drainShown_sit]
  · rw [drainStart_eq, rg_ledsSet_put _ (by decide) (by decide) _ hq, rg_congr (drainPut_regs ..), rg_drainShown d (status_ne_led q)]

/-- The device that gives up a drain. -/
def drainStopped (d : Dev) : Dev :=
  drainPut (if draining d then ledsSet (fset d Reg.SIT_STATUS Fd.SIT_STATUS_draining 0) Fd.PORT_LED_fault_sw 0 else fset d Reg.SIT_STATUS Fd.SIT_STATUS_drained 0) none

theorem serviceDrain_start (d : Dev) (r : ReplyTo) : serviceDrain d r [0] = if draining d then .err St.updateBusy else .later (drainStart d (some r)) := rfl

theorem serviceDrain_stop {d : Dev} (h : d.sit.drain = none) (r : ReplyTo) : serviceDrain d r [0x80] = .done (drainStopped d) [] := by
  have hform : serviceDrain d r [0x80] = .done (match d.sit.drain with | some q => anyStatus (drainStopped d) q | none => drainStopped d) [] := rfl
  rw [hform, h]

theorem drainStopped_stopped {d : Dev} (h : draining d = true) :
    draining (drainStopped d) = false
      ∧ ∀ q, q < 128 → rg (drainStopped d) (Reg.PORT_LED q) = putBits (rg d (Reg.PORT_LED q)) Fd.PORT_LED_fault_sw.1 Fd.PORT_LED_fault_sw.2 0 := by
  unfold drainStopped
  rw [if_pos h]
  have hleds : SitKept (fset d Reg.SIT_STATUS Fd.SIT_STATUS_draining 0) (ledsSet (fset d Reg.SIT_STATUS Fd.SIT_STATUS_draining 0) Fd.PORT_LED_fault_sw 0) := .ledsSet ..
  refine ⟨?_, fun q hq => ?_⟩
  · refine (fbit_congr (drainPut_regs ..) _ _).trans (hleds.draining.trans ?_)
    exact fbit_fset_self _ _ 0 rfl (by decide)
  · rw [rg_congr (drainPut_regs ..), rg_ledsSet_put _ (by decide) (by decide) _ hq, rg_fset_ne _ _ _ (status_ne_led q)]

/-- The device whose drain is complete. -/
def drainCompleted (d : Dev) : Dev :=
  ledsSet (ledsSet (drainPut (fset (fset d Reg.SIT_STATUS Fd.SIT_STATUS_draining 0) Reg.SIT_STATUS Fd.SIT_STATUS_drained 1) none) Fd.PORT_LED_fault_sw 0)
    Fd.PORT_LED_locate 1

/-- The requester of the drain is answered. -/
def drainAnswered (e : Dev) (owed : Option ReplyTo) : Dev :=
  match owed with
  | some q => replyLate e q St.ok []
  | none => e

theorem drainDone_of_idle {d : Dev} (hdr : draining d = true) (hi : drainIdle d = true) (hr : d.sit.restart = none) :
    drainDone d = drainAnswered (drainCompleted d) d.sit.drain := by
  unfold drainDone
  rw [if_neg (by rw [hdr, hi, hr]; decide)]
  rfl

/-- A drain that is complete shows it, with the fault lights automatic and the locate lights on. -/
structure DrainOver (d e : Dev) : Prop where
  draining : draining e = false
  drained : fbit e Reg.SIT_STATUS Fd.SIT_STATUS_drained = true
  sit : e.sit = { d.sit with drain := none }
  lights : ∀ q, q < 128 → fget e (Reg.PORT_LED q) Fd.PORT_LED_fault_sw = 0 ∧ fbit e (Reg.PORT_LED q) Fd.PORT_LED_locate = true

theorem drainCompleted_over (d : Dev) : DrainOver d (drainCompleted d) := by
  unfold drainCompleted
  have hdraining : Machine.draining (fset (fset d Reg.SIT_STATUS Fd.SIT_STATUS_draining 0) Reg.SIT_STATUS Fd.SIT_STATUS_drained 1) = false :=
    (fbit_fset_apart _ _ _ _ (by decide)).trans (fbit_fset_self _ _ 0 rfl (by decide))
  have hdrained : fbit (fset (fset d Reg.SIT_STATUS Fd.SIT_STATUS_draining 0) Reg.SIT_STATUS Fd.SIT_STATUS_drained 1) Reg.SIT_STATUS Fd.SIT_STATUS_drained = true :=
    fbit_fset_self _ _ 1 rfl (by decide)
  have hsit : (fset (fset d Reg.SIT_STATUS Fd.SIT_STATUS_draining 0) Reg.SIT_STATUS Fd.SIT_STATUS_drained 1).sit = d.sit := by rw [fset_sit, fset_sit]
  generalize fset (fset d Reg.SIT_STATUS Fd.SIT_STATUS_draining 0) Reg.SIT_STATUS Fd.SIT_STATUS_drained 1 = x at hdraining hdrained hsit
  have hkept : SitKept (drainPut x none) (ledsSet (ledsSet (drainPut x none) Fd.PORT_LED_fault_sw 0) Fd.PORT_LED_locate 1) := (SitKept.ledsSet ..).trans (.ledsSet ..)
  refine ⟨?_, ?_, ?_, fun q hq => ⟨?_, ?_⟩⟩
  · rw [hkept.draining]
    exact (fbit_congr (drainPut_regs ..) _ _).trans hdraining
  · rw [hkept.fbit (by decide)]
    exact (fbit_congr (drainPut_regs ..) _ _).trans hdrained
  · rw [ledsSet_sit, ledsSet_sit, drainPut, hsit]
  · rw [fget_ledsSet _ _ _ _ hq, fget_fset_apart _ _ _ _ (by decide), fget_ledsSet _ _ _ _ hq, fget_fset_self _ _ _ _ (by decide) (by decide), Nat.zero_mod]
  · rw [fbit_ledsSet _ _ _ _ hq]
    exact fbit_fset_self _ _ 1 rfl (by decide)

/-! ## The button (R554) -/

theorem exec_attnPress (ms : BitVec 32) (s : State) : exec (.attnPress ms) s = act (fun d => attnPress d ms.toNat) s := rfl
theorem exec_locateTimeout (s : State) : exec .locateTimeout s = act locateTimeout s := rfl

/-- The device with its locate timer. -/
def locateTimed (d : Dev) (on : Bool) : Dev := { d with sit := { d.sit with locate := if on then some (ns d + 300 * 10 ^ 9) else none } }

theorem locateTimed_regs (d : Dev) (on : Bool) : (locateTimed d on).regs = d.regs := rfl

theorem locateSet_eq (d : Dev) (on : Bool) :
    locateSet d on = locateTimed (ledsSet (fset d Reg.SIT_STATUS Fd.SIT_STATUS_locate on.toNat) Fd.PORT_LED_locate on.toNat) on := rfl

/-- Locate as it is set: its status, its timer and the lights. -/
structure Located (d e : Dev) (on : Bool) : Prop where
  shown : fbit e Reg.SIT_STATUS Fd.SIT_STATUS_locate = on
  timer : e.sit.locate = if on then some (ns d + 300 * 10 ^ 9) else none
  lights : ∀ q, q < 128 → rg e (Reg.PORT_LED q) = putBits (rg d (Reg.PORT_LED q)) Fd.PORT_LED_locate.1 Fd.PORT_LED_locate.2 on.toNat

theorem locateSet_located (d : Dev) (on : Bool) : Located d (locateSet d on) on := by
  have hleds : SitKept (fset d Reg.SIT_STATUS Fd.SIT_STATUS_locate on.toNat) (ledsSet (fset d Reg.SIT_STATUS Fd.SIT_STATUS_locate on.toNat) Fd.PORT_LED_locate on.toNat) :=
    .ledsSet ..
  have hns : ns (ledsSet (fset d Reg.SIT_STATUS Fd.SIT_STATUS_locate on.toNat) Fd.PORT_LED_locate on.toNat) = ns d :=
    ns_congr ((ledsSet_clk ..).trans (fset_clk ..))
  have hbit : decide (on.toNat % 2 = 1) = on := by cases on <;> rfl
  rw [locateSet_eq]
  refine ⟨?_, ?_, fun q hq => ?_⟩
  · refine (fbit_congr (locateTimed_regs ..) _ _).trans ((hleds.fbit (by decide) _).trans ?_)
    exact (fbit_fset_self _ _ _ rfl (by decide)).trans hbit
  · rw [locateTimed, hns]
  · rw [rg_congr (locateTimed_regs ..), rg_ledsSet_put _ (by decide) (by decide) _ hq, rg_fset_ne _ _ _ (status_ne_led q)]

theorem Located.of_event {d e : Dev} {r : List Byte} {on : Bool} (h : Located (eventAppended d r) e on) : Located d e on := by
  obtain ⟨hs, ht, hl⟩ := h
  have hns : ns (eventAppended d r) = ns d := rfl
  exact ⟨hs, hns ▸ ht, fun q hq => (hl q hq).trans (by rw [rg_congr (eventAppended_regs d r)])⟩

section
variable {d : Dev} {ms : Nat}

theorem attnPress_short (h : ms < 50) : attnPress d ms = d := if_pos h

theorem attnPress_locate (h : 50 ≤ ms) (h' : ms < 4000) :
    attnPress d ms = locateSet (event d 4 0 [ms]) (!fbit d Reg.SIT_STATUS Fd.SIT_STATUS_locate) := by
  unfold attnPress
  rw [if_neg (Nat.not_lt.mpr h), if_pos h']

theorem attnPress_drain (h : 4000 ≤ ms) (hd : draining d = false) : attnPress d ms = raise (drainStart (event d 4 2 [ms]) none) 984 := by
  unfold attnPress
  rw [if_neg (by omega), if_neg (Nat.not_lt.mpr h), if_neg (by rw [hd]; decide)]

end

theorem locateSet_of_press {d : Dev} {ms : Nat} (hroom : d.sit.events.length < 262144) (h : 50 ≤ ms) (h' : ms < 4000) :
    Located d (attnPress d ms) (!fbit d Reg.SIT_STATUS Fd.SIT_STATUS_locate) := by
  rw [attnPress_locate h h', event_of_room hroom]
  exact (locateSet_located _ _).of_event

theorem DrainBegun.of_event {d e : Dev} {r : List Byte} {q : Option ReplyTo} (h : DrainBegun (eventAppended d r) e q) :
    ∀ p, p < 128 → rg e (Reg.PORT_LED p) = putBits (rg d (Reg.PORT_LED p)) Fd.PORT_LED_fault_sw.1 Fd.PORT_LED_fault_sw.2 3 :=
  fun p hp => (h.lights p hp).trans (by rw [rg_congr (eventAppended_regs d r)])

theorem exec_attnPress_drain {s : State} {ms : BitVec 32} (ha : alive s.dev = true) (hroom : s.dev.sit.events.length < 262144) (h : 4000 ≤ ms.toNat)
    (hd : draining s.dev = false) :
    ∃ e, exec (.attnPress ms) s = .next (s.after (raise e 984)) ∧ draining e = true ∧ e.sit.drain = none
      ∧ ∀ q, q < 128 → rg e (Reg.PORT_LED q) = putBits (rg s.dev (Reg.PORT_LED q)) Fd.PORT_LED_fault_sw.1 Fd.PORT_LED_fault_sw.2 3 := by
  have hbegun := drainStart_begun (eventAppended s.dev (eventRecord s.dev 4 2 [ms.toNat] none)) none
  have heq := attnPress_drain h hd
  rw [event_of_room hroom] at heq
  refine ⟨_, ?_, hbegun.draining, by rw [hbegun.sit], hbegun.of_event⟩
  rw [exec_attnPress]
  exact act_of_eq ha heq

theorem locateTimeout_due {d : Dev} {t : Nat} (h : d.sit.locate = some t) : locateTimeout d = if t ≤ ns d then locateSet d false else d := by
  rw [locateTimeout, h]

/-- Settles O52: every light takes its field's value (rg_ledsSet), and Sitonel's status and state follow the drain and the button. -/
theorem drainsAndTheButton : Obligations.DrainsAndTheButton := by
  unfold Obligations.DrainsAndTheButton
  intro s h p
  dsimp only
  refine ⟨fun had => ⟨?_, ?_, ?_⟩, ?_, fun ms ha hroom => ⟨?_, ?_, fun h4 hdr => exec_attnPress_drain ha hroom h4 hdr⟩, fun t ha ht => ⟨fun hle => ?_, fun hlt => ?_⟩⟩
  · rintro rfl hdr
    obtain ⟨h1, h2, h3, h4⟩ := drainStart_begun (dequeue s.dev h 0x0830) (some (hdrReply h 0x0830))
    refine ⟨_, ?_, h1, h2, h3, h4⟩
    rw [exec_serviceDrain]
    exact cmd_later had rfl ((serviceDrain_start _ _).trans (if_neg (by rw [hdr]; decide)))
  · rintro rfl hdr
    rw [exec_serviceDrain]
    exact cmd_err had ((serviceDrain_start _ _).trans (if_pos hdr))
  · rintro rfl hdr hn
    refine ⟨drainStopped (dequeue s.dev h 0x0830), ?_, drainStopped_stopped hdr⟩
    rw [exec_serviceDrain]
    exact cmd_done had rfl (serviceDrain_stop hn _)
  · intro ha hdr hi hr
    obtain ⟨h1, h2, h3, h4⟩ := drainCompleted_over s.dev
    refine ⟨drainCompleted s.dev, ?_, h1, h2, h3, h4⟩
    rw [exec_serviceDrainComplete]
    exact act_of_eq ha (drainDone_of_idle hdr hi hr)
  · intro hlt
    rw [exec_attnPress]
    exact act_of_eq ha (attnPress_short hlt)
  · intro h50 h4
    obtain ⟨h1, h2, h3⟩ := locateSet_of_press hroom h50 h4
    refine ⟨attnPress s.dev ms.toNat, ?_, h1, ?_, h3⟩
    · rw [exec_attnPress]
      exact act_of_eq ha rfl
    · rw [h2]
      cases fbit s.dev Reg.SIT_STATUS Fd.SIT_STATUS_locate <;> simp
  · obtain ⟨h1, h2, h3⟩ := locateSet_located s.dev false
    refine ⟨locateSet s.dev false, ?_, h1, h2, h3⟩
    rw [exec_locateTimeout]
    exact act_of_eq ha ((locateTimeout_due ht).trans (if_pos hle))
  · rw [exec_locateTimeout]
    exact act_of_eq ha ((locateTimeout_due ht).trans (if_neg (Nat.not_le.mpr hlt)))

end Sys2Proof.Machine
end

section
/-! PROOFS. Quotes (R550 to R553): the leaves that a key has left, and what a closed batch spends. -/

namespace Sys2Proof.Machine

/-! ## Leaves (R551) -/

/-- The device with the copies of the keys' states. -/
def leavesPut (d : Dev) (l : List (Nat × Nat)) : Dev := { d with sit := { d.sit with leaves := l } }

/-- A copy that takes its key's new state, where it can be written. -/
def leafTaken (k v : Nat) (d : Dev) (c : Nat) (b : Bool) : Dev := if b then leafPut d k c v else d

theorem leafCopy_leafPut (d : Dev) (k c v k' c' : Nat) : leafCopy (leafPut d k c v) k' c' = if 4 * k' + c' = 4 * k + c then v else leafCopy d k' c' := by
  unfold leafCopy leafPut
  dsimp only
  split
  · next h => rw [h, tget_tset_self]
  · next h => exact tget_tset_ne _ _ _ _ h

/-- No copy rises beyond what is written. -/
theorem leafCopy_leafTaken_le {d : Dev} {k v k' c' m : Nat} (h : leafCopy d k' c' ≤ m) (hv : v ≤ m) (c : Nat) (b : Bool) : leafCopy (leafTaken k v d c b) k' c' ≤ m := by
  unfold leafTaken
  split
  · rw [leafCopy_leafPut]
    split
    · exact hv
    · exact h
  · exact h

/-- A key's copies are its own. -/
theorem leafCopy_leafTaken_ne (d : Dev) {k v k' c c' : Nat} (b : Bool) (hk : k' ≠ k) (hc : c < 3) (hc' : c' < 3) :
    leafCopy (leafTaken k v d c b) k' c' = leafCopy d k' c' := by
  unfold leafTaken
  split
  · rw [leafCopy_leafPut, if_neg (by omega)]
  · rfl

/-- The three copies, of which some take the key's new state. -/
def leavesTaken (d : Dev) (k v : Nat) (b : Nat → Bool) : Dev := leafTaken k v (leafTaken k v (leafTaken k v d 0 (b 0)) 1 (b 1)) 2 (b 2)

theorem leafWrite_eq (d : Dev) (k v : Nat) (good : Bool) : leafWrite d k v good =
    if good then leavesTaken d k v (fun _ => true) else leavesTaken (freeNat d).2 k v (fun c => ((freeNat d).1 % 7).testBit c) := rfl

theorem leafOf_congr {d e : Dev} {k : Nat} (h : ∀ c, c < 3 → leafCopy e k c = leafCopy d k c) : leafOf e k = leafOf d k := by
  unfold leafOf
  rw [h 0 (by decide), h 1 (by decide), h 2 (by decide)]

theorem leafOf_leavesTaken_ne (d : Dev) {k v k' : Nat} (b : Nat → Bool) (h : k' ≠ k) : leafOf (leavesTaken d k v b) k' = leafOf d k' := by
  refine leafOf_congr fun c hc => ?_
  unfold leavesTaken
  rw [leafCopy_leafTaken_ne _ _ h (by decide) hc, leafCopy_leafTaken_ne _ _ h (by decide) hc, leafCopy_leafTaken_ne _ _ h (by decide) hc]

/-- The next leaf is none that a copy has passed, and at most one beyond them. -/
theorem leafOf_le {d : Dev} {k m : Nat} (h : ∀ c, c < 3 → leafCopy d k c ≤ m) : leafOf d k ≤ m + 1 := by
  have h0 := h 0 (by decide)
  have h1 := h 1 (by decide)
  have h2 := h 2 (by decide)
  unfold leafOf
  dsimp only
  split <;> omega

theorem leafCopy_le_leafOf (d : Dev) (k : Nat) {c : Nat} (hc : c < 3) : leafCopy d k c ≤ leafOf d k := by
  obtain rfl | rfl | rfl : c = 0 ∨ c = 1 ∨ c = 2 := by omega
  all_goals
    unfold leafOf
    dsimp only
    split <;> omega

/-- However many copies take the next leaf, the key moves on by two at most. -/
theorem leafOf_leavesTaken_le (d : Dev) (k : Nat) (b : Nat → Bool) : leafOf (leavesTaken d k (leafOf d k + 1) b) k ≤ leafOf d k + 2 := by
  refine leafOf_le fun c hc => ?_
  have hcopy : leafCopy d k c ≤ leafOf d k + 1 := Nat.le_succ_of_le (leafCopy_le_leafOf d k hc)
  exact leafCopy_leafTaken_le (leafCopy_leafTaken_le (leafCopy_leafTaken_le hcopy (Nat.le_refl _) 0 _) (Nat.le_refl _) 1 _) (Nat.le_refl _) 2 _

/-- Where every copy takes it, the key's next leaf is the one that was written. -/
theorem leafOf_leavesTaken_all (d : Dev) (k v : Nat) : leafOf (leavesTaken d k v (fun _ => true)) k = v := by
  have hform : leavesTaken d k v (fun _ => true) = leafPut (leafPut (leafPut d k 0 v) k 1 v) k 2 v := rfl
  have hcopy (c : Nat) (hc : c < 3) : leafCopy (leavesTaken d k v (fun _ => true)) k c = v := by
    rw [hform, leafCopy_leafPut, leafCopy_leafPut, leafCopy_leafPut]
    obtain rfl | rfl | rfl : c = 0 ∨ c = 1 ∨ c = 2 := by omega
    all_goals simp
  unfold leafOf
  rw [hcopy 0 (by decide), hcopy 1 (by decide), hcopy 2 (by decide)]
  simp

/-- A closed batch costs two leaves at most. -/
theorem attestLeft_leavesTaken (d : Dev) {k : Nat} (hk : k = 0 ∨ k = 1) (b : Nat → Bool) :
    attestLeft d ≤ attestLeft (leavesTaken d k (leafOf d k + 1) b) + 2 := by
  have hle := leafOf_leavesTaken_le d k b
  unfold attestLeft
  rcases hk with rfl | rfl
  · rw [leafOf_leavesTaken_ne d b (by decide : (1 : Nat) ≠ 0)]
    omega
  · rw [leafOf_leavesTaken_ne d b (by decide : (0 : Nat) ≠ 1)]
    omega

theorem attestKey_cases (d : Dev) : attestKey d = 0 ∨ attestKey d = 1 := by
  unfold attestKey
  split
  · exact .inl rfl
  · exact .inr rfl

/-- Copies that are written change nothing else. -/
theorem leavesTaken_leavesPut (d : Dev) (k v : Nat) (b : Nat → Bool) : ∃ l, leavesTaken d k v b = leavesPut d l := by
  have hstep (x : Dev) (l : List (Nat × Nat)) (hx : x = leavesPut d l) (c : Nat) : ∃ l', leafTaken k v x c (b c) = leavesPut d l' := by
    subst hx
    unfold leafTaken
    split
    · exact ⟨_, rfl⟩
    · exact ⟨l, rfl⟩
  obtain ⟨l0, h0⟩ := hstep d d.sit.leaves rfl 0
  obtain ⟨l1, h1⟩ := hstep _ l0 h0 1
  exact hstep _ l1 h1 2

/-! ## Quotes (R552, R553) -/

theorem exec_attestQuote (h : CmdHdr) (p : List Byte) (s : State) :
    exec (.attestQuote h p) s = act (runCmd ⟨0x0810, false, false⟩ h p (fun d r => attestQuote d r p)) s := rfl

theorem exec_attestBatchClose (ok : Bool) (s : State) : exec (.attestBatchClose ok) s = act (fun d => attestClose d ok) s := rfl

theorem attestQuote_eq {p : List Byte} (h : p.length = 32) (d : Dev) (r : ReplyTo) : attestQuote d r p =
    if attestLeft d = 0 then .err St.signExhausted else .later { d with sit := { d.sit with batch := d.sit.batch ++ [(r, p, ns d)] } } := needLen_pass _ h

/-- What few leaves raise (R553). -/
def leavesWatched (left : Nat) (d : Dev) : Dev :=
  let e := if left > 65536 ∧ attestLeft d ≤ 65536 then raise d 981 else d
  if left > 4096 ∧ attestLeft e ≤ 4096 then raise e 982 else e

theorem leavesWatched_of_many {d : Dev} (left : Nat) (h : 65536 < attestLeft d) : leavesWatched left d = d := by
  have h981 : (if left > 65536 ∧ attestLeft d ≤ 65536 then raise d 981 else d) = d := if_neg (by omega)
  unfold leavesWatched
  dsimp only
  rw [h981, if_neg (by omega)]

/-- The device whose signing key has moved on. -/
def leafSpent (d : Dev) (good : Bool) : Dev := leafWrite d (attestKey d) (leafOf d (attestKey d) + 1) good

/-- The nonces of a closed batch are answered. -/
def batchAnswered (d : Dev) (b : List (ReplyTo × List Byte × Nat)) (good : Bool) : Dev :=
  if attestLeft d = 0 then b.foldl (fun d x => replyLate d x.1 St.signExhausted []) d
  else if good then
    b.foldl (fun e x => replyPartsLate e x.1 St.ok (chunksOf 2048 8 (quote d (b.map (·.2.1)))))
      (event (bump (leavesWatched (attestLeft d) (leafSpent d good)) Reg.SIT_QUOTE_CNT) 6 0 [attestKey d])
  else b.foldl (fun d x => replyLate d x.1 St.signExhausted []) (raise (leavesWatched (attestLeft d) (leafSpent d good)) 983)

/-- The device without the nonces of a closed batch. -/
def batchLeft (d : Dev) (l : List (ReplyTo × List Byte × Nat)) : Dev := { d with sit := { d.sit with batch := l } }

theorem attestClose_eq (d : Dev) (good : Bool) : attestClose d good =
    if !batchDue d ∨ d.sit.restart.isSome then d else batchAnswered (batchLeft d (d.sit.batch.drop (batchHead d).length)) (batchHead d) good := rfl

/-- A nonce is answered while leaves enough are left. -/
theorem batchAnswered_one {d : Dev} (b : ReplyTo × List Byte × Nat) (good : Bool) (hd : attestLeft d ≠ 0) (hleft : 65536 < attestLeft (leafSpent d good)) :
    batchAnswered d [b] good = if good then replyPartsLate (event (bump (leafSpent d good) Reg.SIT_QUOTE_CNT) 6 0 [attestKey d]) b.1 St.ok (chunksOf 2048 8 (quote d [b.2.1]))
      else replyLate (raise (leafSpent d good) 983) b.1 St.signExhausted [] := by
  unfold batchAnswered
  rw [if_neg hd, leavesWatched_of_many _ hleft, List.foldl_cons, List.foldl_nil, List.foldl_cons, List.foldl_nil, List.map_cons, List.map_nil]

theorem leafSpent_true (d : Dev) : leafSpent d true = leavesTaken d (attestKey d) (leafOf d (attestKey d) + 1) fun _ => true := rfl

/-- The device whose free choice has been drawn. -/
def freeDrawn (d : Dev) : Dev := { d with free := d.free + 1 }

theorem leafSpent_false (d : Dev) : leafSpent d false = leavesTaken (freeDrawn d) (attestKey d) (leafOf d (attestKey d) + 1) fun c => ((freeNat d).1 % 7).testBit c := rfl

/-- A closed batch spends two leaves at most, whichever copies could be written. -/
theorem attestLeft_leafSpent (d : Dev) (good : Bool) : attestLeft d ≤ attestLeft (leafSpent d good) + 2 := by
  cases good with
  | true => exact leafSpent_true d ▸ attestLeft_leavesTaken d (attestKey_cases d) _
  | false => exact leafSpent_false d ▸ attestLeft_leavesTaken (freeDrawn d) (attestKey_cases d) _

/-- One leaf where every copy could be. -/
theorem attestLeft_leafSpent_true (d : Dev) : attestLeft d ≤ attestLeft (leafSpent d true) + 1 := by
  have hall := leafOf_leavesTaken_all d (attestKey d) (leafOf d (attestKey d) + 1)
  rw [leafSpent_true]
  unfold attestLeft
  rcases attestKey_cases d with hk | hk
  · rw [hk] at hall ⊢
    rw [hall, leafOf_leavesTaken_ne d _ (by decide : (1 : Nat) ≠ 0)]
    omega
  · rw [hk] at hall ⊢
    rw [hall, leafOf_leavesTaken_ne d _ (by decide : (0 : Nat) ≠ 1)]
    omega

/-- A batch of one nonce that is due is answered. -/
theorem attestClose_one {d : Dev} {b : ReplyTo × List Byte × Nat} (hb : d.sit.batch = [b]) (hr : d.sit.restart = none) (ht : b.2.2 + batchNs d ≤ ns d) (good : Bool) :
    attestClose d good = batchAnswered (batchLeft d []) [b] good := by
  have hhead : batchHead d = [b] := by
    unfold batchHead
    rw [hb]
    simp [List.takeWhile]
  have hdue : batchDue d = true := by
    unfold batchDue
    rw [hb]
    simp [ht]
  rw [attestClose_eq, hhead, hb, if_neg (by rw [hdue, hr]; decide)]
  rfl

theorem attestKey_batchLeft (d : Dev) (l : List (ReplyTo × List Byte × Nat)) : attestKey (batchLeft d l) = attestKey d := rfl
theorem leafOf_batchLeft (d : Dev) (l : List (ReplyTo × List Byte × Nat)) (k : Nat) : leafOf (batchLeft d l) k = leafOf d k := rfl
theorem attestLeft_batchLeft (d : Dev) (l : List (ReplyTo × List Byte × Nat)) : attestLeft (batchLeft d l) = attestLeft d := rfl

/-- Every copy takes the key's next leaf. -/
theorem leafSpent_batchLeft (d : Dev) : leafSpent (batchLeft d []) true =
    leafPut (leafPut (leafPut (batchLeft d []) (attestKey d) 0 (leafOf d (attestKey d) + 1)) (attestKey d) 1 (leafOf d (attestKey d) + 1)) (attestKey d) 2
      (leafOf d (attestKey d) + 1) := rfl

theorem exec_attestBatchClose_one {s : State} {b : ReplyTo × List Byte × Nat} (ha : alive s.dev = true) (hb : s.dev.sit.batch = [b]) (hr : s.dev.sit.restart = none)
    (ht : b.2.2 + batchNs s.dev ≤ ns s.dev) (good : Bool) (hleft : 65538 < attestLeft s.dev ∨ (good = true ∧ 65537 < attestLeft s.dev)) :
    exec (.attestBatchClose good) s = .next (s.after
      (if good then
        replyPartsLate (event (bump (leafSpent (batchLeft s.dev []) good) Reg.SIT_QUOTE_CNT) 6 0 [attestKey (batchLeft s.dev [])]) b.1 St.ok
          (chunksOf 2048 8 (quote (batchLeft s.dev []) [b.2.1]))
      else replyLate (raise (leafSpent (batchLeft s.dev []) good) 983) b.1 St.signExhausted [])) := by
  have hsame := attestLeft_batchLeft s.dev []
  have hspent : 65536 < attestLeft (leafSpent (batchLeft s.dev []) good) := by
    rcases hleft with h | ⟨rfl, h⟩
    · have := attestLeft_leafSpent (batchLeft s.dev []) good
      omega
    · have := attestLeft_leafSpent_true (batchLeft s.dev [])
      omega
  rw [exec_attestBatchClose]
  exact act_of_eq ha ((attestClose_one hb hr ht good).trans (batchAnswered_one b good (by omega) hspent))

/-- Where not every copy could be written, nothing but the leaves and the free choice has moved. -/
theorem leafSpent_only (d : Dev) : ∃ l, leafSpent (batchLeft d []) false = leavesPut (freeDrawn (batchLeft d [])) l := by
  rw [leafSpent_false]
  exact leavesTaken_leavesPut ..

/-- Settles O50: a key's three copies take its next leaf (leafOf_leavesTaken_all, leafOf_leavesTaken_le), so the leaves left say what is answered. -/
theorem quotesSpendLeaves : Obligations.QuotesSpendLeaves := by
  unfold Obligations.QuotesSpendLeaves
  intro s h p
  refine ⟨fun had hl => ⟨fun hn => ?_, fun hn => ?_⟩, fun b ha hr hb ht hleft => ?_, fun b ha hr hb ht hleft => ?_⟩
  · rw [exec_attestQuote]
    exact cmd_later had rfl ((attestQuote_eq hl _ _).trans (if_neg hn))
  · rw [exec_attestQuote]
    exact cmd_err had ((attestQuote_eq hl _ _).trans (if_pos hn))
  · have hspent : leafOf (leafSpent (batchLeft s.dev []) true) (attestKey s.dev) = leafOf s.dev (attestKey s.dev) + 1 := leafOf_leavesTaken_all ..
    have hexec := exec_attestBatchClose_one ha hb hr ht true (.inr ⟨rfl, hleft⟩)
    rw [if_pos rfl, attestKey_batchLeft, leafSpent_batchLeft] at hexec
    rw [leafSpent_batchLeft] at hspent
    exact ⟨hexec, hspent⟩
  · have hexec := exec_attestBatchClose_one ha hb hr ht false (.inl (by omega))
    obtain ⟨l, hl⟩ := leafSpent_only s.dev
    rw [if_neg (by decide)] at hexec
    refine ⟨leafSpent (batchLeft s.dev []) false, hexec, ?_, ?_⟩
    · rw [hl]
      rfl
    · rw [hl]
      rfl

end Sys2Proof.Machine
end

section
/-! PROOFS. What management answers (R487, R492, R495, R506, R537, R538). -/

namespace Sys2Proof.Machine

/-! ## An assembly that ends (R492) -/

theorem exec_cmdAssemblyTimeout (src : Coord) (vc : BitVec 3) (s : State) :
    exec (.cmdAssemblyTimeout src vc) s = act (fun d => asmTimeout d src.toNat vc.toNat) s := rfl

/-- The device without an assembly. -/
def asmEmptied (d : Dev) : Dev := { d with cmd := { d.cmd with asm := [] } }

/-- The device that drops the later parts of a command. -/
def partsDropped (d : Dev) (c : Cmd) : Dev := { d with cmd := { d.cmd with drop := tset false d.cmd.drop (dropKey c) true } }

theorem endAsm_one {d : Dev} {a : Assembly} (h : d.cmd.asm = [a]) : endAsm d a = reply (freeCmd (asmEmptied d) a.grans) (replyOf a.first) St.incomplete [] := by
  have hnone : ([a].filter (fun x => asmKey x.first ≠ asmKey a.first)) = [] := by simp
  unfold endAsm
  rw [h, hnone]
  rfl

/-- The one assembly, out of time, ends incomplete. -/
theorem asmTimeout_one {d : Dev} {a : Assembly} (h : d.cmd.asm = [a]) (hend : a.endAt ≤ ns d) :
    asmTimeout d a.first.src a.first.vc = partsDropped (raise (endAsm d a) 970) a.first := by
  unfold asmTimeout
  rw [h, List.find?_cons_of_pos (by simp)]
  dsimp only
  rw [if_pos hend]
  rfl

/-! ## An opcode that no chapter assigns (R487) -/

theorem exec_cmdUnknownOpcode (h : CmdHdr) (op : BitVec 16) (p : List Byte) (s : State) :
    exec (.cmdUnknownOpcode h op p) s = act (fun d => unknownCmd d h op.toNat) s := rfl

theorem unknownCmd_of_unassigned (d : Dev) (h : CmdHdr) {op : Nat} (hop : op ∉ opcodes) :
    unknownCmd d h op = reply (dequeue d h op) (hdrReply h op) St.unknownOpcode [] := by
  unfold unknownCmd
  rw [if_neg (by simpa using hop)]

/-! ## Queries (R506, R537, R538) -/

theorem exec_deviceQuery (h : CmdHdr) (p : List Byte) (s : State) : exec (.deviceQuery h p) s = act (runCmd ⟨0x0801, false, true⟩ h p (fun d _ => deviceQuery d p)) s := rfl
theorem exec_eventRead (h : CmdHdr) (p : List Byte) (s : State) : exec (.eventRead h p) s = act (runCmd ⟨0x0802, true, true⟩ h p (fun d _ => eventRead d p)) s := rfl
theorem exec_sensorRead (h : CmdHdr) (p : List Byte) (s : State) : exec (.sensorRead h p) s = act (runCmd ⟨0x0803, false, true⟩ h p (fun d _ => sensorRead d p)) s := rfl

/-- The records from an index on: those before the oldest held are gone. -/
theorem eventsFrom_eq (d : Dev) (first n : Nat) : eventsFrom d first n = (d.sit.events.drop (first - (d.sit.evNext - d.sit.events.length))).take n := by
  have hsub (a b : Nat) : max a b - b = a - b := by omega
  unfold eventsFrom
  dsimp only
  rw [hsub]

theorem eventRead_eq {p : List Byte} (hl : p.length = 6) (h1 : 1 ≤ field p 4 2) (h64 : field p 4 2 ≤ 64) (d : Dev) : eventRead d p =
    .parts d (let bs := ((d.sit.events.drop (field p 0 4 - (d.sit.evNext - d.sit.events.length))).take (field p 4 2)).flatten;
      if bs = [] then [[]] else chunksOf 2048 (bs.length + 1) bs) := by
  have hchecks : firstBad [(4, decide (p.length < 6 ∨ (1 ≤ field p 4 2 ∧ field p 4 2 ≤ 64)))] = none := by
    simp only [firstBad, h1, h64, and_self, or_true, decide_true, ↓reduceIte]
  unfold eventRead longReply
  rw [checks_of_firstBad_none _ hchecks, needLen_pass _ hl, eventsFrom_eq]
  simp only [List.isEmpty_iff]

theorem sensorKnown_iff (i : Nat) : sensorKnown i = true ↔ i < 42 ∨ (48 ≤ i ∧ i < 58) ∨ i = 64 := by
  simp only [sensorKnown, Bool.or_eq_true, decide_eq_true_eq, or_assoc]

theorem sensorRead_eq {p : List Byte} (hl : p.length = 2) (hk : sensorKnown (field p 0 2) = true) (d : Dev) : sensorRead d p =
    .done d (beBytes 8 (sensorStatus d (field p 0 2) * 2 ^ 62 + (sensorAt d (field p 0 2)).val)) := by
  have hchecks : firstBad [(0, decide (p.length < 2) || sensorKnown (field p 0 2))] = none := by
    simp only [firstBad, hk, Bool.or_true, ↓reduceIte]
  unfold sensorRead
  rw [checks_of_firstBad_none _ hchecks, needLen_pass _ hl]

/-- Settles O48: each answer is the body's of its command, which a query's row leaves out of the log. -/
theorem managementAnswers : Obligations.ManagementAnswers := by
  unfold Obligations.ManagementAnswers
  intro s h p
  refine ⟨fun src vc a ha hasm hsrc hvc hend => ?_, fun op ha hop => ?_, fun had hp => ?_, fun had hl h1 h64 => ?_, fun had hl hk => ?_⟩
  · rw [exec_cmdAssemblyTimeout]
    refine act_of_eq ha ?_
    rw [← hsrc, ← hvc, asmTimeout_one hasm hend, endAsm_one hasm]
    rfl
  · rw [exec_cmdUnknownOpcode]
    exact act_of_eq ha (unknownCmd_of_unassigned s.dev h hop)
  · rw [exec_deviceQuery]
    exact cmd_query had rfl (needLen_pass _ (congrArg List.length hp))
  · rw [exec_eventRead]
    exact cmd_query_parts had rfl (eventRead_eq hl h1 h64 _)
  · rw [exec_sensorRead]
    exact cmd_query had rfl (sensorRead_eq hl ((sensorKnown_iff _).mpr hk) _)

end Sys2Proof.Machine
end

section
/-! PROOFS. Reads of the register bus and the sweep of the voted fields (R513, R519, R520). -/

namespace Sys2Proof.Machine

/-! ## Reads (R513) -/

theorem exec_multiwordLatchRead (who : Req) (addr : BitVec 28) (s : State) :
    exec (.multiwordLatchRead who addr) s = actReg (fun d => busRead d who addr.toNat) s := rfl

/-- The device whose requester has latched the higher n words of a field that begins at lo. -/
def wordsLatched (d : Dev) (who : Req) (lo n : Nat) : Dev :=
  (List.range n).foldl (fun e i =>
    { e with bus := { e.bus with latch := tset none e.bus.latch (busKey who (lo + 4 * (i + 1))) (some (regView d (lo + 4 * (i + 1)))) } }) d

/-- The device whose requester has been answered a word. -/
def wordAnswered (d : Dev) (who : Req) (x : Nat) : Dev := { d with bus := { d.bus with last := tset 0 d.bus.last (isMgmt who).toNat x } }

theorem busKey_inj {who : Req} {a b : Nat} (h : busKey who a = busKey who b) : a = b := by
  unfold busKey at h
  omega

/-- Latched words: each as the register shows it, every other latch as before. -/
theorem tget_wordsLatched (d : Dev) (who : Req) (lo n k : Nat) : tget none (wordsLatched d who lo n).bus.latch (busKey who (lo + 4 * k)) =
    if 1 ≤ k ∧ k ≤ n then some (regView d (lo + 4 * k)) else tget none d.bus.latch (busKey who (lo + 4 * k)) := by
  induction n with
  | zero => rw [if_neg (by omega)]; rfl
  | succ n ih =>
    have hstep : (wordsLatched d who lo (n + 1)).bus.latch
        = tset none (wordsLatched d who lo n).bus.latch (busKey who (lo + 4 * (n + 1))) (some (regView d (lo + 4 * (n + 1)))) := by
      unfold wordsLatched
      rw [List.range_succ, List.foldl_append]
      rfl
    rw [hstep]
    by_cases hk : k = n + 1
    · subst hk
      rw [tget_tset_self, if_pos (by omega)]
    · rw [tget_tset_ne _ _ _ _ fun h => hk (by have := busKey_inj h; omega), ih]
      by_cases hin : 1 ≤ k ∧ k ≤ n
      · rw [if_pos hin, if_pos (by omega)]
      · rw [if_neg hin, if_neg (by omega)]

/-- The device with the latches of the requesters. -/
def latchPut (d : Dev) (l : List (Nat × Option Nat)) : Dev := { d with bus := { d.bus with latch := l } }

/-- Nothing but the latches moves. -/
theorem wordsLatched_only (d : Dev) (who : Req) (lo n : Nat) : ∃ l, wordsLatched d who lo n = latchPut d l := by
  refine List.foldlRecOn (motive := fun e => ∃ l, e = latchPut d l) (List.range n) _ ⟨d.bus.latch, rfl⟩ fun e he i _ => ?_
  obtain ⟨l, rfl⟩ := he
  exact ⟨_, rfl⟩

/-! ## Blocks and their registers -/

/-- An assigned register lies in a block. -/
theorem blkOf_of_regFlds {a : Nat} {fs : List Fld} (h : regFlds a = some fs) : ∃ b inst, blkOf a = some (b, inst) := by
  unfold regFlds at h
  split at h
  · cases h
  · next b inst hb => exact ⟨b, inst, hb⟩

/-- What an allowed read answers: a higher word of a field as it was latched. -/
def readWord (d : Dev) (who : Req) (a : Nat) : Nat :=
  match multiWord a with
  | some (lo, _) => if a = lo then regView d a else (tget none d.bus.latch (busKey who a)).getD (regView d a)
  | none => regView d a

section
variable {d : Dev} {who : Req} {a : Nat} {b : BlkRow} {inst : Nat} {fs : List Fld} (hbus : BusReady d) (hown : a % 0x4000 < 0x1000)
  (hs : ∀ b inst, blkOf a = some (b, inst) → reqSecure d who = true ∨ blkSecure d b.kind = false) (hf : regFlds a = some fs)
include hbus hown hs hf

omit hown in
theorem readReaches_of_ready : readReaches d who a = true := by
  obtain ⟨b, inst, hb⟩ := blkOf_of_regFlds hf
  unfold readReaches
  rw [hb]
  dsimp only
  rw [blkAnswers_of_alive b.kind hbus.1, hbus.2]
  rcases hs b inst hb with h | h <;> simp [h]

theorem readData_of_ready : readData d who a = readWord d who a := by
  obtain ⟨b, inst, hb⟩ := blkOf_of_regFlds hf
  have hreach : ¬((!reqSecure d who) = true ∧ blkSecure d b.kind = true ∧ a % 0x4000 ≠ 0 ∧ a % 0x4000 ≠ 4) := by
    rcases hs b inst hb with h | h <;> simp [h]
  unfold readData
  rw [blkBase_add_own hown]
  dsimp only
  rw [hb, hf]
  dsimp only
  rw [if_neg (by simp [blkAnswers_of_alive b.kind hbus.1]), if_neg (by simp [hbus.2]), if_neg hreach]
  rfl

/-- A read of a register that is no part of a wider field answers it. -/
theorem busRead_of_single (hm : multiWord a = none) : busRead d who a = wordAnswered d who (regView d a) := by
  have hx := readData_of_ready hbus hown hs hf
  simp only [readWord, hm] at hx
  unfold busRead
  rw [blkBase_add_own hown]
  dsimp only
  rw [hf, hm, hx]
  rfl

/-- A read of the lowest word latches the higher ones. -/
theorem busRead_of_lowest {n : Nat} (hm : multiWord a = some (a, n)) : busRead d who a = wordAnswered (wordsLatched d who a (n - 1)) who (regView d a) := by
  have hx := readData_of_ready hbus hown hs hf
  simp only [readWord, hm, ↓reduceIte] at hx
  unfold busRead
  rw [blkBase_add_own hown]
  dsimp only
  rw [hf, hm, hx]
  dsimp only
  rw [if_pos ⟨rfl, readReaches_of_ready hbus hs hf⟩]
  rfl

/-- A read of a higher word answers what was latched. -/
theorem busRead_of_higher {lo n : Nat} (hm : multiWord a = some (lo, n)) (hne : a ≠ lo) :
    busRead d who a = wordAnswered d who ((tget none d.bus.latch (busKey who a)).getD (regView d a)) := by
  have hx := readData_of_ready hbus hown hs hf
  simp only [readWord, hm, hne, ↓reduceIte] at hx
  unfold busRead
  rw [blkBase_add_own hown]
  dsimp only
  rw [hf, hm, hx]
  dsimp only
  rw [if_neg fun h => hne h.1]
  rfl

end

theorem isMgmt_eq (who : Req) : isMgmt who = decide (who = .mgmt) := by cases who <;> rfl

/-- What a read leaves of the bus and the device. -/
structure ReadDone (d e : Dev) (who : Req) (a : Nat) : Prop where
  rest : { e with bus := d.bus } = d
  posted : e.bus.posted = d.bus.posted
  held : e.bus.held = d.bus.held
  single : multiWord a = none → tget 0 e.bus.last (decide (who = .mgmt)).toNat = regView d a ∧ e.bus.latch = d.bus.latch
  lowest : ∀ n, multiWord a = some (a, n) → tget 0 e.bus.last (decide (who = .mgmt)).toNat = regView d a
    ∧ ∀ i, 1 ≤ i → i < n → tget none e.bus.latch (busKey who (a + 4 * i)) = some (regView d (a + 4 * i))
  higher : ∀ lo n, multiWord a = some (lo, n) → a ≠ lo → e.bus.latch = d.bus.latch
    ∧ ∀ x, tget none d.bus.latch (busKey who a) = some x → tget 0 e.bus.last (decide (who = .mgmt)).toNat = x

theorem wordAnswered_last (d : Dev) (who : Req) (x : Nat) : tget 0 (wordAnswered d who x).bus.last (decide (who = .mgmt)).toNat = x := by
  rw [wordAnswered, ← isMgmt_eq]
  exact tget_tset_self ..

theorem wordAnswered_latch (d : Dev) (who : Req) (x : Nat) : (wordAnswered d who x).bus.latch = d.bus.latch := rfl

theorem busRead_done {d : Dev} {who : Req} {a : Nat} (hbus : BusReady d) (hown : a % 0x4000 < 0x1000)
    (hs : ∀ b inst, blkOf a = some (b, inst) → reqSecure d who = true ∨ blkSecure d b.kind = false) (hf : regFlds a ≠ none) : ReadDone d (busRead d who a) who a := by
  obtain ⟨fs, hfs⟩ := Option.ne_none_iff_exists'.mp hf
  have hsome {x y : Nat × Nat} (hx : multiWord a = some x) (hy : multiWord a = some y) : x = y := Option.some.inj (hx.symm.trans hy)
  cases hm : multiWord a with
  | none =>
    rw [busRead_of_single hbus hown hs hfs hm]
    have hno {x : Nat × Nat} (h : multiWord a = some x) : False := by simp [hm] at h
    exact ⟨rfl, rfl, rfl, fun _ => ⟨wordAnswered_last .., rfl⟩, fun _ h => (hno h).elim, fun _ _ h => (hno h).elim⟩
  | some m =>
    obtain ⟨lo, n⟩ := m
    have hno (h : multiWord a = none) : False := by simp [hm] at h
    by_cases ha : a = lo
    · subst ha
      rw [busRead_of_lowest hbus hown hs hfs hm]
      obtain ⟨l, hl⟩ := wordsLatched_only d who a (n - 1)
      refine ⟨by rw [hl]; rfl, by rw [hl]; rfl, by rw [hl]; rfl, fun h => (hno h).elim, fun n' h => ⟨wordAnswered_last .., fun i h1 hi => ?_⟩, fun lo' n' h hne => ?_⟩
      · have hn : n = n' := congrArg Prod.snd (hsome hm h)
        rw [wordAnswered_latch, tget_wordsLatched, if_pos (by omega)]
      · exact absurd (congrArg Prod.fst (hsome hm h)) hne
    · rw [busRead_of_higher hbus hown hs hfs hm ha]
      refine ⟨rfl, rfl, rfl, fun h => (hno h).elim, fun n' h => absurd (congrArg Prod.fst (hsome hm h)).symm ha, fun _ _ _ _ => ⟨rfl, fun x hx => ?_⟩⟩
      rw [wordAnswered_last, hx, Option.getD_some]

/-! ## Votes (R519, R520) -/

theorem exec_voteSweep (ups : List (BitVec 28 × Fin 3 × Word)) (s : State) :
    exec (.voteSweep ups) s = act (fun d => voteSweep d (ups.map (fun u => (u.1.toNat, u.2.1.val, u.2.2.toNat)))) s := rfl

/-- What a copy of a word that holds w has become. -/
def copyWord (w : Nat) (ups : List (Nat × Nat)) (k : Nat) : Nat := (ups.filter (fun u => decide (u.1 = k))).foldl (fun v u => v ^^^ u.2) w

/-- The votes over the voted fields of a register. -/
def votesCast (a w : Nat) (fs : List Fld) (ups : List (Nat × Nat)) : Nat × Nat × Bool :=
  fs.foldl (voteFld a [copyWord w ups 0, copyWord w ups 1, copyWord w ups 2]) (w, 0, false)

theorem bits_xor (n m hi lo : Nat) : bits (n ^^^ m) hi lo = bits n hi lo ^^^ bits m hi lo := by
  unfold bits
  rw [Nat.shiftRight_xor_distrib, Nat.xor_mod_two_pow]

theorem xor_eq_self_iff (n m : Nat) : n ^^^ m = n ↔ m = 0 := by
  conv_lhs => rhs; rw [← Nat.xor_zero n]
  exact Nat.xor_right_inj

theorem voteFld_of (a p q r : Nat) (x : Nat × Nat × Bool) (f : Fld) : voteFld a [p, q, r] x f =
    if bits p f.hi f.lo = bits q f.hi f.lo ∧ bits q f.hi f.lo = bits r f.hi f.lo then x
    else if bits p f.hi f.lo = bits q f.hi f.lo ∨ bits p f.hi f.lo = bits r f.hi f.lo then (putBits x.1 f.hi f.lo (bits p f.hi f.lo), x.2.1 + 1, x.2.2)
    else if bits q f.hi f.lo = bits r f.hi f.lo then (putBits x.1 f.hi f.lo (bits q f.hi f.lo), x.2.1 + 1, x.2.2)
    else (putBits x.1 f.hi f.lo (bits (resetWord a).toNat f.hi f.lo), x.2.1, true) := rfl

/-! ### One copy changed: it is outvoted -/

theorem copyWord_one (w c x k : Nat) : copyWord w [(c, x)] k = if c = k then w ^^^ x else w := by
  unfold copyWord
  by_cases h : c = k
  · rw [if_pos h, List.filter_cons_of_pos (by simpa using h)]
    rfl
  · rw [if_neg h, List.filter_cons_of_neg (by simpa using h)]
    rfl

/-- A field that the change touches is repaired and counted; any other is as it was. -/
theorem voteFld_one {a w x : Nat} {c : Fin 3} (m : Nat) (b : Bool) {f : Fld} (hf : f.lo ≤ f.hi) :
    voteFld a [copyWord w [(c.val, x)] 0, copyWord w [(c.val, x)] 1, copyWord w [(c.val, x)] 2] (w, m, b) f =
      (w, m + (decide (bits x f.hi f.lo ≠ 0)).toNat, b) := by
  have hput : putBits w f.hi f.lo (bits w f.hi f.lo) = w := putBits_bits_self w hf
  have hx := xor_eq_self_iff (bits w f.hi f.lo) (bits x f.hi f.lo)
  have hx' : bits w f.hi f.lo = bits w f.hi f.lo ^^^ bits x f.hi f.lo ↔ bits x f.hi f.lo = 0 := eq_comm.trans hx
  rw [voteFld_of, copyWord_one, copyWord_one, copyWord_one]
  by_cases h0 : bits x f.hi f.lo = 0
  · fin_cases c <;> simp [bits_xor, h0]
  · fin_cases c <;> simp [bits_xor, h0, hx, hx', hput]

/-- The votes over one changed copy repair every field, and count those that it touches. -/
theorem votesCast_one (a w x : Nat) (c : Fin 3) {fs : List Fld} (hfs : ∀ f ∈ fs, f.lo ≤ f.hi) :
    votesCast a w fs [(c.val, x)] = (w, (fs.filter (fun f => decide (bits x f.hi f.lo ≠ 0))).length, false) := by
  have hfold (fs : List Fld) (m : Nat) (hfs : ∀ f ∈ fs, f.lo ≤ f.hi) :
      fs.foldl (voteFld a [copyWord w [(c.val, x)] 0, copyWord w [(c.val, x)] 1, copyWord w [(c.val, x)] 2]) (w, m, false)
        = (w, m + (fs.filter (fun f => decide (bits x f.hi f.lo ≠ 0))).length, false) := by
    induction fs generalizing m with
    | nil => rfl
    | cons f fs ih =>
      obtain ⟨hf, hrest⟩ := List.forall_mem_cons.mp hfs
      rw [List.foldl_cons, voteFld_one m false hf, ih _ hrest, List.filter_cons]
      by_cases h0 : bits x f.hi f.lo = 0
      · simp [h0]
      · simp [h0]
        omega
  unfold votesCast
  rw [hfold fs 0 hfs, Nat.zero_add]

/-! ### Every copy of a field differs: it takes its reset value -/

theorem copyWord_two (w x y : Nat) : copyWord w [(0, x), (1, y)] 0 = w ^^^ x ∧ copyWord w [(0, x), (1, y)] 1 = w ^^^ y ∧ copyWord w [(0, x), (1, y)] 2 = w :=
  ⟨rfl, rfl, rfl⟩

section
variable {a w x y : Nat} {f : Fld}

theorem voteFld_split (h0x : bits x f.hi f.lo ≠ 0) (h0y : bits y f.hi f.lo ≠ 0) (hxy : bits x f.hi f.lo ≠ bits y f.hi f.lo) (u : Nat × Nat × Bool) :
    voteFld a [w ^^^ x, w ^^^ y, w] u f = (putBits u.1 f.hi f.lo (bits (resetWord a).toNat f.hi f.lo), u.2.1, true) := by
  have hne : bits w f.hi f.lo ^^^ bits x f.hi f.lo ≠ bits w f.hi f.lo ^^^ bits y f.hi f.lo := fun h => hxy (Nat.xor_right_inj.mp h)
  rw [voteFld_of]
  simp only [bits_xor, hne, xor_eq_self_iff, h0x, h0y, false_and, or_self, ↓reduceIte]

theorem voteFld_agreed (h0x : bits x f.hi f.lo = 0) (h0y : bits y f.hi f.lo = 0) (u : Nat × Nat × Bool) : voteFld a [w ^^^ x, w ^^^ y, w] u f = u := by
  rw [voteFld_of]
  simp only [bits_xor, h0x, h0y, Nat.xor_zero, and_self, ↓reduceIte]

end

/-- A field that takes the same value again stays. -/
theorem putBits_putBits_self (n : Nat) {hi lo v : Nat} (h : lo ≤ hi) (hv : v < 2 ^ (hi + 1 - lo)) : putBits (putBits n hi lo v) hi lo v = putBits n hi lo v := by
  have hb := bits_putBits_of_lt n h hv
  have hs := putBits_bits_self (putBits n hi lo v) h
  rwa [hb] at hs

/-- The votes where every copy of the one field f differs. -/
theorem votesCast_split {a w x y : Nat} {f : Fld} (hf : f.lo ≤ f.hi) (h0x : bits x f.hi f.lo ≠ 0) (h0y : bits y f.hi f.lo ≠ 0)
    (hxy : bits x f.hi f.lo ≠ bits y f.hi f.lo) {fs : List Fld} (hmem : f ∈ fs) (hrest : ∀ g ∈ fs, g ≠ f → bits x g.hi g.lo = 0 ∧ bits y g.hi g.lo = 0) :
    votesCast a w fs [(0, x), (1, y)] = (putBits w f.hi f.lo (bits (resetWord a).toNat f.hi f.lo), 0, true) := by
  obtain ⟨h0, h1, h2⟩ := copyWord_two w x y
  have hagain := putBits_putBits_self w hf (bits_lt (resetWord a).toNat f.hi f.lo)
  have hkept (gs : List Fld) (hgs : ∀ g ∈ gs, g ≠ f → bits x g.hi g.lo = 0 ∧ bits y g.hi g.lo = 0) :
      gs.foldl (voteFld a [w ^^^ x, w ^^^ y, w]) (putBits w f.hi f.lo (bits (resetWord a).toNat f.hi f.lo), 0, true)
        = (putBits w f.hi f.lo (bits (resetWord a).toNat f.hi f.lo), 0, true) := by
    induction gs with
    | nil => rfl
    | cons g gs ih =>
      obtain ⟨hg, hgs⟩ := List.forall_mem_cons.mp hgs
      rw [List.foldl_cons]
      by_cases he : g = f
      · subst he
        rw [voteFld_split h0x h0y hxy, hagain, ih hgs]
      · rw [voteFld_agreed (hg he).1 (hg he).2, ih hgs]
  have hfirst (gs : List Fld) (hgs : ∀ g ∈ gs, g ≠ f → bits x g.hi g.lo = 0 ∧ bits y g.hi g.lo = 0) (hm : f ∈ gs) :
      gs.foldl (voteFld a [w ^^^ x, w ^^^ y, w]) (w, 0, false) = (putBits w f.hi f.lo (bits (resetWord a).toNat f.hi f.lo), 0, true) := by
    induction gs with
    | nil => cases hm
    | cons g gs ih =>
      obtain ⟨hg, hgs⟩ := List.forall_mem_cons.mp hgs
      rw [List.foldl_cons]
      by_cases he : g = f
      · subst he
        rw [voteFld_split h0x h0y hxy, hkept gs hgs]
      · rw [voteFld_agreed (hg he).1 (hg he).2, ih hgs ((List.mem_cons.mp hm).resolve_left (Ne.symm he))]
  unfold votesCast
  rw [h0, h1, h2]
  exact hfirst fs hrest hmem

/-! ### The sweep of a register -/

/-- What a sweep leaves of a register, by its votes. -/
def sweptOf (d : Dev) (a : Nat) (r : Nat × Nat × Bool) : Dev :=
  let e := if r.1 = rg d a then d else votePut d a r.1
  let e := if r.2.1 = 0 then e else raiseOnce (bump e (Reg.VOTE_MISMATCH_CNT (blkBase a)) r.2.1) 972 0
  if r.2.2 then raise (fset e (Reg.BLK_STATUS (blkBase a)) Fd.BLK_STATUS_vote_fail 1) 973 else e

theorem voteReg_eq {d : Dev} {a : Nat} {b : BlkRow} {inst : Nat} {fs : List Fld} (hb : blkOf a = some (b, inst)) (hf : regFlds a = some fs) (ups : List (Nat × Nat)) :
    voteReg d a ups = sweptOf d a (votesCast a (rg d a) (fs.filter (triple b.kind (a % 0x4000))) ups) := by
  unfold voteReg
  rw [hb, hf]
  rfl

/-- A sweep of one register whose copies have met changes. -/
theorem voteSweep_one (d : Dev) (a : Nat) (u : Nat × Nat) (ups : List (Nat × Nat)) :
    voteSweep d ((u :: ups).map (fun x => (a, x))) = voteReg d a (u :: ups) := by
  have hkeys (l : List (Nat × Nat)) : ((l.map (fun x => (a, x))).map (·.1)).filter (fun b => !b == a) = [] := by
    simp
  have hmine (l : List (Nat × Nat)) : ((l.map (fun x => (a, x))).filter (fun u => decide (u.1 = a))).map (·.2) = l := by
    induction l with
    | nil => rfl
    | cons x l ih => simp_all
  unfold voteSweep
  rw [List.map_cons, List.map_cons, List.eraseDups_cons, hkeys, List.eraseDups_nil, List.foldl_cons, List.foldl_nil, ← List.map_cons (f := fun x => (a, x)), hmine]

theorem sweptOf_counted (d : Dev) (a n : Nat) :
    sweptOf d a (rg d a, n, false) = if n = 0 then d else raiseOnce (bump d (Reg.VOTE_MISMATCH_CNT (blkBase a)) n) 972 0 := by
  unfold sweptOf
  dsimp only
  rw [if_pos rfl, if_neg (by decide)]

/-! ### The blocks whose registers act when a vote changes them -/

theorem blkOf_mem {a : Nat} {b : BlkRow} {inst : Nat} (h : blkOf a = some (b, inst)) : b ∈ blkRows ∧ b.base ≤ a ∧ a < b.base + 0x4000 * b.count := by
  obtain ⟨b', hb, he⟩ := List.exists_of_findSome?_eq_some h
  split at he
  · next hin =>
    obtain rfl : b' = b := congrArg Prod.fst (Option.some.inj he)
    exact ⟨hb, hin⟩
  · cases he

/-- The bell's and the route block's registers stand in their own blocks. -/
theorem blkRows_apart : ∀ b ∈ blkRows, b.kind ≠ 0x08 → b.kind ≠ 0x0E →
    ¬(b.base ≤ Reg.BELL_CTRL ∧ Reg.BELL_CTRL < b.base + 0x4000 * b.count) ∧ (Reg.PORT_CFG 127 < b.base ∨ b.base + 0x4000 * b.count ≤ Reg.PORT_CFG 0) := by decide

/-- Elsewhere a vote that changes a register just puts its word. -/
theorem votePut_of_plain {a : Nat} {b : BlkRow} {inst : Nat} (hb : blkOf a = some (b, inst)) (h8 : b.kind ≠ 0x08) (hE : b.kind ≠ 0x0E) (d : Dev) (new : Nat) :
    votePut d a new = rgPut d a new := by
  obtain ⟨hmem, hlow, hhigh⟩ := blkOf_mem hb
  obtain ⟨hbell, hport⟩ := blkRows_apart b hmem h8 hE
  have hne : a ≠ Reg.BELL_CTRL := by
    rintro rfl
    exact hbell ⟨hlow, hhigh⟩
  have hout : ¬(Reg.PORT_CFG 0 ≤ a ∧ a ≤ Reg.PORT_CFG 127) := by omega
  unfold votePut
  dsimp only
  rw [if_neg fun h => hne h.1, if_neg fun h => hout ⟨h.1, h.2.1⟩, if_neg fun h => hout ⟨h.1, h.2.1⟩]

theorem commonRows_fit : ∀ r ∈ commonRows, ∀ f ∈ r.flds, f.hi < 32 := by decide +kernel

theorem rowsOf_fit (kind : Nat) : ∀ r ∈ rowsOf kind, ∀ f ∈ r.flds, f.hi < 32 := by
  unfold rowsOf
  split <;> decide +kernel

/-- Every field lies in its word. -/
theorem regFlds_fit {a : Nat} {fs : List Fld} (h : regFlds a = some fs) : ∀ f ∈ fs, f.hi < 32 := by
  unfold regFlds at h
  split at h
  · cases h
  · obtain ⟨⟨r, i⟩, hr, rfl⟩ := Option.map_eq_some_iff.mp h
    rcases findRow_mem hr with hm | hm
    · exact commonRows_fit r hm
    · exact rowsOf_fit _ r hm

/-- The device whose voted register has taken a word, or already held it. -/
def votePutWord (d : Dev) (a new : Nat) : Dev := if new = rg d a then d else rgPut d a new

theorem votePutWord_onlyRegs (d : Dev) (a new : Nat) : OnlyRegs [a] d (votePutWord d a new) := by
  unfold votePutWord
  split
  · exact ⟨rfl, fun _ _ => rfl⟩
  · exact rgPut_onlyRegs ..

theorem rg_votePutWord {d : Dev} {a new : Nat} (h : new < 2 ^ 32) : rg (votePutWord d a new) a = new := by
  unfold votePutWord
  split
  · next he => exact he.symm
  · rw [rg_rgPut_self, Nat.mod_eq_of_lt h]

theorem sweptOf_split {d : Dev} {a : Nat} {b : BlkRow} {inst : Nat} (hb : blkOf a = some (b, inst)) (h8 : b.kind ≠ 0x08) (hE : b.kind ≠ 0x0E) (new : Nat) :
    sweptOf d a (new, 0, true) = raise (fset (votePutWord d a new) (Reg.BLK_STATUS (blkBase a)) Fd.BLK_STATUS_vote_fail 1) 973 := by
  unfold sweptOf votePutWord
  dsimp only
  rw [votePut_of_plain hb h8 hE, if_pos rfl, if_pos rfl]

/-- Settles O57: a read answers and latches as its field's place says (busRead_done); votes repair what they outvote (votesCast_one, votesCast_split). -/
theorem readsLatchAndVotesRepair : Obligations.ReadsLatchAndVotesRepair := by
  unfold Obligations.ReadsLatchAndVotesRepair
  intro s who addr
  refine ⟨fun hbus hs hown hf => ?_, fun b inst fs c x ha hb hf => ?_, fun b inst fs f x y ha hb h8 hE hf hmem ht hoff hx hy hxy hrest => ?_⟩
  · obtain ⟨h1, h2, h3, h4, h5, h6⟩ := busRead_done hbus hown hs hf
    refine ⟨busRead s.dev who addr.toNat, ?_, h1, h2, h3, h4, fun lo n hm => ⟨?_, fun hne => h6 lo n hm hne⟩⟩
    · rw [exec_multiwordLatchRead]
      exact actReg_of_eq hbus.1 rfl
    · rintro rfl
      exact h5 n hm
  · have hspan : ∀ f ∈ fs.filter (triple b.kind (addr.toNat % 0x4000)), f.lo ≤ f.hi := fun f hm => (regFlds_descend hf).1 f (List.mem_filter.mp hm).1
    rw [exec_voteSweep]
    refine act_of_eq ha ((voteSweep_one s.dev addr.toNat (c.val, x.toNat) []).trans ?_)
    rw [voteReg_eq hb hf, votesCast_one _ _ _ c hspan, sweptOf_counted]
    simp only [List.length_eq_zero_iff]
  · have hspan := (regFlds_descend hf).1 f hmem
    have hfit := regFlds_fit hf f hmem
    have hvotes := votesCast_split (a := addr.toNat) (w := rg s.dev addr.toNat) hspan hx hy hxy
      (List.mem_filter.mpr ⟨hmem, ht⟩ : f ∈ fs.filter (triple b.kind (addr.toNat % 0x4000))) fun g hg => hrest g (List.mem_filter.mp hg).1
    have hlt := putBits_lt (bits (resetWord addr.toNat).toNat f.hi f.lo) (rg_lt s.dev addr.toNat) hspan hfit
    have hne : addr.toNat ≠ Reg.BLK_STATUS (blkBase addr.toNat) := by
      unfold Reg.BLK_STATUS blkBase
      omega
    have hword := rg_votePutWord (d := s.dev) (a := addr.toNat) hlt
    generalize hnew : putBits (rg s.dev addr.toNat) f.hi f.lo (bits (resetWord addr.toNat).toNat f.hi f.lo) = new at hvotes hword
    refine ⟨fset (votePutWord s.dev addr.toNat new) (Reg.BLK_STATUS (blkBase addr.toNat)) Fd.BLK_STATUS_vote_fail 1, ?_, ?_, fbit_fset_self _ _ 1 rfl (by decide), ?_⟩
    · rw [exec_voteSweep]
      refine act_of_eq ha ((voteSweep_one s.dev addr.toNat (0, x.toNat) [(1, y.toNat)]).trans ?_)
      rw [voteReg_eq hb hf, hvotes, sweptOf_split hb h8 hE]
    · rw [rg_fset_ne _ _ _ hne, hword, ← hnew, bits_putBits_of_lt _ hspan (bits_lt ..)]
    · exact ((votePutWord_onlyRegs ..).mono (by simp)).trans ((fset_onlyRegs ..).mono (by simp))

end Sys2Proof.Machine
end

section
/-! PROOFS. Writes on the register bus (R512, R514, R517, R518): a write and its aliases reach the register of a block that only holds values. -/

namespace Sys2Proof.Machine

/-! ## Bits of a word that a set, clear or toggle forms (R514) -/

/-- A difference without a borrow across a power. -/
theorem sub_div_of_mod_le {n k L : Nat} (hL : 0 < L) (hk : k ≤ n) (h : k % L ≤ n % L) : (n - k) / L = n / L - k / L ∧ (n - k) % L = n % L - k % L := by
  have hn := Nat.div_add_mod n L
  have hk' := Nat.div_add_mod k L
  have hlt := Nat.mod_lt n hL
  have hq : k / L ≤ n / L := Nat.div_le_div_right hk
  obtain ⟨c, hc⟩ := Nat.exists_eq_add_of_le hq
  have hsub : n - k = (n % L - k % L) + L * c := by
    have : L * (n / L) = L * (k / L) + L * c := by rw [hc, Nat.mul_add]
    omega
  have hr : n % L - k % L < L := by omega
  constructor
  · rw [hsub, Nat.add_mul_div_left _ _ hL, Nat.div_eq_of_lt hr, hc]
    omega
  · rw [hsub, Nat.add_mul_mod_self_left, Nat.mod_eq_of_lt hr]

theorem bits_and (n m hi lo : Nat) : bits (n &&& m) hi lo = bits n hi lo &&& bits m hi lo := by
  unfold bits
  rw [Nat.shiftRight_and_distrib, Nat.and_mod_two_pow]

theorem bits_or (n m hi lo : Nat) : bits (n ||| m) hi lo = bits n hi lo ||| bits m hi lo := by
  unfold bits
  rw [Nat.shiftRight_or_distrib, Nat.or_mod_two_pow]

/-- Bits cleared in a number are cleared in its fields. -/
theorem bits_clear (n m hi lo : Nat) : bits (n - (n &&& m)) hi lo = bits n hi lo - (bits n hi lo &&& bits m hi lo) := by
  have hlow : (n &&& m) % 2 ^ lo ≤ n % 2 ^ lo := by
    rw [Nat.and_mod_two_pow]
    exact Nat.and_le_left
  have hmid : (n &&& m) / 2 ^ lo % 2 ^ (hi + 1 - lo) ≤ n / 2 ^ lo % 2 ^ (hi + 1 - lo) := by
    have := bits_and n m hi lo
    simp only [bits, Nat.shiftRight_eq_div_pow] at this
    rw [this]
    exact Nat.and_le_left
  have hdiv := (sub_div_of_mod_le (Nat.two_pow_pos lo) Nat.and_le_left hlow).1
  have hmod := (sub_div_of_mod_le (Nat.two_pow_pos (hi + 1 - lo)) (Nat.div_le_div_right Nat.and_le_left) hmid).2
  rw [← bits_and]
  simp only [bits, Nat.shiftRight_eq_div_pow]
  rw [hdiv, hmod]

/-- A pass over a register's fields, each of which leaves the fields apart from it, comes in a field to what that field's own step makes of it. -/
theorem bits_foldl_field {step : Nat → Fld → Nat} {fs : List Fld} {f : Fld} (hfs : FieldsDescend fs) (hf : f ∈ fs)
    (hkeep : ∀ g w, g.lo ≤ g.hi → g.Apart f → bits (step w g) f.hi f.lo = bits w f.hi f.lo) (w : Nat) :
    ∃ u, bits u f.hi f.lo = bits w f.hi f.lo ∧ bits (fs.foldl step w) f.hi f.lo = bits (step u f) f.hi f.lo := by
  have hlist (l : List Fld) (hl : ∀ g ∈ l, g.lo ≤ g.hi ∧ g.Apart f) (w : Nat) : bits (l.foldl step w) f.hi f.lo = bits w f.hi f.lo := by
    induction l generalizing w with
    | nil => rfl
    | cons g l ih =>
      obtain ⟨hg, hrest⟩ := List.forall_mem_cons.mp hl
      rw [List.foldl_cons, ih hrest, hkeep g w hg.1 hg.2]
  have hspan := hfs.1
  obtain ⟨l, r, rfl⟩ := List.append_of_mem hf
  have hapart := hfs.apart_of_append
  refine ⟨l.foldl step w, hlist l (fun g hg => ⟨hspan g (by simp [hg]), hapart g (by simp [hg])⟩) w, ?_⟩
  rw [List.foldl_append, List.foldl_cons]
  exact hlist r (fun g hg => ⟨hspan g (by simp [hg]), hapart g (by simp [hg])⟩) _

/-- The readable fields of a word. -/
def readableWord (old : Nat) (w : Nat) (f : Fld) : Nat :=
  match f.acc with
  | .ro | .rw => putBits w f.hi f.lo (bits old f.hi f.lo)
  | _ => w

/-- A word without the bits of its W1C fields. -/
def plainWord (w : Nat) (f : Fld) : Nat := if f.acc = .w1c then putBits w f.hi f.lo 0 else w

theorem aliasWord_eq (fs : List Fld) {op : Nat} (h : op ≠ 0) (old v : Nat) : aliasWord fs op old v =
    fs.foldl plainWord (if op = 1 then fs.foldl (readableWord old) 0 ||| v
      else if op = 2 then fs.foldl (readableWord old) 0 - (fs.foldl (readableWord old) 0 &&& v) else fs.foldl (readableWord old) 0 ^^^ v) := by
  unfold aliasWord
  rw [if_neg h]
  rfl

section
variable {fs : List Fld} {f : Fld} (hfs : FieldsDescend fs) (hf : f ∈ fs) (hrw : f.acc = .rw)
include hfs hf hrw

theorem bits_readableWord (old : Nat) : bits (fs.foldl (readableWord old) 0) f.hi f.lo = bits old f.hi f.lo := by
  have hspan := hfs.1 f hf
  obtain ⟨u, -, hu⟩ := bits_foldl_field (step := readableWord old) hfs hf (fun g w hg hap => by
    unfold readableWord
    split
    · exact bits_putBits_of_apart _ _ hspan hg hap
    · exact bits_putBits_of_apart _ _ hspan hg hap
    · rfl) 0
  rw [hu, readableWord, hrw]
  exact bits_putBits_of_lt _ hspan (bits_lt ..)

theorem bits_plainWord (w : Nat) : bits (fs.foldl plainWord w) f.hi f.lo = bits w f.hi f.lo := by
  have hspan := hfs.1 f hf
  obtain ⟨u, hu, hw⟩ := bits_foldl_field (step := plainWord) hfs hf (fun g w hg hap => by
    unfold plainWord
    split
    · exact bits_putBits_of_apart _ _ hspan hg hap
    · rfl) w
  rw [hw, ← hu, plainWord, hrw, if_neg (by decide)]

/-- What a set, clear or toggle write asks of a read and written field: old OR, AND NOT or XOR data (R514). -/
theorem bits_aliasWord (op old v : Nat) : bits (aliasWord fs op old v) f.hi f.lo =
    if op = 0 then bits v f.hi f.lo else if op = 1 then bits old f.hi f.lo ||| bits v f.hi f.lo
    else if op = 2 then bits old f.hi f.lo - (bits old f.hi f.lo &&& bits v f.hi f.lo) else bits old f.hi f.lo ^^^ bits v f.hi f.lo := by
  have hold := bits_readableWord hfs hf hrw old
  by_cases h0 : op = 0
  · rw [aliasWord, if_pos h0, if_pos h0]
  · rw [aliasWord_eq fs h0, bits_plainWord hfs hf hrw, if_neg h0]
    by_cases h1 : op = 1
    · rw [if_pos h1, if_pos h1, bits_or, hold]
    · rw [if_neg h1, if_neg h1]
      by_cases h2 : op = 2
      · rw [if_pos h2, if_pos h2, bits_clear, hold]
      · rw [if_neg h2, if_neg h2, bits_xor, hold]

end

/-! ## Addresses and blocks -/

theorem blkRows_aligned : ∀ b ∈ blkRows, b.base % 0x4000 = 0 := by decide

/-- A block is the same all over its 16 KiB. -/
theorem blkOf_congr {x a : Nat} (h : blkBase x = blkBase a) : blkOf x = blkOf a := by
  unfold blkBase at h
  have hrows (l : List BlkRow) (hl : ∀ b ∈ l, b.base % 0x4000 = 0) :
      l.findSome? (fun b => if b.base ≤ x ∧ x < b.base + 0x4000 * b.count then some (b, (x - b.base) / 0x4000) else none)
        = l.findSome? (fun b => if b.base ≤ a ∧ a < b.base + 0x4000 * b.count then some (b, (a - b.base) / 0x4000) else none) := by
    induction l with
    | nil => rfl
    | cons b l ih =>
      obtain ⟨hbase, hrest⟩ := List.forall_mem_cons.mp hl
      have hin : b.base ≤ x ∧ x < b.base + 0x4000 * b.count ↔ b.base ≤ a ∧ a < b.base + 0x4000 * b.count := by omega
      have hinst : (x - b.base) / 0x4000 = (a - b.base) / 0x4000 := by omega
      simp only [List.findSome?_cons, hin, hinst, ih hrest]
  exact hrows blkRows blkRows_aligned

section
variable {a op : Nat} (ha : a % 0x4000 < 0x1000) (hop : op < 4)
include ha hop

theorem blkBase_aliasAddr : blkBase (aliasAddr a op) = blkBase a := by
  unfold aliasAddr blkBase
  omega

theorem own_aliasAddr : blkBase (aliasAddr a op) + aliasAddr a op % 0x1000 = a := by
  rw [blkBase_aliasAddr ha hop]
  unfold aliasAddr blkBase
  omega

theorem op_aliasAddr : aliasAddr a op % 0x4000 / 0x1000 = op := by
  unfold aliasAddr blkBase
  omega

end

theorem aliasAddr_zero {a : Nat} (h : a % 0x4000 < 0x1000) : aliasAddr a 0 = a := blkBase_add_own h

/-! ## A write that its block lets through (R517, R518) -/

/-- The requester may write the block. -/
def Allowed (d : Dev) (who : Req) (b : BlkRow) : Prop := reqSecure d who = true ∨ blkSecure d b.kind = false

theorem not_denied {d : Dev} {who : Req} {b : BlkRow} (h : Allowed d who b) : ¬((!reqSecure d who) = true ∧ blkSecure d b.kind = true) := by
  rcases h with h | h <;> simp [h]

theorem resetShields_of_ready {d : Dev} (h : BusReady d) (a : Nat) : resetShields d a = false := by rw [resetShields, h.2, Bool.false_and]

section
variable {d : Dev} {who : Req} {a op : Nat} {b : BlkRow} {inst : Nat} {fs : List Fld} (ha : a % 0x4000 < 0x1000) (hop : op < 4)
  (hb : blkOf a = some (b, inst)) (hf : regFlds a = some fs) (v : Nat)
include ha hop hb hf

/-- A whole word that its block lets through: it is written at once, or posted where nothing waits. -/
theorem busWrite_of_allowed (hl : alive d = true) (hsh : resetShields d a = false) (hal : Allowed d who b) : busWrite d who (aliasAddr a op) v 15 =
    if !b.posted then regWrite (unlockSpent d who a) who (aliasAddr a op) v (fbit d (Reg.BLK_STATUS (blkBase a)) (unlockFld who))
    else if (postedAt d (blkBase a)).isSome then fset d (Reg.BLK_STATUS (blkBase a)) Fd.BLK_STATUS_post_err 1
    else { unlockSpent d who a with bus := { (unlockSpent d who a).bus with
      posted := tset none (unlockSpent d who a).bus.posted (blkBase a)
        (some ⟨aliasAddr a op, isMgmt who, BitVec.ofNat 32 v, fbit d (Reg.BLK_STATUS (blkBase a)) (unlockFld who)⟩) } } := by
  unfold busWrite
  rw [own_aliasAddr ha hop]
  dsimp only
  rw [if_neg (by rw [hsh]; decide), hb, hf]
  dsimp only
  rw [if_neg (by rw [blkAnswers_of_alive b.kind hl]; decide), if_neg (by decide), if_neg (not_denied hal)]
  rfl

/-- A write in a secure block by a requester that is not is denied. -/
theorem busWrite_of_denied (hl : alive d = true) (hsh : resetShields d a = false) (hs : reqSecure d who = false) (hsec : blkSecure d b.kind = true) :
    busWrite d who (aliasAddr a op) v 15 = denyWrite d (blkBase a) := by
  unfold busWrite
  rw [own_aliasAddr ha hop]
  dsimp only
  rw [if_neg (by rw [hsh]; decide), hb, hf]
  dsimp only
  rw [if_neg (by rw [blkAnswers_of_alive b.kind hl]; decide), if_neg (by decide), if_pos (by rw [hs, hsec]; decide)]

/-- The device with what a write was refused counted. -/
def refusalsCounted (d : Dev) (a : Nat) (w : Wr) : Dev :=
  let e := if w.lock then lockFail d (blkBase a) else d
  if w.deny then denyWrite e (blkBase a) else e

/-- A write of a register that is no part of a wider field and stands outside the receive area comes to the register. -/
theorem regWrite_of_single (u : Bool) (hk : b.kind ≠ 0x06 ∨ a % 0x4000 < 0x110) (hm : multiWord a = none) :
    let w := wordWrite fs (rg d a) (aliasWord fs op (rg d a) v) u (reqSecure d who)
    regWrite d who (aliasAddr a op) v u = applyReg (refusalsCounted d a w) who b.kind inst a w := by
  intro w
  have hrx (x : Bool) : ¬(b.kind = 0x06 ∧ 0x110 ≤ a % 0x4000 ∧ a % 0x4000 ≤ 0x118 ∧ x = true) := by
    rintro ⟨h6, h110, -, -⟩
    rcases hk with hk | hk
    · exact hk h6
    · omega
  unfold regWrite
  rw [own_aliasAddr ha hop, op_aliasAddr ha hop]
  dsimp only
  rw [hb, hf]
  dsimp only
  rw [if_neg (hrx _), hm, ite_self]
  rfl

end

/-! ## What refusals leave -/

section
variable (d : Dev) (a : Nat) (w : Wr)

theorem lockFail_onlyRegs : OnlyRegs [Reg.BLK_STATUS (blkBase a), Reg.BLK_LOCK_FAIL_CNT (blkBase a)] d (lockFail d (blkBase a)) :=
  ((rgPut_onlyRegs ..).mono (by simp)).trans ((fset_onlyRegs ..).mono (by simp))

theorem denyWrite_onlyRegs : OnlyRegs [Reg.BLK_STATUS (blkBase a), Reg.BLK_WORLD_DENY_CNT (blkBase a)] d (denyWrite d (blkBase a)) :=
  ((rgPut_onlyRegs ..).mono (by simp)).trans ((fset_onlyRegs ..).mono (by simp))

theorem refusalsCounted_onlyRegs :
    OnlyRegs [Reg.BLK_STATUS (blkBase a), Reg.BLK_LOCK_FAIL_CNT (blkBase a), Reg.BLK_WORLD_DENY_CNT (blkBase a)] d (refusalsCounted d a w) := by
  have hlock : OnlyRegs [Reg.BLK_STATUS (blkBase a), Reg.BLK_LOCK_FAIL_CNT (blkBase a), Reg.BLK_WORLD_DENY_CNT (blkBase a)] d
      (if w.lock then lockFail d (blkBase a) else d) := by
    split
    · exact (lockFail_onlyRegs d a).mono (by simp)
    · exact ⟨rfl, fun _ _ => rfl⟩
  unfold refusalsCounted
  dsimp only
  split
  · exact hlock.trans ((denyWrite_onlyRegs ..).mono (by simp))
  · exact hlock

end

/-! ## Registers that only hold values (R514) -/

/-- SEQ, MTR and LSN are not posted, and their registers hold what is written. -/
theorem blkRows_holding : ∀ b ∈ blkRows, b.kind = 0x09 ∨ b.kind = 0x0A ∨ b.kind = 0x0B → b.posted = false := by decide

theorem applyReg_holding {kind : Nat} (hk : kind = 0x09 ∨ kind = 0x0A ∨ kind = 0x0B) (d : Dev) (who : Req) (inst : Nat) {a : Nat} (ha : 0x100 ≤ a % 0x4000) (w : Wr) :
    applyReg d who kind inst a w = rgPut d a w.new := by
  unfold applyReg
  dsimp only
  rw [if_neg (by omega), if_neg (by omega), if_neg (by omega)]
  rcases hk with rfl | rfl | rfl <;> rfl

theorem satInc_zero {d : Dev} (a : Nat) : satInc (rg d a) 0 = rg d a := Nat.min_eq_left (Nat.le_of_lt_succ (rg_lt d a))

section
variable (d : Dev) (a : Nat) (w : Wr)

theorem rg_refusalsCounted_lock : rg (refusalsCounted d a w) (Reg.BLK_LOCK_FAIL_CNT (blkBase a)) = satInc (rg d (Reg.BLK_LOCK_FAIL_CNT (blkBase a))) w.lock.toNat := by
  have hne : Reg.BLK_LOCK_FAIL_CNT (blkBase a) ≠ Reg.BLK_STATUS (blkBase a) := by unfold Reg.BLK_LOCK_FAIL_CNT Reg.BLK_STATUS; omega
  have hne' : Reg.BLK_LOCK_FAIL_CNT (blkBase a) ≠ Reg.BLK_WORLD_DENY_CNT (blkBase a) := by unfold Reg.BLK_LOCK_FAIL_CNT Reg.BLK_WORLD_DENY_CNT; omega
  have hdeny (e : Dev) : rg (denyWrite e (blkBase a)) (Reg.BLK_LOCK_FAIL_CNT (blkBase a)) = rg e (Reg.BLK_LOCK_FAIL_CNT (blkBase a)) :=
    (denyWrite_onlyRegs e a).2 _ (by simp [hne, hne'])
  have hlock : rg (if w.lock then lockFail d (blkBase a) else d) (Reg.BLK_LOCK_FAIL_CNT (blkBase a)) = satInc (rg d (Reg.BLK_LOCK_FAIL_CNT (blkBase a))) w.lock.toNat := by
    cases w.lock with
    | true => exact (rg_fset_ne _ _ _ hne).trans (rg_bump_self ..)
    | false => exact (satInc_zero _).symm
  unfold refusalsCounted
  dsimp only
  split
  · rw [hdeny, hlock]
  · exact hlock

theorem rg_refusalsCounted_deny : rg (refusalsCounted d a w) (Reg.BLK_WORLD_DENY_CNT (blkBase a)) = satInc (rg d (Reg.BLK_WORLD_DENY_CNT (blkBase a))) w.deny.toNat := by
  have hne : Reg.BLK_WORLD_DENY_CNT (blkBase a) ≠ Reg.BLK_STATUS (blkBase a) := by unfold Reg.BLK_WORLD_DENY_CNT Reg.BLK_STATUS; omega
  have hne' : Reg.BLK_WORLD_DENY_CNT (blkBase a) ≠ Reg.BLK_LOCK_FAIL_CNT (blkBase a) := by unfold Reg.BLK_LOCK_FAIL_CNT Reg.BLK_WORLD_DENY_CNT; omega
  have hlock : rg (if w.lock then lockFail d (blkBase a) else d) (Reg.BLK_WORLD_DENY_CNT (blkBase a)) = rg d (Reg.BLK_WORLD_DENY_CNT (blkBase a)) := by
    split
    · exact (lockFail_onlyRegs d a).2 _ (by simp [hne, hne'])
    · rfl
  unfold refusalsCounted
  dsimp only
  cases w.deny with
  | true => exact (rg_fset_ne _ _ _ hne).trans ((rg_bump_self ..).trans (congrArg (satInc · 1) hlock))
  | false => exact hlock.trans (satInc_zero _).symm

theorem unlockFld_cases (who : Req) : unlockFld who = (26, 26) ∨ unlockFld who = (25, 25) := by cases who <;> simp [unlockFld, isMgmt, Fd.BLK_STATUS_unlocked_mgmt, Fd.BLK_STATUS_unlocked_host]

/-- A bit of the status beside those that refusals set stays. -/
theorem fbit_refusalsCounted (who : Req) :
    fbit (refusalsCounted d a w) (Reg.BLK_STATUS (blkBase a)) (unlockFld who) = fbit d (Reg.BLK_STATUS (blkBase a)) (unlockFld who) := by
  have hlockApart : FldsApart Fd.BLK_STATUS_lock_refused ((unlockFld who).2, (unlockFld who).2) := by rcases unlockFld_cases who with h | h <;> rw [h] <;> decide
  have hdenyApart : FldsApart Fd.BLK_STATUS_world_denied ((unlockFld who).2, (unlockFld who).2) := by rcases unlockFld_cases who with h | h <;> rw [h] <;> decide
  have hbump (e : Dev) (c : Nat) (hc : Reg.BLK_STATUS (blkBase a) ≠ c) : fbit (bump e c) (Reg.BLK_STATUS (blkBase a)) (unlockFld who) = fbit e (Reg.BLK_STATUS (blkBase a)) (unlockFld who) := by
    rw [fbit, rg_bump_ne _ _ hc, fbit]
  have hlock : fbit (if w.lock then lockFail d (blkBase a) else d) (Reg.BLK_STATUS (blkBase a)) (unlockFld who) = fbit d (Reg.BLK_STATUS (blkBase a)) (unlockFld who) := by
    split
    · exact (fbit_fset_apart _ _ _ _ hlockApart).trans (hbump d _ (by unfold Reg.BLK_STATUS Reg.BLK_LOCK_FAIL_CNT; omega))
    · rfl
  unfold refusalsCounted
  dsimp only
  split
  · exact (fbit_fset_apart _ _ _ _ hdenyApart).trans ((hbump _ _ (by unfold Reg.BLK_STATUS Reg.BLK_WORLD_DENY_CNT; omega)).trans hlock)
  · exact hlock

theorem fbit_unlockSpent (who : Req) : fbit (unlockSpent d who a) (Reg.BLK_STATUS (blkBase a)) (unlockFld who) = false := by
  rcases unlockFld_cases who with h | h
  · exact (fbit_fset_self _ _ 0 (by rw [h]) (by rw [h]; decide))
  · exact (fbit_fset_self _ _ 0 (by rw [h]) (by rw [h]; decide))

theorem reqSecure_unlockSpent (who : Req) : reqSecure (unlockSpent d who a) who = reqSecure d who := by
  have hctrl : Reg.SIT_CTRL ≠ Reg.BLK_STATUS (blkBase a) := by unfold Reg.SIT_CTRL Reg.BLK_STATUS blkBase; omega
  rw [reqSecure, fbit, rg_unlockSpent d who hctrl, reqSecure, fbit]

end

/-- What a write at a register that holds values comes to. -/
def heldWord (d : Dev) (who : Req) (a op : Nat) (fs : List Fld) (v : Nat) : Wr :=
  wordWrite fs (rg d a) (aliasWord fs op (rg d a) v) (fbit d (Reg.BLK_STATUS (blkBase a)) (unlockFld who)) (reqSecure d who)

/-- The device after a write at a register that holds values. -/
def heldWritten (d : Dev) (who : Req) (a : Nat) (w : Wr) : Dev := rgPut (refusalsCounted (unlockSpent d who a) a w) a w.new

/-- What a write at such a register leaves. -/
structure HeldWritten (d e : Dev) (who : Req) (a : Nat) (w : Wr) : Prop where
  word : rg e a = w.new % 2 ^ 32
  unlock : fbit e (Reg.BLK_STATUS (blkBase a)) (unlockFld who) = false
  lock : rg e (Reg.BLK_LOCK_FAIL_CNT (blkBase a)) = satInc (rg d (Reg.BLK_LOCK_FAIL_CNT (blkBase a))) w.lock.toNat
  deny : rg e (Reg.BLK_WORLD_DENY_CNT (blkBase a)) = satInc (rg d (Reg.BLK_WORLD_DENY_CNT (blkBase a))) w.deny.toNat
  only : OnlyRegs [a, Reg.BLK_STATUS (blkBase a), Reg.BLK_LOCK_FAIL_CNT (blkBase a), Reg.BLK_WORLD_DENY_CNT (blkBase a)] d e

theorem heldWritten_written (d : Dev) (who : Req) {a : Nat} (ha : 0x100 ≤ a % 0x4000) (w : Wr) : HeldWritten d (heldWritten d who a w) who a w := by
  have hst : Reg.BLK_STATUS (blkBase a) ≠ a := by unfold Reg.BLK_STATUS blkBase; omega
  have hlk : Reg.BLK_LOCK_FAIL_CNT (blkBase a) ≠ a := by unfold Reg.BLK_LOCK_FAIL_CNT blkBase; omega
  have hdn : Reg.BLK_WORLD_DENY_CNT (blkBase a) ≠ a := by unfold Reg.BLK_WORLD_DENY_CNT blkBase; omega
  have hls : Reg.BLK_LOCK_FAIL_CNT (blkBase a) ≠ Reg.BLK_STATUS (blkBase a) := by unfold Reg.BLK_LOCK_FAIL_CNT Reg.BLK_STATUS; omega
  have hds : Reg.BLK_WORLD_DENY_CNT (blkBase a) ≠ Reg.BLK_STATUS (blkBase a) := by unfold Reg.BLK_WORLD_DENY_CNT Reg.BLK_STATUS; omega
  unfold heldWritten
  refine ⟨rg_rgPut_self .., ?_, ?_, ?_, ?_⟩
  · rw [fbit, rg_rgPut_ne _ _ hst]
    exact (fbit_refusalsCounted ..).trans (fbit_unlockSpent ..)
  · rw [rg_rgPut_ne _ _ hlk, rg_refusalsCounted_lock, rg_unlockSpent d who hls]
  · rw [rg_rgPut_ne _ _ hdn, rg_refusalsCounted_deny, rg_unlockSpent d who hds]
  · exact (((unlockSpent_onlyRegs d who a).mono (by simp)).trans ((refusalsCounted_onlyRegs ..).mono (by simp))).trans ((rgPut_onlyRegs ..).mono (by simp))

theorem busWrite_holding {d : Dev} {who : Req} {a op : Nat} {b : BlkRow} {inst : Nat} {fs : List Fld} (hbus : BusReady d) (hb : blkOf a = some (b, inst))
    (hk : b.kind = 0x09 ∨ b.kind = 0x0A ∨ b.kind = 0x0B) (hlow : 0x100 ≤ a % 0x4000) (ha : a % 0x4000 < 0x1000) (hop : op < 4) (hf : regFlds a = some fs)
    (hm : multiWord a = none) (hal : Allowed d who b) (v : Nat) : busWrite d who (aliasAddr a op) v 15 = heldWritten d who a (heldWord d who a op fs v) := by
  have hpost := blkRows_holding b (blkOf_mem hb).1 hk
  have hrg : rg (unlockSpent d who a) a = rg d a := rg_unlockSpent d who (by unfold Reg.BLK_STATUS blkBase; omega)
  have hword : wordWrite fs (rg (unlockSpent d who a) a) (aliasWord fs op (rg (unlockSpent d who a) a) v) (fbit d (Reg.BLK_STATUS (blkBase a)) (unlockFld who))
      (reqSecure (unlockSpent d who a) who) = heldWord d who a op fs v := by rw [hrg, reqSecure_unlockSpent, heldWord]
  have hk6 : b.kind ≠ 0x06 := by omega
  rw [busWrite_of_allowed ha hop hb hf v hbus.1 (resetShields_of_ready hbus a) hal, if_pos (by rw [hpost]; rfl), regWrite_of_single ha hop hb hf v _ (.inl hk6) hm,
    hword, applyReg_holding hk _ who inst hlow]
  rfl

theorem exec_registerWrite (who : Req) (addr : BitVec 28) (v : Word) (be : BitVec 4) (s : State) :
    exec (.registerWrite who addr v be) s = actReg (fun d => busWrite d who addr.toNat v.toNat be.toNat) s := rfl

/-- A write or an aliased write of a whole word is a write at the register's address in its range. -/
theorem exec_aliasWrite {who : Req} {addr : BitVec 28} {v : Word} {op : Nat} {c : Instr} (ha : addr.toNat % 0x4000 < 0x1000)
    (hc : (op = 0 ∧ c = .registerWrite who addr v 15) ∨ (op = 1 ∧ c = .setAliasWrite who addr v 15) ∨ (op = 2 ∧ c = .clearAliasWrite who addr v 15)
      ∨ (op = 3 ∧ c = .toggleAliasWrite who addr v 15)) (s : State) :
    op < 4 ∧ exec c s = actReg (fun d => busWrite d who (aliasAddr addr.toNat op) v.toNat 15) s := by
  rcases hc with ⟨rfl, rfl⟩ | ⟨rfl, rfl⟩ | ⟨rfl, rfl⟩ | ⟨rfl, rfl⟩
  · exact ⟨by decide, by rw [aliasAddr_zero ha]; rfl⟩
  · exact ⟨by decide, rfl⟩
  · exact ⟨by decide, rfl⟩
  · exact ⟨by decide, rfl⟩

/-- Settles O54: the register holds what the write comes to (heldWritten_written), and an aliased write asks of a field what R514 says (bits_aliasWord). -/
theorem writesReachTheirRegister : Obligations.WritesReachTheirRegister := by
  unfold Obligations.WritesReachTheirRegister
  intro s who addr v b inst fs d a base free sec hbus hb hk hlow hhigh hf hm hal op c hc w
  obtain ⟨hop, hexec⟩ := exec_aliasWrite hhigh hc s
  obtain ⟨hword, hunlock, hlock, hdeny, honly⟩ := heldWritten_written s.dev who hlow (heldWord s.dev who addr.toNat op fs v.toNat)
  refine ⟨heldWritten s.dev who addr.toNat (heldWord s.dev who addr.toNat op fs v.toNat), ?_, hword, hunlock, hlock, hdeny, honly, fun f hmem hrw hl hsec => ?_⟩
  · rw [hexec]
    exact actReg_of_eq hbus.1 (busWrite_holding hbus hb hk hlow hhigh hop hf hm hal v.toNat)
  · have hfs := regFlds_descend hf
    have hspan := hfs.1 f hmem
    have hopen (o x : Nat) : ¬FldStopped (fbit s.dev (Reg.BLK_STATUS (blkBase addr.toNat)) (unlockFld who)) (reqSecure s.dev who) f o x := by
      rintro ⟨-, ⟨h, -⟩ | ⟨h, -⟩⟩
      · rw [hl] at h
        cases h
      · rw [hsec] at h
        cases h
    have hnew := (wordWrite_of_not_stopped (rg s.dev addr.toNat) (aliasWord fs op (rg s.dev addr.toNat) v.toNat) _ _ hfs hmem (hopen _ _)).1
    rw [bits_aliasWord hfs hmem hrw] at hnew
    rw [fldKept, hrw] at hnew
    dsimp only
    rw [hword, bits_mod _ hspan (regFlds_fit hf f hmem)]
    exact hnew

end Sys2Proof.Machine
end

section
/-! PROOFS. Accesses that are refused, and the command registers that every block has (R512, R515, R516, R517, R518, R529). -/

namespace Sys2Proof.Machine

/-! ## The common registers of a block -/

/-- The common registers are every block's. -/
theorem regFlds_common {a : Nat} {b : BlkRow} {inst : Nat} (hb : blkOf a = some (b, inst)) (ha : a % 0x4000 < 0x100) :
    regFlds a = (commonRows.findSome? (fun r => if r.off ≤ a % 0x4000 ∧ (a % 0x4000 - r.off) % r.stride = 0 ∧ (a % 0x4000 - r.off) / r.stride < r.count
      then some (r, (a % 0x4000 - r.off) / r.stride) else none)).map (fun p => p.1.flds) := by
  have hno : ¬(b.kind = 0x14 ∧ inst < 12 ∧ (0x500 ≤ a % 0x4000 ∧ a % 0x4000 < 0x800 ∨ 0x900 ≤ a % 0x4000)) := by omega
  unfold regFlds findRow
  rw [hb]
  dsimp only
  rw [if_neg hno, if_pos ha]

theorem multiWord_common {a : Nat} (ha : a % 0x4000 < 0x100) : multiWord a = none := by
  unfold multiWord
  iterate 13 rw [if_neg (by omega)]

section
variable (a : Nat)

theorem blkBase_blkUnlock : blkBase (Reg.BLK_UNLOCK (blkBase a)) = blkBase a := by unfold Reg.BLK_UNLOCK blkBase; omega
theorem blkBase_blkCtrl : blkBase (Reg.BLK_CTRL (blkBase a)) = blkBase a := by unfold Reg.BLK_CTRL blkBase; omega
theorem off_blkUnlock : Reg.BLK_UNLOCK (blkBase a) % 0x4000 = 8 := by unfold Reg.BLK_UNLOCK blkBase; omega
theorem off_blkCtrl : Reg.BLK_CTRL (blkBase a) % 0x4000 = 12 := by unfold Reg.BLK_CTRL blkBase; omega

end

/-- The fields of BLK_UNLOCK and of BLK_CTRL. -/
abbrev unlockFlds : List Fld := [⟨31, 0, .cmd, false, false, 0⟩]
abbrev blkCtrlFlds : List Fld := [⟨0, 0, .trig, false, false, 0⟩]

/-- A command register that every block has: its offset and its fields. -/
structure CommonCmd (r : Nat) (a : Nat) (fs : List Fld) : Prop where
  base : blkBase r = blkBase a
  off : r % 0x4000 < 0x100
  flds : ∀ b inst, blkOf a = some (b, inst) → regFlds r = some fs

theorem commonCmd_unlock (a : Nat) : CommonCmd (Reg.BLK_UNLOCK (blkBase a)) a unlockFlds where
  base := blkBase_blkUnlock a
  off := by rw [off_blkUnlock]; decide
  flds b inst hb := by
    rw [regFlds_common ((blkOf_congr (blkBase_blkUnlock a)).trans hb) (by rw [off_blkUnlock]; decide), off_blkUnlock]
    rfl

theorem commonCmd_ctrl (a : Nat) : CommonCmd (Reg.BLK_CTRL (blkBase a)) a blkCtrlFlds where
  base := blkBase_blkCtrl a
  off := by rw [off_blkCtrl]; decide
  flds b inst hb := by
    rw [regFlds_common ((blkOf_congr (blkBase_blkCtrl a)).trans hb) (by rw [off_blkCtrl]; decide), off_blkCtrl]
    rfl

/-! ## What the command registers come to -/

theorem wordWrite_unlock {old v : Nat} (hv : v < 2 ^ 32) (u s : Bool) : wordWrite unlockFlds old v u s = ⟨old, v, true, false, false⟩ := by
  have hput : putBits 0 31 0 (bits v 31 0) = v := by
    rw [putBits_eq _ _ (by decide)]
    simp only [bits, Nat.shiftRight_zero, Nat.sub_zero, Nat.zero_div, Nat.zero_mul, Nat.zero_add, pow_zero, Nat.mul_one, Nat.mod_one, Nat.add_zero, Nat.mod_mod]
    exact Nat.mod_eq_of_lt hv
  simp [wordWrite, fldWrite, fldChange, hput]

theorem wordWrite_blkCtrl (old v : Nat) (u s : Bool) : wordWrite blkCtrlFlds old v u s = ⟨old, putBits 0 0 0 (bits v 0 0), false, false, false⟩ := by
  simp [wordWrite, fldWrite]

section
variable {d : Dev} {who : Req} {a : Nat} {b : BlkRow} {inst : Nat} (hb : blkOf a = some (b, inst))
include hb

/-- A word with the key unlocks the block for its requester, any other locks it (R517). -/
theorem regWrite_unlock {v : Nat} (hv : v < 2 ^ 32) (u : Bool) : regWrite d who (Reg.BLK_UNLOCK (blkBase a)) v u = unlockWrite d who (blkBase a) v := by
  have hc := commonCmd_unlock a
  have hlow : Reg.BLK_UNLOCK (blkBase a) % 0x4000 < 0x1000 := Nat.lt_trans hc.off (by decide)
  have h := regWrite_of_single (d := d) (who := who) hlow (by decide : 0 < 4) ((blkOf_congr hc.base).trans hb) (hc.flds b inst hb) v u (.inr (Nat.lt_trans hc.off (by decide)))
    (multiWord_common hc.off)
  rw [aliasAddr_zero hlow, aliasWord, if_pos rfl, wordWrite_unlock hv] at h
  rw [h]
  unfold applyReg
  dsimp only
  rw [off_blkUnlock, blkBase_blkUnlock, if_pos rfl]
  rfl

/-- A written 1 clears the counters of the block (R515). -/
theorem regWrite_cntClear {v : Nat} (hv : v % 2 = 1) (u : Bool) : regWrite d who (Reg.BLK_CTRL (blkBase a)) v u = cntClear d b.kind inst (blkBase a) := by
  have hc := commonCmd_ctrl a
  have hlow : Reg.BLK_CTRL (blkBase a) % 0x4000 < 0x1000 := Nat.lt_trans hc.off (by decide)
  have h := regWrite_of_single (d := d) (who := who) hlow (by decide : 0 < 4) ((blkOf_congr hc.base).trans hb) (hc.flds b inst hb) v u (.inr (Nat.lt_trans hc.off (by decide)))
    (multiWord_common hc.off)
  have hbit : bit (putBits 0 0 0 (bits v 0 0)) 0 = true := by
    have h1 : bits v 0 0 = 1 := by simpa [bits] using hv
    rw [h1]
    decide
  rw [aliasAddr_zero hlow, aliasWord, if_pos rfl, wordWrite_blkCtrl] at h
  rw [h]
  unfold applyReg
  dsimp only
  rw [off_blkCtrl, blkBase_blkCtrl, if_neg (by decide), if_pos rfl, if_pos hbit]
  rfl

end

/-! ## What they leave -/

theorem unlockWrite_key (d : Dev) (who : Req) (a : Nat) :
    fbit (unlockWrite d who (blkBase a) 0xC1A55E5A) (Reg.BLK_STATUS (blkBase a)) (unlockFld who) = true
      ∧ OnlyRegs [Reg.BLK_STATUS (blkBase a)] d (unlockWrite d who (blkBase a) 0xC1A55E5A) := by
  unfold unlockWrite
  rw [if_pos rfl]
  refine ⟨?_, fset_onlyRegs ..⟩
  rcases unlockFld_cases who with h | h
  · exact fbit_fset_self _ _ 1 (by rw [h]) (by rw [h]; decide)
  · exact fbit_fset_self _ _ 1 (by rw [h]) (by rw [h]; decide)

/-- What a wrong key leaves. -/
structure WrongKey (d e : Dev) (who : Req) (base : Nat) : Prop where
  locked : fbit e (Reg.BLK_STATUS base) (unlockFld who) = false
  refused : fbit e (Reg.BLK_STATUS base) Fd.BLK_STATUS_lock_refused = true
  counted : rg e (Reg.BLK_LOCK_FAIL_CNT base) = satInc (rg d (Reg.BLK_LOCK_FAIL_CNT base)) 1
  only : OnlyRegs [Reg.BLK_STATUS base, Reg.BLK_LOCK_FAIL_CNT base] d e

theorem unlockWrite_wrong (d : Dev) (who : Req) (a : Nat) {v : Nat} (h : v ≠ 0xC1A55E5A) : WrongKey d (unlockWrite d who (blkBase a) v) who (blkBase a) := by
  have hform : unlockWrite d who (blkBase a) v = lockFail (unlockSpent d who a) (blkBase a) := if_neg h
  have hne : Reg.BLK_LOCK_FAIL_CNT (blkBase a) ≠ Reg.BLK_STATUS (blkBase a) := by unfold Reg.BLK_LOCK_FAIL_CNT Reg.BLK_STATUS; omega
  rw [hform]
  refine ⟨?_, fbit_fset_self _ _ 1 rfl (by decide), ?_, ?_⟩
  · have hrefused := fbit_refusalsCounted (unlockSpent d who a) a ⟨0, 0, false, true, false⟩ who
    exact hrefused.trans (fbit_unlockSpent d a who)
  · have hcount : rg (lockFail (unlockSpent d who a) (blkBase a)) (Reg.BLK_LOCK_FAIL_CNT (blkBase a)) = _ := (rg_fset_ne _ _ _ hne).trans (rg_bump_self ..)
    rw [hcount, rg_unlockSpent d who hne]
  · exact ((unlockSpent_onlyRegs ..).mono (by simp)).trans (lockFail_onlyRegs ..)

/-- A cleared counter is at its reset value, any other register as it was. -/
theorem rg_cntClear (d : Dev) (kind inst base r : Nat) : rg (cntClear d kind inst base) r =
    if blkBase r = base ∧ isCounter kind inst (r % 0x4000) = true then (resetWord r).toNat else rg d r := by
  unfold cntClear rg
  dsimp only
  rw [tget_filter_key (resetWord r) (fun j => !(decide (blkBase j = base) && isCounter kind inst (j % 0x4000)))]
  by_cases h : blkBase r = base ∧ isCounter kind inst (r % 0x4000) = true
  · rw [if_pos h, if_neg (by simp [h.1, h.2])]
  · have hno : (decide (blkBase r = base) && isCounter kind inst (r % 0x4000)) = false := Bool.eq_false_iff.mpr (by simpa using h)
    rw [if_neg h, if_pos (by rw [hno]; rfl)]

/-- Counters alone are cleared. -/
theorem cntClear_regsOnly (d : Dev) (kind inst base : Nat) : { cntClear d kind inst base with regs := d.regs } = d := rfl

/-! ## Accesses that reach no register (R512, R529) -/

theorem exec_blkUnlock (who : Req) (addr : BitVec 28) (v : Word) (s : State) :
    exec (.blkUnlock who addr v) s = actReg (fun d => busWrite d who (Reg.BLK_UNLOCK (blkBase addr.toNat)) v.toNat 15) s := rfl
theorem exec_cntClear (who : Req) (addr : BitVec 28) (v : Word) (s : State) :
    exec (.cntClear who addr v) s = actReg (fun d => busWrite d who (Reg.BLK_CTRL (blkBase addr.toNat)) v.toNat 15) s := rfl

theorem busWrite_of_shielded {d : Dev} {a : Nat} (ha : a % 0x4000 < 0x1000) (h : resetShields d a = true) (who : Req) (v be : Nat) : busWrite d who a v be = d := by
  unfold busWrite
  rw [blkBase_add_own ha]
  exact if_pos h

/-- A write with partial byte enables, or at an address that no chapter assigns, is latched and counted. -/
theorem busWrite_of_bad {d : Dev} {a be : Nat} (ha : a % 0x4000 < 0x1000) (hl : alive d = true) (hsh : resetShields d a = false)
    (h : regFlds a = none ∨ be ≠ 15) (who : Req) (v : Nat) : busWrite d who a v be = badAccess d who a true (decide (be ≠ 15)) := by
  have hphase : d.pkg.phase ≠ .dead := by
    intro hp
    simp [alive, hp] at hl
  unfold busWrite
  rw [blkBase_add_own ha]
  dsimp only
  rw [if_neg (by rw [hsh]; decide)]
  cases hf : regFlds a with
  | none =>
    split
    · next hs => cases hs
    · exact if_neg (by simpa using hphase)
  | some fs =>
    obtain ⟨b, inst, hb⟩ := blkOf_of_regFlds hf
    have hbe : be ≠ 15 := h.resolve_left (by rw [hf]; exact Option.some_ne_none fs)
    rw [hb]
    dsimp only
    rw [if_neg (by rw [blkAnswers_of_alive b.kind hl]; decide), if_pos hbe, decide_eq_true hbe]

/-! ## A posted write that is taken (R516) -/

/-- The device whose block has taken a write to run later. -/
def postedTaken (d : Dev) (who : Req) (a r v : Nat) : Dev :=
  { unlockSpent d who a with bus := { (unlockSpent d who a).bus with
    posted := tset none (unlockSpent d who a).bus.posted (blkBase a) (some ⟨r, isMgmt who, BitVec.ofNat 32 v, fbit d (Reg.BLK_STATUS (blkBase a)) (unlockFld who)⟩) } }

theorem postedTaken_regs (d : Dev) (who : Req) (a r v : Nat) : (postedTaken d who a r v).regs = (unlockSpent d who a).regs := rfl

/-- What a write leaves that a posted block has taken. -/
structure PostedTaken (d e : Dev) (who : Req) (base r : Nat) (v : Word) : Prop where
  waits : postedAt e base = some ⟨r, decide (who = .mgmt), v, fbit d (Reg.BLK_STATUS base) (unlockFld who)⟩
  unlock : fbit e (Reg.BLK_STATUS base) (unlockFld who) = false
  others : ∀ x, x ≠ base → postedAt e x = postedAt d x
  only : OnlyRegs [Reg.BLK_STATUS base] d { e with bus := { e.bus with posted := d.bus.posted } }

theorem postedTaken_taken (d : Dev) (who : Req) (a r : Nat) (v : Word) : PostedTaken d (postedTaken d who a r v.toNat) who (blkBase a) r v := by
  refine ⟨?_, ?_, fun x hx => ?_, ?_⟩
  · rw [postedAt, postedTaken, ← isMgmt_eq]
    dsimp only
    rw [tget_tset_self, BitVec.ofNat_toNat, BitVec.setWidth_eq]
  · exact (fbit_congr (postedTaken_regs ..) _ _).trans (fbit_unlockSpent d a who)
  · rw [postedAt, postedTaken]
    dsimp only
    rw [tget_tset_ne _ _ _ _ hx]
    rfl
  · exact unlockSpent_onlyRegs d who a

/-! ## BLK_UNLOCK and CNT_CLEAR on the bus -/

section
variable {d : Dev} {who : Req} {a r : Nat} {b : BlkRow} {inst : Nat} {fs : List Fld} (hc : CommonCmd r a fs) (hb : blkOf a = some (b, inst)) (hl : alive d = true)
  (hsh : resetShields d a = false) (v : Nat)
include hc hb hl hsh

/-- A write of a common command register that its block lets through. -/
theorem busWrite_common (hal : Allowed d who b) : busWrite d who r v 15 =
    if !b.posted then regWrite (unlockSpent d who a) who r v (fbit d (Reg.BLK_STATUS (blkBase a)) (unlockFld who))
    else if (postedAt d (blkBase a)).isSome then fset d (Reg.BLK_STATUS (blkBase a)) Fd.BLK_STATUS_post_err 1 else postedTaken d who a r v := by
  have hlow : r % 0x4000 < 0x1000 := Nat.lt_trans hc.off (by decide)
  have hblk := (blkOf_congr hc.base).trans hb
  have hsh' : resetShields d r = false := by rw [← hsh, resetShields, resetShields, hblk, hb]
  have h := busWrite_of_allowed hlow (by decide : 0 < 4) hblk (hc.flds b inst hb) v hl hsh' hal
  unfold unlockSpent at h
  rw [aliasAddr_zero hlow, hc.base] at h
  exact h

theorem busWrite_common_denied (hs : reqSecure d who = false) (hsec : blkSecure d b.kind = true) : busWrite d who r v 15 = denyWrite d (blkBase a) := by
  have hlow : r % 0x4000 < 0x1000 := Nat.lt_trans hc.off (by decide)
  have hblk := (blkOf_congr hc.base).trans hb
  have hsh' : resetShields d r = false := by rw [← hsh, resetShields, resetShields, hblk, hb]
  have h := busWrite_of_denied hlow (by decide : 0 < 4) hblk (hc.flds b inst hb) v hl hsh' hs hsec
  rwa [aliasAddr_zero hlow, hc.base] at h

end

/-- BLK_UNLOCK or CNT_CLEAR is a write of a common command register. -/
theorem exec_common {who : Req} {addr : BitVec 28} {v : Word} {c : Instr} {r : Nat}
    (hc : (c = .blkUnlock who addr v ∧ r = Reg.BLK_UNLOCK (blkBase addr.toNat)) ∨ (c = .cntClear who addr v ∧ r = Reg.BLK_CTRL (blkBase addr.toNat))) (s : State) :
    (∃ fs, CommonCmd r addr.toNat fs) ∧ exec c s = actReg (fun d => busWrite d who r v.toNat 15) s := by
  rcases hc with ⟨rfl, rfl⟩ | ⟨rfl, rfl⟩
  · exact ⟨⟨_, commonCmd_unlock _⟩, rfl⟩
  · exact ⟨⟨_, commonCmd_ctrl _⟩, rfl⟩

/-- The clearing of the counters after the unlock is spent. -/
theorem rg_cntClear_spent (d : Dev) (who : Req) (kind inst a r : Nat) (h : r ≠ Reg.BLK_STATUS (blkBase a)) :
    rg (cntClear (unlockSpent d who a) kind inst (blkBase a)) r =
      if blkBase r = blkBase a ∧ isCounter kind inst (r % 0x4000) = true then (resetWord r).toNat else rg d r := by
  rw [rg_cntClear, rg_unlockSpent d who h]

theorem isCounter_status (kind inst a : Nat) : isCounter kind inst (Reg.BLK_STATUS (blkBase a) % 0x4000) = false := by
  have hoff : Reg.BLK_STATUS (blkBase a) % 0x4000 = 4 := by unfold Reg.BLK_STATUS blkBase; omega
  rw [hoff]
  simp [isCounter]

theorem ofNat_key {v : Word} : v = 0xC1A55E5A ↔ v.toNat = 0xC1A55E5A := by
  rw [← BitVec.toNat_inj]
  rfl

section
variable {s : State} {who : Req} {addr : BitVec 28} {v : Word} {b : BlkRow} {inst : Nat} (ha : alive s.dev = true) (hb : blkOf addr.toNat = some (b, inst))
  (hsh : resetShields s.dev addr.toNat = false)
include ha hb hsh

/-- A write in a block that is denied to its requester. -/
theorem exec_denied {c : Instr} (hown : addr.toNat % 0x4000 < 0x1000)
    (hc : (c = .registerWrite who addr v 15 ∧ regFlds addr.toNat ≠ none) ∨ c = .blkUnlock who addr v ∨ c = .cntClear who addr v)
    (hs : reqSecure s.dev who = false) (hsec : blkSecure s.dev b.kind = true) : exec c s = .next (s.after (denyWrite s.dev (blkBase addr.toNat))) := by
  rcases hc with ⟨rfl, hf⟩ | rfl | rfl
  · obtain ⟨fs, hfs⟩ := Option.ne_none_iff_exists'.mp hf
    have h := busWrite_of_denied hown (by decide : 0 < 4) hb hfs v.toNat ha hsh hs hsec
    rw [aliasAddr_zero hown] at h
    rw [exec_registerWrite]
    exact actReg_of_eq ha h
  · rw [exec_blkUnlock]
    exact actReg_of_eq ha (busWrite_common_denied (commonCmd_unlock _) hb ha hsh _ hs hsec)
  · rw [exec_cntClear]
    exact actReg_of_eq ha (busWrite_common_denied (commonCmd_ctrl _) hb ha hsh _ hs hsec)

/-- A block that is not posted runs a write of its command registers at once. -/
theorem busWrite_common_now (hp : b.posted = false) (hal : Allowed s.dev who b) {r : Nat} {fs : List Fld} (hc : CommonCmd r addr.toNat fs) :
    busWrite s.dev who r v.toNat 15 = regWrite (unlockSpent s.dev who addr.toNat) who r v.toNat (fbit s.dev (Reg.BLK_STATUS (blkBase addr.toNat)) (unlockFld who)) := by
  rw [busWrite_common hc hb ha hsh _ hal, if_pos (by rw [hp]; rfl)]

end

/-- Settles O55: an access is refused, denied, posted or run as its block's row says (busWrite_of_bad, busWrite_common). -/
theorem blocksAreGuarded : Obligations.BlocksAreGuarded := by
  unfold Obligations.BlocksAreGuarded
  intro s who addr v be b inst d a base st ha hown
  refine ⟨fun hsh => ?_, fun hsh hbad => ?_, fun hb hsh => ⟨fun c hc hs hsec => exec_denied ha hb hsh hown hc hs hsec, fun hp hal c r hc => ?_, fun hp hal => ⟨fun hv => ?_, fun hv => ?_, fun hv => ?_⟩⟩⟩
  · rw [exec_registerWrite]
    exact actReg_of_eq ha (busWrite_of_shielded hown hsh who _ _)
  · have hbe (h : be ≠ 15) : be.toNat ≠ 15 := fun he => h (BitVec.eq_of_toNat_eq he)
    have hbe' : decide (be.toNat ≠ 15) = decide (be ≠ 15) := decide_eq_decide.mpr ⟨fun h he => h (by rw [he]; rfl), hbe⟩
    have hlt : a % 2 ^ 28 = a := Nat.mod_eq_of_lt addr.isLt
    have hform : busWrite d who a v.toNat be.toNat =
        bump (rgPut d Reg.TOP_BAD_ADDR (putBit (putBit (putBit a 31 true) 30 (decide (be ≠ 15))) 29 (decide (who = .mgmt)))) Reg.TOP_BAD_ADDR_CNT := by
      rw [busWrite_of_bad hown ha hsh (hbad.imp_right hbe), badAccess, hbe', hlt, isMgmt_eq]
    rw [exec_registerWrite]
    exact actReg_of_eq ha hform
  · obtain ⟨⟨fs, hcc⟩, hexec⟩ := exec_common hc s
    have hwrite := busWrite_common hcc hb ha hsh v.toNat hal
    rw [if_neg (by rw [hp]; decide)] at hwrite
    refine ⟨fun hnone => ?_, fun hsome => ?_⟩
    · obtain ⟨h1, h2, h3, h4⟩ := postedTaken_taken d who a r v
      refine ⟨postedTaken d who a r v.toNat, ?_, h1, h2, h3, h4⟩
      rw [hexec]
      exact actReg_of_eq ha (hwrite.trans (if_neg (by rw [hnone]; decide)))
    · rw [hexec]
      exact actReg_of_eq ha (hwrite.trans (if_pos (Option.isSome_iff_ne_none.mpr hsome)))
  · obtain ⟨hk, ho⟩ := unlockWrite_key (unlockSpent d who a) who a
    refine ⟨unlockWrite (unlockSpent d who a) who (blkBase a) 0xC1A55E5A, ?_, hk, (unlockSpent_onlyRegs ..).trans ho⟩
    rw [exec_blkUnlock]
    refine actReg_of_eq ha ((busWrite_common_now ha hb hsh hp hal (commonCmd_unlock _)).trans ((regWrite_unlock hb v.isLt _).trans ?_))
    rw [ofNat_key.mp hv]
  · obtain ⟨h1, h2, h3, h4⟩ := unlockWrite_wrong (unlockSpent d who a) who a (fun he => hv (ofNat_key.mpr he))
    refine ⟨unlockWrite (unlockSpent d who a) who (blkBase a) v.toNat, ?_, h1, h2, ?_, ((unlockSpent_onlyRegs ..).mono (List.cons_subset.mpr ⟨List.mem_cons_self, List.nil_subset _⟩)).trans h4⟩
    · rw [exec_blkUnlock]
      exact actReg_of_eq ha ((busWrite_common_now ha hb hsh hp hal (commonCmd_unlock _)).trans (regWrite_unlock hb v.isLt _))
    · exact h3.trans (congrArg (satInc · 1) (rg_unlockSpent d who (by unfold Reg.BLK_LOCK_FAIL_CNT Reg.BLK_STATUS; omega)))
  · refine ⟨cntClear (unlockSpent d who a) b.kind inst (blkBase a), ?_, rfl, fun r hr hcnt => ?_, fun r hr hno => ?_⟩
    · rw [exec_cntClear]
      exact actReg_of_eq ha ((busWrite_common_now ha hb hsh hp hal (commonCmd_ctrl _)).trans (regWrite_cntClear hb hv _))
    · rw [rg_cntClear, if_pos ⟨hr, hcnt⟩]
    · rw [rg_cntClear_spent d who _ _ _ _ hr, if_neg hno]

end Sys2Proof.Machine
end

section
/-! PROOFS. Frames of the host (R485, R496 to R498): a submitted frame, what waits for the receive area, and the area's enable. -/

namespace Sys2Proof.Machine

/-! ## What a frame that enters leaves alone -/

/-- The registers that no frame changes: the count of refused submits and the referee's windows. -/
abbrev StillReg (a : Nat) : Prop := a = Reg.CMD_SUBMIT_ERR_CNT ∨ WindowReg a

/-- What no frame changes beside the registers: the submit slots, their order, the regions and how the buckets ended. -/
def stillPart (d : Dev) : List (Nat × HostSlot) × List Nat × List (Nat × Region) × List (Nat × Bool) :=
  (d.cmd.slots, d.cmd.subQ, d.mem.regions, d.seq.outcomes)

/-- Between two devices the submit slots, the count of refused submits, the referee's windows, the regions and the ends of the buckets are the same. -/
structure StillKept (d e : Dev) : Prop where
  part : stillPart e = stillPart d
  reg : ∀ a, StillReg a → rg e a = rg d a

namespace StillKept

theorem refl (d : Dev) : StillKept d d := ⟨rfl, fun _ _ => rfl⟩
theorem trans {d e f : Dev} (h : StillKept d e) (g : StillKept e f) : StillKept d f := ⟨g.part.trans h.part, fun a ha => (g.reg a ha).trans (h.reg a ha)⟩

/-- A change beside them. -/
theorem of_still {d e : Dev} (hp : stillPart e = stillPart d) (hr : e.regs = d.regs) : StillKept d e := ⟨hp, fun a _ => rg_congr hr a⟩

section
variable {d e : Dev} (h : StillKept d e)
include h

theorem slots : e.cmd.slots = d.cmd.slots := congrArg (·.1) h.part
theorem subQ : e.cmd.subQ = d.cmd.subQ := congrArg (·.2.1) h.part
theorem regions : e.mem.regions = d.mem.regions := congrArg (·.2.2.1) h.part
theorem outcomes : e.seq.outcomes = d.seq.outcomes := congrArg (·.2.2.2) h.part
theorem errs : rg e Reg.CMD_SUBMIT_ERR_CNT = rg d Reg.CMD_SUBMIT_ERR_CNT := h.reg _ (.inl rfl)

end

theorem foldl {α : Type} (l : List α) {f : Dev → α → Dev} (d : Dev) (h : ∀ e x, StillKept e (f e x)) : StillKept d (l.foldl f d) :=
  List.foldlRecOn (motive := StillKept d) l f (refl d) fun e he x _ => he.trans (h e x)

theorem bump (d : Dev) {a : Nat} (k : Nat) (h : ¬StillReg a) : StillKept d (bump d a k) :=
  ⟨rfl, fun _ hb => rg_bump_ne d k fun he => h (he ▸ hb)⟩

theorem raise (d : Dev) (n : Nat) : StillKept d (raise d n) := by
  refine ⟨?_, fun a ha => ?_⟩
  · rw [stillPart, raise_cmd, raise_mem, raise_seq, stillPart]
  · rcases ha with rfl | ha
    · exact rg_raise_ne (by decide) d n
    · exact (OuterKept.raise d n).windows a ha

theorem raiseOnce (d : Dev) (n k : Nat) : StillKept d (raiseOnce d n k) := by
  unfold Machine.raiseOnce
  split
  · exact refl d
  · refine trans ?_ (raise ..)
    exact of_still rfl rfl

theorem poolFreeGrans (d : Dev) (c st n : Nat) : StillKept d (poolFreeGrans d c st n) := by
  unfold Machine.poolFreeGrans
  dsimp only
  split
  · exact of_still rfl rfl
  · refine trans ?_ (bump _ _ (by decide))
    exact of_still rfl rfl

theorem poolAlloc (d : Dev) (c st n : Nat) : StillKept d (poolAlloc d c st n).2 := by
  unfold Machine.poolAlloc
  dsimp only
  split
  · exact of_still rfl rfl
  · exact (bump d 1 (by decide)).trans (raiseOnce ..)

theorem stamp (d : Dev) (b : List Byte) : StillKept d (stamp d b).2 := by
  unfold Machine.stamp
  dsimp only
  split
  · exact of_still rfl rfl
  · exact refl d

theorem takeEcho (d : Dev) (b : List Byte) : StillKept d (takeEcho d b).2 := by
  unfold Machine.takeEcho
  split
  · exact of_still rfl rfl
  · exact refl d

theorem unreachable (d : Dev) : StillKept d (unreachable d) := (bump d 1 (by decide)).trans (raise ..)

theorem slotsFor (d : Dev) (corr src dst len : Nat) (c : Cargo) : StillKept d (slotsFor d corr src dst len c) := by
  have hord : StillKept d (cargoOrd d c).2 := by
    unfold cargoOrd
    split
    · exact of_still rfl rfl
    · exact refl d
  have hslots : StillKept (cargoOrd d c).2 (Machine.slotsFor d corr src dst len c) := of_still rfl rfl
  exact hord.trans hslots

theorem bufDrop (d : Dev) (i st : Nat) : StillKept d (bufDrop d i st) := by
  unfold Machine.bufDrop
  dsimp only
  split
  · refine trans ?_ (poolFreeGrans ..)
    exact of_still rfl rfl
  · exact of_still rfl rfl

theorem release (d : Dev) (e : Nat) (f : QFrame) : StillKept d (release d e f) := by
  unfold Machine.release
  split
  · exact bufDrop ..
  · split
    · exact refl d
    · exact poolFreeGrans ..

theorem sendFrom (d : Dev) (st : Nat) (path : Path) (b : List Byte) (colour cls grans : Nat) (buf : Option Nat) (fence orig : Bool)
    (pass : Option (Nat × Nat)) : StillKept d (sendFrom d st path b colour cls grans buf fence orig pass) := by
  unfold Machine.sendFrom
  extract_lets o b' d' f free
  have hd' : StillKept d d' := by
    dsimp only [d', o]
    split
    · exact takeEcho ..
    · exact refl d
  have hfree : StillKept d (free d') := by
    dsimp only [free]
    split
    · exact hd'.trans (release ..)
    · exact hd'
  split
  case h_1 => exact hfree.trans (slotsFor ..)
  case h_2 => exact hfree.trans (slotsFor ..)
  case h_3 p _ =>
    split
    · exact hfree.trans (unreachable _)
    · next e _ =>
      have hflow : StillKept d (flowFence d' p e b').2 := hd'.trans (of_still rfl rfl)
      exact hflow.trans (slotsFor ..)
  case h_4 =>
    split
    · exact hfree.trans (unreachable _)
    · split
      · split
        · exact (hd'.trans (bump _ _ (by decide))).trans (slotsFor ..)
        · exact hd'.trans (slotsFor ..)
      · exact hd'.trans (slotsFor ..)
  case h_5 => exact hfree
  case h_6 => exact hfree.trans (unreachable _)

theorem originate (d : Dev) (b : List Byte) (fence : Bool) (pass : Option (Nat × Nat)) : StillKept d (originate d b fence pass) := by
  rcases originate_cases d b fence pass with ⟨n, h⟩ | ⟨n, c, h⟩
  · rw [h]
    exact poolAlloc ..
  · rw [h]
    exact ((poolAlloc ..).trans (stamp ..)).trans (sendFrom ..)

theorem reply (d : Dev) (r : ReplyTo) (status : Nat) (fields : List Byte) (time : Option Nat) : StillKept d (reply d r status fields time) := by
  have hcount : StillKept d (countReply d status) := by
    unfold countReply
    split <;> exact bump _ _ (by decide)
  exact hcount.trans (originate ..)

/-! ### A command of the host -/

theorem freeCmd (d : Dev) (g : Nat) : StillKept d (freeCmd d g) := by
  unfold Machine.freeCmd
  split
  · exact refl d
  · exact poolFreeGrans ..

theorem queueCmd (d : Dev) (c : Cmd) : StillKept d (queueCmd d c) := by
  unfold Machine.queueCmd
  split
  · exact of_still rfl rfl
  · split
    · exact (((freeCmd d _).trans (bump _ _ (by decide))).trans (raiseOnce ..)).trans (reply ..)
    · exact of_still rfl rfl

/-- Assemblies lie beside them. -/
theorem asms (d : Dev) (l : List Assembly) : StillKept d { d with cmd := { d.cmd with asm := l } } := of_still rfl rfl

/-- Marks of dropped parts lie beside them. -/
theorem drops (d : Dev) (l : List (Nat × Bool)) : StillKept d { d with cmd := { d.cmd with drop := l } } := of_still rfl rfl

theorem endAsm (d : Dev) (a : Assembly) : StillKept d (endAsm d a) := by
  unfold Machine.endAsm
  dsimp only
  exact ((asms d _).trans (freeCmd ..)).trans (reply ..)

theorem lostPart (d : Dev) (g : Nat) : StillKept d (Machine.bump (Machine.freeCmd d g) Reg.CMD_DROP_CNT) := (freeCmd d g).trans (bump _ _ (by decide))

theorem fullPart (d : Dev) (g : Nat) : StillKept d (Machine.bump (Machine.freeCmd d g) Reg.CMD_QFULL_CNT) := (freeCmd d g).trans (bump _ _ (by decide))

theorem fullAsm (d : Dev) (c : Cmd) :
    StillKept d (Machine.reply (Machine.bump (Machine.freeCmd d c.grans) Reg.CMD_QFULL_CNT) (replyOf c) St.cmdQueueFull []) :=
  StillKept.trans (fullPart d c.grans) (reply (Machine.bump (Machine.freeCmd d c.grans) Reg.CMD_QFULL_CNT) (replyOf c) St.cmdQueueFull [] none)

theorem takePart (d : Dev) (c : Cmd) : StillKept d (takePart d c) := by
  unfold Machine.takePart
  dsimp only
  split
  · split
    · exact lostPart ..
    · exact (lostPart d c.grans).trans (drops ..)
  · split
    · next a _ =>
      split
      · split
        · have hend := (lostPart d c.grans).trans (endAsm _ a)
          split
          · exact hend.trans (drops ..)
          · exact hend
        · split
          · exact (asms d _).trans (queueCmd ..)
          · split
            · exact asms d _
            · exact (asms d _).trans (queueCmd ..)
      · have hend := endAsm d a
        split
        · exact hend.trans (queueCmd ..)
        · split
          · exact hend.trans (asms ..)
          · exact hend.trans (lostPart ..)
    · split
      · exact queueCmd ..
      · split
        · exact (lostPart d c.grans).trans (reply ..)
        · split
          · exact (fullAsm d c).trans (drops ..)
          · split
            · exact (asms d _).trans (queueCmd ..)
            · exact asms d _

theorem takeCommand (d : Dev) (via : Via) (b : List Byte) (g : Nat) : StillKept d (takeCommand d via b g) := by
  unfold Machine.takeCommand
  extract_lets c lost
  have hlost : StillKept d lost := lostPart d g
  have hsent (l : List SentCmd) : StillKept d { d with cmd := { d.cmd with sent := l } } := of_still rfl rfl
  split
  · split
    · split
      · exact (hsent _).trans (freeCmd ..)
      · exact of_still rfl rfl
    · exact hlost
  · split
    · split
      · exact hlost
      · exact (freeCmd d g).trans (reply ..)
    · split
      · exact queueCmd ..
      · exact takePart ..

end StillKept

/-! ## HOST_SUBMIT (R496) -/

theorem exec_hostSubmit (j : BitVec 8) (bs : List Byte) (len : Word) (s : State) :
    exec (.hostSubmit j bs len) s = act (fun d => submit d j.toNat bs len.toNat) s := rfl

/-- The frame that a submit word hands over. -/
def submitted (bs : List Byte) (len : Nat) : List Byte := (padMin len bs).take (len - 8)

/-- The kinds of frames that the window takes. -/
abbrev WindowKind (k : Nat) : Prop := k = 0 ∨ k = 5 ∨ k = 7 ∨ k = 8

/-- The device whose slot holds a frame that waits for the pool. -/
def slotFilled (d : Dev) (j : Nat) (bs : List Byte) (len : Nat) : Dev :=
  { d with cmd := { d.cmd with slots := tset HostSlot.free d.cmd.slots j ⟨bs, len⟩, subQ := d.cmd.subQ ++ [j] } }

/-- A submit word that the window does not take. -/
theorem submit_refused {d : Dev} {j : Nat} {bs : List Byte} {len : Nat}
    (h : (tget HostSlot.free d.cmd.slots j).len ≠ 0 ∨ len < 64 ∨ 2216 < len ∨ ¬WindowKind (fKind (submitted bs len))) :
    submit d j bs len = raiseOnce (bump d Reg.CMD_SUBMIT_ERR_CNT) 971 0 := by
  unfold submit
  dsimp only
  by_cases hs : (tget HostSlot.free d.cmd.slots j).len ≠ 0
  · rw [if_pos hs]
  · rw [if_neg hs, if_pos]
    rcases h with h | h | h | h
    · exact absurd h hs
    · exact .inl h
    · exact .inr (.inl h)
    · exact .inr (.inr (by simpa [submitted] using h))

/-- What a taken submit word comes to. -/
def submitRun (d : Dev) (j cls : Nat) : Dev :=
  let e := hostPump 257 d
  if e.cmd.subQ.getLast? = some j ∧ e.cmd.subQ.length = 1 then raiseOnce (bump e Reg.MEM_QUOTA_REFUSE_CNT) 945 cls else e

theorem submit_taken {d : Dev} {j : Nat} {bs : List Byte} {len : Nat} (hs : (tget HostSlot.free d.cmd.slots j).len = 0) (h64 : 64 ≤ len) (hmax : len ≤ 2216)
    (hk : WindowKind (fKind (submitted bs len))) :
    submit d j bs len = submitRun (slotFilled d j bs len) j (if fKind (submitted bs len) = 5 then 3 else 1) := by
  have hno : ¬(len < 64 ∨ 2216 < len ∨ (!decide (fKind (submitted bs len) = 0 ∨ fKind (submitted bs len) = 5 ∨ fKind (submitted bs len) = 7 ∨ fKind (submitted bs len) = 8)) = true) := by
    rintro (h | h | h)
    · omega
    · omega
    · simp [hk] at h
  unfold submit
  dsimp only
  rw [if_neg (by simpa using hs)]
  exact if_neg hno

/-! ### The pump -/

/-- The device whose pool has taken the granules of the first slot, which is free again. -/
def slotTaken (d : Dev) (cls g j : Nat) (rest : List Nat) : Dev :=
  { (poolAlloc d cls 0 g).2 with cmd := { (poolAlloc d cls 0 g).2.cmd with slots := tset HostSlot.free (poolAlloc d cls 0 g).2.cmd.slots j HostSlot.free, subQ := rest } }

/-- A frame of the host on its way. -/
def hostFrameSent (e : Dev) (b : List Byte) (cls g : Nat) : Dev :=
  match nextHop (stamp e b).2 (stamp e b).1 with
  | .mgmt => takeCommand (stamp e b).2 .host (stamp e b).1 g
  | _ => sendFrom (stamp e b).2 stMgmt (.port 127) (stamp e b).1 0 cls g none false false none

theorem StillKept.hostFrameSent (e : Dev) (b : List Byte) (cls g : Nat) : StillKept e (hostFrameSent e b cls g) := by
  unfold Machine.hostFrameSent
  split
  · exact (stamp e b).trans (takeCommand ..)
  · exact (stamp e b).trans (sendFrom ..)

/-- A frame of the host with its source (R496). -/
def hostSourced (e : Dev) (b : List Byte) : List Byte := setByte (setBytes b 7 (beBytes 3 (hostCoord e))) 2 (byteAt b 2 % 16)

/-- The pool that a frame of the host is counted in. -/
def hostClass (b : List Byte) : Nat := if fKind b = 5 then 3 else 1

/-- The pump at the first slot, with what it does then. -/
def pumpOn (next : Dev → Dev) (d : Dev) : Dev :=
  match d.cmd.subQ with
  | [] => d
  | j :: rest =>
    let s := tget HostSlot.free d.cmd.slots j
    let b := (padMin s.len s.bytes).take (s.len - 8)
    let cls := if fKind b = 5 then 3 else 1
    let g := gransOf s.len
    if quotaOf d cls < d.mem.sram.used.getD cls 0 + g ∨ poolFree d.mem.sram < g then d
    else
      let d := (poolAlloc d cls 0 g).2
      let d := { d with cmd := { d.cmd with slots := tset HostSlot.free d.cmd.slots j HostSlot.free, subQ := rest } }
      let b := setByte (setBytes b 7 (beBytes 3 (hostCoord d))) 2 (byteAt b 2 % 16)
      let s := stamp d b
      next (match nextHop s.2 s.1 with
        | .mgmt => takeCommand s.2 .host s.1 g
        | _ => sendFrom s.2 stMgmt (.port 127) s.1 0 cls g none false false none)

theorem hostPump_succ (n : Nat) (d : Dev) : hostPump (n + 1) d = pumpOn (hostPump n) d := by
  change pumpOn (hostPump n) d = _
  exact Eq.refl _

theorem hostPump_empty (n : Nat) {d : Dev} (h : d.cmd.subQ = []) : hostPump n d = d := by
  cases n with
  | zero => rfl
  | succ n =>
    rw [hostPump_succ, pumpOn, h]

/-- The pump takes a slot that the pool has room for. -/
theorem hostPump_room {d : Dev} {j : Nat} {rest : List Nat} {bs : List Byte} {len cls : Nat} (n : Nat) (hq : d.cmd.subQ = j :: rest)
    (hs : tget HostSlot.free d.cmd.slots j = ⟨bs, len⟩) (hcls : hostClass (submitted bs len) = cls)
    (hroom : ¬(quotaOf d cls < d.mem.sram.used.getD cls 0 + gransOf len ∨ poolFree d.mem.sram < gransOf len)) :
    hostPump (n + 1) d = hostPump n (hostFrameSent (slotTaken d cls (gransOf len) j rest) (hostSourced (slotTaken d cls (gransOf len) j rest) (submitted bs len))
      cls (gransOf len)) := by
  have hcls' : (if fKind (List.take (len - 8) (padMin len bs)) = 5 then 3 else 1) = cls := hcls
  rw [hostPump_succ]
  generalize hostPump n = next
  unfold pumpOn
  rw [hq]
  dsimp only
  rw [hs]
  dsimp only
  rw [hcls', if_neg hroom]
  rfl

theorem StillKept.slotTaken (d : Dev) (cls g j : Nat) : (slotTaken d cls g j []).cmd.subQ = []
    ∧ tget HostSlot.free (slotTaken d cls g j []).cmd.slots j = HostSlot.free ∧ rg (slotTaken d cls g j []) Reg.CMD_SUBMIT_ERR_CNT = rg d Reg.CMD_SUBMIT_ERR_CNT :=
  ⟨rfl, tget_tset_self HostSlot.free (Machine.poolAlloc d cls 0 g).2.cmd.slots j HostSlot.free, (StillKept.poolAlloc d cls 0 g).errs⟩

/-- A frame that the pool has room for leaves its slot free. -/
theorem submitRun_room {d : Dev} {j : Nat} {bs : List Byte} {len cls : Nat} (hq : d.cmd.subQ = []) (hcls : hostClass (submitted bs len) = cls)
    (hquota : d.mem.sram.used.getD cls 0 + gransOf len ≤ quotaOf d cls) (hfree : gransOf len ≤ poolFree d.mem.sram) :
    (submitRun (slotFilled d j bs len) j cls).cmd.subQ = [] ∧ tget HostSlot.free (submitRun (slotFilled d j bs len) j cls).cmd.slots j = HostSlot.free
      ∧ rg (submitRun (slotFilled d j bs len) j cls) Reg.CMD_SUBMIT_ERR_CNT = rg d Reg.CMD_SUBMIT_ERR_CNT := by
  have hq' : (slotFilled d j bs len).cmd.subQ = j :: [] := by
    rw [slotFilled, hq]
    rfl
  have hs : tget HostSlot.free (slotFilled d j bs len).cmd.slots j = ⟨bs, len⟩ := tget_tset_self ..
  have hroom : ¬(quotaOf (slotFilled d j bs len) cls < (slotFilled d j bs len).mem.sram.used.getD cls 0 + gransOf len
      ∨ poolFree (slotFilled d j bs len).mem.sram < gransOf len) := not_or.mpr ⟨Nat.not_lt.mpr hquota, Nat.not_lt.mpr hfree⟩
  have herrs : rg (slotFilled d j bs len) Reg.CMD_SUBMIT_ERR_CNT = rg d Reg.CMD_SUBMIT_ERR_CNT := rfl
  have hb := hostPump_room 256 hq' hs hcls hroom
  generalize hostSourced (slotTaken (slotFilled d j bs len) cls (gransOf len) j []) (submitted bs len) = b at hb
  obtain ⟨h1, h2, h3⟩ := StillKept.slotTaken (slotFilled d j bs len) cls (gransOf len) j
  have hsent := StillKept.hostFrameSent (slotTaken (slotFilled d j bs len) cls (gransOf len) j []) b cls (gransOf len)
  rw [hostPump_empty _ (hsent.subQ.trans h1)] at hb
  have hrun : submitRun (slotFilled d j bs len) j cls = hostFrameSent (slotTaken (slotFilled d j bs len) cls (gransOf len) j []) b cls (gransOf len) := by
    unfold submitRun
    dsimp only
    rw [hb, hsent.subQ, h1]
    exact if_neg fun h => absurd h.1 (by simp)
  rw [hrun]
  exact ⟨hsent.subQ.trans h1, by rw [hsent.slots, h2], by rw [hsent.errs, h3, herrs]⟩

/-! ## HOST_RX_DELIVER (R497) -/

theorem exec_hostRxDeliver (s : State) : exec .hostRxDeliver s = act rxDeliver s := rfl

/-- Where the descriptor of the receive slot at the tail stands. -/
def rxAddr (d : Dev) : Nat := rg d Reg.CMD_RX_BASE_0 / 4096 * 4096 + 2 ^ 32 * rg d Reg.CMD_RX_BASE_1 + 2304 * fget d Reg.CMD_RX_TAIL Fd.CMD_RX_TAIL_tail

/-- The receive slot after the one at the tail. -/
def rxNext (d : Dev) : Nat := (fget d Reg.CMD_RX_TAIL Fd.CMD_RX_TAIL_tail + 1) % rxSlots d

/-- The device that has written a frame and its descriptor to the host. -/
def rxWritten (d : Dev) (b : List Byte) : Dev :=
  emit (emit d (.hostWrite (rxAddr d + 8) (b ++ frameCheck b)))
    (.hostWrite (rxAddr d) (beBytes 4 ((if d.cmd.phase then 2 ^ 31 else 0) + (b ++ frameCheck b).length) ++ beBytes 4 0))

/-- The device without the oldest waiting frame. -/
def rxShifted (d : Dev) (rest : List (List Byte)) : Dev := { d with cmd := { d.cmd with rxWait := rest } }

/-- The device whose tail stands at a slot; the phase turns where the ring starts again. -/
def rxMoved (d : Dev) (n : Nat) : Dev :=
  let e := fset d Reg.CMD_RX_TAIL Fd.CMD_RX_TAIL_tail n
  if n = 0 then { e with cmd := { e.cmd with phase := !e.cmd.phase } } else e

section
variable {d : Dev} {b : List Byte} {rest : List (List Byte)} (hw : d.cmd.rxWait = b :: rest)
include hw

theorem rxDeliver_full (h : rxNext d = fget d Reg.CMD_RX_HEAD Fd.CMD_RX_HEAD_head) : rxDeliver d = d := by
  unfold rxDeliver
  rw [hw]
  exact if_pos (.inl h)

theorem rxDeliver_room (hup : d.pkg.pcieUp = true) (hm : d.pkg.busM = true) (h : rxNext d ≠ fget d Reg.CMD_RX_HEAD Fd.CMD_RX_HEAD_head) :
    rxDeliver d = rxMoved (poolFreeGrans (rxShifted (rxWritten d b) rest) 3 0 (gransOf (fLen b)))
      ((fget d Reg.CMD_RX_TAIL Fd.CMD_RX_TAIL_tail + 1) % rxSlots (poolFreeGrans (rxShifted (rxWritten d b) rest) 3 0 (gransOf (fLen b)))) := by
  have hno : ¬((fget d Reg.CMD_RX_TAIL Fd.CMD_RX_TAIL_tail + 1) % rxSlots d = fget d Reg.CMD_RX_HEAD Fd.CMD_RX_HEAD_head ∨ (!d.pkg.pcieUp) = true ∨ (!d.pkg.busM) = true) := by
    rw [hup, hm]
    simpa [rxNext] using h
  unfold rxDeliver
  rw [hw]
  dsimp only
  rw [if_neg hno]
  rfl

end

theorem poolFreeGrans_wire (d : Dev) (c st n : Nat) : (poolFreeGrans d c st n).wire = d.wire := by
  unfold poolFreeGrans
  dsimp only
  split <;> rfl

theorem rxSlots_congr {d e : Dev} (h : rg e Reg.CMD_RX_SLOTS = rg d Reg.CMD_RX_SLOTS) : rxSlots e = rxSlots d := by rw [rxSlots, fget, h, rxSlots, fget]

theorem rxNext_lt (d : Dev) : rxNext d < 2 ^ 16 := by
  have hslots : fget d Reg.CMD_RX_SLOTS Fd.CMD_RX_SLOTS_slots < 2 ^ 16 := bits_lt ..
  have hlt : rxNext d < rxSlots d := Nat.mod_lt _ (by unfold rxSlots; omega)
  unfold rxSlots at hlt
  omega

/-- What the delivery of a frame leaves. -/
structure RxDelivered (d e : Dev) (b : List Byte) (rest : List (List Byte)) : Prop where
  wait : e.cmd.rxWait = rest
  tail : fget e Reg.CMD_RX_TAIL Fd.CMD_RX_TAIL_tail = rxNext d
  wire : e.wire = d.wire ++ [.hostWrite (rxAddr d + 8) (b ++ frameCheck b),
    .hostWrite (rxAddr d) (beBytes 4 ((if d.cmd.phase = true then 2 ^ 31 else 0) + (b ++ frameCheck b).length) ++ beBytes 4 0)]
  phase : e.cmd.phase = if rxNext d = 0 then !d.cmd.phase else d.cmd.phase

theorem rxMoved_moved (d : Dev) {n : Nat} (h : n < 2 ^ 16) : fget (rxMoved d n) Reg.CMD_RX_TAIL Fd.CMD_RX_TAIL_tail = n ∧ (rxMoved d n).wire = d.wire
    ∧ (rxMoved d n).cmd = { d.cmd with phase := if n = 0 then !d.cmd.phase else d.cmd.phase } := by
  have htail : fget (fset d Reg.CMD_RX_TAIL Fd.CMD_RX_TAIL_tail n) Reg.CMD_RX_TAIL Fd.CMD_RX_TAIL_tail = n :=
    (fget_fset_self _ _ _ _ (by decide) (by decide)).trans (Nat.mod_eq_of_lt h)
  unfold rxMoved
  dsimp only
  by_cases h0 : n = 0
  · rw [if_pos h0, if_pos h0]
    exact ⟨htail, rfl, rfl⟩
  · rw [if_neg h0, if_neg h0]
    exact ⟨htail, rfl, rfl⟩

theorem rxWritten_wire (d : Dev) (b : List Byte) (rest : List (List Byte)) : (rxShifted (rxWritten d b) rest).wire =
    d.wire ++ [.hostWrite (rxAddr d + 8) (b ++ frameCheck b),
      .hostWrite (rxAddr d) (beBytes 4 ((if d.cmd.phase = true then 2 ^ 31 else 0) + (b ++ frameCheck b).length) ++ beBytes 4 0)] := List.append_assoc ..

theorem rxWritten_cmd (d : Dev) (b : List Byte) (rest : List (List Byte)) : (rxShifted (rxWritten d b) rest).cmd = { d.cmd with rxWait := rest } := rfl
theorem rxWritten_regs (d : Dev) (b : List Byte) (rest : List (List Byte)) : (rxShifted (rxWritten d b) rest).regs = d.regs := rfl

theorem rxDeliver_delivered {d : Dev} {b : List Byte} {rest : List (List Byte)} (hw : d.cmd.rxWait = b :: rest) (hup : d.pkg.pcieUp = true) (hm : d.pkg.busM = true)
    (h : rxNext d ≠ fget d Reg.CMD_RX_HEAD Fd.CMD_RX_HEAD_head) : RxDelivered d (rxDeliver d) b rest := by
  have hfree := dropKept_poolFreeGrans (rxShifted (rxWritten d b) rest) 3 0 (gransOf (fLen b))
  have hwire := (poolFreeGrans_wire (rxShifted (rxWritten d b) rest) 3 0 (gransOf (fLen b))).trans (rxWritten_wire d b rest)
  have hcmd := hfree.cmd.trans (rxWritten_cmd d b rest)
  have hslots : rxSlots (poolFreeGrans (rxShifted (rxWritten d b) rest) 3 0 (gransOf (fLen b))) = rxSlots d :=
    rxSlots_congr ((hfree.reg _ (by decide)).trans (rg_congr (rxWritten_regs d b rest) _))
  rw [rxDeliver_room hw hup hm h, hslots]
  generalize poolFreeGrans (rxShifted (rxWritten d b) rest) 3 0 (gransOf (fLen b)) = e at hwire hcmd
  obtain ⟨ht, hw', hc⟩ := rxMoved_moved e (rxNext_lt d)
  exact ⟨by rw [← rxNext, hc, hcmd], ht, hw'.trans hwire, by rw [← rxNext, hc, hcmd]⟩

/-! ## CMD_RX_ENABLE (R498, R510) -/

theorem exec_cmdRxEnable (who : Req) (v : Word) (s : State) : exec (.cmdRxEnable who v) s = actReg (fun d => busWrite d who Reg.CMD_CTRL v.toNat 15) s := rfl

/-- The fields of CMD_CTRL. -/
abbrev cmdCtrlFlds : List Fld := [⟨31, 31, .rw, false, false, 0x0⟩, ⟨30, 30, .rw, true, true, 0x0⟩, ⟨15, 0, .rw, false, false, 0x400⟩]

abbrev cmdBlk : BlkRow := ⟨0x06, 0x014000, 1, false⟩

/-- The device after the unlock of the command block is spent. -/
def cmdSpent (d : Dev) (who : Req) : Dev := unlockSpent d who Reg.CMD_CTRL

theorem cmdSpent_only (d : Dev) (who : Req) : OnlyRegs [0x014004] d (cmdSpent d who) := unlockSpent_onlyRegs d who Reg.CMD_CTRL

theorem busWrite_cmdCtrl {d : Dev} {who : Req} {v : Nat} (hbus : BusReady d) (hs : reqSecure d who = true) (hu : Unlocked d who (blkBase Reg.CMD_CTRL)) :
    busWrite d who Reg.CMD_CTRL v 15 = cmdCtrl (cmdSpent d who) (rg d Reg.CMD_CTRL) (wordWrite cmdCtrlFlds (rg d Reg.CMD_CTRL) v true true).new := by
  have hb : blkOf Reg.CMD_CTRL = some (cmdBlk, 0) := by decide +kernel
  have hf : regFlds Reg.CMD_CTRL = some cmdCtrlFlds := by decide +kernel
  have hown : Reg.CMD_CTRL % 0x4000 < 0x1000 := by decide
  have hrg : rg (unlockSpent d who Reg.CMD_CTRL) Reg.CMD_CTRL = rg d Reg.CMD_CTRL := rg_unlockSpent d who (by decide)
  have hbus' := busWrite_of_allowed hown (by decide : 0 < 4) hb hf v hbus.1 (resetShields_of_ready hbus _) (.inl hs)
  rw [if_pos (by decide), hu] at hbus'
  have hreg := regWrite_of_single (d := unlockSpent d who Reg.CMD_CTRL) (who := who) hown (by decide : 0 < 4) hb hf v true (.inr (by decide)) (by decide +kernel)
  rw [reqSecure_unlockSpent, hs, hrg, aliasWord, if_pos rfl] at hreg
  rw [aliasAddr_zero hown] at hbus' hreg
  have hlock : (wordWrite cmdCtrlFlds (rg d Reg.CMD_CTRL) v true true).lock = false := Bool.eq_false_iff.mpr fun h => absurd ((wordWrite_lock_iff ..).mp h).1 (by decide)
  have hdeny := wordWrite_deny_of_secure cmdCtrlFlds (rg d Reg.CMD_CTRL) v true
  have hcount : refusalsCounted (unlockSpent d who Reg.CMD_CTRL) Reg.CMD_CTRL (wordWrite cmdCtrlFlds (rg d Reg.CMD_CTRL) v true true) = cmdSpent d who := by
    unfold refusalsCounted
    rw [hlock, hdeny]
    rfl
  dsimp only at hreg
  rw [hcount] at hreg
  rw [hbus', hreg]
  unfold applyReg
  dsimp only
  rw [if_neg (by decide), if_neg (by decide), if_neg (by decide)]
  have hold : rg (cmdSpent d who) Reg.CMD_CTRL = rg d Reg.CMD_CTRL := hrg
  rw [hold]
  rfl

/-- The receive enable of the written word. -/
theorem bit_cmdCtrl (old v : Nat) : bit (wordWrite cmdCtrlFlds old v true true).new 31 = bit v 31 := by
  have hfs : FieldsDescend cmdCtrlFlds := regFlds_descend (a := Reg.CMD_CTRL) (by decide +kernel)
  exact bit_eq_of_bits_eq (wordWrite_of_granted (.inl rfl) (f := ⟨31, 31, .rw, false, false, 0⟩) hfs (by decide)).1

/-- The device whose command control holds a word. -/
def cmdCtrlPut (d : Dev) (new : Nat) : Dev := rgPut d Reg.CMD_CTRL new

theorem fbit_cmdCtrlPut (d : Dev) (new : Nat) : fbit (cmdCtrlPut d new) Reg.CMD_CTRL Fd.CMD_CTRL_rx_en = bit new 31 := by
  rw [fbit, cmdCtrlPut, rg_rgPut_self]
  exact testBit_mod_of_lt _ (by decide)

theorem cmdCtrl_on {d : Dev} {old new : Nat} (ho : bit old 31 = false) (hn : bit new 31 = true) : cmdCtrl d old new = rxOn (cmdCtrlPut d new) := by
  unfold cmdCtrl
  dsimp only
  have ho' : bit old Fd.CMD_CTRL_rx_en.1 = false := ho
  rw [if_pos ⟨hn, by rw [ho']; rfl⟩]
  rfl

theorem cmdCtrl_off {d : Dev} {old new : Nat} (ho : bit old 31 = true) (hn : bit new 31 = false) : cmdCtrl d old new = rxOff (cmdCtrlPut d new) := by
  unfold cmdCtrl
  dsimp only
  have hn' : bit new Fd.CMD_CTRL_rx_en.1 = false := hn
  rw [if_neg (by rw [hn']; simp), if_pos ⟨ho, by rw [hn']; rfl⟩]
  rfl

/-- The receive area with head and tail 0. -/
def ringReset (d : Dev) : Dev := fset (fset d Reg.CMD_RX_HEAD Fd.CMD_RX_HEAD_head 0) Reg.CMD_RX_TAIL Fd.CMD_RX_TAIL_tail 0

theorem rxOn_regs (d : Dev) : (rxOn d).regs = (ringReset d).regs := rfl
theorem rxOn_cmd (d : Dev) : (rxOn d).cmd = { d.cmd with phase := true } := rfl

theorem rxOn_on (d : Dev) : fbit (rxOn d) Reg.CMD_CTRL Fd.CMD_CTRL_rx_en = fbit d Reg.CMD_CTRL Fd.CMD_CTRL_rx_en
    ∧ fget (rxOn d) Reg.CMD_RX_HEAD Fd.CMD_RX_HEAD_head = 0 ∧ fget (rxOn d) Reg.CMD_RX_TAIL Fd.CMD_RX_TAIL_tail = 0 := by
  rw [fbit_congr (rxOn_regs d), fget_congr (rxOn_regs d), fget_congr (rxOn_regs d), ringReset]
  refine ⟨?_, ?_, ?_⟩
  · rw [fbit_fset_ne _ _ _ _ (by decide), fbit_fset_ne _ _ _ _ (by decide)]
  · rw [fget_fset_ne _ _ _ _ (by decide), fget_fset_self _ _ _ _ (by decide) (by decide), Nat.zero_mod]
  · rw [fget_fset_self _ _ _ _ (by decide) (by decide), Nat.zero_mod]

/-- A dropped frame is counted once. -/
theorem rg_hostDrop (d : Dev) : rg (hostDrop d) Reg.CMD_RX_DROP_CNT = satInc (rg d Reg.CMD_RX_DROP_CNT) 1 := by
  have hraise (e : Dev) : rg (raiseOnce e 969 0) Reg.CMD_RX_DROP_CNT = rg e Reg.CMD_RX_DROP_CNT := by
    unfold raiseOnce
    split
    · rfl
    · exact rg_raise_ne (by decide) _ 969
  unfold hostDrop
  rw [hraise, rg_bump_self]

theorem rg_poolFreeGrans_drops (d : Dev) (c st n : Nat) : rg (poolFreeGrans d c st n) Reg.CMD_RX_DROP_CNT = rg d Reg.CMD_RX_DROP_CNT := by
  unfold poolFreeGrans
  dsimp only
  split
  · rfl
  · exact rg_bump_ne _ _ (by decide)

/-- Every frame that waited is counted as dropped. -/
theorem rg_rxOff (d : Dev) : rg (rxOff d) Reg.CMD_RX_DROP_CNT = satInc (rg d Reg.CMD_RX_DROP_CNT) d.cmd.rxWait.length := by
  have hfold (ws : List (List Byte)) (e : Dev) :
      rg (ws.foldl (fun d b => hostDrop (poolFreeGrans d 3 0 (gransOf (fLen b)))) e) Reg.CMD_RX_DROP_CNT = satInc (rg e Reg.CMD_RX_DROP_CNT) ws.length := by
    induction ws generalizing e with
    | nil => exact (satInc_zero _).symm
    | cons b ws ih => rw [List.foldl_cons, ih, rg_hostDrop, rg_poolFreeGrans_drops, satInc_satInc, List.length_cons, Nat.add_comm]
  have hrg : rg (rxEmptied d) Reg.CMD_RX_DROP_CNT = rg d Reg.CMD_RX_DROP_CNT := rg_congr (rxEmptied_regs d) _
  rw [← hrg]
  exact hfold ..

theorem cmdCtrlPut_spent_cmd (d : Dev) (who : Req) (new : Nat) : (cmdCtrlPut (cmdSpent d who) new).cmd = d.cmd := rfl

theorem rg_cmdCtrlPut_drops (d : Dev) (who : Req) (new : Nat) : rg (cmdCtrlPut (cmdSpent d who) new) Reg.CMD_RX_DROP_CNT = rg d Reg.CMD_RX_DROP_CNT :=
  (rg_rgPut_ne _ _ (by decide)).trans ((cmdSpent_only d who).2 _ (by decide))

section
variable {s : State} {who : Req} {v : Word} (hbus : BusReady s.dev) (hs : reqSecure s.dev who = true) (hu : Unlocked s.dev who (blkBase Reg.CMD_CTRL))
include hbus hs hu

/-- A write that sets rx_en empties the ring. -/
theorem cmdRxEnable_on (hv : bit v.toNat 31 = true) (ho : fbit s.dev Reg.CMD_CTRL Fd.CMD_CTRL_rx_en = false) :
    ∃ e, exec (.cmdRxEnable who v) s = .next (s.after e) ∧ fbit e Reg.CMD_CTRL Fd.CMD_CTRL_rx_en = true ∧ fget e Reg.CMD_RX_HEAD Fd.CMD_RX_HEAD_head = 0
      ∧ fget e Reg.CMD_RX_TAIL Fd.CMD_RX_TAIL_tail = 0 ∧ e.cmd = { s.dev.cmd with phase := true } := by
  have hbit := bit_cmdCtrl (rg s.dev Reg.CMD_CTRL) v.toNat
  generalize hnew : (wordWrite cmdCtrlFlds (rg s.dev Reg.CMD_CTRL) v.toNat true true).new = new at hbit
  obtain ⟨h1, h2, h3⟩ := rxOn_on (cmdCtrlPut (cmdSpent s.dev who) new)
  refine ⟨rxOn (cmdCtrlPut (cmdSpent s.dev who) new), ?_, ?_, h2, h3, by rw [rxOn_cmd, cmdCtrlPut_spent_cmd]⟩
  · rw [exec_cmdRxEnable]
    refine actReg_of_eq hbus.1 ((busWrite_cmdCtrl hbus hs hu).trans ?_)
    rw [hnew]
    exact cmdCtrl_on ho (hbit.trans hv)
  · rw [h1, fbit_cmdCtrlPut, hbit, hv]

/-- A write that clears it drops what waits. -/
theorem cmdRxEnable_off (hv : bit v.toNat 31 = false) (ho : fbit s.dev Reg.CMD_CTRL Fd.CMD_CTRL_rx_en = true) :
    ∃ e, exec (.cmdRxEnable who v) s = .next (s.after e) ∧ fbit e Reg.CMD_CTRL Fd.CMD_CTRL_rx_en = false ∧ e.cmd = { s.dev.cmd with rxWait := [] }
      ∧ rg e Reg.CMD_RX_DROP_CNT = satInc (rg s.dev Reg.CMD_RX_DROP_CNT) s.dev.cmd.rxWait.length := by
  have hbit := bit_cmdCtrl (rg s.dev Reg.CMD_CTRL) v.toNat
  generalize hnew : (wordWrite cmdCtrlFlds (rg s.dev Reg.CMD_CTRL) v.toNat true true).new = new at hbit
  refine ⟨rxOff (cmdCtrlPut (cmdSpent s.dev who) new), ?_, ?_, (rxOff_kept _).cmd, ?_⟩
  · rw [exec_cmdRxEnable]
    refine actReg_of_eq hbus.1 ((busWrite_cmdCtrl hbus hs hu).trans ?_)
    rw [hnew]
    exact cmdCtrl_off ho (hbit.trans hv)
  · rw [fbit_rxOff _ (by decide), fbit_cmdCtrlPut, hbit, hv]
  · rw [rg_rxOff, rg_cmdCtrlPut_drops, cmdCtrlPut_spent_cmd]

end

/-- Settles O47: the pump frees the slot it takes (submitRun_room), a delivery writes the frame before its descriptor, and rx_en follows the written word. -/
theorem hostFramesMove : Obligations.HostFramesMove := by
  unfold Obligations.HostFramesMove
  intro s
  refine ⟨fun j bs len ha => ⟨fun h => ?_, fun hs h64 hmax hk hq hquota hfree => ?_⟩, fun b rest ha hw hup hm => ⟨fun hfull => ?_, fun hroom => ?_⟩,
    fun who v hbus hs hu => ⟨fun hv ho => cmdRxEnable_on hbus hs hu hv ho, fun hv ho => cmdRxEnable_off hbus hs hu hv ho⟩⟩
  · rw [exec_hostSubmit]
    exact act_of_eq ha (submit_refused h)
  · obtain ⟨h1, h2, h3⟩ := submitRun_room (j := j.toNat) (bs := bs) hq rfl hquota hfree
    refine ⟨_, ?_, h1, h2, h3⟩
    rw [exec_hostSubmit]
    exact act_of_eq ha (submit_taken hs h64 hmax hk)
  · rw [exec_hostRxDeliver]
    exact act_of_eq ha (rxDeliver_full hw hfull)
  · obtain ⟨h1, h2, h3, h4⟩ := rxDeliver_delivered hw hup hm hroom
    refine ⟨rxDeliver s.dev, ?_, h1, h2, h3, h4⟩
    rw [exec_hostRxDeliver]
    exact act_of_eq ha rfl

end Sys2Proof.Machine
end

section
/-! PROOFS. The partner's commands: binding, unbinding and takeover. -/

namespace Sys2Proof.Machine

/-! ## Binding and unbinding -/

theorem exec_partnerBind (h : CmdHdr) (p : List Byte) (s : State) :
    exec (.partnerBind h p) s = act (runCmd ⟨0x0710, true, false⟩ h p (fun d _ => partnerBind d p)) s := rfl

theorem exec_partnerUnbind (h : CmdHdr) (p : List Byte) (s : State) :
    exec (.partnerUnbind h p) s = act (runCmd ⟨0x0711, true, false⟩ h p (fun d _ => partnerUnbind d p)) s := rfl

theorem exec_partnerTakeover (h : CmdHdr) (p : List Byte) (s : State) :
    exec (.partnerTakeover h p) s = act (runCmd ⟨0x0712, true, false⟩ h p (fun d _ => partnerTakeover d p)) s := rfl

/-- The registers that show a partner in state 0 and its coordinate. -/
def partnerShown (d : Dev) (c : Nat) : Dev := rgPut (partnerTo d 0) Reg.CKP_PARTNER c

theorem partnerShown_onlyRegs (d : Dev) (c : Nat) : OnlyRegs [Reg.CKP_PARTNER, Reg.CKP_STATUS] d (partnerShown d c) :=
  ((fset_onlyRegs ..).mono (by decide)).trans ((rgPut_onlyRegs ..).mono (by decide))

theorem partnerState_shown (d : Dev) (c : Nat) : partnerState (partnerShown d c) = 0 :=
  (fget_rgPut_ne _ c _ (by decide)).trans (fget_fset_self d _ _ 0 (by decide) (by decide))

theorem rg_partnerShown (d : Dev) {c : Nat} (h : c < 2 ^ 32) : rg (partnerShown d c) Reg.CKP_PARTNER = c :=
  (rg_rgPut_self ..).trans (Nat.mod_eq_of_lt h)

/-- A partner is bound and not yet heard. -/
def partnerBound (d : Dev) (c : Nat) : Dev :=
  { partnerShown d c with ckp := { (partnerShown d c).ckp with bound := true, beatAt := 0, heard := ns (partnerShown d c) } }

theorem partnerBound_ckp (d : Dev) (c : Nat) : (partnerBound d c).ckp = { d.ckp with bound := true, beatAt := 0, heard := ns d } := rfl

theorem partnerBound_regs (d : Dev) (c : Nat) : (partnerBound d c).regs = (partnerShown d c).regs := rfl

/-- A pairing that the other switch has not bound yet is not formed. -/
theorem partnerForm_of_not_theirs {d : Dev} (h : d.ckp.theirs = false) : partnerForm d = d := if_neg fun hd => by simp [h] at hd

section
variable {d : Dev} {p : List Byte} (hl : p.length = 4) (h3 : byteAt p 3 = 0)
  (hc : cGroup (field p 0 3) < 127 ∧ field p 0 3 % 2048 = 2047 ∧ field p 0 3 ≠ mgmtCoord d)
include hl h3 hc

theorem partnerBind_free (hb : d.ckp.bound = false) (ht : d.ckp.theirs = false) : partnerBind d p = .done (partnerBound d (field p 0 3)) [] := by
  unfold partnerBind
  rw [needLen_pass _ hl, checks_of_firstBad_none _ (by simp [firstBad, hc, h3])]
  simp only [hb, Bool.false_eq_true, false_and, ↓reduceIte]
  exact congrArg (Ans.done · []) (partnerForm_of_not_theirs (d := partnerBound d (field p 0 3)) ht)

theorem partnerBind_busy (hb : d.ckp.bound = true) (hs : partnerState d ≠ 3) : partnerBind d p = .err St.partnerBusy := by
  unfold partnerBind
  rw [needLen_pass _ hl, checks_of_firstBad_none _ (by simp [firstBad, hc, h3]), if_pos ⟨hb, hs⟩]

end

/-- Dropping regions leaves every one of them free, and a region that was not in use stays so. -/
theorem regionAt_dropped (xs : List (Nat × Nat)) (d : Dev) (i : Nat) (h : (regionAt d i).valid = false ∨ i ∈ xs.map (·.2)) :
    (regionAt (xs.foldl (fun d e => dropRegion d e.2) d) i).valid = false := by
  induction xs generalizing d with
  | nil => simpa using h
  | cons x xs ih =>
    refine ih _ ?_
    by_cases hx : i = x.2
    · subst hx
      exact .inl (congrArg Region.valid (regionAt_regionPut_self ..))
    · have hsame : regionAt (dropRegion d x.2) i = regionAt d i := regionAt_regionPut_ne _ _ hx
      rw [hsame]
      exact h.imp id fun hm => (List.mem_cons.mp hm).resolve_left hx

theorem partnerShown_mem (d : Dev) (c : Nat) : (partnerShown d c).mem = d.mem := (rgPut_mem ..).trans (fset_mem ..)

theorem partnerShown_ckp (d : Dev) (c : Nat) : (partnerShown d c).ckp = d.ckp := (rgPut_ckp ..).trans (fset_ckp ..)

/-- Giving both devices the same checkpoint state keeps what is between them. -/
theorem OnlyRegs.withCkp {as : List Nat} {d e : Dev} (h : OnlyRegs as d e) (k : Partner) :
    OnlyRegs as { d with ckp := k } { e with ckp := k } :=
  ⟨congrArg (fun x : Dev => { x with ckp := k }) h.1, h.2⟩

theorem partnerBound_onlyRegs (d : Dev) (c : Nat) :
    OnlyRegs [Reg.CKP_PARTNER, Reg.CKP_STATUS] { d with ckp := (partnerBound d c).ckp } (partnerBound d c) :=
  (partnerShown_onlyRegs d c).withCkp (partnerBound d c).ckp

/-- Nothing of a pairing is held on. -/
def pairingEnded (d : Dev) : Dev :=
  { d with ckp := { d.ckp with outbox := [], outs := [], ins := [], regions := [], exports := [], unmirrored := [], inbox := [], whole := [],
                               theirs := false, wasFull := false, lagSeen := false } }

theorem pairingEnded_mem (d : Dev) : (pairingEnded d).mem = d.mem := rfl

theorem partnerFree_eq (d : Dev) : partnerFree d = pairingEnded (d.ckp.regions.foldl (fun d e => dropRegion d e.2) d) := rfl

/-- No partner is bound. -/
def unbound (d : Dev) : Dev := { d with ckp := { d.ckp with bound := false } }

theorem unbound_mem (d : Dev) : (unbound d).mem = d.mem := rfl

/-- No partner is bound any more. -/
def partnerLeft (d : Dev) : Dev := partnerShown (unbound (partnerFree d)) 0

theorem partnerUnbind_eq (d : Dev) : partnerUnbind d [] = .done (partnerLeft d) [] := by
  unfold partnerUnbind
  exact needLen_pass (p := []) (n := 0) _ rfl

theorem regionAt_partnerLeft (d : Dev) {x : Nat × Nat} (h : x ∈ d.ckp.regions) : (regionAt (partnerLeft d) x.2).valid = false := by
  have hmem : (partnerLeft d).mem = (d.ckp.regions.foldl (fun d e => dropRegion d e.2) d).mem := by
    rw [partnerLeft, partnerShown_mem, unbound_mem, partnerFree_eq, pairingEnded_mem]
  rw [regionAt_congr (congrArg Memory.regions hmem)]
  exact regionAt_dropped d.ckp.regions d x.2 (.inr (List.mem_map_of_mem h))

theorem partnerLeft_ckp (d : Dev) :
    (partnerLeft d).ckp.bound = false ∧ (partnerLeft d).ckp.regions = [] ∧ (partnerLeft d).ckp.outs = [] ∧ (partnerLeft d).ckp.exports = [] := by
  rw [partnerLeft, partnerShown_ckp]
  exact ⟨rfl, rfl, rfl, rfl⟩

/-! ## Takeover -/

/-- What is imported so far, what is skipped, and the device. -/
abbrev Adoption : Type := (Nat × List Nat) × Dev

/-- One exported group of the partner: imported, or named as skipped. -/
def adoptOne (a : Adoption) (e : Nat × List Byte) : Adoption :=
  let i := e.1 % 32768
  if byteAt e.2 4 = 0 then a
  else if e.1 ≥ 32768 then
    match (if (hgroupAt a.2 i).valid then none else exportHud e.2) with
    | some g => ((a.1.1 + 1, a.1.2), hudInstall a.2 i e.2 g)
    | none => ((a.1.1, a.1.2 ++ [e.1]), a.2)
  else match (if (groupAt a.2 i).st = 0 then groupInstall a.2 i e.2 else none) with
    | some d => ((a.1.1 + 1, a.1.2), d)
    | none => ((a.1.1, a.1.2 ++ [e.1]), a.2)

theorem adoptGroups_eq (d : Dev) : adoptGroups d = d.ckp.exports.foldl adoptOne ((0, []), d) := rfl

theorem groupInstall_regions {d e : Dev} {i : Nat} {b : List Byte} (h : groupInstall d i b = some e) : e.ckp.regions = d.ckp.regions := by
  unfold groupInstall at h
  split at h
  · exact absurd h (by simp)
  · dsimp only at h
    rw [Option.ite_none_left_eq_some] at h
    rw [← Option.some.inj h.2]
    unfold historyPut
    split <;> rfl

/-- An exported group counts once: as imported or as skipped. -/
theorem adoptOne_count (a : Adoption) (e : Nat × List Byte) :
    (adoptOne a e).1.1 + (adoptOne a e).1.2.length = a.1.1 + a.1.2.length + if byteAt e.2 4 = 0 then 0 else 1 := by
  unfold adoptOne
  dsimp only
  split
  · simp
  · split <;> split <;> simp <;> omega

theorem adoptOne_regions (a : Adoption) (e : Nat × List Byte) : (adoptOne a e).2.ckp.regions = a.2.ckp.regions := by
  unfold adoptOne
  dsimp only
  split
  · rfl
  · split
    · split <;> rfl
    · split
      next heq =>
        refine groupInstall_regions (i := e.1 % 32768) (b := e.2) ?_
        split at heq
        · exact heq
        · exact absurd heq (by simp)
      · rfl

theorem adopted_count (xs : List (Nat × List Byte)) (a : Adoption) :
    (xs.foldl adoptOne a).1.1 + (xs.foldl adoptOne a).1.2.length = a.1.1 + a.1.2.length + (xs.filter (fun x => byteAt x.2 4 ≠ 0)).length := by
  induction xs generalizing a with
  | nil => simp
  | cons x xs ih =>
    rw [List.foldl_cons, ih, adoptOne_count, List.filter_cons]
    by_cases hx : byteAt x.2 4 = 0
    · simp [hx]
    · simp [hx]
      omega

theorem adopted_regions (xs : List (Nat × List Byte)) (a : Adoption) : (xs.foldl adoptOne a).2.ckp.regions = a.2.ckp.regions :=
  List.foldlRecOn (motive := fun b => b.2.ckp.regions = a.2.ckp.regions) xs adoptOne rfl fun b hb x _ => (adoptOne_regions b x).trans hb

/-- A count that rises by at most 1 with each element is at most their number. -/
theorem foldl_count_le {α β : Type} (f : Nat × β → α → Nat × β) (hf : ∀ a x, (f a x).1 ≤ a.1 + 1) (xs : List α) (a : Nat × β) :
    (xs.foldl f a).1 ≤ a.1 + xs.length := by
  induction xs generalizing a with
  | nil => simp
  | cons x xs ih =>
    have h := hf a x
    have hi := ih (f a x)
    rw [List.foldl_cons, List.length_cons]
    omega

/-- A takeover with a whole copy: the groups of adoptGroups, no more shards than regions, and no copy held on. -/
theorem partnerTakeover_lost {d : Dev} (hs : partnerState d = 3) (hf : d.ckp.wasFull = true) :
    ∃ e m, partnerTakeover d [] = .done e (beBytes 2 (adoptGroups d).1.1 ++ beBytes 2 m ++ beBytes 2 (adoptGroups d).1.2.length ++ (adoptGroups d).1.2.flatMap (beBytes 2))
      ∧ m ≤ (adoptGroups d).2.ckp.regions.length ∧ e.ckp.regions = [] ∧ e.ckp.exports = [] ∧ e.ckp.wasFull = false := by
  unfold partnerTakeover
  rw [needLen_pass (p := []) (n := 0) _ rfl, if_neg (by omega), if_neg (by simp [hs, hf])]
  refine ⟨_, _, rfl, ?_, rfl, rfl, rfl⟩
  refine (foldl_count_le _ (fun a e => ?_) _ _).trans ((Nat.zero_add _).le.trans (List.length_filter_le ..))
  split <;> simp

theorem partnerTakeover_early {d : Dev} (hs : partnerState d = 1 ∨ partnerState d = 2) : partnerTakeover d [] = .err St.partnerBusy := by
  unfold partnerTakeover
  rw [needLen_pass (p := []) (n := 0) _ rfl, if_pos hs]

theorem partnerTakeover_incomplete {d : Dev} (hs : partnerState d = 0 ∨ (partnerState d = 3 ∧ d.ckp.wasFull = false)) :
    partnerTakeover d [] = .err St.partnerIncomplete := by
  unfold partnerTakeover
  rw [needLen_pass (p := []) (n := 0) _ rfl, if_neg (by omega), if_pos (hs.imp (by omega) fun h => by simp [h.2])]

theorem adoptGroups_regions (d : Dev) : (adoptGroups d).2.ckp.regions = d.ckp.regions := by
  rw [adoptGroups_eq]
  exact adopted_regions d.ckp.exports ((0, []), d)

theorem adoptGroups_count (d : Dev) : (adoptGroups d).1.1 + (adoptGroups d).1.2.length = (d.ckp.exports.filter (fun x => byteAt x.2 4 ≠ 0)).length := by
  rw [adoptGroups_eq]
  exact (adopted_count d.ckp.exports ((0, []), d)).trans (Nat.zero_add _)

/-- Settles O44: an exported group is counted as imported or as skipped (adoptOne_count), and imports leave the partner's regions in place
(adoptGroups_regions), so no more shards are bound than regions were held. -/
theorem partnerCommands : Obligations.PartnerCommands := by
  unfold Obligations.PartnerCommands
  intro s h p
  refine ⟨?_, ?_, ?_⟩
  · intro d c had hl h3 hg hm hne
    refine ⟨fun hb ht => ⟨partnerBound d c, ?_, partnerBound_ckp d c, ?_, ?_, ?_⟩, fun hb hs => ?_⟩
    · rw [exec_partnerBind]
      exact cmd_done had rfl (partnerBind_free hl h3 ⟨hg, hm, hne⟩ hb ht)
    · exact (rg_congr (partnerBound_regs d c) _).trans (rg_partnerShown d (by unfold cGroup at hg; omega))
    · exact (fget_congr (partnerBound_regs d c) _ _).trans (partnerState_shown d c)
    · exact partnerBound_onlyRegs d c
    · rw [exec_partnerBind]
      exact cmd_err had (partnerBind_busy hl h3 ⟨hg, hm, hne⟩ hb hs)
  · rintro d had rfl
    obtain ⟨hb, hr, ho, he⟩ := partnerLeft_ckp d
    refine ⟨partnerLeft d, ?_, hb, hr, ho, he, partnerState_shown .., rg_partnerShown _ (by decide), fun x hx => regionAt_partnerLeft d hx⟩
    rw [exec_partnerUnbind]
    exact cmd_done had rfl (partnerUnbind_eq d)
  · rintro d had rfl
    refine ⟨fun hs => ?_, fun hs => ?_, fun hs hf => ?_⟩
    · rw [exec_partnerTakeover]
      exact cmd_err had (partnerTakeover_early hs)
    · rw [exec_partnerTakeover]
      exact cmd_err had (partnerTakeover_incomplete hs)
    · obtain ⟨e, m, heq, hm, hr, he, hw⟩ := partnerTakeover_lost hs hf
      rw [adoptGroups_regions] at hm
      refine ⟨e, (adoptGroups d).1.1, m, (adoptGroups d).1.2, ?_, adoptGroups_count d, hm, hr, he, hw⟩
      rw [exec_partnerTakeover]
      exact cmd_done had rfl heq

end Sys2Proof.Machine
end

section
/-! PROOFS. Mirroring: the frames from the partner and the mirror's own happenings. -/

namespace Sys2Proof.Machine

/-! ## A register written by a secure requester that holds the unlock -/

section
variable {d : Dev} {who : Req} {a : Nat} {b : BlkRow} {inst : Nat} {fs : List Fld} (ha : a % 0x4000 < 0x1000)
  (hb : blkOf a = some (b, inst)) (hf : regFlds a = some fs) (hk : b.kind ≠ 0x06 ∨ a % 0x4000 < 0x110) (hm : multiWord a = none)
  (v : Nat) (hs : reqSecure d who = true)
include ha hb hf hk hm hs

/-- No field is refused: the register acts on the word that its fields make. -/
theorem regWrite_granted : regWrite d who a v true = applyReg d who b.kind inst a (wordWrite fs (rg d a) v true true) := by
  have hreg := regWrite_of_single (d := d) (who := who) ha (by decide : 0 < 4) hb hf v true hk hm
  have hlock : (wordWrite fs (rg d a) v true true).lock = false := Bool.eq_false_iff.mpr fun h => absurd ((wordWrite_lock_iff ..).mp h).1 (by decide)
  have hcount : refusalsCounted d a (wordWrite fs (rg d a) v true true) = d := by
    unfold refusalsCounted
    rw [hlock, wordWrite_deny_of_secure]
    rfl
  rw [aliasAddr_zero ha, hs, aliasWord, if_pos rfl] at hreg
  dsimp only at hreg
  rw [hreg, hcount]

theorem busWrite_granted (hp : b.posted = false) (hbus : BusReady d) (hu : Unlocked d who (blkBase a)) (hown : a ≠ Reg.BLK_STATUS (blkBase a)) :
    busWrite d who a v 15 = applyReg (unlockSpent d who a) who b.kind inst a (wordWrite fs (rg d a) v true true) := by
  have hbus' := busWrite_of_allowed ha (by decide : 0 < 4) hb hf v hbus.1 (resetShields_of_ready hbus _) (.inl hs)
  rw [hp, if_pos (by decide), hu, aliasAddr_zero ha] at hbus'
  rw [hbus', regWrite_granted ha hb hf hk hm v ((reqSecure_unlockSpent ..).trans hs), rg_unlockSpent d who hown]

end

/-! ## The mirror's own happenings -/

theorem exec_mirrorFrameReceive (s : State) : exec .mirrorFrameReceive s = act mirrorReceive s := rfl
theorem exec_mirrorBeat (s : State) : exec .mirrorBeat s = act mirrorBeat s := rfl
theorem exec_mirrorResendTimeout (s : State) : exec .mirrorResendTimeout s = act mirrorResend s := rfl
theorem exec_partnerLost (s : State) : exec .partnerLost s = act partnerLost s := rfl
theorem exec_ckpMirrorDisable (who : Req) (v : Word) (s : State) :
    exec (.ckpMirrorDisable who v) s = actReg (fun d => busWrite d who Reg.CKP_CTRL v.toNat 15) s := rfl

theorem mirSending_iff {d : Dev} : mirSending d = true ↔ partnerState d = 1 ∨ partnerState d = 2 := decide_eq_true_iff

/-- A stream whose acknowledged offset is where it goes on sending from. -/
def rewound (d : Dev) (k : Nat) (o : MirOut) : Dev := mirOutPut d k { o with sent := 0, at_ := ns d }

theorem mirrorResend_one {d : Dev} {k : Nat} {o : MirOut} (hs : partnerState d = 1 ∨ partnerState d = 2) (ho : d.ckp.outs = [(k, o)]) (h : 0 < o.sent)
    (ht : o.at_ + 100000 ≤ ns d) : mirrorResend d = rewound d k o := by
  unfold mirrorResend
  rw [mirSending_iff.mpr hs, ho, if_neg (by decide), List.foldl_cons, List.foldl_nil, if_pos ⟨h, ht⟩, rewound]

theorem mirOut_rewound (d : Dev) (k : Nat) (o : MirOut) : mirOut (rewound d k o) k = { o with sent := 0, at_ := ns d } := tget_tset_self ..

theorem rewound_outs (d : Dev) (k : Nat) (o : MirOut) : { rewound d k o with ckp := { (rewound d k o).ckp with outs := d.ckp.outs } } = d := rfl

theorem mirrorBeat_sent {d : Dev} (hb : d.ckp.bound = true) (hm : mirrorEn d = true) (hs : partnerState d ≠ 3) (hr : running d = true) :
    mirrorBeat d = originate { d with ckp := { d.ckp with beatAt := ns d } } (mirFrame { d with ckp := { d.ckp with beatAt := ns d } } 9 0 0 0 []) :=
  if_pos ⟨hb, hm, hs, hr⟩

theorem partnerLost_silent {d : Dev} (hs : partnerState d = 1 ∨ partnerState d = 2)
    (ht : d.ckp.heard + 1000000 * max 1 (fget d Reg.CKP_CTRL Fd.CKP_CTRL_lost_ms) ≤ ns d) :
    partnerLost d = raise (fset { d with ckp := { d.ckp with outbox := [], outs := [], whole := [] } } Reg.CKP_STATUS Fd.CKP_STATUS_partner_state 3) 1000 :=
  if_pos ⟨mirSending_iff.mpr hs, ht⟩

/-! ## CKP_MIRROR_DISABLE (R482) -/

/-- The fields of CKP_CTRL. -/
abbrev ckpCtrlFlds : List Fld := [⟨31, 24, .rw, false, false, 0x5⟩, ⟨23, 16, .rw, false, false, 0x2⟩, ⟨15, 8, .rw, false, false, 0xC0⟩,
  ⟨1, 1, .rw, true, false, 0x1⟩, ⟨0, 0, .rw, true, false, 0x1⟩]

/-- The word that a write leaves in CKP_CTRL. -/
def ckpWord (d : Dev) (v : Nat) : Nat := (wordWrite ckpCtrlFlds (rg d Reg.CKP_CTRL) v true true).new

theorem bits_ckpWord (d : Dev) (v : Nat) {f : Fld} (hf : f ∈ ckpCtrlFlds) (hrw : f.acc = .rw) : bits (ckpWord d v) f.hi f.lo = bits v f.hi f.lo := by
  have hfs : FieldsDescend ckpCtrlFlds := regFlds_descend (a := Reg.CKP_CTRL) (by decide +kernel)
  have h := (wordWrite_of_granted (old := rg d Reg.CKP_CTRL) (v := v) (u := true) (.inl rfl) hfs hf).1
  rw [fldKept, hrw] at h
  exact h

/-- Bits 31 to 8 are three fields of a byte each. -/
theorem bits_31_8_of_bytes {m n : Nat} (h1 : bits m 15 8 = bits n 15 8) (h2 : bits m 23 16 = bits n 23 16) (h3 : bits m 31 24 = bits n 31 24) :
    bits m 31 8 = bits n 31 8 := by
  simp only [bits, Nat.shiftRight_eq_div_pow] at *
  omega

/-- The device whose CKP_CTRL holds a word. -/
def ckpCtrlPut (d : Dev) (who : Req) (v : Nat) : Dev := rgPut (unlockSpent d who Reg.CKP_CTRL) Reg.CKP_CTRL (ckpWord d v)

theorem busWrite_ckpCtrl {d : Dev} {who : Req} {v : Nat} (hbus : BusReady d) (hs : reqSecure d who = true) (hu : Unlocked d who (blkBase Reg.CKP_CTRL)) :
    busWrite d who Reg.CKP_CTRL v 15 =
      if bit (rg d Reg.CKP_CTRL) 0 ∧ !bit (ckpWord d v) 0 then mirrorOff (ckpCtrlPut d who v) else ckpCtrlPut d who v := by
  have hb : blkOf Reg.CKP_CTRL = some (⟨0x07, 0x018000, 1, false⟩, 0) := by decide +kernel
  have hf : regFlds Reg.CKP_CTRL = some ckpCtrlFlds := by decide +kernel
  rw [busWrite_granted (by decide) hb hf (.inl (by decide)) (by decide +kernel) v hs rfl hbus hu (by decide)]
  unfold applyReg
  dsimp only
  rw [if_neg (by decide), if_neg (by decide), if_neg (by decide), rg_unlockSpent d who (by decide)]
  rfl

/-- Nothing waits for the partner. -/
def mirrorEmptied (d : Dev) : Dev := { d with ckp := { d.ckp with outbox := [], outs := [], whole := [], theirs := false, lagSeen := false } }

theorem mirrorEmptied_regs (d : Dev) : (mirrorEmptied d).regs = d.regs := rfl

/-- A bound device whose mirror ends. -/
def mirrorEnded (d : Dev) : Dev := mirrorEmptied (partnerTo d 0)

theorem mirrorOff_bound {d : Dev} (h : d.ckp.bound = true) : mirrorOff d = mirrorEnded d := by
  unfold mirrorOff
  rw [if_pos h]
  rfl

theorem mirrorEnded_regs (d : Dev) : (mirrorEnded d).regs = (partnerTo d 0).regs := mirrorEmptied_regs _

theorem mirrorEnded_ckp (d : Dev) : (mirrorEnded d).ckp = { d.ckp with outbox := [], outs := [], whole := [], theirs := false, lagSeen := false } := by
  rw [mirrorEnded, mirrorEmptied]
  rw [show (partnerTo d 0).ckp = d.ckp from fset_ckp ..]

theorem partnerState_mirrorEnded (d : Dev) : partnerState (mirrorEnded d) = 0 :=
  (fget_congr (mirrorEnded_regs d) _ _).trans (fget_fset_self d _ _ 0 (by decide) (by decide))

/-- What CKP_CTRL reads once the mirror has ended. -/
theorem fget_mirrorEnded (d : Dev) (who : Req) (v : Nat) {f : Nat × Nat} (hl : f.2 ≤ f.1) (h : f.1 < 32) :
    fget (mirrorEnded (ckpCtrlPut d who v)) Reg.CKP_CTRL f = bits (ckpWord d v) f.1 f.2 :=
  (fget_congr (mirrorEnded_regs _) _ _).trans ((fget_fset_ne _ _ _ _ (by decide)).trans (fget_rgPut_self _ _ _ hl h))

theorem ckpCtrlPut_ckp (d : Dev) (who : Req) (v : Nat) : (ckpCtrlPut d who v).ckp = d.ckp := by
  rw [ckpCtrlPut, rgPut_ckp]
  exact (congrArg (fun e => e.ckp) (unlockSpent_onlyRegs d who Reg.CKP_CTRL).1 :)

theorem exec_ckpMirrorDisable_on {s : State} {who : Req} {v : Word} (hbus : BusReady s.dev) (hs : reqSecure s.dev who = true) (hu : Unlocked s.dev who 0x018000)
    (hv : bits v.toNat 0 0 = 0) (hm : mirrorEn s.dev = true) (hb : s.dev.ckp.bound = true) :
    exec (.ckpMirrorDisable who v) s = .next (s.after (mirrorEnded (ckpCtrlPut s.dev who v.toNat))) := by
  have hoff : bit (ckpWord s.dev v.toNat) 0 = false :=
    bit_of_bits_eq_zero ((bits_ckpWord s.dev v.toNat (f := ⟨0, 0, .rw, true, false, 0x1⟩) (by decide) rfl).trans hv)
  rw [exec_ckpMirrorDisable]
  refine actReg_of_eq hbus.1 ((busWrite_ckpCtrl hbus hs hu).trans ((if_pos ⟨hm, by rw [hoff]; rfl⟩).trans (mirrorOff_bound ?_)))
  rw [ckpCtrlPut_ckp]
  exact hb

/-! ## Frames from the partner -/

/-- The frame at the front is taken. -/
def mirTaken (d : Dev) (rest : List (List Byte)) : Dev := { d with ckp := { d.ckp with inbox := rest } }

/-- The frame at the front is taken, and shows that the partner has bound this switch. -/
def mirHeld (d : Dev) (rest : List (List Byte)) : Dev := { d with ckp := { d.ckp with inbox := rest, theirs := true } }

/-- What a frame of the bound partner does. -/
def mirFrameDone (d : Dev) (b : List Byte) : Dev :=
  if byteAt b 16 = 9 then { d with ckp := { d.ckp with heard := ns d } }
  else if byteAt b 16 = 8 then mirAck { d with ckp := { d.ckp with heard := ns d } } (mirKey (byteAt b 17 % 16) (field b 18 2)) (field b 20 8)
  else if byteAt b 16 > 5 ∨ field b 28 4 ≠ crc32c (b.drop 32) then d
  else mirrorData d (byteAt b 16) (field b 18 2) (field b 20 8) (bit (byteAt b 17) 7) (b.drop 32)

section
variable {d : Dev} {b : List Byte} {rest : List (List Byte)} (hi : d.ckp.inbox = b :: rest)
include hi

theorem mirrorReceive_other (h : d.ckp.bound = false ∨ mirrorEn d = false ∨ fSrc b ≠ rg d Reg.CKP_PARTNER % 2 ^ 24 ∨ partnerState d = 3) :
    mirrorReceive d = mirTaken d rest := by
  unfold mirrorReceive
  rw [hi]
  exact if_pos (h.imp (fun h => by rw [Bool.not_eq_true']; exact h) (Or.imp_left fun h => by rw [Bool.not_eq_true']; exact h))

theorem mirrorReceive_partner (hb : d.ckp.bound = true) (hm : mirrorEn d = true) (hs : fSrc b = rg d Reg.CKP_PARTNER % 2 ^ 24)
    (hp : partnerState d = 1 ∨ partnerState d = 2) : mirrorReceive d = mirFrameDone (mirHeld d rest) b := by
  have hform : partnerForm (mirHeld d rest) = mirHeld d rest := by
    refine if_neg fun h => ?_
    have h0 : partnerState d = 0 := h.2.2.2
    omega
  unfold mirrorReceive
  rw [hi]
  dsimp only
  rw [if_neg]
  · exact congrArg (mirFrameDone · b) hform
  · rintro (h | h | h | h)
    · exact absurd hb (by simpa using h)
    · have h' : (!mirrorEn d) = true := h
      have hm' : mirrorEn d = false := by simpa using h'
      exact absurd hm (by rw [hm']; decide)
    · exact h hs
    · have h3 : partnerState d = 3 := h
      omega

end

section
variable {d : Dev} {b : List Byte}

theorem mirFrameDone_beat (h : byteAt b 16 = 9) : mirFrameDone d b = { d with ckp := { d.ckp with heard := ns d } } := if_pos h

theorem mirFrameDone_ack (h : byteAt b 16 = 8) :
    mirFrameDone d b = mirAck { d with ckp := { d.ckp with heard := ns d } } (mirKey (byteAt b 17 % 16) (field b 18 2)) (field b 20 8) :=
  (if_neg (by omega)).trans (if_pos h)

theorem mirFrameDone_badCrc (h : byteAt b 16 ≤ 5) (hc : field b 28 4 ≠ crc32c (b.drop 32)) : mirFrameDone d b = d :=
  (if_neg (by omega)).trans ((if_neg (by omega)).trans (if_pos (.inr hc)))

theorem mirFrameDone_data (h : byteAt b 16 ≤ 5) (hc : field b 28 4 = crc32c (b.drop 32)) :
    mirFrameDone d b = mirrorData d (byteAt b 16) (field b 18 2) (field b 20 8) (bit (byteAt b 17) 7) (b.drop 32) :=
  (if_neg (by omega)).trans ((if_neg (by omega)).trans (if_neg (by rintro (h' | h') <;> omega)))

end

/-! ## Data of a stream -/

/-- Writing bytes of a region touches the memory alone. -/
theorem regionWrite_mem_only (d : Dev) (r : Region) (o : Nat) (bs : List Byte) : ∃ m, regionWrite d r o bs = { d with mem := m } := by
  unfold regionWrite
  refine List.foldlRecOn (motive := fun e => ∃ m, e = { d with mem := m }) _ _
    (List.foldlRecOn (motive := fun e => ∃ m, e = { d with mem := m }) _ _ ⟨d.mem, rfl⟩ fun e he i _ => ?_) fun e he i _ => ?_
  all_goals
    obtain ⟨m, rfl⟩ := he
    dsimp only
    split
  · exact ⟨m, rfl⟩
  · exact ⟨_, rfl⟩
  · exact ⟨_, rfl⟩
  · exact ⟨m, rfl⟩

theorem regionWrite_regs (d : Dev) (r : Region) (o : Nat) (bs : List Byte) : (regionWrite d r o bs).regs = d.regs := by
  obtain ⟨m, h⟩ := regionWrite_mem_only d r o bs
  rw [h]

theorem regionWrite_ckp (d : Dev) (r : Region) (o : Nat) (bs : List Byte) : (regionWrite d r o bs).ckp = d.ckp := by
  obtain ⟨m, h⟩ := regionWrite_mem_only d r o bs
  rw [h]

theorem placeRegion_regs {d e : Dev} {i c n w : Nat} {s p q : Bool} (h : placeRegion d i s p q c n w = some e) : e.regs = d.regs := by
  unfold placeRegion at h
  dsimp only at h
  rw [Option.ite_none_left_eq_some] at h
  replace h := h.2
  split at h
  · split at h
    · exact absurd h (by simp)
    · rw [← Option.some.inj h]
      rfl
  · rw [← Option.some.inj h]
    rfl

theorem peerRegion_regs {d e : Dev} {i x : Nat} (h : peerRegion d i = some (x, e)) : e.regs = d.regs := by
  unfold peerRegion at h
  split at h
  · rw [← (Prod.mk.inj (Option.some.inj h)).2]
  · dsimp only at h
    split at h
    · exact absurd h (by simp)
    · split at h
      · exact absurd h (by simp)
      next hp =>
        rw [← (Prod.mk.inj (Option.some.inj h)).2]
        exact (placeRegion_regs hp :)

theorem peerStore_regs {d e : Dev} {stream num off : Nat} {bs : List Byte} (h : peerStore d stream num off bs = some e) : e.regs = d.regs := by
  unfold peerStore at h
  dsimp only at h
  split at h
  · exact absurd h (by simp)
  next hp =>
    rw [Option.ite_none_left_eq_some] at h
    rw [← Option.some.inj h.2, regionWrite_regs]
    exact peerRegion_regs hp

theorem logSize_congr {d e : Dev} (h : e.regs = d.regs) : logSize e = logSize d := by rw [logSize, logSize, rg_congr h]

theorem mirrorData_other {d : Dev} {stream num off : Nat} {last : Bool} {bs : List Byte}
    (ho : (tget none d.ckp.ins (mirKey stream num)).map (fun x => x.expect) ≠ some off)
    (hn : tget none d.ckp.ins (mirKey stream num) = none → stream ≠ 0 ∧ off ≠ 0) : mirrorData d stream num off last bs = d := by
  unfold mirrorData
  refine if_pos ?_
  unfold mirIn
  cases hx : tget none d.ckp.ins (mirKey stream num) with
  | none =>
    obtain ⟨h1, h2⟩ := hn hx
    rw [if_neg h1]
    exact h2
  | some x =>
    rw [hx] at ho
    exact fun h => ho (congrArg some h.symm)

/-- Data kept at the expected offset: where the stream goes on, and what is held of it. -/
def dataKept (d : Dev) (k nx : Nat) (keep : List Byte) : Dev := { d with ckp := { d.ckp with ins := tset none d.ckp.ins k (some ⟨nx, keep⟩) } }

theorem mirrorData_stored {d g : Dev} {x : MirIn} {stream num : Nat} {bs : List Byte} (hst : stream ≤ 4) (hx : tget none d.ckp.ins (mirKey stream num) = some x)
    (hg : peerStore d stream num x.expect bs = some g) (nx : Nat) (hnx : nx = if stream = 0 then (x.expect + bs.length) % max 1 (logSize g) else x.expect + bs.length) :
    mirrorData d stream num x.expect false bs = originate (dataKept g (mirKey stream num) nx x.data) (mirFrame (dataKept g (mirKey stream num) nx x.data) 8 num stream nx []) := by
  rw [logSize_congr (peerStore_regs hg)] at hnx
  unfold mirrorData mirIn
  dsimp only
  have h5 : stream ≠ 5 := by omega
  rw [hx, Option.getD_some, if_neg (not_not.mpr rfl)]
  simp only [h5, ↓reduceIte, Bool.false_eq_true, and_false, hg, ← hnx]
  rfl

/-- The last data of an exported group: it is kept whole, and its stream starts anew. -/
def exportKept (d : Dev) (stream num : Nat) (x : MirIn) (bs : List Byte) : Dev :=
  dataKept { d with ckp := { d.ckp with exports := tput d.ckp.exports num (x.data ++ bs) } } (mirKey stream num) 0 []

theorem mirrorData_export {d : Dev} {x : MirIn} {stream num : Nat} {bs : List Byte} (h5 : stream = 5) (hx : tget none d.ckp.ins (mirKey stream num) = some x) :
    mirrorData d stream num x.expect true bs =
      originate (exportKept d stream num x bs) (mirFrame (exportKept d stream num x bs) 8 num 5 (x.expect + bs.length) []) := by
  unfold mirrorData mirIn
  dsimp only
  rw [hx, Option.getD_some, if_neg (not_not.mpr rfl)]
  subst h5
  rfl

/-- Settles O45: a frame of the bound partner does what its stream says (mirFrameDone), data only at the offset that its stream expects. -/
theorem mirrorsKeepStep : Obligations.MirrorsKeepStep := by
  unfold Obligations.MirrorsKeepStep
  refine ⟨fun s b rest => ?_, fun s => ?_⟩
  · intro d e k data ha hi
    refine ⟨fun h => ?_, fun hb hm hs hp => ?_⟩
    · rw [exec_mirrorFrameReceive]
      exact act_of_eq ha (mirrorReceive_other hi h)
    · have hrun {f : Dev} (h : mirFrameDone (mirHeld d rest) b = f) : exec .mirrorFrameReceive s = .next (s.after f) := by
        rw [exec_mirrorFrameReceive]
        exact act_of_eq ha ((mirrorReceive_partner hi hb hm hs hp).trans h)
      refine ⟨fun h => ?_, fun h hc ho hn => ?_, fun h hc => ?_, fun h => ?_, fun x g h hc hx ho hl hg => ?_, fun x h hc hx ho hl => ?_⟩
      · exact hrun (mirFrameDone_beat h)
      · exact hrun ((mirFrameDone_data (by omega) hc).trans (mirrorData_other ho hn))
      · exact hrun (mirFrameDone_badCrc h hc)
      · exact hrun (mirFrameDone_ack h)
      · intro nx f
        refine hrun ((mirFrameDone_data (by omega) hc).trans ?_)
        rw [hl, ho]
        exact mirrorData_stored (d := mirHeld d rest) h hx hg nx rfl
      · refine ⟨exportKept (mirHeld d rest) (byteAt b 16) (field b 18 2) x data, hrun ((mirFrameDone_data (by omega) hc).trans ?_), rfl⟩
        rw [hl, ho]
        exact mirrorData_export h hx
  · intro d
    refine ⟨fun hr hb hm hs => ?_, fun k o ha hs ho h ht => ?_, fun ha hs ht => ?_, fun who v hbus hs hu hv hm hb => ?_⟩
    · intro e
      rw [exec_mirrorBeat]
      exact act_of_eq ((alive_of_running hr).1) (mirrorBeat_sent hb hm hs hr)
    · refine ⟨rewound d k o, ?_, mirOut_rewound d k o, rewound_outs d k o⟩
      rw [exec_mirrorResendTimeout]
      exact act_of_eq ha (mirrorResend_one hs ho h ht)
    · rw [exec_partnerLost]
      exact act_of_eq ha (partnerLost_silent hs ht)
    · have hbits {f : Fld} (hf : f ∈ ckpCtrlFlds) (hrw : f.acc = .rw) := bits_ckpWord d v.toNat hf hrw
      refine ⟨mirrorEnded (ckpCtrlPut d who v.toNat), exec_ckpMirrorDisable_on hbus hs hu hv hm hb, ?_, partnerState_mirrorEnded _, ?_, ?_⟩
      · have h0 : bits (ckpWord d v.toNat) 0 0 = 0 := (hbits (f := ⟨0, 0, .rw, true, false, 0x1⟩) (by decide) rfl).trans hv
        refine (fbit_eq_decide ..).trans (decide_eq_false fun h => ?_)
        rw [fget_mirrorEnded d who v.toNat (by decide) (by decide)] at h
        exact absurd (h0.symm.trans h) (by decide)
      · rw [mirrorEnded_ckp, ckpCtrlPut_ckp]
      · rw [fget_mirrorEnded d who v.toNat (by decide) (by decide)]
        exact bits_31_8_of_bytes (hbits (f := ⟨15, 8, .rw, false, false, 0xC0⟩) (by decide) rfl) (hbits (f := ⟨23, 16, .rw, false, false, 0x2⟩) (by decide) rfl)
          (hbits (f := ⟨31, 24, .rw, false, false, 0x5⟩) (by decide) rfl)

end Sys2Proof.Machine
end

section
/-! PROOFS. Checkpoints, and the lines of a copy rebuilt from the partner. -/

namespace Sys2Proof.Machine

theorem exec_checkpointWrite (h : CmdHdr) (p : List Byte) (s : State) :
    exec (.checkpointWrite h p) s = act (runCmd ⟨0x0720, true, false⟩ h p (fun d r => unlessDraining d (checkpointWrite d r p))) s := rfl

theorem exec_checkpointShardCopy (i : BitVec 10) (s : State) : exec (.checkpointShardCopy i) s = act (fun d => shardCopy d i.toNat) s := rfl

theorem exec_checkpointConfirm (h : CmdHdr) (p : List Byte) (s : State) :
    exec (.checkpointConfirm h p) s = act (runCmd ⟨0x0721, true, false⟩ h p (fun d _ => checkpointConfirm d p)) s := rfl

theorem exec_checkpointRead (h : CmdHdr) (p : List Byte) (s : State) :
    exec (.checkpointRead h p) s = act (runCmd ⟨0x0722, true, false⟩ h p (fun d r => checkpointRead d r p)) s := rfl

theorem exec_lineRebuildDone (a : HLine) (bs : Option (List Byte)) (s : State) :
    exec (.lineRebuildDone a bs) s = act (fun d => lineRebuild d (lineId a) bs) s := rfl

/-! ## CHECKPOINT_WRITE -/

/-- The shards bound, by their numbers. -/
def boundShards (d : Dev) : List (Nat × Shard) := d.lsn.shards.filterMap (fun e => e.2.map (fun s => (e.1, s)))

/-- The granule of a checkpoint at which its shards begin. -/
def ckptShardG (d : Dev) : Nat := 1 + granUp (allExports d).flatten.length

/-- The checkpoint that a CHECKPOINT_WRITE starts. -/
def ckptBegun (d : Dev) (r : ReplyTo) (p : List Byte) : Ckpt :=
  ⟨field p 0 4, field p 4 4, field p 8 4, ckptConns p, (boundShards d).map (·.1), ckptShardG d * granBytes, (allExports d).length, ckptShardG d, 0, some r, [], false, 0⟩

/-- The device in which it runs. -/
def ckptRunning (d : Dev) (k : Ckpt) : Dev := { d with ckp := { d.ckp with running := some k } }

theorem ckptRunning_regs (d : Dev) (k : Ckpt) : (ckptRunning d k).regs = d.regs := rfl

/-- The exports are written, and the checkpoint runs. -/
def ckptStarted (d : Dev) (r : ReplyTo) (p : List Byte) (g : Region) : Dev :=
  bump (ckptRunning (regionWrite d g granBytes (allExports d).flatten) (ckptBegun d r p)) Reg.CKP_WRITE_CNT

section
variable {d : Dev} {p : List Byte} {i : Nat} {g : Region} (hn : byteAt p 12 ≤ 8) (hl : p.length = 16 + 16 * byteAt p 12) (h0 : field p 13 3 = 0)
  (hc : ∀ j, j < byteAt p 12 → byteAt p (16 + 16 * j) < 64 ∧ field p (17 + 16 * j) 3 = 0) (hg : regionOf d (field p 8 4) = some (i, g))
include hn hl h0 hc hg

theorem checkpointWrite_eq (r : ReplyTo) : checkpointWrite d r p =
    if d.ckp.running.isSome then .err St.checkpointBusy
    else if g.cls ≠ 6 then .bad 8
    else if (ckptShardG d + granUp ((boundShards d).foldl (fun a x => a + shardBytes d x.2) 0)) * granBytes > regionBytes g then .err St.regionBounds
    else if (ckptConns p).any (fun c => match flashAt d c.1 with | some x => x.error | none => true) then .err St.flashFailed
    else .later (ckptStarted d r p g) := by
  unfold checkpointWrite
  rw [checks_of_firstBad_none, needLen_pass _ hl, hg]
  · rfl
  · simp [firstBad, handleOk_of_regionOf hg, hn, h0]
    exact hc

theorem checkpointWrite_busy (r : ReplyTo) (hr : d.ckp.running ≠ none) : checkpointWrite d r p = .err St.checkpointBusy := by
  rw [checkpointWrite_eq hn hl h0 hc hg, if_pos (Option.isSome_iff_ne_none.mpr hr)]

theorem checkpointWrite_start (r : ReplyTo) (hr : d.ckp.running = none) (hcls : g.cls = 6)
    (hroom : (ckptShardG d + granUp ((boundShards d).foldl (fun a x => a + shardBytes d x.2) 0)) * granBytes ≤ regionBytes g)
    (hfl : ∀ j, j < byteAt p 12 → (flashAt d (byteAt p (16 + 16 * j))).any (fun x => !x.error) = true) :
    checkpointWrite d r p = .later (ckptStarted d r p g) := by
  have hflash : ¬(ckptConns p).any (fun c => match flashAt d c.1 with | some x => x.error | none => true) = true := by
    rw [Bool.not_eq_true, ckptConns, List.any_map, List.any_eq_false]
    intro j hj hbad
    have hok := hfl j (List.mem_range.mp hj)
    dsimp only [Function.comp] at hbad
    cases hx : flashAt d (byteAt p (16 + 16 * j)) with
    | none => simp [hx] at hok
    | some x => simp_all
  rw [checkpointWrite_eq hn hl h0 hc hg, if_neg (by simp [hr]), if_neg (by simp [hcls]), if_neg (by omega), if_neg hflash]

end

theorem ckptStarted_count (d : Dev) (r : ReplyTo) (p : List Byte) (g : Region) :
    rg (ckptStarted d r p g) Reg.CKP_WRITE_CNT = satInc (rg d Reg.CKP_WRITE_CNT) 1 := by
  rw [ckptStarted, rg_bump_self, rg_congr (ckptRunning_regs ..), rg_congr (regionWrite_regs ..)]

theorem ckptStarted_mem (d : Dev) (r : ReplyTo) (p : List Byte) (g : Region) :
    (ckptStarted d r p g).mem = (regionWrite d g granBytes (allExports d).flatten).mem := bump_mem ..

theorem ckptStarted_ckp (d : Dev) (r : ReplyTo) (p : List Byte) (g : Region) :
    (ckptStarted d r p g).ckp = { d.ckp with running := some (ckptBegun d r p) } := by
  rw [ckptStarted, bump_ckp, ckptRunning, regionWrite_ckp]

/-! ## CHECKPOINT_CONFIRM -/

theorem checkpointConfirm_one {d : Dev} {p : List Byte} {k : Ckpt} (hl : p.length = 4) (hw : d.ckp.written = [k]) (hk : k.ident = field p 0 4) :
    checkpointConfirm d p = .done (durable d k) [] := by
  unfold checkpointConfirm
  rw [needLen_pass _ hl, hw]
  simp [hk]

theorem checkpointConfirm_none {d : Dev} {p : List Byte} (hl : p.length = 4) (hw : ∀ k ∈ d.ckp.written, k.ident ≠ field p 0 4) :
    checkpointConfirm d p = .err St.noSuchCheckpoint := by
  have hno : d.ckp.written.reverse.find? (fun k => decide (k.ident = field p 0 4)) = none :=
    List.find?_eq_none.mpr fun k hk => by simpa using hw k (List.mem_reverse.mp hk)
  unfold checkpointConfirm
  rw [needLen_pass _ hl, hno]

theorem rg64_lt (d : Dev) (a : Nat) : rg64 d a < 2 ^ 64 := by
  have h0 := rg_lt d a
  have h4 := rg_lt d (a + 4)
  unfold rg64
  omega

theorem rg64_durable {d : Dev} {k : Ckpt} (h : k.stepSeq + 1 < 2 ^ 48) :
    rg64 (durable d k) Reg.LOG_DURABLE_0 = max (rg64 d Reg.LOG_DURABLE_0) (k.stepSeq + 1) := by
  have hlt := rg64_lt d Reg.LOG_DURABLE_0
  exact rg64_rg64Put_self _ _ (by omega)

theorem durable_onlyRegs (d : Dev) (k : Ckpt) : OnlyRegs [Reg.LOG_DURABLE_0, Reg.LOG_DURABLE_0 + 4] d (durable d k) :=
  ((rgPut_onlyRegs ..).mono (by decide)).trans ((rgPut_onlyRegs ..).mono (by decide))

/-! ## CHECKPOINT_READ -/

theorem checkpointRead_room {d : Dev} {p : List Byte} {x : Flash} {i : Nat} {g : Region} (hl : p.length = 20) (hc : byteAt p 0 < 64) (h1 : field p 1 3 = 0)
    (hx : flashAt d (byteAt p 0) = some x) (hg : regionOf d (field p 16 4) = some (i, g)) (hcls : g.cls = 6) (hroom : field p 12 4 * x.bsize ≤ regionBytes g)
    (he : x.error = false) (hfree : x.xfers.length < x.depth) (r : ReplyTo) :
    checkpointRead d r p = .later (flashPut d (byteAt p 0) (some (withTransfer d x ⟨false, field p 4 8, field p 12 4, field p 16 4, 0, false, some r, true⟩))) := by
  unfold checkpointRead flashMove
  rw [needLen_pass _ hl, checks_of_firstBad_none _ (by simp [firstBad, hc, h1, handleOk_of_regionOf hg]), withFlash_of_conn _ hc hx, hg]
  dsimp only
  rw [if_neg (by simp [hcls]), if_neg (by omega), xferQueue_of_room _ he hfree]

/-! ## CHECKPOINT_SHARD_COPY -/

/-- The bytes of a shard's W, S1 and S2 streams. -/
def shardCopied (d : Dev) (x : Shard) : List Byte :=
  [x.w, x.s1, x.s2].flatMap (fun y => match regionOf d y.handle with
    | some (_, r) => if y.fmt = 0 then [] else deliverBytes d r y.off (streamBytes y.fmt (shardSpan d x).2)
    | none => [])

theorem shardCopy_ready {d : Dev} {i j : Nat} {k : Ckpt} {x : Shard} {g : Region} (hk : d.ckp.running = some k) (hx : shardAt d i = some x) (hi : i ∈ k.shards)
    (hr : ckptReady d k i x = true) (hg : regionOf d k.staging = some (j, g)) :
    shardCopy d i = ckptRunning (regionWrite d g k.nextOff (shardCopied d x))
      { k with shards := k.shards.erase i, nextOff := k.nextOff + (shardCopied d x).length, copied := k.copied + 1 } := by
  unfold shardCopy
  rw [hk, hx]
  dsimp only
  rw [if_neg (by simp [hi, hr]), hg]
  rfl

/-! ## Lines of the partner's copy -/

theorem lineId_stack (a : HLine) : lineId a / stackLines = a.stack.toNat := by
  have h := a.line.isLt
  simp only [lineId, stackLines]
  omega

theorem lineId_line (a : HLine) : lineId a % stackLines = a.line.val := by
  have h := a.line.isLt
  simp only [lineId, stackLines]
  omega

theorem lineRebuild_copy {d : Dev} {x ri w : Nat} (bs : List Byte) (hp : poisoned d x = true)
    (ho : ownerOf d (x / stackLines) (x % stackLines / granLines) = some (ri, w)) (hc : (regionAt d ri).cls = 5) (hs : partnerState d = 1 ∨ partnerState d = 2) :
    lineRebuild d x (some bs) = rebuilt d x (bs.take 64) := by
  unfold lineRebuild
  rw [if_neg (by simp [hp]), ho]
  dsimp only
  rw [hc]
  exact if_pos (mirSending_iff.mpr hs)

/-- Settles O46: a shard's copy and a rebuilt line are the model's own writes; the exports' write touches the memory alone (regionWrite_mem_only). -/
theorem checkpointsAreKept : Obligations.CheckpointsAreKept := by
  unfold Obligations.CheckpointsAreKept
  intro s h p
  refine ⟨?_, fun i k x j g ha hk hx hi hr hg => ?_, ?_, ?_, fun a bs ri w ha hp ho hc hs => ?_⟩
  · intro d ex shardG ss n i g had hdr hn hl h0 hc hg
    refine ⟨fun hr hcls hroom hfl => ?_, fun hr => ?_⟩
    · intro K
      refine ⟨ckptStarted d (hdrReply h 0x0720) p g, ?_, ckptStarted_count .., ckptStarted_mem .., ckptStarted_ckp ..⟩
      rw [exec_checkpointWrite]
      exact cmd_later had rfl ((unlessDraining_of_not _ hdr).trans (checkpointWrite_start hn hl h0 hc hg _ hr hcls hroom hfl))
    · rw [exec_checkpointWrite]
      exact cmd_err had ((unlessDraining_of_not _ hdr).trans (checkpointWrite_busy hn hl h0 hc hg _ hr))
  · intro bs e
    rw [exec_checkpointShardCopy]
    exact act_of_eq ha (shardCopy_ready hk hx hi hr hg)
  · intro d had hl
    refine ⟨fun k hw hk hlt => ⟨durable d k, ?_, rg64_durable hlt, durable_onlyRegs d k⟩, fun hw => ?_⟩
    · rw [exec_checkpointConfirm]
      exact cmd_done had rfl (checkpointConfirm_one hl hw hk)
    · rw [exec_checkpointConfirm]
      exact cmd_err had (checkpointConfirm_none hl hw)
  · intro d x i g had hl hc h1 hx hg hcls hroom he hfree
    rw [exec_checkpointRead]
    exact cmd_later had rfl (checkpointRead_room hl hc h1 hx hg hcls hroom he hfree _)
  · rw [exec_lineRebuildDone]
    refine act_of_eq ha (lineRebuild_copy (w := w) bs hp ?_ hc hs)
    rw [lineId_stack, lineId_line, ho]

end Sys2Proof.Machine
end

section
/-! PROOFS. Field tests: their queue, their start and their end, and the drain of a lesson engine. -/

namespace Sys2Proof.Machine

theorem exec_fieldTest (h : CmdHdr) (p : List Byte) (s : State) :
    exec (.fieldTest h p) s = act (runCmd ⟨0x0701, decide (field p 0 1 ≠ 6), false⟩ h p (fun d r => fieldTest d h r p)) s := rfl
theorem exec_fieldTestStart (s : State) : exec .fieldTestStart s = act ftStart s := rfl
theorem exec_fieldTestEnd (kind : FtKind) (pass : Bool) (s : State) : exec (.fieldTestEnd kind pass) s = act (fun d => ftEnd d kind pass) s := rfl
theorem exec_fieldTestRequeue (s : State) : exec .fieldTestRequeue s = act ftOwed s := rfl
theorem exec_unitDrainTimeout (kind : FtKind) (u : BitVec 9) (s : State) :
    exec (.unitDrainTimeout kind u) s = act (fun d => unitDrainTimeout d kind u.toNat) s := rfl

/-! ## FIELD_TEST (R438, R505) -/

theorem ftKind_ftCode (kind : FtKind) : ftKind (ftCode kind) = some kind := by cases kind <;> rfl

theorem ftCode_eq_six {kind : FtKind} : ftCode kind = 6 ↔ kind = .region := by cases kind <;> decide

theorem ftHas_iff {d : Dev} {kind : FtKind} {t : Nat} : ftHas d kind t = true ↔ ∃ x ∈ d.int.queue, x.kind = kind ∧ x.target = t := by
  simp [ftHas, List.any_eq_true]

theorem field_byte (p : List Byte) (o : Nat) : field p o 1 = byteAt p o := by
  have h := field_one (p.drop o)
  rw [field, List.drop_zero] at h
  rw [field, h, byteAt, byteAt]
  simp

/-- A command that names its target in order asks for a test of it. -/
theorem fieldTest_target {d : Dev} {h : CmdHdr} {r : ReplyTo} {p : List Byte} {kind : FtKind} {t : Nat} (hl : p.length = 8) (h0 : byteAt p 0 = ftCode kind)
    (h1 : byteAt p 1 = 0)
    (hreg : kind = .region → (regionOf d (field p 4 4)).any (fun g => decide (g.1 = t ∧ (g.2.secure = true → h.world = true))) = true)
    (hunit : kind ≠ .region → t = field p 2 2 ∧ t < ftTargets kind ∧ field p 4 4 = 0) : fieldTest d h r p = ftRequest d r kind t := by
  unfold fieldTest
  rw [field_one, h0, ftKind_ftCode]
  dsimp only
  have h1' : field p 1 1 = 0 := (field_byte p 1).trans h1
  by_cases hk : kind = .region
  · subst hk
    obtain ⟨⟨i, g⟩, hg, hi⟩ := (Option.any_eq_true ..).mp (hreg rfl)
    obtain ⟨rfl, hsec⟩ := of_decide_eq_true hi
    have hworld : ¬(g.secure = true ∧ (!h.world) = true) := fun hs => by simp [hsec hs.1] at hs
    rw [checks_of_firstBad_none _ (by simp [firstBad, h1']), needLen_pass _ hl, if_pos rfl, withRegion, if_neg (by simp [handleOk_of_regionOf hg]), hg]
    exact if_neg hworld
  · obtain ⟨rfl, hlt, h4⟩ := hunit hk
    rw [checks_of_firstBad_none _ (by simp [firstBad, h1', hlt, h4]), needLen_pass _ hl, if_neg hk]

section
variable {d : Dev} (r : ReplyTo) {kind : FtKind} {t : Nat}

theorem ftRequest_dead (hd : ftDead d kind t = true) : ftRequest d r kind t = .err St.testFailed := if_pos hd

section
variable (hd : ftDead d kind t = false) (hk : kind = .desk → d.fab.refill = none)
include hd hk

/-- A target that may be tested joins the test that waits for it, or the queue's end. -/
theorem ftRequest_eq : ftRequest d r kind t =
    if ftHas d kind t then .later { d with int := { d.int with queue := d.int.queue.map (fun x => if x.kind = kind ∧ x.target = t then { x with reqs := x.reqs ++ [r] } else x) } }
    else if d.int.queue.length ≥ 64 then .err St.testQueueFull
    else .later { d with int := { d.int with queue := d.int.queue ++ [⟨kind, t, [r], false, false, false⟩] } } := by
  unfold ftRequest
  rw [if_neg (by simp [hd]), if_neg]
  rintro ⟨h, hkat⟩
  rw [katDesk, hk h] at hkat
  exact absurd hkat (by simp)

end

end

/-! ## FIELD_TEST_START and FIELD_TEST_END -/

theorem ftStart_one {d : Dev} {x : FtEntry} (hr : running d = true) (hen : fbit d Reg.INT_CTRL Fd.INT_CTRL_ft_en = true) (hq : d.int.queue = [x])
    (hx : x.running = false) (how : ftHow d x = .run) :
    ftStart d = ftTake (bump { d with int := { d.int with queue := [{ x with running := true, spare := decide (x.kind = .desk ∧ deskState d x.target = 3) }] } }
      Reg.INT_FT_RUN_CNT) x.kind x.target := by
  unfold ftStart
  rw [if_neg (by simp [hr, hen])]
  simp [hq, ltake, lmodFirst, hx, how]

/-- The device without the entry of a test that ends, and without its drain. -/
def ftEnded (d : Dev) (x : FtEntry) : Dev :=
  { d with int := { d.int with queue := [], drains := d.int.drains.filter (fun y => !decide (y.1 = x.kind ∧ y.2.1 = x.target)) } }

/-- What a test says of its target. -/
def ftTold (d : Dev) (x : FtEntry) (pass : Bool) : Dev :=
  let d := ftPut (ftEnded d x) x.kind x.target x.spare pass
  if pass then { d with int := { d.int with passed := tput d.int.passed (ftCode x.kind * 65536 + x.target) (ns d) } }
  else
    let d := bump d Reg.INT_FT_FAIL_CNT
    let d := match ftSource x.kind x.target with | some n => raise d n | none => d
    event (raise (raise d 954) 959) 9 0 ([ftCode x.kind, x.target] ++ ((d.int.passed.find? (fun y => decide (y.1 = ftCode x.kind * 65536 + x.target))).map (·.2)).toList)

theorem ftEnd_one {d : Dev} {x : FtEntry} (pass : Bool) (hq : d.int.queue = [x]) (hx : x.running = true) (hd : ftDrained d x.kind x.target = true) :
    ftEnd d x.kind pass = x.reqs.foldl (fun d r => replyLate d r (if pass then St.ok else St.testFailed) []) (ftTold d x pass) := by
  have hfind : d.int.queue.find? (fun e => e.running && decide (e.kind = x.kind)) = some x := by simp [hq, hx]
  have hrest : d.int.queue.filter (fun y => !(y.running && decide (y.kind = x.kind))) = [] := by simp [hq, hx]
  unfold ftEnd
  rw [hfind]
  dsimp only
  rw [if_neg (by simp [hd]), hrest]
  rfl

/-! ## FIELD_TEST_REQUEUE and the drain of an engine -/

theorem ftOwed_one {d : Dev} {k : FtKind} {t : Nat} (ho : d.int.owed = [(k, t)]) (hq : d.int.queue.length < 64) (hh : ftHas d k t = false) :
    ftOwed d = { d with int := { d.int with queue := d.int.queue ++ [⟨k, t, [], false, true, false⟩], owed := [] } } := by
  unfold ftOwed
  rw [ho, List.foldl_cons, List.foldl_nil]
  unfold queueTest
  rw [hh, if_neg (by decide), if_neg (by omega), ho]
  simp

/-- No drain is counted any more. -/
def undrained (d : Dev) : Dev := { d with int := { d.int with drains := [] } }

theorem undrained_fset (d : Dev) (a : Nat) (f : Nat × Nat) (v : Nat) : undrained (fset d a f v) = fset (undrained d) a f v := rfl

theorem undrained_runMod (d : Dev) (i : Nat) (f : Run → Run) : undrained (runMod d i f) = runMod (undrained d) i f := rfl

theorem runMod_int (d : Dev) (i : Nat) (f : Run → Run) : (runMod d i f).int = d.int := rfl

theorem engPut_int (d : Dev) (e : Nat) (x : Option EngRow) : (engPut d e x).int = d.int := (fset_int ..).trans (fset_int ..)

theorem undrained_engPut (d : Dev) (e : Nat) (x : Option EngRow) : undrained (engPut d e x) = engPut (undrained d) e x := rfl

section
variable {d : Dev} {k : FtKind} {u t : Nat} (hd : d.int.drains = [(k, u, t)])
include hd

theorem drain_found : d.int.drains.find? (fun x => decide (x.1 = k ∧ x.2.1 = u)) = some (k, u, t) := by simp [hd]

theorem drain_gone {e : Dev} (he : e.int = d.int) : { e with int := { e.int with drains := e.int.drains.filter (fun x => !decide (x.1 = k ∧ x.2.1 = u)) } } = undrained e := by
  have hnone : e.int.drains.filter (fun x => !decide (x.1 = k ∧ x.2.1 = u)) = [] := by simp [he, hd]
  rw [hnone, undrained]

end

/-- The engine's row goes back to its run, to be worked again elsewhere. -/
def rowReturned (d e : Dev) (u : Nat) (r : EngRow) : Dev :=
  runMod (engPut e u none) r.shard (fun y => { y with redo := y.redo ++ [(r.row, u)], wait := ns d })

theorem rowReturned_int (d e : Dev) (u : Nat) (r : EngRow) : (rowReturned d e u r).int = e.int :=
  (runMod_int ..).trans (engPut_int ..)

theorem undrained_rowReturned (d e : Dev) (u : Nat) (r : EngRow) : undrained (rowReturned d e u r) = rowReturned d (undrained e) u r := by
  rw [rowReturned, undrained_runMod, undrained_engPut, rowReturned]

theorem unitDrainTimeout_engine {d : Dev} {u t : Nat} {r : EngRow} (hd : d.int.drains = [(.engine, u, t)]) (ht : t ≤ ns d) (hr : engRow d u = some r) :
    unitDrainTimeout d .engine u = raise (rowReturned d (undrained (bump d Reg.LSN_ROW_RETRY_CNT)) u r) 956 := by
  unfold unitDrainTimeout
  rw [drain_found hd]
  dsimp only
  rw [if_neg (by omega), hr]
  dsimp only
  rw [← undrained_rowReturned]
  exact congrArg (raise · 956) (drain_gone hd ((rowReturned_int d (bump d Reg.LSN_ROW_RETRY_CNT) u r).trans (bump_int ..)))

theorem unitDrainTimeout_huddle {d : Dev} {u t : Nat} (hd : d.int.drains = [(.huddle, u, t)]) (ht : t ≤ ns d) (hi : ∀ i ∈ d.hud.inst, i.unit ≠ u) :
    unitDrainTimeout d .huddle u = undrained d := by
  have hnone : d.hud.inst.filter (fun x => decide (x.unit = u)) = [] := List.filter_eq_nil_iff.mpr fun i hm => by simpa using hi i hm
  unfold unitDrainTimeout
  rw [drain_found hd]
  dsimp only
  rw [if_neg (by omega), hnone, if_pos List.isEmpty_nil]
  exact drain_gone hd rfl

/-- Settles O43: a request is answered by what its target allows (ftRequest_eq), and the test of a kind that ends is the one that runs (ftEnd_one). -/
theorem fieldTestsRunInTurn : Obligations.FieldTestsRunInTurn := by
  unfold Obligations.FieldTestsRunInTurn
  refine ⟨fun s h p kind t => ?_, fun s x => ?_⟩
  · intro d r hl h0 h1 had hreg hunit
    have hsec : decide (field p 0 1 ≠ 6) = decide (kind ≠ .region) := by
      rw [field_one, h0]
      exact decide_eq_decide.mpr (not_congr ftCode_eq_six)
    have hreq : fieldTest d h r p = ftRequest d r kind t := fieldTest_target hl h0 h1 hreg hunit
    refine ⟨fun hd => ?_, fun hd hk => ⟨fun hno hlen => ?_, fun hno hlen => ?_, fun hyes => ?_⟩⟩
    all_goals
      rw [exec_fieldTest, hsec]
    · exact cmd_err had (hreq.trans (ftRequest_dead r hd))
    · have hhas : ¬ftHas d kind t = true := fun hh => (ftHas_iff.mp hh).elim fun x hx => hno x hx.1 hx.2
      exact cmd_later had rfl (hreq.trans ((ftRequest_eq r hd hk).trans ((if_neg hhas).trans (if_neg (by omega)))))
    · have hhas : ¬ftHas d kind t = true := fun hh => (ftHas_iff.mp hh).elim fun x hx => hno x hx.1 hx.2
      exact cmd_err had (hreq.trans ((ftRequest_eq r hd hk).trans ((if_neg hhas).trans (if_pos hlen))))
    · exact cmd_later had rfl (hreq.trans ((ftRequest_eq r hd hk).trans (if_pos (ftHas_iff.mpr hyes))))
  · intro d
    refine ⟨fun hr hen hq hx how => ?_, fun ha hq hx hd => ⟨?_, ?_⟩, fun k t ha ho hq hh => ?_, fun u t r ha hd ht hr => ?_, fun u t ha hd ht hi => ?_⟩
    · rw [exec_fieldTestStart]
      exact act_of_eq (alive_of_running hr).1 (ftStart_one hr hen hq hx how)
    · rw [exec_fieldTestEnd]
      exact act_of_eq ha (ftEnd_one true hq hx hd)
    · rw [exec_fieldTestEnd]
      exact act_of_eq ha (ftEnd_one false hq hx hd)
    · rw [exec_fieldTestRequeue]
      exact act_of_eq ha (ftOwed_one ho hq hh)
    · rw [exec_unitDrainTimeout]
      exact act_of_eq ha (unitDrainTimeout_engine hd ht hr)
    · rw [exec_unitDrainTimeout]
      exact act_of_eq ha (unitDrainTimeout_huddle hd ht hi)

end Sys2Proof.Machine
end

section
/-! PROOFS. The sideband chain, the lights, and frames that a MAC frame carries. -/

namespace Sys2Proof.Machine

theorem exec_sidebandScan (p la i : BitVec 128) (ok : Bool) (s : State) :
    exec (.sidebandScan p la i ok) s = act (fun d => sidebandScan d p.toNat la.toNat ok) s := rfl
theorem exec_ledRefresh (ok : Bool) (s : State) : exec (.ledRefresh ok) s = act (fun d => ledRefresh d ok) s := rfl
theorem exec_encapFrameReceive (l : Fin 128) (mac : List Byte) (fcs : Bool) (s : State) :
    exec (.encapFrameReceive l mac fcs) s = act (fun d => encapReceive d l.val mac fcs) s := rfl

/-! ## SIDEBAND_SCAN -/

/-- A scan shows a cage as the device knows it, and no other reading of it waits. -/
def CageKnown (d : Dev) (j : Nat) (p la : Bool) : Prop :=
  p = fbit d (Reg.LINK_STATUS j) Fd.LINK_STATUS_present ∧ la = fbit d (Reg.LINK_STATUS j) Fd.LINK_STATUS_latch_closed ∧ (dynOf d j).scanN = 0

theorem scanCage_known {d : Dev} {j : Nat} {p la : Bool} (h : CageKnown d j p la) : scanCage d j p la = d := by
  obtain ⟨hp, hl, hn⟩ := h
  unfold scanCage
  dsimp only
  rw [← hp, ← hl, if_pos rfl, if_pos hn]

theorem foldl_fixed {α β : Type} {f : α → β → α} {d : α} (xs : List β) (h : ∀ x ∈ xs, f d x = d) : xs.foldl f d = d := by
  induction xs with
  | nil => rfl
  | cons x xs ih => rw [List.foldl_cons, h x (.head _), ih fun y hy => h y (.tail _ hy)]

/-- A run in which one element alone changes the state. -/
theorem foldl_one {α β : Type} [DecidableEq β] {f : α → β → α} {d : α} {l : β} {xs : List β} (hl : l ∈ xs) (hn : xs.Nodup)
    (hb : ∀ x ∈ xs, x ≠ l → f d x = d) (ha : ∀ x ∈ xs, x ≠ l → f (f d l) x = f d l) : xs.foldl f d = f d l := by
  induction xs with
  | nil => exact absurd hl (by simp)
  | cons x xs ih =>
    obtain ⟨hx, hn⟩ := List.nodup_cons.mp hn
    rw [List.foldl_cons]
    by_cases h : x = l
    · subst h
      exact foldl_fixed xs fun y hy => ha y (.tail _ hy) fun e => hx (e ▸ hy)
    · rw [hb x (.head _) h]
      exact ih ((List.mem_cons.mp hl).resolve_left fun e => h e.symm) hn (fun y hy => hb y (.tail _ hy)) fun y hy => ha y (.tail _ hy)

/-- No scan of a cage waits to be repeated. -/
def scanDone (d : Dev) (l : Nat) : Dev := dynPut d l { dynOf d l with scan := 0, scanN := 0 }

theorem scanDone_regs (d : Dev) (l : Nat) : (scanDone d l).regs = d.regs := rfl

/-- The device that has lost the module of a cage. -/
def cageLost (d : Dev) (l : Nat) : Dev :=
  fset (moduleRemoved (scanDone d l) l) (Reg.LINK_STATUS l) Fd.LINK_STATUS_latch_closed 0

theorem scanCage_third {d : Dev} {l : Nat} (hp : fbit d (Reg.LINK_STATUS l) Fd.LINK_STATUS_present = true) (hs : (dynOf d l).scan = 0)
    (hn : (dynOf d l).scanN = 2) : scanCage d l false false = cageLost d l := by
  unfold scanCage
  dsimp only
  rw [hp, hs, hn]
  have hold : ((if true = true then 2 else 0) + if fbit d (Reg.LINK_STATUS l) Fd.LINK_STATUS_latch_closed = true then 1 else 0) ≥ 2 := Nat.le_add_right ..
  rw [if_neg (by simp; omega), if_neg (by simp), if_pos (by rfl), if_pos hold]
  rfl

theorem linkStatus_ne {j l : Nat} (hj : j < 128) (hl : l < 128) (h : j ≠ l) : Reg.LINK_STATUS j ≠ Reg.LINK_STATUS l := by
  unfold Reg.LINK_STATUS
  omega

theorem dynOf_dynPut_ne (d : Dev) {j l : Nat} (x : LinkDyn) (h : j ≠ l) : dynOf (dynPut d l x) j = dynOf d j := tget_tset_ne _ _ _ _ h

theorem dynOf_linkStop_ne {d : Dev} {j l s : Nat} (hc : linkCarries d l = false) (h5 : s ≠ 5) (h6 : s ≠ 6) (h : j ≠ l) :
    dynOf (linkStop d l s) j = dynOf d j := by
  rw [linkStop_of_idle hc, dynOf_congr (LinksKept.bellWatch _).lnk, stepTo_of_silent _ _ h5 h6, dynOf_congr (fset_lnk ..), dynMod, dynOf_dynPut_ne _ _ h, dynMod,
    dynOf_dynPut_ne _ _ h]

theorem dynOf_moduleGone_ne (d : Dev) {j l : Nat} (h : j ≠ l) : dynOf (moduleGone d l) j = dynOf d j := by
  rw [moduleGone, dynOf_congr (fset_lnk ..), dynOf_congr (fset_lnk ..), dynMod, dynOf_dynPut_ne _ _ h]

theorem dynOf_moduleGone (d : Dev) (l : Nat) : dynOf (moduleGone d l) l = { dynOf d l with powered := false, again := false } := by
  rw [moduleGone, dynOf_congr (fset_lnk ..), dynOf_congr (fset_lnk ..), dynOf_dynMod_self]

theorem present_moduleGone (d : Dev) (l : Nat) : fbit (moduleGone d l) (Reg.LINK_STATUS l) Fd.LINK_STATUS_present = false := by
  rw [moduleGone, fbit_fset_apart _ _ _ _ (by decide), fbit_fset_self _ _ _ rfl (by decide)]
  rfl

section
variable {d : Dev} {l : Nat} (hs : linkStep d l = 0) (hl : linkLoop d l = 0)
include hs

theorem linkCarries_moduleGone : linkCarries (moduleGone (scanDone d l) l) l = false := by
  rw [linkCarries, linkStep_moduleGone, linkStep_congr (rg_congr (scanDone_regs d l) _), hs]
  rfl

include hl

theorem moduleRemoved_idle : moduleRemoved (scanDone d l) l = linkStop (moduleGone (scanDone d l) l) l 0 := by
  have hloop : linkLoop (moduleGone (scanDone d l) l) l = 0 :=
    (linkLoop_congr ((rg_moduleGone _ (linkCtrl_ne_status l)).trans (rg_congr (scanDone_regs d l) _))).trans hl
  have hform : moduleRemoved (scanDone d l) l =
      let x := if linkCarries (moduleGone (scanDone d l) l) l then linkFault (moduleGone (scanDone d l) l) l Fd.LINK_FAULT_removed else moduleGone (scanDone d l) l
      if linkLoop x l ≠ 0 then x else linkStop x l 0 := rfl
  rw [hform, linkCarries_moduleGone hs]
  simp only [hloop, Bool.false_eq_true, ne_eq, not_true_eq_false, ↓reduceIte]

theorem cageLost_eq : cageLost d l = fset (linkStop (moduleGone (scanDone d l) l) l 0) (Reg.LINK_STATUS l) Fd.LINK_STATUS_latch_closed 0 := by
  rw [cageLost, moduleRemoved_idle hs hl]

theorem present_cageLost : fbit (cageLost d l) (Reg.LINK_STATUS l) Fd.LINK_STATUS_present = false := by
  rw [cageLost_eq hs hl, fbit_fset_apart _ _ _ _ (by decide), fbit_linkStop_idle (linkCarries_moduleGone hs) (by decide) (by decide) (by decide), present_moduleGone]

theorem dynOf_cageLost : (dynOf (cageLost d l) l).powered = false ∧ (dynOf (cageLost d l) l).scanN = 0 := by
  rw [cageLost_eq hs hl, dynOf_congr (fset_lnk ..), dynOf_linkStop_idle (linkCarries_moduleGone hs) (by decide) (by decide), dynOf_moduleGone, scanDone,
    dynOf_dynPut_self]
  exact ⟨rfl, rfl⟩

/-- The other cages are known as before. -/
theorem cageKnown_cageLost {j : Nat} {p la : Bool} (hj : j < 128) (hl128 : l < 128) (hne : j ≠ l) (h : CageKnown d j p la) : CageKnown (cageLost d l) j p la := by
  have hreg : rg (cageLost d l) (Reg.LINK_STATUS j) = rg d (Reg.LINK_STATUS j) := by
    have hst := linkStatus_ne hj hl128 hne
    rw [cageLost_eq hs hl, rg_fset_ne _ _ _ hst, rg_linkStop_idle (linkCarries_moduleGone hs) (by decide) (by decide) (linkReg_status j) hst, rg_moduleGone _ hst,
      rg_congr (scanDone_regs d l)]
  have hdyn : dynOf (cageLost d l) j = dynOf d j := by
    rw [cageLost_eq hs hl, dynOf_congr (fset_lnk ..), dynOf_linkStop_ne (linkCarries_moduleGone hs) (by decide) (by decide) hne, dynOf_moduleGone_ne _ hne, scanDone,
      dynOf_dynPut_ne _ _ hne]
  obtain ⟨hp, hla, hn⟩ := h
  exact ⟨hp.trans (by rw [fbit, fbit, hreg]), hla.trans (by rw [fbit, fbit, hreg]), by rw [hdyn, hn]⟩

end

theorem sidebandScan_chain (d : Dev) (p la : Nat) : sidebandScan d p la true = (List.range 128).foldl (fun d l => scanCage d l (p.testBit l) (la.testBit l)) d := rfl

theorem sidebandScan_known {d : Dev} {p la : Nat} (h : ∀ j, j < 128 → CageKnown d j (p.testBit j) (la.testBit j)) : sidebandScan d p la true = d :=
  foldl_fixed _ fun j hj => scanCage_known (h j (List.mem_range.mp hj))

theorem sidebandScan_lost {d : Dev} {p la l : Nat} (hl : l < 128) (h : ∀ j, j < 128 → j ≠ l → CageKnown d j (p.testBit j) (la.testBit j))
    (hp : fbit d (Reg.LINK_STATUS l) Fd.LINK_STATUS_present = true) (hpl : p.testBit l = false) (hla : la.testBit l = false) (hs : (dynOf d l).scan = 0)
    (hn : (dynOf d l).scanN = 2) (hst : linkStep d l = 0) (hlo : linkLoop d l = 0) : sidebandScan d p la true = cageLost d l := by
  have hat : scanCage d l (p.testBit l) (la.testBit l) = cageLost d l := by rw [hpl, hla, scanCage_third hp hs hn]
  rw [sidebandScan_chain, foldl_one (l := l) (List.mem_range.mpr hl) List.nodup_range]
  · exact hat
  · exact fun j hj hne => scanCage_known (h j (List.mem_range.mp hj) hne)
  · intro j hj hne
    rw [hat]
    exact scanCage_known (cageKnown_cageLost hst hlo (List.mem_range.mp hj) hl hne (h j (List.mem_range.mp hj) hne))

/-! ## LED_REFRESH -/

/-- What a fault light shows: off, lit, or blinking at 4 Hz. -/
def faultLight (d : Dev) (c : Nat) : Bool := if c = 1 then true else if c = 2 then decide (ns d % 250000000 < 125000000) else false

/-- What the two lights of a port show. -/
def portLights (d : Dev) (p : Nat) : Wire :=
  .led p (fbit d (Reg.PORT_LED p) Fd.PORT_LED_locate && decide (ns d % 1000000000 < 500000000))
    (if fget d (Reg.PORT_LED p) Fd.PORT_LED_fault_sw = 0 then faultLight d (ledAuto d p) else if fget d (Reg.PORT_LED p) Fd.PORT_LED_fault_sw = 1 then false
      else if fget d (Reg.PORT_LED p) Fd.PORT_LED_fault_sw = 2 then true else faultLight d 2)

/-- The device that has driven more of its wires. -/
def wired (d : Dev) (ws : List Wire) : Dev := { d with wire := d.wire ++ ws }

/-- Driving wires by what a function of the unchanged device says. -/
theorem foldl_emit {d : Dev} {w : Dev → Nat → Wire} (hw : ∀ ws p, w (wired d ws) p = w d p) (ps : List Nat) (ws : List Wire) :
    ps.foldl (fun e p => emit e (w e p)) (wired d ws) = wired d (ws ++ ps.map (w d)) := by
  induction ps generalizing ws with
  | nil => simp
  | cons p ps ih =>
    have hstep : emit (wired d ws) (w (wired d ws) p) = wired d (ws ++ [w d p]) := by
      rw [hw, emit, wired, wired, List.append_assoc]
    rw [List.foldl_cons, hstep, ih, List.map_cons, List.append_assoc]
    rfl

/-- The same as the model writes it, read from a device that has driven some wires by then. -/
def portLightsOf (d e : Dev) (p : Nat) : Wire :=
  let light := fun c => match c with | 1 => true | 2 => decide (ns d % 250000000 < 125000000) | _ => false
  .led p (fbit e (Reg.PORT_LED p) Fd.PORT_LED_locate && decide (ns d % 1000000000 < 500000000))
    (match fget e (Reg.PORT_LED p) Fd.PORT_LED_fault_sw with
      | 0 => light (ledAuto e p)
      | 1 => false
      | 2 => true
      | _ => decide (ns d % 250000000 < 125000000))

theorem ledRefresh_fold (d : Dev) : ledRefresh d true = (List.range 128).foldl (fun e p => emit e (portLightsOf d e p)) d := rfl

theorem ledAuto_wired (d : Dev) (ws : List Wire) (p : Nat) : ledAuto (wired d ws) p = ledAuto d p := rfl

theorem portLightsOf_wired (d : Dev) (ws : List Wire) (p : Nat) : portLightsOf d (wired d ws) p = portLightsOf d d p := by
  have hreg : (wired d ws).regs = d.regs := rfl
  rw [portLightsOf, portLightsOf, ledAuto_wired, fbit_congr hreg, fget_congr hreg]

theorem portLightsOf_self (d : Dev) (p : Nat) : portLightsOf d d p = portLights d p := by
  have hlight (c : Nat) : (match c with | 1 => true | 2 => decide (ns d % 250000000 < 125000000) | _ => false) = faultLight d c := by
    unfold faultLight
    split <;> simp_all
  have htwo : faultLight d 2 = decide (ns d % 250000000 < 125000000) := rfl
  unfold portLightsOf portLights
  dsimp only
  rw [hlight, htwo]
  split
  next h => rw [h, if_pos rfl]
  next h => rw [h, if_neg (by decide), if_pos rfl]
  next h => rw [h, if_neg (by decide), if_neg (by decide), if_pos rfl]
  next h0 h1 h2 => rw [if_neg h0, if_neg h1, if_neg h2]

theorem ledRefresh_eq (d : Dev) : ledRefresh d true = wired d ((List.range 128).map (portLights d)) := by
  have hself : wired d [] = d := by
    rw [wired, List.append_nil]
  have h := foldl_emit (d := d) (portLightsOf_wired d) (List.range 128) []
  rw [hself, List.nil_append, List.map_congr_left fun p _ => portLightsOf_self d p] at h
  exact (ledRefresh_fold d).trans h

/-! ## ENCAP_FRAME_RECEIVE -/

/-- A fabric frame with its check, its length and its two reserved bytes (R38). -/
def wrapped (f : List Byte) : List Byte := f ++ beBytes 4 (crc32c f) ++ beBytes 2 (f.length + 8) ++ [0, 0]

theorem wrapped_length (f : List Byte) : (wrapped f).length = f.length + 8 := by simp [wrapped]

theorem wrapped_crc (f : List Byte) : field (wrapped f) f.length 4 = crc32c f := by
  rw [wrapped, List.append_assoc, field_at _ _ _ _ 4 rfl (beBytes_length ..), beNat_beBytes]
  exact Nat.mod_eq_of_lt (crc32c_lt f)

theorem wrapped_len {f : List Byte} (h : f.length + 8 < 65536) : field (wrapped f) (f.length + 4) 2 = f.length + 8 := by
  rw [wrapped, field_at _ _ _ _ 2 (by simp) (beBytes_length ..), beNat_beBytes]
  exact Nat.mod_eq_of_lt h

theorem lenOk_le {w : List Byte} (h : lenOk w = true) : w.length ≤ 2216 := by
  unfold lenOk at h
  simp only [Bool.and_eq_true, decide_eq_true_eq] at h
  exact h.1.2

/-- A MAC frame for the device around a fabric frame. -/
def macFrame (d : Dev) (r : Nat) (f : List Byte) : List Byte :=
  macOf d (Reg.RSV_OWN_MAC_0 r) ++ macOf d (Reg.RSV_PEER_MAC_0 r) ++ beBytes 2 (fget d Reg.RSV_ETYPE Fd.RSV_ETYPE_etype) ++ wrapped f

theorem macOf_length (d : Dev) (a : Nat) : (macOf d a).length = 6 := beBytes_length ..

theorem macFrame_length (d : Dev) (r : Nat) (f : List Byte) : (macFrame d r f).length = f.length + 22 := by
  simp [macFrame, macOf_length, wrapped_length]
  omega

theorem macFrame_own (d : Dev) (r : Nat) (f : List Byte) : (macFrame d r f).take 6 = macOf d (Reg.RSV_OWN_MAC_0 r) := by
  rw [macFrame, List.append_assoc, List.append_assoc, List.take_append_of_le_length (macOf_length ..).ge, List.take_of_length_le (macOf_length ..).le]

theorem macFrame_etype (d : Dev) (r : Nat) (f : List Byte) : field (macFrame d r f) 12 2 = fget d Reg.RSV_ETYPE Fd.RSV_ETYPE_etype := by
  have hlt : fget d Reg.RSV_ETYPE Fd.RSV_ETYPE_etype < 2 ^ 16 := bits_lt ..
  rw [macFrame, field_at _ _ _ _ 2 (by simp [macOf_length]) (beBytes_length ..), beNat_beBytes]
  exact Nat.mod_eq_of_lt hlt

theorem macFrame_body (d : Dev) (r : Nat) (f : List Byte) : (macFrame d r f).drop 14 = wrapped f := by
  have h : (macOf d (Reg.RSV_OWN_MAC_0 r) ++ macOf d (Reg.RSV_PEER_MAC_0 r) ++ beBytes 2 (fget d Reg.RSV_ETYPE Fd.RSV_ETYPE_etype)).length = 14 := by
    simp [macOf_length]
  rw [macFrame, List.drop_left' h]

section
variable {d : Dev} {l r : Nat} {mac : List Byte} {fcs : Bool} (hr : rsvOf d l = some r) (hc : linkCarries d l = true) (he : linkEther d l = true)
  (hrun : running d = true) (hu : fbit d (Reg.RSV_CFG r) Fd.RSV_CFG_use = false)
include hr hc he hrun hu

theorem encapReceive_long (h : 9216 < mac.length + 4) :
    encapReceive d l mac fcs = unitFault (bump d Reg.RSV_DROP_CNT) (Reg.RSV_FAULT r) Fd.RSV_FAULT_too_long (128 + r) := by
  unfold encapReceive
  rw [hr]
  dsimp only
  rw [if_neg (by simp [hc, he, hrun, hu]), if_pos h, rsvFault]

theorem encapReceive_other (h : mac.length + 4 ≤ 9216) (ho : fcs = false ∨ mac.take 6 ≠ macOf d (Reg.RSV_OWN_MAC_0 r)) :
    encapReceive d l mac fcs = bump d Reg.RSV_DROP_CNT := by
  unfold encapReceive
  rw [hr]
  dsimp only
  rw [if_neg (by simp [hc, he, hrun, hu]), if_neg (by omega), if_pos]
  rcases ho with ho | ho <;> simp [ho]

theorem encapReceive_frame {f : List Byte} (hmac : mac = macFrame d r f) (hf : fcs = true) (hv : fbit d (Reg.RSV_CFG r) Fd.RSV_CFG_vlan_en = false)
    (hl : lenOk (wrapped f) = true) : encapReceive d l mac fcs = frameIn d l f 0 := by
  have hlen := lenOk_le hl
  rw [wrapped_length] at hlen
  subst hmac hf
  unfold encapReceive
  rw [hr]
  dsimp only
  rw [if_neg (by simp [hc, he, hrun, hu]), if_neg (by rw [macFrame_length]; omega)]
  simp only [hv, Bool.false_eq_true, ↓reduceIte, macFrame_own, macFrame_body, wrapped_length]
  rw [if_neg (by simp [macFrame_etype]), Nat.add_sub_cancel, show f.length + 8 - 4 = f.length + 4 from rfl, wrapped_crc, wrapped_len (by omega)]
  have hf : (wrapped f).take f.length = f := by
    rw [wrapped, List.append_assoc, List.append_assoc, List.take_left' rfl]
  rw [hf, if_neg]
  simp [hl]

end

/-- Settles O39: a scan changes the cage alone whose module is lost (foldl_one, cageKnown_cageLost); the lights are those of the unchanged device. -/
theorem chainsAndEncapsulation : Obligations.ChainsAndEncapsulation := by
  unfold Obligations.ChainsAndEncapsulation
  intro s d known
  refine ⟨fun p la i ha => ⟨?_, fun h => ?_, fun l h hp hpl hla hs hn hst hlo => ?_⟩, fun ha => ?_, fun l r mac fcs hrun hr hc he hu => ⟨fun h => ?_, fun h ho => ?_, fun f hm hf hv hl => ?_⟩⟩
  · rw [exec_sidebandScan]
    exact act_of_eq ha rfl
  · rw [exec_sidebandScan]
    exact act_of_eq ha (sidebandScan_known h)
  · obtain ⟨hpow, hscan⟩ := dynOf_cageLost hst hlo
    refine ⟨cageLost d l.val, ?_, present_cageLost hst hlo, hpow, hscan⟩
    rw [exec_sidebandScan]
    exact act_of_eq ha (sidebandScan_lost l.isLt h hp hpl hla hs hn hst hlo)
  · intro light
    rw [exec_ledRefresh]
    exact act_of_eq ha (ledRefresh_eq d)
  · rw [exec_encapFrameReceive]
    exact act_of_eq (alive_of_running hrun).1 (encapReceive_long hr hc he hrun hu h)
  · rw [exec_encapFrameReceive]
    exact act_of_eq (alive_of_running hrun).1 (encapReceive_other hr hc he hrun hu h ho)
  · rw [exec_encapFrameReceive]
    exact act_of_eq (alive_of_running hrun).1 (encapReceive_frame hr hc he hrun hu hm hf hv hl)

end Sys2Proof.Machine
end

section
/-! PROOFS. Codewords and the messages of the link channel. -/

namespace Sys2Proof.Machine

theorem exec_codewordReceive (l : Fin 128) (cw : List Byte) (seq : BitVec 32) (s : State) :
    exec (.codewordReceive l ⟨cw, seq⟩) s = act (fun d => codewordReceive d l.val cw seq.toNat) s := rfl
theorem exec_linkMessageReceive (l : Fin 128) (m : List Byte) (s : State) : exec (.linkMessageReceive l m) s = act (fun d => linkMessage d l.val m) s := rfl

/-! ## A codeword that decodes -/

theorem linkStatus_ne_corr (l : Nat) : Reg.LINK_STATUS l ≠ Reg.LINK_FEC_CORR_CNT l := by
  unfold Reg.LINK_STATUS Reg.LINK_FEC_CORR_CNT
  omega

/-- What the decoders of the two interleaves say. -/
def cwDecoded (cw : List Byte) : List Decoded := [fecDecode (interleave cw 0), fecDecode (interleave cw 1)]

/-- The data and link control of a codeword that decodes. -/
def cwFixed (cw : List Byte) : List Byte :=
  deinterleave (fixedWord (interleave cw 0) (fecDecode (interleave cw 0))) (fixedWord (interleave cw 1) (fecDecode (interleave cw 1)))

/-- A corrected codeword is counted. -/
def cwCounted (d : Dev) (l : Nat) (cw : List Byte) : Dev := if ∀ y ∈ cwDecoded cw, y = Decoded.clean then d else bump d (Reg.LINK_FEC_CORR_CNT l)

/-- The part of the link channel is gathered. -/
def chanGathered (d : Dev) (l : Nat) (msg : Nat × List Byte) : Dev := dynMod d l (fun y => { y with rxMsg := msg })

/-- The stream goes on after a codeword that was awaited. -/
def streamOn (d : Dev) (l seq : Nat) (f : List (List Byte × Nat) × List Byte × Nat) : Dev :=
  dynMod d l (fun y => { y with rxNext := some ((seq + 1) % 2 ^ 32), nak := false, rxBuf := f.2.1, rxCol := f.2.2, rxCut := y.rxCut && f.1.isEmpty })

/-- The frames that end in a codeword that was awaited are handed over. -/
def cwHanded (e : Dev) (l seq n : Nat) (f : List (List Byte × Nat) × List Byte × Nat) : Dev :=
  if seq = n then f.1.foldl (fun d f => frameReceive d l f.1 f.2) (streamOn e l seq f) else e

theorem codewordTake_eq (d : Dev) (l seq : Nat) (b : List Byte) :
    codewordTake d l seq b =
      let x := dynOf d l
      let m := chanTake x.rxMsg seq ((b.drop 258).take 2)
      let e := chanGathered d l m.1
      let g := cwHanded e l seq (x.rxNext.getD seq) (if linkCarries e l then cwRead x b else ([], [], 0))
      m.2.elim g (linkMessage g l) := by
  unfold codewordTake cwHanded
  dsimp only
  generalize (chanTake (dynOf d l).rxMsg seq ((b.drop 258).take 2)).1 = msg
  by_cases h : seq = (dynOf d l).rxNext.getD seq
  · rw [if_neg (not_not.mpr h), if_pos h]
    cases (chanTake (dynOf d l).rxMsg seq ((b.drop 258).take 2)).2 <;> rfl
  · rw [if_pos h, if_neg h]
    cases (chanTake (dynOf d l).rxMsg seq ((b.drop 258).take 2)).2 <;> rfl

section
variable {d : Dev} {l : Nat} (cw : List Byte)

theorem dynOf_cwCounted : dynOf (cwCounted d l cw) l = dynOf d l := by
  unfold cwCounted
  split
  · rfl
  · exact dynOf_congr (bump_lnk ..) l

theorem linkCarries_cwCounted (m : Nat × List Byte) : linkCarries (chanGathered (cwCounted d l cw) l m) l = linkCarries d l := by
  refine linkCarries_congr ((linkStep_dynMod ..).trans (linkStep_congr ?_))
  unfold cwCounted
  split
  · rfl
  · exact rg_bump_ne _ _ (linkStatus_ne_corr l)

variable (seq : Nat) (hl : l < 96) (h6 : 6 ≤ linkStep d l) (h10 : linkStep d l ≤ 10)
include hl h6 h10

theorem codewordReceive_good (hr : Decoded.bad ∉ cwDecoded cw) : codewordReceive d l cw seq = codewordTake (cwCounted d l cw) l seq (cwFixed cw) := by
  have hany : ([interleave cw 0, interleave cw 1].map fecDecode).any (fun x => decide (x = .bad)) = false := by
    rw [List.any_eq_false]
    exact fun x hx => by
      rw [decide_eq_true_eq]
      exact fun h => hr (h ▸ hx)
  have hall : (([interleave cw 0, interleave cw 1].map fecDecode).all (fun x => decide (x = .clean)) = true) = ∀ y ∈ cwDecoded cw, y = Decoded.clean := by
    rw [List.all_eq_true]
    simp only [decide_eq_true_eq]
    rfl
  unfold codewordReceive
  rw [if_neg (by simp [h6, h10]), if_neg (by omega)]
  dsimp only
  rw [if_neg (by rw [hany]; decide)]
  simp only [hall]
  rfl

theorem codewordReceive_bad (hr : Decoded.bad ∈ cwDecoded cw) : codewordReceive d l cw seq = codewordBad d l seq := by
  have hany : ([interleave cw 0, interleave cw 1].map fecDecode).any (fun x => decide (x = .bad)) = true :=
    List.any_eq_true.mpr ⟨.bad, hr, rfl⟩
  unfold codewordReceive
  rw [if_neg (by simp [h6, h10]), if_neg (by omega)]
  exact if_pos hany

end

/-! ## A codeword that cannot be corrected -/

/-- The device that waits for the replay of a codeword. -/
def awaiting (d : Dev) (l seq : Nat) : Dev :=
  dynPut (bump d (Reg.LINK_FEC_UNCORR_CNT l)) l { dynOf d l with
    uncorr := (dynOf d l).uncorr.filter (fun t => decide (ns d < t + 1000000)) ++ [ns d], nak := true, rxNext := some ((dynOf d l).rxNext.getD seq) }

/-- The NAK that asks for it: the window it rides in, and the last good codeword. -/
def nakMessage (k n : Nat) : List Byte := [0, 0x80] ++ beBytes 4 (16 * k % 2 ^ 32) ++ beBytes 4 ((n + 2 ^ 32 - 1) % 2 ^ 32) ++ List.replicate 22 0

/-- The window of the link channel that starts next. -/
def nextWindow (d : Dev) (l : Nat) : Nat := (txSeq d l + 15) / 16

/-- A message of 32 B: its type, what goes before the body, and padding. -/
theorem message_padded (a b : List Byte) (ha : a.length = 4) (hb : b.length = 4) :
    (padMin 32 (beBytes 1 0 ++ (([0x80] : List Byte) ++ a ++ b) ++ beBytes 4 0 ++ [])).take 32 = ([0, 0x80] : List Byte) ++ a ++ b ++ List.replicate 22 0 := by
  have hlen : (beBytes 1 0 ++ (([0x80] : List Byte) ++ a ++ b) ++ beBytes 4 0 ++ []).length = 14 := by simp [ha, hb]
  unfold padMin
  rw [hlen]
  have h1 : beBytes 1 0 = [0] := rfl
  have h4 : beBytes 4 0 = [0, 0, 0, 0] := rfl
  rw [h1, h4, List.take_of_length_le (by simp [ha, hb])]
  simp

theorem linkMsg_nak {d : Dev} {l n k : Nat} (hl : l < 96) (hn : (dynOf d l).rxNext = some n) : linkMsg d l 0 true (16 * k) [] = nakMessage k n := by
  have hk : 16 * k / 16 * 16 = 16 * k := by omega
  unfold linkMsg nakMessage
  rw [if_pos hl, hn, hk, if_pos rfl]
  exact message_padded _ _ (beBytes_length ..) (beBytes_length ..)

theorem sendMessage_nak {d : Dev} {l n : Nat} (hl : l < 96) (hn : (dynOf d l).rxNext = some n) :
    sendMessage d l 0 true [] = emit (dynMod d l (fun y => { y with chan := some (nextWindow d l, nakMessage (nextWindow d l) n) })) (.message l (nakMessage (nextWindow d l) n)) := by
  rw [← linkMsg_nak hl hn]
  exact if_pos hl

theorem dynOf_awaiting (d : Dev) (l seq : Nat) : (dynOf (awaiting d l seq) l).rxNext = some ((dynOf d l).rxNext.getD seq) := by
  rw [awaiting, dynOf_dynPut_self]

theorem nextWindow_awaiting (d : Dev) (l seq : Nat) : nextWindow (awaiting d l seq) l = nextWindow d l := by
  have hclk : (awaiting d l seq).clk = d.clk := bump_clk d (Reg.LINK_FEC_UNCORR_CNT l) 1
  rw [nextWindow, nextWindow, txSeq, txSeq, ns256_congr hclk, awaiting, dynOf_dynPut_self]

theorem codewordBad_eq {d : Dev} {l seq : Nat} (hc : (dynOf d l).rxCut = true ∨ (dynOf d l).rxBuf.length < 32)
    (hus : ((dynOf d l).uncorr.filter (fun t => decide (ns d < t + 1000000)) ++ [ns d]).length ≤ 64) :
    codewordBad d l seq =
      if (dynOf d l).nak = true ∧ seq ≠ (dynOf d l).rxNext.getD seq then awaiting d l seq else sendMessage (awaiting d l seq) l 0 true [] := by
  have hdyn : dynOf (bump d (Reg.LINK_FEC_UNCORR_CNT l)) l = dynOf d l := dynOf_congr (bump_lnk ..) l
  have hns : ns (bump d (Reg.LINK_FEC_UNCORR_CNT l)) = ns d := ns_congr (bump_clk ..)
  unfold codewordBad
  dsimp only
  rw [hdyn, hns, if_pos (hc.imp id .inl), if_neg (by omega)]
  rfl

/-! ## Acks and NAKs -/

/-- The codewords that are due leave: wires and the links' state alone change. -/
theorem cwPump_only (d : Dev) (l : Nat) : ∃ k w, cwPump d l = { d with lnk := k, wire := w } := by
  unfold cwPump
  dsimp only
  split
  · exact ⟨d.lnk, d.wire, rfl⟩
  · have hfold (cs : List Codeword) (e : Dev) : ∃ w, cs.foldl (fun d c => emit d (.codeword l (c.seq % 2 ^ 32) (cwBytes (cwBody d l c)))) e = { e with wire := w } := by
      refine List.foldlRecOn (motive := fun f : Dev => ∃ w : List Wire, f = { e with wire := w }) cs _ ⟨e.wire, rfl⟩ fun f hf c _ => ?_
      obtain ⟨w, rfl⟩ := hf
      exact ⟨_, rfl⟩
    obtain ⟨w, hw⟩ := hfold ((dynOf d l).txw.filter (fun c => decide ((dynOf d l).txNext ≤ c.seq ∧ c.seq ≤ txSeq d l))) d
    rw [hw]
    exact ⟨_, w, rfl⟩

theorem foldl_emit_lnk {α : Type} (xs : List α) (f : Dev → α → Wire) (d : Dev) : (xs.foldl (fun e x => emit e (f e x)) d).lnk = d.lnk :=
  List.foldlRecOn (motive := fun e : Dev => e.lnk = d.lnk) xs _ rfl fun _ he _ _ => he

theorem dynOf_cwPump (d : Dev) (l : Nat) : ∃ t, dynOf (cwPump d l) l = { dynOf d l with txNext := t } := by
  unfold cwPump
  dsimp only
  split
  · exact ⟨(dynOf d l).txNext, rfl⟩
  · refine ⟨txSeq d l + 1, ?_⟩
    rw [dynOf_dynMod_self, dynOf_congr (foldl_emit_lnk ..)]

/-- The replay buffer after an ack. -/
def acked (x : LinkDyn) (a : Nat) : LinkDyn := { x with naks := x.naks.filter (fun n => decide (a < n.2)), txw := x.txw.filter (fun c => decide (a ≤ c.seq)) }

/-- An ack frees the replay buffer. -/
def ackTaken (d : Dev) (l a : Nat) : Dev := dynPut (cwPump d l) l (acked (dynOf (cwPump d l) l) a)

/-- A NAK older than one acted on. -/
def nakStale (x : LinkDyn) (a : Nat) : Bool :=
  match x.nakAck with
  | some b => decide (a < b)
  | none => false

/-- The sender goes back to a codeword. -/
def wentBackTo (x : LinkDyn) (a hi now : Nat) : LinkDyn :=
  { x with naks := x.naks ++ [(a, hi)], nakAck := some a, txBase := a, txAt := now, txNext := a, txTop := hi }

/-- What a NAK leaves, before its limit is looked at. -/
def nakTaken (d : Dev) (l a : Nat) : Dev :=
  bump (dynPut (cwPump d l) l (wentBackTo (acked (dynOf (cwPump d l) l) a) a (txFresh (cwPump d l) l) (ns256 (cwPump d l)))) (Reg.LINK_REPLAY_CNT l)

/-- An ack or a NAK that names a codeword. The definition is opened as a function: the kernel would otherwise evaluate the 32-bit arithmetic of `ackNext`. -/
theorem replayTake_named {d : Dev} {l ack a : Nat} (nak : Bool) (h : ackNext d l ack = some a) : replayTake d l ack nak =
    if !nak ∨ nakStale (dynOf (cwPump d l) l) a then ackTaken d l a
    else if (acked (dynOf (cwPump d l) l) a).naks.length + 1 ≥ 8 ∧ linkCarries (nakTaken d l a) l then linkRestart (linkFault (nakTaken d l a) l Fd.LINK_FAULT_replay_limit) l
    else nakTaken d l a := by
  have hdef : replayTake = replayTake := rfl
  conv at hdef => rhs; delta replayTake
  rw [congrFun (congrFun (congrFun (congrFun hdef d) l) ack) nak, h]
  rfl

theorem replayTake_ack {d : Dev} {l ack a : Nat} (h : ackNext d l ack = some a) : replayTake d l ack false = ackTaken d l a := by
  rw [replayTake_named false h, if_pos (.inl rfl)]

/-- An ack that names none does nothing. -/
theorem replayTake_none {d : Dev} {l ack : Nat} (nak : Bool) (h : ackNext d l ack = none) : replayTake d l ack nak = d := by
  have hdef : replayTake = replayTake := rfl
  conv at hdef => rhs; delta replayTake
  rw [congrFun (congrFun (congrFun (congrFun hdef d) l) ack) nak, h]

theorem dynOf_ackTaken (d : Dev) (l a : Nat) : ∃ t, dynOf (ackTaken d l a) l = acked { dynOf d l with txNext := t } a := by
  obtain ⟨t, ht⟩ := dynOf_cwPump d l
  exact ⟨t, by rw [ackTaken, dynOf_dynPut_self, ht]⟩

theorem ackTaken_only (d : Dev) (l a : Nat) : ∃ k w, ackTaken d l a = { d with lnk := k, wire := w } := by
  obtain ⟨k, w, h⟩ := cwPump_only d l
  unfold ackTaken
  generalize acked (dynOf (cwPump d l) l) a = y
  rw [h]
  exact ⟨_, w, rfl⟩

theorem replayTake_nak {d : Dev} {l ack a : Nat} (h : ackNext d l ack = some a) (hold : ∀ b, (dynOf d l).nakAck = some b → b ≤ a)
    (hn : ((dynOf d l).naks.filter (fun n => decide (a < n.2))).length < 7) : replayTake d l ack true = nakTaken d l a := by
  obtain ⟨t, ht⟩ := dynOf_cwPump d l
  have hnak : (dynOf (cwPump d l) l).nakAck = (dynOf d l).nakAck := by rw [ht]
  have hnaks : (dynOf (cwPump d l) l).naks = (dynOf d l).naks := by rw [ht]
  have hold' : nakStale (dynOf (cwPump d l) l) a = false := by
    unfold nakStale
    rw [hnak]
    cases hb : (dynOf d l).nakAck with
    | none => rfl
    | some b => exact decide_eq_false (Nat.not_lt.mpr (hold b hb))
  have hfew : (acked (dynOf (cwPump d l) l) a).naks.length < 7 := by
    rw [acked, hnaks]
    exact hn
  rw [replayTake_named true h, hold', if_neg (by decide), if_neg (by omega)]

theorem dynOf_nakTaken (d : Dev) (l a : Nat) : ∃ t hi, dynOf (nakTaken d l a) l = wentBackTo (acked { dynOf d l with txNext := t } a) a hi (ns256 (nakTaken d l a)) := by
  obtain ⟨t, ht⟩ := dynOf_cwPump d l
  have hclk : (nakTaken d l a).clk = (cwPump d l).clk := bump_clk _ (Reg.LINK_REPLAY_CNT l) 1
  refine ⟨t, txFresh (cwPump d l) l, ?_⟩
  rw [ns256_congr hclk, nakTaken, dynOf_congr (bump_lnk ..), dynOf_dynPut_self, ht]

theorem txSeq_nakTaken (d : Dev) (l a : Nat) : txSeq (nakTaken d l a) l = a := by
  obtain ⟨t, hi, h⟩ := dynOf_nakTaken d l a
  rw [txSeq, h]
  simp [wentBackTo]

/-- But for the count of replays a NAK changes the links' state and the wires alone. -/
theorem nakTaken_only (d : Dev) (l a : Nat) :
    OnlyRegs [Reg.LINK_REPLAY_CNT l] { d with lnk := (nakTaken d l a).lnk, wire := (nakTaken d l a).wire } (nakTaken d l a)
      ∧ rg (nakTaken d l a) (Reg.LINK_REPLAY_CNT l) = satInc (rg d (Reg.LINK_REPLAY_CNT l)) 1 := by
  obtain ⟨k, w, h⟩ := cwPump_only d l
  unfold nakTaken
  generalize wentBackTo (acked (dynOf (cwPump d l) l) a) a (txFresh (cwPump d l) l) (ns256 (cwPump d l)) = y
  rw [h]
  exact ⟨rgPut_onlyRegs .., rg_bump_self ..⟩

/-! ## The messages of the link channel -/

/-- The ack or NAK that rides in a message of a T-link is taken. -/
def acksRead (d : Dev) (l : Nat) (m : List Byte) : Dev := if 96 ≤ l then d else replayTake d l (field m 6 4) (bit (byteAt m 1) 7)

section
variable {d : Dev} {l : Nat} {m : List Byte}

theorem acksRead_t {nak : Bool} (hl : l < 96) (hb : bit (byteAt m 1) 7 = nak) : acksRead d l m = replayTake d l (field m 6 4) nak :=
  (if_neg (Nat.not_le.mpr hl)).trans (by rw [hb])

/-- A message without a NAK changes the links' state and the wires alone, and no link is held or let go. -/
theorem acksRead_ack (hb : l < 96 → bit (byteAt m 1) 7 = false) :
    (∃ k w, acksRead d l m = { d with lnk := k, wire := w }) ∧ (dynOf (acksRead d l m) l).held = (dynOf d l).held := by
  by_cases hl : l < 96
  · rw [acksRead_t hl (hb hl)]
    cases ha : ackNext d l (field m 6 4) with
    | none =>
      rw [replayTake_none false ha]
      exact ⟨⟨d.lnk, d.wire, rfl⟩, rfl⟩
    | some a =>
      rw [replayTake_ack ha]
      refine ⟨ackTaken_only d l a, ?_⟩
      obtain ⟨t, ht⟩ := dynOf_ackTaken d l a
      rw [ht]
      rfl
  · rw [acksRead, if_pos (Nat.not_lt.mp hl)]
    exact ⟨⟨d.lnk, d.wire, rfl⟩, rfl⟩

variable (h6 : 6 ≤ linkStep d l) (h10 : linkStep d l ≤ 10) (he : linkEther d l = false)
include h6 h10 he

theorem linkMessage_null (h : byteAt m 0 = 0) : linkMessage d l m = acksRead d l m := by
  unfold linkMessage
  rw [if_neg (by simp [he, h]; omega), h]
  rfl

theorem linkMessage_bell (h : byteAt m 0 = 1) : linkMessage d l m = wordReceive (acksRead d l m) l ((m.drop 14).take 16) := by
  unfold linkMessage
  rw [if_neg (by simp [he, h]; omega), h]
  rfl

theorem linkMessage_ident (h : byteAt m 0 = 2) (hs : linkStep (acksRead d l m) l = 6) (hh : (dynOf (acksRead d l m) l).held = false) :
    linkMessage d l m = identTake (acksRead d l m) l (field ((m.drop 14).take 16) 0 3) (byteAt ((m.drop 14).take 16) 3) (field ((m.drop 14).take 16) 5 8) := by
  unfold linkMessage
  rw [if_neg (by simp [he, h]; omega), h]
  exact if_pos ⟨hs, by rw [← acksRead, hh]; rfl⟩

end

/-! ## IDENT (R407, R410) -/

theorem beNat_lt (bs : List Byte) : beNat bs < 256 ^ bs.length := by
  induction bs using List.reverseRecOn with
  | nil => decide
  | append_singleton bs b ih =>
    have hb : b.toNat < 256 := b.isLt
    rw [beNat_append, List.length_append, List.length_singleton, pow_succ]
    have h1 : beNat [b] = b.toNat := by simp [beNat]
    omega

theorem field_lt (bs : List Byte) (o w : Nat) : field bs o w < 256 ^ w := by
  have hlen : ((bs.drop o).take w).length ≤ w := List.length_take_le ..
  have h := beNat_lt ((bs.drop o).take w)
  calc field bs o w = beNat ((bs.drop o).take w) * 256 ^ (w - ((bs.drop o).take w).length) := rfl
    _ < 256 ^ ((bs.drop o).take w).length * 256 ^ (w - ((bs.drop o).take w).length) := Nat.mul_lt_mul_of_pos_right h (Nat.pow_pos (by decide))
    _ = 256 ^ w := by rw [← pow_add, Nat.add_sub_cancel' hlen]

/-- The peer's identity is recorded. -/
def peerRecorded (d : Dev) (l peer link serial : Nat) : Dev :=
  rg64Put (rgPut d (Reg.LINK_PEER l) (link * 2 ^ 24 + peer)) (Reg.LINK_PEER_SERIAL_0 l) serial

theorem rg_peerRecorded_ne (d : Dev) {l a : Nat} (peer link serial : Nat) (h : a ≠ Reg.LINK_PEER l) (h0 : a ≠ Reg.LINK_PEER_SERIAL_0 l)
    (h4 : a ≠ Reg.LINK_PEER_SERIAL_0 l + 4) : rg (peerRecorded d l peer link serial) a = rg d a := by
  rw [peerRecorded, rg_rg64Put_ne _ _ h0 h4, rg_rgPut_ne _ _ h]

/-- With no expectation set the identity ends step 6. -/
def identEnded (d : Dev) (l peer link serial : Nat) : Dev := stepTo (dynMod (peerRecorded d l peer link serial) l (fun x => { x with held := false })) l 7

theorem identTake_free {d : Dev} {l : Nat} (peer link serial : Nat) (h : linkCtl d l Fd.LINK_CTRL_expect_en = false) :
    identTake d l peer link serial = identEnded d l peer link serial := by
  have hctl : linkCtl (peerRecorded d l peer link serial) l Fd.LINK_CTRL_expect_en = false := by
    rw [linkCtl, fbit, rg_peerRecorded_ne _ _ _ _ (by unfold Reg.LINK_CTRL Reg.LINK_PEER; omega) (by unfold Reg.LINK_CTRL Reg.LINK_PEER_SERIAL_0; omega)
      (by unfold Reg.LINK_CTRL Reg.LINK_PEER_SERIAL_0; omega)]
    exact h
  unfold identTake identCheck
  exact if_neg fun hc => by
    rw [← peerRecorded, hctl] at hc
    exact absurd hc.1 (by decide)

theorem linkStep_identEnded (d : Dev) (l peer link serial : Nat) : linkStep (identEnded d l peer link serial) l = 7 :=
  linkStep_stepTo _ l (by decide) (by decide) (by decide)

theorem rg_identEnded (d : Dev) {l a : Nat} (peer link serial : Nat) (h : a ≠ Reg.LINK_STATUS l) :
    rg (identEnded d l peer link serial) a = rg (peerRecorded d l peer link serial) a := by
  rw [identEnded, rg_stepTo _ l (by decide) (by decide) h, rg_congr (dynMod_regs ..)]

theorem peer_identEnded (d : Dev) (l : Nat) {peer link : Nat} (serial : Nat) (hp : peer < 2 ^ 24) (hl : link < 2 ^ 8) :
    rg (identEnded d l peer link serial) (Reg.LINK_PEER l) = link * 2 ^ 24 + peer := by
  rw [rg_identEnded _ _ _ _ (by unfold Reg.LINK_PEER Reg.LINK_STATUS; omega), peerRecorded, rg_rg64Put_ne _ _ (by unfold Reg.LINK_PEER Reg.LINK_PEER_SERIAL_0; omega)
    (by unfold Reg.LINK_PEER Reg.LINK_PEER_SERIAL_0; omega), rg_rgPut_self]
  omega

theorem serial_identEnded (d : Dev) (l peer link : Nat) {serial : Nat} (h : serial < 2 ^ 64) :
    rg64 (identEnded d l peer link serial) (Reg.LINK_PEER_SERIAL_0 l) = serial := by
  rw [rg64_congr (rg_identEnded d peer link serial (by unfold Reg.LINK_PEER_SERIAL_0 Reg.LINK_STATUS; omega))
    (rg_identEnded d peer link serial (by unfold Reg.LINK_PEER_SERIAL_0 Reg.LINK_STATUS; omega))]
  exact rg64_rg64Put_self _ _ h

/-- An IDENT at step 6 of a link that nobody holds. -/
theorem linkMessage_identified {d : Dev} {l : Nat} {m : List Byte} (hs : linkStep d l = 6) (he : linkEther d l = false) (h : byteAt m 0 = 2)
    (hh : (dynOf d l).held = false) (hx : linkCtl d l Fd.LINK_CTRL_expect_en = false) (hb : l < 96 → bit (byteAt m 1) 7 = false) :
    linkMessage d l m = identEnded (acksRead d l m) l (field ((m.drop 14).take 16) 0 3) (byteAt ((m.drop 14).take 16) 3) (field ((m.drop 14).take 16) 5 8) := by
  obtain ⟨⟨k, w, hk⟩, hheld⟩ := acksRead_ack (d := d) (m := m) hb
  have hregs : (acksRead d l m).regs = d.regs := by rw [hk]
  have hstep : linkStep (acksRead d l m) l = 6 := (linkStep_congr (rg_congr hregs _)).trans hs
  have hctl : linkCtl (acksRead d l m) l Fd.LINK_CTRL_expect_en = false := (fbit_congr hregs _ _).trans hx
  rw [linkMessage_ident (by omega) (by omega) he h hstep (hheld.trans hh), identTake_free _ _ _ hctl]

/-- Settles O37: the kept part of a codeword and the messages are the model's own (codewordTake_eq, sendMessage_nak); an ack and a NAK take the replay buffer
by `ackTaken` and `nakTaken`. -/
theorem codewordsAndMessages : Obligations.CodewordsAndMessages := by
  unfold Obligations.CodewordsAndMessages
  intro s l d x
  refine ⟨fun cw seq ha hl h6 h10 => ?_, fun m ha h6 h10 he => ⟨fun h hs hh hx hb => ?_, fun h hl => ?_, fun a h hl hack => ⟨fun hb => ?_, fun hb hold hn => ?_⟩⟩⟩
  · intro w0 w1 r n
    refine ⟨fun hr => ?_, fun hr hcut => ?_⟩
    · intro b m e f g
      rw [exec_codewordReceive]
      refine act_of_eq ha ((codewordReceive_good cw seq.toNat hl h6 h10 hr).trans ((codewordTake_eq ..).trans ?_))
      dsimp only
      rw [dynOf_cwCounted, linkCarries_cwCounted]
      rfl
    · intro us e k m hus
      rw [exec_codewordReceive]
      refine act_of_eq ha ((codewordReceive_bad cw seq.toNat hl h6 h10 hr).trans ((codewordBad_eq hcut hus).trans ?_))
      rw [sendMessage_nak hl (dynOf_awaiting ..), nextWindow_awaiting]
      rfl
  · have hserial : field ((m.drop 14).take 16) 5 8 < 2 ^ 64 := field_lt ((m.drop 14).take 16) 5 8
    have hpeer : field ((m.drop 14).take 16) 0 3 < 2 ^ 24 := field_lt ((m.drop 14).take 16) 0 3
    have hlink : byteAt ((m.drop 14).take 16) 3 < 2 ^ 8 := BitVec.isLt _
    refine ⟨_, ?_, linkStep_identEnded (acksRead d l m) .., peer_identEnded _ _ _ hpeer hlink, serial_identEnded _ _ _ _ hserial⟩
    rw [exec_linkMessageReceive]
    exact act_of_eq ha (linkMessage_identified hs he h hh hx hb)
  · have hrun := exec_bellWordReceive (s := s) ha l ((m.drop 14).take 16)
    rw [exec_linkMessageReceive, hrun]
    refine act_of_eq ha ((linkMessage_bell h6 h10 he h).trans ?_)
    rw [acksRead, if_pos hl]
  · obtain ⟨k, w, hk⟩ := ackTaken_only d l a
    obtain ⟨t, ht⟩ := dynOf_ackTaken d l a
    refine ⟨ackTaken d l a, ?_, by rw [ht]; rfl, by rw [hk]⟩
    rw [exec_linkMessageReceive]
    exact act_of_eq ha ((linkMessage_null h6 h10 he h).trans ((acksRead_t hl hb).trans (replayTake_ack hack)))
  · obtain ⟨t, hi, hdyn⟩ := dynOf_nakTaken d l a
    obtain ⟨honly, hcnt⟩ := nakTaken_only d l a
    refine ⟨nakTaken d l a, ?_, hcnt, by rw [hdyn]; rfl, txSeq_nakTaken d l a, by rw [hdyn]; rfl, by rw [hdyn]; rfl, honly⟩
    rw [exec_linkMessageReceive]
    exact act_of_eq ha ((linkMessage_null h6 h10 he h).trans ((acksRead_t hl hb).trans (replayTake_nak hack hold hn)))

end Sys2Proof.Machine
end

section
/-! PROOFS. What a register does when it is written leaves the bus alone: the writes that wait in the other blocks stay as they are. So does what a
unit does that leaves live work, and it leaves the referee's windows alone too. -/

namespace Sys2Proof.Machine

/-! ## Runs of steps that leave the bus and the windows alone -/

theorem foldl_bus {α : Type} (xs : List α) {f : Dev → α → Dev} (d : Dev) (h : ∀ e x, (f e x).bus = e.bus) : (xs.foldl f d).bus = d.bus :=
  List.foldlRecOn (motive := fun e : Dev => e.bus = d.bus) xs f rfl fun e he x _ => (h e x).trans he

/-- The bus and the referee's windows are as they were: a proposition of its own, which the kernel compares without running the device. -/
structure BusKept (d e : Dev) : Prop where
  bus : e.bus = d.bus
  windows : ∀ a, WindowReg a → rg e a = rg d a

namespace BusKept

theorem refl (d : Dev) : BusKept d d := ⟨rfl, fun _ _ => rfl⟩
theorem trans {d e f : Dev} (h : BusKept d e) (g : BusKept e f) : BusKept d f := ⟨g.bus.trans h.bus, fun a ha => (g.windows a ha).trans (h.windows a ha)⟩
theorem of_outer {d e : Dev} (h : OuterKept d e) : BusKept d e := ⟨h.bus, h.windows⟩

/-- A change beside the bus and the registers. -/
theorem of_regs {d e : Dev} (hb : e.bus = d.bus) (hr : e.regs = d.regs) : BusKept d e := ⟨hb, fun a _ => rg_congr hr a⟩

theorem foldl {α : Type} (xs : List α) {f : Dev → α → Dev} (d : Dev) (h : ∀ e x, BusKept e (f e x)) : BusKept d (xs.foldl f d) :=
  List.foldlRecOn (motive := BusKept d) xs f (refl d) fun e he x _ => he.trans (h e x)

theorem fset (d : Dev) {a : Nat} (f : Nat × Nat) (v : Nat) (h : ¬WindowReg a) : BusKept d (fset d a f v) :=
  ⟨fset_bus .., fun _ hb => rg_fset_ne d f v fun he => h (he ▸ hb)⟩

theorem bump (d : Dev) {a : Nat} (k : Nat) (h : ¬WindowReg a) : BusKept d (bump d a k) :=
  ⟨bump_bus .., fun _ hb => rg_bump_ne d k fun he => h (he ▸ hb)⟩

theorem unitFault (d : Dev) {a : Nat} (f : Nat × Nat) (n : Nat) (h : ¬WindowReg a) : BusKept d (unitFault d a f n) :=
  (fset d f 1 h).trans (of_outer (OuterKept.raise ..))

/-! ## Desks -/

theorem deskPut (d : Dev) (p : Nat) (x : Desk) : BusKept d (deskPut d p x) := of_regs rfl rfl

theorem accSettle (d : Dev) (p k att c copy : Nat) : BusKept d (accSettle d p k att c copy) := by
  unfold Machine.accSettle
  dsimp only
  repeat' split
  all_goals exact of_regs rfl rfl

theorem chunkBind (d : Dev) (p : Nat) : BusKept d (chunkBind d p) := by
  unfold Machine.chunkBind
  dsimp only
  repeat' split
  all_goals exact of_regs rfl rfl

theorem moveChunk (d : Dev) (p q k att c copy : Nat) : BusKept d (moveChunk d p q k att c copy) := by
  unfold Machine.moveChunk
  exact ((deskPut ..).trans (of_outer (OuterKept.bucketMod ..))).trans (deskPut ..)

theorem loseCopy (d : Dev) (k att c copy : Nat) : BusKept d (loseCopy d k att c copy) := by
  have hcount : BusKept d (Machine.bump (chunkMod (d.fab.desks.foldl (fun d e =>
      freeLanes (Machine.deskPut d e.1 ⟨e.2.queue.filter (fun b => !isBlk b k att c copy), e.2.accs.filter (fun a => !isAcc a k att c copy)⟩)
        (e.2.queue.filter (fun b => isBlk b k att c copy))) d) k c (fun ch => if copy = 0 then { ch with own0 := none } else { ch with own1 := none })) Reg.RFAB_DUAL_LOST_CNT) :=
    ((foldl _ _ fun _ _ => (deskPut ..).trans (of_outer (OuterKept.freeLanes ..))).trans (of_outer (OuterKept.bucketMod ..))).trans (bump _ _ (by decide))
  unfold Machine.loseCopy
  dsimp only
  split
  · exact hcount.trans (accSettle ..)
  · exact hcount

theorem unmap (d : Dev) (p : Nat) : BusKept d (unmap d p) := by
  have hdesk : ¬WindowReg (Reg.DESK_STATUS p) := by unfold Reg.DESK_STATUS; omega
  have hmap (l : Nat) : ¬WindowReg (Reg.RFAB_DESK_MAP l) := by unfold Reg.RFAB_DESK_MAP; omega
  have hfab (e : Dev) (b : List Nat) : BusKept e { e with fab := { e.fab with bench := b } } := of_regs rfl rfl
  unfold Machine.unmap
  split
  · extract_lets l e
    have he : BusKept d e := (fset d Fd.DESK_STATUS_mapped 0 hdesk).trans (fset _ Fd.RFAB_DESK_MAP_mapped 0 (hmap l))
    clear_value e
    exact he.trans (hfab ..)
  · exact refl d

theorem deskTo (d : Dev) (p n : Nat) : BusKept d (deskTo d p n) := fset d _ _ (by unfold Reg.DESK_STATUS; omega)

end BusKept

/-- The end of a desk's drain is noted. -/
def drainTimed (d : Dev) (p : Nat) : Dev :=
  { d with int := { d.int with drains := d.int.drains ++ [(.desk, p, ns d + 1000 * fget1 d Reg.INT_CTRL Fd.INT_CTRL_drain_us)] } }

theorem BusKept.drainTimed (d : Dev) (p : Nat) : BusKept d (drainTimed d p) := of_regs rfl rfl

/-- A desk of work is benched by two runs over the chunks it has: each moves or is lost, and each binds where it has come to. -/
theorem benchDesk_form {d : Dev} {p : Nat} (h : deskState d p = 0) :
    ∃ (xs : List (Nat × Nat × Nat × Nat)) (a : Desk) (f g : Dev → Nat × Nat × Nat × Nat → Dev),
      benchDesk d p = xs.foldl g (deskPut (xs.foldl f (drainTimed (unmap (deskTo d p 1) p) p)) p a)
      ∧ (∀ e x, BusKept e (f e x)) ∧ ∀ e x, BusKept e (g e x) := by
  refine ⟨_, _, _, _, if_neg (not_not.mpr h), fun e x => ?_, fun e x => ?_⟩
  · generalize deskAt _ p = y
    extract_lets helper cover dest
    clear_value dest
    cases dest with
    | some q => exact .moveChunk ..
    | none => exact .loseCopy ..
  · split
    · exact .refl e
    · split
      · exact .chunkBind ..
      · exact .refl e

namespace BusKept

theorem benchDesk (d : Dev) (p : Nat) : BusKept d (benchDesk d p) := by
  by_cases h : deskState d p = 0
  · obtain ⟨xs, a, f, g, heq, hf, hg⟩ := benchDesk_form h
    rw [heq]
    exact (((((deskTo d p 1).trans (unmap ..)).trans (drainTimed ..)).trans (foldl _ _ hf)).trans (deskPut ..)).trans (foldl _ _ hg)
  · rw [show Machine.benchDesk d p = d from if_pos h]
    exact refl d

/-! ## Huddles -/

theorem hudSend (d : Dev) (p : Nat) (f : List Byte) : BusKept d (hudSend d p f) := by
  unfold Machine.hudSend
  extract_lets isEnd
  split
  · exact refl d
  · extract_lets dst g room
    split
    · exact refl d
    · split
      · exact (bump d 1 (by decide)).trans (of_outer (OuterKept.raise ..))
      · refine trans ?_ (of_outer (OuterKept.enqueue ..))
        exact of_regs rfl rfl

theorem hudFan (d : Dev) (g : HGroup) (f : List Byte) : BusKept d (hudFan d g f) := foldl _ _ fun e x => hudSend e x f

theorem hudRecord (d : Dev) (x : HInst) (k : Nat) : BusKept d (hudRecord d x k) := of_outer (OuterKept.append ..)

theorem hgroupNote (d : Dev) (i : Nat) (g : HGroup) : BusKept d (hgroupNote d i g) := of_regs rfl rfl

theorem hudDrop (d : Dev) (x : HInst) (h : Bool) : BusKept d (hudDrop d x h) := by
  have hinst : BusKept d { d with hud := { d.hud with inst := d.hud.inst.filter (fun y => !(decide (y.group = x.group ∧ y.start = x.start))) } } := of_regs rfl rfl
  exact (hinst.trans (bump (a := Reg.HUD_INST_CNT) _ 1 (by decide))).trans (hgroupNote ..)

theorem hudFail (d : Dev) (x : HInst) : BusKept d (hudFail d x) := by
  have hdrop : BusKept d (Machine.hudDrop (raise d 898) x true) := (of_outer (OuterKept.raise ..)).trans (hudDrop ..)
  unfold Machine.hudFail
  dsimp only
  split
  · exact (hdrop.trans (hudRecord ..)).trans (hudFan ..)
  · exact hdrop.trans (hudSend ..)

theorem hudFence (d : Dev) (u : Nat) : BusKept d (hudFence d u) := by
  have hset : BusKept d (Machine.fset d (Reg.HUD_UNIT_STATUS u) Fd.HUD_UNIT_STATUS_state 1) := fset d _ 1 (by unfold Reg.HUD_UNIT_STATUS; omega)
  unfold Machine.hudFence
  generalize Machine.fset d (Reg.HUD_UNIT_STATUS u) Fd.HUD_UNIT_STATUS_state 1 = e at hset
  split
  · exact refl d
  · refine trans (hset.trans ?_) (foldl _ _ hudFail)
    exact of_regs rfl rfl

/-! ## Memory -/

theorem stkReg {a k : Nat} (h : a = Reg.HBM_STK_STATUS k ∨ a = Reg.HBM_STK_FAULT k) : ¬WindowReg a := by
  unfold Reg.HBM_STK_STATUS Reg.HBM_STK_FAULT at h
  omega

theorem evacBits (d : Dev) : BusKept d (evacBits d) := by
  refine foldl _ _ fun e k => ?_
  dsimp only
  split
  · exact refl e
  · exact fset e _ _ (stkReg (.inl rfl))

/-- The evacuations of a memory show. -/
theorem evacShown (d : Dev) (m : Memory) : BusKept d (Machine.evacBits { d with mem := m }) :=
  have hmem : BusKept d { d with mem := m } := of_regs rfl rfl
  hmem.trans (evacBits _)

theorem evacStart (d : Dev) (i w : Nat) (why : EvacWhy) : BusKept d (evacStart d i w why) := by
  unfold Machine.evacStart
  split
  · exact refl d
  · extract_lets r src same dest e
    split
    · exact (evacShown d _).trans (fset _ _ _ (stkReg (.inr rfl)))
    · exact evacShown d _

theorem evacStack (d : Dev) (k : Nat) (why : EvacWhy) : BusKept d (evacStack d k why) := by
  refine foldl _ _ fun e x => ?_
  split
  · refine foldl _ _ fun f w => ?_
    split
    · exact evacStart ..
    · exact refl f
  · exact refl e

theorem fenceStack (d : Dev) (k : Nat) : BusKept d (fenceStack d k) := by
  have hset : BusKept d (Machine.fset d (Reg.HBM_STK_STATUS k) Fd.HBM_STK_STATUS_state 4) := fset d _ 4 (stkReg (.inl rfl))
  unfold Machine.fenceStack
  generalize Machine.fset d (Reg.HBM_STK_STATUS k) Fd.HBM_STK_STATUS_state 4 = e at hset
  exact (hset.trans (evacShown e _)).trans (unitFault _ _ _ (stkReg (.inr rfl)))

theorem fenceCheck (d : Dev) (k : Nat) : BusKept d (fenceCheck d k) := by
  unfold Machine.fenceCheck
  split
  · exact fenceStack ..
  · exact refl d

theorem fenceBegin (d : Dev) (k : Nat) : BusKept d (fenceBegin d k) := by
  unfold Machine.fenceBegin
  split
  · exact refl d
  · refine trans (trans ?_ (evacStack ..)) (fenceCheck ..)
    exact of_regs rfl rfl

end BusKept

theorem hudFence_bus (d : Dev) (u : Nat) : (hudFence d u).bus = d.bus := (BusKept.hudFence d u).bus

theorem fenceBegin_bus (d : Dev) (k : Nat) : (fenceBegin d k).bus = d.bus := (BusKept.fenceBegin d k).bus

theorem unfence_bus (d : Dev) (k : Nat) : (unfence d k).bus = d.bus := by
  unfold unfence
  split
  · exact fset_bus ..
  · rfl

/-! ## The referee -/

theorem ctrlStored_bus (d : Dev) (l new v : Nat) : (ctrlStored d l new v).bus = d.bus := by
  unfold ctrlStored
  dsimp only
  split
  all_goals simp only [dynMod, dynPut, fset_bus, bump_bus, rgPut_bus]

theorem linkCtrlWrite_bus (d : Dev) (l new v : Nat) : (linkCtrlWrite d l new v).bus = d.bus := (linkCtrlWrite_left ..).bus.trans (ctrlStored_bus ..)

theorem queueTest_bus (d : Dev) (k : FtKind) (t : Nat) (m : Bool) : (queueTest d k t m).bus = d.bus := by
  have hdrop : (raise (bump d Reg.INT_FT_DROP_CNT) 955).bus = d.bus := (raise_bus ..).trans (bump_bus ..)
  unfold queueTest
  dsimp only
  split
  · rfl
  · split
    · split
      · rfl
      · split <;> exact hdrop
    · rfl

theorem fenceLeave_bus (d : Dev) (n : Nat) : (fenceLeave d n).bus = d.bus := by
  unfold fenceLeave
  split
  · exact linkCtrlWrite_bus ..
  · repeat' split
    iterate 6 exact queueTest_bus ..
    rfl

theorem srcLeave_bus (d : Dev) (n : Nat) (c : Src) : (srcLeave d n c).bus = d.bus := by
  unfold srcLeave
  split
  · exact fenceLeave_bus ..
  · rfl

theorem refAck_bus (d : Dev) (n : Nat) : (refAck d n).bus = d.bus := by
  unfold refAck
  dsimp only
  split
  · exact refNote_bus ..
  · split
    · exact (refNote_bus ..).trans (bump_bus _ Reg.REF_LATE_ACK_CNT 1)
    · exact bump_bus ..

theorem refClear_bus (d : Dev) (n : Nat) : (refClear d n).bus = d.bus := by
  unfold refClear
  dsimp only
  split
  · exact (srcLeave_bus ..).trans (refNote_bus ..)
  · rfl

theorem refRaise_bus (d : Dev) (n : Nat) : (refRaise d n).bus = d.bus := by
  unfold refRaise
  split
  · exact raise_bus ..
  · exact fset_bus ..

/-! ## The host, the mirror and the bell -/

theorem rxOn_bus (d : Dev) : (rxOn d).bus = d.bus := by
  have hset := (fset_bus (fset d Reg.CMD_RX_HEAD Fd.CMD_RX_HEAD_head 0) Reg.CMD_RX_TAIL Fd.CMD_RX_TAIL_tail 0).trans (fset_bus ..)
  unfold rxOn
  generalize fset (fset d Reg.CMD_RX_HEAD Fd.CMD_RX_HEAD_head 0) Reg.CMD_RX_TAIL Fd.CMD_RX_TAIL_tail 0 = e at hset
  exact hset

theorem rxOff_bus (d : Dev) : (rxOff d).bus = d.bus := by
  unfold rxOff
  refine foldl_bus _ _ fun e b => ?_
  exact (OuterKept.raiseOnce ..).bus.trans (OuterKept.poolFreeGrans ..).bus

theorem cmdCtrl_bus (d : Dev) (o n : Nat) : (cmdCtrl d o n).bus = d.bus := by
  unfold cmdCtrl
  dsimp only
  split
  · exact (rxOn_bus ..).trans (rgPut_bus ..)
  · split
    · exact (rxOff_bus ..).trans (rgPut_bus ..)
    · exact rgPut_bus ..

theorem mirrorOff_bus (d : Dev) : (mirrorOff d).bus = d.bus := by
  have hset := fset_bus d Reg.CKP_STATUS Fd.CKP_STATUS_partner_state 0
  unfold mirrorOff partnerTo
  generalize fset d Reg.CKP_STATUS Fd.CKP_STATUS_partner_state 0 = e at hset
  dsimp only
  split
  · exact hset
  · rfl

theorem ckpCtrl_bus (d : Dev) (o n : Nat) : (ckpCtrl d o n).bus = d.bus := by
  unfold ckpCtrl
  dsimp only
  split
  · exact (mirrorOff_bus ..).trans (rgPut_bus ..)
  · exact rgPut_bus ..

theorem bellLoad_bus (d : Dev) (t : Nat) : (bellLoad d t).bus = d.bus := rfl

theorem bellSet_bus (d : Dev) : (bellSet d).bus = d.bus := by
  unfold bellSet
  split
  · exact bellLoad_bus ..
  · exact fset_bus ..

theorem bellTo_bus (d : Dev) (n : Nat) : (bellTo d n).bus = d.bus := fset_bus ..

/-- A change of the bell's state beside its registers. -/
theorem bellState_bus (d : Dev) (b : Bell) : ({ d with bell := b } : Dev).bus = d.bus := rfl

theorem bellEnable_bus (d : Dev) (on : Bool) : (bellEnable d on).bus = d.bus := by
  unfold bellEnable
  extract_lets b e
  have he : e.bus = d.bus := bellState_bus ..
  clear_value e
  split
  · rw [(OuterKept.bellWatch _).bus, bellTo_bus, he]
  · rw [rgPut_bus, bellTo_bus, he]

theorem bellCtrl_bus (d : Dev) (o : Nat) (w : Wr) : (bellCtrl d o w).bus = d.bus := by
  unfold bellCtrl
  extract_lets new e f b g
  have he : e.bus = d.bus := rgPut_bus ..
  have hf : f.bus = d.bus := by
    unfold f
    split
    · exact (bellSet_bus e).trans he
    · exact he
  have hg : g.bus = d.bus := by
    unfold g
    split
    · exact hf
    · exact hf
  clear_value g
  split
  · exact (bellEnable_bus ..).trans hg
  · exact hg

theorem tickGo_bus (d : Dev) (o : Nat) : (tickGo d o).bus = d.bus := by
  unfold tickGo
  dsimp only
  split
  · exact fset_bus ..
  · exact (fset_bus ..).trans (rgPut_bus ..)

theorem stepArm_bus (d : Dev) (o : Nat) : (stepArm d o).bus = d.bus := by
  have hset := fset_bus d Reg.BELL_STEP_CTRL Fd.BELL_STEP_CTRL_arm 1
  unfold stepArm
  generalize fset d Reg.BELL_STEP_CTRL Fd.BELL_STEP_CTRL_arm 1 = e at hset
  dsimp only
  split
  · exact hset
  · exact (fset_bus ..).trans (rgPut_bus ..)

theorem stepCtrl_bus (d : Dev) (o n : Nat) : (stepCtrl d o n).bus = d.bus := by
  have hput := rgPut_bus d Reg.BELL_STEP_CTRL n
  unfold stepCtrl
  generalize rgPut d Reg.BELL_STEP_CTRL n = e at hput
  dsimp only
  split
  · exact (stepArm_bus ..).trans hput
  all_goals exact hput

/-! ## Ports and links -/

theorem portDown_bus (d : Dev) (p : Nat) : (portDown d p).bus = d.bus := by
  have hflush : OuterKept d (flushMetro ((portEgs d p).foldl flushEgress d) p) := (OuterKept.foldl _ d OuterKept.flushEgress).trans (.flushMetro ..)
  have hmarks : OuterKept d ((portMarks d p).foldl (fun d k => markSkipped d k.1.1 k.1.2 p k.2) (flushMetro ((portEgs d p).foldl flushEgress d) p)) :=
    hflush.trans (.foldl _ _ fun _ _ => .markSkipped ..)
  unfold portDown
  dsimp only
  split
  · exact (hmarks.trans ((OuterKept.portFenced ..).trans (.hudPortFenced ..))).bus
  · exact hmarks.bus

/-- A change of the modes that ports are to take. -/
theorem modeNext_bus (d : Dev) (r : Routing) : ({ d with rte := r } : Dev).bus = d.bus := rfl

theorem portCfgWrite_bus (d : Dev) (p new : Nat) : (portCfgWrite d p new).bus = d.bus := by
  unfold portCfgWrite
  extract_lets a old kind badKind w badEn w' w'' m e
  have he : e.bus = d.bus := by
    unfold e
    split
    · exact modeNext_bus ..
    · rfl
  clear_value e
  split
  · exact (rgPut_bus ..).trans ((portDown_bus ..).trans he)
  · exact (rgPut_bus ..).trans he

theorem linkPortWrite_bus (d : Dev) (l new : Nat) : (linkPortWrite d l new).bus = d.bus := by
  unfold linkPortWrite
  extract_lets a old names busy
  clear_value busy
  split <;> exact rgPut_bus ..

theorem rteSelfWrite_bus (d : Dev) (new : Nat) : (rteSelfWrite d new).bus = d.bus := by
  unfold rteSelfWrite
  split
  · rfl
  · exact rgPut_bus ..

theorem rsvCfgWrite_bus (d : Dev) (r new : Nat) : (rsvCfgWrite d r new).bus = d.bus := by
  unfold rsvCfgWrite
  dsimp only
  split <;> exact rgPut_bus ..

theorem resync_bus (d : Dev) : (resync d).bus = d.bus := rfl

theorem gateDisable_bus (d : Dev) (p : Nat) : (gateDisable d p).bus = d.bus := fset_bus ..

theorem mirrorWrite_bus (d : Dev) (m new : Nat) : (mirrorWrite d m new).bus = d.bus := by
  unfold mirrorWrite
  dsimp only
  split <;> exact rgPut_bus ..

theorem quotaWrite_bus (d : Dev) (k old new : Nat) : (quotaWrite d k old new).bus = d.bus := by
  unfold quotaWrite
  dsimp only
  split <;> exact rgPut_bus ..

theorem thermWrite_bus (d : Dev) (old new : Nat) : (thermWrite d old new).bus = d.bus := by
  unfold thermWrite
  dsimp only
  split <;> exact rgPut_bus ..

theorem benchGo_bus (d : Dev) (p : Nat) : (benchGo d p).bus = d.bus := by
  unfold benchGo
  dsimp only
  split
  · exact (BusKept.benchDesk ..).bus.trans ((fset_bus ..).trans (fset_bus ..))
  · exact (fset_bus ..).trans (fset_bus ..)

theorem dynMod_bus (d : Dev) (l : Nat) (f : LinkDyn → LinkDyn) : (dynMod d l f).bus = d.bus := rfl

theorem identCheck_bus (d : Dev) (l : Nat) : (identCheck d l).bus = d.bus := by
  unfold identCheck
  split
  · exact (linkFault_left ..).bus.trans (dynMod_bus ..)
  · exact (stepTo_left _ l (by decide) (by decide)).bus.trans (dynMod_bus ..)

theorem linkExpectWrite_bus (d : Dev) (l new : Nat) : (linkExpectWrite d l new).bus = d.bus := by
  unfold linkExpectWrite
  dsimp only
  split
  · exact (identCheck_bus ..).trans (rgPut_bus ..)
  · exact rgPut_bus ..

/-! ## The blocks' own commands -/

theorem cntClear_bus (d : Dev) (kind inst base : Nat) : (cntClear d kind inst base).bus = d.bus := rfl
theorem lockFail_bus (d : Dev) (base : Nat) : (lockFail d base).bus = d.bus := (fset_bus ..).trans (bump_bus d (Reg.BLK_LOCK_FAIL_CNT base) 1)
theorem denyWrite_bus (d : Dev) (base : Nat) : (denyWrite d base).bus = d.bus := (fset_bus ..).trans (bump_bus d (Reg.BLK_WORLD_DENY_CNT base) 1)

theorem unlockWrite_bus (d : Dev) (who : Req) (base v : Nat) : (unlockWrite d who base v).bus = d.bus := by
  unfold unlockWrite
  split
  · exact fset_bus ..
  · exact (lockFail_bus ..).trans (fset_bus ..)

end Sys2Proof.Machine
end

section
/-! PROOFS. The fabric reset (R567): what it keeps, and what it puts at its reset values. -/

namespace Sys2Proof.Machine

/-- The registers that what a reset restores is not written to: those of the blocks that keep theirs, the referee's status and the bell's. -/
abbrev KeptReg (a : Nat) : Prop := (0x4000 ≤ a ∧ a < 0x10000) ∨ a = Reg.REF_STATUS ∨ a = Reg.BELL_STATUS

/-- A change of other registers and of what the fabric's desks hold. -/
structure ResetKept (d e : Dev) : Prop where
  rest : { e with regs := d.regs, fab := d.fab } = d
  reg : ∀ a, KeptReg a → rg e a = rg d a

namespace ResetKept

theorem refl (d : Dev) : ResetKept d d := ⟨rfl, fun _ _ => rfl⟩

theorem trans {d e f : Dev} (h : ResetKept d e) (g : ResetKept e f) : ResetKept d f :=
  ⟨(congrArg (fun x : Dev => { x with regs := d.regs, fab := d.fab }) g.rest).trans h.rest, fun a ha => (g.reg a ha).trans (h.reg a ha)⟩

theorem congr {d e : Dev} (h : ResetKept d e) {α : Type} (g : Dev → α) (hg : ∀ x r b, g { x with regs := r, fab := b } = g x) : g e = g d :=
  (hg e d.regs d.fab).symm.trans (congrArg g h.rest)

theorem foldl {α : Type} (xs : List α) {f : Dev → α → Dev} (d : Dev) (h : ∀ e, ∀ x ∈ xs, ResetKept e (f e x)) : ResetKept d (xs.foldl f d) :=
  List.foldlRecOn (motive := ResetKept d) xs f (refl d) fun e he x hx => he.trans (h e x hx)

theorem rgPut (d : Dev) {a : Nat} (v : Nat) (h : ¬KeptReg a) : ResetKept d (rgPut d a v) :=
  ⟨rfl, fun _ hb => rg_rgPut_ne d v fun he => h (he ▸ hb)⟩

theorem fset (d : Dev) {a : Nat} (f : Nat × Nat) (v : Nat) (h : ¬KeptReg a) : ResetKept d (fset d a f v) := rgPut d _ h

theorem rg64Put (d : Dev) {a : Nat} (v : Nat) (h : ¬KeptReg a) (h4 : ¬KeptReg (a + 4)) : ResetKept d (rg64Put d a v) :=
  (rgPut d _ h).trans (rgPut _ _ h4)

end ResetKept

section
variable (p : Nat)
theorem not_kept_desk : ¬KeptReg (Reg.DESK_STATUS p) := by unfold KeptReg Reg.DESK_STATUS Reg.REF_STATUS Reg.BELL_STATUS; omega
theorem not_kept_map : ¬KeptReg (Reg.RFAB_DESK_MAP p) := by unfold KeptReg Reg.RFAB_DESK_MAP Reg.REF_STATUS Reg.BELL_STATUS; omega
theorem not_kept_engine : ¬KeptReg (Reg.LSN_ENG_STATUS p) := by unfold KeptReg Reg.LSN_ENG_STATUS Reg.REF_STATUS Reg.BELL_STATUS; omega
theorem not_kept_huddle : ¬KeptReg (Reg.HUD_UNIT_STATUS p) := by unfold KeptReg Reg.HUD_UNIT_STATUS Reg.REF_STATUS Reg.BELL_STATUS; omega
theorem not_kept_retired : ¬KeptReg (Reg.HBM_STK_RETIRED p) := by unfold KeptReg Reg.HBM_STK_RETIRED Reg.REF_STATUS Reg.BELL_STATUS; omega
end

/-! ## Dead units stay dead (R567) -/

theorem fabPut_kept (d : Dev) (b : Fabric) : ResetKept d { d with fab := b } := ⟨rfl, fun _ _ => rfl⟩

/-- A logical desk that names its physical one. -/
def mapWritten (d : Dev) (l p : Nat) : Dev := fset (fset d (Reg.RFAB_DESK_MAP l) Fd.RFAB_DESK_MAP_phys p) (Reg.RFAB_DESK_MAP l) Fd.RFAB_DESK_MAP_mapped 1

/-- A physical desk that works for a logical one. -/
def deskMapped (d : Dev) (l p : Nat) : Dev :=
  fset (fset (deskTo d p 0) (Reg.DESK_STATUS p) Fd.DESK_STATUS_logical l) (Reg.DESK_STATUS p) Fd.DESK_STATUS_mapped 1

theorem mapTo_form (d : Dev) (l p : Nat) : ∃ b, mapTo d l p = { deskMapped (mapWritten d l p) l p with fab := b } := ⟨_, rfl⟩

theorem mapTo_kept (d : Dev) (l p : Nat) : ResetKept d (mapTo d l p) := by
  have hmap : ResetKept d (mapWritten d l p) := (ResetKept.fset d _ _ (not_kept_map l)).trans (.fset _ _ _ (not_kept_map l))
  have hdesk : ResetKept (mapWritten d l p) (deskMapped (mapWritten d l p) l p) :=
    ((ResetKept.fset _ _ _ (not_kept_desk p)).trans (.fset _ _ _ (not_kept_desk p))).trans (.fset _ _ _ (not_kept_desk p))
  obtain ⟨b, h⟩ := mapTo_form d l p
  rw [h]
  exact (hmap.trans hdesk).trans (fabPut_kept _ b)

theorem remap_kept (d : Dev) (good : List Nat) : ResetKept d (remap d good) := by
  refine ResetKept.foldl _ d fun e l _ => ?_
  split
  · exact mapTo_kept ..
  · have hmap := ResetKept.fset e Fd.RFAB_DESK_MAP_mapped 0 (not_kept_map l)
    generalize fset e (Reg.RFAB_DESK_MAP l) Fd.RFAB_DESK_MAP_mapped 0 = f at hmap
    exact hmap.trans (fabPut_kept f _)

theorem keepDead_kept (d e : Dev) : ResetKept e (keepDead d e) := by
  unfold keepDead
  extract_lets dead good e1 e2 e3
  have h1 : ResetKept e e1 := .foldl _ _ fun x p _ => (ResetKept.fset x _ _ (not_kept_desk p)).trans (.fset _ _ _ (not_kept_desk p))
  have h2 : ResetKept e1 e2 := by
    unfold e2
    split
    · exact .refl _
    · exact remap_kept ..
  have h3 : ResetKept e2 e3 := .foldl _ _ fun x g _ => by
    split
    · exact .fset _ _ _ (not_kept_engine g)
    · exact .refl _
  refine ((h1.trans h2).trans h3).trans (.foldl _ _ fun x u _ => ?_)
  split
  · exact .fset _ _ _ (not_kept_huddle u)
  · exact .refl _

/-! ### Dead desks -/

theorem desk_ne_desk {p q : Nat} (h : q ≠ p) : Reg.DESK_STATUS q ≠ Reg.DESK_STATUS p := by unfold Reg.DESK_STATUS; omega
theorem map_low {l : Nat} (h : l < 256) : Reg.RFAB_DESK_MAP l < 0x180100 := by unfold Reg.RFAB_DESK_MAP; omega
theorem engine_low {g : Nat} (h : g < 64) : Reg.LSN_ENG_STATUS g < 0x180100 := by unfold Reg.LSN_ENG_STATUS; omega
theorem huddle_low {u : Nat} (h : u < 16) : Reg.HUD_UNIT_STATUS u < 0x180100 := by unfold Reg.HUD_UNIT_STATUS; omega

theorem deskState_fset_desk (d : Dev) {p q : Nat} (f : Nat × Nat) (v : Nat) (h : q ≠ p) : deskState (fset d (Reg.DESK_STATUS p) f v) q = deskState d q :=
  deskState_of_rg (rg_fset_ne d f v (desk_ne_desk h))

theorem deskState_fab (d : Dev) (b : Fabric) (q : Nat) : deskState { d with fab := b } q = deskState d q := rfl

theorem deskState_mapTo_ne (d : Dev) {l p q : Nat} (hl : l < 256) (h : q ≠ p) : deskState (mapTo d l p) q = deskState d q := by
  obtain ⟨b, hf⟩ := mapTo_form d l p
  rw [hf, deskState_fab, deskMapped, deskState_fset_desk _ _ _ h, deskState_fset_desk _ _ _ h, deskTo, deskState_fset_desk _ _ _ h, mapWritten,
    deskState_fset_ne _ _ _ _ (map_low hl), deskState_fset_ne _ _ _ _ (map_low hl)]

/-- A run of steps that leaves the state of a desk. -/
theorem foldl_deskState {α : Type} (xs : List α) {f : Dev → α → Dev} {q : Nat} (d : Dev) (h : ∀ e, ∀ x ∈ xs, deskState (f e x) q = deskState e q) :
    deskState (xs.foldl f d) q = deskState d q :=
  List.foldlRecOn (motive := fun e : Dev => deskState e q = deskState d q) xs f rfl fun e he x hx => (h e x hx).trans he

theorem deskState_remap {good : List Nat} {q : Nat} (h : q ∉ good) (d : Dev) : deskState (remap d good) q = deskState d q := by
  refine foldl_deskState _ d fun e l hl => ?_
  have hl := List.mem_range.mp hl
  split
  case h_1 p hp => exact deskState_mapTo_ne e hl fun hq => h (hq ▸ List.mem_of_getElem? hp)
  case h_2 =>
    have hmap := deskState_fset_ne e q Fd.RFAB_DESK_MAP_mapped 0 (map_low hl)
    generalize fset e (Reg.RFAB_DESK_MAP l) Fd.RFAB_DESK_MAP_mapped 0 = f at hmap
    exact (deskState_fab f _ q).trans hmap

/-- A desk taken out for good. -/
def deskDead (d : Dev) (p : Nat) : Dev := deskTo (fset d (Reg.DESK_STATUS p) Fd.DESK_STATUS_mapped 0) p 5

theorem deskState_deskDead (d : Dev) (p q : Nat) (h : q = p ∨ deskState d q = 5) : deskState (deskDead d p) q = 5 := by
  by_cases hq : q = p
  · subst hq
    exact deskState_deskTo_self _ q (by decide)
  · rw [deskDead, deskTo, deskState_fset_desk _ _ _ hq, deskState_fset_desk _ _ _ hq]
    exact h.resolve_left hq

theorem deskState_dead {ps : List Nat} {q : Nat} (d : Dev) (h : q ∈ ps ∨ deskState d q = 5) : deskState (ps.foldl deskDead d) q = 5 := by
  induction ps generalizing d with
  | nil => exact h.resolve_left List.not_mem_nil
  | cons p ps ih =>
    rw [List.foldl_cons]
    refine ih _ ?_
    by_cases hq : q ∈ ps
    · exact .inl hq
    · exact .inr (deskState_deskDead d p q (h.imp_left fun hm => (List.mem_cons.mp hm).resolve_right hq))

theorem deskState_keepDead {d : Dev} {q : Nat} (e : Dev) (hq : q < 272) (h : deskState d q = 5) : deskState (keepDead d e) q = 5 := by
  unfold keepDead
  extract_lets dead good e1 e2 e3
  have hdead : q ∈ dead ∨ deskState e q = 5 := by
    by_cases he : deskState e q = 5
    · exact .inr he
    · exact .inl (List.mem_filter.mpr ⟨List.mem_range.mpr hq, by simp [h, he]⟩)
  have hgood : q ∉ good := fun hm => by
    obtain ⟨-, hm⟩ := List.mem_filter.mp hm
    simp only [Bool.and_eq_true, decide_eq_true_eq, Bool.not_eq_true', List.contains_eq_mem, decide_eq_false_iff_not] at hm
    rcases hdead with hd | he
    · exact hm.2 hd
    · omega
  have h1 : deskState e1 q = 5 := deskState_dead e hdead
  have h2 : deskState e2 q = 5 := by
    unfold e2
    split
    · exact h1
    · exact (deskState_remap hgood e1).trans h1
  have h3 : deskState e3 q = 5 := (foldl_deskState _ _ fun x g hg => by
    split
    · exact deskState_fset_ne x q _ _ (engine_low (List.mem_range.mp hg))
    · rfl).trans h2
  refine (foldl_deskState _ _ fun x u hu => ?_).trans h3
  split
  · exact deskState_fset_ne x q _ _ (huddle_low (List.mem_range.mp hu))
  · rfl

/-! ## The reset -/

/-- What a reset decides, beside the registers and the desks. -/
def contents (e : Dev) := (e.seq, e.rte, e.tm, e.cmd, e.ckp, e.lnk, e.ref.src, e.clk.now, e.log, e.mem.hbm, e.mem.regions, e.sit, e.bus.posted)

/-- The device of which a reset keeps the log, the regions of software and Sitonel. -/
def contentsReset (d : Dev) :=
  (Dev.reset.seq, Dev.reset.rte, Dev.reset.tm, Dev.reset.cmd, Dev.reset.ckp, Dev.reset.lnk, ([] : List (Nat × Src)), 0, d.log, d.mem.hbm,
    d.mem.regions.filter (fun r => !(decide (r.1 = 1 ∨ r.1 = 2 ∨ r.1 = 4 ∨ r.1 = 5))), sitRebase d, d.bus.posted.filter (fun e => e.1 < 0x10000))

/-- A fabric that shows that its reset runs. -/
def resetShown (d : Dev) : Dev := rgPut (fset (fset d Reg.TOP_STATUS Fd.TOP_STATUS_ready 0) Reg.TOP_STATUS Fd.TOP_STATUS_reset_busy 1) Reg.TOP_RESET_CAUSE 2

theorem fabricReset_form (d : Dev) : ∃ e n, fabricReset d = resetShown (rg64Put (keepDead d (keepRetired d (keepHbm d e))) Reg.RECORD_SEQ_0 n)
    ∧ contents e = contentsReset d ∧ e.regs = d.regs.filter fun e => decide (e.1 < 0x10000) := by
  unfold fabricReset
  split
  · exact ⟨_, _, rfl, rfl, rfl⟩
  · exact ⟨_, _, rfl, rfl, rfl⟩

theorem keepHbm_kept (d e : Dev) (a : Nat) (h : KeptReg a) : rg (keepHbm d e) a = rg e a :=
  (keepHbm_only d e).2 a fun hm => by
    obtain ⟨k, -, rfl⟩ := List.mem_map.mp hm
    exact not_kept_retired k h

theorem keepHbm_contents (d e : Dev) : contents (keepHbm d e) = contents e := (keepHbm_only d e).congr contents fun _ _ => rfl
theorem keepRetired_contents (d e : Dev) : contents (keepRetired d e) = contents e := rfl
theorem keepRetired_regs (d e : Dev) : (keepRetired d e).regs = e.regs := rfl
theorem ResetKept.contents {d e : Dev} (h : ResetKept d e) : contents e = contents d := h.congr Machine.contents fun _ _ _ => rfl

theorem resetShown_kept (d : Dev) : ResetKept d (resetShown d) := ((ResetKept.fset d _ _ (by decide)).trans (.fset _ _ _ (by decide))).trans (.rgPut _ _ (by decide))

/-- What the units keep and the log's next number change nothing that a reset decides. -/
theorem resetEnded_kept (d e : Dev) (n : Nat) : ResetKept e (resetShown (rg64Put (keepDead d e) Reg.RECORD_SEQ_0 n)) :=
  ((keepDead_kept d e).trans (.rg64Put _ n (by decide) (by decide))).trans (resetShown_kept _)

theorem fabricReset_contents (d : Dev) : contents (fabricReset d) = contentsReset d := by
  obtain ⟨e, n, h, hc, -⟩ := fabricReset_form d
  rw [h, (resetEnded_kept ..).contents, keepRetired_contents, keepHbm_contents, hc]

theorem rg_fabricReset (d : Dev) {a : Nat} (h : KeptReg a) : rg (fabricReset d) a = if a < 0x10000 then rg d a else (resetWord a).toNat := by
  obtain ⟨e, n, heq, -, hr⟩ := fabricReset_form d
  rw [heq, (resetEnded_kept ..).reg a h, rg_congr (keepRetired_regs ..), keepHbm_kept d e a h, rg, hr, tget_filter_key _ fun b => decide (b < 0x10000)]
  simp only [decide_eq_true_eq]
  split <;> rfl

theorem fabricReset_dead {d : Dev} {q : Nat} (hq : q < 272) (h : deskState d q = 5) : deskState (fabricReset d) q = 5 := by
  obtain ⟨e, n, heq, -, -⟩ := fabricReset_form d
  rw [heq, ← deskState_keepDead (keepRetired d (keepHbm d e)) hq h]
  refine deskState_of_rg ?_
  rw [resetShown, rg_rgPut_ne _ _ (desk_status_ne q (by decide)), rg_fset_ne _ _ _ (desk_status_ne q (by decide)), rg_fset_ne _ _ _ (desk_status_ne q (by decide)),
    rg_rg64Put_ne _ _ (desk_status_ne q (by decide)) (desk_status_ne q (by decide))]

/-- What TOP shows of a reset. -/
theorem resetShown_shows (d : Dev) : rg (resetShown d) Reg.TOP_RESET_CAUSE = 2 ∧ fbit (resetShown d) Reg.TOP_STATUS Fd.TOP_STATUS_ready = false
    ∧ resetBusy (resetShown d) = true := by
  refine ⟨rg_rgPut_self .., ?_, ?_⟩
  · rw [resetShown, fbit_rgPut_ne _ _ _ (by decide), fbit_fset_apart _ _ _ _ (by decide)]
    exact fbit_fset_self _ _ 0 rfl (by decide)
  · rw [resetBusy, resetShown, fbit_rgPut_ne _ _ _ (by decide)]
    exact fbit_fset_self _ _ 1 rfl (by decide)

theorem fabricReset_shows (d : Dev) : rg (fabricReset d) Reg.TOP_RESET_CAUSE = 2 ∧ fbit (fabricReset d) Reg.TOP_STATUS Fd.TOP_STATUS_ready = false
    ∧ resetBusy (fabricReset d) = true := by
  obtain ⟨e, n, h, -, -⟩ := fabricReset_form d
  rw [h]
  exact resetShown_shows _

theorem halted_fabricReset (d : Dev) : halted (fabricReset d) = false := by
  rw [halted, fbit, rg_fabricReset d (.inr (.inl rfl)), if_neg (by decide)]
  decide

theorem bellState_fabricReset (d : Dev) : bellState (fabricReset d) = 0 := by
  rw [bellState, fget, rg_fabricReset d (.inr (.inr rfl)), if_neg (by decide)]
  decide

/-- The regions of software stay. -/
theorem regionAt_fabricReset (d : Dev) {i : Nat} (h : i ≠ 1 ∧ i ≠ 2 ∧ i ≠ 4 ∧ i ≠ 5) : regionAt (fabricReset d) i = regionAt d i := by
  have hr : (fabricReset d).mem.regions = d.mem.regions.filter (fun r => !(decide (r.1 = 1 ∨ r.1 = 2 ∨ r.1 = 4 ∨ r.1 = 5))) :=
    congrArg (·.2.2.2.2.2.2.2.2.2.2.1) (fabricReset_contents d)
  obtain ⟨h1, h2, h4, h5⟩ := h
  rw [regionAt, hr, tget_filter_key _ (fun j => !decide (j = 1 ∨ j = 2 ∨ j = 4 ∨ j = 5)), if_pos (by simp [h1, h2, h4, h5]), regionAt]

/-! ## The writes that wait -/

/-- No write waits in a block where none waited. -/
structure PostedLeft (d e : Dev) : Prop where
  free : ∀ x, postedAt d x = none → postedAt e x = none

namespace PostedLeft

theorem of_bus {d e : Dev} (h : e.bus = d.bus) : PostedLeft d e := ⟨fun x hx => by rw [postedAt, h, ← postedAt, hx]⟩

theorem refl (d : Dev) : PostedLeft d d := ⟨fun _ hx => hx⟩

theorem trans {d e f : Dev} (h : PostedLeft d e) (g : PostedLeft e f) : PostedLeft d f := ⟨fun x hx => g.free x (h.free x hx)⟩

theorem fabricReset (d : Dev) : PostedLeft d (fabricReset d) := by
  refine ⟨fun x hx => ?_⟩
  have hp : (Machine.fabricReset d).bus.posted = d.bus.posted.filter (fun e => e.1 < 0x10000) :=
    congrArg (·.2.2.2.2.2.2.2.2.2.2.2.2) (fabricReset_contents d)
  rw [postedAt, hp, tget_filter_key _ (fun b => decide (b < 0x10000)), ← postedAt, hx, ite_self]

theorem topCtrl (d : Dev) (act : Nat) : PostedLeft d (topCtrl d act) := by
  have hhalt : PostedLeft d (if bit act 30 then haltAction d else d) := by
    split
    · exact of_bus (fset_bus ..)
    · exact of_bus rfl
  unfold Machine.topCtrl
  dsimp only
  split
  · exact hhalt.trans (fabricReset _)
  · exact hhalt

end PostedLeft

/-- What a written register does leaves the bus alone, but for a fabric reset. -/
theorem applyReg_left (d : Dev) (who : Req) (kind inst a : Nat) (w : Wr) : PostedLeft d (applyReg d who kind inst a w) := by
  have hput' : (rgPut d a w.new).bus = d.bus := rgPut_bus ..
  unfold applyReg
  extract_lets +onlyGivenNames off old put base
  change put.bus = d.bus at hput'
  clear_value put
  repeat' split
  case h_1.isTrue => exact (PostedLeft.of_bus hput').trans (.topCtrl _ w.act)
  case h_8.isTrue.isFalse.isTrue => exact .of_bus ((fset_bus put Reg.RFAB_BENCH Fd.RFAB_BENCH_err 1).trans hput')
  all_goals
    refine .of_bus ?_
    simp only [hput', rgPut_bus, unlockWrite_bus, cntClear_bus, refAck_bus, refClear_bus, refRaise_bus, cmdCtrl_bus, ckpCtrl_bus, bellCtrl_bus, tickGo_bus,
      stepCtrl_bus, hudFence_bus, benchGo_bus, resync_bus, rteSelfWrite_bus, portCfgWrite_bus, linkPortWrite_bus, gateDisable_bus, mirrorWrite_bus, quotaWrite_bus,
      thermWrite_bus, rsvCfgWrite_bus, linkCtrlWrite_bus, linkExpectWrite_bus, unfence_bus, fenceBegin_bus]

theorem stepDefer_bus (d : Dev) : (stepDefer d).bus = d.bus := rfl

/-- The second word of a field leaves nothing waiting for it but is no write that waits. -/
theorem applyPair_left (d : Dev) (who : Req) (lo : Nat) (w : Wr) : PostedLeft d (applyPair d who lo w) := by
  unfold applyPair
  extract_lets k low b e o
  have he : PostedLeft d e := ⟨fun _ hx => hx⟩
  clear_value e
  refine he.trans (.of_bus ?_)
  split
  · split
    · split
      · exact (stepDefer_bus ..).trans (rg64Put_bus ..)
      · exact fset_bus ..
    · exact rg64Put_bus ..
  · exact (rgPut_bus ..).trans (rgPut_bus ..)

theorem regWrite_left (d : Dev) (who : Req) (addr v : Nat) (u : Bool) : PostedLeft d (regWrite d who addr v u) := by
  unfold regWrite
  extract_lets +onlyGivenNames a
  split
  · extract_lets +onlyGivenNames old w e f
    have he : PostedLeft d e := by
      unfold e
      split
      · exact .of_bus (lockFail_bus ..)
      · exact .refl _
    have hf : PostedLeft d f := by
      refine he.trans ?_
      unfold f
      split
      · exact .of_bus (denyWrite_bus ..)
      · exact .refl _
    refine hf.trans ?_
    clear_value f
    split
    · exact .refl _
    · split
      · split
        · exact ⟨fun _ hx => hx⟩
        · exact applyPair_left f _ _ _
      · exact applyReg_left f _ _ _ _ _
  · exact .refl _

end Sys2Proof.Machine
end

section
/-! PROOFS. Posted writes run (R516): what a posted block takes, and what POSTED_WRITE_DONE carries out. -/

namespace Sys2Proof.Machine

/-! ## LINK_CTRL: the word that is stored (R412, R413) -/

section
variable {n v hi lo hi' lo' : Nat} (c : Bool)

theorem bits_putIf_above (h : lo ≤ hi) (g : hi < lo') : bits (if c then putBits n hi lo v else n) hi' lo' = bits n hi' lo' := by
  cases c
  · rfl
  · exact bits_putBits_above n v h g

theorem bits_putIf_below (h : lo ≤ hi) (h' : lo' ≤ hi') (g : hi' < lo) : bits (if c then putBits n hi lo v else n) hi' lo' = bits n hi' lo' := by
  cases c
  · rfl
  · exact bits_putBits_below n v h h' g

end

section
variable {d : Dev} {l new : Nat}

/-- The word once a loopback that does not exist is refused. -/
def loopTaken (d : Dev) (l new : Nat) : Nat := if decide (bits new 27 25 ≥ 4) then putBits new 27 25 (bits (rg d (Reg.LINK_CTRL l)) 27 25) else new

/-- The word once a mode that the link does not have is refused as well. -/
def modeTaken (d : Dev) (l new : Nat) : Nat :=
  if decide (l < 96 ∧ (bits new 19 19 = 1 ∨ bits new 17 17 = 1)) then putBits (putBits (loopTaken d l new) 19 19 0) 17 17 0 else loopTaken d l new

/-- The write asks for another pattern while the link is in service. -/
def badPrbs (d : Dev) (l new : Nat) : Bool := linkCarries d l && decide (bits new 24 24 ≠ bits (rg d (Reg.LINK_CTRL l)) 24 24)

/-- The word once that is refused as well. -/
def prbsTaken (d : Dev) (l new : Nat) : Nat := if badPrbs d l new then putBits (modeTaken d l new) 24 24 (bits (rg d (Reg.LINK_CTRL l)) 24 24) else modeTaken d l new

theorem ctrlWord_form (d : Dev) (l new : Nat) : ∃ c : Bool, ctrlWord d l new = if c then putBits (prbsTaken d l new) 18 18 1 else prbsTaken d l new := ⟨_, rfl⟩

theorem bits_modeTaken (d : Dev) (l new : Nat) {hi lo : Nat} (h : 19 < lo) : bits (modeTaken d l new) hi lo = bits (loopTaken d l new) hi lo := by
  unfold modeTaken
  split
  · rw [bits_putBits_above _ _ (by decide) (by omega), bits_putBits_above _ _ (by decide) h]
  · rfl

theorem bits_ctrlWord (d : Dev) (l new : Nat) {hi lo : Nat} (h : 24 < lo) : bits (ctrlWord d l new) hi lo = bits (loopTaken d l new) hi lo := by
  obtain ⟨c, hw⟩ := ctrlWord_form d l new
  rw [hw, bits_putIf_above c (by decide) (by omega), prbsTaken, bits_putIf_above _ (by decide) h, bits_modeTaken d l new (by omega)]

theorem bits_ctrlWord_loop (h : bits new 27 25 < 4) : bits (ctrlWord d l new) 27 25 = bits new 27 25 := by
  rw [bits_ctrlWord d l new (by decide), loopTaken, decide_eq_false (by omega)]
  rfl

theorem bits_ctrlWord_en (d : Dev) (l new : Nat) : bits (ctrlWord d l new) 31 31 = bits new 31 31 := by
  rw [bits_ctrlWord d l new (by decide), loopTaken, bits_putIf_above _ (by decide) (by decide)]

theorem bits_ctrlWord_prbs (d : Dev) (l new : Nat) : bits (ctrlWord d l new) 24 24 = if linkCarries d l then bits (rg d (Reg.LINK_CTRL l)) 24 24 else bits new 24 24 := by
  obtain ⟨c, hw⟩ := ctrlWord_form d l new
  have hmode : bits (modeTaken d l new) 24 24 = bits new 24 24 := by
    rw [bits_modeTaken d l new (by decide), loopTaken, bits_putIf_below _ (by decide) (by decide) (by decide)]
  rw [hw, bits_putIf_above c (by decide) (by decide), prbsTaken, badPrbs]
  cases linkCarries d l with
  | false => exact hmode
  | true =>
    by_cases he : bits new 24 24 = bits (rg d (Reg.LINK_CTRL l)) 24 24
    · rw [decide_eq_false (not_not.mpr he)]
      exact hmode.trans he
    · rw [decide_eq_true he]
      exact bits_putBits_of_lt _ (by decide) (bits_lt ..)

end

/-! ## LINK_CTRL: what the word does -/

section
variable {d : Dev} {l new v : Nat}

theorem ctrlStored_plain (h : bit v 29 = false) : ctrlStored d l new v = rgPut d (Reg.LINK_CTRL l) (ctrlWord d l new) := if_neg (by rw [h]; decide)

/-- What a retrain changes beside the word. -/
def retrainCounted (d : Dev) (l : Nat) : Dev :=
  dynMod (fset (bump d (Reg.LINK_RETRAIN_CNT l)) (Reg.LINK_STATUS l) Fd.LINK_STATUS_tries_used 0) l (fun x => { x with fenced := false })

theorem ctrlStored_retrain (h : bit v 29 = true) : ctrlStored d l new v = retrainCounted (rgPut d (Reg.LINK_CTRL l) (ctrlWord d l new)) l := if_pos h

theorem ctrl_ne_status (l : Nat) : Reg.LINK_CTRL l ≠ Reg.LINK_STATUS l := by unfold Reg.LINK_CTRL Reg.LINK_STATUS; omega
theorem ctrl_ne_retrain (l : Nat) : Reg.LINK_CTRL l ≠ Reg.LINK_RETRAIN_CNT l := by unfold Reg.LINK_CTRL Reg.LINK_RETRAIN_CNT; omega
theorem status_ne_retrain (l : Nat) : Reg.LINK_STATUS l ≠ Reg.LINK_RETRAIN_CNT l := by unfold Reg.LINK_STATUS Reg.LINK_RETRAIN_CNT; omega

theorem rg_retrainCounted (d : Dev) (l : Nat) {a : Nat} (hs : a ≠ Reg.LINK_STATUS l) (hc : a ≠ Reg.LINK_RETRAIN_CNT l) : rg (retrainCounted d l) a = rg d a := by
  rw [retrainCounted, rg_congr (dynMod_regs ..), rg_fset_ne _ _ _ hs, rg_bump_ne _ _ hc]

theorem linkStep_retrainCounted (d : Dev) (l : Nat) : linkStep (retrainCounted d l) l = linkStep d l := by
  rw [retrainCounted, linkStep_dynMod, linkStep_fset _ _ l 0 (by decide)]
  exact linkStep_congr (rg_bump_ne d 1 (status_ne_retrain l))

theorem fget_ctrlStored (d : Dev) (l new v : Nat) {f : Nat × Nat} (hl : f.2 ≤ f.1) (h : f.1 < 32) :
    fget (ctrlStored d l new v) (Reg.LINK_CTRL l) f = bits (ctrlWord d l new) f.1 f.2 := by
  have hput : fget (rgPut d (Reg.LINK_CTRL l) (ctrlWord d l new)) (Reg.LINK_CTRL l) f = bits (ctrlWord d l new) f.1 f.2 := by
    rw [fget, rg_rgPut_self, bits_mod _ hl h]
  cases hv : bit v 29 with
  | false => rw [ctrlStored_plain hv, hput]
  | true => rw [ctrlStored_retrain hv, fget, rg_retrainCounted _ _ (ctrl_ne_status l) (ctrl_ne_retrain l), ← fget, hput]

theorem linkStep_ctrlStored (d : Dev) (l new v : Nat) : linkStep (ctrlStored d l new v) l = linkStep d l := by
  have hput : linkStep (rgPut d (Reg.LINK_CTRL l) (ctrlWord d l new)) l = linkStep d l := linkStep_congr (rg_rgPut_ne d _ (ctrl_ne_status l).symm)
  cases hv : bit v 29 with
  | false => rw [ctrlStored_plain hv, hput]
  | true => rw [ctrlStored_retrain hv, linkStep_retrainCounted, hput]

/-- A link brought up where nothing stands in its way (R403). -/
theorem linkCtrlWrite_enable (hl : bits new 27 25 = 0) (hen : bits new 31 31 = 1) (hoff : linkCtl d l Fd.LINK_CTRL_en = false)
    (hs : linkStep d l = 0) (hv : bit v 29 = false) :
    linkStep (linkCtrlWrite d l new v) l = if fbit d (Reg.LINK_STATUS l) Fd.LINK_STATUS_present = true ∧ fbit d (Reg.LINK_STATUS l) Fd.LINK_STATUS_latch_closed = true
      ∧ (dynOf d l).powered = true ∧ (dynOf d l).fenced = false ∧ fbit d Reg.TOP_STATUS Fd.TOP_STATUS_ready = true ∧ tget false d.pkg.lost (l / 16) = false
      then 1 else 0 := by
  have hloop : bits (ctrlWord d l new) 27 25 = 0 := (bits_ctrlWord_loop (by omega)).trans hl
  have hbit : bit (ctrlWord d l new) 31 = true := bit_of_bits_eq_one ((bits_ctrlWord_en d l new).trans hen)
  have hstored := ctrlStored_plain (d := d) (l := l) (new := new) hv
  have hloop' : linkLoop (ctrlStored d l new v) l = 0 := (fget_ctrlStored d l new v (by decide) (by decide)).trans hloop
  have hen' : linkCtl (ctrlStored d l new v) l Fd.LINK_CTRL_en = true := by
    rw [linkCtl, fbit_eq_decide, fget_ctrlStored d l new v (by decide) (by decide)]
    exact decide_eq_true ((bits_ctrlWord_en d l new).trans hen)
  have hst (f : Nat × Nat) : fbit (ctrlStored d l new v) (Reg.LINK_STATUS l) f = fbit d (Reg.LINK_STATUS l) f := by
    rw [hstored, fbit_rgPut_ne _ _ _ (ctrl_ne_status l).symm]
  have htop : fbit (ctrlStored d l new v) Reg.TOP_STATUS Fd.TOP_STATUS_ready = fbit d Reg.TOP_STATUS Fd.TOP_STATUS_ready := by
    rw [hstored, fbit_rgPut_ne _ _ _ (by unfold Reg.TOP_STATUS Reg.LINK_CTRL; omega)]
  have hdyn : dynOf (ctrlStored d l new v) l = dynOf d l := by rw [hstored]; exact dynOf_congr (rgPut_lnk ..) l
  have hbring : canBring (ctrlStored d l new v) l = true ↔ fbit d (Reg.LINK_STATUS l) Fd.LINK_STATUS_present = true ∧ fbit d (Reg.LINK_STATUS l) Fd.LINK_STATUS_latch_closed = true
      ∧ (dynOf d l).powered = true ∧ (dynOf d l).fenced = false ∧ fbit d Reg.TOP_STATUS Fd.TOP_STATUS_ready = true ∧ tget false d.pkg.lost (l / 16) = false := by
    simp [canBring, hen', hst, htop, hdyn, hloop', ctrlStored_pkg, and_assoc]
  rw [linkCtrlWrite_eq, if_neg (not_not.mpr hloop), if_neg (by rw [hbit]; decide),
    if_pos (.inr (.inr ⟨by rw [show bit (rg d (Reg.LINK_CTRL l)) 31 = false from hoff]; rfl, (linkStep_ctrlStored ..).trans hs⟩)), linkStep_linkRestart, restartStep]
  exact if_congr hbring rfl (if_neg (not_not.mpr hloop'))

/-- The word stands in the register whatever the link does. -/
theorem fget_linkCtrlWrite (d : Dev) (l new v : Nat) {f : Nat × Nat} (hl : f.2 ≤ f.1) (h : f.1 < 32) :
    fget (linkCtrlWrite d l new v) (Reg.LINK_CTRL l) f = bits (ctrlWord d l new) f.1 f.2 := by
  rw [fget, (linkCtrlWrite_left ..).ctrl l, ← fget, fget_ctrlStored d l new v hl h]

theorem linkCtrlWrite_disable (hl : bits new 27 25 = 0) (hen : bits new 31 31 = 0) :
    linkStep (linkCtrlWrite d l new v) l = 0 ∧ linkCtl (linkCtrlWrite d l new v) l Fd.LINK_CTRL_en = false := by
  have hloop : bits (ctrlWord d l new) 27 25 = 0 := (bits_ctrlWord_loop (by omega)).trans hl
  have hbit : bit (ctrlWord d l new) 31 = false := bit_of_bits_eq_zero ((bits_ctrlWord_en d l new).trans hen)
  constructor
  · rw [linkCtrlWrite_eq, if_neg (not_not.mpr hloop), if_pos (by rw [hbit]; decide)]
    split
    case isTrue h => exact h
    case isFalse => exact linkStep_linkStop _ l (by decide) (by decide) (by decide)
  · rw [linkCtl, fbit_eq_decide, fget_linkCtrlWrite d l new v (by decide) (by decide)]
    exact decide_eq_false fun h => absurd (h.symm.trans ((bits_ctrlWord_en d l new).trans hen)) (by decide)

theorem linkCtrlWrite_loop (h1 : 1 ≤ bits new 27 25) (h3 : bits new 27 25 ≤ 3) (hold : linkLoop d l = 0) :
    linkStep (linkCtrlWrite d l new v) l = 11 ∧ linkLoop (linkCtrlWrite d l new v) l = bits new 27 25 := by
  have hloop : bits (ctrlWord d l new) 27 25 = bits new 27 25 := bits_ctrlWord_loop (by omega)
  constructor
  · rw [linkCtrlWrite_eq, if_pos (by omega), if_pos (.inl hold)]
    exact linkStep_linkStop _ l (by decide) (by decide) (by decide)
  · rw [linkLoop, fget_linkCtrlWrite d l new v (by decide) (by decide)]
    exact hloop

theorem fget_linkCtrlWrite_prbs (d : Dev) (l new v : Nat) : fget (linkCtrlWrite d l new v) (Reg.LINK_CTRL l) Fd.LINK_CTRL_prbs_en =
    if linkCarries d l then fget d (Reg.LINK_CTRL l) Fd.LINK_CTRL_prbs_en else bits new 24 24 :=
  (fget_linkCtrlWrite d l new v (by decide) (by decide)).trans (bits_ctrlWord_prbs d l new)

theorem linkCtrlWrite_serving (hc : linkCarries d l = true) (hl : bits new 27 25 = 0) (hen : bits new 31 31 = 1) (hold : linkLoop d l = 0) (hv : bit v 29 = false) :
    linkStep (linkCtrlWrite d l new v) l = linkStep d l := by
  have hloop : bits (ctrlWord d l new) 27 25 = 0 := (bits_ctrlWord_loop (by omega)).trans hl
  have hbit : bit (ctrlWord d l new) 31 = true := bit_of_bits_eq_one ((bits_ctrlWord_en d l new).trans hen)
  have hs : linkStep d l ≠ 0 := fun h => by
    have := of_decide_eq_true hc
    omega
  have hstay : ¬(bit v 29 = true ∨ bits (rg d (Reg.LINK_CTRL l)) 27 25 ≠ 0 ∨ (!bit (rg d (Reg.LINK_CTRL l)) 31) = true ∧ linkStep (ctrlStored d l new v) l = 0) := by
    rintro (h | h | ⟨-, h⟩)
    · rw [hv] at h
      cases h
    · exact h hold
    · exact hs ((linkStep_ctrlStored ..).symm.trans h)
  rw [linkCtrlWrite_eq, if_neg (not_not.mpr hloop), if_neg (by rw [hbit]; decide), if_neg hstay, linkStep_ctrlStored]

theorem outerReg_retrain (l : Nat) : OuterReg (Reg.LINK_RETRAIN_CNT l) ∧ ¬StopReg l (Reg.LINK_RETRAIN_CNT l) :=
  ⟨.inr (by unfold Reg.LINK_RETRAIN_CNT; omega), by unfold StopReg Reg.LINK_RETRAIN_CNT Reg.LINK_STATUS Reg.LINK_FAULT; omega⟩

/-- What a retrain counts and lifts (R411). -/
theorem linkCtrlWrite_retrain (hv : bit v 29 = true) : rg (linkCtrlWrite d l new v) (Reg.LINK_RETRAIN_CNT l) = satInc (rg d (Reg.LINK_RETRAIN_CNT l)) 1
    ∧ fget (linkCtrlWrite d l new v) (Reg.LINK_STATUS l) Fd.LINK_STATUS_tries_used = 0 ∧ (dynOf (linkCtrlWrite d l new v) l).fenced = false := by
  have hleft := linkCtrlWrite_left d l new v
  obtain ⟨hout, hstop⟩ := outerReg_retrain l
  refine ⟨?_, ?_, ?_⟩
  · rw [hleft.reg _ hout hstop, ctrlStored_retrain hv, retrainCounted, rg_congr (dynMod_regs ..), rg_fset_ne _ _ _ (status_ne_retrain l).symm, rg_bump_self,
      rg_rgPut_ne _ _ (ctrl_ne_retrain l).symm]
  · rw [hleft.status _ (by decide), ctrlStored_retrain hv, retrainCounted, fget_congr (dynMod_regs ..), fget_fset_self _ _ _ _ (by decide) (by decide)]
    rfl
  · rw [hleft.fenced, ctrlStored_retrain hv, retrainCounted, dynOf_dynMod_self]

end

end Sys2Proof.Machine
end

section
/-! PROOFS. Posted writes run (R516): the registers of posted blocks that act when written, and the obligation. -/

namespace Sys2Proof.Machine

/-! ## LINK_EXPECT (R410) -/

/-- A link held at step 6 whose neighbour is the one expected goes on. -/
theorem linkExpectWrite_released {d : Dev} {l new : Nat} (hs : linkStep d l = 6) (hh : (dynOf d l).held = true)
    (hp : fget d (Reg.LINK_PEER l) (23, 0) = bits new 23 0) :
    linkStep (linkExpectWrite d l new) l = 7 ∧ (dynOf (linkExpectWrite d l new) l).held = false := by
  have hstep : linkStep (rgPut d (Reg.LINK_EXPECT l) new) l = 6 :=
    (linkStep_congr (rg_rgPut_ne d _ (by unfold Reg.LINK_STATUS Reg.LINK_EXPECT; omega))).trans hs
  have hheld : (dynOf (rgPut d (Reg.LINK_EXPECT l) new) l).held = true := (congrArg (·.held) (dynOf_congr (rgPut_lnk ..) l)).trans hh
  have hpeer : fget (rgPut d (Reg.LINK_EXPECT l) new) (Reg.LINK_PEER l) (23, 0)
      = fget (rgPut d (Reg.LINK_EXPECT l) new) (Reg.LINK_EXPECT l) Fd.LINK_EXPECT_coord := by
    rw [fget, rg_rgPut_ne d _ (by unfold Reg.LINK_PEER Reg.LINK_EXPECT; omega), ← fget, hp, fget, rg_rgPut_self]
    exact (bits_mod _ (by decide) (by decide)).symm
  have hform : linkExpectWrite d l new = stepTo (dynMod (rgPut d (Reg.LINK_EXPECT l) new) l (fun x => { x with held := false })) l 7 :=
    (if_pos ⟨hstep, hheld⟩).trans (if_neg fun h => h.2 hpeer)
  rw [hform]
  refine ⟨linkStep_stepTo _ l (by decide) (by decide) (by decide), ?_⟩
  rw [dynOf_stepTo _ l (by decide) (by decide), dynOf_dynMod_self]

/-! ## HBM_STK_CTRL (R392) -/

theorem stkState_evacBits (d : Dev) (k : Nat) : stkState (evacBits d) k = stkState d k := by
  refine List.foldlRecOn (motive := fun e : Dev => stkState e k = stkState d k) _ _ rfl fun e he j _ => ?_
  dsimp only
  split
  · exact he
  · exact (fget_fset_apart e _ _ _ (by decide)).trans he

theorem stkState_mem (d : Dev) (m : Memory) (k : Nat) : stkState { d with mem := m } k = stkState d k := rfl

theorem stkState_fenceStack {d : Dev} {k : Nat} (hk : k < 16) : stkState (fenceStack d k) k = 4 := by
  have hfour : stkState (fset d (Reg.HBM_STK_STATUS k) Fd.HBM_STK_STATUS_state 4) k = 4 := fget_fset_self _ _ _ _ (by decide) (by decide)
  have hne : Reg.HBM_STK_STATUS k ≠ Reg.HBM_STK_FAULT k := by unfold Reg.HBM_STK_STATUS Reg.HBM_STK_FAULT; omega
  have href : ¬RefReg (Reg.HBM_STK_STATUS k) := by unfold RefReg Reg.HBM_STK_STATUS Reg.REF_RAISE_CNT Reg.REF_RING_HEAD Reg.REF_RING_DROP_CNT Reg.REF_STATUS; omega
  unfold fenceStack
  generalize fset d (Reg.HBM_STK_STATUS k) Fd.HBM_STK_STATUS_state 4 = e at hfour
  rw [stkState, stkFault, unitFault, fget, rg_raise_ne href, ← fget, fget_fset_ne _ _ _ _ hne]
  exact (stkState_evacBits _ k).trans ((stkState_mem e _ k).trans hfour)

/-- A stack that is about to be fenced. -/
def fencingNoted (d : Dev) (k : Nat) : Dev := { d with mem := { d.mem with fencing := tset false d.mem.fencing k true } }

theorem evacStack_empty {d : Dev} (hr : d.mem.regions = []) (k : Nat) (why : EvacWhy) : evacStack d k why = d := by
  rw [evacStack, hr]
  rfl

/-- A stack without regions is fenced at once. -/
theorem stkState_fenceBegin {d : Dev} {k : Nat} (hk : k < 16) (hf : stkFenced d k = false) (hr : d.mem.regions = []) (he : d.mem.evacs = []) :
    stkState (fenceBegin d k) k = 4 := by
  have hbegin : fenceBegin d k = fenceCheck (evacStack (fencingNoted d k) k .fence) k := if_neg (by rw [hf]; decide)
  have hnoted : tget false (fencingNoted d k).mem.fencing k = true := tget_tset_self false d.mem.fencing k true
  have hregions : (fencingNoted d k).mem.regions = [] := hr
  have hevacs : (fencingNoted d k).mem.evacs = [] := he
  rw [hbegin, evacStack_empty hregions, fenceCheck, if_pos ⟨hnoted, by rw [hevacs]; rfl⟩]
  exact stkState_fenceStack hk

theorem stkState_unfence {d : Dev} {k : Nat} (hf : stkFenced d k = true)
    (ht : fget d (Reg.HBM_STK_STATUS k) Fd.HBM_STK_STATUS_temp < fget d Reg.MEM_THERM_CFG Fd.MEM_THERM_CFG_warm) (hr : d.mem.regions = []) :
    stkState (unfence d k) k = 0 := by
  rw [unfence, if_pos ⟨hf, ht, by rw [hr]; rfl⟩]
  exact fget_fset_self _ _ _ _ (by decide) (by decide)

/-! ## The registers of posted blocks that act when written -/

abbrev linkCtrlFlds : List Fld := [⟨31, 31, .rw, false, false, 0x0⟩, ⟨30, 30, .rw, false, false, 0x1⟩, ⟨29, 29, .trig, false, false, 0x0⟩,
  ⟨28, 28, .rw, false, false, 0x0⟩, ⟨27, 25, .rw, false, false, 0x0⟩, ⟨24, 24, .rw, false, false, 0x0⟩, ⟨23, 20, .rw, false, false, 0x8⟩,
  ⟨19, 19, .rw, false, false, 0x0⟩, ⟨18, 18, .w1c, false, false, 0x0⟩, ⟨17, 17, .rw, false, false, 0x0⟩, ⟨7, 0, .rw, false, false, 0x20⟩]
abbrev linkExpectFlds : List Fld := [⟨23, 0, .rw, false, false, 0x0⟩]
abbrev twoTrigFlds : List Fld := [⟨31, 31, .trig, true, true, 0x0⟩, ⟨30, 30, .trig, true, true, 0x0⟩]
abbrev blkWorldFlds : List Fld := [⟨31, 0, .rw, true, false, 0x9C⟩]

/-- A register of a posted block that is no part of a wider field. -/
structure PostedReg (a : Nat) (b : BlkRow) (inst : Nat) (fs : List Fld) : Prop where
  own : a % 0x4000 < 0x1000
  blk : blkOf a = some (b, inst)
  flds : regFlds a = some fs
  single : multiWord a = none
  posted : b.posted = true
  kind : b.kind ≠ 0x06

theorem linkCtrl_rows : ∀ l : Fin 128, blkOf (Reg.LINK_CTRL l.val) = some (⟨0x12, 0x080000, 16, true⟩, l.val / 8)
    ∧ regFlds (Reg.LINK_CTRL l.val) = some linkCtrlFlds ∧ multiWord (Reg.LINK_CTRL l.val) = none := by decide +kernel

theorem linkExpect_rows : ∀ l : Fin 128, blkOf (Reg.LINK_EXPECT l.val) = some (⟨0x12, 0x080000, 16, true⟩, l.val / 8)
    ∧ regFlds (Reg.LINK_EXPECT l.val) = some linkExpectFlds ∧ multiWord (Reg.LINK_EXPECT l.val) = none := by decide +kernel

theorem stackCtrl_rows : ∀ k : Fin 16, blkOf (Reg.HBM_STK_CTRL k.val) = some (⟨0x17, 0x1C0000, 16, true⟩, k.val)
    ∧ regFlds (Reg.HBM_STK_CTRL k.val) = some twoTrigFlds ∧ multiWord (Reg.HBM_STK_CTRL k.val) = none := by decide +kernel

theorem linkCtrl_posted {l : Nat} (hl : l < 128) : PostedReg (Reg.LINK_CTRL l) ⟨0x12, 0x080000, 16, true⟩ (l / 8) linkCtrlFlds := by
  obtain ⟨hb, hf, hm⟩ := linkCtrl_rows ⟨l, hl⟩
  exact ⟨by unfold Reg.LINK_CTRL; omega, hb, hf, hm, rfl, by decide⟩

theorem linkExpect_posted {l : Nat} (hl : l < 128) : PostedReg (Reg.LINK_EXPECT l) ⟨0x12, 0x080000, 16, true⟩ (l / 8) linkExpectFlds := by
  obtain ⟨hb, hf, hm⟩ := linkExpect_rows ⟨l, hl⟩
  exact ⟨by unfold Reg.LINK_EXPECT; omega, hb, hf, hm, rfl, by decide⟩

theorem stackCtrl_posted {k : Nat} (hk : k < 16) : PostedReg (Reg.HBM_STK_CTRL k) ⟨0x17, 0x1C0000, 16, true⟩ k twoTrigFlds := by
  obtain ⟨hb, hf, hm⟩ := stackCtrl_rows ⟨k, hk⟩
  exact ⟨by unfold Reg.HBM_STK_CTRL; omega, hb, hf, hm, rfl, by decide⟩

theorem blkWorld_posted : PostedReg Reg.SIT_BLK_WORLD ⟨0x02, 0x004000, 1, true⟩ 0 blkWorldFlds :=
  ⟨by decide, by decide +kernel, by decide +kernel, by decide, rfl, by decide⟩

theorem topCtrl_posted : PostedReg Reg.TOP_CTRL ⟨0x01, 0x000000, 1, true⟩ 0 twoTrigFlds :=
  ⟨by decide, by decide +kernel, by decide +kernel, by decide, rfl, by decide⟩

/-! ## What a posted block takes -/

section
variable {d : Dev} {who : Req} {a inst : Nat} {b : BlkRow} {fs : List Fld} (hr : PostedReg a b inst fs)
include hr

theorem busWrite_posted (hbus : BusReady d) (hs : reqSecure d who = true) (v : Nat) : busWrite d who a v 15 =
    if (postedAt d (blkBase a)).isSome then fset d (Reg.BLK_STATUS (blkBase a)) Fd.BLK_STATUS_post_err 1 else postedTaken d who a a v := by
  have h := busWrite_of_allowed hr.own (by decide : 0 < 4) hr.blk hr.flds v hbus.1 (resetShields_of_ready hbus _) (.inl hs)
  rw [aliasAddr_zero hr.own, if_neg (by rw [hr.posted]; decide)] at h
  exact h

/-- The word that a granted write makes. -/
theorem regWrite_posted (hs : reqSecure d who = true) (v : Nat) : regWrite d who a v true = applyReg d who b.kind inst a (wordWrite fs (rg d a) v true true) :=
  regWrite_granted hr.own hr.blk hr.flds (.inl hr.kind) hr.single v hs

theorem wordWrite_posted {f : Fld} (hf : f ∈ fs) (old v : Nat) :
    bits (wordWrite fs old v true true).new f.hi f.lo = fldKept f (bits old f.hi f.lo) (bits v f.hi f.lo)
      ∧ bits (wordWrite fs old v true true).act f.hi f.lo = fldActs f (bits v f.hi f.lo) :=
  wordWrite_of_granted (.inl rfl) (regFlds_descend hr.flds) hf

end

/-- Each of these commands is a write of its register. -/
theorem exec_posted {s : State} {who : Req} {v : Word} {l : Fin 128} {k : BitVec 4} {c : Instr} {a : Nat}
    (h : (c, a) ∈ [(.linkEnable who l v, Reg.LINK_CTRL l.val), (.linkRetrain who l v, Reg.LINK_CTRL l.val), (.linkLoopbackSelect who l v, Reg.LINK_CTRL l.val),
      (.linkPrbsEnable who l v, Reg.LINK_CTRL l.val), (.linkExpectWrite who l v, Reg.LINK_EXPECT l.val), (.hbmFence who k v, Reg.HBM_STK_CTRL k.toNat),
      (.hbmUnfence who k v, Reg.HBM_STK_CTRL k.toNat), (.sitBlkWorldWrite who v, Reg.SIT_BLK_WORLD), (.fabricReset who v, Reg.TOP_CTRL), (Instr.haltGo who v, Reg.TOP_CTRL)]) :
    (∃ b inst fs, PostedReg a b inst fs) ∧ exec c s = actReg (fun d => busWrite d who a v.toNat 15) s := by
  simp only [List.mem_cons, Prod.mk.injEq, List.not_mem_nil, or_false] at h
  rcases h with ⟨rfl, rfl⟩ | ⟨rfl, rfl⟩ | ⟨rfl, rfl⟩ | ⟨rfl, rfl⟩ | ⟨rfl, rfl⟩ | ⟨rfl, rfl⟩ | ⟨rfl, rfl⟩ | ⟨rfl, rfl⟩ | ⟨rfl, rfl⟩ | ⟨rfl, rfl⟩
  iterate 4 exact ⟨⟨_, _, _, linkCtrl_posted l.isLt⟩, rfl⟩
  · exact ⟨⟨_, _, _, linkExpect_posted l.isLt⟩, rfl⟩
  iterate 2 exact ⟨⟨_, _, _, stackCtrl_posted k.isLt⟩, rfl⟩
  · exact ⟨⟨_, _, _, blkWorld_posted⟩, rfl⟩
  iterate 2 exact ⟨⟨_, _, _, topCtrl_posted⟩, rfl⟩

/-- What a posted block takes of a write, and what it answers while another waits. -/
theorem exec_posted_taken {s : State} {who : Req} {v : Word} {c : Instr} {a : Nat} (hbus : BusReady s.dev) (hs : reqSecure s.dev who = true)
    (hr : ∃ b inst fs, PostedReg a b inst fs) (hc : exec c s = actReg (fun d => busWrite d who a v.toNat 15) s) :
    (postedAt s.dev (blkBase a) = none → ∃ e, exec c s = .next (s.after e) ∧ PostedTaken s.dev e who (blkBase a) a v)
      ∧ (postedAt s.dev (blkBase a) ≠ none → exec c s = .next (s.after (fset s.dev (Reg.BLK_STATUS (blkBase a)) Fd.BLK_STATUS_post_err 1))) := by
  obtain ⟨b, inst, fs, hr⟩ := hr
  have hw := busWrite_posted hr hbus hs v.toNat
  refine ⟨fun hnone => ⟨postedTaken s.dev who a a v.toNat, ?_, postedTaken_taken ..⟩, fun hsome => ?_⟩
  · rw [hc]
    exact actReg_of_eq hbus.1 (hw.trans (if_neg (by rw [hnone]; decide)))
  · rw [hc]
    exact actReg_of_eq hbus.1 (hw.trans (if_pos (Option.isSome_iff_ne_none.mpr hsome)))

/-! ## What the registers do -/

section
variable (d : Dev) (who : Req) (w : Wr)

theorem applyReg_linkCtrl (l : Nat) : applyReg d who 0x12 (l / 8) (Reg.LINK_CTRL l) w = linkCtrlWrite d l w.new w.act := by
  have hoff : Reg.LINK_CTRL l % 0x4000 = 0x100 + 0x40 * (l % 8) := by unfold Reg.LINK_CTRL; omega
  have hl : 8 * (l / 8) + (0x100 + 0x40 * (l % 8) - 0x100) / 0x40 = l := by omega
  unfold applyReg
  rw [hoff]
  dsimp only
  rw [if_neg (by omega), if_neg (by omega), if_neg (by omega), hl]
  exact if_pos ⟨by omega, by omega⟩

theorem applyReg_linkExpect (l : Nat) : applyReg d who 0x12 (l / 8) (Reg.LINK_EXPECT l) w = linkExpectWrite d l w.new := by
  have hoff : Reg.LINK_EXPECT l % 0x4000 = 0x11C + 0x40 * (l % 8) := by unfold Reg.LINK_EXPECT; omega
  have hl : 8 * (l / 8) + (0x11C + 0x40 * (l % 8) - 0x100) / 0x40 = l := by omega
  unfold applyReg
  rw [hoff]
  dsimp only
  rw [if_neg (by omega), if_neg (by omega), if_neg (by omega), hl]
  exact (if_neg fun h => by omega).trans (if_pos ⟨by omega, by omega⟩)

theorem applyReg_stackCtrl (k : Nat) : applyReg d who 0x17 k (Reg.HBM_STK_CTRL k) w =
    if bit w.act 30 then unfence (if bit w.act 31 then fenceBegin d k else d) k else (if bit w.act 31 then fenceBegin d k else d) := by
  have hoff : Reg.HBM_STK_CTRL k % 0x4000 = 0x100 := by unfold Reg.HBM_STK_CTRL; omega
  unfold applyReg
  rw [hoff]
  rfl

theorem applyReg_blkWorld : applyReg d who 0x02 0 Reg.SIT_BLK_WORLD w = rgPut d Reg.SIT_BLK_WORLD ((w.new ||| 0x9C) &&& 0xFFFFFE) := rfl
theorem applyReg_topCtrl : applyReg d who 0x01 0 Reg.TOP_CTRL w = topCtrl (rgPut d Reg.TOP_CTRL w.new) w.act := rfl

end

end Sys2Proof.Machine
end

section
/-! PROOFS. Posted writes run (R516): POSTED_WRITE_DONE carries out the write that waits. -/

namespace Sys2Proof.Machine

/-! ## POSTED_WRITE_DONE -/

/-- The device whose block takes the next write. -/
def postedCleared (d : Dev) (base : Nat) : Dev := { d with bus := { d.bus with posted := tset none d.bus.posted base none } }

/-- The requester of a write that waits. -/
def postedReq (p : Posted) : Req := if p.mgmt then .mgmt else .host

theorem postedDone_of_some {d : Dev} {addr : Nat} {p : Posted} (h : postedAt d (blkBase addr) = some p) :
    postedDone d addr = regWrite (postedCleared d (blkBase addr)) (postedReq p) p.addr p.data.toNat p.unlocked := by
  unfold postedDone
  rw [h]
  rfl

theorem postedAt_cleared (d : Dev) (base : Nat) : postedAt (postedCleared d base) base = none := tget_tset_self none d.bus.posted base none

theorem exec_postedWriteDone (addr : BitVec 28) (s : State) : exec (.postedWriteDone addr) s = actReg (fun d => postedDone d addr.toNat) s := rfl

/-- The write that waits has run, whatever it did, and the block is free. -/
theorem postedAt_postedDone {d : Dev} {addr : Nat} {p : Posted} (h : postedAt d (blkBase addr) = some p) : postedAt (postedDone d addr) (blkBase addr) = none := by
  rw [postedDone_of_some h]
  exact (regWrite_left ..).free _ (postedAt_cleared ..)

/-! ## BLK_UNLOCK and BLK_CTRL of a posted block -/

theorem blkBase_idem (a : Nat) : blkBase (blkBase a) = blkBase a := by unfold blkBase; omega

theorem postedUnlock_only {d e : Dev} {base : Nat} (h : OnlyRegs [Reg.BLK_STATUS base] (postedCleared d base) e) :
    OnlyRegs [Reg.BLK_STATUS base] d { e with bus := d.bus } :=
  ⟨congrArg (fun x : Dev => { x with bus := d.bus }) h.1, h.2⟩

/-! ## The words of the registers -/

/-- What LINK_CTRL takes of a written word. -/
structure LinkCtrlWord (v : Nat) (w : Wr) : Prop where
  loop : bits w.new 27 25 = bits v 27 25
  en : bits w.new 31 31 = bits v 31 31
  prbs : bits w.new 24 24 = bits v 24 24
  retrain : bit w.act 29 = bit v 29

theorem linkCtrlWord {l : Nat} (hl : l < 128) (old v : Nat) : LinkCtrlWord v (wordWrite linkCtrlFlds old v true true) where
  loop := (wordWrite_posted (linkCtrl_posted hl) (f := ⟨27, 25, .rw, false, false, 0x0⟩) (by decide) old v).1
  en := (wordWrite_posted (linkCtrl_posted hl) (f := ⟨31, 31, .rw, false, false, 0x0⟩) (by decide) old v).1
  prbs := (wordWrite_posted (linkCtrl_posted hl) (f := ⟨24, 24, .rw, false, false, 0x0⟩) (by decide) old v).1
  retrain := bit_eq_of_bits_eq (wordWrite_posted (linkCtrl_posted hl) (f := ⟨29, 29, .trig, false, false, 0x0⟩) (by decide) old v).2

/-- What a register of two commands takes of a written word: it keeps its own and hands the commands on. -/
theorem wordWrite_twoTrig (old v : Nat) : (wordWrite twoTrigFlds old v true true).new = old
    ∧ bit (wordWrite twoTrigFlds old v true true).act 31 = bit v 31 ∧ bit (wordWrite twoTrigFlds old v true true).act 30 = bit v 30 :=
  ⟨by simp [wordWrite, fldWrite],
    bit_eq_of_bits_eq (wordWrite_posted topCtrl_posted (f := ⟨31, 31, .trig, true, true, 0x0⟩) (by decide) old v).2,
    bit_eq_of_bits_eq (wordWrite_posted topCtrl_posted (f := ⟨30, 30, .trig, true, true, 0x0⟩) (by decide) old v).2⟩

theorem wordWrite_blkWorld {old v : Nat} (ho : old < 2 ^ 32) (hv : v < 2 ^ 32) : (wordWrite blkWorldFlds old v true true).new = v := by
  have hput : putBits old 31 0 (bits v 31 0) = v := by
    rw [putBits_eq _ _ (by decide)]
    simp only [bits, Nat.shiftRight_zero, Nat.sub_zero, pow_zero, Nat.mul_one, Nat.mod_one, Nat.add_zero, Nat.mod_mod]
    rw [Nat.div_eq_of_lt ho, Nat.zero_mul, Nat.zero_add]
    exact Nat.mod_eq_of_lt hv
  simp [wordWrite, fldWrite, hput]

theorem bits_one_of_testBit {v i : Nat} (h : v.testBit i = true) : bits v i i = 1 := of_decide_eq_true ((testBit_eq_bits v i).symm.trans h)
theorem bits_zero_of_testBit {v i : Nat} (h : v.testBit i = false) : bits v i i = 0 := by
  have hlt := bits_lt v i i
  have hne := of_decide_eq_false ((testBit_eq_bits v i).symm.trans h)
  have hone : i + 1 - i = 1 := by omega
  rw [hone] at hlt
  omega

/-! ## What the write of each register comes to -/

section
variable {d : Dev} {who : Req} {v : Nat} (hs : reqSecure d who = true)
include hs

theorem regWrite_linkCtrl {l : Nat} (hl : l < 128) : ∃ w, LinkCtrlWord v w ∧ regWrite d who (Reg.LINK_CTRL l) v true = linkCtrlWrite d l w.new w.act :=
  ⟨_, linkCtrlWord hl _ v, (regWrite_posted (linkCtrl_posted hl) hs v).trans (applyReg_linkCtrl ..)⟩

theorem regWrite_linkExpect {l : Nat} (hl : l < 128) : ∃ n, bits n 23 0 = bits v 23 0 ∧ regWrite d who (Reg.LINK_EXPECT l) v true = linkExpectWrite d l n :=
  ⟨_, (wordWrite_posted (linkExpect_posted hl) (f := ⟨23, 0, .rw, false, false, 0x0⟩) (by decide) _ v).1,
    (regWrite_posted (linkExpect_posted hl) hs v).trans (applyReg_linkExpect ..)⟩

theorem regWrite_stackCtrl {k : Nat} (hk : k < 16) : regWrite d who (Reg.HBM_STK_CTRL k) v true =
    if bit v 30 then unfence (if bit v 31 then fenceBegin d k else d) k else (if bit v 31 then fenceBegin d k else d) := by
  obtain ⟨-, h31, h30⟩ := wordWrite_twoTrig (rg d (Reg.HBM_STK_CTRL k)) v
  rw [regWrite_posted (stackCtrl_posted hk) hs v, applyReg_stackCtrl, h31, h30]

theorem regWrite_blkWorld (hv : v < 2 ^ 32) : regWrite d who Reg.SIT_BLK_WORLD v true = rgPut d Reg.SIT_BLK_WORLD ((v ||| 0x9C) &&& 0xFFFFFE) := by
  rw [regWrite_posted blkWorld_posted hs v, applyReg_blkWorld, wordWrite_blkWorld (rg_lt ..) hv]

theorem regWrite_topCtrl : ∃ act, bit act 31 = bit v 31 ∧ bit act 30 = bit v 30
    ∧ regWrite d who Reg.TOP_CTRL v true = topCtrl (rgPut d Reg.TOP_CTRL (rg d Reg.TOP_CTRL)) act := by
  obtain ⟨hnew, h31, h30⟩ := wordWrite_twoTrig (rg d Reg.TOP_CTRL) v
  refine ⟨_, h31, h30, ?_⟩
  rw [regWrite_posted topCtrl_posted hs v, applyReg_topCtrl, hnew]

end

/-! ## TOP_CTRL (R528, R447) -/

/-- A register written with what it holds. -/
theorem rg_rgPut_own (d : Dev) (a r : Nat) : rg (rgPut d a (rg d a)) r = rg d r := by
  by_cases h : r = a
  · rw [h, rg_rgPut_self, Nat.mod_eq_of_lt (rg_lt ..)]
  · exact rg_rgPut_ne d _ h

theorem topCtrl_halt {d : Dev} {act : Nat} (h30 : bit act 30 = true) (h31 : bit act 31 = false) : topCtrl d act = haltAction d := by
  unfold topCtrl
  dsimp only
  rw [if_pos h30, if_neg (by rw [h31]; decide)]

theorem topCtrl_reset {d : Dev} {act : Nat} (h31 : bit act 31 = true) : topCtrl d act = fabricReset (if bit act 30 then haltAction d else d) := if_pos h31

theorem halted_haltAction (d : Dev) : halted (haltAction d) = true := fbit_fset_self _ _ 1 rfl (by decide)
theorem rg_haltAction (d : Dev) {r : Nat} (h : r ≠ Reg.REF_STATUS) : rg (haltAction d) r = rg d r := rg_fset_ne _ _ _ h

/-- What a reset of the fabric leaves (R567). -/
structure FabricReset (d e : Dev) : Prop where
  halt : halted e = false
  busy : resetBusy e = true
  cause : rg e Reg.TOP_RESET_CAUSE = 2
  ready : fbit e Reg.TOP_STATUS Fd.TOP_STATUS_ready = false
  bell : bellState e = 0
  now : e.clk.now = 0
  seq : e.seq = Dev.reset.seq
  rte : e.rte = Dev.reset.rte
  tm : e.tm = Dev.reset.tm
  cmd : e.cmd = Dev.reset.cmd
  ckp : e.ckp = Dev.reset.ckp
  lnk : e.lnk = Dev.reset.lnk
  src : e.ref.src = []
  regs : ∀ a, 0x4000 ≤ a → a < 0x10000 → rg e a = rg d a
  log : e.log = d.log
  hbm : e.mem.hbm = d.mem.hbm
  fw : e.sit.fw = d.sit.fw
  events : e.sit.events = d.sit.events
  regions : ∀ i, i ≠ 1 → i ≠ 2 → i ≠ 4 → i ≠ 5 → regionAt e i = regionAt d i
  dead : ∀ q, q < 272 → deskState d q = 5 → deskState e q = 5

theorem fabricReset_reset (d : Dev) : FabricReset d (fabricReset d) := by
  have hc := fabricReset_contents d
  have hshow := fabricReset_shows d
  have hhalt := halted_fabricReset d
  have hbell := bellState_fabricReset d
  have hregs (a : Nat) (h : 0x4000 ≤ a) (h' : a < 0x10000) : rg (fabricReset d) a = rg d a := (rg_fabricReset d (.inl ⟨h, h'⟩)).trans (if_pos h')
  have hregion (i : Nat) := @regionAt_fabricReset d i
  have hdead (q : Nat) := @fabricReset_dead d q
  generalize fabricReset d = e at *
  simp only [contents, contentsReset, Prod.mk.injEq] at hc
  obtain ⟨hseq, hrte, htm, hcmd, hckp, hlnk, hsrc, hnow, hlog, hhbm, -, hsit, -⟩ := hc
  obtain ⟨hcause, hready, hbusy⟩ := hshow
  exact ⟨hhalt, hbusy, hcause, hready, hbell, hnow, hseq, hrte, htm, hcmd, hckp, hlnk, hsrc, hregs, hlog, hhbm, by rw [hsit]; rfl, by rw [hsit]; rfl,
    fun i h1 h2 h4 h5 => hregion i ⟨h1, h2, h4, h5⟩, fun q hq h => hdead q hq h⟩

/-- A device that differs in the registers of TOP and the referee's status alone is reset to the same. -/
theorem FabricReset.of_regs {d x e : Dev} (h : FabricReset x e) (hr : ∀ a, a ≠ Reg.REF_STATUS → rg x a = rg d a) (hm : x.mem = d.mem) (hl : x.log = d.log)
    (hsit : x.sit = d.sit) : FabricReset d e :=
  { h with
    regs := fun a ha ha' => (h.regs a ha ha').trans (hr a (by unfold Reg.REF_STATUS; omega))
    log := h.log.trans hl
    hbm := h.hbm.trans (congrArg (·.hbm) hm)
    fw := h.fw.trans (congrArg (·.fw) hsit)
    events := h.events.trans (congrArg (·.events) hsit)
    regions := fun i h1 h2 h4 h5 => (h.regions i h1 h2 h4 h5).trans (regionAt_congr (congrArg (·.regions) hm) i)
    dead := fun q hq hd => h.dead q hq ((deskState_of_rg (hr _ (desk_status_ne q (by decide)))).trans hd) }

/-- TOP_CTRL written with the halt alone, and with the reset. -/
theorem regWrite_topCtrl_halt {d : Dev} {who : Req} {v : Nat} (hs : reqSecure d who = true) (h30 : bit v 30 = true) (h31 : bit v 31 = false) :
    halted (regWrite d who Reg.TOP_CTRL v true) = true ∧ ∀ r, r ≠ Reg.REF_STATUS → rg (regWrite d who Reg.TOP_CTRL v true) r = rg d r := by
  obtain ⟨act, ha31, ha30, hw⟩ := regWrite_topCtrl hs (v := v)
  rw [hw, topCtrl_halt (ha30.trans h30) (ha31.trans h31)]
  exact ⟨halted_haltAction _, fun r hr => (rg_haltAction _ hr).trans (rg_rgPut_own ..)⟩

theorem regWrite_topCtrl_reset {d : Dev} {who : Req} {v : Nat} (hs : reqSecure d who = true) (h31 : bit v 31 = true) :
    FabricReset d (regWrite d who Reg.TOP_CTRL v true) := by
  obtain ⟨act, ha31, -, hw⟩ := regWrite_topCtrl hs (v := v)
  rw [hw, topCtrl_reset (ha31.trans h31)]
  cases bit act 30 with
  | true =>
    exact (fabricReset_reset _).of_regs (fun a ha => (rg_haltAction _ ha).trans (rg_rgPut_own ..)) ((fset_mem ..).trans (rgPut_mem ..)) ((fset_log ..).trans (rgPut_log ..))
      ((fset_sit ..).trans (rgPut_sit ..))
  | false => exact (fabricReset_reset _).of_regs (fun a _ => rg_rgPut_own ..) (rgPut_mem ..) (rgPut_log ..) (rgPut_sit ..)

theorem rg_blkWorld {d : Dev} (v : Nat) : rg (rgPut d Reg.SIT_BLK_WORLD ((v ||| 0x9C) &&& 0xFFFFFE)) Reg.SIT_BLK_WORLD = (v ||| 0x9C) &&& 0xFFFFFE :=
  (rg_rgPut_self ..).trans (Nat.mod_eq_of_lt (Nat.lt_of_le_of_lt Nat.and_le_right (by decide)))

/-- Settles O56: a posted block takes a write (busWrite_posted); what waits runs through regWrite, which leaves the other waiting writes
alone (regWrite_left) and comes to what its register does (regWrite_linkCtrl and its kin). -/
theorem postedWritesRun : Obligations.PostedWritesRun := by
  unfold Obligations.PostedWritesRun
  refine ⟨?taken, ?run, ?acts⟩
  case taken =>
    intro s who v l k c a d base hbus hs hc
    obtain ⟨hr, hexec⟩ := exec_posted (s := s) hc
    obtain ⟨hfree, hwait⟩ := exec_posted_taken hbus hs hr hexec
    refine ⟨fun hnone => ?_, hwait⟩
    obtain ⟨e, he, hw, hu, ho, hregs, hother⟩ := hfree hnone
    exact ⟨e, he, hw, hu, ho, fun r hr => hother r (by simpa using hr), hregs⟩
  case run =>
    intro s addr p d base who ha hp
    have hdone := postedDone_of_some hp
    refine ⟨postedDone d addr.toNat, ?_, postedAt_postedDone hp, fun b inst hb _ => ⟨fun haddr hkey => ?_, fun haddr hv => ?_⟩⟩
    · rw [exec_postedWriteDone]
      exact actReg_of_eq ha rfl
    · have hbase : blkOf addr.toNat = some (b, inst) := (blkOf_congr (blkBase_idem _)).symm.trans hb
      obtain ⟨hunlocked, honly⟩ := unlockWrite_key (postedCleared d base) who addr.toNat
      have hkey' : p.data.toNat = 0xC1A55E5A := ofNat_key.mp hkey
      rw [hdone, haddr, regWrite_unlock hbase p.data.isLt, hkey']
      exact ⟨hunlocked, postedUnlock_only honly⟩
    · have hbase : blkOf addr.toNat = some (b, inst) := (blkOf_congr (blkBase_idem _)).symm.trans hb
      have hclear (r : Nat) := rg_cntClear (postedCleared d base) b.kind inst base r
      rw [hdone, haddr, regWrite_cntClear hbase hv]
      exact ⟨fun r hr hcnt => (hclear r).trans (if_pos ⟨hr, hcnt⟩), fun r hno => (hclear r).trans (if_neg hno)⟩
  case acts =>
    intro s addr p d v hbus hp hs hu
    have hdone := postedDone_of_some hp
    rw [hu] at hdone
    have hs' : reqSecure (postedCleared d (blkBase addr.toNat)) (postedReq p) = true := hs
    refine ⟨postedDone d addr.toNat, ?_, fun l hl haddr => ?ctrl, fun l hl haddr hstep hheld hpeer => ?expect, fun k hk haddr => ?stack, fun haddr => ?world, fun haddr => ?top⟩
    · rw [exec_postedWriteDone]
      exact actReg_of_eq hbus.1 rfl
    case ctrl =>
      obtain ⟨w, ⟨hloop, hen, hprbs, hact⟩, hw⟩ := regWrite_linkCtrl (v := v) hs' hl
      rw [hdone, haddr, hw]
      refine ⟨fun h1 _ h3 h4 h5 _ _ h8 => ?_, fun h1 h2 => ?_, fun h1 h3 h => ?_, fun hc => ?_, fun hc h2 h3 h4 h5 => ?_, fun h => ?_⟩
      · exact linkCtrlWrite_enable (d := postedCleared d _) (hloop.trans h1) (hen.trans (bits_one_of_testBit h3)) h4 h5 (hact.trans h8)
      · exact linkCtrlWrite_disable (hloop.trans h1) (hen.trans (bits_zero_of_testBit h2))
      · rw [← hloop] at h1 h3 ⊢
        exact linkCtrlWrite_loop h1 h3 h
      · exact (fget_linkCtrlWrite_prbs ..).trans ((if_neg (by rw [show linkCarries (postedCleared d _) l = false from hc]; decide)).trans hprbs)
      · exact ⟨(fget_linkCtrlWrite_prbs ..).trans (if_pos hc),
          linkCtrlWrite_serving (d := postedCleared d _) hc (hloop.trans h3) (hen.trans (bits_one_of_testBit h2)) h5 (hact.trans h4)⟩
      · exact linkCtrlWrite_retrain (d := postedCleared d _) (hact.trans h)
    case expect =>
      obtain ⟨n, hn, hw⟩ := regWrite_linkExpect (v := v) hs' hl
      rw [hdone, haddr, hw]
      exact linkExpectWrite_released (d := postedCleared d _) hstep hheld (hpeer.trans hn.symm)
    case stack =>
      have hw := regWrite_stackCtrl (v := v) hs' hk
      rw [hdone, haddr, hw]
      refine ⟨fun h31 h30 hf hr he => ?_, fun h31 h30 hf ht hr => ?_⟩
      · have h31' : bit v 31 = true := h31
        rw [if_neg (by rw [bit, h30]; decide), if_pos h31']
        exact stkState_fenceBegin hk hf hr he
      · have h30' : bit v 30 = true := h30
        rw [if_pos h30', if_neg (by rw [bit, h31]; decide)]
        exact stkState_unfence (d := postedCleared d _) hf ht hr
    case world =>
      rw [hdone, haddr, regWrite_blkWorld hs' p.data.isLt]
      exact ⟨rg_blkWorld _, fun r hr => rg_rgPut_ne _ _ hr⟩
    case top =>
      rw [hdone, haddr]
      refine ⟨fun h30 h31 => regWrite_topCtrl_halt hs' h30 h31, fun h31 => ?_⟩
      obtain ⟨h1, h2, h3, h4, h5, h6, h7, h8, h9, h10, h11, h12, h13, h14, h15, h16, h17, h18, h19, h20⟩ := regWrite_topCtrl_reset hs' (v := v) h31
      exact ⟨h1, h2, h3, h4, h5, h6, h7, h8, h9, h10, h11, h12, h13, h14, h15, h16, h17, h18, h19, h20⟩

end Sys2Proof.Machine
end

section
/-! PROOFS. What settles leaves the referee's windows alone (R445 to R447): whether an action runs is the same before and after. -/

namespace Sys2Proof.Machine

namespace BusKept

theorem of_left {l : Nat} {d e : Dev} (h : LinkLeft l d e) : BusKept d e := ⟨h.bus, h.windows⟩

theorem event (d : Dev) (cls kind : Nat) (what : List Nat) (data : Option (List Byte)) : BusKept d (event d cls kind what data) := by
  have hrecord (r : List Byte) : BusKept d (eventAppended d r) := of_regs rfl rfl
  rw [event_eq]
  split
  · exact hrecord _
  · have he := hrecord (eventRecord d cls kind what data)
    generalize eventAppended d (eventRecord d cls kind what data) = e at he
    refine he.trans ?_
    unfold eventLost
    split
    · refine ((bump (a := Reg.SIT_EVT_OVERWRITE_CNT) e 1 (by decide)).trans ?_).trans (of_outer (OuterKept.raise _ _))
      exact of_regs rfl rfl
    · exact bump e 1 (by decide)

/-! ## Fences (R447) -/

theorem dynMod (d : Dev) (l : Nat) (f : LinkDyn → LinkDyn) : BusKept d (dynMod d l f) := of_regs rfl rfl

theorem linkFence (d : Dev) (l : Nat) : BusKept d (linkFence d l) := by
  exact (dynMod d l _).trans (of_left (linkStop_left _ l (by decide) (by decide)))

theorem flashPut (d : Dev) (c : Nat) (x : Option Flash) : BusKept d (flashPut d c x) := of_regs rfl rfl

theorem xferEnd (d : Dev) (c : Nat) (t : Transfer) (good : Bool) : BusKept d (xferEnd d c t good) := by
  unfold Machine.xferEnd
  split
  · exact of_outer (OuterKept.replyLate ..)
  · split
    · exact of_regs rfl rfl
    · exact refl d

theorem flashError (d : Dev) (c : Nat) : BusKept d (flashError d c) := by
  unfold Machine.flashError
  split
  · split
    · exact refl d
    · exact ((flashPut ..).trans (foldl _ _ fun e t => xferEnd e c t false)).trans (unitFault _ _ _ (by unfold Reg.RSV_FAULT; omega))
  · exact refl d

theorem flashFence (d : Dev) (r : Nat) : BusKept d (flashFence d r) := by
  refine foldl _ _ fun e x => ?_
  split
  · split
    · exact flashError ..
    · exact refl e
  · exact refl e

theorem drainEntry (d : Dev) (k : FtKind) (u : Nat) : BusKept d (drainEntry d k u) := of_regs rfl rfl

theorem iconvFence (d : Dev) (l : Nat) : BusKept d (iconvFence d l) :=
  have hmark : BusKept d { d with int := { d.int with iFenced := tset false d.int.iFenced l true } } := of_regs rfl rfl
  hmark.trans (drainEntry _ .iconv l)

theorem econvFence (d : Dev) (l : Nat) : BusKept d (econvFence d l) := of_regs rfl rfl

theorem engineFence (d : Dev) (e : Nat) : BusKept d (engineFence d e) := by
  unfold Machine.engineFence
  split
  · exact refl d
  · exact (fset d _ 1 (by unfold Reg.LSN_ENG_STATUS; omega)).trans (drainEntry ..)

theorem fenceUnit (d : Dev) (n : Nat) : BusKept d (fenceUnit d n).1 := by
  unfold Machine.fenceUnit
  split
  · exact linkFence ..
  split
  · exact flashFence ..
  split
  · exact benchDesk ..
  split
  · exact iconvFence ..
  split
  · exact econvFence ..
  split
  · exact engineFence ..
  split
  · exact hudFence ..
  split
  · exact fenceBegin ..
  · exact refl d

/-! ## The actions of the severities (R446, R447) -/

theorem ctrlStored (d : Dev) (l new v : Nat) : BusKept d (ctrlStored d l new v) := by
  have hctrl : ∀ a, WindowReg a → a ≠ Reg.LINK_CTRL l := fun a ha => by unfold Reg.LINK_CTRL; omega
  have hword : BusKept d (rgPut d (Reg.LINK_CTRL l) (ctrlWord d l new)) := ⟨rgPut_bus .., fun a ha => rg_rgPut_ne d _ (hctrl a ha)⟩
  unfold Machine.ctrlStored
  dsimp only
  split
  · have hcount : ¬WindowReg (Reg.LINK_RETRAIN_CNT l) := by unfold Reg.LINK_RETRAIN_CNT; omega
    have hstatus : ¬WindowReg (Reg.LINK_STATUS l) := by unfold Reg.LINK_STATUS; omega
    exact ((hword.trans (bump _ 1 hcount)).trans (fset _ _ _ hstatus)).trans (dynMod ..)
  · exact hword

theorem linkRetrain (d : Dev) (l : Nat) : BusKept d (linkRetrain d l) := (ctrlStored ..).trans (of_left (linkCtrlWrite_left ..))

theorem handlerRun (d : Dev) (n : Nat) (deg : Bool) : BusKept d (handlerRun d n deg) := by
  unfold Machine.handlerRun
  extract_lets e
  have hev : BusKept d e := event ..
  clear_value e
  split
  · exact hev
  split
  · exact hev.trans (linkRetrain ..)
  split
  · exact hev.trans (of_outer (OuterKept.emit ..))
  · exact hev

theorem handle (d : Dev) (n : Nat) (deg : Bool) : BusKept d (handle d n deg) := by
  unfold Machine.handle
  split
  · exact of_regs rfl rfl
  · exact handlerRun ..

theorem degradeAction (d : Dev) (n : Nat) : BusKept d (degradeAction d n) := (fset d _ 1 (by decide)).trans (handle ..)

theorem haltAction (d : Dev) : BusKept d (haltAction d) := fset d _ 1 (by decide)

theorem refNote (d : Dev) (n ev : Nat) : BusKept d (refNote d n ev) := by
  unfold Machine.refNote
  dsimp only
  split
  · exact (of_outer (OuterKept.refWrite ..)).trans (of_outer (OuterKept.raise1 ..))
  · exact of_outer (OuterKept.refWrite ..)

theorem severityAction (d : Dev) (n v : Nat) : BusKept d (severityAction d n v) := by
  unfold Machine.severityAction
  split
  · exact handle ..
  · exact degradeAction ..
  · have hfence := fenceUnit d n
    generalize Machine.fenceUnit d n = r at hfence
    dsimp only
    split
    · exact hfence.trans (of_outer (OuterKept.srcPut ..))
    · exact degradeAction d n
  · exact (refNote d n 7).trans (haltAction (Machine.refNote d n 7))
  · exact refl d

/-! ## Windows that end (R445) -/

theorem windowEnd (d : Dev) (n : Nat) : BusKept d (windowEnd d n) := by
  unfold Machine.windowEnd
  extract_lets c e
  have he : BusKept d e := of_outer (OuterKept.srcPut ..)
  clear_value e
  split
  · exact refl d
  split
  · have hcount : BusKept d (Machine.bump e Reg.REF_ACTION_CNT) := he.trans (bump e 1 (by decide))
    exact (hcount.trans (refNote _ n 3)).trans (severityAction _ n c.sev)
  · exact he.trans (refNote ..)

theorem dueRun (fuel : Nat) (d : Dev) : BusKept d (dueRun fuel d) := by
  induction fuel generalizing d with
  | zero => exact refl d
  | succ fuel ih =>
    unfold Machine.dueRun
    split
    · exact refl d
    · refine trans (trans ?_ (windowEnd ..)) (ih _)
      exact of_regs rfl rfl

end BusKept

end Sys2Proof.Machine
end

section
/-! PROOFS. What is swept at the end of a command (R463, R470, R417, R496) leaves the regions and the ends of the buckets alone, unless a bucket is
retired, which is then the last that ended. -/

namespace Sys2Proof.Machine

/-- The last bucket that ended was retired. -/
def Retired (d : Dev) : Prop := ∃ l k, d.seq.outcomes = l ++ [(k, false)]

/-- The regions and how the buckets ended. -/
def endPart (d : Dev) : List (Nat × Region) × List (Nat × Bool) := (d.mem.regions, d.seq.outcomes)

/-- The referee's windows are the same, and so are the regions and the ends of the buckets where the last that ended was not retired. -/
structure Swept (d e : Dev) : Prop where
  windows : ∀ a, WindowReg a → rg e a = rg d a
  ends : endPart e = endPart d ∨ Retired e

theorem retired_congr {d e : Dev} (h : endPart e = endPart d) (hd : Retired d) : Retired e := by
  obtain ⟨l, k, hl⟩ := hd
  exact ⟨l, k, (congrArg (·.2) h).trans hl⟩

namespace Swept

theorem refl (d : Dev) : Swept d d := ⟨fun _ _ => rfl, .inl rfl⟩

theorem trans {d e f : Dev} (h : Swept d e) (g : Swept e f) : Swept d f := by
  refine ⟨fun a ha => (g.windows a ha).trans (h.windows a ha), ?_⟩
  rcases g.ends with hg | hg
  · exact h.ends.imp hg.trans (retired_congr hg)
  · exact .inr hg

theorem of_still {d e : Dev} (h : StillKept d e) : Swept d e := ⟨fun a ha => h.reg a (.inr ha), .inl (by rw [endPart, h.regions, h.outcomes, endPart])⟩

theorem of_outer {d e : Dev} (h : OuterKept d e) (hp : endPart e = endPart d) : Swept d e := ⟨h.windows, .inl hp⟩

/-- A change beside the registers, the regions and the ends. -/
theorem of_rest {d e : Dev} (hr : e.regs = d.regs) (hp : endPart e = endPart d) : Swept d e := ⟨fun a _ => rg_congr hr a, .inl hp⟩

theorem foldl {α : Type} (l : List α) {f : Dev → α → Dev} (d : Dev) (h : ∀ e x, Swept e (f e x)) : Swept d (l.foldl f d) :=
  List.foldlRecOn (motive := Swept d) l f (refl d) fun e he x _ => he.trans (h e x)

/-- A run of steps that may fail, as far as it succeeds. -/
theorem foldlBind {α : Type} (l : List α) {f : α → Dev → Option Dev} {d : Dev} (h : ∀ x e e', f x e = some e' → Swept e e') :
    ∀ e, l.foldl (fun o x => o.bind (f x)) (some d) = some e → Swept d e := by
  refine List.foldlRecOn (motive := fun o : Option Dev => ∀ e, o = some e → Swept d e) l _ ?_ fun o ho x _ e he => ?_
  · rintro e ⟨⟩
    exact refl d
  · obtain ⟨e₁, h₁, h₂⟩ := Option.bind_eq_some_iff.mp he
    exact (ho e₁ h₁).trans (h x e₁ e h₂)

theorem fset (d : Dev) {a : Nat} (f : Nat × Nat) (v : Nat) (h : ¬WindowReg a) : Swept d (fset d a f v) :=
  ⟨fun _ hb => rg_fset_ne d f v fun he => h (he ▸ hb), .inl (by rw [endPart, fset_mem, fset_seq, endPart])⟩

theorem rgPut (d : Dev) {a : Nat} (v : Nat) (h : ¬WindowReg a) : Swept d (rgPut d a v) :=
  ⟨fun _ hb => rg_rgPut_ne d v fun he => h (he ▸ hb), .inl rfl⟩

theorem rg64Put (d : Dev) {a : Nat} (v : Nat) (h : ¬WindowReg a) (h4 : ¬WindowReg (a + 4)) : Swept d (rg64Put d a v) := (rgPut d _ h).trans (rgPut _ _ h4)

theorem bump (d : Dev) {a : Nat} (k : Nat) (h : ¬WindowReg a) : Swept d (bump d a k) :=
  ⟨fun _ hb => rg_bump_ne d k fun he => h (he ▸ hb), .inl rfl⟩

theorem raise (d : Dev) (n : Nat) : Swept d (raise d n) := of_still (.raise ..)

theorem unitFault (d : Dev) {a : Nat} (f : Nat × Nat) (n : Nat) (h : ¬WindowReg a) : Swept d (unitFault d a f n) := (fset d f 1 h).trans (raise ..)

/-! ## The log (R266, R272) -/

theorem regionWrite (d : Dev) (r : Region) (o : Nat) (bs : List Byte) : Swept d (regionWrite d r o bs) := by
  unfold Machine.regionWrite
  refine (foldl _ d fun e i => ?_).trans (foldl _ _ fun e i => ?_)
  all_goals
    dsimp only
    split
  · exact refl e
  · exact of_rest rfl rfl
  · exact of_rest rfl rfl
  · exact refl e

theorem replayCompare (d : Dev) (e : List Byte) : Swept d (replayCompare d e) := by
  unfold Machine.replayCompare
  split
  · exact refl d
  · dsimp only
    split
    · exact refl d
    · next i _ =>
      have hdone : Swept d { d with bell := { d.bell with repDone := i :: d.bell.repDone } } := of_rest rfl rfl
      split
      · exact hdone
      · have hcount := hdone.trans (bump (a := Reg.REPLAY_DIFF_CNT) _ 1 (by decide))
        split
        · exact hcount
        · exact ((hcount.trans (rg64Put _ _ (by decide) (by decide))).trans (fset _ _ _ (by decide))).trans (unitFault _ _ _ (by decide))

theorem append (d : Dev) (typ ctx epoch step : Nat) (body : List Byte) (time : Option (List Byte)) :
    Swept d (append d typ ctx epoch step body time) := by
  unfold Machine.append
  extract_lets seq e d1 lap off need d2 r d3 d4 fill src d5 mark
  have hd2 : Swept d d2 := (rg64Put d _ (by decide) (by decide)).trans (replayCompare ..)
  split
  · exact ((hd2.trans (bump _ _ (by decide))).trans (fset _ _ _ (by decide))).trans (raise ..)
  · have hd3 : Swept d d3 := by
      refine trans ?_ (bump _ _ (by decide))
      split
      · refine trans ?_ (regionWrite ..)
        split
        · exact hd2.trans (regionWrite ..)
        · exact hd2
      · exact hd2
    have hd5 : Swept d d5 := by
      dsimp only [d5]
      split <;> exact hd3.trans (of_rest rfl rfl)
    split
    · exact hd5.trans (raise ..)
    · exact hd5

theorem recFlush (d : Dev) : Swept d (recFlush d) := by
  unfold Machine.recFlush
  have hrest : Swept d { d with cmd := { d.cmd with recs := (recSplit d.cmd.recs).2 } } := of_rest rfl rfl
  refine hrest.trans (foldl _ _ fun e r => ?_)
  split
  · exact append ..
  · exact refl e

theorem recSettle (d : Dev) (r : ReplyTo) (status : Option Nat) : Swept d (recSettle d r status) := by
  unfold Machine.recSettle
  split
  · next i _ =>
    have hmark : Swept d { d with cmd := { d.cmd with recs := d.cmd.recs.modify i (fun x => { x with status := some status }) } } := of_rest rfl rfl
    exact hmark.trans (recFlush _)
  · exact refl d

theorem replyLate (d : Dev) (r : ReplyTo) (status : Nat) (fields : List Byte) : Swept d (replyLate d r status fields) :=
  (recSettle ..).trans (of_still (.reply ..))

/-! ## Passes that leave (R137, R213) -/

theorem bucketMod (d : Dev) (k : Nat) (f : Bucket → Bucket) : Swept d (bucketMod d k f) := by
  unfold Machine.bucketMod
  split
  · exact of_rest rfl rfl
  · exact refl d

theorem inkEntry (d : Dev) (r : InkRec) : Swept d (inkEntry d r) := by
  unfold Machine.inkEntry
  dsimp only
  split
  · exact refl d
  · exact append ..

theorem markSkipped (d : Dev) (k att p n : Nat) : Swept d (markSkipped d k att p n) := by
  unfold Machine.markSkipped
  split
  · exact refl d
  · extract_lets e
    have he : Swept d e := (bump d n (by decide)).trans (bucketMod ..)
    clear_value e
    split
    · exact he
    · extract_lets s f
      have hf : Swept d f := he.trans (of_rest rfl rfl)
      clear_value f
      split
      · exact hf.trans (inkEntry ..)
      · exact hf

theorem sendPass {d e : Dev} {k att st corr kind vc dst : Nat} {mark : Option (Nat × Nat)} {blocks : List (List Byte)}
    (h : sendPass d k att st corr kind vc dst mark blocks = some e) : Swept d e := by
  unfold Machine.sendPass at h
  extract_lets f r at h
  split at h
  · cases h
    exact of_still ((StillKept.poolAlloc ..).trans (.sendFrom ..))
  · cases h

/-- A copy of a pass at an egress, or its buffer's share given back. -/
def copySent (d : Dev) (k att st corr kind vc src : Nat) (mark : Nat × Nat) (blocks : List (List Byte)) (buf p dst : Nat) : Dev :=
  match localPick d p dst vc with
  | none => bufDrop d buf st
  | some e =>
    let o := takeEcho d (mkPass kind vc dst src k att (mcFor d dst) blocks)
    let r := flowFence o.2 p e o.1
    slotsFor r.2 corr st (egLink e / 8) (fLen (mkPass kind vc dst src k att (mcFor d dst) blocks)) (.egress e ⟨o.1, 0, 2, 0, some buf, r.1, 0, true, none, some mark⟩)

theorem copySent_swept (d : Dev) (k att st corr kind vc src : Nat) (mark : Nat × Nat) (blocks : List (List Byte)) (buf p dst : Nat) :
    Swept d (copySent d k att st corr kind vc src mark blocks buf p dst) := by
  unfold copySent
  split
  · exact of_still (.bufDrop ..)
  · next e _ =>
    extract_lets o r
    have ho : StillKept d o.2 := .takeEcho ..
    clear_value o
    have hr : StillKept d r.2 := ho.trans (.of_still rfl rfl)
    clear_value r
    exact of_still (hr.trans (.slotsFor ..))

theorem multicast {d e : Dev} {k att st corr kind vc src : Nat} {mark : Nat × Nat} {into : List (Nat × List Nat)} {blocks : List (List Byte)}
    (h : multicast d k att st corr kind vc src mark into blocks = some e) : Swept d e := by
  unfold Machine.multicast at h
  extract_lets live dead e1 n len r nb at h
  have he1 : Swept d e1 := foldl _ _ fun f x => markSkipped f ..
  clear_value e1 n
  split at h
  · cases h
    exact he1
  · split at h
    · cases h
    · cases h
      have hr : Swept e1 r.2 := of_still (.poolAlloc ..)
      clear_value r
      have hnb : Swept r.2 nb.2 := of_rest rfl rfl
      clear_value nb
      exact ((he1.trans hr).trans hnb).trans (foldl _ _ fun f x => foldl _ _ fun g dst => copySent_swept g k att st corr kind vc src mark blocks nb.1 x.1 dst)

theorem multicastAll {d e : Dev} {k att st corr kind vc : Nat} {mark : Nat × Nat} {into : List (Nat × List Nat)} {blocks : List (List Byte)}
    (h : multicastAll d k att st corr kind vc mark into blocks = some e) : Swept d e := foldlBind _ (fun _ _ _ hx => multicast hx) e h

theorem pubSend {d e : Dev} {k att c : Nat} {blocks : List (List Byte)} (h : pubSend d k att c blocks = some e) : Swept d e := by
  unfold Machine.pubSend at h
  extract_lets g1 g o at h
  have ho : ∀ f, o = some f → Swept d f := fun f hf => multicastAll hf
  clear_value o
  cases o with
  | none =>
    have hnone (l : List (Nat × Nat)) (g : Nat × Nat → Dev → Option Dev) : l.foldl (fun o x => o.bind (g x)) none = none :=
      List.foldlRecOn (motive := fun o => o = none) l _ rfl fun o ho x _ => by rw [ho]; rfl
    exact absurd (h.symm.trans (hnone ..)) (by simp)
  | some f =>
    exact (ho f rfl).trans (foldlBind _ (fun w d₁ d₂ hw => foldlBind _ (fun ps d₃ d₄ hp => sendPass hp) d₂ hw) e h)

theorem quotaRefused (d : Dev) : Swept d (quotaRefused d) := (bump d 1 (by decide)).trans (of_still (.raiseOnce ..))

end Swept
end Sys2Proof.Machine
end

section
/-! PROOFS. The sweeps at the end of a command (R463, R470, R417, R496), one by one: the host's frames, the partner's streams, the norms, the checkpoint,
the runs and the flash. -/

namespace Sys2Proof.Machine

/-! ## What is owed -/

theorem owedSend_none {d : Dev} (n : Nat) (ho : d.lsn.owed = []) : owedSend (n + 1) d = d := by
  have hbody (b : Nat.below (motive := fun _ => Dev → Dev) (n + 1)) : owedSend._f (n + 1) b d = d := by
    unfold owedSend._f
    obtain ⟨send, hsend⟩ : ∃ f, f = sendPass := ⟨_, rfl⟩
    rw [← hsend]
    simp only [ho]
  rw [owedSend_eq]
  obtain ⟨F, hF⟩ : ∃ F, F = owedSend._f := ⟨_, rfl⟩
  rw [← hF] at hbody ⊢
  exact (congrFun (Nat.brecOn.eq (n + 1) F) d).trans (hbody _)

theorem owedSend_refused {d : Dev} {o : Owed} {rest : List Owed} (n : Nat) (ho : d.lsn.owed = o :: rest)
    (hs : sendPass d o.key o.att 48 o.corr 3 3 o.dst none o.blocks = none) : owedSend (n + 1) d = quotaRefused d := by
  have hbody (b : Nat.below (motive := fun _ => Dev → Dev) (n + 1)) : owedSend._f (n + 1) b d = quotaRefused d := by
    unfold owedSend._f
    obtain ⟨send, hsend⟩ : ∃ f, f = sendPass := ⟨_, rfl⟩
    rw [← hsend] at hs ⊢
    simp only [ho, hs]
  rw [owedSend_eq]
  obtain ⟨F, hF⟩ : ∃ F, F = owedSend._f := ⟨_, rfl⟩
  rw [← hF] at hbody ⊢
  exact (congrFun (Nat.brecOn.eq (n + 1) F) d).trans (hbody _)

namespace Swept

/-! ## Frames of the host (R496) -/

theorem slotTaken (d : Dev) (cls g j : Nat) (rest : List Nat) : Swept d (slotTaken d cls g j rest) :=
  (of_still (.poolAlloc d cls 0 g)).trans (of_rest rfl rfl)

theorem hostPump (n : Nat) (d : Dev) : Swept d (hostPump n d) := by
  induction n generalizing d with
  | zero => exact refl d
  | succ n ih =>
    rw [hostPump_succ]
    generalize Machine.hostPump n = next at ih
    unfold pumpOn
    split
    · exact refl d
    · next j rest _ =>
      extract_lets s b cls g
      split
      · exact refl d
      · exact ((slotTaken d cls g j rest).trans (of_still (.hostFrameSent _ _ cls g))).trans (ih _)

/-! ## The partner's streams (R463, R464) -/

theorem mirOutPut (d : Dev) (k : Nat) (x : MirOut) : Swept d (mirOutPut d k x) := of_rest rfl rfl

theorem mirMove (n : Nat) (d : Dev) : Swept d (mirMove n d) := by
  induction n generalizing d with
  | zero => exact refl d
  | succ n ih =>
    unfold Machine.mirMove
    split
    · exact refl d
    · next e rest _ =>
      have hbox : Swept d { d with ckp := { d.ckp with outbox := rest } } := of_rest rfl rfl
      exact (hbox.trans (mirOutPut ..)).trans (ih _)

theorem mirSendOut (n k : Nat) (d : Dev) : Swept d (mirSendOut n k d) := by
  induction n generalizing d with
  | zero => exact refl d
  | succ n ih =>
    unfold Machine.mirSendOut
    extract_lets o
    split
    · exact refl d
    · extract_lets f
      split
      · exact refl d
      · exact ((mirOutPut ..).trans (of_still (.originate ..))).trans (ih _)

theorem mirFlush (d : Dev) : Swept d (mirFlush d) := by
  unfold Machine.mirFlush
  split
  · exact refl d
  · exact (mirMove ..).trans (foldl _ _ fun e x => mirSendOut (x.2.segs.length + 1) x.1 e)

theorem mirPush (d : Dev) (k off : Nat) (bytes : List Byte) (last : Bool) : Swept d (mirPush d k off bytes last) := of_rest rfl rfl

theorem wholePut (d : Dev) (stream i : Nat) (b : Bool) : Swept d (wholePut d stream i b) := of_rest rfl rfl

theorem exportsOwed (d : Dev) : Swept d (exportsOwed d) := by
  unfold Machine.exportsOwed
  split
  · exact refl d
  · extract_lets ks parts e
    have he : Swept d e := of_rest rfl rfl
    clear_value e
    exact he.trans (foldl _ _ fun f n => mirPush ..)

theorem partnerTo (d : Dev) (s : Nat) : Swept d (partnerTo d s) := fset d _ s (by decide)

/-- The streams of a run that are sent whole. -/
theorem runWhole (d : Dev) (r : Run) :
    Swept d (if r.st = .running then [1, 2, 3].foldl (fun d st => Machine.wholePut d st r.shard true) d else d) := by
  split
  · exact foldl _ d fun e st => wholePut e st r.shard true
  · exact refl d

/-- A partner's mirror that has to fill again. -/
def fullNoted (d e : Dev) : Dev := { e with ckp := { d.ckp with wasFull := true } }

theorem fullNoted_swept (d e : Dev) : Swept e (fullNoted d e) := of_rest rfl rfl

/-- The runs in progress are marked to be sent whole. -/
def runsWhole (d : Dev) : Dev :=
  d.lsn.runs.foldl (fun d r => if r.st = .running then [1, 2, 3].foldl (fun d st => Machine.wholePut d st r.shard true) d else d) d

/-- A refill in steps. -/
theorem refillCheck_eq (d : Dev) : refillCheck d =
    if partnerState d = 1 ∧ d.ckp.outbox.isEmpty ∧ d.ckp.dirty.isEmpty ∧ d.ckp.outs.all (fun e => e.2.segs.isEmpty) then
      (runsWhole (fullNoted d (Machine.partnerTo d 2))).seq.buckets.foldl (fun d e => match e.2 with
        | some b => match b.shard with | some i => Machine.wholePut d 4 i true | none => d
        | none => d) (runsWhole (fullNoted d (Machine.partnerTo d 2)))
    else d := by
  unfold refillCheck
  rfl

theorem refillCheck (d : Dev) : Swept d (refillCheck d) := by
  have hruns : Swept d (runsWhole (fullNoted d (Machine.partnerTo d 2))) := ((partnerTo d 2).trans (fullNoted_swept ..)).trans (foldl _ _ runWhole)
  rw [refillCheck_eq]
  split
  · refine hruns.trans (foldl _ _ fun g x => ?_)
    split
    · split
      · exact wholePut ..
      · exact refl g
    · exact refl g
  · exact refl d

/-! ## Norms (R216) -/

theorem normPut (d : Dev) (i : Nat) (n : Norm) : Swept d (normPut d i n) := of_rest rfl rfl

theorem runMod (d : Dev) (i : Nat) (f : Run → Run) : Swept d (runMod d i f) := of_rest rfl rfl

/-- The conversions lie beside the ends of the buckets. -/
theorem convPut (d : Dev) (l : List ConvPass) : Swept d { d with seq := { d.seq with conv := l } } := of_rest rfl rfl

theorem normSend (d : Dev) (i : Nat) : Swept d (normSend d i) := by
  unfold Machine.normSend
  extract_lets n all es st blk
  split
  · exact refl d
  · split
    · exact refl d
    · split
      · exact refl d
      · extract_lets +onlyGivenNames f
        clear_value f
        have ha : Swept d (Machine.poolAlloc d 0 0 (gransOf (fLen f))).2 := of_still (StillKept.poolAlloc d 0 0 _)
        generalize Machine.poolAlloc d 0 0 (gransOf (fLen f)) = a at ha
        obtain ⟨paid, e⟩ := a
        extract_lets a p taken parts
        clear_value p
        split
        · exact ha
        · exact (ha.trans (convPut e _)).trans (normPut ..)

theorem normReady (d : Dev) (r : Run) : Swept d (normReady d r) := by
  unfold Machine.normReady
  split
  · exact refl d
  · split
    · exact refl d
    · split
      · exact refl d
      · extract_lets e parts
        have he : Swept d e := runMod ..
        clear_value e
        exact he.trans (of_rest rfl rfl)

theorem normSweep (d : Dev) : Swept d (normSweep d) := by
  unfold Machine.normSweep
  split
  · exact refl d
  · exact (foldl _ _ normSend).trans (foldl _ _ normReady)

/-! ## The flash and the checkpoint (R417, R470) -/

theorem flashPut (d : Dev) (c : Nat) (x : Option Flash) : Swept d (flashPut d c x) := of_rest rfl rfl

theorem emit (d : Dev) (w : Wire) : Swept d (emit d w) := of_rest rfl rfl

theorem flashSend (n c : Nat) (d : Dev) : Swept d (flashSend n c d) := by
  induction n generalizing d with
  | zero => exact refl d
  | succ n ih =>
    unfold Machine.flashSend
    split
    · exact refl d
    · next x _ =>
      split
      · exact refl d
      · extract_lets gap
        split
        · exact ((flashPut ..).trans (emit ..)).trans (ih _)
        · split
          · exact ((flashPut ..).trans (emit ..)).trans (ih _)
          · exact refl d

theorem flashPump (d : Dev) : Swept d (flashPump d) := by
  refine foldl _ _ fun e x => ?_
  split
  · exact flashSend ..
  · exact refl e

theorem xferQueue {d e : Dev} {c : Nat} {x : Flash} {t : Transfer} (h : xferQueue d c x t = .ok e) : Swept d e := by
  unfold Machine.xferQueue at h
  split at h
  · cases h
  · split at h
    · cases h
    · cases h
      exact flashPut ..

/-- The checkpoint in progress lies beside the regions. -/
theorem runningPut (d : Dev) (k : Option Ckpt) : Swept d { d with ckp := { d.ckp with running := k } } := of_rest rfl rfl

theorem ckptFlash (d : Dev) (k : Ckpt) : Swept d (ckptFlash d k) := by
  unfold Machine.ckptFlash
  refine List.foldlRecOn (motive := fun a : Nat × Dev => Swept d a.2) _ _ (refl d) fun a ha c _ => ?_
  split
  · split
    · next e he => exact (ha.trans (xferQueue he)).trans (runningPut ..)
    · exact ha.trans (runningPut ..)
  · exact ha.trans (runningPut ..)
  · exact ha

theorem durable (d : Dev) (k : Ckpt) : Swept d (durable d k) := rg64Put d _ (by decide) (by decide)

theorem ckptEnd (d : Dev) (k : Ckpt) : Swept d (ckptEnd d k) := by
  unfold Machine.ckptEnd
  extract_lets parts e say more f
  have he : Swept d e := runningPut ..
  have hsay (g : Dev) (st : Nat) : Swept g (say g st) := by
    dsimp only [say]
    split
    · exact replyLate ..
    · exact refl g
  clear_value e say
  have hf : Swept d f := he.trans (of_rest rfl rfl)
  clear_value f
  split
  · exact (he.trans (raise ..)).trans (hsay ..)
  · refine trans ?_ (hsay ..)
    split
    · exact hf
    · exact hf.trans (durable ..)

/-- The staging of a checkpoint takes its log and its manifest. -/
theorem staged (d : Dev) (g : Region) (o : Nat) (bytes m : List Byte) : Swept d (Machine.regionWrite (Machine.regionWrite d g o bytes) g 0 m) :=
  (regionWrite ..).trans (regionWrite ..)

theorem ckptSweep (d : Dev) : Swept d (ckptSweep d) := by
  unfold Machine.ckptSweep
  split
  · exact refl d
  · next k _ =>
    split
    · exact refl d
    · split
      · split
        · extract_lets es logG bytes first k' e parts f h
          have he : Swept d e := by
            dsimp only [e]
            split
            · exact refl d
            · exact staged ..
          clear_value e
          have hf : Swept d f := he.trans (runningPut ..)
          clear_value f
          have hh : Swept d h := hf.trans (ckptFlash ..)
          clear_value h
          split
          · exact hf.trans (ckptEnd ..)
          · split
            · split
              · exact hh.trans (ckptEnd ..)
              · exact hh
            · exact hh
        · exact ckptEnd ..
        · exact refl d
      · split
        · exact ckptEnd ..
        · exact refl d

/-! ## Runs (R213, R216) -/

theorem shardPut (d : Dev) (i : Nat) (s : Shard) : Swept d (shardPut d i s) := of_rest rfl rfl

theorem owedSend (n : Nat) (d : Dev) : Swept d (owedSend n d) := by
  induction n generalizing d with
  | zero => exact refl d
  | succ n ih =>
    cases ho : d.lsn.owed with
    | nil =>
      rw [owedSend_none n ho]
      exact refl d
    | cons o rest =>
      cases hs : Machine.sendPass d o.key o.att 48 o.corr 3 3 o.dst none o.blocks with
      | none =>
        rw [owedSend_refused n ho hs]
        exact quotaRefused d
      | some e =>
        have hrest : Swept e { e with lsn := { e.lsn with owed := rest } } := of_rest rfl rfl
        rw [owedSend_succ_of_paid n ho hs]
        exact ((sendPass hs).trans hrest).trans (ih _)

/-- Where the last bucket that ended was retired, only the windows count. -/
theorem of_retired {d e : Dev} (h : OuterKept d e) (hr : Retired e) : Swept d e := ⟨h.windows, .inr hr⟩

theorem retired_outcome (d : Dev) (k : Nat) : Retired (Machine.outcome d k false) := ⟨_, k, rfl⟩

theorem endPart_seq {d e : Dev} (h : e.seq.outcomes = d.seq.outcomes) (hd : Retired d) : Retired e := by
  obtain ⟨l, k, hl⟩ := hd
  exact ⟨l, k, h.trans hl⟩

theorem outcomes_dropMetro (d : Dev) (b : Bucket) : (dropMetro d b).seq.outcomes = d.seq.outcomes := by
  unfold dropMetro
  split <;> rfl

theorem outcomes_lingerSet (d : Dev) (k : Nat) (b : Option Bucket) : (lingerSet d k b).seq.outcomes = d.seq.outcomes := rfl

/-- A retired bucket is the last that ended. -/
theorem retire (d : Dev) (k : Nat) : Swept d (retire d k) := by
  unfold Machine.retire
  split
  · exact refl d
  · next b _ =>
    extract_lets parts e f
    have he : OuterKept d e := .of_inner rfl rfl
    clear_value e
    have hset : OuterKept e (bucketSet e k none) := .of_inner rfl rfl
    have hf : OuterKept d f := ((he.trans hset).trans (.dropScales ..)).trans (.outcome ..)
    have hr : Retired f := retired_outcome ..
    clear_value f
    have hlinger (g : Dev) (x : Option Bucket) : OuterKept g (lingerSet g k x) := .of_inner rfl rfl
    split
    · split
      · next o _ =>
        exact of_retired ((hf.trans (.dropMetro f o)).trans (hlinger ..)) (endPart_seq (outcomes_lingerSet ..) (endPart_seq (outcomes_dropMetro f o) hr))
      · exact of_retired (hf.trans (hlinger ..)) (endPart_seq (outcomes_lingerSet ..) hr)
    · exact of_retired (hf.trans (.dropMetro f b)) (endPart_seq (outcomes_dropMetro f b) hr)

theorem pubRetire (d : Dev) (k : Nat) : Swept d (pubRetire d k) := by
  unfold Machine.pubRetire
  split
  · exact refl d
  · split
    · exact refl d
    · exact retire ..

theorem skipTry (n : Nat) (d : Dev) (i : Nat) : Swept d (skipTry n d i) := by
  induction n generalizing d with
  | zero => exact refl d
  | succ n ih =>
    unfold Machine.skipTry
    split
    · split
      · exact refl d
      · extract_lets fmt span u lost w bs
        clear_value lost bs
        split
        · exact refl d
        · split
          · exact quotaRefused d
          · next e he =>
            have hcount (j k : Nat) (s : Shard) : Swept e (Machine.shardPut (Machine.bump e Reg.LSN_PUB_BLOCK_CNT j) k s) := (bump e j (by decide)).trans (shardPut ..)
            exact (((pubSend he).trans (hcount ..)).trans (runMod ..)).trans (ih _)
    · exact refl d

theorem pubTry (d : Dev) (i row : Nat) : Swept d (pubTry d i row) := by
  unfold Machine.pubTry
  split
  · split
    · exact refl d
    · extract_lets fmt span u rows got ws el fl bs
      clear_value got bs
      split
      · exact refl d
      · split
        · exact quotaRefused d
        · next e he =>
          have hcount (j k : Nat) (s : Shard) : Swept e (Machine.shardPut (Machine.bump e Reg.LSN_PUB_BLOCK_CNT j) k s) := (bump e j (by decide)).trans (shardPut ..)
          exact ((pubSend he).trans (hcount ..)).trans (runMod ..)
  · exact refl d

theorem mirWhole (d : Dev) (i : Nat) (l : List Nat) : Swept d (mirWhole d i l) := by
  unfold Machine.mirWhole
  split
  · exact refl d
  · refine foldl _ d fun e st => ?_
    extract_lets x bs
    clear_value bs
    split
    · exact refl e
    · exact (mirPush ..).trans (wholePut ..)

theorem runEnd (d : Dev) (r : Run) : Swept d (runEnd d r) := by
  unfold Machine.runEnd
  split
  · exact refl d
  · extract_lets parts e f
    have he : Swept d e := of_rest rfl rfl
    clear_value e
    have hf : Swept d f := by
      dsimp only [f]
      split
      · exact he.trans (mirWhole ..)
      · exact he
    clear_value f
    exact hf.trans (pubRetire ..)

/-- The buckets that have published are retired. -/
def inkedRetired (d : Dev) : Dev :=
  d.seq.buckets.foldl (fun d e => match e.2 with
    | some b => if b.st = .inked then Machine.pubRetire d e.1 else d
    | none => d) d

theorem inkedRetired_swept (d : Dev) : Swept d (inkedRetired d) := by
  refine foldl _ d fun e x => ?_
  split
  · split
    · exact pubRetire ..
    · exact refl e
  · exact refl e

/-- What a run publishes and, once it is done, its end. -/
def runSwept (d : Dev) (r : Run) : Dev :=
  let d := if r.st = .skip then (match shardAt d r.shard with | some s => Machine.skipTry ((shardSpan d s).2 / 64 + 1) d r.shard | none => d)
    else r.pubs.foldl (fun d x => Machine.pubTry d r.shard x.1) d
  match runOf d r.shard with
  | some r => Machine.runEnd d r
  | none => d

theorem runSwept_swept (d : Dev) (r : Run) : Swept d (runSwept d r) := by
  unfold runSwept
  extract_lets e
  have he : Swept d e := by
    dsimp only [e]
    split
    · split
      · exact skipTry ..
      · exact refl d
    · exact foldl _ d fun f x => pubTry f r.shard x.1
  clear_value e
  split
  · exact he.trans (runEnd ..)
  · exact he

/-- The sweep of the runs in steps. -/
theorem runSweep_eq (d : Dev) : Machine.runSweep d = (inkedRetired (Machine.owedSend d.lsn.owed.length d)).lsn.runs.foldl runSwept (inkedRetired (Machine.owedSend d.lsn.owed.length d)) := by
  unfold Machine.runSweep
  rfl

theorem runSweep (d : Dev) : Swept d (runSweep d) := by
  rw [runSweep_eq]
  exact ((owedSend ..).trans (inkedRetired_swept _)).trans (foldl _ _ runSwept_swept)

end Swept
end Sys2Proof.Machine
end

section
/-! PROOFS. The regions of the device after a reset (R374): a link that starts again may take a region from 1 to 7 with the bucket that it aborts, and
where no action of the referee is enabled nothing that settles hides that. -/

namespace Sys2Proof.Machine

/-! ## Without an action -/

/-- No window of the referee has its action enabled. -/
def NoAction (d : Dev) : Prop := ∀ i, i < 4 → fbit d (Reg.REF_WINDOW i) Fd.REF_WINDOW_act_en = false

theorem windowReg_window {i : Nat} (h : i < 4) : WindowReg (Reg.REF_WINDOW i) := by
  unfold WindowReg Reg.REF_WINDOW
  omega

theorem noAction_congr {d e : Dev} (h : ∀ a, WindowReg a → rg e a = rg d a) : NoAction e ↔ NoAction d := by
  have hbit (i : Nat) (hi : i < 4) : fbit e (Reg.REF_WINDOW i) Fd.REF_WINDOW_act_en = fbit d (Reg.REF_WINDOW i) Fd.REF_WINDOW_act_en := by
    rw [fbit, h _ (windowReg_window hi), fbit]
  exact forall₂_congr fun i hi => by rw [hbit i hi]

/-- Beyond the four severities nothing acts. -/
theorem severityAction_high (d : Dev) (n : Nat) {v : Nat} (h : 4 < v) : severityAction d n v = d := by
  unfold severityAction
  split
  · omega
  · omega
  · omega
  · omega
  · rfl

theorem endPart_refOnly {d e : Dev} (h : RefOnly d e) : endPart e = endPart d := by
  obtain ⟨rs, rf, rfl⟩ := h
  rfl

namespace Swept

theorem refNote (d : Dev) (n ev : Nat) : Swept d (refNote d n ev) := ⟨(BusKept.refNote d n ev).windows, .inl (endPart_refOnly (refNote_only d n ev))⟩

theorem windowEnd {d : Dev} (h : NoAction d) (n : Nat) : Swept d (windowEnd d n) := by
  unfold Machine.windowEnd
  extract_lets c e
  have he : Swept d e := of_outer (.srcPut ..) rfl
  have hno : NoAction e := (noAction_congr he.windows).mpr h
  clear_value e
  split
  · exact refl d
  split
  · next hact =>
    have hhigh : 4 < c.sev := by
      by_contra hlow
      exact absurd (hno (c.sev - 1) (by omega)) (by rw [hact]; decide)
    rw [severityAction_high _ n hhigh]
    exact (he.trans (bump (a := Reg.REF_ACTION_CNT) e 1 (by decide))).trans (refNote ..)
  · exact he.trans (refNote ..)

theorem dueRun (fuel : Nat) {d : Dev} (h : NoAction d) : Swept d (dueRun fuel d) := by
  induction fuel generalizing d with
  | zero => exact refl d
  | succ fuel ih =>
    unfold Machine.dueRun
    split
    · exact refl d
    · next n rest _ =>
      have hrest : Swept d { d with ref := { d.ref with due := rest } } := of_rest rfl rfl
      have hend := windowEnd ((noAction_congr hrest.windows).mpr h) n
      exact (hrest.trans hend).trans (ih ((noAction_congr (hrest.trans hend).windows).mpr h))

/-- What lies between the two runs of the windows. -/
def sweeps (d : Dev) : Dev :=
  Machine.flashPump (Machine.ckptSweep (Machine.runSweep (Machine.normSweep
    (Machine.hostPump 256 (Machine.refillCheck (Machine.mirFlush (Machine.exportsOwed d)))))))

theorem settle_eq (d : Dev) : settle d = pinFault (drainSweep (Machine.dueRun 1100 (sweeps (Machine.dueRun 1100 d)))) := rfl

theorem sweeps_swept (d : Dev) : Swept d (sweeps d) :=
  (((((((exportsOwed d).trans (mirFlush _)).trans (refillCheck _)).trans (hostPump 256 _)).trans (normSweep _)).trans (runSweep _)).trans (ckptSweep _)).trans
    (flashPump _)

theorem pinned (d : Dev) : Swept d (pinFault (drainSweep d)) := of_rest rfl rfl

/-- What settles leaves the referee's windows alone. -/
theorem settle_windows (d : Dev) {a : Nat} (ha : WindowReg a) : rg (settle d) a = rg d a := by
  rw [settle_eq, (pinned _).windows a ha, (BusKept.dueRun 1100 _).windows a ha, (sweeps_swept _).windows a ha, (BusKept.dueRun 1100 d).windows a ha]

/-- Where no action is enabled, what settles takes a region only from a bucket that it retires. -/
theorem settle {d : Dev} (h : NoAction (settle d)) : Swept d (settle d) := by
  have hno : NoAction d := (noAction_congr fun _ ha => settle_windows d ha).mp h
  have hdue : Swept d (Machine.dueRun 1100 d) := dueRun 1100 hno
  have hsweeps : Swept d (sweeps (Machine.dueRun 1100 d)) := hdue.trans (sweeps_swept _)
  rw [settle_eq]
  exact (hsweeps.trans (dueRun 1100 ((noAction_congr hsweeps.windows).mpr hno))).trans (pinned _)

end Swept

/-! ## A region that a restart takes -/

/-- The seven regions of the device, in place. -/
def sevenRegions : List (Nat × Region) := [1, 2, 3, 4, 5, 6, 7].map fun i => (i, { Region.free with valid := true })

/-- A pending bucket whose Metropolis sums lie in region 3. -/
def regionBucket : Bucket := { inkedBucket with st := .pending, mReg := 3 }

/-- A group that fans out to port 5, with that bucket open in its next epoch. -/
def regionHolder : Dev :=
  { Dev.reset with
    mem := { Dev.reset.mem with regions := sevenRegions }
    seq := { Dev.reset.seq with groups := [(0, { Group.free with st := 1, fanout := 32 })], buckets := [(65536, some regionBucket)] } }

/-- Link 0 carries port 5. -/
def portFive (d : Dev) : Dev :=
  fset (fset (fset (fset (fset d (Reg.LINK_CTRL 0) Fd.LINK_CTRL_en 1) (Reg.LINK_STATUS 0) Fd.LINK_STATUS_step 9) (Reg.LINK_PORT 0) Fd.LINK_PORT_member 1)
    (Reg.LINK_PORT 0) Fd.LINK_PORT_port 5) (Reg.PORT_CFG 5) Fd.PORT_CFG_en 1

/-- No action of the referee is enabled. -/
def actionsOff (d : Dev) : Dev := [0, 1, 2, 3].foldl (fun d i => rgPut d (Reg.REF_WINDOW i) 0) d

/-- The device whose reset ends with that bucket open and link 0 in service. -/
def takenDev : Dev := fset (actionsOff (portFive regionHolder)) Reg.TOP_STATUS Fd.TOP_STATUS_reset_busy 1

theorem takenDev_ready : alive takenDev = true ∧ resetBusy takenDev = true ∧ (placeAll (fset takenDev Reg.TOP_STATUS Fd.TOP_STATUS_reset_busy 0)).2 = true := by
  decide +kernel

/-- The end of its reset restarts link 0: port 5 is fenced, the group's epoch advances, the bucket is aborted and region 3 goes with it. -/
theorem settle_takenDev : (∀ i, i < 4 → fbit (settle (fabricDone takenDev)) (Reg.REF_WINDOW i) Fd.REF_WINDOW_act_en = false)
    ∧ (settle (fabricDone takenDev)).seq.outcomes.getLast? = some (65536, true) ∧ (regionAt (settle (fabricDone takenDev)) 3).valid = false := by
  decide +kernel

theorem not_retired_of_last {d : Dev} {k : Nat} (h : d.seq.outcomes.getLast? = some (k, true)) : ¬Retired d := by
  rintro ⟨l, j, hl⟩
  rw [hl, List.getLast?_concat] at h
  cases h

/-- Whatever settles to what that device settles to is without region 3. -/
theorem region_taken {e : Dev} (h : settle e = settle (fabricDone takenDev)) : (regionAt e 3).valid = false := by
  obtain ⟨hno, hlast, hgone⟩ := settle_takenDev
  rw [← h] at hno hlast hgone
  have hends : endPart (settle e) = endPart e := (Swept.settle hno).ends.resolve_right (not_retired_of_last hlast)
  rw [regionAt, ← show (settle e).mem.regions = e.mem.regions from congrArg (·.1) hends]
  exact hgone

theorem exec_fabricResetDone (s : State) : exec .fabricResetDone s = act fabricDone s := rfl

/-- Two devices that one step answers settle to the same. -/
theorem settle_fabricResetDone {s : State} {e : Dev} (ha : alive s.dev = true) (h : exec .fabricResetDone s = .next (s.after e)) :
    settle e = settle (fabricDone s.dev) := by
  rw [exec_fabricResetDone, act_next ha] at h
  injection h with hafter
  exact (congrArg (·.dev) hafter).symm

/-- Refutes O59: regions 1 to 7 stand on `takenDev` when its reset ends, and region 3 is gone when it is ready. -/
theorem not_resetsStartTheDevice : ¬ Obligations.ResetsStartTheDevice := by
  unfold Obligations.ResetsStartTheDevice
  intro h
  obtain ⟨halive, hbusy, hplaced⟩ := takenDev_ready
  obtain ⟨hdone, _⟩ := h ⟨takenDev, []⟩
  obtain ⟨e, hexec, _, _, _, hvalid⟩ := (hdone halive hbusy).1 hplaced
  exact absurd (hvalid 3 (by decide) (by decide)) (by rw [region_taken (settle_fabricResetDone (s := ⟨takenDev, []⟩) halive hexec)]; decide)

end Sys2Proof.Machine
end
